-- ==== Sys2Proof/Word.lean ====
section
/-! DEFINITION. The widths every chapter of spec/ uses (00 R9, R10, R18) and the one shape of sparse tables. -/

namespace Sys2Proof

/-- One byte. -/
abbrev Byte := BitVec 8
/-- One 16-bit item. -/
abbrev Half := BitVec 16
/-- One setup register, F32, S32 or I32 word (R18, R154). -/
abbrev Word := BitVec 32
/-- One 64-bit item. -/
abbrev DWord := BitVec 64

/-- A sparse table keyed by number; the keys rise strictly. -/
abbrev Tab (α : Type) := List (Nat × α)

end Sys2Proof
end

