-- ==== Sys2Proof/Syntax.lean ====
section
/-! DEFINITION. The commands the block takes: one constructor of `Instr` per row of spec/opcode_table.json, with the operands
the environment supplies (log entry 1): register values with the Ramok port they arrive on, bytes the module reads from host
memory, messages received, and measured voltages, powers and times. Voltages are in units of 10 mV, times in timebase
sub-ticks (R281) unless the name says otherwise. -/

namespace Sys2Proof

/-- A core site: field, row, column (R148). -/
structure Site where
  field : Nat
  row   : Nat
  col   : Nat
  deriving DecidableEq, Repr

/-- What CORES' self tests found (R584). -/
structure CoresReport where
  cores       : List Site
  burins      : List (Nat × Nat)
  controllers : List Nat
  easels      : List Nat
  proofFailed : Bool
  oscFailed   : Bool
  deriving DecidableEq, Repr

/-- What training found on one channel (R296, R322): whether a module is there, is on the qualified list, trains at each
rate, and the eye margins at each rate. -/
structure ChannelTrain where
  present   : Bool
  qualified : Bool
  ok8800    : Bool
  ok8000    : Bool
  rd8800    : Nat
  wr8800    : Nat
  rd8000    : Nat
  wr8000    : Nat
  deriving DecidableEq, Repr

/-- The functions of R121, in the order R218 numbers them. -/
inductive ActFn where
  | identity | relu | leakyRelu | sigmoid | tanh | silu | gelu | softplus | exp | snake
  | gateTanhSigmoid | gateLinearSigmoid | gateProduct
  deriving DecidableEq, Repr

/-! ### The decoded work of strokes (R112 to R125, R178 to R194; log entry 8)

The spec gives strokes no encoding; `Config.strokeDecode` reads a stroke's code into the operations below. -/

/-- A place that a stroke's operation names: windows 0 to 7 are the job's own on the core, 8 to 15 its windows on the shared
read-only weight region, 16 its accumulator file; a byte offset in the window (R119, R129). -/
structure Loc where
  window : Nat
  off    : Nat
  deriving DecidableEq, Repr, Inhabited

/-- Row `row` of the `rows` rows of `len` elements that a step or tensor ID stores at a place (R162 to R164). -/
structure Operand where
  fmt  : Nat
  loc  : Loc
  rows : Nat
  len  : Nat
  row  : Nat
  deriving DecidableEq, Repr

/-- Logical coordinates of the first element an operation writes (R80 to R82): the job's row, the layer, the tensor, the step
counted from the first step of the row's chunk, the offset. -/
structure Coord where
  row    : Nat
  layer  : Nat
  tensor : Half
  step   : Nat
  offset : Nat
  deriving DecidableEq, Repr

/-- The partner tile of a gate: its first accumulator word, and the per-column scale and bias of its own columns (R120, R122). -/
structure Partner where
  acc   : Nat
  scale : Option Loc
  bias  : Option Loc
  deriving DecidableEq, Repr

/-- Steps 1 to 5 of a Wash program over a row of columns (R120); an absent step is skipped. Scale and bias are per-column F32
words. `consts` is one BF16 item for Leaky ReLU and one per column for Snake, in the weight image; `superScale` is the constant
that the layer declares there (R121, R123). -/
structure WashProg where
  scale    : Option Loc
  bias     : Option Loc
  residual : Option Operand
  partner  : Option Partner
  fn       : ActFn
  consts   : Loc
  clamp    : Option (Word × Word)
  superScale : Loc
  deriving DecidableEq, Repr

/-- Relations of the vector unit's compare (R124). -/
inductive Rel where
  | lt | le | eq
  deriving DecidableEq, Repr

/-- Element-wise operations of the vector unit (R124): the first row in F32, BF16 or I32, the others in F32 or I32 alone. -/
inductive VecOp where
  | add | mul | min | max | compare (r : Rel) | select
  | fma
  | shl | shr | and | or | xor
  | exp | log | recip | rsqrt | sin | cos
  deriving DecidableEq, Repr

/-- The part of a row's chunk a scan covers: the whole, or a half in split-chunk mode (R187). -/
inductive Span where
  | whole | first | second
  deriving DecidableEq, Repr

/-- The data word of a draw, as the graph declares it (R252): a constant, or bits [15:0] of elements so many bytes apart. -/
inductive DrawData where
  | const (w : Half)
  | from_ (l : Loc) (stride : Nat)
  deriving DecidableEq, Repr

/-- What a running stroke does. `row` numbers the job's rows; accumulators are words of the accumulator file. -/
inductive StrokeOp where
  /-- One output of a MAC tile: blocks `first` to `first + count − 1` of the reduction of an activation row with a weight row; the
  part's root goes into an accumulator word (R85, R86, R112 to R117, R165). -/
  | tile (a w : Operand) (first count acc : Nat) (at_ : Coord)
  /-- A partial root is sent to another core of the job (R117). -/
  | sendRoot (acc core dst : Nat)
  /-- The parent node of two parts, the lower one left; the root of the whole reduction takes its row scales (R115, R117). -/
  | combine (left right dst : Nat) (scales : Option (Operand × Operand)) (at_ : Coord)
  /-- Accumulator words, `rows` rows of n columns, through the Wash pipeline into Plate, in the layer's output format (R120 to R123,
  R162). -/
  | wash (n rows acc : Nat) (prog : WashProg) (at_ : Coord) (dst : Loc)
  /-- One vector-unit operation over n elements of format 6 (BF16), 7 (I32) or 8 (F32) (R124, R125). -/
  | vec (op : VecOp) (fmt n : Nat) (a b c dst : Loc) (at_ : Coord)
  /-- An activation or gate over n F32 words, with BF16 constants (R121, R124). -/
  | act (f : ActFn) (n : Nat) (a b consts dst : Loc) (at_ : Coord)
  /-- A sum of n words in the order of R85 and R87, of F32 or of I32. -/
  | sum (fmt n : Nat) (a dst : Loc) (at_ : Coord)
  /-- n elements of `width` bytes from, or to, the indices in a list of I32 words (R124). -/
  | gather (n width : Nat) (index base dst : Loc) (at_ : Coord)
  | scatter (n width : Nat) (index src base : Loc) (at_ : Coord)
  /-- A conversion of `rows` rows, from the operand's on, between two formats; a super-scale or row scale is given or computed (R162,
  R168, R174). -/
  | convert (src : Operand) (rows dstFmt : Nat) (dst : Loc) (given : Option Half) (stochastic : Bool) (at_ : Coord)
  /-- One series of a kind-3 or kind-4 layer: its inputs (a and b, p and q, b, or f) stand `stride` bytes apart step by step, and its
  outputs in S32 are written `outStride` apart (R180 to R188). -/
  | scan (row layer chan : Nat) (span : Span) (a b : Loc) (stride : Nat) (dst : Loc) (outStride : Nat)
  /-- The held steps of a kind-1 or kind-2 layer that step `step` of the chunk reads; inputs, or keys and values, of the chunk are
  step by step at `src` and `vals` (R178, R186, R192). -/
  | held (row layer step : Nat) (src vals dst : Loc)
  /-- The state of a kind-1 or kind-2 layer moves past the chunk (R186, R188). -/
  | advance (row layer : Nat) (src vals : Loc)
  /-- A kind-5 layer: contributions of each input step, k steps of F32 each, are added in order; its finished output steps (R178). -/
  | upsample (row layer stride : Nat) (src dst : Loc)
  /-- Override `k` that takes effect at a step of the row's chunk, and whether one does (R195, R414). -/
  | override (row layer step k : Nat) (dst : Loc)
  /-- Drop-out of n BF16 or F32 elements (R249). -/
  | dropout (fmt n : Nat) (a dst : Loc) (keep gain : Half) (at_ : Coord)
  /-- n raw draws, or n normal draws by transform (R124, R251). -/
  | draws (n : Nat) (dst : Loc) (data : DrawData) (at_ : Coord)
  | normal (n : Nat) (dst : Loc) (data : DrawData) (at_ : Coord)
  /-- The conditioning of a row's chunk, in BF16, is complete at a place (R52, R201). -/
  | condReady (row : Nat) (src : Loc)
  deriving DecidableEq, Repr

/-- What a save area's extent holds (R337): tensor, row (65,535 for none), kind, format, tree level, first step and steps, first
offset and offsets, node, link. -/
structure ExtentKey where
  tensor  : Nat
  row     : Nat
  kind    : Nat
  format  : Nat
  level   : Nat
  step    : Nat
  steps   : Nat
  offset  : Nat
  offsets : Nat
  node    : Nat
  link    : Nat
  deriving DecidableEq, Repr

/-- The checked units of a core (R139, R255, R291), and the router and the read path of its Plate (R553). -/
inductive CheckUnit where
  | array | blockClose | wash | vector | sequencer | semaphores | stipple | engines | router | platePath
  deriving DecidableEq, Repr

/-- What an uncorrectable word of a core's Plate or accumulator file holds (R131): an offset in a window of a job, its accumulators,
resident weights of a model and whether the voice library's line cannot be read either (R320), the Frame-boundary shadow of a job's rows, the second shadow of a Keep stream, or the system region. -/
inductive PlateWord where
  | window (job handle off : Nat)
  | accumulator (job : Nat)
  | weights (handle : Nat) (unread : Bool)
  | shadow (job : Nat)
  | second (stream : Nat)
  | system
  deriving DecidableEq, Repr

/-- The two counters of a semaphore pair (R133). -/
inductive Counter where
  | ready | room
  deriving DecidableEq, Repr

/-- The two engines of a core (R256). -/
inductive Engine where
  | tracer | scriber
  deriving DecidableEq, Repr

/-- What an adaptation job does next (R421, R177). -/
inductive AdaptPhase where
  /-- Checks at the start, with the bytes of the input buffer (R420). -/
  | start (input : List Byte)
  /-- An optimiser step ends; what it wrote went through the job's strokes and engines (R176, R177, R243). -/
  | optStep
  /-- The last step is done: the new voice model is created. -/
  | commit
  deriving DecidableEq, Repr

/-- How a running stroke ends: its offset in the Frame; the cycles it took before its first pass and while each pass was in progress
(R142, R352); the single-bit errors its reads corrected (R131). -/
structure StrokeEnd where
  at_       : Nat
  cycles    : List Nat
  corrected : Nat
  deriving DecidableEq, Repr

/-- An alignment symbol: the count of the Frame it opened, and the Folio's Season (R45, R474). -/
structure AlignMsg where
  counter : BitVec 48
  season  : Nat
  deriving DecidableEq, Repr

/-- An envelope's bytes, and whether the stream in it was Rendering at its source (R38, R489). -/
structure EnvelopeMsg where
  bytes     : List Byte
  rendering : Bool
  deriving DecidableEq, Repr

/-- The costs and identity an OFFER carries (R486 step 1, R522). -/
structure OfferMsg where
  transferId : DWord
  source     : Nat
  target     : Nat
  graphHash  : List Byte
  digest     : List Byte
  tid        : List Byte
  mck        : List Byte
  rate       : Nat
  keep       : Bool
  fill       : Bool
  hasLine    : Bool
  voicePending : Bool
  deriving DecidableEq, Repr

/-- A peer's hello on an Ihlaux port (R469). -/
structure HelloMsg where
  member  : Nat
  folioId : Half
  deriving DecidableEq, Repr

/-- A peer's half of the link key exchange (R509). -/
structure LinkKeyMsg where
  x448Pub  : List Byte
  nonce    : List Byte
  chain    : List Byte
  mFw      : List Byte
  mPol     : List Byte
  signature : List Byte
  serial   : BitVec 48
  deriving DecidableEq, Repr

/-- What a member tells the manager's directory: a stream opened, closed or under a Transfer; its capacity under each ceiling
of R60, its free Live cores, and the voices it holds, hot or with a job (R483); that it leaves (R471). -/
inductive DirReport where
  | opened (stream session rate : Nat) (keep fill : Bool)
  | closed (stream : Nat)
  | moving (stream : Nat) (on : Bool)
  | capacity (free : List Nat) (cores : Nat) (voices : List (List Byte × Bool × Bool))
  | left_
  deriving DecidableEq, Repr

/-- A Fill job that another member has moved here: its home's job, the clear images, and what its save area holds (R335, R482), with what
its output and scratch regions hold so far (R92, R304). `area` is the save area as it arrived, whose digest is checked (R338); `cores` is
the most cores that the job can be bound to. -/
structure OffloadMsg where
  home      : Nat
  homeJob   : Nat
  adapt     : List Byte
  target    : List Byte
  seed      : DWord
  key       : Word
  optStep   : Nat
  steps     : Nat
  workFrame : Nat
  cores     : Nat
  outBytes  : Nat
  output    : List Byte
  scratch   : List Byte
  area      : List Byte
  extents   : List (ExtentKey × List Byte)
  issued    : List Nat
  walks     : Tab (Nat × Nat × Nat)
  again     : List (Nat × Nat × Nat)
  deriving DecidableEq, Repr

/-- What happens of a job that is moved to another member (R482): the home moves it, the member takes it, runs its optimiser
steps and sends the output region back, the home receives that. -/
inductive OffloadAct where
  | move (member : Nat)
  | arrive (msg : OffloadMsg)
  | step
  | finish
  | returned (optStep : Nat) (output : List Byte)
  deriving DecidableEq, Repr

/-- Where an Almanac acknowledgement comes from (R544, R548). -/
inductive AckPath where
  | mailbox (mseq : Nat)
  | service
  deriving DecidableEq, Repr

/-- The commands. -/
inductive Instr where
  -- bring-up and supply
  | coldStart (volts : Nat)
  | resetHoldEnd (volts : Nat)
  | wake (ms : Nat)
  | verify (ms : Nat)
  | cores (ms : Nat) (report : CoresReport)
  | memory (ms : Nat) (chans : List ChannelTrain)
  | measure (ms : Nat)
  | hostReset (port : Nat) (value : Word)
  | supplyReset (volts : Nat)
  | supplyWarning (volts : Nat)
  | supplyWarningEnd (volts : Nat)
  | thermalTrip
  -- timebase and plan
  | sampleTick
  | frameTick (watts : Nat)
  | tallyWindowEnd
  | accountingIntervalEnd
  -- rings
  | kick (port : Nat) (value : Word)
  | doorbellRead (ring : Nat) (sqPi cqCi : Half) (hflags : Word)
  | descriptorFetch (ring : Nat) (slots : List (List Byte))
  -- descriptors
  | sessionOpen (ring seq : Nat) (request : List Byte)
  | sessionClose (ring seq : Nat)
  | modelLoad (ring seq : Nat) (list image : List Byte)
  | modelEvict (ring seq : Nat)
  | streamOpen (ring seq : Nat)
  | streamCtrl (ring seq : Nat)
  | featurePush (ring seq : Nat)
  | featurePacket (ring seq : Nat) (bytes : List Byte)
  | featurePushCommit (ring seq : Nat)
  | audioPull (ring seq : Nat)
  | audioDelivery (stream samples : Nat)
  | streamClose (ring seq : Nat)
  | adaptJob (ring seq : Nat) (phase : AdaptPhase)
  | transferOut (ring seq : Nat)
  | transferIn (ring seq : Nat)
  | transferPartnerTimeout (ring seq : Nat)
  | abort (ring seq : Nat)
  | fence (ring seq : Nat)
  | nop (ring seq : Nat)
  -- completions and ring control
  | completionWrite (ring : Nat)
  | cqStall (ring : Nat)
  | msixNotify (ring : Nat) (holdElapsed : Bool)
  | ringEnable (port ring : Nat) (value : Word)
  | ringResume (port ring : Nat) (value : Word) (sqPi cqCi : Half) (hflags : Word)
  | ramokLinkTrain (port lanes gen : Nat) (adapterReset : Bool)
  | ramokLinkLost (port : Nat)
  | maintenanceWrite (port addr width : Nat) (value : DWord)
  | eslFrameCntLoRead (port : Nat)
  | eslTimebaseCfgWrite (port : Nat) (value : Word)
  | eslRebind (port : Nat) (value : Word)
  | eslAcctCfgWrite (port : Nat) (value : Word)
  | pwrCapWrite (port : Nat) (value : Word)
  -- strokes, semaphores, cores
  | strokeIssue (field core job stroke : Nat)
  | safePoint (core : Nat) (report : StrokeEnd)
  | signal (core pair : Nat) (ctr : Counter) (n target : Nat)
  | remoteSignal (source target : Nat)
  | wait (core pair : Nat) (ctr : Counter) (n : Nat)
  | waitTimeout (core : Nat)
  | coreCheckFailure (core : Nat) (unit : CheckUnit)
  | coreTakeover (core spare : Nat)
  | coreSelfTest (core : Nat) (passed : Bool)
  | plateUncorrectable (core : Nat) (word : PlateWord)
  | plateScrub (core : Nat) (corrected : Bool)
  | flitCrcRetry (link flit : Nat)
  | meshLaneHalf (link : Nat)
  | fieldOut (field : Nat)
  | easelFailover (easel : Nat)
  | moduleFault (cause : Nat)
  -- engines and DRAM
  | engineEntryIssue (core : Nat) (engine : Engine) (job stroke entry part : Nat)
  | transferComplete (core : Nat) (engine : Engine)
  | chainGrant (core job stroke entry pred : Nat)
  | chainDataArrival (core : Nat)
  | dramService (channel : Nat)
  | dramCorrectedRead (channel addr : Nat)
  | dramUncorrectableRead (addr : Nat)
  | dramScrub (channel : Nat)
  | refresh (channel : Nat)
  -- residency, Frost and Thaw
  | promotion (handle : Nat)
  | demotion (handle : Nat)
  | frost (job : Nat) (live : List ExtentKey)
  | liveFrost (job : Nat)
  | thaw (job : Nat)
  | remoteReplyParked (job tag : Nat) (data : List Byte)
  | jobTearDown (job rule : Nat)
  | keepRestart (stream : Nat)
  -- Burin
  | sampleStart (unit : Nat)
  | sampleHandOff (unit at_ cycles : Nat)
  | outputStageWrite (stream : Nat)
  | sampleMirror (stream : Nat)
  | outputScriberPiece (stream : Nat)
  | burinTakeover (unit replacement : Nat)
  | burinContextMove (stream unit : Nat)
  -- audio lines
  | lineStart (port line dir : Nat) (value : Word)
  | runInComplete (line dir : Nat)
  | lineStop (port line dir : Nat) (value : Word)
  | runOutComplete (line dir : Nat)
  | groupStart (port group : Nat) (value : Word)
  | groupStop (port group : Nat) (value : Word)
  | audGroupFrameLoRead (port group : Nat)
  | driftSlip (line dir : Nat) (low : Bool)
  | clockStop (line dir : Nat)
  | fsGlitch (line dir : Nat) (bclks : Nat) (wrongLength : Bool)
  | rateOutOfRange (line dir : Nat) (rate : Half)
  | holdoverReturn (line dir : Nat)
  | captureWord (line dir slot : Nat) (bits : Word)
  | steeringUpdate (osc : Nat) (elapsedMs : Nat)
  | clkOscCfgWrite (port osc : Nat) (value : Word)
  | slotFlagClear (port line dir : Nat) (hold : Bool) (value : Word)
  -- Folio
  | join (port : Nat) (value : Word) (season : Nat) (counter : BitVec 48)
  | leave (port : Nat) (value : Word)
  | hello (port : Nat) (msg : HelloMsg)
  | linkKeyExchange (port : Nat) (msg : LinkKeyMsg)
  | groupKeyDelivery (gk : List Byte) (statement : List Byte)
  | alignmentSymbol (port : Nat) (symbol : AlignMsg) (offsetNs : Int) (delayNs : Nat)
  | alignmentLoss
  | counterAdvance (d : Nat)
  | detached
  | ihlauxPortTrain (port lanes : Nat)
  | ihlauxAuthFail (port : Nat)
  | fillReadTimeout (job tag : Nat)
  | fillOffload (job : Nat) (act : OffloadAct)
  | directoryReport (member : Nat) (report : DirReport)
  | placement (port : Nat) (value : Word)
  | offer (msg : OfferMsg)
  | accept (transferId : DWord)
  | envelope (msg : EnvelopeMsg)
  | imported (transferId : DWord) (source dest session : Nat)
  | owner (transferId : DWord) (destination : Bool)
  -- Proof, mailboxes, staging
  | policyLock (port : Nat) (value : Word)
  | commitSvn (port : Nat) (value : Word)
  | prfFwDigestSelWrite (port : Nat) (value : Word)
  | mailboxSend (master channel : Nat) (words : List Word)
  | mailboxLastWordRead (master channel word : Nat)
  | fwStageWrite (port offset : Nat) (value : Word)
  | fwStageCommit (port : Nat) (value : Word)
  | fwStageClear (port : Nat) (value : Word)
  -- Almanac
  | shuntSample (volts : Nat) (milliwatts : List Nat)
  | warningSpan (volts micros : Nat)
  | intervalBoundary
  | bind (session mseq : Nat) (tid : List Byte) (frame : BitVec 48)
  | unbind (session mseq : Nat) (frame : BitVec 48)
  | tallyA (session mseq : Nat) (counts : List Nat)
  | tallyB (session mseq : Nat) (counts : List Nat)
  | windowEnd (mseq : Nat) (frame : BitVec 48) (sessions : Nat)
  | ack (path : AckPath) (kind : Nat) (seq : DWord) (sig : List Byte)
  | rewind (mseq : Nat)
  | exportPart
  | almAckCtlAck (port : Nat) (value : Word)
  | almAckCtlRewind (port : Nat) (value : Word)
  | almAuditLoRead (port : Nat)
  | almTimeLoRead (port : Nat)
  | read
  | setTime (seconds : DWord)
  | setInterval (minutes : Nat)
  | setCoeff (coeff : List Nat)
  | stageFw (image : List Byte)
  | lidOpen
  | lidClose
  | almanacInputLoss
  | powerGap (seconds : DWord)
  -- events and counters
  | eventRingEnable (port : Nat) (value : Word)
  | alarm (code source : Nat) (detail : DWord)
  | coalesceWindowEnd (code source : Nat)
  | log (code source : Nat) (detail : DWord)
  | logSummary (source : Nat)
  | trace (code source : Nat) (detail : DWord)
  | armSnap (port : Nat) (value : Word)
  | clearAll (port : Nat) (value : Word)
  | counterSourceWrite (port counter : Nat) (value : Word)
  | counterLoRead (port counter : Nat)
  -- messages of the Folio that the table lists last
  | echoSymbol (port : Nat) (roundTripNs : Nat)
  | confirm (transferId : DWord) (frame : BitVec 48)
  | refuse (transferId : DWord) (detail : Nat)
  | handOffReport (ring seq : Nat) (samples : Nat)
  | creditReturn (port vc : Nat) (fill : Bool)
  | remoteReadRequest (port job tag age offset bytes : Nat)
  deriving DecidableEq, Repr

end Sys2Proof
end

