-- ==== Sys2Proof/Decode.lean ====
section
/-! DEFINITION. Reading a command from a word. The table of operations gives no row any bits, so no word spells a command;
commands reach the block as the operations the chapters describe, not as encoded words. -/

namespace Sys2Proof

/-- The command a word of the opcode table spells: none, for no row has bits. -/
def decodeTableWord (_nbits _w : Nat) : Option Instr := none

end Sys2Proof
end

