-- ==== Sys2Proof/Config.lean ====
section
/-! DEFINITION. What an implementation fixes and what the spec leaves open: constants with no body. Nothing in Lean can
evaluate them, so a statement about them holds whatever they are. -/

namespace Sys2Proof.Config

open Sys2Proof

/-! ### External standards (00 R8, log entry 4): named by the spec, defined elsewhere. -/

/-- SHAKE256 of a message, with the given number of output bytes (FIPS 202). -/
opaque shake256 : List Byte → Nat → List Byte
/-- X448(scalar, u-coordinate) (RFC 7748). -/
opaque x448 : List Byte → List Byte → List Byte
/-- The X448 public half of a private key. -/
opaque x448Public : List Byte → List Byte
/-- The Ed448 public half of a private key (RFC 8032). -/
opaque ed448Public : List Byte → List Byte
/-- Ed448 signature of a message under a private key (RFC 8032). -/
opaque ed448Sign : List Byte → List Byte → List Byte
/-- Whether an Ed448 signature verifies: public key, message, signature. -/
opaque ed448Verify : List Byte → List Byte → List Byte → Bool
/-- AES-256 encryption of one 16-byte block: key, block (FIPS 197). -/
opaque aes256 : List Byte → List Byte → List Byte
/-- The tag of an AES-256-GCM message: key, nonce, additional data, ciphertext (SP 800-38D). -/
opaque gcmTag : List Byte → List Byte → List Byte → List Byte → List Byte

/-! ### Free values (log entry 11). -/

/-- Bytes Proof draws fresh: number of the draw, length (R307, R502, R509). -/
opaque drawn : Nat → Nat → List Byte
/-- A value the spec leaves open where the machine goes on: number of the draw. -/
opaque freeNat : Nat → Nat

/-- I32 results the spec does not state (04 R124): a sum outside the format, a shift by 32 or more, a right shift of a negative
value; a float quotient by a given row scale of zero (05 R169). Functions of the operands. -/
opaque sumOutside : BitVec 32 → BitVec 32 → BitVec 32
@[inherit_doc sumOutside] opaque mulOutside : BitVec 32 → BitVec 32 → BitVec 32
@[inherit_doc sumOutside] opaque totalOutside : List (BitVec 32) → BitVec 32
@[inherit_doc sumOutside] opaque shiftOutside : Bool → BitVec 32 → BitVec 32 → BitVec 32
@[inherit_doc sumOutside] opaque overZero : BitVec 32 → BitVec 8

/-- The word that the vector unit's compare writes where its relation holds, and where it does not: the spec gives no encoding
(04 R124). -/
opaque truth : Bool → BitVec 32

/-! ### What Uhlovoset compiles and the spec gives no encoding of (log entries 8, 25, 28). -/

/-- The operations that a stroke's code performs, cut at its semaphore operations: the code's bytes; Season, rate, rows, cores and
job core index (04 R141). -/
opaque strokeDecode : List Byte → List Nat → List (List StrokeOp)
/-- The links that a stroke's code waits on, and those it produces into (09 R259, 11 R330). -/
opaque strokeLinks : List Byte → List Nat × List Nat
/-- The job core index that the Frame plan gives a stroke: the stroke image, the cores, the stroke (09 R259). It counts modulo the
number of cores. -/
opaque strokeCore : List Byte → Nat → Nat → Nat
/-- The job core indices of a link's producer and consumer: the stroke image, the cores, the link (09 R259). They count modulo the
number of cores. -/
opaque linkCores : List Byte → Nat → Nat → Nat × Nat
/-- The Plate windows of handles 0 to 6 on one of a job's cores: the stroke image, the cores, the job core index; bytes, writable,
dirty (04 R129). -/
opaque plateWindows : List Byte → Nat → Nat → List (Nat × Bool × Bool)
/-- The windows of handles 8 to 15 on the shared weight regions: the stroke image; base and limit in the weight image (04 R129). -/
opaque sharedWindows : List Byte → List (Nat × Nat)
/-- Where a binding holds the values that an extent names, part by part in the canonical order: the stroke image, the cores, the extent;
job core index, place, bytes of each (11 R337, R338). -/
opaque extentParts : List Byte → Nat → ExtentKey → List (Nat × Loc × Nat)
/-- The outputs that a stroke finishes: the stroke image, the stroke (11 R337). -/
opaque strokeOutputs : List Byte → Nat → List ExtentKey
/-- Tensor and format of the values that a link's slots hold: the stroke image, the link (11 R337). -/
opaque linkValue : List Byte → Nat → Nat × Nat
/-- ECC of a line's ciphertext: a Reed–Solomon code whose parameters the spec does not give (10 R307, R308). -/
opaque lineEcc : List Byte → List Byte

/-! ### What the implementation fixes. -/

/-- The fields of a firmware image, whose layout the spec does not give (log entry 7): the digest of its signing key, the
signing key, the signed bytes, the signature, FW_SVN, and sender and receiver of each mailbox channel. -/
opaque fwKeyDigest : List Byte → List Byte
@[inherit_doc fwKeyDigest] opaque fwSignKey : List Byte → List Byte
@[inherit_doc fwKeyDigest] opaque fwSigned : List Byte → List Byte
@[inherit_doc fwKeyDigest] opaque fwSignature : List Byte → List Byte
@[inherit_doc fwKeyDigest] opaque fwSvn : List Byte → Nat
@[inherit_doc fwKeyDigest] opaque fwMailboxes : List Byte → List (Nat × Nat)
/-- Most refresh commands a controller may postpone: the JEDEC standard's number (R313). -/
opaque refreshLimit : Nat
/-- Whether a staged Almanac image carries the metering authority's signature: the layout of that image is not given (R545). -/
opaque meterFwSigned : List Byte → Bool
/-- The version number a staged Almanac image carries (R543 AKIND 4). -/
opaque meterFwVersion : List Byte → Nat
/-- Almanac's signing key, fused in Almanac alone (R526). -/
opaque meterKey : List Byte
/-- Almanac's meter certificate (R542). -/
opaque meterCert : List Byte

end Sys2Proof.Config
end

