-- ==== Sys2Proof/Machine/State.lean ====
section
/-! DEFINITION. Everything the spec gives the machine, as plain data, one record per block; the outcomes that stop; and the
machine right after reset. Where the spec states no reset value the value is zero or empty (log entry 2). -/

namespace Sys2Proof.Machine

open Sys2Proof

/-- Reasons the machine stops with a fault. -/
inductive Fault where
  /-- Raised by a command that reports a busbar above 60.0 V: not permitted, the module is not designed to survive it
  (R596). Safe: nothing is claimed of the module after it. -/
  | overvoltage
  deriving DecidableEq, Repr

/-- Reasons a command has no meaning in the model. -/
inductive Refusal where
  /-- An arm whose meaning is not written yet; the mnemonic names it. Safe. -/
  | notModelled (mnemonic : String)
  deriving DecidableEq, Repr

/-- One write of the module into host memory: Ramok port, address, bytes (R380). -/
structure HostWrite where
  port  : Nat
  addr  : Nat
  bytes : List Byte
  deriving DecidableEq, Repr

/-- ESL_BOOT_STATE.STATE (R581). -/
inductive Phase where
  | reset | wake | verify | cores | memory | measure | ready | fwRefused | faulted
  deriving DecidableEq, Repr

/-- Bring-up and supply (R577 to R599). -/
structure Boot where
  phase     : Phase
  cause     : Nat
  powered   : Bool
  tripped   : Bool
  busbar    : Nat
  warning   : Bool
  stretched : Bool
  rails     : Nat
  uptimeMs  : Nat
  msTicks   : Nat
  deriving DecidableEq, Repr

/-- The module's non-volatile store (R151, R296, R567). -/
structure Nv where
  retiredCores  : List Site
  retiredBurin  : List (Nat × Nat)
  slowPolicy    : Bool
  supplyResetAt : Nat
  deriving DecidableEq, Repr

/-- Fuses and contents of the part that a reset keeps (R578, R494, R512, R513, R148, R496). -/
structure Part where
  serial        : BitVec 48
  dseed         : List Byte
  fwRoot        : List Byte
  rollback      : Nat
  stepping      : Nat
  disabledCores : List Site
  bypassed      : List Site
  disabledBurin : List (Nat × Nat)
  coeff         : List Nat
  floorW        : Nat
  fwImage       : List Byte
  certs         : List Byte
  deriving DecidableEq, Repr

/-- The firmware staging store (R588, R589). -/
structure Stage where
  mem    : List Host.Cell
  state  : Nat
  refuse : Nat
  svn    : Nat
  len    : Nat
  image  : List Byte
  deriving DecidableEq, Repr

/-- The timebase (R41 to R50, R281, R476). `sub` counts sub-ticks, `ticks` sample ticks of the running Frame. -/
structure Timebase where
  running   : Bool
  osc       : Nat
  season    : Nat
  pendingCfg : Option (Nat × Nat)
  refused   : Bool
  sub       : Nat
  frameAt   : Nat
  ticks     : Nat
  frame     : BitVec 48
  frameOrd  : Nat
  frameHi   : Half
  advance   : Option (Nat × Nat)   -- announced: frameOrd at which it is due, and d
  deriving DecidableEq, Repr

/-- What the capability table reports beyond constants (R77, R79). -/
structure Cap where
  hatchCores    : Nat
  burinUnits    : Nat
  minFieldCores : Nat
  fieldCores    : List Nat
  fieldBurin    : List Nat
  channels      : Nat
  speed         : Nat
  sizeGB        : Nat
  hostPath      : Nat
  deriving DecidableEq, Repr

/-- Power cap and measurement (R68 to R70, R594). -/
structure Power where
  capSteps       : Nat
  capNow         : Nat         -- steps in force since the last plan close (R70)
  measured       : Nat
  capExceeded    : Bool
  warnCount      : Nat
  lowest         : Nat
  fillRan        : Bool
  stretchedFrame : Bool
  deriving DecidableEq, Repr

/-- MEM_RES_POLICY (R322). -/
structure ResPolicy where
  defaultClass : Nat
  allowPin     : Bool
  autoMin      : Nat
  share        : Nat
  deriving DecidableEq, Repr

/-- One DRAM channel (R308 to R313, R322). -/
structure Channel where
  state     : Nat
  rdMargin  : Nat
  wrMargin  : Nat
  ce        : Nat
  ceTimes   : List Nat     -- sub-tick times of the corrected errors of the last hour (R312)
  scrubLine : Nat
  scrubAt   : Nat          -- sub-tick at which the running scrub of the channel began (R311)
  postponed : Nat
  deriving DecidableEq, Repr

/-- A signal an engine sends: core and physical pair that take it, slots (R258, R263). -/
abbrev LinkSig := Nat × Nat × Nat

/-- A transfer of an engine (R268 to R272, R282); one of no bytes is a MARK that waits to signal. Offsets are from the base of
the window or region; `entry` is the list position in `stroke`; `stream` is the row that a source in a feature queue belongs to, or
the tag of a remote read; `spans` gives, of a CHAIN_SEND, the length of each entry it carries, the bytes and whether they end it;
`chain` is CHAIN_COUNT of a CHAIN_RECV. -/
structure Xfer where
  core     : Nat
  engine   : Engine
  job      : Nat
  stroke   : Nat
  entry    : Nat
  op       : Nat
  srcSpace : Nat
  srcHandle : Nat
  srcOff   : Nat
  stream   : Nat
  dstSpace : Nat
  dstHandle : Nat
  dstOff   : Nat
  dstCore  : Nat
  len      : Nat
  spans    : List (Nat × Nat × Bool)
  chain    : Nat
  notify   : Option LinkSig
  release  : Option LinkSig
  deadline : Word
  issued   : Nat
  live     : Bool
  data     : List Byte
  fetched  : Bool          -- its source bytes have been read (R272)
  done     : Bool
  deriving DecidableEq, Repr

/-- DRAM and its controllers (R293 to R322). -/
structure Mem where
  trainDone   : Bool
  slow        : Bool
  scrubPeriod : Nat
  ceThresh    : Nat
  ueCount     : Nat
  policy      : ResPolicy
  pinCap      : Nat
  policyNext  : Option ResPolicy
  pinCapNext  : Option Nat
  chans       : Tab Channel
  xtsKeys     : List Byte
  poolUsed    : List (Nat × Nat)   -- owner handle and extent number of the general pool
  saveUsed    : List (Nat × Nat)   -- job ID and extent number of the save-area pool
  queue       : List Xfer
  deriving DecidableEq, Repr

/-- One Ramok port (R359, R361, R368). -/
structure Port where
  trained  : Bool
  lanes    : Nat
  gen      : Nat
  retrains : Nat
  everUp   : Bool
  deriving DecidableEq, Repr

/-- What a completion record reports of its window (R425, R426). -/
structure Window where
  interference : Nat
  margin       : Option Int
  starved      : Nat
  slips        : Nat
  endMark      : Bool
  stretched    : Bool
  keepRestart  : Bool
  deriving DecidableEq, Repr

/-- A completion record (R425) with the data writes that R393 repeats beside it. -/
structure CqRecord where
  slot   : Nat
  phase  : Bool
  gen    : Byte
  opcode : Byte
  status : Nat
  detail : Nat
  cookie : Word
  result : Word
  count  : Nat
  win    : Window
  event  : Bool
  frame  : Nat
  stream : Nat
  pcmEnd : Option Nat   -- AUDIO_PULL: one past the last sample it delivered (R301)
  at_    : Nat          -- sub-tick at which the ring was handed it
  due    : Option Int   -- deadline of the latest data write that it follows (R376)
  data   : List HostWrite
  deriving DecidableEq, Repr

/-- A descriptor fetched from a submission slot (R388, R396), with the work done for it. -/
structure Desc where
  seq       : Nat
  slot      : Nat
  bytes     : List Byte
  accepted  : Bool
  started   : Bool
  fetchAt   : Nat                -- sub-tick at which its transfer at a host engine was issued (R282)
  due       : Int                -- the deadline that the transfer was given then (R281)
  committed : Bool
  aborted   : Bool
  closed    : Bool               -- no further packet is taken (R417)
  packets   : Nat
  offset    : Nat
  total     : Nat
  done      : Nat
  ctrls     : Nat
  acceptedAt : Nat               -- sub-ticks
  ordinal   : Nat
  first     : Nat                -- AUDIO_PULL: first sample of the buffer
  link      : Nat                -- job of an ADAPT_JOB, stream of a STREAM_OPEN or TRANSFER_IN
  plain     : List Byte
  lineSlot  : Option (Nat × Nat) -- slot a STREAM_OPEN holds from acceptance (R441)
  win       : Window
  handAt    : Option Nat         -- Frame-tick count of the last hand-off of its samples (R565)
  deriving DecidableEq, Repr

/-- RMK_RING_STATUS.STATE without stopped, which is a flag of its own so that the state under it persists (R392). -/
inductive RingState where
  | disabled | unbound | bound
  deriving DecidableEq, Repr

/-- One ring pair (R366 to R393). -/
structure Ring where
  sqLo      : Word
  sqHi      : Word
  cqLo      : Word
  cqHi      : Word
  sqOrder   : Nat
  cqOrder   : Nat
  port      : Nat
  vector    : Nat
  count     : Nat
  holdUs    : Nat
  state     : RingState
  stopped   : Bool
  overrun   : Bool
  linkLost  : Bool
  cqStall   : Bool
  cfgErr    : Bool
  sqPi      : Half
  sqCi      : Half
  cqPi      : Half
  cqCi      : Half
  arm       : Bool
  reading   : Bool
  kicked    : Bool
  readAt    : Nat                 -- sub-tick at which the outstanding doorbell read was issued (R376)
  fetchAt   : Nat                 -- sub-tick at which the next fetch was issued (R376)
  nextSeq   : Nat
  slots     : Tab (Byte × Nat × Nat) -- GEN, opcode, acceptance number last accepted from each slot (R390)
  fetched   : List Desc           -- fetched, waiting for acceptance
  accepted  : List Desc           -- accepted, not yet completed
  held      : List CqRecord       -- records that cannot be written yet, oldest first
  heldSince : Option Nat          -- sub-tick since which records are held
  unread    : List CqRecord       -- written records the host has not consumed
  uncovered : Nat                 -- records no interrupt has covered (R382)
  firstAt   : Nat                 -- sub-tick at which the first of them was written
  deriving DecidableEq, Repr

/-- The Ramok block (R368). -/
structure Rmk where
  port0       : Port
  port1       : Port
  dbLo        : Word
  dbHi        : Word
  dbValid     : Bool
  dropped     : Nat
  kickIgnored : Nat
  turn0       : Nat               -- ring after which port 0 takes its next fetch (R375)
  turn1       : Nat
  rings       : Tab Ring
  deriving DecidableEq, Repr

/-- The quantities of R352. -/
structure Account where
  hatch4    : Nat
  hatch8    : Nat
  hatchF    : Nat
  burin     : Nat
  dramRd    : Nat
  dramWr    : Nat
  ramokIn   : Nat
  ramokOut  : Nat
  ihlauxIn  : Nat
  ihlauxOut : Nat
  saveKeep  : Nat
  energyRem : Nat        -- 1/16 pJ carried over (R353)
  frosts    : Nat
  thaws     : Nat
  iMax      : Nat
  stretched : Bool
  first     : Nat        -- first Frame the account covers
  deriving DecidableEq, Repr

/-- Counts of one session in the running tally window (R534). -/
structure Tally where
  a      : List Nat
  b      : List Nat
  closed : Option (BitVec 48)
  deriving DecidableEq, Repr

/-- A bound session (R366, R502). -/
structure Session where
  id        : Nat
  tid       : List Byte
  mck       : List Byte
  keyS      : List Byte
  keyM      : List Byte
  transcript : List Byte
  level     : Nat
  lineOut   : Bool
  respAddr  : Nat
  respBytes : Nat
  receipts  : Nat
  acctAddr  : Nat
  acctBytes : Nat
  written   : Nat
  ordinal   : Nat
  adaptOrd  : Nat
  account   : Account
  deriving DecidableEq, Repr

/-- Where a model's weights are (R315 to R319). While a promotion copies: the bytes copied, and issue time and deadline of the transfer
that waits (R282). -/
inductive Residency where
  | cold
  | copying (cores : List Nat) (job done : Nat) (xfer : Nat × Int)
  | copied  (cores : List Nat) (job : Nat)
  | hot     (cores : List Nat)
  | leaving (cores : List Nat)
  deriving DecidableEq, Repr

/-- A loaded voice model (R26, R305, R310, R315). -/
structure Model where
  handle   : Nat
  session  : Nat
  image    : List Byte
  digest   : List Byte
  cls      : Nat
  clsNext  : Option Nat
  damaged  : Bool
  res      : Residency
  share    : Nat
  lastUsed : Nat
  deriving DecidableEq, Repr

/-- A feature record in a stream's queue (R412). -/
structure FeatRec where
  first : Nat
  span  : Nat
  data  : List Byte
  seq   : Nat      -- the FEATURE_PUSH that brought it
  counted : Bool   -- its token has been counted (R536)
  deriving DecidableEq, Repr

/-- A control of a tag header (R413 to R415). `flags` are the TFLAGS that act at `sample`. -/
structure Control where
  sample  : Nat
  flags   : Nat
  voice   : Nat
  ovrMask : Byte
  ovr     : List Half
  seq     : Nat
  deriving DecidableEq, Repr

/-- One chunk in the Frame pipeline (R52): `frame` is the Frame of its Burin pass, as a Frame-tick count, `moved` the Frames by which
its deadline has been moved later, `late` those by which it missed its own (R72); its conditioning (R201), the samples its reset map
flags (R193), its voice switches and prosody overrides by sample (R415), whether an end mark follows its last sample, whether dither is
on (R408), and whether one of its Frames held stretched time (R565). -/
structure Chunk where
  first  : Nat
  count  : Nat
  frame  : Nat
  moved  : Nat
  late   : Nat
  condAt : Option Nat
  cond   : List Byte
  resets : List Word
  voices : List (Nat × Nat)
  overrides : List (Nat × Byte × List Half)
  ends   : Bool
  dither : Bool
  slips  : Nat        -- Frames of slip its records report (R72, R333, R560, R67)
  stretched : Bool
  pending : List Nat  -- layers whose first step in the chunk a pending reset flags (R194)
  deriving DecidableEq, Repr

/-- Head state (R234). -/
structure Head where
  xPrev     : Word
  envelope  : Word
  classPrev : Nat
  noise     : List Word
  cell      : List Word
  deriving DecidableEq, Repr

/-- Stream states of R36. -/
inductive StreamPhase where
  | idle | rendering | closing | closed
  deriving DecidableEq, Repr

/-- A sample on its way through the output stage (R230, R231). -/
structure Handed where
  n      : Nat
  x      : Word
  env    : Word          -- E_n
  frame  : BitVec 48
  dither : Bool
  key    : List Byte     -- mark subkey of the context that computed it (R232)
  deriving DecidableEq, Repr

/-- An export record (R203 to R206): header fields, sections by layer, carried conditioning. Its digest follows from these. -/
structure ExportRec where
  rflags   : Nat
  graphHash : List Byte
  seed     : DWord
  key      : Word
  rate     : Nat
  season   : Nat
  headNext : Nat
  hatchNext : Nat
  frame    : BitVec 48
  pending  : List Nat
  layers   : List (Nat × List Byte)
  head     : Head
  chunk    : Option Chunk
  deriving DecidableEq, Repr

/-- What a Keep stream holds while it waits for its restart (R63, R67): its torn-down job, told apart by ID and sub-tick; the cores of
that job that still serve; and the job of another of its rows that has been placed again, which carries the fixed costs. -/
structure Budget where
  lost  : Nat × Nat
  cores : List Nat
  into  : Option Nat
  deriving DecidableEq, Repr

/-- A piece of PCM in a stream's audio ring (R289): its samples, its deadline (R282) and the sub-tick at which it was written. -/
structure Piece where
  first : Nat
  count : Nat
  due   : Int
  at_   : Nat
  deriving DecidableEq, Repr

/-- An open stream (R28, R36). -/
structure Stream where
  id        : Nat
  session   : Nat
  handle    : Nat
  voice     : Nat
  season    : Nat
  rate      : Nat
  toHost    : Bool
  toLine    : Bool
  keep      : Bool
  fill      : Bool
  dither    : Bool
  lineFill  : Bool
  fillNext  : List (Nat × Bool)            -- fills that later Frames play: Frame-tick count, repeat (R461)
  line      : Nat
  slot      : Nat
  seed      : DWord
  key       : Word
  ordinal   : Nat
  nextSeq   : Word
  seqWrap   : Nat
  pulls     : Nat
  phase     : StreamPhase
  job       : Nat
  unit      : Nat
  ctx       : Nat
  records   : List FeatRec
  covered   : Nat
  controls  : List Control
  nextPlan  : Nat
  closedChunk : Option Chunk
  hatchChunk  : Option Chunk
  burinChunks : List Chunk
  pendingReset : List Nat
  handed    : Nat                            -- first sample not handed off
  headAt    : Nat                            -- sample the head computes next; below `handed` while it replays (R67, R237)
  current   : Option (Nat × Word × Head)   -- sample being computed: index, value, head after it
  staged    : List Handed
  outBuf    : List (Nat × Word)            -- PCM words the output Scriber has not moved (R289)
  lineBuf   : List (Nat × Word)            -- PCM words that wait for their line frame (R440)
  popped    : Nat                            -- records that have left the feature queue, which gives its read position (R266)
  audio     : List (Nat × Word)
  lastOvr   : List (Nat × Byte × List Half) -- prosody overrides of the last chunk planned, which its next one may still have to apply (R195)
  paces     : List (Nat × Nat × Int)       -- first sample, count and F_k of the chunks on their way to the audio ring (R214, R282)
  pieces    : List Piece                   -- of the audio ring, those not delivered
  delivered : Nat
  ends      : List Nat                       -- end marks reached, until an AUDIO_PULL has passed them
  hist      : List (Nat × Nat × Nat × Window) -- by Frame-tick count: samples handed off in the Frame, its window (R426)
  lastWord  : Word
  everOut   : Bool
  layers    : List (Nat × List Byte)
  head      : Head
  mirror    : Nat × Head
  replay    : List (Chunk × Nat)           -- chunks handed off whose last mirror is not written, with the voice in force before each (R239)
  shadow    : Option ExportRec
  dueShadows : List ExportRec              -- records of Frame ticks that the head has not come to yet, oldest first (R199)
  second    : Option (Nat × ExportRec)     -- field that holds it, record (R202)
  secondCores : List Nat
  restart   : Option Nat                   -- frameOrd of the last plan close at which R67 may still place it
  budget    : Option Budget
  period    : Option (Nat × BitVec 48)     -- Plate Mark period and the Frame of its first sample here (R517)
  recorded  : Nat                          -- coverage recorded at the last plan close (R562)
  skip      : Nat                          -- Frame ticks its whole pipeline waits (R67, R333)
  gap       : Nat                          -- plan closes that leave it out after slips (R72)
  lost      : Nat                          -- Frames lost without a place, which the next chunk reports as slip (R560, R67)
  playing   : Option (Nat × Nat)           -- first sample and count of the chunk that plays in this Frame (R440)
  played    : Option (Nat × Nat)           -- the same of the Frame before, whose last H ticks fall in this one
  transferring : Bool
  faulted   : Bool                         -- Closed by a fault, while what it has handed off is delivered (R357)
  missed    : Bool                         -- a plan has left it out for step 4 of a Transfer, and its envelope is not sent (R486)
  left      : Bool                         -- left out of plans: context without room (R236, R560) or Transfer step 5
  deriving DecidableEq, Repr

/-- Classes and states of a job (R323, R328). -/
inductive JobState where
  | bound | frosting | frosted | thawing
  deriving DecidableEq, Repr

/-- What a job works on (R323); a guest is an adaptation job of another member's, with its job ID there and OUTPUT_BYTES (R482). -/
inductive JobKind where
  | streams | adapt (ring seq : Nat) | promote (handle : Nat) | guest (job outBytes : Nat)
  deriving DecidableEq, Repr

/-- A parking-table entry (R339) with the transfer that the reply completes; `pstate` 0 waiting, 1 landed, 2 to reissue; `link` and `slot`
name the slot that the reply fills. -/
structure Park where
  tag    : Nat
  link   : Nat
  slot   : Nat
  pstate : Nat
  data   : List Byte
  xfer   : Xfer
  deriving DecidableEq, Repr

/-- An outstanding remote read of a Fill job (R480). -/
structure Remote where
  tag    : Nat
  core   : Nat
  handle : Nat
  srcOff : Nat
  dstOff : Nat
  bytes  : Nat
  age    : Nat
  at_    : Nat               -- sub-tick at which it was last issued (R480)
  deriving DecidableEq, Repr

/-- A row-table entry of a save area with its export record (R336). -/
structure SaveRow where
  stream : Nat
  keep   : Bool
  voice  : Nat
  record : ExportRec
  deriving DecidableEq, Repr

/-- A save area (R334 to R342) in the terms of its tables. Of the binding it keeps the number of cores alone, which gives the parking buffer
its size, 0 where the graph does not use space 6. The extents of kind 4 are the slots of the links, ready or waited for, `issued` the strokes that the Frame's work has issued, `walks` how far each stroke's lists have
been walked, `again` the CHAIN_RECVs to be granted again. -/
structure SaveArea where
  svflags   : Nat
  graphHash : List Byte
  seed      : DWord
  key       : Word
  session   : Nat
  handle    : Nat
  season    : Nat
  frame     : BitVec 48
  optStep   : Nat
  workFrame : Nat
  cores     : Nat
  rows      : List SaveRow
  extents   : List (ExtentKey × List Byte)
  issued    : List Nat
  walks     : Tab (Nat × Nat × Nat)
  again     : List (Nat × Nat × Nat)
  parking   : List Park
  digest    : List Byte
  deriving DecidableEq, Repr

/-- A Plate window (R129): base and limit in the job's part of each of its cores' Plate, access right, class. -/
structure PlateWindow where
  base     : Nat
  limit    : Nat
  writable : Bool
  dirty    : Bool
  deriving DecidableEq, Repr

/-- A row that a plan includes (R266): its number in the batch, its stream, the first sample of its chunk, and where the chunk's records
begin in the feature queue. -/
structure PlanRow where
  row    : Nat
  stream : Nat
  first  : Nat
  at_    : Nat
  deriving DecidableEq, Repr

/-- A job context (R327). -/
structure Job where
  id        : Nat
  fill      : Bool
  kind      : JobKind
  state     : JobState
  session   : Nat
  handle    : Nat
  rate      : Nat
  cores     : List Nat
  more      : List Nat       -- cores bound for rows added under R101, which its next sequence takes in
  maxCores  : Nat
  rows      : List Nat       -- stream of each row; 16,384 for a row that has closed
  windows   : List (List PlateWindow) -- by job core index
  shared    : List PlateWindow        -- on the read-only weight regions, handles 8 to 15 (R129)
  pairs     : Tab (Tab Nat)           -- by core: physical pair of each job-relative one (R133)
  seed      : DWord
  key       : Word
  optStep   : Nat
  steps     : Nat            -- optimiser steps that an adaptation job runs (R421)
  workFrame : Nat            -- sequences of strokes that have ended (R335 WORK_FRAME)
  output    : List Host.Cell
  input     : List Byte
  save      : Option SaveArea
  remotes   : List Remote
  credits   : Nat            -- Ihlaux request credits that it holds (R327, R477)
  nextTag   : Nat
  home      : Option Nat     -- the member whose ring accepted the job, none for this module (R481)
  away      : Option Nat     -- the member the job has been moved to (R482)
  account   : Account
  issued    : List Nat       -- strokes of the running sequence that have been issued (R141, R330)
  plans     : List (List PlanRow) -- rows of the sequences of strokes from the running or next one on, as plan closes listed them (R266)
  work      : List (Nat × Nat) -- streams of the running sequence of strokes, and the first sample of the chunk each computes
  walks     : Tab (Nat × Nat × Nat) -- by stroke and engine (R268): sequence, list position, bytes of that entry already in transfers
  again     : List (Nat × Nat × Nat) -- CHAIN_RECVs whose grants a Frost withdrew: stroke, sequence, list position (R292)
  condDone  : Bool
  lastRan   : Nat
  waits     : Nat            -- plan closes it has waited (R326, R482)
  switch    : Nat × Nat × Nat -- its last Frost or Thaw: sub-tick at which it began, switches in progress then, remote reads then (R345)
  frostNext : Bool           -- a Frost request came while it was Thawing, or while 16 were in progress (R346, R351)
  ik        : Nat × Nat × Nat -- R356: Frame, the longest time so far to a last hand-off in it, and that unit's ratio
  deriving DecidableEq, Repr

/-- A stroke in progress on a core (R141, R285), with the MAC modes of its passes in order (R352): 0 4-bit, 1 8-bit, 2 BF16 and F8. `work`
is what it still has to do, cut at its semaphore operations; nothing of it has left the core's checks (R118, R140). -/
structure Run where
  job    : Nat
  stroke : Nat
  modes  : List Nat
  work   : List (List StrokeOp)
  deriving DecidableEq, Repr

/-- The part of an entry that an engine has begun and not issued yet: job, and the range of its destination (R166, R268). -/
structure PartEntry where
  job    : Nat
  handle : Nat
  off    : Nat
  len    : Nat
  deriving DecidableEq, Repr

/-- A Tracer or Scriber (R256, R273, R292): the list it walks, which is that of a job's stroke, and its transfers. -/
structure EngineState where
  job     : Nat
  stroke  : Nat
  since   : Tab (Nat × Nat)  -- by job: the stroke whose list waits, and the sub-tick since which its WAIT or grant has been missing (R291)
  outstanding : List Xfer
  part    : List PartEntry
  deriving DecidableEq, Repr

/-- Chain data on its way to a core (R278): length of the entry it belongs to, the bytes, whether they end it. -/
structure ChainPiece where
  job   : Nat
  total : Nat
  data  : List Byte
  last  : Bool
  deriving DecidableEq, Repr

/-- A Hatch core away from its state after binding (R111). -/
structure Core where
  jobs      : List Nat
  running   : Option Run
  pairs     : Tab (Nat × Nat)            -- physical pair: READY, ROOM
  slots     : Tab (Nat × Nat)             -- accumulator slots in use: the job, and the slot's number in its strokes (R119)
  waiting   : Option (Nat × Counter × Nat)
  since     : Option Nat                  -- sub-tick at which that wait began to stall (R138)
  faulted   : Bool
  failed    : Option (CheckUnit × Option (Nat × Nat)) -- the last report of R140: unit, job and stroke
  retired   : Bool
  hadFault  : Bool
  takenBy   : Option Nat
  rangeFlag : Bool
  tracer    : EngineState
  scriber   : EngineState
  grants    : List (Nat × Word)           -- grants received from the successor and not used: job, deadline (R277)
  chainIn   : List ChainPiece             -- chain data sent by the predecessor, in order
  waitsDone : Nat                         -- log of R556
  signalsSent : Nat
  scrubLine : Nat
  deriving DecidableEq, Repr

/-- A remote signal or Plate write on its way, in issue order (R137). -/
structure RemoteSig where
  source : Nat
  target : Nat
  pair   : Nat
  ctr    : Counter
  n      : Nat
  at_    : Nat             -- sub-tick of its issue
  deriving DecidableEq, Repr

/-- A mesh link's faults (R145, R559): the flit numbers of its retries within the last 1,024 flits, whether it runs on half its lanes, and a
lane fault not yet retrained. -/
structure MeshLink where
  retries : List Nat
  half    : Bool
  laneFault : Bool
  deriving DecidableEq, Repr

/-- A field (R152, R561). -/
structure Field where
  out     : Bool
  retired : Nat
  deriving DecidableEq, Repr

/-- The wafer's cores, fields and mesh (R111 to R153). -/
structure Hatch where
  cores        : Tab Core
  fields       : Tab Field
  links        : Tab MeshLink
  signals      : List RemoteSig
  retiredCount : Nat
  retireLast   : Option Site
  plate        : List Host.Cell
  acc          : List Host.Cell
  deriving DecidableEq, Repr

/-- A Burin unit (R212 to R214, R237 to R239). Contexts are keyed by number. -/
structure BurinUnit where
  ctxs     : Tab Nat
  weights  : List (Nat × Nat)
  busy     : Option Nat
  failed   : Bool
  hadFault : Bool
  retired  : Bool
  keys     : Tab (List Byte)
  queue    : Tab (List (Nat × List Byte))   -- conditioning fetched ahead for each context, by sample (R215)
  deriving DecidableEq, Repr

/-- A slot word in an elastic buffer, with the session of the delivered sample that it carries (R439, R440, R442). -/
structure LineSlot where
  slot    : Nat
  session : Option Nat
  word    : Word
  deriving DecidableEq, Repr

/-- One direction of an audio line (R432, R463). `buf` holds frames, oldest first: on transmit the last DEPTH − 1 written, on
receive those the timebase side has not read. -/
structure Direction where
  cfg     : Word
  run     : Word
  slots   : Word
  state   : Nat
  cfgErr  : Bool
  busy    : Bool
  rate    : Half
  drift   : Nat
  glitch  : Nat
  fill    : Word
  hold    : Word
  buf     : List (List LineSlot)
  ready   : Bool          -- run-in, or the return of R458, is counted; running begins at the next Frame tick
  lastRate : Half
  glitchNext : Bool       -- the next frame arrives at a glitch (R460)
  glitched : Bool         -- a glitch slip has been taken in the frame that runs (R455)
  ran     : Bool          -- it has entered running since START (R451)
  driven  : Bool          -- it has been started since the power-on reset, so it drives or holds its pins (R447, R450)
  holders : Tab Nat
  deriving DecidableEq, Repr

/-- An alignment group (R451, R452). -/
structure Group where
  state  : Nat
  cfgErr : Bool
  busy   : Bool
  frame  : BitVec 48
  hi     : Half
  deriving DecidableEq, Repr

/-- An audio oscillator (R443 to R446, R462). -/
structure Osc where
  mode    : Nat
  refLine : Nat
  refDir  : Nat
  slew    : Nat
  steer   : Int
  locked  : Bool
  lockMs  : Nat
  hold    : Bool
  cfgErr  : Bool
  deriving DecidableEq, Repr

/-- Capture of an input slot by a job, from the first Frame after a Frame-tick count (R420, R460). -/
structure Capture where
  job   : Nat
  line  : Nat
  slot  : Nat
  since : Nat
  taken : Nat
  left  : Nat
  deriving DecidableEq, Repr

/-- Audio lines and clocks (R430 to R463). -/
structure Lines where
  dirs     : Tab Direction
  groups   : Tab Group
  oscs     : Tab Osc
  captures : List Capture
  deriving DecidableEq, Repr

/-- A Fill remote read that waits at its responder (R480): deadline in sub-ticks. -/
structure RemoteReq where
  job      : Nat
  tag      : Nat
  offset   : Nat
  bytes    : Nat
  deadline : Int
  deriving DecidableEq, Repr

/-- An Ihlaux port (R464 to R469, R477, R492). -/
structure IhxPort where
  trained   : Bool
  lanes     : Nat
  peer      : Nat
  wiringErr : Bool
  secured   : Bool
  retrains  : Nat
  authFail  : Nat
  authTimes : List Nat                               -- sub-ticks of the last failures (R466)
  ownKey    : List Byte                              -- X448 private half and nonce of the running exchange (R509)
  ownNonce  : List Byte
  linkKey   : List Byte
  lower     : Bool                                   -- this end has the lower serial (R509)
  vc1Live   : Nat
  vc1Fill   : Nat
  vc2Live   : Nat
  vc2Fill   : Nat
  delayNs   : Nat
  reads     : List RemoteReq
  deriving DecidableEq, Repr

/-- A directory entry (R483, R492). -/
structure DirEntry where
  session : Nat
  rate    : Nat
  keep    : Bool
  fill    : Bool
  moving  : Bool
  deriving DecidableEq, Repr

/-- What the manager knows of a member's capacity (R483). -/
structure Capacity where
  free   : List Nat
  cores  : Nat
  voices : List (List Byte × Bool × Bool)   -- digest, hot, has a job
  deriving DecidableEq, Repr

/-- The states of a Transfer on one member (R486). -/
inductive TransferStage where
  | waiting | offered | accepted | confirmed | sent | imported
  deriving DecidableEq, Repr

/-- A Transfer in progress (R485 to R491). -/
structure Transfer where
  id      : DWord
  outgoing : Bool
  ring    : Nat
  seq     : Nat
  peer    : Nat
  stream  : Nat
  stage   : TransferStage
  handover : Nat               -- Frame-tick count of h
  since   : Nat                -- sub-tick at which the descriptor was accepted
  offer   : Option OfferMsg
  credits : Bool
  deriving DecidableEq, Repr

/-- A message the module sent on Ihlaux VC0 or VC1 (R477, R486). -/
structure IhxMsg where
  port  : Nat
  kind  : Nat
  body  : List Nat
  bytes : List Byte
  deriving DecidableEq, Repr

/-- Ihlaux and the Folio (R464 to R492). -/
structure Ihx where
  role       : Nat
  member     : Nat
  folioId    : Half
  state      : Nat
  cfgErr     : Bool
  aligned    : Bool
  holdover   : Bool
  members    : Nat
  alignErr   : Int
  delayNs    : Nat
  goodTicks  : Nat
  sinceSymbol : Nat
  measured   : Option Int
  offloadFrames : Nat
  xferActive : Nat
  ports      : Tab IhxPort
  placeArgs  : List Word
  placeDone  : Bool
  placeResult : Word
  dirSel     : Nat
  directory  : Tab DirEntry
  capacity   : Tab Capacity
  transfers  : List Transfer
  offers     : List OfferMsg           -- OFFERs that no TRANSFER_IN has met yet (R486)
  sent       : List IhxMsg             -- what the module has sent, as the receiving end opens it
  wire       : List (Nat × List Byte)  -- port and sealed frame of each message on a secured port (R466)
  frames     : Tab Nat                 -- frames sent on each port under its link key (R509)
  deriving DecidableEq, Repr

/-- Proof (R493 to R524). -/
structure Proof where
  fwOk      : Bool
  fwRefuse  : Nat
  locked    : Bool
  policy    : List Word
  digestSel : Nat
  mFw       : List Byte
  mAlm      : List Byte
  mWaf      : List Byte
  mPol      : List Byte
  svn       : Nat
  gk        : Option (List Byte)
  group     : List Byte
  debug     : Bool
  deriving DecidableEq, Repr

/-- A mailbox channel (R514 to R516). -/
structure Mailbox where
  sender   : Nat
  receiver : Nat
  full     : Bool
  refused  : Bool
  words    : List Word
  deriving DecidableEq, Repr

/-- The mailboxes (R515, R525). -/
structure Mbx where
  locked     : Bool
  violations : Nat
  chans      : Tab Mailbox
  deriving DecidableEq, Repr

/-- A session's line in the open interval (R541). -/
structure MeterLine where
  tid     : List Byte
  bound   : Bool
  unbound : Bool
  live    : Bool              -- still bound
  a       : List Nat
  b       : List Nat
  key     : Nat               -- number of its BIND, which tells two sessions of one ring apart (R25)
  deriving DecidableEq, Repr

/-- A stored Almanac record: kind 0 interval, 1 audit (R540, R543). -/
structure MeterRecord where
  kind  : Nat
  seq   : Nat
  bytes : List Byte
  acked : Bool
  deriving DecidableEq, Repr

/-- Almanac (R526 to R551). Powers in mW, energies in units of 1/8,000 mW s. -/
structure Alm where
  running   : Bool
  time      : DWord
  timeHi    : Word
  minutes   : Nat
  minutesNext : Option Nat
  startS    : DWord
  chanEnergy : List Nat
  windowTallies : List (Nat × MeterLine)
  lines     : List (Nat × MeterLine)
  firstFrame : BitVec 48
  lastFrame : BitVec 48
  warnOpen  : Bool
  warnHold  : Nat
  warnLen   : Nat
  warnCount : Nat
  warnTotal : Nat
  flags     : Nat
  mseq      : Option Nat
  seq       : Nat
  tamper    : Nat
  audit     : DWord
  auditHi   : Word
  lidOpen   : Bool
  coeff     : List Nat
  fwImage   : List Byte
  fwVersion : Nat
  staged    : Option (List Byte)
  records   : List MeterRecord
  sending   : Option (Nat × Nat × Nat)   -- kind, SEQ, next part
  refused   : Nat
  ackSig    : List Word
  ackSeqLo  : Word
  ackSeqHi  : Word
  ackKind   : Nat
  ackBusy   : Bool
  lossAt    : DWord
  powerW    : Nat
  chanDw    : List Nat
  chanDv    : Nat
  service   : List MeterRecord           -- records the service connector has sent (R544 READ)
  frac      : Nat                        -- shunt samples of the running second (R530)
  secEnergy : List Nat                   -- channel energies of the running second
  windows   : Nat                        -- tally windows assigned to the open interval (R540)
  rewindNext : Bool                      -- the next record sent is the oldest unacknowledged one (R547)
  latched   : List Nat                   -- lid events while unpowered, which the backup cell latches (R544)
  deriving DecidableEq, Repr

/-- An event record (R569). -/
structure EvtRecord where
  cls    : Nat
  code   : Nat
  source : Nat
  first  : BitVec 48
  last   : BitVec 48
  count  : Nat
  detail : DWord
  deriving DecidableEq, Repr

/-- An entry of the alarm table (R570): occurrences counted in the running window, which ends at Frame-tick count `ends`. -/
structure AlarmKey where
  code   : Nat
  source : Nat
  count  : Nat
  first  : BitVec 48
  last   : BitVec 48
  detail : DWord
  ends   : Nat
  deriving DecidableEq, Repr

/-- The log limit of one source (R571): `level` in logs times 24,576,000 sub-ticks. -/
structure LogSource where
  source : Nat
  level  : Nat
  at_    : Nat
  suppressed : Nat
  code   : Nat
  first  : BitVec 48
  last   : BitVec 48
  drops  : Nat
  deriving DecidableEq, Repr

/-- The event ring (R568 to R572). -/
structure Evt where
  baseLo   : Word
  baseHi   : Word
  order    : Nat
  enable   : Bool
  vector   : Nat
  logRate  : Nat
  tracePct : Nat
  coalesce : Nat
  pi       : Half
  ci       : Half
  logEn    : Bool
  traceEn  : Bool
  table    : List AlarmKey
  waiting  : List EvtRecord
  logs     : List LogSource
  deriving DecidableEq, Repr

/-- ESL_FAULT (R568, R562). -/
structure FaultReg where
  faulted  : Bool
  cause    : Nat
  easelOut : List Nat
  repeatPlan : Bool          -- the next plan close is a repeat plan (R562)
  deriving DecidableEq, Repr

/-- One event counter (R573). -/
structure EvCounter where
  source : Nat
  enable : Bool
  count  : BitVec 48
  hi     : Half
  snap   : BitVec 48
  deriving DecidableEq, Repr

/-- The event counters: module counter n at n, counter c of field f at 32 + 8 f + c (R573, R574). -/
structure Cnt where
  armed     : Bool
  snapDone  : Bool
  clearing  : Bool
  snapFrame : BitVec 48
  ctrs      : Tab EvCounter
  deriving DecidableEq, Repr

/-- ESL_ACCT_CFG (R355). -/
structure Acct where
  interval   : Nat
  jobRecords : Bool
  next       : Option (Nat × Bool)
  first      : Nat            -- Frame-tick count at which the running interval began
  closed     : List (Nat × Tally) -- tallies of sessions closed in the window, whose ring has been bound again (R25, R535)
  windowEnd  : Option Nat     -- last Frame of a tally window that has ended and is not sent (R535)
  deriving DecidableEq, Repr

/-- ESL_REBIND (R333). -/
structure Rebind where
  job     : Nat
  done    : Bool
  refused : Bool
  request : Option Nat
  place   : Option (Nat × List Nat)   -- job and its new cores, from step 2 on
  at_     : Nat                       -- Frame-tick count of the plan close that committed the place
  old     : List Nat
  units   : List (Nat × Nat)            -- stream and its new unit
  deriving DecidableEq, Repr

/-- What the module wrote out to the host, and the writes it holds (R380, R382, R392). -/
structure HostOut where
  writes : List HostWrite
  msix   : List Nat
  held   : List (Nat × HostWrite)   -- ring and write, while the ring is stopped with LINK_LOST (R392)
  deriving DecidableEq, Repr

/-- The whole machine. -/
structure State where
  boot     : Boot
  nv       : Nv
  part     : Part
  stage    : Stage
  tb       : Timebase
  cap      : Cap
  pwr      : Power
  mem      : Mem
  dram     : List Host.Cell
  rmk      : Rmk
  sessions : Tab Session
  models   : Tab Model
  nextHandle : Nat
  streams  : Tab Stream
  jobs     : Tab Job
  hatch    : Hatch
  burin    : Tab BurinUnit
  lines    : Lines
  ihx      : Ihx
  proof    : Proof
  mbx      : Mbx
  alm      : Alm
  evt      : Evt
  fault    : FaultReg
  cnt      : Cnt
  acct     : Acct
  rebind   : Rebind
  tallies  : Tab Tally
  mseqOut  : Nat
  almSent  : List (List Byte)   -- messages Easel 3 has sent on mailbox channel 0, oldest first (R533)
  host     : HostOut
  free     : Nat
  pending  : List Instr
  deriving DecidableEq, Repr

/-! ### Reset values -/

/-- A Ramok port before training (R368). -/
def Port.init : Port := ⟨false, 0, 0, 0, false⟩

/-- The reset values of MEM_RES_POLICY (R322). -/
def ResPolicy.init : ResPolicy := ⟨1, true, 8, 13⟩

/-- The block after a power-on reset with nothing kept: every register at the value its table states (R578), else zero. -/
def State.reset : State where
  boot := ⟨.reset, 0, true, false, 0, false, false, 0, 0, 0⟩
  nv := ⟨[], [], false, 0⟩
  part := ⟨0, [], [], 0, 0, [], [], [], [0, 0, 0, 0, 0, 0, 0], 0, [], []⟩
  stage := ⟨[], 0, 0, 0, 0, []⟩
  tb := ⟨false, 0, 1, none, false, 0, 0, 0, 0, 0, 0, none⟩
  cap := ⟨0, 0, 0, [], [], 0, 0, 0, 0⟩
  pwr := ⟨68, 68, 0, false, 0, 0, false, false⟩
  mem := ⟨false, false, 24, 64, 0, ResPolicy.init, 0xFFFF, none, none, [], [], [], [], []⟩
  dram := []
  rmk := ⟨Port.init, Port.init, 0, 0, false, 0, 0, 0, 0, []⟩
  sessions := []
  models := []
  nextHandle := 0
  streams := []
  jobs := []
  hatch := ⟨[], [], [], [], 0, none, [], []⟩
  burin := []
  lines := ⟨[], [], [], []⟩
  ihx := ⟨0, 0, 0, 0, false, false, false, 0, 0, 0, 0, 0, none, 0, 0, [], [], false, 0, 0, [], [], [], [], [], [], []⟩
  proof := ⟨false, 0, false, [0x1C0, 0, 0, 0, 0, 0, 0, 0, 0, 0, 0, 0, 0, 0, 0, 0], 0, [], [], [], [], 0, none, [], false⟩
  mbx := ⟨false, 0, []⟩
  alm := {
    running := true, time := 0, timeHi := 0, minutes := 15, minutesNext := none, startS := 0, chanEnergy := [],
    windowTallies := [], lines := [], firstFrame := 0, lastFrame := 0, warnOpen := false, warnHold := 0, warnLen := 0,
    warnCount := 0, warnTotal := 0, flags := 0, mseq := none, seq := 0, tamper := 0, audit := 0, auditHi := 0,
    lidOpen := false, coeff := [0, 0, 0, 0, 0, 0, 0], fwImage := [], fwVersion := 0, staged := none, records := [],
    sending := none, refused := 0, ackSig := [0, 0, 0, 0], ackSeqLo := 0, ackSeqHi := 0, ackKind := 0, ackBusy := false,
    lossAt := 0, powerW := 0, chanDw := [], chanDv := 0, service := [], frac := 0, secEnergy := [],
    windows := 0, rewindNext := false, latched := [] }
  evt := ⟨0, 0, 0, false, 0, 16, 50, 1000, 0, 0, true, false, [], [], []⟩
  fault := ⟨false, 0, [], false⟩
  cnt := ⟨false, false, false, 0, []⟩
  acct := ⟨1000, true, none, 0, [], none⟩
  rebind := ⟨0, false, false, none, none, 0, [], []⟩
  tallies := []
  mseqOut := 0
  almSent := []
  host := ⟨[], [], []⟩
  free := 0
  pending := []

end Sys2Proof.Machine
end

