-- ==== Sys2Proof/Machine/Ops.lean ====
section
/-! DEFINITION. The operations the commands share: sparse tables, bytes, memories, time, host writes, event counters,
alarms, logs, traces, and completions. -/

namespace Sys2Proof.Machine

open Sys2Proof

/-! ### Sparse tables -/

/-- The value at a key. -/
def tabGet {α : Type} : Tab α → Nat → Option α
  | [], _ => none
  | (k', v) :: t, k => if k = k' then some v else tabGet t k

/-- The table with a key set; keys stay in rising order. -/
def tabSet {α : Type} : Tab α → Nat → α → Tab α
  | [], k, v => [(k, v)]
  | (k', v') :: t, k, v =>
    if k < k' then (k, v) :: (k', v') :: t
    else if k = k' then (k, v) :: t
    else (k', v') :: tabSet t k v

/-- The table without a key. -/
def tabErase {α : Type} (t : Tab α) (k : Nat) : Tab α := t.filter (fun p => p.1 != k)

/-- The table with the value at a key changed, where the key is there. -/
def tabMod {α : Type} (t : Tab α) (k : Nat) (f : α → α) : Tab α :=
  t.map fun p => if p.1 = k then (p.1, f p.2) else p

/-- The table with every value changed. -/
def tabMap {α : Type} (t : Tab α) (f : Nat → α → α) : Tab α := t.map fun p => (p.1, f p.1 p.2)

/-- The least number below `n` that is no key. -/
def freeKey {α : Type} (t : Tab α) : (fuel start : Nat) → Option Nat
  | 0, _ => none
  | fuel + 1, k => if (tabGet t k).isNone then some k else freeKey t fuel (k + 1)

/-! ### Bytes -/

/-- The number a little-endian run of bytes holds (00 R10). -/
def le : List Byte → Nat
  | [] => 0
  | b :: bs => b.toNat + 256 * le bs

/-- The low `n` bytes of a number, little-endian (00 R10). -/
def leBytes : (n x : Nat) → List Byte
  | 0, _ => []
  | n + 1, x => BitVec.ofNat 8 x :: leBytes n (x / 256)

/-- `n` bytes from an offset, zero past the end. -/
def bytesAt (b : List Byte) (off n : Nat) : List Byte :=
  (List.range n).map fun i => (b[off + i]?).getD 0

/-- The little-endian number of `n` bytes at an offset. -/
def num (b : List Byte) (off n : Nat) : Nat := le ((b.drop off).take n)

/-- Whether every one of `n` bytes at an offset is zero. -/
def zeroAt (b : List Byte) (off n : Nat) : Bool := ((b.drop off).take n).all (· == 0)

/-- `n` zero bytes. -/
def zeros (n : Nat) : List Byte := List.replicate n 0

/-- Replaces the bytes at an offset. -/
def patch (b : List Byte) (off : Nat) (w : List Byte) : List Byte := b.take off ++ w ++ b.drop (off + w.length)

/-- The signed number of an `n`-bit field. -/
def signed (n x : Nat) : Int := if x % 2 ^ n < 2 ^ (n - 1) then (x % 2 ^ n : Nat) else (x % 2 ^ n : Nat) - 2 ^ n

/-- A signed number held to a two's-complement field of `n` bits. -/
def satInt (n : Nat) (x : Int) : Int := max (-(2 : Int) ^ (n - 1)) (min ((2 : Int) ^ (n - 1) - 1) x)

/-- The two's-complement field of `n` bits. -/
def unsigned (n : Nat) (x : Int) : Nat := (x % (2 : Int) ^ n).toNat

/-- The least whole number at or above a quotient. -/
def ceilDiv (a b : Nat) : Nat := (a + b - 1) / b

/-- Adds, stopping at a limit. -/
def satAdd (a n limit : Nat) : Nat := min (a + n) limit

/-! ### AES-256-GCM (00 R8; 16 R505; log entry 4) -/

/-- Ciphertext or plaintext of a message: AES-256 in counter mode, the 32-bit counter behind the 12-byte nonce from 2 on. -/
def gcmCrypt (key nonce b : List Byte) : List Byte :=
  (List.range b.length).map fun i =>
    b.getD i 0 ^^^ (Config.aes256 key (nonce ++ (leBytes 4 (i / 16 + 2)).reverse)).getD (i % 16) 0

/-- The 128-bit tag of a ciphertext with its additional data (00 R8). -/
def gcmTag (key nonce aad cipher : List Byte) : List Byte := bytesAt (Config.gcmTag key nonce aad cipher) 0 16

/-- Seals a message: ciphertext and tag. -/
def gcmSeal (key nonce aad plain : List Byte) : List Byte × List Byte :=
  (gcmCrypt key nonce plain, gcmTag key nonce aad (gcmCrypt key nonce plain))

/-- Opens a message: the plaintext when the tag verifies. -/
def gcmOpen (key nonce aad cipher tag : List Byte) : Option (List Byte) :=
  if tag == gcmTag key nonce aad cipher then some (gcmCrypt key nonce cipher) else none

/-! ### Byte memories: cells at rising addresses, no zero byte listed (log entry 10) -/

/-- One byte; an unlisted address reads zero (10 R306, 19 R581). -/
def memRead (m : List Host.Cell) (a : Nat) : Byte := (tabGet m a).getD 0

/-- Writes one byte; a zero byte unlists its address. -/
def memWrite (m : List Host.Cell) (a : Nat) (b : Byte) : List Host.Cell :=
  if b = 0 then tabErase m a else tabSet m a b

/-- Reads a run of bytes. -/
def memBytes (m : List Host.Cell) (a n : Nat) : List Byte := (List.range n).map fun i => memRead m (a + i)

/-- Writes a run of bytes. -/
def memStore : List Host.Cell → Nat → List Byte → List Host.Cell
  | m, _, [] => m
  | m, a, b :: bs => memStore (memWrite m a b) (a + 1) bs

/-- Zeroes a run of bytes. -/
def memZero (m : List Host.Cell) (a n : Nat) : List Host.Cell := m.filter fun c => c.1 < a || a + n ≤ c.1

/-- The canonical form: addresses strictly rise and no listed byte is zero. -/
def Memory.wf : List Host.Cell → Bool
  | [] => true
  | [c] => c.2 != 0
  | c :: d :: m => c.2 != 0 && c.1 < d.1 && Memory.wf (d :: m)

/-! ### Time -/

/-- Sample ticks in a Frame of each Season (02 R46). -/
def seasonTicks (season : Nat) : Nat :=
  match season with
  | 0 => 96
  | 1 => 240
  | 2 => 480
  | _ => 960

/-- Sample ticks in a Frame of the Season in force (02 R43). -/
def State.frameTicks (s : State) : Nat := seasonTicks s.tb.season

/-- Sub-ticks in a Frame of the Season in force (09 R281). -/
def State.frameSubs (s : State) : Nat := 512 * s.frameTicks

/-- Whole microseconds in a number of sub-ticks of 24.576 MHz. -/
def subsToUs (subs : Nat) : Nat := subs * 125 / 3072

/-- Sub-ticks in a number of microseconds, rounded up. -/
def usToSubs (us : Nat) : Nat := ceilDiv (us * 3072) 125

/-- Samples of a stream of rate code `r` in 6,000 (02 R46): 8, 16, 24, 32 and 48 kHz. -/
def rateHz (r : Nat) : Nat :=
  match r with
  | 0 => 8000
  | 1 => 16000
  | 2 => 24000
  | 3 => 32000
  | _ => 48000

/-- Samples of a stream in one Frame of the Season in force (02 R46). -/
def State.frameSamples (s : State) (rate : Nat) : Nat := s.frameTicks * rateHz rate / 48000

/-! ### Host memory -/

/-- Sends an MSI-X vector (12 R382). -/
def State.sendMsix (s : State) (vector : Nat) : State :=
  { s with host := { s.host with msix := s.host.msix ++ [vector] } }

/-! ### Event counters (18 R573, R575) -/

/-- Where an event of a source occurs: in the module alone, in one field, or in every field at once (18 R575). -/
inductive EvScope where
  | module | field (f : Nat) | everywhere
  deriving DecidableEq, Repr

/-- Whether counter number `k` sees an event of this scope. -/
def scopeSeen (sc : EvScope) (k : Nat) : Bool :=
  match sc with
  | .module => k < 32
  | .field f => k < 32 || (k - 32) / 8 == f
  | .everywhere => true

/-- What `n` events count for counter number `k`: a module counter takes the sum over all 84 fields (18 R573, log entry 15). -/
def scopeCount (sc : EvScope) (k n : Nat) : Nat :=
  match sc with
  | .everywhere => if k < 32 then 84 * n else n
  | _ => n

/-- One counter after `n` events of a source (18 R573): it wraps modulo 2⁴⁸. -/
def bumpOne (code n : Nat) (sc : EvScope) (k : Nat) (c : EvCounter) : EvCounter :=
  if c.enable && c.source == code && code != 0 && scopeSeen sc k then
    { c with count := c.count + BitVec.ofNat 48 (scopeCount sc k n) }
  else c

/-- Counts `n` events of a source (18 R573). -/
def State.bump (s : State) (code n : Nat) (sc : EvScope := .module) : State :=
  { s with cnt := { s.cnt with ctrs := tabMap s.cnt.ctrs (bumpOne code n sc) } }

/-- Writes into host memory through a port, its bytes counted (12 R380, 18 R575). -/
def State.hostWrite (s : State) (port addr : Nat) (bytes : List Byte) : State :=
  State.bump { s with host := { s.host with writes := s.host.writes ++ [⟨port, addr, bytes⟩] } } (0x102 + port) bytes.length

/-! ### The event ring (18 R568 to R572) -/

/-- SOURCE of an event record (18 R569). -/
def srcOf (kind index : Nat) : Nat := kind * 4096 + index

/-- Slots of the event ring (18 R568). -/
def Evt.slots (e : Evt) : Nat := 64 * 2 ^ e.order

/-- Records the host has not consumed. -/
def Evt.fill (e : Evt) : Nat := (e.pi - e.ci).toNat

/-- Host address of the event ring. -/
def Evt.base (e : Evt) : Nat := e.baseHi.toNat * 2 ^ 32 + e.baseLo.toNat

/-- The 32 bytes of an event record (18 R569). -/
def evtBytes (r : EvtRecord) : List Byte :=
  leBytes 1 r.cls ++ leBytes 1 r.code ++ leBytes 2 r.source ++ leBytes 6 r.first.toNat ++ zeros 2
    ++ leBytes 6 r.last.toNat ++ zeros 2 ++ leBytes 4 (min r.count 0xFFFFFFFF) ++ leBytes 8 r.detail.toNat

/-- The port the event ring uses: the spec names none; the lower trained port (log entry 15). -/
def State.evtPort (s : State) : Nat := if s.rmk.port0.trained || !s.rmk.port1.trained then 0 else 1

/-- Writes an event record at PI; VECTOR goes out for an alarm, and as the ring crosses half full (18 R571). -/
def State.evtWrite (s : State) (r : EvtRecord) : State :=
  let e := s.evt
  let at_ := e.base + 32 * (e.pi.toNat % e.slots)
  let s := s.hostWrite s.evtPort at_ (evtBytes r)
  let s := { s with evt := { e with pi := e.pi + 1 } }
  if r.cls == 0 || e.fill + 1 == e.slots / 2 then s.sendMsix e.vector else s

/-- Whether an alarm record can be written now. -/
def Evt.room (e : Evt) : Bool := e.enable && e.fill < e.slots

/-- Writes an alarm record, or holds it in order until the ring has space (18 R570). -/
def State.alarmRecord (s : State) (r : EvtRecord) : State :=
  if s.evt.room && s.evt.waiting.isEmpty then (s.evtWrite r).bump 0x208 1
  else { s with evt := { s.evt with waiting := s.evt.waiting ++ [r] } }

/-- Writes held alarm records as space allows, oldest first (18 R570). -/
def State.evtDrain (s : State) : State :=
  s.evt.waiting.foldl
    (fun s r => if s.evt.room then ({ s with evt := { s.evt with waiting := s.evt.waiting.tail } }.evtWrite r).bump 0x208 1 else s) s

/-- The key an alarm takes: a new key beyond 2,048 is coalesced under SOURCE 0xFFFF (18 R570). -/
def Evt.keySource (e : Evt) (code source : Nat) : Nat :=
  if e.table.any (fun k => k.code == code && k.source == source) then source
  else if (e.table.filter (fun k => k.source != 0xFFFF)).length < 2048 then source
  else 0xFFFF

/-- An alarm-table entry after one more occurrence in its window (18 R570). -/
def alarmAgain (code source : Nat) (now : BitVec 48) (detail : DWord) (k : AlarmKey) : AlarmKey :=
  if k.code == code && k.source == source then
    { k with count := k.count + 1, first := if k.count = 0 then now else k.first, last := now, detail := detail }
  else k

/-- An occurrence of an alarm (18 R570). -/
def State.raiseAlarm (s : State) (code source : Nat) (detail : Nat) : State :=
  let src := s.evt.keySource code source
  let now := s.tb.frame
  if s.evt.table.any (fun k => k.code == code && k.source == src) then
    { s with evt := { s.evt with table := s.evt.table.map (alarmAgain code src now (BitVec.ofNat 64 detail)) } }
  else
    let k : AlarmKey := ⟨code, src, 0, now, now, 0, s.tb.frameOrd + s.evt.coalesce⟩
    let s := { s with evt := { s.evt with table := s.evt.table ++ [k] } }
    s.alarmRecord ⟨0, code, src, now, now, 1, BitVec.ofNat 64 detail⟩

/-- One log in the units of a bucket's level: sub-ticks in a second (18 R571). -/
def logUnit : Nat := 24576000

/-- The log limit of a source as it stands now: the level refills at LOG_RATE, to 4 × LOG_RATE (18 R571). -/
def State.logSource (s : State) (source : Nat) : LogSource :=
  let cap := 4 * s.evt.logRate * logUnit
  match s.evt.logs.find? (fun l => l.source == source) with
  | some l => { l with level := min cap (l.level + (s.tb.sub - l.at_) * s.evt.logRate), at_ := s.tb.sub }
  | none => ⟨source, cap, s.tb.sub, 0, 0, 0, 0, 0⟩

/-- Keeps a source's log limit. -/
def State.setLog (s : State) (l : LogSource) : State :=
  { s with evt := { s.evt with logs := s.evt.logs.filter (fun x => x.source != l.source) ++ [l] } }

/-- Whether logs and traces have room: the ring runs and is filled below 7/8 (18 R571). -/
def Evt.logRoom (e : Evt) : Bool := e.enable && 8 * e.fill < 7 * e.slots

/-- A log: written within the source's limit, else counted as suppressed (18 R571). -/
def State.writeLog (s : State) (code source : Nat) (detail : Nat) : State :=
  let l := s.logSource source
  if !s.evt.logEn then s
  else if s.evt.logRoom && logUnit ≤ l.level then
    (s.setLog { l with level := l.level - logUnit }).evtWrite ⟨1, code, source, s.tb.frame, s.tb.frame, 1, BitVec.ofNat 64 detail⟩
  else
    let first := if l.suppressed = 0 then s.tb.frame else l.first
    (s.setLog { l with suppressed := l.suppressed + 1, code := code, first := first, last := s.tb.frame }).bump 0x209 1

/-- The summary of a source's suppressed logs, when its limit permits (18 R571). -/
def State.writeLogSummary (s : State) (source : Nat) : State :=
  let l := s.logSource source
  if s.evt.logEn && s.evt.logRoom && logUnit ≤ l.level && 0 < l.suppressed then
    (s.setLog { l with level := l.level - logUnit, suppressed := 0 }).evtWrite
      ⟨1, 0xFE, source, l.first, l.last, l.suppressed, BitVec.ofNat 64 l.code⟩
  else s

/-- DETAIL of a trace with its drop counter: in [31:0], or in [63:48] for STREAM_SLIP, saturating (18 R572). -/
def traceDetail (code detail drops : Nat) : Nat :=
  if code == 0x83 then detail % 2 ^ 48 + min drops 0xFFFF * 2 ^ 48
  else min drops 0xFFFFFFFF + detail % 2 ^ 32 * 2 ^ 32

/-- A trace: written while the fill is at or below TRACE_PCT, else dropped and counted (18 R571). -/
def State.writeTrace (s : State) (code source : Nat) (detail : Nat) : State :=
  let l := s.logSource source
  let e := s.evt
  if e.traceEn && e.logRoom && 100 * e.fill ≤ e.tracePct * e.slots then
    (s.setLog { l with drops := 0 }).evtWrite
      ⟨2, code, source, s.tb.frame, s.tb.frame, 1, BitVec.ofNat 64 (traceDetail code detail l.drops)⟩
  else (s.setLog { l with drops := l.drops + 1 }).bump 0x20A 1

/-! ### Setup registers (12 R363 to R365, 19 R583) -/

/-- Which boot states let a write to a register take effect (19 R583): ESL_RESET_CTL; the ALM_ block; the staging registers
and window; the ESL_EVT_ registers and the host's MBX_ channels; every other register. -/
inductive Access where
  | reset | almanac | staging | faultedToo | ready
  deriving DecidableEq, Repr

/-- Whether a register write that arrives on a port takes effect (12 R365, 19 R583). -/
def State.writable (s : State) (p : Nat) (a : Access) : Bool :=
  (if p = 0 then s.rmk.port0.trained else s.rmk.port1.trained) &&
  match s.boot.phase with
  | .reset => false
  | .wake | .verify | .cores | .memory | .measure => a == .reset || a == .almanac
  | .ready => true
  | .fwRefused => a == .reset || a == .almanac || a == .staging
  | .faulted => a == .reset || a == .staging || a == .faultedToo

/-- Whether a read of a register that arrives on a port is answered with its value and takes its side effects (19 R583). -/
def State.readable (s : State) (p : Nat) (a : Access) : Bool :=
  (if p = 0 then s.rmk.port0.trained else s.rmk.port1.trained) &&
  match s.boot.phase with
  | .reset => false
  | .wake | .verify | .cores | .memory | .measure => a == .reset || a == .almanac
  | .fwRefused => a == .reset || a == .almanac || a == .staging
  | .ready | .faulted => true

/-- Bits [hi:lo] of a register value. -/
def fld (v : Word) (hi lo : Nat) : Nat := v.toNat / 2 ^ lo % 2 ^ (hi - lo + 1)

/-- One bit of a register value. -/
def bitOf (v : Word) (k : Nat) : Bool := v.getLsbD k

/-! ### Rings and completions (12 R366 to R393) -/

/-- A ring pair as its registers default (12 R368). -/
def Ring.init : Ring where
  sqLo := 0
  sqHi := 0
  cqLo := 0
  cqHi := 0
  sqOrder := 0
  cqOrder := 0
  port := 0
  vector := 0
  count := 1
  holdUs := 0
  state := .disabled
  stopped := false
  overrun := false
  linkLost := false
  cqStall := false
  cfgErr := false
  sqPi := 0
  sqCi := 0
  cqPi := 0
  cqCi := 0
  arm := false
  reading := false
  kicked := false
  readAt := 0
  fetchAt := 0
  nextSeq := 0
  slots := []
  fetched := []
  accepted := []
  held := []
  heldSince := none
  unread := []
  uncovered := 0
  firstAt := 0

/-- The window of an empty completion record (13 R426). -/
def Window.empty : Window := ⟨0, none, 0, 0, false, false, false⟩

/-- Ring pair `n`. -/
def State.ring (s : State) (n : Nat) : Ring := (tabGet s.rmk.rings n).getD Ring.init

/-- Sets ring pair `n`. -/
def State.setRing (s : State) (n : Nat) (r : Ring) : State :=
  { s with rmk := { s.rmk with rings := tabSet s.rmk.rings n r } }

/-- A Ramok port. -/
def State.port (s : State) (p : Nat) : Port := if p = 0 then s.rmk.port0 else s.rmk.port1

/-- Submission slots (12 R368). -/
def Ring.sqSize (r : Ring) : Nat := 16 * 2 ^ r.sqOrder
/-- Completion slots (12 R368). -/
def Ring.cqSize (r : Ring) : Nat := 16 * 2 ^ r.cqOrder
/-- Host address of the submission ring. -/
def Ring.sqBase (r : Ring) : Nat := r.sqHi.toNat * 2 ^ 32 + r.sqLo.toNat
/-- Host address of the completion ring. -/
def Ring.cqBase (r : Ring) : Nat := r.cqHi.toNat * 2 ^ 32 + r.cqLo.toNat

/-- STATE of RMK_RING_STATUS (12 R368). -/
def Ring.stateCode (r : Ring) : Nat :=
  if r.stopped then 3 else
  match r.state with
  | .disabled => 0
  | .unbound => 1
  | .bound => 2

/-- A flag as bit `k` of a register. -/
def bit (b : Bool) (k : Nat) : Nat := if b then 2 ^ k else 0

/-- RMK_RING_STATUS (12 R368). -/
def Ring.status (r : Ring) : Nat :=
  r.stateCode + bit r.overrun 2 + bit r.linkLost 3 + bit r.cqStall 4 + bit r.cfgErr 5 + r.sqCi.toNat * 2 ^ 16

/-- Host address of a ring's doorbell entry (12 R371). -/
def State.doorbell (s : State) (n : Nat) : Nat := s.rmk.dbHi.toNat * 2 ^ 32 + s.rmk.dbLo.toNat + 16 * n

/-- A write that a descriptor or a session of a ring causes; a ring stopped with LINK_LOST holds it (12 R380, R392). -/
def State.ringWrite (s : State) (n addr : Nat) (bytes : List Byte) : State :=
  let r := s.ring n
  if r.linkLost then { s with host := { s.host with held := s.host.held ++ [(n, ⟨r.port, addr, bytes⟩)] } }
  else s.hostWrite r.port addr bytes

/-- Writes bytes 8 to 15 of a ring's doorbell entry (12 R371). A ring stopped with LINK_LOST holds its writes (12 R392). -/
def State.mirror (s : State) (n : Nat) : State :=
  let r := s.ring n
  if r.linkLost then s
  else s.hostWrite r.port (s.doorbell n + 8)
    (leBytes 2 r.sqCi.toNat ++ leBytes 2 r.cqPi.toNat ++ leBytes 2 r.status ++ zeros 2)

/-- The fields of a completion record that its opcode fills in (13 R425, R426). -/
structure Done where
  status : Nat
  detail : Nat := 0
  result : Nat := 0
  count  : Nat := 0
  win    : Window := Window.empty
  frame  : Nat := 0
  stream : Nat := 0
  pcmEnd : Option Nat := none
  data   : List HostWrite := []
  due    : Option Int := none
  deriving DecidableEq, Repr

/-- The completion record of a descriptor as fetched (13 R425). -/
def recordOf (d : Desc) (x : Done) : CqRecord where
  slot := d.slot
  phase := false
  gen := d.bytes.getD 1 0
  opcode := d.bytes.getD 0 0
  status := x.status
  detail := x.detail
  cookie := BitVec.ofNat 32 (num d.bytes 4 4)
  result := BitVec.ofNat 32 x.result
  count := x.count
  win := x.win
  event := false
  frame := x.frame
  stream := x.stream
  pcmEnd := x.pcmEnd
  at_ := 0
  data := x.data
  due := x.due

/-- Hands a record to its ring, behind the records already held (12 R377, R378). -/
def State.hold (s : State) (n : Nat) (rec : CqRecord) : State :=
  let r := s.ring n
  s.setRing n { r with held := r.held ++ [{ rec with at_ := s.tb.sub }], heldSince := some (r.heldSince.getD s.tb.sub) }

/-- An accepted descriptor by its acceptance number. -/
def State.desc (s : State) (n seq : Nat) : Option Desc := (s.ring n).accepted.find? (fun d => d.seq == seq)

/-- Changes an accepted descriptor. -/
def State.modDesc (s : State) (n seq : Nat) (f : Desc → Desc) : State :=
  let r := s.ring n
  s.setRing n { r with accepted := r.accepted.map fun d => if d.seq == seq then f d else d }

/-- An accepted descriptor leaves with its one completion record (12 R377). -/
def State.complete (s : State) (n : Nat) (d : Desc) (x : Done) : State :=
  let r := s.ring n
  -- a ring that 1,024 outstanding descriptors stopped issues its next fetch now (12 R375)
  let at_ := if r.fetched.length + r.accepted.length = 1024 then s.tb.sub else r.fetchAt
  (s.setRing n { r with accepted := r.accepted.filter (fun e => e.seq != d.seq), fetchAt := at_ }).hold n (recordOf d x)

/-- OPCODE of a descriptor (13 R396). -/
def Desc.opcode (d : Desc) : Nat := num d.bytes 0 1
/-- STREAM of a descriptor (13 R396). -/
def Desc.stream (d : Desc) : Nat := num d.bytes 2 2

/-! ### Windows of completion records (13 R425, R426) -/

/-- The least of two margins. -/
def minMargin (a b : Option Int) : Option Int :=
  match a, b with
  | none, m => m
  | m, none => m
  | some x, some y => some (min x y)

/-- The window that covers two. -/
def Window.join (a b : Window) : Window :=
  ⟨max a.interference b.interference, minMargin a.margin b.margin, a.starved + b.starved, a.slips + b.slips,
    a.endMark || b.endMark, a.stretched || b.stretched, a.keepRestart || b.keepRestart⟩

/-- The 32 bytes of a completion record (13 R425). -/
def recordBytes (r : CqRecord) : List Byte :=
  leBytes 2 (r.slot % 4096 + bit r.phase 15) ++ [r.gen, r.opcode] ++ leBytes 2 r.status ++ leBytes 2 r.detail
    ++ leBytes 4 r.cookie.toNat ++ leBytes 4 r.result.toNat ++ leBytes 6 r.count
    ++ leBytes 2 (min r.win.interference 0xFFFF)
    ++ leBytes 4 (unsigned 32 (satInt 32 (r.win.margin.getD 0)))
    ++ leBytes 2 (min r.win.starved 0xFFFF) ++ leBytes 1 (min r.win.slips 0xFF)
    ++ leBytes 1 (bit r.win.margin.isSome 0 + bit r.win.endMark 1 + bit r.win.stretched 2 + bit r.win.keepRestart 3)

end Sys2Proof.Machine
end

