-- ==== Sys2Proof/Machine/Almanac.lean ====
section
/-! DEFINITION. Almanac, the sealed meter (17 R526 to R551): SHUNT_SAMPLE, WARNING_SPAN, INTERVAL_BOUNDARY, BIND, UNBIND,
TALLY_A, TALLY_B, WINDOW_END, ACK, REWIND, EXPORT_PART, the ALM_ accesses, the service operations and the lid. -/

namespace Sys2Proof.Machine

open Sys2Proof

/-! ### The store (17 R546, R549) -/

/-- Bytes of the record store (17 R546). -/
def almStoreBytes : Nat := 3584 * 1024
/-- Audit slots (17 R546). -/
def almAuditSlots : Nat := 2048
/-- Record space below which metered stop holds: twice the largest record (17 R549). -/
def almReserve : Nat := 1049344

/-- Bytes of a list of records. -/
def recordsBytes (rs : List MeterRecord) : Nat := (rs.map fun r => r.bytes.length).sum

/-- Bytes the unacknowledged interval records hold. -/
def Alm.unackedBytes (a : Alm) : Nat := recordsBytes (a.records.filter fun r => r.kind == 0 && !r.acked)
/-- Record space that holds no unacknowledged record (17 R549). -/
def Alm.freeBytes (a : Alm) : Nat := almStoreBytes - a.unackedBytes
/-- Free audit slots (17 R549). -/
def Alm.auditFree (a : Alm) : Nat := almAuditSlots - (a.records.filter fun r => r.kind == 1 && !r.acked).length
/-- Metered stop (17 R549). -/
def Alm.meteredStop (a : Alm) : Bool := a.freeBytes < almReserve || a.auditFree < 64

/-- Drops acknowledged records of a kind, oldest first, while the kind holds more than its share of the store (17 R546). -/
def dropAcked (kind : Nat) (tooMany : List MeterRecord → Bool) : (fuel : Nat) → List MeterRecord → List MeterRecord
  | 0, rs => rs
  | fuel + 1, rs =>
    if tooMany (rs.filter fun r => r.kind == kind) then
      match rs.find? (fun r => r.kind == kind && r.acked) with
      | none => rs
      | some r => dropAcked kind tooMany fuel (rs.erase r)
    else rs

/-- Starts the sending at the oldest unacknowledged record if Almanac waits (17 R547). -/
def Alm.restartSending (a : Alm) : Alm :=
  match a.sending with
  | some _ => a
  | none =>
    match a.records.find? (fun r => !r.acked) with
    | none => a
    | some r => { a with sending := some (r.kind, r.seq, 0) }

/-- Stores a record that closes; it joins the end of the order (17 R546, R547). -/
def Alm.store (a : Alm) (r : MeterRecord) : Alm :=
  let tooMany (rs : List MeterRecord) : Bool :=
    if r.kind = 0 then recordsBytes rs > almStoreBytes else rs.length > almAuditSlots
  let rs := dropAcked r.kind tooMany a.records.length (a.records ++ [r])
  ({ a with records := rs }).restartSending

/-! ### Audit records (17 R543) -/

/-- The 256 bytes of an audit record (17 R543). -/
def auditBytes (s : State) (akind source : Nat) (old new : List Byte) : List Byte :=
  let head := leBytes 4 0x4B414C4D ++ [1, 1] ++ leBytes 2 akind ++ leBytes 8 (s.alm.audit.toNat + 1)
    ++ leBytes 6 s.part.serial.toNat ++ zeros 2 ++ leBytes 8 s.alm.time.toNat ++ leBytes 4 s.alm.tamper
    ++ leBytes 1 source ++ zeros 3 ++ bytesAt old 0 32 ++ bytesAt new 0 32 ++ zeros 24
  head ++ bytesAt (Config.ed448Sign Config.meterKey head) 0 114 ++ zeros 14

/-- One audited event: the audit counter goes up and one record is written while a slot is free (17 R543, R549;
log entry 17). -/
def writeAudit (akind source : Nat) (old new : List Byte) (s : State) : State :=
  let r : MeterRecord := ⟨1, s.alm.audit.toNat + 1, auditBytes s akind source old new, false⟩
  let a := { s.alm with audit := s.alm.audit + 1 }
  { s with alm := if s.alm.auditFree = 0 then a else a.store r }

/-- Version and the first 24 bytes of the checksum of an Almanac image (17 R543 AKIND 4, 5). -/
def fwIdent (version : Nat) (image : List Byte) : List Byte :=
  leBytes 8 version ++ bytesAt (Config.shake256 image 64) 0 24

/-! ### Interval records (17 R537 to R542) -/

/-- E_meas in µJ: an energy unit is 1/8,000 mW s, one eighth of a µJ (17 R530). -/
def Alm.energyUj (a : Alm) : Nat := a.chanEnergy.sum / 8

/-- A_s of a line: each count times its coefficient, in 1/16 pJ (17 R537 step 1). -/
def activity (coeff counts : List Nat) : Nat := (List.zipWith (· * ·) coeff counts).sum

/-- A, the sum of A_s over all sessions (17 R537 step 2). -/
def Alm.activityTotal (a : Alm) : Nat := (a.lines.map fun l => activity a.coeff l.2.a).sum

/-- E_s of a line in µJ (17 R537 steps 3, 4). -/
def Alm.attributed (a : Alm) (l : MeterLine) : Nat :=
  if a.activityTotal = 0 then 0 else a.energyUj * activity a.coeff l.a / a.activityTotal

/-- The 128 bytes of a line (17 R541). -/
def lineBytes (a : Alm) (id : Nat) (l : MeterLine) : List Byte :=
  bytesAt l.tid 0 16 ++ leBytes 2 id ++ leBytes 2 (bit l.bound 0 + bit l.unbound 1) ++ zeros 4
    ++ leBytes 8 (a.attributed l) ++ leBytes 8 (activity a.coeff l.a / 16000000) ++ leBytes 8 (l.b.getD 5 0)
    ++ ((List.range 5).map fun i => leBytes 8 (l.b.getD i 0)).flatten ++ leBytes 8 (l.b.getD 6 0) ++ zeros 32

/-- The bytes of an interval record (17 R540, R542). -/
def intervalBytes (s : State) (flags : Nat) : List Byte :=
  let a := s.alm
  let lines := a.lines
  let attributed := (lines.map fun l => a.attributed l.2).sum
  let head := leBytes 4 0x4B414C4D ++ [0, 1] ++ leBytes 2 lines.length ++ leBytes 8 a.seq ++ leBytes 6 s.part.serial.toNat
    ++ zeros 2 ++ leBytes 8 a.startS.toNat ++ leBytes 8 a.time.toNat ++ leBytes 6 a.firstFrame.toNat ++ zeros 2
    ++ leBytes 6 a.lastFrame.toNat ++ zeros 2 ++ leBytes 8 a.energyUj ++ leBytes 8 (a.energyUj - attributed)
    ++ leBytes 4 a.audit.toNat ++ leBytes 4 a.tamper ++ bytesAt (Config.shake256 a.fwImage 64) 0 64
    ++ ((List.range 16).map fun c => leBytes 4 (min (a.chanEnergy.getD c 0 / 8000) 0xFFFFFFFF)).flatten
    ++ leBytes 4 flags ++ leBytes 2 (min a.warnCount 0xFFFF) ++ zeros 2 ++ leBytes 4 (ceilDiv a.warnTotal 1000) ++ zeros 36
  let body := head ++ (lines.map fun l => lineBytes a l.1 l.2).flatten
  body ++ bytesAt (Config.ed448Sign Config.meterKey body) 0 114 ++ zeros 14

/-- Bytes of the record the open interval would make. -/
def Alm.recordSize (a : Alm) : Nat := 384 + 128 * a.lines.length

/-- Whether the open interval can close: its record fits beside the unacknowledged ones (17 R546; log entry 17). -/
def Alm.canClose (a : Alm) : Bool := a.recordSize ≤ a.freeBytes

/-- Closes the open interval at Almanac's time with `flags` beside those gathered, and opens the next one with `carry`
(17 R539, R540). Lines of sessions still bound stay. -/
def closeInterval (flags carry : Nat) (s : State) : State :=
  let a := s.alm
  let r : MeterRecord := ⟨0, a.seq, intervalBytes s (a.flags ||| flags), false⟩
  let stored := a.store r
  -- FLAGS[2] reports metered stop at the close, so it is taken with the record in the store
  let r := { r with bytes := intervalBytes s (a.flags ||| flags ||| bit stored.meteredStop 2) }
  let a := a.store r
  let keep := (a.lines.filter fun l => l.2.live).map fun l =>
    (l.1, { l.2 with bound := true, unbound := false, a := [], b := [] })
  { s with alm := { a with
    seq := a.seq + 1
    startS := a.time
    chanEnergy := []
    lines := keep
    firstFrame := 0
    lastFrame := 0
    windows := 0
    warnCount := 0
    warnTotal := 0
    flags := carry } }

/-- SHUNT_SAMPLE: 16 powers in mW, each for 125 µs; 8,000 samples make a second of Almanac time (17 R529, R530). -/
def execShuntSample (volts : Nat) (milliwatts : List Nat) (s : State) : Host.Outcome State Fault Refusal :=
  .next (
    let a := s.alm
    if !a.running then s else
    let add (e : List Nat) : List Nat := (List.range 16).map fun c => e.getD c 0 + milliwatts.getD c 0
    let sec := add a.secEnergy
    let a := { a with chanEnergy := add a.chanEnergy, secEnergy := sec, frac := a.frac + 1, chanDv := min (volts / 10) 1023 }
    let a := if a.frac < 8000 then a else
      { a with
        frac := 0
        time := a.time + 1
        secEnergy := []
        powerW := min (sec.sum / 8000000) 0xFFFFF
        chanDw := sec.map fun e => min (e / 800000) 0xFFFF }
    { s with alm := a })

/-- WARNING_SPAN: a voltage sample `micros` after the last one. A span opens at the first below 48.0 V and ends when samples
have stayed at or above it for 1 ms (17 R532). `warnHold` is 0 after a sample below, else 1 more than the µs held. -/
def execWarningSpan (volts micros : Nat) (s : State) : Host.Outcome State Fault Refusal :=
  .next (
    let a := s.alm
    if !a.running then s else
    if volts < 4800 then
      if a.warnOpen then { s with alm := { a with warnLen := a.warnLen + micros, warnHold := 0 } }
      else { s with alm := { a with warnOpen := true, warnLen := 0, warnHold := 0 } }
    else if !a.warnOpen then s
    else
      let len := a.warnLen + micros
      let hold := if a.warnHold = 0 then 1 else a.warnHold + micros
      if hold ≤ 1000 then { s with alm := { a with warnLen := len, warnHold := hold } }
      else { s with alm := { a with
        warnOpen := false
        warnLen := 0
        warnHold := 0
        warnCount := a.warnCount + 1
        warnTotal := a.warnTotal + len
        flags := a.flags ||| 1 } })

/-- INTERVAL_BOUNDARY: at a whole multiple of the length, the interval closes and a new length takes effect (17 R539). -/
def execIntervalBoundary (s : State) : Host.Outcome State Fault Refusal :=
  .next (
    let a := s.alm
    if a.running && a.frac = 0 && a.time.toNat % (60 * a.minutes) = 0 && a.startS.toNat < a.time.toNat && a.canClose then
      let s := closeInterval 0 0 s
      { s with alm := { s.alm with minutes := a.minutesNext.getD a.minutes, minutesNext := none } }
    else s)

/-! ### Messages on mailbox channel 0 (17 R533 to R535) -/

/-- Takes note of a message's MSEQ: a gap sets FLAGS[3]; MSEQ 0 follows a module reset, after which no earlier session is
bound (17 R533, R550; log entry 17). -/
def Alm.noteMseq (a : Alm) (mseq : Nat) : Alm :=
  let gap := match a.mseq with
    | some last => mseq != last + 1 && mseq != 0
    | none => mseq != 0
  let a := { a with mseq := some mseq, flags := if gap then a.flags ||| 8 else a.flags }
  if mseq = 0 then { a with lines := a.lines.map fun l => (l.1, { l.2 with live := false }) } else a

/-- The bound line of a session a message names: the first still bound, else the last. -/
def Alm.lineOf (a : Alm) (session : Nat) : Option MeterLine :=
  match a.lines.find? (fun l => l.1 == session && l.2.live) with
  | some l => some l.2
  | none => (a.lines.reverse.find? (fun l => l.1 == session)).map (·.2)

/-- Inserts a line behind those of equal or lower session ID (17 R541). -/
def insertLine (id : Nat) (l : MeterLine) : List (Nat × MeterLine) → List (Nat × MeterLine)
  | [] => [(id, l)]
  | (k, m) :: t => if id < k then (id, l) :: (k, m) :: t else (k, m) :: insertLine id l t

/-- A number that no line of a session bears yet. -/
def Alm.nextKey (a : Alm) : Nat := ((a.lines ++ a.windowTallies).map fun l => l.2.key + 1).foldl max 1

/-- BIND (17 R534): the session gets a line. -/
def execBind (session mseq : Nat) (tid : List Byte) (_frame : BitVec 48) (s : State) : Host.Outcome State Fault Refusal :=
  .next (
    if !s.alm.running then s else
    let a := s.alm.noteMseq mseq
    { s with alm := { a with lines := insertLine session ⟨tid, true, false, true, [], [], a.nextKey⟩ a.lines } })

/-- Marks the first bound line of a session unbound. -/
def unbindFirst (session : Nat) : List (Nat × MeterLine) → List (Nat × MeterLine)
  | [] => []
  | (k, l) :: t =>
    if k = session && l.live then (k, { l with unbound := true, live := false }) :: t else (k, l) :: unbindFirst session t

/-- UNBIND (17 R534). -/
def execUnbind (session mseq : Nat) (_frame : BitVec 48) (s : State) : Host.Outcome State Fault Refusal :=
  .next (
    if !s.alm.running then s else
    let a := s.alm.noteMseq mseq
    { s with alm := { a with lines := unbindFirst session a.lines } })

/-- Adds two lists of counts. -/
def addCounts (n : Nat) (x y : List Nat) : List Nat := (List.range n).map fun i => x.getD i 0 + y.getD i 0

/-- The tallies of the running window for a session, with the tenant and the BIND they belong to: a ring that has been bound again has
those of the session before it until that one's UNBIND (01 R25, 17 R535). -/
def Alm.windowTally (a : Alm) (session : Nat) : MeterLine :=
  let l := a.lineOf session
  let key := (l.map (·.key)).getD 0
  ((a.windowTallies.find? fun t => t.1 = session && t.2.key = key).map (·.2)).getD
    ⟨(l.map (·.tid)).getD (zeros 16), false, false, false, [], [], key⟩

/-- Sets the tallies of the running window for a session. -/
def Alm.setTally (a : Alm) (session : Nat) (t : MeterLine) : Alm :=
  { a with windowTallies := a.windowTallies.filter (fun w => !(w.1 = session && w.2.key = t.key)) ++ [(session, t)] }

/-- TALLY_A (17 R534): seven activity counts for the window. -/
def execTallyA (session mseq : Nat) (counts : List Nat) (s : State) : Host.Outcome State Fault Refusal :=
  .next (
    if !s.alm.running then s else
    let a := s.alm.noteMseq mseq
    let t := a.windowTally session
    { s with alm := a.setTally session { t with a := addCounts 7 t.a counts } })

/-- TALLY_B (17 R534): samples delivered at five rates, tokens, samples lost on the line. -/
def execTallyB (session mseq : Nat) (counts : List Nat) (s : State) : Host.Outcome State Fault Refusal :=
  .next (
    if !s.alm.running then s else
    let a := s.alm.noteMseq mseq
    let t := a.windowTally session
    { s with alm := a.setTally session { t with b := addCounts 7 t.b counts } })

/-- Adds a window's tally to the line of its session, or makes a line for it (01 R25, 17 R535, R541). -/
def assignTally (id : Nat) (t : MeterLine) (lines : List (Nat × MeterLine)) : List (Nat × MeterLine) :=
  let rec go : List (Nat × MeterLine) → Option (List (Nat × MeterLine))
    | [] => none
    | (k, l) :: rest =>
      match go rest with
      | some rest => some ((k, l) :: rest)
      | none =>
        if k = id && l.key = t.key then some ((k, { l with a := addCounts 7 l.a t.a, b := addCounts 7 l.b t.b }) :: rest)
        else none
  (go lines).getD (insertLine id t lines)

/-- WINDOW_END (17 R535): the window's tallies go to the open interval. -/
def execWindowEnd (mseq : Nat) (frame : BitVec 48) (_sessions : Nat) (s : State) : Host.Outcome State Fault Refusal :=
  .next (
    if !s.alm.running then s else
    let a := s.alm.noteMseq mseq
    { s with alm := { a with
      lines := a.windowTallies.foldl (fun ls t => assignTally t.1 t.2 ls) a.lines
      windowTallies := []
      firstFrame := if a.windows = 0 then frame else a.firstFrame
      lastFrame := frame
      windows := a.windows + 1 } })

/-! ### Acknowledgement and export (17 R547, R548) -/

/-- The first 16 signature bytes of a stored record (17 R542, R543). -/
def recordSig (r : MeterRecord) : List Byte :=
  if r.kind = 0 then bytesAt r.bytes (r.bytes.length - 128) 16 else bytesAt r.bytes 0x80 16

/-- The record sent after another in the order of closing: the next unacknowledged one, or the oldest after a REWIND
(17 R547). -/
def Alm.nextRecord (a : Alm) (kind seq : Nat) : Option (Nat × Nat × Nat) :=
  let later := (a.records.dropWhile fun r => !(r.kind == kind && r.seq == seq)).drop 1
  let from_ := if a.rewindNext then a.records else later
  (from_.find? fun r => !r.acked).map fun r => (r.kind, r.seq, 0)

/-- An acknowledgement frees the oldest unacknowledged record of its kind if it names it and its signature bytes match;
else it is counted as refused (17 R548). A record being sent gives way to the next (17 R550). -/
def Alm.ack (a : Alm) (kind : Nat) (seq : Nat) (sig : List Byte) : Alm :=
  match a.records.find? (fun r => r.kind == kind && !r.acked) with
  | none => { a with refused := satAdd a.refused 1 0xFFFF }
  | some r =>
    if r.seq = seq && recordSig r = sig then
      let a := { a with records := a.records.map fun x => if x = r then { x with acked := true } else x }
      match a.sending with
      | none => a.restartSending
      | some (k, q, _) => if k = kind && q = seq then { a with sending := a.nextRecord k q, rewindNext := false } else a
    else { a with refused := satAdd a.refused 1 0xFFFF }

/-- ACK, by mailbox channel 0 or at the service connector (17 R544, R548). -/
def execAck (path : AckPath) (kind : Nat) (seq : DWord) (sig : List Byte) (s : State) : Host.Outcome State Fault Refusal :=
  .next (
    if !s.alm.running then s else
    match path with
    | .mailbox mseq => { s with alm := { (s.alm.noteMseq mseq).ack kind seq.toNat sig with ackBusy := false } }
    | .service => { s with alm := s.alm.ack kind seq.toNat sig })

/-- REWIND (17 R547): the next record sent is the oldest unacknowledged one. -/
def execRewind (mseq : Nat) (s : State) : Host.Outcome State Fault Refusal :=
  .next (
    if !s.alm.running then s else
    let a := s.alm.noteMseq mseq
    let a := { a with ackBusy := false, rewindNext := a.sending.isSome }
    { s with alm := a.restartSending })

/-- A mailbox channel as the table leaves it unbound (16 R514). -/
def Mailbox.init : Mailbox := ⟨15, 15, false, false, List.replicate 16 0⟩

/-- Mailbox channel `n`. -/
def State.mailbox (s : State) (n : Nat) : Mailbox := (tabGet s.mbx.chans n).getD Mailbox.init

/-- Sets a mailbox channel. -/
def State.setMailbox (s : State) (n : Nat) (m : Mailbox) : State :=
  { s with mbx := { s.mbx with chans := tabSet s.mbx.chans n m } }

/-- The 16 words of a 64-byte message. -/
def wordsOf (b : List Byte) : List Word := (List.range 16).map fun i => BitVec.ofNat 32 (num b (4 * i) 4)

/-- The message of one part of a record (17 R547). -/
def partMessage (r : MeterRecord) (part : Nat) : List Byte :=
  leBytes 1 r.kind ++ zeros 1 ++ leBytes 2 part ++ leBytes 2 (ceilDiv r.bytes.length 48) ++ zeros 2 ++ leBytes 8 r.seq
    ++ bytesAt r.bytes (48 * part) 48

/-- EXPORT_PART: the next part goes out on channel 1 while its message slot is free (17 R547, 16 R516). -/
def execExportPart (s : State) : Host.Outcome State Fault Refusal :=
  .next (
    let a := s.alm
    let m := s.mailbox 1
    match a.sending with
    | none => s
    | some (kind, seq, part) =>
      if !a.running || m.full || m.sender != 6 || m.receiver != 0 then s else
      match a.records.find? (fun r => r.kind == kind && r.seq == seq) with
      | none => s
      | some r =>
        let s := s.setMailbox 1 { m with full := true, words := wordsOf (partMessage r part) }
        let next := if part + 1 < ceilDiv r.bytes.length 48 then some (kind, seq, part + 1) else a.nextRecord kind seq
        let done := !(part + 1 < ceilDiv r.bytes.length 48)
        { s with alm := { a with sending := next, rewindNext := a.rewindNext && !done } })

/-- Easel 3 sends a message on channel 0 (17 R533): the head, MSEQ counted from 0, then the payload. -/
def sendAlm (ekind session : Nat) (payload : List Byte) (s : State) : State :=
  { s with
    almSent := s.almSent ++ [leBytes 1 ekind ++ zeros 1 ++ leBytes 2 session ++ leBytes 4 s.mseqOut ++ bytesAt payload 0 56]
    mseqOut := s.mseqOut + 1 }

/-- ALM_ACK_CTL.ACK: Easel 3 forwards the host's acknowledgement as EKIND 5 (17 R548). -/
def almAckWrite (s : State) : State :=
  let sig := (s.alm.ackSig.map fun w => leBytes 4 w.toNat).flatten
  let s := sendAlm 5 0 (leBytes 1 s.alm.ackKind ++ zeros 7 ++ leBytes 4 s.alm.ackSeqLo.toNat
    ++ leBytes 4 s.alm.ackSeqHi.toNat ++ bytesAt sig 0 16) s
  { s with alm := { s.alm with ackBusy := true } }

/-- ALM_ACK_CTL.REWIND: Easel 3 forwards it as EKIND 6 (17 R551). -/
def almRewindWrite (s : State) : State :=
  let s := sendAlm 6 0 [] s
  { s with alm := { s.alm with ackBusy := true } }

/-- ALM_ACK_CTL_ACK: ACK is written (17 R548). -/
def execAlmAckCtlAck (port : Nat) (value : Word) (s : State) : Host.Outcome State Fault Refusal :=
  .next (if s.writable port .ready && bitOf value 0 then almAckWrite s else s)

/-- ALM_ACK_CTL_REWIND: REWIND is written (17 R551). -/
def execAlmAckCtlRewind (port : Nat) (value : Word) (s : State) : Host.Outcome State Fault Refusal :=
  .next (if s.writable port .ready && bitOf value 1 then almRewindWrite s else s)

/-- A high half latches bits [63:32] with the read of its low half (17 R551). -/
def latchAudit (s : State) : State := { s with alm := { s.alm with auditHi := BitVec.ofNat 32 (s.alm.audit.toNat / 2 ^ 32) } }
@[inherit_doc latchAudit] def latchTime (s : State) : State :=
  { s with alm := { s.alm with timeHi := BitVec.ofNat 32 (s.alm.time.toNat / 2 ^ 32) } }

/-- ALM_AUDIT_LO is read: ALM_AUDIT_HI latches bits [63:32] (17 R551). -/
def execAlmAuditLoRead (port : Nat) (s : State) : Host.Outcome State Fault Refusal :=
  .next (if s.readable port .almanac then latchAudit s else s)

/-- ALM_TIME_LO is read: ALM_TIME_HI latches bits [63:32] (17 R551). -/
def execAlmTimeLoRead (port : Nat) (s : State) : Host.Outcome State Fault Refusal :=
  .next (if s.readable port .almanac then latchTime s else s)

/-! ### Service operations and the lid (17 R543 to R545) -/

/-- READ: every stored record, oldest first (17 R544). -/
def execRead (s : State) : Host.Outcome State Fault Refusal :=
  .next (if s.alm.running then { s with alm := { s.alm with service := s.alm.service ++ s.alm.records } } else s)

/-- Whether a SET operation is taken: the lid is open and at least 32 audit slots are free (17 R544, R549). -/
def Alm.canSet (a : Alm) : Bool := a.running && a.lidOpen && 32 ≤ a.auditFree

/-- SET_TIME: the open interval closes at the old time and the next opens at the new time, both with the clock flag; the
change commits with its audit record (17 R539, R543, R550). -/
def execSetTime (seconds : DWord) (s : State) : Host.Outcome State Fault Refusal :=
  .next (
    if s.alm.canSet && s.alm.canClose then
      let old := s.alm.time.toNat
      let s := closeInterval 0x10 0x10 s
      writeAudit 2 0 (leBytes 8 old) (leBytes 8 seconds.toNat)
        { s with alm := { s.alm with time := seconds, startS := seconds } }
    else s)

/-- SET_INTERVAL: a length of 1, 5, 15, 30 or 60 minutes from the next boundary of the old length (17 R539, R543). -/
def execSetInterval (minutes : Nat) (s : State) : Host.Outcome State Fault Refusal :=
  .next (
    if s.alm.canSet && [1, 5, 15, 30, 60].contains minutes then
      writeAudit 1 0 (leBytes 8 s.alm.minutes) (leBytes 8 minutes) { s with alm := { s.alm with minutesNext := some minutes } }
    else s)

/-- The seven coefficients as an audit record holds them. -/
def coeffBytes (c : List Nat) : List Byte := ((List.range 7).map fun i => leBytes 2 (c.getD i 0)).flatten

/-- SET_COEFF (17 R538, R543). -/
def execSetCoeff (coeff : List Nat) (s : State) : Host.Outcome State Fault Refusal :=
  .next (
    if s.alm.canSet then
      let new := (List.range 7).map fun i => coeff.getD i 0 % 65536
      writeAudit 3 0 (coeffBytes s.alm.coeff) (coeffBytes new) { s with alm := { s.alm with coeff := new } }
    else s)

/-- STAGE_FW: a signed image is staged for the next module reset (17 R545, R543). -/
def execStageFw (image : List Byte) (s : State) : Host.Outcome State Fault Refusal :=
  .next (
    if s.alm.running && s.alm.lidOpen && Config.meterFwSigned image then
      writeAudit 4 0 (fwIdent s.alm.fwVersion s.alm.fwImage) (fwIdent (Config.meterFwVersion image) image)
        { s with alm := { s.alm with staged := some image } }
    else s)

/-- The audit record of a lid event: AKIND 6 opened, 7 closed (17 R543). -/
def lidAudit (akind before : Nat) (s : State) : State := writeAudit akind 1 (leBytes 4 before) (leBytes 4 s.alm.tamper) s

/-- LID_OPEN: the tamper counter goes up, also while Almanac is unpowered, where the backup cell latches it (17 R544). -/
def execLidOpen (s : State) : Host.Outcome State Fault Refusal :=
  .next (
    if s.alm.lidOpen then s else
    let before := s.alm.tamper
    let a := { s.alm with lidOpen := true, tamper := satAdd before 1 0xFFFFFFFF }
    if a.running then lidAudit 6 before { s with alm := { a with flags := a.flags ||| 2 } }
    else { s with alm := { a with latched := a.latched ++ [6] } })

/-- LID_CLOSE (17 R543). -/
def execLidClose (s : State) : Host.Outcome State Fault Refusal :=
  .next (
    if !s.alm.lidOpen then s else
    let a := { s.alm with lidOpen := false }
    if a.running then lidAudit 7 a.tamper { s with alm := a }
    else { s with alm := { a with latched := a.latched ++ [7] } })

/-- Almanac's input falls below 30 V: the open interval closes with the power flag and Almanac stops (17 R528). -/
def almanacLoss (s : State) : State :=
  if !s.alm.running then s else
  let s := if s.alm.canClose then closeInterval 0x20 0 s else s
  { s with alm := { s.alm with running := false, lossAt := s.alm.time, sending := none } }

/-- POWER_GAP: input returns after some seconds on the backup clock; a power-gap record is written, then those of lid events
latched meanwhile, and a new interval opens (17 R528, R529, R543). -/
def execPowerGap (seconds : DWord) (s : State) : Host.Outcome State Fault Refusal :=
  .next (
    if s.alm.running then s else
    let loss := s.alm.lossAt.toNat
    let time := s.alm.time + seconds
    let latched := s.alm.latched
    let flags := if latched.contains 6 then s.alm.flags ||| 2 else s.alm.flags
    let s := writeAudit 8 2 (leBytes 8 loss) (leBytes 8 time.toNat)
      { s with alm := { s.alm with running := true, time := time, startS := time, latched := [], frac := 0, flags := flags } }
    let s := latched.foldl (fun s k => lidAudit k s.alm.tamper s) s
    { s with alm := s.alm.restartSending })

/-- What a power-on reset of the module does to Almanac: a staged image takes effect after the open interval closes
(17 R545); everything else goes on (17 R528). -/
def almanacReset (s : State) : State :=
  match s.alm.staged with
  | none => s
  | some image =>
    if s.alm.running && s.alm.canClose then
      let s := closeInterval 0 0 s
      let old := fwIdent s.alm.fwVersion s.alm.fwImage
      let version := Config.meterFwVersion image
      writeAudit 5 2 old (fwIdent version image)
        { s with alm := { s.alm with fwImage := image, fwVersion := version, staged := none } }
    else s

end Sys2Proof.Machine
end

