-- ==== Sys2Proof/Machine/Flags.lean ====
section
/-! DEFINITION. The status codes of completion records (13 R428), and how the flags of status registers are formed
(11 R333, 12 R368, 14 R462 R463, 15 R492, 16 R524, 18 R568, 19 R593). -/

namespace Sys2Proof.Machine

open Sys2Proof

/-! ### Status codes (13 R428) -/

/-- STATUS of a completion record (13 R428). -/
def stSuccess : Nat := 0x0000
@[inherit_doc stSuccess] def stAlreadyDone : Nat := 0x0001
@[inherit_doc stSuccess] def stAborted : Nat := 0x0002
@[inherit_doc stSuccess] def stNotFound : Nat := 0x0003
@[inherit_doc stSuccess] def stNotAbortable : Nat := 0x0004
@[inherit_doc stSuccess] def stUnknownOpcode : Nat := 0x0100
@[inherit_doc stSuccess] def stReservedField : Nat := 0x0101
@[inherit_doc stSuccess] def stNoSession : Nat := 0x0102
@[inherit_doc stSuccess] def stSessionBusy : Nat := 0x0103
@[inherit_doc stSuccess] def stBadField : Nat := 0x0104
@[inherit_doc stSuccess] def stBadBuffer : Nat := 0x0105
@[inherit_doc stSuccess] def stBadStream : Nat := 0x0106
@[inherit_doc stSuccess] def stStreamState : Nat := 0x0107
@[inherit_doc stSuccess] def stBadHandle : Nat := 0x0108
@[inherit_doc stSuccess] def stModelDamaged : Nat := 0x0109
@[inherit_doc stSuccess] def stDestination : Nat := 0x010A
@[inherit_doc stSuccess] def stPolicyRefused : Nat := 0x010B
@[inherit_doc stSuccess] def stAdmissionRefused : Nat := 0x0200
@[inherit_doc stSuccess] def stExhausted : Nat := 0x0201
@[inherit_doc stSuccess] def stMeteredStop : Nat := 0x0202
@[inherit_doc stSuccess] def stSessionNotEmpty : Nat := 0x0203
@[inherit_doc stSuccess] def stModelInUse : Nat := 0x0204
@[inherit_doc stSuccess] def stSessionRefused : Nat := 0x0205
@[inherit_doc stSuccess] def stAuthFailed : Nat := 0x0300
@[inherit_doc stSuccess] def stGraphRejected : Nat := 0x0301
@[inherit_doc stSuccess] def stStateRejected : Nat := 0x0302
@[inherit_doc stSuccess] def stSequence : Nat := 0x0303
@[inherit_doc stSuccess] def stTagInvalid : Nat := 0x0304
@[inherit_doc stSuccess] def stStreamFault : Nat := 0x0400
@[inherit_doc stSuccess] def stJobFault : Nat := 0x0401
@[inherit_doc stSuccess] def stSaveRejected : Nat := 0x0402
@[inherit_doc stSuccess] def stTransferFailed : Nat := 0x0403
@[inherit_doc stSuccess] def stRingOverrun : Nat := 0x0500

/-! ### Status registers -/

/-- PWR_STATUS: BUSBAR, WARNING, STRETCHED, CAP_EXCEEDED (19 R594). -/
def State.capExceeded (s : State) : Bool := s.pwr.capExceeded

/-- DEGRADED of MEM_STATUS: a channel's memory-degraded alarm is active (10 R322). -/
def State.memDegraded (s : State) : Bool := s.evt.table.any fun k => k.code == 7

/-- The memory-minimum bit of ESL_STATUS: fewer than 24 channels in service (10 R298). -/
def State.memMinimum (s : State) : Bool := s.mem.trainDone && (s.mem.chans.filter fun c => c.2.state ≤ 1).length < 24

/-- Largest value of the running time flag RATE of a slave, in 1/64 ppm: ±512 ppm as a signed field (14 R463). -/
def rateField (x : Int) : Half := BitVec.ofInt 16 (satInt 16 x)

end Sys2Proof.Machine
end

