-- ==== Sys2Proof/Machine/Operands.lean ====
section
/-! DEFINITION. The byte structures commands carry, field by field: descriptors (13 R396 to R424), feature packets (13 R412 to
R414), clear images with their layers, costs and head blocks (03 R94 to R97, 06 R179, 07 R217, R218), and wrap headers (16
R507). -/

namespace Sys2Proof.Machine

open Sys2Proof

/-! ### Descriptor bodies (13 R401 to R423) -/

/-- A little-endian field of a descriptor. -/
def Desc.field (d : Desc) (off n : Nat) : Nat := num d.bytes off n

/-- SESSION_OPEN (13 R401). -/
def Desc.reqBytes (d : Desc) : Nat := d.field 0x10 4
@[inherit_doc Desc.reqBytes] def Desc.respBytes (d : Desc) : Nat := d.field 0x14 4
@[inherit_doc Desc.reqBytes] def Desc.respAddr (d : Desc) : Nat := d.field 0x18 8
@[inherit_doc Desc.reqBytes] def Desc.acctAddr (d : Desc) : Nat := d.field 0x20 8
@[inherit_doc Desc.reqBytes] def Desc.acctBytes (d : Desc) : Nat := d.field 0x28 4
@[inherit_doc Desc.reqBytes] def Desc.markLevel (d : Desc) : Nat := d.field 0x2C 1

/-- MODEL_LOAD (13 R404). -/
def Desc.listCount (d : Desc) : Nat := d.field 0x10 2
@[inherit_doc Desc.listCount] def Desc.cls (d : Desc) : Nat := d.field 0x12 1
@[inherit_doc Desc.listCount] def Desc.wrappedBytes (d : Desc) : Nat := d.field 0x14 4

/-- The handle that MODEL_EVICT, STREAM_OPEN, ADAPT_JOB and TRANSFER_IN name at offset 0x08 (13 R406, R407, R410, R420). -/
def Desc.handle (d : Desc) : Nat := d.field 0x08 4

/-- STREAM_OPEN (13 R407). -/
def Desc.season (d : Desc) : Nat := d.field 0x0C 1
@[inherit_doc Desc.season] def Desc.rate (d : Desc) : Nat := d.field 0x0D 1
@[inherit_doc Desc.season] def Desc.sflags (d : Desc) : Nat := d.field 0x0E 1
@[inherit_doc Desc.season] def Desc.line (d : Desc) : Nat := d.field 0x0F 1
@[inherit_doc Desc.season] def Desc.lslot (d : Desc) : Nat := d.field 0x10 1
@[inherit_doc Desc.season] def Desc.seed (d : Desc) : Nat := d.field 0x18 8
@[inherit_doc Desc.season] def Desc.streamKey (d : Desc) : Nat := d.field 0x20 4
/-- Destination bits of SFLAGS: 1 host, 2 line, 3 both (13 R407). -/
def Desc.dest (d : Desc) : Nat := d.sflags % 4
/-- Bit `k` of SFLAGS. -/
def Desc.sflag (d : Desc) (k : Nat) : Bool := d.sflags.testBit k

/-- STREAM_CTRL (13 R408). -/
def Desc.cmask (d : Desc) : Nat := d.field 0x08 1
@[inherit_doc Desc.cmask] def Desc.cval (d : Desc) : Nat := d.field 0x09 1

/-- FEATURE_PUSH and AUDIO_PULL (13 R411, R418). -/
def Desc.addr (d : Desc) : Nat := d.field 0x08 8
@[inherit_doc Desc.addr] def Desc.bufBytes (d : Desc) : Nat := d.field 0x10 4
@[inherit_doc Desc.addr] def Desc.trailerAddr (d : Desc) : Nat := d.field 0x18 8

/-- TRANSFER_OUT's TARGET, TRANSFER_IN's SOURCE, TRANSFER_ID (13 R410). -/
def Desc.target (d : Desc) : Nat := d.field 0x08 1
@[inherit_doc Desc.target] def Desc.source (d : Desc) : Nat := d.field 0x0C 1
@[inherit_doc Desc.target] def Desc.transferId (d : Desc) : DWord := BitVec.ofNat 64 (d.field 0x10 8)

/-- ADAPT_JOB (13 R420). -/
def Desc.targetHandle (d : Desc) : Nat := d.field 0x0C 4
@[inherit_doc Desc.targetHandle] def Desc.input (d : Desc) : Nat := d.field 0x10 1
@[inherit_doc Desc.targetHandle] def Desc.adLine (d : Desc) : Nat := d.field 0x11 1
@[inherit_doc Desc.targetHandle] def Desc.adSlot (d : Desc) : Nat := d.field 0x12 1
@[inherit_doc Desc.targetHandle] def Desc.inputLen (d : Desc) : Nat := d.field 0x14 4
@[inherit_doc Desc.targetHandle] def Desc.adSeed (d : Desc) : Nat := d.field 0x20 8
@[inherit_doc Desc.targetHandle] def Desc.jobKey (d : Desc) : Nat := d.field 0x28 4
@[inherit_doc Desc.targetHandle] def Desc.steps (d : Desc) : Nat := d.field 0x2C 4
@[inherit_doc Desc.targetHandle] def Desc.outputBytes (d : Desc) : Nat := d.field 0x30 4

/-- ABORT (13 R423). -/
def Desc.targetSlot (d : Desc) : Nat := d.field 0x08 2
@[inherit_doc Desc.targetSlot] def Desc.targetGen (d : Desc) : Byte := d.bytes.getD 0x0A 0

/-! ### Feature packets (13 R412 to R414) -/

/-- A packet's clear tag header (13 R413). -/
structure Tag where
  stream   : Nat
  tflags   : Nat
  records  : Nat
  seq      : Nat
  sample   : Nat
  endDelta : Nat
  deriving DecidableEq, Repr

/-- Reads a tag header (13 R413). -/
def tagOf (b : List Byte) : Tag := ⟨num b 0 2, num b 2 1, num b 3 1, num b 4 4, num b 8 6, num b 14 2⟩

/-- Whether a packet carries a control record: TFLAGS[2] or TFLAGS[3] (13 R412). -/
def Tag.hasControl (t : Tag) : Bool := t.tflags.testBit 2 || t.tflags.testBit 3

/-- A packet's length as its header gives it (13 R412). -/
def Tag.length (t : Tag) : Nat := 16 + (if t.hasControl then 32 else 0) + 128 * t.records + 16

/-- The sample of the end mark (13 R413). -/
def Tag.endSample (t : Tag) : Nat := t.sample + t.endDelta

/-! ### Clear images (03 R94 to R97) -/

/-- A layer-table record (03 R96). -/
structure Layer where
  id        : Nat
  kind      : Nat
  lflags    : Nat
  weightFmt : Nat
  actFmt    : Nat
  outFmt    : Nat
  accFmt    : Nat
  stepRate  : Nat
  state     : Nat
  tensor    : Nat
  tensors   : Nat
  reduction : Nat
  weightOff : Nat
  spare     : Nat
  deriving DecidableEq, Repr

/-- LFLAGS[0], resettable. -/
def Layer.resettable (l : Layer) : Bool := l.lflags.testBit 0
/-- LFLAGS[1], split-chunk. -/
def Layer.split (l : Layer) : Bool := l.lflags.testBit 1
/-- LFLAGS[3], stochastic rounding. -/
def Layer.stochastic (l : Layer) : Bool := l.lflags.testBit 3
/-- Whether the layer has a part of the weight image. -/
def Layer.hasPart (l : Layer) : Bool := l.weightOff != 0xFFFFFFFF

/-- A cost record (03 R97). -/
structure Cost where
  season     : Nat
  rate       : Nat
  look       : Nat
  fixed      : Nat
  row        : Nat
  fixedPlate : Nat
  rowPlate   : Nat
  dramCold   : Nat
  rowDram    : Nat
  rowHost    : Nat
  mix4       : Nat
  mix8       : Nat
  mixF       : Nat
  dramHot    : Nat
  deriving DecidableEq, Repr

/-- FLAGS of the manifest (03 R94). -/
def imgFlags (m : List Byte) : Nat := num m 0x06 2
@[inherit_doc imgFlags] def imgHash (m : List Byte) : List Byte := bytesAt m 0x08 64
@[inherit_doc imgFlags] def imgRates (m : List Byte) : Nat := num m 0x48 1
@[inherit_doc imgFlags] def imgSeasons (m : List Byte) : Nat := num m 0x49 1
@[inherit_doc imgFlags] def imgResettable (m : List Byte) : Nat := num m 0x4A 1
@[inherit_doc imgFlags] def imgLayers (m : List Byte) : Nat := num m 0x4C 2
@[inherit_doc imgFlags] def imgCosts (m : List Byte) : Nat := num m 0x4E 2
@[inherit_doc imgFlags] def imgMinCores (m : List Byte) : Nat := num m 0x50 4
@[inherit_doc imgFlags] def imgMinPlate (m : List Byte) : Nat := num m 0x54 2
@[inherit_doc imgFlags] def imgHeadCycles (m : List Byte) : Nat := num m 0x56 2
@[inherit_doc imgFlags] def imgMaxStroke (m : List Byte) : Nat := num m 0x58 4
@[inherit_doc imgFlags] def imgStateBytes (m : List Byte) : Nat := num m 0x5C 4
@[inherit_doc imgFlags] def imgHopUs (m : List Byte) : Nat := num m 0x60 2
@[inherit_doc imgFlags] def imgLookRecords (m : List Byte) : Nat := num m 0x62 2
@[inherit_doc imgFlags] def imgLayerOff (m : List Byte) : Nat := num m 0x64 4
@[inherit_doc imgFlags] def imgCostOff (m : List Byte) : Nat := num m 0x68 4
@[inherit_doc imgFlags] def imgStrokeOff (m : List Byte) : Nat := num m 0x6C 4
@[inherit_doc imgFlags] def imgWeightOff (m : List Byte) : Nat := num m 0x70 4
@[inherit_doc imgFlags] def imgBytes (m : List Byte) : Nat := num m 0x74 4
/-- Length of the weight image. -/
def imgWeightBytes (m : List Byte) : Nat := imgBytes m - imgWeightOff m
/-- FLAGS[1]: an adaptation graph. -/
def imgAdapt (m : List Byte) : Bool := (imgFlags m).testBit 1

/-- Layer `i` (03 R96). -/
def imgLayer (m : List Byte) (i : Nat) : Layer :=
  let b := (m.drop (imgLayerOff m + 32 * i)).take 32
  ⟨num b 0 2, num b 2 1, num b 3 1, num b 4 1, num b 5 1, num b 6 1, num b 7 1, num b 8 4, num b 12 4, num b 16 2, num b 18 2,
    num b 20 4, num b 24 4, num b 28 4⟩

/-- The layer table (03 R96). -/
def imgLayerTable (m : List Byte) : List Layer := (List.range (imgLayers m)).map (imgLayer m)

/-- Cost record `i` (03 R97). -/
def imgCost (m : List Byte) (i : Nat) : Cost :=
  let b := (m.drop (imgCostOff m + 48 * i)).take 48
  ⟨num b 0 1, num b 1 1, num b 2 2, num b 4 4, num b 8 4, num b 12 4, num b 16 4, num b 20 4, num b 24 4, num b 28 4, num b 32 1,
    num b 33 1, num b 34 1, num b 36 4⟩

/-- The cost table (03 R97). -/
def imgCostTable (m : List Byte) : List Cost := (List.range (imgCosts m)).map (imgCost m)

/-- The cost record of a Season and rate (02 R59). -/
def costOf (m : List Byte) (season rate : Nat) : Option Cost :=
  (imgCostTable m).find? fun c => c.season == season && c.rate == rate

/-- The head layer (07, before R217). -/
def imgHead (m : List Byte) : Option Layer := (imgLayerTable m).find? (·.kind == 7)

/-- A layer's part of the weight image, from its start to the end of the image. -/
def partOf (m : List Byte) (l : Layer) : List Byte := m.drop (imgWeightOff m + l.weightOff)

/-! ### Parameter blocks (06 R179) -/

/-- The parameter block of a state-carrying layer in an image (06 R179). -/
def paramBlock (img : List Byte) (l : Layer) : List Byte := (partOf img l).take 32
/-- Its fields. -/
def paramChannels (p : List Byte) : Nat := num p 0x00 2
@[inherit_doc paramChannels] def paramSub (p : List Byte) : Nat := num p 0x02 1
@[inherit_doc paramChannels] def paramInit (p : List Byte) : Nat := num p 0x03 1
@[inherit_doc paramChannels] def paramDepth (p : List Byte) : Nat := num p 0x04 4
@[inherit_doc paramChannels] def paramInitOff (p : List Byte) : Nat := num p 0x08 4
@[inherit_doc paramChannels] def paramConstOff (p : List Byte) : Nat := num p 0x0C 4

/-! ### Head blocks (07 R217, R218) -/

/-- The head's part of the weight image. -/
def headPart (m : List Byte) : List Byte := ((imgHead m).map (partOf m)).getD []
/-- COND_DIM and the other fields of the head block (07 R217). -/
def headCond (h : List Byte) : Nat := num h 0x00 2
@[inherit_doc headCond] def headDist (h : List Byte) : Nat := num h 0x02 1
@[inherit_doc headCond] def headParam (h : List Byte) : Nat := num h 0x03 1
@[inherit_doc headCond] def headCell (h : List Byte) : Nat := num h 0x04 2
@[inherit_doc headCond] def headOps (h : List Byte) : Nat := num h 0x06 1
@[inherit_doc headCond] def headInit (h : List Byte) : Nat := num h 0x07 1
@[inherit_doc headCond] def headInitClass (h : List Byte) : Nat := num h 0x08 2
@[inherit_doc headCond] def headOpTable (h : List Byte) : Nat := num h 0x0C 4
@[inherit_doc headCond] def headInitOff (h : List Byte) : Nat := num h 0x10 4
@[inherit_doc headCond] def headBytes (h : List Byte) : Nat := num h 0x14 4

/-- An operation of a head program (07 R218). -/
structure HeadOp where
  op    : Nat
  dst   : Nat
  srcA  : Nat
  srcB  : Nat
  func  : Nat
  wfmt  : Nat
  rows  : Nat
  cols  : Nat
  spare : Nat
  woff  : Nat
  deriving DecidableEq, Repr

/-- The head program (07 R218). -/
def headProgram (h : List Byte) : List HeadOp :=
  (List.range (headOps h)).map fun i =>
    let b := (h.drop (headOpTable h + 16 * i)).take 16
    ⟨num b 0 1, num b 1 1, num b 2 1, num b 3 1, num b 4 1, num b 5 1, num b 6 2, num b 8 2, num b 10 2, num b 12 4⟩

/-- Slot-equivalents of a stream in sixths: k × f_s ÷ 8 kHz, k = ⌈HEAD_CYCLES ÷ 781.25⌉ (02 R61, 07 R216). -/
def slotSixths (m : List Byte) (rate : Nat) : Nat := ceilDiv (4 * imgHeadCycles m) 3125 * (rateHz rate / 8000)

/-- D_look in samples of a stream's rate: L_look (02 R54). -/
def lookSamples (m : List Byte) (c : Cost) (rate : Nat) : Nat :=
  ceilDiv (imgLookRecords m * imgHopUs m * rateHz rate) 1000000 + c.look

end Sys2Proof.Machine
end

