-- ==== Sys2Proof/Machine/Wafer.lean ====
section
/-! DEFINITION. The wafer: how fields lie (03), the wafer map (04 R148 to R151) and the tables of enabled units. -/

namespace Sys2Proof.Machine

open Sys2Proof

/-- Row of a field in the 7 × 12 arrangement (03, before R83). -/
def fieldRow (n : Nat) : Nat := n / 12
/-- Column of a field: the numbering is a serpentine. -/
def fieldCol (n : Nat) : Nat := if fieldRow n % 2 = 0 then n % 12 else 11 - n % 12
/-- Distance of two numbers. -/
def dist (a b : Nat) : Nat := (a - b) + (b - a)
/-- Two fields that share an edge. -/
def adjacent (a b : Nat) : Bool := dist (fieldRow a) (fieldRow b) + dist (fieldCol a) (fieldCol b) == 1

/-- Retirements that the last bring-up found in the non-volatile store: the later ones are counted in WAF_RETIRED_COUNT
(04 R151). -/
def State.bootRetired (s : State) : List Site :=
  s.nv.retiredCores.take (s.nv.retiredCores.length - s.hatch.retiredCount)

/-- Whether the core of a site is enabled: its router is present, the map does not disable it, and it was not retired before
this bring-up (04 R148, R149, R151). -/
def State.coreEnabled (s : State) (x : Site) : Bool :=
  !s.part.disabledCores.contains x && !s.part.bypassed.contains x && !s.bootRetired.contains x

/-- A 32-bit word whose bit `c` a test gives. -/
def wordOfBits (f : Nat → Bool) : Nat := ((List.range 32).map fun c => bit (f c) c).sum

/-- WAF_CORE_n_r (04 R148). -/
def State.wafCore (s : State) (n r : Nat) : Nat := wordOfBits fun c => s.coreEnabled ⟨n, r, c⟩
/-- WAF_ROUTER_n_r (04 R148). -/
def State.wafRouter (s : State) (n r : Nat) : Nat := wordOfBits fun c => !s.part.bypassed.contains ⟨n, r, c⟩

/-- The WAF_CORE and WAF_ROUTER words in increasing offset order, as M_WAF takes them (16 R499). -/
def State.wafBytes (s : State) : List Byte :=
  let rows (f : Nat → Nat → Nat) : List Byte :=
    ((List.range 84).map fun n => ((List.range 32).map fun r => leBytes 4 (f n r)).flatten).flatten
  rows s.wafCore ++ rows s.wafRouter

/-- The sites of a field in row-major order. -/
def fieldSites (f : Nat) : List Site := (List.range 1024).map fun i => ⟨f, i / 32, i % 32⟩

/-- The site of logical core `k` of a field (04 R150). -/
def State.coreSite (s : State) (f k : Nat) : Option Site := ((fieldSites f).filter s.coreEnabled)[k]?

/-- Field of a core number. -/
def coreField (c : Nat) : Nat := c / 1024
/-- Logical number of a core number (04 R150). -/
def coreLogical (c : Nat) : Nat := c % 1024

/-- Row and column of a core as an event record packs them: [4:0] row, [9:5] column (18 R572). -/
def State.coreRowCol (s : State) (c : Nat) : Nat :=
  match s.coreSite (coreField c) (coreLogical c) with
  | some x => x.row + 32 * x.col
  | none => 0

/-- A core after binding nothing (04 R111). -/
def Core.init : Core where
  jobs := []
  running := none
  pairs := []
  waiting := none
  since := none
  faulted := false
  failed := none
  retired := false
  hadFault := false
  takenBy := none
  rangeFlag := false
  tracer := ⟨1024, 0, [], [], []⟩
  scriber := ⟨1024, 0, [], [], []⟩
  grants := []
  slots := []
  chainIn := []
  waitsDone := 0
  signalsSent := 0
  scrubLine := 0

/-- A core. -/
def State.core (s : State) (c : Nat) : Core := (tabGet s.hatch.cores c).getD Core.init
/-- Sets a core. -/
def State.setCore (s : State) (c : Nat) (x : Core) : State :=
  { s with hatch := { s.hatch with cores := tabSet s.hatch.cores c x } }

/-- A field's fault state. -/
def State.field (s : State) (f : Nat) : Field := (tabGet s.hatch.fields f).getD ⟨false, 0⟩
/-- Sets a field's fault state. -/
def State.setField (s : State) (f : Nat) (x : Field) : State :=
  { s with hatch := { s.hatch with fields := tabSet s.hatch.fields f x } }

/-- Fields out of service, as ESL_FAULT.FIELDS_OUT counts them (18 R568). -/
def State.fieldsOut (s : State) : Nat := (s.hatch.fields.filter fun f => f.2.out).length

/-- Whether a core number names a core that exists, serves and is not faulted or retired. -/
def State.coreServes (s : State) (c : Nat) : Bool :=
  coreLogical c < s.cap.fieldCores.getD (coreField c) 0 && !(s.core c).faulted && !(s.core c).retired
    && !(s.field (coreField c)).out

/-- A Burin unit. -/
def State.unit (s : State) (u : Nat) : BurinUnit := (tabGet s.burin u).getD ⟨[], [], none, false, false, false, [], []⟩
/-- Sets a Burin unit. -/
def State.setUnit (s : State) (u : Nat) (x : BurinUnit) : State := { s with burin := tabSet s.burin u x }

/-- Whether a Burin unit exists: a site the map does not disable and not retired before this bring-up (04 R148, 18 R558). -/
def State.unitExists (s : State) (u : Nat) : Bool :=
  u < 672 && !s.part.disabledBurin.contains (u / 8, u % 8)
    && !(s.nv.retiredBurin.contains (u / 8, u % 8) && !(s.unit u).retired)

/-- Whether a Burin unit serves. -/
def State.unitServes (s : State) (u : Nat) : Bool :=
  s.unitExists u && !(s.unit u).failed && !(s.unit u).retired && !(s.field (u / 8)).out

end Sys2Proof.Machine
end

