-- ==== Sys2Proof/Machine/Proof.lean ====
section
/-! DEFINITION. Proof's policy, firmware checks, mailboxes and the staging store (16 R493 to R516, R524, R525; 19 R587 to
R589): POLICY_LOCK, COMMIT_SVN, PRF_FW_DIGEST_SEL_WRITE, MAILBOX_SEND, MAILBOX_LAST_WORD_READ, FW_STAGE_WRITE,
FW_STAGE_COMMIT, FW_STAGE_CLEAR. -/

namespace Sys2Proof.Machine

open Sys2Proof

/-! ### Keys (16 R494) -/

/-- D(x): SHAKE256 with 32 bytes of output. -/
def digest32 (x : List Byte) : List Byte := Config.shake256 x 32
/-- P(x, L): the first L bytes of D(x ‖ 0x00) ‖ D(x ‖ 0x01). -/
def expand (x : List Byte) (n : Nat) : List Byte := bytesAt (digest32 (x ++ [0]) ++ digest32 (x ++ [1])) 0 n
/-- The ASCII bytes of a label. -/
def label (t : String) : List Byte := t.toList.map fun c => BitVec.ofNat 8 c.toNat

/-- DIK, the device identity key (16 R494). -/
def State.dik (s : State) : List Byte := expand (s.part.dseed ++ label "UVK-DIK") 57
/-- KAK, the key-agreement key (16 R494). -/
def State.kak (s : State) : List Byte := expand (s.part.dseed ++ label "UVK-KAK") 56
/-- Ed448 by DIK. -/
def State.sign (s : State) (m : List Byte) : List Byte := bytesAt (Config.ed448Sign s.dik m) 0 114

/-! ### Policy (16 R497, R498, R524) -/

/-- PRF_POLICY_0. -/
def State.policy0 (s : State) : Word := s.proof.policy.getD 0 0
/-- LINE_OUT. -/
def State.lineOut (s : State) : Bool := bitOf s.policy0 0
/-- GROUP_WRAP. -/
def State.groupWrap (s : State) : Bool := bitOf s.policy0 1
/-- DEBUG. -/
def State.debugPolicy (s : State) : Bool := bitOf s.policy0 2
/-- MARK_MIN. -/
def State.markMin (s : State) : Nat := fld s.policy0 5 3
/-- MARK_MAX. -/
def State.markMax (s : State) : Nat := fld s.policy0 8 6
/-- GROUP_EPOCH. -/
def State.groupEpoch (s : State) : Nat := fld (s.proof.policy.getD 1 0) 15 0

/-- PRF_POLICY_0 as the lock leaves it: a MARK_MIN above MARK_MAX is set equal to it (16 R497). -/
def lockedPolicy0 (w : Word) : Word :=
  if fld w 8 6 < fld w 5 3 then BitVec.ofNat 32 (w.toNat - fld w 5 3 * 8 + fld w 8 6 * 8) else w

/-- Whether a mailbox binding names debug (16 R514). -/
def namesDebug (b : Nat × Nat) : Bool := b.1 == 8 || b.2 == 8

/-- The mailbox channels of a table, debug channels bound only if `debug` (16 R515, 19 R587). -/
def mailboxTable (table : List (Nat × Nat)) (debug : Bool) : Tab Mailbox :=
  (List.range 64).map fun n =>
    let b := table.getD n (15, 15)
    (n, if namesDebug b && !debug then Mailbox.init else { Mailbox.init with sender := b.1, receiver := b.2 })

/-- Locks the Proof policy, measures it, binds debug if it is allowed, and locks the mailbox table (16 R497, R499, R515,
19 R587). A second lock changes nothing. -/
def lockPolicy (s : State) : State :=
  if s.proof.locked then s else
  let policy := lockedPolicy0 s.policy0 :: s.proof.policy.drop 1
  let debug := bitOf (lockedPolicy0 s.policy0) 2
  let table := Config.fwMailboxes s.part.fwImage
  let rebind (n : Nat) (m : Mailbox) : Mailbox :=
    let b := table.getD n (15, 15)
    if debug && namesDebug b then { m with sender := b.1, receiver := b.2 } else m
  { s with
    proof := { s.proof with
      locked := true
      policy := policy
      debug := debug
      mPol := Config.shake256 ((policy.map fun w => leBytes 4 w.toNat).flatten) 64 }
    mbx := { s.mbx with locked := true, chans := tabMap s.mbx.chans rebind } }

/-- POLICY_LOCK: a write of PRF_POLICY_CTL (16 R497). -/
def execPolicyLock (port : Nat) (value : Word) (s : State) : Host.Outcome State Fault Refusal :=
  .next (if s.writable port .ready && bitOf value 0 then lockPolicy s else s)

/-- A write of PRF_ROLLBACK_CTL equal to FW_SVN and above the count blows fuses up to it (16 R513). -/
def commitSvn (v : Word) (s : State) : State :=
  let n := fld v 5 0
  if n == s.proof.svn && s.part.rollback < n then { s with part := { s.part with rollback := n } } else s

/-- COMMIT_SVN: PRF_ROLLBACK_CTL is written (16 R513). -/
def execCommitSvn (port : Nat) (value : Word) (s : State) : Host.Outcome State Fault Refusal :=
  .next (if s.writable port .ready then commitSvn value s else s)

/-- PRF_FW_DIGEST_SEL_WRITE (16 R524). -/
def execPrfFwDigestSelWrite (port : Nat) (value : Word) (s : State) : Host.Outcome State Fault Refusal :=
  .next (if s.writable port .ready then { s with proof := { s.proof with digestSel := fld value 3 0 } } else s)

/-! ### Firmware (16 R512, R515) -/

/-- Whether a mailbox table passes step 4: identities known, channel 0 from Easel 3 to Almanac, no other channel to Almanac,
and none from Almanac to any but the host (16 R515). -/
def tableOk (table : List (Nat × Nat)) : Bool :=
  table.length ≤ 64 && table.getD 0 (15, 15) == (4, 6)
    && table.all (fun b => (b.1 ≤ 8 || b.1 == 15) && (b.2 ≤ 8 || b.2 == 15) && (b.1 != 6 || b.2 == 0))
    && (table.drop 1).all (fun b => b.2 != 6)

/-- The first check of R512 that an image fails, 0 if it passes (16 R512). -/
def firmwareStep (p : Part) (image : List Byte) : Nat :=
  if Config.fwKeyDigest image != p.fwRoot then 1
  else if !Config.ed448Verify (Config.fwSignKey image) (Config.fwSigned image) (Config.fwSignature image) then 2
  else if Config.fwSvn image < p.rollback || 63 < Config.fwSvn image then 3
  else if !tableOk (Config.fwMailboxes image) then 4
  else 0

/-! ### Mailboxes (16 R516, R525) -/

/-- An access by an identity the channel does not bind: counted, with an alarm (16 R516). -/
def mailboxViolation (master channel : Nat) (s : State) : State :=
  (({ s with mbx := { s.mbx with violations := satAdd s.mbx.violations 1 0xFFFF } }).bump 0x243 1).raiseAlarm 0x15 0
    (channel + 256 * master)

/-- Whether the mailboxes are in force: from the end of VERIFY (19 R587). -/
def State.mailboxesUp (s : State) : Bool :=
  match s.boot.phase with
  | .reset | .wake | .verify | .fwRefused => false
  | _ => true

/-- MAILBOX_SEND (16 R516): the bound sender stores a message and sets FULL, or is refused while FULL is set. -/
def mailboxSend (master channel : Nat) (words : List Word) (s : State) : State :=
  let m := s.mailbox channel
  if m.sender != master || master = 15 then mailboxViolation master channel s
  else if m.full then s.setMailbox channel { m with refused := m.refused || master == 0 }
  else s.setMailbox channel
    { m with full := true, words := (List.range 16).map (fun i => words.getD i 0), refused := m.refused && master != 0 }

/-- MAILBOX_SEND (16 R516). -/
def execMailboxSend (master channel : Nat) (words : List Word) (s : State) : Host.Outcome State Fault Refusal :=
  .next (if s.mailboxesUp then mailboxSend master channel words s else s)

/-- MAILBOX_LAST_WORD_READ (16 R516): the bound receiver's read of word 15 clears FULL; a read of another word of the message clears
nothing. The host reads a channel it sends on without effect (16 R525), and any other read is a violation. -/
def execMailboxLastWordRead (master channel word : Nat) (s : State) : Host.Outcome State Fault Refusal :=
  .next (
    let m := s.mailbox channel
    if !s.mailboxesUp then s
    else if m.receiver == master && master != 15 then (if word = 15 then s.setMailbox channel { m with full := false } else s)
    else if m.sender == master && master == 0 then s
    else mailboxViolation master channel s)

/-! ### Staging (19 R588, R589) -/

/-- Largest image (19 R588). -/
def maxImage : Nat := 8388608

/-- FW_STAGE_WRITE: a word of the window is stored while STATE is 0 or 1 (19 R588). -/
def execFwStageWrite (port offset : Nat) (value : Word) (s : State) : Host.Outcome State Fault Refusal :=
  .next (
    if s.writable port .staging && s.stage.state ≤ 1 && offset < maxImage && offset % 4 == 0 then
      { s with stage := { s.stage with mem := memStore s.stage.mem offset (leBytes 4 value.toNat), state := 1 } }
    else s)

/-- COMMIT: the staged image is verified and becomes the image in force, which runs from the next reset; or it is refused
with the failed step, 5 for a bad length (19 R589). -/
def stageCommit (s : State) : State :=
  let len := s.stage.len
  if len = 0 || maxImage < len then { s with stage := { s.stage with state := 4, refuse := 5 } } else
  let image := memBytes s.stage.mem 0 len
  let step := firmwareStep s.part image
  if step != 0 then { s with stage := { s.stage with state := 4, refuse := step } }
  else { s with stage := { s.stage with state := 3, refuse := 0, svn := Config.fwSvn image, image := image } }

/-- CLEAR: STATE returns to 0 and the store is empty (19 R589). -/
def stageClear (s : State) : State := { s with stage := { s.stage with mem := [], state := 0, refuse := 0, svn := 0 } }

/-- FW_STAGE_COMMIT: a write of ESL_FW_STAGE_CTL.COMMIT (19 R589). -/
def execFwStageCommit (port : Nat) (value : Word) (s : State) : Host.Outcome State Fault Refusal :=
  .next (if s.writable port .staging && bitOf value 1 then stageCommit (if bitOf value 0 then stageClear s else s) else s)

/-- FW_STAGE_CLEAR: a write of ESL_FW_STAGE_CTL.CLEAR (19 R589). -/
def execFwStageClear (port : Nat) (value : Word) (s : State) : Host.Outcome State Fault Refusal :=
  .next (if s.writable port .staging && bitOf value 0 then
    (if bitOf value 1 then stageCommit (stageClear s) else stageClear s) else s)

end Sys2Proof.Machine
end

