-- ==== Sys2Proof/Machine/Validate.lean ====
section
/-! DEFINITION. The checks at acceptance, steps 1 to 10 of 13 R399, for every opcode. -/

namespace Sys2Proof.Machine

open Sys2Proof

/-! ### Tables of sessions, streams, models and line directions -/

/-- A session by its ID, which is its ring's number (12 R366). -/
def State.session (s : State) (n : Nat) : Option Session := tabGet s.sessions n
/-- Sets a session. -/
def State.setSession (s : State) (n : Nat) (x : Session) : State := { s with sessions := tabSet s.sessions n x }
/-- A stream by its ID, which the record carries too. -/
def State.stream (s : State) (n : Nat) : Option Stream := (tabGet s.streams n).filter (·.id == n)
/-- Sets a stream. -/
def State.setStream (s : State) (x : Stream) : State := { s with streams := tabSet s.streams x.id x }
/-- A voice model by its handle, which the record carries too. -/
def State.model (s : State) (h : Nat) : Option Model := (tabGet s.models h).filter (·.handle == h)
/-- Sets a voice model. -/
def State.setModel (s : State) (x : Model) : State := { s with models := tabSet s.models x.handle x }
/-- A job context by its ID, which the record carries too. -/
def State.job (s : State) (j : Nat) : Option Job := (tabGet s.jobs j).filter (·.id == j)
/-- Sets a job context. -/
def State.setJob (s : State) (x : Job) : State := { s with jobs := tabSet s.jobs x.id x }
/-- The streams in a list, without their keys. -/
def State.streamList (s : State) : List Stream := s.streams.map (·.2)
/-- Streams a model serves that are not Closed (01 R27). -/
def State.modelStreams (s : State) (h : Nat) : List Stream :=
  s.streamList.filter fun x => x.handle == h && x.phase != .closed

/-- A line direction after power-on reset (14 R447, R463). -/
def Direction.init : Direction where
  cfg := 0
  run := 0x00400040
  slots := 0
  state := 0
  cfgErr := false
  busy := false
  rate := 0
  drift := 0
  glitch := 0
  fill := 0
  hold := 0
  buf := []
  ready := false
  lastRate := 0
  glitchNext := false
  glitched := false
  ran := false
  driven := false
  holders := []

/-- Direction `d` of line `n`: 0 transmit, 1 receive. -/
def State.dir (s : State) (n d : Nat) : Direction := (tabGet s.lines.dirs (2 * n + d)).getD Direction.init
/-- Sets a line direction. -/
def State.setDir (s : State) (n d : Nat) (x : Direction) : State :=
  { s with lines := { s.lines with dirs := tabSet s.lines.dirs (2 * n + d) x } }

/-- RATE of a direction's CFG (14 R463). -/
def Direction.rateCode (x : Direction) : Nat := fld x.cfg 9 7
/-- WIDTH in bits (14 R463). -/
def Direction.width (x : Direction) : Nat := 16 + 4 * fld x.cfg 6 5
/-- Slots (14 R463). -/
def Direction.slotCount (x : Direction) : Nat := 2 ^ fld x.cfg 4 2
/-- Whether a slot is enabled: its mask bit, below the slot count (14 R463). -/
def Direction.enabled (x : Direction) (slot : Nat) : Bool := slot < x.slotCount && bitOf x.slots slot
/-- Run-in, running, holdover or re-lock (14 R441). -/
def Direction.active (x : Direction) : Bool := 1 ≤ x.state && x.state ≤ 4

/-- Whether a stream of a rate may hold a slot (14 R441). -/
def State.slotFree (s : State) (line slot rate : Nat) : Bool :=
  let x := s.dir line 0
  x.enabled slot && x.active && x.rateCode == rate && (tabGet x.holders slot).isNone

/-! ### Step 2: reserved fields (13 R396 to R424) -/

/-- Opcodes that name a stream in STREAM (13 R397). -/
def namesStream (op : Nat) : Bool := op = 6 || op = 7 || op = 8 || op = 9 || op = 0xB

/-- Runs of defined bytes in a body: first offset, length, mask of the defined bits. -/
def bodyFields (op : Nat) : List (Nat × Nat × Nat) :=
  match op with
  | 0x01 => [(0x08, 0x24, 0xFF), (0x2C, 1, 0x07)]
  | 0x03 => [(0x08, 11, 0xFF), (0x14, 4, 0xFF)]
  | 0x04 => [(0x08, 2, 0xFF), (0x0A, 1, 0x0F)]
  | 0x05 => [(0x08, 2, 0xFF), (0x0A, 1, 0x0F), (0x0C, 2, 0xFF), (0x0E, 2, 0x3F), (0x10, 1, 0x1F), (0x18, 12, 0xFF)]
  | 0x06 => [(0x08, 2, 0x03)]
  | 0x07 => [(0x08, 12, 0xFF)]
  | 0x08 => [(0x08, 12, 0xFF), (0x18, 8, 0xFF)]
  | 0x0A => [(0x08, 2, 0xFF), (0x0A, 1, 0x0F), (0x0C, 2, 0xFF), (0x0E, 1, 0x0F), (0x10, 1, 0xFF), (0x11, 1, 0x3F),
      (0x12, 1, 0x1F), (0x14, 32, 0xFF)]
  | 0x0B => [(0x08, 1, 0x1F), (0x10, 8, 0xFF)]
  | 0x0C => [(0x08, 2, 0xFF), (0x0A, 1, 0x0F), (0x0C, 1, 0x1F), (0x10, 8, 0xFF)]
  | 0x0D => [(0x08, 1, 0xFF), (0x09, 1, 0x0F), (0x0A, 1, 0xFF)]
  | _ => []

/-- Bits of a descriptor byte that are defined for an opcode. -/
def definedBits (op off : Nat) : Nat :=
  if off < 2 || (4 ≤ off && off < 8) then 0xFF
  else if off = 2 then if namesStream op then 0xFF else 0
  else if off = 3 then if namesStream op then 0x3F else 0
  else match (bodyFields op).find? fun f => f.1 ≤ off && off < f.1 + f.2.1 with
    | some f => f.2.2
    | none => 0

/-- The first byte with a reserved bit set; a STREAM field that is wholly reserved counts at its first byte (13 R396). -/
def firstReserved (b : List Byte) : Option Nat :=
  let op := num b 0 1
  let bad (off : Nat) : Bool := (b.getD off 0).toNat &&& (255 - definedBits op off) != 0
  match (List.range 64).find? bad with
  | some 3 => some (if namesStream op then 3 else 2)
  | r => r

/-! ### Steps 4 and 5: ranges, alignments and lengths -/

/-- The first of a list of rules that is broken, by its offset. -/
def firstBroken : List (Bool × Nat) → Option Nat
  | [] => none
  | (ok, off) :: rest => if ok then firstBroken rest else some off

/-- Step 4: the offset of the first field out of its range (13 R401 to R423). -/
def badField (d : Desc) : Option Nat :=
  match d.opcode with
  | 0x03 => firstBroken [(1 ≤ d.listCount && d.listCount ≤ 4096, 0x10), (d.cls ≤ 3, 0x12)]
  | 0x05 => firstBroken [(d.season ≤ 3, 0x0C), (d.rate ≤ 4, 0x0D), (d.dest != 0, 0x0E),
      (2 ≤ d.dest || d.line = 0, 0x0F), (2 ≤ d.dest || d.lslot = 0, 0x10)]
  | 0x06 => firstBroken [(d.cmask != 0, 0x08)]
  | 0x0A => firstBroken [(d.input ≤ 1, 0x10), (d.input = 1 || d.adLine = 0, 0x11), (d.input = 1 || d.adSlot = 0, 0x12),
      (d.input = 0 || d.field 0x18 8 = 0, 0x18), (1 ≤ d.steps, 0x2C)]
  | 0x0B => firstBroken [(d.target ≤ 16, 0x08)]
  | 0x0C => firstBroken [(d.source ≤ 16, 0x0C)]
  | _ => none

/-- Step 5: the offset of the first address or length that breaks its rule (13 R401 to R420). Counts are fields of step 4 and numbers of bytes
lengths of step 5; INPUT_LEN is a length for either input (log entry 20, DESIGN CHOICE). -/
def badBuffer (d : Desc) : Option Nat :=
  match d.opcode with
  | 0x01 => firstBroken [(d.field 8 8 % 64 = 0, 0x08), (64 ≤ d.reqBytes && d.reqBytes ≤ 4096, 0x10),
      (4096 ≤ d.respBytes && d.respBytes ≤ 65536, 0x14), (d.respAddr % 64 = 0, 0x18), (d.acctAddr % 128 = 0, 0x20),
      (d.acctBytes % 128 = 0 && 4096 ≤ d.acctBytes && d.acctBytes ≤ 16777216, 0x28)]
  | 0x03 => firstBroken [(d.field 8 8 % 16 = 0, 0x08)]
  | 0x07 => firstBroken [(d.addr % 16 = 0, 0x08), (d.bufBytes % 16 = 0 && 32 ≤ d.bufBytes && d.bufBytes ≤ 262144, 0x10)]
  | 0x08 => firstBroken [(d.addr % 16 = 0, 0x08), (d.bufBytes % 48 = 0 && 48 ≤ d.bufBytes && d.bufBytes ≤ 16777200, 0x10),
      (d.trailerAddr % 32 = 0, 0x18)]
  | 0x0A => firstBroken [
      (if d.input = 0 then d.inputLen % 16 = 0 && 48 ≤ d.inputLen && d.inputLen ≤ 2 ^ 31
        else 1 ≤ d.inputLen && d.inputLen ≤ 2 ^ 31, 0x14),
      (d.field 0x18 8 % 16 = 0, 0x18), (d.outputBytes % 4096 = 0, 0x30)]
  | _ => none

/-! ### Steps 6 to 10 -/

/-- DETAIL of STREAM_STATE (13 R428). -/
def phaseCode (p : StreamPhase) : Nat :=
  match p with
  | .idle => 0
  | .rendering => 1
  | .closing | .closed => 2

/-- Whether a Transfer is still bringing a stream in: the session has not opened it here (15 R487). -/
def State.arriving (s : State) (x : Stream) : Bool := x.transferring && s.ihx.transfers.any fun t => !t.outgoing && t.stream == x.id

/-- Step 7: whether a stream's state accepts an opcode (01 R36, 15 R485). -/
def stateAccepts (x : Stream) (op : Nat) : Bool :=
  op = 8 || ((x.phase = .idle || x.phase = .rendering) && !x.transferring)

/-- Handles an opcode names, with their offsets (13 R406, R407, R410, R420). -/
def handlesOf (d : Desc) : List (Nat × Nat) :=
  match d.opcode with
  | 0x04 | 0x05 | 0x0C => [(0x08, d.handle)]
  | 0x0A => [(0x08, d.handle), (0x0C, d.targetHandle)]
  | _ => []

/-- Step 8: each handle loaded by the session, then none damaged; MODEL_EVICT is exempt from the second (13 R399). -/
def handleCheck (s : State) (ring : Nat) (d : Desc) : Option (Nat × Nat) :=
  let loaded (h : Nat) : Bool := (s.model h).any (·.session == ring)
  match (handlesOf d).find? fun p => !loaded p.2 with
  | some p => some (stBadHandle, p.1)
  | none =>
    if d.opcode = 4 then none else
    match (handlesOf d).find? fun p => (s.model p.2).any (·.damaged) with
    | some p => some (stModelDamaged, p.1)
    | none => none

/-- Step 9: DETAIL of the destination or input refused, 0 if none is (13 R428). -/
def destCheck (s : State) (d : Desc) : Nat :=
  match d.opcode with
  | 0x05 =>
    let hasLine := 2 ≤ d.dest
    if hasLine && !s.slotFree d.line d.lslot d.rate && !d.sflag 3 then 1
    else if d.dest = 3 && (s.dir d.line 0).width != 24 && !d.sflag 3 then 2
    else if d.sflag 3 && (hasLine || d.sflag 2) then 3
    else 0
  | 0x06 => if d.cmask % 2 = 1 && !((s.stream d.stream).any (·.toLine)) then 5 else 0
  | 0x08 => if (s.stream d.stream).any (·.toHost) then 0 else 4
  | 0x0A =>
    let x := s.dir d.adLine 1
    if d.input = 1 && !(x.enabled d.adSlot && x.active) then 6 else 0
  | _ => 0

/-- Step 10: DETAIL of the policy refusal, 0 if none (16 R497, R498). -/
def policyCheck (s : State) (ring : Nat) (d : Desc) : Nat :=
  match d.opcode with
  | 0x01 => if s.markMin ≤ d.markLevel % 8 && d.markLevel % 8 ≤ s.markMax then 0 else 2
  | 0x05 => if 2 ≤ d.dest && !(s.session ring).any (·.lineOut) then 1 else 0
  | _ => 0

/-- Steps 1 to 9 of R399: status and DETAIL of the first that fails (13 R399). -/
def checksTo9 (s : State) (ring : Nat) (d : Desc) : Option (Nat × Nat) :=
  let op := d.opcode
  let bound := (s.ring ring).state == .bound
  if op = 0 || 0x0F < op then some (stUnknownOpcode, 0)
  else match firstReserved d.bytes with
  | some off => some (stReservedField, off)
  | none =>
  if op = 1 && bound then some (stSessionBusy, 0)
  else if op != 1 && op != 0x0F && !bound then some (stNoSession, 0)
  else match badField d with
  | some off => some (stBadField, off)
  | none =>
  match badBuffer d with
  | some off => some (stBadBuffer, off)
  | none =>
  let str := s.stream d.stream
  if namesStream op && !str.any (fun x => x.session == ring && x.phase != .closed && !s.arriving x) then some (stBadStream, 0)
  else if namesStream op && !str.any (fun x => stateAccepts x op) then
    some (stStreamState, (str.map fun x => phaseCode x.phase).getD 0)
  else match handleCheck s ring d with
  | some r => some r
  | none => if destCheck s d != 0 then some (stDestination, destCheck s d) else none

/-- All checks of R399 and the state they leave: the first SESSION_OPEN to reach step 10 locks the policy before the test
(13 R399, 16 R497). -/
def validate (s : State) (ring : Nat) (d : Desc) : State × Option (Nat × Nat) :=
  match checksTo9 s ring d with
  | some r => (s, some r)
  | none =>
    let s := if d.opcode = 1 then lockPolicy s else s
    (s, if policyCheck s ring d != 0 then some (stPolicyRefused, policyCheck s ring d) else none)

end Sys2Proof.Machine
end

