-- ==== Sys2Proof/Machine/Accounts.lean ====
section
/-! DEFINITION. Charges to jobs, sessions and tally windows, and the accounting records (11 R352 to R355, 13 R402, 17 R534,
R536). -/

namespace Sys2Proof.Machine

open Sys2Proof

/-- An empty account. -/
def Account.zero : Account := ⟨0, 0, 0, 0, 0, 0, 0, 0, 0, 0, 0, 0, 0, 0, 0, false, 0⟩

/-- An account after a charge (11 R352): counts add, the largest interference and the stretch mark join; FIRST_FRAME and the
energy remainder stay. -/
def Account.charge (a d : Account) : Account where
  hatch4 := a.hatch4 + d.hatch4
  hatch8 := a.hatch8 + d.hatch8
  hatchF := a.hatchF + d.hatchF
  burin := a.burin + d.burin
  dramRd := a.dramRd + d.dramRd
  dramWr := a.dramWr + d.dramWr
  ramokIn := a.ramokIn + d.ramokIn
  ramokOut := a.ramokOut + d.ramokOut
  ihlauxIn := a.ihlauxIn + d.ihlauxIn
  ihlauxOut := a.ihlauxOut + d.ihlauxOut
  saveKeep := a.saveKeep + d.saveKeep
  energyRem := a.energyRem
  frosts := a.frosts + d.frosts
  thaws := a.thaws + d.thaws
  iMax := max a.iMax d.iMax
  stretched := a.stretched || d.stretched
  first := a.first

/-- The seven counts of TALLY_A (17 R534). -/
def Account.tallyA (d : Account) : List Nat :=
  [d.hatch4, d.hatch8, d.hatchF, d.burin, d.dramRd + d.dramWr + d.saveKeep, d.ramokIn + d.ramokOut, d.ihlauxIn + d.ihlauxOut]

/-- Adds two lists of counts, the longer one's tail staying. -/
def mergeCounts : List Nat → List Nat → List Nat
  | [], ys => ys
  | xs, [] => xs
  | x :: xs, y :: ys => (x + y) :: mergeCounts xs ys

/-- Adds counts to a session's tally window (17 R535). -/
def State.tally (s : State) (sess : Nat) (a b : List Nat) : State :=
  let t := (tabGet s.tallies sess).getD ⟨[], [], none⟩
  { s with tallies := tabSet s.tallies sess { t with a := mergeCounts t.a a, b := mergeCounts t.b b } }

/-- Charges a job, its session and the session's tally window (11 R352, 17 R534). -/
def State.charge (s : State) (sess : Nat) (job : Option Nat) (d : Account) : State :=
  let s := match job.bind s.job with
    | some j => s.setJob { j with account := j.account.charge d }
    | none => s
  match s.session sess with
  | some x => (s.setSession sess { x with account := x.account.charge d }).tally sess d.tallyA []
  | none => s

/-- Attributed energy of an account in 1/16 pJ, with the remainder carried in (11 R353). -/
def Account.energy (coeff : List Nat) (a : Account) : Nat :=
  a.energyRem + a.hatch4 * coeff.getD 0 0 + a.hatch8 * coeff.getD 1 0 + a.hatchF * coeff.getD 2 0 + a.burin * coeff.getD 3 0
    + (a.dramRd + a.dramWr + a.saveKeep) * coeff.getD 4 0 + (a.ramokIn + a.ramokOut) * coeff.getD 5 0
    + (a.ihlauxIn + a.ihlauxOut) * coeff.getD 6 0

/-- 1/16 pJ in a µJ. -/
def energyUnit : Nat := 16000000

/-- The 128 bytes of an accounting record (11 R354). -/
def acctBytes (coeff : List Nat) (kind sess job : Nat) (faulted fill : Bool) (first last : Nat) (a : Account) : List Byte :=
  leBytes 1 kind ++ zeros 1 ++ leBytes 2 sess ++ leBytes 2 job ++ leBytes 2 (bit faulted 0 + bit a.stretched 1 + bit fill 2)
    ++ leBytes 6 first ++ zeros 2 ++ leBytes 6 last ++ leBytes 2 (min a.iMax 0xFFFF)
    ++ (([a.hatch4, a.hatch8, a.hatchF, a.burin, a.dramRd, a.dramWr, a.ramokIn, a.ramokOut, a.ihlauxIn, a.ihlauxOut, a.saveKeep,
        a.energy coeff / energyUnit]).map (leBytes 8)).flatten
    ++ leBytes 2 (min a.frosts 0xFFFF) ++ leBytes 2 (min a.thaws 0xFFFF) ++ zeros 4

/-- Writes a record into a session's accounting buffer and then WRITTEN, the rest of slot 0 zero (13 R402). -/
def writeAcct (sess : Nat) (rc : List Byte) (s : State) : State :=
  match s.session sess with
  | none => s
  | some x =>
    let slot := 1 + x.written % (x.acctBytes / 128 - 1)
    let s := s.ringWrite sess (x.acctAddr + 128 * slot) rc
    let s := s.ringWrite sess x.acctAddr (leBytes 8 (x.written + 1) ++ zeros 120)
    s.setSession sess { x with written := x.written + 1 }

/-- An account after a record was written from it: the remainder of its energy stays (11 R353). -/
def Account.next (coeff : List Nat) (a : Account) (first : Nat) : Account :=
  { Account.zero with energyRem := a.energy coeff % energyUnit, first := first }

/-- An account as a record reports it: a stretch of the Frame that runs counts (11 R354). -/
def State.reported (s : State) (a : Account) : Account := { a with stretched := a.stretched || s.pwr.stretchedFrame }

/-- Writes a job's record, of kind 0 at an interval's end or 2 at the job's end, and starts its next account (11 R354). -/
def writeJobRecord (kind : Nat) (faulted : Bool) (j : Job) (s : State) : State :=
  let rc := acctBytes s.part.coeff kind j.session j.id faulted j.fill j.account.first s.tb.frame.toNat (s.reported j.account)
  let s := writeAcct j.session rc s
  match s.job j.id with
  | some j => s.setJob { j with account := j.account.next s.part.coeff (s.tb.frame.toNat + 1) }
  | none => s

/-- Writes a session's record, of kind 1 or 3 (11 R354). -/
def writeSessionRecord (kind sess : Nat) (s : State) : State :=
  match s.session sess with
  | none => s
  | some x =>
    let s := writeAcct sess
      (acctBytes s.part.coeff kind sess 0x3FF false false x.account.first s.tb.frame.toNat (s.reported x.account)) s
    match s.session sess with
    | some x => s.setSession sess { x with account := x.account.next s.part.coeff (s.tb.frame.toNat + 1) }
    | none => s

end Sys2Proof.Machine
end

