-- ==== Sys2Proof/Machine/Bringup.lean ====
section
/-! DEFINITION. Bring-up and the supply (19 R577 to R590, 20 R596 to R602, 10 R294 to R298): COLD_START, RESET_HOLD_END, WAKE,
VERIFY, CORES, MEMORY, MEASURE, HOST_RESET, SUPPLY_RESET, SUPPLY_WARNING_END, THERMAL_TRIP. -/

namespace Sys2Proof.Machine

open Sys2Proof

/-- Levels of the busbar in 10 mV (18 R564, 20 R596). -/
def vWarning : Nat := 4800
@[inherit_doc vWarning] def vReset : Nat := 4200
@[inherit_doc vWarning] def vOff : Nat := 3000
@[inherit_doc vWarning] def vMax : Nat := 6000

/-- A command that reports a busbar voltage: above 60.0 V nothing is claimed (20 R596). -/
def atBusbar (volts : Nat) (s : State) : Host.Outcome State Fault Refusal :=
  if vMax < volts then .fault .overvoltage else .next s

/-- A power-on reset (19 R577, R578): only Almanac, the fuses, the firmware image and its staging store, and the non-volatile
store are kept. A committed image becomes the running one, and STATE then reads 0 (19 R590). -/
def powerOnReset (cause volts : Nat) (s : State) : State :=
  let a := (almanacReset s).alm
  let committed := s.stage.state == 3
  { State.reset with
    boot := { State.reset.boot with cause := cause, busbar := volts, powered := true }
    nv := s.nv
    part := { s.part with fwImage := if s.stage.image.isEmpty then s.part.fwImage else s.stage.image }
    stage := { s.stage with
      mem := if committed then [] else s.stage.mem
      state := if committed then 0 else s.stage.state
      refuse := if committed then 0 else s.stage.refuse
      svn := if committed then 0 else s.stage.svn
      len := 0
      image := [] }
    alm := { a with ackSig := [0, 0, 0, 0], ackSeqLo := 0, ackSeqHi := 0, ackKind := 0, ackBusy := false }
    host := s.host
    free := s.free
    pending := s.pending }

/-- COLD_START: the busbar rises from below 30 V (19 R577). -/
def execColdStart (volts : Nat) (s : State) : Host.Outcome State Fault Refusal :=
  atBusbar volts (if !s.boot.powered && vOff ≤ volts then powerOnReset 0 volts s else s)

/-- RESET_HOLD_END: the busbar has stayed at or above 48.0 V for 1 ms, and the module leaves RESET (19 R581). -/
def execResetHoldEnd (volts : Nat) (s : State) : Host.Outcome State Fault Refusal :=
  atBusbar volts (
    if s.boot.phase = .reset && s.boot.powered && !s.boot.tripped && vWarning ≤ volts then
      { s with boot := { s.boot with phase := .wake, busbar := volts, uptimeMs := 0, msTicks := 0 } }
    else s)

/-- Ends a bring-up state after `ms` milliseconds (19 R581, R593). -/
def State.enter (s : State) (p : Phase) (ms : Nat) : State :=
  { s with boot := { s.boot with phase := p, uptimeMs := satAdd s.boot.uptimeMs ms 0xFFFFFFFF } }

/-- WAKE: the six steps of rails come up in order (20 R598). -/
def execWake (ms : Nat) (s : State) : Host.Outcome State Fault Refusal :=
  .next (if s.boot.phase = .wake then ({ s with boot := { s.boot with rails := 6 } }).enter .verify ms else s)

/-- VERIFY: the firmware checks, and the mailbox table from the image with debug unbound (16 R512, R515, 19 R581). -/
def execVerify (ms : Nat) (s : State) : Host.Outcome State Fault Refusal :=
  .next (
    if s.boot.phase = .verify then
      let step := firmwareStep s.part s.part.fwImage
      if step = 0 then
        ({ s with
          proof := { s.proof with fwOk := true, fwRefuse := 0, svn := Config.fwSvn s.part.fwImage % 64 }
          mbx := { s.mbx with chans := mailboxTable (Config.fwMailboxes s.part.fwImage) false } }).enter .cores ms
      else ({ s with proof := { s.proof with fwOk := false, fwRefuse := step, svn := Config.fwSvn s.part.fwImage % 64 } }).enter .fwRefused ms
    else s)

/-- The faulted state with its cause, and MODULE_FAULT (18 R563, 19 R584). -/
def State.enterFaulted (s : State) (cause : Nat) : State :=
  ({ s with
    boot := { s.boot with phase := .faulted }
    fault := { s.fault with faulted := true, cause := cause } }).raiseAlarm 0x0D 0 cause

/-- A Hatch core that fails its bring-up self test is retired without being counted (04 R151, 08 R255, 19 R584). -/
def coreFailed (s : State) (x : Site) : State :=
  if s.coreEnabled x then
    ({ s with
      nv := { s.nv with retiredCores := s.nv.retiredCores ++ [x] }
      hatch := { s.hatch with retireLast := some x } }).raiseAlarm 0x08 (srcOf 1 x.field) (x.row + 32 * x.col)
  else s

/-- A Burin unit that fails its bring-up self test (19 R584). -/
def burinFailed (s : State) (b : Nat × Nat) : State :=
  if s.unitExists (b.1 * 8 + b.2) then
    ({ s with nv := { s.nv with retiredBurin := s.nv.retiredBurin ++ [b] } }).raiseAlarm 0x09 (srcOf 2 (b.1 * 8 + b.2)) 0
  else s

/-- A field controller that fails its bring-up self test (19 R584). -/
def controllerFailed (s : State) (f : Nat) : State :=
  (s.setField f { s.field f with out := true }).raiseAlarm 0x0B (srcOf 1 f) 0

/-- Partner of an Easel processor (18 R562). -/
def easelPartner (e : Nat) : Nat := if e % 2 = 0 then e + 1 else e - 1

/-- An Easel processor that fails: its partner takes over, with an alarm (18 R562). -/
def easelFailed (s : State) (e : Nat) : State :=
  ({ s with fault := { s.fault with easelOut := s.fault.easelOut ++ [e] } }).raiseAlarm 0x0C (srcOf 10 e) (easelPartner e)

/-- CORES: retirements apply, every unit runs its self test, and failures are handled (19 R584). -/
def execCores (ms : Nat) (report : CoresReport) (s : State) : Host.Outcome State Fault Refusal :=
  .next (
    if s.boot.phase = .cores then
      let s := report.cores.foldl coreFailed s
      let s := report.burins.foldl burinFailed s
      let s := report.controllers.foldl controllerFailed s
      let s := (report.easels.filter fun e => e != 3).foldl easelFailed s
      if report.proofFailed then (s.enter .memory ms).enterFaulted 2
      else if report.oscFailed then (s.enter .memory ms).enterFaulted 3
      else if report.easels.contains 3 then
        ({ s with fault := { s.fault with easelOut := s.fault.easelOut ++ [3] } }.enter .memory ms).enterFaulted 4
      else if 1 < report.easels.length then (s.enter .memory ms).enterFaulted 5
      else s.enter .memory ms
    else s)

/-! ### Memory training (10 R294 to R298) -/

/-- Whether a channel trains at 8800 MT/s: a qualified module and both margins at least 12 steps (10 R294, R322). -/
def trainsFast (c : ChannelTrain) : Bool := c.present && c.qualified && c.ok8800 && 12 ≤ c.rd8800 && 12 ≤ c.wr8800
/-- Whether a channel trains at 8000 MT/s. -/
def trainsSlow (c : ChannelTrain) : Bool := c.present && c.qualified && c.ok8000 && 12 ≤ c.rd8000 && 12 ≤ c.wr8000

/-- A channel that is not in service: MEM_CH_n and its margins read so (10 R322). -/
def Channel.out (code : Nat) : Channel := ⟨code, 0, 0, 0, [], 0, 0, 0⟩

/-- One channel after training, all channels running at 8000 MT/s or not (10 R296, R322). One that trains at 8800 MT/s alone is mapped out
as failed, code 2, where every channel runs at 8000: the spec does not say what becomes of it (log entry 40, DESIGN CHOICE). -/
def trainChannel (slowRun slowPolicy : Bool) (c : ChannelTrain) : Channel :=
  if !c.present then Channel.out 3
  else if !c.qualified then Channel.out 4
  else if slowRun then
    if trainsSlow c then ⟨1, min c.rd8000 255, min c.wr8000 255, 0, [], 0, 0, 0⟩ else Channel.out 2
  else if trainsFast c then ⟨0, min c.rd8800 255, min c.wr8800 255, 0, [], 0, 0, 0⟩
  else if trainsSlow c && slowPolicy then Channel.out 5
  else Channel.out 2

/-- Channels in service, in increasing number: L of 10 R299. -/
def State.channels (s : State) : List Nat := (s.mem.chans.filter fun c => c.2.state ≤ 1).map (·.1)

/-- MEMORY: DRAM trains, the XTS keys are drawn, and the fixed regions are zeroed (10 R296, R298, R306, R307; 19 R584). -/
def execMemory (ms : Nat) (chans : List ChannelTrain) (s : State) : Host.Outcome State Fault Refusal :=
  .next (
    if s.boot.phase = .memory then
      let slowRun := !s.nv.slowPolicy && chans.any fun c => !trainsFast c && trainsSlow c
      let table := (List.range 32).map fun n =>
        (n, trainChannel slowRun s.nv.slowPolicy (chans.getD n ⟨false, false, false, false, 0, 0, 0, 0⟩))
      let s := { s with
        mem := { s.mem with trainDone := true, slow := slowRun, chans := table, xtsKeys := Config.drawn s.free 64 }
        dram := []
        free := s.free + 1 }
      let n := s.channels.length
      let s := if n < 24 then s.raiseAlarm 0x06 0 n else s
      if n < 3 then (s.enter .measure ms).enterFaulted 1 else s.enter .measure ms
    else s)

/-! ### The capability table (03 R77 to R79) -/

/-- A port's share of CAP_HOST_PATH, in 0.1 GB/s: the lesser of link and adapter payload (12 R359, R361). -/
def Port.payload (p : Port) : Nat :=
  if !p.trained then 0 else
  min (if p.lanes = 8 then 1889 else if p.lanes = 4 then 945 else 0)
    (match p.gen with
      | 1 => 302
      | 2 => 605
      | 3 => 1210
      | _ => 0)

/-- CAP_HOST_PATH (12 R361). -/
def State.hostPath (s : State) : Nat := s.rmk.port0.payload + s.rmk.port1.payload

/-- Enabled cores of a field at this bring-up. -/
def State.enabledCores (s : State) (f : Nat) : Nat :=
  if (s.field f).out then 0 else ((fieldSites f).filter s.coreEnabled).length

/-- Enabled Burin units of a field at this bring-up. -/
def State.enabledBurin (s : State) (f : Nat) : Nat :=
  if (s.field f).out then 0 else ((List.range 8).filter fun k => s.unitExists (8 * f + k)).length

/-- The capability table as MEASURE fixes it (03 R77, R79). -/
def State.measureCap (s : State) : Cap :=
  let cores := (List.range 84).map s.enabledCores
  let burin := (List.range 84).map s.enabledBurin
  { hatchCores := cores.sum
    burinUnits := burin.sum
    minFieldCores := cores.foldl min 1024
    fieldCores := cores
    fieldBurin := burin
    channels := s.channels.length
    speed := if s.mem.slow then 8000 else 8800
    sizeGB := 64 * s.channels.length
    hostPath := s.hostPath }

/-- MEASURE: the capability table is fixed, Proof takes its measurements, and the module enters READY with the timebase
running on oscillator 0 under Summer (03 R77, 04 R153, 16 R499, 19 R585, 02 R49). -/
def execMeasure (ms : Nat) (s : State) : Host.Outcome State Fault Refusal :=
  .next (
    if s.boot.phase = .measure then
      let cap := s.measureCap
      let s := { s with
        cap := cap
        proof := { s.proof with
          mFw := Config.shake256 s.part.fwImage 64
          mAlm := Config.shake256 s.alm.fwImage 64
          mWaf := Config.shake256 s.wafBytes 64 } }
      let s := if cap.hatchCores < 80000 then s.raiseAlarm 0x05 0 cap.hatchCores else s
      ({ s with
        tb := { s.tb with
          running := true
          osc := 0
          season := 1
          pendingCfg := none
          sub := 0
          frameAt := 0
          ticks := 0
          frame := 0
          frameOrd := 0 } }).enter .ready ms
    else s)

/-- A write to ESL_RESET_CTL: KEY and GO reset the module (19 R579). -/
def resetCtlWrite (v : Word) (s : State) : State :=
  if fld v 15 0 = 0xC1EA && bitOf v 16 then powerOnReset 2 s.boot.busbar s else s

/-- HOST_RESET (19 R579): accepted in every state that answers maintenance access. -/
def execHostReset (port : Nat) (value : Word) (s : State) : Host.Outcome State Fault Refusal :=
  .next (if s.writable port .reset then resetCtlWrite value s else s)

/-- The busbar is below 30 V: the module is off, and a trip no longer latches (20 R596, R602). -/
def powerOff (volts : Nat) (s : State) : State :=
  let s := powerOnReset 0 volts s
  { s with boot := { s.boot with powered := false, tripped := false } }

/-- SUPPLY_RESET: a comparison below 42.0 V resets the module; the crossing's Almanac time goes to the non-volatile store and
SUPPLY_RESET is the first record to be written (18 R567, 19 R590). -/
def execSupplyReset (volts : Nat) (s : State) : Host.Outcome State Fault Refusal :=
  atBusbar volts (
    if !s.boot.powered || vReset ≤ volts then s
    else
      let crossing := s.boot.phase ≠ .reset || vReset ≤ s.boot.busbar
      let s := if crossing && !s.boot.tripped then
          let at_ := s.alm.time.toNat
          let s := powerOnReset 1 volts s
          ({ s with nv := { s.nv with supplyResetAt := at_ } }).raiseAlarm 0x02 0 at_
        else { s with boot := { s.boot with busbar := volts } }
      if volts < vOff then powerOff volts s else s)

/-- SUPPLY_WARNING_END: the voltage has held at or above 48.0 V for 1 ms and the clocks return to nominal (18 R566). -/
def execSupplyWarningEnd (volts : Nat) (s : State) : Host.Outcome State Fault Refusal :=
  atBusbar volts (
    if s.boot.warning && vWarning ≤ volts then
      { s with boot := { s.boot with warning := false, stretched := false, busbar := volts } }
    else s)

/-- THERMAL_TRIP: every rail is removed, latched until the busbar falls below 30 V (20 R602). -/
def execThermalTrip (s : State) : Host.Outcome State Fault Refusal :=
  .next (
    if s.boot.powered && !s.boot.tripped then
      let s := powerOnReset 0 s.boot.busbar s
      { s with boot := { s.boot with tripped := true } }
    else s)

/-- ALMANAC_INPUT_LOSS: the busbar is below 30 V, so Almanac closes its interval and stops, and the module is off (17 R528,
20 R596). -/
def execAlmanacInputLoss (s : State) : Host.Outcome State Fault Refusal :=
  .next (
    if s.alm.running then
      let s := almanacLoss s
      if s.boot.powered then powerOff 0 s else s
    else s)

end Sys2Proof.Machine
end

