-- ==== Sys2Proof/Machine/Float.lean ====
section
/-! DEFINITION. Exact values, the roundings of 05 R170 and R173, and the arithmetic of F32, BF16, F8E4, F8E5, I32 and S32
(05 R154 to R158, R170 to R175; 04 R116, R121, R124, R125). A result comes with whether it sets the range flag. -/

namespace Sys2Proof.Machine

open Sys2Proof

/-- An exact value num ÷ den, with den above 0; `neg` is the sign a zero has. -/
structure Exact where
  num : Int
  den : Nat
  neg : Bool
  deriving DecidableEq, Repr

/-- The exact value of a fraction. -/
def Exact.mk' (num : Int) (den : Nat) : Exact := ⟨num, den, num < 0⟩
/-- Zero. -/
def Exact.zero : Exact := ⟨0, 1, false⟩
/-- m × 2^e. -/
def Exact.scaled (m : Int) (e : Int) : Exact :=
  if e < 0 then Exact.mk' m (2 ^ (-e).toNat) else Exact.mk' (m * 2 ^ e.toNat) 1
/-- Sum; a zero sum is −0 only of two negative zeros (IEEE 754, named by 05 R155). -/
def Exact.add (x y : Exact) : Exact :=
  let n := x.num * y.den + y.num * x.den
  ⟨n, x.den * y.den, if n = 0 then x.num = 0 && y.num = 0 && x.neg && y.neg else n < 0⟩
/-- Negation. -/
def Exact.negate (x : Exact) : Exact := ⟨-x.num, x.den, !x.neg⟩
/-- Product. -/
def Exact.mul (x y : Exact) : Exact := ⟨x.num * y.num, x.den * y.den, x.neg != y.neg⟩
/-- Quotient by a value that is not zero. -/
def Exact.div (x y : Exact) : Exact :=
  ⟨x.num * y.den * (if y.num < 0 then -1 else 1), x.den * y.num.natAbs, x.neg != y.neg⟩
/-- Whether one value is below another. -/
def Exact.lt (x y : Exact) : Bool := x.num * y.den < y.num * x.den
/-- Whether one value is at or below another. -/
def Exact.le (x y : Exact) : Bool := x.num * y.den ≤ y.num * x.den
/-- Magnitude. -/
def Exact.abs (x : Exact) : Exact := ⟨x.num.natAbs, x.den, false⟩

/-! ### Rounding a magnitude (05 R170) -/

/-- How a rounding is done once its draw is known: nearest even, or stochastic with bits [15:0] of the draw. -/
inductive Mode where
  | nearest | draw (u : Nat)
  deriving DecidableEq, Repr

/-- A quotient rounded to a whole number: nearest with ties to even, or by a draw against D = ⌊2¹⁶ × fraction⌋ (05 R170). -/
def roundQuot (m : Mode) (n d : Nat) : Nat :=
  let q := n / d
  let r := n % d
  match m with
  | .nearest => if 2 * r < d then q else if d < 2 * r then q + 1 else q + q % 2
  | .draw u => if r = 0 then q else if u < 65536 * r / d then q + 1 else q

/-- A binary floating format: mantissa bits, smallest exponent, largest finite code. -/
structure FloatFmt where
  mant : Nat
  emin : Int
  top  : Nat
  deriving DecidableEq, Repr

/-- F32, BF16, F8E4 and F8E5 (05 R155, R156). -/
def f32Fmt : FloatFmt := ⟨23, -126, 0x7F7FFFFF⟩
@[inherit_doc f32Fmt] def bf16Fmt : FloatFmt := ⟨7, -126, 0x7F7F⟩
@[inherit_doc f32Fmt] def f8e4Fmt : FloatFmt := ⟨3, -6, 0x7E⟩
@[inherit_doc f32Fmt] def f8e5Fmt : FloatFmt := ⟨2, -14, 0x7B⟩

/-- ⌊log₂(n ÷ d)⌋ for a quotient above 0. -/
def log2Quot (n d : Nat) : Int :=
  let e : Int := (Nat.log2 n : Int) - Nat.log2 d
  let below : Bool := if 0 ≤ e then n < d * 2 ^ e.toNat else n * 2 ^ (-e).toNat < d
  if below then e - 1 else e

/-- The exact magnitude of a finite code. -/
def FloatFmt.magnitude (f : FloatFmt) (code : Nat) : Exact :=
  let e := code / 2 ^ f.mant
  let m := code % 2 ^ f.mant
  if e = 0 then Exact.scaled m (f.emin - f.mant) else Exact.scaled ((m + 2 ^ f.mant : Nat) : Int) (f.emin - f.mant + (e - 1 : Nat))

/-- The code of a magnitude n ÷ d under a rounding, and whether it saturates (05 R170, R173). -/
def FloatFmt.encode (f : FloatFmt) (m : Mode) (n d : Nat) : Nat × Bool :=
  if n = 0 then (0, false) else
  let q : Int := max (log2Quot n d) f.emin - f.mant
  let r := if q < 0 then roundQuot m (n * 2 ^ (-q).toNat) d else roundQuot m n (d * 2 ^ q.toNat)
  let code := (q - (f.emin - f.mant)).toNat * 2 ^ f.mant + r
  let top := f.magnitude f.top
  let beyond : Bool := match m with
    | .nearest => f.top < code
    | .draw _ => top.num * d < n * top.den
  if beyond then (f.top, true) else (code, false)

/-! ### F32 (05 R155, 04 R116) -/

/-- The exact value of an F32 word, a non-finite one read as the largest finite with its sign (04 R116). -/
def f32Value (w : Word) : Exact :=
  let neg := w.getLsbD 31
  let x := f32Fmt.magnitude (min (w.toNat % 2 ^ 31) f32Fmt.top)
  if neg then ⟨-x.num, x.den, true⟩ else ⟨x.num, x.den, false⟩

/-- Whether an F32 word is not finite (05 R155). -/
def f32Infinite (w : Word) : Bool := f32Fmt.top < w.toNat % 2 ^ 31

/-- The F32 word nearest an exact value, and whether it saturates (04 R116, R121). -/
def f32Round (x : Exact) : Word × Bool :=
  let (c, flag) := f32Fmt.encode .nearest x.num.natAbs x.den
  (BitVec.ofNat 32 (c + if x.neg then 2 ^ 31 else 0), flag)

/-- Sum, product and quotient in F32, each rounded once (04 R116, R124). -/
def f32Add (x y : Word) : Word := (f32Round ((f32Value x).add (f32Value y))).1
@[inherit_doc f32Add] def f32Sub (x y : Word) : Word := (f32Round ((f32Value x).add (f32Value y).negate)).1
@[inherit_doc f32Add] def f32Mul (x y : Word) : Word := (f32Round ((f32Value x).mul (f32Value y))).1

/-- Whether a result of F32 arithmetic on these operands sets the range flag (04 R116). -/
def f32Flag (x y : Word) (r : Word × Bool) : Bool := r.2 || f32Infinite x || f32Infinite y

/-- Quotient in F32; a zero divisor gives the largest finite value with the sign (04 R116). -/
def f32Div (x y : Word) : Word :=
  if (f32Value y).num = 0 then BitVec.ofNat 32 (f32Fmt.top + if x.getLsbD 31 != y.getLsbD 31 then 2 ^ 31 else 0)
  else (f32Round ((f32Value x).div (f32Value y))).1

/-- Whether an F32 value is below, or at or below, another; the zeros are equal. -/
def f32Lt (x y : Word) : Bool := (f32Value x).lt (f32Value y)
@[inherit_doc f32Lt] def f32Le (x y : Word) : Bool := (f32Value x).le (f32Value y)

/-- The largest of a list of F32 words, the first of equals. -/
def f32Max : List Word → Word
  | [] => 0
  | [x] => x
  | x :: y :: xs => let m := f32Max (y :: xs); if f32Lt x m then m else x

/-! ### BF16 (05 R155) -/

/-- Whether a BF16 item is not finite (05 R155). -/
def bf16Infinite (h : Half) : Bool := bf16Fmt.top < h.toNat % 2 ^ 15
/-- The F32 word of a BF16 item: exact (05 R175), a non-finite one taken as BF16's largest with its sign (04 R116). -/
def bf16Word (h : Half) : Word :=
  if bf16Infinite h then (if h.getLsbD 15 then 0xFF7F0000#32 else 0x7F7F0000#32) else BitVec.ofNat 32 (h.toNat * 65536)
/-- The exact value of a BF16 item. -/
def bf16Value (h : Half) : Exact := f32Value (bf16Word h)

/-! ### I32 and S32 (05 R158) -/

/-- A two's-complement 32-bit field under a rounding, and whether it saturates (05 R170, R173). -/
def fixRound (m : Mode) (x : Exact) : Word × Bool :=
  let n := x.num.natAbs
  let r := roundQuot m n x.den
  let top := if x.num < 0 then 2 ^ 31 else 2 ^ 31 - 1
  let beyond : Bool := match m with
    | .nearest => top < r
    | .draw _ => top * x.den < n
  let r := if beyond then top else r
  (BitVec.ofInt 32 (if x.num < 0 then -(r : Int) else r), beyond)

/-- The exact value of an S32 word: n × 2⁻²⁷ (05 R158). -/
def s32Value (w : Word) : Exact := Exact.mk' w.toInt (2 ^ 27)
/-- The S32 word of a value (05 R158, R173). -/
def s32Round (m : Mode) (x : Exact) : Word × Bool := fixRound m ⟨x.num * 2 ^ 27, x.den, x.neg⟩
/-- The exact value of an I32 word. -/
def i32Value (w : Word) : Exact := Exact.mk' w.toInt 1

/-! ### F32 with its range flag (04 R116) -/

/-- An F32 word with whether the operations that made it set the range flag. -/
abbrev FW := Word × Bool

/-- A BF16 item as an operand (04 R116). -/
def bf16FW (h : Half) : FW := (bf16Word h, bf16Infinite h)

/-- An F32 word as an operand that passes through: a non-finite one is replaced by the largest with its sign (04 R116, 05 R156). -/
def fFinite (x : FW) : FW :=
  if f32Infinite x.1 then (if x.1.getLsbD 31 then 0xFF7FFFFF#32 else 0x7F7FFFFF#32, true) else x

/-- Sum, difference, product and quotient that carry the range flag (04 R116). -/
def fAdd (x y : FW) : FW :=
  let r := f32Round ((f32Value x.1).add (f32Value y.1))
  (r.1, x.2 || y.2 || f32Flag x.1 y.1 r)
@[inherit_doc fAdd] def fSub (x y : FW) : FW :=
  let r := f32Round ((f32Value x.1).add (f32Value y.1).negate)
  (r.1, x.2 || y.2 || f32Flag x.1 y.1 r)
@[inherit_doc fAdd] def fMul (x y : FW) : FW :=
  let r := f32Round ((f32Value x.1).mul (f32Value y.1))
  (r.1, x.2 || y.2 || f32Flag x.1 y.1 r)
@[inherit_doc fAdd] def fDiv (x y : FW) : FW :=
  let v := f32Value y.1
  if v.num = 0 then (f32Div x.1 y.1, true) else
  let r := f32Round ((f32Value x.1).div v)
  (r.1, x.2 || y.2 || f32Flag x.1 y.1 r)

/-! ### The reduction order (03 R85, 04 R114) -/

/-- One level of the pairwise tree: positions 2j and 2j + 1, left operand first; an unpaired last passes up (03 R85). -/
def treeLevel : List FW → List FW
  | x :: y :: xs => fAdd x y :: treeLevel xs
  | xs => xs

/-- The root of the tree over block results (03 R85). -/
def treeRoot : (fuel : Nat) → List FW → FW
  | 0, xs => xs.headD (0, false)
  | fuel + 1, xs =>
    match xs with
    | [] => (0, false)
    | [x] => x
    | _ => treeRoot fuel (treeLevel xs)

/-- The canonical reduction of block results (03 R85). -/
def treeSum (xs : List FW) : FW := treeRoot xs.length xs

/-- A list cut into runs of 32. -/
def runs32 {α : Type} : (fuel : Nat) → List α → List (List α)
  | 0, _ => []
  | fuel + 1, xs => if xs.isEmpty then [] else xs.take 32 :: runs32 fuel (xs.drop 32)

/-- A list cut into blocks of 32 consecutive indices (03 R85). -/
def blocks32 {α : Type} (xs : List α) : List (List α) := runs32 (xs.length / 32 + 1) xs

/-- A block's sum in increasing index order (03 R85). -/
def blockSum (xs : List FW) : FW :=
  match xs with
  | [] => (0, false)
  | x :: rest => rest.foldl fAdd x

/-- A vector-unit sum: blocks of 32 in index order, combined by the tree (03 R87). -/
def sumF32 (xs : List FW) : FW := treeSum ((blocks32 xs).map blockSum)

end Sys2Proof.Machine
end

