-- ==== Sys2Proof/Machine/Elementary.lean ====
section
/-! DEFINITION. The elementary functions of 04 R121 and R125, correctly rounded: each exact value is computed to 512 fraction
bits and rounded once (log entry 13). Also the activations of R121, the class table of 07 R227 and the normal table of 08
R250. -/

namespace Sys2Proof.Machine

open Sys2Proof

/-- Fraction bits of the computation. -/
def fxBits : Nat := 512
/-- One. -/
def fxOne : Int := 2 ^ fxBits
/-- Product of two fixed-point values. -/
def fxMul (a b : Int) : Int := a * b / fxOne
/-- The fixed-point value of a fraction. -/
def fxOf (x : Exact) : Int := x.num * fxOne / x.den
/-- The exact value of a fixed-point number. -/
def fxValue (v : Int) : Exact := Exact.mk' v (2 ^ fxBits)

/-- Σ z^(2k+1) ÷ (2k + 1), from term `k` with power `pow`; `sq` is z², or −z² for the alternating series. -/
def oddSeries (sq : Int) : (fuel k : Nat) → (pow acc : Int) → Int
  | 0, _, _, acc => acc
  | fuel + 1, k, pow, acc => oddSeries sq fuel (k + 1) (fxMul pow sq) (acc + pow / (2 * k + 1 : Nat))

/-- atanh z for |z| ≤ 1/3. -/
def fxAtanh (z : Int) : Int := oddSeries (fxMul z z) 170 0 z 0
/-- ln 2. -/
def fxLn2 : Int := 2 * fxAtanh (fxOne / 3)
/-- π, by Machin's formula. -/
def fxPi : Int :=
  let atan (n : Nat) : Int := let z := fxOne / n; oddSeries (-(fxMul z z)) 230 0 z 0
  16 * atan 5 - 4 * atan 239

/-- Σ rᵏ ÷ k!. -/
def expSeries (r : Int) : (fuel k : Nat) → (term acc : Int) → Int
  | 0, _, _, acc => acc
  | fuel + 1, k, term, acc => let t := fxMul term r / (k : Nat); expSeries r fuel (k + 1) t (acc + t)

/-- e^x. -/
def exactExp (x : Int) : Exact :=
  let n := x / fxLn2
  Exact.scaled (expSeries (x - n * fxLn2) 110 1 fxOne fxOne) (n - fxBits)

/-- ln x for a positive fraction. -/
def fxLn (n d : Nat) : Int :=
  let k := log2Quot n d
  let n' := if k < 0 then n * 2 ^ (-k).toNat else n
  let d' := if k < 0 then d else d * 2 ^ k.toNat
  k * fxLn2 + 2 * fxAtanh (((n' : Int) - d') * fxOne / ((n' + d' : Nat) : Int))

/-- Σ of the terms t, −t r² ÷ ((k + 1)(k + 2)), …: sine from (r, 1), cosine from (1, 0). -/
def trigSeries (r2 : Int) : (fuel k : Nat) → (term acc : Int) → Int
  | 0, _, _, acc => acc
  | fuel + 1, k, term, acc => trigSeries r2 fuel (k + 2) (-(fxMul term r2) / ((k + 1) * (k + 2) : Nat)) (acc + term)

/-- An argument of sine or cosine reduced to −π to π: `fxOf` holds every F32 value exactly. -/
def fxReduce (x : Int) : Int :=
  let r := x % (2 * fxPi)
  if fxPi < r then r - 2 * fxPi else r

/-- sin and cos. -/
def fxSin (x : Int) : Int := let r := fxReduce x; trigSeries (fxMul r r) 90 1 r 0
@[inherit_doc fxSin] def fxCos (x : Int) : Int := let r := fxReduce x; trigSeries (fxMul r r) 90 0 fxOne 0

/-- ⌊√n⌋ below 2^bits, by bits from the top. -/
def isqrtBits (n : Nat) : (bits acc : Nat) → Nat
  | 0, acc => acc
  | b + 1, acc => let t := acc + 2 ^ b; isqrtBits n b (if t * t ≤ n then t else acc)
/-- ⌊√n⌋. -/
def isqrt (n : Nat) : Nat := isqrtBits n (Nat.log2 n / 2 + 1) 0

/-- Σ (−1)ⁿ x^(2n+1) ÷ (n! 2ⁿ (2n + 1)), `t` being (−1)ⁿ x^(2n+1) ÷ (n! 2ⁿ). -/
def phiSeries (x2 : Int) : (fuel n : Nat) → (t acc : Int) → Int
  | 0, _, _, acc => acc
  | fuel + 1, n, t, acc => phiSeries x2 fuel (n + 1) (-(fxMul t x2) / (2 * (n + 1) : Nat)) (acc + t / (2 * n + 1 : Nat))

/-- Φ(x), the normal distribution function, for |x| ≤ 20. -/
def fxPhi (x : Int) : Int :=
  let root : Int := isqrt ((2 * fxPi * fxOne).toNat)
  fxOne / 2 + phiSeries (fxMul x x) 900 0 x 0 * fxOne / root

/-- x held to ±limit, in fixed point. -/
def fxClamp (limit : Nat) (x : Int) : Int := max (-(limit * fxOne)) (min (limit * fxOne) x)

/-- The functions of R121 and R125 whose results come from a series. -/
inductive Elem where
  | exp | ln | sin | cos | sigmoid | tanh | phi | softplus
  deriving DecidableEq, Repr

/-- The exact value of a function at an F32 input inside its domain, to 512 fraction bits (04 R121, R125). -/
def elemExact (f : Elem) (w : Word) : Exact :=
  let v := f32Value w
  let x := fxOf v
  match f with
  | .exp => exactExp (fxClamp 200 x)
  | .ln => fxValue (fxLn v.num.natAbs v.den)
  | .sin => if v.num = 0 then v else fxValue (fxSin x)
  | .cos => fxValue (fxCos x)
  | .sigmoid => let e := exactExp (fxClamp 200 x); e.div (e.add (Exact.mk' 1 1))
  | .tanh =>
    if v.num = 0 then v else
    let e := exactExp (2 * fxClamp 200 x)
    (e.add (Exact.mk' (-1) 1)).div (e.add (Exact.mk' 1 1))
  | .phi => fxValue (fxPhi (fxClamp 20 x))
  | .softplus =>
    if 200 * fxOne < x then v else
    let e := exactExp (fxClamp 200 x)
    let s := e.add (Exact.mk' 1 1)
    fxValue (fxLn s.num.natAbs s.den)

/-- An elementary function, rounded once, with its range flag and the values outside its domain (04 R125). -/
def elem (f : Elem) (w : Word) : Word × Bool :=
  let v := f32Value w
  match f with
  | .ln => if v.num ≤ 0 then (0xFF7FFFFF#32, true) else f32Round (elemExact f w)
  | _ => f32Round (elemExact f w)

/-- e^x, ln, sine and cosine in F32. -/
def f32Exp (w : Word) : Word := (elem .exp w).1
@[inherit_doc f32Exp] def f32Ln (w : Word) : Word := (elem .ln w).1
@[inherit_doc f32Exp] def f32Sin (w : Word) : Word := (elem .sin w).1
@[inherit_doc f32Exp] def f32Cos (w : Word) : Word := (elem .cos w).1

/-- Reciprocal (04 R125). -/
def f32Recip (w : Word) : Word × Bool :=
  let v := f32Value w
  if v.num = 0 then (BitVec.ofNat 32 (f32Fmt.top + if w.getLsbD 31 then 2 ^ 31 else 0), true)
  else f32Round ((Exact.mk' 1 1).div v)

/-- Reciprocal square root (04 R125): √(den ÷ num) to 512 fraction bits. -/
def f32Rsqrt (w : Word) : Word × Bool :=
  let v := f32Value w
  if v.num ≤ 0 then (0x7F7FFFFF#32, true)
  else f32Round (fxValue (isqrt (v.den * 2 ^ (2 * fxBits) / v.num.natAbs)))

/-! ### Activations and gates (04 R121) -/

/-- An elementary function that carries the range flag. -/
def fElem (f : Elem) (x : FW) : FW := let r := elem f x.1; (r.1, r.2 || x.2 || f32Infinite x.1)

/-- An activation with its constant, a BF16 value held as an F32 word (04 R121). Gates take a pair: see `gate`. -/
def activation (f : ActFn) (c : FW) (x : FW) : FW :=
  let x := fFinite x
  match f with
  | .identity => x
  | .relu => if f32Lt 0 x.1 then x else (0, x.2)
  | .leakyRelu => if f32Le 0 x.1 then x else fMul c x
  | .sigmoid => fElem .sigmoid x
  | .tanh => fElem .tanh x
  | .silu => fMul x (fElem .sigmoid x)
  | .gelu => fMul x (fElem .phi x)
  | .softplus => fElem .softplus x
  | .exp => fElem .exp x
  | .snake =>
    if (f32Value c.1).num = 0 then x else
    let s := fElem .sin (fMul c x)
    fAdd x (fDiv (fMul s s) c)
  | .gateTanhSigmoid | .gateLinearSigmoid | .gateProduct => x

/-- A gate of a pair (04 R121). -/
def gate (f : ActFn) (a b : FW) : FW :=
  match f with
  | .gateTanhSigmoid => fMul (fElem .tanh a) (fElem .sigmoid b)
  | .gateLinearSigmoid => fMul a (fElem .sigmoid b)
  | _ => fMul a b

/-- The function a code names (07 R218). -/
def actOf (code : Nat) : ActFn :=
  match code with
  | 0 => .identity
  | 1 => .relu
  | 2 => .leakyRelu
  | 3 => .sigmoid
  | 4 => .tanh
  | 5 => .silu
  | 6 => .gelu
  | 7 => .softplus
  | 8 => .exp
  | 9 => .snake
  | 10 => .gateTanhSigmoid
  | 11 => .gateLinearSigmoid
  | _ => .gateProduct

/-- Whether a function takes a pair. -/
def isGate (f : ActFn) : Bool := f == .gateTanhSigmoid || f == .gateLinearSigmoid || f == .gateProduct

/-! ### Tables of contract version 1.0 -/

/-- Entry i of the class table: sign(y) × (256^|y| − 1) ÷ 255, |y| = |2i − 1,023| ÷ 1,024 (07 R227). -/
def classValue (i : Nat) : Word :=
  let a := if 512 ≤ i then 2 * i - 1023 else 1023 - 2 * i
  let p := (exactExp (fxLn2 * a / 128)).add (Exact.mk' (-1) 1)
  let y := (s32Round .nearest ⟨p.num, p.den * 255, false⟩).1
  if 512 ≤ i then y else -y

/-- The F32 code below 2^bits whose value is nearest the point where Φ reaches p: the least code whose upper midpoint has Φ
above p, by bits from the top. -/
def phiInverse (p : Int) : (bits acc : Nat) → Nat
  | 0, acc => acc
  | b + 1, acc =>
    let t := acc + 2 ^ b
    let mid := (f32Fmt.magnitude (t - 1)).add (f32Fmt.magnitude t)
    let x := mid.num * fxOne / (2 * mid.den : Nat)
    phiInverse p b (if t ≤ f32Fmt.top && fxPhi (fxClamp 20 x) < p then t else acc)

/-- Entry j of the normal table G (08 R250). -/
def normalTable (j : Nat) : Word :=
  let upper (k : Nat) : Nat := phiInverse (if k = 1024 then fxOne - fxOne / 65536 else k * fxOne / 1024) 31 0
  if j = 512 then 0 else if 512 < j then BitVec.ofNat 32 (upper j) else BitVec.ofNat 32 (2 ^ 31 + upper (1024 - j))

end Sys2Proof.Machine
end

