-- ==== Sys2Proof/Machine/Stipple.lean ====
section
/-! DEFINITION. Stipple (08 R241 to R254): the hash, uniform values, mask bits and normal draws. -/

namespace Sys2Proof.Machine

open Sys2Proof

/-- The six inputs of a draw (08 R241). -/
structure Draw where
  seed   : DWord
  key    : Word
  tensor : Half
  step   : BitVec 48
  offset : Half
  data   : Half
  deriving DecidableEq, Repr

/-- The four words of the hash. -/
structure Quad where
  x0 : Word
  x1 : Word
  x2 : Word
  x3 : Word
  deriving DecidableEq, Repr

/-- Key words (08 R244). -/
def Draw.keys (d : Draw) : Quad :=
  let k0 := d.seed.setWidth 32
  let k1 := (d.seed >>> 32).setWidth 32
  ⟨k0, k1, d.key, k0 ^^^ k1 ^^^ d.key ^^^ 0x6C8E9CF5#32⟩

/-- Counter words (08 R245). -/
def Draw.counters (d : Draw) : Quad :=
  ⟨d.step.setWidth 32, d.offset ++ (d.step >>> 32).setWidth 16, d.data ++ d.tensor, 0x243F6A88#32⟩

/-- Adds key words (08 R246). -/
def Quad.inject (x : Quad) (k0 k1 k2 k3 : Word) (s : Word) : Quad := ⟨x.x0 + k0, x.x1 + k1, x.x2 + k2, x.x3 + k3 + s⟩

/-- One round with its rotations, the swap included (08 R246). -/
def Quad.round (x : Quad) (ra rb : Nat) : Quad :=
  let a := x.x0 + x.x1
  let b := x.x2 + x.x3
  ⟨a, (x.x3.rotateLeft rb) ^^^ b, b, (x.x1.rotateLeft ra) ^^^ a⟩

/-- The hash: U and U′ (08 R246, R247). -/
def Draw.hash (d : Draw) : Word × Word :=
  let k := d.keys
  let x := d.counters.inject k.x0 k.x1 k.x2 k.x3 0
  let x := ((x.round 16 8).round 12 20).round 24 4
  let x := x.inject k.x1 k.x2 k.x3 k.x0 1
  let x := ((x.round 8 28).round 20 12).round 4 16
  let x := x.inject k.x2 k.x3 k.x0 k.x1 2
  (x.x0 ^^^ x.x2, x.x1 ^^^ x.x3)

/-- A draw U (08 R247). -/
def Draw.u (d : Draw) : Word := d.hash.1

/-- The uniform value (2 × U[31:9] + 1) × 2⁻²⁴ in F32: exact (08 R248). -/
def uniform (u : Word) : Word := (f32Round (Exact.mk' ((2 * (u.toNat / 512) + 1 : Nat) : Int) (2 ^ 24))).1

/-- 1 − u in F32: exact (07 R224). -/
def uniformRest (u : Word) : Word := f32Sub 0x3F800000#32 (uniform u)

/-- A mask bit with keep level P (08 R249). -/
def maskBit (u : Word) (keep : Half) : Bool := u.toNat / 65536 < keep.toNat

/-- The table normal of a draw (08 R250). -/
def normalByTable (u : Word) : Word :=
  let i := u.toNat / 2 ^ 22
  let f : Nat := u.toNat / 2 ^ 10 % 2 ^ 12
  let d := f32Sub (normalTable (i + 1)) (normalTable i)
  let w := (f32Round (Exact.mk' (f : Nat) (2 ^ 12))).1
  f32Add (normalTable i) (f32Mul w d)

/-- The normal by transform of the two words of a draw (08 R251). -/
def normalByTransform (uu : Word × Word) : Word :=
  let v := f32Mul 0xC0000000#32 (f32Ln (uniform uu.1))
  let q := f32Mul v (f32Rsqrt v).1
  f32Mul q (f32Cos (f32Mul (uniform uu.2) 0x40C90FDB#32))

/-- A rounding of R170: nearest even, or stochastic with the inputs of the draw (R241) that the element does not give. -/
inductive Rounding where
  | nearest
  | stochastic (seed : DWord) (key : Word) (tensor : Half) (step : BitVec 48) (offset : Half)
  deriving DecidableEq, Repr

/-- The mode of a rounding whose value has the given encoding (05 R170, R172, 08 R252). -/
def modeOf (r : Rounding) (offset : Nat) (encoding : Word) : Mode :=
  match r with
  | .nearest => .nearest
  | .stochastic seed key tensor step off =>
    .draw ((Draw.u ⟨seed, key, tensor, step, off + BitVec.ofNat 16 offset, encoding.setWidth 16⟩).toNat % 65536)

/-- The mode of element i of a scan over steps: its draw takes the step coordinate, the offset being the channel (06 R184). -/
def modeAtStep (r : Rounding) (steps : Nat) (encoding : Word) : Mode :=
  match r with
  | .nearest => .nearest
  | .stochastic seed key tensor step off =>
    .draw ((Draw.u ⟨seed, key, tensor, step + BitVec.ofNat 48 steps, off, encoding.setWidth 16⟩).toNat % 65536)

end Sys2Proof.Machine
end

