-- ==== Sys2Proof/Machine/Formats.lean ====
section
/-! DEFINITION. Narrow formats and their scales: records, decoding, the choice of scales, encoding (05 R154 to R175), and the
MAC array's reduction over two records (04 R112 to R116, 05 R165). Format codes are those of 03 R96. -/

namespace Sys2Proof.Machine

open Sys2Proof

/-! ### Scales (05 R159 to R161) -/

/-- The value of an E4M4 block-scale code (05 R159). -/
def e4m4 (c : Nat) : Exact :=
  if c < 16 then Exact.mk' (c : Nat) (2 ^ 18) else Exact.scaled ((16 + c % 16 : Nat) : Int) ((c / 16 : Nat) - 19)

/-- A super-scale as it is used and written: its sign cleared, a non-finite one replaced by 0x7F7F (05 R160). -/
def finiteSuper (h : Half) : Half := BitVec.ofNat 16 (min (h.toNat % 2 ^ 15) bf16Fmt.top)

/-- The value of a super-scale: its sign ignored, a non-finite one read as the largest (05 R160). -/
def superScale (h : Half) : Exact := bf16Fmt.magnitude (min (h.toNat % 2 ^ 15) bf16Fmt.top)

/-- A row scale as it is written: a non-finite one replaced by BF16's largest with its sign (04 R116). -/
def finiteScale (h : Half) : Half := if bf16Infinite h then (h &&& 0x8000#16) ||| 0x7F7F#16 else h

/-- N[j] = 2¹⁶ × T[j] (05 R161). -/
def logTable : List Nat :=
  [0x10000, 0x10B56, 0x1172C, 0x12388, 0x13070, 0x13DEA, 0x14BFE, 0x15AB0, 0x16A0A, 0x17A11, 0x18ACE, 0x19C49, 0x1AE8A, 0x1C19A,
    0x1D582, 0x1EA4B]

/-- L(c), with 256 standing for the value beyond L(255) (05 R161, R169). -/
def logValue (c : Nat) : Exact :=
  if c = 0 then Exact.zero else
  let k : Int := (c : Int) - 255
  Exact.scaled (logTable.getD (k % 16).toNat 0) (k / 16 - 16)

/-! ### Records (05 R162 to R164) -/

/-- Blocks in a full record: 16 of Q4B, 32 of Q8B and Q8L (05 R162). -/
def perRecord (fmt : Nat) : Nat := if fmt = 1 then 16 else 32
/-- Bytes of a block's element slots. -/
def blockBytes (fmt : Nat) : Nat := if fmt = 1 then 16 else 32
/-- Bytes of a record of n blocks (05 R163). -/
def recordSize (fmt n : Nat) : Nat := (blockBytes fmt * n + n + 1) / 2 * 2 + 2
/-- Whether a format is scaled by blocks. -/
def blocked (fmt : Nat) : Bool := fmt = 1 || fmt = 2 || fmt = 3
/-- Whether a format is an F8 format with a row scale. -/
def isF8 (fmt : Nat) : Bool := fmt = 4 || fmt = 5

/-- Bytes of `rows` rows of k elements (05 R163, R164). -/
def tensorBytes (fmt rows k : Nat) : Nat :=
  if blocked fmt then
    let total := rows * ceilDiv k 32
    total / perRecord fmt * recordSize fmt (perRecord fmt)
      + (if total % perRecord fmt = 0 then 0 else recordSize fmt (total % perRecord fmt))
  else if isF8 fmt then rows * (2 + k + k % 2)
  else if fmt = 6 then 2 * rows * k
  else 4 * rows * k

/-- Codes and scale of a block, and whether its super-scale is not finite: block `b` of `total` consecutive ones (05 R163). -/
def blockAt (fmt total b : Nat) (bytes : List Byte) : List Nat × Exact × Bool :=
  let per := perRecord fmt
  let r := b / per
  let i := b % per
  let n := min per (total - r * per)
  let base := r * recordSize fmt per
  let codes := if fmt = 1 then
      (List.range 32).map fun j =>
        let x := num bytes (base + 16 * i + j / 2) 1
        if j % 2 = 0 then x % 16 else x / 16
    else (List.range 32).map fun j => num bytes (base + 32 * i + j) 1
  let scale := num bytes (base + blockBytes fmt * n + i) 1
  let sup := num bytes (base + (blockBytes fmt * n + n + 1) / 2 * 2) 2
  (codes, (e4m4 scale).mul (superScale (BitVec.ofNat 16 sup)), bf16Infinite (BitVec.ofNat 16 sup))

/-- The integer of a Q4B or Q8B code (05 R154). -/
def codeInt (fmt c : Nat) : Int := if fmt = 1 then signed 4 c else signed 8 c
/-- The value of an element code without its scales (05 R154). -/
def codeValue (fmt c : Nat) : Exact := if fmt = 3 then logValue c else Exact.mk' (codeInt fmt c) 1

/-- The value of an F8 byte, a non-finite one read as the largest (05 R156). -/
def f8Value (fmt c : Nat) : Exact :=
  let f := if fmt = 4 then f8e4Fmt else f8e5Fmt
  let x := f.magnitude (min (c % 128) f.top)
  if 128 ≤ c then ⟨-x.num, x.den, true⟩ else x

/-- Whether an F8 byte is not finite (05 R156). -/
def f8Infinite (fmt c : Nat) : Bool := (if fmt = 4 then f8e4Fmt.top else f8e5Fmt.top) < c % 128

/-- A decoded element: exact value, encoding, whether it or a scale of its was not finite. The encoding of a code narrower than
16 bits is extended with zeros, that of a non-finite element is the one read, and a negative code over a zero scale is −0: the spec
settles none of the three (log entry 39, DESIGN CHOICE). -/
structure Elt where
  value : Exact
  code  : Word
  bad   : Bool
  deriving DecidableEq, Repr

/-- The elements of row `row` of `rows` rows of k elements (05 R154, R174). -/
def decodeRow (fmt rows row k : Nat) (bytes : List Byte) : List Elt :=
  if blocked fmt then
    let per := ceilDiv k 32
    let blocks := (List.range per).map fun b => blockAt fmt (rows * per) (row * per + b) bytes
    ((blocks.map fun q => q.1.map fun c => (⟨(codeValue fmt c).mul q.2.1, BitVec.ofNat 32 c, q.2.2⟩ : Elt)).flatten).take k
  else if isF8 fmt then
    let base := row * (2 + k + k % 2)
    let scale := BitVec.ofNat 16 (num bytes base 2)
    (List.range k).map fun i =>
      let c := num bytes (base + 2 + i) 1
      ⟨(f8Value fmt c).mul (bf16Value scale), BitVec.ofNat 32 c, f8Infinite fmt c || bf16Infinite scale⟩
  else if fmt = 6 then
    (List.range k).map fun i =>
      let h := BitVec.ofNat 16 (num bytes (2 * (row * k + i)) 2)
      ⟨bf16Value h, h.setWidth 32, bf16Infinite h⟩
  else
    (List.range k).map fun i =>
      let w := BitVec.ofNat 32 (num bytes (4 * (row * k + i)) 4)
      if fmt = 8 then ⟨f32Value w, w, f32Infinite w⟩
      else if fmt = 9 then ⟨s32Value w, w, false⟩
      else ⟨i32Value w, w, false⟩

/-! ### Choosing scales (05 R167, R168) -/

/-- The number of codes below 2^bits that fail a test which, once met, stays met. -/
def failing (p : Nat → Bool) : (bits acc : Nat) → Nat
  | 0, acc => if p acc then acc else acc + 1
  | b + 1, acc => failing p b (if p (acc + 2 ^ b - 1) then acc else acc + 2 ^ b)

/-- q_max (05 R167). -/
def qMax (fmt : Nat) : Nat := if fmt = 1 then 7 else if fmt = 2 then 127 else 1

/-- The largest magnitude of a group; for Q8L a negative counts as 0 (05 R167 step 1). -/
def groupMax (fmt : Nat) (xs : List Exact) : Exact :=
  xs.foldl (fun m x =>
    let a := if fmt = 3 && x.num < 0 then Exact.zero else x.abs
    if m.lt a then a else m) Exact.zero

/-- The smallest BF16 value for which q × S ≥ a (05 R167 step 2, R168). -/
def leastSuper (q : Nat) (a : Exact) : Half :=
  BitVec.ofNat 16 (min (failing (fun c => a.le ((Exact.mk' (q : Nat) 1).mul (bf16Fmt.magnitude (min c bf16Fmt.top))) || bf16Fmt.top ≤ c) 15 0)
    bf16Fmt.top)

/-- The block code for a maximum under a super-scale (05 R167 step 3). -/
def blockCode (fmt : Nat) (s a : Exact) : Nat :=
  if a.num = 0 then 0
  else min (failing (fun c => a.le (((Exact.mk' (qMax fmt : Nat) 1).mul (e4m4 (min c 255))).mul s) || 255 ≤ c) 8 0) 255

/-! ### Encoding elements (05 R169 to R173) -/

/-- A Q4B or Q8B code of a quotient, and whether it saturates. -/
def encodeInt (fmt : Nat) (m : Mode) (y : Exact) : Nat × Bool :=
  let n := y.num.natAbs
  let r := roundQuot m n y.den
  let beyond : Bool := match m with
    | .nearest => qMax fmt < r
    | .draw _ => qMax fmt * y.den < n
  let r := if beyond then qMax fmt else r
  (unsigned (if fmt = 1 then 4 else 8) (if y.num < 0 then -(r : Int) else r), beyond)

/-- A Q8L code of a quotient: nearest with ties to the even code, or by a draw between adjacent L values (05 R169, R173). -/
def encodeLog (m : Mode) (y : Exact) : Nat × Bool :=
  if y.num ≤ 0 then (0, y.num < 0) else
  let lo := (List.range 256).foldl (fun a c => if (logValue c).le y then c else a) 0
  let up := y.add (logValue lo).negate
  let gap := (logValue (lo + 1)).add (logValue lo).negate
  match m with
  | .nearest =>
    let twice : Exact := ⟨2 * up.num, up.den, false⟩
    let r := if twice.lt gap then lo else if gap.lt twice then lo + 1 else lo + lo % 2
    if 256 ≤ r then (255, true) else (r, false)
  | .draw u =>
    if lo = 255 && up.num != 0 then (255, true)
    else if up.num = 0 then (lo, false)
    else if (u : Int) < 65536 * (up.num * gap.den) / (up.den * gap.num) then (lo + 1, false) else (lo, false)

/-- One block of a Q format under a super-scale: element codes, block code, range flag (05 R167, R169, R173). -/
def encodeBlock (fmt : Nat) (s : Exact) (xs : List (Exact × Mode)) : List Nat × Nat × Bool :=
  let a := groupMax fmt (xs.map (·.1))
  let c := blockCode fmt s a
  let scale := (e4m4 c).mul s
  let es := xs.map fun x =>
    if scale.num = 0 then (0, x.1.num != 0)
    else if fmt = 3 then encodeLog x.2 (x.1.div scale) else encodeInt fmt x.2 (x.1.div scale)
  (es.map (·.1), c, es.any (·.2))

/-- Two nibbles a byte (05 R163). -/
def packNibbles : List Nat → List Byte
  | a :: b :: xs => BitVec.ofNat 8 (a % 16 + 16 * (b % 16)) :: packNibbles xs
  | [a] => [BitVec.ofNat 8 (a % 16)]
  | [] => []

/-- One record of at most `perRecord` blocks with a given or computed super-scale (05 R163, R168). -/
def encodeRecord (fmt : Nat) (given : Option Half) (blocks : List (List (Exact × Mode))) : List Byte × Bool :=
  let s := finiteSuper (given.getD (leastSuper (qMax fmt) (groupMax fmt (blocks.flatten.map (·.1)))))
  let bs := blocks.map (encodeBlock fmt (superScale s))
  let slots (q : List Nat × Nat × Bool) : List Byte :=
    let cs := q.1 ++ List.replicate (32 - q.1.length) 0
    if fmt = 1 then packNibbles cs else cs.map (BitVec.ofNat 8)
  ((bs.map slots).flatten ++ bs.map (fun q => BitVec.ofNat 8 q.2.1) ++ zeros (bs.length % 2) ++ leBytes 2 s.toNat,
    bs.any (·.2.2) || given.any bf16Infinite)

/-- Blocks of a Q format, cut into records (05 R162, R163). -/
def encodeRecords (fmt : Nat) (given : Option Half) : (fuel : Nat) → List (List (Exact × Mode)) → List Byte × Bool
  | 0, _ => ([], false)
  | fuel + 1, bs =>
    if bs.isEmpty then ([], false) else
    let r := encodeRecord fmt given (bs.take (perRecord fmt))
    let rest := encodeRecords fmt given fuel (bs.drop (perRecord fmt))
    (r.1 ++ rest.1, r.2 || rest.2)

/-- A row of an F8 format with a given or computed row scale (05 R164, R168, R169). A non-zero value over a given row scale of zero
has no stated result: the element is a free value, and it sets the range flag (log entry 11, DESIGN CHOICE). -/
def encodeF8 (fmt : Nat) (given : Option Half) (xs : List (Exact × Mode)) : List Byte × Bool :=
  let f := if fmt = 4 then f8e4Fmt else f8e5Fmt
  let r := finiteScale (given.getD (leastSuper (if fmt = 4 then 448 else 57344) (groupMax 0 (xs.map (·.1)))))
  let es : List (Byte × Bool) := xs.map fun x =>
    let s := bf16Value r
    if s.num = 0 then (if x.1.num = 0 then (if x.1.neg then 0x80 else 0, false) else (Config.overZero (BitVec.ofInt 32 x.1.num), true))
    else
      let y := x.1.div s
      let e := f.encode x.2 y.num.natAbs y.den
      (BitVec.ofNat 8 (e.1 + if y.neg then 128 else 0), e.2)
  (leBytes 2 r.toNat ++ es.map (·.1) ++ zeros (xs.length % 2), es.any (·.2) || given.any bf16Infinite)

/-- One element of an unscaled format: BF16, I32, F32 or S32 (05 R169, R173). -/
def encodePlain (fmt : Nat) (x : Exact × Mode) : List Byte × Bool :=
  if fmt = 6 then
    let e := bf16Fmt.encode x.2 x.1.num.natAbs x.1.den
    (leBytes 2 (e.1 + if x.1.neg then 2 ^ 15 else 0), e.2)
  else if fmt = 8 then
    let e := f32Fmt.encode x.2 x.1.num.natAbs x.1.den
    (leBytes 4 (e.1 + if x.1.neg then 2 ^ 31 else 0), e.2)
  else
    let r := if fmt = 9 then s32Round x.2 x.1 else fixRound x.2 x.1
    (leBytes 4 r.1.toNat, r.2)

/-- The rows of one step or tensor ID in any format (05 R162, R174): their bytes and whether they set the range flag. A block ends with its
row; a super-block goes on across rows. -/
def encodeRows (fmt : Nat) (given : Option Half) (rows : List (List (Exact × Mode))) : List Byte × Bool :=
  if blocked fmt then
    let bs := rows.flatMap blocks32
    encodeRecords fmt given (bs.length + 1) bs
  else
    let es := if isF8 fmt then rows.map (encodeF8 fmt given) else rows.flatten.map (encodePlain fmt)
    ((es.map (·.1)).flatten, es.any (·.2))

/-! ### The MAC array (04 R112 to R116, 05 R165) -/

/-- A block close: the exact I32 sum times its four scales, rounded once (05 R165). -/
def blockClose (aFmt wFmt : Nat) (a w : List Nat × Exact × Bool) : FW :=
  let sum := (List.zipWith (fun x y => codeInt aFmt x * codeInt wFmt y) a.1 w.1).sum
  let r := f32Round (((Exact.mk' sum 1).mul a.2.1).mul w.2.1)
  (r.1, r.2 || a.2.2 || w.2.2)

/-- The operand pairs the array accepts: weights, activations (04 R112). -/
def macPair (aFmt wFmt : Nat) : Bool :=
  let q (f : Nat) : Bool := f = 1 || f = 2
  let x (f : Nat) : Bool := f = 4 || f = 5 || f = 6
  (q aFmt && q wFmt) || (x aFmt && x wFmt)

/-- An operand row of a float mode: the unscaled elements and the row scale, 1 for BF16 (04 R115). -/
def floatRow (fmt row k : Nat) (bytes : List Byte) : List FW × Exact × Bool :=
  if isF8 fmt then
    let base := row * (2 + k + k % 2)
    let scale := BitVec.ofNat 16 (num bytes base 2)
    ((List.range k).map fun i =>
        let c := num bytes (base + 2 + i) 1
        ((f32Round (f8Value fmt c)).1, f8Infinite fmt c),
      bf16Value scale, bf16Infinite scale)
  else
    ((List.range k).map fun i => bf16FW (BitVec.ofNat 16 (num bytes (2 * (row * k + i)) 2)), Exact.mk' 1 1, false)

/-- A row of an operand as the array reads it: format, rows of its step or tensor ID, the row, its bytes (05 R162 to R164). -/
structure MacRow where
  fmt   : Nat
  rows  : Nat
  row   : Nat
  bytes : List Byte

/-- The root of a whole float reduction times the product of its row scales, rounded once (04 R115). -/
def scaleRoot (k : Nat) (a w : MacRow) (x : FW) : FW :=
  let p := (floatRow a.fmt a.row k a.bytes).2
  let q := (floatRow w.fmt w.row k w.bytes).2
  let r := f32Round (((f32Value x.1).mul p.1).mul q.1)
  (r.1, r.2 || x.2 || p.2 || q.2)

/-- Blocks `first` to `first + count − 1` of the reduction of K activations with K weights, combined in the canonical order (03
R85, R86, 04 R112 to R116). -/
def macPart (k : Nat) (a w : MacRow) (first count : Nat) : FW :=
  let n := ceilDiv k 32
  let part := (List.range count).map (first + ·)
  if blocked a.fmt then
    treeSum (part.map fun b =>
      blockClose a.fmt w.fmt (blockAt a.fmt (a.rows * n) (a.row * n + b) a.bytes) (blockAt w.fmt (w.rows * n) (w.row * n + b) w.bytes))
  else
    let xs := List.zipWith fMul (floatRow a.fmt a.row k a.bytes).1 (floatRow w.fmt w.row k w.bytes).1
    treeSum (part.map fun b => blockSum ((xs.drop (32 * b)).take 32))

/-- One output of a tile: the whole reduction (03 R85, 04 R112 to R116). -/
def macReduce (k : Nat) (a w : MacRow) : FW :=
  let root := macPart k a w 0 (ceilDiv k 32)
  if blocked a.fmt then root else scaleRoot k a w root

end Sys2Proof.Machine
end

