-- ==== Sys2Proof/Machine/Graph.lean ====
section
/-! DEFINITION. The checks of a clear image at MODEL_LOAD (03 R94 to R98, 07 R222, 09 R267) and of an adaptation block at
ADAPT_JOB (13 R421, R422). -/

namespace Sys2Proof.Machine

open Sys2Proof

/-! ### Groups of fields (03 R100) -/

/-- Groups that one more adjacent field makes. -/
def growGroups (gs : List (List Nat)) : List (List Nat) :=
  (gs.map fun g =>
    ((List.range 84).filter fun f => !g.contains f && g.any (adjacent f)).map fun f => g ++ [f]).flatten

/-- Connected groups of at most four fields, the single fields first (03 R100). -/
def fieldGroups : List (List Nat) :=
  let g1 := (List.range 84).map fun f => [f]
  let g2 := growGroups g1
  let g3 := growGroups g2
  g1 ++ g2 ++ g3 ++ growGroups g3

/-- The Live core ceiling of a field: enabled cores less 16 and less the retirements since the reset (02 R60, 04 R152). -/
def State.liveCeiling (s : State) (f : Nat) : Nat := s.cap.fieldCores.getD f 0 - 16 - (s.field f).retired

/-- Whether a number of cores fits the ceilings of some connected group of at most four fields (03 R98 check 9). -/
def State.fitsFields (s : State) (n : Nat) : Bool := fieldGroups.any fun g => n ≤ (g.map s.liveCeiling).sum

/-! ### R98 -/

/-- Whether the WEIGHT_OFFSET of layer i meets the rules of R96. -/
def weightOk (m : List Byte) (i : Nat) : Bool :=
  let l := imgLayer m i
  let must := (1 ≤ l.kind && l.kind ≤ 5) || l.kind = 7
  if l.hasPart then
    let room := imgWeightBytes m - l.weightOff
    l.weightOff % 64 = 0 && l.weightOff < imgWeightBytes m && (!imgAdapt m || 128 ≤ l.weightOff)
      && (if l.kind = 7 then 64 ≤ room && headBytes (partOf m l) ≤ room else !must || 32 ≤ room)
      && (l.kind != 7 || (List.range (imgLayers m)).all fun k =>
            let x := imgLayer m k
            k = i || !x.hasPart || x.weightOff < l.weightOff || l.weightOff + headBytes (partOf m l) ≤ x.weightOff)
  else !must

/-- Check 1: MAGIC, lengths, offsets (03 R98). -/
def check1 (m : List Byte) : Bool :=
  num m 0 4 = 0x4B4A4D46 && 128 ≤ m.length && imgBytes m = m.length && 1 ≤ imgLayers m && imgLayers m ≤ 4096
    && imgLayerOff m + 32 * imgLayers m ≤ imgBytes m && imgCostOff m + 48 * imgCosts m ≤ imgBytes m
    && imgStrokeOff m ≤ imgWeightOff m && imgWeightOff m ≤ imgBytes m && (List.range (imgLayers m)).all (weightOk m)

/-- Check 2: reserved fields (03 R98). -/
def check2 (m : List Byte) : Bool :=
  imgFlags m < 8 && imgRates m < 32 && imgSeasons m < 16 && zeroAt m 0x4B 1 && zeroAt m 0x78 8
    && (imgLayerTable m).all (fun l => l.lflags < 16 && l.kind ≤ 7 && l.spare = 0)
    && (List.range (imgCosts m)).all (fun i => zeroAt m (imgCostOff m + 48 * i + 0x23) 1 && zeroAt m (imgCostOff m + 48 * i + 0x28) 8)

/-- The message of GRAPH_HASH (03 R95). -/
def hashInput (m : List Byte) : List Byte :=
  bytesAt m 0 8 ++ bytesAt m 0x48 0x28 ++ (m.drop (imgLayerOff m)).take (32 * imgLayers m)
    ++ (m.drop (imgCostOff m)).take (48 * imgCosts m) ++ (m.drop (imgStrokeOff m)).take (imgWeightOff m - imgStrokeOff m)

/-- Check 3: GRAPH_HASH (03 R95, R98). -/
def check3 (m : List Byte) : Bool := imgHash m == Config.shake256 (hashInput m) 64

/-- Check 4: contract 1.0 (03 R74, R75). -/
def check4 (m : List Byte) : Bool := num m 5 1 = 1 && num m 4 1 = 0

/-- Check 5: format codes; CAP_FORMATS supports every one of them (03 R79, R98). -/
def check5 (m : List Byte) : Bool :=
  (imgLayerTable m).all fun l =>
    l.weightFmt ≤ 9 && l.actFmt ≤ 9 && l.outFmt ≤ 9 && (l.accFmt = 0 || l.accFmt = 7 || l.accFmt = 8)

/-- The pairs of set mask bits, by Season and then rate (03 R97). -/
def costPairs (m : List Byte) : List (Nat × Nat) :=
  (((List.range 4).filter (imgSeasons m).testBit).map fun q =>
    ((List.range 5).filter (imgRates m).testBit).map fun r => (q, r)).flatten

/-- Check 6: masks and the cost table (03 R98). -/
def check6 (m : List Byte) : Bool := (imgCostTable m).map (fun c => (c.season, c.rate)) == costPairs m

/-- Check 7: whole scan chunks under every declared Season (02 R47, 03 R98). -/
def check7 (m : List Byte) : Bool :=
  ((List.range 4).filter (imgSeasons m).testBit).all fun q =>
    (imgLayerTable m).all fun l =>
      l.stepRate = 0 ||
        (let n := seasonTicks q * l.stepRate
         n % 48000 = 0 && 0 < n / 48000 && (!l.split || n / 48000 % 2 = 0))

/-- Resettable layers other than the head. -/
def resettables (m : List Byte) : List Layer := (imgLayerTable m).filter fun l => l.resettable && l.kind != 7

/-- Check 8: one head, resettable; RESETTABLE_COUNT (03 R98). -/
def check8 (m : List Byte) : Bool :=
  (match (imgLayerTable m).filter (·.kind = 7) with
    | [h] => h.resettable
    | _ => false)
  && imgResettable m = (resettables m).length && imgResettable m ≤ 4

/-- Check 9: ceilings (03 R98). -/
def check9 (s : State) (m : List Byte) : Bool :=
  imgMinPlate m ≤ 304 && imgHeadCycles m ≤ 25000 && imgMaxStroke m ≤ 12000 && s.fitsFields (imgMinCores m)

/-! ### The head layer (07 R222) -/

/-- Parameters of each distribution (07 R225 to R228). -/
def headParams (h : List Byte) : Nat :=
  match headDist h with
  | 0 => 3 * headParam h
  | 1 => 1024
  | _ => headParam h + 3

/-- The head block's own fields (07 R217). -/
def headBlockOk (h : List Byte) : Bool :=
  zeroAt h 0x0A 2 && zeroAt h 0x18 40 && 1 ≤ headCond h && headCond h ≤ 128 && headDist h ≤ 2
    && (match headDist h with
      | 0 => 1 ≤ headParam h && headParam h ≤ 10
      | 1 => headParam h = 0
      | _ => headParam h ≤ 7)
    && headCell h ≤ 256 && 1 ≤ headOps h && headOps h ≤ 32 && headInit h ≤ 1
    && (if headDist h = 1 then headInitClass h ≤ 1023 else headInitClass h = 0)
    && (if headInit h = 0 then headInitOff h = 0 else headInitOff h + 4 * headCell h ≤ headBytes h)
    && 64 ≤ headBytes h && headBytes h ≤ 786432 && headOpTable h + 16 * headOps h ≤ headBytes h

/-- Weight bytes an operation reads, with the WFMT it must have (07 R218, R219). -/
def opWeights (h : List Byte) (o : HeadOp) : Option (Nat × Nat) :=
  match o.op with
  | 0 => if o.wfmt = 1 || o.wfmt = 2 then some (o.wfmt, tensorBytes o.wfmt o.rows o.cols) else none
  | 1 => some (8, 4 * o.rows)
  | 3 => if o.func = 2 then some (8, 4) else if o.func = 9 then some (8, 4 * o.rows) else some (0, 0)
  | 5 => if headDist h = 1 then some (6, 2048 * o.rows) else some (8, 4 * o.rows)
  | _ => some (0, 0)

/-- Whether the constant words of an ACT hold BF16 values (07 R218). -/
def constsOk (h : List Byte) (o : HeadOp) : Bool :=
  if o.op = 3 && (o.func = 2 || o.func = 9) then
    (List.range (if o.func = 2 then 1 else o.rows)).all fun i => zeroAt h (o.woff + 4 * i) 2
  else true

/-- One operation against the lengths of the vectors defined before it (07 R218, R219). -/
def opOk (h : List Byte) (lens : Tab Nat) (o : HeadOp) : Bool :=
  let a := tabGet lens o.srcA
  let b := tabGet lens o.srcB
  let la := a.getD 0
  let usesB := o.op = 2 || o.op = 4 || (o.op = 0 && o.srcB != 0xFF)
  o.op ≤ 7 && o.spare = 0 && 1 ≤ o.rows && o.rows ≤ 1024 && a.isSome && (if usesB then b.isSome else o.srcB = 0xFF)
    && (match o.op with
      | 6 => o.dst = 1
      | 7 => o.dst = 0
      | _ => 2 ≤ o.dst && o.dst ≤ 15)
    && (match o.op with
      | 3 => o.func ≤ 9
      | 4 => 10 ≤ o.func && o.func ≤ 12
      | _ => o.func = 0)
    && (match o.op with
      | 0 => o.cols = la + (if usesB then b.getD 0 else 0) && 1 ≤ o.cols && (!usesB || la % 32 = 0)
      | 2 | 4 => o.cols = 0 && la = o.rows && b = some o.rows
      | 6 => o.cols = 0 && la = 2 * headCell h && o.rows = headCell h
      | 7 => o.cols = 0 && o.rows = 1 && la = headParams h
      | _ => o.cols = 0 && la = o.rows)
    && (match opWeights h o with
      | some (f, n) => o.wfmt = f && (if n = 0 then o.woff = 0 else o.woff + n ≤ headBytes h)
      | none => false)
    && constsOk h o

/-- The operations in order; SAMPLE is the last and only the last (07 R222). -/
def programOk (h : List Byte) : Tab Nat → List HeadOp → Bool
  | _, [] => false
  | lens, [o] => o.op = 7 && opOk h lens o
  | lens, o :: rest => o.op != 7 && opOk h lens o && programOk h (tabSet lens o.dst o.rows) rest

/-- Check 10 (07 R222). -/
def check10 (m : List Byte) : Bool :=
  let h := headPart m
  headBlockOk h && programOk h [(0, headCond h), (1, headCell h)] (headProgram h)

/-- Cycles of an operation (07 R219). -/
def opCycles (h : List Byte) (o : HeadOp) : Nat :=
  match o.op with
  | 0 => 2 * ceilDiv o.cols 16 + (if o.wfmt = 1 then 1 else 2) * (ceilDiv o.rows 32 * ceilDiv o.cols 32) + 12
  | 1 | 2 | 5 => ceilDiv o.rows 16 + 4
  | 3 | 4 => ceilDiv o.rows 16 + 12
  | 6 => 4 * ceilDiv (headCell h) 16 + 8
  | _ =>
    match headDist h with
    | 0 => 48 + 6 * headParam h
    | 1 => 200
    | _ => 42 + 2 * headParam h

/-- The program cost (07 R219). -/
def programCost (h : List Byte) : Nat := ((headProgram h).map (opCycles h)).sum

/-- Check 11 (07 R222). -/
def check11 (m : List Byte) : Bool :=
  let h := headPart m
  match imgHead m with
  | some l => programCost h ≤ imgHeadCycles m && l.state = 64 + 4 * headCell h && 3 ≤ l.tensors
  | none => false

/-! ### The stroke image (09 R260 to R267) -/

/-- A block-list entry (09 R263). -/
structure Entry where
  op        : Nat
  eflags    : Nat
  src       : Nat
  dst       : Nat
  len       : Nat
  srcOff    : Nat
  waitLink  : Nat
  dstOff    : Nat
  relLink   : Nat
  notLink   : Nat
  waitN     : Nat
  relN      : Nat
  notN      : Nat
  chain     : Nat
  spare     : Nat
  deriving DecidableEq, Repr

/-- Flags of an entry (09 R263). -/
def Entry.wait (e : Entry) : Bool := e.eflags.testBit 0
@[inherit_doc Entry.wait] def Entry.release (e : Entry) : Bool := e.eflags.testBit 1
@[inherit_doc Entry.wait] def Entry.notify (e : Entry) : Bool := e.eflags.testBit 2
@[inherit_doc Entry.wait] def Entry.nomerge (e : Entry) : Bool := e.eflags.testBit 3
@[inherit_doc Entry.wait] def Entry.rowExpand (e : Entry) : Bool := e.eflags.testBit 4
/-- Space of a SRC or DST byte (09 R263). -/
def spaceOf (x : Nat) : Nat := x / 16 % 8
/-- Handle of a SRC or DST byte (09 R263). -/
def handleOf (x : Nat) : Nat := x % 16

/-- Reads the entry at an offset of the stroke image (09 R263). -/
def entryAt (k : List Byte) (off : Nat) : Entry :=
  let b := (k.drop off).take 32
  ⟨num b 0 1, num b 1 1, num b 2 1, num b 3 1, num b 4 4, num b 8 6, num b 14 2, num b 16 6, num b 22 2, num b 24 2, num b 26 1,
    num b 27 1, num b 28 1, num b 29 1, num b 30 2⟩

/-- A link (09 R261). -/
structure Link where
  pair     : Nat
  kind     : Nat
  slots    : Nat
  slotTime : Nat
  deriving DecidableEq, Repr

/-- Producer and consumer codes: 0 stroke, 1 Tracer, 2 Scriber, 3 chain (09 R261). -/
def Link.producer (l : Link) : Nat := l.kind % 4
@[inherit_doc Link.producer] def Link.consumer (l : Link) : Nat := l.kind / 4 % 4

/-- A stroke record (09 R262). -/
structure Stroke where
  codeOff  : Nat
  codeLen  : Nat
  tracer   : Nat
  tracers  : Nat
  scribers : Nat
  scriber  : Nat
  fill     : List Nat
  spare    : Nat
  deriving DecidableEq, Repr

/-- The stroke image of a clear image (03 R94). -/
def strokeImage (m : List Byte) : List Byte := (m.drop (imgStrokeOff m)).take (imgWeightOff m - imgStrokeOff m)
/-- The header (09 R260). -/
def linkCount (k : List Byte) : Nat := num k 0 2
@[inherit_doc linkCount] def strokeCount (k : List Byte) : Nat := num k 2 2
@[inherit_doc linkCount] def linkTable (k : List Byte) : Nat := num k 4 4
@[inherit_doc linkCount] def strokeTable (k : List Byte) : Nat := num k 8 4

/-- Link `i` (09 R261). -/
def linkAt (k : List Byte) (i : Nat) : Link :=
  let b := (k.drop (linkTable k + 16 * i)).take 16
  ⟨num b 0 1, num b 1 1, num b 2 1, num b 4 4⟩

/-- Stroke `i` (09 R262). -/
def strokeAt (k : List Byte) (i : Nat) : Stroke :=
  let b := (k.drop (strokeTable k + 32 * i)).take 32
  ⟨num b 0 4, num b 4 4, num b 8 4, num b 12 2, num b 14 2, num b 16 4, (List.range 4).map (fun j => num b (20 + 2 * j) 2),
    num b 28 4⟩

/-- The Tracer's or Scriber's list of a stroke, before expansion (09 R262). -/
def Stroke.list (k : List Byte) (t : Stroke) (e : Engine) : List Entry :=
  match e with
  | .tracer => (List.range t.tracers).map fun i => entryAt k (t.tracer + 32 * i)
  | .scriber => (List.range t.scribers).map fun i => entryAt k (t.scriber + 32 * i)

/-- Handles of a space (09 R264). -/
def handleOk (x : Nat) : Bool :=
  x < 128 &&
  match spaceOf x with
  | 0 | 1 | 5 => handleOf x ≤ 7
  | 2 | 6 => true
  | 3 | 4 => handleOf x = 0
  | _ => false

/-- The pairings of R265. Its table gives ZERO no source: a SRC byte other than 0 fails check 12 (log entry 41, DESIGN CHOICE). -/
def pairingOk (eng : Engine) (e : Entry) : Bool :=
  let s := spaceOf e.src
  let d := spaceOf e.dst
  match e.op, eng with
  | 0, _ => e.src = 0 && e.dst = 0
  | 1, .tracer => (s = 1 || s = 2 || s = 3 || s = 6) && d = 0
  | 1, .scriber => s = 0 && (d = 2 || d = 5)
  | 2, .tracer => (s = 1 || s = 2) && d = 0
  | 3, .tracer => s = 4 && d = 0
  | 4, .tracer => e.src = 0 && d = 0
  | 4, .scriber => e.src = 0 && d = 2
  | _, _ => false

/-- A semaphore field of an entry: zero when its flag is clear, else a link of the job and a count from 1 (09 R263). -/
def semOk (links : Nat) (flag : Bool) (link n : Nat) : Bool :=
  if flag then link < 4096 && link < links && 1 ≤ n else link = 0 && n = 0

/-- CHAIN_COUNT (09 R263). -/
def chainOk (e : Entry) : Bool :=
  match e.op with
  | 2 => 2 ≤ e.chain && e.chain ≤ 16
  | 3 => e.chain ≤ 14
  | _ => e.chain = 0

/-- One entry (09 R267). -/
def entryOk (links : Nat) (eng : Engine) (e : Entry) : Bool :=
  e.op ≤ 4 && e.eflags < 32 && handleOk e.src && handleOk e.dst && e.spare = 0
    && (if e.op = 0 then e.len = 0 else 1 ≤ e.len && e.len ≤ 1048576)
    && pairingOk eng e && semOk links e.wait e.waitLink e.waitN && semOk links e.release e.relLink e.relN
    && semOk links e.notify e.notLink e.notN && chainOk e && (!e.rowExpand || spaceOf e.src = 3)

/-- One FIRST_FILL item (09 R262, R267). -/
def fillOk (k : List Byte) (x : Nat) : Bool :=
  x = 0 || (x % 4096 < linkCount k && 1 ≤ x / 4096 && x / 4096 ≤ (linkAt k (x % 4096)).slots)

/-- One stroke with its lists (09 R262, R267). -/
def strokeOk (k : List Byte) (t : Stroke) : Bool :=
  t.spare = 0 && t.codeOff + t.codeLen ≤ k.length && t.tracers ≤ 1024 && t.scribers ≤ 1024
    && t.tracer + 32 * t.tracers ≤ k.length && t.scriber + 32 * t.scribers ≤ k.length && t.fill.all (fillOk k)
    && (t.list k .tracer).all (entryOk (linkCount k) .tracer) && (t.list k .scriber).all (entryOk (linkCount k) .scriber)

/-- One link (09 R261, R267). -/
def linkOk (k : List Byte) (i : Nat) : Bool :=
  let l := linkAt k i
  l.pair ≤ 63 && l.kind < 16 && 1 ≤ l.slots && l.slots ≤ 64 && zeroAt k (linkTable k + 16 * i + 3) 1
    && zeroAt k (linkTable k + 16 * i + 8) 8

/-- Check 12 (09 R267). -/
def check12 (m : List Byte) : Bool :=
  let k := strokeImage m
  16 ≤ k.length && zeroAt k 12 4 && linkCount k ≤ 4096 && 1 ≤ strokeCount k && linkTable k + 16 * linkCount k ≤ k.length
    && strokeTable k + 32 * strokeCount k ≤ k.length && (List.range (linkCount k)).all (linkOk k)
    && (List.range (strokeCount k)).all fun i => strokeOk k (strokeAt k i)

/-- The first of a list of checks that fails, by its number, counted from `n`. -/
def firstFailed (n : Nat) : List (Unit → Bool) → Option Nat
  | [] => none
  | c :: rest => if c () then firstFailed (n + 1) rest else some n

/-- Reason code of a clear image: the first check of R98, R222 and R267 that fails. -/
def imageReason (s : State) (m : List Byte) : Option Nat :=
  firstFailed 1 [fun _ => check1 m, fun _ => check2 m, fun _ => check3 m, fun _ => check4 m, fun _ => check5 m, fun _ => check6 m,
    fun _ => check7 m, fun _ => check8 m, fun _ => check9 s m, fun _ => check10 m, fun _ => check11 m, fun _ => check12 m]

/-! ### Adaptation (13 R421, R422) -/

/-- A substitution entry (13 R422). -/
structure Subst where
  out    : Nat
  target : Nat
  bytes  : Nat
  spare  : Nat
  deriving DecidableEq, Repr

/-- The weight image of an adaptation graph, which begins with the adaptation block (13 R422). -/
def weightImage (m : List Byte) : List Byte := m.drop (imgWeightOff m)

/-- The substitution table (13 R422). -/
def substTable (w : List Byte) : List Subst :=
  (List.range (num w 4 2)).map fun i =>
    let b := (w.drop (num w 0x48 4 + 16 * i)).take 16
    ⟨num b 0 4, num b 4 4, num b 8 4, num b 12 4⟩

/-- Whether no two target ranges overlap (13 R422). -/
def disjoint : List Subst → Bool
  | [] => true
  | e :: rest => rest.all (fun f => e.target + e.bytes ≤ f.target || f.target + f.bytes ≤ e.target) && disjoint rest

/-- One entry (13 R422). -/
def substOk (outBytes targetBytes : Nat) (e : Subst) : Bool :=
  e.spare = 0 && e.target % 2 = 0 && e.bytes % 2 = 0 && 2 ≤ e.bytes && e.bytes ≤ 16777216 && e.out + e.bytes ≤ outBytes
    && e.target + e.bytes ≤ targetBytes

/-- Check 13: an adaptation graph against its target, the output size, and the input kind (13 R421, R422). -/
def check13 (adapt target : List Byte) (outBytes input : Nat) : Bool :=
  let w := weightImage adapt
  imgAdapt adapt && num w 0 4 = 0x4B414450 && zeroAt w 6 2 && zeroAt w 0x50 48 && 1 ≤ num w 4 2 && num w 4 2 ≤ 1024
    && num w 0x48 4 % 16 = 0 && num w 0x48 4 + 16 * num w 4 2 ≤ w.length && bytesAt w 8 64 == imgHash target
    && num w 0x4C 4 ≤ outBytes && (substTable w).all (substOk outBytes (imgWeightBytes target)) && disjoint (substTable w)
    && (input = 0 || (imgFlags adapt).testBit 0)

/-- The new voice model's clear image (13 R422). -/
def adaptedImage (adapt target : List Byte) (output : List Host.Cell) : List Byte :=
  (substTable (weightImage adapt)).foldl
    (fun m e => patch m (imgWeightOff target + e.target) (memBytes output e.out e.bytes)) target

end Sys2Proof.Machine
end

