-- ==== Sys2Proof/Machine/Carried.lean ====
section
/-! DEFINITION. Carried state: initial state, export records as bytes and back, the import checks, and save areas as bytes
(06 R178 R196 R203 to R208, 07 R234 R235, 11 R334 to R339). -/

namespace Sys2Proof.Machine

open Sys2Proof

/-! ### Initial state (06 R178, R196; 07 R235) -/

/-- Initial head state of a voice (07 R235). -/
def initialHead (m : List Byte) : Head :=
  let h := headPart m
  let n := headCell h
  ⟨0, 0, if headDist h = 1 then headInitClass h else 0, List.replicate 7 0,
    (List.range n).map fun i => if headInit h = 1 then BitVec.ofNat 32 (num h (headInitOff h + 4 * i) 4) else 0⟩

/-- Initial carried state of a layer (06 R178, R179). -/
def initialLayer (m : List Byte) (l : Layer) : List Byte :=
  let p := partOf m l
  if (l.kind = 3 || l.kind = 4) && num p 3 1 = 1 then bytesAt (weightImage m) (num p 8 4) l.state else zeros l.state

/-- Layers other than the head that carry state, in layer-table order (06 R204). -/
def carryLayers (m : List Byte) : List Layer := (imgLayerTable m).filter fun l => l.state != 0 && l.kind != 7

/-- Initial carried state of every layer that carries any (06 R178, R196). -/
def initialLayers (m : List Byte) : List (Nat × List Byte) := (carryLayers m).map fun l => (l.id, initialLayer m l)

/-! ### Export records (06 R203 to R206) -/

/-- The head section (07 R234). -/
def Head.bytes (h : Head) : List Byte :=
  leBytes 4 h.xPrev.toNat ++ leBytes 4 h.envelope.toNat ++ leBytes 2 h.classPrev ++ zeros 6
    ++ ((List.range 7).map fun i => leBytes 4 (h.noise.getD i 0).toNat).flatten ++ zeros 20
    ++ (h.cell.map fun w => leBytes 4 w.toNat).flatten

/-- Reads a head section of H cells (07 R234). -/
def headOf (b : List Byte) : Head :=
  let w (off : Nat) : Word := BitVec.ofNat 32 (num b off 4)
  ⟨w 0, w 4, num b 8 2, (List.range 7).map fun i => w (16 + 4 * i), (List.range ((b.length - 64) / 4)).map fun i => w (64 + 4 * i)⟩

/-- A section of an export record (06 R204). -/
structure Section where
  id     : Nat
  type   : Nat
  kind   : Nat
  format : Nat
  flags  : Nat
  data   : List Byte
  deriving DecidableEq, Repr

/-- FORMAT of a layer's section (06 R204, R205). -/
def sectionFormat (l : Layer) : Nat :=
  match l.kind with
  | 3 | 4 => 9
  | 5 => 8
  | 7 => 0
  | _ => l.actFmt

/-- The sections of a record in the order of R204. -/
def sections (m : List Byte) (r : ExportRec) : List Section :=
  let pend (id : Nat) : Nat := bit (r.pending.contains id) 0
  let layers := ((imgLayerTable m).filter fun l => l.state != 0).map fun l =>
    (⟨l.id, 0, l.kind, sectionFormat l, pend l.id,
      if l.kind = 7 then r.head.bytes else bytesAt ((tabGet r.layers l.id).getD []) 0 l.state⟩ : Section)
  match r.chunk with
  | some c =>
    if r.headNext < r.hatchNext then
      layers ++ [(⟨((imgHead m).map (·.id)).getD 0, 1, 7, 6, 0, c.cond⟩ : Section)]
    else layers
  | none => layers

/-- A length rounded up to 64 bytes. -/
def pad64 (n : Nat) : Nat := ceilDiv n 64 * 64

/-- Table entries and padded data of a list of sections from an offset (06 R204, R206). -/
def layOut : Nat → List Section → List Byte × List Byte
  | _, [] => ([], [])
  | at_, x :: rest =>
    let n := x.data.length
    let r := layOut (at_ + pad64 n) rest
    (leBytes 2 x.id ++ leBytes 1 x.type ++ leBytes 1 x.kind ++ leBytes 1 x.format ++ leBytes 1 x.flags ++ zeros 2 ++ leBytes 4 at_
        ++ leBytes 4 n ++ r.1,
      x.data ++ zeros (pad64 n - n) ++ r.2)

/-- The 128-byte header (06 R203). -/
def recordHeader (r : ExportRec) (count bytes : Nat) : List Byte :=
  leBytes 4 0x4B535852 ++ [0, 1] ++ leBytes 2 r.rflags ++ bytesAt r.graphHash 0 64 ++ leBytes 8 r.seed.toNat
    ++ leBytes 4 r.key.toNat ++ leBytes 1 r.rate ++ leBytes 1 r.season ++ leBytes 2 count ++ leBytes 6 r.headNext ++ zeros 2
    ++ leBytes 6 r.hatchNext ++ zeros 2 ++ leBytes 6 r.frame.toNat ++ zeros 2 ++ leBytes 4 bytes ++ zeros 12

/-- A record before its digest (06 R203 to R206). -/
def recordBody (m : List Byte) (r : ExportRec) : List Byte :=
  let ss := sections m r
  let table := 16 * ss.length
  let first := pad64 (128 + table)
  let l := layOut first ss
  recordHeader r ss.length (first + l.2.length + 64) ++ l.1 ++ zeros (first - 128 - table) ++ l.2

/-- A record as bytes, its digest last (06 R206). -/
def exportBytes (m : List Byte) (r : ExportRec) : List Byte := recordBody m r ++ Config.shake256 (recordBody m r) 64

/-- The chunk that the head takes in the Frame with a count, and the Hatch layers have finished (06 R199, R207). -/
def Stream.carriedChunk (ord : Nat) (x : Stream) : Option Chunk := x.burinChunks.find? (·.frame == ord)

/-- The voice in force at a sample: the last switch at or before it in the chunks that Burin may take (01 R32). -/
def Stream.voiceAt (x : Stream) (n : Nat) : Nat :=
  let vs := ((x.burinChunks.map (·.voices)).flatten).filter fun v => v.1 ≤ n
  ((vs.getLast?).map (·.2)).getD x.voice

/-- One past the last sample whose conditioning the Hatch layers have produced. -/
def Stream.hatchEnd (x : Stream) : Nat := ((x.burinChunks.getLast?).map fun c => c.first + c.count).getD x.handed

/-- The record of a stream's shadow (06 R199, R203, R207). -/
def exportOf (s : State) (m : List Byte) (x : Stream) (rflags : Nat) (chunk : Option Chunk) (head : Head) : ExportRec :=
  let next := match chunk with
    | some c => (c.first, c.first + c.count)
    | none => (x.hatchEnd, x.hatchEnd)
  ⟨rflags, imgHash m, x.seed, x.key, x.rate, s.tb.season, next.1, next.2, s.tb.frame, x.pendingReset, x.layers, head, chunk⟩

/-! ### Import (06 R208, R209) -/

/-- Entry `i` of a record's section table with its offset. -/
def sectionAt (b : List Byte) (i : Nat) : Section × Nat :=
  let e := (b.drop (128 + 16 * i)).take 16
  (⟨num e 0 2, num e 2 1, num e 3 1, num e 4 1, num e 5 1, (b.drop (num e 8 4)).take (num e 12 4)⟩, num e 8 4)

/-- The sections of a record. -/
def sectionsOf (b : List Byte) : List (Section × Nat) := (List.range (num b 0x56 2)).map (sectionAt b)

/-- Whether a sample lies on a step boundary of every layer (06 R207). -/
def onSteps (m : List Byte) (rate n : Nat) : Bool := (imgLayerTable m).all fun l => n * l.stepRate % rateHz rate = 0

/-- Reason 1: MAGIC, length, sections inside (06 R208). -/
def importCheck1 (b : List Byte) : Bool :=
  num b 0 4 = 0x4B535852 && num b 0x70 4 = b.length && 192 ≤ b.length
    && 128 + 16 * num b 0x56 2 + 64 ≤ b.length
    && (List.range (num b 0x56 2)).all fun i =>
      num b (128 + 16 * i + 8) 4 + num b (128 + 16 * i + 12) 4 + 64 ≤ b.length

/-- Every byte between the section table and the digest that no section holds is zero (06 R206). No check of the table names a section
whose OFFSET is not a multiple of 64: it counts as padding out of place, reason 2 (log entry 41, DESIGN CHOICE). -/
def importGaps (b : List Byte) : Bool :=
  let ss := sectionsOf b
  let first := 128 + 16 * num b 0x56 2
  ss.all (fun x => x.2 % 64 = 0) && (List.range (b.length - 64 - first)).all fun i =>
    ss.any (fun x => x.2 ≤ first + i && first + i < x.2 + x.1.data.length) || b.getD (first + i) 0 == 0

/-- Reason 2: reserved fields and padding (06 R208). -/
def importCheck2 (b : List Byte) : Bool :=
  num b 6 2 < 8 && zeroAt b 0x5E 2 && zeroAt b 0x66 2 && zeroAt b 0x6E 2 && zeroAt b 0x74 12
    && (List.range (num b 0x56 2)).all (fun i =>
      num b (128 + 16 * i + 2) 1 ≤ 1 && num b (128 + 16 * i + 5) 1 ≤ 1 && zeroAt b (128 + 16 * i + 6) 2)
    && importGaps b

/-- Reason 3: the digest (06 R206, R208). -/
def importCheck3 (b : List Byte) : Bool := b.drop (b.length - 64) == Config.shake256 (b.take (b.length - 64)) 64

/-- Bytes of a layer's section as its parameter block gives them (06 R179, R205). -/
def sectionBytes (m : List Byte) (l : Layer) : Nat :=
  let p := paramBlock m l
  let step := tensorBytes l.actFmt 1 (paramChannels p)
  match l.kind with
  | 1 => paramDepth p * step
  | 2 => 8 + 2 * (paramDepth p * step)
  | 3 | 4 => 4 * paramChannels p
  | 5 => 4 * (paramDepth p * paramChannels p)
  | _ => l.state

/-- Reason 7: the layers of R204 in order, agreeing with the layer table and the parameter blocks (06 R208). -/
def importCheck7 (m b : List Byte) : Bool :=
  let ss := (sectionsOf b).map (·.1)
  let ls := (imgLayerTable m).filter fun l => l.state != 0
  let tail := ss.drop ls.length
  (ss.take ls.length).map (fun x => (x.id, x.type, x.kind, x.format, x.data.length))
      == ls.map (fun l => (l.id, 0, l.kind, sectionFormat l, l.state))
    && ls.all (fun l => sectionBytes m l = l.state)
    && (match tail with
      | [] => true
      | [x] => x.id = ((imgHead m).map (·.id)).getD 0 && x.type = 1 && x.kind = 7 && x.format = 6
      | _ => false)

/-- Reason 8: step boundaries; the conditioning covers the samples between, which lie in one chunk of the record's Season (06 R207,
R208). -/
def importCheck8 (m b : List Byte) (rate : Nat) : Bool :=
  let hn := num b 0x58 6
  let tn := num b 0x60 6
  let n := max 1 (rateHz rate * seasonTicks (num b 0x55 1) / 48000)
  let ss := (sectionsOf b).map (·.1)
  let cond := (ss.filter (·.type = 1)).map (·.data.length)
  onSteps m rate hn && onSteps m rate tn && hn ≤ tn && tn ≤ (hn / n + 1) * n
    && cond == (if hn < tn then [(tn - hn) * 2 * headCond (headPart m)] else [])

/-- Reason code of an import, none if every check holds (06 R208). -/
def recordReason (m b : List Byte) (rate season : Nat) : Option Nat :=
  firstFailed 1 [fun _ => importCheck1 b, fun _ => importCheck2 b, fun _ => importCheck3 b,
    fun _ => num b 5 1 = 1 && num b 4 1 = 0, fun _ => bytesAt b 8 64 == imgHash m, fun _ => num b 0x54 1 = rate,
    fun _ => importCheck7 m b, fun _ => importCheck8 m b rate,
    fun _ => num b 0x58 6 = num b 0x60 6 || num b 0x55 1 = season]

/-- A record read back from its bytes (06 R203 to R205). -/
def recordRead (b : List Byte) : ExportRec :=
  let ss := (sectionsOf b).map (·.1)
  let hn := num b 0x58 6
  let tn := num b 0x60 6
  let cond := ((ss.find? (·.type = 1)).map (·.data)).getD []
  ⟨num b 6 2, bytesAt b 8 64, BitVec.ofNat 64 (num b 0x48 8), BitVec.ofNat 32 (num b 0x50 4), num b 0x54 1, num b 0x55 1, hn, tn,
    BitVec.ofNat 48 (num b 0x68 6), (ss.filter fun x => x.flags = 1).map (·.id),
    (ss.filter fun x => x.type = 0 && x.kind != 7).map (fun x => (x.id, x.data)),
    headOf (((ss.find? fun x => x.type = 0 && x.kind = 7).map (·.data)).getD (zeros 64)),
    if hn < tn then some ⟨hn, tn - hn, 0, 0, 0, none, cond, [], [], [], false, true, 0, false, []⟩ else none⟩

/-! ### Save areas (11 R334 to R339) -/

/-- The header of a save area, its digest taken as zero (11 R335). SESSION_ID of a job moved from another member is 0: it has no session
here, and the spec gives none (log entry 41, DESIGN CHOICE). -/
def saveHeader (a : SaveArea) (jobId extents dataBytes : Nat) : List Byte :=
  leBytes 4 0x4B465A53 ++ [0, 1] ++ leBytes 2 a.svflags ++ bytesAt a.graphHash 0 64 ++ leBytes 8 a.seed.toNat ++ leBytes 4 a.key.toNat
    ++ leBytes 2 (a.session % 4096) ++ leBytes 2 jobId ++ leBytes 4 a.handle ++ leBytes 2 a.rows.length ++ leBytes 2 extents
    ++ leBytes 6 a.frame.toNat ++ leBytes 1 a.season ++ zeros 1 ++ leBytes 8 a.optStep ++ leBytes 6 a.workFrame
    ++ leBytes 2 a.parking.length ++ leBytes 4 dataBytes ++ zeros 132

/-- Entries of a table followed by zeros to its size. -/
def tableBytes (size : Nat) (es : List (List Byte)) : List Byte := bytesAt es.flatten 0 size

/-- Places items one behind the other, each at a 64-byte boundary, and gives every item its offset (11 R334). -/
def placeItems : Nat → List (List Byte) → List (Nat × List Byte)
  | _, [] => []
  | at_, b :: rest => (at_, b) :: placeItems (at_ + pad64 b.length) rest

/-- A row-table entry (11 R336). -/
def rowEntry (r : SaveRow) (at_ len : Nat) : List Byte :=
  leBytes 2 r.stream ++ leBytes 2 (3 + bit r.keep 2) ++ leBytes 4 r.record.key.toNat ++ leBytes 8 r.record.seed.toNat ++ leBytes 4 at_
    ++ leBytes 4 len ++ leBytes 4 r.voice ++ zeros 36

/-- An extent-table entry (11 R337). -/
def extentEntry (k : ExtentKey) (at_ len : Nat) : List Byte :=
  leBytes 2 k.tensor ++ leBytes 2 k.row ++ leBytes 1 k.kind ++ leBytes 1 k.format ++ leBytes 1 k.level ++ zeros 1 ++ leBytes 6 k.step
    ++ leBytes 2 k.steps ++ leBytes 2 k.offset ++ leBytes 2 k.offsets ++ leBytes 2 k.node ++ leBytes 2 k.link ++ leBytes 4 at_ ++ leBytes 4 len

/-- The extent that holds slot i of a link, in stroke order: its place among the slots is its offset coordinate (03 R82, 11 R337; log entry
25). -/
def slotKey (m : List Byte) (link i : Nat) : ExtentKey :=
  let v := Config.linkValue (strokeImage m) link
  ⟨v.1, 0xFFFF, 4, v.2, 0, 0, 1, i, 1, 0, link⟩

/-- The extents that mark the outputs which the issued strokes have finished; they carry no data (11 R337, log entry 25). A tensor that is not
per-stream has step 0 (03 R82). -/
def doneKeys (m : List Byte) (issued : List Nat) : List ExtentKey :=
  (issued.flatMap (Config.strokeOutputs (strokeImage m))).map fun k =>
    { k with kind := 3, level := 0, node := 0, link := 0, step := if k.row = 0xFFFF then 0 else k.step }

/-- The ready slots of a link that a save area holds: those that wait for a reply are not ready (11 R340, R342). -/
def SaveArea.readySlots (a : SaveArea) (m : List Byte) (link : Nat) : Nat :=
  (a.extents.filter fun e =>
    e.1.kind = 4 && e.1.link = link && !a.parking.any fun q => slotKey m q.link q.slot == e.1).length

/-- A parking-table entry (11 R339). -/
def parkEntry (m : List Byte) (extents : List ExtentKey) (q : Park) (at_ : Nat) : List Byte :=
  leBytes 2 (extents.findIdx (· == slotKey m q.link q.slot)) ++ leBytes 1 q.pstate ++ leBytes 1 q.xfer.srcHandle ++ leBytes 4 q.tag
    ++ leBytes 6 q.xfer.srcOff ++ zeros 2 ++ leBytes 4 q.xfer.len ++ leBytes 4 at_ ++ zeros 8

/-- The parking buffer: 4 entries of 4,096 bytes for each core (11 R339). -/
def parkBuffer (a : SaveArea) : List (List Byte) :=
  (List.range (4 * a.cores)).map fun i => bytesAt (((a.parking[i]?).map (·.data)).getD []) 0 4096

/-- A save area as bytes with its digest taken as zero (11 R334 to R339). -/
def saveBody (m : List Byte) (a : SaveArea) (jobId : Nat) : List Byte :=
  let records := a.rows.map fun r => exportBytes m r.record
  let items := placeItems 0x20000 (records ++ a.extents.map (·.2) ++ parkBuffer a)
  let at_ (i : Nat) : Nat := (items.getD i (0, [])).1
  let len (i : Nat) : Nat := (items.getD i (0, [])).2.length
  let n := a.rows.length
  let k := a.extents.length
  let keys := a.extents.map (·.1)
  let values := (List.range k).map fun i => extentEntry (keys.getD i (slotKey m 0 0)) (at_ (n + i)) (len (n + i))
  let entries := values ++ (doneKeys m a.issued).map fun q => extentEntry q 0 0
  let data := (items.map fun x => x.2 ++ zeros (pad64 x.2.length - x.2.length)).flatten
  saveHeader a jobId entries.length data.length
    ++ tableBytes 16384 ((List.range n).map fun i => rowEntry (a.rows.getD i ⟨0, false, 0, recordRead []⟩) (at_ i) (len i))
    ++ tableBytes 65536 entries
    ++ tableBytes 32768 ((List.range a.parking.length).filterMap fun i =>
        (a.parking[i]?).map fun q => parkEntry m keys q (at_ (n + k + i)))
    ++ zeros 16128 ++ data

/-- A save area as bytes, with its digest in its place (11 R335). -/
def saveBytes (m : List Byte) (a : SaveArea) (jobId : Nat) : List Byte :=
  let b := saveBody m a jobId
  b.take 0xC0 ++ bytesAt a.digest 0 64 ++ b.drop 0x100

/-- SVFLAGS (11 R335). -/
def saveFlags (m : List Byte) (fill : Bool) (a : SaveArea) : Nat :=
  bit fill 0 + bit (!(a.extents.isEmpty && (doneKeys m a.issued).isEmpty)) 1 + bit (!a.parking.isEmpty) 2

/-- A save area with its digest. -/
def SaveArea.sealed (m : List Byte) (a : SaveArea) (jobId : Nat) : SaveArea := { a with digest := Config.shake256 (saveBody m a jobId) 64 }

/-- Reason 1 of a save area: MAGIC, its length, and every item of its tables inside (06 R208, 11 R334 to R339). -/
def saveCheck1 (b : List Byte) : Bool :=
  let inside (at_ len : Nat) : Bool := len = 0 || (0x20000 ≤ at_ && at_ + len ≤ b.length)
  num b 0 4 = 0x4B465A53 && b.length = 0x20000 + num b 0x78 4
    && (List.range (num b 0x5C 2)).all (fun i => inside (num b (0x110 + 64 * i) 4) (num b (0x114 + 64 * i) 4))
    && (List.range (num b 0x5E 2)).all (fun i => inside (num b (0x4118 + 32 * i) 4) (num b (0x411C + 32 * i) 4))
    && (List.range (num b 0x76 2)).all fun i => inside (num b (0x14114 + 32 * i) 4) (num b (0x14110 + 32 * i) 4)

/-- Reason 2 of a save area: reserved fields, and the entries beyond the counts (06 R208, 11 R334 to R339). -/
def saveCheck2 (b : List Byte) : Bool :=
  num b 6 2 < 8 && num b 0x54 2 < 4096 && num b 0x56 2 < 1024 && num b 0x58 4 < 1048576 && zeroAt b 0x67 1 && zeroAt b 0x7C 68
    && (List.range (num b 0x5C 2)).all (fun i => num b (0x102 + 64 * i) 2 < 8 && zeroAt b (0x11C + 64 * i) 36)
    && (List.range (num b 0x5E 2)).all (fun i => num b (0x4104 + 32 * i) 1 < 5 && zeroAt b (0x4107 + 32 * i) 1)
    && (List.range (num b 0x76 2)).all (fun i =>
      num b (0x14102 + 32 * i) 1 < 3 && num b (0x14103 + 32 * i) 1 < 16 && zeroAt b (0x1410E + 32 * i) 2 && zeroAt b (0x14118 + 32 * i) 8)
    && zeroAt b (0x100 + 64 * num b 0x5C 2) (16384 - 64 * num b 0x5C 2)
    && zeroAt b (0x4100 + 32 * num b 0x5E 2) (65536 - 32 * num b 0x5E 2)
    && zeroAt b (0x14100 + 32 * num b 0x76 2) (32768 - 32 * num b 0x76 2) && zeroAt b 0x1C100 16128

/-- Reason code of a save area at Thaw, none if every check holds: the header and the tables in the order of R208, then the row records (11
R338). The header has no RATE and no next-sample fields; check 7 is that the tables hold what their counts say, with formats that exist.
Only carried conditioning ties an area to its Season; else the graph must declare the one in force (03 R104, 06 R210). -/
def saveReason (m : List Byte) (a : SaveArea) (j : Job) (season : Nat) : Option Nat :=
  let b := saveBody m a j.id
  match firstFailed 1 [fun _ => saveCheck1 b, fun _ => saveCheck2 b, fun _ => a.digest == Config.shake256 b 64,
      fun _ => num b 5 1 = 1 && num b 4 1 = 0, fun _ => a.graphHash == imgHash m, fun _ => a.session == j.session && a.handle == j.handle,
      fun _ => a.rows.length ≤ 256 && (a.extents.length + (doneKeys m a.issued).length) ≤ 2048 && a.parking.length ≤ 1024
        && a.extents.all fun e => e.1.format < 8,
      fun _ => a.parking.length ≤ 4 * a.cores,
      fun _ => if a.rows.any (fun r => r.record.headNext < r.record.hatchNext) then a.season == season else (imgSeasons m).testBit season] with
  | some r => some r
  | none => a.rows.findSome? fun r => recordReason m (exportBytes m r.record) j.rate season

end Sys2Proof.Machine
end

