-- ==== Sys2Proof/Machine/Admission.lean ====
section
/-! DEFINITION. Admission and binding (02 R59 to R66, 03 R99 to R102, 07 R213 R235, 10 R303 R304, 11 R334): the load held, the
fit, and what a new row or job takes. Where the spec leaves the place open, the first that fits in field order (log entry 12). -/

namespace Sys2Proof.Machine

open Sys2Proof

/-! ### Costs (02 R59 to R62, R66, R69; 03 R99) -/

/-- Hatch cycles of a job per Frame in hundredths: a Keep row counts 1.06 times (02 R59, R66). -/
def cycles100 (c : Cost) (keeps : List Bool) : Nat := 100 * c.fixed + (keeps.map fun k => (if k then 106 else 100) * c.row).sum

/-- Hatch cycles, in hundredths, that the extra 6 % of a job's Keep rows adds to the module's restart reserve (02 R66). -/
def reserve100 (c : Cost) (keeps : List Bool) : Nat := cycles100 c keeps - cycles100 c (keeps.map fun _ => false)

/-- Cores for a number of hundredths of cycles: 0.90 × 600 MHz × T_F each, at least MIN_CORES (03 R99). -/
def coresFor (m : List Byte) (ticks cyc100 : Nat) : Nat := max (imgMinCores m) (ceilDiv cyc100 (1125000 * ticks))

/-- Whether a graph reads a remote module: an entry with source space 6 (09 R264). -/
def usesRemote (m : List Byte) : Bool :=
  let k := strokeImage m
  (List.range (strokeCount k)).any fun i => ((strokeAt k i).list k .tracer).any fun e => e.op = 1 && spaceOf e.src = 6

/-- The most cores a job of streams can be bound to (11 R334). -/
def State.streamMaxCores (s : State) (m : List Byte) (c : Cost) : Nat :=
  let n := coresFor m s.frameTicks (100 * c.fixed + 256 * 106 * c.row)
  if s.fitsFields n then n else fieldGroups.foldl (fun a g => max a (g.map s.liveCeiling).sum) 0

/-- Extents of a save area for C cores (11 R334). -/
def saveExtents (m : List Byte) (cores : Nat) : Nat :=
  ceilDiv (131072 + cores * 376832 + (if usesRemote m then cores * 16384 else 0)) 2097152

/-- Extents of the save-area pool (10 R300). -/
def savePool : Nat := 49152
/-- The lowest free extents of the save-area pool, if there are so many (10 R303). -/
def State.saveTake (s : State) (n : Nat) : Option (List Nat) :=
  let used := s.mem.saveUsed.map (·.2)
  let free := (List.range (min savePool (used.length + n))).filter fun e => !used.contains e
  if n ≤ free.length then some (free.take n) else none

/-- Extents of the general pool: usable capacity less 144 GiB (10 R299, R300). -/
def State.poolExtents (s : State) : Nat := (64000000000 * s.channels.length - 154618822656) / 2097152

/-- The lowest free extents of the general pool, if there are so many (10 R305). -/
def State.poolTake (s : State) (n : Nat) : Option (List Nat) :=
  let used := s.mem.poolUsed.map (·.2)
  let free := (List.range (min s.poolExtents (used.length + n))).filter fun e => !used.contains e
  if n ≤ free.length then some (free.take n) else none

/-- Owner number of a job in the general pool; handles are below 2²⁰. -/
def jobOwner (j : Nat) : Nat := 1048576 + j

/-- Rows of a job that hold a stream (11 R327). -/
def State.rowStreams (s : State) (j : Job) : List Stream := j.rows.filterMap s.stream

/-- The cost record of a job (02 R59). -/
def State.jobCost (s : State) (j : Job) : Option Cost := (s.model j.handle).bind fun m => costOf m.image s.tb.season j.rate

/-- Whether a model is hot; one that leaves is, up to the plan close that switches its mapping (10 R314, R319). -/
def Model.hot (m : Model) : Bool := match m.res with
  | .hot _ | .leaving _ => true
  | _ => false

/-- Cores of a residency set, placed or being filled or emptied (10 R314 to R319). -/
def Residency.cores : Residency → List Nat
  | .cold => []
  | .copying c _ _ _ | .copied c _ | .hot c | .leaving c => c

/-- Bytes of DRAM per Frame of a job (02 R59, 03 R97, 10 R317). -/
def jobDram (hot : Bool) (c : Cost) (rows : Nat) : Nat := (if hot then c.dramHot else c.dramCold) + rows * c.rowDram

/-- Burin cycles of a row per Frame: HEAD_CYCLES for each sample. -/
def State.rowBurin (s : State) (m : List Byte) (rate : Nat) : Nat := imgHeadCycles m * s.frameSamples rate

/-- Declared activity of a job per Frame as energy in 1/16 pJ (02 R69, 03 R97, 11 R353). A Keep row's cycles are those of its charge,
1.06 times ROW_CYCLES; the spec does not say which of the two is its declared activity (log entry 22, DESIGN CHOICE). -/
def State.declaredEnergy (s : State) (m : List Byte) (hot : Bool) (c : Cost) (rate : Nat) (keeps : List Bool) : Nat :=
  let cyc := ceilDiv (cycles100 c keeps) 100
  let e (i : Nat) : Nat := s.part.coeff.getD i 0
  let rows := keeps.length
  (cyc * c.mix4 * e 0 + cyc * c.mix8 * e 1 + cyc * c.mixF * e 2) / 255 + rows * s.rowBurin m rate * e 3
    + jobDram hot c rows * e 4 + rows * c.rowHost * e 5

/-- Load of one kind of a job of streams: its voice model, rate and rows. -/
def State.loadOf (s : State) (f : List Byte → Bool → Cost → Nat → List Bool → Nat) (handle rate : Nat) (rows : List Stream) : Nat :=
  match s.model handle with
  | some m => ((costOf m.image s.tb.season rate).map fun c => f m.image m.hot c rate (rows.map (·.keep))).getD 0
  | none => 0

/-- Keep streams that wait for their restart, which keep their share of every load (02 R67). -/
def State.waiting (s : State) : List Stream := (s.streams.map (·.2)).filter fun x => x.restart.isSome

/-- Torn-down jobs that restarts will bind again (02 R67). -/
def State.lostJobs (s : State) : List (Nat × Nat) :=
  (((s.waiting.filterMap (·.budget)).filter (·.into.isNone)).map (·.lost)).eraseDups
/-- Waiting rows of a torn-down job. -/
def State.lostRows (s : State) (k : Nat × Nat) : List Stream := s.waiting.filter fun x => x.budget.any fun b => b.into.isNone && b.lost == k
/-- Rows whose costs a job carries: its own, and those that wait behind a row of their torn-down job that was placed into it. -/
def State.carriedRows (s : State) (j : Job) : List Stream :=
  s.rowStreams j ++ s.waiting.filter fun x => x.budget.any (·.into == some j.id)

/-- Live load of one kind, summed over the Live jobs of streams and over the jobs that restarts will bind again (02 R60, R67). -/
def State.liveSum (s : State) (f : List Byte → Bool → Cost → Nat → List Bool → Nat) : Nat :=
  (s.jobs.map fun p =>
    if p.2.fill || !(p.2.kind == .streams) then 0 else s.loadOf f p.2.handle p.2.rate (s.carriedRows p.2)).sum
  + (s.lostJobs.map fun k =>
      let xs := s.lostRows k
      ((xs.head?).map fun x => s.loadOf f x.handle x.rate xs).getD 0).sum

/-- DRAM, host-path and energy load admitted (02 R60, R69). -/
def State.liveDram (s : State) : Nat := s.liveSum fun _ hot c _ ks => jobDram hot c ks.length
@[inherit_doc State.liveDram] def State.liveHost (s : State) : Nat := s.liveSum fun _ _ c _ ks => ks.length * c.rowHost
@[inherit_doc State.liveDram] def State.liveEnergy (s : State) : Nat :=
  s.liveSum fun m hot c r ks => s.declaredEnergy m hot c r ks

/-- Whether a DRAM load stays within 70 % of the trained peak × T_F (02 R60). -/
def State.dramOk (s : State) (load : Nat) : Bool := load * 480000 ≤ 7 * s.cap.channels * s.cap.speed * 8000000 * s.frameTicks
/-- Whether a host-path load stays within 50 % of CAP_HOST_PATH × T_F (02 R60). -/
def State.hostOk (s : State) (load : Nat) : Bool := load * 480000 ≤ 5 * s.cap.hostPath * 100000000 * s.frameTicks
/-- Whether floor power and an energy per Frame in 1/16 pJ stay within the cap less 500 W (02 R60, R69). -/
def State.powerOk (s : State) (energy : Nat) : Bool :=
  let unit := 16000000000000 * s.frameTicks
  (s.part.floorW + 500) * unit + energy * 48000 ≤ 250 * s.pwr.capNow * unit

/-- PWR_LIVE_EST in W, rounded up (19 R594, 02 R69). -/
def State.liveWatts (s : State) : Nat := s.part.floorW + ceilDiv (s.liveEnergy * 48000) (16000000000000 * s.frameTicks)

/-! ### Plate (02 R60, R66; 10 R316) -/

/-- KiB a residency set holds on a core: at most 16 KiB × SHARE (10 R316). -/
def Model.residentKib (m : Model) (core : Nat) : Nat :=
  let cores := m.res.cores
  match cores.findIdx? (· == core) with
  | none => 0
  | some i => min (16 * m.share) (ceilDiv (imgWeightBytes m.image) 1024 - 16 * m.share * i)

/-- KiB of second shadows on a core (02 R65, R66). -/
def State.shadowKib (s : State) (core : Nat) : Nat :=
  (s.streamList.map fun x =>
    if x.secondCores.contains core then
      match s.model x.handle with
      | some m => ceilDiv (ceilDiv (imgStateBytes m.image) 1024) x.secondCores.length
      | none => 0
    else 0).sum

/-- Plate of a core that neither a residency set nor a second shadow holds, under the ceiling of 304 KiB (02 R60). -/
def State.plateRoom (s : State) (core : Nat) : Nat :=
  304 - (s.models.map fun m => m.2.residentKib core).sum - s.shadowKib core

/-- Plate a job's binding takes on each of its cores, KiB. -/
def plateShare (m : List Byte) (c : Cost) (rows cores : Nat) : Nat :=
  max (imgMinPlate m) (ceilDiv (c.fixedPlate + rows * c.rowPlate) (max cores 1))

/-- Cores a job holds: those of its binding, and those that its next sequence takes in (03 R101). -/
def Job.held (j : Job) : List Nat := j.cores ++ j.more

/-- Plate a job takes on each of its cores, KiB. -/
def State.jobKib (s : State) (id : Nat) : Nat :=
  match s.job id with
  | some j => match s.model j.handle, s.jobCost j with
    | some m, some c => plateShare m.image c (s.carriedRows j).length j.held.length
    | some m, none => imgMinPlate m.image
    | none, _ => 0
  | none => 0

/-- Plate that the rows of torn-down jobs hold on a core for their restarts, KiB (02 R63, R67). -/
def State.waitKib (s : State) (core : Nat) : Nat :=
  (s.lostJobs.map fun k =>
    let xs := s.lostRows k
    match xs.head? with
    | none => 0
    | some x =>
      let cores := (x.budget.map (·.cores)).getD []
      match s.model x.handle with
      | some m => if cores.contains core then
          ((costOf m.image s.tb.season x.rate).map fun c => plateShare m.image c xs.length cores.length).getD 0 else 0
      | none => 0).sum

/-- Whether a job is Live. -/
def State.isLive (s : State) (id : Nat) : Bool := (s.job id).any (!·.fill)

/-- Plate of a core that no Live job takes either, nor a restart. -/
def State.plateLive (s : State) (core : Nat) : Nat :=
  s.plateRoom core - (((s.core core).jobs.filter s.isLive).map s.jobKib).sum - s.waitKib core
/-- Plate of a core that no job takes, nor a restart. -/
def State.plateFree (s : State) (core : Nat) : Nat :=
  s.plateLive core - (((s.core core).jobs.filter (!s.isLive ·)).map s.jobKib).sum

/-! ### Cores (03 R99 to R101, 02 R60, 04 R152, 11 R324) -/

/-- What claims a core: Fill work, Live work, or the restart of a row of a torn-down job. -/
inductive Claim where
  | fill | live | restart (lost : Nat × Nat)
  deriving DecidableEq, Repr

/-- The torn-down job whose budget a claim may take. -/
def Claim.lost : Claim → Option (Nat × Nat)
  | .restart k => some k
  | _ => none

/-- Whether a job has a chunk that a plan has closed and its strokes have not finished (02 R52, R64). -/
def State.liveWork (s : State) (id : Nat) : Bool :=
  (s.job id).any fun j =>
    (s.rowStreams j).any fun x => x.closedChunk.isSome || x.hatchChunk.isSome || x.burinChunks.any (·.condAt.isNone)

/-- Whether a core is held for the restart of a Keep stream of another torn-down job than one (02 R63, R67). -/
def State.budgeted (s : State) (but : Option (Nat × Nat)) (c : Nat) : Bool :=
  s.waiting.any fun x => x.budget.any fun b => some b.lost != but && b.cores.contains c

/-- Whether a core's Plate holds resident weights or a second shadow. -/
def State.hosts (s : State) (c : Nat) : Bool :=
  s.models.any (fun m => m.2.res.cores.contains c) || s.streams.any (·.2.secondCores.contains c)

/-- Whether a core is taken for a claim: a Live fit may take a core that only Fill work holds; Fill work may take a core whose Live
streams are all Idle or starved (02 R64), and none with resident Plate (11 R324). -/
def State.coreTaken (s : State) (k : Claim) (c : Nat) : Bool :=
  let js := (s.core c).jobs
  match k with
  | .fill => js.any (fun j => !s.isLive j || (s.job j).any (·.kind != .streams) || s.liveWork j)
      || s.models.any (fun m => m.2.res.cores.contains c)
  | _ => js.any s.isLive || s.budgeted k.lost c

/-- Core numbers of a field. -/
def State.fieldCoreList (s : State) (f : Nat) : List Nat := (List.range (s.cap.fieldCores.getD f 0)).map (1024 * f + ·)

/-- Cores of a field that count against a claim; for Fill work every core that is no spare does (11 R324). -/
def State.heldCores (s : State) (k : Claim) (f : Nat) : Nat :=
  ((s.fieldCoreList f).filter fun c =>
    match k with
    | .fill => !(s.core c).jobs.isEmpty || s.budgeted none c || s.hosts c
    | _ => (s.core c).jobs.any s.isLive || s.budgeted k.lost c).length

/-- Cores a field can still give to a claim: its ceiling less what is held. -/
def State.fieldRoom (s : State) (k : Claim) (f : Nat) : Nat := s.liveCeiling f - s.heldCores k f

/-- Whether the Live load of a field is within its ceiling, which retirements have lowered (04 R152). -/
def State.fieldWithin (s : State) (f : Nat) : Bool := s.heldCores .live f ≤ s.liveCeiling f

/-- The cores a field offers to a claim with so much Plate free on each, idle ones first. A core that Fill work shares with Idle or
starved streams is within the ceiling already. -/
def State.fieldOffer (s : State) (k : Claim) (kib f : Nat) : List Nat :=
  let room (c : Nat) : Nat := if k = .fill then s.plateFree c else s.plateRoom c
  let cs := (s.fieldCoreList f).filter fun c => s.coreServes c && !s.coreTaken k c && kib ≤ room c
  let idle := cs.filter fun c => (s.core c).jobs.isEmpty
  let busy := cs.filter fun c => !(s.core c).jobs.isEmpty
  match k with
  | .fill => idle.take (s.fieldRoom k f) ++ busy
  | _ => (idle ++ busy).take (s.fieldRoom k f)

/-- Cores from the fields of a group in order; every field of the group gives some, so that the fields they lie in are connected
(03 R100). -/
def takeCores (offers : Nat → List Nat) (n : Nat) (fields : List Nat) : Option (List Nat) :=
  let all := (fields.map offers).flatten
  if n ≤ all.length && fields.all (fun f => !(offers f).isEmpty) then some (all.take n) else none

/-- Choices of `k` fields of a list behind some others, in every order. -/
def fieldChoices (cand : List Nat) : Nat → List Nat → List (List Nat)
  | 0, g => [g]
  | k + 1, g => ((cand.filter fun f => !g.contains f).map fun f => fieldChoices cand k (g ++ [f])).flatten

/-- More cores for a job that lies in some fields: from these first, then from adjacent ones, in at most four fields (03 R100,
R101). -/
def takeMore (offers : Nat → List Nat) (n : Nat) (own near : List Nat) : Option (List Nat) :=
  let mine := (own.map offers).flatten
  if n ≤ mine.length then some (mine.take n)
  else
    let groups := ((List.range (4 - own.length)).map fun k => fieldChoices near (k + 1) []).flatten
    (groups.findSome? (takeCores offers (n - mine.length))).map (mine ++ ·)

/-- Fields that hold a core list, in order of first use. -/
def fieldsOf (cores : List Nat) : List Nat := (cores.map coreField).eraseDups

/-- A field list with the fields adjacent to it behind (03 R101, R102). -/
def nearFields (fs : List Nat) : List Nat := fs ++ (List.range 84).filter fun f => !fs.contains f && fs.any (adjacent f)

/-! ### Burin units (02 R61, 03 R102, 07 R213, R239) -/

/-- Slot-equivalents of a stream in sixths (02 R61). -/
def State.streamSixths (s : State) (x : Stream) : Nat := ((s.model x.handle).map fun m => slotSixths m.image x.rate).getD 0

/-- Sixths bound to a unit, all or of Live streams alone. -/
def State.unitSixths (s : State) (fill : Bool) (u : Nat) : Nat :=
  ((s.unit u).ctxs.map fun c =>
    match s.stream c.2 with
    | some x => if fill || !x.fill then s.streamSixths x else 0
    | none => 0).sum

/-- Sixths of every Live stream; it holds them until its STREAM_CLOSE completes (01 R29). -/
def State.liveSixths (s : State) : Nat := (s.streamList.map fun x => if x.fill || x.faulted then 0 else s.streamSixths x).sum

/-- Units retired since the reset (18 R558). -/
def State.unitsRetired (s : State) : Nat := (s.burin.filter fun u => u.2.retired).length

/-- The module's Live ceiling in sixths: 32 of each enabled unit, less 64 (02 R60, 18 R558). -/
def State.sixthsCeiling (s : State) : Nat := 192 * (s.cap.burinUnits - s.unitsRetired) - 384

/-- Whole units with no bound stream (07 R239). -/
def State.idleUnits (s : State) : Nat :=
  ((List.range 672).filter fun u => s.unitServes u && (s.unit u).ctxs.isEmpty).length

/-- HEAD_WEIGHT_BYTES of a voice (07 R213). -/
def State.headWeight (s : State) (handle : Nat) : Nat := ((s.model handle).map fun m => headBytes (headPart m.image)).getD 0

/-- A unit's weight store with voices loaded (07 R213). -/
def State.loadWeights (s : State) (b : BurinUnit) (hs : List Nat) : List (Nat × Nat) :=
  b.weights ++ (hs.eraseDups.filter fun h => !b.weights.any (·.1 == h)).map fun h => (h, s.headWeight h)

/-- Whether a unit's weight store has room for voices (07 R213). -/
def State.storeFits (s : State) (b : BurinUnit) (hs : List Nat) : Bool := ((s.loadWeights b hs).map (·.2)).sum ≤ 1572864

/-- Whether a unit has room for a stream and every voice it needs (02 R61, 07 R213). `fill` counts the Fill streams bound to it as
well. -/
def State.unitRoom (s : State) (fill : Bool) (voices : List Nat) (sixths u : Nat) : Bool :=
  let b := s.unit u
  s.unitServes u && (b.ctxs.length < 192 && s.unitSixths fill u + sixths ≤ 192) && s.storeFits b voices

/-- Whether a unit can take a stream anew: an idle unit only while two others stay idle (07 R239). -/
def State.unitTakes (s : State) (fill : Bool) (voices : List Nat) (sixths u : Nat) : Bool :=
  s.unitRoom fill voices sixths u && (!(s.unit u).ctxs.isEmpty || 3 ≤ s.idleUnits)

/-- The voices whose head weights a stream needs: the one in force, those its planned chunks switch to, and those of chunks that a takeover
may repeat (07 R213, R236, R239). -/
def Stream.voices (x : Stream) : List Nat :=
  (x.voice :: x.replay.map (·.2) ++ ((x.burinChunks ++ x.hatchChunk.toList ++ x.closedChunk.toList).map fun c => c.voices.map (·.2)).flatten).eraseDups

/-- A unit for a stream of a job on these fields: one that holds its voices first (03 R102, 07 R213). A stream bound anew keeps the
reserve of R239, and so does every Fill stream (11 R324); a Live one that a fault displaced may use it (18 R560). -/
def State.pickUnit (s : State) (anew fill : Bool) (voices : List Nat) (sixths : Nat) (fields : List Nat) : Option Nat :=
  let units := ((nearFields fields).map fun f => (List.range 8).map (8 * f + ·)).flatten
  let ok (all : Bool) (u : Nat) : Bool := if anew || fill then s.unitTakes all voices sixths u else s.unitRoom all voices sixths u
  match units.find? fun u => voices.all (fun h => (s.unit u).weights.any (·.1 == h)) && ok true u with
  | some u => some u
  | none =>
    match units.find? (ok true) with
    | some u => some u
    | none => if fill then none else units.find? (ok false)

/-! ### The fit (02 R62) -/

/-- A stream that asks to be admitted, or to be placed again: `lost` is then its torn-down job (02 R67). -/
structure Ask where
  session : Nat
  handle  : Nat
  season  : Nat
  rate    : Nat
  keep    : Bool
  fill    : Bool
  lost    : Option (Nat × Nat)
  voices  : List Nat
  deriving DecidableEq, Repr

/-- What an ask claims cores as. -/
def Ask.claim (a : Ask) : Claim :=
  match a.lost with
  | some k => .restart k
  | none => if a.fill then .fill else .live

/-- Hatch cycles per Frame that a number of cores hold under the ceiling of R60, in hundredths (03 R99). -/
def State.coreHundredths (s : State) (n : Nat) : Nat := 1125000 * s.frameTicks * n

/-- What is left of the module's restart reserve, in hundredths of cycles: the extra 6 % of every Keep row, less what the charges of
jobs that restarts were placed into exceed their cores by (02 R66, R67). -/
def State.reserveLeft (s : State) : Nat :=
  let pool := s.liveSum fun _ _ c _ ks => reserve100 c ks
  let drawn (j : Job) : Nat :=
    if j.fill || j.kind != .streams then 0 else
    ((s.jobCost j).map fun c => cycles100 c ((s.rowStreams j).map (·.keep)) - s.coreHundredths j.held.length).getD 0
  pool - (s.jobs.map fun p => drawn p.2).sum

/-- Numbers of cores that a job's rows may be bound to once an ask joins them: what R99 gives, and for a restart fewer, as far as the
restart reserve goes (02 R67; log entry 12). -/
def State.askCores (s : State) (a : Ask) (m : List Byte) (c : Cost) (keeps : List Bool) : List Nat :=
  let n := coresFor m s.frameTicks (cycles100 c keeps)
  let least := if a.lost.isSome then coresFor m s.frameTicks (cycles100 c keeps - s.reserveLeft) else n
  (List.range (n + 1 - least)).map (n - ·)

/-- A place found: the job (none for a new one), all its cores, the unit, and the second shadow's field and cores. -/
structure Place where
  job    : Option Nat
  cores  : List Nat
  unit   : Nat
  second : Option (Nat × List Nat)
  deriving DecidableEq, Repr

/-- Cores that a field offers for so many KiB of Plate: those in use that have the room, then others, of which the 16 spares and as many
as are retired stay free (02 R60, 04 R152). -/
def State.plateOffer (s : State) (room : Nat → Nat) (kib f : Nat) : List Nat :=
  let cs := s.fieldCoreList f
  let inUse (c : Nat) : Bool := !(s.core c).jobs.isEmpty || s.budgeted none c || s.hosts c
  let fits (c : Nat) : Bool := s.coreServes c && kib ≤ room c
  (cs.filter fun c => inUse c && fits c)
    ++ (cs.filter fun c => !inUse c && fits c).take (s.liveCeiling f - (cs.filter inUse).length)

/-- Cores of another field for a second shadow of so many KiB, on as few cores as hold it (02 R65, R66). -/
def State.pickSecond (s : State) (fields : List Nat) (kib : Nat) : Option (Nat × List Nat) :=
  ((List.range 84).filter fun f => !fields.contains f).findSome? fun f =>
    (List.range (s.cap.fieldCores.getD f 0)).findSome? fun n =>
      let fit := s.plateOffer s.plateFree (ceilDiv kib (n + 1)) f
      if n + 1 ≤ fit.length then some (f, fit.take (n + 1)) else none

/-- DETAIL of the part of a fit that fails on given cores: 2 Hatch, 4 Plate, 3 Burin (13 R428). Each core takes an equal share of the
job's Plate (log entry 12). A stream placed again is among the Live streams already. -/
def State.placeOn (s : State) (a : Ask) (m : List Byte) (c : Cost) (rows : Nat) (job : Option Nat) (cores : List Nat) :
    Except Nat Place :=
  let fields := fieldsOf cores
  if a.claim == .live && !fields.all s.fieldWithin then .error 2
  else if cores.any (fun x => s.plateRoom x < plateShare m c rows cores.length) then .error 4
  else
    let sixths := slotSixths m a.rate
    if s.sixthsCeiling < s.liveSixths + (if a.lost.isSome then 0 else sixths) then .error 3
    else match s.pickUnit true a.fill a.voices sixths fields with
    | none => .error 3
    | some u =>
      if a.keep then
        match s.pickSecond fields (ceilDiv (imgStateBytes m) 1024) with
        | none => .error 4
        | some x => .ok ⟨job, cores, u, some x⟩
      else .ok ⟨job, cores, u, none⟩

/-- The first place of a list of core sets; otherwise the failure that came furthest. -/
def firstPlace (try_ : List Nat → Except Nat Place) : List (Option (List Nat)) → Nat → Except Nat Place
  | [], worst => .error worst
  | none :: rest, worst => firstPlace try_ rest worst
  | some cores :: rest, worst =>
    match try_ cores with
    | .ok p => .ok p
    | .error e => firstPlace try_ rest (if worst = 3 then 3 else e)

/-- A place for a new job (03 R99, R100). Groups of fields follow when no single field with enough cores has the Plate and the unit: the
spec's 'otherwise' is read of the whole fit (log entry 12, DEDUCED). -/
def State.fitNew (s : State) (a : Ask) (m : List Byte) (c : Cost) (n : Nat) : Except Nat Place :=
  let try_ := s.placeOn a m c 1 none
  let offers := s.fieldOffer a.claim (plateShare m c 1 n)
  match firstPlace try_ ((List.range 84).map fun f => takeCores offers n [f]) 2 with
  | .ok p => .ok p
  | .error e1 =>
    match firstPlace try_ ((fieldGroups.drop 84).map (takeCores offers n)) e1 with
    | .ok p => .ok p
    | .error e =>
      -- no core set at all: Plate if there is one without the Plate test
      if e = 2 && ((fieldGroups.map (takeCores (s.fieldOffer a.claim 0) n)).any (·.isSome)) then .error 4 else .error e

/-- A place in an existing job: the cores it holds and, if the row needs them, more of its own fields or of adjacent ones, but of none
that holds a second shadow of its rows (02 R65, 03 R101). -/
def State.fitInto (s : State) (a : Ask) (m : List Byte) (c : Cost) (j : Job) (n : Nat) : Except Nat Place :=
  let rows := (s.rowStreams j).length + 1
  if j.maxCores < n then .error 2 else
  let own := fieldsOf j.held
  let seconds := ((s.rowStreams j).map fun x => fieldsOf x.secondCores).flatten
  let near := (nearFields own).filter fun f => !own.contains f && !seconds.contains f
  let kib := plateShare m c rows (max n j.held.length)
  let offers (f : Nat) : List Nat := (s.fieldOffer a.claim kib f).filter fun x => !j.held.contains x
  let extra := takeMore offers (n - j.held.length) own near
  match extra with
  | none => .error 2
  | some more => s.placeOn a m c rows (some j.id) (j.held ++ more)

/-- The jobs a row may join: same model, rate and class, bound or for Fill work also Frosted, with fewer than 256 rows (02 R62). -/
def State.joinable (s : State) (a : Ask) : List Job :=
  (s.jobs.map (·.2)).filter fun j =>
    j.handle == a.handle && j.rate == a.rate && j.fill == a.fill && j.kind == .streams
      && (j.state == .bound || (j.fill && j.state == .frosted)) && (s.rowStreams j).length < 256 && j.session == a.session

/-- Cores, Plate and a Burin unit for a Live stream: an existing job in ID order, then a new one (02 R62). -/
def State.fit (s : State) (a : Ask) (m : List Byte) (c : Cost) : Except Nat Place :=
  let into (j : Job) : Option Place :=
    (s.askCores a m c ((s.rowStreams j).map (·.keep) ++ [a.keep])).findSome? fun n => (s.fitInto a m c j n).toOption
  match (s.joinable a).findSome? into with
  | some p => .ok p
  | none =>
    if (freeKey s.jobs 1024 0).isNone then .error 9 else
    let ns := s.askCores a m c [a.keep]
    match ns.findSome? fun n => (s.fitNew a m c n).toOption with
    | some p => .ok p
    | none => s.fitNew a m c (ns.headD 0)

/-- Number that stands for no Burin unit. -/
def noUnit : Nat := 672

/-- A Fill stream's job: one that holds cores enough or none, else a new one. It takes no capacity here: it runs in what a plan close
offers its job (11 R323, R326; log entry 12). -/
def State.fillPlace (s : State) (a : Ask) (m : List Byte) (c : Cost) : Except Nat Place :=
  let takes (j : Job) : Bool :=
    let n := coresFor m s.frameTicks (cycles100 c ((s.rowStreams j).map (·.keep) ++ [false]))
    n ≤ j.maxCores && (j.state == .frosted || n ≤ j.cores.length)
  match (s.joinable a).find? takes with
  | some j => .ok ⟨some j.id, j.cores, noUnit, none⟩
  | none => if (freeKey s.jobs 1024 0).isNone then .error 9 else .ok ⟨none, [], noUnit, none⟩

/-- The ceilings of R60 that the module holds as a whole: DETAIL 5, 6 or 8, 0 if all hold (02 R60, R62). -/
def State.ceilings (s : State) (a : Ask) (m : Model) (c : Cost) (p : Place) : Nat :=
  if a.fill then (if 0 < c.rowHost && !s.hostOk s.liveHost then 6 else 0) else
  let add := p.job.isNone
  let keeps := match p.job.bind s.job with
    | some j => (s.carriedRows j).map (·.keep)
    | none => []
  let dram := if add then jobDram m.hot c 1 else c.rowDram
  let old := if add then 0 else s.declaredEnergy m.image m.hot c a.rate keeps
  let new := s.declaredEnergy m.image m.hot c a.rate (keeps ++ [a.keep])
  if !s.dramOk (s.liveDram + dram) then 5
  else if !s.hostOk (s.liveHost + c.rowHost) then 6
  else if !s.powerOk (s.liveEnergy + new - old) then 8
  else 0

/-- Whether a new job's save area and scratch region can be reserved (10 R303, R304). -/
def State.reserveOk (s : State) (m : List Byte) (maxCores extents : Nat) : Bool :=
  (s.saveTake (saveExtents m maxCores)).isSome && (s.poolTake extents).isSome

/-- Admission (02 R62): the place, or the DETAIL of ADMISSION_REFUSED (13 R428). -/
def State.admitAsk (s : State) (a : Ask) : Except Nat Place :=
  match s.model a.handle with
  | none => .error 1
  | some m =>
    match costOf m.image a.season a.rate with
    | none => .error 1
    | some c =>
      if a.season != s.tb.season then .error 1
      else if (freeKey s.streams 16384 0).isNone then .error 9
      else if 16777215 < ((s.session a.session).map (·.ordinal)).getD 0 then .error 9
      else match if a.fill then s.fillPlace a m.image c else s.fit a m.image c with
      | .error e => .error e
      | .ok p =>
        let over_ := s.ceilings a m c p
        if over_ != 0 then .error over_
        else if p.job.isNone && !s.reserveOk m.image (s.streamMaxCores m.image c) 80 then .error 10
        else .ok p

/-! ### Binding (03 R99 to R102, 04 R133, 09 R258, 07 R213 R232 R235) -/

/-- The physical pair of a core that a job has for a job-relative one (04 R133). -/
def Job.pair (j : Job) (core rel : Nat) : Option Nat := (tabGet j.pairs core).bind fun t => tabGet t rel
/-- The physical pairs a job has on a core. -/
def Job.pairsOn (j : Job) (core : Nat) : List Nat := ((tabGet j.pairs core).getD []).map (·.2)

/-- The physical pair given to each job-relative one on each of some cores: the lowest numbers that no other job has there (04 R133). -/
def State.pickPairs (s : State) (m : List Byte) (cores : List Nat) : Tab (Tab Nat) :=
  let k := strokeImage m
  let rel := ((List.range (linkCount k)).map fun i => (linkAt k i).pair).eraseDups
  let on (c : Nat) : Tab Nat :=
    let taken := ((s.core c).jobs.map fun i => ((s.job i).map (·.pairsOn c)).getD []).flatten
    let free := (List.range 64).filter fun p => !taken.contains p
    (rel.zip free).foldl (fun t p => tabSet t p.1 p.2) []
  cores.foldl (fun t c => tabSet t c (on c)) []

/-- The core numbers of a link's producer and consumer on a binding (09 R259). -/
def linkEnds (m : List Byte) (cores : List Nat) (i : Nat) : Nat × Nat :=
  let e := Config.linkCores (strokeImage m) cores.length i
  let n := max cores.length 1
  (cores.getD (e.1 % n) 0, cores.getD (e.2 % n) 0)

/-- Sets READY of every link to 0 on its consumer's core and ROOM to SLOTS on its producer's, as one core of a binding takes it
(09 R258). -/
def bindPairs (m : List Byte) (pairs : Tab (Tab Nat)) (cores : List Nat) (core : Nat) (x : Core) : Core :=
  let k := strokeImage m
  (List.range (linkCount k)).foldl
    (fun x i =>
      let l := linkAt k i
      let e := linkEnds m cores i
      match (tabGet pairs core).bind fun t => tabGet t l.pair with
      | some p =>
        let v := (tabGet x.pairs p).getD (0, 0)
        { x with pairs := tabSet x.pairs p (if e.2 = core then 0 else v.1, if e.1 = core then l.slots else v.2) }
      | none => x) x

/-- Sets the counts of every pair of a binding (09 R258). -/
def State.setPairs (s : State) (m : List Byte) (pairs : Tab (Tab Nat)) (cores : List Nat) : State :=
  cores.foldl (fun s c => s.setCore c (bindPairs m pairs cores c (s.core c))) s

/-- A job's ID joins cores. -/
def State.joinCores (s : State) (id : Nat) (cores : List Nat) : State :=
  cores.foldl (fun s c => let x := s.core c; s.setCore c { x with jobs := x.jobs ++ [id] }) s

/-- Binds a job to cores: its ID joins each, and its pairs are set. -/
def State.bindCores (s : State) (id : Nat) (m : List Byte) (pairs : Tab (Tab Nat)) (cores : List Nat) : State :=
  (s.joinCores id cores).setPairs m pairs cores

/-- Windows laid end to end below the system region (04 R129, R130). -/
def layWindows : Nat → List (Nat × Bool × Bool) → List PlateWindow
  | _, [] => []
  | base, w :: rest => ⟨base, min 0x4C000 (base + w.1), w.2.1, w.2.2⟩ :: layWindows (min 0x4C000 (base + w.1)) rest

/-- The windows of a job by job core index: the stroke code under handle 7, clean and read-only, and handles 0 to 6 as Uhlovoset's
binding declares them (04 R129, log entry 28). -/
def jobWindows (m : List Byte) (cores : Nat) : List (List PlateWindow) :=
  let code := min 0x4C000 (ceilDiv (strokeImage m).length 64 * 64)
  (List.range cores).map fun i =>
    layWindows code ((List.range 7).map fun k => (Config.plateWindows (strokeImage m) cores i).getD k (0, false, false))
      ++ [⟨0, code, false, false⟩]

/-- A job's windows on the shared weight regions: clean and read-only, inside the weight image (04 R129, log entry 28). -/
def sharedWindows (m : List Byte) : List PlateWindow :=
  ((Config.sharedWindows (strokeImage m)).take 8).map fun w => ⟨w.1, min w.2 (imgWeightBytes m), false, false⟩

/-- Fill jobs that hold one of these cores or a context of this unit, and are bound (11 R348, R350). -/
def State.fillOn (s : State) (cores : List Nat) (unit : Nat) : List Nat :=
  ((s.jobs.map (·.2)).filter fun j =>
    j.fill && (j.state == .bound || j.state == .thawing)
      && (j.held.any cores.contains || (s.unitSixths true unit > 192 && (s.rowStreams j).any (·.unit == unit)))).map (·.id)

/-- Frosts and Thaws in progress (11 R345, R346). -/
def State.switching (s : State) : Nat := (s.jobs.filter fun j => j.2.state == .frosting || j.2.state == .thawing).length

/-- A Frost request to a bound job (11 R331 step 1), which waits while 16 Frosts and Thaws are in progress (R346); a second request is
ignored (R351). -/
def State.requestFrost (s : State) (id : Nat) : State :=
  match s.job id with
  | some j =>
    if j.state == .bound then
      if s.switching < 16 then s.setJob { j with
        state := .frosting
        frostNext := false
        switch := (s.tb.sub, s.switching + 1, j.remotes.length) }
      else s.setJob { j with frostNext := true }
    else if j.state == .thawing then s.setJob { j with frostNext := true }
    else s
  | none => s

/-- A Frost or Thaw has ended: the request that waits next, the one of the lowest job ID, begins (11 R346, log entry 39). -/
def State.nextFrost (s : State) : State :=
  match (s.jobs.map (·.2)).find? fun j => j.state == .bound && j.frostNext with
  | some j => s.requestFrost j.id
  | none => s

/-- Binds a stream to a context of a unit: its voices' weights and its session's mark subkey (07 R212, R213, R232). -/
def State.bindUnit (s : State) (x : Stream) (u : Nat) : State :=
  let b := s.unit u
  match freeKey b.ctxs 192 0 with
  | none => s
  | some k =>
    let weights := s.loadWeights b x.voices
    let key := ((s.session x.session).map (·.keyM)).getD []
    (s.setUnit u { b with ctxs := tabSet b.ctxs k x.id, weights := weights, keys := tabSet b.keys k key }).setStream
      { x with unit := u, ctx := k, left := false }

/-- Releases a stream's context; a voice leaves the store with its last stream (07 R212, R213). -/
def State.freeUnit (s : State) (x : Stream) : State :=
  let b := s.unit x.unit
  if tabGet b.ctxs x.ctx != some x.id then s else
  let ctxs := tabErase b.ctxs x.ctx
  let used (h : Nat) : Bool := ctxs.any fun c => (s.stream c.2).any (·.voices.contains h)
  let busy := if b.busy == some x.ctx then none else b.busy
  s.setUnit x.unit { b with ctxs := ctxs, weights := b.weights.filter fun w => used w.1, keys := tabErase b.keys x.ctx, queue := tabErase b.queue x.ctx, busy := busy }

/-- A new job context at a place (11 R327): its save area and scratch region are reserved (10 R303, R304). `extents` is the size of its regions in the general pool. -/
def State.newJob (s : State) (kind : JobKind) (a : Ask) (m : List Byte) (maxCores : Nat) (seed : DWord) (key : Word) (cores : List Nat)
    (extents : Nat) : State × Nat :=
  let id := (freeKey s.jobs 1024 0).getD 0
  let pairs := s.pickPairs m cores
  let j : Job := {
    id := id, fill := a.fill, kind := kind, state := .bound, session := a.session, handle := a.handle, rate := a.rate, cores := cores,
    more := [], maxCores := maxCores, rows := [], windows := jobWindows m cores.length, shared := sharedWindows m, pairs := pairs, seed := seed, key := key, optStep := 0, steps := 0,
    workFrame := 0, output := [], input := [], save := none, remotes := [], credits := 0, nextTag := 0, home := none, away := none,
    account := { Account.zero with first := s.tb.frame.toNat }, issued := [], plans := [], work := [], walks := [], again := [], condDone := false, lastRan := s.tb.frameOrd, waits := 0, switch := (0, 0, 0), frostNext := false,
    ik := (0, 0, 0) }
  let pool := ((s.poolTake extents).getD []).map fun e => (jobOwner id, e)
  let s := { s with mem := { s.mem with
    saveUsed := s.mem.saveUsed ++ ((s.saveTake (saveExtents m maxCores)).getD []).map fun e => (id, e)
    poolUsed := s.mem.poolUsed ++ pool } }
  ((s.bindCores id m pairs cores).setJob j, id)

/-- Number that stands for no stream. -/
def noStream : Nat := 16384

/-- A stream takes the first free row of a job's batch (03 R101). -/
def takeRow (id : Nat) : List Nat → List Nat
  | [] => [id]
  | r :: rest => if r = noStream then id :: rest else r :: takeRow id rest

/-- A stream leaves its row; the other rows keep their numbers. -/
def dropRow (id : Nat) (rows : List Nat) : List Nat :=
  ((rows.map fun r => if r = id then noStream else r).reverse.dropWhile (· = noStream)).reverse

/-- A save area of a job that has not begun: no rows, nothing live. -/
def State.emptySave (s : State) (m : List Byte) (j : Job) : SaveArea :=
  let a : SaveArea := {
    svflags := 1, graphHash := imgHash m, seed := j.seed, key := j.key, session := j.session, handle := j.handle
    season := s.tb.season, frame := s.tb.frame, optStep := j.optStep, workFrame := j.workFrame, cores := 0, rows := []
    extents := [], issued := [], walks := [], again := [], parking := [], digest := [] }
  a.sealed m j.id

/-- A save area with a stream's row, on the state that the stream has; the rows stand in the job's order. -/
def State.addSaved (s : State) (m : List Byte) (j : Job) (x : Stream) (a : SaveArea) : SaveArea :=
  let row : SaveRow := ⟨x.id, x.keep, x.voice, x.shadow.getD (exportOf s m x 0 none x.head)⟩
  let place (r : SaveRow) : Nat := j.rows.findIdx (· == r.stream)
  SaveArea.sealed m
    { a with rows := ((a.rows.filter (·.stream != x.id)) ++ [row]).mergeSort fun p q => place p ≤ place q, svflags := a.svflags } j.id

/-- Fill work begins as a Frosted job, with a save area that holds nothing; a plan close offers it its first binding (11 R326, R328; log
entry 12). -/
def State.newFrosted (s : State) (kind : JobKind) (a : Ask) (m : List Byte) (maxCores extents : Nat) : State × Nat :=
  let r := s.newJob kind a m maxCores 0 0 [] extents
  match r.1.job r.2 with
  | some j => (r.1.setJob { j with state := .frosted, save := some (s.emptySave m j) }, r.2)
  | none => r

/-- A stream joins a job's batch; where the job is Frosted its save area gains the row. -/
def State.joinRow (s : State) (m : List Byte) (id : Nat) (x : Stream) : State :=
  match s.job id with
  | some j =>
    let j := { j with rows := takeRow x.id j.rows }
    s.setJob { j with save := j.save.map (s.addSaved m j x) }
  | none => s

/-- Commits a place for a Fill stream: a row of its job. It stays out of plans until it has a context (11 R326). -/
def State.commitFill (s : State) (a : Ask) (m : List Byte) (maxCores : Nat) (p : Place) (x : Stream) : State :=
  let r : State × Nat := match p.job with
    | some id => (s, id)
    | none => s.newFrosted .streams a m maxCores 80
  let x := { x with job := r.2, unit := noUnit, left := true }
  (r.1.setStream x).joinRow m r.2 x

/-- Commits a place for a Live stream: its job gains the row, its cores and its context (02 R62). Cores that a job gains are bound, and
its next sequence takes them in (03 R101). -/
def State.commitLive (s : State) (a : Ask) (m : List Byte) (maxCores : Nat) (p : Place) (x : Stream) : State :=
  let r : State × Nat := match p.job.bind s.job with
    | some j =>
      let more := p.cores.filter fun c => !j.held.contains c
      let pairs := (s.pickPairs m more).foldl (fun (t : Tab (Tab Nat)) q => tabSet t q.1 q.2) j.pairs
      ((s.joinCores j.id more).setJob { j with more := j.more ++ more, pairs := pairs }, j.id)
    | none => s.newJob .streams a m maxCores 0 0 p.cores 80
  let s := r.1
  let shadow := x.shadow.getD (exportOf s m x 0 none x.head)
  let x := { x with
    job := r.2
    shadow := some shadow
    second := p.second.map fun q => (q.1, { shadow with rflags := 1 })
    secondCores := (p.second.map (·.2)).getD [] }
  ((s.setStream x).bindUnit x p.unit).joinRow m r.2 x

/-- Commits a place for a stream (02 R62). -/
def State.commitPlace (s : State) (a : Ask) (p : Place) (x : Stream) : State :=
  match s.model a.handle with
  | none => s
  | some m =>
    let maxCores := ((costOf m.image s.tb.season a.rate).map (s.streamMaxCores m.image)).getD p.cores.length
    if a.fill then s.commitFill a m.image maxCores p x else s.commitLive a m.image maxCores p x

/-- Fill work on what a place takes is asked to Frost at once: the Frost is unplanned (11 R350). -/
def State.clearPlace (s : State) (p : Place) : State := (s.fillOn p.cores p.unit).foldl State.requestFrost s

end Sys2Proof.Machine
end

