-- ==== Sys2Proof/Machine/HostEngines.lean ====
section
/-! DEFINITION. The host Tracer and the host Scriber of a Ramok port: what waits at them, with which class and deadline, and what they
serve (07 R214, 09 R282 to R284 R290, 12 R374 R375 R376). -/

namespace Sys2Proof.Machine

open Sys2Proof

/-! ### The order of service (09 R283, R284) -/

/-- A waiting transfer as an arbiter compares it: whether it is urgent, the time left to its deadline, its issue time, its job ID; and
whether Proof's data path carries it. -/
structure Waiting where
  urgent : Bool
  slack  : Int
  issued : Nat
  job    : Nat
  proof  : Bool
  deriving DecidableEq, Repr

/-- Whether a Live deadline is urgent: at most 2,048 sub-ticks away, or past (09 R284). -/
def isUrgent (live : Bool) (slack : Int) : Bool := live && slack ≤ 2048

/-- Whether one waiting transfer is served before another: urgent ones first, then the earlier deadline, then the earlier issue time, then
the lower job ID (09 R284). -/
def Waiting.before (a b : Waiting) : Bool :=
  if a.urgent != b.urgent then a.urgent
  else if a.slack != b.slack then a.slack < b.slack
  else if a.issued != b.issued then a.issued < b.issued
  else a.job ≤ b.job

/-- The time from now to a deadline: sub-ticks compare as signed 32-bit differences (09 R281). -/
def State.until (s : State) (due : Int) : Int := signed 32 (unsigned 32 (due - s.tb.sub))

/-- A transfer that waits at a point of the arbitration with a class and a deadline. -/
def State.waitingFor (s : State) (live : Bool) (due : Int) (issued job : Nat) (proof : Bool := false) : Waiting :=
  ⟨isUrgent live (s.until due), s.until due, issued, job, proof⟩

/-- What an engine has outstanding: the 64 transfers issued first; the others wait in its block lists (09 R290). -/
def outstandingOf (all : List Waiting) : List Waiting :=
  let xs := all.zipIdx
  (xs.filter fun x =>
    (xs.filter fun y => y.1.issued < x.1.issued || (y.1.issued == x.1.issued && y.2 < x.2)).length < 64).map (·.1)

/-- Whether a transfer is outstanding and goes before every other one that is (09 R284). -/
def serves (out : List Waiting) (x : Waiting) : Bool := out.contains x && out.all x.before

/-- 100 µs in whole sub-ticks: 2,457.6 rounded down (09 R282; log entry 41, DESIGN CHOICE). -/
def hundredUs : Nat := 2457
/-- 20 µs in whole sub-ticks: 491.52 rounded down (09 R282; log entry 41, DESIGN CHOICE). -/
def twentyUs : Nat := 491

/-- Most bytes of a transfer (09 R268, R290). -/
def transferMax : Nat := 4096

/-- A ring's place among job IDs, which only decides ties: behind every job (log entry 40). -/
def ringTie (ring : Nat) : Nat := 1024 + ring

/-! ### What a ring asks for (12 R373 to R375) -/

/-- Whether a ring is enabled. -/
def Ring.enabled (r : Ring) : Bool := r.state != .disabled

/-- Descriptors fetched and not completed (12 R375). -/
def Ring.outstanding (r : Ring) : Nat := r.fetched.length + r.accepted.length

/-- Whether the completion ring has slots for every record that the ring holds (12 R378). -/
def Ring.canWriteAll (r : Ring) : Bool := r.held.length + (r.cqPi - r.cqCi).toNat ≤ r.cqSize

/-- Whether a ring has slots to fetch and may fetch them (12 R374, R375). -/
def Ring.wantsFetch (r : Ring) : Bool :=
  r.enabled && !r.stopped && r.sqPi != r.sqCi && r.canWriteAll && r.outstanding < 1024

/-- Distance of a ring behind the one that fetched last on its port (12 R375). -/
def turnDistance (turn n : Nat) : Nat := (n + 4096 - turn - 1) % 4096

/-- Whether it is a ring's turn among the rings of its port (12 R375). -/
def State.myTurn (s : State) (n : Nat) : Bool :=
  let p := (s.ring n).port
  let turn := if p = 0 then s.rmk.turn0 else s.rmk.turn1
  s.rmk.rings.all fun q => !(q.2.port == p && q.2.wantsFetch) || turnDistance turn n ≤ turnDistance turn q.1

/-! ### The session queue (12 R384, R385) -/

/-- Opcodes of the session queue (12 R384). -/
def sessionQueue (op : Nat) : Bool := op = 2 || op = 3 || op = 4 || op = 5 || op = 0xA || op = 0xC

/-- Whether a session-queue descriptor may start: every earlier one has (12 R384). -/
def State.mayStart (s : State) (ring : Nat) (d : Desc) : Bool :=
  !d.started && (s.ring ring).accepted.all fun e => !sessionQueue e.opcode || d.seq ≤ e.seq || e.started

/-! ### The host Tracer (09 R282, R290; 12 R376) -/

/-- Sub-tick of the Frame tick with a count. -/
def State.tickAt (s : State) (k : Nat) : Int := (s.tb.frameAt : Int) - s.frameSubs * ((s.tb.frameOrd : Int) - k)

/-- A ring's outstanding doorbell read: Live, 100 µs (12 R376). -/
def State.readXfer (s : State) (n : Nat) : Waiting :=
  let r := s.ring n
  s.waitingFor true (r.readAt + hundredUs) r.readAt (ringTie n)

/-- A ring's next fetch: Live, 100 µs (12 R376). -/
def State.fetchXfer (s : State) (n : Nat) : Waiting :=
  let r := s.ring n
  s.waitingFor true (r.fetchAt + hundredUs) r.fetchAt (ringTie n)

/-- The count of the first Frame tick at whose plan close a Rendering stream lacks records: its coverage ends before the lookahead of the
chunk planned there; none behind a pending end mark (02 R54). -/
def State.lacksAt (s : State) (x : Stream) : Option Nat :=
  match (s.model x.handle).bind fun m => (costOf m.image s.tb.season x.rate).map fun c => lookSamples m.image c x.rate with
  | none => none
  | some look =>
    if x.phase != .rendering || x.controls.any (·.flags = 2) then none else
    let n := s.frameSamples x.rate
    let first := x.nextPlan + (n - x.nextPlan % n) + look
    some (s.tb.frameOrd + 1 + if x.covered < first then 0 else (x.covered - first) / n + 1)

/-- The deadline of feature data issued now: 20 µs before the plan close that needs it, else a Frame (09 R282). -/
def State.featureDue (s : State) (x : Stream) : Int :=
  match s.lacksAt x with
  | some k => s.tickAt k - twentyUs
  | none => s.tb.sub + s.frameSubs

/-- A descriptor's next transfer is issued at a host engine with a deadline, which stays (09 R281). -/
def State.issueHost (s : State) (ring seq : Nat) (due : Int) : State :=
  s.modDesc ring seq fun d => { d with fetchAt := s.tb.sub, due := due }

/-- The feature data of a FEATURE_PUSH: Live (09 R282). The transfers of one packet are issued together, so nothing comes between them. -/
def State.featureXfer (s : State) (x : Stream) (d : Desc) : Waiting := s.waitingFor true d.due d.fetchAt x.job true

/-- The image of a MODEL_LOAD: Fill (09 R282). -/
def State.imageXfer (s : State) (ring : Nat) (d : Desc) : Waiting := s.waitingFor false d.due d.fetchAt (ringTie ring) true

/-- Whether a FEATURE_PUSH has packets that the host Tracer still fetches. -/
def Desc.fetches (d : Desc) : Bool := d.opcode = 7 && d.started && !d.closed && !d.aborted

/-- Everything that waits at the host Tracer of a port. -/
def State.tracerQueue (s : State) (port : Nat) : List Waiting :=
  (s.rmk.rings.filter fun q => q.2.port == port && !q.2.linkLost).flatMap fun q =>
    (if q.2.reading then [s.readXfer q.1] else [])
      ++ (if q.2.wantsFetch && s.myTurn q.1 then [s.fetchXfer q.1] else [])
      ++ (q.2.accepted.filter Desc.fetches).filterMap (fun d =>
          (s.stream d.stream).bind fun x =>
            if (x.transferring && x.left) || 65536 ≤ d.link || x.session != q.1 then none else some (s.featureXfer x d))
      ++ (q.2.accepted.filter fun d => d.opcode = 3 && s.mayStart q.1 d).map (s.imageXfer q.1)

/-! ### The host Scriber (09 R282, R290; 12 R376) -/

/-- Sub-ticks between samples of a rate: T_F ÷ S (07 R214). -/
def sampleSubs (rate : Nat) : Nat := 24576000 / rateHz rate

/-- Pacing deadline of a sample that has been handed off, as its chunk gave it (07 R214). -/
def Stream.paceOf (x : Stream) (n : Nat) : Option Int :=
  (x.paces.find? fun p => p.1 ≤ n && n < p.1 + p.2.1).map fun p => p.2.2 + (n - p.1 + 1 : Nat) * sampleSubs x.rate

/-- The deadline of audio that ends with a sample: its pacing deadline and 100 µs (09 R282). -/
def State.audioDue (s : State) (x : Stream) (n : Nat) : Int := (x.paceOf n).getD s.tb.sub + hundredUs

/-- AUDIO_PULLs of a stream that are accepted and not complete, oldest first. -/
def State.pulls (s : State) (x : Stream) : List Desc := (s.ring x.session).accepted.filter fun d => d.opcode = 8 && d.link = x.id

/-- Samples a started pull can take now: contiguous ones of the ring, to its buffer's end, to the next end mark (13 R418, R419). -/
def pullRoom (x : Stream) (d : Desc) : Nat :=
  let have_ := (x.audio.filter fun a => x.delivered ≤ a.1).length
  let buf := (d.bufBytes - d.done) / 3
  let mark := ((x.ends.filter fun e => x.delivered < e).map fun e => e - x.delivered).foldl min (have_ + buf)
  min have_ (min buf mark)

/-- The piece of a stream's audio ring that is delivered next. -/
def Stream.nextPiece (x : Stream) : Option Piece := x.pieces.find? fun p => x.delivered < p.first + p.count

/-- Samples of that piece that a pull can take: a piece is one transfer, cut where the buffer ends or an end mark lies. -/
def pieceRoom (x : Stream) (d : Desc) : Nat :=
  match x.nextPiece with
  | some p => min (p.first + p.count - x.delivered) (pullRoom x d)
  | none => 0

/-- The piece of audio that a stream's oldest pull takes next: Live, by the piece's last sample (09 R282). -/
def State.audioXfer (s : State) (x : Stream) (d : Desc) : Waiting :=
  match x.nextPiece with
  | some p => s.waitingFor true p.due (max p.at_ d.fetchAt) x.job true
  | none => s.waitingFor true s.tb.sub d.fetchAt x.job true

/-- The deadline of a record: that of the latest data write that it follows, or 100 µs where it follows none (12 R376, log entry 40). -/
def CqRecord.deadline (c : CqRecord) : Int := c.due.getD (c.at_ + hundredUs)

/-- A ring's oldest held record with its mirror: Live (12 R376). -/
def State.recordXfer (s : State) (n : Nat) : Waiting :=
  match (s.ring n).held.head? with
  | some c => s.waitingFor true c.deadline c.at_ (ringTie n)
  | none => s.waitingFor true s.tb.sub s.tb.sub (ringTie n)

/-- Whether a ring has a record to write and a slot for it (12 R378). -/
def Ring.canWrite (r : Ring) : Bool := !r.held.isEmpty && (r.cqPi - r.cqCi).toNat < r.cqSize

/-- Everything that waits at the host Scriber of a port. -/
def State.scriberQueue (s : State) (port : Nat) : List Waiting :=
  ((s.rmk.rings.filter fun q => q.2.port == port && !q.2.linkLost && q.2.canWrite).map fun q => s.recordXfer q.1)
    ++ s.streams.filterMap fun q =>
        if (s.ring q.2.session).port != port then none
        else ((s.pulls q.2).head?.filter fun d => d.started && 0 < pieceRoom q.2 d).map (s.audioXfer q.2)

/-! ### Service (09 R283, R284) -/

/-- What waits in Proof's data path: the tenant data outstanding at the host engines of both ports (09 R283). -/
def State.proofQueue (s : State) : List Waiting :=
  ([0, 1].flatMap fun p => outstandingOf (s.tracerQueue p) ++ outstandingOf (s.scriberQueue p)).filter (·.proof)

/-- Whether a transfer goes first at its host engine and, where Proof carries it, in Proof's data path. -/
def State.engineServes (s : State) (queue : List Waiting) (x : Waiting) : Bool :=
  serves (outstandingOf queue) x && (!x.proof || serves s.proofQueue x)

/-- Whether a port's host Tracer serves a transfer. -/
def State.tracerServes (s : State) (port : Nat) (x : Waiting) : Bool := s.engineServes (s.tracerQueue port) x
/-- Whether a port's host Scriber serves a transfer. -/
def State.scriberServes (s : State) (port : Nat) (x : Waiting) : Bool := s.engineServes (s.scriberQueue port) x

end Sys2Proof.Machine
end

