-- ==== Sys2Proof/Machine/Audio.lean ====
section
/-! DEFINITION. Audio to the host: AUDIO_PULL and AUDIO_DELIVERY (09 R290, 10 R301, 12 R380 R392, 13 R418 R419 R426, 16 R505),
and the traffic nonces. -/

namespace Sys2Proof.Machine

open Sys2Proof

/-- The nonce of a session message: kind, stream or job ordinal, and the message's own number (16 R505). -/
def nonceOf (kind ord n : Nat) : List Byte := leBytes 1 kind ++ leBytes 3 ord ++ leBytes 8 n

/-- The session key of a session. -/
def State.keyS (s : State) (sess : Nat) : List Byte := ((s.session sess).map (·.keyS)).getD []

/-- A session's running data in an AUDIO_PULL trailer, bytes 0x00 to 0x0F (13 R419). -/
def trailerHead (stream aflags samples first : Nat) : List Byte :=
  leBytes 2 stream ++ leBytes 1 aflags ++ zeros 1 ++ leBytes 4 samples ++ leBytes 6 first ++ zeros 2

/-- The window of the Frames from the hand-off of one sample to that of another (13 R426). -/
def histWindow (hist : List (Nat × Nat × Nat × Window)) (first last : Nat) : Window :=
  let has (n : Nat) (h : Nat × Nat × Nat × Window) : Bool := h.2.1 ≤ n && n < h.2.2.1
  match hist.find? (has first), hist.find? (has last) with
  | some a, some b => ((hist.filter fun h => a.1 ≤ h.1 && h.1 ≤ b.1).map (·.2.2.2)).foldl Window.join Window.empty
  | _, _ => Window.empty

/-- An AUDIO_PULL starts when the earlier ones of its stream have completed (12 R384, 13 R418). -/
def execAudioPull (ring seq : Nat) (s : State) : Host.Outcome State Fault Refusal :=
  .next (
    match s.desc ring seq with
    | none => s
    | some d =>
      match s.stream d.link with
      | none => s
      | some x =>
        if d.opcode = 8 && x.session = ring && !d.started && (s.pulls x).head?.map (·.seq) == some seq then
          s.modDesc ring seq fun d => { d with started := true, first := x.delivered, fetchAt := s.tb.sub }
        else s)

/-- The trailer and the completion of an AUDIO_PULL (13 R419, R426): AFLAGS[0] if it ends before an end mark, AFLAGS[1] if its stream
is Closed, as a fault leaves it (01 R36, R38). -/
def finishPull (ring : Nat) (d : Desc) (x : Stream) (status aflags : Nat) (s : State) : State :=
  let first := if d.started then d.first else x.delivered
  let samples := d.done / 3
  let marked := d.started && 0 < samples && x.ends.contains (first + samples)
  let aad := trailerHead x.id (bit marked 0 + bit (x.phase == .closed || status == stStreamFault) 1 + aflags) samples first
  let sealed := gcmSeal (s.keyS ring) (nonceOf 2 x.ordinal d.ordinal) aad d.plain
  let port := (s.ring ring).port
  let s := s.ringWrite ring d.trailerAddr (aad ++ sealed.2)
  let s := (s.charge x.session (some x.job) { Account.zero with ramokOut := 32 })
  let s := match s.stream x.id with
    | some y => s.setStream { y with
        ends := y.ends.filter fun e => y.delivered < e
        hist := y.hist.filter fun h => y.delivered < h.2.2.1 }
    | none => s
  s.complete ring d {
    status := status
    count := d.done
    win := if samples = 0 then Window.empty else histWindow x.hist first (first + samples - 1)
    stream := x.ordinal
    pcmEnd := some (first + samples)
    due := if samples = 0 then none else some d.due
    data := [⟨port, d.addr, sealed.1⟩, ⟨port, d.trailerAddr, aad ++ sealed.2⟩] }

/-- Whether a started pull is complete: full, or at an end mark, or its stream Closed and drained (12 R387). -/
def pullDone (x : Stream) (d : Desc) : Bool :=
  d.bufBytes ≤ d.done + 2 || (0 < d.done && x.ends.contains x.delivered)
    || (x.phase == .closed && x.staged.isEmpty && x.outBuf.isEmpty && (x.audio.filter fun a => x.delivered ≤ a.1).isEmpty)

/-- The host Scriber moves samples of a piece, as ciphertext of the pull's message, into the pull's buffer (09 R290, 13 R419). -/
def State.movePiece (s : State) (x : Stream) (d : Desc) (n : Nat) : State :=
  let pcm := (((x.audio.filter fun a => x.delivered ≤ a.1).take n).map fun a => leBytes 3 a.2.toNat).flatten
  let plain := d.plain ++ pcm
  let cipher := (gcmCrypt (s.keyS x.session) (nonceOf 2 x.ordinal d.ordinal) plain).drop d.done
  let due := (x.nextPiece.map (·.due)).getD d.due
  let s := (((s.ringWrite x.session (d.addr + d.done) cipher).charge x.session (some x.job) { Account.zero with ramokOut := 3 * n }).bump 0x240 (3 * n)).setStream
    { x with delivered := x.delivered + n, pieces := x.pieces.filter fun p => x.delivered + n < p.first + p.count }
  s.modDesc x.session d.seq fun d => { d with done := d.done + 3 * n, plain := plain, due := due }

/-- Moves pieces of a stream into its oldest pull while the host Scriber serves them, up to a number of samples. -/
def deliverPieces (stream : Nat) : (fuel left : Nat) → State → State
  | 0, _, s => s
  | fuel + 1, left, s =>
    match s.stream stream with
    | none => s
    | some x =>
      match (s.pulls x).head? with
      | none => s
      | some d =>
        let n := pieceRoom x d
        if pullDone x d || n = 0 || left < n || !s.scriberServes (s.ring x.session).port (s.audioXfer x d) then s
        else deliverPieces stream fuel (left - n) (s.movePiece x d n)

/-- Aborted pulls of a stream complete, oldest first, up to one that is not (12 R384, R395). -/
def endAborted (stream : Nat) : (fuel : Nat) → State → State
  | 0, s => s
  | fuel + 1, s =>
    match s.stream stream with
    | none => s
    | some x =>
      match (s.pulls x).head? with
      | none => s
      | some d => if d.aborted then endAborted stream fuel (finishPull x.session d x stAborted 4 s) else s

/-- A stream's oldest pull completes when it is done (12 R387). -/
def endPull (stream : Nat) (s : State) : State :=
  match s.stream stream with
  | none => s
  | some x =>
    match (s.pulls x).head? with
    | none => s
    | some d =>
      if !(d.started && pullDone x d) then s
      else if x.faulted then finishPull x.session d x stStreamFault 4 s
      else endAborted stream (s.pulls x).length (finishPull x.session d x stSuccess 0 s)

/-- AUDIO_DELIVERY: the host Scriber moves pieces of a stream, up to so many samples, into the buffer of its oldest AUDIO_PULL, each in its
turn, and the pull completes when it is done (09 R282 R284 R290, 13 R419). -/
def execAudioDelivery (stream samples : Nat) (s : State) : Host.Outcome State Fault Refusal :=
  .next (
    match s.stream stream with
    | none => s
    | some x =>
      match (s.pulls x).head? with
      | none => s
      | some d =>
        let r := s.ring x.session
        if !d.started || r.linkLost || !(s.port r.port).trained then s
        else endPull stream (deliverPieces stream x.pieces.length samples s))

end Sys2Proof.Machine
end

