-- ==== Sys2Proof/Machine/Jobs.lean ====
section
/-! DEFINITION. The end of jobs and streams: release under zeroing, final records, and the tear-down of a faulted context (01 R36
R38, 10 R306, 11 R328 R351 R354 R357 R358, 13 R429): JOB_TEAR_DOWN. -/

namespace Sys2Proof.Machine

open Sys2Proof

/-- Number that stands for no job. -/
def noJob : Nat := 1024

/-! ### Storage of a core (04 R119, R129)

Windows are kept by core, job and number: those of different jobs never meet (04 R129). A core has one accumulator file of 64 slots of 256
words. A stroke numbers the slots it allocates from its own 0; a number takes the lowest free slot of the file at its first write and keeps
it until the job's sequence of strokes ends (04 R119; log entry 28, DESIGN CHOICE). -/

/-- Address of a byte in a window of a job's on a core, among all Plates. -/
def plateAt (core job window off : Nat) : Nat := ((core * 1024 + job) * 8 + window) * 2 ^ 19 + off
/-- Address of word `i` of a core's accumulator file, among all files. -/
def accAt (core i : Nat) : Nat := (core * 16384 + i) * 4
/-- Slots of the file that a job holds on a core. -/
def Core.slotsOf (x : Core) (job : Nat) : List Nat := (x.slots.filter (·.2.1 == job)).map (·.1)
/-- The slot that a job's number has. -/
def Core.slotOf (x : Core) (job k : Nat) : Option Nat := (x.slots.find? fun q => q.1 < 64 && q.2 == (job, k)).map (·.1)
/-- Slots of the file that are free. -/
def Core.slotsFree (x : Core) : Nat := 64 - x.slots.length

/-- A core of the wafer. -/
def Hatch.core (h : Hatch) (c : Nat) : Core := (tabGet h.cores c).getD Core.init

/-- A byte of a job's accumulators on a core, zero in a slot it has not written. -/
def Hatch.accByte (h : Hatch) (core job off : Nat) : Byte :=
  match (h.core core).slotOf job (off / 1024) with
  | some p => memRead h.acc (accAt core (256 * p) + off % 1024)
  | none => 0

/-- A job's stroke allocates a slot for one of its numbers. -/
def Hatch.takeSlot (h : Hatch) (core job k : Nat) : Hatch :=
  let x := h.core core
  if (x.slotOf job k).isSome then h else
  match freeKey x.slots 64 0 with
  | some p => { h with cores := tabSet h.cores core { x with slots := tabSet x.slots p (job, k) } }
  | none => h

/-- Writes bytes into a job's accumulators on a core. -/
def Hatch.accStore (core job : Nat) : Hatch → Nat → List Byte → Hatch
  | h, _, [] => h
  | h, off, b :: bs =>
    let h := h.takeSlot core job (off / 1024)
    let h := match (h.core core).slotOf job (off / 1024) with
      | some p => { h with acc := memWrite h.acc (accAt core (256 * p) + off % 1024) b }
      | none => h
    Hatch.accStore core job h (off + 1) bs

/-! ### Release (10 R306, 11 R357) -/

/-- An engine after a job leaves its core: that job's list and transfers go (11 R357, R358). -/
def leaveEngine (id : Nat) (e : EngineState) : EngineState :=
  let rest := e.outstanding.filter (·.job != id)
  let part := e.part.filter (·.job != id)
  { e with
    job := if e.job == id then noJob else e.job
    stroke := if e.job == id then 0 else e.stroke
    since := tabErase e.since id
    outstanding := rest
    part := part }

/-- A core after a job leaves it: its stroke, pairs, slots and engines go; other jobs' stay (11 R358). -/
def leaveCore (j : Job) (core : Nat) (x : Core) : Core :=
  let mine := x.running.any (·.job == j.id)
  { x with
    jobs := x.jobs.filter (· != j.id)
    running := if mine then none else x.running
    waiting := if mine then none else x.waiting
    since := if mine then none else x.since
    pairs := x.pairs.filter fun p => !(j.pairsOn core).contains p.1
    slots := x.slots.filter (·.2.1 != j.id)
    tracer := leaveEngine j.id x.tracer
    scriber := leaveEngine j.id x.scriber
    grants := x.grants.filter (·.1 != j.id)
    chainIn := x.chainIn.filter (·.job != j.id) }

/-- Cores leave a job, its windows and accumulator slots there zeroed (10 R306) and signals on their way to its pairs discarded; what other
jobs hold on them stays (11 R349, R358). -/
def State.releaseCores (s : State) (j : Job) (cores : List Nat) : State :=
  cores.foldl
    (fun s c =>
      let x := s.core c
      let s := s.setCore c (leaveCore j c x)
      { s with hatch := { s.hatch with
        signals := s.hatch.signals.filter fun g => !(g.target == c && (j.pairsOn c).contains g.pair)
        plate := memZero s.hatch.plate (plateAt c j.id 0 0) (8 * 2 ^ 19)
        acc := (x.slotsOf j.id).foldl (fun m k => memZero m (accAt c (256 * k)) 1024) s.hatch.acc } }) s

/-- Address of an extent of the general pool (10 R299). -/
def extentAddr (e : Nat) : Nat := 0x2400000000 + 2097152 * e

/-- Zeroes and frees the extents of an owner (10 R306). -/
def State.freeExtents (s : State) (owner : Nat) : State :=
  let es := (s.mem.poolUsed.filter (·.1 == owner)).map (·.2)
  { s with
    mem := { s.mem with poolUsed := s.mem.poolUsed.filter (·.1 != owner) }
    dram := es.foldl (fun m e => memZero m (extentAddr e) 2097152) s.dram }

/-- A job's transfers leave the controllers (11 R357 step 1). -/
def State.dropTransfers (s : State) (id : Nat) : State :=
  { s with mem := { s.mem with queue := s.mem.queue.filter (·.job != id) } }

/-- Address of a byte of a model's resident weights on a core, behind every job's windows (10 R316). -/
def residentAt (core handle off : Nat) : Nat := 2 ^ 64 + (core * 2 ^ 20 + handle) * 2 ^ 19 + off

/-- Zeroes the Plate of a residency set (10 R319). -/
def State.zeroSet (s : State) (m : Model) : State :=
  { s with hatch := { s.hatch with
    plate := m.res.cores.foldl (fun p c => memZero p (residentAt c m.handle 0) (2 ^ 19)) s.hatch.plate } }

/-- Whether a job is a model's promotion. -/
def Residency.promotedBy (r : Residency) (job : Nat) : Bool := match r with
  | .copying _ j _ _ | .copied _ j => j == job
  | _ => false

/-- A model whose promotion job ended without success is cold (10 R317). -/
def coldModel (job : Nat) (m : Model) : Model := if m.res.promotedBy job then { m with res := .cold } else m

/-- Takes a stream's contexts out of a unit. -/
def State.dropCtx (s : State) (id u : Nat) : State :=
  let b := s.unit u
  s.setUnit u { b with ctxs := b.ctxs.filter fun c => c.2 != id }

/-- A rebinding of a job ends without its new place: the cores and contexts held for it are released (11 R333). -/
def State.dropPlace (s : State) (id : Nat) : State :=
  match s.rebind.place, s.job id with
  | some (k, cores), some j =>
    if k != id then s else
    let other (u : Nat × Nat) : Bool := !(s.stream u.1).any fun x => x.unit == u.2
    let s := (s.rebind.units.filter other).foldl (fun s u => s.dropCtx u.1 u.2) s
    let s := s.releaseCores j ((cores ++ s.rebind.old).filter fun c => !j.held.contains c)
    { s with rebind := { s.rebind with place := none, old := [], units := [], refused := true } }
  | _, _ => s

/-- The end of a job context: cores, regions and save area zeroed and released, the final record written (11 R354, R357). -/
def State.endJob (s : State) (id : Nat) (faulted : Bool) : State :=
  match s.job id with
  | none => s
  | some j =>
    let s := (((s.dropTransfers id).dropPlace id).releaseCores j j.held).freeExtents (jobOwner id)
    let s := ((s.models.map (·.2)).filter (·.res.promotedBy id)).foldl State.zeroSet s
    let alone (b : Budget) : Budget := if b.into == some id then { b with into := none } else b
    let s := { s with
      streams := tabMap s.streams fun _ x => { x with budget := x.budget.map alone }
      mem := { s.mem with saveUsed := s.mem.saveUsed.filter (·.1 != id) }
      lines := { s.lines with captures := s.lines.captures.filter (·.job != id) }
      models := tabMap s.models fun _ m => coldModel id m }
    let s := writeJobRecord 2 faulted j s
    { s with jobs := tabErase s.jobs id }.nextFrost

/-- A line slot that a stream holds is free again (14 R461). -/
def State.freeSlot (s : State) (x : Stream) : State :=
  if x.toLine then
    let d := s.dir x.line 0
    if tabGet d.holders x.slot == some x.id then s.setDir x.line 0 { d with holders := tabErase d.holders x.slot } else s
  else s

/-- A stream's row leaves its job; with the last row the job ends (11 R328). -/
def State.leaveJob (s : State) (x : Stream) : State :=
  match s.job x.job with
  | none => s
  | some j =>
    let rows := dropRow x.id j.rows
    let s := s.setJob { j with rows := rows }
    if rows.isEmpty && j.kind == .streams then s.endJob j.id false else s

/-- A stream's work on its unit stops; it holds its context, with its voices' weights (02 R63, 11 R357 step 2). -/
def State.haltUnit (s : State) (x : Stream) : State :=
  let b := s.unit x.unit
  if tabGet b.ctxs x.ctx != some x.id then s else
  s.setUnit x.unit { b with queue := tabErase b.queue x.ctx, busy := if b.busy == some x.ctx then none else b.busy }

/-- A stream gives back its budget: context, row and line slot (01 R29). -/
def State.releaseStream (s : State) (x : Stream) : State :=
  ((s.freeUnit x).freeSlot x).leaveJob x

/-- A stream ID becomes reusable; the stream buffer is zeroed (10 R306). -/
def State.eraseStream (s : State) (id : Nat) : State := { s with streams := tabErase s.streams id }

/-! ### Transfers that end early (15 R490, R491) -/

/-- Port that joins a peer: port p of member m connects to member (m + p + 1) mod 17 (15 R468). -/
def State.portTo (s : State) (peer : Nat) : Nat := (peer + 16 - s.ihx.member) % 17

/-- An Ihlaux port (15 R492). -/
def IhxPort.init : IhxPort where
  trained := false
  lanes := 0
  peer := 0
  wiringErr := false
  secured := false
  retrains := 0
  authFail := 0
  authTimes := []
  ownKey := []
  ownNonce := []
  linkKey := []
  lower := false
  vc1Live := 0
  vc1Fill := 0
  vc2Live := 0
  vc2Fill := 0
  delayNs := 0
  reads := []

/-- An Ihlaux port. -/
def State.ihxPort (s : State) (p : Nat) : IhxPort := (tabGet s.ihx.ports p).getD IhxPort.init
/-- Sets an Ihlaux port. -/
def State.setIhxPort (s : State) (p : Nat) (x : IhxPort) : State := { s with ihx := { s.ihx with ports := tabSet s.ihx.ports p x } }

/-- The sealed frame of a message under a port's link key: the nonce is the sender's direction bit and the port's frame count, then the
tag follows the ciphertext (15 R466, 16 R509). One message is one frame, its control words 8 bytes each (log entry 34). -/
def sealedFrame (x : IhxPort) (count kind : Nat) (body : List Nat) (bytes : List Byte) : List Byte :=
  let nonce := leBytes 1 (if x.lower then 0 else 1) ++ leBytes 11 (count % 2 ^ 88)
  let r := gcmSeal x.linkKey nonce [] (leBytes 1 kind ++ (body.map (leBytes 8)).flatten ++ bytes)
  r.1 ++ r.2

/-- Whether a message kind is a symbol that the PCS inserts between frames (15 R474). -/
def isSymbol (kind : Nat) : Bool := kind = 10 || kind = 11

/-- A message on Ihlaux VC0, or VC1 for bytes, sealed on a secured port; a port that is down carries none (15 R465, R466, R477). -/
def State.send (s : State) (port kind : Nat) (body : List Nat) (bytes : List Byte) : State :=
  let x := s.ihxPort port
  let n := (tabGet s.ihx.frames port).getD 0
  if !x.trained then s
  else if x.secured && !isSymbol kind then { s with ihx := { s.ihx with
    sent := s.ihx.sent ++ [⟨port, kind, body, bytes⟩]
    wire := s.ihx.wire ++ [(port, sealedFrame x n kind body bytes)]
    frames := tabSet s.ihx.frames port (n + 1) } }
  else { s with ihx := { s.ihx with sent := s.ihx.sent ++ [⟨port, kind, body, bytes⟩] } }

/-- The request credits that a Live Transfer holds on the source's port are free again (15 R479). -/
def State.freeCredits (s : State) (t : Transfer) : State :=
  if t.outgoing && t.credits then
    let p := s.portTo t.peer
    let x := s.ihxPort p
    if x.trained then s.setIhxPort p { x with vc1Live := satAdd x.vc1Live 256 1024 } else s
  else s

/-- A Transfer ends: it no longer counts as in progress, and its credits are free. -/
def State.dropTransfer (s : State) (id : DWord) : State :=
  match s.ihx.transfers.find? (·.id == id) with
  | none => s
  | some t =>
    let s := s.freeCredits t
    { s with ihx := { s.ihx with transfers := s.ihx.transfers.filter (·.id != id), xferActive := s.ihx.xferActive - 1 } }

/-- A Fill remote read request takes a request credit and goes to its job's home (15 R477, R480). -/
def State.sendRead (s : State) (j : Job) (tag age off len : Nat) : State :=
  let home := match j.kind with
    | .guest k _ => k
    | _ => j.id
  let p := s.portTo (j.home.getD 0)
  let x := s.ihxPort p
  (s.setIhxPort p { x with vc1Fill := x.vc1Fill - 1 }).send p 13 [home, tag, age, off, len] []

/-- Whether the Fill pool of the port to a moved job's home has credits for so many requests (15 R477). -/
def State.hasCredits (s : State) (j : Job) (n : Nat) : Bool := j.home.isNone || n ≤ (s.ihxPort (s.portTo (j.home.getD 0))).vc1Fill

/-- A source stream whose Transfer ends before commit: where a plan has left it out, it waits to be planned again (15 R490). -/
def Stream.stays (ord : Nat) (t : Transfer) (x : Stream) : Stream :=
  let now := x.missed && t.handover ≤ ord
  { x with transferring := false, left := x.left || now, missed := x.missed && !now }

/-- Completes a Transfer's descriptor with TRANSFER_FAILED and tells the partner (15 R490). -/
def failTransfer (t : Transfer) (detail : Nat) (s : State) : State :=
  let s := match s.desc t.ring t.seq with
    | some d => s.complete t.ring d { status := stTransferFailed, detail := detail }
    | none => s
  let s := match s.stream t.stream with
    | some x => if t.outgoing then s.setStream (x.stays s.tb.frameOrd t) else s
    | none => s
  ((s.dropTransfer t.id).send (s.portTo t.peer) 9 [t.id.toNat, detail] []).bump 0x163 1

/-! ### Faults (01 R38, 11 R357, 13 R429) -/

/-- Whether an accepted descriptor acts on a stream. A push whose stream has left under a Transfer keeps 65,536 in `link`
(15 R490). -/
def actsOn (x : Stream) (d : Desc) : Bool :=
  (namesStream d.opcode && d.opcode != 8 && d.stream == x.id && d.link < 65536) || (d.opcode == 8 && d.link == x.id)

/-- One descriptor of a stream whose context faulted (13 R429, 15 R491). -/
def faultDesc (x : Stream) (s : State) (d : Desc) : State :=
  match d.opcode with
  | 8 => finishPull x.session d ((s.stream x.id).getD x) stStreamFault 4 s
  | 7 => s.complete x.session d { status := stStreamFault, result := d.packets, count := d.done, win := d.win }
  | 9 => s.complete x.session d { status := stStreamFault, count := x.handed }
  | 0xB =>
    match s.ihx.transfers.find? fun t => t.outgoing && t.ring == x.session && t.seq == d.seq with
    | some t => failTransfer t 11 s
    | none => s.complete x.session d { status := stTransferFailed, detail := 11 }
  | _ => s.complete x.session d { status := stStreamFault }

/-- The Transfer that brings a stream in. -/
def State.arrivalOf (s : State) (x : Stream) : Option Transfer :=
  s.ihx.transfers.find? fun t => !t.outgoing && t.stream == x.id && x.transferring

/-- Whether samples that a stream has handed off are still on their way to the host or into a line (11 R357 step 2). -/
def State.inFlight (s : State) (x : Stream) : Bool :=
  !x.staged.isEmpty || !x.lineBuf.isEmpty
    || (!(s.pulls x).isEmpty && (!x.outBuf.isEmpty || x.audio.any fun a => x.delivered ≤ a.1))

/-- A faulted stream whose samples have been delivered: its AUDIO_PULLs complete and its ID is free (01 R36, 11 R357). -/
def State.endFaulted (s : State) (id : Nat) : State :=
  match s.stream id with
  | some x =>
    if x.faulted && !s.inFlight x then
      (((s.pulls x).foldl (faultDesc x) s).freeSlot x).eraseStream id
    else s
  | none => s

/-- A stream moves to Closed with STREAM_FAULT on its outstanding descriptors; one that a Transfer brings in fails it with DETAIL 8
(01 R36, R38; 15 R491). What it has handed off is delivered first, and its AUDIO_PULLs complete behind that (11 R357). -/
def State.faultStream (s : State) (x : Stream) : State :=
  let s := match s.arrivalOf x with
    | some t => failTransfer t 8 s
    | none => s
  let ds := ((s.ring x.session).accepted.filter (actsOn x)).filter (·.opcode != 8)
  let s := (ds.foldl (faultDesc x) s).freeUnit x
  let x := (s.stream x.id).getD x
  (s.setStream { x with
    phase := .closed, faulted := true, left := true, job := noJob, current := none, closedChunk := none, hatchChunk := none
    burinChunks := (x.burinChunks.filter (·.first < x.handed)).map fun c => { c with count := min c.count (x.handed - c.first) }
    records := [], controls := [], second := none, secondCores := [], restart := none, budget := none }).endFaulted x.id

/-- A stream whose work in progress is lost: its plans stand, and its conditioning is computed again. -/
def Stream.unplan (x : Stream) : Stream :=
  { x with current := none, hatchChunk := x.hatchChunk.map fun c => { c with condAt := none, cond := [] } }

/-- Marks the descriptors whose window holds a Keep restart (13 R429). -/
def State.markRestart (s : State) (x : Stream) : State :=
  let r := s.ring x.session
  let mark (d : Desc) : Desc :=
    if d.opcode == 7 && d.stream == x.id && 0 < d.packets then { d with win := { d.win with keepRestart := true } } else d
  s.setRing x.session { r with accepted := r.accepted.map mark }

/-- A Keep stream whose context faulted waits for its restart (02 R67, 11 R357 step 3) and holds its budget: its context, its share of the
module's loads, and the cores of its job that still serve (01 R29, 02 R63). Its output may resume within 3 Frames: from the plan closes of
the next two Frame ticks. -/
def State.awaitRestart (s : State) (x : Stream) : State :=
  let s := s.haltUnit x
  let cores := ((s.job x.job).map (·.held.filter s.coreServes)).getD []
  let x := { x.unplan with job := noJob, restart := some (s.tb.frameOrd + 2), budget := some ⟨(x.job, s.tb.sub), cores, none⟩, left := true }
  (s.setStream x).markRestart x

/-- Step 3 for one row (11 R357). The second shadow is a copy of the shadow that ends before the next Frame tick; a shadow that cannot be
read until then ends the stream (06 R202; log entry 41, DESIGN CHOICE). -/
def faultRow (s : State) (x : Stream) : State :=
  if x.keep && x.second.isSome && x.shadow.isSome && (s.arrivalOf x).isNone && !([x.handle, x.voice].any fun h => (s.model h).any (·.damaged)) then
    match s.ihx.transfers.find? fun t => t.outgoing && t.stream == x.id with
    | some t => (failTransfer t 11 s).awaitRestart ((((failTransfer t 11 s).stream x.id)).getD x)
    | none => s.awaitRestart x
  else s.faultStream x

/-- An adaptation job's descriptor completes with a status; of a job moved here its home is told, which tears its own context down (11 R357,
13 R426, 15 R482). -/
def State.completeAdapt (s : State) (j : Job) (status detail : Nat) : State :=
  match j.kind with
  | .adapt ring seq =>
    match s.desc ring seq with
    | some d => s.complete ring d { status := status, detail := detail, count := j.optStep }
    | none => s
  | .guest k _ => s.send (s.portTo (j.home.getD 0)) 26 [k, status, detail] []
  | _ => s

/-- Tears down a job context with a status for an adaptation job's descriptor (11 R357). -/
def State.tearDownWith (s : State) (id rule status detail : Nat) : State :=
  match s.job id with
  | none => s
  | some j =>
    let s := s.dropTransfers id
    let s := j.held.foldl (fun s c =>
      let x := s.core c
      if x.running.any (·.job == id) then s.setCore c { x with running := none, waiting := none, since := none } else s) s
    let s := (s.rowStreams j).foldl faultRow s
    let s := (s.completeAdapt j status detail).endJob id true
    (s.bump 0x206 1).writeLog 0x44 (srcOf 9 id) rule

/-- Tears down a faulted job context (11 R357). -/
def State.tearDown (s : State) (id rule : Nat) : State := s.tearDownWith id rule stJobFault 0

/-- JOB_TEAR_DOWN: a job context faults for the cause that a rule gives (11 R357). -/
def execJobTearDown (job rule : Nat) (s : State) : Host.Outcome State Fault Refusal := .next (s.tearDown job rule)

end Sys2Proof.Machine
end

