-- ==== Sys2Proof/Machine/Residency.lean ====
section
/-! DEFINITION. Plate residency (10 R314 to R321, 11 R323): where sets lie, DEMOTION, and the mapping switch of a plan close. -/

namespace Sys2Proof.Machine

open Sys2Proof

/-- Open streams of a model: bound to it and not Closed (10 R315, R318). -/
def State.openStreams (s : State) (h : Nat) : Nat := (s.modelStreams h).length

/-- Cores of a residency set (10 R316). -/
def setCores (m : Model) (share : Nat) : Nat := ceilDiv (imgWeightBytes m.image) (16384 * share)

/-- Fields a model's set may lie in: those of its jobs and the adjacent ones; every field while it has no job (10 R316). -/
def State.setFields (s : State) (h : Nat) : List Nat :=
  let own := (((s.jobs.map (·.2)).filter fun j => j.handle == h).map fun j => fieldsOf j.cores).flatten.eraseDups
  if own.isEmpty then List.range 84 else nearFields own

/-- Cores for a residency set in one group of fields: each holds SHARE, the last what remains (10 R316). -/
def State.setOn (s : State) (m : Model) (share : Nat) (g : List Nat) : Option (List Nat) :=
  let n := setCores m share
  let rest := ceilDiv (imgWeightBytes m.image) 1024 - 16 * share * (n - 1)
  let lasts := s.plateOffer s.plateLive rest
  let full := ((g.map (s.plateOffer s.plateLive (16 * share))).flatten).take (n - 1)
  match (g.map lasts).flatten.find? fun c => !full.contains c with
  | some c => if full.length = n - 1 && g.all fun f => !(lasts f).isEmpty then some (full ++ [c]) else none
  | none => none

/-- Cores for a residency set in Plate that no admitted job needs; Fill work is not admitted and gives way (10 R316, R317). -/
def State.findSet (s : State) (m : Model) : Option (List Nat) :=
  let share := s.mem.policy.share
  if share = 0 then none else
  let fields := s.setFields m.handle
  (fieldGroups.filter fun g => g.all fields.contains).findSome? (s.setOn m share)

/-- Starts a promotion: a Fill job charged to the model's session, Frosted until a plan close offers it capacity (10 R317, 11 R323 R326).
Fill work in the set's Plate is asked to Frost: at once for a Pinned model, which the spec says (11 R350), and for an Auto one as well, of
which it says nothing (log entry 26, DESIGN CHOICE). -/
def State.startPromotion (s : State) (m : Model) : Option State :=
  match s.findSet m with
  | none => none
  | some set =>
    if (freeKey s.jobs 1024 0).isNone || !s.reserveOk m.image set.length 0 then none else
    let n := s.newFrosted (.promote m.handle) ⟨m.session, m.handle, s.tb.season, 0, false, true, none, []⟩ m.image set.length 0
    let s := (s.fillOn set noUnit).foldl State.requestFrost n.1
    some (s.setModel { m with res := .copying set n.2 0 (s.tb.sub, s.tb.sub + s.frameSubs), share := s.mem.policy.share })

/-- The least recently used Auto models with no open stream, oldest first (10 R318). -/
def State.evictable (s : State) : List Model :=
  ((s.models.map (·.2)).filter fun m => m.cls == 1 && m.hot && s.openStreams m.handle == 0).mergeSort
    fun a b => a.lastUsed ≤ b.lastUsed

/-- The state with the first `n` of a list of models cold, to see whether room exists. -/
def State.without (s : State) (ms : List Model) (n : Nat) : State :=
  (ms.take n).foldl (fun s m => s.setModel { m with res := .cold }) s

/-- A hot model starts to leave (10 R319). -/
def State.leaveSet (s : State) (m : Model) : State := s.setModel { m with res := .leaving m.res.cores }

/-- The Auto models whose demotion makes room for a promotion, as few as do, least recently used first; none if all would not (10
R318). -/
def State.evictions (s : State) (m : Model) : List Model :=
  let ms := s.evictable
  match (List.range (ms.length + 1)).find? fun n => ((s.without ms n).findSet m).isSome with
  | some n => ms.take n
  | none => []

/-- Demotes what makes room for a promotion (10 R318). -/
def State.makeRoom (s : State) (m : Model) : State := (s.evictions m).foldl State.leaveSet s

/-- Whether an Auto model is to be promoted (10 R315, R316). -/
def State.wantsPromotion (s : State) (m : Model) : Bool :=
  m.cls == 1 && m.res == .cold && s.mem.policy.autoMin ≤ s.openStreams m.handle && s.mem.policy.share != 0 && !m.damaged

/-- An Auto model with enough open streams starts its promotion, or what stands in its way leaves (10 R315 to R318). -/
def State.promote (s : State) (m : Model) : State :=
  if s.wantsPromotion m then (s.startPromotion m).getD (s.makeRoom m) else s

/-- DEMOTION: an Auto model with no open stream that stands in the way of a promotion, or a model whose class change waits for its last
stream, leaves at the next plan close (10 R318, R319). -/
def execDemotion (handle : Nat) (s : State) : Host.Outcome State Fault Refusal :=
  .next (
    match s.model handle with
    | none => s
    | some m =>
      let inWay := (s.models.map (·.2)).any fun p =>
        s.wantsPromotion p && (s.findSet p).isNone && (s.evictions p).any (·.handle == handle)
      let may := s.openStreams handle == 0 && (m.clsNext.isSome || inWay)
      match m.res with
      | .hot _ => if may then s.leaveSet m else s
      | _ => s)

/-! ### Receipts and the end of MODEL_LOAD (13 R426, 16 R504) -/

/-- The weight digest (15 R488). -/
def weightDigest (m : List Byte) : List Byte := digest32 (weightImage m)

/-- Writes a receipt into a session's response buffer (16 R504). -/
def writeReceipt (sess kind handle : Nat) (hash digest : List Byte) (s : State) : State :=
  match s.session sess with
  | none => s
  | some x =>
    let body := leBytes 4 0x4B524354 ++ leBytes 1 kind ++ zeros 1 ++ leBytes 2 sess ++ leBytes 4 x.receipts ++ leBytes 4 handle
      ++ leBytes 6 s.tb.frame.toNat ++ zeros 2 ++ bytesAt hash 0 64 ++ bytesAt digest 0 32 ++ bytesAt x.transcript 0 16
    let slot := x.receipts % ((x.respBytes - 1024) / 256)
    (s.ringWrite sess (x.respAddr + 1024 + 256 * slot) (body ++ s.sign body ++ zeros 6)).setSession sess
      { x with receipts := x.receipts + 1 }

/-- A MODEL_LOAD completes with its handle, receipt first (13 R426, R428; 16 R504). -/
def finishLoad (ring : Nat) (d : Desc) (m : Model) (s : State) : State :=
  let s := writeReceipt ring 0 m.handle (imgHash m.image) (weightDigest m.image) s
  s.complete ring d { status := stSuccess, detail := m.cls, result := m.handle, count := d.wrappedBytes }

/-- MODEL_LOADs that wait for the promotion of a model (10 R315). -/
def State.waitingLoads (s : State) (m : Model) : List Desc :=
  (s.ring m.session).accepted.filter fun d => d.opcode == 3 && d.started && d.link == m.handle + 1

/-- The mapping switch of one model at a plan close (10 R317, R319). -/
def switchModel (s : State) (m : Model) : State :=
  match m.res with
  | .copied set job =>
    let s := (s.setModel { m with res := .hot set }).endJob job false
    (s.waitingLoads m).foldl (fun s d => finishLoad m.session d m s) s
  | .leaving set =>
    -- a stream opened since then keeps the model hot (10 R318, R319)
    if 0 < s.openStreams m.handle then s.setModel { m with res := .hot set }
    else (s.zeroSet m).setModel { m with res := .cold, cls := m.clsNext.getD m.cls, clsNext := none }
  | .cold =>
    -- a promotion that ended without success: the load is granted as Auto (log entry 26)
    let ds := s.waitingLoads m
    if ds.isEmpty then s else
    let m := { m with cls := 1 }
    ds.foldl (fun s d => finishLoad m.session d m s) (s.setModel m)
  | _ => s

/-- The mapping switches of a plan close, and pending writes of MEM_RES_POLICY and MEM_PIN_CAP (10 R314, R317, R319, R322). -/
def residencyTick (s : State) : State :=
  let s := { s with mem := { s.mem with
    policy := s.mem.policyNext.getD s.mem.policy
    policyNext := none
    pinCap := s.mem.pinCapNext.getD s.mem.pinCap
    pinCapNext := none } }
  (s.models.map (·.2)).foldl switchModel s

/-- Stops a model's promotion: its job is torn down under R357 (01 R27). -/
def State.stopPromotion (s : State) (m : Model) : State :=
  match m.res with
  | .copying _ job _ _ => s.tearDown job 27
  | .copied _ job => s.tearDown job 27
  | _ => s

end Sys2Proof.Machine
end

