-- ==== Sys2Proof/Machine/Rings.lean ====
section
/-! DEFINITION. Rings, doorbells, fetch, acceptance, completions and notify (12 R366 to R393, 13 R399): KICK, DOORBELL_READ,
DESCRIPTOR_FETCH, NOP, FENCE, COMPLETION_WRITE, CQ_STALL, MSIX_NOTIFY, RING_ENABLE, RING_RESUME. -/

namespace Sys2Proof.Machine

open Sys2Proof

/-- A kick for a ring (12 R372, R373): ignored and counted on a disabled ring, merged behind an outstanding read. -/
def kickRing (n : Nat) (s : State) : State :=
  let r := s.ring n
  if !r.enabled then { s with rmk := { s.rmk with kickIgnored := satAdd s.rmk.kickIgnored 1 0xFFFF } }
  else if r.reading then s.setRing n { r with kicked := true }
  else s.setRing n { r with reading := true, readAt := s.tb.sub }

/-- KICK: a write of the kick register at a port's adapter (12 R372, R373). -/
def execKick (port : Nat) (value : Word) (s : State) : Host.Outcome State Fault Refusal :=
  .next (if s.writable port .faultedToo then kickRing (fld value 11 0) s else s)

/-! ### Interrupts (12 R382) -/

/-- Sends a ring's interrupt if ARM is set and records wait that none has covered (12 R382). -/
def State.notify (s : State) (n : Nat) : State :=
  let r := s.ring n
  if r.arm && 0 < r.uncovered && !r.linkLost then
    ((s.setRing n { r with arm := false, uncovered := 0 }).sendMsix r.vector).bump 0x107 1
  else s

/-- Whether HOLD_US has passed since the first record that no interrupt has covered was written (12 R382). -/
def State.holdPassed (s : State) (r : Ring) : Bool := 0 < r.uncovered && r.firstAt + usToSubs r.holdUs ≤ s.tb.sub

/-- MSIX_NOTIFY: COUNT records wait, or, where the command reports that, HOLD_US has passed since the first of them (12 R382). -/
def execMsixNotify (ring : Nat) (holdElapsed : Bool) (s : State) : Host.Outcome State Fault Refusal :=
  .next (
    let r := s.ring ring
    if (if holdElapsed then s.holdPassed r else max r.count 1 ≤ r.uncovered) then s.notify ring else s)

/-! ### Doorbell reads (12 R371, R374, R382, R391, R392) -/

/-- Frees the PCM of AUDIO_PULLs whose records the host has consumed (10 R301, 12 R392). -/
def freePcm (ring : Nat) (s : State) (rc : CqRecord) : State :=
  match rc.pcmEnd with
  | none => s
  | some e =>
    let free (_ : Nat) (x : Stream) : Stream :=
      if x.session == ring && x.ordinal == rc.stream then { x with audio := x.audio.filter fun a => e ≤ a.1 } else x
    { s with streams := tabMap s.streams free }

/-- Takes SQ_PI, CQ_CI and ARM from a doorbell entry: consumed records leave, and their PCM is freed (12 R371, R392). -/
def takeDoorbell (n : Nat) (sqPi cqCi : Half) (hflags : Word) (s : State) : State :=
  let r := s.ring n
  let waiting := (r.cqPi - cqCi).toNat
  let gone := r.unread.take (r.unread.length - waiting)
  let s := s.setRing n { r with
    sqPi := sqPi
    cqCi := cqCi
    arm := bitOf hflags 0
    unread := r.unread.drop (r.unread.length - waiting) }
  gone.foldl (freePcm n) s

/-- The ring-event record of an overrun (12 R391, 13 R425). -/
def overrunRecord (r : Ring) : CqRecord where
  slot := r.sqCi.toNat % r.sqSize
  phase := false
  gen := 0
  opcode := 0
  status := stRingOverrun
  detail := 0
  cookie := 0
  result := 0
  count := 0
  win := Window.empty
  event := true
  frame := 0
  stream := 0
  pcmEnd := none
  at_ := 0
  due := none
  data := []

/-- A read that finds SQ_PI beyond the ring's slots stops the ring (12 R391). -/
def overrunCheck (n : Nat) (s : State) : State :=
  let r := s.ring n
  if r.sqSize < (r.sqPi - r.sqCi).toNat && !r.overrun then
    (s.setRing n { r with overrun := true, stopped := true }).hold n (overrunRecord r)
  else s

/-- An 8-byte read of a doorbell entry through a port is counted (12 R371, 18 R575). -/
def readEntry (port : Nat) (s : State) : State := (s.bump 0x104 1).bump (0x100 + port) 8

/-- DOORBELL_READ: the outstanding read of a ring's entry completes, in the order in which the host Tracer serves; a kick since then issues
the next read (12 R373, R374, R376, R382, R391). -/
def execDoorbellRead (ring : Nat) (sqPi cqCi : Half) (hflags : Word) (s : State) : Host.Outcome State Fault Refusal :=
  .next (
    let r := s.ring ring
    if r.reading && (s.port r.port).trained && s.tracerServes r.port (s.readXfer ring) then
      let s := readEntry r.port (s.setRing ring { r with reading := r.kicked, kicked := false, readAt := s.tb.sub, fetchAt := s.tb.sub })
      (overrunCheck ring (takeDoorbell ring sqPi cqCi hflags s)).notify ring
    else s)

/-! ### Acceptance (12 R383, R386, R390; 13 R399) -/

/-- Whether acceptance waits: behind a SESSION_OPEN or a FENCE that has not completed (12 R366, R386). -/
def Ring.blocked (r : Ring) : Bool :=
  r.accepted.any (fun d => d.opcode == 0x01 || d.opcode == 0x0E)
    || r.held.any fun c => !c.event && (c.opcode == 0x01 || c.opcode == 0x0E)
      && (c.status == stSuccess || c.status == stSessionRefused || c.status == stAborted)

/-- What acceptance itself brings about for an opcode: a slot held, a state entered, an ordinal taken (01 R36, 14 R441, 15 R485,
16 R505). -/
def onAccept (n : Nat) (d : Desc) (s : State) : State × Desc :=
  match d.opcode with
  | 0x03 => (s, { d with fetchAt := s.tb.sub, due := s.tb.sub + s.frameSubs })
  | 0x05 =>
    if 2 ≤ d.dest then
      let x := s.dir d.line 0
      (s.setDir d.line 0 { x with holders := tabSet x.holders d.lslot (16384 + n) }, { d with lineSlot := some (d.line, d.lslot) })
    else (s, d)
  | 0x08 =>
    match s.stream d.stream with
    | some x => (s.setStream { x with pulls := x.pulls + 1 }, { d with ordinal := x.pulls, link := d.stream })
    | none => (s, d)
  | 0x09 =>
    match s.stream d.stream with
    | some x => (s.setStream { x with phase := .closing }, d)
    | none => (s, d)
  | 0x0A =>
    match s.session n with
    | some x => (s.setSession n { x with adaptOrd := x.adaptOrd + 1 }, { d with ordinal := x.adaptOrd })
    | none => (s, d)
  | 0x0B =>
    match s.stream d.stream with
    | some x => (s.setStream { x with transferring := true }, d)
    | none => (s, d)
  | _ => (s, d)

/-- Accepts or rejects the oldest fetched descriptor (12 R383, R390). -/
def acceptOne (n : Nat) (s : State) : State :=
  let r := s.ring n
  match r.fetched with
  | [] => s
  | d :: rest =>
    if r.blocked then s else
    let s := s.setRing n { r with fetched := rest }
    match validate s n d with
    | (s, some (status, detail)) => s.hold n (recordOf d { status := status, detail := detail })
    | (s, none) =>
      let (s, d) := onAccept n { d with accepted := true, seq := r.nextSeq, acceptedAt := s.tb.sub } s
      let r := s.ring n
      s.setRing n { r with
        nextSeq := r.nextSeq + 1
        slots := tabSet r.slots d.slot (d.bytes.getD 1 0, d.opcode, d.seq)
        accepted := r.accepted ++ [d] }

/-- Accepts fetched descriptors in slot order until one waits (12 R383, R386). -/
def pump (n : Nat) : (fuel : Nat) → State → State
  | 0, s => s
  | fuel + 1, s => pump n fuel (acceptOne n s)

/-- Accepts what a ring has fetched. -/
def State.pump (s : State) (n : Nat) : State := Machine.pump n (s.ring n).fetched.length s

/-! ### Fetch (12 R374, R375, R388, R389) -/

/-- A descriptor as it is fetched from a slot (12 R388). -/
def fetchedDesc (slot : Nat) (b : List Byte) : Desc :=
  ⟨0, slot, b, false, false, 0, 0, false, false, false, 0, 0, 0, 0, 0, 0, 0, 0, 0, [], none, Window.empty, none⟩

/-- A fetched descriptor's bytes are charged: to the job of the stream that it names, else to the session alone (11 R352). -/
def State.chargeDesc (s : State) (ring : Nat) (d : Desc) : State :=
  let x := if namesStream d.opcode then (s.stream d.stream).filter (·.session == ring) else none
  s.charge ring (x.map (·.job)) { Account.zero with ramokIn := 64 }

/-- DESCRIPTOR_FETCH: up to 16 consecutive slots, which do not cross the ring's end, are copied and accepted in slot order; then
the mirror is written; the host Tracer serves it in its turn (12 R374, R375, R376, R383). -/
def execDescriptorFetch (ring : Nat) (slots : List (List Byte)) (s : State) : Host.Outcome State Fault Refusal :=
  .next (
    let r := s.ring ring
    let len := slots.length
    let at_ := r.sqCi.toNat % r.sqSize
    if s.boot.phase == .ready && r.wantsFetch && (s.port r.port).trained && 1 ≤ len && len ≤ 16 && len ≤ (r.sqPi - r.sqCi).toNat && at_ + len ≤ r.sqSize
        && r.outstanding + len ≤ 1024 && s.myTurn ring && s.tracerServes r.port (s.fetchXfer ring) then
      let ds := (List.range len).map fun i => fetchedDesc (at_ + i) (slots.getD i [])
      let s := s.setRing ring { r with sqCi := r.sqCi + BitVec.ofNat 16 len, fetched := r.fetched ++ ds, fetchAt := s.tb.sub }
      let s := { s with rmk := if r.port = 0 then { s.rmk with turn0 := ring } else { s.rmk with turn1 := ring } }
      let s := ds.foldl (State.chargeDesc · ring) ((s.bump 0x105 len).bump (0x100 + r.port) (64 * len))
      (s.pump ring).mirror ring
    else s)

/-- NOP completes with SUCCESS at acceptance (13 R424). -/
def execNop (ring seq : Nat) (s : State) : Host.Outcome State Fault Refusal :=
  .next (
    match s.desc ring seq with
    | some d => if d.opcode = 0x0F then s.complete ring d { status := stSuccess } else s
    | none => s)

/-- FENCE completes once every descriptor accepted before it has completed, and acceptance goes on (12 R386). -/
def execFence (ring seq : Nat) (s : State) : Host.Outcome State Fault Refusal :=
  .next (
    match s.desc ring seq with
    | some d =>
      if d.opcode = 0x0E && (s.ring ring).held.isEmpty && (s.ring ring).accepted.all (fun e => d.seq ≤ e.seq) then
        s.complete ring d { status := stSuccess }
      else s
    | none => s)

/-! ### Completion records (12 R377 to R381) -/

/-- Host address of the completion slot of an index. -/
def Ring.cqSlot (r : Ring) (i : Half) : Nat := r.cqBase + 32 * (i.toNat % r.cqSize)

/-- COMPLETION_WRITE: the oldest held record goes into its slot with this pass's PHASE, then the mirror; the host Scriber serves it in its
turn (12 R376 to R381). -/
def execCompletionWrite (ring : Nat) (s : State) : Host.Outcome State Fault Refusal :=
  .next (
    let r := s.ring ring
    match r.held with
    | [] => s
    | rc :: rest =>
      if r.linkLost || !(s.port r.port).trained || !r.canWrite || !s.scriberServes r.port (s.recordXfer ring) then s else
      let rc := { rc with phase := r.cqPi.toNat / r.cqSize % 2 == 0 }
      let s := s.hostWrite r.port (r.cqSlot r.cqPi) (recordBytes rc)
      let s := s.setRing ring { r with
        held := rest
        heldSince := if rest.isEmpty then none else r.heldSince
        cqStall := r.cqStall && !rest.isEmpty
        cqPi := r.cqPi + 1
        unread := r.unread ++ [rc]
        uncovered := r.uncovered + 1
        firstAt := if r.uncovered = 0 then s.tb.sub else r.firstAt }
      let s := (s.mirror ring).bump 0x106 1
      (if rc.event then s.notify ring else s).pump ring)

/-- CQ_STALL: the ring has held records for more than 4 Frames (12 R378). -/
def execCqStall (ring : Nat) (s : State) : Host.Outcome State Fault Refusal :=
  .next (
    let r := s.ring ring
    match r.heldSince with
    | none => s
    | some t =>
      if !r.cqStall && t + 4 * s.frameSubs < s.tb.sub then
        (s.setRing ring { r with cqStall := true }).raiseAlarm 0x0E (srcOf 8 ring) r.held.length
      else s)

/-! ### Enable, resume and link loss (12 R369, R392, R393) -/

/-- The fields of RMK_RING_CFG_n as a write gives them (12 R368). -/
def ringCfg (v : Word) (r : Ring) : Ring :=
  { r with
    sqOrder := fld v 3 0
    cqOrder := fld v 7 4
    port := fld v 8 8
    vector := fld v 21 11 }

/-- A write to RMK_RING_CFG_n (12 R369). -/
def ringCfgWrite (n : Nat) (v : Word) (s : State) : State :=
  let r := s.ring n
  if r.enabled then
    if !bitOf v 10 && r.state == .unbound && !r.stopped then s.setRing n { r with state := .disabled } else s
  else if !bitOf v 10 then s.setRing n (ringCfg v r)
  else
    let q := ringCfg v r
    if !s.rmk.dbValid || q.cqOrder < q.sqOrder || 8 < q.sqOrder || 8 < q.cqOrder || !(s.port q.port).trained then
      s.setRing n { r with cfgErr := true }
    else
      -- what was fetched before the ring was disabled still completes, and no held record is dropped (12 R377, R378)
      s.setRing n { q with
        state := .unbound
        cfgErr := false
        sqPi := 0
        sqCi := 0
        cqPi := 0
        cqCi := 0
        arm := false
        unread := []
        uncovered := 0 }

/-- RING_ENABLE: a write of a ring's CFG register (12 R369). -/
def execRingEnable (port ring : Nat) (value : Word) (s : State) : Host.Outcome State Fault Refusal :=
  .next (if s.writable port .ready then ringCfgWrite ring value s else s)

/-- Writes again the unread records from index `i` on, each after its data (12 R393). -/
def rewrite (r : Ring) : List CqRecord → Half → State → State
  | [], _, s => s
  | rc :: rest, i, s =>
    let s := rc.data.foldl (fun s w => s.hostWrite w.port w.addr w.bytes) s
    rewrite r rest (i + 1) (s.hostWrite r.port (r.cqSlot i) (recordBytes rc))

/-- The writes that a ring held go out in order (12 R392). -/
def flushHeld (n : Nat) (s : State) : State :=
  let mine := s.host.held.filter (·.1 == n)
  let s := { s with host := { s.host with held := s.host.held.filter (·.1 != n) } }
  mine.foldl (fun s w => s.hostWrite w.2.port w.2.addr w.2.bytes) s

/-- The buffers of FEATURE_PUSHes still outstanding are fetched again, and fetch resumes (12 R393). -/
def State.refetch (s : State) (n : Nat) : State :=
  let again (d : Desc) : Desc :=
    if d.fetches then { d with fetchAt := s.tb.sub, due := ((s.stream d.stream).map s.featureDue).getD d.due } else d
  let r := s.ring n
  s.setRing n { r with accepted := r.accepted.map again, fetchAt := s.tb.sub }

/-- RESUME of a stopped ring with the doorbell entry it reads; where SQ_PI is too far on, only what the read brings counts (12 R391,
R393). -/
def resumeRing (n : Nat) (sqPi cqCi : Half) (hflags : Word) (s : State) : State :=
  let r := s.ring n
  if !r.stopped || !(s.port r.port).trained then s else
  let s := takeDoorbell n sqPi cqCi hflags (readEntry r.port s)
  if r.sqSize < (sqPi - r.sqCi).toNat then (overrunCheck n s).notify n else
  let s := s.setRing n { s.ring n with stopped := false, overrun := false, linkLost := false }
  let r := s.ring n
  (((flushHeld n (rewrite r r.unread (r.cqPi - BitVec.ofNat 16 r.unread.length) s)).mirror n).refetch n).notify n

/-- RING_RESUME: a write of RMK_RING_CTL_n.RESUME (12 R393). -/
def execRingResume (port ring : Nat) (value : Word) (sqPi cqCi : Half) (hflags : Word) (s : State) :
    Host.Outcome State Fault Refusal :=
  .next (if s.writable port .ready && bitOf value 0 then resumeRing ring sqPi cqCi hflags s else s)

/-- Stops every ring a port serves, with LINK_LOST (12 R392). -/
def stopRings (p : Nat) (s : State) : State :=
  let stop (_ : Nat) (r : Ring) : Ring :=
    if r.enabled && r.port == p then { r with stopped := true, linkLost := true } else r
  ({ s with rmk := { s.rmk with rings := tabMap s.rmk.rings stop } }).raiseAlarm 0x16 (srcOf 4 p) 0

/-- Sets a Ramok port. -/
def State.setPort (s : State) (p : Nat) (x : Port) : State :=
  { s with rmk := if p = 0 then { s.rmk with port0 := x } else { s.rmk with port1 := x } }

end Sys2Proof.Machine
end

