-- ==== Sys2Proof/Machine/Sessions.lean ====
section
/-! DEFINITION. Sessions and voice models (01 R26 R27 R39, 13 R400 to R406, 16 R500 to R508): SESSION_OPEN, SESSION_CLOSE,
MODEL_LOAD, MODEL_EVICT. -/

namespace Sys2Proof.Machine

open Sys2Proof

/-! ### SESSION_OPEN (16 R500 to R503) -/

/-- The key and the clear mark key of a request: SEALED opened under K_req (16 R500). -/
def openSealed (s : State) (q : List Byte) : Option (List Byte) :=
  let eph := bytesAt q 0x08 56
  let k := digest32 (label "UVK-REQ" ++ Config.x448 s.kak eph ++ eph)
  gcmOpen k (zeros 12) (bytesAt q 0 0xE0) (bytesAt q 0xE0 32) (bytesAt q 0x100 16)

/-- The first check of R501 that a request fails. -/
def requestReason (s : State) (bytes : Nat) (q : List Byte) : Option Nat :=
  firstFailed 1 [
    fun _ => bytes = 386 && num q 0 4 = 0x4B524551 && num q 6 2 < 4 && zeroAt q 0xD9 7,
    fun _ => num q 4 2 = 1,
    fun _ => Config.ed448Verify (bytesAt q 0xA0 57) (bytesAt q 0 0x110) (bytesAt q 0x110 114),
    fun _ => (openSealed s q).isSome,
    fun _ => zeroAt q 0x60 64 || bytesAt q 0x60 64 == s.proof.mFw,
    fun _ => !(num q 6 2).testBit 1 || !s.debugPolicy]

/-- Proof's reply without its signature, bytes 0x000 to 0x1BF (16 R503). -/
def replyBody (s : State) (ring level : Nat) (line : Bool) (q eph transcript : List Byte) : List Byte :=
  leBytes 4 0x4B525350 ++ leBytes 2 1 ++ leBytes 2 ring ++ leBytes 6 s.part.serial.toNat ++ zeros 2 ++ bytesAt eph 0 56
    ++ bytesAt q 0x40 32 ++ bytesAt transcript 0 64 ++ bytesAt s.proof.mFw 0 64 ++ bytesAt s.proof.mAlm 0 64
    ++ bytesAt s.proof.mWaf 0 64 ++ bytesAt s.proof.mPol 0 64 ++ leBytes 4 s.proof.svn ++ leBytes 4 s.part.rollback
    ++ leBytes 2 (if s.ihx.state = 0 then 0 else s.ihx.folioId.toNat) ++ leBytes 1 s.ihx.member
    ++ leBytes 1 (bit line 0 + 2 * level) ++ zeros 12

/-- The session a request opens, and the reply (16 R502, R503). -/
def openSession (ring : Nat) (d : Desc) (q : List Byte) (s : State) : State × List Byte :=
  let priv := Config.drawn s.free 56
  let pub := Config.x448Public priv
  let eph := bytesAt q 0x08 56
  let transcript := Config.shake256 q 64
  let keyS := digest32 (label "UVK-SES" ++ Config.x448 priv eph ++ Config.x448 s.kak eph ++ transcript ++ pub)
  let keyM := digest32 (label "UVK-MARK" ++ (openSealed s q).getD [])
  let line := s.lineOut && !(num q 6 2).testBit 0
  let level := d.markLevel % 8
  let x : Session := ⟨ring, bytesAt (digest32 (bytesAt q 0xA0 57)) 0 16, bytesAt (digest32 (label "UVK-MCHK" ++ keyM)) 0 8,
    keyS, keyM, transcript, level, line, d.respAddr, d.respBytes, 0, d.acctAddr, d.acctBytes, 0, 0, 0,
    { Account.zero with first := s.tb.frame.toNat }⟩
  (({ s with free := s.free + 1 }).setSession ring x, replyBody s ring level line q pub transcript)

/-- A ring that is bound again in the tally window of a SESSION_CLOSE keeps the closed session's counts apart (01 R25, 17 R535). -/
def State.setApart (s : State) (ring : Nat) : State :=
  match tabGet s.tallies ring with
  | some t =>
    if t.closed.isSome then
      { s with tallies := tabErase s.tallies ring, acct := { s.acct with closed := s.acct.closed ++ [(ring, t)] } }
    else s
  | none => s

/-- SESSION_OPEN, with the request bytes at REQ_ADDR (16 R501 to R503, 12 R366). -/
def execSessionOpen (ring seq : Nat) (request : List Byte) (s : State) : Host.Outcome State Fault Refusal :=
  .next (
    match s.desc ring seq with
    | none => s
    | some d =>
      if d.opcode != 1 || (s.ring ring).linkLost then s else
      let q := bytesAt request 0 386
      let port := (s.ring ring).port
      let s := s.bump (0x100 + port) d.reqBytes
      match requestReason s d.reqBytes q with
      | some reason => s.complete ring d { status := stSessionRefused, detail := reason }
      | none =>
        let (s, body) := openSession ring d q (s.setApart ring)
        let s := s.ringWrite ring d.respAddr (body ++ s.sign body ++ zeros 462)
        let s := s.setRing ring { s.ring ring with state := .bound }
        let tid := ((s.session ring).map (·.tid)).getD []
        let s := sendAlm 1 ring (tid ++ leBytes 6 s.tb.frame.toNat) s
        let s := (s.bump 0x242 1).charge ring none { Account.zero with ramokIn := d.reqBytes, ramokOut := 1024 }
        s.complete ring d { status := stSuccess, result := ring })

/-! ### MODEL_EVICT (01 R27, 13 R400) -/

/-- Whether a stream uses a voice: bound to it, switched to it, or with a switch to it pending. -/
def Stream.usesVoice (x : Stream) (h : Nat) : Bool :=
  x.phase != .closed && (x.handle == h || x.voice == h || x.controls.any (fun c => c.flags.testBit 2 && c.voice == h)
    || (x.closedChunk.toList ++ x.hatchChunk.toList ++ x.burinChunks).any fun c => c.voices.any fun v => v.2 == h)

/-- Whether an ADAPT_JOB that has not completed names a handle (01 R27, 13 R400). -/
def State.adaptUses (s : State) (sess h : Nat) : Bool :=
  (s.ring sess).accepted.any fun d => d.opcode == 0xA && (d.handle == h || d.targetHandle == h)

/-- Whether a STREAM_OPEN in progress names a handle: it binds its model from its start (12 R385). -/
def State.openUses (s : State) (sess h : Nat) : Bool :=
  (s.ring sess).accepted.any fun d => d.opcode == 5 && d.started && d.handle == h

/-- Removes a model: its promotion stopped, its set dropped, its extents zeroed and freed (13 R403, 10 R306). -/
def State.evict (s : State) (m : Model) : State :=
  let s := ((s.stopPromotion m).zeroSet m).freeExtents m.handle
  { s with models := tabErase s.models m.handle }

/-- MODEL_EVICT (01 R27, 13 R400, R406). A handle that an earlier descriptor evicted leaves nothing to do. -/
def execModelEvict (ring seq : Nat) (s : State) : Host.Outcome State Fault Refusal :=
  .next (
    match s.desc ring seq with
    | none => s
    | some d =>
      if d.opcode != 4 || !s.mayStart ring d then s else
      match s.model d.handle with
      | none => s.complete ring d { status := stSuccess }
      | some m =>
        if s.streamList.any (·.usesVoice m.handle) || s.adaptUses ring m.handle || s.openUses ring m.handle then s.complete ring d { status := stModelInUse }
        else (s.evict m).complete ring d { status := stSuccess })

/-! ### SESSION_CLOSE (01 R39, 13 R403) -/

/-- SESSION_CLOSE: models evicted, final record and receipt written, keys erased, the ring unbound (12 R387, 13 R403). -/
def execSessionClose (ring seq : Nat) (s : State) : Host.Outcome State Fault Refusal :=
  .next (
    match s.desc ring seq with
    | none => s
    | some d =>
      if d.opcode != 2 || !s.mayStart ring d || (s.ring ring).linkLost then s else
      if s.streamList.any (fun x => x.session == ring && x.phase != .closed) || (s.ring ring).accepted.any (fun e => e.seq != seq) then
        s.complete ring d { status := stSessionNotEmpty }
      else
        let s := ((s.models.map (·.2)).filter (·.session == ring)).foldl State.evict s
        let s := writeSessionRecord 3 ring s
        let s := writeReceipt ring 2 0 [] [] s
        let t := (tabGet s.tallies ring).getD ⟨[], [], none⟩
        let s := { s with
          sessions := tabErase s.sessions ring
          tallies := tabSet s.tallies ring { t with closed := some s.tb.frame } }
        (s.setRing ring { s.ring ring with state := .unbound }).complete ring d { status := stSuccess })

/-! ### MODEL_LOAD (13 R404, R405; 16 R507, R508) -/

/-- Bytes of a list entry: address, length, reserved (13 R405). -/
def listEntry (list : List Byte) (i : Nat) : Nat × Nat × Bool := (num list (16 * i) 8, num list (16 * i + 8) 4, zeroAt list (16 * i + 12) 4)

/-- DETAIL of BAD_BUFFER for a buffer list, none if it is good (13 R405). -/
def listReason (count wrapped : Nat) (list : List Byte) : Option Nat :=
  let es := (List.range count).map (listEntry list)
  let ok (i : Nat) (e : Nat × Nat × Bool) : Bool := e.1 % 4096 = 0 && (e.2.1 % 4096 = 0 || i + 1 = count) && e.2.2
  if !((List.range count).all fun i => ok i (es.getD i (0, 0, true))) then some 0x08
  else if (es.map (·.2.1)).sum != wrapped then some 0x14
  else none

/-- The key K_W of a wrapped image whose header Proof accepts (16 R507, R508). -/
def wrapKey (s : State) (w : List Byte) : Option (List Byte) :=
  let kind := num w 4 1
  let target := if kind = 0 then s.part.serial.toNat else s.ihx.folioId.toNat
  let epoch := if kind = 0 then 0 else s.groupEpoch
  if num w 0 4 = 0x4B575250 && kind ≤ 1 && zeroAt w 5 1 && num w 6 2 = epoch && num w 8 8 = target && zeroAt w 0x50 48
      && num w 0x48 8 + 144 = w.length then
    (if kind = 0 then some s.kak else s.proof.gk).map fun k =>
      digest32 (label "UVK-WRAP" ++ Config.x448 k (bytesAt w 0x10 56) ++ bytesAt w 0 0x50)
  else none

/-- The clear image of a wrapped one, if its tag verifies (16 R507). -/
def unwrap (w key : List Byte) : Option (List Byte) :=
  let clear := num w 0x48 8
  gcmOpen key (zeros 12) (bytesAt w 0 128) (bytesAt w 128 clear) (bytesAt w (128 + clear) 16)

/-- The next handle: increasing modulo 2²⁰, loaded values skipped (13 R406). -/
def State.newHandle (s : State) : Option Nat :=
  ((List.range (s.models.length + 1)).map fun i => (s.nextHandle + i) % 1048576).find? fun h => (s.model h).isNone

/-- MiB of pinned weight images with one more (10 R315, R322). -/
def State.pinRoom (s : State) (image : List Byte) : Bool :=
  s.mem.pinCap = 0xFFFF
    || ((s.models.filter fun m => m.2.cls == 2).map (fun m => imgWeightBytes m.2.image)).sum + imgWeightBytes image
        ≤ 1048576 * s.mem.pinCap

/-- A clear image enters the voice library under a new handle (10 R305, 13 R406). -/
def State.addModel (s : State) (sess : Nat) (image : List Byte) (cls : Nat) : Option (State × Model) :=
  match s.newHandle, s.poolTake (ceilDiv image.length 2097152) with
  | some h, some es =>
    let m : Model := ⟨h, sess, image, weightDigest image, cls, none, false, .cold, 0, s.tb.frameOrd⟩
    some (({ s with
      nextHandle := (h + 1) % 1048576
      mem := { s.mem with poolUsed := s.mem.poolUsed ++ es.map fun e => (h, e) } }).setModel m, m)
  | _, _ => none

/-- A loaded model's class: Pinned needs the policy, the cap, a share and room; else it is Auto (10 R315, R316). -/
def State.loadClassed (s : State) (ring : Nat) (d : Desc) (image : List Byte) (cls : Nat) : State :=
  let pin := cls = 2 && s.mem.policy.allowPin && s.pinRoom image
  let granted := if cls = 2 && !pin then 1 else cls
  match s.addModel ring image granted with
  | none => s.complete ring d { status := stExhausted, count := d.wrappedBytes }
  | some (s, m) =>
    if granted = 2 then
      match s.startPromotion m with
      | some s => s.modDesc ring d.seq fun d => { d with started := true, link := m.handle + 1 }
      | none => finishLoad ring d { m with cls := 1 } (s.setModel { m with cls := 1 })
    else finishLoad ring d m s

/-- MODEL_LOAD, with the buffer list and the wrapped image (13 R400, R404, R405; 16 R507, R508). A Pinned load completes with its
promotion (10 R315); its image waits its turn at the host Tracer (09 R282). -/
def execModelLoad (ring seq : Nat) (list image : List Byte) (s : State) : Host.Outcome State Fault Refusal :=
  .next (
    match s.desc ring seq with
    | none => s
    | some d =>
      if d.opcode != 3 || !s.mayStart ring d || (s.ring ring).linkLost
          || !s.tracerServes (s.ring ring).port (s.imageXfer ring d) then s else
      let list := bytesAt list 0 (16 * d.listCount)
      let port := (s.ring ring).port
      let s := (s.bump (0x100 + port) (16 * d.listCount)).charge ring none { Account.zero with ramokIn := 16 * d.listCount }
      match listReason d.listCount d.wrappedBytes list with
      | some off => s.complete ring d { status := stBadBuffer, detail := off }
      | none =>
        let w := bytesAt image 0 d.wrappedBytes
        let s := ((s.bump (0x100 + port) d.wrappedBytes).bump 0x240 d.wrappedBytes).charge ring none
          { Account.zero with ramokIn := d.wrappedBytes }
        match wrapKey s w with
        | none => s.complete ring d { status := stAuthFailed, count := d.wrappedBytes }
        | some key =>
          match unwrap w key with
          | none => (s.bump 0x241 1).complete ring d { status := stAuthFailed, count := d.wrappedBytes }
          | some m =>
            match imageReason s m with
            | some reason => s.complete ring d { status := stGraphRejected, detail := reason, count := d.wrappedBytes }
            | none => s.loadClassed ring d m (if d.cls = 3 then s.mem.policy.defaultClass else d.cls))

end Sys2Proof.Machine
end

