-- ==== Sys2Proof/Machine/Streams.lean ====
section
/-! DEFINITION. Streams and their descriptors (01 R26 to R37, 12 R384 R387 R394 R395, 13 R407 to R417): STREAM_OPEN, STREAM_CTRL,
FEATURE_PUSH, FEATURE_PACKET, FEATURE_PUSH_COMMIT, STREAM_CLOSE. -/

namespace Sys2Proof.Machine

open Sys2Proof

/-! ### STREAM_OPEN (13 R407) -/

/-- A stream in Idle with every layer and the head in its initial state (01 R36, 06 R196). -/
def freshStream (s : State) (id sess : Nat) (m : Model) (rate : Nat) (ordinal : Nat) (seed : DWord) (key : Word) : Stream where
  id := id
  session := sess
  handle := m.handle
  voice := m.handle
  season := s.tb.season
  rate := rate
  toHost := true
  toLine := false
  keep := false
  fill := false
  dither := false
  lineFill := false
  fillNext := []
  line := 0
  slot := 0
  seed := seed
  key := key
  ordinal := ordinal
  nextSeq := 0
  seqWrap := 0
  pulls := 0
  phase := .idle
  job := noJob
  unit := 0
  ctx := 0
  records := []
  covered := 0
  controls := []
  nextPlan := 0
  closedChunk := none
  hatchChunk := none
  burinChunks := []
  pendingReset := []
  handed := 0
  headAt := 0
  current := none
  staged := []
  outBuf := []
  lineBuf := []
  popped := 0
  audio := []
  replay := []
  lastOvr := []
  dueShadows := []
  paces := []
  pieces := []
  delivered := 0
  ends := []
  hist := []
  lastWord := 0
  everOut := false
  layers := initialLayers m.image
  head := initialHead m.image
  mirror := (0, initialHead m.image)
  shadow := none
  second := none
  secondCores := []
  restart := none
  budget := none
  period := none
  recorded := 0
  skip := 0
  gap := 0
  lost := 0
  playing := none
  played := none
  transferring := false
  faulted := false
  missed := false
  left := false

/-- The stream a STREAM_OPEN opens (13 R407). -/
def openedStream (s : State) (id sess : Nat) (m : Model) (d : Desc) (ordinal : Nat) : Stream :=
  { freshStream s id sess m d.rate ordinal (BitVec.ofNat 64 d.seed) (BitVec.ofNat 32 d.streamKey) with
    toHost := d.dest % 2 = 1
    toLine := 2 ≤ d.dest
    keep := d.sflag 2
    fill := d.sflag 3
    dither := d.sflag 4
    lineFill := d.sflag 5
    line := d.line
    slot := d.lslot }

/-- A STREAM_OPEN gives back the slot it has held since acceptance (14 R441). -/
def State.dropSlot (s : State) (d : Desc) : State :=
  match d.lineSlot with
  | none => s
  | some (l, k) => s.setDir l 0 { s.dir l 0 with holders := tabErase (s.dir l 0).holders k }

/-- A stream is admitted at a place: its session's ordinal, its row, its slot (16 R505, 14 R441). -/
def State.openAt (s : State) (ring : Nat) (a : Ask) (p : Place) (x : Stream) : State :=
  let s := match s.session ring with
    | some y => s.setSession ring { y with ordinal := y.ordinal + 1 }
    | none => s
  let s := (s.commitPlace a p x).bump 0x200 1
  let s := match s.model a.handle with
    | some m => s.setModel { m with lastUsed := s.tb.frameOrd }
    | none => s
  if x.toLine then s.setDir x.line 0 { s.dir x.line 0 with holders := tabSet (s.dir x.line 0).holders x.slot x.id } else s

/-- STREAM_OPEN: metered stop, then admission, then the stream opens in Idle; it waits while a Season change is pending
(02 R44 R62, 12 R385, 13 R400 R407). Where an earlier descriptor has evicted the voice between acceptance and start, it completes with
ADMISSION_REFUSED and DETAIL 1, and where the voice has been damaged since, with MODEL_DAMAGED (10 R310): the spec names no status for
either (log entry 40, DESIGN CHOICE). -/
def execStreamOpen (ring seq : Nat) (s : State) : Host.Outcome State Fault Refusal :=
  .next (
    match s.desc ring seq with
    | none => s
    | some d =>
      if d.opcode != 5 || !(d.started || s.mayStart ring d) then s else
      if s.tb.pendingCfg.isSome then s.modDesc ring seq fun d => { d with started := true } else
      if (s.model d.handle).any (·.damaged) then (s.dropSlot d).complete ring d { status := stModelDamaged } else
      if s.alm.meteredStop then (s.dropSlot d).complete ring d { status := stMeteredStop } else
      let a : Ask := ⟨ring, d.handle, d.season, d.rate, d.sflag 2, d.sflag 3, none, [d.handle]⟩
      match s.admitAsk a, s.model d.handle with
      | .ok p, some m =>
        let id := (freeKey s.streams 16384 0).getD 0
        let x := openedStream s id ring m d (((s.session ring).map (·.ordinal)).getD 0)
        (s.openAt ring a p x).complete ring d { status := stSuccess, result := id }
      | .error e, _ =>
        (((s.dropSlot d).bump 0x201 1).writeTrace 0x82 (srcOf 8 ring) e).complete ring d { status := stAdmissionRefused, detail := e }
      | _, none => (s.dropSlot d).complete ring d { status := stAdmissionRefused, detail := 1 })

/-- STREAM_CTRL completes once the plan close at which it applies has passed (12 R387, 13 R408). -/
def execStreamCtrl (ring seq : Nat) (s : State) : Host.Outcome State Fault Refusal :=
  .next (
    match s.desc ring seq with
    | some d => if d.opcode = 6 && d.committed then s.complete ring d { status := stSuccess } else s
    | none => s)

/-! ### Feature data (13 R411 to R417) -/

/-- FEATURE_PUSHes of a stream that have not completed, oldest first. -/
def State.pushes (s : State) (x : Stream) : List Desc := (s.ring x.session).accepted.filter fun d => d.opcode = 7 && actsOn x d

/-- FEATURE_PUSH: the fetch starts when every earlier push of the stream has been taken and the queue has room for the whole
buffer (10 R302, 12 R384). -/
def execFeaturePush (ring seq : Nat) (s : State) : Host.Outcome State Fault Refusal :=
  .next (
    match s.desc ring seq with
    | none => s
    | some d =>
      match s.stream d.stream with
      | none => s
      | some x =>
        let port := (s.ring ring).port
        if d.opcode = 7 && actsOn x d && x.session = ring && !d.started && !d.aborted && !(s.ring ring).linkLost
            && (s.pushes x).all (fun e => d.seq ≤ e.seq || e.closed) && 128 * x.records.length + d.bufBytes ≤ 262144 then
          (((s.modDesc ring seq fun d => { d with started := true }).issueHost ring seq (s.featureDue x)).bump (0x100 + port) d.bufBytes).charge ring (some x.job)
            { Account.zero with ramokIn := d.bufBytes }
        else s)

/-- The fields of a packet that must be zero (13 R416 step 4). -/
def tagFieldsOk (t : Tag) (c : List Byte) : Bool :=
  t.stream < 16384 && t.tflags < 16
    && (t.tflags != 0 || (t.sample = 0 && t.records != 0))
    && (t.tflags.testBit 1 || t.endDelta = 0)
    && (!t.hasControl || (
      num c 0 4 < 1048576 && (t.tflags.testBit 2 || num c 0 4 = 0) && zeroAt c 5 3 && zeroAt c 0x18 8
        && (t.tflags.testBit 3 || (num c 4 1 = 0 && zeroAt c 8 16))
        && (List.range 8).all fun j => (num c 4 1).testBit j || num c (8 + 2 * j) 2 = 0))

/-- Controls a packet brings (13 R413 to R415). -/
def controlsOf (t : Tag) (c : List Byte) (seq : Nat) : List Control :=
  (if t.tflags &&& 13 != 0 then
    [(⟨t.sample, t.tflags &&& 13, num c 0 4, c.getD 4 0, (List.range 8).map fun j => BitVec.ofNat 16 (num c (8 + 2 * j) 2), seq⟩ : Control)]
  else [])
    ++ (if t.tflags.testBit 1 then [(⟨t.endSample, 2, 0, 0, [], seq⟩ : Control)] else [])

/-- Whether a voice switch meets R32: same graph, loaded by the session, not damaged (13 R416 step 7). -/
def State.switchOk (s : State) (x : Stream) (h : Nat) : Bool :=
  match s.model h, s.model x.handle with
  | some m, some o => m.session == x.session && imgHash m.image == imgHash o.image && !m.damaged
  | _, _ => false

/-- Steps 3 to 8 for an authentic packet: status and DETAIL of the first that fails (13 R416). -/
def packetReason (s : State) (x : Stream) (t : Tag) (c : List Byte) (cs : List Control) : Option (Nat × Nat) :=
  let positions := ((x.controls ++ cs).map (·.sample)).eraseDups
  if t.stream % 16384 != x.id then some (stTagInvalid, 2)
  else if !tagFieldsOk t c then some (stTagInvalid, 3)
  else if t.seq != x.nextSeq.toNat then some (stSequence, 0)
  else if t.tflags != 0 && t.sample < x.nextPlan then some (stTagInvalid, 4)
  else if t.tflags.testBit 2 && !s.switchOk x (num c 0 4) then some (stTagInvalid, 5)
  else if 4 < positions.length then some (stTagInvalid, 6)
  else none

/-- The feature records of a clear payload, from the stream's next uncovered sample on (13 R412). -/
def recordsOf (seq : Nat) : (n first : Nat) → List Byte → List FeatRec
  | 0, _, _ => []
  | n + 1, first, b => ⟨first, num b 0 4, b.take 128, seq, false⟩ :: recordsOf seq n (first + num b 0 4) (b.drop 128)

/-- A stream after an accepted packet (13 R412 to R415). -/
def Stream.take (x : Stream) (t : Tag) (cs : List Control) (rs : List FeatRec) : Stream :=
  { x with
    records := x.records ++ rs
    covered := x.covered + (rs.map (·.span)).sum
    controls := x.controls ++ cs
    nextSeq := BitVec.ofNat 32 (t.seq + 1)
    seqWrap := if t.seq = 0xFFFFFFFF then x.seqWrap + 1 else x.seqWrap }

/-- A push that a failed packet ends, with the packets accepted so far (13 R417). -/
def failPush (ring : Nat) (d : Desc) (status detail : Nat) (s : State) : State :=
  s.complete ring d { status := status, detail := detail, result := d.packets }

/-- FEATURE_PACKET: Proof takes the next packet of a push, which the host Tracer serves in its turn (09 R282 R284, 13 R412 to R417). -/
def execFeaturePacket (ring seq : Nat) (bytes : List Byte) (s : State) : Host.Outcome State Fault Refusal :=
  .next (
    match s.desc ring seq with
    | none => s
    | some d =>
      match s.stream d.stream with
      | none => s
      | some x =>
        if d.opcode != 7 || !actsOn x d || x.session != ring || !d.started || d.closed || d.aborted || (x.transferring && x.left)
            || !s.tracerServes (s.ring ring).port (s.featureXfer x d) then s else
        let t := tagOf (bytesAt bytes 0 16)
        if d.bufBytes < d.offset + t.length then failPush ring d stTagInvalid 1 s else
        let b := bytesAt bytes 0 t.length
        let s := s.bump 0x240 t.length
        match gcmOpen (s.keyS ring) (nonceOf 1 x.ordinal (t.seq + 4294967296 * x.seqWrap)) (bytesAt b 0 16)
            (bytesAt b 16 (t.length - 32)) (bytesAt b (t.length - 16) 16) with
        | none => failPush ring d stAuthFailed 0 (s.bump 0x241 1)
        | some p =>
          let c := bytesAt p 0 32
          let cs := controlsOf t c seq
          match packetReason s x t c cs with
          | some r => failPush ring d r.1 r.2 s
          | none =>
            let rs := recordsOf seq t.records x.covered (p.drop (if t.hasControl then 32 else 0))
            let s := s.setStream (x.take t cs rs)
            (s.issueHost ring seq (s.featureDue (x.take t cs rs))).modDesc ring seq fun d =>
              { d with
                packets := d.packets + 1
                offset := d.offset + t.length
                total := d.total + (rs.map (·.span)).sum
                ctrls := d.ctrls + cs.length
                closed := d.offset + t.length = d.bufBytes })

/-- Whether a push has committed: all taken, every sample of its records handed off, every control applied (12 R387). -/
def pushCommitted (x : Stream) (d : Desc) : Bool :=
  d.closed && !d.aborted && x.records.all (fun r => r.seq != d.seq || r.first + r.span ≤ x.handed)
    && x.controls.all (fun c => c.seq != d.seq)

/-- Whether an aborted push can complete: its records have left, and what was planned from them is handed off (12 R395). -/
def pushStopped (x : Stream) (d : Desc) : Bool :=
  d.aborted && d.committed && x.records.all fun r => r.seq != d.seq || r.first + r.span ≤ x.handed

/-- FEATURE_PUSH_COMMIT (12 R387, R395; 13 R426): pushes of a stream complete in acceptance order. -/
def execFeaturePushCommit (ring seq : Nat) (s : State) : Host.Outcome State Fault Refusal :=
  .next (
    match s.desc ring seq with
    | none => s
    | some d =>
      match s.stream d.stream with
      | none => s
      | some x =>
        if d.opcode = 7 && actsOn x d && x.session = ring && ((s.pushes x).head?.map (·.seq)) == some seq
            && (pushCommitted x d || pushStopped x d) then
          s.complete ring d {
            status := if d.aborted then stAborted else stSuccess
            result := d.packets
            count := d.done
            win := d.win }
        else s)

/-! ### STREAM_CLOSE (01 R29 R36 R37, 13 R409) -/

/-- A push that is left when its stream is Closed: every sample is handed off, and a control beyond the last sample has nothing to
act on (log entry 27). -/
def closePush (ring : Nat) (s : State) (d : Desc) : State :=
  s.complete ring d { status := if d.aborted then stAborted else stSuccess, result := d.packets, count := d.done, win := d.win }

/-- STREAM_CLOSE completes when the stream is Closed and its AUDIO_PULLs have completed; its budget and its ID are free again
(01 R29, 12 R387). Host audio that no accepted AUDIO_PULL takes does not hold the stream open and is dropped with it: the spec does not say
what becomes of it (01 R37; log entry 41, DESIGN CHOICE). -/
def execStreamClose (ring seq : Nat) (s : State) : Host.Outcome State Fault Refusal :=
  .next (
    match s.desc ring seq with
    | none => s
    | some d =>
      match s.stream d.stream with
      | none => s
      | some x =>
        if d.opcode = 9 && x.session = ring && x.phase == .closed && (s.pulls x).isEmpty
            && (!x.toLine || (x.playing.isNone && x.played.isNone)) then
          let s := (s.pushes x).foldl (closePush ring) s
          let s := match s.model x.handle with
            | some m => s.setModel { m with lastUsed := s.tb.frameOrd }
            | none => s
          ((s.releaseStream x).eraseStream x.id).complete ring d { status := stSuccess, count := x.handed }
        else s)

end Sys2Proof.Machine
end

