-- ==== Sys2Proof/Machine/Abort.lean ====
section
/-! DEFINITION. ABORT (12 R394, R395; 13 R423; 15 R491). -/

namespace Sys2Proof.Machine

open Sys2Proof

/-- RESULT of an ABORT: the target's slot and GEN (13 R426). -/
def abortResult (d : Desc) : Nat := d.targetSlot % 4096 + d.targetGen.toNat * 65536

/-- An ABORT's own completion. -/
def finishAbort (ring : Nat) (d : Desc) (status : Nat) (s : State) : State :=
  s.complete ring d { status := status, result := abortResult d }

/-- Opcodes that cannot be aborted (12 R394). -/
def notAbortable (op : Nat) : Bool := op = 1 || op = 2 || op = 4 || op = 9 || op = 0xD

/-- Whether an accepted target has committed although its record is not written yet (12 R387, R394). -/
def State.committedNow (s : State) (ring : Nat) (t : Desc) : Bool :=
  match t.opcode with
  | 6 => t.committed
  | 7 => (s.stream t.stream).any fun x => pushCommitted x t
  | 8 => (s.stream t.link).any fun x => t.started && pullDone x t
  | 0xB => t.committed
  | 0xC => t.committed
  | 0xE => (s.ring ring).held.isEmpty && (s.ring ring).accepted.all fun e => t.seq ≤ e.seq
  | 0xF => true
  | _ => false

/-- The Transfer of a descriptor. -/
def State.transferOf (s : State) (ring seq : Nat) : Option Transfer :=
  s.ihx.transfers.find? fun t => t.ring == ring && t.seq == seq

/-- A stream that a Transfer was bringing in gives back what admission gave it (15 R490). -/
def State.dropArrival (s : State) (t : Transfer) : State :=
  if t.outgoing then s else
  match s.stream t.stream with
  | some x => if x.transferring then (s.releaseStream x).eraseStream x.id else s
  | none => s

/-- An aborted Transfer: the target completes ABORTED, its partner is told DETAIL 9 (15 R491). -/
def abortTransfer (ring : Nat) (d : Desc) (s : State) : State :=
  let s := match s.transferOf ring d.seq with
    | some t =>
      let s := (s.dropArrival t).dropTransfer t.id
      let s := s.send (s.portTo t.peer) 9 [t.id.toNat, 9] []
      match s.stream t.stream with
      | some x => if t.outgoing then s.setStream (x.stays s.tb.frameOrd t) else s
      | none => s
    | none =>
      match s.stream d.stream with
      | some x => if d.opcode = 0xB then s.setStream { x with transferring := false } else s
      | none => s
  s.complete ring d { status := stAborted }

/-- A MODEL_LOAD that waits for its promotion is undone: its bytes are zeroed (12 R395). -/
def abortLoad (ring : Nat) (d : Desc) (s : State) : State :=
  if d.started then
    let s := match s.model (d.link - 1) with
      | some m => s.evict m
      | none => s
    s.complete ring d { status := stAborted, count := d.wrappedBytes }
  else s.complete ring d { status := stAborted }

/-- An ADAPT_JOB is torn down from its state, with a final record (11 R351, 12 R395). -/
def abortAdapt (ring : Nat) (d : Desc) (s : State) : State :=
  match (s.jobs.map (·.2)).find? fun j => j.kind == .adapt ring d.seq with
  | some j => (s.endJob j.id false).complete ring d { status := stAborted, count := j.optStep }
  | none => s.complete ring d { status := stAborted }

/-- An aborted AUDIO_PULL: pieces are written whole, so its writing stops where it stands; it completes behind the earlier ones of its stream
(12 R384, R395). -/
def abortPull (ring : Nat) (t : Desc) (s : State) : State :=
  match s.stream t.link with
  | some x => endAborted x.id (s.pulls x).length (s.modDesc ring t.seq fun d => { d with aborted := true })
  | none => s.complete ring t { status := stAborted }

/-- An aborted FEATURE_PUSH: its records leave at the next plan close; without packets it is over, behind the earlier pushes of its stream
(12 R384, R395). -/
def abortPush (ring : Nat) (t : Desc) (s : State) : State :=
  let first := (s.stream t.stream).all fun x => (s.pushes x).all fun e => t.seq ≤ e.seq
  if t.packets = 0 && first then s.complete ring t { status := stAborted }
  else s.modDesc ring t.seq fun d => { d with aborted := true, closed := true, committed := d.packets = 0 }

/-- Stops an accepted target that has not committed (12 R395). -/
def stopTarget (ring : Nat) (t : Desc) (s : State) : State :=
  match t.opcode with
  | 7 => abortPush ring t s
  | 8 => abortPull ring t s
  | 3 => abortLoad ring t s
  | 5 => (s.dropSlot t).complete ring t { status := stAborted }
  | 0xA => abortAdapt ring t s
  | 0xB | 0xC => abortTransfer ring t s
  | _ => s.complete ring t { status := stAborted }

/-- An ABORT observed at its target: the first row of R394 that applies (12 R394). A row whose record must follow the target's is
kept in the descriptor, with the status in `total` and the target in `link`. -/
def observeAbort (ring : Nat) (d : Desc) (s : State) : State :=
  let wait (status seq : Nat) (s : State) : State :=
    s.modDesc ring d.seq fun e => { e with started := true, total := status, link := seq }
  match tabGet (s.ring ring).slots d.targetSlot with
  | none => finishAbort ring d stNotFound s
  | some (gen, op, seq) =>
    if gen != d.targetGen then finishAbort ring d stNotFound s
    else if notAbortable op then finishAbort ring d stNotAbortable s
    else match s.desc ring seq with
    | none => finishAbort ring d stAlreadyDone s
    | some t =>
      if t.aborted || s.committedNow ring t then wait stAlreadyDone seq s
      else
        let s := stopTarget ring t s
        if (s.desc ring seq).isNone then finishAbort ring d stSuccess s else wait stSuccess seq s

/-- ABORT: observed at its target, and its record written after the target's (12 R394). -/
def execAbort (ring seq : Nat) (s : State) : Host.Outcome State Fault Refusal :=
  .next (
    match s.desc ring seq with
    | none => s
    | some d =>
      if d.opcode != 0xD then s
      else if !d.started then observeAbort ring d s
      else if (s.desc ring d.link).isNone then finishAbort ring d d.total s
      else s)

end Sys2Proof.Machine
end

