-- ==== Sys2Proof/Machine/Links.lean ====
section
/-! DEFINITION. RAMOK_LINK_TRAIN, RAMOK_LINK_LOST (03 R77 R78, 12 R361 R392, 19 R590). -/

namespace Sys2Proof.Machine

open Sys2Proof

/-- CAP_HOST_PATH after a change of a port, with the alarm of R78 if it falls below the admitted load (03 R77, R78). -/
def updateHostPath (port : Nat) (s : State) : State :=
  if s.boot.phase == .ready || s.boot.phase == .faulted then
    let s := { s with cap := { s.cap with hostPath := s.hostPath } }
    if s.liveHost * 48000 ≤ s.cap.hostPath * 100000000 * s.frameTicks then s else s.raiseAlarm 0x04 (srcOf 4 port) s.cap.hostPath
  else s

/-- RAMOK_LINK_TRAIN: a port trains or retrains with 8 or 4 lanes behind an adapter at PCIe generation 4, 5 or 6 (`gen` 1 to 3);
a training that follows an adapter reset stops the port's rings (12 R361, R392). With 0 lanes the link is down and does not train. -/
def execRamokLinkTrain (port lanes gen : Nat) (adapterReset : Bool) (s : State) : Host.Outcome State Fault Refusal :=
  .next (
    if s.boot.phase == .reset || 2 ≤ port then s
    else if lanes = 0 then updateHostPath port (s.setPort port { s.port port with trained := false, lanes := 0, gen := 0 })
    else if (lanes != 8 && lanes != 4) || gen = 0 || 3 < gen then s else
    let p := s.port port
    let p := { p with
      trained := true
      lanes := lanes
      gen := gen
      retrains := if p.everUp then satAdd p.retrains 1 255 else p.retrains
      everUp := true }
    let s := s.setPort port p
    let s := if adapterReset then stopRings port s else s
    updateHostPath port s)

/-- RAMOK_LINK_LOST: a trained link has been down for more than 100 ms (12 R392). -/
def execRamokLinkLost (port : Nat) (s : State) : Host.Outcome State Fault Refusal :=
  .next (
    let p := s.port port
    if p.everUp && s.boot.phase != .reset then
      updateHostPath port (stopRings port (s.setPort port { p with trained := false, lanes := 0, gen := 0 }))
    else s)

end Sys2Proof.Machine
end

