-- ==== Sys2Proof/Machine/Strokes.lean ====
section
/-! DEFINITION. What a stroke's operations do to its core's Plate and accumulator file and to the rows' carried state (03 R81 to R88,
04 R112 to R129, 05 R165 to R177, 06 R178 to R195, 08 R242 to R252). -/

namespace Sys2Proof

open Sys2Proof.Machine

/-! ### Small operations on the operands of strokes -/

/-- The place `n` bytes on. -/
def Loc.add (l : Loc) (n : Nat) : Loc := ⟨l.window, l.off + n⟩

/-- First step and steps of a span of a chunk of n steps (06 R187). -/
def Span.range (p : Span) (n : Nat) : Nat × Nat :=
  match p with
  | .whole => (0, n)
  | .first => (0, n / 2)
  | .second => (n / 2, n - n / 2)

/-- How many operands an operation takes. -/
def VecOp.operands (op : VecOp) : Nat :=
  match op with
  | .fma | .select => 3
  | .exp | .log | .recip | .rsqrt | .sin | .cos => 1
  | _ => 2

/-- Ranges an operand row occupies. -/
def Operand.touch (o : Operand) : Loc × Nat × Bool := (o.loc, tensorBytes o.fmt o.rows o.len, false)

end Sys2Proof

namespace Sys2Proof.Machine

open Sys2Proof

/-- What an operation writes: places, accumulator words of the job's cores, carried state by row and layer, conditioning by row;
whether it sets the range flag. -/
structure Effect where
  plate  : List (Loc × List Byte)
  acc    : List (Nat × Nat × Word)
  layers : List (Nat × Nat × List Byte)
  cond   : List (Nat × List Byte)
  flag   : Bool
  deriving DecidableEq, Repr

/-- An operation that writes nothing. -/
def Effect.none : Effect := ⟨[], [], [], [], false⟩

/-- Ranges an operation touches, and whether it writes them: place, length, write. -/
abbrev Touch := List (Loc × Nat × Bool)

/-- What an operation of a job's stroke reads on one core. -/
structure View where
  s    : State
  j    : Job
  core : Nat
  handle : Nat   -- voice whose weights the operation takes

/-- What a job's operations read on a core, before their coordinates name a voice. -/
def State.view (s : State) (j : Job) (core : Nat) : View := ⟨s, j, core, j.handle⟩

/-- The clear image of a voice. -/
def View.image (v : View) (handle : Nat) : List Byte := ((v.s.model handle).map (·.image)).getD []

/-- The job's window on the shared weight regions of a number (04 R129). -/
def View.shared (v : View) (window : Nat) : Option PlateWindow := v.j.shared[window - 8]?

/-- `n` bytes at a place; weights are those of a voice, and window 7 is the stroke code (04 R129, R141; log entry 28). -/
def View.bytesOf (v : View) (handle : Nat) (l : Loc) (n : Nat) : List Byte :=
  if l.window < 7 then memBytes v.s.hatch.plate (plateAt v.core v.j.id l.window l.off) n
  else if l.window = 7 then bytesAt (strokeImage (v.image v.j.handle)) l.off n
  else if l.window < 16 then bytesAt (weightImage (v.image handle)) (((v.shared l.window).map (·.base)).getD 0 + l.off) n
  else (List.range n).map fun i => v.s.hatch.accByte v.core v.j.id (l.off + i)

/-- `n` bytes at a place, the weights those of the operation's voice. -/
def View.bytes (v : View) (l : Loc) (n : Nat) : List Byte := v.bytesOf v.handle l n
/-- Word `i` at a place. -/
def View.word (v : View) (l : Loc) (i : Nat) : Word := BitVec.ofNat 32 (le (v.bytes (l.add (4 * i)) 4))
/-- BF16 item `i` at a place. -/
def View.half (v : View) (l : Loc) (i : Nat) : Half := BitVec.ofNat 16 (le (v.bytes (l.add (2 * i)) 2))
/-- A word of the accumulator file. -/
def View.accWord (v : View) (i : Nat) : Word := v.word ⟨16, 0⟩ i

/-- Words as little-endian bytes. -/
def wordBytes (ws : List Word) : List Byte := (ws.map fun w => leBytes 4 w.toNat).flatten

/-- An operation that writes one place only. -/
def plateEffect (dst : Loc) (b : List Byte) (flag : Bool) : Effect := { Effect.none with plate := [(dst, b)], flag := flag }

/-- An operation over words with range flags. -/
def wordsEffect (dst : Loc) (ws : List FW) : Effect := plateEffect dst (wordBytes (ws.map (·.1))) (ws.any (·.2))

/-! ### Rows, layers and coordinates (03 R80 to R82, 06 R187, 08 R241 to R243) -/

/-- A row of the job in the running sequence of strokes, with its chunk. -/
def View.row (v : View) (r : Nat) : Option (Stream × Chunk) :=
  ((v.j.rows[r]?).bind v.s.stream).bind fun x =>
    (v.j.work.find? (·.1 == x.id)).bind fun w =>
      ((x.burinChunks ++ x.hatchChunk.toList).find? (·.first == w.2)).map fun c => (x, c)

/-- A layer of the job's graph. -/
def View.layer (v : View) (id : Nat) : Option Layer := (imgLayerTable (v.image v.j.handle)).find? (·.id == id)

/-- The first step of a layer that begins at or after a sample (06 R191). -/
def Layer.stepAt (l : Layer) (rate n : Nat) : Nat := ceilDiv (n * l.stepRate) (rateHz rate)

/-- The first step of a chunk, and the number of its steps (06 R187). -/
def chunkSteps (l : Layer) (rate : Nat) (c : Chunk) : Nat × Nat :=
  (l.stepAt rate c.first, l.stepAt rate (c.first + c.count) - l.stepAt rate c.first)

/-- The voice in force for a layer's step: a switch at sample n takes effect at the first step that begins at or after n (01 R32, 06
R191, R195). -/
def Stream.voiceOf (x : Stream) (l : Layer) (step : Nat) : Nat :=
  let vs := ((x.burinChunks ++ x.hatchChunk.toList).map (·.voices)).flatten
  (((vs.filter fun p => l.stepAt x.rate p.1 ≤ step).getLast?).map (·.2)).getD x.voice

/-- The voice whose weights and constants an operation at these coordinates takes. -/
def View.voice (v : View) (c : Coord) : Nat :=
  match v.row c.row, v.layer c.layer with
  | some (x, k), some l => x.voiceOf l ((chunkSteps l x.rate k).1 + c.step)
  | _, _ => v.j.handle

/-- The view of an operation at these coordinates: it takes the weights of the voice in force there (01 R31, R33). -/
def View.under (v : View) (c : Coord) : View := { v with handle := v.voice c }

/-- The row's words of the reset map of a chunk: bit b of word w flags the sample at offset 32w + b (06 R193). -/
def resetWords (first count : Nat) (flagged : List Nat) : List Word :=
  (List.range (ceilDiv count 32)).map fun w => BitVec.ofNat 32 (wordOfBits fun b => flagged.contains (first + 32 * w + b))

/-- The samples that a chunk's reset map flags. -/
def Chunk.flagged (c : Chunk) : List Nat :=
  ((List.range c.count).filter fun i => (c.resets.getD (i / 32) 0).getLsbD (i % 32)).map (c.first + ·)

/-- A job's reset map over the chunks of its rows: row x from word x × ⌈S ÷ 32⌉ on (06 R193). Its Plate holds two: of the chunks that the
Hatch layers read in this Frame, and of those that the heads read. -/
def State.resetMap (s : State) (j : Job) (chunk : Stream → Option Chunk) : List Word :=
  let n := ceilDiv (s.frameSamples j.rate) 32
  j.rows.flatMap fun id =>
    let ws := (((s.stream id).bind chunk).map (·.resets)).getD []
    (List.range n).map fun w => ws.getD w 0

/-- Seed, key and step of the draws at these coordinates: the row's stream and the layer's step since STREAM_OPEN, or the job and its
optimiser step (03 R81, 08 R242, R243). -/
def View.drawBase (v : View) (c : Coord) : Option (DWord × Word × BitVec 48) :=
  match v.j.kind with
  | .streams =>
    match v.row c.row, v.layer c.layer with
    | some (x, k), some l => some (x.seed, x.key, BitVec.ofNat 48 ((chunkSteps l x.rate k).1 + c.step))
    | _, _ => none
  | _ => some (v.j.seed, v.j.key, BitVec.ofNat 48 v.j.optStep)

/-- The rounding of a write at these coordinates (05 R171, R172). A stream job draws for rows and layers of its running sequence alone: a
stochastic write at other coordinates has no seed and rounds to nearest, and drop-out and draws there write nothing (08 R242; log entry 41,
DESIGN CHOICE). -/
def View.rounding (v : View) (stochastic : Bool) (c : Coord) : Rounding :=
  match stochastic, v.drawBase c with
  | true, some (seed, key, step) => .stochastic seed key c.tensor step (BitVec.ofNat 16 c.offset)
  | _, _ => .nearest

/-- The draw for element i of an operation at these coordinates (08 R241, R252). -/
def View.draw (v : View) (c : Coord) (i : Nat) (data : Half) : Option Draw :=
  (v.drawBase c).map fun b => ⟨b.1, b.2.1, c.tensor, b.2.2, BitVec.ofNat 16 (c.offset + i), data⟩

/-- Steps of a row's chunk, counted from its first, at which a layer is flagged for reset (06 R191 to R194). The stream's first step takes
the initial state of the voice in force there (06 R178, R195, R196). -/
def resetSteps (l : Layer) (rate : Nat) (c : Chunk) : List Nat :=
  (if c.first = 0 then [0] else []) ++
  if l.resettable then
    (if c.pending.contains l.id then [0] else []) ++ c.flagged.map fun n => l.stepAt rate n - (chunkSteps l rate c).1
  else []

/-! ### The MAC array (03 R86, 04 R112 to R117) -/

/-- An operand row as the array reads it. -/
def View.mac (v : View) (handle : Nat) (o : Operand) : MacRow :=
  ⟨o.fmt, o.rows, o.row, v.bytesOf handle o.loc (tensorBytes o.fmt o.rows o.len)⟩

/-- Whether blocks `first` to `first + count − 1` of `total` are an aligned part (03 R86). -/
def partOk (first count total : Nat) : Bool :=
  let size := 2 ^ Nat.clog 2 count
  1 ≤ count && first + count ≤ total && first % size = 0 && (count = size || first + count = total)

/-- Blocks of a reduction axis. -/
def blocksOf (k : Nat) : Nat := ceilDiv k 32

/-! ### The Wash pipeline (04 R120 to R123) -/

/-- A row's elements as F32 words (04 R120 step 3, 05 R174). -/
def View.rowWords (v : View) (o : Operand) : List FW :=
  (decodeRow o.fmt o.rows o.row o.len (v.bytes o.loc (tensorBytes o.fmt o.rows o.len))).map fun e =>
    let r := f32Round e.value
    (r.1, r.2 || e.bad)

/-- Steps 1 and 2 of a Wash program on column i: per-column scale and bias (04 R120). -/
def View.scaleBias (v : View) (handle : Nat) (scale bias : Option Loc) (i : Nat) (x : FW) : FW :=
  let at_ (l : Loc) : FW := (BitVec.ofNat 32 (le (v.bytesOf handle (l.add (4 * i)) 4)), false)
  let x := match scale with
    | some l => fMul x (at_ l)
    | none => x
  match bias with
  | some l => fAdd x (at_ l)
  | none => x

/-- Element k, in column k mod n, after steps 1 to 5 of a Wash program (04 R120). Of a gate's pair the residual is added to the first tile's element
alone: the spec does not say which takes it (log entry 39, DESIGN CHOICE). -/
def washOne (v : View) (handle : Nat) (p : WashProg) (resid : List FW) (acc n k : Nat) : FW :=
  let i := k % n
  let x := v.scaleBias handle p.scale p.bias i (v.accWord (acc + k), false)
  let x := match p.residual with
    | some _ => fAdd x (resid.getD k (0, false))
    | none => x
  let const := bf16FW (BitVec.ofNat 16 (le (v.bytesOf handle (p.consts.add (if p.fn == .snake then 2 * i else 0)) 2)))
  let x := match p.partner with
    | some q =>
      if isGate p.fn then gate p.fn x (v.scaleBias handle q.scale q.bias i (v.accWord (q.acc + k), false)) else activation p.fn const x
    | none => activation p.fn const x
  match p.clamp with
  | some (lo, hi) => (if f32Lt x.1 lo then lo else if f32Lt hi x.1 then hi else x.1, x.2)
  | none => x

/-- Formats a residual may have, and formats the Wash output stage writes (04 R120, 05 R174). -/
def residualOk (fmt : Nat) : Bool := fmt = 2 || fmt = 6 || fmt = 8
@[inherit_doc residualOk] def washOut (fmt : Nat) : Bool :=
  fmt = 1 || fmt = 2 || fmt = 4 || fmt = 5 || fmt = 6 || fmt = 8 || fmt = 9

/-- Rows of n columns through a Wash program, written in the layer's output format with the scale that the layer declares, rounded
as its LFLAGS[3] says (04 R120 to R123, 05 R162). -/
def wash (v : View) (n rows acc : Nat) (p : WashProg) (at_ : Coord) (dst : Loc) : Effect :=
  match v.layer at_.layer with
  | none => Effect.none
  | some l =>
    let v := v.under at_
    if !washOut l.outFmt || (p.residual.any fun o => !residualOk o.fmt) then Effect.none else
    let resid := (p.residual.map fun o => (List.range rows).flatMap fun r => v.rowWords { o with row := o.row + r }).getD []
    let xs := (List.range (rows * n)).map (washOne v v.handle p resid acc n)
    let r := v.rounding l.stochastic at_
    let m (k : Nat) : Exact × Mode := (f32Value (xs.getD k (0, false)).1, modeOf r k (xs.getD k (0, false)).1)
    let out := encodeRows l.outFmt (some (BitVec.ofNat 16 (le (v.bytes p.superScale 2))))
      ((List.range rows).map fun i => (List.range n).map fun k => m (n * i + k))
    plateEffect dst out.1 (out.2 || xs.any (·.2))

/-! ### The vector unit (04 R124, R125) -/

/-- A fused multiply-add, rounded once (04 R124). -/
def fma (a b c : Word) : FW :=
  let r := f32Round (((f32Value a).mul (f32Value b)).add (f32Value c))
  (r.1, r.2 || f32Infinite a || f32Infinite b || f32Infinite c)

/-- An integer result in I32; one outside the format has no stated value (04 R124, log entry 11). -/
def intResult (x : Int) (outside : Word) : Word :=
  if -(2 : Int) ^ 31 ≤ x && x < (2 : Int) ^ 31 then BitVec.ofInt 32 x else outside

/-- An I32 shift; by 32 or more, and a right shift of a negative value, have no stated result (04 R124, log entry 11). -/
def iShift (left : Bool) (a b : Word) : Word :=
  if 32 ≤ b.toNat || (!left && a.toInt < 0) then Config.shiftOutside left a b
  else if left then a <<< b.toNat else a >>> b.toNat

/-- The word that compare writes (04 R124, log entry 11). -/
def relWord (r : Rel) (lt eq : Bool) : Word :=
  Config.truth (match r with
    | .lt => lt
    | .le => lt || eq
    | .eq => eq)

/-- The choice of select: c where the mask is the word that compare writes for a relation that does not hold, else b (04 R124, log
entry 11). -/
def selectWord (mask b c : Word) : Word := if mask == Config.truth false then c else b

/-- One element of a vector-unit operation in F32 (04 R124, R125). -/
def vecF32 (op : VecOp) (a b c : Word) : FW :=
  match op with
  | .add => fAdd (a, false) (b, false)
  | .mul => fMul (a, false) (b, false)
  | .min => let x := fFinite (a, f32Infinite b); let y := fFinite (b, f32Infinite a); if f32Lt b a then y else x
  | .max => let x := fFinite (a, f32Infinite b); let y := fFinite (b, f32Infinite a); if f32Lt a b then y else x
  | .compare r => (relWord r (f32Lt a b) ((f32Value a).num == (f32Value b).num && (f32Value a).den == (f32Value b).den), f32Infinite a || f32Infinite b)
  | .select => fFinite (selectWord a b c, false)
  | .fma => fma a b c
  | .exp => fElem .exp (a, false)
  | .log => fElem .ln (a, false)
  | .recip => let r := f32Recip a; (r.1, r.2 || f32Infinite a)
  | .rsqrt => let r := f32Rsqrt a; (r.1, r.2 || f32Infinite a)
  | .sin => fElem .sin (a, false)
  | .cos => fElem .cos (a, false)
  | .shl | .shr | .and | .or | .xor => (a, false)

/-- One element of a vector-unit operation in BF16: an exact result rounded once (04 R124). -/
def vecBf16 (op : VecOp) (a b c : Half) : Half × Bool :=
  let bad := bf16Infinite a || bf16Infinite b
  let round (x : Exact) : Half × Bool :=
    let e := bf16Fmt.encode .nearest x.num.natAbs x.den
    (BitVec.ofNat 16 (e.1 + if x.neg then 2 ^ 15 else 0), e.2 || bad)
  let x := bf16Word a
  let y := bf16Word b
  match op with
  | .add => round ((f32Value x).add (f32Value y))
  | .mul => round ((f32Value x).mul (f32Value y))
  | .min => (finiteScale (if f32Lt y x then b else a), bad)
  | .max => (finiteScale (if f32Lt x y then b else a), bad)
  | .compare r => ((relWord r (f32Lt x y) (f32Le x y && f32Le y x)).setWidth 16, bad)
  | .select =>
    let z := if a == (Config.truth false).setWidth 16 then c else b
    (finiteScale z, bf16Infinite z)
  | _ => (a, false)

/-- One element of a vector-unit operation in I32 (04 R124). -/
def vecI32 (op : VecOp) (a b c : Word) : Word :=
  match op with
  | .add => intResult (a.toInt + b.toInt) (Config.sumOutside a b)
  | .mul => intResult (a.toInt * b.toInt) (Config.mulOutside a b)
  | .min => if b.toInt < a.toInt then b else a
  | .max => if a.toInt < b.toInt then b else a
  | .compare r => relWord r (a.toInt < b.toInt) (a == b)
  | .select => selectWord a b c
  | .shl => iShift true a b
  | .shr => iShift false a b
  | .and => a &&& b
  | .or => a ||| b
  | .xor => a ^^^ b
  | .fma | .exp | .log | .recip | .rsqrt | .sin | .cos => a

/-- Whether the vector unit has an operation in a format (04 R124). -/
def vecOk (op : VecOp) (fmt : Nat) : Bool :=
  match op with
  | .add | .mul | .min | .max | .compare _ | .select => fmt = 6 || fmt = 7 || fmt = 8
  | .shl | .shr | .and | .or | .xor => fmt = 7
  | _ => fmt = 8

/-- Bytes of an element of an unscaled format. -/
def itemBytes (fmt : Nat) : Nat := if fmt = 6 then 2 else 4

/-- n elements of a vector-unit operation (04 R124, R125). -/
def vecEffect (v : View) (op : VecOp) (fmt n : Nat) (a b c dst : Loc) : Effect :=
  if !vecOk op fmt then Effect.none
  else if fmt = 6 then
    let ys := (List.range n).map fun i => vecBf16 op (v.half a i) (v.half b i) (v.half c i)
    plateEffect dst ((ys.map fun y => leBytes 2 y.1.toNat).flatten) (ys.any (·.2))
  else if fmt = 7 then
    plateEffect dst (wordBytes ((List.range n).map fun i => vecI32 op (v.word a i) (v.word b i) (v.word c i))) false
  else wordsEffect dst ((List.range n).map fun i => vecF32 op (v.word a i) (v.word b i) (v.word c i))

/-- A reduction of I32 words: the exact total, whatever the order (03 R85, R87; log entry 11 outside the format). -/
def sumI32 (ws : List Word) : Word := intResult (ws.map (·.toInt)).sum (Config.totalOutside ws)

/-- Item i of an index list. -/
def View.index (v : View) (l : Loc) (i : Nat) : Nat := (v.word l i).toNat

/-! ### Recurrences (06 R180 to R188, R192) -/

/-- A decay held to the cap ±(1 − 2⁻¹⁶), and whether that moved it (06 R181). -/
def clampDecay (a : Word) : FW :=
  if a.toInt < -0x07FFF800 then (BitVec.ofInt 32 (-0x07FFF800), true)
  else if 0x07FFF800 < a.toInt then (0x07FFF800, true)
  else (a, false)

/-- One update h = a × h + b in S32, rounded once (06 R180, R183, R184). -/
def scanStep (m : Mode) (a b h : Word) : FW :=
  let c := clampDecay a
  let r := s32Round m (((s32Value c.1).mul (s32Value h)).add (s32Value b))
  (r.1, r.2 || c.2)

/-- One phase step: the sum with bits [31:27] cleared (06 R185). -/
def phaseStep (f h : Word) : Word := (h + f) &&& 0x07FFFFFF

/-- The normalised-gate prologue: a and b of one element (06 R182). -/
def gatePrologue (p q kappa : FW) : FW × FW :=
  let s := fElem .softplus p
  let u := fMul s (kappa.1 ^^^ 0x80000000#32, kappa.2)
  let e := fElem .exp u
  let a := s32Round .nearest (f32Value e.1)
  let c := clampDecay a.1
  let d := f32Round ⟨2 ^ 27 - c.1.toInt, 2 ^ 27, false⟩
  let g := fMul d q
  let b := s32Round .nearest (f32Value g.1)
  ((a.1, a.2 || e.2), (b.1, b.2 || g.2 || c.2))

/-- Initial value of a channel (06 R178, R179). -/
def initWord (img : List Byte) (l : Layer) (chan : Nat) : Word :=
  let p := paramBlock img l
  if paramInit p = 1 then BitVec.ofNat 32 (num (weightImage img) (paramInitOff p + 4 * chan) 4) else 0

/-- One step of a series of a kind-3 or kind-4 layer under a voice's parameter block (06 R180 to R185, R192). `a` and `b` are its
inputs at this step as bytes; the mode depends on b. -/
def seriesStep (img : List Byte) (l : Layer) (chan : Nat) (mode : Word → Mode) (a b : List Byte) (flagged : Bool) (h : Word) : FW :=
  let p := paramBlock img l
  let w := weightImage img
  let h := if flagged then initWord img l chan else h
  let wa := BitVec.ofNat 32 (num a 0 4)
  let wb := BitVec.ofNat 32 (num b 0 4)
  let elt (x : List Byte) : FW := if l.actFmt = 6 then bf16FW (BitVec.ofNat 16 (num x 0 2)) else (BitVec.ofNat 32 (num x 0 4), false)
  if l.kind = 3 then
    if paramSub p = 0 then scanStep (mode wb) wa wb h
    else
      let g := gatePrologue (elt a) (elt b) (bf16FW (BitVec.ofNat 16 (num w (paramConstOff p + 2 * chan) 2)))
      let r := scanStep (mode g.2.1) g.1.1 g.2.1 h
      (r.1, r.2 || g.1.2 || g.2.2)
  else if paramSub p = 0 then (phaseStep wb h, false)
  else scanStep (mode wb) (BitVec.ofNat 32 (num w (paramConstOff p + 4 * chan) 4)) wb h

/-- The outputs of a series from step t on, each carried to the next (06 R188). -/
def seriesRun (f : Nat → Word → FW) : (n t : Nat) → Word → List FW
  | 0, _, _ => []
  | n + 1, t, h => let x := f t h; x :: seriesRun f n (t + 1) x.1

/-- One series of a row's chunk (06 R180 to R188, R191 to R195). -/
def scanEffect (v : View) (row layer chan : Nat) (span : Span) (a b : Loc) (stride : Nat) (dst : Loc) (outStride : Nat) : Effect :=
  match v.row row, v.layer layer with
  | some (x, c), some l =>
    if l.kind != 3 && l.kind != 4 then Effect.none else
    let st := chunkSteps l x.rate c
    let r := span.range st.2
    let flags := resetSteps l x.rate c
    let state := (tabGet x.layers layer).getD (zeros l.state)
    let step (t : Nat) (h : Word) : FW :=
      let mode (b : Word) : Mode :=
        if l.stochastic then
          modeOf (.stochastic x.seed x.key (BitVec.ofNat 16 l.tensor) (BitVec.ofNat 48 (st.1 + t)) (BitVec.ofNat 16 chan)) 0 b
        else .nearest
      let voice := x.voiceOf l (st.1 + t)
      seriesStep (v.image voice) l chan mode (v.bytesOf voice (a.add (stride * t)) 4) (v.bytesOf voice (b.add (stride * t)) 4)
        (flags.contains t) h
    let hs := seriesRun step r.2 r.1 (BitVec.ofNat 32 (num state (4 * chan) 4))
    let put (i : Nat) : Loc × List Byte := (dst.add (outStride * (r.1 + i)), leBytes 4 (hs.getD i (0, false)).1.toNat)
    { Effect.none with
      plate := (List.range hs.length).map put
      layers := match hs.getLast? with
        | some h => [(row, layer, patch state (4 * chan) (leBytes 4 h.1.toNat))]
        | none => []
      flag := hs.any (·.2) }
  | _, _ => Effect.none

/-! ### Held steps: convolution, attention, upsampling (06 R178, R186, R192, R205) -/

/-- The state of a kind-1 or kind-2 layer after one more step (06 R186, R192, R205): `depth` held steps of `size` bytes, oldest first;
attention keeps a count, keys and values. -/
def pushStep (kind depth size : Nat) (st inp val : List Byte) (flagged : Bool) : List Byte :=
  let all := depth * size
  if kind = 1 then ((if flagged then zeros all else bytesAt st 0 all) ++ inp).drop size
  else
    let count := if flagged then 0 else num st 0 4
    let ks := if flagged then zeros all else bytesAt st 8 all
    let vs := if flagged then zeros all else bytesAt st (8 + all) all
    leBytes 4 (min (count + 1) depth) ++ zeros 4 ++ (ks ++ inp).drop size ++ (vs ++ val).drop size

/-- A row's held state after the first n steps of its chunk. -/
def heldAfter (v : View) (l : Layer) (x : Stream) (c : Chunk) (src vals : Loc) (n : Nat) : List Byte :=
  let p := paramBlock (v.image (x.voiceOf l (chunkSteps l x.rate c).1)) l
  let size := tensorBytes l.actFmt 1 (paramChannels p)
  let flags := resetSteps l x.rate c
  (List.range n).foldl
    (fun st t =>
      let voice := x.voiceOf l ((chunkSteps l x.rate c).1 + t)
      pushStep l.kind (paramDepth p) size st (v.bytesOf voice (src.add (size * t)) size) (v.bytesOf voice (vals.add (size * t)) size)
        (flags.contains t))
    ((tabGet x.layers l.id).getD (zeros l.state))

/-- The held steps a step reads: a convolution's history before it, zeros at a flagged step; an attention window with the step's own
key and value (06 R178, R192). -/
def heldEffect (v : View) (row layer step : Nat) (src vals dst : Loc) : Effect :=
  match v.row row, v.layer layer with
  | some (x, c), some l =>
    if l.kind = 1 then
      let st := heldAfter v l x c src vals step
      plateEffect dst (if (resetSteps l x.rate c).contains step then zeros st.length else st) false
    else if l.kind = 2 then plateEffect dst (heldAfter v l x c src vals (step + 1)) false
    else Effect.none
  | _, _ => Effect.none

/-- The held state behind the chunk (06 R186, R188). -/
def advanceEffect (v : View) (row layer : Nat) (src vals : Loc) : Effect :=
  match v.row row, v.layer layer with
  | some (x, c), some l =>
    if l.kind = 1 || l.kind = 2 then
      { Effect.none with layers := [(row, layer, heldAfter v l x c src vals (chunkSteps l x.rate c).2)] }
    else Effect.none
  | _, _ => Effect.none

/-- One input step of a transposed convolution: held partial sums plus its k × N contributions; the first stride × N words are finished
(06 R178, R192). -/
def upsampleStep (done : Nat) (flagged : Bool) (held : List FW) (contrib : List Word) : List FW × List FW :=
  let held := if flagged then held.map fun _ => (0, false) else held
  let sums := (List.range contrib.length).map fun i =>
    let x : FW := fFinite (contrib.getD i 0, false)
    if i < held.length then fAdd (held.getD i (0, false)) x else x
  (sums.take done, sums.drop done)

/-- Input steps t, t + 1, … of a transposed convolution, in increasing order. -/
def upsampleRun (done : Nat) (flags : List Nat) (contrib : Nat → List Word) : (n t : Nat) → List FW → List FW × List FW
  | 0, _, held => ([], held)
  | n + 1, t, held =>
    let r := upsampleStep done (flags.contains t) held (contrib t)
    let rest := upsampleRun done flags contrib n (t + 1) r.2
    (r.1 ++ rest.1, rest.2)

/-- A row's chunk through a kind-5 layer; its steps are input steps (06 R178, R192; log entry 39, DESIGN CHOICE). -/
def upsampleEffect (v : View) (row layer stride : Nat) (src dst : Loc) : Effect :=
  match v.row row, v.layer layer with
  | some (x, c), some l =>
    if l.kind != 5 then Effect.none else
    let st := chunkSteps l x.rate c
    let p := paramBlock (v.image (x.voiceOf l st.1)) l
    let n := paramChannels p
    let k := (paramDepth p + stride) * n
    let state := (tabGet x.layers layer).getD (zeros l.state)
    let held : List FW := (List.range (paramDepth p * n)).map fun i => (BitVec.ofNat 32 (num state (4 * i) 4), false)
    let contrib (t : Nat) : List Word :=
      (List.range k).map fun i => BitVec.ofNat 32 (le (v.bytesOf (x.voiceOf l (st.1 + t)) (src.add (4 * (k * t + i))) 4))
    let r := upsampleRun (stride * n) (resetSteps l x.rate c) contrib st.2 0 held
    { Effect.none with
      plate := [(dst, wordBytes (r.1.map (·.1)))]
      layers := [(row, layer, wordBytes (r.2.map (·.1)))]
      flag := (r.1 ++ r.2).any (·.2) }
  | _, _ => Effect.none

/-! ### Overrides, draws, conditioning (06 R195, 08 R249 to R251, 02 R52) -/

/-- Override k at a step of a row's chunk: it takes effect at the first step that begins at or after its sample, be that in the next chunk,
and what follows from it there is the graph's: the value, and whether there is one (01 R31, 06 R195, 13 R414). How long an override stays in
force the spec does not say; export records carry none, so the model keeps none (log entry 41, DESIGN CHOICE). -/
def overrideEffect (v : View) (row layer step k : Nat) (dst : Loc) : Effect :=
  match v.row row, v.layer layer with
  | some (x, c), some l =>
    let t := (chunkSteps l x.rate c).1 + step
    match (c.overrides.filter fun o => l.stepAt x.rate o.1 = t && o.2.1.getLsbD k).getLast? with
    | some o => plateEffect dst (leBytes 2 (o.2.2.getD k 0).toNat ++ leBytes 2 1) false
    | none => plateEffect dst (zeros 4) false
  | _, _ => Effect.none

/-- One drop-out element in F32 or BF16 (08 R249). An element that the mask drops sets no flag, finite or not: the spec does not say
(log entry 39, DESIGN CHOICE). -/
def dropOne (fmt : Nat) (x : Word) (keep gain : Half) (u : Word) : FW :=
  if !maskBit u keep then (0, false)
  else if fmt = 6 then
    let r := vecBf16 .mul (x.setWidth 16) gain 0
    (r.1.setWidth 32, r.2)
  else fMul (x, false) (bf16FW gain)

/-- Drop-out of n elements (08 R249, R252). -/
def dropEffect (v : View) (fmt n : Nat) (a dst : Loc) (keep gain : Half) (at_ : Coord) : Effect :=
  let ys := (List.range n).map fun i =>
    let x : Word := if fmt = 6 then (v.half a i).setWidth 32 else v.word a i
    ((v.draw at_ i (x.setWidth 16)).map fun d => dropOne fmt x keep gain d.u).getD (0, false)
  if (fmt = 6 || fmt = 8) && (v.drawBase at_).isSome then
    plateEffect dst ((ys.map fun y => leBytes (itemBytes fmt) y.1.toNat).flatten) (ys.any (·.2))
  else Effect.none

/-- The data word of draw i (08 R252). -/
def View.drawData (v : View) (data : DrawData) (i : Nat) : Half :=
  match data with
  | .const w => w
  | .from_ l stride => BitVec.ofNat 16 (le (v.bytes (l.add (stride * i)) 2))

/-- Words made from n draws (04 R124, 08 R251, R252). -/
def drawEffect (v : View) (f : Draw → Word) (n : Nat) (dst : Loc) (data : DrawData) (at_ : Coord) : Effect :=
  if (v.drawBase at_).isSome then
    plateEffect dst (wordBytes ((List.range n).map fun i => ((v.draw at_ i (v.drawData data i)).map f).getD 0)) false
  else Effect.none

/-- Bytes of the conditioning of a row's chunk (07 R217, R218). -/
def View.condBytes (v : View) (row : Nat) : Nat :=
  ((v.row row).map fun p => 2 * headCond (headPart (v.image v.j.handle)) * p.2.count).getD 0

/-! ### An operation's effect and the ranges it touches -/

/-- Whether the module's graph uses stochastic rounding: FLAGS[2] (03 R94). -/
def View.graphStochastic (v : View) : Bool := (imgFlags (v.image v.j.handle)).testBit 2

/-- The coordinates that an operation names. -/
def opCoord (op : StrokeOp) : Option Coord :=
  match op with
  | .tile _ _ _ _ _ c | .combine _ _ _ _ c | .wash _ _ _ _ c _ | .vec _ _ _ _ _ _ _ c | .act _ _ _ _ _ _ c | .sum _ _ _ _ c
  | .gather _ _ _ _ _ c | .scatter _ _ _ _ _ c | .convert _ _ _ _ _ _ c | .dropout _ _ _ _ _ _ c | .draws _ _ _ c | .normal _ _ _ c =>
    some c
  | .sendRoot _ _ _ | .scan _ _ _ _ _ _ _ _ _ | .held _ _ _ _ _ _ | .advance _ _ _ _ | .upsample _ _ _ _ _ | .override _ _ _ _ _
  | .condReady _ _ => none

/-- The view of an operation, under the voice in force at its coordinates. -/
def View.of (v : View) (op : StrokeOp) : View :=
  match opCoord op with
  | some c => v.under c
  | none => v

/-- The effect of an operation under its voice (log entry 8). -/
def opEffectAt (v : View) (op : StrokeOp) : Effect :=
  match op with
  | .tile a w first count acc _ =>
    let total := blocksOf a.len
    if macPair a.fmt w.fmt && a.len = w.len && partOk first count total then
      let x := v.mac v.handle a
      let y := v.mac v.handle w
      let r := if count = total then macReduce a.len x y else macPart a.len x y first count
      { Effect.none with acc := [(v.core, acc, r.1)], flag := r.2 }
    else Effect.none
  | .sendRoot acc core dst =>
    match v.j.cores[core]? with
    | some c => { Effect.none with acc := [(c, dst, v.accWord acc)] }
    | none => Effect.none
  | .combine left right dst scales _ =>
    let x := fAdd (v.accWord left, false) (v.accWord right, false)
    let r := match scales with
      | some (a, w) => if blocked a.fmt then x else scaleRoot a.len (v.mac v.handle a) (v.mac v.handle w) x
      | none => x
    { Effect.none with acc := [(v.core, dst, r.1)], flag := r.2 }
  | .wash n rows acc prog at_ dst => wash v n rows acc prog at_ dst
  | .vec op fmt n a b c dst _ => vecEffect v op fmt n a b c dst
  | .act f n a b consts dst _ =>
    wordsEffect dst ((List.range n).map fun i =>
      let const := bf16FW (BitVec.ofNat 16 (le (v.bytes (consts.add (if f == .snake then 2 * i else 0)) 2)))
      if isGate f then gate f (v.word a i, false) (v.word b i, false) else activation f const (v.word a i, false))
  | .sum fmt n a dst _ =>
    let ws := (List.range n).map (v.word a)
    if fmt = 7 then plateEffect dst (wordBytes [sumI32 ws]) false
    else wordsEffect dst [sumF32 (ws.map fun w => fFinite (w, false))]
  | .gather n width index base dst _ =>
    plateEffect dst ((List.range n).map fun i => v.bytes (base.add (width * v.index index i)) width).flatten false
  | .scatter n width index src base _ =>
    { Effect.none with plate := (List.range n).map fun i => (base.add (width * v.index index i), v.bytes (src.add (width * i)) width) }
  | .convert src rows dstFmt dst given stochastic at_ =>
    let bytes := v.bytes src.loc (tensorBytes src.fmt src.rows src.len)
    let es := (List.range rows).map fun i => decodeRow src.fmt src.rows (src.row + i) src.len bytes
    let r := v.rounding (stochastic && v.graphStochastic) at_
    let m (i k : Nat) : Exact × Mode :=
      let e := (es.getD i []).getD k ⟨Exact.zero, 0, false⟩
      (e.value, modeOf r (src.len * i + k) e.code)
    let out := encodeRows dstFmt given ((List.range rows).map fun i => (List.range src.len).map (m i))
    plateEffect dst out.1 (out.2 || es.any fun row => row.any (·.bad))
  | .scan row layer chan span a b stride dst outStride => scanEffect v row layer chan span a b stride dst outStride
  | .held row layer step src vals dst => heldEffect v row layer step src vals dst
  | .advance row layer src vals => advanceEffect v row layer src vals
  | .upsample row layer stride src dst => upsampleEffect v row layer stride src dst
  | .override row layer step k dst => overrideEffect v row layer step k dst
  | .dropout fmt n a dst keep gain at_ => dropEffect v fmt n a dst keep gain at_
  | .draws n dst data at_ => drawEffect v Draw.u n dst data at_
  | .normal n dst data at_ => drawEffect v (fun d => normalByTransform d.hash) n dst data at_
  | .condReady row src => { Effect.none with cond := [(row, v.bytes src (v.condBytes row))] }

/-- The effect of a stroke's operation (log entry 8). -/
def opEffect (v : View) (op : StrokeOp) : Effect := opEffectAt (v.of op) op

/-- Ranges a Wash program reads. -/
def washTouch (n rows acc : Nat) (p : WashProg) : Touch :=
  let cols (l : Option Loc) : Touch := l.toList.map fun a => (a, 4 * n, false)
  cols p.scale ++ cols p.bias ++ p.residual.toList.map Operand.touch ++ [((⟨16, 4 * acc⟩ : Loc), 4 * (rows * n), false)]
    ++ (p.partner.toList.map fun q => cols q.scale ++ cols q.bias ++ [((⟨16, 4 * q.acc⟩ : Loc), 4 * (rows * n), false)]).flatten
    ++ (if p.fn == .snake then [(p.consts, 2 * n, false)] else if p.fn == .leakyRelu then [(p.consts, 2, false)] else [])

/-- Ranges that an operation reads. -/
def opReads (v : View) (op : StrokeOp) : Touch :=
  let steps (row layer : Nat) : Nat :=
    match v.row row, v.layer layer with
    | some (x, c), some l => (chunkSteps l x.rate c).2
    | _, _ => 0
  let held (row layer n : Nat) (src : Loc) : Touch :=
    match v.row row, v.layer layer with
    | some _, some l => [(src, n * tensorBytes l.actFmt 1 (paramChannels (paramBlock (v.image v.j.handle) l)), false)]
    | _, _ => []
  match op with
  | .tile a w _ _ _ _ => [a.touch, w.touch]
  | .sendRoot acc _ _ => [(⟨16, 4 * acc⟩, 4, false)]
  | .combine left right _ scales _ =>
    [(⟨16, 4 * left⟩, 4, false), (⟨16, 4 * right⟩, 4, false)] ++ (scales.toList.map fun p => [p.1.touch, p.2.touch]).flatten
  | .wash n rows acc prog _ _ => washTouch n rows acc prog
  | .vec op fmt n a b c _ _ => ([a, b, c].take op.operands).map fun l => (l, itemBytes fmt * n, false)
  | .act f n a b consts _ _ =>
    [(a, 4 * n, false)] ++ (if isGate f then [(b, 4 * n, false)] else [])
      ++ (if f == .snake then [(consts, 2 * n, false)] else if f == .leakyRelu then [(consts, 2, false)] else [])
  | .sum _ n a _ _ => [(a, 4 * n, false)]
  | .gather n width index base _ _ => (index, 4 * n, false) :: (List.range n).map fun i => (base.add (width * v.index index i), width, false)
  | .scatter n width index src _ _ => [(index, 4 * n, false), (src, width * n, false)]
  | .convert src _ _ _ _ _ _ => [src.touch]
  | .scan row layer _ _ a b stride _ _ =>
    let n := steps row layer
    if n = 0 then [] else [(a, stride * (n - 1) + 2, false), (b, stride * (n - 1) + 2, false)]
  | .held row layer step src vals _ => held row layer (step + 1) src ++ held row layer (step + 1) vals
  | .advance row layer src vals => held row layer (steps row layer) src ++ held row layer (steps row layer) vals
  | .upsample row layer stride src _ =>
    match v.layer layer with
    | some l =>
      let p := paramBlock (v.image v.j.handle) l
      [(src, 4 * (steps row layer * ((paramDepth p + stride) * paramChannels p)), false)]
    | none => []
  | .override _ _ _ _ _ => []
  | .dropout fmt n a _ _ _ _ => [(a, itemBytes fmt * n, false)]
  | .draws n _ data _ | .normal n _ data _ =>
    match data with
    | .const _ => []
    | .from_ l stride => (List.range n).map fun i => (l.add (stride * i), 2, false)
  | .condReady row src => [(src, v.condBytes row, false)]

/-- A window of the job on one of its cores (04 R129). -/
def Job.window (j : Job) (core k : Nat) : Option PlateWindow := ((j.windows[j.cores.findIdx (· == core)]?).getD [])[k]?

/-- Whether a range lies in a window of the job that allows the access, or in its part of the accumulator file (04 R119, R129). -/
def View.allows (v : View) (t : Loc × Nat × Bool) : Bool :=
  let stop := t.1.off + t.2.1
  let inside (w : Option PlateWindow) : Bool := w.any fun w => stop ≤ w.limit - w.base && (w.writable || !t.2.2)
  t.2.1 = 0 ||
    (if t.1.window < 8 then inside (v.j.window v.core t.1.window)
    else if t.1.window < 16 then inside (v.shared t.1.window)
    else t.1.window = 16 && stop ≤ 65536)

/-- The accumulator slots that an effect writes: core and number in the job's strokes. -/
def View.slots (v : View) (e : Effect) : List (Nat × Nat) :=
  let plate (w : Loc × List Byte) : List (Nat × Nat) :=
    if w.1.window < 16 then [] else (List.range w.2.length).map fun i => (v.core, (w.1.off + i) / 1024)
  ((e.acc.map fun (a : Nat × Nat × Word) => (a.1, a.2.1 / 256)) ++ e.plate.flatMap plate).eraseDups

/-- Whether every core's accumulator file has room for the slots that an effect allocates (04 R119). -/
def View.slotsFit (v : View) (e : Effect) : Bool :=
  let new := (v.slots e).filter fun q => ((v.s.core q.1).slotOf v.j.id q.2).isNone
  new.all fun q => (new.filter (·.1 == q.1)).length ≤ (v.s.core q.1).slotsFree

/-- Whether everything an operation reads and writes is its job's, and its accumulators have slots (04 R119, R129). -/
def View.fits (v : View) (op : StrokeOp) (e : Effect) : Bool :=
  (opReads (v.of op) op).all v.allows && e.plate.all (fun w => v.allows (w.1, w.2.length, true))
    && e.acc.all (fun a => a.2.1 < 16384) && v.slotsFit e

/-- Whether the Tracer still owes bytes of a record that a tile reads, in a transfer or in a part of an entry that it has begun and not
issued yet: the block close stalls (05 R166). -/
def View.stalls (v : View) (op : StrokeOp) : Bool :=
  let meets (o : Operand) (handle off len : Nat) : Bool :=
    handle = o.loc.window && off < o.loc.off + tensorBytes o.fmt o.rows o.len && o.loc.off < off + len
  let e := (v.s.core v.core).tracer
  let due (o : Operand) : Bool :=
    e.outstanding.any (fun t => t.job = v.j.id && t.op != 0 && meets o t.dstHandle t.dstOff t.len)
      || e.part.any fun p => p.job = v.j.id && meets o p.handle p.off p.len
  match op with
  | .tile a w _ _ _ _ => due a || due w
  | _ => false

/-! ### Applying an operation -/

/-- Writes bytes at a place of a job's on a core. -/
def storeAt (core job : Nat) (h : Hatch) (w : Loc × List Byte) : Hatch :=
  if w.1.window < 8 then { h with plate := memStore h.plate (plateAt core job w.1.window w.1.off) w.2 }
  else h.accStore core job w.1.off w.2

/-- A Frame-boundary record whose Hatch layers were late, completed with the layers and the conditioning it lacks (06 R199). -/
def lateRecord (layers : List (Nat × List Byte)) (c : Chunk) (r : ExportRec) : ExportRec :=
  if r.hatchNext = c.first + c.count then { r with layers := layers, chunk := some c } else r

/-- The conditioning of a stream's chunk from sample `first` on is complete at a sub-tick (02 R71, 06 R201). -/
def Stream.takeCond (x : Stream) (first at_ : Nat) (b : List Byte) : Stream :=
  let f (c : Chunk) : Chunk := if c.first = first && c.condAt.isNone then { c with condAt := some at_, cond := b } else c
  match x.burinChunks.find? (·.first == first) with
  | some c => { x with
      burinChunks := x.burinChunks.map f
      shadow := x.shadow.map (lateRecord x.layers (f c))
      dueShadows := x.dueShadows.map (lateRecord x.layers (f c))
      second := x.second.map fun q => (q.1, lateRecord x.layers (f c) q.2) }
  | none => { x with hatchChunk := x.hatchChunk.map f }

/-- Changes the stream of a job's row. -/
def State.modRow (s : State) (j : Job) (row : Nat) (f : Stream → Stream) : State :=
  match j.rows[row]? with
  | some id => { s with streams := tabMod s.streams id f }
  | none => s

/-- A job gives back its slots on a core, zeroed (04 R119, 10 R306). -/
def State.freeSlots (s : State) (job core : Nat) : State :=
  let x := s.core core
  let s := s.setCore core { x with slots := x.slots.filter (·.2.1 != job) }
  { s with hatch := { s.hatch with acc := (x.slotsOf job).foldl (fun m k => memZero m (accAt core (256 * k)) 1024) s.hatch.acc } }

/-- Writes an operation's effect; conditioning completes at a sub-tick. -/
def State.applyEffect (s : State) (j : Job) (core now : Nat) (e : Effect) : State :=
  let h := e.plate.foldl (storeAt core j.id) s.hatch
  let h := e.acc.foldl (fun h a => h.accStore a.1 j.id (4 * a.2.1) (leBytes 4 a.2.2.toNat)) h
  let s := { s with hatch := h }
  let s := e.layers.foldl (fun s l => s.modRow j l.1 fun x => { x with layers := tabSet x.layers l.2.1 l.2.2 }) s
  let first (id : Nat) : Nat := ((j.work.find? (·.1 == id)).map (·.2)).getD 0
  let s := e.cond.foldl (fun s c => s.modRow j c.1 fun x => x.takeCond (first x.id) now c.2) s
  let c := s.core core
  if e.flag then (s.setCore core { c with rangeFlag := true }).bump 0x017 1 (.field (coreField core)) else s

/-- The operations of a segment in order; an access outside the job's windows stops them (04 R129). -/
def runOps (j : Job) (core now : Nat) : List StrokeOp → State → State × Bool
  | [], s => (s, true)
  | op :: rest, s =>
    let v := s.view j core
    let e := opEffect v op
    if v.fits op e then runOps j core now rest (s.applyEffect j core now e) else (s, false)

end Sys2Proof.Machine
end

