-- ==== Sys2Proof/Machine/Hatch.lean ====
section
/-! DEFINITION. Strokes on a core and the semaphores (04 R133 to R138 R141, 09 R285 to R288): STROKE_ISSUE, SAFE_POINT, SIGNAL,
REMOTE_SIGNAL, WAIT. -/

namespace Sys2Proof.Machine

open Sys2Proof

/-! ### Issue (09 R285 to R287, 11 R330, 18 R565) -/

/-- The MAC modes of a stroke's passes (11 R352, log entry 8). -/
def strokeModes (work : List StrokeOp) : List Nat :=
  let mode (op : StrokeOp) : Option Nat :=
    match op with
    | .tile a w _ _ _ _ => some (if 4 ≤ a.fmt || 4 ≤ w.fmt then 2 else if a.fmt = 1 && w.fmt = 1 then 0 else 1)
    | _ => none
  work.filterMap mode

/-- Cycles of a stroke in one mode: those of its passes in that mode; before the first pass they count as 8-bit (11 R352). -/
def cyclesIn (mode : Nat) (modes cycles : List Nat) : Nat :=
  let at_ (i : Nat) : Nat := if i = 0 then 1 else modes.getD (i - 1) (modes.getLast?.getD 1)
  ((cycles.zipIdx.filter fun c => at_ c.2 = mode).map (·.1)).sum

/-- The chunks of a stream whose work in Hatch is not done, oldest first; the closed plan's comes last (02 R52, 09 R273). -/
def Stream.openChunks (x : Stream) : List Chunk :=
  (x.burinChunks ++ x.hatchChunk.toList).filter (·.condAt.isNone) ++ x.closedChunk.toList

/-- Where a chunk's first record stands in the feature queue, a ring of 2,048 records (09 R266, 10 R301). -/
def Stream.readAt (x : Stream) (c : Chunk) : Nat :=
  128 * ((x.popped + (x.records.takeWhile fun r => r.first + r.span ≤ c.first).length) % 2048)

/-- The chunks of a row that no sequence of its job's strokes lists yet. -/
def Job.unlisted (j : Job) (x : Stream) : List Chunk :=
  x.openChunks.filter fun c => !j.plans.any fun p => p.any fun r => r.stream == x.id && r.first == c.first

/-- The sequences that a plan close adds to a job's: the rows with a chunk, with its place in the feature queue; a row that brings an older
chunk along comes in one sequence more (09 R266, R273). -/
def State.newPlans (s : State) (j : Job) : List (List PlanRow) :=
  let rows := j.rows.zipIdx.filterMap fun r => (s.stream r.1).map fun x => (r.2, x, j.unlisted x)
  let most := (rows.map fun r => r.2.2.length).foldl max 0
  (List.range most).map fun k => rows.filterMap fun r => (r.2.2[k]?).map fun c => ⟨r.1, r.2.1.id, c.first, r.2.1.readAt c⟩

/-- The jobs take in what a plan close lists for them. -/
def State.listPlans (s : State) : State :=
  { s with jobs := tabMap s.jobs fun _ j => if j.kind == .streams then { j with plans := j.plans ++ s.newPlans j } else j }

/-- Whether the Frame of a listed sequence has begun: no row's chunk is still that of the plan that has closed. -/
def State.begun (s : State) (p : List PlanRow) : Bool :=
  p.all fun r => !(s.stream r.stream).any fun x => x.closedChunk.any (·.first == r.first)

/-- Whether a job has work in the running Frame: strokes of a sequence it has begun, the next one that a plan lists, or the
next optimiser step once the one before it is counted (03 R92, 05 R177). -/
def State.jobWorks (s : State) (j : Job) : Bool :=
  !j.issued.isEmpty ||
    (match j.kind with
    | .streams => (j.plans.head?).any s.begun
    | .adapt _ _ | .guest _ _ => j.workFrame == j.optStep && j.optStep < j.steps
    | .promote _ => false)

/-- Whether a job has run its strokes for the active plan (09 R287): every row's conditioning is complete. -/
def State.jobRan (s : State) (j : Job) : Bool :=
  j.issued.isEmpty && (s.rowStreams j).all fun x => (x.burinChunks ++ x.hatchChunk.toList).all fun c => c.condAt.isSome

/-- The jobs bound to a core. -/
def State.coreJobs (s : State) (c : Nat) : List Job := (s.core c).jobs.filterMap s.job

/-- READY or ROOM of a physical pair of a core (04 R133). -/
def Core.counter (x : Core) (p : Nat) (ctr : Counter) : Nat :=
  let v := (tabGet x.pairs p).getD (0, 0)
  match ctr with
  | .ready => v.1
  | .room => v.2

/-- Sets READY or ROOM of a physical pair. -/
def Core.setCounter (x : Core) (p : Nat) (ctr : Counter) (n : Nat) : Core :=
  let v := (tabGet x.pairs p).getD (0, 0)
  match ctr with
  | .ready => { x with pairs := tabSet x.pairs p (n, v.2) }
  | .room => { x with pairs := tabSet x.pairs p (v.1, n) }

/-- Whether every FIRST_FILL item of a stroke finds READY on the core (09 R262, R285); the test consumes nothing. -/
def firstFill (k : List Byte) (j : Job) (core : Nat) (x : Core) (t : Stroke) : Bool :=
  t.fill.all fun f =>
    f = 0 || (match j.pair core (linkAt k (f % 4096)).pair with
      | some p => f / 4096 ≤ x.counter p .ready
      | none => false)

/-- The core that the Frame plan gives a stroke of a job (09 R259). -/
def strokeHome (k : List Byte) (j : Job) (stroke : Nat) : Option Nat := j.cores[Config.strokeCore k j.cores.length stroke % j.cores.length]?

/-- The links that a stroke waits on and those it produces into. -/
def strokeEnds (k : List Byte) (stroke : Nat) : List Nat × List Nat :=
  let t := strokeAt k stroke
  Config.strokeLinks (bytesAt k t.codeOff t.codeLen)

/-- Whether plan order and the producers let a stroke be issued: it has not been, every earlier stroke of its core has been (09 R286),
and every other stroke that produces into a link it waits on has been (11 R330). -/
def strokeTurn (k : List Byte) (j : Job) (core stroke : Nat) : Bool :=
  strokeHome k j stroke == some core && !j.issued.contains stroke
    && (List.range stroke).all (fun p => strokeHome k j p != some core || j.issued.contains p)
    && (List.range (strokeCount k)).all (fun p =>
      p = stroke || j.issued.contains p || !((strokeEnds k p).2.any (strokeEnds k stroke).1.contains))

/-- Whether a stroke of a job is ready on a core (04 R141, 09 R285, 11 R330, R331 step 1; 18 R565; 02 R70 throttles Fill above the
cap). A Fill stroke waits until every Live job of the core has run (09 R287). A job that has gained cores takes them in before it begins
another sequence (03 R101, log entry 12). -/
def State.strokeReady (s : State) (core : Nat) (j : Job) (stroke : Nat) : Bool :=
  match s.model j.handle with
  | none => false
  | some m =>
    let k := strokeImage m.image
    j.cores.contains core && j.state == .bound && s.jobWorks j && (j.more.isEmpty || !j.issued.isEmpty) && stroke < strokeCount k && strokeTurn k j core stroke
      && firstFill k j core (s.core core) (strokeAt k stroke)
      && (!j.fill || (!s.boot.stretched && s.pwr.measured ≤ 250 * s.pwr.capNow
          && (s.coreJobs core).all fun l => l.fill || s.jobRan l))

/-- Whether a job has a stroke ready on a core. -/
def State.anyReady (s : State) (core : Nat) (j : Job) : Bool :=
  (List.range (strokeCount (((s.model j.handle).map fun m => strokeImage m.image).getD []))).any (s.strokeReady core j)

/-- The Live jobs that the plan lists before a job on a core, which is the order in which they were bound (09 R286, log entry 12). -/
def State.listedBefore (s : State) (core id : Nat) : List Job := ((s.coreJobs core).takeWhile (·.id != id)).filter fun l => !l.fill

/-- Whether the field controller issues a stroke of a job on a core now: at a safe point, no Live job listed before it having a ready
stroke (04 R141, 09 R285, R286). -/
def State.mayIssue (s : State) (core : Nat) (j : Job) (stroke : Nat) : Bool :=
  let x := s.core core
  s.boot.phase == .ready && s.coreServes core && x.running.isNone && x.jobs.contains j.id && s.strokeReady core j stroke
    && !(s.listedBefore core j.id).any (s.anyReady core)

/-- What a stroke does on a core, as its code says for the binding (04 R141, log entry 8). -/
def State.strokeWork (s : State) (j : Job) (core stroke : Nat) : List (List StrokeOp) :=
  let k := strokeImage (((s.model j.handle).map (·.image)).getD [])
  let t := strokeAt k stroke
  Config.strokeDecode (bytesAt k t.codeOff t.codeLen)
    [s.tb.season, j.rate, j.rows.length, j.cores.length, (j.cores.findIdx? (· == core)).getD 0]

/-- STROKE_ISSUE: the controller of a core's field starts a ready stroke of a job on it at a safe point (04 R141, 09 R285 to R287). What it computes reaches Plate,
the accumulator file and the rows' state as its checks pass, at its semaphore operations and at its safe point (04 R118, R140). -/
def execStrokeIssue (field core job stroke : Nat) (s : State) : Host.Outcome State Fault Refusal :=
  .next (
    match s.job job with
    | none => s
    | some j =>
      if field != coreField core || !s.mayIssue core j stroke then s else
      let f := EvScope.field (coreField core)
      let earlier := (s.listedBefore core job).any fun l => !s.jobRan l
      let work := s.strokeWork j core stroke
      let s := s.bump 0x019 1 f
      let s := if !j.fill && earlier then s.bump 0x01A 1 f else s
      let s := if j.fill then ({ s with pwr := { s.pwr with fillRan := true } }).bump 0x01B 1 f else s
      let x := s.core core
      let s := s.setCore core { x with
        running := some ⟨job, stroke, strokeModes work.flatten, work⟩
        waitsDone := 0
        signalsSent := 0 }
      let work := if j.issued.isEmpty then (j.plans.headD []).map fun r => (r.stream, r.first) else j.work
      s.setJob { j with issued := j.issued ++ [stroke], work := work, lastRan := s.tb.frameOrd })

/-- The next segment of the stroke that runs on a core is done, or all that is left of it, at a sub-tick. An access outside the job's
windows faults the job (04 R129). A block close that lacks a record stalls the stroke (05 R166): the flag says whether it goes on. -/
def State.runWork (s : State) (core now : Nat) (whole : Bool) : State × Bool :=
  match (s.core core).running with
  | none => (s, false)
  | some r =>
    match s.job r.job with
    | none => (s, true)
    | some j =>
      let ops := if whole then r.work.flatten else r.work.headD []
      if ops.any (View.stalls (s.view j core)) then (s, false)
      else match runOps j core now ops s with
      | (s, false) => (s.tearDown r.job 129, false)
      | (s, true) =>
        let x := s.core core
        (s.setCore core { x with running := some { r with work := if whole then [] else r.work.tail } }, true)

/-- Whether a stroke of a job runs on some core. -/
def State.runsOn (s : State) (j : Job) : Bool := j.cores.any fun c => (s.core c).running.any (·.job == j.id)

/-- A sequence of a job's strokes ends when each has been issued and none runs; its accumulator slots are free again (04 R119). -/
def State.endSequence (s : State) (id : Nat) : State :=
  match s.job id with
  | none => s
  | some j =>
    let n := ((s.model j.handle).map fun m => strokeCount (strokeImage m.image)).getD 0
    let ends := (List.range n).all j.issued.contains && !s.runsOn j
    let s := if ends then j.cores.foldl (State.freeSlots · id) s else s
    let j := if ends then { j with issued := [], work := [], plans := j.plans.tail, workFrame := j.workFrame + 1 } else j
    s.setJob { j with condDone := s.jobRan j }

/-- SAFE_POINT: the running stroke ends at an offset in the Frame, its last results having passed their checks; its cycles, stalls
included, are charged in its mode (04 R118 R141 R142, 09 R288, 11 R352), and the single-bit errors that its reads corrected are counted
(04 R131). -/
def execSafePoint (core : Nat) (report : StrokeEnd) (s : State) : Host.Outcome State Fault Refusal :=
  .next (
    let x := s.core core
    match x.running with
    | none => s
    | some r =>
      if x.waiting.isSome || x.faulted then s else
      match s.runWork core (s.tb.frameAt + report.at_) true with
      | (s, false) => s
      | (s, true) =>
        let f := EvScope.field (coreField core)
        let c4 := cyclesIn 0 r.modes report.cycles
        let c8 := cyclesIn 1 r.modes report.cycles
        let cF := cyclesIn 2 r.modes report.cycles
        let a : Account := { Account.zero with hatch4 := c4, hatch8 := c8, hatchF := cF }
        let s := ((((s.bump 0x010 (c4 + c8 + cF) f).bump 0x011 c4 f).bump 0x012 c8 f).bump 0x013 cF f).bump 0x01D report.corrected f
        let s := match s.job r.job with
          | some j => s.charge j.session (some r.job) a
          | none => s
        (s.setCore core { s.core core with running := none }).endSequence r.job)

/-! ### Semaphores (04 R133 to R138) -/

/-- A pending wait that its counter now satisfies: the count is subtracted and the stroke goes on (04 R134). -/
def resumeWait (x : Core) : Core :=
  match x.waiting with
  | some (p, ctr, n) =>
    if n ≤ x.counter p ctr then
      { x.setCounter p ctr (x.counter p ctr - n) with waiting := none, since := none, waitsDone := x.waitsDone + 1 }
    else x
  | none => x

/-- The job that a physical pair of a core belongs to (04 R133). -/
def State.pairOwner (s : State) (core p : Nat) : Option Job := (s.coreJobs core).find? fun j => (j.pairsOn core).contains p

/-- A signal reaches a counter: above 4,095 the counter keeps its value and the job faults; otherwise the sum stands before the
pending wait is tested (04 R134 to R136). A pair that no job holds takes nothing. -/
def State.signal (s : State) (core p : Nat) (ctr : Counter) (n : Nat) : State :=
  match s.pairOwner core p with
  | none => s
  | some j =>
    let x := s.core core
    if 4095 < x.counter p ctr + n then s.tearDown j.id 136
    else s.setCore core (resumeWait (x.setCounter p ctr (x.counter p ctr + n)))

/-- SIGNAL: the running stroke of a core, its results so far in place, adds n to a counter of its own core, or sends the sum to another
core of its job (04 R134). -/
def execSignal (core pair : Nat) (ctr : Counter) (n target : Nat) (s : State) : Host.Outcome State Fault Refusal :=
  .next (
    let x := s.core core
    match x.running.bind fun r => s.job r.job with
    | none => s
    | some j =>
      match j.pair target pair with
      | none => s
      | some p =>
        if x.waiting.isSome || x.faulted || !j.cores.contains target || n = 0 || 255 < n then s else
        match s.runWork core s.tb.sub false with
        | (s, false) => s
        | (s, true) =>
          let x := s.core core
          let s := s.setCore core { x with signalsSent := x.signalsSent + 1 }
          if target = core then s.signal core p ctr n
          else { s with hatch := { s.hatch with signals := s.hatch.signals ++ [⟨core, target, p, ctr, n, s.tb.sub⟩] } })

/-- The oldest signal from one core to another, and the rest in order. -/
def takeSignal (source target : Nat) : List RemoteSig → Option (RemoteSig × List RemoteSig)
  | [] => none
  | g :: rest =>
    if g.source = source && g.target = target then some (g, rest)
    else (takeSignal source target rest).map fun r => (r.1, g :: r.2)

/-- Whether a Plate write that one core made to another before a sub-tick has not landed (04 R137). -/
def State.writesPending (s : State) (source target at_ : Nat) : Bool :=
  let x := s.core source
  (x.tracer.outstanding ++ x.scriber.outstanding).any fun t => t.dstSpace = 5 && t.dstCore = target && t.issued ≤ at_

/-- REMOTE_SIGNAL: the oldest signal from one core to another is applied, behind every Plate write the source made there before it;
signals of one pair of cores keep their issue order (04 R137). While the target's takeover is awaited it is held (18 R557). -/
def execRemoteSignal (source target : Nat) (s : State) : Host.Outcome State Fault Refusal :=
  .next (
    match takeSignal source target s.hatch.signals with
    | none => s
    | some (g, rest) =>
      if ((s.core target).faulted && !(s.core target).retired) || s.writesPending source target g.at_ then s
      else ({ s with hatch := { s.hatch with signals := rest } }).signal target g.pair g.ctr g.n)

/-- WAIT: the running stroke, its results so far in place, takes n from a counter of its core, or stalls until the counter holds n (04
R134). -/
def execWait (core pair : Nat) (ctr : Counter) (n : Nat) (s : State) : Host.Outcome State Fault Refusal :=
  .next (
    let x := s.core core
    match x.running.bind fun r => s.job r.job with
    | none => s
    | some j =>
      match j.pair core pair with
      | none => s
      | some p =>
        if x.waiting.isSome || x.faulted || n = 0 || 255 < n then s else
        match s.runWork core s.tb.sub false with
        | (s, false) => s
        | (s, true) => s.setCore core (resumeWait { s.core core with waiting := some (p, ctr, n), since := some s.tb.sub }))

/-- Whether a wait that began to stall at a sub-tick has stalled for 4 Frames (04 R138). A Frosted job has no wait. -/
def State.stalled (s : State) (since : Option Nat) : Bool := since.any fun t => t + 4 * s.frameSubs ≤ s.tb.sub

end Sys2Proof.Machine
end

