-- ==== Sys2Proof/Machine/Repairs.lean ====
section
/-! DEFINITION. Faults of cores, links, fields, Easels and the module, and the supply warning (04 R131 R132 R140 R145 R151, 18 R555
to R566): CORE_CHECK_FAILURE, CORE_TAKEOVER, CORE_SELF_TEST, PLATE_UNCORRECTABLE, PLATE_SCRUB, FLIT_CRC_RETRY, MESH_LANE_HALF,
FIELD_OUT, EASEL_FAILOVER, MODULE_FAULT, SUPPLY_WARNING. -/

namespace Sys2Proof.Machine

open Sys2Proof

/-! ### Cores (18 R557, R558, R560; 04 R151) -/

/-- Whether a core can take a faulted core's place: it serves, nothing is bound to it, and its Plate holds nothing. -/
def State.spareCore (s : State) (c : Nat) : Bool := s.coreServes c && (s.core c).jobs.isEmpty && 304 ≤ s.plateRoom c

/-- Whether a field has a free spare. -/
def State.fieldSpare (s : State) (f : Nat) : Bool := (s.fieldCoreList f).any s.spareCore

/-- Whether a takeover has a spare: in the core's own field, or in an adjacent one (18 R557). -/
def State.anySpare (s : State) (core : Nat) : Bool :=
  s.fieldSpare (coreField core) || (List.range 84).any fun f => adjacent f (coreField core) && s.fieldSpare f

/-- Second shadows on some cores are lost with them. -/
def loseSeconds (cores : List Nat) (x : Stream) : Stream :=
  if x.secondCores.any cores.contains then { x with second := none, secondCores := [] } else x

/-- Residency sets on some cores are dropped, their Plate zeroed, and their models become cold; a promotion into them is torn down (10 R306,
18 R561). -/
def dropSet (cores : List Nat) (rule : Nat) (s : State) (m : Model) : State :=
  if !m.res.cores.any cores.contains then s else
  match m.res with
  | .copying _ job _ _ | .copied _ job => s.tearDown job rule
  | _ => (s.zeroSet m).setModel { m with res := .cold }

/-- What cores that leave service take with them: second shadows and residency sets. -/
def State.loseCores (s : State) (cores : List Nat) (rule : Nat) : State :=
  let s := { s with streams := tabMap s.streams fun _ x => loseSeconds cores x }
  (s.models.map (·.2)).foldl (dropSet cores rule) s

/-- Retires a core (04 R151, 18 R558 R572). -/
def State.retireCore (s : State) (c : Nat) : State :=
  let f := coreField c
  let site : Site := (s.coreSite f (coreLogical c)).getD ⟨f, 0, 0⟩
  let s := s.setCore c { s.core c with retired := true, faulted := true }
  let s := s.setField f { s.field f with retired := (s.field f).retired + 1 }
  let s := { s with
    hatch := { s.hatch with retiredCount := satAdd s.hatch.retiredCount 1 0x1FFFF, retireLast := some site }
    nv := { s.nv with retiredCores := s.nv.retiredCores ++ [site] } }
  (s.bump 0x021 1 (.field f)).raiseAlarm 0x08 (srcOf 1 f) (site.row + 32 * site.col)

/-- Whether a core holds a job's work, resident weights or a second shadow. -/
def State.coreBusy (s : State) (c : Nat) : Bool :=
  !(s.core c).jobs.isEmpty || s.models.any (fun m => m.2.res.cores.contains c) || s.streamList.any (fun x => x.secondCores.contains c)

/-- A core fault (18 R557, R560): a second fault in a job whose takeover is in progress faults that job; with no spare the core's
jobs fault and the core is retired; else the core waits for its takeover. -/
def State.coreFault (s : State) (c : Nat) : State :=
  let js := s.coreJobs c
  let second := js.filter fun j => j.held.any fun k => k != c && (s.core k).faulted
  let s := s.setCore c { s.core c with faulted := true }
  let s := second.foldl (fun s j => s.tearDown j.id 560) s
  if s.coreBusy c && !s.anySpare c then
    let s := (s.coreJobs c).foldl (fun s j => s.tearDown j.id 560) s
    (s.loseCores [c] 560).retireCore c
  else s

/-- A fault of a core's router, or of the read path of its Plate: every job bound to the core faults, and the core is retired (18
R553). -/
def State.pathFault (s : State) (c : Nat) : State :=
  let s := s.setCore c { s.core c with faulted := true }
  let s := (s.coreJobs c).foldl (fun s j => s.tearDown j.id 553) s
  (s.loseCores [c] 553).retireCore c

/-- CORE_CHECK_FAILURE: a check of one of a core's units fails; the core stops, holds back every result that has not passed, and reports
the unit with the running stroke to its field controller (04 R139 R140, 08 R255, 09 R291, 18 R553). -/
def execCoreCheckFailure (core : Nat) (unit : CheckUnit) (s : State) : Host.Outcome State Fault Refusal :=
  .next (
    if s.boot.phase == .ready && s.coreServes core then
      let x := s.core core
      let s := s.setCore core { x with failed := some (unit, x.running.map fun r => (r.job, r.stroke)) }
      let s := s.bump 0x01C 1 (.field (coreField core))
      match unit with
      | .router | .platePath => s.pathFault core
      | _ => s.coreFault core
    else s)

/-- A core number after a takeover. -/
def swap (core spare n : Nat) : Nat := if n = core then spare else n

/-- A residency set after a takeover. -/
def swapSet (core spare : Nat) (r : Residency) : Residency :=
  match r with
  | .cold => .cold
  | .copying c j n x => .copying (c.map (swap core spare)) j n x
  | .copied c j => .copied (c.map (swap core spare)) j
  | .hot c => .hot (c.map (swap core spare))
  | .leaving c => .leaving (c.map (swap core spare))

/-- Bytes of one core's storage moved to another's; what they leave is zeroed. -/
def moveCells (m : List Host.Cell) (src dest n : Nat) : List Host.Cell :=
  let cells := (m.filter fun c => src ≤ c.1 && c.1 < src + n).map fun c => (dest + (c.1 - src), c.2)
  memZero (cells.foldl (fun m c => memWrite m c.1 c.2) (memZero m dest n)) src n

/-- The second shadow of a stream after a takeover: it lies in the field of its cores (18 R557). -/
def swapSecond (core spare : Nat) (x : Stream) : Stream :=
  let cores := x.secondCores.map (swap core spare)
  { x with
    secondCores := cores
    second := x.second.map fun q => ((fieldsOf cores).headD q.1, q.2)
    budget := x.budget.map fun b => { b with cores := b.cores.map (swap core spare) } }

/-- A job after a takeover: its cores, pairs and remote reads. -/
def swapJob (core spare : Nat) (j : Job) : Job :=
  { j with
    cores := j.cores.map (swap core spare)
    more := j.more.map (swap core spare)
    pairs := match tabGet j.pairs core with
      | some t => tabSet (tabErase j.pairs core) spare t
      | none => j.pairs
    remotes := j.remotes.map fun r => { r with core := swap core spare r.core } }

/-- A transfer after a takeover: its core, its destination and the cores its signals go to. -/
def swapXfer (core spare : Nat) (t : Xfer) : Xfer :=
  let sig (x : LinkSig) : LinkSig := (swap core spare x.1, x.2)
  { t with
    core := swap core spare t.core
    dstCore := swap core spare t.dstCore
    notify := t.notify.map sig
    release := t.release.map sig }

/-- A core's engines after a takeover. -/
def swapEngines (core spare : Nat) (x : Core) : Core :=
  let moved (e : EngineState) : EngineState := { e with outstanding := e.outstanding.map (swapXfer core spare) }
  { x with tracer := moved x.tracer, scriber := moved x.scriber }

/-- The faulted core's windows, accumulators, pairs, engines and stroke on the spare, which carries its work from here on (18
R557). Signals and transfers of the core follow it. The interrupted stroke goes on with the results it had not yet put in place: run
again, it writes the others' bytes again (18 R555, R556). -/
def State.moveCore (s : State) (core spare : Nat) : State :=
  let x := s.core core
  let y := s.core spare
  let s := s.setCore spare { x with
    faulted := false
    failed := y.failed
    hadFault := y.hadFault
    rangeFlag := y.rangeFlag
    scrubLine := y.scrubLine
    takenBy := none }
  let s := s.setCore core { Core.init with
    faulted := true
    failed := x.failed
    hadFault := x.hadFault
    takenBy := some spare }
  { s with
    hatch := { s.hatch with
      cores := tabMap s.hatch.cores fun _ c => swapEngines core spare c
      plate := moveCells (moveCells s.hatch.plate (plateAt core 0 0 0) (plateAt spare 0 0 0) (1024 * 8 * 2 ^ 19))
        (residentAt core 0 0) (residentAt spare 0 0) (2 ^ 39)
      acc := moveCells s.hatch.acc (accAt core 0) (accAt spare 0) 65536
      signals := s.hatch.signals.map fun g => { g with source := swap core spare g.source, target := swap core spare g.target } }
    jobs := tabMap s.jobs fun _ j => swapJob core spare j
    models := tabMap s.models fun _ m => { m with res := swapSet core spare m.res }
    streams := tabMap s.streams fun _ x => swapSecond core spare x
    rebind := { s.rebind with
      place := s.rebind.place.map fun p => (p.1, p.2.map (swap core spare))
      old := s.rebind.old.map (swap core spare) }
    mem := { s.mem with queue := s.mem.queue.map (swapXfer core spare) } }

/-- CORE_TAKEOVER: a spare of the core's field, or of an adjacent field when that has none, takes over (18 R557). -/
def execCoreTakeover (core spare : Nat) (s : State) : Host.Outcome State Fault Refusal :=
  .next (
    let x := s.core core
    let f := coreField core
    let g := coreField spare
    if x.faulted && !x.retired && x.takenBy.isNone && s.coreBusy core && s.spareCore spare
        && (g == f || (adjacent f g && !s.fieldSpare f)) then
      let job := ((x.running.map (·.job)).orElse fun _ => x.jobs.head?).getD 0
      let rc := s.coreRowCol core
      ((s.moveCore core spare).bump 0x020 1 (.field f)).writeLog 0x40 (srcOf 1 f) (rc + 1024 * job)
    else s)

/-- A Burin unit's self test: a transient fault returns it; a permanent one retires it (18 R558). -/
def State.unitSelfTest (s : State) (u : Nat) (passed : Bool) : State :=
  let b := s.unit u
  if u < 672 && b.failed && !b.retired && b.ctxs.isEmpty then
    if passed && !b.hadFault then s.setUnit u { b with failed := false, hadFault := true }
    else
      let s := s.setUnit u { b with retired := true }
      ({ s with nv := { s.nv with retiredBurin := s.nv.retiredBurin ++ [(u / 8, u % 8)] } }).raiseAlarm 0x09 (srcOf 2 u) 0
  else s

/-- CORE_SELF_TEST: a transient fault returns the core as a spare; a permanent one retires it (18 R558). From 86,016 on, the
operand names a Burin unit, which follows the same rule. -/
def execCoreSelfTest (core : Nat) (passed : Bool) (s : State) : Host.Outcome State Fault Refusal :=
  .next (
    let x := s.core core
    if 86016 ≤ core then s.unitSelfTest (core - 86016) passed
    else if !x.faulted || x.retired || !x.jobs.isEmpty then s
    else if passed && !x.hadFault then
      (s.setCore core { x with faulted := false, hadFault := true, takenBy := none }).writeLog 0x43 (srcOf 1 (coreField core))
        (s.coreRowCol core)
    else (s.loseCores [core] 560).retireCore core)

/-! ### Plate (04 R131, R132; 18 R553) -/

/-- Faults the job of a stream, or the stream itself while it has none (10 R309). -/
def State.faultRowOf (s : State) (x : Stream) : State :=
  if (s.job x.job).isSome then s.tearDown x.job 309 else s.faultStream x

/-- A model with an unreadable line: damaged; every job that reads it faults; every stream bound to it closes (10 R309, R310). -/
def State.damage (s : State) (m : Model) : State :=
  let s := s.setModel { m with damaged := true }
  let s := ((s.jobs.map (·.2)).filter fun j => j.handle == m.handle).foldl (fun s j => s.tearDown j.id 309) s
  (s.streamList.filter fun x => x.handle == m.handle || x.voice == m.handle).foldl (fun s x => s.faultRowOf x) s

/-- What an uncorrectable word leaves besides the count: data without a copy faults the job context that owns it, a word of the system
region the core; a line of resident weights that cannot be fetched again either damages the model (00 R7, 04 R131, 06 R199 R202, 10
R320). -/
def State.loseWord (s : State) (core : Nat) (w : PlateWord) : State :=
  match w with
  | .window job handle _ =>
    if ((s.job job).bind fun j => j.window core handle).any (!·.dirty) then s else s.tearDown job 131
  | .accumulator job => s.tearDown job 131
  | .weights handle unread =>
    match s.model handle with
    | some m => if unread then s.damage m else s
    | none => s
  | .shadow job =>
    let rows := ((s.job job).map (·.rows)).getD []
    ({ s with streams := tabMap s.streams fun i x => if rows.contains i then { x with shadow := none } else x }).tearDown job 131
  | .second stream =>
    match s.stream stream with
    | some x => (s.setStream { x with second := none, secondCores := [] }).tearDown x.job 131
    | none => s
  | .system => s.coreFault core

/-- The core whose Plate holds a job core's share of the shadow: the next one along the weight chain, for the last one the first, and for
a job of one core a spare of its field (06 R199), of which the lowest is taken (log entry 12). -/
def State.shadowPartner (s : State) (j : Job) (core : Nat) : Option Nat :=
  match j.cores.findIdx? (· == core) with
  | none => none
  | some i =>
    if j.cores.length = 1 then (s.fieldCoreList (coreField core)).find? s.spareCore
    else j.cores[(i + 1) % j.cores.length]?

/-- Whether a core's Plate or accumulator file holds such a word, and whether it has a copy in DRAM (04 R129). -/
def State.wordClass (s : State) (core : Nat) (w : PlateWord) : Option Bool :=
  let bound (job : Nat) : Bool := (s.core core).jobs.contains job
  match w with
  | .window job handle off =>
    if bound job then (((s.job job).bind fun j => j.window core handle).filter fun w => off < w.limit - w.base).map (!·.dirty) else none
  | .accumulator job => if bound job then some false else none
  | .weights handle _ => if (s.model handle).any fun m => m.res.cores.contains core then some true else none
  | .shadow job => if (s.job job).any fun j => j.cores.any fun c => s.shadowPartner j c == some core then some false else none
  | .second stream => if (s.stream stream).any fun x => x.secondCores.contains core then some false else none
  | .system => some false

/-- PLATE_UNCORRECTABLE: an uncorrectable word of a core's Plate or accumulator file, by the class of its window: a clean line is
fetched again (04 R131, 10 R320). -/
def execPlateUncorrectable (core : Nat) (word : PlateWord) (s : State) : Host.Outcome State Fault Refusal :=
  .next (
    let f := EvScope.field (coreField core)
    if s.boot.phase != .ready || !s.coreServes core then s else
    match s.wordClass core word with
    | none => s
    | some true => (s.bump 0x01E 1 f).loseWord core word
    | some false => (s.bump 0x01F 1 f).loseWord core word)

/-- Lines of a core's Plate (04 R127). -/
def plateLines : Nat := 5120

/-- PLATE_SCRUB: a background read of the next line of a core's Plate; a corrected error is counted (04 R131, R132). -/
def execPlateScrub (core : Nat) (corrected : Bool) (s : State) : Host.Outcome State Fault Refusal :=
  .next (
    if s.boot.phase != .ready || !s.coreServes core then s else
    let x := s.core core
    let s := s.setCore core { x with scrubLine := (x.scrubLine + 1) % plateLines }
    if corrected then s.bump 0x01D 1 (.field (coreField core)) else s)

/-! ### The mesh (04 R145, 18 R559) -/

/-- Field of a mesh link: links are numbered four to a site. -/
def linkField (l : Nat) : Nat := l / 4096

/-- A mesh link. -/
def State.meshLink (s : State) (l : Nat) : MeshLink := (tabGet s.hatch.links l).getD ⟨[], false, false⟩

/-- Sets a mesh link. -/
def State.setLink (s : State) (l : Nat) (x : MeshLink) : State :=
  { s with hatch := { s.hatch with links := tabSet s.hatch.links l x } }

/-- FLIT_CRC_RETRY: the link's flit of that number is sent again; a ninth retry within 1,024 consecutive flits reports a lane fault (04 R145). -/
def execFlitCrcRetry (link flit : Nat) (s : State) : Host.Outcome State Fault Refusal :=
  .next (
    if s.boot.phase != .ready then s else
    let x := s.meshLink link
    let f := EvScope.field (linkField link)
    let rs := (x.retries.filter fun k => flit < k + 1024) ++ [flit]
    let bad := 8 < rs.length && !x.laneFault
    let s := (s.setLink link { x with
      retries := if bad && x.half then [] else rs
      laneFault := x.laneFault || (bad && !x.half) }).bump 0x031 1 f
    if bad then s.bump 0x032 1 f else s)

/-- MESH_LANE_HALF: a link with a lane fault retrains on the other half of its lanes (18 R559). -/
def execMeshLaneHalf (link : Nat) (s : State) : Host.Outcome State Fault Refusal :=
  .next (
    let x := s.meshLink link
    if x.laneFault && !x.half then
      let site := link / 4 % 1024
      (s.setLink link ⟨[], true, false⟩).writeLog 0x42 (srcOf 1 (linkField link)) (site / 32 + 32 * (site % 32) + 1024 * (link % 4))
    else s)

/-! ### Fields and Easels (18 R561 to R563) -/

/-- Whether a job has a core or a Burin unit in a field. -/
def State.inField (s : State) (f : Nat) (j : Job) : Bool :=
  j.held.any (fun c => coreField c == f) || (s.rowStreams j).any fun x => x.unit / 8 == f && !x.left

/-- FIELD_OUT: a field leaves service; its jobs are torn down, its residency sets dropped (18 R561). -/
def execFieldOut (field : Nat) (s : State) : Host.Outcome State Fault Refusal :=
  .next (
    if s.boot.phase != .ready || 84 ≤ field || (s.field field).out then s else
    let s := s.setField field { s.field field with out := true }
    let js := (s.jobs.map (·.2)).filter (s.inField field)
    let s := s.loseCores (s.fieldCoreList field) 561
    let s := js.foldl (fun s j => s.tearDown j.id 561) s
    s.raiseAlarm 0x0B (srcOf 1 field) 0)

/-- One outstanding descriptor of a module in the faulted state (18 R563). -/
def deadDesc (ring : Nat) (s : State) (d : Desc) : State :=
  match d.opcode with
  | 0xB => s.complete ring d { status := stTransferFailed, detail := 11 }
  | 0xC => s.complete ring d { status := stTransferFailed, detail := 11 }
  | 0xA => s.complete ring d { status := stJobFault, count := ((s.job d.link).map (·.optStep)).getD 0 }
  | 5 => s.complete ring d { status := stStreamFault }
  | op =>
    if namesStream op then
      match s.stream (if op = 8 then d.link else d.stream) with
      | some x => faultDesc x s d
      | none => s.complete ring d { status := stStreamFault }
    else s.complete ring d { status := stJobFault }

/-- Every outstanding descriptor of a ring completes (18 R563). -/
def deadRing (s : State) (n : Nat) : State := (s.ring n).accepted.foldl (deadDesc n) s

/-- A module fault (18 R563): cores and units stop, descriptors complete, no Keep stream restarts, the manager drops the member's
streams from the directory. -/
def State.moduleFault (s : State) (cause : Nat) : State :=
  let s := (s.rmk.rings.map (·.1)).foldl deadRing s
  let s := { s with
    hatch := { s.hatch with cores := tabMap s.hatch.cores fun _ x => { x with running := none, waiting := none, since := none }, signals := [] }
    burin := tabMap s.burin fun _ b => { b with busy := none }
    streams := tabMap s.streams fun _ x => { x with restart := none, current := none }
    mem := { s.mem with queue := [] }
    ihx := { s.ihx with
      transfers := []
      xferActive := 0
      directory := s.ihx.directory.filter fun e => e.1 / 16384 != s.ihx.member } }
  s.enterFaulted cause

/-- EASEL_FAILOVER: an Easel processor fails; its partner takes over within 200 µs, with a repeat plan if the next Frame tick comes
first. Easel 3, or a second processor, is a module fault (18 R562). -/
def execEaselFailover (easel : Nat) (s : State) : Host.Outcome State Fault Refusal :=
  .next (
    if s.boot.phase != .ready || 4 ≤ easel || s.fault.easelOut.contains easel then s
    else
      let first := s.fault.easelOut.isEmpty
      let s := { s with fault := { s.fault with easelOut := s.fault.easelOut ++ [easel] } }
      if easel = 3 then s.moduleFault 4
      else if !first then s.moduleFault 5
      else
        let left := s.tb.frameAt + s.frameSubs - s.tb.sub
        ({ s with fault := { s.fault with repeatPlan := s.fault.repeatPlan || left < usToSubs 200 } }).raiseAlarm 0x0C (srcOf 10 easel)
          (easelPartner easel))

/-- MODULE_FAULT: a cause of the module class while the module is in service (18 R562, R563, R568). -/
def execModuleFault (cause : Nat) (s : State) : Host.Outcome State Fault Refusal :=
  .next (if s.boot.phase == .ready && 1 ≤ cause && cause ≤ 5 then s.moduleFault cause else s)

/-! ### The supply warning (18 R565, 19 R594) -/

/-- SUPPLY_WARNING: a comparison below 48.0 V stretches the Hatch and Burin clocks and Frosts Fill work (18 R565); at or above, the
measured voltage alone changes (19 R594). -/
def execSupplyWarning (volts : Nat) (s : State) : Host.Outcome State Fault Refusal :=
  atBusbar volts (
    if volts < vReset || !s.boot.powered || s.boot.phase == .reset then s
    else if vWarning ≤ volts then { s with boot := { s.boot with busbar := volts } } else
    let new := !s.boot.warning
    let low := if new then volts else min s.pwr.lowest volts
    let s := { s with
      boot := { s.boot with warning := true, stretched := true, busbar := volts }
      pwr := { s.pwr with lowest := low, stretchedFrame := true } }
    if new then
      let s := { s with pwr := { s.pwr with warnCount := satAdd s.pwr.warnCount 1 0xFFFF } }
      let fills := (s.jobs.map (·.2)).filter (·.fill)
      (fills.foldl (fun s j => s.requestFrost j.id) (s.bump 0x280 1)).raiseAlarm 0x01 0 (10 * low)
    else s)

end Sys2Proof.Machine
end

