-- ==== Sys2Proof/Machine/Engines.lean ====
section
/-! DEFINITION. Tracer, Scriber and the weight chain (09 R256 to R282, R291): ENGINE_ENTRY_ISSUE, TRANSFER_COMPLETE, CHAIN_GRANT,
CHAIN_DATA_ARRIVAL, WAIT_TIMEOUT. -/

namespace Sys2Proof.Machine

open Sys2Proof

/-! ### Lists (09 R262, R266, R268) -/

/-- An entry of a list as the field controller expands it, with the row it belongs to and that row's read position (09 R266). -/
abbrev Item := Entry × Nat × Nat

/-- An entry as it stands, or one for each row that the sequence's plan listed at its close, in increasing row order (09 R266). A COPY from
a feature queue without ROW_EXPAND names no row; the spec does not say whose queue it reads, and here it reads zeros (log entry 41, DESIGN
CHOICE). -/
def expandEntry (rows : List PlanRow) (e : Entry) : List Item :=
  if e.rowExpand then rows.map fun r => ({ e with srcOff := e.srcOff + r.at_, dstOff := e.dstOff + r.row * e.len }, r.stream, r.at_)
  else [(e, noStream, 0)]

/-- The stroke image of a job. -/
def State.strokes (s : State) (j : Job) : List Byte := ((s.model j.handle).map fun m => strokeImage m.image).getD []

/-- The list of an engine for a stroke of a job, expanded for a sequence of its strokes (09 R262, R266). -/
def State.engineList (s : State) (j : Job) (eng : Engine) (stroke seq : Nat) : List Item :=
  let k := s.strokes j
  let rows := if j.workFrame ≤ seq then j.plans.getD (seq - j.workFrame) [] else []
  if stroke < strokeCount k then (((strokeAt k stroke).list k eng).map (expandEntry rows)).flatten.take 1024 else []

/-- Key of a stroke's list in a job's positions. -/
def walkKey (stroke : Nat) : Engine → Nat
  | .tracer => 2 * stroke
  | .scriber => 2 * stroke + 1

/-- Where an engine is in a stroke's list: sequence, position, bytes of that entry already in transfers (09 R268). A list that ends is
walked again in the next sequence. Tracer entries of a sequence that has ended are not issued any more, nor Scriber entries of one
before that (09 R273, R274). -/
def State.walk (s : State) (j : Job) (eng : Engine) (stroke : Nat) : Nat × Nat × Nat :=
  let w := (tabGet j.walks (walkKey stroke eng)).getD (0, 0, 0)
  let least := match eng with
    | .tracer => j.workFrame
    | .scriber => j.workFrame - 1
  let w := if w.1 < least then (least, 0, 0) else w
  if (s.engineList j eng stroke w.1).length ≤ w.2.1 && w.2.2 = 0 then (w.1 + 1, 0, 0) else w

/-- Whether it is a list's turn on its core: every earlier stroke's list of its sequence, and every list of the sequence before, has been
walked (09 R268). -/
def State.listTurn (s : State) (j : Job) (core : Nat) (eng : Engine) (stroke seq : Nat) : Bool :=
  let k := s.strokes j
  strokeHome k j stroke == some core && (List.range (strokeCount k)).all fun p =>
    p = stroke || strokeHome k j p != some core ||
      (let w := s.walk j eng p
       if p < stroke then seq < w.1 || (s.engineList j eng p seq).isEmpty
       else seq ≤ w.1 || (s.engineList j eng p (seq - 1)).isEmpty)

/-- An engine of a core. -/
def Core.engine (x : Core) (e : Engine) : EngineState :=
  match e with
  | .tracer => x.tracer
  | .scriber => x.scriber

/-- Sets an engine of a core. -/
def Core.setEngine (x : Core) (e : Engine) (y : EngineState) : Core :=
  match e with
  | .tracer => { x with tracer := y }
  | .scriber => { x with scriber := y }

/-- A job's link. -/
def State.link (s : State) (j : Job) (i : Nat) : Link :=
  match s.model j.handle with
  | some m => linkAt (strokeImage m.image) i
  | none => ⟨0, 0, 0, 0⟩

/-- Whether an engine produces into a link; a link that the chain fills is the Tracer's (09 R261, R263). -/
def Link.producedBy (l : Link) (e : Engine) : Bool :=
  match e with
  | .tracer => l.producer = 1 || l.producer = 3
  | .scriber => l.producer = 2

/-- The counter of a core that an entry's WAIT takes from, with the physical pair: ROOM where the engine produces, READY where it
consumes (09 R263). -/
def State.waitOn (s : State) (j : Job) (core : Nat) (eng : Engine) (e : Entry) : Nat × Counter :=
  let l := s.link j e.waitLink
  ((j.pair core l.pair).getD 0, if l.producedBy eng then .room else .ready)

/-- Whether an entry's WAIT is satisfied on its core (09 R268). -/
def State.waitMet (s : State) (j : Job) (core : Nat) (eng : Engine) (e : Entry) : Bool :=
  let w := s.waitOn j core eng e
  !e.wait || e.waitN ≤ (s.core core).counter w.1 w.2

/-- Consumes an entry's WAIT. -/
def State.takeWait (s : State) (j : Job) (core : Nat) (eng : Engine) (e : Entry) : State :=
  if e.wait then
    let w := s.waitOn j core eng e
    let x := s.core core
    s.setCore core (x.setCounter w.1 w.2 (x.counter w.1 w.2 - e.waitN))
  else s

/-! ### Spaces (09 R264, R291; 10 R304, R314) -/

/-- Extents of a job's scratch region: 32 MiB and 512 KiB for each of 256 rows (10 R304). -/
def scratchExtents : Nat := 80

/-- OUTPUT_BYTES of an adaptation job. -/
def State.outputBytes (s : State) (j : Job) : Nat :=
  match j.kind with
  | .adapt ring seq => ((s.desc ring seq).map (·.outputBytes)).getD 0
  | .guest _ n => n
  | _ => 0

/-- Whether a range lies in a window or region of a job that allows the access (09 R264, R291; 10 R304). -/
def State.spaceOk (s : State) (j : Job) (core space handle off len : Nat) (write : Bool) : Bool :=
  let img := (s.model j.handle).map (·.image)
  match space with
  | 0 | 5 => (j.window core handle).any fun w => off + len ≤ w.limit - w.base && (w.writable || !write)
  | 1 => !write && off + len ≤ (img.map imgWeightBytes).getD 0
  | 2 =>
    match handle with
    | 0 => !write && off + len ≤ (img.map (·.length)).getD 0
    | 1 => off + len ≤ 2097152 * scratchExtents
    | 2 => !write && off + len ≤ j.input.length
    | 3 => off + len ≤ s.outputBytes j
    | _ => false
  | 3 => !write && handle = 0 && off + len ≤ 262144
  | 6 => !write && j.fill && handle = 2 && off + len ≤ j.input.length
  | _ => false

/-- The core numbers of a link on a job's binding: the producer's and the consumer's (09 R259). -/
def State.linkEndsOf (s : State) (j : Job) (i : Nat) : Nat × Nat :=
  linkEnds (((s.model j.handle).map (·.image)).getD []) j.cores i

/-- The core that an entry's NOTIFY and a space-5 destination reach, and the one its RELEASE reaches: the consumer's of the one link, the
producer's of the other (09 R259, R264). -/
def State.notifyCore (s : State) (j : Job) (e : Entry) : Nat := (s.linkEndsOf j e.notLink).2
@[inherit_doc State.notifyCore] def State.releaseCore (s : State) (j : Job) (e : Entry) : Nat := (s.linkEndsOf j e.relLink).1

/-- The core whose windows a destination names: the link's consumer for space 5, else the engine's own (09 R264). -/
def State.dstCore (s : State) (j : Job) (core : Nat) (e : Entry) : Nat := if spaceOf e.dst = 5 then s.notifyCore j e else core

/-- Whether an item's ranges pass at issue; in a feature queue its offset counts from the row's read position (09 R264, R266, R291). -/
def State.entryFits (s : State) (j : Job) (core : Nat) (n : Item) : Bool :=
  let e := n.1
  (!(e.op = 1 || e.op = 2) || s.spaceOk j core (spaceOf e.src) (handleOf e.src) (e.srcOff - n.2.2) e.len false)
    && (e.op = 0 || s.spaceOk j (s.dstCore j core e) (spaceOf e.dst) (handleOf e.dst) e.dstOff e.len true)

/-- Address in a core's Plate of an offset into a window of a job. -/
def plateOff (j : Job) (core handle off : Nat) : Nat := ((j.window core handle).map (·.base)).getD 0 + off

/-- Extents an owner holds in the general pool, in order. -/
def State.extents (s : State) (owner : Nat) : List Nat := (s.mem.poolUsed.filter (·.1 == owner)).map (·.2)

/-- Module address of an offset in an owner's extents, counted from its first extent (10 R300, R304). -/
def State.poolAddr (s : State) (owner off : Nat) : Nat :=
  extentAddr ((s.extents owner).getD (off / 2097152) 0) + off % 2097152

/-- First extent of a region among a job's extents: scratch, input, output (10 R304). -/
def regionExtent (j : Job) (handle : Nat) : Nat :=
  match handle with
  | 2 => scratchExtents
  | 3 => scratchExtents + ceilDiv j.input.length 2097152
  | _ => 0

/-- Module address of a stream's feature queue or audio ring (10 R301). -/
def streamBuffer (id : Nat) : Nat := 0x800000000 + 1048576 * id

/-- Module address a transfer's DRAM side starts at, none if it touches no DRAM: a hot model's space 1 is Plate (10 R314). -/
def State.dramAddr (s : State) (j : Job) (space handle off stream : Nat) : Option Nat :=
  match space with
  | 1 =>
    match s.model j.handle with
    | some m => if m.hot then none else some (s.poolAddr j.handle (imgWeightOff m.image + off))
    | none => none
  | 2 => some (if handle = 0 then s.poolAddr j.handle off else s.poolAddr (jobOwner j.id) (2097152 * regionExtent j handle + off))
  | 3 => some (streamBuffer stream + off % 262144)
  | 6 => if j.home.isNone then some (s.poolAddr (jobOwner j.id) (2097152 * regionExtent j 2 + off)) else none
  | _ => none

/-- Bytes of a stream's feature queue from a place in the ring on (10 R301). -/
def queueBytes (x : Stream) (off len : Nat) : List Byte :=
  (List.range len).map fun i =>
    let p := (off + i) % 262144
    (((x.records[(p / 128 + 2048 - x.popped % 2048) % 2048]?).map (·.data)).getD []).getD (p % 128) 0

/-- Bytes of a source (09 R264). -/
def State.spaceBytes (s : State) (j : Job) (core space handle off len stream : Nat) : List Byte :=
  let img := ((s.model j.handle).map (·.image)).getD []
  match space with
  | 0 => memBytes s.hatch.plate (plateAt core j.id handle off) len
  | 1 => bytesAt (weightImage img) off len
  | 2 =>
    match handle with
    | 0 => bytesAt img off len
    | 1 => (List.range len).map fun i => memRead s.dram (s.poolAddr (jobOwner j.id) (off + i))
    | 2 => bytesAt j.input off len
    | _ => memBytes j.output off len
  | 3 => ((s.stream stream).map fun x => queueBytes x off len).getD (zeros len)
  | 6 => bytesAt j.input off len
  | _ => zeros len

/-- Writes bytes at offsets of a job's scratch region. -/
def State.scratchStore (s : State) (j : Job) (off : Nat) (b : List Byte) : State :=
  let put (m : List Host.Cell) (i : Nat) : List Host.Cell := memWrite m (s.poolAddr (jobOwner j.id) (off + i)) (b.getD i 0)
  { s with dram := (List.range b.length).foldl put s.dram }

/-- Writes bytes at a destination (09 R264, R271). -/
def State.spaceStore (s : State) (j : Job) (core space handle off : Nat) (b : List Byte) : State :=
  match space with
  | 0 | 5 => { s with hatch := { s.hatch with plate := memStore s.hatch.plate (plateAt core j.id handle off) b } }
  | 2 => if handle = 1 then s.scratchStore j off b else s.setJob { j with output := memStore j.output off b }
  | _ => s

/-! ### Transfers (09 R269, R270, R281, R282) -/

/-- The running sub-tick count as a deadline (09 R281). -/
def State.nowWord (s : State) : Word := BitVec.ofNat 32 s.tb.sub

/-- The earlier of two deadlines, by their signed difference (09 R281). -/
def earlier (a b : Word) : Word := if (b - a).toInt < 0 then b else a

/-- An entry's own deadline (09 R282). -/
def State.ownDeadline (s : State) (j : Job) (eng : Engine) (e : Entry) (notifyCore releaseCore : Nat) : Word :=
  let count (core : Nat) (l : Link) (c : Counter) : Nat := (s.core core).counter ((j.pair core l.pair).getD 0) c
  let n := s.link j e.notLink
  let r := s.link j e.relLink
  if j.fill then BitVec.ofNat 32 (s.tb.sub + s.frameSubs)
  else match eng with
  | .tracer =>
    if e.notify && 0 < n.slotTime then BitVec.ofNat 32 (s.tb.sub + count notifyCore n .ready * n.slotTime)
    else BitVec.ofNat 32 (s.tb.frameAt + s.frameSubs)
  | .scriber =>
    if e.release && 0 < r.slotTime then BitVec.ofNat 32 (s.tb.sub + count releaseCore r .room * r.slotTime)
    else BitVec.ofNat 32 (s.tb.frameAt + s.frameSubs)

/-- Whether the next entry merges into the transfer that ends an entry (09 R270); one transfer has one destination core (09 R269). -/
def State.canMerge (s : State) (j : Job) (a b : Item) : Bool :=
  a.1.op == b.1.op && a.1.src == b.1.src && a.1.dst == b.1.dst && a.2 == b.2 && a.1.op != 0 && a.1.op != 3
    && (a.1.op == 4 || b.1.srcOff == a.1.srcOff + a.1.len) && b.1.dstOff == a.1.dstOff + a.1.len
    && !a.1.release && !a.1.notify && !b.1.wait && !a.1.nomerge && !b.1.nomerge
    && (spaceOf a.1.dst != 5 || s.notifyCore j a.1 == s.notifyCore j b.1)

/-- What one transfer carries: its length, the entries it ends, bytes of the entry after them, the entry whose signals it sends, the
last entry it takes bytes of, and the spans of a CHAIN_SEND (09 R269, R270, R282). -/
structure Span where
  len   : Nat
  ended : Nat
  part  : Nat
  last  : Entry
  touch : Entry
  spans : List (Nat × Nat × Bool)

/-- What a transfer that ends an entry takes in besides (09 R270). `room` bytes are left in the aligned window; `grants` bounds the
CHAIN_SENDs that can be issued. -/
def State.mergeRun (s : State) (j : Job) : List Item → Item → (room grants : Nat) → Span → Span
  | [], _, _, _, p => p
  | n :: rest, cur, room, grants, p =>
    if s.canMerge j cur n && 0 < room && (n.1.op != 2 || 0 < grants) then
      if n.1.len ≤ room then
        s.mergeRun j rest n (room - n.1.len) (grants - 1)
          ⟨p.len + n.1.len, p.ended + 1, 0, n.1, n.1, p.spans ++ [(n.1.len, n.1.len, true)]⟩
      else ⟨p.len + room, p.ended, room, p.last, n.1, p.spans ++ [(n.1.len, room, false)]⟩
    else p

/-- Address that decides where a transfer is split: the source's, the destination's for ZERO (09 R269). Regions begin at 2 MiB
boundaries, feature queues at 1 MiB; weights lie behind the image's other parts (10 R300, R301). -/
def State.splitAddr (s : State) (j : Job) (core : Nat) (e : Entry) : Nat :=
  let side (x off : Nat) : Nat :=
    match spaceOf x with
    | 0 => plateOff j core (handleOf x) off
    | 5 => plateOff j (s.notifyCore j e) (handleOf x) off
    | 1 => ((s.model j.handle).map fun m => imgWeightOff m.image).getD 0 + off
    | _ => off
  if e.op = 4 then side e.dst e.dstOff else side e.src e.srcOff

/-- A signal of an entry on a link of its job (09 R263). -/
def State.sigOf (s : State) (j : Job) (on : Bool) (core link n : Nat) : Option LinkSig :=
  if on then (j.pair core (s.link j link).pair).map fun p => (core, p, n) else none

/-- Whether a transfer counts toward the 4 outstanding of an engine (09 R256, R273): a MARK moves nothing. -/
def Xfer.counts (t : Xfer) : Bool := 0 < t.len

/-- Whether an engine has a transfer to spare (09 R256, R273 condition 3). -/
def EngineState.spare (x : EngineState) : Bool := (x.outstanding.filter Xfer.counts).length < 4

/-- Grants of a job's successor that a core holds (09 R277). -/
def Core.grantsOf (x : Core) (id : Nat) : List Word := (x.grants.filter (·.1 == id)).map (·.2)

/-- The grants of a core without the first `n` of a job. -/
def dropGrants (id : Nat) : Nat → List (Nat × Word) → List (Nat × Word)
  | 0, gs => gs
  | _, [] => []
  | n + 1, g :: rest => if g.1 = id then dropGrants id n rest else g :: dropGrants id (n + 1) rest

/-- Whether an engine may begin entries of a job: bound, and no Frost request pending, one that waits behind 16 others included (09 R273
condition 5, R274; log entry 41, DESIGN CHOICE). -/
def State.mayFetch (_ : State) (j : Job) : Bool := j.state == .bound && !j.frostNext

/-- The next transfer of an entry, of which `part` bytes are already in transfers (09 R269, R270, R282). Under a pending Frost nothing
else is issued, so nothing merges (09 R273 condition 5). A Fill job's CHAIN_SEND takes its class from the row for Fill transfers, and the
earlier deadline from its own row: the spec does not say which row of the two holds (log entry 40, DESIGN CHOICE). -/
def State.formXfer (s : State) (j : Job) (core : Nat) (eng : Engine) (stroke pos part : Nat) (list : List Item) (n : Item) : Xfer × Span :=
  let e := n.1
  let grants := (s.core core).grantsOf j.id
  let room := 4096 - (s.splitAddr j core e + part) % 4096
  let piece := min (e.len - part) room
  let ends := part + piece = e.len
  let after := if s.mayFetch j then (list.drop (pos + 1)).takeWhile (s.entryFits j core) else []
  let r := if ends then s.mergeRun j after n (room - piece) (grants.length - 1) ⟨piece, 1, 0, e, e, [(e.len, piece, true)]⟩
    else ⟨piece, 0, part + piece, e, e, [(e.len, piece, false)]⟩
  let own := s.ownDeadline j eng r.touch (s.notifyCore j r.touch) (s.releaseCore j r.touch)
  let t : Xfer := {
    core := core, engine := eng, job := j.id, stroke := stroke, entry := pos, op := e.op
    srcSpace := spaceOf e.src, srcHandle := handleOf e.src, srcOff := e.srcOff + part, stream := n.2.1
    dstSpace := spaceOf e.dst, dstHandle := handleOf e.dst, dstOff := e.dstOff + part
    dstCore := s.dstCore j core e
    len := r.len, spans := if e.op = 2 then r.spans else [], chain := 0
    notify := if ends then s.sigOf j r.last.notify (s.notifyCore j r.last) r.last.notLink r.last.notN else none
    release := if ends then s.sigOf j r.last.release (s.releaseCore j r.last) r.last.relLink r.last.relN else none
    deadline := if e.op = 2 then (grants.take r.spans.length).foldl earlier own else own
    issued := s.tb.sub, live := !j.fill, data := [], fetched := false, done := false }
  (t, r)

/-- Puts a new transfer on its way: to the channel controllers if it touches DRAM, to the home module for a remote read; otherwise
its bytes can move at once (09 R264, R271; 15 R481). -/
def State.launch (s : State) (j : Job) (t : Xfer) : State :=
  let mark (s : State) (t : Xfer) : State :=
    let c := s.core t.core
    let e := c.engine t.engine
    s.setCore t.core (c.setEngine t.engine { e with outstanding := e.outstanding.dropLast ++ [t] })
  let reads := t.op = 1 || t.op = 2
  let dram := if reads && t.dstSpace != 2 then s.dramAddr j t.srcSpace t.srcHandle t.srcOff t.stream
    else if t.dstSpace = 2 then s.dramAddr j 2 t.dstHandle t.dstOff 0 else none
  if reads && t.srcSpace = 6 && j.home.isSome then
    let tag := j.nextTag
    let s := s.setJob { j with
      nextTag := (tag + 1) % 2 ^ 32
      credits := j.credits + 1
      remotes := j.remotes ++ [⟨tag, t.core, t.srcHandle, t.srcOff, t.dstOff, t.len, 0, s.tb.sub⟩] }
    (mark s { t with stream := tag }).sendRead j tag 0 t.srcOff t.len
  else
    let t := if t.op = 4 then { t with data := zeros t.len, fetched := true }
      else if t.srcSpace = 0 then { t with data := s.spaceBytes j t.core 0 t.srcHandle t.srcOff t.len 0, fetched := true }
      else t
    match dram with
    | some _ =>
      let s := mark s t
      { s with mem := { s.mem with queue := s.mem.queue ++ [t] } }
    | none =>
      mark s { t with
        data := if reads then s.spaceBytes j t.core t.srcSpace t.srcHandle t.srcOff t.len t.stream else t.data
        fetched := true
        done := true }

/-- Counts a transfer (18 R575). -/
def State.countXfer (s : State) (t : Xfer) (merges : Nat) : State :=
  let f := EvScope.field (coreField t.core)
  let s := match t.engine with
    | .tracer => (s.bump 0x050 1 f).bump 0x051 t.len f
    | .scriber => (s.bump 0x052 1 f).bump 0x053 t.len f
  let s := s.bump 0x054 merges f
  if t.op = 2 then s.bump 0x055 1 f else s

/-- Whether an engine may take up a list: no entry of another one is begun (09 R268). -/
def State.engineFree (s : State) (x : EngineState) (eng : Engine) (id stroke : Nat) : Bool :=
  (x.job = id && x.stroke = stroke) || !(s.job x.job).any fun j => 0 < ((tabGet j.walks (walkKey x.stroke eng)).getD (0, 0, 0)).2.2

/-- Whether the plan that is active, or for the Tracer the next one once it has closed, holds a sequence of a job's strokes (09 R273
condition 1, R274). While a job's next sequence is to take in more cores, nothing is fetched ahead for it on the old ones (03 R101). -/
def State.seqPlanned (s : State) (j : Job) (eng : Engine) (seq : Nat) : Bool :=
  match eng with
  | .tracer =>
    if !j.more.isEmpty then seq = j.workFrame && !j.issued.isEmpty
    else if seq = j.workFrame then s.jobWorks j || !j.plans.isEmpty
    else j.workFrame < seq && seq < j.workFrame + j.plans.length
  | .scriber => seq + 1 = j.workFrame || (seq = j.workFrame && s.jobWorks j)

/-- Whether an engine of a core can act for a job: it serves and is free of the job's end, it has a transfer to spare, and the Tracer of a
Live job does not wait for Plate of Fill work that is being saved (09 R273 condition 3, 11 R349). -/
def State.engineUp (s : State) (j : Job) (core : Nat) (eng : Engine) : Bool :=
  s.boot.phase == .ready && s.coreServes core && j.cores.contains core && (s.core core).jobs.contains j.id
    && ((s.core core).engine eng).spare
    && (eng == .scriber || j.fill || !(s.coreJobs core).any fun f => f.fill && f.state == .frosting)

/-- Whether a stroke's entries may be issued for a job on a core: in a plan that lets this engine run; a begun entry is finished under a
Frost request (09 R273, R274, R292). -/
def State.engineRuns (s : State) (j : Job) (core : Nat) (eng : Engine) (stroke : Nat) : Bool :=
  let w := s.walk j eng stroke
  s.engineUp j core eng && (s.mayFetch j || ((j.state == .bound || j.state == .frosting) && 0 < w.2.2))
    && s.seqPlanned j eng w.1 && s.listTurn j core eng stroke w.1 && s.engineFree ((s.core core).engine eng) eng j.id stroke

/-- A withdrawn grant that a core has to form again before its list goes on (09 R292). -/
def State.regrant (s : State) (j : Job) (core : Nat) : Option (Nat × Nat × Nat) :=
  j.again.find? fun r => strokeHome (s.strokes j) j r.1 == some core

/-- An engine at a list, and the list's position behind what it issues. -/
def State.setWalk (s : State) (id : Nat) (core : Nat) (eng : Engine) (stroke : Nat) (w : Nat × Nat × Nat) : State :=
  let c := s.core core
  let x := c.engine eng
  let s := s.setCore core (c.setEngine eng { x with job := id, stroke := stroke, since := tabErase x.since id })
  match s.job id with
  | some j => s.setJob { j with walks := tabSet j.walks (walkKey stroke eng) w }
  | none => s

/-- An engine stops at an entry whose WAIT or grant is missing (09 R273, R291): the list keeps the sub-tick of its first stop, whatever
other jobs' lists do. -/
def State.stall (s : State) (id core : Nat) (eng : Engine) (stroke : Nat) : State :=
  let c := s.core core
  let x := c.engine eng
  let at_ := match tabGet x.since id with
    | some w => if w.1 = stroke then w.2 else s.tb.sub
    | none => s.tb.sub
  s.setCore core (c.setEngine eng { x with job := id, stroke := stroke, since := tabSet x.since id (stroke, at_) })

/-- A signal of an engine: to its own core at once, to another in order behind what was sent before (04 R137, 09 R272). -/
def engineSignal (core : Nat) (ctr : Counter) (sig : Option LinkSig) (s : State) : State :=
  match sig with
  | none => s
  | some (target, p, n) =>
    if target = core then s.signal core p ctr n
    else { s with hatch := { s.hatch with signals := s.hatch.signals ++ [⟨core, target, p, ctr, n, s.tb.sub⟩] } }

/-- The RELEASEs that can go out, oldest transfer first, and the transfers without them: one whose source bytes have all been read, as
long as no NOTIFY stands before it in the list (09 R272). -/
def takeReleases : List Xfer → List LinkSig × List Xfer
  | [] => ([], [])
  | t :: rest =>
    if !t.fetched then ([], t :: rest)
    else
      let r := if t.notify.isSome then ([], rest) else takeReleases rest
      (t.release.toList ++ r.1, { t with release := none } :: r.2)

/-- An engine sends the RELEASEs whose source bytes have been read (09 R272). -/
def State.sendReleases (s : State) (core : Nat) (eng : Engine) : State :=
  let c := s.core core
  let x := c.engine eng
  let r := takeReleases x.outstanding
  let s := s.setCore core (c.setEngine eng { x with outstanding := r.2 })
  r.1.foldl (fun s g => engineSignal core .room (some g) s) s

/-- What is left of an entry's destination in the job's own windows once `done` bytes of it are in transfers (05 R166, 09 R268). -/
def restOf (j : Job) (e : Entry) (done : Nat) : List PartEntry :=
  if 0 < done && spaceOf e.dst = 0 then [⟨j.id, handleOf e.dst, e.dstOff + done, e.len - done⟩] else []

/-- The next transfer of a begun or new entry is issued (09 R268 to R270). -/
def issueXfer (j : Job) (core : Nat) (eng : Engine) (stroke : Nat) (w : Nat × Nat × Nat) (list : List Item) (n : Item) (s : State) : State :=
  let r := s.formXfer j core eng stroke w.2.1 w.2.2 list n
  let c := s.core core
  let x := c.engine eng
  let s := s.setCore core { c.setEngine eng { x with
      outstanding := x.outstanding ++ [r.1]
      part := x.part.filter (·.job != j.id) ++ restOf j r.2.touch r.2.part } with
    grants := if n.1.op = 2 then dropGrants j.id r.2.ended c.grants else c.grants }
  let s := s.setWalk j.id core eng stroke (w.1, w.2.1 + r.2.ended, r.2.part)
  let merges := r.2.spans.length - 1
  match s.job j.id with
  | some j => (((s.launch j r.1).sendReleases core eng).countXfer r.1 merges)
  | none => s

/-- ENGINE_ENTRY_ISSUE: an engine of a core issues the next transfer of its list for a stroke: `part` bytes of the entry are already on
their way. At the start of an entry it consumes
the WAIT and checks the ranges; an entry out of its window or region faults the job (09 R268, R273, R274, R291). A remote read waits for
a request credit (15 R477). -/
def execEngineEntryIssue (core : Nat) (engine : Engine) (job stroke entry part : Nat) (s : State) : Host.Outcome State Fault Refusal :=
  .next (
    match s.job job with
    | none => s
    | some j =>
      if !s.engineRuns j core engine stroke || (engine == .tracer && (s.regrant j core).isSome) then s else
      let c := s.core core
      let w := s.walk j engine stroke
      let list := s.engineList j engine stroke w.1
      match list[w.2.1]? with
      | none => s
      | some n =>
        let e := n.1
        if e.op = 3 || (entry, part) != w.2 || (spaceOf e.src = 6 && !s.hasCredits j 1) then s
        else if 0 < w.2.2 then issueXfer j core engine stroke w list n s
        else if !s.waitMet j core engine e then
          let l := s.link j e.waitLink
          let s := s.stall job core engine stroke
          if engine == .tracer && (l.producer = 0 || l.producer = 2) then s.bump 0x056 1 (.field (coreField core)) else s
        else if e.op = 2 && (c.grantsOf job).isEmpty then s.stall job core engine stroke
        else if !s.entryFits j core n then s.tearDown job 129
        else
          let s := s.takeWait j core engine e
          if e.op = 0 then
            let t : Xfer := {
              core := core, engine := engine, job := job, stroke := stroke, entry := w.2.1, op := 0
              srcSpace := 0, srcHandle := 0, srcOff := 0, stream := 0, dstSpace := 0, dstHandle := 0, dstOff := 0, dstCore := core
              len := 0, spans := [], chain := 0
              notify := s.sigOf j e.notify (s.notifyCore j e) e.notLink e.notN
              release := s.sigOf j e.release (s.releaseCore j e) e.relLink e.relN
              deadline := s.nowWord, issued := s.tb.sub, live := !j.fill, data := [], fetched := true, done := true }
            let c := s.core core
            let x := c.engine engine
            let s := s.setCore core (c.setEngine engine { x with
              outstanding := if e.notify || e.release then x.outstanding ++ [t] else x.outstanding })
            (s.setWalk job core engine stroke (w.1, w.2.1 + 1, 0)).sendReleases core engine
          else issueXfer j core engine stroke w list n s)

/-! ### Completion (09 R271, R272) -/

/-- The successor of a core on its job's weight chain (09 R275). -/
def successor (j : Job) (core : Nat) : Option Nat :=
  match j.cores.findIdx? (· == core) with
  | some i => j.cores[i + 1]?
  | none => none

/-- The pieces of a completed CHAIN_SEND of a job, one to each entry it carried. -/
def chainPieces (job : Nat) : List (Nat × Nat × Bool) → List Byte → List ChainPiece
  | [], _ => []
  | p :: rest, b => ⟨job, p.1, b.take p.2.1, p.2.2⟩ :: chainPieces job rest (b.drop p.2.1)

/-- Sends chain data from a core to its successor (09 R278). -/
def State.sendChain (s : State) (j : Job) (core : Nat) (ps : List ChainPiece) : State :=
  match successor j core with
  | some n => s.setCore n { s.core n with chainIn := (s.core n).chainIn ++ ps }
  | none => s

/-- A transfer whose bytes have landed: what is left of it is its signals. -/
def Xfer.landed (t : Xfer) : Xfer :=
  { t with op := 0, len := 0, data := [], srcSpace := 0, dstSpace := 0, fetched := true, done := true }

/-- The first transfer that can land, changed. -/
def landFirst : List Xfer → List Xfer
  | [] => []
  | t :: rest => if t.done && t.op != 0 then t.landed :: rest else t :: landFirst rest

/-- The transfers at the head of an engine's list that have landed, and the rest. -/
def takeLanded : List Xfer → List Xfer × List Xfer
  | [] => ([], [])
  | t :: rest => if t.op = 0 && t.done then (t :: (takeLanded rest).1, (takeLanded rest).2) else ([], t :: rest)

/-- An engine sends the signals of the entries that are complete, with every entry before them (09 R272). -/
def State.sendSignals (s : State) (core : Nat) (eng : Engine) : State :=
  let c := s.core core
  let x := c.engine eng
  let r := takeLanded x.outstanding
  let s := s.setCore core (c.setEngine eng { x with outstanding := r.2 })
  (r.1.foldl (fun s t => engineSignal core .ready t.notify (engineSignal core .room t.release s)) s).sendReleases core eng

/-- The bytes of a transfer land (09 R271); a CHAIN_SEND's go on to the successor (09 R278). -/
def State.landBytes (s : State) (core : Nat) (j : Job) (t : Xfer) : State :=
  let s := if t.op = 3 || t.dstSpace = 2 then s else s.spaceStore j t.dstCore t.dstSpace t.dstHandle t.dstOff t.data
  if t.op = 2 then s.sendChain j core (chainPieces j.id t.spans t.data) else s

/-- Whether an engine has stopped for a job's Frost: nothing of the job is under way but CHAIN_RECVs that no data has reached and reads
from another member (09 R292, 11 R340). -/
def engineStopped (j : Job) (x : EngineState) : Bool :=
  (x.outstanding.filter (·.job == j.id)).all fun t => !t.done && ((t.op = 3 && t.data.isEmpty) || (t.srcSpace = 6 && j.home.isSome))

/-- Whether a core of a job is at its safe point with its engines stopped (11 R331 step 2). -/
def coreStopped (j : Job) (x : Core) : Bool :=
  !x.running.any (·.job == j.id) && engineStopped j x.tracer && engineStopped j x.scriber
    && !x.chainIn.any (·.job == j.id)

/-- The positions of a job's lists at the start of a sequence. -/
def freshWalks (strokes seq : Nat) : Tab (Nat × Nat × Nat) := (List.range (2 * strokes)).map fun k => (k, (seq, 0, 0))

/-- Whether nothing of a job is under way: no sequence of its strokes runs, its engines have stopped, and its Scriber lists are walked to
the end of the last sequence. -/
def State.settled (s : State) (j : Job) : Bool :=
  j.issued.isEmpty && (j.walks.all fun w => w.2.2.2 = 0) && j.cores.all (fun c => coreStopped j (s.core c) && !(s.core c).faulted)
    && (List.range (strokeCount (s.strokes j))).all fun p => j.workFrame ≤ (s.walk j .scriber p).1

/-- What a core's engines have begun for a job is dropped. -/
def dropAhead (id : Nat) (x : Core) : Core :=
  { x with
    tracer := leaveEngine id x.tracer
    scriber := leaveEngine id x.scriber
    grants := x.grants.filter (·.1 != id) }

/-- A job takes in the cores that it has gained, between two sequences of its strokes: its windows, pairs and lists begin anew on all of
them (03 R101, 04 R133, 09 R258; log entry 12). -/
def State.settle (s : State) (id : Nat) : State :=
  match s.job id with
  | none => s
  | some j =>
    if j.more.isEmpty || !s.settled j then s else
    match s.model j.handle with
    | none => s
    | some m =>
      let s := j.cores.foldl (fun s c => s.setCore c (dropAhead id (s.core c))) s
      (s.setPairs m.image j.pairs j.held).setJob { j with
        cores := j.held
        more := []
        windows := jobWindows m.image j.held.length
        walks := freshWalks (strokeCount (strokeImage m.image)) j.workFrame
        again := [] }

/-- TRANSFER_COMPLETE: the oldest transfer of an engine whose bytes are there lands. A NOTIFY goes out once its entry and every one before
it are complete, and with it the RELEASEs behind it that can, in list order (09 R271, R272). With the last one of a sequence the job may take
in cores that it has gained (03 R101). -/
def execTransferComplete (core : Nat) (engine : Engine) (s : State) : Host.Outcome State Fault Refusal :=
  .next (
    let c := s.core core
    let x := c.engine engine
    match x.outstanding.find? fun t => t.done && t.op != 0 with
    | none => s.sendSignals core engine
    | some t =>
      let s := s.setCore core (c.setEngine engine { x with outstanding := landFirst x.outstanding })
      match s.job t.job with
      | none => s.sendSignals core engine
      | some j => ((s.landBytes core j t).sendSignals core engine).settle j.id)

/-! ### The weight chain (09 R275 to R278) -/

/-- The predecessor of a core on its job's weight chain. -/
def predecessor (j : Job) (core : Nat) : Option Nat :=
  match j.cores.findIdx? (· == core) with
  | some (i + 1) => j.cores[i]?
  | _ => none

/-- Whether a CHAIN_RECV waits for its WAIT or for its successor's grant (09 R277). -/
def State.grantMissing (s : State) (j : Job) (core : Nat) (e : Entry) : Bool :=
  !s.waitMet j core .tracer e || (e.chain != 0 && ((s.core core).grantsOf j.id).isEmpty)

/-- A core grants a CHAIN_RECV of a stroke's list to its predecessor with the earlier deadline (09 R277); the entry is then outstanding
(09 R256). It waits while its WAIT or its successor's grant is missing; an entry out of its window faults the job (09 R291). -/
def State.grant (s : State) (j : Job) (core stroke pos : Nat) (n : Item) (pred : Nat) : State × Bool :=
  let e := n.1
  if s.grantMissing j core e then (s.stall j.id core .tracer stroke, false)
  else if !s.entryFits j core n then (s.tearDown j.id 129, false)
  else
    let s := s.takeWait j core .tracer e
    let own := s.ownDeadline j .tracer e (s.notifyCore j e) (s.releaseCore j e)
    let deadline := if e.chain != 0 then earlier own (((s.core core).grantsOf j.id).headD own) else own
    let t : Xfer := {
      core := core, engine := .tracer, job := j.id, stroke := stroke, entry := pos, op := 3
      srcSpace := 4, srcHandle := 0, srcOff := 0, stream := 0
      dstSpace := 0, dstHandle := handleOf e.dst, dstOff := e.dstOff, dstCore := core
      len := e.len, spans := [], chain := e.chain
      notify := s.sigOf j e.notify (s.notifyCore j e) e.notLink e.notN
      release := s.sigOf j e.release (s.releaseCore j e) e.relLink e.relN
      deadline := deadline, issued := s.tb.sub, live := !j.fill, data := [], fetched := false, done := false }
    let c := s.core core
    let s := s.setCore core { c with
      tracer := { c.tracer with
        job := j.id
        stroke := stroke
        since := tabErase c.tracer.since j.id
        outstanding := c.tracer.outstanding ++ [t] }
      grants := if e.chain != 0 then dropGrants j.id 1 c.grants else c.grants }
    (s.setCore pred { s.core pred with grants := (s.core pred).grants ++ [(j.id, deadline)] }, true)

/-- The position in its list of the CHAIN_RECV that a core grants next (09 R277, R292). -/
def State.grantAt (s : State) (j : Job) (core stroke : Nat) : Nat :=
  match s.regrant j core with
  | some r => r.2.2
  | none => (s.walk j .tracer stroke).2.1

/-- A withdrawn grant is formed again (09 R292). -/
def State.formAgain (s : State) (j : Job) (core pred : Nat) (r : Nat × Nat × Nat) : State :=
  match (s.engineList j .tracer r.1 r.2.1)[r.2.2]? with
  | none => s
  | some n =>
    match s.grant j core r.1 r.2.2 n pred with
    | (s, false) => s
    | (s, true) =>
      match s.job j.id with
      | some j => s.setJob { j with again := j.again.erase r }
      | none => s

/-- A core grants the CHAIN_RECV at the head of a stroke's list. -/
def State.grantHead (s : State) (j : Job) (core stroke pred : Nat) : State :=
  let w := s.walk j .tracer stroke
  match (s.engineList j .tracer stroke w.1)[w.2.1]? with
  | none => s
  | some n =>
    if n.1.op != 3 then s else
    match s.grant j core stroke w.2.1 n pred with
    | (s, false) => s
    | (s, true) => s.setWalk j.id core .tracer stroke (w.1, w.2.1 + 1, 0)

/-- CHAIN_GRANT: a core whose CHAIN_RECV is at the head of its list grants it to its predecessor (09 R277). Grants that a Frost withdrew
are formed again first, whether or not a list has entries left (09 R292). -/
def execChainGrant (core job stroke entry pred : Nat) (s : State) : Host.Outcome State Fault Refusal :=
  .next (
    match s.job job with
    | none => s
    | some j =>
      if !s.mayFetch j || predecessor j core != some pred || entry != s.grantAt j core stroke || !s.engineUp j core .tracer then s else
      match s.regrant j core with
      | some r => if r.1 = stroke then s.formAgain j core pred r else s
      | none => if s.engineRuns j core .tracer stroke then s.grantHead j core stroke pred else s)

/-- The first CHAIN_RECV of a job in a list of transfers that is not full, changed. -/
def fillRecv (id : Nat) (f : Xfer → Xfer) : List Xfer → List Xfer
  | [] => []
  | t :: rest => if t.op = 3 && t.job = id && !t.done then f t :: rest else t :: fillRecv id f rest

/-- CHAIN_DATA_ARRIVAL: data from the predecessor is written into the slot of its job's next CHAIN_RECV and forwarded to the successor; a
length that differs from the CHAIN_SEND's faults the job (09 R276, R278, R291). -/
def execChainDataArrival (core : Nat) (s : State) : Host.Outcome State Fault Refusal :=
  .next (
    let c := s.core core
    match c.chainIn with
    | [] => s
    | p :: rest =>
      match c.tracer.outstanding.find? (fun t => t.op = 3 && t.job = p.job && !t.done), s.job p.job with
      | some t, some j =>
        if t.len != p.total then s.tearDown t.job 291 else
        let got : Xfer := { t with data := t.data ++ p.data, fetched := p.last, done := p.last }
        let s := s.setCore core { c with
          chainIn := rest
          tracer := { c.tracer with outstanding := fillRecv p.job (fun _ => got) c.tracer.outstanding } }
        let s := s.spaceStore j core 0 t.dstHandle (t.dstOff + t.data.length) p.data
        let s := if t.chain != 0 then s.sendChain j core [p] else s
        s.sendReleases core .tracer
      | _, _ => s)

/-! ### Waits that last too long (04 R138, 09 R291) -/

/-- Whether the WAIT or grant at which a job's list of a stroke stopped is still missing (09 R291). -/
def State.listWaits (s : State) (j : Job) (core : Nat) (eng : Engine) (stroke : Nat) : Bool :=
  match eng, s.regrant j core with
  | .tracer, some r =>
    ((s.engineList j .tracer r.1 r.2.1)[r.2.2]?).any fun n => s.grantMissing j core n.1
  | _, _ =>
    let w := s.walk j eng stroke
    ((s.engineList j eng stroke w.1)[w.2.1]?).any fun n =>
      w.2.2 = 0 && (if n.1.op = 3 then s.grantMissing j core n.1
        else !s.waitMet j core eng n.1 || (n.1.op = 2 && ((s.core core).grantsOf j.id).isEmpty))

/-- The jobs of which an engine's list on a core has waited for 4 Frames of their running time and waits still (09 R291). -/
def State.overdue (s : State) (core : Nat) (eng : Engine) : List Nat :=
  (((s.core core).engine eng).since.filter fun w =>
    s.stalled (some w.2.2) && (s.job w.1).any fun j => j.state == .bound && s.listWaits j core eng w.2.1).map (·.1)

/-- WAIT_TIMEOUT: a wait of a stroke, an engine's WAIT or a chain grant that is still missing after 4 Frames of the job's running time
faults the job (04 R138, 09 R291). -/
def execWaitTimeout (core : Nat) (s : State) : Host.Outcome State Fault Refusal :=
  .next (
    let x := s.core core
    let late := (s.overdue core .tracer ++ s.overdue core .scriber).foldl fun s id => s.tearDown id 291
    match x.running with
    | some r => if x.waiting.isSome && s.stalled x.since then s.tearDown r.job 138 else late s
    | none => late s)

end Sys2Proof.Machine
end

