-- ==== Sys2Proof/Machine/Dram.lean ====
section
/-! DEFINITION. The channel controllers (09 R283 R284, 10 R299 R307 to R317, 11 R347): DRAM_SERVICE, PROMOTION, DRAM_CORRECTED_READ,
DRAM_UNCORRECTABLE_READ, DRAM_SCRUB, REFRESH. -/

namespace Sys2Proof.Machine

open Sys2Proof

/-- The channel of a module address and the offset there (10 R299). -/
def State.channelPlace (s : State) (addr : Nat) : Nat × Nat :=
  let l := s.channels
  let n := max l.length 1
  (l.getD (addr / 4096 % n) 32, 4096 * (addr / 4096 / n) + addr % 4096)

/-- The channel of a module address. -/
def State.channelOf (s : State) (addr : Nat) : Nat := (s.channelPlace addr).1

/-- A channel. -/
def State.chan (s : State) (c : Nat) : Channel := (tabGet s.mem.chans c).getD (Channel.out 3)

/-- Sets a channel. -/
def State.setChan (s : State) (c : Nat) (x : Channel) : State :=
  { s with mem := { s.mem with chans := tabSet s.mem.chans c x } }

/-- Whether a channel is in service (10 R322). -/
def State.chanServes (s : State) (c : Nat) : Bool := s.channels.contains c

/-- Whether a transfer reads DRAM; the others write it. -/
def Xfer.reads (t : Xfer) : Bool := (t.op = 1 || t.op = 2) && t.dstSpace != 2

/-- The channel a waiting transfer goes to. -/
def State.xferChannel (s : State) (t : Xfer) : Nat :=
  match s.job t.job with
  | none => 32
  | some j =>
    let a := if t.reads then s.dramAddr j t.srcSpace t.srcHandle t.srcOff t.stream else s.dramAddr j 2 t.dstHandle t.dstOff 0
    s.channelOf (a.getD 0)

/-- Time left to a transfer's deadline, as a signed 32-bit difference (09 R281). -/
def State.slack (s : State) (t : Xfer) : Int := (t.deadline - s.nowWord).toInt

/-- Whether a transfer is urgent (09 R284). -/
def State.urgent (s : State) (t : Xfer) : Bool := isUrgent t.live (s.slack t)

/-- A waiting transfer as a controller compares it. -/
def State.waits (s : State) (t : Xfer) : Waiting := ⟨s.urgent t, s.slack t, t.issued, t.job, false⟩

/-- Whether one waiting transfer is served before another (09 R284). -/
def State.before (s : State) (a b : Xfer) : Bool := (s.waits a).before (s.waits b)

/-- The transfer a list serves first: of equals, the one that stands first. -/
def State.firstServed (s : State) : List Xfer → Option Xfer
  | [] => none
  | t :: rest =>
    match s.firstServed rest with
    | none => some t
    | some u => if s.before t u then some t else some u

/-- The first of a list of transfers that is the one a controller serves, whether or not its RELEASE has gone out, changed. -/
def changeXfer (t : Xfer) (f : Xfer → Xfer) : List Xfer → List Xfer
  | [] => []
  | x :: rest => if { x with release := none } == { t with release := none } then f x :: rest else x :: changeXfer t f rest

/-- A transfer's DRAM access: a read brings its bytes, a write is acknowledged; it is charged at its length (09 R271, R279). -/
def State.serve (s : State) (channel : Nat) (t : Xfer) : State :=
  match s.job t.job with
  | none => { s with mem := { s.mem with queue := s.mem.queue.erase t } }
  | some j =>
    let s := if s.urgent t then s.bump 0x0E1 1 else s
    let s := { s with mem := { s.mem with queue := s.mem.queue.erase t } }
    let data := if t.reads then s.spaceBytes j t.core t.srcSpace t.srcHandle t.srcOff t.len t.stream else t.data
    let s := if t.reads then s.bump (0x080 + channel) t.len
      else (s.spaceStore j t.core 2 t.dstHandle t.dstOff t.data).bump (0x0A0 + channel) t.len
    let c := s.core t.core
    let x := c.engine t.engine
    let s := s.setCore t.core (c.setEngine t.engine { x with
      outstanding := changeXfer t (fun x => { x with data := data, fetched := true, done := true }) x.outstanding })
    let s := s.sendReleases t.core t.engine
    s.charge j.session (some j.id) (if t.reads then { Account.zero with dramRd := t.len } else { Account.zero with dramWr := t.len })

/-- Sub-ticks in an hour. -/
def hourSubs : Nat := 88473600000

/-- Lines of a channel: 64 GB of 64 bytes (10 R299, R307). -/
def channelLines : Nat := 1000000000

/-- Transfers that wait at a channel. -/
def State.waitingAt (s : State) (channel : Nat) : List Xfer := s.mem.queue.filter fun t => s.xferChannel t == channel

/-- The scrub of a channel as a transfer: Fill, its deadline the end of the period (10 R311); of equals it comes last (log entry 40). -/
def State.scrubXfer (s : State) (channel : Nat) : Waiting :=
  let c := s.chan channel
  s.waitingFor false (c.scrubAt + s.mem.scrubPeriod * hourSubs : Nat) c.scrubAt (ringTie 4096)

/-- Whether the lines that a channel's scrub has still to read take all that is left of the period, at one burst of 8 transfers a line
(10 R293, R311; log entry 40). -/
def State.scrubPresses (s : State) (channel : Nat) : Bool :=
  let c := s.chan channel
  let left := channelLines - c.scrubLine
  ((c.scrubAt + s.mem.scrubPeriod * hourSubs : Nat) - (s.tb.sub : Int)) * 125 * s.cap.speed ≤ (left * 8 * 3072 : Nat)

/-- Whether the scrub of a channel is in the arbitration and comes before every transfer that waits there (09 R284, 10 R311). -/
def State.scrubFirst (s : State) (channel : Nat) : Bool :=
  s.scrubPresses channel && (s.waitingAt channel).all fun t =>
    (s.scrubXfer channel).before (s.waits t)

/-- The scrub reads one line; after the last one it begins again (10 R311). -/
def State.scrubOne (s : State) (channel : Nat) : State :=
  let c := s.chan channel
  if c.scrubLine + 1 < channelLines then s.setChan channel { c with scrubLine := c.scrubLine + 1 }
  else s.setChan channel { c with scrubLine := 0, scrubAt := s.tb.sub }

/-! ### What else enters the controllers (09 R289, 10 R317, 11 R347) -/

/-- Samples of the next piece: 16, fewer where a chunk ends (09 R289). A piece stays inside its chunk, on which its deadline rests. -/
def Stream.piece (x : Stream) : Nat :=
  match x.outBuf.head? with
  | none => 0
  | some (n, _) =>
    let stop := ((x.paces.find? fun p => p.1 ≤ n && n < p.1 + p.2.1).map fun p => p.1 + p.2.1).getD (n + 16)
    let k := min 16 (stop - n)
    if k ≤ x.outBuf.length then k else 0

/-- A stream's next piece: Live, by its last sample, from the sub-tick at which that was handed off (09 R282). -/
def State.pieceXfer (s : State) (x : Stream) : Waiting :=
  let n := ((x.outBuf.head?).map (·.1)).getD 0
  s.waitingFor true (s.audioDue x (n + x.piece - 1)) 0 x.job

/-- Address in a stream's audio ring of a sample: sample n at place n modulo 262,144 (10 R301; log entry 41, DESIGN CHOICE). -/
def audioAddr (id n : Nat) : Nat := streamBuffer id + 262144 + 3 * (n % 262144)

/-- The next transfer of a promotion: module address of its source, core and offset of its destination, length; the source stays inside one
4,096-byte window and the destination inside one core's part of the set (09 R269, 10 R316, R317). -/
def State.promotionPiece (s : State) (m : Model) (set : List Nat) (done : Nat) : Nat × Nat × Nat × Nat :=
  let part := max 1 (16384 * m.share)
  let addr := s.poolAddr m.handle (imgWeightOff m.image + done)
  (addr, set.getD (done / part) 0, done % part,
    min (imgWeightBytes m.image - done) (min (4096 - addr % 4096) (part - done % part)))

/-- Whether a promotion's job is bound and no Fill work lies in its set any more (10 R317, 11 R350). -/
def State.promotes (s : State) (set : List Nat) (job : Nat) : Bool :=
  (s.job job).any (·.state == .bound) && set.all fun c => (s.core c).jobs.all s.isLive

/-- Promotion copies that wait at a channel: Fill (10 R317). -/
def State.copiesAt (s : State) (channel : Nat) : List Waiting :=
  s.models.filterMap fun q =>
    match q.2.res with
    | .copying set job done x =>
      if s.promotes set job && s.channelOf (s.promotionPiece q.2 set done).1 = channel then
        some (s.waitingFor false x.2 x.1 job)
      else none
    | _ => none

/-- The piece of every stream that waits at a channel and has room in its audio ring. -/
def State.piecesAt (s : State) (channel : Nat) : List Waiting :=
  (s.streams.filter fun q => 0 < q.2.piece && q.2.audio.length + q.2.piece ≤ 262144 && s.channelOf (audioAddr q.1 (((q.2.outBuf.head?).map (·.1)).getD 0)) = channel).map
    fun q => s.pieceXfer q.2

/-- The save or restore of a job as it waits at the channels: Live, its deadline the end of the Frame in which the switch began (11
R347). -/
def State.switchXfer (s : State) (j : Job) : Waiting :=
  let began : Int := j.switch.1
  let at_ : Int := s.frameSubs
  s.waitingFor true (s.tb.frameAt - (if began < s.tb.frameAt then (s.tb.frameAt - began + at_ - 1) / max at_ 1 * at_ else 0) + at_) j.switch.1 j.id

/-- Sub-ticks in 8 µs, rounded up: 196.608 (11 R340; log entry 41, DESIGN CHOICE). -/
def eightUs : Nat := 197

/-- Whether every core of a job can be saved: stopped, no entry begun, not awaiting a takeover, no signal of the job on its way, and no
remote read without its reply in the first 8 µs behind the request (11 R340). -/
def State.frostReady (s : State) (j : Job) : Bool :=
  (j.walks.all fun w => w.2.2.2 = 0) && j.cores.all (fun c => coreStopped j (s.core c) && !(s.core c).faulted)
    && (s.hatch.signals.all fun g => !((s.pairOwner g.target g.pair).any (·.id == j.id)))
    && (j.remotes.isEmpty || j.switch.1 + eightUs ≤ s.tb.sub)

/-- Saves and restores that wait, at every channel: an area lies on all of them (11 R347). -/
def State.switchesWaiting (s : State) : List Waiting :=
  ((s.jobs.map (·.2)).filter fun j =>
    (j.state == .frosting && s.frostReady j) || (j.state == .thawing && !j.cores.any fun c => (s.core c).faulted)).map s.switchXfer

/-- What waits at a channel besides the engines' transfers. -/
def State.othersAt (s : State) (channel : Nat) : List Waiting := s.piecesAt channel ++ s.copiesAt channel ++ s.switchesWaiting

/-- Whether a channel serves something that is none of the engines' transfers: nothing that waits there goes before it (09 R284). -/
def State.channelServes (s : State) (channel : Nat) (x : Waiting) : Bool :=
  ((s.waitingAt channel).map s.waits ++ s.othersAt channel).all x.before

/-- Whether every channel in service serves a save or a restore. -/
def State.switchServed (s : State) (j : Job) : Bool := s.channels.all fun c => s.channelServes c (s.switchXfer j)

/-- DRAM_SERVICE: a channel's controller serves the engines' transfer that R284 puts first, which may be its scrub's (10 R311). What else
waits there has commands of its own, which are served first where R284 puts them first. -/
def execDramService (channel : Nat) (s : State) : Host.Outcome State Fault Refusal :=
  .next (
    match s.firstServed (s.waitingAt channel) with
    | some t =>
      if s.scrubFirst channel then s.scrubOne channel
      else if (s.othersAt channel).all (s.waits t).before then s.serve channel t else s
    | none => s)

/-! ### PROMOTION (10 R315 to R318) -/

/-- One transfer of a promotion: the bytes reach the set's Plate, and the next transfer is formed (09 R282, 10 R317). -/
def State.copyPiece (s : State) (m : Model) (set : List Nat) (job done : Nat) : State :=
  let p := s.promotionPiece m set done
  let n := p.2.2.2
  let data := bytesAt (weightImage m.image) done n
  let s := { s with hatch := { s.hatch with plate := memStore s.hatch.plate (residentAt p.2.1 m.handle p.2.2.1) data } }
  let s := s.charge m.session (some job) { Account.zero with dramRd := n }
  let res : Residency := if imgWeightBytes m.image ≤ done + n then .copied set job
    else .copying set job (done + n) (s.tb.sub, s.tb.sub + s.frameSubs)
  s.setModel { m with res := res }

/-- PROMOTION: an Auto model with enough open streams starts its promotion, or the next transfer of one under way is served (10 R315 to
R318). -/
def execPromotion (handle : Nat) (s : State) : Host.Outcome State Fault Refusal :=
  .next (
    match s.model handle with
    | none => s
    | some m =>
      match m.res with
      | .cold => s.promote m
      | .copying set job done x =>
        if s.promotes set job && s.channelServes (s.channelOf (s.promotionPiece m set done).1) (s.waitingFor false x.2 x.1 job) then
          s.copyPiece m set job done
        else s
      | _ => s)

/-! ### What the memory modules hold (10 R307) -/

/-- Doubling in the field of IEEE 1619, as a little-endian number of 128 bits. -/
def xtsDouble (t : Nat) : Nat := if 2 ^ 127 ≤ t then (2 * t % 2 ^ 128) ^^^ 0x87 else 2 * t

/-- A 64-byte line under XTS-AES-256: two keys of 32 bytes, the line's address divided by 64, the clear bytes. -/
def xtsLine (keys : List Byte) (line : Nat) (clear : List Byte) : List Byte :=
  let tweak := le (Config.aes256 (keys.drop 32) (leBytes 16 line))
  (List.range 4).flatMap fun i =>
    let t := leBytes 16 (Nat.iterate xtsDouble i tweak)
    let b := List.zipWith (· ^^^ ·) (bytesAt clear (16 * i) 16) t
    List.zipWith (· ^^^ ·) (Config.aes256 (keys.take 32) b) t

/-- A byte of a stream's buffer: the feature queue, then the audio ring (10 R301). -/
def Stream.bufferByte (x : Stream) (off : Nat) : Byte :=
  if off < 262144 then (queueBytes x off 1).getD 0 0
  else
    let k := (off - 262144) / 3
    match x.audio.find? fun a => a.1 % 262144 = k with
    | some a => (leBytes 3 a.2.toNat).getD ((off - 262144) % 3) 0
    | none => 0

/-- A byte of a save area in its extents (10 R303, 11 R334). -/
def State.saveByte (s : State) (addr : Nat) : Byte :=
  match s.mem.saveUsed.find? fun p => p.2 == (addr - 0xC00000000) / 2097152 with
  | none => 0
  | some p =>
    match s.job p.1 with
    | none => 0
    | some j =>
      let i := ((s.mem.saveUsed.filter (·.1 == p.1)).map (·.2)).findIdx (· == p.2)
      match s.model j.handle, j.save with
      | some m, some a => (saveBytes m.image a j.id).getD (2097152 * i + addr % 2097152) 0
      | _, _ => 0

/-- A byte of the general pool: a clear image, or a job's scratch, input and output (10 R304, R305). -/
def State.poolByte (s : State) (addr : Nat) : Byte :=
  match s.mem.poolUsed.find? fun p => extentAddr p.2 ≤ addr && addr < extentAddr p.2 + 2097152 with
  | none => 0
  | some p =>
    let off := 2097152 * (s.extents p.1).findIdx (· == p.2) + (addr - extentAddr p.2)
    if p.1 < 1048576 then (((s.model p.1).map (·.image)).getD []).getD off 0
    else match s.job (p.1 - 1048576) with
      | none => 0
      | some j =>
        let input := 2097152 * regionExtent j 2
        let output := 2097152 * regionExtent j 3
        if off < input then memRead s.dram addr
        else if off < output then j.input.getD (off - input) 0
        else memRead j.output (off - output)

/-- A clear byte of DRAM (10 R300). Of the system area the spec gives no contents: it reads 0 (log entry 41, DESIGN CHOICE). -/
def State.dramByte (s : State) (addr : Nat) : Byte :=
  if addr < 0x800000000 then 0
  else if addr < 0xC00000000 then
    ((s.stream ((addr - 0x800000000) / 1048576)).map fun x => x.bufferByte (addr % 1048576)).getD 0
  else if addr < 0x2400000000 then s.saveByte addr
  else s.poolByte addr

/-- The bytes that a memory module holds for a line: the controllers read and write the clear ones through their cipher. -/
def State.lineOnModule (s : State) (line : Nat) : List Byte :=
  xtsLine s.mem.xtsKeys line ((List.range 64).map fun i => s.dramByte (64 * line + i))

/-- The ECC of a line, computed over its ciphertext (10 R307). -/
def State.eccOnModule (s : State) (line : Nat) : List Byte := Config.lineEcc (s.lineOnModule line)

/-! ### Errors (10 R308 to R312) -/

/-- DRAM_CORRECTED_READ: the data is corrected and written back, the error counted; more than MEM_CE_THRESH within an hour raise
MEMORY_DEGRADED (10 R308, R312). -/
def execDramCorrectedRead (channel _addr : Nat) (s : State) : Host.Outcome State Fault Refusal :=
  .next (
    if !s.chanServes channel then s else
    let c := s.chan channel
    let times := (c.ceTimes.filter fun t => s.tb.sub < t + hourSubs) ++ [s.tb.sub]
    let s := (s.setChan channel { c with ce := satAdd c.ce 1 0xFFFFFFFF, ceTimes := times }).bump (0x0C0 + channel) 1
    if s.mem.ceThresh < times.length then s.raiseAlarm 0x07 (srcOf 3 channel) times.length else s)

/-- DRAM_UNCORRECTABLE_READ: by the region that holds the line (10 R300, R309). -/
def execDramUncorrectableRead (addr : Nat) (s : State) : Host.Outcome State Fault Refusal :=
  .next (
    if s.boot.phase != .ready then s else
    let s := { s.bump 0x0E0 1 with mem := { s.mem with ueCount := satAdd s.mem.ueCount 1 0xFFFF } }
    if addr < 0x800000000 then s.moduleFault 1
    else if addr < 0xC00000000 then
      match s.stream ((addr - 0x800000000) / 1048576) with
      | some x => s.faultRowOf x
      | none => s
    else if addr < 0x2400000000 then
      match s.mem.saveUsed.find? fun p => p.2 == (addr - 0xC00000000) / 2097152 with
      | some p => if (s.job p.1).any fun j => j.state == .frosted || j.state == .thawing then s.tearDown p.1 309 else s
      | none => s
    else
      match s.mem.poolUsed.find? fun p => p.2 == (addr - 0x2400000000) / 2097152 with
      | some p =>
        if 1048576 ≤ p.1 then s.tearDown (p.1 - 1048576) 309
        else match s.model p.1 with
          | some m => if m.hot then s else s.damage m
          | none => s
      | none => s)

/-! ### Scrub and refresh (10 R311, R313) -/

/-- DRAM_SCRUB: background scrub reads the next line of a channel, in cycles that no waiting transfer wants (10 R311). -/
def execDramScrub (channel : Nat) (s : State) : Host.Outcome State Fault Refusal :=
  .next (if s.chanServes channel && ((s.waitingAt channel).isEmpty || s.scrubFirst channel) then s.scrubOne channel else s)

/-- REFRESH: a due refresh runs, or is postponed while an urgent transfer waits at the channel, as often as the JEDEC standard
permits (10 R313). -/
def execRefresh (channel : Nat) (s : State) : Host.Outcome State Fault Refusal :=
  .next (
    if !s.chanServes channel then s else
    let c := s.chan channel
    if (s.mem.queue.any fun t => s.xferChannel t == channel && s.urgent t) && c.postponed < Config.refreshLimit then
      (s.setChan channel { c with postponed := c.postponed + 1 }).bump 0x0E2 1
    else s.setChan channel { c with postponed := 0 })

end Sys2Proof.Machine
end

