-- ==== Sys2Proof/Machine/Frost.lean ====
section
/-! DEFINITION. Frost, Thaw, parking and Keep restarts (02 R67, 11 R329 to R347, 15 R480): FROST, LIVE_FROST, THAW,
REMOTE_REPLY_PARKED, FILL_READ_TIMEOUT, KEEP_RESTART. -/

namespace Sys2Proof.Machine

open Sys2Proof

/-! ### Chunks moved later (02 R72, R67; 11 R333) -/

/-- A chunk moved a number of Frames later. -/
def Chunk.shift (n : Nat) (c : Chunk) : Chunk := { c with frame := c.frame + n }

/-- A stream with every chunk of its pipeline moved later. -/
def Stream.shift (n : Nat) (x : Stream) : Stream :=
  { x with
    closedChunk := x.closedChunk.map (Chunk.shift n)
    hatchChunk := x.hatchChunk.map (Chunk.shift n)
    burinChunks := x.burinChunks.map (Chunk.shift n) }

/-- A stream whose next chunk reports a number of Frames of slip. -/
def Stream.reportSlip (n : Nat) (x : Stream) : Stream :=
  let f (c : Chunk) : Chunk := { c with slips := c.slips + n }
  match x.burinChunks with
  | c :: rest => { x with burinChunks := f c :: rest }
  | [] =>
    match x.hatchChunk with
    | some c => { x with hatchChunk := some (f c) }
    | none => { x with closedChunk := x.closedChunk.map f }

/-- A chunk whose deadline moves one Frame later (02 R72). -/
def Chunk.moveDue (c : Chunk) : Chunk := { c with moved := c.moved + 1 }

/-- The oldest chunk that is not wholly handed off has missed its deadline: it reports the slip, and moves with those behind it. -/
def missFirst (handed : Nat) : List Chunk → List Chunk
  | [] => []
  | c :: rest =>
    if c.first + c.count ≤ handed then c :: missFirst handed rest
    else { c.moveDue with late := c.late + 1, slips := c.slips + 1 } :: rest.map Chunk.moveDue

/-- A stream of which a chunk has missed its hand-off deadline: every chunk planned has its deadline moved one Frame later, and one
plan close leaves the stream out (02 R72). -/
def Stream.missOne (x : Stream) : Stream :=
  { x with
    closedChunk := x.closedChunk.map Chunk.moveDue
    hatchChunk := x.hatchChunk.map Chunk.moveDue
    burinChunks := missFirst x.handed x.burinChunks
    gap := x.gap + 1 }

/-- The chunk that a Frame-boundary record lies in, which it carries, should the pipeline have dropped it (06 R199, R207). -/
def Stream.withCarried (r : ExportRec) (x : Stream) : Stream :=
  match r.chunk with
  | some c =>
    if r.headNext < c.first + c.count && !x.burinChunks.any (·.first == c.first) then { x with burinChunks := c :: x.burinChunks } else x
  | none => x

/-- Whether a stream has a chunk in its pipeline. -/
def Stream.inFlight (x : Stream) : Bool := x.closedChunk.isSome || x.hatchChunk.isSome || !x.burinChunks.isEmpty

/-- A stream whose whole pipeline waits one Frame, as a slip (11 R333). -/
def Stream.slipOne (x : Stream) : Stream := if x.inFlight then { (x.shift 1).reportSlip 1 with skip := x.skip + 1 } else x

/-- Counts and traces a slip: its job, its stream and how late it is (18 R572, R575). -/
def State.noteSlip (s : State) (x : Stream) (lateUs : Nat) : State :=
  (s.bump 0x205 1).writeTrace 0x83 (srcOf 9 x.job) (x.id + lateUs % 2 ^ 32 * 65536)

/-! ### Switch times (11 R345 to R347) -/

/-- Where a binding holds what an extent names, part by part: the core, the place, the bytes (11 R337, R338; log entry 25). -/
def extentAt (m : List Byte) (cores : List Nat) (k : ExtentKey) : List (Nat × Loc × Nat) :=
  (Config.extentParts (strokeImage m) cores.length k).map fun p => (cores.getD (p.1 % max cores.length 1) 0, p.2.1, p.2.2)

/-- Bytes a save writes or a restore reads, by field of a binding (11 R345). -/
def fieldBytes (m : List Byte) (cores : List Nat) (es : List (ExtentKey × List Byte)) : List Nat :=
  let parts := es.flatMap fun e => extentAt m cores e.1
  (fieldsOf cores).map fun f => ((parts.filter fun p => coreField p.1 == f).map (·.2.2)).sum

/-- T_save in ns for field sums and total bytes with n switches in progress (11 R345). -/
def State.saveNs (s : State) (fields : List Nat) (total n : Nat) : Nat :=
  max (ceilDiv (fields.foldl max 0) 64) (ceilDiv (total * 10000 * n) (24 * max s.cap.channels 1 * max s.cap.speed 1))

/-- T_safe in ns: the longest stroke at the Hatch clock in force (11 R345). -/
def State.safeNs (s : State) (m : List Byte) : Nat := ceilDiv (imgMaxStroke m * 1000) (if s.boot.stretched then 450 else 600)

/-- The bound of R346 on a Fill job's switch time, in ns, with 16 switches in progress. -/
def State.switchBound (s : State) (m : List Byte) (j : Job) (cores : List Nat) : Nat :=
  let fields := (fieldsOf cores).map fun f => 376832 * (cores.filter fun c => coreField c == f).length
  s.safeNs m + (if usesRemote m then 8000 else 0) + s.saveNs fields (fields.sum + 131072 + 4096 * (j.rows.filter (· != noStream)).length) 16 + 6000

/-- Whether a Fill job's switch time is at most one Frame (02 R64, 11 R346). -/
def State.passesSwitch (s : State) (m : List Byte) (j : Job) (cores : List Nat) : Bool :=
  s.switchBound m j cores * 48 ≤ 1000000 * s.frameTicks

/-! ### The save (11 R331, R334 to R342) -/

/-- CHAIN_RECVs that no data has reached: their grants are withdrawn, to be formed again (09 R292). -/
def State.withdrawn (s : State) (j : Job) : List (Nat × Nat × Nat) :=
  (j.cores.map fun c =>
    ((s.core c).tracer.outstanding.filter fun t => t.job == j.id && t.op = 3).map fun t =>
      let w := s.walk j .tracer t.stroke
      (t.stroke, if t.entry < w.2.1 then w.1 else w.1 - 1, t.entry)).flatten ++ j.again

/-- READY of each link of a job, on its consumer's core (09 R258, 11 R342). -/
def State.linkReady (s : State) (m : List Byte) (j : Job) (i : Nat) : Nat :=
  let core := (linkEnds m j.cores i).2
  match j.pair core (linkAt (strokeImage m) i).pair with
  | some p => (s.core core).counter p .ready
  | none => 0

/-- The link whose slot a transfer fills: the one of its NOTIFY (11 R339). -/
def linkOf (m : List Byte) (j : Job) (t : Xfer) : Nat :=
  let fills (i : Nat) : Bool :=
    let core := (linkEnds m j.cores i).2
    t.notify.any fun g => j.pair core (linkAt (strokeImage m) i).pair == some g.2.1 && core == g.1
  ((List.range (linkCount (strokeImage m))).find? fills).getD 0

/-- The slots that waiting reads fill: behind the ready ones of their link, in order. -/
def parkSlots (ready : Nat → Nat) : List Park → List Park → List Park
  | [], done => done
  | q :: rest, done =>
    parkSlots ready rest (done ++ [{ q with slot := ready q.link + (done.filter (·.link == q.link)).length }])

/-- Parking entries for the reads from another member that have no reply; on its home module a job's reads are local (11 R340, 15
R481). -/
def State.parked (s : State) (m : List Byte) (j : Job) : List Park :=
  let waits (t : Xfer) : Bool := t.job == j.id && t.srcSpace = 6 && j.home.isSome
  parkSlots (s.linkReady m j)
    (j.cores.flatMap fun c =>
      ((s.core c).tracer.outstanding.filter waits).map fun t => (⟨t.stream, linkOf m j t, 0, 0, [], t⟩ : Park)) []

/-- What a compiler marks live in an adaptation job is of tensors that are not per-stream: no row, step 0 (03 R82, 08 R243). -/
def liveKey (j : Job) (k : ExtentKey) : ExtentKey := if j.kind == .streams then k else { k with row := 0xFFFF, step := 0 }

/-- The extents of a save: the values, tree nodes and scan carries that the compiler marks live, the ready slots of every link, and those
that waiting reads fill (11 R337, R339, R345). -/
def State.liveKeys (s : State) (m : List Byte) (j : Job) (parking : List Park) (live : List ExtentKey) : List ExtentKey :=
  ((live.filter (·.kind ≤ 2)).map (liveKey j))
    ++ ((List.range (linkCount (strokeImage m))).flatMap fun i => (List.range (s.linkReady m j i)).map (slotKey m i))
    ++ parking.map fun q => slotKey m q.link q.slot

/-- A row of a save area: the export record of the stream's shadow, with RFLAGS[2], and the voice in force where its head goes on (11 R332,
R336). -/
def State.saveRow (s : State) (m : List Byte) (x : Stream) : SaveRow :=
  let r := x.shadow.getD (exportOf s m x 4 none x.head)
  ⟨x.id, x.keep, x.voiceAt r.headNext, { r with rflags := 4 }⟩

/-- The save area of a job (11 R334 to R342). -/
def State.saveOf (s : State) (m : List Byte) (j : Job) (live : List ExtentKey) : SaveArea :=
  let parking := s.parked m j
  let bytes (k : ExtentKey) : List Byte := (extentAt m j.cores k).flatMap fun p => (s.view j p.1).bytes p.2.1 p.2.2
  let extents := if j.fill then (s.liveKeys m j parking live).map fun k => (k, bytes k) else []
  let a : SaveArea := {
    svflags := 0, graphHash := imgHash m, seed := j.seed, key := j.key, session := j.session, handle := j.handle, season := s.tb.season
    frame := s.tb.frame, optStep := j.optStep, workFrame := j.workFrame
    cores := if usesRemote m then j.cores.length else 0
    rows := (s.rowStreams j).map (s.saveRow m)
    extents := extents, issued := if j.fill then j.issued else [], walks := if j.fill then j.walks else []
    again := if j.fill then s.withdrawn j else [], parking := parking, digest := [] }
  SaveArea.sealed m { a with svflags := saveFlags m j.fill a } j.id

/-- Bytes of a save area outside its job area. -/
def SaveArea.dataBytes (m : List Byte) (a : SaveArea) : Nat :=
  (a.rows.map fun r => (exportBytes m r.record).length).sum + (a.extents.map fun e => e.2.length).sum
    + 16384 * a.cores

/-- A row's context is released; its state lies in its shadow and in its stream (11 R329, R331 step 6). -/
def leaveUnit (s : State) (x : Stream) : State := (s.freeUnit x).setStream { x with current := none, left := true }

/-- FROST: a Fill job under a Frost request, at its safe points with its engines stopped, is saved and gives up its cores; `live`
names the values, tree nodes and scan carries that the compiler marks live (11 R331, R345, R347, R352). Its switch time counts the Frosts and
Thaws in progress, and the remote reads outstanding, when it began. -/
def execFrost (job : Nat) (live : List ExtentKey) (s : State) : Host.Outcome State Fault Refusal :=
  .next (
    match s.job job with
    | none => s
    | some j =>
      match s.model j.handle with
      | none => s
      | some m =>
        if !j.fill || j.state != .frosting || !s.frostReady j || !s.switchServed j then s else
        let a := s.saveOf m.image j live
        let fields := fieldBytes m.image j.cores a.extents
        let total := fields.sum + 131072 + 128 * a.rows.length
        let ns := s.safeNs m.image + (if j.switch.2.2 = 0 then 0 else 8000) + s.saveNs fields total j.switch.2.1 + 6000
        let s := (s.rowStreams j).foldl leaveUnit s
        let s := s.releaseCores j j.cores
        let s := s.setJob { j with state := .frosted, save := some a, cores := [], pairs := [], waits := 0 }
        let s := s.charge j.session (some job) { Account.zero with saveKeep := 131072 + a.dataBytes m.image, frosts := 1 }
        (s.nextFrost.bump 0x202 1).writeTrace 0x80 (srcOf 9 job) ns)

/-! ### The Frost of a rebinding (11 R332, R333) -/

/-- A chunk behind what the Hatch layers of a record have computed is computed again (06 R199, R201). -/
def Chunk.behind (r : ExportRec) (c : Chunk) : Chunk :=
  if r.hatchNext ≤ c.first then
    { c with condAt := none, cond := [], pending := if c.first = r.hatchNext then r.pending else c.pending }
  else c

/-- A row on the state of its record; its chunks are planned one Frame later (11 R333 step 3). Its head replays from there, and
samples already handed off are not handed off again. -/
def importRow (r : SaveRow) (x : Stream) : Stream :=
  { x.withCarried r.record with
    layers := r.record.layers
    head := r.record.head
    headAt := r.record.headNext
    mirror := (r.record.headNext, r.record.head)
    dueShadows := []
    current := none }

/-- A Live row's chunks behind its record are computed again on the new place (11 R332, R333). -/
def Stream.redo (r : ExportRec) (x : Stream) : Stream :=
  { x with burinChunks := x.burinChunks.map (Chunk.behind r), hatchChunk := x.hatchChunk.map (Chunk.behind r), pendingReset := r.pending }

/-- Step 2 of a rebinding: the job is saved from its shadow and holds its old cores for the release of step 4 alone (11 R332, R333). -/
def State.frostLive (s : State) (m : List Byte) (j : Job) : State :=
  let a := s.saveOf m j []
  let old := j.held
  let s := old.foldl (fun s c => s.setCore c { leaveCore j c (s.core c) with jobs := (s.core c).jobs }) s
  let s := { s with rebind := { s.rebind with old := old } }
  let s := s.setJob { j with
    state := .frosted
    save := some a
    cores := []
    more := []
    issued := []
    work := []
    again := []
    walks := freshWalks (strokeCount (strokeImage m)) j.workFrame }
  let s := (s.rowStreams j).foldl (fun s x => s.setStream x.unplan.slipOne) s
  let s := (s.rowStreams j).foldl (fun s x => s.noteSlip x (subsToUs s.frameSubs)) s
  (s.charge j.session (some j.id) { Account.zero with saveKeep := 131072 + a.dataBytes m, frosts := 1 }).bump 0x202 1

/-- Step 3 of a rebinding begins: the job is bound to its new place for its Thaw (11 R328, R333). -/
def State.bindLive (s : State) (m : List Byte) (j : Job) (cores : List Nat) : State :=
  s.setJob { j with
    state := .thawing
    switch := (s.tb.sub, s.switching + 1, 0)
    cores := cores
    windows := jobWindows m cores.length }

/-- LIVE_FROST: a Live job whose Frost a Frame tick has begun is saved from its shadow once nothing of it runs; the next one binds it to
its new place (11 R328, R332, R333 steps 2 and 3; R346 R347). -/
def execLiveFrost (job : Nat) (s : State) : Host.Outcome State Fault Refusal :=
  .next (
    match s.job job, s.rebind.place with
    | some j, some (k, cores) =>
      match s.model j.handle with
      | none => s
      | some m =>
        if k != job || j.fill || s.boot.phase != .ready then s
        else if j.state == .frosting then
          if j.cores.any (fun c => (s.core c).faulted || (s.core c).running.any (·.job == job)) || !s.switchServed j then s
          else (s.frostLive m.image j).nextFrost
        else if j.state == .frosted && s.switching < 16 then s.bindLive m.image j cores
        else s
    | _, _ => s)

/-! ### THAW (11 R338, R341, R342, R347) -/

/-- One row's outstanding descriptors complete with SAVE_REJECTED and a reason, its AUDIO_PULLs at the piece they have come to, unless the
row restarts (11 R338, 13 R426). -/
def rejectRow (reason : Nat) (s : State) (x : Stream) : State :=
  if x.keep && x.second.isSome then s else
  ((s.ring x.session).accepted.filter fun d => actsOn x d).foldl
    (fun s d =>
      if d.opcode = 8 then finishPull x.session d ((s.stream x.id).getD x) stSaveRejected reason s
      else s.complete x.session d { status := stSaveRejected, detail := reason, count := d.done }) s

/-- A reply lands in its slot: the transfer it completes is done (11 R341). -/
def landXfer (tag : Nat) (data : List Byte) (x : EngineState) : EngineState :=
  { x with outstanding := x.outstanding.map fun t =>
      if t.srcSpace = 6 && t.stream = tag && !t.done then { t with data := data, fetched := true, done := true } else t }

/-- An entry of a parking table that a Thaw finds without its reply is to be issued again (11 R341). -/
def Park.atThaw (q : Park) : Park := if q.pstate = 0 then { q with pstate := 2 } else q

/-- The number of the next request of a job (15 R477). -/
def nextTag (tag : Nat) : Nat := (tag + 1) % 2 ^ 32

/-- A remote read is issued again under the ageing rule, as a request of its own: a reply to the one before is a duplicate (04 R109, 11 R341,
15 R480). -/
def State.readAgain (s : State) (j : Job) (tag core age off len : Nat) : State :=
  let again (r : Remote) : Remote :=
    if r.tag = tag then { r with tag := j.nextTag, age := age, core := core, at_ := s.tb.sub } else r
  (s.setJob { j with nextTag := nextTag j.nextTag, remotes := j.remotes.map again }).sendRead j j.nextTag age off len

/-- A parking entry at Thaw: a landed reply goes into its slot, which is counted as ready with the saved ones; a read without reply is
issued again, its slot taken from ROOM (11 R341, R342). -/
def unpark (m : List Byte) (j : Job) (s : State) (q : Park) : State :=
  let core := (strokeHome (strokeImage m) j q.xfer.stroke).getD 0
  let ends := linkEnds m j.cores q.link
  if q.pstate = 1 then s.spaceStore j core 0 q.xfer.dstHandle q.xfer.dstOff q.data
  else
    let notify := q.xfer.notify.bind fun g => s.sigOf j true ends.2 q.link g.2.2
    let s := match j.pair ends.1 (linkAt (strokeImage m) q.link).pair with
      | some p => s.setCore ends.1 ((s.core ends.1).setCounter p .room ((s.core ends.1).counter p .room - 1))
      | none => s
    match s.job j.id with
    | none => s
    | some j =>
      let c := s.core core
      let t := { q.xfer with core := core, dstCore := core, notify := notify, issued := s.tb.sub, stream := j.nextTag }
      let s := s.setCore core { c with tracer := { c.tracer with outstanding := c.tracer.outstanding ++ [t] } }
      let age := min 7 (((j.remotes.find? fun r => r.tag = q.tag).map (·.age)).getD 0 + 1)
      s.readAgain j q.tag core age t.srcOff t.len

/-- Writes consecutive bytes of an extent to its parts on a job's binding (11 R338, R342). -/
def restoreParts (j : Job) : State → List (Nat × Loc × Nat) → List Byte → State
  | s, [], _ => s
  | s, p :: rest, b =>
    let s := if (s.view j p.1).allows (p.2.1, p.2.2, true) then
        { s with hatch := storeAt p.1 j.id s.hatch (p.2.1, bytesAt b 0 p.2.2) }
      else s
    restoreParts j s rest (b.drop p.2.2)

/-- Whether one saved tree node lies below another of the same reduction (03 R85, 11 R337). -/
def nodeBelow (a b : ExtentKey) : Bool :=
  a.kind = 1 && b.kind = 1 && a.level < b.level && a.node / 2 ^ (b.level - a.level) = b.node
    && { a with level := 0, node := 0 } == { b with level := 0, node := 0 }

/-- Restores an extent on a job's binding, redistributed over its parts there; a node below a restored one is skipped (03 R104, 11 R338,
R342). -/
def restoreExtent (m : List Byte) (j : Job) (all : List (ExtentKey × List Byte)) (s : State) (e : ExtentKey × List Byte) : State :=
  if all.any fun q => nodeBelow e.1 q.1 then s else restoreParts j s (extentAt m j.cores e.1) e.2

/-- Restores a link's counts: READY is the number of its saved ready slots, ROOM is SLOTS less that (11 R342). -/
def restoreLink (m : List Byte) (j : Job) (a : SaveArea) (s : State) (i : Nat) : State :=
  let l := linkAt (strokeImage m) i
  let e := linkEnds m j.cores i
  let set (s : State) (core : Nat) (ctr : Counter) (n : Nat) : State :=
    match j.pair core l.pair with
    | some p => s.setCore core ((s.core core).setCounter p ctr n)
    | none => s
  set (set s e.2 .ready (a.readySlots m i)) e.1 .room (l.slots - a.readySlots m i)

/-- A context that was reserved for a stream becomes its own (11 R333). -/
def takeUnit (s : State) (p : Nat × Nat) : State :=
  match s.stream p.1 with
  | none => s
  | some x =>
    let s := (s.freeUnit x).dropCtx p.1 p.2
    s.bindUnit x p.2

/-- Step 4 of a rebinding: the old cores are zeroed and released (11 R333). -/
def finishRebind (id : Nat) (s : State) : State :=
  match s.rebind.place, s.job id with
  | some (k, _), some j =>
    if k != id then s else
    let s := s.rebind.units.foldl takeUnit s
    let s := s.releaseCores j s.rebind.old
    let s := s.setJob { j with pairs := s.rebind.old.foldl (fun t c => tabErase t c) j.pairs }
    { s with rebind := { s.rebind with place := none, old := [], units := [], done := true } }
  | _, _ => s

/-- A checked save area is restored on a job's binding (11 R338, R341, R342). -/
def State.restoreSave (s : State) (m : List Byte) (j : Job) (a : SaveArea) : State :=
  let s := a.extents.foldl (restoreExtent m j a.extents) s
  let s := (List.range (linkCount (strokeImage m))).foldl (restoreLink m j a) s
  let s := a.rows.foldl (fun s r =>
    match s.stream r.stream with
    | some x =>
      let y := if j.fill then { importRow r x with layers := x.layers } else (importRow r x).redo r.record
      s.setStream { y with left := false }
    | none => s) s
  let s := s.setJob { j with
    state := .bound
    save := none
    issued := a.issued
    walks := if j.fill then a.walks else j.walks
    again := a.again
    waits := 0 }
  finishRebind j.id (a.parking.foldl (unpark m j) s)

/-- THAW: a job that holds its new binding is checked and restored there (11 R338, R341, R342, R347); its switch time counts the Frosts and
Thaws in progress when it began. A Frost request that came meanwhile is taken now (R351). -/
def execThaw (job : Nat) (s : State) : Host.Outcome State Fault Refusal :=
  .next (
    match s.job job with
    | none => s
    | some j =>
      match s.model j.handle, j.save with
      | some m, some a =>
        if j.state != .thawing || j.cores.any (fun c => (s.core c).faulted) || !s.switchServed j
            || !s.hasCredits j (a.parking.filter (·.pstate = 0)).length then s else
        match saveReason m.image a j s.tb.season with
        | some reason => ((s.rowStreams j).foldl (rejectRow reason) s).tearDownWith job 338 stSaveRejected reason
        | none =>
          let fields := fieldBytes m.image j.cores a.extents
          let ns := s.saveNs fields (fields.sum + 131072 + 128 * a.rows.length) j.switch.2.1 + 5000
          let s := s.restoreSave m.image j { a with parking := a.parking.map Park.atThaw }
          let s := s.charge j.session (some job) { Account.zero with saveKeep := 131072 + a.dataBytes m.image, thaws := 1 }
          let s := if j.frostNext then s.requestFrost job else s
          (s.nextFrost.bump 0x203 1).writeTrace 0x81 (srcOf 9 job) ns
      | _, _ => s)

/-! ### Remote replies (11 R340, R341; 15 R480) -/

/-- A parking entry that a reply reaches while it waits. -/
def landPark (tag : Nat) (data : List Byte) (q : Park) : Park :=
  if q.tag = tag && q.pstate = 0 then { q with pstate := 1, data := data } else q

/-- Credits for buffers that have emptied go back on VC0 in the Fill class (15 R477); the message names channel and count. -/
def State.returnCredits (s : State) (port vc n : Nat) : State := s.send port 25 [vc, n] []

/-- REMOTE_REPLY_PARKED: a reply to a remote read of a Fill job. It goes into its slot while the job holds cores, into the parking
buffer while it is Frosted or Thawing; one that no read waits for is a duplicate. Wherever it lands, its buffers are empty again, and the
responder's credits return (11 R340, R341; 15 R477). -/
def execRemoteReplyParked (job tag : Nat) (data : List Byte) (s : State) : Host.Outcome State Fault Refusal :=
  .next (
    match s.job job with
    | none => s
    | some j =>
      match j.remotes.find? fun r => r.tag = tag with
      | none => s
      | some r =>
        let b := bytesAt data 0 r.bytes
        let port := s.portTo (j.home.getD 0)
        let j := { j with remotes := j.remotes.filter fun q => q.tag != tag, credits := j.credits - 1 }
        let s := s.returnCredits port 2 (ceilDiv r.bytes 256)
        let s := match j.save with
          | some a =>
            match s.model j.handle with
            | some m => s.setJob { j with save := some (SaveArea.sealed m.image { a with parking := a.parking.map (landPark tag b) } job) }
            | none => s.setJob j
          | none =>
            let s := s.setJob j
            let c := s.core r.core
            (s.setCore r.core { c with tracer := landXfer tag b c.tracer }).sendReleases r.core .tracer
        (s.charge j.session (some job) { Account.zero with ihlauxIn := r.bytes }).bump (0x150 + port) r.bytes)

/-- The transfer that waits for a reply waits for that of the request issued again. -/
def retag (tag new : Nat) (x : EngineState) : EngineState :=
  { x with outstanding := x.outstanding.map fun t => if t.srcSpace = 6 && t.stream = tag && !t.done then { t with stream := new } else t }

/-- FILL_READ_TIMEOUT: no reply within 8 µs; the read is issued again with its age one higher, and at age 7 the job faults (15
R480). A read of a Frosted job waits in its parking entry (11 R340). -/
def execFillReadTimeout (job tag : Nat) (s : State) : Host.Outcome State Fault Refusal :=
  .next (
    match s.job job with
    | none => s
    | some j =>
      match j.remotes.find? fun r => r.tag = tag with
      | none => s
      | some r =>
        if j.state != .bound || s.tb.sub < r.at_ + eightUs || (r.age < 7 && !s.hasCredits j 1) then s
        else if 7 ≤ r.age then s.tearDown job 480
        else
          let c := s.core r.core
          let s := s.setCore r.core { c with tracer := retag tag j.nextTag c.tracer }
          (s.readAgain j tag r.core (r.age + 1) r.srcOff r.bytes).bump 0x161 1)

/-! ### KEEP_RESTART (02 R67, 06 R202 R209) -/

/-- Whether a stream's job has its cores and unit to itself again: no Fill work that is still being saved holds them (11 R350, R351). -/
def State.clearFor (s : State) (x : Stream) : Bool :=
  match s.job x.job with
  | some j =>
    j.state == .bound && s.unitSixths true x.unit ≤ 192
      && j.held.all fun c => (s.core c).jobs.all fun i => i = j.id || s.isLive i
  | none => false

/-- A Keep stream on its second shadow: the head and the layers continue from the record, and the chunks planned before the fault
follow in order (06 R201, R209). -/
def restarted (r : ExportRec) (x : Stream) : Stream :=
  let keep (c : Chunk) : Bool := r.headNext < c.first + c.count
  { x with
    layers := r.layers
    head := r.head
    headAt := r.headNext
    mirror := (r.headNext, r.head)
    pendingReset := r.pending
    hatchChunk := x.hatchChunk.map (Chunk.behind r)
    burinChunks := (x.burinChunks.filter keep).map (Chunk.behind r)
    current := none
    shadow := some r
    dueShadows := []
    restart := none
    budget := none }.withCarried r

/-- A restarted stream resumes a Frame later, as a slip that counts the Frames it waited (02 R67, R72). -/
def Stream.resumeLate (x : Stream) : Stream :=
  let y := { x with lost := 0, left := false }
  if x.inFlight then { (y.shift 1).reportSlip (x.lost + 1) with skip := y.skip + 1 } else y

/-- A Keep stream that a plan close finds no place for: it is tried again at the next one, until the last (02 R67). -/
def State.noPlace (s : State) (x : Stream) (last : Nat) : State := if s.tb.frameOrd = last then s.faultStream x else s

/-- The module as the fit of a restart sees it: the stream's old context and its second shadow give way to the new ones (02 R62, R67). -/
def State.vacated (s : State) (x : Stream) : State :=
  (s.freeUnit x).setStream { x with second := none, secondCores := [] }

/-- The other rows of a torn-down job, of which one has been placed in a new job: that job carries their fixed costs (02 R60, R67). -/
def State.followRow (s : State) (lost : Nat × Nat) (job : Nat) : State :=
  let into (b : Budget) : Budget := if b.lost = lost && b.into.isNone then { b with into := some job } else b
  { s with streams := tabMap s.streams fun _ x => { x with budget := x.budget.map into } }

/-- A restarted stream takes its place. Where Fill work still lies in it the stream stays out of plans until that is Frosted (11 R350). -/
def State.restartAt (s : State) (a : Ask) (p : Place) (lost : Nat × Nat) (r : ExportRec) (x : Stream) : State :=
  let s := (s.commitPlace a p (restarted r { x with second := none, secondCores := [] })).clearPlace p
  match s.stream x.id with
  | none => s
  | some y =>
    let s := if p.job.isNone then s.followRow lost y.job else s
    let s := s.listPlans.writeLog 0x45 (srcOf 9 y.job) x.id
    if s.clearFor y then
      let s := s.setStream { y.resumeLate with budget := none }
      if y.inFlight then s.noteSlip y (subsToUs ((x.lost + 1) * s.frameSubs)) else s
    else s.setStream { y with left := true }

/-- KEEP_RESTART: right behind a plan close, a Keep stream whose context faulted before it is placed again from its second shadow;
only cores, Plate and Burin are fitted anew (02 R67). -/
def execKeepRestart (stream : Nat) (s : State) : Host.Outcome State Fault Refusal :=
  .next (
    match s.stream stream with
    | none => s
    | some x =>
      match x.restart, x.second, s.model x.handle, x.budget with
      | some last, some (_, r), some m, some b =>
        if s.boot.phase != .ready || s.tb.ticks != 0 || s.tb.frameOrd + 2 ≤ last || last < s.tb.frameOrd then s else
        let a : Ask := ⟨x.session, x.handle, s.tb.season, x.rate, true, false, some b.lost, x.voices⟩
        match costOf m.image s.tb.season x.rate with
        | none => s
        | some c =>
          let v := s.vacated x
          match v.fit a m.image c with
          | .error _ => s.noPlace x last
          | .ok p =>
            if p.job.isNone && !s.reserveOk m.image (s.streamMaxCores m.image c) 80 then s.noPlace x last
            else v.restartAt a p b.lost r x
      | _, _, _, _ => s)

end Sys2Proof.Machine
end

