-- ==== Sys2Proof/Machine/Envelope.lean ====
section
/-! DEFINITION. The Transfer envelope as bytes and back, and its sending (15 R486 R489). -/

namespace Sys2Proof.Machine

open Sys2Proof

/-- Records and controls that came by Transfer carry this number plus the source member for a FEATURE_PUSH (15 R490). -/
def sourceSeq : Nat := 4294967296

/-! ### The envelope as bytes (15 R489) -/

/-- Two controls at one sample, the later one behind (13 R415). -/
def Control.join (a b : Control) : Control :=
  let has (j : Nat) : Bool := b.ovrMask.getLsbD j
  ⟨a.sample, a.flags ||| b.flags, if b.flags.testBit 2 then b.voice else a.voice, a.ovrMask ||| b.ovrMask,
    (List.range 8).map fun j => if has j then b.ovr.getD j 0 else a.ovr.getD j 0, a.seq⟩

/-- Pending controls with one entry for each sample, in sample order. -/
def mergeControls (cs : List Control) : List Control :=
  ((cs.map (·.sample)).eraseDups.mergeSort (· ≤ ·)).filterMap fun n =>
    match cs.filter (·.sample = n) with
    | [] => none
    | c :: rest => some (rest.foldl Control.join c)

/-- A control's entry in an envelope (15 R489, 13 R414). -/
def controlBytes (c : Control) : List Byte :=
  leBytes 6 c.sample ++ leBytes 1 c.flags ++ zeros 9 ++ leBytes 4 c.voice ++ [c.ovrMask] ++ zeros 3
    ++ ((List.range 8).map fun j => leBytes 2 (c.ovr.getD j 0).toNat).flatten ++ zeros 8

/-- The records of a stream that are not wholly in closed plans; the first one's SPAN is what is left of it (log entry 33). -/
def Stream.carriedRecords (x : Stream) : List (List Byte) :=
  (x.records.filter fun r => x.nextPlan < r.first + r.span).map fun r =>
    leBytes 4 (r.first + r.span - max r.first x.nextPlan) ++ (bytesAt r.data 0 128).drop 4

/-- The controls inside a chunk, as entries of an envelope: the head of the destination takes them with the carried chunk (06 R209, log
entry 33). -/
def Chunk.controls (c : Chunk) : List Control :=
  c.flagged.map (fun n => (⟨n, 1, 0, 0, [], 0⟩ : Control)) ++ c.voices.map (fun v => (⟨v.1, 4, v.2, 0, [], 0⟩ : Control))
    ++ (c.overrides.filter fun o => c.first ≤ o.1).map fun o => (⟨o.1, 8, 0, o.2.1, o.2.2, 0⟩ : Control)

/-- The envelope of a stream with its export record (15 R489). -/
def envelopeBytes (m : List Byte) (id : DWord) (x : Stream) (r : ExportRec) : List Byte :=
  let cs := mergeControls (((r.chunk.map Chunk.controls).getD []) ++ x.controls)
  let rs := x.carriedRecords
  let e := exportBytes m r
  let body := leBytes 4 0x4B545846 ++ leBytes 2 (bit x.keep 0 + bit x.fill 1 + bit x.dither 2 + bit x.lineFill 3) ++ zeros 2
    ++ leBytes 8 id.toNat ++ leBytes 4 x.nextSeq.toNat ++ leBytes 1 cs.length ++ zeros 3 ++ leBytes 4 rs.length
    ++ leBytes 4 e.length ++ zeros 32 ++ (cs.map controlBytes).flatten ++ rs.flatten
  body ++ zeros (pad64 body.length - body.length) ++ e

/-! ### Reading an envelope (15 R489) -/

/-- Where the parts of an envelope begin: controls, records, the export record. -/
def envelopeParts (b : List Byte) : Nat × Nat × Nat :=
  let c := num b 0x14 1
  let rec_ := 64 + 48 * c
  (64, rec_, pad64 (rec_ + 128 * num b 0x18 4))

/-- Whether an envelope has the layout of 15 R489, its carried chunk's controls beside at most 4 pending ones (log entry 33). -/
def envelopeOk (b : List Byte) : Bool :=
  let p := envelopeParts b
  let c := num b 0x14 1
  let recEnd := p.2.1 + 128 * num b 0x18 4
  num b 0 4 = 0x4B545846 && num b 4 2 < 16 && zeroAt b 6 2 && c ≤ 8 && zeroAt b 0x15 3 && zeroAt b 0x20 32
    && b.length = p.2.2 + num b 0x1C 4 && zeroAt b recEnd (p.2.2 - recEnd)
    && (List.range c).all fun i => zeroAt b (64 + 48 * i + 7) 9

/-- The controls of an envelope: its end mark apart from what acts at its sample. -/
def envelopeControls (b : List Byte) (seq : Nat) : List Control :=
  ((List.range (num b 0x14 1)).map fun i =>
    let e := (b.drop (64 + 48 * i)).take 48
    let f := num e 6 1
    let act : Control := ⟨num e 0 6, f &&& 13, num e 16 4, e.getD 20 0,
      (List.range 8).map fun j => BitVec.ofNat 16 (num e (24 + 2 * j) 2), seq⟩
    (if f &&& 13 != 0 then [act] else [])
      ++ (if f.testBit 1 then [(⟨num e 0 6, 2, 0, 0, [], seq⟩ : Control)] else [])).flatten

/-- The records of an envelope, from a sample on. -/
def envelopeRecords (seq : Nat) : (n first : Nat) → List Byte → List FeatRec
  | 0, _, _ => []
  | n + 1, first, b => ⟨first, num b 0 4, b.take 128, seq, false⟩ :: envelopeRecords seq n (first + num b 0 4) (b.drop 128)

/-- The export record of an envelope. -/
def envelopeExport (b : List Byte) : List Byte := b.drop (envelopeParts b).2.2

/-! ### Step 5 of a Transfer (15 R486) -/

/-- Whether a Frame-boundary record holds all it will: the head has reached its sample, and the carried conditioning is in place. -/
def ExportRec.complete (r : ExportRec) : Bool :=
  match r.chunk with
  | some c => r.headNext = c.first && c.condAt.isSome
  | none => r.headNext = r.hatchNext

/-- Changes a Transfer. -/
def State.modTransfer (s : State) (id : DWord) (f : Transfer → Transfer) : State :=
  { s with ihx := { s.ihx with transfers := s.ihx.transfers.map fun t => if t.id == id then f t else t } }

/-- Step 5: at or after F_h, once the shadow of F_h is complete, the source sends its envelope with RFLAGS[1], and beside it whether the
stream is Rendering; the stream stays out of plans (01 R38, 15 R486). -/
def State.trySend (s : State) (id : Nat) : State :=
  match s.ihx.transfers.find? fun t => t.outgoing && t.stream == id && t.stage == .confirmed && t.handover ≤ s.tb.frameOrd, s.stream id with
  | some t, some x =>
    match x.shadow, s.model x.handle with
    | some r, some m =>
      if !r.complete || !x.dueShadows.isEmpty then s else
      let b := envelopeBytes m.image t.id x { r with rflags := 2 }
      let port := s.portTo t.peer
      let s := (s.setStream { x with left := true, missed := false }).modTransfer t.id fun t => { t with stage := .sent }
      ((s.send port 5 [t.id.toNat, bit (x.phase == .rendering) 0] b).charge x.session (some x.job) { Account.zero with ihlauxOut := b.length }).bump (0x140 + port) b.length
    | _, _ => s
  | _, _ => s

end Sys2Proof.Machine
end

