-- ==== Sys2Proof/Machine/Head.lean ====
section
/-! DEFINITION. The head program on a Burin unit (07 R217 to R229) and the output stage's arithmetic (07 R231 to R233, 16 R517
R518 R610). -/

namespace Sys2Proof.Machine

open Sys2Proof

/-! ### Vectors of the vector file (07 R218) -/

/-- An element of a vector as the operations read it: its exact value, and its F32 word with the range flag. -/
abbrev HElt := Exact × FW

/-- An F32 word as an element. -/
def f32Elt (x : FW) : HElt := (f32Value x.1, x)

/-- An S32 word of V1 as an element: exact, or converted to F32 (07 R218). -/
def s32Elt (w : Word) : HElt := (s32Value w, f32Round (s32Value w))

/-- A sample on its way through the program: V0 and V2 to V15, V1, and whether anything set the range flag. -/
structure HeadRun where
  vecs : Tab (List HElt)
  cell : List Word
  flag : Bool

/-- Vector number v. -/
def HeadRun.vec (r : HeadRun) (v : Nat) : List HElt := if v = 1 then r.cell.map s32Elt else (tabGet r.vecs v).getD []

/-- Writes F32 results into a scratch vector. -/
def HeadRun.put (r : HeadRun) (v : Nat) (xs : List FW) : HeadRun :=
  { r with vecs := tabSet r.vecs v (xs.map fun x => f32Elt x), flag := r.flag || xs.any (·.2) }

/-- What a sample's program takes beside the vectors: the head's part of the weight image, the head layer, the seed and stream key
of the stream, the sample, and the head state before it. -/
structure HeadIn where
  part  : List Byte
  layer : Layer
  seed  : DWord
  key   : Word
  n     : Nat
  prev  : Head

/-- A draw of the head with a tensor ID after the layer's base (07 R221, R224, R231). -/
def HeadIn.draw (i : HeadIn) (tensor offset : Nat) (data : Word) : Draw :=
  ⟨i.seed, i.key, BitVec.ofNat 16 (i.layer.tensor + tensor), BitVec.ofNat 48 i.n, BitVec.ofNat 16 offset, data.setWidth 16⟩

/-- An F32 word of the head's part. -/
def partWord (h : List Byte) (off : Nat) : Word := BitVec.ofNat 32 (num h off 4)

/-! ### Operations (07 R219 to R221) -/

/-- MATVEC: the source in Q8B, each row's blocks closed and combined (07 R220). -/
def matvec (h : List Byte) (o : HeadOp) (src : List HElt) : List FW :=
  let n := ceilDiv o.cols 32
  let a := (encodeRows 2 none [src.map fun x => (x.1, Mode.nearest)]).1
  let bad := src.any (·.2.2)
  let w := bytesAt h o.woff (tensorBytes o.wfmt o.rows o.cols)
  (List.range o.rows).map fun r =>
    let x := treeSum ((List.range n).map fun b => blockClose 2 o.wfmt (blockAt 2 n b a) (blockAt o.wfmt (o.rows * n) (r * n + b) w))
    (x.1, x.2 || bad)

/-- A sum with the exact value of an element, rounded once (07 R218). -/
def addElt (x : HElt) (y : FW) : FW :=
  let r := f32Round (x.1.add (f32Value y.1))
  (r.1, r.2 || x.2.2 || y.2 || f32Infinite y.1)

/-- A sum of two elements' exact values, rounded once (07 R218). -/
def addElts (x y : HElt) : FW :=
  let r := f32Round (x.1.add y.1)
  (r.1, r.2 || x.2.2 || y.2.2)

/-- FEED's addend for element k: x_prev × f rounded once, or the table row of CLASS_PREV (07 R219, R220). -/
def feedAddend (i : HeadIn) (o : HeadOp) (k : Nat) : FW :=
  if headDist i.part = 1 then
    bf16FW (BitVec.ofNat 16 (num i.part (o.woff + 2 * (i.prev.classPrev * o.rows + k)) 2))
  else
    let f := partWord i.part (o.woff + 4 * k)
    let r := f32Round ((s32Value i.prev.xPrev).mul (f32Value f))
    (r.1, r.2 || f32Infinite f)

/-- One channel of CELL (07 R221). -/
def cellStep (i : HeadIn) (k : Nat) (p q : FW) (h : Word) : FW :=
  let s := fElem .sigmoid p
  let a := s32Round .nearest (f32Value s.1)
  let ac := clampDecay a.1
  let c := f32Round ⟨2 ^ 27 - ac.1.toInt, 2 ^ 27, false⟩
  let t := fMul (c.1, false) (fElem .tanh q)
  let b := s32Round .nearest (f32Value t.1)
  let m : Mode := if i.layer.stochastic then .draw ((i.draw 2 k b.1).u.toNat % 65536) else .nearest
  let r := scanStep m ac.1 b.1 h
  (r.1, r.2 || s.2 || a.2 || ac.2 || t.2 || b.2)

/-- One operation of the program that is not SAMPLE (07 R219). -/
def headStep (i : HeadIn) (r : HeadRun) (o : HeadOp) : HeadRun :=
  let a := r.vec o.srcA
  let at_ (xs : List HElt) (k : Nat) : HElt := xs.getD k (f32Elt (0, false))
  match o.op with
  | 0 => r.put o.dst (matvec i.part o (a ++ if o.srcB = 0xFF then [] else r.vec o.srcB))
  | 1 => r.put o.dst ((List.range o.rows).map fun k => addElt (at_ a k) (partWord i.part (o.woff + 4 * k), false))
  | 2 => r.put o.dst ((List.range o.rows).map fun k => addElts (at_ a k) (at_ (r.vec o.srcB) k))
  | 3 =>
    let const (k : Nat) : FW := bf16FW ((partWord i.part (o.woff + if o.func = 9 then 4 * k else 0) >>> 16).setWidth 16)
    r.put o.dst ((List.range o.rows).map fun k => activation (actOf o.func) (const k) (at_ a k).2)
  | 4 => r.put o.dst ((List.range o.rows).map fun k => gate (actOf o.func) (at_ a k).2 (at_ (r.vec o.srcB) k).2)
  | 5 => r.put o.dst ((List.range o.rows).map fun k => addElt (at_ a k) (feedAddend i o k))
  | 6 =>
    let n := r.cell.length
    let hs := (List.range n).map fun k => cellStep i k (at_ a k).2 (at_ a (n + k)).2 (r.cell.getD k 0)
    { r with cell := hs.map (·.1), flag := r.flag || hs.any (·.2) }
  | _ => r

/-! ### Samplers (07 R223 to R228) -/

/-- −16 in F32. -/
def minusSixteen : Word := 0xC1800000

/-- A log-scale held to −16 to 0 (07 R225, R228). -/
def clampScale (x : FW) : FW := (if f32Lt x.1 minusSixteen then minusSixteen else if f32Lt 0 x.1 then 0 else x.1, x.2 || f32Infinite x.1)

/-- Running sums in increasing order, from zero. -/
def runningSums : FW → List FW → List FW
  | _, [] => []
  | acc, x :: xs => let c := fAdd acc x; c :: runningSums c xs

/-- The smallest index of a list of sums above t, or the last. -/
def firstAbove (t : Word) (cs : List FW) : Nat := (cs.findIdx? fun c => f32Lt t c.1).getD (cs.length - 1)

/-- Element of a list of F32 values. -/
def fAt (xs : List FW) (k : Nat) : FW := xs.getD k (0, false)

/-- A value as it leaves a sampler: S32, the class of DIST 1, the noise history, the range flag. -/
structure Sampled where
  x     : FW
  exact : Option Word     -- DIST 1: the table's S32 value
  cls   : Nat
  noise : List Word

/-- DIST 0, the mixture of logistics (07 R225). -/
def sampleMixture (i : HeadIn) (ps : List FW) : Sampled :=
  let k := headParam i.part
  let ws := ps.take k
  let m : FW := (f32Max (ws.map (·.1)), ws.any (·.2))
  let cs := runningSums (0, false) (ws.map fun w => fElem .exp (fSub w m))
  let t := fMul (uniform (i.draw 0 0 i.prev.xPrev).u, false) (fAt cs (k - 1))
  let j := firstAbove t.1 cs
  let u := (i.draw 0 1 i.prev.xPrev).u
  let l := fSub (fElem .ln (uniform u, false)) (fElem .ln (uniformRest u, false))
  let x := fAdd (fAt ps (k + j)) (fMul (fElem .exp (clampScale (fAt ps (2 * k + j)))) l)
  ⟨(x.1, x.2 || t.2), none, 0, i.prev.noise⟩

/-- DIST 1, the companded categorical (07 R226, R227). -/
def sampleClass (i : HeadIn) (ps : List FW) : Sampled :=
  let m : FW := (f32Max (ps.map (·.1)), ps.any (·.2))
  let blocks := blocks32 (ps.map fun w => fElem .exp (fSub w m))
  let rs := runningSums (0, false) (blocks.map fun b => fAt (runningSums (0, false) b) (b.length - 1))
  let t := fMul (uniform (i.draw 0 0 i.prev.xPrev).u, false) (fAt rs (rs.length - 1))
  let b := firstAbove t.1 rs
  let rest := fSub t (if b = 0 then (0, false) else fAt rs (b - 1))
  let c := 32 * b + firstAbove rest.1 (runningSums (0, false) (blocks.getD b []))
  ⟨(0, rest.2), some (classValue c), c, i.prev.noise⟩

/-- DIST 2, regression plus shaped noise (07 R228); the entries past P of the history stay zero (07 R234). -/
def sampleNoise (i : HeadIn) (ps : List FW) : Sampled :=
  let p := headParam i.part
  let z := normalByTable (i.draw 0 0 i.prev.xPrev).u
  let zs := z :: i.prev.noise
  let prods := (List.range (p + 1)).map fun j => fMul (fAt ps (2 + j)) (zs.getD j 0, false)
  let shaped := prods.tail.foldl fAdd (fAt prods 0)
  let x := fAdd (fAt ps 0) (fMul (fElem .exp (clampScale (fAt ps 1))) shaped)
  ⟨x, none, 0, (List.range 7).map fun k => (zs.take p).getD k 0⟩

/-- The sampled value of a parameter vector (07 R225 to R228). -/
def sampleOf (i : HeadIn) (ps : List FW) : Sampled :=
  match headDist i.part with
  | 0 => sampleMixture i ps
  | 1 => sampleClass i ps
  | _ => sampleNoise i ps

/-- x held to −1 to 1 − 2⁻²⁷, and whether that moved it (07 R223). -/
def clampSample (x : Word) : Word × Bool :=
  if x.toInt < -(2 ^ 27) then (BitVec.ofInt 32 (-(2 ^ 27)), true)
  else if 2 ^ 27 ≤ x.toInt then (0x07FFFFFF, true)
  else (x, false)

/-- One sample: the value, the head state after it, whether it was clamped, whether the range flag was set (07 R219 to R229). The
envelope is the output stage's and stays. -/
structure HeadOut where
  x     : Word
  head  : Head
  clamp : Bool
  flag  : Bool

/-- V0 of a sample: C conditioning values in BF16 (07 R218). -/
def condVec (c off : Nat) (cond : List Byte) : List HElt :=
  (List.range c).map fun k =>
    let w := bf16FW (BitVec.ofNat 16 (num cond (off + 2 * k) 2))
    (f32Value w.1, w)

/-- Runs a head program on one sample's conditioning (07 R218 to R229). -/
def runHead (i : HeadIn) (cond : List HElt) : HeadOut :=
  let prog := headProgram i.part
  let r := (prog.take (prog.length - 1)).foldl (headStep i) ⟨[(0, cond)], i.prev.cell, false⟩
  let src := ((prog.getLast?).map (·.srcA)).getD 0
  let y := sampleOf i ((r.vec src).map (·.2))
  let s := s32Round .nearest (f32Value y.x.1)
  let c := match y.exact with
    | some v => (v, false)
    | none => clampSample s.1
  let next : Head := { i.prev with
    xPrev := c.1
    classPrev := if headDist i.part = 1 then y.cls else 0
    noise := if headDist i.part = 2 then y.noise else List.replicate 7 0
    cell := r.cell }
  ⟨c.1, next, c.2, r.flag || y.x.2⟩

/-! ### The output stage (07 R231, R233) -/

/-- Step 1: the envelope after a sample (07 R231). -/
def envelopeStep (e x : Word) : Word :=
  let d : Int := (x.toInt.natAbs : Int) - e.toInt
  BitVec.ofInt 32 (e.toInt + d / 1024)

/-- Step 2's size: the envelope shifted by the strength level, at least one PCM step (07 R231). -/
def markSize (e : Word) (level w : Nat) : Nat := max (e.toNat / 2 ^ (16 - level)) (2 ^ (28 - w))

/-- Step 3: dither of a draw, in units of 2⁻²⁷ × 2⁻¹⁶ (07 R231). -/
def ditherUnits (u : Word) (w : Nat) : Int := ((u.toNat % 65536 + u.toNat / 65536 : Nat) - 65536 : Int) * 2 ^ (28 - w)

/-- A quotient rounded to nearest even. -/
def nearestEven (x : Int) (d : Nat) : Int :=
  let r := (roundQuot .nearest x.natAbs d : Int)
  if x < 0 then -r else r

/-- Step 4: the PCM value of y + d and whether it clipped (07 R231). `sum` is in units of 2⁻⁴³. -/
def pcmOf (sum : Int) (w : Nat) : Int × Bool :=
  let q := nearestEven sum (2 ^ (28 - w) * 65536)
  let v := satInt w q
  (v, v != q)

/-- The whole output stage of one sample: PCM value and whether it clipped (07 R231); `up` says whether the chip is +1. -/
def outputPcm (x e : Word) (up : Bool) (level w : Nat) (dither : Option Word) : Int × Bool :=
  let m : Int := markSize e level w
  let y := x.toInt + if up then m else -m
  pcmOf (y * 65536 + ((dither.map fun u => ditherUnits u w).getD 0)) w

/-! ### The Plate Mark (16 R517, R518, R610) -/

/-- One step of the CRC-20 register (16 R610). -/
def crc20Step (reg : Nat) (b : Bool) : Nat :=
  let fb := (reg.testBit 19) != b
  let r := reg * 2 % 2 ^ 20
  if fb then r ^^^ 0x00BE3 else r

/-- The CRC-20 of bits [107:0] (16 R610). -/
def crc20 (w : Nat) : Nat := ((List.range 108).map w.testBit).foldl crc20Step 0xFFFFF

/-- The payload W_P (16 R517). -/
def markPayload (serial session frame : Nat) : Nat :=
  let low := serial % 2 ^ 48 + session % 2 ^ 12 * 2 ^ 48 + frame % 2 ^ 48 * 2 ^ 60
  low + crc20 low * 2 ^ 108

/-- Whether the chip of sample n is +1 (16 R518). -/
def chipUp (km : List Byte) (payload n : Nat) : Bool :=
  let a := Config.aes256 km (leBytes 8 (n / 128) ++ zeros 8)
  let k := n % 128
  ((a.getD (k / 8) 0).getLsbD (k % 8)) == payload.testBit k

end Sys2Proof.Machine
end

