-- ==== Sys2Proof/Machine/Burin.lean ====
section
/-! DEFINITION. The Burin units (02 R52 R71 R72, 07 R212 to R240, 11 R356, 18 R558 R560): SAMPLE_START, SAMPLE_HAND_OFF,
OUTPUT_STAGE_WRITE, SAMPLE_MIRROR, OUTPUT_SCRIBER_PIECE, BURIN_TAKEOVER, BURIN_CONTEXT_MOVE. -/

namespace Sys2Proof.Machine

open Sys2Proof

/-! ### The next sample of a stream (07 R214, R235) -/

/-- The chunk that holds a sample, among those that Burin may take. -/
def Stream.chunkOf (x : Stream) (n : Nat) : Option Chunk := x.burinChunks.find? fun c => c.first ≤ n && n < c.first + c.count

/-- Whether a stream's job lets its head run: it is bound and the stream is in the plan. -/
def State.headRuns (s : State) (x : Stream) : Bool := !x.left && (s.job x.job).any fun j => j.state == .bound || j.state == .frosting

/-- The chunk whose sample a stream may start: its conditioning in place, its Frame begun, the previous sample handed off (07
R214). -/
def State.eligible (s : State) (x : Stream) : Option Chunk :=
  match x.chunkOf x.headAt with
  | some c => if x.current.isNone && s.headRuns x && c.condAt.isSome && c.frame ≤ s.tb.frameOrd then some c else none
  | none => none

/-- Pacing deadline of a stream's next sample, in sub-ticks of Frame-tick count (07 R214). -/
def State.pacing (s : State) (x : Stream) (c : Chunk) : Nat :=
  s.frameSubs * c.frame + (x.headAt - c.first + 1) * sampleSubs x.rate

/-- The eligible context of a unit with the earliest pacing deadline, the lowest number on a tie (07 R214). -/
def State.nextContext (s : State) (u : Nat) : Option (Nat × Stream × Chunk) :=
  let all := (s.unit u).ctxs.filterMap fun k =>
    (s.stream k.2).bind fun x => if x.unit = u && x.ctx = k.1 then (s.eligible x).map fun c => (k.1, x, c) else none
  all.foldl
    (fun best e =>
      match best with
      | none => some e
      | some b => if s.pacing e.2.1 e.2.2 < s.pacing b.2.1 b.2.2 then some e else some b) none

/-- The conditioning of a sample of a stream, where the Plate of its job's cores holds it (06 R201, 07 R218). -/
def State.condOf (s : State) (x : Stream) (n : Nat) : Option (List Byte) :=
  match x.chunkOf n, s.model (x.voiceAt n) with
  | some c, some m =>
    let size := 2 * headCond (headPart m.image)
    if c.condAt.isSome then some (bytesAt c.cond (size * (n - c.first)) size) else none
  | _, _ => none

/-- What a unit's conditioning queue holds of a context: its next eligible sample and the 4 behind it, as far as their conditioning is
in place (07 R215). -/
def State.queueOf (s : State) (k : Nat × Nat) : Nat × List (Nat × List Byte) :=
  (k.1, match s.stream k.2 with
    | some x => (List.range 5).filterMap fun i => (s.condOf x (x.headAt + i)).map fun b => (x.headAt + i, b)
    | none => [])

/-- A unit fetches conditioning ahead for all its contexts (07 R215). -/
def State.fetchCond (s : State) (u : Nat) : State :=
  let b := s.unit u
  s.setUnit u { b with queue := b.ctxs.map s.queueOf }

/-- The sample that a stream's head computes next from the conditioning in its unit's queue, and the head state after it: the voice
switch, then the reset, at the stream's first sample too (06 R195, 07 R215 R235), then the program and the envelope (07 R229, R231 step 1). -/
def State.computeSample (s : State) (x : Stream) (c : Chunk) : Option HeadOut :=
  let n := x.headAt
  match s.model (x.voiceAt n) with
  | none => none
  | some m =>
    match imgHead m.image with
    | none => none
    | some l =>
      let h0 := if n = 0 || c.flagged.contains n then initialHead m.image else x.head
      let cond := (tabGet ((tabGet (s.unit x.unit).queue x.ctx).getD []) n).getD []
      let r := runHead ⟨headPart m.image, l, x.seed, x.key, n, h0⟩ (condVec (headCond (headPart m.image)) 0 cond)
      some { r with head := { r.head with envelope := envelopeStep h0.envelope r.x } }

/-- SAMPLE_START: an idle unit starts the eligible sample with the earliest pacing deadline (07 R214). -/
def execSampleStart (unit : Nat) (s : State) : Host.Outcome State Fault Refusal :=
  .next (
    let b := s.unit unit
    if s.boot.phase != .ready || !s.unitServes unit || b.busy.isSome then s else
    match s.nextContext unit with
    | none => s
    | some (k, x, c) =>
      let s := s.fetchCond unit
      let b := s.unit unit
      match s.computeSample x c with
      | none => s
      | some r =>
        let f := EvScope.field (unit / 8)
        let s := if r.clamp then s.bump 0x043 1 f else s
        let s := if r.flag then s.bump 0x017 1 f else s
        (s.setUnit unit { b with busy := some k }).setStream { x with current := some (x.headAt, r.x, r.head) })

/-! ### Hand-off (02 R51 R71, 07 R230 R240) -/

/-- H in sub-ticks (02 R53). -/
def holdSubs : Nat := 1024

/-- A span of sub-ticks in whole microseconds, rounded down. -/
def spanUs (subs : Int) : Int := subs * 125 / 3072

/-- The Frame margin of a chunk whose last sample is handed off at a sub-tick, in µs (02 R71). -/
def State.chunkMargin (s : State) (c : Chunk) (now : Nat) : Option Int :=
  c.condAt.map fun t =>
    let k := s.tickAt c.frame
    spanUs (min (k - t) (k + s.frameSubs + holdSubs - now))

/-- A ratio in units of 1/256, rounded down and held to 0xFFFF (11 R356). -/
def ratio256 (num den : Nat) : Nat := if den = 0 then 0xFFFF else min 0xFFFF (256 * num / den)

/-- Declared core-cycles of a job's busiest core in a Frame (11 R356). -/
def State.coreShare (s : State) (j : Job) : Nat :=
  match s.jobCost j with
  | some c => ceilDiv (ceilDiv (cycles100 c ((s.rowStreams j).map (·.keep))) 100) (max j.cores.length 1)
  | none => 0

/-- U_H ÷ U_H,iso of a chunk, over the rows of its job (11 R356). -/
def State.hatchRatio (s : State) (j : Job) (c : Chunk) : Nat :=
  let ats := (s.rowStreams j).filterMap fun y => (y.burinChunks.find? fun d => d.frame = c.frame).bind (·.condAt)
  let uH := ((ats.foldl max 0 : Nat) - (s.tickAt c.frame - s.frameSubs)).toNat
  ratio256 (uH * 3125) (128 * s.coreShare j)

/-- The slowest Burin unit of a job's chunk with one more row's last sample handed off: the longest time from F_k, and that unit's ratio (11
R356). -/
def State.burinRatio (s : State) (j : Job) (x : Stream) (c : Chunk) (now : Nat) : Nat × Nat × Nat :=
  let uB := ((now : Int) - s.tickAt c.frame).toNat
  if j.ik.1 = c.frame && uB < j.ik.2.1 then j.ik
  else (c.frame, uB, ratio256 (192 * uB) (s.unitSixths false x.unit * s.frameSubs))

/-- Whether a chunk yields an I_k: of a Live job, no clock stretched in it (11 R356). -/
def State.measures (s : State) (j : Job) (c : Chunk) : Bool := !j.fill && !c.stretched && !s.pwr.stretchedFrame

/-- The window of a chunk for the records that cover it; `ends` says whether an end mark follows its last sample (13 R425, R426). -/
def State.chunkWindow (s : State) (c : Chunk) (now ik : Nat) (ends : Bool) : Window :=
  ⟨ik, s.chunkMargin c now, 0, c.slips, ends, c.stretched || s.pwr.stretchedFrame, false⟩

/-- Adds a hand-off, or a window, to a stream's history of the running Frame. -/
def histAdd (ord lo hi : Nat) (w : Window) (hist : List (Nat × Nat × Nat × Window)) : List (Nat × Nat × Nat × Window) :=
  if hist.any (·.1 == ord) then hist.map fun h => if h.1 = ord then (ord, h.2.1, max h.2.2.1 hi, h.2.2.2.join w) else h
  else hist ++ [(ord, lo, hi, w)]

/-- The Frame-boundary record whose sample the head has reached is complete: it is the shadow, and for a Keep stream the second one too (06
R199, R202, R207). -/
def Stream.ripen (x : Stream) : Stream :=
  match (x.dueShadows.takeWhile (·.headNext ≤ x.headAt)).getLast? with
  | some r =>
    let r := { r with head := x.head }
    { x with
      shadow := some r
      second := x.second.map fun q => (q.1, { r with rflags := 1 })
      dueShadows := x.dueShadows.dropWhile (·.headNext ≤ x.headAt) }
  | none => x

/-- FEATURE_PUSHes with records that cover samples of a chunk. -/
def Stream.pushesOf (x : Stream) (c : Chunk) : List Nat :=
  ((x.records.filter fun r => r.first < c.first + c.count && c.first < r.first + r.span).map (·.seq)).eraseDups

/-- Records whose samples are not all handed off. -/
def keepRecords (handed : Nat) (rs : List FeatRec) : List FeatRec := rs.filter fun r => handed < r.first + r.span

/-- A stream enters Idle at an end mark, or stays in Closing; the mark is applied (01 R36, 13 R415). -/
def Stream.endAt (e : Nat) (x : Stream) : Stream :=
  { x with
    phase := if x.phase == .rendering then .idle else x.phase
    ends := x.ends ++ [e]
    controls := x.controls.filter fun k => !(k.flags = 2 && k.sample = e) }

/-- A job's I_k as far as its rows show it reaches the records of rows that have handed off their chunk before, as long as they are open (11
R356, 13 R425). -/
def State.shareIk (s : State) (j : Job) (but ik : Nat) : State :=
  let w := { Window.empty with interference := ik }
  let ord := s.tb.frameOrd
  let one (s : State) (y : Stream) : State :=
    if y.id = but then s else
    let r := s.ring y.session
    let mark (d : Desc) : Desc :=
      if d.opcode = 7 && d.stream = y.id && d.handAt = some ord then { d with win := d.win.join w } else d
    let hist := y.hist.map fun h => if h.1 = ord then (h.1, h.2.1, h.2.2.1, h.2.2.2.join w) else h
    (s.setRing y.session { r with accepted := r.accepted.map mark }).setStream { y with hist := hist }
  (s.rowStreams j).foldl one s

/-- A chunk's I_k is measured anew with a row's last sample: the job's account and open records take it (11 R356). -/
def State.measure (s : State) (x : Stream) (c : Chunk) (now : Nat) : State × Nat :=
  match s.job x.job with
  | none => (s, 0)
  | some j =>
    if !s.measures j c then (s, 0) else
    let b := s.burinRatio j x c now
    let ik := max (s.hatchRatio j c) b.2.2
    let s := (s.setJob { j with ik := b }).charge x.session (some j.id) { Account.zero with iMax := ik }
    (s.shareIk j x.id ik, ik)

/-- The last sample of a chunk has been handed off: the records that cover it report it, and its end mark, also one that came after the plan
closed, takes effect (02 R71, R72; 13 R415, R425, R426). -/
def State.finishChunk (s : State) (x : Stream) (c : Chunk) (now : Nat) : State :=
  let m := s.measure x c now
  let s := m.1
  let next := c.first + c.count
  let ends := c.ends || x.controls.any fun k => k.flags = 2 && k.sample = next
  let w := s.chunkWindow c now m.2 ends
  let seqs := x.pushesOf c
  let s := seqs.foldl (fun s q => s.modDesc x.session q fun d => { d with win := d.win.join w }) s
  let x := { x.ripen with hist := histAdd s.tb.frameOrd next next { w with stretched := s.pwr.stretchedFrame } x.hist }
  let x := if ends then x.endAt next else x
  let s := (s.setStream x).trySend x.id
  if c.late = 0 then s
  else
    let late := spanUs ((now : Int) - (s.tickAt (c.frame + c.moved - c.late + 1) + holdSubs))
    s.writeTrace 0x83 (srcOf 9 x.job) (x.id + late.toNat % 2 ^ 32 * 65536)

/-- The push of a handed-off sample counts it; of a record that came by Transfer, the source is told once its last sample is handed off
(13 R426, 15 R490). -/
def State.reportHandOff (s : State) (x : Stream) (r : FeatRec) (n : Nat) : State :=
  if r.seq < sourceSeq then s.modDesc x.session r.seq fun d => { d with done := d.done + 1, handAt := some s.tb.frameOrd }
  else if n + 1 = r.first + r.span then s.send (s.portTo (r.seq - sourceSeq)) 8 [x.id, r.first, r.span] []
  else s

/-- The chunks on their way to the host, with the one of a sample just handed off (07 R214, 09 R282). -/
def State.pacesWith (s : State) (x : Stream) (c : Chunk) : List (Nat × Nat × Int) :=
  if x.toHost && !x.paces.any (·.1 == c.first) then x.paces ++ [(c.first, c.count, s.tickAt c.frame)] else x.paces

/-- A sample's first hand-off: the Frame number is latched, the sample enters the output stage under the mark key of its context and is
counted and charged; feature records behind it leave the queue (07 R230 R232 R240, 17 R536). -/
def State.handOff (s : State) (x : Stream) (c : Chunk) (n cycles now : Nat) (v : Word) (h : Head) : State :=
  let f := EvScope.field (x.unit / 8)
  let s := (s.bump 0x040 1 f).charge x.session (some x.job) { Account.zero with burin := cycles }
  let s := s.tally x.session [] ((List.range (min x.rate 4)).map (fun _ => 0) ++ [1])
  let s := match x.records.find? fun r => r.first ≤ n && n < r.first + r.span with
    | some r => s.reportHandOff x r n
    | none => s
  let key := (tabGet (s.unit x.unit).keys x.ctx).getD []
  let y := { x with
    head := h
    headAt := n + 1
    handed := n + 1
    current := none
    paces := s.pacesWith x c
    staged := x.staged ++ [(⟨n, v, h.envelope, s.tb.frame, c.dither, key⟩ : Handed)]
    hist := histAdd s.tb.frameOrd n (n + 1) Window.empty x.hist }
  let s := if n + 1 = c.first + c.count then s.finishChunk y c now else s.setStream y
  match s.stream x.id with
  | some y =>
    let rs := keepRecords (n + 1) y.records
    s.setStream { y with records := rs, popped := y.popped + (y.records.length - rs.length) }
  | none => s

/-- SAMPLE_HAND_OFF: the sample in a unit passes the feedback point at a sub-tick after the Frame tick, having taken a number of
Burin cycles; the output buffer drops a repeated index (02 R51, 07 R229 R230 R239 R240). -/
def execSampleHandOff (unit at_ cycles : Nat) (s : State) : Host.Outcome State Fault Refusal :=
  .next (
    let b := s.unit unit
    match b.busy.bind fun k => (tabGet b.ctxs k).bind s.stream with
    | none => s
    | some x =>
      match x.current, x.chunkOf x.headAt with
      | some (n, v, h), some c =>
        let f := EvScope.field (unit / 8)
        let cost := ((s.model (x.voiceAt n)).map fun m => programCost (headPart m.image)).getD 0
        let s := ((s.setUnit unit { b with busy := none }).bump 0x041 cycles f).bump 0x042 (cycles - cost) f
        if n < x.handed then
          (s.setStream (Stream.ripen { x with head := h, headAt := n + 1, current := none })).bump 0x047 1 f
        else s.handOff x c n cycles (s.tb.frameAt + at_) v h
      | _, _ => s)

/-! ### The output stage and the output Scriber (07 R230 to R233, 09 R289) -/

/-- The PCM width of a stream (07 R233). -/
def State.pcmWidth (s : State) (x : Stream) : Nat := if x.toHost then 24 else (s.dir x.line 0).width

/-- The Plate Mark period of a sample, with the Frame of the first sample of it that this module hands off (16 R517). -/
def periodAt (p : Option (Nat × BitVec 48)) (h : Handed) : Nat × BitVec 48 :=
  match p with
  | some q => if q.1 = h.n / 32768 then q else (h.n / 32768, h.frame)
  | none => (h.n / 32768, h.frame)

/-- OUTPUT_STAGE_WRITE: the oldest sample in the output stage becomes a PCM word, and goes to every destination (07 R231 to R233). -/
def execOutputStageWrite (stream : Nat) (s : State) : Host.Outcome State Fault Refusal :=
  .next (
    match s.stream stream with
    | none => s
    | some x =>
      match x.staged with
      | [] => s
      | h :: rest =>
        let w := s.pcmWidth x
        let p := periodAt x.period h
        let up := chipUp h.key (markPayload s.part.serial.toNat x.session p.2.toNat) h.n
        let level := ((s.session x.session).map (·.level)).getD 0
        let tensor := (((s.model x.handle).bind fun m => imgHead m.image).map (·.tensor)).getD 0
        let draw := if h.dither then
            some (Draw.u ⟨x.seed, x.key, BitVec.ofNat 16 (tensor + 1), BitVec.ofNat 48 h.n, 0, h.x.setWidth 16⟩)
          else none
        let r := outputPcm h.x h.env up level w draw
        let s := if r.2 then s.bump 0x044 1 (.field (x.unit / 8)) else s
        let pcm : Word := BitVec.ofInt 32 r.1
        s.setStream { x with
          staged := rest
          period := some p
          outBuf := if x.toHost then x.outBuf ++ [(h.n, pcm &&& 0x00FFFFFF)] else x.outBuf
          lineBuf := if x.toLine then x.lineBuf ++ [(h.n, pcm <<< (32 - w))] else x.lineBuf })

/-- SAMPLE_MIRROR: the mirror partner holds the head state as of the last hand-off (07 R238). -/
def execSampleMirror (stream : Nat) (s : State) : Host.Outcome State Fault Refusal :=
  .next (
    match s.stream stream with
    | some x => if s.unitServes x.unit && tabGet (s.unit x.unit).ctxs x.ctx = some stream then
        s.setStream { x with mirror := (x.headAt, x.head) }
      else s
    | none => s)

/-- Whether a stream's piece is the one that its field's output Scriber serves, and the controller of its channel (09 R282, R284). -/
def State.pieceServed (s : State) (x : Stream) : Bool :=
  (s.streams.all fun q => q.1 = x.id || q.2.unit / 8 != x.unit / 8 || q.2.piece = 0 || !((s.pieceXfer q.2).before (s.pieceXfer x))
    || (s.pieceXfer x).before (s.pieceXfer q.2))
    && s.channelServes (s.channelOf (audioAddr x.id (((x.outBuf.head?).map (·.1)).getD 0))) (s.pieceXfer x)

/-- OUTPUT_SCRIBER_PIECE: a piece of a stream's PCM is written into its audio ring, in the order of its field's pieces (09 R282 R289, 10
R301). -/
def execOutputScriberPiece (stream : Nat) (s : State) : Host.Outcome State Fault Refusal :=
  .next (
    match s.stream stream with
    | none => s
    | some x =>
      let n := x.piece
      if n = 0 || 262144 < x.audio.length + n || !s.pieceServed x then s else
      let first := ((x.outBuf.head?).map (·.1)).getD 0
      let stop := first + n
      let s := (s.setStream { x with
        outBuf := x.outBuf.drop n
        audio := x.audio ++ x.outBuf.take n
        pieces := x.pieces ++ [⟨first, n, s.audioDue x (stop - 1), s.tb.sub⟩]
        paces := x.paces.filter fun p => stop < p.1 + p.2.1 }).bump (0x0A0 + s.channelOf (audioAddr stream first)) (3 * n)
      s.charge x.session (some x.job) { Account.zero with dramWr := 3 * n })

/-! ### Faults of a unit (07 R237 R239, 18 R558 R560) -/

/-- The unit that mirrors a unit's head states: another of its field, or of an adjacent field (07 R238). -/
def State.mirrorPartner (s : State) (u : Nat) : Option Nat :=
  let other (v : Nat) : Bool := v != u && s.unitExists v && !(s.unit v).retired
  match (List.range 8).find? fun i => other (8 * (u / 8) + (u + i) % 8) with
  | some i => some (8 * (u / 8) + (u + i) % 8)
  | none => (List.range 672).find? fun v => adjacent (v / 8) (u / 8) && other v

/-- A stream's chunks with those that its mirror has not passed, and the voice in force before them (07 R239). -/
def Stream.replayed (x : Stream) : Stream :=
  match x.replay.filter fun q => x.mirror.1 < q.1.first + q.1.count with
  | [] => x
  | q :: rest => { x with burinChunks := (q :: rest).map (·.1) ++ x.burinChunks, voice := q.2, replay := [] }

/-- A stream whose unit failed continues from its mirror; where the mirror write was incomplete and the partner has failed, from
the Frame-boundary head shadow, as a slip (07 R239, 18 R560). -/
def State.afterUnit (s : State) (lost : Bool) (x : Stream) : State :=
  let x := { x with current := none }
  if x.mirror.1 = x.headAt then s.setStream { x with head := x.mirror.2 }
  else if !lost then s.setStream { x.replayed with head := x.mirror.2, headAt := x.mirror.1 }
  else
    match x.shadow with
    | some r =>
      let y := if x.inFlight then x.missOne else x
      let s := s.setStream { y.withCarried r with head := r.head, headAt := r.headNext }
      if x.inFlight then s.noteSlip x 0 else s
    | none => s.setStream { x.replayed with head := x.mirror.2, headAt := x.mirror.1 }

/-- Fields of the cores of a stream's job; of a stream that waits for its restart, those of the cores held for it. -/
def State.streamFields (s : State) (x : Stream) : List Nat :=
  match s.job x.job with
  | some j => fieldsOf j.held
  | none => fieldsOf ((x.budget.map (·.cores)).getD [])

/-- Whether a unit meets R102 for a stream: in a field of its cores or an adjacent one; a stream that no core is held for has none to meet. -/
def State.unitNear (s : State) (x : Stream) (u : Nat) : Bool :=
  (s.streamFields x).isEmpty || (nearFields (s.streamFields x)).contains (u / 8)

/-- Distance between the fields of two units. -/
def unitDist (u v : Nat) : Nat := dist (fieldRow (u / 8)) (fieldRow (v / 8)) + dist (fieldCol (u / 8)) (fieldCol (v / 8))

/-- Whole idle units that may take every context of a unit (03 R102, 07 R239). -/
def State.wholeUnits (s : State) (u : Nat) : List Nat :=
  let xs := (s.unit u).ctxs.filterMap fun k => s.stream k.2
  (List.range 672).filter fun v =>
    v != u && s.unitServes v && (s.unit v).ctxs.isEmpty && xs.all fun x => s.unitNear x v

/-- Moves every context of a unit, with its weights and mark keys, to an idle one (07 R239). -/
def State.moveUnit (s : State) (u v : Nat) : State :=
  let b := s.unit u
  let s := s.setUnit v { s.unit v with ctxs := b.ctxs, weights := b.weights, keys := b.keys, queue := [] }
  let s := s.setUnit u { s.unit u with ctxs := [], weights := [], keys := [], queue := [] }
  b.ctxs.foldl
    (fun s k =>
      match s.stream k.2 with
      | some x => if x.unit = u then s.setStream { x with unit := v } else s
      | none => s) s

/-- A context without a whole unit goes to free slot-equivalents, or stops until there are any (18 R560). -/
def State.spreadCtx (s : State) (x : Stream) : State :=
  let s := s.freeUnit x
  match s.pickUnit false x.fill x.voices (s.streamSixths x) (s.streamFields x) with
  | some v => s.bindUnit x v
  | none => s.setStream { x with left := true }

/-- BURIN_TAKEOVER: a check fails, the unit stops, and its contexts go to the nearest whole idle unit, or are spread (07 R237 R239,
18 R560). `replacement` says which of several nearest ones. Samples handed off and still in the failed unit's output stage stay there: the spec
does not say what becomes of them, and OUTPUT_STAGE_WRITE writes them (log entry 41, DESIGN CHOICE). -/
def execBurinTakeover (unit replacement : Nat) (s : State) : Host.Outcome State Fault Refusal :=
  .next (
    let b := s.unit unit
    if s.boot.phase != .ready || !s.unitServes unit then s else
    let f := EvScope.field (unit / 8)
    let s := (s.setUnit unit { b with failed := true, busy := none }).bump 0x045 1 f
    let s := match s.rebind.place with
      | some (j, _) => if s.rebind.units.any (·.2 == unit) then s.dropPlace j else s
      | none => s
    let b := s.unit unit
    let ids := (b.ctxs.map (·.2)).filterMap fun id => (s.stream id).map (·.job)
    let second := ids.eraseDups.filter fun j => (s.job j).any fun j => j.held.any fun c => (s.core c).faulted
    let s := second.foldl (fun s j => s.tearDown j 560) s
    let b := s.unit unit
    if b.ctxs.isEmpty then s else
    let xs := b.ctxs.map (·.2)
    let lost := (s.mirrorPartner unit).any fun v => (s.unit v).failed
    let s := xs.foldl (fun s id => match s.stream id with
      | some x => s.afterUnit lost x
      | none => s) s
    let s := s.bump 0x046 1 f
    let idle := s.wholeUnits unit
    let near := idle.filter fun v => idle.all fun w => unitDist unit v ≤ unitDist unit w
    match near.head? with
    | some v =>
      let v := if near.contains replacement then replacement else v
      (s.moveUnit unit v).writeLog 0x41 (srcOf 2 unit) v
    | none =>
      let s := xs.foldl (fun s id => match s.stream id with
        | some x => s.spreadCtx x
        | none => s) s
      let starved := (xs.filter fun id => (s.stream id).any (·.left)).length
      s.raiseAlarm 0x0A 0 starved)

/-! ### Moves at a voice switch (07 R236) -/

/-- The span of a stream's next chunk: from its next sample to the end of the chunk grid (02 R46, R52). -/
def State.nextSpan (s : State) (x : Stream) : Nat × Nat :=
  let n := s.frameSamples x.rate
  (x.nextPlan, x.nextPlan + (n - x.nextPlan % n))

/-- Voices that a stream's next chunk switches to. -/
def State.nextVoices (s : State) (x : Stream) : List Nat :=
  let r := s.nextSpan x
  (x.controls.filter fun k => k.flags.testBit 2 && r.1 ≤ k.sample && k.sample < r.2).map (·.voice)

/-- BURIN_CONTEXT_MOVE: at a chunk boundary, the context of a stream whose next chunk switches to a voice that its unit has no room
for moves to a unit with room (07 R236, 03 R102). -/
def execBurinContextMove (stream unit : Nat) (s : State) : Host.Outcome State Fault Refusal :=
  .next (
    match s.stream stream with
    | none => s
    | some x =>
      let hs := x.voices ++ s.nextVoices x
      let inside := (x.chunkOf x.headAt).any fun c => c.first < x.headAt
      let t := s.freeUnit x
      if tabGet (s.unit x.unit).ctxs x.ctx != some stream || x.current.isSome || inside || s.storeFits (s.unit x.unit) hs
          || unit = x.unit || !t.storeFits (t.unit unit) hs || !s.unitNear x unit
          || !t.unitTakes true hs (t.streamSixths x) unit then s
      else
        let s := t.bindUnit x unit
        let b := s.unit unit
        s.setUnit unit { b with weights := s.loadWeights b hs })

end Sys2Proof.Machine
end

