-- ==== Sys2Proof/Machine/Lines.lean ====
section
/-! DEFINITION. Audio lines and sample clocks (14 R430 to R463): LINE_START, RUN_IN_COMPLETE, LINE_STOP, RUN_OUT_COMPLETE,
GROUP_START, GROUP_STOP, AUD_GROUP_FRAME_LO_READ, DRIFT_SLIP, CLOCK_STOP, FS_GLITCH, RATE_OUT_OF_RANGE, HOLDOVER_RETURN,
CAPTURE_WORD, STEERING_UPDATE, CLK_OSC_CFG_WRITE, SLOT_FLAG_CLEAR, and the frames that pass at a sample tick. -/

namespace Sys2Proof.Machine

open Sys2Proof

/-! ### Fields of a direction (14 R463) -/

/-- FORMAT of CFG (14 R463). -/
def Direction.format (x : Direction) : Nat := fld x.cfg 1 0
@[inherit_doc Direction.format] def Direction.role (x : Direction) : Nat := fld x.cfg 11 10
@[inherit_doc Direction.format] def Direction.oscNo (x : Direction) : Nat := fld x.cfg 13 12
@[inherit_doc Direction.format] def Direction.depthLog (x : Direction) : Nat := fld x.cfg 20 18
@[inherit_doc Direction.format] def Direction.group (x : Direction) : Nat := fld x.cfg 31 28
/-- The direction a follower names: 2 × line + direction (14 R437). -/
def Direction.leader (x : Direction) : Nat := 2 * fld x.cfg 26 21 + fld x.cfg 27 27
/-- DEPTH in frames (14 R439). -/
def Direction.depth (x : Direction) : Nat := 2 ^ x.depthLog
/-- Sample ticks between frames: 48 kHz ÷ f in halves, for no rate divides unevenly but 32 kHz (14 R440). -/
def Direction.halfTicks (x : Direction) : Nat := 96000 / rateHz x.rateCode

/-- Direction number 2n + d. -/
def State.dirAt (s : State) (k : Nat) : Direction := s.dir (k / 2) (k % 2)
/-- Sets direction number 2n + d. -/
def State.setDirAt (s : State) (k : Nat) (x : Direction) : State := s.setDir (k / 2) (k % 2) x

/-- Every direction number. -/
def allDirs : List Nat := List.range 128
/-- Members of a group (14 R451). -/
def State.members (s : State) (g : Nat) : List Nat := if g = 0 then [] else allDirs.filter fun k => (s.dirAt k).group = g
/-- Followers of a direction (14 R437). -/
def State.followers (s : State) (k : Nat) : List Nat :=
  allDirs.filter fun i => i != k && (s.dirAt i).role = 2 && (s.dirAt i).leader = k
/-- An alignment group. -/
def State.groupAt (s : State) (g : Nat) : Group := (tabGet s.lines.groups g).getD ⟨0, false, false, 0, 0⟩
/-- Sets an alignment group. -/
def State.setGroup (s : State) (g : Nat) (x : Group) : State := { s with lines := { s.lines with groups := tabSet s.lines.groups g x } }
/-- An audio oscillator; SLEW defaults to 20 (14 R447, R462). -/
def State.oscAt (s : State) (n : Nat) : Osc := (tabGet s.lines.oscs n).getD ⟨0, 0, 0, 20, 0, false, 0, false, false⟩
/-- Sets an audio oscillator. -/
def State.setOsc (s : State) (n : Nat) (x : Osc) : State := { s with lines := { s.lines with oscs := tabSet s.lines.oscs n x } }

/-- The directions that share a clock event: the direction, its followers, and their group's members (14 R438, R452, R461). -/
def State.together (s : State) (k : Nat) : List Nat := ([k] ++ s.followers k ++ s.members (s.dirAt k).group).eraseDups

/-- Directions that slip with one: its group's members, or itself (14 R452). -/
def State.slipSet (s : State) (k : Nat) : List Nat := if (s.dirAt k).group = 0 then [k] else s.members (s.dirAt k).group

/-- Line-mode oscillators hold while their reference is not running; a loop that resumes has yet to lock (14 R445). -/
def State.syncOscs (s : State) : State :=
  (List.range 4).foldl
    (fun s n =>
      let o := s.oscAt n
      let hold := o.mode = 1 && (s.dir o.refLine o.refDir).state != 2
      if o.hold = hold then s
      else s.setOsc n { o with hold := hold, locked := if hold then false else o.locked, lockMs := if hold then 0 else o.lockMs }) s

/-- Changes some directions and their group's state, and what oscillators hold. -/
def State.moveDirs (s : State) (ks : List Nat) (f : Direction → Direction) : State :=
  let s := ks.foldl (fun s k => s.setDirAt k (f (s.dirAt k))) s
  let gs := (ks.map fun k => (s.dirAt k).group).eraseDups.filter (0 < ·)
  let s := gs.foldl (fun s g =>
    let st := (s.members g).map fun k => (s.dirAt k).state
    s.setGroup g { s.groupAt g with state := st.foldl max 0 }) s
  s.syncOscs

/-! ### The pins (14 R432 to R436, R447, R450, R458)

Views of a direction: what each of its pins carries, and the levels in one line frame, by BCLK period from the FS edge that begins it. -/

/-- What a pin carries: nothing of the module's, a low level, the inactive level of FS, or the running signal. -/
inductive Pin where
  | undriven | low | inactive | running
  deriving DecidableEq, Repr

/-- D of a direction that divides its oscillator, if there is one (14 R435). -/
def Direction.divider (x : Direction) : Option Nat :=
  let bclk := 32 * x.slotCount * rateHz x.rateCode
  if 49152000 % bclk = 0 then some (49152000 / bclk) else none

/-- BCLK, FS and data of a direction: driven by a master, and the data by every transmit direction; held once stopped (14 R437, R447,
R450). -/
def Direction.pins (x : Direction) (transmit : Bool) : Pin × Pin × Pin :=
  let stopped := x.state = 0
  let clock := x.driven && x.role = 0
  (if !clock then .undriven else if stopped then .low else .running,
    if !clock then .undriven else if stopped then .inactive else .running,
    if !(x.driven && transmit) then .undriven else if stopped then .low else .running)

/-- Periods by which the first data bit of a slot follows the FS edge (14 R433). -/
def Direction.dataDelay (x : Direction) : Nat := if x.format = 0 then 1 else if x.format = 1 then 0 else fld x.cfg 15 15

/-- The level of FS in a period of a frame (14 R433, R463). -/
def Direction.fsLevel (x : Direction) (period : Nat) : Bool :=
  let active := match x.format with
    | 0 => 32 ≤ period
    | 1 => period < 32
    | _ => if bitOf x.cfg 14 then period = 0 else period < 16 * x.slotCount
  active != bitOf x.cfg 17

/-- A slot's bit on the wire, most significant first: W bits of its word, then zeros (14 R434). -/
def Direction.slotBit (x : Direction) (f : List LineSlot) (slot j : Nat) : Bool :=
  j < x.width && ((f.find? (·.slot = slot)).map fun w => bitOf w.word (31 - j)).getD false

/-- The level of the data pin in a period of a frame: with a delay, its first period carries the last bit of the frame before (14 R433,
R434). -/
def Direction.dataLevel (x : Direction) (before f : List LineSlot) (period : Nat) : Bool :=
  if period < x.dataDelay then x.slotBit before (x.slotCount - 1) 31
  else x.slotBit f ((period - x.dataDelay) / 32) ((period - x.dataDelay) % 32)

/-! ### Starting (14 R438, R448, R451) -/

/-- The fields of CFG in which a follower matches its leader (14 R438). -/
def matchMask : Word := 0x001FC39F

/-- Whether a follower's leader meets R438; `grouped` waives that the leader runs already. -/
def State.leaderOk (s : State) (x : Direction) (grouped : Bool) : Bool :=
  let l := s.dirAt x.leader
  l.role != 2 && (x.cfg &&& matchMask) == (l.cfg &&& matchMask) && (grouped || l.state != 0)

/-- The checks of a START but membership (14 R448). -/
def State.dirOk (s : State) (x : Direction) (grouped : Bool) : Bool :=
  let slotsLog := fld x.cfg 4 2
  x.format != 3 && slotsLog ≤ 5 && (2 ≤ x.format || slotsLog = 1) && fld x.cfg 6 5 != 3 && x.rateCode ≤ 4 && x.role != 3
    && (2 ≤ x.depthLog && x.depthLog ≤ 6)
    && (x.role != 0 || 49152000 % (32 * x.slotCount * rateHz x.rateCode) = 0)
    && (x.role != 2 || s.leaderOk x grouped)

/-- A direction at the start of its run-in (14 R448, R463). -/
def startDir (st : Nat) (x : Direction) : Direction :=
  { x with
    state := st
    cfgErr := false
    drift := 0
    glitch := 0
    buf := []
    ready := false
    rate := 0
    lastRate := 0
    glitchNext := false
    glitched := false
    ran := false
    driven := true }

/-- A write of START to a direction (14 R448, R461). -/
def State.startLine (s : State) (k : Nat) : State :=
  let x := s.dirAt k
  if x.group != 0 then s.setDirAt k { x with cfgErr := true }
  else if x.state != 0 then s
  else if !s.dirOk x false then s.setDirAt k { x with cfgErr := true }
  else
    let l := (s.dirAt x.leader).state
    s.moveDirs [k] (startDir (if x.role = 2 && (l = 3 || l = 4) then l else 1))

/-- Whether a direction may start at all: nothing of it runs. -/
def State.groupOk (s : State) (g : Nat) : Bool :=
  let ks := s.members g
  let xs := ks.map s.dirAt
  let masters := xs.all (·.role = 0) && ((xs.map (·.oscNo)).eraseDups).length = 1
  let led := match ks.filter fun k => (s.dirAt k).role = 1 with
    | [l] => ks.all fun k => k = l || ((s.dirAt k).role = 2 && (s.dirAt k).leader = l)
    | _ => false
  !ks.isEmpty && xs.all (fun x => x.state = 0 && s.dirOk x true) && (masters || led)
    && ((xs.map (·.rateCode)).eraseDups).length = 1 && ((xs.map (·.depthLog)).eraseDups).length = 1

/-- A write of START to a group (14 R451). -/
def State.startGroup (s : State) (g : Nat) : State :=
  if s.groupOk g then (s.setGroup g { s.groupAt g with cfgErr := false }).moveDirs (s.members g) (startDir 1)
  else s.setGroup g { s.groupAt g with cfgErr := true }

/-! ### Stopping (14 R450, R461) -/

/-- A direction at a STOP that is accepted: run-out, or stopped at once in holdover or re-lock. -/
def stopDir (x : Direction) : Direction :=
  let x := { x with busy := false, ready := false }
  match x.state with
  | 1 | 2 => { x with state := 5 }
  | 3 | 4 => { x with state := 0, buf := [] }
  | _ => x

/-- Whether a direction refuses a STOP: a slot is held, or a follower outside its group is not stopped (14 R450, log entry 29). -/
def State.stopRefused (s : State) (k : Nat) : Bool :=
  let g := (s.dirAt k).group
  !(s.dirAt k).holders.isEmpty
    || (s.followers k).any fun i => (s.dirAt i).state != 0 && (g = 0 || (s.dirAt i).group != g)

/-- A write of STOP to a direction (14 R450). -/
def State.stopLine (s : State) (k : Nat) : State :=
  let x := s.dirAt k
  if x.group != 0 || s.stopRefused k then s.setDirAt k { x with busy := true } else s.moveDirs [k] stopDir

/-- A write of STOP to a group: every member, or none (14 R450). -/
def State.stopGroup (s : State) (g : Nat) : State :=
  if (s.members g).any s.stopRefused then s.setGroup g { s.groupAt g with busy := true }
  else (s.setGroup g { s.groupAt g with busy := false }).moveDirs (s.members g) stopDir

/-- A write to AUD_LINE_n_d_CTL (14 R463). -/
def dirCtlWrite (k : Nat) (v : Word) (s : State) : State :=
  let s := if bitOf v 0 then s.startLine k else s
  if bitOf v 1 then s.stopLine k else s

/-- A write to AUD_GROUP_g_CTL (14 R463). -/
def groupCtlWrite (g : Nat) (v : Word) (s : State) : State :=
  let s := if bitOf v 0 then s.startGroup g else s
  if bitOf v 1 then s.stopGroup g else s

/-- LINE_START: START is written to a direction (14 R448). -/
def execLineStart (port line dir : Nat) (value : Word) (s : State) : Host.Outcome State Fault Refusal :=
  .next (if s.writable port .ready && line < 64 && dir < 2 && bitOf value 0 then dirCtlWrite (2 * line + dir) value s else s)

/-- LINE_STOP: STOP is written to a direction (14 R450). -/
def execLineStop (port line dir : Nat) (value : Word) (s : State) : Host.Outcome State Fault Refusal :=
  .next (if s.writable port .ready && line < 64 && dir < 2 && bitOf value 1 then dirCtlWrite (2 * line + dir) value s else s)

/-- GROUP_START: START is written to a group (14 R451). -/
def execGroupStart (port group : Nat) (value : Word) (s : State) : Host.Outcome State Fault Refusal :=
  .next (if s.writable port .ready && 1 ≤ group && group ≤ 15 && bitOf value 0 then groupCtlWrite group value s else s)

/-- GROUP_STOP: STOP is written to a group (14 R450). -/
def execGroupStop (port group : Nat) (value : Word) (s : State) : Host.Outcome State Fault Refusal :=
  .next (if s.writable port .ready && 1 ≤ group && group ≤ 15 && bitOf value 1 then groupCtlWrite group value s else s)

/-- A rate measured over good frames, which lies within ±500 ppm, in 1/64 ppm: a free value (14 R457, log entry 11). -/
def State.measuredRate (s : State) : Half := BitVec.ofInt 16 ((Config.freeNat s.free % 64001 : Nat) - 32000)

/-- Frames of a slave's run-in or return have been counted: it has a rate, and waits for the Frame tick. -/
def State.counted (s : State) (ks : List Nat) (st : Nat → Bool) : State :=
  let r := s.measuredRate
  let f (x : Direction) : Direction :=
    if st x.state then { x with ready := true, rate := if x.role = 1 then r else 0 } else x
  { s.moveDirs ks f with free := s.free + 1 }

/-- RUN_IN_COMPLETE: a direction has counted its run-in (14 R448, R449). -/
def execRunInComplete (line dir : Nat) (s : State) : Host.Outcome State Fault Refusal :=
  .next (if (s.dir line dir).state = 1 then s.counted [2 * line + dir] (· = 1) else s)

/-- RUN_OUT_COMPLETE: a direction's run-out ends and it stops (14 R450). -/
def execRunOutComplete (line dir : Nat) (s : State) : Host.Outcome State Fault Refusal :=
  .next (if (s.dir line dir).state = 5 then s.moveDirs [2 * line + dir] (fun x => { x with state := 0, buf := [] }) else s)

/-- The FRAME_HI of a group latches bits [47:32] with the read of FRAME_LO (14 R463). -/
def latchGroup (group : Nat) (s : State) : State :=
  let g := s.groupAt group
  s.setGroup group { g with hi := BitVec.ofNat 16 (g.frame.toNat / 2 ^ 32) }

/-- AUD_GROUP_FRAME_LO_READ: reading FRAME_LO latches bits [47:32] (14 R463). -/
def execAudGroupFrameLoRead (port group : Nat) (s : State) : Host.Outcome State Fault Refusal :=
  .next (if s.readable port .ready && 1 ≤ group && group ≤ 15 then latchGroup group s else s)

/-! ### Frames of a transmit direction (14 R440, R453) -/

/-- The fill a stream plays in the Frame with a count (14 R440, R461). -/
def Stream.fillIn (x : Stream) (ord : Nat) : Bool := (((x.fillNext.filter fun f => f.1 ≤ ord).getLast?).map (·.2)).getD x.lineFill

/-- Word i of the Frame that a stream plays: its sample, if that has been handed off (14 R440). -/
def Stream.wordAt (x : Stream) (p : Option (Nat × Nat)) (i : Nat) : Option (Nat × Word) :=
  match p with
  | some (first, count) => if i < count then x.lineBuf.find? fun b => b.1 = first + i else none
  | none => none

/-- The fill word of a stream. -/
def Stream.fillWord (x : Stream) (ord : Nat) : Word := if x.fillIn ord && x.everOut then x.lastWord else 0

/-- A held slot's word in a frame, and whether it is fill; `p` is the chunk that plays, `ord` its Frame. -/
def State.slotWord (s : State) (id : Nat) (slot : Nat) (p : Stream → Option (Nat × Nat)) (i ord : Nat) : LineSlot × Bool :=
  match s.stream id with
  | none => (⟨slot, none, 0⟩, false)
  | some x =>
    match x.wordAt (p x) i with
    | some b => (⟨slot, some x.session, b.2⟩, false)
    | none => (⟨slot, none, x.fillWord ord⟩, true)

/-- A stream whose sample has entered its line: that is the word its fill repeats from then on. Words of a slipped chunk that are handed off
and not yet in a frame do not count: the spec does not say (log entry 41, DESIGN CHOICE). -/
def Stream.sent (p : Option (Nat × Nat)) (i : Nat) (x : Stream) : Stream :=
  match x.wordAt p i with
  | some b => { x with lineBuf := x.lineBuf.filter (fun c => b.1 < c.1), lastWord := b.2, everOut := true }
  | none => x

/-- Bits of some slots. -/
def slotBits (ks : List Nat) : Word := BitVec.ofNat 32 ((ks.eraseDups.filter (· < 32)).map fun k => 2 ^ k).sum

/-- Enabled slots of a direction. -/
def Direction.slotsOn (x : Direction) : List Nat := (List.range x.slotCount).filter x.enabled

/-- Counts delivered samples that a frame carried and the line loses (17 R536). -/
def State.loseFrame (s : State) (f : List LineSlot) : State :=
  f.foldl (fun s w => match w.session with
    | some q => s.tally q [] [0, 0, 0, 0, 0, 0, 1]
    | none => s) s

/-- The frames that stay in a transmit buffer's record: the last DEPTH − 1. -/
def keepFrames (depth : Nat) (b : List (List LineSlot)) : List (List LineSlot) := b.drop (b.length - (depth - 1))

/-- The frame that a line in holdover reads while one is written: DEPTH ÷ 2 frames old (14 R458, log entry 30). -/
def readFrame (depth : Nat) (b : List (List LineSlot)) : List LineSlot := (b.reverse[depth / 2]?).getD []

/-- A running transmit direction writes a frame (14 R440); in holdover or re-lock a frame is read and discarded (14 R458, R459). -/
def State.writeFrame (s : State) (k : Nat) (p : Stream → Option (Nat × Nat)) (i ord : Nat) : State :=
  let x := s.dirAt k
  let ws := x.slotsOn.map fun t =>
    match tabGet x.holders t with
    | some id => s.slotWord id t p i ord
    | none => (⟨t, none, 0⟩, false)
  let fills := (ws.filter (·.2)).map (·.1.slot)
  let ids := x.slotsOn.filterMap (tabGet x.holders)
  let s := ids.foldl (fun s id => match s.stream id with
    | some y => s.setStream (y.sent (p y) i)
    | none => s) s
  let buf := keepFrames x.depth (x.buf ++ [ws.map (·.1)])
  let s := (s.setDirAt k { x with buf := buf, fill := x.fill ||| slotBits fills }).bump 0x183 fills.length
  if x.state = 2 then s
  else
    let held := (x.slotsOn.filter fun t => (tabGet x.holders t).isSome)
    let y := s.dirAt k
    let s := s.setDirAt k { y with hold := y.hold ||| slotBits held }
    (s.loseFrame (readFrame x.depth buf)).bump 0x182 1

/-! ### Frames of a receive direction (14 R454, R458, R460) -/

/-- Capture flags of a frame that no line brought: no data, with holdover or re-lock (14 R460). -/
def noData (st : Nat) : Word := if st = 3 then 5 else if st = 4 then 6 else 4

/-- A frame of zeros with flags. -/
def Direction.blank (x : Direction) (flags : Word) : List LineSlot := x.slotsOn.map fun t => ⟨t, none, flags⟩

/-- A job's capture takes the word of its slot into the job's input region (13 R420, 14 R460). -/
def captureFrame (line : Nat) (f : List LineSlot) (s : State) (c : Capture) : State :=
  if c.line != line || c.left = 0 || s.tb.frameOrd ≤ c.since then s else
  match f.find? (·.slot = c.slot), s.job c.job with
  | some w, some j =>
    let next (d : Capture) : Capture := if d.job = c.job then { d with taken := d.taken + 1, left := d.left - 1 } else d
    let s := s.setJob { j with input := patch j.input (4 * c.taken) (leBytes 4 w.word.toNat) }
    { s with lines := { s.lines with captures := s.lines.captures.map next } }
  | _, _ => s

/-- The timebase side of a receive direction reads a frame (14 R439); in holdover or re-lock the line writes one of zeros (14
R458). -/
def State.readLine (s : State) (k : Nat) : State :=
  let x := s.dirAt k
  let (x, s) := if x.state = 2 then (x, s) else
    ({ x with buf := x.buf ++ [x.blank (noData x.state)], hold := x.hold ||| slotBits x.slotsOn }, s.bump 0x182 1)
  match x.buf with
  | [] => s.setDirAt k x
  | f :: rest =>
    let s := s.setDirAt k { x with buf := rest }
    s.lines.captures.foldl (captureFrame (k / 2) f) s

/-- CAPTURE_WORD: a receive direction takes a slot word; a word of a slot that the newest frame holds already begins the next frame
(14 R434, R460). -/
def execCaptureWord (line dir slot : Nat) (bits : Word) (s : State) : Host.Outcome State Fault Refusal :=
  .next (
    let x := s.dir line dir
    if dir != 1 || x.state != 2 || !x.enabled slot then s else
    let w : Word := (bits >>> (32 - x.width)) <<< (32 - x.width)
    let fresh := match x.buf.getLast? with
      | some f => f.isEmpty || f.any (fun v => slot ≤ v.slot)
      | none => true
    let flag : Word := if x.glitchNext then 8 else 0
    let v : LineSlot := ⟨slot, none, w ||| flag⟩
    let last := slot = (x.slotsOn.getLast?).getD slot
    let x := { x with glitchNext := x.glitchNext && !last }
    s.setDir line dir { x with
      buf := if fresh then x.buf ++ [[v]] else x.buf.dropLast ++ [(x.buf.getLast?).getD [] ++ [v]] })

/-! ### A sample tick (14 R440, R452) -/

/-- The index in its Frame of the line frame that falls on sample tick t of a Frame of N ticks, and whether its chunk began to play a
Frame ago; `h` is half-ticks between frames (14 R440). A frame between two ticks, at 32 kHz, falls on the tick before it. -/
def frameIndex (t n h : Nat) : Option (Nat × Bool) :=
  let at_ (u : Nat) : Option Nat :=
    let i := ceilDiv (2 * u) h
    if i * h / 2 = u then some i else none
  if 2 ≤ t then (at_ (t - 2)).map fun i => (i, false)
  else (at_ (t + n - 2)).map fun i => (i, true)

/-- The frames that every direction writes or reads at the running sample tick; a new frame begins, at which drift is tested again
(14 R440, R452, R455, R458). -/
def State.lineTick (s : State) : State :=
  (s.lines.dirs.map (·.1)).foldl
    (fun s k =>
      let x := s.dirAt k
      if !(2 ≤ x.state && x.state ≤ 4) then s else
      match frameIndex s.tb.ticks s.frameTicks x.halfTicks with
      | none => s
      | some (i, before) =>
        let s := s.setDirAt k { x with glitched := false }
        if k % 2 = 1 then s.readLine k
        else s.writeFrame k (fun y => if before then y.played else y.playing) i (if before then s.tb.frameOrd - 1 else s.tb.frameOrd)) s

/-- The frames that groups have begun by the running sample tick (14 R452). -/
def State.groupTick (s : State) : State :=
  (s.lines.groups.map (·.1)).foldl
    (fun s g =>
      let x := s.groupAt g
      match (s.members g).head? with
      | some k =>
        let h := (s.dirAt k).halfTicks
        let t := s.tb.ticks
        if (s.dirAt k).ran && 2 ≤ x.state && x.state ≤ 4 && (2 * t + 1) / h != (2 * t - 1) / h then s.setGroup g { x with frame := x.frame + 1 } else s
      | none => s) s

/-! ### A Frame tick (14 R439, R448, R451, R458) -/

/-- A direction that enters running, or returns to it: its fill is DEPTH ÷ 2. -/
def enterRunning (x : Direction) : Direction :=
  let half := x.depth / 2
  let zero := x.blank 0
  let b := if x.state = 1 then List.replicate half zero
    else
      let kept := x.buf.drop (x.buf.length - half)
      List.replicate (half - kept.length) zero ++ kept
  { x with state := 2, ready := false, buf := b, ran := true }

/-- Directions whose run-in or return is counted enter running; the members of a group enter together (14 R448, R451, R458). -/
def State.lineFrame (s : State) : State :=
  (s.lines.dirs.map (·.1)).foldl
    (fun s k =>
      let x := s.dirAt k
      let waits := x.ready && (x.state = 1 || x.state = 3 || x.state = 4)
      if !waits || !((s.slipSet k).all fun i => (s.dirAt i).ready) then s else
      let s := s.moveDirs (s.slipSet k) enterRunning
      if !x.ran && x.group != 0 then s.setGroup x.group { s.groupAt x.group with frame := 0 } else s) s

/-- A running slave reports its frame rate over the last 1,024 good frames, a free value within ±500 ppm (14 R454, R457; log entry 11). -/
def State.lineRates (s : State) : State :=
  (s.lines.dirs.map (·.1)).foldl
    (fun s k =>
      let x := s.dirAt k
      if x.role = 1 && x.state = 2 then { s.setDirAt k { x with rate := s.measuredRate } with free := s.free + 1 } else s) s

/-! ### Slips and clock events (14 R442, R454 to R459) -/

/-- A drift slip of one direction (14 R442). -/
def State.slipDir (s : State) (k : Nat) (low : Bool) : State :=
  let x := s.dirAt k
  let half := x.depth / 2
  let s := ((s.bump 0x180 1).bump (0x1C0 + k / 2) 1).writeTrace 0x85 (srcOf 6 k) 0
  let x := { x with drift := satAdd x.drift 1 0xFFFF }
  if k % 2 = 0 then
    if low then
      let held := x.slotsOn.filter fun t => (tabGet x.holders t).any fun id => (s.stream id).isSome
      let f := x.slotsOn.map fun t => match (tabGet x.holders t).bind s.stream with
        | some y => (⟨t, none, y.fillWord s.tb.frameOrd⟩ : LineSlot)
        | none => ⟨t, none, 0⟩
      let b := keepFrames x.depth (List.replicate half f ++ x.buf.drop (x.buf.length - 1))
      (s.setDirAt k { x with buf := b, fill := x.fill ||| slotBits held }).bump 0x183 (half * held.length)
    else
      let s := (x.buf.take half).foldl State.loseFrame s
      s.setDirAt k { x with buf := x.buf.drop half }
  else if low then s.setDirAt k { x with buf := List.replicate half (x.blank 4) ++ x.buf }
  else s.setDirAt k { x with buf := x.buf.drop half }

/-- DRIFT_SLIP: the fill of a direction is found at 1, or at DEPTH − 1; the slip applies to its whole group, a member of the other
direction meeting the other end (14 R442, R452). In the frame of a glitch slip the test is not made (14 R455). -/
def execDriftSlip (line dir : Nat) (low : Bool) (s : State) : Host.Outcome State Fault Refusal :=
  .next (
    let st := (s.dir line dir).state
    if !(2 ≤ st && st ≤ 4) || 64 ≤ line || 2 ≤ dir || (s.slipSet (2 * line + dir)).any fun k => (s.dirAt k).glitched then s else
    (s.slipSet (2 * line + dir)).foldl (fun s k => s.slipDir k (low == (k % 2 == dir))) s)

/-- Source of a line's alarm: its group, or the direction (18 R569, R572). -/
def State.lineSource (s : State) (k : Nat) : Nat := if (s.dirAt k).group = 0 then srcOf 6 k else srcOf 7 (s.dirAt k).group

/-- Directions leave running for holdover or re-lock at the last measured rate (14 R458, R459). -/
def holdDir (st : Nat) (x : Direction) : Direction :=
  if 1 ≤ x.state && x.state ≤ 4 then { x with state := st, ready := false, lastRate := x.rate }
  else if x.state = 5 then { x with state := 0, buf := [], ready := false }
  else x

/-- CLOCK_STOP: a slave's clock stops: holdover, or the end of a run-out (14 R450, R454, R458, R461). -/
def execClockStop (line dir : Nat) (s : State) : Host.Outcome State Fault Refusal :=
  .next (
    let k := 2 * line + dir
    let x := s.dirAt k
    if 64 ≤ line || 2 ≤ dir || x.role != 1 || x.state = 0 || x.state = 3 then s else
    let s := s.moveDirs (s.together k) (holdDir 3)
    if x.state = 5 then s else s.raiseAlarm 0x0F (s.lineSource k) 0)

/-- RATE_OUT_OF_RANGE: a running slave's rate over 64 frames lies beyond ±500 ppm: re-lock; in run-in or on a return its count begins
again (14 R454, R457, R459). -/
def execRateOutOfRange (line dir : Nat) (rate : Half) (s : State) : Host.Outcome State Fault Refusal :=
  .next (
    let k := 2 * line + dir
    let x := s.dirAt k
    let r := rate.toInt
    if 64 ≤ line || 2 ≤ dir || x.role != 1 || (-32000 ≤ r && r ≤ 32000) then s
    else if x.state = 2 then
      let s := (s.moveDirs (s.together k) (holdDir 4)).raiseAlarm 0x10 (s.lineSource k) rate.toNat
      s.setDirAt k { s.dirAt k with rate := rateField r }
    else if x.active then s.moveDirs (s.together k) (fun x => { x with ready := false })
    else s)

/-- HOLDOVER_RETURN: RUN_IN good frames in a row have come back; the direction returns at the next Frame tick (14 R457, R458). -/
def execHoldoverReturn (line dir : Nat) (s : State) : Host.Outcome State Fault Refusal :=
  .next (
    let k := 2 * line + dir
    let x := s.dirAt k
    if x.role = 1 && (x.state = 3 || x.state = 4) then s.counted (s.together k) (fun st => st = 3 || st = 4) else s)

/-- A glitch slip of one direction: the interrupted frame is discarded on receive and cut short on transmit (14 R454). -/
def State.glitchDir (s : State) (k : Nat) : State :=
  let x := s.dirAt k
  if x.state != 2 then s else
  let s := ((s.bump 0x181 1).bump (0x1C0 + k / 2) 1).writeTrace 0x85 (srcOf 6 k) 1
  let x := { x with glitch := satAdd x.glitch 1 0xFFFF, glitchNext := k % 2 = 1, glitched := true }
  let whole := match x.buf.getLast? with
    | some f => if f.length < x.slotsOn.length then x.buf.dropLast else x.buf
    | none => x.buf
  s.setDirAt k (if k % 2 = 1 then { x with buf := whole ++ [x.blank 4] } else x)

/-- FS_GLITCH: a slave's FS arrives off its place, or a frame has the wrong length: absorbed, or a glitch slip; in run-in or on a
return the count begins again (14 R448, R454, R457). -/
def execFsGlitch (line dir bclks : Nat) (wrongLength : Bool) (s : State) : Host.Outcome State Fault Refusal :=
  .next (
    let k := 2 * line + dir
    let x := s.dirAt k
    if 64 ≤ line || 2 ≤ dir || x.role != 1 || !x.active then s
    else if bclks ≤ 1 && !wrongLength then
      (s.together k).foldl (fun s i => let y := s.dirAt i
        if i % 2 = 1 && y.state = 2 then s.setDirAt i { y with glitchNext := true } else s) s
    else if x.state = 2 then (s.together k).foldl State.glitchDir s
    else s.moveDirs (s.together k) (fun y => if y.state = 2 then y else { y with ready := false }))

/-! ### Oscillators (14 R430, R443 to R446, R462) -/

/-- A steering word held to ±1,000 ppm (14 R430, R462). -/
def steerSat (x : Int) : Int := max (-1024000) (min 1024000 x)

/-- A write to CLK_OSC_n_CFG (14 R443, R444, R462). -/
def oscCfgWrite (n : Nat) (v : Word) (s : State) : State :=
  let o := s.oscAt n
  let mode := fld v 1 0
  let line := fld v 7 2
  let dir := fld v 8 8
  let slew := max 1 (fld v 23 16)
  let taken := (List.range 4).any fun m => m != n && (s.oscAt m).mode = 1 && (s.oscAt m).refLine = line && (s.oscAt m).refDir = dir
  if mode = 1 && o.mode != 2 && ((s.dir line dir).role != 1 || taken) then s.setOsc n { o with cfgErr := true }
  else
    let mode := if 2 ≤ mode || o.mode = 2 then o.mode else mode
    let same := o.mode = 1 && mode = 1 && o.refLine = line && o.refDir = dir
    (s.setOsc n { o with
      mode := mode
      refLine := line
      refDir := dir
      slew := slew
      cfgErr := false
      locked := o.locked && same
      lockMs := if same then o.lockMs else 0 }).syncOscs

/-- CLK_OSC_CFG_WRITE: an oscillator's CFG is written (14 R443, R444). -/
def execClkOscCfgWrite (port osc : Nat) (value : Word) (s : State) : Host.Outcome State Fault Refusal :=
  .next (if s.writable port .ready && osc < 4 then oscCfgWrite osc value s else s)

/-- A write to CLK_OSC_n_STEER: taken in Free mode (14 R443, R462). -/
def oscSteerWrite (n : Nat) (v : Word) (s : State) : State :=
  let o := s.oscAt n
  if o.mode = 0 then s.setOsc n { o with steer := steerSat (signed 21 v.toNat) } else s

/-- STEERING_UPDATE: the loop of a Line-mode oscillator moves the word by at most SLEW, and the fill has stayed near DEPTH ÷ 2 or not. How
far it moves is a free value (14 R443, R445, R462; log entry 11). A Folio-mode oscillator is steered with the manager's symbols. -/
def execSteeringUpdate (osc elapsedMs : Nat) (s : State) : Host.Outcome State Fault Refusal :=
  .next (
    let o := s.oscAt osc
    if 4 ≤ osc || s.boot.phase != .ready then s else
    let a := Config.freeNat s.free
    let near := Config.freeNat (s.free + 1) % 2 = 1
    let s := { s with free := s.free + 2 }
    if o.mode = 1 && !o.hold then
      let span := o.slew * 1024 * elapsedMs / 1000
      let step : Int := (a % (2 * span + 1) : Nat) - (span : Int)
      let ms := if near then min 1000 (o.lockMs + elapsedMs) else 0
      s.setOsc osc { o with steer := steerSat (o.steer + step), lockMs := ms, locked := 1000 ≤ ms }
    else s)

/-- SLOT_FLAG_CLEAR: ones written to SLOT_FILL or SLOT_HOLD clear its bits (14 R463). -/
def slotFlagClear (k : Nat) (hold : Bool) (v : Word) (s : State) : State :=
  let x := s.dirAt k
  s.setDirAt k (if hold then { x with hold := x.hold &&& ~~~v } else { x with fill := x.fill &&& ~~~v })

/-- SLOT_FLAG_CLEAR: SLOT_FILL or SLOT_HOLD of a direction is written (14 R463). -/
def execSlotFlagClear (port line dir : Nat) (hold : Bool) (value : Word) (s : State) : Host.Outcome State Fault Refusal :=
  .next (if s.writable port .ready && line < 64 && dir < 2 then slotFlagClear (2 * line + dir) hold value s else s)

end Sys2Proof.Machine
end

