-- ==== Sys2Proof/Machine/Plan.lean ====
section
/-! DEFINITION. The close of a Frame plan, stream by stream (01 R36, 02 R52 to R57 R73, 06 R191 to R195, 07 R236, 12 R395, 13 R408 R415
R609, 18 R562): coverage, the next chunk, starved Frames, end marks, and what ABORT and STREAM_CTRL change. -/

namespace Sys2Proof.Machine

open Sys2Proof

/-! ### Coverage (02 R54, 13 R415) -/

/-- End marks that are pending. -/
def Stream.marks (x : Stream) : List Nat := (x.controls.filter (·.flags = 2)).map (·.sample)

/-- Whether an end mark stands at or before the next sample to plan: nothing more is planned until the stream is Idle for it (01 R36,
log entry 21). -/
def Stream.atMark (x : Stream) : Bool := x.marks.any (· ≤ x.nextPlan)

/-- The first end mark behind the next sample to plan, or a limit. -/
def Stream.nextMark (x : Stream) (limit : Nat) : Nat := (x.marks.filter (x.nextPlan < ·)).foldl min limit

/-- Whether the plans of a stream run to its last sample: its STREAM_CLOSE has taken effect at a plan close (02 R57), and every
FEATURE_PUSH accepted before it has been taken (01 R37). -/
def State.closes (s : State) (x : Stream) : Bool :=
  x.phase == .closing && ((s.ring x.session).accepted.any fun d => d.opcode = 9 && actsOn x d && d.committed)
    && (s.pushes x).all (·.closed)

/-- One past the last sample of the next chunk: the end of the chunk grid, an end mark, or in Closing the last sample accepted (01
R37, 02 R46 R52). -/
def State.chunkEnd (s : State) (x : Stream) : Nat :=
  let e := x.nextMark (s.nextSpan x).2
  if s.closes x then min e x.covered else e

/-- Whether a queue that covers samples up to a number covers the next chunk and its lookahead; in Closing every accepted sample is
rendered (01 R37, 02 R54). -/
def State.covers (s : State) (x : Stream) (upTo : Nat) : Bool :=
  let e := s.chunkEnd x
  if s.closes x then x.nextPlan < e && e ≤ upTo
  else match (s.model x.handle).bind fun m => (costOf m.image s.tb.season x.rate).map fun c => lookSamples m.image c x.rate with
    | some look => x.nextMark (e + look) ≤ upTo
    | none => false

/-- Whether the audio ring has room for a chunk behind all that is on its way to it (02 R73, 10 R301 R302). -/
def Stream.audioRoom (x : Stream) (count : Nat) : Bool :=
  !x.toHost || x.audio.length + x.outBuf.length + x.staged.length + (x.nextPlan - x.handed) + count ≤ 262144

/-- The controls that take effect inside the next chunk, in sample order, end marks apart (13 R415). -/
def Stream.controlsIn (x : Stream) (e : Nat) : List Control :=
  (x.controls.filter fun k => k.flags != 2 && x.nextPlan ≤ k.sample && k.sample < e).mergeSort fun a b => a.sample ≤ b.sample

/-- Voices that controls switch to. A switch that waited in the queue when its model was damaged is not taken (10 R310; that the stream
then keeps its voice is log entry 41, DESIGN CHOICE). -/
def State.switchesOf (s : State) (cs : List Control) : List (Nat × Nat) :=
  (cs.filter fun k => k.flags.testBit 2 && !(s.model k.voice).any (·.damaged)).map fun k => (k.sample, k.voice)

/-- Prosody overrides of controls. -/
def overridesOf (cs : List Control) : List (Nat × Byte × List Half) :=
  (cs.filter (·.flags.testBit 3)).map fun k => (k.sample, k.ovrMask, k.ovr)

/-- The next chunk of a stream, if the plan that closes now includes it (02 R54, R73; 06 R193; 07 R236). `upTo` is the coverage that
counts. Overrides of the chunk before come along: their first step may lie in this one (06 R195). -/
def State.nextChunk (s : State) (x : Stream) (upTo : Nat) : Option Chunk :=
  let e := s.chunkEnd x
  let cs := x.controlsIn e
  let voices := s.switchesOf cs
  if s.covers x upTo && x.audioRoom (e - x.nextPlan) && s.storeFits (s.unit x.unit) (x.voices ++ voices.map (·.2)) then
    some {
      first := x.nextPlan, count := e - x.nextPlan, frame := s.tb.frameOrd + 2, moved := 0, late := 0, condAt := none, cond := []
      resets := resetWords x.nextPlan (e - x.nextPlan) ((cs.filter (·.flags.testBit 0)).map (·.sample)), voices := voices
      overrides := x.lastOvr ++ overridesOf cs
      ends := x.marks.contains e, dither := x.dither, slips := 0, stretched := false, pending := [] }
  else none

/-! ### A stream at a plan close -/

/-- A stream with a chunk planned: its controls are applied, its records' tokens counted, and it is Rendering (01 R36, 13 R415). -/
def Stream.plan (c : Chunk) (x : Stream) : Stream :=
  let e := c.first + c.count
  { x with
    closedChunk := some c
    nextPlan := e
    lastOvr := c.overrides.filter fun o => c.first ≤ o.1
    controls := x.controls.filter fun k => k.flags = 2 || e ≤ k.sample
    records := x.records.map fun r => if r.first < e then { r with counted := true } else r
    phase := if x.phase == .idle then .rendering else x.phase }

/-- The plan includes a stream: its tokens count in the tally window, the voices it switches to enter the weight store, and Fill work on
what a Live stream needs is asked to Frost (02 R64, 07 R236, 11 R326 R348, 17 R536). -/
def State.planWith (s : State) (x : Stream) (c : Chunk) : State :=
  let tokens := (x.records.filter fun r => r.first < c.first + c.count && !r.counted).length
  let s := if tokens = 0 then s else s.tally x.session [] [0, 0, 0, 0, 0, tokens]
  let b := s.unit x.unit
  let s := if c.voices.isEmpty then s else s.setUnit x.unit { b with weights := s.loadWeights b (c.voices.map (·.2)) }
  let s := s.setStream (x.plan c)
  match s.job x.job with
  | some j => if x.fill then s else (s.fillOn j.held x.unit).foldl State.requestFrost s
  | none => s

/-- FEATURE_PUSHes of which a part, but not all, lies in closed plans. -/
def Stream.openPushes (x : Stream) : List Nat :=
  let qs := (x.records.map (·.seq)).eraseDups
  qs.filter fun q => x.records.any (fun r => r.seq = q && r.first < x.nextPlan)
    && x.records.any fun r => r.seq = q && x.nextPlan < r.first + r.span

/-- A starved Frame (02 R55, 13 R426, 18 R572 R575). -/
def State.starve (s : State) (x : Stream) : State :=
  let w := { Window.empty with starved := 1 }
  let s := x.openPushes.foldl (fun s q => s.modDesc x.session q fun d => { d with win := d.win.join w }) s
  let s := s.setStream { x with hist := histAdd (s.tb.frameOrd + 2) x.nextPlan x.nextPlan w x.hist }
  (s.bump 0x204 1).writeTrace 0x84 (srcOf 9 x.job) x.id

/-- Whether a plan may include a stream at all: its job bound, itself in the plan, its pipeline not held. -/
def State.plannable (s : State) (x : Stream) : Bool :=
  !x.left && !x.missed && x.skip = 0 && x.closedChunk.isNone && x.phase != .closed && (s.job x.job).any (·.state == .bound)

/-- A stream at the plan close: an end mark behind samples that are all handed off is applied, else the next chunk is planned or the
stream is starved (01 R36, 02 R54 R55, 13 R415). A repeat plan takes the streams of the plan before it, with the coverage recorded
there, and applies no end of a stream (18 R562). -/
def State.planStream (repeat_ : Bool) (s : State) (id : Nat) : State :=
  match s.stream id with
  | none => s
  | some x =>
    if !s.plannable x then s
    else if 0 < x.gap then s.setStream { x with gap := x.gap - 1 }
    else if x.atMark then
      if x.handed = x.nextPlan && !repeat_ then s.setStream (x.endAt x.nextPlan) else s
    else
      let chunk := if repeat_ then (if x.hatchChunk.isSome then s.nextChunk x x.recorded else none) else s.nextChunk x x.covered
      match chunk with
      | some c => s.planWith x c
      | none => if x.phase == .rendering then s.starve x else s

/-! ### ABORT of a FEATURE_PUSH (12 R395, 13 R609) -/

/-- A stream without the records of an aborted push that no closed plan includes; what later pushes brought moves up, what came with a
Transfer belongs to earlier ones and stays (13 R609). -/
def Stream.removePush (q : Nat) (x : Stream) : Stream :=
  let gone (r : FeatRec) : Bool := r.seq = q && x.nextPlan ≤ r.first
  let out := x.records.filter gone
  let a := match out with
    | r :: _ => r.first
    | [] => max x.nextPlan ((x.records.filter (·.seq = q)).foldl (fun n r => max n (r.first + r.span)) x.nextPlan)
  let n := (out.map (·.span)).sum
  let move (k : Control) : Option Control :=
    if k.seq = q then
      if k.sample < a then some k else if k.flags = 2 then some { k with sample := a } else none
    else if q < k.seq && k.seq < sourceSeq then some { k with sample := max a (k.sample - n) }
    else some k
  { x with
    records := (x.records.filter (!gone ·)).map fun r => if q < r.seq && r.seq < sourceSeq then { r with first := r.first - n } else r
    controls := (x.controls.filterMap move).eraseDups
    covered := x.covered - n }

/-- The plan close that follows an ABORT of a FEATURE_PUSH (12 R395, 13 R609). -/
def State.removeAborted (s : State) (x : Stream) : State :=
  ((s.ring x.session).accepted.filter fun d => d.opcode = 7 && actsOn x d && d.aborted && !d.committed).foldl
    (fun s d =>
      match s.stream x.id with
      | some y => (s.setStream (y.removePush d.seq)).modDesc x.session d.seq fun d => { d with committed := true }
      | none => s) s

/-! ### STREAM_CTRL (13 R408, 14 R461) -/

/-- A STREAM_CTRL takes effect at the plan close: dither from the chunk planned there, line fill from that chunk's first frame. -/
def applyCtrl (s : State) (x : Stream) (d : Desc) : State :=
  match s.stream x.id with
  | none => s
  | some y =>
    let y := if d.cmask.testBit 1 then { y with dither := d.cval.testBit 1 } else y
    let y := if d.cmask.testBit 0 then { y with fillNext := y.fillNext ++ [(s.tb.frameOrd + 3, d.cval.testBit 0)] } else y
    (s.setStream y).modDesc x.session d.seq fun d => { d with committed := true }

/-- Whether a stream's job is Frosting, Frosted or Thawing: descriptors that name it wait (11 R329). -/
def State.frozen (s : State) (x : Stream) : Bool := (s.job x.job).any (·.state != .bound)

/-- The STREAM_CTRLs of a stream that no plan close has applied, in acceptance order (11 R329, 12 R384). -/
def State.applyCtrls (s : State) (x : Stream) : State :=
  if s.frozen x then s else
  ((s.ring x.session).accepted.filter fun d => d.opcode = 6 && actsOn x d && !d.committed).foldl (fun s d => applyCtrl s x d) s

/-! ### Streams that were left out (02 R67, 15 R486 R490, 18 R560) -/

/-- A stream that a Transfer kept out of plans is planned again: its next chunk comes a Frame later for each plan close it missed (15
R486, R490). -/
def State.resumeMoved (s : State) (x : Stream) : State :=
  let n := x.lost + 1
  let y := { (x.shift 1).reportSlip n with left := false, lost := 0, skip := if x.hatchChunk.isSome then 1 else 0 }
  let s := s.setStream y
  if x.inFlight then s.noteSlip y (subsToUs (n * s.frameSubs)) else s

/-- A stream whose context found room continues from its sample mirror, slipped by the Frames lost (18 R560). -/
def State.resumeContext (s : State) (x : Stream) : State :=
  match s.pickUnit false x.fill x.voices (s.streamSixths x) (s.streamFields x) with
  | none => s
  | some u =>
    let n := x.lost
    let slips := 0 < n && x.inFlight
    let s := s.bindUnit { (if slips then x.reportSlip n else x) with lost := 0 } u
    if slips then s.noteSlip x (subsToUs (n * s.frameSubs)) else s

/-- Whether a stream holds its context. -/
def State.hasContext (s : State) (x : Stream) : Bool := tabGet (s.unit x.unit).ctxs x.ctx == some x.id

/-- A stream out of the plan comes back at a plan close if it can. -/
def State.tryResume (s : State) (x : Stream) : State :=
  if !x.left || x.transferring || !(s.job x.job).any (·.state == .bound) then s
  else if s.hasContext x then (if s.clearFor x then s.resumeMoved x else s)
  else s.resumeContext x

end Sys2Proof.Machine
end

