-- ==== Sys2Proof/Machine/Adapt.lean ====
section
/-! DEFINITION. Adaptation jobs and Fill work (03 R99 R100 R104, 08 R243, 10 R303 R304, 11 R323 R324 R326 R334 R346, 13 R400 R420 to R422,
15 R481 R482): ADAPT_JOB, FILL_OFFLOAD. -/

namespace Sys2Proof.Machine

open Sys2Proof

/-! ### Binding Fill work (11 R324, R326) -/

/-- Cores of an adaptation job's first binding: the cost record of the Season in force for the lowest rate declared, one row; MIN_CORES
without one (03 R99, log entry 32). -/
def State.adaptCores (s : State) (m : List Byte) : Nat :=
  match (imgCostTable m).find? (·.season == s.tb.season) with
  | some c => coresFor m s.frameTicks (cycles100 c [false])
  | none => imgMinCores m

/-- A core set for Fill work with so much Plate on each core: one field, else adjacent ones (03 R100, 11 R324). -/
def State.fillSet (s : State) (kib n : Nat) : Option (List Nat) := fieldGroups.findSome? (takeCores (s.fieldOffer .fill kib) n)

/-- Cores a Fill job needs at a binding (03 R99, 11 R334). -/
def State.fillNeed (s : State) (m : List Byte) (j : Job) : Nat :=
  match j.kind with
  | .streams =>
    match s.jobCost j with
    | some c => coresFor m s.frameTicks (cycles100 c ((s.rowStreams j).map (·.keep)))
    | none => imgMinCores m
  | _ => min j.maxCores (s.adaptCores m)

/-- A stream stays out of plans. -/
def State.leaveOut (s : State) (id : Nat) : State :=
  match s.stream id with
  | some y => s.setStream { y with left := true }
  | none => s

/-- Plate that a Fill job's binding takes on each of its cores, KiB (03 R99, R104). -/
def State.fillKib (s : State) (m : List Byte) (j : Job) (cores : Nat) : Nat :=
  match j.kind, s.jobCost j with
  | .streams, some c => plateShare m c (s.rowStreams j).length cores
  | _, _ => imgMinPlate m

/-- Contexts for the rows of a Fill job on new cores, which stay out of plans until the Thaw completes; none unless all find one (03
R102). -/
def State.bindRows (fields : List Nat) : List Stream → State → Option State
  | [], s => some s
  | x :: rest, s =>
    match s.pickUnit true true x.voices (s.streamSixths x) fields with
    | none => none
    | some u => State.bindRows fields rest ((s.bindUnit x u).leaveOut x.id)

/-- Whether the Season in force is one the graph declares (03 R104). -/
def State.declares (s : State) (m : List Byte) : Bool := (imgSeasons m).testBit s.tb.season

/-- Whether a promotion has its set to itself: no Fill work lies there any more (10 R317, 11 R350). -/
def State.setClear (s : State) (handle : Nat) : Bool :=
  (s.model handle).any fun m => m.res.cores.all fun c => (s.core c).jobs.all s.isLive

/-- A Fill job begins its Thaw on a binding (11 R328, R347). -/
def State.beginThaw (s : State) (j : Job) : State :=
  s.setJob { j with state := .thawing, switch := (s.tb.sub, s.switching + 1, 0), waits := 0 }

/-- A Fill job that works on cores finds some for its Thaw, with contexts for its rows (03 R99 R100 R102, 11 R334 R346). -/
def State.placeFill (s : State) (j : Job) (m : List Byte) : Option State :=
  let n := s.fillNeed m j
  match s.fillSet (s.fillKib m j n) n with
  | none => none
  | some cores =>
    if !s.passesSwitch m j cores then none else
    (State.bindRows (fieldsOf cores) (s.rowStreams j) s).map fun s =>
      let pairs := s.pickPairs m cores
      (s.bindCores j.id m pairs cores).beginThaw { j with cores := cores, windows := jobWindows m cores.length, pairs := pairs }

/-- A Frosted Fill job is offered the capacity that is left: it is bound for its Thaw, or waits on (02 R64, 03 R104, 11 R326 R328
R346). -/
def State.offerFill (s : State) (id : Nat) : State :=
  match s.job id with
  | none => s
  | some j =>
    match s.model j.handle with
    | none => s
    | some m =>
      if !j.fill || j.state != .frosted || j.away.isSome then s else
      let wait := s.setJob { j with waits := j.waits + 1 }
      if 16 ≤ s.switching || !s.declares m.image then wait else
      match j.kind with
      | .promote h => if s.setClear h then s.beginThaw j else wait
      | _ => (s.placeFill j m.image).getD wait

/-! ### ADAPT_JOB (13 R400, R420 to R422) -/

/-- Extents of an adaptation job's regions in the general pool: scratch, input, output (10 R304). -/
def adaptExtents (d : Desc) : Nat :=
  let input := if d.input = 0 then d.inputLen else 4 * d.inputLen
  scratchExtents + ceilDiv input 2097152 + ceilDiv d.outputBytes 2097152

/-- The clear input of a host buffer, if its tag verifies: CLEAR_BYTES of it (13 R420, 16 R505). -/
def State.adaptInput (s : State) (ring : Nat) (d : Desc) (b : List Byte) : Option (List Byte) :=
  let n := d.inputLen
  (gcmOpen (s.keyS ring) (nonceOf 3 d.ordinal 0) (bytesAt b 0 16) (bytesAt b 16 (n - 32)) (bytesAt b (n - 16) 16)).map fun p =>
    p.take (num b 0 4)

/-- An adaptation job is created, Frosted, with its regions and its save area; a plan close offers it its first binding (11 R323, R326;
log entry 32). With INPUT 1 it captures a line slot: the spec gives no other job a slot to capture, so graphs with audio input receive
captures through ADAPT_JOB alone (14 R460; log entry 41, DESIGN CHOICE). -/
def State.beginAdapt (s : State) (ring : Nat) (d : Desc) (m : Model) (input : List Byte) : State :=
  let a : Ask := ⟨ring, m.handle, s.tb.season, 0, false, true, none, []⟩
  let r := s.newJob (.adapt ring d.seq) a m.image (s.adaptCores m.image) (BitVec.ofNat 64 d.adSeed) (BitVec.ofNat 32 d.jobKey) []
    (adaptExtents d)
  let s := r.1
  match s.job r.2 with
  | none => s
  | some j =>
    let j := { j with input := input, steps := d.steps, state := .frosted }
    let s := (s.setJob { j with save := some (s.emptySave m.image j) }).modDesc ring d.seq fun d => { d with started := true, link := r.2 }
    if d.input = 1 then
      { s with lines := { s.lines with captures := s.lines.captures ++ [⟨r.2, d.adLine, d.adSlot, s.tb.frameOrd, 0, d.inputLen⟩] } }
    else s.charge ring (some r.2) { Account.zero with ramokIn := d.inputLen }

/-- The start of an ADAPT_JOB: the checks of R421, the reservations, the input (13 R400, R420, R421). -/
def State.adaptStart (s : State) (ring : Nat) (d : Desc) (bytes : List Byte) : State :=
  match s.model d.handle, s.model d.targetHandle with
  | some m, some t =>
    if !check13 m.image t.image d.outputBytes d.input then s.complete ring d { status := stGraphRejected, detail := 13 }
    else if (freeKey s.jobs 1024 0).isNone then s.complete ring d { status := stAdmissionRefused, detail := 9 }
    else if !s.reserveOk m.image (s.adaptCores m.image) (adaptExtents d) then
      s.complete ring d { status := stAdmissionRefused, detail := 10 }
    else if d.input = 1 then s.beginAdapt ring d m (zeros (4 * d.inputLen))
    else
      let port := (s.ring ring).port
      let s := (s.bump (0x100 + port) d.inputLen).bump 0x240 d.inputLen
      match s.adaptInput ring d bytes with
      | none =>
        ((s.bump 0x241 1).charge ring none { Account.zero with ramokIn := d.inputLen }).complete ring d { status := stAuthFailed }
      | some p => s.beginAdapt ring d m p
  | _, _ => s.complete ring d { status := stGraphRejected, detail := 13 }

/-- Whether an optimiser step of a job may end: the sequence of its strokes has ended for it, one sequence to a step, and what it computed
is in the output region (03 R92, 05 R177, 08 R243; log entry 32). -/
def State.stepEnds (s : State) (j : Job) : Bool :=
  j.state == .bound && s.settled j && j.optStep < j.workFrame && j.optStep < j.steps

/-- An optimiser step of a job ends (08 R243). -/
def State.optStep (s : State) (j : Job) : State := s.setJob { j with optStep := j.optStep + 1, lastRan := s.tb.frameOrd }

/-- The new voice model of an adaptation job takes the default class, enters the library, and the receipt is written (13 R421, R422; 16
R504). -/
def State.adaptCommit (s : State) (ring : Nat) (d : Desc) (j : Job) (m t : Model) : State :=
  let image := adaptedImage m.image t.image j.output
  let s := s.endJob j.id false
  let cls := s.mem.policy.defaultClass
  let pin := cls = 2 && s.mem.policy.allowPin && s.pinRoom image
  match s.addModel ring image (if cls = 2 && !pin then 1 else cls) with
  | none => s.complete ring d { status := stExhausted, count := j.optStep }
  | some (s, n) =>
    let (s, n) := if n.cls = 2 then
        match s.startPromotion n with
        | some s => (s, n)
        | none => (s.setModel { n with cls := 1 }, { n with cls := 1 })
      else (s, n)
    let s := writeReceipt ring 1 n.handle (imgHash image) (weightDigest image) s
    s.complete ring d { status := stSuccess, detail := n.cls, result := n.handle, count := j.optStep }

/-- ADAPT_JOB: it starts in the session queue; its optimiser steps run; behind the last one it commits (13 R421). -/
def execAdaptJob (ring seq : Nat) (phase : AdaptPhase) (s : State) : Host.Outcome State Fault Refusal :=
  .next (
    match s.desc ring seq with
    | none => s
    | some d =>
      if d.opcode != 0xA then s else
      match phase with
      | .start bytes => if !s.mayStart ring d || (s.ring ring).linkLost then s else s.adaptStart ring d bytes
      | .optStep =>
        match s.job d.link with
        | some j => if d.started && j.kind == .adapt ring seq && s.stepEnds j then s.optStep j else s
        | none => s
      | .commit =>
        match s.job d.link, s.model d.handle, s.model d.targetHandle with
        | some j, some m, some t =>
          if d.started && j.kind == .adapt ring seq && j.away.isNone && d.steps ≤ j.optStep then s.adaptCommit ring d j m t else s
        | _, _, _ => s)

/-! ### FILL_OFFLOAD (15 R481, R482) -/

/-- Whether this module is a joined member that has a secured path to another one. -/
def State.reaches (s : State) (member : Nat) : Bool :=
  let p := s.ihxPort (s.portTo member)
  s.ihx.state = 2 && member < 17 && member != s.ihx.member && p.trained && p.secured

/-- Bytes of a job's scratch region up to the last one that is not zero (10 R304). -/
def State.scratchBytes (s : State) (j : Job) : List Byte :=
  let es := (s.extents (jobOwner j.id)).take scratchExtents
  let top (k e : Nat) : Nat :=
    s.dram.foldl (fun n c => if extentAddr e ≤ c.1 && c.1 < extentAddr e + 2097152 then max n (2097152 * k + (c.1 - extentAddr e) + 1) else n) 0
  s.spaceBytes j 0 2 1 0 (es.zipIdx.foldl (fun n e => max n (top e.2 e.1)) 0) 0

/-- The home moves a Frosted job that has waited longer than OFFLOAD_FRAMES: its save area and the two clear images are sent in the Fill
class, and behind them what its output and scratch regions hold, which the steps it has still to run may read (15 R482; log entry 41,
DESIGN CHOICE). -/
def State.offload (s : State) (j : Job) (member : Nat) : State :=
  match j.kind with
  | .adapt ring seq =>
    match s.desc ring seq, j.save with
    | some d, some a =>
      match s.model d.handle, s.model d.targetHandle with
      | some m, some t =>
        let waits := s.ihx.offloadFrames
        if d.input != 0 || j.state != .frosted || j.away.isSome || waits = 0 || j.waits ≤ waits || !s.reaches member then s else
        let out := memBytes j.output 0 (((j.output.getLast?).map fun c => c.1 + 1).getD 0)
        let b := saveBytes m.image a j.id ++ m.image ++ t.image ++ out ++ s.scratchBytes j
        let port := s.portTo member
        ((((s.setJob { j with away := some member, waits := 0 }).send port 17 [j.id] b).charge j.session (some j.id)
          { Account.zero with ihlauxOut := b.length })).bump (0x140 + port) b.length
      | _, _ => s
    | _, _ => s
  | _ => s

/-- Session number that stands for a tenant of another member. -/
def noSession : Nat := 4096

/-- Whether the digest of a save area that has arrived verifies (11 R335, R338). -/
def areaOk (b : List Byte) : Bool := bytesAt b 0xC0 64 == Config.shake256 (b.take 0xC0 ++ zeros 64 ++ b.drop 0x100) 64

/-- A member takes a moved job: its graph enters the library, its context begins Frosted with its save area. The area takes the member's
own numbers for job and model, and with them its digest; one whose digest does not verify keeps none, so that its Thaw rejects it (11
R338, 15 R482). -/
def State.takeOffload (s : State) (id : Nat) (o : OffloadMsg) : State :=
  let extents := scratchExtents + ceilDiv o.outBytes 2097152
  if !s.reaches o.home || (s.job id).isSome || 1024 ≤ id || (freeKey s.jobs 1024 0) != some id || (imageReason s o.adapt).isSome
      || !s.reserveOk o.adapt o.cores extents then s else
  match s.addModel noSession o.adapt 0 with
  | none => s
  | some (s, m) =>
    let r := s.newJob (.guest o.homeJob o.outBytes) ⟨noSession, m.handle, s.tb.season, 0, false, true, none, []⟩ o.adapt o.cores o.seed o.key []
      extents
    let s := r.1
    match s.job r.2 with
    | none => s
    | some j =>
      let j := { j with
        state := .frosted, home := some o.home, optStep := o.optStep, steps := o.steps, workFrame := o.workFrame
        output := memStore [] 0 (o.output.take o.outBytes) }
      let a := { s.emptySave o.adapt j with extents := o.extents, issued := o.issued, walks := o.walks, again := o.again }
      let a := SaveArea.sealed o.adapt { a with svflags := saveFlags o.adapt true a } j.id
      let s := s.setJob { j with save := some (if areaOk o.area then a else { a with digest := [] }) }
      s.scratchStore j 0 o.scratch

/-- A member sends a moved job's output region back and ends its context (15 R482). -/
def State.returnOffload (s : State) (j : Job) (homeJob n : Nat) : State :=
  let port := s.portTo (j.home.getD 0)
  let s := (s.send port 18 [homeJob, j.optStep] (memBytes j.output 0 n)).bump (0x140 + port) n
  let s := s.endJob j.id false
  match s.model j.handle with
  | some m => s.evict m
  | none => s

/-- FILL_OFFLOAD: a long-waiting adaptation job moves to another member, runs there, and its output region comes back (15 R482). -/
def execFillOffload (job : Nat) (act : OffloadAct) (s : State) : Host.Outcome State Fault Refusal :=
  .next (
    match act, s.job job with
    | .arrive o, _ => s.takeOffload job o
    | .move member, some j => s.offload j member
    | .step, some j =>
      match j.kind with
      | .guest _ _ => if s.stepEnds j then s.optStep j else s
      | _ => s
    | .finish, some j =>
      match j.kind with
      | .guest k n => if j.state == .bound && j.steps ≤ j.optStep then s.returnOffload j k n else s
      | _ => s
    | .returned n b, some j =>
      if j.away.isSome then
        let port := s.portTo (j.away.getD 0)
        ((s.setJob { j with away := none, optStep := n, output := memStore [] 0 b }).charge j.session (some j.id)
          { Account.zero with ihlauxIn := b.length }).bump (0x150 + port) b.length
      else s
    | _, none => s)

end Sys2Proof.Machine
end

