-- ==== Sys2Proof/Machine/Events.lean ====
section
/-! DEFINITION. The event ring and the event counters (18 R568 to R575): ALARM, COALESCE_WINDOW_END, LOG, LOG_SUMMARY, TRACE,
EVENT_RING_ENABLE, ARM_SNAP, CLEAR_ALL, COUNTER_SOURCE_WRITE, COUNTER_LO_READ. -/

namespace Sys2Proof.Machine

open Sys2Proof

/-- An alarm occurs (18 R570); only the alarm codes of R572 are alarms. -/
def execAlarm (code source : Nat) (detail : DWord) (s : State) : Host.Outcome State Fault Refusal :=
  .next (if 1 ≤ code && code ≤ 0x16 then s.raiseAlarm code source detail.toNat else s)

/-- The window of an alarm key ends: one record covers its occurrences and a new window opens, or the key becomes quiet
(18 R570). -/
def endAlarmWindow (code source : Nat) (s : State) : State :=
  match s.evt.table.find? (fun k => k.code == code && k.source == source) with
  | none => s
  | some k =>
    if s.tb.frameOrd < k.ends then s
    else if k.count = 0 then
      { s with evt := { s.evt with table := s.evt.table.filter fun x => !(x.code == code && x.source == source) } }
    else
      let again (x : AlarmKey) : AlarmKey :=
        if x.code == code && x.source == source then { x with count := 0, ends := s.tb.frameOrd + s.evt.coalesce } else x
      ({ s with evt := { s.evt with table := s.evt.table.map again } }).alarmRecord
        ⟨0, code, source, k.first, k.last, k.count, k.detail⟩

/-- The coalescing window of an alarm key ends (18 R570). -/
def execCoalesceWindowEnd (code source : Nat) (s : State) : Host.Outcome State Fault Refusal :=
  .next (endAlarmWindow code source s)

/-- A log of the codes of 18 R572 occurs (18 R571). -/
def execLog (code source : Nat) (detail : DWord) (s : State) : Host.Outcome State Fault Refusal :=
  .next (if 0x40 ≤ code && code ≤ 0x45 then s.writeLog code source detail.toNat else s)

/-- A source's limit permits its summary record (18 R571). -/
def execLogSummary (source : Nat) (s : State) : Host.Outcome State Fault Refusal := .next (s.writeLogSummary source)

/-- A trace of the codes of 18 R572 occurs (18 R571). -/
def execTrace (code source : Nat) (detail : DWord) (s : State) : Host.Outcome State Fault Refusal :=
  .next (if 0x80 ≤ code && code ≤ 0x85 then s.writeTrace code source detail.toNat else s)

/-- A write to ESL_EVT_CFG (18 R568). -/
def evtCfgWrite (v : Word) (s : State) : State :=
  let e := s.evt
  if e.enable then
    if bitOf v 4 then s else { s with evt := { e with enable := false } }
  else
    let e := { e with
      order := min (fld v 3 0) 9
      vector := fld v 15 5
      logRate := max (fld v 23 16) 1
      tracePct := min (fld v 31 24) 100 }
    if bitOf v 4 then ({ s with evt := { e with enable := true, pi := 0, ci := 0 } }).evtDrain
    else { s with evt := e }

/-- A write to ESL_EVT_CFG reaches the module (18 R568, 19 R583). -/
def execEventRingEnable (port : Nat) (value : Word) (s : State) : Host.Outcome State Fault Refusal :=
  .next (if s.writable port .faultedToo then evtCfgWrite value s else s)

/-- A write to ESL_EVT_CI: space may appear for held alarms (18 R568, R570). -/
def evtCiWrite (v : Word) (s : State) : State :=
  ({ s with evt := { s.evt with ci := BitVec.ofNat 16 v.toNat } }).evtDrain

/-! ### Event counters -/

/-- A counter before anything selects it. -/
def EvCounter.init : EvCounter := ⟨0, false, 0, 0, 0⟩

/-- Event counter `n`: module counter below 32, else counter (n − 32) mod 8 of field (n − 32) / 8 (18 R573). -/
def State.counter (s : State) (n : Nat) : EvCounter := (tabGet s.cnt.ctrs n).getD EvCounter.init

/-- A write to CNT_CTL (18 R574). -/
def cntCtlWrite (v : Word) (s : State) : State :=
  let s := if bitOf v 0 then { s with cnt := { s.cnt with armed := true, snapDone := false } } else s
  if bitOf v 2 then { s with cnt := { s.cnt with clearing := true } } else s

/-- CNT_CTL.ARM_SNAP is written (18 R573). -/
def execArmSnap (port : Nat) (value : Word) (s : State) : Host.Outcome State Fault Refusal :=
  .next (if s.writable port .ready && bitOf value 0 then cntCtlWrite value s else s)

/-- CNT_CTL.CLEAR_ALL is written (18 R574). -/
def execClearAll (port : Nat) (value : Word) (s : State) : Host.Outcome State Fault Refusal :=
  .next (if s.writable port .ready && bitOf value 2 then cntCtlWrite value s else s)

/-- A write to a counter's SEL register: SOURCE and ENABLE are set and the count clears (18 R573). -/
def counterSelWrite (n : Nat) (v : Word) (s : State) : State :=
  let c := { s.counter n with source := fld v 9 0, enable := bitOf v 10, count := 0 }
  { s with cnt := { s.cnt with ctrs := tabSet s.cnt.ctrs n c } }

/-- A counter's SEL register is written (18 R573, R574). -/
def execCounterSourceWrite (port counter : Nat) (value : Word) (s : State) : Host.Outcome State Fault Refusal :=
  .next (if s.writable port .ready then counterSelWrite counter value s else s)

/-- A counter's LO register is read: HI latches bits [47:32] (18 R574). -/
def execCounterLoRead (port counter : Nat) (s : State) : Host.Outcome State Fault Refusal :=
  .next (if s.readable port .ready then
    let c := s.counter counter
    { s with cnt := { s.cnt with ctrs := tabSet s.cnt.ctrs counter { c with hi := BitVec.ofNat 16 (c.count.toNat / 2 ^ 32) } } }
  else s)

/-- The armed snapshot and the pending clear of a Frame tick, in that order (18 R573, R574; 02 R56 step 2). The registers
hold the Frame number of the tick. -/
def cntTick (s : State) : State :=
  let c := s.cnt
  let c := if c.armed then
      { c with
        ctrs := tabMap c.ctrs fun _ x => { x with snap := x.count }
        armed := false
        snapDone := true
        snapFrame := s.tb.frame }
    else c
  let c := if c.clearing then { c with ctrs := tabMap c.ctrs (fun _ x => { x with count := 0 }), clearing := false } else c
  { s with cnt := c }

end Sys2Proof.Machine
end

