-- ==== Sys2Proof/Machine/Folio.lean ====
section
/-! DEFINITION. Ihlaux ports and the Folio (15 R464 to R484 R492, 16 R494 R496 R509 to R511): IHLAUX_PORT_TRAIN, IHLAUX_AUTH_FAIL, HELLO,
LINK_KEY_EXCHANGE, GROUP_KEY_DELIVERY, JOIN, LEAVE, ALIGNMENT_SYMBOL, ECHO_SYMBOL, ALIGNMENT_LOSS, COUNTER_ADVANCE, DETACHED,
DIRECTORY_REPORT, PLACEMENT, CREDIT_RETURN, REMOTE_READ_REQUEST. -/

namespace Sys2Proof.Machine

open Sys2Proof

/-! ### Ports (15 R465, R466, R477) -/

/-- Member at the other end of a port (15 R468). -/
def State.peerAt (s : State) (port : Nat) : Nat := (s.ihx.member + port + 1) % 17

/-- A port goes down: no path, no key; the manager no longer counts its peer as joined (15 R465 R466 R473, 16 R494). -/
def State.portDown (s : State) (port cause : Nat) : State :=
  let x := s.ihxPort port
  let s := s.setIhxPort port { IhxPort.init with peer := x.peer, wiringErr := x.wiringErr, retrains := x.retrains, authFail := x.authFail }
  let gone (m : Nat) : Nat := if s.ihx.role = 1 && m.testBit (s.peerAt port) then m - 2 ^ s.peerAt port else m
  ({ s with ihx := { s.ihx with members := gone s.ihx.members } }).raiseAlarm 0x11 (srcOf 5 port) cause

/-- IHLAUX_PORT_TRAIN: a port trains with 16 lanes, or again with 8 or 4 of them after a lane failure, or goes down with 0 (15 R465). -/
def execIhlauxPortTrain (port lanes : Nat) (s : State) : Host.Outcome State Fault Refusal :=
  .next (
    let x := s.ihxPort port
    if s.boot.phase == .reset || 16 ≤ port then s
    else if lanes = 0 then (if x.trained then s.portDown port 0 else s)
    else if lanes != 16 && lanes != 8 && lanes != 4 then s
    else if x.trained then
      if lanes ≤ x.lanes then s.setIhxPort port { x with lanes := lanes, retrains := satAdd x.retrains 1 255 } else s
    else s.setIhxPort port { x with
      trained := true
      lanes := lanes
      vc1Live := 1024
      vc1Fill := 1024
      vc2Live := 4096
      vc2Fill := 4096 })

/-- IHLAUX_AUTH_FAIL: a frame fails authentication; more than 16 within one second take the port down (15 R466). -/
def execIhlauxAuthFail (port : Nat) (s : State) : Host.Outcome State Fault Refusal :=
  .next (
    let x := s.ihxPort port
    if !x.trained || !x.secured then s else
    let times := x.authTimes.filter (fun t => s.tb.sub < t + 24576000) ++ [s.tb.sub]
    let s := (s.setIhxPort port { x with authFail := satAdd x.authFail 1 255, authTimes := times }).bump 0x160 1
    if 16 < times.length then s.portDown port 1 else s)

/-! ### Hello, link keys, the group key (15 R469 R470, 16 R494 R496 R509 to R511) -/

/-- HELLO: the peer's member index and Folio ID; a mismatch sets WIRING_ERR, else this end opens the key exchange (15 R469, 16 R509). -/
def execHello (port : Nat) (msg : HelloMsg) (s : State) : Host.Outcome State Fault Refusal :=
  .next (
    let x := s.ihxPort port
    if !x.trained || s.ihx.state = 0 then s else
    let bad := msg.member != s.peerAt port || msg.folioId != s.ihx.folioId
    let x := { x with peer := msg.member, wiringErr := bad }
    if bad then s.setIhxPort port { x with secured := false, linkKey := [] }
    else
      let priv := Config.drawn s.free 56
      let nonce := Config.drawn (s.free + 1) 32
      let s := (s.setIhxPort port { x with ownKey := priv, ownNonce := nonce }).send port 19 [] (Config.x448Public priv ++ nonce)
      { s with free := s.free + 2 })

/-- A certificate of a chain: device, CA, root (16 R496). -/
def certAt (chain : List Byte) (i : Nat) : List Byte := bytesAt chain (256 * i) 256

/-- Whether a certificate has the layout of its kind and the signature of an issuer's key (16 R495). -/
def certOk (c key : List Byte) (kind : Nat) : Bool :=
  num c 0 4 = 0x4B435254 && num c 4 1 = kind && zeroAt c 5 3 && num c 0x10 4 = (if kind = 2 then 0x8016 else 0) && zeroAt c 0x89 5
    && Config.ed448Verify key (bytesAt c 0 0x8E) (bytesAt c 0x8E 114)

/-- Whether a chain leads to the root that this module holds (16 R496). -/
def State.chainOk (s : State) (chain : List Byte) : Bool :=
  let key (i : Nat) : List Byte := bytesAt (certAt chain i) 0x18 57
  key 2 == bytesAt (certAt s.part.certs 2) 0x18 57 && certOk (certAt chain 2) (key 2) 0 && certOk (certAt chain 1) (key 2) 1
    && certOk (certAt chain 0) (key 1) 2

/-- The checks of step 2 of the exchange (16 R509). -/
def State.linkOk (s : State) (x : IhxPort) (m : LinkKeyMsg) : Bool :=
  s.chainOk m.chain && num m.chain 8 8 = m.serial.toNat
    && Config.ed448Verify (bytesAt m.chain 0x18 57) (m.x448Pub ++ m.nonce ++ m.chain ++ m.mFw ++ m.mPol ++ x.ownNonce) m.signature
    && m.mFw == s.proof.mFw && m.mPol == s.proof.mPol

/-- The link key (16 R509). -/
def State.linkKey (s : State) (x : IhxPort) (m : LinkKeyMsg) : List Byte :=
  let a := s.part.serial.toNat
  let b := m.serial.toNat
  digest32 (label "UVK-LINK" ++ Config.x448 x.ownKey m.x448Pub ++ leBytes 6 (min a b) ++ leBytes 6 (max a b))

/-- The manager's group key (16 R494). -/
def State.managerKey (s : State) : List Byte :=
  expand (s.part.dseed ++ label "UVK-GRP" ++ leBytes 2 s.ihx.folioId.toNat ++ leBytes 2 s.groupEpoch) 56

/-- The group statement (16 R511). -/
def State.groupStatement (s : State) (gk : List Byte) : List Byte :=
  let body := leBytes 4 0x4B475250 ++ leBytes 2 s.ihx.folioId.toNat ++ leBytes 2 s.groupEpoch ++ leBytes 6 s.part.serial.toNat ++ zeros 2
    ++ bytesAt (Config.x448Public gk) 0 56 ++ zeros 70
  body ++ s.sign body

/-- A worker's place in the Folio once its conditions hold: aligned, and its port to the manager secured (15 R470, R473). -/
def State.checkJoined (s : State) : State :=
  let x := s.ihxPort (s.portTo 0)
  if s.ihx.role = 2 && (s.ihx.state = 1 || s.ihx.state = 3) && s.ihx.aligned && x.trained && x.secured then
    { s with ihx := { s.ihx with state := 2 } }
  else s

/-- LINK_KEY_EXCHANGE: the peer's half arrives; the link key is derived, or the port stays without SECURED (16 R509). A manager with
GROUP_WRAP then sends the group key (16 R510). -/
def execLinkKeyExchange (port : Nat) (msg : LinkKeyMsg) (s : State) : Host.Outcome State Fault Refusal :=
  .next (
    let x := s.ihxPort port
    if !x.trained || x.wiringErr || x.ownKey.isEmpty || s.ihx.state = 0 then s
    else if !s.linkOk x msg then (s.setIhxPort port { x with secured := false, linkKey := [] }).raiseAlarm 0x12 (srcOf 5 port) 0
    else
      let own := Config.x448Public x.ownKey ++ x.ownNonce ++ s.part.certs ++ s.proof.mFw ++ s.proof.mPol ++ msg.nonce
      let s := (s.send port 22 [] (s.sign own)).setIhxPort port { x with
        secured := true
        linkKey := s.linkKey x msg
        lower := s.part.serial.toNat ≤ msg.serial.toNat
        ownKey := [] }
      let s : State := { s with ihx := { s.ihx with frames := tabErase s.ihx.frames port } }
      let s := match s.proof.gk with
        | some gk => if s.ihx.role = 1 then s.send port 23 [] (gk ++ s.proof.group) else s
        | none => s
      s.checkJoined)

/-- GROUP_KEY_DELIVERY: a worker with GROUP_WRAP receives the group key behind its secured port to the manager (16 R510, R511). -/
def execGroupKeyDelivery (gk statement : List Byte) (s : State) : Host.Outcome State Fault Refusal :=
  .next (
    if s.ihx.role = 2 && s.ihx.state != 0 && s.groupWrap && (s.ihxPort (s.portTo 0)).secured then
      { s with proof := { s.proof with gk := some (bytesAt gk 0 56), group := bytesAt statement 0 256 } }
    else s)

/-! ### JOIN and LEAVE (15 R470, R471) -/

/-- A hello on every trained port. -/
def State.sendHello (s : State) : State :=
  (s.ihx.ports.filter fun p => p.2.trained).foldl (fun s p => s.send p.1 12 [s.ihx.member, s.ihx.folioId.toNat] []) s

/-- Sets the mode of the timebase oscillator (14 R446, 15 R470 R471). -/
def State.timebaseMode (s : State) (mode : Nat) : State := (s.setOsc s.tb.osc { s.oscAt s.tb.osc with mode := mode }).syncOscs

/-- A manager begins its Folio: the group key, and an advance to the largest worker's counter (15 R470 R476, 16 R494). -/
def State.joinManager (s : State) (counter : BitVec 48) : State :=
  let gk := if s.groupWrap then some s.managerKey else none
  let d := counter.toNat - s.tb.frame.toNat
  { s with
    ihx := { s.ihx with state := 2, cfgErr := false, aligned := true, members := 1 }
    proof := { s.proof with gk := gk, group := (gk.map s.groupStatement).getD [] }
    tb := { s.tb with advance := if 0 < d then some (s.tb.frameOrd + 8, d) else s.tb.advance } }

/-- A worker begins to join: it takes the Folio's Season at its next Frame tick, reports a counter that is ahead, and its timebase follows
the manager (15 R470 steps 3 and 4). -/
def State.joinWorker (s : State) (season : Nat) (counter : BitVec 48) : State :=
  let s := { s with
    ihx := { s.ihx with state := 1, cfgErr := false, aligned := false, goodTicks := 0, sinceSymbol := 0, measured := none }
    tb := { s.tb with pendingCfg := if season = s.tb.season then s.tb.pendingCfg else some (season, s.tb.osc) } }
  let s := if counter.toNat < s.tb.frame.toNat then s.send (s.portTo 0) 20 [s.tb.frame.toNat] [] else s
  s.timebaseMode 2

/-- A write of JOIN, with the Folio's Season and counter (15 R470). -/
def State.join (s : State) (season : Nat) (counter : BitVec 48) : State :=
  let x := s.ihx
  let manager := x.role = 1 && x.member = 0
  let worker := x.role = 2 && 1 ≤ x.member && x.member ≤ 16
  let busy := x.role = 2 && (!s.streams.isEmpty || !s.jobs.isEmpty)
  if x.state != 0 || !(manager || worker) || busy then { s with ihx := { x with cfgErr := true } }
  else if manager then (s.joinManager counter).sendHello
  else (s.joinWorker season counter).sendHello

/-- A write of LEAVE: refused while the directory lists a stream of the member (15 R471, 16 R510). -/
def State.leave (s : State) : State :=
  let x := s.ihx
  if x.state = 0 || s.streamList.any (·.phase != .closed) then { s with ihx := { x with cfgErr := true } }
  else
    let s := s.send (s.portTo 0) 21 [x.member] []
    let unsecure (_ : Nat) (p : IhxPort) : IhxPort := { p with secured := false, linkKey := [], ownKey := [] }
    let s := { s with
      ihx := { s.ihx with
        state := 0
        cfgErr := false
        aligned := false
        holdover := false
        members := 0
        goodTicks := 0
        measured := none
        directory := []
        capacity := []
        ports := tabMap s.ihx.ports unsecure }
      proof := { s.proof with gk := none, group := [] } }
    if x.role = 2 then s.timebaseMode 0 else s

/-- A write to IHX_FOLIO_CTL (15 R492). -/
def folioCtlWrite (v : Word) (season : Nat) (counter : BitVec 48) (s : State) : State :=
  let s := if bitOf v 0 then s.join season counter else s
  if bitOf v 1 then s.leave else s

/-- JOIN is written (15 R470). -/
def execJoin (port : Nat) (value : Word) (season : Nat) (counter : BitVec 48) (s : State) : Host.Outcome State Fault Refusal :=
  .next (if s.writable port .ready && bitOf value 0 then folioCtlWrite value (min season 3) counter s else s)

/-- LEAVE is written (15 R471). -/
def execLeave (port : Nat) (value : Word) (s : State) : Host.Outcome State Fault Refusal :=
  .next (if s.writable port .ready && bitOf value 1 && !bitOf value 0 then folioCtlWrite value 0 0 s else s)

/-! ### Alignment (15 R474 to R476) -/

/-- Whether a worker's port to the manager is up. -/
def State.hearsManager (s : State) (port : Nat) : Bool :=
  let x := s.ihxPort port
  s.ihx.role = 2 && s.ihx.state != 0 && port = s.portTo 0 && x.trained && x.secured

/-- A worker steers its timebase oscillator toward the manager's tick, faster where its own came late and slower where it came early: with
each symbol by at most what 20 ppm per second gives in a Frame, so that a holdover, in which the word stands, leaves no step to make good.
How far is a free value (02 R41, 15 R474 R475, log entry 11). -/
def State.steerToManager (s : State) (offsetNs : Int) : State :=
  let o := s.oscAt s.tb.osc
  let span := 20 * 1024 * s.frameSubs / 24576000
  let step : Int := (Config.freeNat s.free % (span + 1) : Nat)
  if o.mode != 2 then s
  else { s.setOsc s.tb.osc { o with steer := steerSat (o.steer + offsetNs.sign * step) } with free := s.free + 1 }

/-- The Season of the manager comes into force on a worker: at the Frame tick that the symbol opens, or, where that Frame runs already, at
the next one (02 R45, 15 R472; that the symbol brings it is log entry 34). -/
def State.takeSeason (season : Nat) (s : State) : State :=
  let v := min season 3
  if v = (s.tb.pendingCfg.map (·.1)).getD s.tb.season then s
  else if s.tb.ticks = 0 then { s with tb := { s.tb with season := v, pendingCfg := none } }
  else { s with tb := { s.tb with pendingCfg := some (v, s.tb.osc) } }

/-- ALIGNMENT_SYMBOL: the manager's symbol with the counter it opened, the offset measured to it, and the Folio's Season; the worker echoes
it, steers, counts good Frames, and resolves a count offset (02 R45, 15 R472 R474 to R476). -/
def execAlignmentSymbol (port : Nat) (symbol : AlignMsg) (offsetNs : Int) (delayNs : Nat) (s : State) : Host.Outcome State Fault Refusal :=
  .next (
    if !s.hearsManager port then s else
    let d : Int := (symbol.counter.toNat : Int) - s.tb.frame.toNat
    let good := d = 0 && -100 ≤ offsetNs && offsetNs ≤ 100
    let ticks := if good then (if s.ihx.holdover then 1 else s.ihx.goodTicks + 1) else 0
    let s := ((s.send port 11 [symbol.counter.toNat] []).steerToManager offsetNs).takeSeason symbol.season
    let s := { s with
      ihx := { s.ihx with
        sinceSymbol := 0
        holdover := false
        delayNs := min delayNs 0xFFFF
        alignErr := satInt 16 offsetNs
        goodTicks := min 64 ticks
        aligned := 64 ≤ ticks
        measured := if d = 0 then none else some d }
      tb := { s.tb with advance := if 0 < d && s.tb.advance.isNone then some (s.tb.frameOrd + 1, d.toNat) else s.tb.advance } }
    let s := if d < 0 then s.send port 20 [s.tb.frame.toNat] [] else s
    s.checkJoined)

/-- ECHO_SYMBOL: half the round trip is the one-way delay that the manager's next symbol carries (15 R474). -/
def execEchoSymbol (port roundTripNs : Nat) (s : State) : Host.Outcome State Fault Refusal :=
  .next (
    let x := s.ihxPort port
    if s.ihx.role = 1 && s.ihx.state = 2 && x.trained && x.secured then s.setIhxPort port { x with delayNs := roundTripNs / 2 } else s)

/-- ALIGNMENT_LOSS: no symbol for 8 Frames: holdover (15 R475). -/
def execAlignmentLoss (s : State) : Host.Outcome State Fault Refusal :=
  .next (
    if s.ihx.role = 2 && s.ihx.state != 0 && !s.ihx.holdover && 8 ≤ s.ihx.sinceSymbol then
      ({ s with ihx := { s.ihx with holdover := true, aligned := false, goodTicks := 0 } }).raiseAlarm 0x13 0 0
    else s)

/-- Whether a Transfer of this member lies between ACCEPT and commit, or on the manager any of the Folio (15 R476). -/
def State.transferOpen (s : State) : Bool :=
  s.ihx.transfers.any (fun t => t.stage != .waiting && t.stage != .offered)
    || (s.ihx.role = 1 && s.ihx.directory.any fun e => e.2.moving)

/-- COUNTER_ADVANCE: an advance by d is announced, for a Frame tick 8 Frames ahead; the manager holds it back while a Transfer lies
between ACCEPT and commit (15 R476). -/
def execCounterAdvance (d : Nat) (s : State) : Host.Outcome State Fault Refusal :=
  .next (
    if s.tb.running && s.ihx.state != 0 && 1 ≤ d && s.tb.advance.isNone && !(s.ihx.role = 1 && s.transferOpen) then
      { s with tb := { s.tb with advance := some (s.tb.frameOrd + 8, d) } }
    else s)

/-- DETACHED: a worker has lost its port to the manager; a Transfer behind its step 7 is undecided (15 R473, R491). -/
def execDetached (s : State) : Host.Outcome State Fault Refusal :=
  .next (
    if s.ihx.role = 2 && s.ihx.state = 2 && !(s.ihxPort (s.portTo 0)).trained then
      let s := { s with ihx := { s.ihx with state := 3 } }
      (s.ihx.transfers.filter fun t => t.stage == .sent || t.stage == .imported).foldl
        (fun s t => s.raiseAlarm 0x14 0 t.id.toNat) s
    else s)

/-! ### The directory (15 R483) -/

/-- Folio stream number (15 R483). -/
def folioNumber (member stream : Nat) : Nat := 16384 * member + stream

/-- Hatch core-cycles a core gives Live work in a Frame: 90 % of 600 MHz × T_F (02 R60). -/
def State.coreCycles (s : State) : Nat := 11250 * s.frameTicks

/-- What this module reports of its free capacity: Hatch core-cycles, Burin sixths, Plate KiB, DRAM and host bytes, request credits, and
energy per Frame in 1/16 pJ (02 R60, 15 R479 R483). -/
def State.freeCapacity (s : State) : List Nat :=
  let rooms := (List.range 84).map (s.fieldRoom .live)
  let cores := ((List.range 84).map s.fieldCoreList).flatten
  let unit := 16000000000000 * s.frameTicks
  [rooms.sum * s.coreCycles, s.sixthsCeiling - s.liveSixths, (cores.map s.plateFree).sum,
    7 * s.cap.channels * s.cap.speed * 8000000 * s.frameTicks / 480000 - s.liveDram,
    5 * s.cap.hostPath * 100000000 * s.frameTicks / 480000 - s.liveHost,
    1024 - 256 * (s.ihx.transfers.filter (·.credits)).length,
    (250 * s.pwr.capNow - s.part.floorW - 500) * unit / 48000 - s.liveEnergy]

/-- The largest number of free Live cores in a connected group of at most four fields (15 R483). -/
def State.groupCores (s : State) : Nat := (fieldGroups.map fun g => (g.map (s.fieldRoom .live)).sum).foldl max 0

/-- Voices held hot or with a job: the first 8 bytes of the weight digest (15 R483). -/
def State.voicesHeld (s : State) : List (List Byte × Bool × Bool) :=
  (s.models.map (·.2)).filterMap fun m =>
    let job := s.jobs.any fun j => j.2.handle == m.handle
    if m.hot || job then some (bytesAt m.digest 0 8, m.hot, job) else none

/-- The directory entry of an open stream (15 R483, R492). -/
def dirEntry (x : Stream) : DirEntry := ⟨x.session, x.rate, x.keep, x.fill, x.transferring⟩

/-- Streams that the directory lists of this module; one that a Transfer is bringing in is its source's yet (15 R483, R491). -/
def State.listed (s : State) : List Stream := s.streamList.filter fun x => x.phase != .closed && (s.arrivalOf x).isNone

/-- The manager's own part of the directory is brought up to date; a worker reports to the manager (15 R483). -/
def State.reportTick (s : State) : State :=
  if s.ihx.state != 2 then s
  else if s.ihx.role = 1 then
    let others := s.ihx.directory.filter fun e => 16384 ≤ e.1
    let own := s.listed.map fun x => (folioNumber 0 x.id, dirEntry x)
    let c : Capacity := ⟨s.freeCapacity, s.groupCores, s.voicesHeld⟩
    { s with ihx := { s.ihx with
      directory := own.foldl (fun t e => tabSet t e.1 e.2) others
      capacity := tabSet s.ihx.capacity 0 c } }
  else
    let p := s.portTo 0
    let s := s.send p 14 ((s.listed.map fun x => [x.id, x.session, x.rate, bit x.keep 0 + bit x.fill 1 + bit x.transferring 2]).flatten) []
    s.send p 16 (s.freeCapacity ++ [s.groupCores]) ((s.voicesHeld.map fun v => v.1 ++ [BitVec.ofNat 8 (bit v.2.1 0 + bit v.2.2 1)]).flatten)

/-- A bit of IHX_MEMBERS set or cleared. -/
def setMember (members m : Nat) (on : Bool) : Nat :=
  if members.testBit m then (if on then members else members - 2 ^ m) else if on then members + 2 ^ m else members

/-- DIRECTORY_REPORT: a member's report reaches the manager (15 R470 step 6, R483). -/
def execDirectoryReport (member : Nat) (report : DirReport) (s : State) : Host.Outcome State Fault Refusal :=
  .next (
    if s.ihx.role != 1 || s.ihx.state != 2 || 17 ≤ member || member = 0 then s else
    let x := s.ihx
    match report with
    | .opened st sess rate keep fill =>
      { s with ihx := { x with directory := tabSet x.directory (folioNumber member st) ⟨sess, rate, keep, fill, false⟩ } }
    | .closed st => { s with ihx := { x with directory := tabErase x.directory (folioNumber member st) } }
    | .moving st on => { s with ihx := { x with directory := tabMod x.directory (folioNumber member st) fun e => { e with moving := on } } }
    | .capacity free cores voices =>
      { s with ihx := { x with capacity := tabSet x.capacity member ⟨free, cores, voices⟩, members := setMember x.members member true } }
    | .left_ =>
      { s with ihx := { x with
        capacity := tabErase x.capacity member
        directory := x.directory.filter fun e => e.1 / 16384 != member
        members := setMember x.members member false } })

/-! ### Placement (15 R484, R492) -/

/-- A register of IHX_PLACE_ARG. -/
def Ihx.arg (x : Ihx) (i : Nat) : Word := x.placeArgs.getD i 0

/-- What the intended stream needs under each ceiling, as a row of an existing job or with a new one (15 R484). -/
def Ihx.placeNeed (x : Ihx) (newJob : Bool) : List Nat :=
  let fixed := if newJob then (x.arg 2).toNat else 0
  [(x.arg 0).toNat + fixed, fld (x.arg 1) 15 0, fld (x.arg 1) 31 16, if newJob then 256 * (x.arg 3).toNat else 0]

/-- A candidate: its rank class, what is free under its tightest ceiling in millionths of the need, whether it holds the voice hot, and
its member index. -/
def State.candidate (s : State) (member : Nat) (c : Capacity) : Option (Nat × Nat × Bool × Nat) :=
  let x := s.ihx
  let digest := leBytes 4 (x.arg 4).toNat ++ leBytes 4 (x.arg 5).toNat
  let v := c.voices.find? fun v => v.1 == digest
  let hot := v.any fun v => v.2.1
  let job := v.any fun v => v.2.2
  let need := x.placeNeed (!job)
  let cores := if job then 0 else ceilDiv (need.headD 0) (max s.coreCycles 1)
  let pairs := (need.zip c.free).filter fun p => 0 < p.1
  if c.cores < cores || pairs.any (fun p => p.2 < p.1) then none
  else some (if job && hot then 0 else if job then 1 else 2, pairs.foldl (fun n p => min n (1000000 * p.2 / p.1)) (10 ^ 30), hot, member)

/-- Whether one candidate ranks before another (15 R484). -/
def ranksBefore (a b : Nat × Nat × Bool × Nat) : Bool := a.1 < b.1 || (a.1 = b.1 && b.2.1 ≤ a.2.1)

/-- IHX_PLACE_RESULT of a ranked list (15 R492). -/
def placeResult (cs : List (Nat × Nat × Bool × Nat)) : Word :=
  let at_ (i : Nat) : Nat := ((cs[i]?).map fun c => c.2.2.2).getD 0x1F
  BitVec.ofNat 32 (at_ 0 + 32 * at_ 1 + 1024 * at_ 2 + bit ((cs.head?).any fun c => c.2.2.1) 15)

/-- A write of IHX_PLACE_CTL.GO: the manager ranks up to three joined members (15 R484). -/
def placeCtlWrite (v : Word) (s : State) : State :=
  if !bitOf v 0 || s.ihx.role != 1 || s.ihx.state != 2 then s else
  let cs := (s.ihx.capacity.filter fun c => s.ihx.members.testBit c.1).filterMap fun c => s.candidate c.1 c.2
  { s with ihx := { s.ihx with placeDone := true, placeResult := placeResult (cs.mergeSort ranksBefore) } }

/-- PLACEMENT: GO is written on the manager (15 R484). -/
def execPlacement (port : Nat) (value : Word) (s : State) : Host.Outcome State Fault Refusal :=
  .next (if s.writable port .ready then placeCtlWrite value s else s)

/-! ### Credits and remote reads (15 R477 to R481) -/

/-- Serves waiting Fill reads of a port, the earliest deadline first, while response credits last; with each its request buffer is empty, and
its credit goes back (15 R477, R480, R481). A read of a job that has ended gets no reply. -/
def serveReads (port : Nat) : (fuel : Nat) → State → State
  | 0, s => s
  | fuel + 1, s =>
    let x := s.ihxPort port
    match x.reads with
    | [] => s
    | r :: rest =>
      let q := rest.foldl (fun a b => if b.deadline < a.deadline then b else a) r
      match s.job q.job with
      | some j =>
        let n := ceilDiv q.bytes 256
        if x.vc2Fill < n then s else
        let s := s.setIhxPort port { x with vc2Fill := x.vc2Fill - n, reads := x.reads.erase q }
        let s := ((s.send port 24 [q.job, q.tag] (bytesAt j.input q.offset q.bytes)).charge j.session (some j.id)
          { Account.zero with ihlauxOut := q.bytes }).bump (0x140 + port) q.bytes
        serveReads port fuel (s.returnCredits port 1 1)
      | none => serveReads port fuel ((s.setIhxPort port { x with reads := x.reads.erase q }).returnCredits port 1 1)

/-- CREDIT_RETURN: a buffer has emptied at the receiver (15 R477, R478). -/
def execCreditReturn (port vc : Nat) (fill : Bool) (s : State) : Host.Outcome State Fault Refusal :=
  .next (
    let x := s.ihxPort port
    if !x.trained || x.wiringErr then s else
    let x := if vc = 1 then (if fill then { x with vc1Fill := satAdd x.vc1Fill 1 1024 } else { x with vc1Live := satAdd x.vc1Live 1 1024 })
      else if vc = 2 then (if fill then { x with vc2Fill := satAdd x.vc2Fill 1 4096 } else { x with vc2Live := satAdd x.vc2Live 1 4096 })
      else x
    serveReads port x.reads.length (s.setIhxPort port x))

/-- REMOTE_READ_REQUEST: a Fill read of a moved job's input region arrives and is queued by its deadline (15 R480, R481). -/
def execRemoteReadRequest (port job tag age offset bytes : Nat) (s : State) : Host.Outcome State Fault Refusal :=
  .next (
    let x := s.ihxPort port
    if !x.trained || !x.secured || x.wiringErr then s else
    let deadline : Int := (s.tb.sub : Int) + s.frameSubs - age * (s.frameSubs : Int)
    let x := { x with reads := x.reads ++ [⟨job, tag, offset, bytes, deadline⟩] }
    serveReads port x.reads.length (s.setIhxPort port x))

end Sys2Proof.Machine
end

