-- ==== Sys2Proof/Machine/Transfer.lean ====
section
/-! DEFINITION. Transfers between members (13 R400 R410, 15 R479 R485 to R491, 16 R522): TRANSFER_OUT, TRANSFER_IN,
TRANSFER_PARTNER_TIMEOUT, OFFER, ACCEPT, CONFIRM, REFUSE, ENVELOPE, IMPORTED, OWNER, HAND_OFF_REPORT. -/

namespace Sys2Proof.Machine

open Sys2Proof

/-! ### Finding Transfers -/

/-- A Transfer by its ID. -/
def State.transfer (s : State) (id : DWord) : Option Transfer := s.ihx.transfers.find? (·.id == id)

/-- A Transfer of a descriptor begins to wait for its partner; a second one of the same TRANSFER_ID never finds one (15 R486). -/
def State.addTransfer (s : State) (outgoing : Bool) (ring : Nat) (d : Desc) (peer stream : Nat) : State :=
  if (s.transfer d.transferId).isSome then s else
  { s with ihx := { s.ihx with
    transfers := s.ihx.transfers ++ [⟨d.transferId, outgoing, ring, d.seq, peer, stream, .waiting, 0, d.acceptedAt, none, false⟩]
    xferActive := s.ihx.xferActive + 1 } }

/-! ### The source offers (15 R486 step 1, R476; 16 R522) -/

/-- The OFFER for a stream. -/
def State.offerOf (s : State) (t : Transfer) (x : Stream) (m : Model) (e : Session) : OfferMsg :=
  ⟨t.id, s.ihx.member, t.peer, imgHash m.image, m.digest, e.tid, e.mck, x.rate, x.keep, x.fill, x.toLine,
    x.controls.any (·.flags.testBit 2) || x.voices.any (· != x.voice)⟩

/-- An OFFER as bytes. -/
def offerBytes (o : OfferMsg) : List Byte :=
  leBytes 8 o.transferId.toNat ++ leBytes 1 o.source ++ leBytes 1 o.target ++ leBytes 1 o.rate
    ++ leBytes 1 (bit o.keep 0 + bit o.fill 1 + bit o.hasLine 2 + bit o.voicePending 3) ++ bytesAt o.graphHash 0 64 ++ bytesAt o.digest 0 32
    ++ bytesAt o.tid 0 16 ++ bytesAt o.mck 0 8

/-- Whether an OFFER can go out now: a secured path between aligned, joined members, no announced advance, no Keep restart of the stream
(15 R476, R486, R487). -/
def State.mayOffer (s : State) (t : Transfer) (x : Stream) : Bool :=
  s.reaches t.peer && s.ihx.aligned && s.tb.advance.isNone && x.restart.isNone

/-- TRANSFER_OUT: the stream is offered to its TARGET as soon as that can be; until then the descriptor waits (15 R485, R486). -/
def execTransferOut (ring seq : Nat) (s : State) : Host.Outcome State Fault Refusal :=
  .next (
    match s.desc ring seq with
    | none => s
    | some d =>
      match s.stream d.stream with
      | none => s
      | some x =>
        if d.opcode != 0xB || x.session != ring then s else
        let s := if (s.transferOf ring seq).isSome then s else s.addTransfer true ring d d.target d.stream
        match s.transferOf ring seq, s.model x.handle, s.session ring with
        | some t, some m, some e =>
          if t.stage == .waiting && s.mayOffer t x then
            (s.modTransfer t.id fun t => { t with stage := .offered }).send (s.portTo t.peer) 1 [] (offerBytes (s.offerOf t x m e))
          else s
        | _, _, _ => s)

/-! ### The destination checks (15 R486 step 2, R487; 16 R522) -/

/-- The destination's TRANSFER_IN ends before commit: its budget is released and the source is told a DETAIL (15 R487, R490). -/
def State.endArrival (s : State) (t : Transfer) (status detail sourceDetail : Nat) : State :=
  let s := (s.dropArrival t).dropTransfer t.id
  let s := match s.desc t.ring t.seq with
    | some d => s.complete t.ring d { status := status, detail := detail }
    | none => s
  (s.send (s.portTo t.peer) 3 [t.id.toNat, sourceDetail] []).bump 0x163 1

/-- The first check of R487 before admission that an OFFER fails: its DETAIL. -/
def State.offerReason (s : State) (ring : Nat) (d : Desc) (o : OfferMsg) : Option Nat :=
  if !(s.reaches o.source && o.target = s.ihx.member && s.ihx.aligned) then some 6
  else if o.hasLine then some 2
  else
    match s.model d.handle, s.session ring with
    | some m, some e =>
      if !(imgHash m.image == o.graphHash && m.digest == o.digest && e.tid == o.tid && e.mck == o.mck) then some 3
      else if o.voicePending then some 5
      else none
    | _, _ => some 3

/-- Live Transfers in progress from a member to this one (15 R479). -/
def State.liveArrivals (s : State) (peer : Nat) : Nat :=
  (s.ihx.transfers.filter fun t => !t.outgoing && t.peer == peer && t.credits).length

/-- Admission of an arriving stream, with the request credits as a ceiling between the host path and the power cap (02 R60 R62, 15
R479). -/
def State.admitArrival (s : State) (a : Ask) (peer : Nat) : Except Nat Place :=
  let full := !a.fill && 4 ≤ s.liveArrivals peer
  match s.admitAsk a with
  | .error e => .error (if full && (e = 8 || e = 10) then 7 else e)
  | .ok p => if full then .error 7 else .ok p

/-- An OFFER meets its TRANSFER_IN: refused at the first check that fails, else admitted, with ACCEPT as the reply; Fill work on what it
takes is asked to Frost (11 R350, 15 R486 step 2, R487). -/
def State.meetOffer (s : State) (t : Transfer) (o : OfferMsg) : State :=
  let s := { s with ihx := { s.ihx with offers := s.ihx.offers.filter fun q => q.transferId != t.id } }
  match s.desc t.ring t.seq with
  | none => s
  | some d =>
    match s.offerReason t.ring d o with
    | some k => s.endArrival t stTransferFailed k k
    | none =>
      let a : Ask := ⟨t.ring, d.handle, s.tb.season, o.rate, o.keep, o.fill, none, [d.handle]⟩
      match s.admitArrival a t.peer, s.model d.handle with
      | .ok p, some m =>
        let id := (freeKey s.streams 16384 0).getD 0
        let x := { freshStream s id t.ring m o.rate 0 0 0 with keep := o.keep, fill := o.fill, transferring := true }
        let s := (((s.commitPlace a p x).clearPlace p).leaveOut id).bump 0x200 1
        let s := s.modTransfer t.id fun t => { t with stage := .accepted, stream := id, offer := some o, credits := !o.fill }
        (s.modDesc t.ring t.seq fun d => { d with link := id }).send (s.portTo t.peer) 2 [t.id.toNat] []
      | .error e, _ =>
        ((s.bump 0x201 1).writeTrace 0x82 (srcOf 8 t.ring) e).endArrival t stAdmissionRefused e 4
      | _, none => s.endArrival t stTransferFailed 3 3

/-- TRANSFER_IN: it starts in the session queue and meets the OFFER of its TRANSFER_ID from its SOURCE, or waits for it (13 R400, 15
R486). It waits while a Season change is pending (02 R44). -/
def execTransferIn (ring seq : Nat) (s : State) : Host.Outcome State Fault Refusal :=
  .next (
    match s.desc ring seq with
    | none => s
    | some d =>
      if d.opcode != 0xC then s else
      let s : State := if s.mayStart ring d then
          (s.modDesc ring seq fun d => { d with started := true }).addTransfer false ring d d.source 16384
        else s
      let o? : Option OfferMsg := s.ihx.offers.find? fun q => q.transferId == d.transferId
      match s.transferOf ring seq, o? with
      | some t, some o => if t.stage == .waiting && o.source = t.peer && s.tb.pendingCfg.isNone then s.meetOffer t o else s
      | _, _ => s)

/-- OFFER: it meets the TRANSFER_IN that waits for it, or is kept until one comes (15 R486). -/
def execOffer (msg : OfferMsg) (s : State) : Host.Outcome State Fault Refusal :=
  .next (
    let q := s.ihxPort (s.portTo msg.source)
    if s.ihx.state = 0 || !q.trained || q.wiringErr || 17 ≤ msg.source || msg.source = s.ihx.member then s else
    let s : State := { s with ihx := { s.ihx with offers := s.ihx.offers.filter (fun q => q.transferId != msg.transferId) ++ [msg] } }
    match s.transfer msg.transferId with
    | some t =>
      if !t.outgoing && t.stage == .waiting && t.peer = msg.source && s.tb.pendingCfg.isNone then s.meetOffer t msg else s
    | none => s)

/-- TRANSFER_PARTNER_TIMEOUT: no partner within 1 s: TRANSFER_FAILED, DETAIL 1 (15 R486). -/
def execTransferPartnerTimeout (ring seq : Nat) (s : State) : Host.Outcome State Fault Refusal :=
  .next (
    match s.desc ring seq with
    | none => s
    | some d =>
      if !(d.opcode = 0xB || d.opcode = 0xC) || s.tb.sub < d.acceptedAt + 24576000 then s else
      match s.transferOf ring seq with
      | some t => if t.stage == .waiting || t.stage == .offered then failTransfer t 1 s else s
      | none =>
        let s := match s.stream d.stream with
          | some x => if d.opcode = 0xB then s.setStream { x with transferring := false } else s
          | none => s
        (s.complete ring d { status := stTransferFailed, detail := 1 }).bump 0x163 1)

/-! ### Steps 3 to 5 (15 R486) -/

/-- ACCEPT: the source takes h as the second Frame tick from now, takes the credits, and sends CONFIRM (15 R479, R486 step 3). -/
def execAccept (transferId : DWord) (s : State) : Host.Outcome State Fault Refusal :=
  .next (
    match s.transfer transferId with
    | none => s
    | some t =>
      match s.stream t.stream with
      | none => s
      | some x =>
        if !t.outgoing || t.stage != .offered then s else
        let port := s.portTo t.peer
        let q := s.ihxPort port
        let s := if x.fill then s else s.setIhxPort port { q with vc1Live := q.vc1Live - 256 }
        (s.modTransfer t.id fun t => { t with stage := .confirmed, handover := s.tb.frameOrd + 2, credits := !x.fill }).send port 4
          [t.id.toNat, s.tb.frame.toNat + 2] [])

/-- CONFIRM: the destination learns the handover Frame (15 R486 steps 3 and 6). -/
def execConfirm (transferId : DWord) (frame : BitVec 48) (s : State) : Host.Outcome State Fault Refusal :=
  .next (
    match s.transfer transferId with
    | some t =>
      if !t.outgoing && t.stage == .accepted then
        s.modTransfer t.id fun t => { t with stage := .confirmed, handover := s.tb.frameOrd + (frame - s.tb.frame).toNat }
      else s
    | none => s)

/-- REFUSE: the destination's DETAIL reaches the source; a failure of the source reaches the destination (15 R487, R490, R491). -/
def execRefuse (transferId : DWord) (detail : Nat) (s : State) : Host.Outcome State Fault Refusal :=
  .next (
    let s : State := { s with ihx := { s.ihx with offers := s.ihx.offers.filter fun q => q.transferId != transferId } }
    match s.transfer transferId with
    | none => s
    | some t =>
      let s := s.dropArrival t
      let s := match s.stream t.stream with
        | some x => if t.outgoing then s.setStream (x.stays s.tb.frameOrd t) else s
        | none => s
      let s := match s.desc t.ring t.seq with
        | some d => s.complete t.ring d { status := stTransferFailed, detail := detail }
        | none => s
      (s.dropTransfer t.id).bump 0x163 1)

/-! ### Step 7: the import (15 R486, R489; 06 R208, R209) -/

/-- The carried chunk of an envelope as the destination's head takes it, with the controls that act inside it (06 R209). -/
def importedChunk (s : State) (cs : List Control) (ends dither : Bool) (c : Chunk) : Chunk :=
  { c with
    frame := s.tb.frameOrd
    condAt := some s.tb.sub
    ends := ends
    dither := dither
    resets := resetWords c.first c.count ((cs.filter (·.flags.testBit 0)).map (·.sample))
    voices := (cs.filter (·.flags.testBit 2)).map fun k => (k.sample, k.voice)
    overrides := overridesOf cs }

/-- The destination's stream with what an envelope carries, Rendering if it was; it waits to be planned, a Frame for each one since F_h
(01 R38, 15 R486, log entry 33). -/
def importedStream (s : State) (t : Transfer) (b : List Byte) (rendering : Bool) (x : Stream) : Stream :=
  let r := recordRead (envelopeExport b)
  let seq := sourceSeq + t.peer
  let parts := (envelopeControls b seq).partition fun k => k.flags != 2 && k.sample < r.hatchNext
  let cs := parts.2
  let rs := envelopeRecords seq (num b 0x18 4) r.hatchNext (b.drop (envelopeParts b).2.1)
  let flag (k : Nat) : Bool := (num b 4 2).testBit k
  let ends := cs.any fun k => k.flags = 2 && k.sample = r.hatchNext
  { x with
    dither := flag 2
    lineFill := flag 3
    seed := r.seed
    key := r.key
    nextSeq := BitVec.ofNat 32 (num b 0x10 4)
    phase := if rendering then .rendering else .idle
    records := rs
    covered := r.hatchNext + (rs.map (·.span)).sum
    controls := cs
    nextPlan := r.hatchNext
    burinChunks := r.chunk.toList.map (importedChunk s parts.1 ends (flag 2))
    lastOvr := if r.chunk.isSome then overridesOf parts.1 else []
    pendingReset := r.pending
    handed := r.headNext
    headAt := r.headNext
    delivered := r.headNext
    layers := r.layers
    head := r.head
    mirror := (r.headNext, r.head)
    shadow := some r
    second := x.second.map fun q => (q.1, { r with rflags := 1 })
    lost := s.tb.frameOrd - t.handover }

/-- A stream's state has arrived; where its job is Frosted, so has its row of the save area (11 R332, 15 R486). -/
def State.importStream (s : State) (m : List Byte) (x : Stream) : State :=
  let s := s.setStream x
  match s.job x.job with
  | some j => s.setJob { j with save := j.save.map (s.addSaved m j x) }
  | none => s

/-- ENVELOPE: the source's envelope arrives; it imports, and IMPORTED goes to the manager, or STATE_REJECTED ends the Transfer (15 R486
step 7, R487, R489). An envelope that is malformed around its record is rejected with reason code 1: the spec names none for it (log entry
40, DESIGN CHOICE). -/
def execEnvelope (msg : EnvelopeMsg) (s : State) : Host.Outcome State Fault Refusal :=
  .next (
    match s.transfer (BitVec.ofNat 64 (num msg.bytes 8 8)) with
    | none => s
    | some t =>
      match s.stream t.stream with
      | none => s
      | some x =>
        match s.model x.handle with
        | none => s
        | some m =>
          if t.outgoing || t.stage != .confirmed then s else
          let port := s.portTo t.peer
          let n := msg.bytes.length
          let s := (s.charge x.session (some x.job) { Account.zero with ihlauxIn := n }).bump (0x150 + port) n
          let reason := if envelopeOk msg.bytes then recordReason m.image (envelopeExport msg.bytes) x.rate s.tb.season else some 1
          match reason with
          | some k => s.endArrival t stStateRejected k 7
          | none =>
            let s := s.importStream m.image (importedStream s t msg.bytes msg.rendering x)
            (s.modTransfer t.id fun t => { t with stage := .imported }).send (s.portTo 0) 6 [t.id.toNat, x.id, x.session] [])

/-! ### Step 8: the commit (15 R486, R490) -/

/-- The stream of a committed Transfer has its place in the session, and is planned with the plan for Frame h + 1 if that still runs
(15 R486 steps 6 and 9). -/
def State.arrive (s : State) (t : Transfer) (d : Desc) (x : Stream) : State :=
  let ord := ((s.session t.ring).map (·.ordinal)).getD 0
  let s := match s.session t.ring with
    | some e => s.setSession t.ring { e with ordinal := e.ordinal + 1 }
    | none => s
  let x := { x with transferring := false, ordinal := ord }
  let s := ((s.setStream x).dropTransfer t.id).bump 0x162 1
  let s := s.complete t.ring d { status := stSuccess, result := x.id, count := x.headAt }
  if s.tb.frameOrd = t.handover && s.hasContext x && s.clearFor x then ((s.resumeMoved x).planStream false x.id).listPlans else s

/-- A push whose records have gone with their stream completes on the source ring by the destination's reports; packets not taken stay
untaken (15 R490, log entry 33). -/
def followPush (ring dest : Nat) (s : State) (d : Desc) : State :=
  if d.total ≤ d.done then s.complete ring d {
    status := if d.aborted then stAborted else stSuccess
    result := d.packets
    count := d.done
    win := d.win }
  else s.modDesc ring d.seq fun d => { d with link := 65536 + dest, closed := true }

/-- STREAM_CTRLs that act on a stream. -/
def State.ctrlsOf (s : State) (x : Stream) : List Desc := (s.ring x.session).accepted.filter fun d => d.opcode = 6 && actsOn x d

/-- The source's stream leaves: Closed, its AUDIO_PULLs left to drain (15 R490). It is erased at a Frame tick once they have. A STREAM_CTRL
that no plan close of this member has taken goes with the stream: it completes with SUCCESS, for its effect, from a chunk that is not
rendered here on, can no longer be missed (12 R377; log entry 33, DESIGN CHOICE). -/
def State.depart (s : State) (t : Transfer) (d : Desc) (x : Stream) : State :=
  let s := (s.pushes x).foldl (followPush t.ring t.peer) s
  let s := (s.ctrlsOf x).foldl (fun s d => s.complete t.ring d { status := stSuccess }) s
  let s := s.setStream { x with phase := .closed, left := true, records := [], controls := [], burinChunks := [], current := none }
  ((s.dropTransfer t.id).bump 0x162 1).complete t.ring d { status := stSuccess }

/-- A member learns who owns the stream of a Transfer (15 R490, R491). -/
def State.owner (s : State) (id : DWord) (destination : Bool) : State :=
  match s.transfer id with
  | none => s
  | some t =>
    match s.desc t.ring t.seq, s.stream t.stream with
    | some d, some x =>
      if t.outgoing then
        if destination then (if t.stage == .sent then s.depart t d x else s) else failTransfer t 8 s
      else if destination then (if t.stage == .imported then s.arrive t d x else s)
      else s.endArrival t stTransferFailed 8 8
    | _, _ => s

/-- OWNER: the manager's decision reaches this member (15 R486 step 8, R490, R491). -/
def execOwner (transferId : DWord) (destination : Bool) (s : State) : Host.Outcome State Fault Refusal :=
  .next (s.owner transferId destination)

/-- A member is told the owner by the manager, or knows it as the manager (15 R486 step 8, R491). -/
def State.tellOwner (s : State) (member : Nat) (id : DWord) (destination : Bool) : State :=
  if member = s.ihx.member then s.owner id destination
  else s.send (s.portTo member) 7 [id.toNat, bit destination 0] []

/-- IMPORTED: the manager moves the directory entry, which commits the Transfer, and tells both members; a source whose stream the
directory no longer lists as open has nothing to hand over (15 R483, R486 step 8, R491). `source` and `dest` are Folio stream numbers. -/
def execImported (transferId : DWord) (source dest session : Nat) (s : State) : Host.Outcome State Fault Refusal :=
  .next (
    if s.ihx.role != 1 || s.ihx.state != 2 then s else
    match tabGet s.ihx.directory source with
    | some e =>
      let s := { s with ihx := { s.ihx with
        directory := tabSet (tabErase s.ihx.directory source) dest { e with session := session, moving := false } } }
      (s.tellOwner (source / 16384) transferId true).tellOwner (dest / 16384) transferId true
    | none => (s.tellOwner (source / 16384) transferId false).tellOwner (dest / 16384) transferId false)

/-- HAND_OFF_REPORT: samples of a push have been handed off on the destination; with its last one the push completes (15 R490). -/
def execHandOffReport (ring seq samples : Nat) (s : State) : Host.Outcome State Fault Refusal :=
  .next (
    match s.desc ring seq with
    | none => s
    | some d =>
      if d.opcode != 7 || d.link < 65536 then s else
      let d := { d with done := min d.total (d.done + samples) }
      let s := s.modDesc ring seq fun _ => d
      if d.done < d.total then s
      else s.complete ring d {
        status := if d.aborted then stAborted else stSuccess
        result := d.packets
        count := d.done
        win := d.win })

end Sys2Proof.Machine
end

