-- ==== Sys2Proof/Machine/Tick.lean ====
section
/-! DEFINITION. The timebase (02 R41 to R57 R64 R65 R67 R70 R72, 06 R191 to R202, 10 R314, 11 R326 R333 R346 R354 R355, 14 R440, 15 R474
R476 R486, 17 R535, 18 R562 R573, 19 R594): SAMPLE_TICK, FRAME_TICK, TALLY_WINDOW_END, ACCOUNTING_INTERVAL_END,
ESL_FRAME_CNT_LO_READ, ESL_TIMEBASE_CFG_WRITE, ESL_REBIND, ESL_ACCT_CFG_WRITE, PWR_CAP_WRITE. -/

namespace Sys2Proof.Machine

open Sys2Proof

/-! ### A sample tick (02 R41, R72; 14 R440) -/

/-- A Live chunk that was due by F + H and is not wholly handed off slips its stream by one Frame (02 R72). -/
def slipStream (s : State) (x : Stream) : State :=
  let due (c : Chunk) : Bool := c.frame + c.moved + 1 = s.tb.frameOrd && x.handed < c.first + c.count
  if x.fill || x.left || !x.burinChunks.any due then s else
  (s.setStream { x.missOne with playing := none }).bump 0x205 1

/-- Milliseconds since the module left RESET, 48 ticks in each (19 R593). -/
def Boot.tick (b : Boot) : Boot :=
  if b.msTicks = 47 then { b with msTicks := 0, uptimeMs := satAdd b.uptimeMs 1 0xFFFFFFFF } else { b with msTicks := b.msTicks + 1 }

/-- SAMPLE_TICK: the timebase moves on by one sample tick, 512 sub-ticks; hand-off deadlines pass at F + H, and lines and groups take
their frames (02 R41 R53 R72, 14 R440 R452). A Frame's last sample tick is the next Frame tick. -/
def execSampleTick (s : State) : Host.Outcome State Fault Refusal :=
  .next (
    if !s.tb.running || s.frameTicks ≤ s.tb.ticks then s else
    let s := { s with
      tb := { s.tb with sub := s.tb.sub + 512, ticks := s.tb.ticks + 1 }
      boot := s.boot.tick }
    let s := s.bump 0x001 1 .everywhere
    let s := if s.boot.stretched then s.bump 0x281 1 else s
    if s.boot.phase != .ready then s else
    let s := if s.tb.ticks = 2 then s.streamList.foldl slipStream s else s
    s.lineTick.groupTick)

/-! ### The counter and the snapshots (02 R44 R48 R56, 15 R476, 18 R573) -/

/-- Whether an announced advance takes effect at the next Frame tick; it is held back while a Transfer lies between ACCEPT and commit
(15 R476). -/
def State.advanceDue (s : State) : Bool := s.tb.advance.any fun a => a.1 ≤ s.tb.frameOrd + 1 && !s.transferOpen

/-- Frames that the next Frame tick skips (15 R476). -/
def State.skipFrames (s : State) : Nat := if s.advanceDue then (s.tb.advance.map (·.2)).getD 0 else 0

/-- The counter at the next Frame tick (02 R48, 15 R476). -/
def State.nextFrame (s : State) : BitVec 48 := s.tb.frame + BitVec.ofNat 48 (1 + s.skipFrames)

/-- Step 1 of a Frame tick: the counter moves on, and a pending change of Season or oscillator takes effect (02 R44, R56). -/
def counterTick (s : State) : State :=
  let t := s.tb
  let cfg := t.pendingCfg.getD (t.season, t.osc)
  { s with tb := { t with
    season := cfg.1
    osc := cfg.2
    pendingCfg := none
    frame := s.nextFrame
    frameOrd := t.frameOrd + 1
    frameAt := t.sub
    ticks := 0
    advance := if s.advanceDue then none else t.advance } }

/-! ### The Frame that ends (02 R70, 11 R354, 13 R426, 19 R594) -/

/-- A Frame with stretched time marks the accounts and windows that cover it (11 R354, 13 R425); the accounts of an interval that has ended
with this Frame have been written, with its mark, and those of the next one do not cover it. -/
def markStretched (s : State) : State :=
  if !s.pwr.stretchedFrame then s else
  let ord := s.tb.frameOrd
  let covers := s.acct.first ≤ ord
  let acct (a : Account) : Account := { a with stretched := a.stretched || covers }
  let job (_ : Nat) (j : Job) : Job := { j with account := acct j.account }
  let sess (_ : Nat) (e : Session) : Session := { e with account := acct e.account }
  let mark (h : Nat × Nat × Nat × Window) : Nat × Nat × Nat × Window :=
    if h.1 = ord then (h.1, h.2.1, h.2.2.1, { h.2.2.2 with stretched := true }) else h
  let chunk (c : Chunk) : Chunk := { c with stretched := true }
  let str (_ : Nat) (x : Stream) : Stream :=
    { x with hist := x.hist.map mark, hatchChunk := x.hatchChunk.map chunk, burinChunks := x.burinChunks.map chunk }
  let desc (d : Desc) : Desc := if d.handAt = some ord then { d with win := { d.win with stretched := true } } else d
  let ring (_ : Nat) (r : Ring) : Ring := { r with accepted := r.accepted.map desc }
  { s with
    jobs := tabMap s.jobs job
    sessions := tabMap s.sessions sess
    rmk := { s.rmk with rings := tabMap s.rmk.rings ring }
    streams := tabMap s.streams str }

/-- PWR_CAP in watts, as in force (02 R68, R70). -/
def State.capWatts (s : State) : Nat := 250 * s.pwr.capNow

/-- The power of the Frame just ended against the cap; Fill strokes that still run count in the next Frame too (02 R70). -/
def powerTick (watts : Nat) (s : State) : State :=
  let over_ := s.capWatts < watts
  let alone := over_ && !s.pwr.fillRan
  let throttled := over_ && s.jobs.any fun j => j.2.fill && j.2.state == .bound
  let s := if alone then s.raiseAlarm 0x03 0 watts else s
  let s := if throttled then s.bump 0x282 1 else s
  { s with pwr := { s.pwr with
    capNow := s.pwr.capSteps
    measured := watts
    capExceeded := over_ && (alone || s.pwr.capExceeded)
    fillRan := s.hatch.cores.any fun c => c.2.running.any fun r => (s.job r.job).any (·.fill)
    stretchedFrame := s.boot.stretched } }

/-! ### Streams at a Frame tick (02 R52 R72, 06 R191 R194 R199 to R202, 14 R440) -/

/-- The chunk that a stream's line slot plays from this Frame tick on; the words of chunks that have played are gone (14 R440). -/
def Stream.nextLine (ord : Nat) (x : Stream) : Stream :=
  let plays (c : Chunk) : Bool := c.frame + c.moved + 1 = ord && (!x.left || c.first + c.count ≤ x.handed)
  let p := if x.toLine then (x.burinChunks.find? plays).map fun c => (c.first, c.count) else none
  let firsts := (x.playing.toList ++ p.toList).map (·.1) ++ x.burinChunks.map (·.first)
  { x with
    played := x.playing
    playing := p
    lineBuf := x.lineBuf.filter fun w => firsts.any (· ≤ w.1)
    lineFill := x.fillIn (ord - 1)
    fillNext := x.fillNext.filter fun f => ord ≤ f.1 }

/-- Chunks with the voice in force before each (01 R32). -/
def withVoices : Nat → List Chunk → List (Chunk × Nat)
  | _, [] => []
  | v, c :: rest => (c, v) :: withVoices (((c.voices.getLast?).map (·.2)).getD v) rest

/-- Chunks that the head is past leave; the voice of their last switch is the stream's (01 R32, 07 R236). As long as the mirror has not
passed them, a takeover may have to repeat them (07 R239). -/
def Stream.dropChunks (x : Stream) : Stream :=
  let past (c : Chunk) : Bool := c.first + c.count ≤ min x.headAt x.handed
  let gone := withVoices x.voice (x.burinChunks.filter past)
  let vs := (gone.map (·.1.voices)).flatten
  { x with
    burinChunks := x.burinChunks.filter (!past ·)
    voice := ((vs.getLast?).map (·.2)).getD x.voice
    replay := (x.replay ++ gone).filter fun q => x.mirror.1 < q.1.first + q.1.count }

/-- Layers with a pending reset behind a chunk: its reset step lies behind the chunk's last step (06 R191, R194). -/
def pendingAfter (m : List Byte) (rate : Nat) (c : Chunk) (before : List Nat) : List Nat :=
  let stepAt (l : Layer) (n : Nat) : Nat := ceilDiv (n * l.stepRate) (rateHz rate)
  let pends (l : Layer) : Bool :=
    let last := stepAt l (c.first + c.count)
    l.resettable && l.kind != 7 && ((before.contains l.id && stepAt l c.first = last) || c.flagged.any fun n => last ≤ stepAt l n)
  ((imgLayerTable m).filter pends).map (·.id)

/-- The pending resets behind what Hatch has computed (06 R194). -/
def Stream.pendingBehind (m : List Byte) (x : Stream) : List Nat :=
  match x.hatchChunk with
  | some c => pendingAfter m x.rate c c.pending
  | none => x.pendingReset

/-- The pipeline of a stream moves on: what Hatch computed goes to Burin, the closed plan to Hatch, with the resets that pend on its first
steps (02 R52, 06 R194). -/
def Stream.moveOn (m : List Byte) (x : Stream) : Stream :=
  { x with
    burinChunks := x.burinChunks ++ x.hatchChunk.toList
    hatchChunk := x.closedChunk.map fun c => { c with pending := x.pendingBehind m }
    closedChunk := none
    pendingReset := x.pendingBehind m }

/-- Whether a Fill stream's work of the Frame before is not done: it waits, and does not slip (11 R325). -/
def Stream.fillWaits (ord : Nat) (x : Stream) : Bool :=
  x.fill && (x.hatchChunk.any (·.condAt.isNone) || x.burinChunks.any (·.frame < ord))

/-- A stream's pipeline at a Frame tick, and whether it stood still: behind a slip, out of the plan, or for Fill work that has not run
(02 R72, 11 R325, 15 R486, 18 R560). -/
def Stream.advance (m : List Byte) (ord : Nat) (x : Stream) : Stream × Bool :=
  let x := (x.nextLine ord).dropChunks
  if 0 < x.skip then ({ x with skip := x.skip - 1 }, true)
  else if x.left then ({ x.shift 1 with lost := if x.fill then x.lost else x.lost + 1 }, true)
  else if x.fillWaits ord then (x.shift 1, true)
  else (x.moveOn m, false)

/-- The Frame-boundary record: the Hatch state behind the chunk that Burin takes now, the head state before it (06 R199, R207). -/
def State.shadowOf (s : State) (m : List Byte) (x : Stream) : ExportRec := exportOf s m x 0 (x.carriedChunk s.tb.frameOrd) x.head

/-- A stream takes its Frame-boundary record: it is the shadow, and a Keep stream's second one, once the head has come to its sample (06
R199, R202). -/
def Stream.takeShadow (r : ExportRec) (x : Stream) : Stream := ({ x with dueShadows := x.dueShadows ++ [r] }).ripen

/-- Where a Keep stream's second shadow lies from this Frame tick on: where it does, unless its job has come into a field of it, or else in
another field found anew; none where no other field has the Plate (02 R65). -/
def State.secondPlace (s : State) (m : List Byte) (x : Stream) : Option (Nat × List Nat) :=
  match x.second with
  | some q =>
    if (fieldsOf x.secondCores).any (s.streamFields x).contains then s.pickSecond (s.streamFields x) (ceilDiv (imgStateBytes m) 1024)
    else some (q.1, x.secondCores)
  | none => s.pickSecond (s.streamFields x) (ceilDiv (imgStateBytes m) 1024)

/-- A Keep stream's shadows: the second one is written into another field, and its bytes are charged (02 R65, 06 R202, 11 R352). -/
def State.keepSecond (s : State) (m : List Byte) (r : ExportRec) (x : Stream) : State :=
  match s.secondPlace m x with
  | none => s.setStream (Stream.takeShadow r { x with second := none, secondCores := [] })
  | some p =>
    let old := ((x.second.map (·.2)).orElse fun _ => x.shadow).getD r
    let y := Stream.takeShadow r { x with second := some (p.1, { old with rflags := 1 }), secondCores := p.2 }
    (s.setStream y).charge x.session (some x.job) { Account.zero with saveKeep := (exportBytes m r).length }

/-- A stream's weights in its unit's store are those of the voices it still uses (07 R213). -/
def State.trimWeights (s : State) (u : Nat) : State :=
  let b := s.unit u
  let used (h : Nat) : Bool := b.ctxs.any fun c => (s.stream c.2).any (·.voices.contains h)
  if b.weights.all fun w => used w.1 then s else s.setUnit u { b with weights := b.weights.filter fun w => used w.1 }

/-- One stream at a Frame tick: its pipeline, then its shadows; a Transfer past its handover Frame is sent, and one that ended behind
step 4 leaves the stream to be planned again (06 R199 R202, 15 R486 R490). -/
def tickStream (s : State) (id : Nat) : State :=
  match s.stream id with
  | none => s
  | some x =>
    match s.model x.handle with
    | none => s
    | some m =>
      if x.phase == .closed then s.setStream ((x.nextLine s.tb.frameOrd).dropChunks) else
      let r := x.advance m.image s.tb.frameOrd
      let y := r.1
      let s := if r.2 then s.setStream y
        else if y.keep then s.keepSecond m.image (s.shadowOf m.image y) y
        else s.setStream (y.takeShadow (s.shadowOf m.image y))
      let s := if y.voice = x.voice then s else s.trimWeights y.unit
      let waits := s.ihx.transfers.any fun t => t.outgoing && t.stream == id && t.stage == .confirmed
      if y.missed && !waits then
        match s.stream id with
        | some z => s.setStream { z with missed := false, left := true }
        | none => s
      else s.trySend id

/-! ### The plan close (02 R54 to R57 R64, 11 R326 R346, 15 R486, 18 R562) -/

/-- Step 4 of a Transfer: the plan for Frame h, and any after it, leaves the stream out (15 R486). -/
def leaveForTransfer (s : State) : State :=
  s.ihx.transfers.foldl
    (fun s t =>
      match s.stream t.stream with
      | some x =>
        if t.outgoing && t.stage == .confirmed && t.handover ≤ s.tb.frameOrd + 1 then s.setStream { x with missed := true } else s
      | none => s) s

/-- A repeat plan applies no step of a Transfer: its handover comes a Frame later (18 R562). -/
def holdTransfers (s : State) : State :=
  let later (t : Transfer) : Transfer :=
    if t.outgoing && t.stage == .confirmed && t.handover = s.tb.frameOrd + 1 then { t with handover := t.handover + 1 } else t
  { s with ihx := { s.ihx with transfers := s.ihx.transfers.map later } }

/-- STREAM_CLOSEs take effect; that of a stream whose job is Frosted waits until its Thaw (02 R57, 11 R329). -/
def commitCloses (s : State) : State :=
  let waits (d : Desc) : Bool := (s.stream d.stream).any s.frozen
  let one (_ : Nat) (r : Ring) : Ring :=
    { r with accepted := r.accepted.map fun d => if d.opcode = 9 && !waits d then { d with committed := true } else d }
  { s with rmk := { s.rmk with rings := tabMap s.rmk.rings one } }

/-- The steps that only a plan close in the sense of 02 R57 takes: residency, ABORTs, STREAM_CTRLs, STREAM_CLOSEs, a Transfer's step 4,
and streams that come back. -/
def closeSteps (s : State) : State :=
  let s := residencyTick s
  let s := s.streamList.foldl (fun s x => (s.removeAborted x).applyCtrls x) s
  let s := leaveForTransfer (commitCloses s)
  (s.streams.map (·.1)).foldl
    (fun s id => match s.stream id with
      | some x => s.tryResume x
      | none => s) s

/-- The coverage that a repeat plan would use (18 R562). -/
def recordCoverage (s : State) : State :=
  let one (_ : Nat) (x : Stream) : Stream := { x with recorded := x.covered }
  { s with streams := tabMap s.streams one }

/-- A stream whose last rendered sample is handed off, at a Frame boundary: Closing ends (01 R36, R37). -/
def Stream.drained (x : Stream) : Bool :=
  !x.inFlight && x.covered ≤ x.nextPlan && x.handed = x.nextPlan && x.staged.isEmpty && !x.transferring

/-- Closing streams that are done are Closed; streams that a Transfer has taken away give up their budget once their output stage has
drained, and their IDs once their AUDIO_PULLs have completed (01 R36, 15 R490). -/
def endStream (s : State) (id : Nat) : State :=
  match s.stream id with
  | none => s
  | some x =>
    if s.closes x && x.drained then s.setStream { x with phase := .closed }
    else if x.phase == .closed && x.transferring then
      let s := if x.staged.isEmpty && x.outBuf.isEmpty && x.job != noJob then
          let s := s.releaseStream x
          match s.stream id with
          | some y => s.setStream { y with job := noJob }
          | none => s
        else s
      if x.job = noJob && (s.pulls x).isEmpty then s.eraseStream id else s
    else s

/-- A Keep stream that found no place in time is Closed (02 R67). -/
def restartDeadline (s : State) (id : Nat) : State :=
  match s.stream id with
  | some x => if x.restart.any fun last => last < s.tb.frameOrd then s.faultStream x else s
  | none => s

/-! ### Rebinding (11 R333) -/

/-- Contexts for the rows of a job in units that none of its rows holds, none unless all find one (07 R213, 11 R333 step 1). -/
def State.reserveUnits (held fields : List Nat) : List Stream → State → Option (State × List (Nat × Nat))
  | [], s => some (s, [])
  | x :: rest, s =>
    let units := ((nearFields fields).map fun f => (List.range 8).map (8 * f + ·)).flatten
    match units.find? fun u => !held.contains u && s.unitTakes true x.voices (s.streamSixths x) u with
    | none => none
    | some u =>
      let b := s.unit u
      let k := (freeKey b.ctxs 192 0).getD 0
      let s := s.setUnit u { b with ctxs := tabSet b.ctxs k x.id, weights := s.loadWeights b x.voices }
      (State.reserveUnits held fields rest s).map fun r => (r.1, (x.id, u) :: r.2)

/-- Cores that a job's rebinding may take: as for a new job, none that it holds now, and in no field of a second shadow of its rows (02 R65,
03 R99, R100; 11 R333 step 1). -/
def State.rebindCores (s : State) (m : List Byte) (j : Job) (c : Cost) : Option (List Nat) :=
  let xs := s.rowStreams j
  let n := coresFor m s.frameTicks (cycles100 c (xs.map (·.keep)))
  let seconds := (xs.map fun x => fieldsOf x.secondCores).flatten
  let offers (f : Nat) : List Nat :=
    if seconds.contains f then [] else (s.fieldOffer .live (plateShare m c xs.length n) f).filter fun k => !j.held.contains k
  fieldGroups.findSome? (takeCores offers n)

/-- A rebinding's place is committed: the job joins its new cores, with pairs of its own there, and Fill work on them is asked to Frost (04
R133, 11 R333 step 2, R348). -/
def State.commitRebind (s : State) (m : List Byte) (j : Job) (cores : List Nat) (units : List (Nat × Nat)) : State :=
  let pairs := (s.pickPairs m cores).foldl (fun (t : Tab (Tab Nat)) q => tabSet t q.1 q.2) j.pairs
  let s := (s.bindCores j.id m pairs cores).setJob { j with pairs := pairs }
  let fills := ((units.map (·.2)).foldl (fun l u => l ++ s.fillOn cores u) (s.fillOn cores noUnit)).eraseDups
  let s := fills.foldl State.requestFrost s
  { s with rebind := { s.rebind with request := none, place := some (j.id, cores), at_ := s.tb.frameOrd, units := units } }

/-- Step 1 of a rebinding: its place is found and committed, or it is refused (11 R333). -/
def rebindTick (s : State) : State :=
  match s.rebind.request with
  | none => s
  | some id =>
    let refuse := { s with rebind := { s.rebind with request := none, refused := true } }
    match s.job id with
    | none => refuse
    | some j =>
      match s.model j.handle, s.jobCost j with
      | some m, some c =>
        if j.state != .bound then refuse else
        match s.rebindCores m.image j c with
        | none => refuse
        | some cores =>
          match State.reserveUnits ((s.rowStreams j).map (·.unit)) (fieldsOf cores) (s.rowStreams j) s with
          | none => refuse
          | some (s, units) => s.commitRebind m.image j cores units
      | _, _ => refuse

/-- Step 2 of a rebinding begins at the Frame tick behind its commit, or while 16 switches are in progress at a later one: no stroke of the
job is issued from then on (11 R332, R333, R346). -/
def rebindFrost (s : State) : State :=
  match s.rebind.place with
  | some (id, _) => if s.rebind.at_ < s.tb.frameOrd && s.switching < 16 then s.requestFrost id else s
  | none => s

/-! ### Fill work (02 R64 R70, 11 R326 R346, 18 R565) -/

/-- Fill jobs in the order in which capacity is offered: the longest waiting first, then the lower ID (11 R326). -/
def State.fillOrder (s : State) : List Job :=
  ((s.jobs.map (·.2)).filter fun j => j.fill && j.state == .frosted).mergeSort
    fun a b => a.lastRan < b.lastRan || (a.lastRan = b.lastRan && a.id ≤ b.id)

/-- Bound Fill jobs whose switch would take longer than a Frame are asked to Frost; then what is left is offered, unless the power cap or
stretched clocks forbid it (02 R64 R70, 11 R326 R346, 18 R565). -/
def fillTick (s : State) : State :=
  let slow (j : Job) : Bool :=
    j.fill && j.state == .bound && !j.cores.isEmpty && !((s.model j.handle).any fun m => s.passesSwitch m.image j j.cores)
  let s := ((s.jobs.map (·.2)).filter slow).foldl (fun s j => s.requestFrost j.id) s
  if s.boot.stretched || s.capWatts < s.pwr.measured then s else s.fillOrder.foldl (fun s j => s.offerFill j.id) s

/-! ### FRAME_TICK (02 R56) -/

/-- The plan that closes at a Frame tick (02 R54 to R57), or a repeat plan (18 R562). -/
def planTick (s : State) : State :=
  if s.fault.repeatPlan then
    let s := holdTransfers s
    let s := { s with fault := { s.fault with repeatPlan := false } }
    ((s.streams.map (·.1)).foldl (State.planStream true) s).listPlans
  else
    let s := closeSteps s
    let s := recordCoverage (((s.streams.map (·.1)).foldl (State.planStream false) s).listPlans)
    let s := (s.streams.map (·.1)).foldl endStream s
    let s := (s.streams.map (·.1)).foldl State.endFaulted s
    let s := (s.streams.map (·.1)).foldl restartDeadline s
    fillTick (rebindTick s)

/-- The manager's symbol on every secured port: the counter that the tick opens, the one-way delay, an announced advance and the Frame
ticks until it, and the Folio's Season (02 R45, 15 R474, R476). -/
def sendSymbols (s : State) : State :=
  if s.ihx.role != 1 || s.ihx.state != 2 then s else
  let adv := match s.tb.advance with
    | some a => [a.2, a.1 - s.tb.frameOrd]
    | none => [0, 0]
  (s.ihx.ports.filter fun p => p.2.trained && p.2.secured).foldl
    (fun s p => s.send p.1 10 ([s.tb.frame.toNat, p.2.delayNs] ++ adv ++ [s.tb.season]) []) s

/-- A worker has gone one more Frame without a symbol (15 R475). -/
def missSymbol (s : State) : State :=
  if s.ihx.role = 2 && s.ihx.state != 0 then { s with ihx := { s.ihx with sinceSymbol := s.ihx.sinceSymbol + 1 } } else s

/-- FRAME_TICK: at the last sample tick of a Frame the next one opens; `watts` is the module power over the Frame just ended (02 R43 R56
R70). In the faulted state the ticks only count (18 R563). -/
def execFrameTick (watts : Nat) (s : State) : Host.Outcome State Fault Refusal :=
  .next (
    if !s.tb.running || s.tb.ticks != s.frameTicks then s else
    let s := if s.pwr.stretchedFrame then s.bump 0x207 1 else s
    let s := cntTick (counterTick (markStretched s))
    let s := s.bump 0x002 1 .everywhere
    if s.boot.phase != .ready then s else
    let s := powerTick watts s
    let s := (s.streams.map (·.1)).foldl tickStream s
    let s := rebindFrost ((s.jobs.map (·.1)).foldl State.settle s)
    let s := (planTick s).lineRates.lineFrame
    (missSymbol (sendSymbols s)).reportTick)

/-! ### The ends of windows (11 R354 R355, 17 R533 R535) -/

/-- Frames in a tally window (17 R535). -/
def windowFrames (season : Nat) : Nat := 48000 / seasonTicks season

/-- Whether the running Frame, all of whose sample ticks have passed, is the last one of its tally window (17 R535). -/
def State.windowEnds (s : State) : Bool :=
  let season := (s.tb.pendingCfg.map (·.1)).getD s.tb.season
  s.tb.running && s.tb.ticks = s.frameTicks && (s.advanceDue || s.nextFrame.toNat % windowFrames season = 0)

/-- Counts as the payload of a tally. -/
def tallyBytes (cs : List Nat) : List Byte := ((List.range 7).map fun i => leBytes 8 (cs.getD i 0)).flatten

/-- One session's tallies, and its UNBIND if it closed in the window (17 R535). -/
def sendTally (s : State) (e : Nat × Tally) : State :=
  let t := e.2
  let s := if t.a.all (· == 0) && t.b.all (· == 0) then s else sendAlm 4 e.1 (tallyBytes t.b) (sendAlm 3 e.1 (tallyBytes t.a) s)
  match t.closed with
  | some f => sendAlm 2 e.1 (leBytes 6 f.toNat) s
  | none => s

/-- TALLY_WINDOW_END: Easel 3 sends the window's tallies, the UNBINDs and WINDOW_END, a closed session's
before those of the one that its ring has been bound to since (01 R25, 17 R533 to R535). -/
def execTallyWindowEnd (s : State) : Host.Outcome State Fault Refusal :=
  .next (
    if s.boot.phase != .ready || !s.windowEnds || s.acct.windowEnd == some s.tb.frameOrd then s else
    let all := s.acct.closed ++ s.tallies
    let n := (all.filter fun e => !(e.2.a.all (· == 0) && e.2.b.all (· == 0))).length
    let s := sendAlm 7 0 (leBytes 6 s.tb.frame.toNat ++ zeros 2 ++ leBytes 2 n) (all.foldl sendTally s)
    { s with tallies := [], acct := { s.acct with closed := [], windowEnd := some s.tb.frameOrd } })

/-- ACCOUNTING_INTERVAL_END: with the last Frame of an interval every job and session gets its record, and a pending write of
ESL_ACCT_CFG takes effect (11 R354, R355). -/
def execAccountingIntervalEnd (s : State) : Host.Outcome State Fault Refusal :=
  .next (
    if s.boot.phase != .ready || s.tb.ticks != s.frameTicks || s.tb.frameOrd + 1 < s.acct.first + s.acct.interval then s else
    let s := if s.acct.jobRecords then (s.jobs.map (·.2)).foldl (fun s j => writeJobRecord 0 false j s) s else s
    let s := (s.sessions.map (·.1)).foldl (fun s n => writeSessionRecord 1 n s) s
    let next := s.acct.next.getD (s.acct.interval, s.acct.jobRecords)
    { s with acct := { s.acct with interval := next.1, jobRecords := next.2, next := none, first := s.tb.frameOrd + 1 } })

/-! ### ESL_ and PWR_ registers with commands of their own (02 R44 R50 R70, 11 R333 R355, 19 R593 R594) -/

/-- ESL_FRAME_CNT_LO_READ: the read latches bits [47:32] of the counter (02 R50). -/
def execEslFrameCntLoRead (port : Nat) (s : State) : Host.Outcome State Fault Refusal :=
  .next (if s.readable port .ready then { s with tb := { s.tb with frameHi := BitVec.ofNat 16 (s.tb.frame.toNat / 2 ^ 32) } } else s)

/-- Whether a change of Season may be taken now: no open stream, no Live job context, and in a Folio by the manager alone with no stream
in the directory (02 R44, 15 R472). -/
def State.seasonFree (s : State) : Bool :=
  !s.streamList.any (·.phase != .closed) && !s.jobs.any (!·.2.fill)
    && (s.ihx.state = 0 || (s.ihx.role = 1 && s.ihx.directory.isEmpty))

/-- A write to ESL_TIMEBASE_CFG: OSC [1:0], SEASON [3:2]; compared with the setting that will be in force at the next Frame tick (02 R44,
19 R593). A joined or detached worker refuses every write (19 R593). -/
def timebaseCfgWrite (v : Word) (s : State) : State :=
  let new := (fld v 3 2, fld v 1 0)
  let old := (s.tb.season, s.tb.osc)
  let accept (p : Option (Nat × Nat)) : State := { s with tb := { s.tb with pendingCfg := p, refused := false } }
  if s.ihx.role = 2 && 2 ≤ s.ihx.state then { s with tb := { s.tb with refused := true } }
  else if new = s.tb.pendingCfg.getD old then accept s.tb.pendingCfg
  else if !s.seasonFree then { s with tb := { s.tb with refused := true } }
  else accept (if new = old then none else some new)

/-- ESL_TIMEBASE_CFG_WRITE (02 R44). -/
def execEslTimebaseCfgWrite (port : Nat) (value : Word) (s : State) : Host.Outcome State Fault Refusal :=
  .next (if s.writable port .ready then timebaseCfgWrite value s else s)

/-- A write to ESL_REBIND: JOB [9:0], GO [10] (11 R333). -/
def rebindWrite (v : Word) (s : State) : State :=
  let id := fld v 9 0
  let s := { s with rebind := { s.rebind with job := id } }
  if !bitOf v 10 then s else
  let ok := (s.job id).any (fun j => !j.fill && j.kind == .streams && j.state == .bound) && s.rebind.request.isNone
    && s.rebind.place.isNone
  { s with rebind := { s.rebind with done := false, refused := !ok, request := if ok then some id else s.rebind.request } }

/-- ESL_REBIND is written (11 R333). -/
def execEslRebind (port : Nat) (value : Word) (s : State) : Host.Outcome State Fault Refusal :=
  .next (if s.writable port .ready then rebindWrite value s else s)

/-- A write to ESL_ACCT_CFG: INTERVAL [15:0], 0 leaving it unchanged, JOB_RECORDS [16]; pending to the interval's end (11 R355). -/
def acctCfgWrite (v : Word) (s : State) : State :=
  let old := (s.acct.next.map (·.1)).getD s.acct.interval
  { s with acct := { s.acct with next := some (if fld v 15 0 = 0 then old else fld v 15 0, bitOf v 16) } }

/-- ESL_ACCT_CFG_WRITE (11 R355). -/
def execEslAcctCfgWrite (port : Nat) (value : Word) (s : State) : Host.Outcome State Fault Refusal :=
  .next (if s.writable port .ready then acctCfgWrite value s else s)

/-- A write to PWR_CAP: STEPS [6:0], held to 24 to 68 (02 R68, 19 R594). Admission and Fill use it from the next plan close (02 R70). -/
def pwrCapWrite (v : Word) (s : State) : State := { s with pwr := { s.pwr with capSteps := max 24 (min 68 (fld v 6 0)) } }

/-- PWR_CAP_WRITE (02 R70). -/
def execPwrCapWrite (port : Nat) (value : Word) (s : State) : Host.Outcome State Fault Refusal :=
  .next (if s.writable port .ready then pwrCapWrite value s else s)

end Sys2Proof.Machine
end

