-- ==== Sys2Proof/Machine/Regs.lean ====
section
/-! DEFINITION. The setup space (12 R363 to R365 R368, 19 R591 to R594, and the register tables of 03 R79, 04 R148, 10 R322, 11 R333 R355, 14
R462 R463, 15 R492, 16 R524 R525, 17 R551, 18 R568 R574): what a read answers, and MAINTENANCE_WRITE. -/

namespace Sys2Proof.Machine

open Sys2Proof

/-! ### Which boot states answer (19 R583) -/

/-- The class of a setup address under 19 R583. An MBX_ register acts in FAULTED only where the table binds the host. -/
def State.accessOf (s : State) (a : Nat) : Access :=
  let host (n : Nat) : Bool := (s.mailbox n).sender = 0 || (s.mailbox n).receiver = 0
  if a ∈ [0x4, 0x1000, 0x1004, 0x1014, 0x1024, 0x6000, 0x6004, 0x6008, 0x80000, 0x80004] then .reset
  else if 0x7000 ≤ a && a < 0x8000 then .almanac
  else if a ∈ [0x1018, 0x101C, 0x1020] || 0x800000 ≤ a then .staging
  else if 0x1080 ≤ a && a ≤ 0x1098 then .faultedToo
  else if 0x30100 ≤ a && a < 0x30200 && host ((a - 0x30100) / 4) then .faultedToo
  else if 0x31000 ≤ a && a < 0x32000 && host ((a - 0x31000) / 64) then .faultedToo
  else .ready

/-! ### Writes -/

/-- Whether any ring is enabled (12 R368). -/
def State.anyRingOn (s : State) : Bool := s.rmk.rings.any fun r => r.2.enabled

/-- ESL_ registers (19 R593, 18 R568). -/
def eslWrite (o : Nat) (v : Word) (s : State) : State :=
  match o with
  | 0x008 => timebaseCfgWrite v s
  | 0x014 => resetCtlWrite v s
  | 0x018 => { s with stage := { s.stage with len := fld v 23 0 } }
  | 0x01C =>
    let s := if bitOf v 0 then stageClear s else s
    if bitOf v 1 then stageCommit s else s
  | 0x040 => acctCfgWrite v s
  | 0x044 => rebindWrite v s
  | 0x080 => if s.evt.enable then s else { s with evt := { s.evt with baseLo := v &&& 0xFFFFF000 } }
  | 0x084 => if s.evt.enable then s else { s with evt := { s.evt with baseHi := v } }
  | 0x088 => evtCfgWrite v s
  | 0x08C => if fld v 15 0 = 0 then s else { s with evt := { s.evt with coalesce := fld v 15 0 } }
  | 0x094 => evtCiWrite v s
  | 0x098 => { s with evt := { s.evt with logEn := bitOf v 0, traceEn := bitOf v 1 } }
  | _ => s

/-- MEM_RES_POLICY as a write leaves it: a class of 3 and a minimum of 0 leave their fields (10 R322). -/
def resPolicyWrite (v : Word) (p : ResPolicy) : ResPolicy where
  defaultClass := if fld v 1 0 = 3 then p.defaultClass else fld v 1 0
  allowPin := bitOf v 2
  autoMin := if fld v 11 4 = 0 then p.autoMin else fld v 11 4
  share := min 18 (fld v 16 12)

/-- MEM_ registers (10 R322). -/
def memRegWrite (o : Nat) (v : Word) (s : State) : State :=
  match o with
  | 0x004 => { s with nv := { s.nv with slowPolicy := bitOf v 0 } }
  | 0x008 => { s with mem := { s.mem with scrubPeriod := if fld v 4 0 = 0 || 24 < fld v 4 0 then 24 else fld v 4 0 } }
  | 0x00C => { s with mem := { s.mem with ceThresh := fld v 15 0 } }
  | 0x014 => { s with mem := { s.mem with policyNext := some (resPolicyWrite v (s.mem.policyNext.getD s.mem.policy)) } }
  | 0x018 => { s with mem := { s.mem with pinCapNext := some (fld v 15 0) } }
  | _ => s

/-- CLK_ registers (14 R462). -/
def clkWrite (o : Nat) (v : Word) (s : State) : State :=
  if 0x40 ≤ o then s
  else if o % 16 = 0 then oscCfgWrite (o / 16) v s
  else if o % 16 = 4 then oscSteerWrite (o / 16) v s
  else s

/-- IHX_FOLIO_CFG: written only while standalone; a ROLE of 3 leaves the register (15 R469, R492). -/
def folioCfgWrite (v : Word) (s : State) : State :=
  if s.ihx.state != 0 || fld v 1 0 = 3 then s
  else { s with ihx := { s.ihx with role := fld v 1 0, member := fld v 6 2, folioId := BitVec.ofNat 16 (fld v 23 8) } }

/-- IHX_ registers; the placement and directory registers are reserved on a worker (15 R492). JOIN is a command of its own, for it needs
what the manager answers. -/
def ihxWrite (o : Nat) (v : Word) (s : State) : State :=
  if o = 0x000 then folioCfgWrite v s
  else if o = 0x004 then (if bitOf v 1 then s.leave else s)
  else if o = 0x014 then { s with ihx := { s.ihx with offloadFrames := fld v 7 0 } }
  else if s.ihx.role = 2 then s
  else if 0x200 ≤ o && o < 0x218 then
    let args := (List.range 6).map s.ihx.arg
    { s with ihx := { s.ihx with placeArgs := args.set ((o - 0x200) / 4) v } }
  else if o = 0x218 then placeCtlWrite v s
  else if o = 0x220 then { s with ihx := { s.ihx with dirSel := fld v 18 0 } }
  else s

/-- PRF_ registers (16 R497, R513, R524). Reserved bits of the policy keep zero (00 R17). -/
def prfWrite (o : Nat) (v : Word) (s : State) : State :=
  let setPolicy (i : Nat) (w : Word) : State :=
    if s.proof.locked then s else { s with proof := { s.proof with policy := s.proof.policy.set i w } }
  match o with
  | 0x00C => if bitOf v 0 then lockPolicy s else s
  | 0x010 => commitSvn v s
  | 0x018 => { s with proof := { s.proof with digestSel := fld v 3 0 } }
  | 0x100 => setPolicy 0 (v &&& 0x1FF)
  | 0x104 => setPolicy 1 (v &&& 0xFFFF)
  | _ => s

/-- ALM_ registers (17 R548, R551). -/
def almWrite (o : Nat) (v : Word) (s : State) : State :=
  let a := s.alm
  match o with
  | 0x02C =>
    let s := if bitOf v 0 then almAckWrite s else s
    if bitOf v 1 then almRewindWrite s else s
  | 0x030 => { s with alm := { a with ackSig := a.ackSig.set 0 v } }
  | 0x034 => { s with alm := { a with ackSig := a.ackSig.set 1 v } }
  | 0x038 => { s with alm := { a with ackSig := a.ackSig.set 2 v } }
  | 0x03C => { s with alm := { a with ackSig := a.ackSig.set 3 v } }
  | 0x040 => { s with alm := { a with ackSeqLo := v } }
  | 0x044 => { s with alm := { a with ackSeqHi := v } }
  | 0x048 => { s with alm := { a with ackKind := fld v 0 0 } }
  | _ => s

/-- AUD_ registers of direction k = 2n + d, and of group g (14 R447, R463). -/
def audWrite (o : Nat) (v : Word) (s : State) : State :=
  if o < 0x1000 then
    let k := o / 32
    let x := s.dirAt k
    match o % 32 with
    | 0x00 => if x.state = 0 then s.setDirAt k { x with cfg := v } else s
    | 0x04 => if x.state = 0 then s.setDirAt k { x with run := BitVec.ofNat 32 (max 64 (fld v 15 0) + 65536 * max 64 (fld v 31 16)) } else s
    | 0x08 => if x.state = 0 then s.setDirAt k { x with slots := v } else s
    | 0x0C => dirCtlWrite k v s
    | 0x18 => slotFlagClear k false v s
    | 0x1C => slotFlagClear k true v s
    | _ => s
  else if 0x1010 ≤ o && o < 0x1100 && o % 16 = 0 then groupCtlWrite ((o - 0x1000) / 16) v s
  else s

/-- MBX_ registers: SEND of a channel's message, and DATA, which the host writes as sender; while FULL is set the message stays (16 R516,
R525). -/
def mbxWrite (o : Nat) (v : Word) (s : State) : State :=
  if 0x100 ≤ o && o < 0x200 then
    let n := (o - 0x100) / 4
    if bitOf v 10 then mailboxSend 0 n (s.mailbox n).words s else s
  else if 0x1000 ≤ o && o < 0x2000 then
    let n := (o - 0x1000) / 64
    let m := s.mailbox n
    if m.sender != 0 then mailboxViolation 0 n s
    else if m.full then s
    else s.setMailbox n { m with words := m.words.set (o % 64 / 4) v }
  else s

/-- CNT_ registers (18 R574). -/
def cntWrite (o : Nat) (v : Word) (s : State) : State :=
  if o = 0 then cntCtlWrite v s
  else if 0x100 ≤ o && o < 0x500 && o % 32 = 0 then counterSelWrite ((o - 0x100) / 32) v s
  else if 0x10000 ≤ o && o < 0x15400 && o % 32 = 0 then counterSelWrite (32 + (o - 0x10000) / 32) v s
  else s

/-- RMK_ registers; a ring's RESUME is a command of its own, for it reads the doorbell entry (12 R368, R369). -/
def rmkWrite (o : Nat) (v : Word) (s : State) : State :=
  if o < 0x10000 then
    if s.anyRingOn then s else
    match o with
    | 0x0008 => { s with rmk := { s.rmk with dbLo := v &&& 0xFFFF0000 } }
    | 0x000C => { s with rmk := { s.rmk with dbHi := v } }
    | 0x0010 => { s with rmk := { s.rmk with dbValid := bitOf v 0 } }
    | _ => s
  else if o < 0x30000 then
    let n := (o - 0x10000) / 32
    let r := s.ring n
    let free (r : Ring) : State := if (s.ring n).enabled then s else s.setRing n r
    match o % 32 with
    | 0x00 => free { r with sqLo := v &&& 0xFFFFF000 }
    | 0x04 => free { r with sqHi := v }
    | 0x08 => free { r with cqLo := v &&& 0xFFFFF000 }
    | 0x0C => free { r with cqHi := v }
    | 0x10 => ringCfgWrite n v s
    | 0x14 => free { r with count := fld v 7 0, holdUs := fld v 23 8 }
    | _ => s
  else s

/-- A word of the staging window (19 R588). -/
def stageWrite (offset : Nat) (v : Word) (s : State) : State :=
  if s.stage.state ≤ 1 then { s with stage := { s.stage with mem := memStore s.stage.mem offset (leBytes 4 v.toNat), state := 1 } } else s

/-- A write to the register at a setup address; addresses outside a block are reserved (19 R591, R592). -/
def regWrite (a : Nat) (v : Word) (s : State) : State :=
  if a < 0x1000 then s
  else if a < 0x2000 then eslWrite (a - 0x1000) v s
  else if a < 0x3000 then (if a = 0x2000 then pwrCapWrite v s else s)
  else if a < 0x4000 then memRegWrite (a - 0x3000) v s
  else if a < 0x5000 then clkWrite (a - 0x4000) v s
  else if a < 0x6000 then ihxWrite (a - 0x5000) v s
  else if a < 0x7000 then prfWrite (a - 0x6000) v s
  else if a < 0x8000 then almWrite (a - 0x7000) v s
  else if a < 0x20000 then s
  else if a < 0x30000 then audWrite (a - 0x20000) v s
  else if a < 0x40000 then mbxWrite (a - 0x30000) v s
  else if a < 0x60000 then cntWrite (a - 0x40000) v s
  else if a < 0x80000 then s
  else if a < 0xC0000 then rmkWrite (a - 0x80000) v s
  else if a < 0x800000 then s
  else if a < 0x1000000 then stageWrite (a - 0x800000) v s
  else s

/-- An aligned 32-bit write that arrives on a port. -/
def wordWrite (port a : Nat) (v : Word) (s : State) : State := if s.writable port (s.accessOf a) then regWrite a v s else s

/-- A write that takes no effect: counted, but not while the register does not answer, and not where the port is untrained (12 R363, R365,
19 R583). -/
def dropWrite (port a : Nat) (s : State) : State :=
  if s.readable port (s.accessOf (a / 4 * 4)) then { s with rmk := { s.rmk with dropped := satAdd s.rmk.dropped 1 0xFFFF } } else s

/-- MAINTENANCE_WRITE: an aligned 32-bit write acts, an aligned 64-bit write is two, lower address first; any other is dropped and counted
(12 R363). -/
def execMaintenanceWrite (port addr width : Nat) (value : DWord) (s : State) : Host.Outcome State Fault Refusal :=
  .next (
    if width = 32 && addr % 4 = 0 then wordWrite port addr (value.setWidth 32) s
    else if width = 64 && addr % 8 = 0 then wordWrite port (addr + 4) ((value >>> 32).setWidth 32) (wordWrite port addr (value.setWidth 32) s)
    else dropWrite port addr s)

/-! ### Reads -/

/-- A field of `w` bits from bit `lo` on: whatever a model field holds, no reserved bit reads other than zero (00 R16). -/
def slice (lo w v : Nat) : Nat := v % 2 ^ w * 2 ^ lo

/-- CAP_ registers (03 R79, 01 R22). -/
def State.capRead (s : State) (o : Nat) : Nat :=
  let c := s.cap
  if 0x100 ≤ o && o < 0x250 then
    let n := (o - 0x100) / 4
    slice 0 11 (c.fieldCores.getD n 0) + slice 11 4 (c.fieldBurin.getD n 0)
  else if 0x030 ≤ o && o < 0x04C then slice 0 16 (s.part.coeff.getD ((o - 0x030) / 4) 0)
  else match o with
    | 0x000 => 0x100
    | 0x004 => 0x8016 + slice 16 8 s.part.stepping
    | 0x008 => slice 0 17 c.hatchCores
    | 0x00C => slice 0 10 c.burinUnits
    | 0x010 => 84 + slice 7 11 c.minFieldCores
    | 0x014 => 320 + 2 ^ 10 * 64
    | 0x018 => 0xFF
    | 0x01C => 0x1F + 2 ^ 8 * 0xF
    | 0x020 => slice 0 6 c.channels + slice 6 14 c.speed
    | 0x024 => slice 0 12 c.sizeGB
    | 0x028 => slice 0 16 c.hostPath
    | 0x02C => slice 0 16 s.part.floorW
    | _ => 0

/-- ESL_BOOT_STATE.STATE (19 R581). -/
def Phase.code : Phase → Nat
  | .reset => 0
  | .wake => 1
  | .verify => 2
  | .cores => 3
  | .memory => 4
  | .measure => 5
  | .ready => 6
  | .fwRefused => 7
  | .faulted => 8

/-- ESL_ registers (19 R593, 11 R333 R355, 18 R568). ESL_TIMEBASE_CFG reads the setting that the next Frame tick leaves (log entry 36). -/
def State.eslRead (s : State) (o : Nat) : Nat :=
  let b := s.boot
  let e := s.evt
  match o with
  | 0x000 => slice 0 4 b.phase.code + slice 4 2 b.cause
  | 0x004 => bit (b.phase == .ready) 0 + bit s.tb.running 1 + bit s.tb.refused 2 + bit (s.tb.running && s.cap.hatchCores < 80000) 3
      + bit (s.mem.trainDone && s.channels.length < 24) 4
  | 0x008 =>
    let c := s.tb.pendingCfg.getD (s.tb.season, s.tb.osc)
    slice 0 2 c.2 + slice 2 2 c.1
  | 0x00C => s.tb.frame.toNat % 2 ^ 32
  | 0x010 => s.tb.frameHi.toNat
  | 0x018 => slice 0 24 s.stage.len
  | 0x020 => slice 0 3 s.stage.state + slice 3 3 s.stage.refuse + slice 6 6 s.stage.svn
  | 0x024 => slice 0 32 b.uptimeMs
  | 0x040 =>
    let c := s.acct.next.getD (s.acct.interval, s.acct.jobRecords)
    slice 0 16 c.1 + bit c.2 16
  | 0x044 => slice 0 10 s.rebind.job + bit s.rebind.done 11 + bit s.rebind.refused 12
  | 0x080 => e.baseLo.toNat
  | 0x084 => e.baseHi.toNat
  | 0x088 => slice 0 4 e.order + bit e.enable 4 + slice 5 11 e.vector + slice 16 8 e.logRate + slice 24 8 e.tracePct
  | 0x08C => slice 0 16 e.coalesce
  | 0x090 => e.pi.toNat
  | 0x094 => e.ci.toNat
  | 0x098 => bit e.logEn 0 + bit e.traceEn 1
  | 0x09C => bit s.fault.faulted 0 + slice 1 7 s.fault.cause + slice 8 4 (s.fault.easelOut.map (2 ^ ·)).sum + slice 12 7 s.fieldsOut
  | _ => 0

/-- PWR_ registers (19 R594). -/
def State.pwrRead (s : State) (o : Nat) : Nat :=
  match o with
  | 0x000 => slice 0 7 s.pwr.capSteps
  | 0x004 => bit s.boot.warning 0 + bit s.boot.stretched 1 + bit s.pwr.capExceeded 2 + slice 16 16 s.boot.busbar
  | 0x008 => slice 0 20 s.pwr.measured
  | 0x00C => slice 0 20 s.liveWatts
  | 0x010 => slice 0 16 s.pwr.warnCount
  | _ => 0

/-- MEM_ registers (10 R322). -/
def State.memRegRead (s : State) (o : Nat) : Nat :=
  let m := s.mem
  let policy := m.policyNext.getD m.policy
  if 0x100 ≤ o && o < 0x180 then
    match tabGet m.chans ((o - 0x100) / 4) with
    | some c => slice 0 3 c.state + slice 8 8 c.rdMargin + slice 16 8 c.wrMargin
    | none => 0
  else if 0x180 ≤ o && o < 0x200 then slice 0 32 (((tabGet m.chans ((o - 0x180) / 4)).map (·.ce)).getD 0)
  else match o with
    | 0x000 => bit m.trainDone 0 + bit m.slow 1 + bit (s.evt.table.any fun k => k.code = 0x07) 2
    | 0x004 => bit s.nv.slowPolicy 0
    | 0x008 => slice 0 5 m.scrubPeriod
    | 0x00C => slice 0 16 m.ceThresh
    | 0x010 => slice 0 16 m.ueCount
    | 0x014 => slice 0 2 policy.defaultClass + bit policy.allowPin 2 + slice 4 8 policy.autoMin + slice 12 5 policy.share
    | 0x018 => slice 0 16 (m.pinCapNext.getD m.pinCap)
    | 0x01C => slice 0 16 <| ceilDiv ((s.models.map fun x => if x.2.res.cores.isEmpty then 0 else imgWeightBytes x.2.image).sum) (2 ^ 20)
    | _ => 0

/-- CLK_ registers (14 R462). -/
def State.clkRead (s : State) (o : Nat) : Nat :=
  if 0x40 ≤ o then 0 else
  let x := s.oscAt (o / 16)
  match o % 16 with
  | 0x0 => slice 0 2 x.mode + slice 2 6 x.refLine + slice 8 1 x.refDir + slice 16 8 x.slew
  | 0x4 => unsigned 21 x.steer
  | 0x8 => bit x.locked 0 + bit x.hold 1 + bit x.cfgErr 2
  | _ => 0

/-- IHX_DIR_DATA of a directory entry (15 R492). -/
def dirData : Option DirEntry → Nat
  | none => 0
  | some e => bit true 0 + bit e.moving 1 + bit e.keep 2 + bit e.fill 3 + slice 4 3 e.rate + slice 8 12 e.session

/-- IHX_ registers (15 R492). -/
def State.ihxRead (s : State) (o : Nat) : Nat :=
  let x := s.ihx
  if 0x100 ≤ o && o < 0x140 then
    let p := s.ihxPort ((o - 0x100) / 4)
    bit p.trained 0 + slice 1 5 p.lanes + slice 6 5 p.peer + bit p.wiringErr 11 + bit p.secured 12 + slice 16 8 p.retrains
      + slice 24 8 p.authFail
  else if 0x200 ≤ o && x.role = 2 then 0
  else if 0x200 ≤ o && o < 0x218 then (x.arg ((o - 0x200) / 4)).toNat
  else match o with
    | 0x000 => slice 0 2 x.role + slice 2 5 x.member + slice 8 16 x.folioId.toNat
    | 0x008 => slice 0 3 x.state + bit x.cfgErr 3 + bit x.aligned 4 + bit x.holdover 5
    | 0x00C => slice 0 17 x.members
    | 0x010 => unsigned 16 (satInt 16 x.alignErr) + slice 16 16 (min x.delayNs 0xFFFF)
    | 0x014 => slice 0 8 x.offloadFrames
    | 0x018 => slice 0 16 x.xferActive
    | 0x218 => bit x.placeDone 1
    | 0x21C => slice 0 16 x.placeResult.toNat
    | 0x220 => slice 0 19 x.dirSel
    | 0x224 => dirData (tabGet x.directory x.dirSel)
    | _ => 0

/-- PRF_ registers (16 R524). -/
def State.prfRead (s : State) (o : Nat) : Nat :=
  let p := s.proof
  if 0x100 ≤ o && o < 0x140 then (p.policy.getD ((o - 0x100) / 4) 0).toNat
  else if 0x200 ≤ o && o < 0x500 then num s.part.certs (o - 0x200) 4
  else if 0x500 ≤ o && o < 0x600 then num p.group (o - 0x500) 4
  else match o with
    | 0x000 => bit p.fwOk 0 + bit p.locked 1 + bit s.mbx.locked 2 + bit p.debug 3 + slice 4 3 p.fwRefuse + bit p.gk.isSome 7
        + slice 8 6 s.part.rollback + slice 14 6 p.svn
    | 0x004 => s.part.serial.toNat % 2 ^ 32
    | 0x008 => slice 0 16 (s.part.serial.toNat / 2 ^ 32)
    | 0x014 => slice 0 13 s.sessions.length
    | 0x018 => slice 0 4 p.digestSel
    | 0x0FC => num p.mFw (4 * p.digestSel) 4
    | _ => 0

/-- ALM_ registers (17 R551). -/
def State.almRead (s : State) (o : Nat) : Nat :=
  let a := s.alm
  if 0x030 ≤ o && o < 0x040 then (a.ackSig.getD ((o - 0x030) / 4) 0).toNat
  else if 0x100 ≤ o && o < 0x140 then slice 0 16 (min (a.chanDw.getD ((o - 0x100) / 4) 0) 0xFFFF) + slice 16 10 a.chanDv
  else if 0x200 ≤ o && o < 0x240 then num (Config.shake256 a.fwImage 64) (o - 0x200) 4
  else if 0x240 ≤ o && o < 0x25C then slice 0 16 (a.coeff.getD ((o - 0x240) / 4) 0)
  else if 0x300 ≤ o && o < 0x400 then num Config.meterCert (o - 0x300) 4
  else match o with
    | 0x000 => bit a.running 0 + bit a.meteredStop 1 + bit a.lidOpen 2 + bit a.staged.isSome 3 + bit a.warnOpen 4
    | 0x004 => slice 0 32 a.tamper
    | 0x008 => a.audit.toNat % 2 ^ 32
    | 0x00C => a.auditHi.toNat
    | 0x010 => a.time.toNat % 2 ^ 32
    | 0x014 => a.timeHi.toNat
    | 0x018 => slice 0 16 a.minutes
    | 0x01C => slice 0 12 (a.freeBytes / 1024) + slice 12 12 a.auditFree
    | 0x020 => slice 0 16 (a.records.filter fun r => !r.acked).length
    | 0x024 => slice 0 20 a.powerW
    | 0x028 => slice 0 16 a.fwVersion
    | 0x02C => bit a.ackBusy 2 + slice 16 16 a.refused
    | 0x040 => a.ackSeqLo.toNat
    | 0x044 => a.ackSeqHi.toNat
    | 0x048 => slice 0 1 a.ackKind
    | _ => 0

/-- WAF_ registers (04 R148). -/
def State.wafRead (s : State) (o : Nat) : Nat :=
  if 0x1000 ≤ o && o < 0x6400 then (if o % 256 < 128 then s.wafCore ((o - 0x1000) / 256) (o % 256 / 4) else 0)
  else if 0x8000 ≤ o && o < 0xD400 then (if o % 256 < 128 then s.wafRouter ((o - 0x8000) / 256) (o % 256 / 4) else 0)
  else match o with
    | 0x0000 => slice 0 17 s.hatch.retiredCount
    | 0x0004 => (s.hatch.retireLast.map fun x => slice 0 7 x.field + slice 7 5 x.row + slice 12 5 x.col).getD 0
    | _ => 0

/-- AUD_ registers (14 R463). -/
def State.audRead (s : State) (o : Nat) : Nat :=
  if o < 0x1000 then
    let x := s.dirAt (o / 32)
    match o % 32 with
    | 0x00 => x.cfg.toNat
    | 0x04 => x.run.toNat
    | 0x08 => x.slots.toNat
    | 0x10 => slice 0 3 x.state + bit x.cfgErr 3 + bit x.busy 4 + slice 16 16 x.rate.toNat
    | 0x14 => slice 0 16 x.drift + slice 16 16 x.glitch
    | 0x18 => x.fill.toNat
    | 0x1C => x.hold.toNat
    | _ => 0
  else if 0x1010 ≤ o && o < 0x1100 then
    let g := s.groupAt ((o - 0x1000) / 16)
    match o % 16 with
    | 0x4 => slice 0 3 g.state + bit g.cfgErr 3 + bit g.busy 4
    | 0x8 => g.frame.toNat % 2 ^ 32
    | 0xC => g.hi.toNat
    | _ => 0
  else 0

/-- MBX_ registers: the host reads DATA of a channel that binds it (16 R525). -/
def State.mbxRead (s : State) (o : Nat) : Nat :=
  if o = 0 then bit s.mbx.locked 0 + slice 16 16 s.mbx.violations
  else if 0x100 ≤ o && o < 0x200 then
    let m := s.mailbox ((o - 0x100) / 4)
    slice 0 4 m.sender + slice 4 4 m.receiver + bit m.full 8 + bit m.refused 9
  else if 0x1000 ≤ o && o < 0x2000 then
    let m := s.mailbox ((o - 0x1000) / 64)
    if m.sender = 0 || m.receiver = 0 then (m.words.getD (o % 64 / 4) 0).toNat else 0
  else 0

/-- Registers of one event counter (18 R574). -/
def EvCounter.read (c : EvCounter) (o : Nat) : Nat :=
  match o with
  | 0x00 => slice 0 10 c.source + bit c.enable 10
  | 0x04 => c.count.toNat % 2 ^ 32
  | 0x08 => c.hi.toNat
  | 0x0C => c.snap.toNat % 2 ^ 32
  | 0x10 => c.snap.toNat / 2 ^ 32
  | _ => 0

/-- CNT_ registers (18 R574). -/
def State.cntRead (s : State) (o : Nat) : Nat :=
  if 0x100 ≤ o && o < 0x500 then (s.counter ((o - 0x100) / 32)).read (o % 32)
  else if 0x10000 ≤ o && o < 0x15400 then (s.counter (32 + (o - 0x10000) / 32)).read (o % 32)
  else match o with
    | 0x000 => bit s.cnt.snapDone 1
    | 0x004 => s.cnt.snapFrame.toNat % 2 ^ 32
    | 0x008 => s.cnt.snapFrame.toNat / 2 ^ 32
    | _ => 0

/-- RMK_PORT_p_STATUS (12 R368). -/
def Port.status (p : Port) : Nat := bit p.trained 0 + slice 1 4 p.lanes + slice 5 2 p.gen + slice 8 8 p.retrains + slice 16 16 p.payload

/-- RMK_ registers (12 R368). -/
def State.rmkRead (s : State) (o : Nat) : Nat :=
  if 0x10000 ≤ o && o < 0x30000 then
    let r := s.ring ((o - 0x10000) / 32)
    match o % 32 with
    | 0x00 => r.sqLo.toNat
    | 0x04 => r.sqHi.toNat
    | 0x08 => r.cqLo.toNat
    | 0x0C => r.cqHi.toNat
    | 0x10 => slice 0 4 r.sqOrder + slice 4 4 r.cqOrder + slice 8 1 r.port + bit r.enabled 10 + slice 11 11 r.vector
    | 0x14 => slice 0 8 r.count + slice 8 16 r.holdUs
    | 0x1C => r.status
    | _ => 0
  else match o with
    | 0x0000 => s.rmk.port0.status
    | 0x0004 => s.rmk.port1.status
    | 0x0008 => s.rmk.dbLo.toNat
    | 0x000C => s.rmk.dbHi.toNat
    | 0x0010 => bit s.rmk.dbValid 0
    | 0x0014 => slice 0 16 s.rmk.dropped + slice 16 16 s.rmk.kickIgnored
    | _ => 0

/-- The value of the register at an aligned setup address; reserved addresses, write-only bits and the staging window read zero (00 R16, 19
R588, R591). -/
def State.regRead (s : State) (a : Nat) : Nat :=
  if a < 0x1000 then s.capRead a
  else if a < 0x2000 then s.eslRead (a - 0x1000)
  else if a < 0x3000 then s.pwrRead (a - 0x2000)
  else if a < 0x4000 then s.memRegRead (a - 0x3000)
  else if a < 0x5000 then s.clkRead (a - 0x4000)
  else if a < 0x6000 then s.ihxRead (a - 0x5000)
  else if a < 0x7000 then s.prfRead (a - 0x6000)
  else if a < 0x8000 then s.almRead (a - 0x7000)
  else if a < 0x10000 then 0
  else if a < 0x20000 then s.wafRead (a - 0x10000)
  else if a < 0x30000 then s.audRead (a - 0x20000)
  else if a < 0x40000 then s.mbxRead (a - 0x30000)
  else if a < 0x60000 then s.cntRead (a - 0x40000)
  else if a < 0x80000 then 0
  else if a < 0xC0000 then s.rmkRead (a - 0x80000)
  else 0

/-- What the first of the two accesses of an aligned 64-bit read latches for the second (12 R363, 14 R463, 17 R551). -/
def State.readLatch (s : State) (a : Nat) : State :=
  if a = 0x7008 then latchAudit s
  else if a = 0x7010 then latchTime s
  else if 0x21010 ≤ a && a < 0x21100 && a % 16 = 8 then latchGroup ((a - 0x21000) / 16) s
  else s

/-- What a read of n bytes at a setup address answers on a port: all ones while its link is not trained, zeros where the register does not
answer, else the bytes from the registers that contain them; an aligned 64-bit read is two accesses, lower address first (12 R363, R365, 19
R583). -/
def State.maintRead (s : State) (port a n : Nat) : List Byte :=
  let second := if n = 8 && a % 8 = 0 then s.readLatch a else s
  (List.range n).map fun i =>
    let w := (a + i) / 4 * 4
    if !(s.port port).trained then 0xFF
    else if s.readable port (s.accessOf w) then (leBytes 4 ((if i < 4 then s else second).regRead w)).getD ((a + i) % 4) 0
    else 0

end Sys2Proof.Machine
end

