-- ==== Sys2Proof/Machine/Dispatch.lean ====
section
/-! DEFINITION. The meaning of every command: one arm per constructor of `Instr`. -/

namespace Sys2Proof.Machine

open Sys2Proof

/-- The effect of a command on everything but the queue. -/
def exec (i : Instr) (s : State) : Host.Outcome State Fault Refusal :=
  match i with
  | .coldStart volts => Sys2Proof.Machine.execColdStart volts s
  | .resetHoldEnd volts => Sys2Proof.Machine.execResetHoldEnd volts s
  | .wake ms => Sys2Proof.Machine.execWake ms s
  | .verify ms => Sys2Proof.Machine.execVerify ms s
  | .cores ms report => Sys2Proof.Machine.execCores ms report s
  | .memory ms chans => Sys2Proof.Machine.execMemory ms chans s
  | .measure ms => Sys2Proof.Machine.execMeasure ms s
  | .hostReset port value => Sys2Proof.Machine.execHostReset port value s
  | .supplyReset volts => Sys2Proof.Machine.execSupplyReset volts s
  | .supplyWarning volts => Sys2Proof.Machine.execSupplyWarning volts s
  | .supplyWarningEnd volts => Sys2Proof.Machine.execSupplyWarningEnd volts s
  | .thermalTrip => Sys2Proof.Machine.execThermalTrip s
  | .sampleTick => Sys2Proof.Machine.execSampleTick s
  | .frameTick watts => Sys2Proof.Machine.execFrameTick watts s
  | .tallyWindowEnd => Sys2Proof.Machine.execTallyWindowEnd s
  | .accountingIntervalEnd => Sys2Proof.Machine.execAccountingIntervalEnd s
  | .kick port value => Sys2Proof.Machine.execKick port value s
  | .doorbellRead ring sqPi cqCi hflags => Sys2Proof.Machine.execDoorbellRead ring sqPi cqCi hflags s
  | .descriptorFetch ring slots => Sys2Proof.Machine.execDescriptorFetch ring slots s
  | .sessionOpen ring seq request => Sys2Proof.Machine.execSessionOpen ring seq request s
  | .sessionClose ring seq => Sys2Proof.Machine.execSessionClose ring seq s
  | .modelLoad ring seq list image => Sys2Proof.Machine.execModelLoad ring seq list image s
  | .modelEvict ring seq => Sys2Proof.Machine.execModelEvict ring seq s
  | .streamOpen ring seq => Sys2Proof.Machine.execStreamOpen ring seq s
  | .streamCtrl ring seq => Sys2Proof.Machine.execStreamCtrl ring seq s
  | .featurePush ring seq => Sys2Proof.Machine.execFeaturePush ring seq s
  | .featurePacket ring seq bytes => Sys2Proof.Machine.execFeaturePacket ring seq bytes s
  | .featurePushCommit ring seq => Sys2Proof.Machine.execFeaturePushCommit ring seq s
  | .audioPull ring seq => Sys2Proof.Machine.execAudioPull ring seq s
  | .audioDelivery stream samples => Sys2Proof.Machine.execAudioDelivery stream samples s
  | .streamClose ring seq => Sys2Proof.Machine.execStreamClose ring seq s
  | .adaptJob ring seq phase => Sys2Proof.Machine.execAdaptJob ring seq phase s
  | .transferOut ring seq => Sys2Proof.Machine.execTransferOut ring seq s
  | .transferIn ring seq => Sys2Proof.Machine.execTransferIn ring seq s
  | .transferPartnerTimeout ring seq => Sys2Proof.Machine.execTransferPartnerTimeout ring seq s
  | .abort ring seq => Sys2Proof.Machine.execAbort ring seq s
  | .fence ring seq => Sys2Proof.Machine.execFence ring seq s
  | .nop ring seq => Sys2Proof.Machine.execNop ring seq s
  | .completionWrite ring => Sys2Proof.Machine.execCompletionWrite ring s
  | .cqStall ring => Sys2Proof.Machine.execCqStall ring s
  | .msixNotify ring holdElapsed => Sys2Proof.Machine.execMsixNotify ring holdElapsed s
  | .ringEnable port ring value => Sys2Proof.Machine.execRingEnable port ring value s
  | .ringResume port ring value sqPi cqCi hflags => Sys2Proof.Machine.execRingResume port ring value sqPi cqCi hflags s
  | .ramokLinkTrain port lanes gen adapterReset => Sys2Proof.Machine.execRamokLinkTrain port lanes gen adapterReset s
  | .ramokLinkLost port => Sys2Proof.Machine.execRamokLinkLost port s
  | .maintenanceWrite port addr width value => Sys2Proof.Machine.execMaintenanceWrite port addr width value s
  | .eslFrameCntLoRead port => Sys2Proof.Machine.execEslFrameCntLoRead port s
  | .eslTimebaseCfgWrite port value => Sys2Proof.Machine.execEslTimebaseCfgWrite port value s
  | .eslRebind port value => Sys2Proof.Machine.execEslRebind port value s
  | .eslAcctCfgWrite port value => Sys2Proof.Machine.execEslAcctCfgWrite port value s
  | .pwrCapWrite port value => Sys2Proof.Machine.execPwrCapWrite port value s
  | .strokeIssue field core job stroke => Sys2Proof.Machine.execStrokeIssue field core job stroke s
  | .safePoint core report => Sys2Proof.Machine.execSafePoint core report s
  | .signal core pair ctr n target => Sys2Proof.Machine.execSignal core pair ctr n target s
  | .remoteSignal source target => Sys2Proof.Machine.execRemoteSignal source target s
  | .wait core pair ctr n => Sys2Proof.Machine.execWait core pair ctr n s
  | .waitTimeout core => Sys2Proof.Machine.execWaitTimeout core s
  | .coreCheckFailure core unit => Sys2Proof.Machine.execCoreCheckFailure core unit s
  | .coreTakeover core spare => Sys2Proof.Machine.execCoreTakeover core spare s
  | .coreSelfTest core passed => Sys2Proof.Machine.execCoreSelfTest core passed s
  | .plateUncorrectable core word => Sys2Proof.Machine.execPlateUncorrectable core word s
  | .plateScrub core corrected => Sys2Proof.Machine.execPlateScrub core corrected s
  | .flitCrcRetry link flit => Sys2Proof.Machine.execFlitCrcRetry link flit s
  | .meshLaneHalf link => Sys2Proof.Machine.execMeshLaneHalf link s
  | .fieldOut field => Sys2Proof.Machine.execFieldOut field s
  | .easelFailover easel => Sys2Proof.Machine.execEaselFailover easel s
  | .moduleFault cause => Sys2Proof.Machine.execModuleFault cause s
  | .engineEntryIssue core engine job stroke entry part => Sys2Proof.Machine.execEngineEntryIssue core engine job stroke entry part s
  | .transferComplete core engine => Sys2Proof.Machine.execTransferComplete core engine s
  | .chainGrant core job stroke entry pred => Sys2Proof.Machine.execChainGrant core job stroke entry pred s
  | .chainDataArrival core => Sys2Proof.Machine.execChainDataArrival core s
  | .dramService channel => Sys2Proof.Machine.execDramService channel s
  | .dramCorrectedRead channel addr => Sys2Proof.Machine.execDramCorrectedRead channel addr s
  | .dramUncorrectableRead addr => Sys2Proof.Machine.execDramUncorrectableRead addr s
  | .dramScrub channel => Sys2Proof.Machine.execDramScrub channel s
  | .refresh channel => Sys2Proof.Machine.execRefresh channel s
  | .promotion handle => Sys2Proof.Machine.execPromotion handle s
  | .demotion handle => Sys2Proof.Machine.execDemotion handle s
  | .frost job live => Sys2Proof.Machine.execFrost job live s
  | .liveFrost job => Sys2Proof.Machine.execLiveFrost job s
  | .thaw job => Sys2Proof.Machine.execThaw job s
  | .remoteReplyParked job tag data => Sys2Proof.Machine.execRemoteReplyParked job tag data s
  | .jobTearDown job rule => Sys2Proof.Machine.execJobTearDown job rule s
  | .keepRestart stream => Sys2Proof.Machine.execKeepRestart stream s
  | .sampleStart unit => Sys2Proof.Machine.execSampleStart unit s
  | .sampleHandOff unit at_ cycles => Sys2Proof.Machine.execSampleHandOff unit at_ cycles s
  | .outputStageWrite stream => Sys2Proof.Machine.execOutputStageWrite stream s
  | .sampleMirror stream => Sys2Proof.Machine.execSampleMirror stream s
  | .outputScriberPiece stream => Sys2Proof.Machine.execOutputScriberPiece stream s
  | .burinTakeover unit replacement => Sys2Proof.Machine.execBurinTakeover unit replacement s
  | .burinContextMove stream unit => Sys2Proof.Machine.execBurinContextMove stream unit s
  | .lineStart port line dir value => Sys2Proof.Machine.execLineStart port line dir value s
  | .runInComplete line dir => Sys2Proof.Machine.execRunInComplete line dir s
  | .lineStop port line dir value => Sys2Proof.Machine.execLineStop port line dir value s
  | .runOutComplete line dir => Sys2Proof.Machine.execRunOutComplete line dir s
  | .groupStart port group value => Sys2Proof.Machine.execGroupStart port group value s
  | .groupStop port group value => Sys2Proof.Machine.execGroupStop port group value s
  | .audGroupFrameLoRead port group => Sys2Proof.Machine.execAudGroupFrameLoRead port group s
  | .driftSlip line dir low => Sys2Proof.Machine.execDriftSlip line dir low s
  | .clockStop line dir => Sys2Proof.Machine.execClockStop line dir s
  | .fsGlitch line dir bclks wrongLength => Sys2Proof.Machine.execFsGlitch line dir bclks wrongLength s
  | .rateOutOfRange line dir rate => Sys2Proof.Machine.execRateOutOfRange line dir rate s
  | .holdoverReturn line dir => Sys2Proof.Machine.execHoldoverReturn line dir s
  | .captureWord line dir slot bits => Sys2Proof.Machine.execCaptureWord line dir slot bits s
  | .steeringUpdate osc elapsedMs => Sys2Proof.Machine.execSteeringUpdate osc elapsedMs s
  | .clkOscCfgWrite port osc value => Sys2Proof.Machine.execClkOscCfgWrite port osc value s
  | .slotFlagClear port line dir hold value => Sys2Proof.Machine.execSlotFlagClear port line dir hold value s
  | .join port value season counter => Sys2Proof.Machine.execJoin port value season counter s
  | .leave port value => Sys2Proof.Machine.execLeave port value s
  | .hello port msg => Sys2Proof.Machine.execHello port msg s
  | .linkKeyExchange port msg => Sys2Proof.Machine.execLinkKeyExchange port msg s
  | .groupKeyDelivery gk statement => Sys2Proof.Machine.execGroupKeyDelivery gk statement s
  | .alignmentSymbol port symbol offsetNs delayNs => Sys2Proof.Machine.execAlignmentSymbol port symbol offsetNs delayNs s
  | .alignmentLoss => Sys2Proof.Machine.execAlignmentLoss s
  | .counterAdvance d => Sys2Proof.Machine.execCounterAdvance d s
  | .detached => Sys2Proof.Machine.execDetached s
  | .ihlauxPortTrain port lanes => Sys2Proof.Machine.execIhlauxPortTrain port lanes s
  | .ihlauxAuthFail port => Sys2Proof.Machine.execIhlauxAuthFail port s
  | .fillReadTimeout job tag => Sys2Proof.Machine.execFillReadTimeout job tag s
  | .fillOffload job act => Sys2Proof.Machine.execFillOffload job act s
  | .directoryReport member report => Sys2Proof.Machine.execDirectoryReport member report s
  | .placement port value => Sys2Proof.Machine.execPlacement port value s
  | .offer msg => Sys2Proof.Machine.execOffer msg s
  | .accept transferId => Sys2Proof.Machine.execAccept transferId s
  | .envelope msg => Sys2Proof.Machine.execEnvelope msg s
  | .imported transferId source dest session => Sys2Proof.Machine.execImported transferId source dest session s
  | .owner transferId destination => Sys2Proof.Machine.execOwner transferId destination s
  | .policyLock port value => Sys2Proof.Machine.execPolicyLock port value s
  | .commitSvn port value => Sys2Proof.Machine.execCommitSvn port value s
  | .prfFwDigestSelWrite port value => Sys2Proof.Machine.execPrfFwDigestSelWrite port value s
  | .mailboxSend master channel words => Sys2Proof.Machine.execMailboxSend master channel words s
  | .mailboxLastWordRead master channel word => Sys2Proof.Machine.execMailboxLastWordRead master channel word s
  | .fwStageWrite port offset value => Sys2Proof.Machine.execFwStageWrite port offset value s
  | .fwStageCommit port value => Sys2Proof.Machine.execFwStageCommit port value s
  | .fwStageClear port value => Sys2Proof.Machine.execFwStageClear port value s
  | .shuntSample volts milliwatts => Sys2Proof.Machine.execShuntSample volts milliwatts s
  | .warningSpan volts micros => Sys2Proof.Machine.execWarningSpan volts micros s
  | .intervalBoundary => Sys2Proof.Machine.execIntervalBoundary s
  | .bind session mseq tid frame => Sys2Proof.Machine.execBind session mseq tid frame s
  | .unbind session mseq frame => Sys2Proof.Machine.execUnbind session mseq frame s
  | .tallyA session mseq counts => Sys2Proof.Machine.execTallyA session mseq counts s
  | .tallyB session mseq counts => Sys2Proof.Machine.execTallyB session mseq counts s
  | .windowEnd mseq frame sessions => Sys2Proof.Machine.execWindowEnd mseq frame sessions s
  | .ack path kind seq sig => Sys2Proof.Machine.execAck path kind seq sig s
  | .rewind mseq => Sys2Proof.Machine.execRewind mseq s
  | .exportPart => Sys2Proof.Machine.execExportPart s
  | .almAckCtlAck port value => Sys2Proof.Machine.execAlmAckCtlAck port value s
  | .almAckCtlRewind port value => Sys2Proof.Machine.execAlmAckCtlRewind port value s
  | .almAuditLoRead port => Sys2Proof.Machine.execAlmAuditLoRead port s
  | .almTimeLoRead port => Sys2Proof.Machine.execAlmTimeLoRead port s
  | .read => Sys2Proof.Machine.execRead s
  | .setTime seconds => Sys2Proof.Machine.execSetTime seconds s
  | .setInterval minutes => Sys2Proof.Machine.execSetInterval minutes s
  | .setCoeff coeff => Sys2Proof.Machine.execSetCoeff coeff s
  | .stageFw image => Sys2Proof.Machine.execStageFw image s
  | .lidOpen => Sys2Proof.Machine.execLidOpen s
  | .lidClose => Sys2Proof.Machine.execLidClose s
  | .almanacInputLoss => Sys2Proof.Machine.execAlmanacInputLoss s
  | .powerGap seconds => Sys2Proof.Machine.execPowerGap seconds s
  | .eventRingEnable port value => Sys2Proof.Machine.execEventRingEnable port value s
  | .alarm code source detail => Sys2Proof.Machine.execAlarm code source detail s
  | .coalesceWindowEnd code source => Sys2Proof.Machine.execCoalesceWindowEnd code source s
  | .log code source detail => Sys2Proof.Machine.execLog code source detail s
  | .logSummary source => Sys2Proof.Machine.execLogSummary source s
  | .trace code source detail => Sys2Proof.Machine.execTrace code source detail s
  | .armSnap port value => Sys2Proof.Machine.execArmSnap port value s
  | .clearAll port value => Sys2Proof.Machine.execClearAll port value s
  | .counterSourceWrite port counter value => Sys2Proof.Machine.execCounterSourceWrite port counter value s
  | .counterLoRead port counter => Sys2Proof.Machine.execCounterLoRead port counter s
  | .echoSymbol port roundTripNs => Sys2Proof.Machine.execEchoSymbol port roundTripNs s
  | .confirm transferId frame => Sys2Proof.Machine.execConfirm transferId frame s
  | .refuse transferId detail => Sys2Proof.Machine.execRefuse transferId detail s
  | .handOffReport ring seq samples => Sys2Proof.Machine.execHandOffReport ring seq samples s
  | .creditReturn port vc fill => Sys2Proof.Machine.execCreditReturn port vc fill s
  | .remoteReadRequest port job tag age offset bytes => Sys2Proof.Machine.execRemoteReadRequest port job tag age offset bytes s

end Sys2Proof.Machine
end

