-- ==== Sys2Proof/WellFormed.lean ====
section
/-! DEFINITION. Which operands a command may carry: the numbers a port, ring, core, line or identifier can have (01 R21,
12 R359 R366, 04 R148, 14 R432 R451 R462, 15 R464, 16 R514 R516, 18 R573). A command outside these ranges names nothing the
module has. -/

namespace Sys2Proof.WellFormed

open Sys2Proof

/-- One of the two Ramok ports (12 R359). -/
def port (p : Nat) : Bool := p < 2
/-- One of the 4,096 ring pairs (12 R366). -/
def ring (n : Nat) : Bool := n < 4096
/-- A core number: field times 1,024 plus logical number (04 R148, R150). -/
def core (c : Nat) : Bool := c < 84 * 1024
/-- A field number (04 R148). -/
def field (f : Nat) : Bool := f < 84
/-- A Burin unit: field times 8 plus site (04 R148). -/
def unit (u : Nat) : Bool := u < 84 * 8
/-- A DRAM channel (10 R293). -/
def channel (c : Nat) : Bool := c < 32
/-- A line and direction (14 R432). -/
def lineDir (n d : Nat) : Bool := n < 64 && d < 2
/-- A start group (14 R451). -/
def group (g : Nat) : Bool := 1 ≤ g && g ≤ 15
/-- An audio oscillator (14 R462). -/
def osc (x : Nat) : Bool := x < 4
/-- An Ihlaux port (15 R464). -/
def ihx (p : Nat) : Bool := p < 16
/-- A mailbox channel (16 R514). -/
def mailbox (c : Nat) : Bool := c < 64
/-- A mailbox master (00 R22): host, Easel 0 to 3, Proof, Almanac, Folio manager, debug. -/
def master (m : Nat) : Bool := m < 9
/-- An event counter: module counter below 32, else 32 + 8 field + counter (18 R573). -/
def counter (n : Nat) : Bool := n < 32 + 84 * 8
/-- A stream ID (00 R21). -/
def stream (s : Nat) : Bool := s < 16384
/-- A session ID (00 R21). -/
def session (s : Nat) : Bool := s < 4096
/-- A job ID (00 R21). -/
def job (j : Nat) : Bool := j < 1024
/-- A model handle (00 R21). -/
def handle (h : Nat) : Bool := h < 2 ^ 20
/-- The SOURCE of an event record (18 R569). -/
def source (x : Nat) : Bool := x < 65536
/-- A semaphore pair and count (04 R133, R134). -/
def semaphore (pair n : Nat) : Bool := pair < 256 && 1 ≤ n && n ≤ 255
/-- A member named in a move of a Fill job (15 R468, R482). -/
def offload (a : OffloadAct) : Bool :=
  match a with
  | .move m => m < 17
  | .arrive o => o.home < 17
  | _ => true
/-- A key of a save area names a row, or 65,535 for a tensor that is not per-stream, whose step is 0 (03 R82, 11 R337). -/
def key (k : ExtentKey) : Bool := k.row < 256 || (k.row = 65535 && k.step = 0)
/-- What an uncorrectable word holds (04 R131): a job, handle or stream the module can have. -/
def plateWord (w : PlateWord) : Bool :=
  match w with
  | .window j h _ => job j && handle h
  | .accumulator j | .shadow j => job j
  | .second s => stream s
  | .weights _ _ | .system => true
/-- A core site (04 R148). -/
def site (x : Site) : Bool := field x.field && x.row < 32 && x.col < 32

end Sys2Proof.WellFormed

namespace Sys2Proof

/-- A command whose operands are in range. -/
def Instr.wf : Instr → Bool
  | .coldStart _ | .resetHoldEnd _ | .wake _ | .verify _ | .measure _ | .supplyReset _ | .supplyWarning _
  | .supplyWarningEnd _ | .thermalTrip | .sampleTick | .frameTick _ | .tallyWindowEnd | .accountingIntervalEnd => true
  | .cores _ r => r.cores.all WellFormed.site && r.burins.all (fun b => WellFormed.field b.1 && b.2 < 8)
      && r.controllers.all WellFormed.field && r.easels.all (· < 4)
  | .memory _ chans => chans.length = 32
  | .hostReset p _ | .eslFrameCntLoRead p | .eslTimebaseCfgWrite p _ | .eslRebind p _ | .eslAcctCfgWrite p _
  | .pwrCapWrite p _ | .ramokLinkLost p => WellFormed.port p
  | .kick p _ => WellFormed.port p
  | .ramokLinkTrain p lanes gen _ => WellFormed.port p && (lanes = 8 || lanes = 4 || lanes = 0) && gen < 8
  | .maintenanceWrite p addr width _ => WellFormed.port p && addr < 2 ^ 24 && width ≤ 64
  | .doorbellRead r _ _ _ => WellFormed.ring r
  | .descriptorFetch r slots => WellFormed.ring r && 1 ≤ slots.length && slots.length ≤ 16 && slots.all (·.length = 64)
  | .sessionOpen r _ request => WellFormed.ring r && request.length = 386
  | .sessionClose r _ | .modelLoad r _ _ _ | .modelEvict r _ | .streamOpen r _ | .streamCtrl r _ | .featurePush r _
  | .featurePacket r _ _ | .featurePushCommit r _ | .audioPull r _ | .streamClose r _ | .adaptJob r _ _
  | .transferOut r _ | .transferIn r _ | .transferPartnerTimeout r _ | .abort r _ | .fence r _ | .nop r _
  | .completionWrite r | .cqStall r | .msixNotify r _ | .handOffReport r _ _ => WellFormed.ring r
  | .audioDelivery s _ => WellFormed.stream s
  | .ringEnable p r _ => WellFormed.port p && WellFormed.ring r
  | .ringResume p r _ _ _ _ => WellFormed.port p && WellFormed.ring r
  | .strokeIssue f c j _ => WellFormed.field f && WellFormed.core c && WellFormed.job j
  | .coreSelfTest c _ => c < 84 * 1024 + 84 * 8
  | .safePoint c _ | .waitTimeout c | .plateScrub c _
  | .transferComplete c _ => WellFormed.core c
  | .engineEntryIssue c _ j _ _ _ => WellFormed.core c && WellFormed.job j
  | .chainGrant c j _ _ p => WellFormed.core c && WellFormed.job j && WellFormed.core p
  | .chainDataArrival c => WellFormed.core c
  | .signal c pair _ n target => WellFormed.core c && WellFormed.semaphore pair n && WellFormed.core target
  | .remoteSignal a b => WellFormed.core a && WellFormed.core b
  | .wait c pair _ n => WellFormed.core c && WellFormed.semaphore pair n
  | .coreCheckFailure c _ => WellFormed.core c
  | .coreTakeover a b => WellFormed.core a && WellFormed.core b
  | .plateUncorrectable c word => WellFormed.core c && WellFormed.plateWord word
  | .flitCrcRetry .. | .meshLaneHalf _ => true
  | .fieldOut f => WellFormed.field f
  | .easelFailover e => e < 4
  | .moduleFault c => 1 ≤ c && c < 16
  | .dramService c | .dramCorrectedRead c _ | .dramScrub c | .refresh c => WellFormed.channel c
  | .dramUncorrectableRead _ => true
  | .promotion h | .demotion h => WellFormed.handle h
  | .frost j live => WellFormed.job j && live.all WellFormed.key
  | .liveFrost j | .thaw j | .remoteReplyParked j _ _ | .jobTearDown j _ => WellFormed.job j
  | .keepRestart s => WellFormed.stream s
  | .sampleStart u | .sampleHandOff u _ _ => WellFormed.unit u
  | .outputStageWrite s | .sampleMirror s | .outputScriberPiece s => WellFormed.stream s
  | .burinTakeover a b => WellFormed.unit a && WellFormed.unit b
  | .burinContextMove s u => WellFormed.stream s && WellFormed.unit u
  | .lineStart p n d _ | .lineStop p n d _ | .slotFlagClear p n d _ _ => WellFormed.port p && WellFormed.lineDir n d
  | .runInComplete n d | .runOutComplete n d | .driftSlip n d _ | .clockStop n d | .fsGlitch n d _ _
  | .rateOutOfRange n d _ | .holdoverReturn n d => WellFormed.lineDir n d
  | .captureWord n d slot _ => WellFormed.lineDir n d && slot < 32
  | .groupStart p g _ | .groupStop p g _ => WellFormed.port p && WellFormed.group g
  | .audGroupFrameLoRead p g => WellFormed.port p && WellFormed.group g
  | .steeringUpdate x _ => WellFormed.osc x
  | .clkOscCfgWrite p x _ => WellFormed.port p && WellFormed.osc x
  | .join p _ season _ => WellFormed.port p && season < 4
  | .leave p _ | .placement p _ | .policyLock p _ | .commitSvn p _ | .prfFwDigestSelWrite p _ | .fwStageCommit p _
  | .fwStageClear p _ | .almAckCtlAck p _ | .almAckCtlRewind p _ | .almAuditLoRead p | .almTimeLoRead p
  | .eventRingEnable p _ | .armSnap p _ | .clearAll p _ => WellFormed.port p
  | .fwStageWrite p offset _ => WellFormed.port p && offset < 2 ^ 23 && offset % 4 = 0
  | .hello p m => WellFormed.ihx p && m.member < 17
  | .linkKeyExchange p m => WellFormed.ihx p && m.x448Pub.length = 56 && m.nonce.length = 32
  | .groupKeyDelivery gk _ => gk.length = 56
  | .alignmentSymbol p m _ _ => WellFormed.ihx p && m.season < 4
  | .ihlauxAuthFail p | .echoSymbol p _ => WellFormed.ihx p
  | .ihlauxPortTrain p lanes => WellFormed.ihx p && (lanes = 16 || lanes = 8 || lanes = 4 || lanes = 0)
  | .creditReturn p vc _ => WellFormed.ihx p && (vc = 1 || vc = 2)
  | .remoteReadRequest p j tag age _ _ => WellFormed.ihx p && WellFormed.job j && tag < 2 ^ 32 && age < 8
  | .alignmentLoss | .counterAdvance _ | .detached => true
  | .fillReadTimeout j tag => WellFormed.job j && tag < 2 ^ 32
  | .fillOffload j act => WellFormed.job j && WellFormed.offload act
  | .directoryReport m _ => m < 17
  | .offer m => m.source < 17 && m.target < 17
  | .accept _ | .envelope _ | .owner _ _ | .confirm _ _ | .refuse _ _ => true
  | .imported _ a b sess => a < 278528 && b < 278528 && WellFormed.session sess
  | .mailboxSend m c words => WellFormed.master m && WellFormed.mailbox c && 1 ≤ words.length && words.length ≤ 16
  | .mailboxLastWordRead m c w => WellFormed.master m && WellFormed.mailbox c && w < 16
  | .shuntSample _ p => p.length = 16
  | .warningSpan _ _ | .intervalBoundary | .exportPart | .rewind _ | .read | .setTime _ | .setInterval _ | .setCoeff _
  | .stageFw _ | .lidOpen | .lidClose | .almanacInputLoss | .powerGap _ => true
  | .bind sess _ tid _ => WellFormed.session sess && tid.length = 16
  | .unbind sess _ _ => WellFormed.session sess
  | .tallyA sess _ counts => WellFormed.session sess && counts.length = 7
  | .tallyB sess _ counts => WellFormed.session sess && counts.length = 7
  | .windowEnd _ _ n => n ≤ 4096
  | .ack _ kind _ sig => kind < 2 && sig.length = 16
  | .alarm _ x _ | .coalesceWindowEnd _ x | .log _ x _ | .logSummary x | .trace _ x _ => WellFormed.source x
  | .counterSourceWrite p n _ | .counterLoRead p n => WellFormed.port p && WellFormed.counter n

end Sys2Proof
end

