-- ==== Sys2Proof/Safety.lean ====
section
/-! DEFINITION. What counts as a safe run, in the terms the statements use: which blocks of the state a command leaves alone, what
every state that a step reaches keeps, and which commands report a supply the module is not designed to survive. -/

namespace Sys2Proof.Machine

open Sys2Proof

/-! ### Frames -/

/-- The blocks of the state, one for each field of `State`. -/
inductive Block where
  | boot | nv | part | stage | tb | cap | pwr | mem | dram | rmk | sessions | models | nextHandle | streams | jobs
  | hatch | burin | lines | ihx | proof | mbx | alm | evt | fault | cnt | acct | rebind | tallies | mseqOut | almSent
  | host | free | pending
  deriving DecidableEq, Repr

/-- Whether two states agree on a block. -/
def State.same (s t : State) : Block → Prop
  | .boot => t.boot = s.boot
  | .nv => t.nv = s.nv
  | .part => t.part = s.part
  | .stage => t.stage = s.stage
  | .tb => t.tb = s.tb
  | .cap => t.cap = s.cap
  | .pwr => t.pwr = s.pwr
  | .mem => t.mem = s.mem
  | .dram => t.dram = s.dram
  | .rmk => t.rmk = s.rmk
  | .sessions => t.sessions = s.sessions
  | .models => t.models = s.models
  | .nextHandle => t.nextHandle = s.nextHandle
  | .streams => t.streams = s.streams
  | .jobs => t.jobs = s.jobs
  | .hatch => t.hatch = s.hatch
  | .burin => t.burin = s.burin
  | .lines => t.lines = s.lines
  | .ihx => t.ihx = s.ihx
  | .proof => t.proof = s.proof
  | .mbx => t.mbx = s.mbx
  | .alm => t.alm = s.alm
  | .evt => t.evt = s.evt
  | .fault => t.fault = s.fault
  | .cnt => t.cnt = s.cnt
  | .acct => t.acct = s.acct
  | .rebind => t.rebind = s.rebind
  | .tallies => t.tallies = s.tallies
  | .mseqOut => t.mseqOut = s.mseqOut
  | .almSent => t.almSent = s.almSent
  | .host => t.host = s.host
  | .free => t.free = s.free
  | .pending => t.pending = s.pending

/-- Every block but the queue: what a power-on reset may change. -/
def resetBlocks : List Block :=
  [.boot, .nv, .part, .stage, .tb, .cap, .pwr, .mem, .dram, .rmk, .sessions, .models, .nextHandle, .streams, .jobs, .hatch]
    ++ [.burin, .lines, .ihx, .proof, .mbx, .alm, .evt, .fault, .cnt, .acct, .rebind, .tallies, .mseqOut, .almSent, .host, .free]

/-- From `s` to `t` at most the listed blocks change: every other register, queue, table and memory is as it was. -/
def Frame (blocks : List Block) (s t : State) : Prop := ∀ b, b ∉ blocks → s.same t b

/-- What ending a job can reach: its cores and their transfers, its streams, units and line slots, its session's descriptors and
accounts, and what the end of the job reports (01 R36, 11 R350, 18 R557). -/
def tearDownBlocks : List Block :=
  [.mem, .dram, .rmk, .sessions, .models, .streams, .jobs, .hatch, .burin, .lines, .ihx, .evt, .cnt, .rebind, .tallies, .host]

/-- The blocks a command may change, whatever its operands and the state it meets. -/
def touches : Instr → List Block
  | .coldStart .. | .hostReset .. | .supplyReset .. | .thermalTrip | .maintenanceWrite .. | .almanacInputLoss => resetBlocks
  | .resetHoldEnd .. | .wake .. | .supplyWarningEnd .. => [.boot]
  | .verify .. => [.boot, .proof, .mbx]
  | .cores .. => [.boot, .nv, .hatch, .evt, .fault, .cnt, .host]
  | .memory .. => [.boot, .mem, .dram, .evt, .fault, .cnt, .host, .free]
  | .measure .. => [.boot, .tb, .cap, .proof, .evt, .cnt, .host]
  | .supplyWarning .. => [.boot, .pwr, .jobs, .evt, .cnt, .host]
  | .sampleTick => [.boot, .tb, .streams, .jobs, .lines, .cnt, .tallies]
  | .frameTick .. => tearDownBlocks ++ [.tb, .pwr, .fault, .free]
  | .tallyWindowEnd => [.acct, .tallies, .mseqOut, .almSent]
  | .accountingIntervalEnd => [.sessions, .jobs, .acct, .cnt, .host]
  | .kick .. | .streamCtrl .. | .featurePushCommit .. | .audioPull .. | .fence .. | .nop .. | .ringEnable ..
    | .handOffReport .. => [.rmk]
  | .doorbellRead .. | .ringResume .. => [.rmk, .streams, .cnt, .host]
  | .descriptorFetch .. => [.rmk, .sessions, .streams, .jobs, .lines, .proof, .mbx, .cnt, .tallies, .host]
  | .sessionOpen .. => [.rmk, .sessions, .jobs, .acct, .cnt, .tallies, .mseqOut, .almSent, .host, .free]
  | .sessionClose .. | .modelEvict .. | .abort .. | .signal .. | .remoteSignal .. | .wait .. | .waitTimeout ..
    | .safePoint .. | .remoteReplyParked .. | .dramService ..
    | .fieldOut .. | .engineEntryIssue .. | .transferComplete .. | .chainGrant .. | .chainDataArrival ..
    | .thaw .. | .jobTearDown .. | .burinTakeover .. | .fillReadTimeout .. | .imported .. | .owner .. => tearDownBlocks
  | .modelLoad .. => [.mem, .rmk, .sessions, .models, .nextHandle, .jobs, .hatch, .cnt, .tallies, .host]
  | .streamOpen .. => [.mem, .rmk, .sessions, .models, .streams, .jobs, .hatch, .burin, .lines, .evt, .cnt, .host]
  | .featurePush .. => [.rmk, .sessions, .jobs, .cnt, .tallies]
  | .featurePacket .. => [.rmk, .streams, .cnt]
  | .audioDelivery .. => [.rmk, .sessions, .streams, .jobs, .cnt, .tallies, .host]
  | .streamClose .. => [.mem, .dram, .rmk, .sessions, .models, .streams, .jobs, .hatch, .burin, .lines, .cnt, .rebind, .host]
  | .adaptJob .. =>
    [.mem, .dram, .rmk, .sessions, .models, .nextHandle, .streams, .jobs, .hatch, .burin, .lines, .cnt, .rebind, .tallies, .host]
  | .transferOut .. | .directoryReport .. | .placement .. | .accept .. | .echoSymbol .. | .confirm .. => [.ihx]
  | .transferIn .. | .offer .. =>
    [.mem, .dram, .rmk, .sessions, .models, .streams, .jobs, .hatch, .burin, .lines, .ihx, .evt, .cnt, .rebind, .host]
  | .transferPartnerTimeout .. => [.rmk, .streams, .ihx, .cnt]
  | .completionWrite .. => [.rmk, .sessions, .streams, .lines, .proof, .mbx, .cnt, .host]
  | .cqStall .. => [.rmk, .evt, .cnt, .host]
  | .msixNotify .. => [.rmk, .cnt, .host]
  | .ramokLinkTrain .. | .ramokLinkLost .. => [.cap, .rmk, .evt, .cnt, .host]
  | .eslFrameCntLoRead .. | .eslTimebaseCfgWrite .. | .counterAdvance .. => [.tb]
  | .eslRebind .. => [.rebind]
  | .eslAcctCfgWrite .. => [.acct]
  | .pwrCapWrite .. => [.pwr]
  | .strokeIssue .. => [.pwr, .jobs, .hatch, .cnt]
  | .coreCheckFailure .. | .coreSelfTest .. | .plateUncorrectable .. => tearDownBlocks ++ [.nv]
  | .coreTakeover .. => [.mem, .models, .streams, .jobs, .hatch, .evt, .cnt, .rebind, .host]
  | .plateScrub .. | .flitCrcRetry .. => [.hatch, .cnt]
  | .meshLaneHalf .. => [.hatch, .evt, .cnt, .host]
  | .easelFailover .. | .moduleFault .. =>
    [.boot, .mem, .rmk, .sessions, .streams, .jobs, .hatch, .burin, .ihx, .evt, .fault, .cnt, .tallies, .host]
  | .dramCorrectedRead .. => [.mem, .evt, .cnt, .host]
  | .dramUncorrectableRead .. => tearDownBlocks ++ [.boot, .fault]
  | .dramScrub .. => [.mem]
  | .refresh .. => [.mem, .cnt]
  | .promotion .. => [.mem, .sessions, .models, .jobs, .hatch, .tallies]
  | .demotion .. => [.models]
  | .frost .. => [.sessions, .streams, .jobs, .hatch, .burin, .evt, .cnt, .tallies, .host]
  | .liveFrost .. => [.sessions, .streams, .jobs, .hatch, .evt, .cnt, .rebind, .tallies, .host]
  | .keepRestart .. => [.mem, .rmk, .sessions, .streams, .jobs, .hatch, .burin, .lines, .ihx, .evt, .cnt, .tallies, .host]
  | .sampleStart .. => [.streams, .burin, .cnt]
  | .sampleHandOff .. => [.rmk, .sessions, .streams, .jobs, .burin, .ihx, .evt, .cnt, .tallies, .host]
  | .outputStageWrite .. => [.streams, .cnt]
  | .sampleMirror .. => [.streams]
  | .outputScriberPiece .. => [.sessions, .streams, .jobs, .cnt, .tallies]
  | .burinContextMove .. => [.streams, .burin]
  | .lineStart .. | .lineStop .. | .runOutComplete .. | .groupStart .. | .groupStop ..
    | .audGroupFrameLoRead .. | .captureWord .. | .clkOscCfgWrite .. | .slotFlagClear .. => [.lines]
  | .runInComplete .. | .holdoverReturn .. | .steeringUpdate .. => [.lines, .free]
  | .driftSlip .. => [.lines, .evt, .cnt, .tallies, .host]
  | .clockStop .. | .fsGlitch .. | .rateOutOfRange .. => [.lines, .evt, .cnt, .host]
  | .join .. | .leave .. => [.tb, .lines, .ihx, .proof]
  | .hello .. => [.ihx, .free]
  | .linkKeyExchange .. | .alignmentLoss | .detached | .ihlauxPortTrain .. | .ihlauxAuthFail .. => [.ihx, .evt, .cnt, .host]
  | .groupKeyDelivery .. | .prfFwDigestSelWrite .. => [.proof]
  | .alignmentSymbol .. => [.tb, .lines, .ihx, .free]
  | .fillOffload .. => tearDownBlocks ++ [.nextHandle]
  | .envelope .. =>
    [.mem, .dram, .rmk, .sessions, .models, .streams, .jobs, .hatch, .burin, .lines, .ihx, .cnt, .rebind, .tallies, .host]
  | .policyLock .. => [.proof, .mbx]
  | .commitSvn .. => [.part]
  | .mailboxSend .. | .mailboxLastWordRead .. => [.mbx, .evt, .cnt, .host]
  | .fwStageWrite .. | .fwStageCommit .. | .fwStageClear .. => [.stage]
  | .shuntSample .. | .warningSpan .. | .intervalBoundary | .bind .. | .unbind .. | .tallyA .. | .tallyB ..
    | .windowEnd .. | .ack .. | .rewind .. | .almAuditLoRead .. | .almTimeLoRead .. | .read | .setTime ..
    | .setInterval .. | .setCoeff .. | .stageFw .. | .lidOpen | .lidClose | .powerGap .. => [.alm]
  | .exportPart => [.mbx, .alm]
  | .almAckCtlAck .. | .almAckCtlRewind .. => [.alm, .mseqOut, .almSent]
  | .eventRingEnable .. | .alarm .. | .coalesceWindowEnd .. | .log .. | .trace .. => [.evt, .cnt, .host]
  | .logSummary .. => [.evt, .cnt, .host]
  | .armSnap .. | .clearAll .. | .counterSourceWrite .. | .counterLoRead .. => [.cnt]
  | .refuse .. => [.mem, .dram, .rmk, .sessions, .models, .streams, .jobs, .hatch, .burin, .lines, .ihx, .cnt, .rebind, .host]
  | .creditReturn .. | .remoteReadRequest .. => [.sessions, .jobs, .ihx, .cnt, .tallies]

/-! ### Completing -/

/-- A command completes with an effect: it answers a next state of which `P` holds. -/
def Completes (c : Instr) (s : State) (P : State → Prop) : Prop := ∃ t, exec c s = .next t ∧ P t

/-- A descriptor has completed (12 R377): the newest record its ring holds is its one record, with these fields, marked with the sub-tick at
which it came, and the descriptor is no longer among those accepted. -/
def Retired (t : State) (ring : Nat) (d : Desc) (x : Done) : Prop :=
  (∃ now, (t.ring ring).held.getLast? = some { recordOf d x with at_ := now }) ∧ ∀ e ∈ (t.ring ring).accepted, e.seq ≠ d.seq

/-! ### What every step keeps -/

/-- The blocks that `State.Inv` speaks of. -/
def invBlocks : List Block := [.part, .stage, .tb, .pwr, .mem, .dram, .hatch, .proof, .evt, .acct, .pending]

/-- What holds of a state of the module from reset on. Every byte memory is in its canonical form; the Season, the oscillator and a
pending change of them are among the four that exist, and a Frame has no more sample ticks than its Season gives (02 R43, R46); the
power cap lies between 24 and 68 steps (02 R68); the scrub period is 1 to 24 hours (10 R312); the rollback count fits its fuses
(16 R513); the policy registers are sixteen and a locked policy is the one measured (16 R497, R499); the event ring has an order and a
log rate that its registers can hold (18 R568); an accounting interval is not empty (11 R355); and the waiting commands are well
formed. -/
structure State.Inv (s : State) : Prop where
  dram    : Memory.wf s.dram = true
  plate   : Memory.wf s.hatch.plate = true
  acc     : Memory.wf s.hatch.acc = true
  stage   : Memory.wf s.stage.mem = true
  season  : s.tb.season < 4
  osc     : s.tb.osc < 4
  pendingCfg : ∀ p, s.tb.pendingCfg = some p → p.1 < 4 ∧ p.2 < 4
  ticks   : s.tb.ticks ≤ s.frameTicks
  capSteps : 24 ≤ s.pwr.capSteps ∧ s.pwr.capSteps ≤ 68
  capNow  : 24 ≤ s.pwr.capNow ∧ s.pwr.capNow ≤ 68
  scrub   : 1 ≤ s.mem.scrubPeriod ∧ s.mem.scrubPeriod ≤ 24
  rollback : s.part.rollback ≤ 63
  policyRegs : s.proof.policy.length = 16
  policy  : s.proof.locked = true →
    s.proof.mPol = Config.shake256 ((s.proof.policy.map fun w => leBytes 4 w.toNat).flatten) 64
  order   : s.evt.order ≤ 9
  logRate : 1 ≤ s.evt.logRate
  interval : 1 ≤ s.acct.interval ∧ ∀ n, s.acct.next = some n → 1 ≤ n.1
  queue   : ∀ c ∈ s.pending, c.wf = true

/-! ### The supply -/

/-- The busbar voltage a command reports, in 10 mV; zero where it reports none. -/
def supplyVolts : Instr → Nat
  | .coldStart v | .resetHoldEnd v | .supplyReset v | .supplyWarning v | .supplyWarningEnd v => v
  | _ => 0

end Sys2Proof.Machine
end

