-- ==== Sys2Proof/Certificates/Slice0/Obligations.lean ====
section
/-! DEFINITION. The statements about the model, in the order of the table's families. -/

open Sys2Proof Sys2Proof.Machine

/-! ### The queue, the outcomes, and what every command keeps -/

/-- A step takes the command at the front of the queue and runs it on the state with the queue's rest; on an empty queue the block idles
(the model's choice, log entry 9).
Model's choices here: log entry 9. -/
def Obligations.StepRunsTheFrontCommand : Prop :=
  (∀ (c : Instr) (rest : List Instr) (s : State), step { s with pending := c :: rest } = exec c { s with pending := rest }) ∧
  (∀ s : State, s.pending = [] → step s = .next s)

/-- The one stop of the machine: a command that reports a busbar above 60.0 V, which 20 R596 does not permit, faults; every other command
answers a next state, and none is refused.
Model's choices here: log entries 1 and 37. -/
def Obligations.OnlyOvervoltageStops : Prop :=
  ∀ (c : Instr) (s : State),
    (6000 < supplyVolts c → exec c s = .fault .overvoltage) ∧ (supplyVolts c ≤ 6000 → ∃ t, exec c s = .next t)

/-- What `State.Inv` says holds of the machine right after reset. -/
def Obligations.ResetMeetsTheInvariant : Prop := State.Inv State.reset

/-- Every step keeps `State.Inv`: canonical memories, a legal Season and oscillator, ticks within the Frame, the power cap between 24 and 68
steps (02 R68), a scrub period of 1 to 24 hours (10 R312), the rollback count within its fuses (16 R513), sixteen policy registers and a
locked policy that is the one measured (16 R497, R499), and well-formed commands in the queue. -/
def Obligations.EveryStepKeepsTheInvariant : Prop :=
  ∀ s t : State, s.Inv → step s = .next t → t.Inv

/-- The frame of all 175 commands: a command changes at most the blocks that `touches` lists for it; every other register, table, queue and
memory is as it was. -/
def Obligations.CommandsTouchOnlyTheirBlocks : Prop :=
  ∀ (c : Instr) (s t : State), exec c s = .next t → Frame (touches c) s t

/-- What no command changes: the serial number, the device seed, the firmware root, the stepping, the cores, routers and units disabled at
manufacture, the floor power and the certificates (19 R578, 16 R494, 04 R148). The rollback count moves at a write of COMMIT_SVN alone,
as a command of its own or through the setup space, and then to FW_SVN from below it; such a write blows it to FW_SVN, and any other
value leaves it (16 R513). Once locked, the policy registers and their measurement stay until a power-on reset takes the module out of the state it is in (16 R497): a command
either leaves the lock, the policy and M_POL, or is a power-on reset, after which the policy is the reset one. -/
def Obligations.FusesAndLockedPolicyAreKept : Prop :=
  (∀ (c : Instr) (s t : State), exec c s = .next t →
     t.part.serial = s.part.serial ∧ t.part.dseed = s.part.dseed ∧ t.part.fwRoot = s.part.fwRoot ∧
     t.part.stepping = s.part.stepping ∧ t.part.disabledCores = s.part.disabledCores ∧ t.part.bypassed = s.part.bypassed ∧
     t.part.disabledBurin = s.part.disabledBurin ∧ t.part.floorW = s.part.floorW ∧ t.part.certs = s.part.certs) ∧
  (∀ (c : Instr) (s t : State), exec c s = .next t →
     t.part.rollback = s.part.rollback ∨
     (s.part.rollback < t.part.rollback ∧ t.part.rollback = s.proof.svn ∧ t.part.rollback ≤ 63 ∧
       ((∃ p v, c = .commitSvn p v ∧ fld v 5 0 = s.proof.svn) ∨ ∃ p a w v, c = .maintenanceWrite p a w v))) ∧
  (∀ (p : Nat) (v : Word) (s : State), s.writable p .ready = true →
     exec (.commitSvn p v) s = .next { s with part := { s.part with
       rollback := if fld v 5 0 = s.proof.svn ∧ s.part.rollback < fld v 5 0 then fld v 5 0 else s.part.rollback } }) ∧
  (∀ (c : Instr) (s t : State), exec c s = .next t → s.proof.locked = true →
     (t.proof.locked = true ∧ t.proof.policy = s.proof.policy ∧ t.proof.mPol = s.proof.mPol) ∨
     (t.boot.phase = .reset ∧ t.proof = State.reset.proof))

/-- Which commands move ESL_BOOT_STATE.STATE, and where (19 R581, R584, R563): bring-up in the table's order, FAULTED from CORES, MEMORY and
READY, and RESET from anywhere. -/
def Obligations.BootStateEdges : Prop :=
  ∀ (c : Instr) (s t : State), exec c s = .next t →
    t.boot.phase = s.boot.phase ∨ t.boot.phase = .reset ∨
    match s.boot.phase, t.boot.phase with
    | .reset, .wake => ∃ v, c = .resetHoldEnd v
    | .wake, .verify => ∃ ms, c = .wake ms
    | .verify, .cores | .verify, .fwRefused => ∃ ms, c = .verify ms
    | .cores, .memory | .cores, .faulted => ∃ ms r, c = .cores ms r
    | .memory, .measure | .memory, .faulted => ∃ ms l, c = .memory ms l
    | .measure, .ready => ∃ ms, c = .measure ms
    | .ready, .faulted => (∃ k, c = .moduleFault k) ∨ (∃ e, c = .easelFailover e) ∨ (∃ a, c = .dramUncorrectableRead a)
    | _, _ => False

/-- The Frame counter moves at a Frame tick alone, by one or by an announced advance more (02 R48, R49, 15 R476); MEASURE starts it at 0, and a
power-on reset sets it back to 0. -/
def Obligations.FrameCounterRule : Prop :=
  ∀ (c : Instr) (s t : State), exec c s = .next t →
    t.tb.frame = s.tb.frame ∨
    ((∃ w, c = .frameTick w) ∧ t.tb.frame = s.nextFrame) ∨
    ((∃ ms, c = .measure ms) ∧ t.tb.frame = 0) ∨
    (t.boot.phase = .reset ∧ t.tb.frame = 0)

/-! ### Supply and bring-up -/

/-- A power-on reset (19 R577 to R579, 18 R567, 20 R602): COLD_START brings a module that is off into RESET with cause 0, a HOST_RESET
with KEY and GO with cause 2, a SUPPLY_RESET with cause 1, which leaves the crossing's Almanac time in the non-volatile store and
SUPPLY_RESET as the one event that waits, and a THERMAL_TRIP with cause 0 and the trip latched; below 30 V the module is off. The fuses,
the certificates, the non-volatile store, the staging store and Almanac stay, a committed image has become the running one, and every
other block is as after reset; the host's own log, the free values and the queue are no part of the module.
Model's choices here: log entries 2 and 3. -/
def Obligations.PowerOnResets : Prop :=
  let kept (s t : State) : Prop :=
    t.part = { s.part with fwImage := if s.stage.image = [] then s.part.fwImage else s.stage.image } ∧
    t.stage = (if s.stage.state = 3
      then { s.stage with mem := [], state := 0, refuse := 0, svn := 0, len := 0, image := [] }
      else { s.stage with len := 0, image := [] }) ∧
    t.alm.time = s.alm.time ∧ t.alm.running = s.alm.running ∧ t.alm.tamper = s.alm.tamper ∧
    (s.alm.staged = none →
      t.alm = { s.alm with ackSig := [0, 0, 0, 0], ackSeqLo := 0, ackSeqHi := 0, ackKind := 0, ackBusy := false }) ∧
    t.host = s.host ∧ t.free = s.free ∧ t.pending = s.pending
  let own : List Block := [.boot, .nv, .part, .stage, .alm, .host, .free, .pending]
  (∀ (v : Nat) (s : State), s.boot.powered = false → 3000 ≤ v → v ≤ 6000 →
    Completes (.coldStart v) s fun t =>
      t.boot = { State.reset.boot with cause := 0, busbar := v, powered := true } ∧ t.nv = s.nv ∧ kept s t ∧ Frame own State.reset t) ∧
  (∀ (p : Nat) (v : Word) (s : State), s.writable p .reset = true → fld v 15 0 = 0xC1EA → bitOf v 16 = true →
    Completes (.hostReset p v) s fun t =>
      t.boot = { State.reset.boot with cause := 2, busbar := s.boot.busbar, powered := true } ∧ t.nv = s.nv ∧ kept s t ∧
      Frame own State.reset t) ∧
  (∀ (v : Nat) (s : State), s.boot.powered = true → s.boot.phase ≠ .reset → s.boot.tripped = false →
    (3000 ≤ v → v < 4200 →
      Completes (.supplyReset v) s fun t =>
        t.boot = { State.reset.boot with cause := 1, busbar := v, powered := true } ∧
        t.nv = { s.nv with supplyResetAt := s.alm.time.toNat } ∧ kept s t ∧
        t.evt.waiting = [⟨0, 0x02, 0, 0, 0, 1, s.alm.time⟩] ∧ Frame (own ++ [.evt, .cnt]) State.reset t) ∧
    (v < 3000 →
      Completes (.supplyReset v) s fun t =>
        t.boot = { State.reset.boot with cause := 0, busbar := v, powered := false } ∧
        t.nv = { s.nv with supplyResetAt := s.alm.time.toNat } ∧ t.alm.time = s.alm.time ∧ Frame own State.reset t)) ∧
  (∀ s : State, s.boot.powered = true → s.boot.tripped = false →
    Completes .thermalTrip s fun t =>
      t.boot = { State.reset.boot with cause := 0, busbar := s.boot.busbar, powered := true, tripped := true } ∧ t.nv = s.nv ∧ kept s t ∧
      Frame own State.reset t)

/-- Bring-up passes through the states in the table's order (19 R581): RESET to WAKE at 48.0 V or more, WAKE to VERIFY with the rails up,
VERIFY to CORES when the checks of 16 R512 pass and to FW_REFUSED when one fails, and CORES to MEMORY when no failure of 19 R584 stops it;
a failed Proof self test enters FAULTED with CAUSE 2, a failed audio oscillator with CAUSE 3, a failed Easel 3 with CAUSE 4 and two failed
Easel processors with CAUSE 5. MEMORY trains the channels and zeroes DRAM, and fewer than 3 channels in service enter FAULTED with CAUSE 1
(10 R296, 19 R581, R584); MEASURE fixes the capability table, takes M_FW, M_ALM and M_WAF, and enters READY with the timebase running on
oscillator 0 under Summer and the counter at 0 (03 R77, 16 R499, 02 R49, 19 R585).
Model's choices here: log entries 3 and 7. -/
def Obligations.BringUp : Prop :=
  ((∀ (v : Nat) (s : State), s.boot.phase = .reset → s.boot.powered = true → s.boot.tripped = false → 4800 ≤ v → v ≤ 6000 →
     exec (.resetHoldEnd v) s =
       .next { s with boot := { s.boot with phase := .wake, busbar := v, uptimeMs := 0, msTicks := 0 } }) ∧
   (∀ (ms : Nat) (s : State), s.boot.phase = .wake →
     Completes (.wake ms) s fun t => t.boot.phase = .verify ∧ t.boot.rails = 6 ∧ Frame [.boot] s t) ∧
   (∀ (ms : Nat) (s : State), s.boot.phase = .verify →
     Completes (.verify ms) s fun t =>
       t.proof.svn = Config.fwSvn s.part.fwImage % 64 ∧ t.proof.fwRefuse = firmwareStep s.part s.part.fwImage ∧
       (t.boot.phase = .cores ↔ firmwareStep s.part s.part.fwImage = 0) ∧
       (t.boot.phase = .fwRefused ↔ firmwareStep s.part s.part.fwImage ≠ 0) ∧
       (t.proof.fwOk = true ↔ t.boot.phase = .cores) ∧ Frame [.boot, .proof, .mbx] s t) ∧
   (∀ (ms : Nat) (r : CoresReport) (s : State), s.boot.phase = .cores → r.proofFailed = false → r.oscFailed = false →
     3 ∉ r.easels → r.easels.length ≤ 1 →
     Completes (.cores ms r) s fun t =>
       t.boot.phase = .memory ∧ (∀ f ∈ r.controllers, (t.field f).out = true) ∧
       (∀ e ∈ r.easels, e ∈ t.fault.easelOut) ∧ (∀ x ∈ r.cores, s.coreEnabled x = true → x ∈ t.nv.retiredCores) ∧
       Frame (touches (.cores ms r)) s t) ∧
   (∀ (ms : Nat) (r : CoresReport) (s : State), s.boot.phase = .cores →
     Completes (.cores ms r) s fun t =>
       (r.proofFailed = true → t.boot.phase = .faulted ∧ t.fault.cause = 2) ∧
       (r.proofFailed = false → r.oscFailed = true → t.boot.phase = .faulted ∧ t.fault.cause = 3) ∧
       (r.proofFailed = false → r.oscFailed = false → 3 ∈ r.easels → t.boot.phase = .faulted ∧ t.fault.cause = 4) ∧
       (r.proofFailed = false → r.oscFailed = false → 3 ∉ r.easels → 1 < r.easels.length →
         t.boot.phase = .faulted ∧ t.fault.cause = 5))) ∧
  ((∀ (ms : Nat) (l : List ChannelTrain) (s : State), s.boot.phase = .memory →
     Completes (.memory ms l) s fun t =>
       t.mem.trainDone = true ∧ t.dram = [] ∧
       (∃ slowRun, t.mem.chans = (List.range 32).map fun n =>
         (n, trainChannel slowRun s.nv.slowPolicy (l.getD n ⟨false, false, false, false, 0, 0, 0, 0⟩))) ∧
       (t.boot.phase = .measure ↔ 3 ≤ t.channels.length) ∧
       (t.channels.length < 3 → t.boot.phase = .faulted ∧ t.fault.cause = 1) ∧ Frame (touches (.memory ms l)) s t) ∧
   (∀ (ms : Nat) (s : State), s.boot.phase = .measure →
     Completes (.measure ms) s fun t =>
       t.boot.phase = .ready ∧ t.cap = s.measureCap ∧ t.proof.mFw = Config.shake256 s.part.fwImage 64 ∧
       t.proof.mAlm = Config.shake256 s.alm.fwImage 64 ∧ t.proof.mWaf = Config.shake256 s.wafBytes 64 ∧ t.tb.running = true ∧ t.tb.osc = 0 ∧ t.tb.season = 1 ∧ t.tb.frame = 0 ∧
       t.tb.ticks = 0 ∧ Frame [.boot, .tb, .cap, .proof, .evt, .cnt, .host] s t))

/-- A supply warning (18 R565, R566): at the first comparison below 48.0 V the clocks stretch and SUPPLY_WARNING is raised; PWR_STATUS
takes the lowest voltage and the count of warnings; when the hold ends the clocks are back at nominal.
Model's choices here: log entry 23. -/
def Obligations.SupplyWarnings : Prop :=
  (∀ (v : Nat) (s : State), s.boot.powered = true → s.boot.phase ≠ .reset → s.boot.warning = false → 4200 ≤ v → v < 4800 →
    Completes (.supplyWarning v) s fun t =>
      t.boot = { s.boot with warning := true, stretched := true, busbar := v } ∧ t.pwr.lowest = v ∧
      t.pwr.warnCount = min (s.pwr.warnCount + 1) 0xFFFF ∧ t.pwr.stretchedFrame = true ∧
      (∃ k ∈ t.evt.table, k.code = 0x01) ∧ Frame [.boot, .pwr, .jobs, .evt, .cnt, .host] s t) ∧
  (∀ (v : Nat) (s : State), s.boot.warning = true → 4800 ≤ v → v ≤ 6000 →
    exec (.supplyWarningEnd v) s =
      .next { s with boot := { s.boot with warning := false, stretched := false, busbar := v } })

/-! ### Timebase and windows -/

/-- A sample tick is 512 sub-ticks (02 R41, 09 R281), and inside a Frame it moves the tick count by one; at the last of a Frame's sample
ticks the Frame tick opens the next Frame: the counter moves on by one, or by an announced advance more (02 R43, R48, 15 R476), and a
pending change of Season and oscillator takes effect (02 R44).
Model's choices here: log entry 1. -/
def Obligations.TimebaseTicks : Prop :=
  (∀ s : State, s.tb.running = true → s.tb.ticks < s.frameTicks →
    Completes .sampleTick s fun t =>
      t.tb = { s.tb with sub := s.tb.sub + 512, ticks := s.tb.ticks + 1 } ∧
      Frame [.boot, .tb, .streams, .jobs, .lines, .cnt, .tallies] s t) ∧
  (∀ (w : Nat) (s : State), s.tb.running = true → s.tb.ticks = s.frameTicks →
    Completes (.frameTick w) s fun t =>
      t.tb.ticks = 0 ∧ t.tb.frameOrd = s.tb.frameOrd + 1 ∧ t.tb.frameAt = s.tb.sub ∧ t.tb.sub = s.tb.sub ∧
      (s.tb.advance = none → t.tb.frame = s.tb.frame + 1) ∧
      (∀ at_ d, s.tb.advance = some (at_, d) → s.transferOpen = false → at_ ≤ s.tb.frameOrd + 1 →
        t.tb.frame = s.tb.frame + 1 + BitVec.ofNat 48 d) ∧
      (t.tb.season, t.tb.osc) = s.tb.pendingCfg.getD (s.tb.season, s.tb.osc) ∧ t.tb.pendingCfg = none ∧
      Frame (touches (.frameTick w)) s t)

/-- The power of the Frame just ended against the cap (02 R70, 19 R594): PWR_MEASURED takes it; a Frame above the cap in which no Fill
stroke ran sets CAP_EXCEEDED, and a Frame at or below the cap clears it; PWR_CAP is in force from this plan close. At a Frame tick an
armed snapshot copies every event counter with the Frame number of the tick, and then a pending clear zeroes the counts (18 R573, R574, 02
R56); in the faulted state only the tick's own events follow (18 R563).
Model's choices here: log entry 22. -/
def Obligations.PowerCapAndSnapshots : Prop :=
  (∀ (w : Nat) (s : State), s.tb.running = true → s.tb.ticks = s.frameTicks → s.boot.phase = .ready →
     Completes (.frameTick w) s fun t =>
       t.pwr.measured = w ∧ t.pwr.capNow = s.pwr.capSteps ∧
       (w ≤ 250 * s.pwr.capNow → t.pwr.capExceeded = false) ∧
       (250 * s.pwr.capNow < w → s.pwr.fillRan = false → t.pwr.capExceeded = true)) ∧
  (∀ (w : Nat) (s : State), s.tb.running = true → s.tb.ticks = s.frameTicks → s.boot.phase ≠ .ready →
     Completes (.frameTick w) s fun t =>
       t.cnt.armed = false ∧ t.cnt.clearing = false ∧
       (s.cnt.armed = true → t.cnt.snapDone = true ∧ t.cnt.snapFrame = t.tb.frame) ∧
       (∀ n c, tabGet s.cnt.ctrs n = some c → c.enable = false →
         ∃ c', tabGet t.cnt.ctrs n = some c' ∧ c'.snap = (if s.cnt.armed then c.count else c.snap) ∧
           c'.count = (if s.cnt.clearing then 0 else c.count)))

/-- At the end of a tally window Easel 3 sends the window's messages, numbered by MSEQ, and last WINDOW_END with the number of the
window's last Frame and of the sessions that had tallies; the tallies start anew (17 R533, R535). With the last Frame of an accounting interval a pending write of ESL_ACCT_CFG
takes effect and the next interval begins (11 R354, R355); before that a write is pending, and 0 leaves INTERVAL unchanged.
Model's choices here: log entry 23. -/
def Obligations.TallyWindowsAndAccounting : Prop :=
  (∀ s : State, s.boot.phase = .ready → s.windowEnds = true → s.acct.windowEnd ≠ some s.tb.frameOrd →
     Completes .tallyWindowEnd s fun t =>
       t.tallies = [] ∧ t.acct = { s.acct with closed := [], windowEnd := some s.tb.frameOrd } ∧ s.almSent <+: t.almSent ∧
       t.almSent.length + s.mseqOut = s.almSent.length + t.mseqOut ∧
       (let n := ((s.acct.closed ++ s.tallies).filter fun e => !(e.2.a.all (· == 0) && e.2.b.all (· == 0))).length
        t.almSent.getLast? = some (leBytes 1 7 ++ zeros 1 ++ leBytes 2 0 ++ leBytes 4 (t.mseqOut - 1) ++
          bytesAt (leBytes 6 s.tb.frame.toNat ++ zeros 2 ++ leBytes 2 n) 0 56)) ∧
       Frame [.tallies, .acct, .mseqOut, .almSent] s t) ∧
  ((∀ s : State, s.boot.phase = .ready → s.tb.ticks = s.frameTicks → s.acct.first + s.acct.interval ≤ s.tb.frameOrd + 1 →
     Completes .accountingIntervalEnd s fun t =>
       t.acct = { s.acct with
         interval := (s.acct.next.map (·.1)).getD s.acct.interval
         jobRecords := (s.acct.next.map (·.2)).getD s.acct.jobRecords
         next := none
         first := s.tb.frameOrd + 1 } ∧
       (∀ n x, s.session n = some x → ∃ x', t.session n = some x' ∧ x'.account.first = s.tb.frame.toNat + 1 ∧ x'.account.burin = 0) ∧
       Frame [.sessions, .jobs, .acct, .cnt, .host] s t) ∧
   (∀ (p : Nat) (v : Word) (s : State), s.writable p .ready = true →
     exec (.eslAcctCfgWrite p v) s = .next { s with acct := { s.acct with
       next := some (if fld v 15 0 = 0 then (s.acct.next.map (·.1)).getD s.acct.interval else fld v 15 0, bitOf v 16) } }))

/-! ### Rings -/

/-- A kick starts a ring's doorbell read; a kick that arrives while the read is outstanding causes one more after it; a kick for a
disabled ring is counted and ignored (12 R372, R373). No other ring changes. A doorbell read that the host Tracer serves takes SQ_PI and CQ_CI, and a kick that came
meanwhile starts one more read (12 R371, R373); an interrupt that waits is sent at once if ARM is set, and clears ARM (12 R382); SQ_PI
beyond the slots stops the ring with one ring-event record whose slot is SQ_CI mod SIZE (12 R391).
Model's choices here: log entry 35. -/
def Obligations.KicksAndDoorbellReads : Prop :=
  (∀ (p : Nat) (v : Word) (s : State), s.writable p .faultedToo = true →
     let n := fld v 11 0
     let r := s.ring n
     (r.enabled = true → r.reading = false → exec (.kick p v) s = .next (s.setRing n { r with reading := true, readAt := s.tb.sub })) ∧
     (r.enabled = true → r.reading = true → exec (.kick p v) s = .next (s.setRing n { r with kicked := true })) ∧
     (r.enabled = false →
       exec (.kick p v) s = .next { s with rmk := { s.rmk with kickIgnored := min (s.rmk.kickIgnored + 1) 0xFFFF } })) ∧
  (∀ (n : Nat) (pi ci : Half) (flags : Word) (s : State),
     let r := s.ring n
     r.reading = true → (s.port r.port).trained = true → s.tracerServes r.port (s.readXfer n) = true →
     Completes (.doorbellRead n pi ci flags) s fun t =>
       (t.ring n).sqPi = pi ∧ (t.ring n).cqCi = ci ∧ (t.ring n).reading = r.kicked ∧ (t.ring n).kicked = false ∧
       (bitOf flags 0 = true → 0 < r.uncovered → r.linkLost = false →
         t.host.msix = s.host.msix ++ [r.vector] ∧ (t.ring n).arm = false ∧ (t.ring n).uncovered = 0) ∧
       (¬(bitOf flags 0 = true ∧ 0 < r.uncovered ∧ r.linkLost = false) →
         t.host.msix = s.host.msix ∧ (t.ring n).arm = bitOf flags 0 ∧ (t.ring n).uncovered = r.uncovered) ∧
       ((pi - r.sqCi).toNat ≤ r.sqSize → (t.ring n).stopped = r.stopped ∧ (t.ring n).held = r.held) ∧
       (r.sqSize < (pi - r.sqCi).toNat → r.overrun = false →
         (t.ring n).overrun = true ∧ (t.ring n).stopped = true ∧
         ∃ e, (t.ring n).held = r.held ++ [e] ∧ e.event = true ∧ e.slot = r.sqCi.toNat % r.sqSize) ∧
       (∀ m, m ≠ n → t.ring m = s.ring m) ∧ Frame [.rmk, .streams, .cnt, .host] s t)

/-- A fetch in a ring's turn, once the host Tracer serves it (12 R375, R376), copies at most 16 consecutive slots that do not cross the ring's end, and advances SQ_CI by their number (12 R374); each
descriptor it fetches is from then on waiting, accepted, or rejected with its one record (12 R377).
Model's choices here: log entry 35. -/
def Obligations.DescriptorFetches : Prop :=
  ∀ (n : Nat) (slots : List (List Byte)) (s : State),
    let r := s.ring n
    s.boot.phase = .ready → r.wantsFetch = true → (s.port r.port).trained = true → 1 ≤ slots.length → slots.length ≤ 16 →
    slots.length ≤ (r.sqPi - r.sqCi).toNat → r.sqCi.toNat % r.sqSize + slots.length ≤ r.sqSize →
    r.outstanding + slots.length ≤ 1024 → s.myTurn n = true → s.tracerServes r.port (s.fetchXfer n) = true →
    Completes (.descriptorFetch n slots) s fun t =>
      (t.ring n).sqCi = r.sqCi + BitVec.ofNat 16 slots.length ∧ (t.ring n).sqPi = r.sqPi ∧
      (t.ring n).outstanding + (t.ring n).held.length = r.outstanding + r.held.length + slots.length ∧
      (∀ m, m ≠ n → t.ring m = s.ring m) ∧ Frame (touches (.descriptorFetch n slots)) s t

/-- NOP and FENCE (13 R424, 12 R386): a NOP completes with SUCCESS; a FENCE completes once every descriptor accepted before it on its ring
has completed. Only the ring changes. The rows of 12 R394 that an ABORT can meet: a slot without an accepted descriptor, or another GEN,
gives NOT_FOUND; an opcode that cannot be aborted NOT_ABORTABLE; a target that has completed ALREADY_DONE; and a STREAM_CTRL that no plan
close has taken completes with ABORTED, and the ABORT behind it with SUCCESS.
Model's choices here: log entry 23. -/
def Obligations.NopFenceAndAbort : Prop :=
  ((∀ (n k : Nat) (d : Desc) (s : State), s.desc n k = some d → d.opcode = 0x0F →
     Completes (.nop n k) s fun t => Retired t n d { status := stSuccess } ∧ (∀ m, m ≠ n → t.ring m = s.ring m) ∧ Frame [.rmk] s t) ∧
   (∀ (n k : Nat) (d : Desc) (s : State), s.desc n k = some d → d.opcode = 0x0E → (s.ring n).held = [] →
     (∀ e ∈ (s.ring n).accepted, d.seq ≤ e.seq) →
     Completes (.fence n k) s fun t => Retired t n d { status := stSuccess } ∧ (∀ m, m ≠ n → t.ring m = s.ring m) ∧ Frame [.rmk] s t) ∧
   (∀ (n k : Nat) (d e : Desc) (s : State), s.desc n k = some d → e ∈ (s.ring n).accepted → e.seq < d.seq →
     exec (.fence n k) s = .next s)) ∧
  (∀ (n k : Nat) (d : Desc) (s : State), s.desc n k = some d → d.opcode = 0x0D → d.started = false →
     (tabGet (s.ring n).slots d.targetSlot = none →
       Completes (.abort n k) s fun t => Retired t n d { status := stNotFound, result := abortResult d } ∧ Frame [.rmk] s t) ∧
     (∀ g op q, tabGet (s.ring n).slots d.targetSlot = some (g, op, q) → g ≠ d.targetGen →
       Completes (.abort n k) s fun t => Retired t n d { status := stNotFound, result := abortResult d } ∧ Frame [.rmk] s t) ∧
     (∀ op q, tabGet (s.ring n).slots d.targetSlot = some (d.targetGen, op, q) → notAbortable op = true →
       Completes (.abort n k) s fun t => Retired t n d { status := stNotAbortable, result := abortResult d } ∧ Frame [.rmk] s t) ∧
     (∀ op q, tabGet (s.ring n).slots d.targetSlot = some (d.targetGen, op, q) → notAbortable op = false → s.desc n q = none →
       Completes (.abort n k) s fun t => Retired t n d { status := stAlreadyDone, result := abortResult d } ∧ Frame [.rmk] s t) ∧
     (∀ e : Desc, tabGet (s.ring n).slots d.targetSlot = some (d.targetGen, 6, e.seq) → s.desc n e.seq = some e → e.opcode = 6 →
       e.aborted = false → e.committed = false →
       Completes (.abort n k) s fun t =>
         (t.ring n).held = (s.ring n).held ++
           [{ recordOf e { status := stAborted } with at_ := s.tb.sub },
            { recordOf d { status := stSuccess, result := abortResult d } with at_ := s.tb.sub }] ∧
         (∀ m, m ≠ n → t.ring m = s.ring m) ∧ Frame [.rmk] s t))

/-- A completion record that the host Scriber serves goes into the slot of CQ_PI with the PHASE of this pass, then the doorbell mirror is
written with SQ_CI and the new CQ_PI, and CQ_PI moves on (12 R376 to R380); a ring without a free slot holds its records; a ring that has held records for more than 4 Frames sets CQ_STALL with an alarm (12 R378); COUNT records, or
HOLD_US, send the vector while ARM is set (12 R382).
Model's choices here: log entry 23. -/
def Obligations.CompletionsAndInterrupts : Prop :=
  (∀ (n : Nat) (rc : CqRecord) (rest : List CqRecord) (s : State),
    let r := s.ring n
    r.held = rc :: rest → r.linkLost = false → (s.port r.port).trained = true → (r.cqPi - r.cqCi).toNat < r.cqSize →
    s.scriberServes r.port (s.recordXfer n) = true →
    Completes (.completionWrite n) s fun t =>
      (t.ring n).cqPi = r.cqPi + 1 ∧ rest <+: (t.ring n).held ∧
      ∃ m : HostWrite, m.port = r.port ∧ m.addr = s.doorbell n + 8 ∧ m.bytes.length = 8 ∧
        (leBytes 2 r.sqCi.toNat ++ leBytes 2 (r.cqPi + 1).toNat) <+: m.bytes ∧
        t.host.writes = s.host.writes ++
          [⟨r.port, r.cqBase + 32 * (r.cqPi.toNat % r.cqSize),
            recordBytes { rc with phase := r.cqPi.toNat / r.cqSize % 2 == 0 }⟩, m]) ∧
  (∀ (n : Nat) (rc : CqRecord) (rest : List CqRecord) (s : State),
    let r := s.ring n
    r.held = rc :: rest → r.cqSize ≤ (r.cqPi - r.cqCi).toNat → exec (.completionWrite n) s = .next s) ∧
  (∀ (n at_ : Nat) (s : State), (s.ring n).heldSince = some at_ → (s.ring n).cqStall = false → at_ + 4 * s.frameSubs < s.tb.sub →
    Completes (.cqStall n) s fun t =>
      t.ring n = { s.ring n with cqStall := true } ∧ (∃ k ∈ t.evt.table, k.code = 0x0E) ∧
      (∀ m, m ≠ n → t.ring m = s.ring m) ∧ Frame [.rmk, .evt, .cnt, .host] s t) ∧
  (∀ (n : Nat) (elapsed : Bool) (s : State),
    let r := s.ring n
    let due := (elapsed = true ∧ r.firstAt + usToSubs r.holdUs ≤ s.tb.sub) ∨ (elapsed = false ∧ max r.count 1 ≤ r.uncovered)
    (r.arm = true → r.linkLost = false → 0 < r.uncovered → due →
      Completes (.msixNotify n elapsed) s fun t =>
        t.ring n = { r with arm := false, uncovered := 0 } ∧ t.host = { s.host with msix := s.host.msix ++ [r.vector] } ∧
        (∀ m, m ≠ n → t.ring m = s.ring m) ∧ Frame [.rmk, .cnt, .host] s t) ∧
    (r.arm = false ∨ r.linkLost = true ∨ r.uncovered = 0 ∨ ¬due → exec (.msixNotify n elapsed) s = .next s))

/-- ENABLE (12 R369): it is refused with CFG_ERR when DB_VALID is 0, CQ_ORDER is below SQ_ORDER, an order is above 8, or the port is not
trained; otherwise all four indices are 0 and the ring is unbound, with the addresses as they stood. RESUME of a stopped ring whose port
is trained clears OVERRUN and LINK_LOST, unless the slots are still overrun (12 R393). A Ramok link that trains reports its lanes and
generation, one with no lanes is down, and an adapter reset stops every ring its port serves with LINK_LOST; a link lost for more than 100 ms does so too (12 R359,
R368, R392).
Model's choices here: log entry 23. -/
def Obligations.RingEnableResumeAndLinks : Prop :=
  ((∀ (p n : Nat) (v : Word) (s : State), s.writable p .ready = true → (s.ring n).enabled = false → bitOf v 10 = true →
     s.rmk.dbValid = true → fld v 3 0 ≤ fld v 7 4 → fld v 3 0 ≤ 8 → fld v 7 4 ≤ 8 → (s.port (fld v 8 8)).trained = true →
     Completes (.ringEnable p n v) s fun t =>
       (t.ring n).state = .unbound ∧ (t.ring n).sqPi = 0 ∧ (t.ring n).sqCi = 0 ∧ (t.ring n).cqPi = 0 ∧ (t.ring n).cqCi = 0 ∧
       (t.ring n).sqBase = (s.ring n).sqBase ∧ (t.ring n).cqBase = (s.ring n).cqBase ∧
       (t.ring n).sqSize = 16 * 2 ^ fld v 3 0 ∧ (t.ring n).cqSize = 16 * 2 ^ fld v 7 4 ∧ (t.ring n).port = fld v 8 8 ∧
       (∀ m, m ≠ n → t.ring m = s.ring m) ∧ Frame [.rmk] s t) ∧
   (∀ (p n : Nat) (v : Word) (s : State), s.writable p .ready = true → (s.ring n).enabled = false → bitOf v 10 = true →
     (s.rmk.dbValid = false ∨ fld v 7 4 < fld v 3 0 ∨ 8 < fld v 3 0 ∨ 8 < fld v 7 4 ∨ (s.port (fld v 8 8)).trained = false) →
     Completes (.ringEnable p n v) s fun t =>
       (t.ring n).cfgErr = true ∧ (t.ring n).enabled = false ∧ (∀ m, m ≠ n → t.ring m = s.ring m) ∧ Frame [.rmk] s t) ∧
   (∀ (p n : Nat) (v : Word) (pi ci : Half) (flags : Word) (s : State),
     let r := s.ring n
     s.writable p .ready = true → bitOf v 0 = true → r.stopped = true → (s.port r.port).trained = true →
     (pi - r.sqCi).toNat ≤ r.sqSize →
     Completes (.ringResume p n v pi ci flags) s fun t =>
       (t.ring n).stopped = false ∧ (t.ring n).overrun = false ∧ (t.ring n).linkLost = false ∧ (t.ring n).sqPi = pi ∧
       (t.ring n).cqCi = ci ∧ s.host.writes <+: t.host.writes ∧ (∀ m, m ≠ n → t.ring m = s.ring m) ∧
       Frame [.rmk, .streams, .cnt, .host] s t) ∧
   (∀ (p n : Nat) (v : Word) (pi ci : Half) (flags : Word) (s : State),
     let r := s.ring n
     (r.stopped = false → exec (.ringResume p n v pi ci flags) s = .next s) ∧
     (s.writable p .ready = true → bitOf v 0 = true → r.stopped = true → (s.port r.port).trained = true →
       r.sqSize < (pi - r.sqCi).toNat →
       Completes (.ringResume p n v pi ci flags) s fun t =>
         (t.ring n).stopped = true ∧ (t.ring n).overrun = true ∧ (t.ring n).sqPi = pi ∧ (t.ring n).cqCi = ci ∧
         (r.overrun = true → (t.ring n).held = r.held) ∧
         (r.overrun = false →
           ∃ e, (t.ring n).held = r.held ++ [e] ∧ e.event = true ∧ e.slot = r.sqCi.toNat % r.sqSize) ∧
         (∀ m, m ≠ n → t.ring m = s.ring m) ∧ Frame [.rmk, .streams, .cnt, .host] s t))) ∧
  ((∀ (p lanes gen : Nat) (reset : Bool) (s : State), s.boot.phase ≠ .reset → p < 2 → lanes = 8 ∨ lanes = 4 → 1 ≤ gen → gen ≤ 3 →
     Completes (.ramokLinkTrain p lanes gen reset) s fun t =>
       (t.port p).trained = true ∧ (t.port p).lanes = lanes ∧ (t.port p).gen = gen ∧ t.port (1 - p) = s.port (1 - p) ∧
       (reset = false → ∀ n, t.ring n = s.ring n) ∧
       (reset = true → ∀ n, t.ring n =
         if (s.ring n).enabled && (s.ring n).port == p then { s.ring n with stopped := true, linkLost := true } else s.ring n) ∧
       Frame [.cap, .rmk, .evt, .cnt, .host] s t) ∧
   (∀ (p gen : Nat) (reset : Bool) (s : State), s.boot.phase ≠ .reset → p < 2 →
     Completes (.ramokLinkTrain p 0 gen reset) s fun t =>
       (t.port p).trained = false ∧ t.port (1 - p) = s.port (1 - p) ∧ (∀ n, t.ring n = s.ring n) ∧ Frame [.cap, .rmk, .evt, .cnt, .host] s t) ∧
   (∀ (p : Nat) (s : State), p < 2 → s.boot.phase ≠ .reset → (s.port p).everUp = true →
     Completes (.ramokLinkLost p) s fun t =>
       (t.port p).trained = false ∧ t.port (1 - p) = s.port (1 - p) ∧
       (∀ n, t.ring n =
         if (s.ring n).enabled && (s.ring n).port == p then { s.ring n with stopped := true, linkLost := true } else s.ring n) ∧
       Frame [.cap, .rmk, .evt, .cnt, .host] s t))

/-! ### Sessions, models, streams -/

/-- SESSION_OPEN (16 R501 to R503, 12 R366): the first check that fails refuses the request with its number, and opens nothing; otherwise
the ring is bound to the session that the request opens, whose tenant ID is the digest of the request's key, the 1,024 bytes of the signed
reply go to RESP_ADDR, BIND goes to Almanac, counts of a session closed in the same tally window stay apart (01 R25), and the record's RESULT
is the session. SESSION_CLOSE (13 R403): a session with a stream that is not Closed, or with another accepted descriptor, is not empty;
otherwise its models and the session with its keys go, its ring is unbound, and its tallies close with the Frame.
Model's choices here: log entries 4 and 6. -/
def Obligations.Sessions : Prop :=
  (∀ (n k : Nat) (request : List Byte) (d : Desc) (s : State),
    s.desc n k = some d → d.opcode = 0x01 → (s.ring n).linkLost = false →
    let q := bytesAt request 0 386
    let o := openSession n d q s
    Completes (.sessionOpen n k request) s fun t =>
      (∀ m, m ≠ n → t.ring m = s.ring m) ∧ Frame (touches (.sessionOpen n k request)) s t ∧
      (∀ reason, requestReason s d.reqBytes q = some reason →
        Retired t n d { status := stSessionRefused, detail := reason } ∧ Frame [.rmk, .cnt] s t ∧ (t.ring n).state = (s.ring n).state) ∧
      (requestReason s d.reqBytes q = none →
        Retired t n d { status := stSuccess, result := n } ∧ (t.ring n).state = .bound ∧
        (∃ x, o.1.session n = some x ∧ x.tid = bytesAt (digest32 (bytesAt q 0xA0 57)) 0 16 ∧
          t.session n = some { x with account := x.account.charge { Account.zero with ramokIn := d.reqBytes, ramokOut := 1024 } } ∧
          t.almSent = s.almSent ++
            [leBytes 1 1 ++ zeros 1 ++ leBytes 2 n ++ leBytes 4 s.mseqOut ++ bytesAt (x.tid ++ leBytes 6 s.tb.frame.toNat) 0 56]) ∧
        (o.2 ++ s.sign o.2 ++ zeros 462).length = 1024 ∧
        t.host.writes = s.host.writes ++ [⟨(s.ring n).port, d.respAddr, o.2 ++ s.sign o.2 ++ zeros 462⟩] ∧
        (∀ y, tabGet s.tallies n = some y → y.closed.isSome = true → (n, y) ∈ t.acct.closed) ∧
        ∀ m, m ≠ n → t.session m = s.session m)) ∧
  (∀ (n k : Nat) (d : Desc) (s : State), s.desc n k = some d → d.opcode = 0x02 → s.mayStart n d = true → (s.ring n).linkLost = false →
    (∀ x ∈ s.streamList, x.session = n → x.phase = .closed) → (∀ e ∈ (s.ring n).accepted, e.seq = k) →
    Completes (.sessionClose n k) s fun t =>
      Retired t n d { status := stSuccess } ∧ (t.ring n).state = .unbound ∧ t.session n = none ∧
      ((∀ h m, s.model h = some m → m.handle = h) → ∀ h m, t.model h = some m → m.session ≠ n) ∧
      (∃ y, tabGet t.tallies n = some y ∧ y.closed = some s.tb.frame) ∧ Frame (touches (.sessionClose n k)) s t) ∧
  (∀ (n k : Nat) (d : Desc) (s : State), s.desc n k = some d → d.opcode = 0x02 → s.mayStart n d = true → (s.ring n).linkLost = false →
    ((∃ x ∈ s.streamList, x.session = n ∧ x.phase ≠ .closed) ∨ ∃ e ∈ (s.ring n).accepted, e.seq ≠ k) →
    Completes (.sessionClose n k) s fun t => Retired t n d { status := stSessionNotEmpty } ∧ Frame [.rmk] s t)

/-- MODEL_LOAD (13 R404, R405, 16 R507, R508, 10 R315), once the host Tracer serves its image: a buffer list that is not good ends with
BAD_BUFFER at the offset that fails; an image whose header or tag Proof rejects ends with AUTH_FAILED; one that graph acceptance rejects ends
with GRAPH_REJECTED; one for which no handle or no room is left with RESOURCE_EXHAUSTED. Otherwise the image is in the voice library of the
session under the next handle: with its class, or as Auto where pinning is not granted, its record has the handle in RESULT and the class in
DETAIL; a model that is pinned completes so as Auto, or its descriptor waits for the promotion that it started. MODEL_EVICT (01 R27, 13
R406): a voice in use stays; one that is not in use leaves; a handle that is not loaded leaves nothing to do.
Model's choices here: log entries 4, 12 and 20. -/
def Obligations.VoiceModels : Prop :=
  (∀ (n k : Nat) (list image : List Byte) (d : Desc) (s : State),
    s.desc n k = some d → d.opcode = 0x03 → s.mayStart n d = true → (s.ring n).linkLost = false →
    s.tracerServes (s.ring n).port (s.imageXfer n d) = true →
    Completes (.modelLoad n k list image) s fun t =>
      (∀ m, m ≠ n → t.ring m = s.ring m) ∧ Frame (touches (.modelLoad n k list image)) s t ∧
      (∀ off, listReason d.listCount d.wrappedBytes (bytesAt list 0 (16 * d.listCount)) = some off →
        Retired t n d { status := stBadBuffer, detail := off } ∧ t.models = s.models) ∧
      (listReason d.listCount d.wrappedBytes (bytesAt list 0 (16 * d.listCount)) = none →
        let w := bytesAt image 0 d.wrappedBytes
        (wrapKey s w = none → Retired t n d { status := stAuthFailed, count := d.wrappedBytes } ∧ t.models = s.models) ∧
        (∀ key, wrapKey s w = some key → unwrap w key = none →
          Retired t n d { status := stAuthFailed, count := d.wrappedBytes } ∧ t.models = s.models) ∧
        (∀ key m reason, wrapKey s w = some key → unwrap w key = some m → imageReason s m = some reason →
          Retired t n d { status := stGraphRejected, detail := reason, count := d.wrappedBytes } ∧ t.models = s.models) ∧
        (∀ key m, wrapKey s w = some key → unwrap w key = some m → imageReason s m = none →
          s.newHandle = none ∨ s.poolTake (ceilDiv m.length 2097152) = none →
          Retired t n d { status := stExhausted, count := d.wrappedBytes } ∧ t.models = s.models) ∧
        (∀ key m h es, wrapKey s w = some key → unwrap w key = some m → imageReason s m = none → s.newHandle = some h →
          s.poolTake (ceilDiv m.length 2097152) = some es →
          let cls := if d.cls = 3 then s.mem.policy.defaultClass else d.cls
          let pin := s.mem.policy.allowPin && s.pinRoom m
          ∃ v, t.model h = some v ∧ v.session = n ∧ v.image = m ∧
            (cls ≠ 2 → v.cls = cls ∧ v.res = .cold ∧ Retired t n d { status := stSuccess, detail := cls, result := h, count := d.wrappedBytes }) ∧
            (cls = 2 → pin = false →
              v.cls = 1 ∧ v.res = .cold ∧ Retired t n d { status := stSuccess, detail := 1, result := h, count := d.wrappedBytes }) ∧
            (cls = 2 → pin = true →
              (v.cls = 1 ∧ v.res = .cold ∧ Retired t n d { status := stSuccess, detail := 1, result := h, count := d.wrappedBytes }) ∨
              (v.cls = 2 ∧ (∃ set job, v.res = .copying set job 0 (s.tb.sub, s.tb.sub + s.frameSubs)) ∧
                t.desc n k = some { d with started := true, link := h + 1 }))))) ∧
  (∀ (n k : Nat) (d : Desc) (m : Model) (s : State), s.desc n k = some d → d.opcode = 0x04 → s.mayStart n d = true →
    s.model d.handle = some m → m.handle = d.handle →
    (s.streamList.any (·.usesVoice m.handle) = false → s.adaptUses n m.handle = false → s.openUses n m.handle = false →
      Completes (.modelEvict n k) s fun t =>
        Retired t n d { status := stSuccess } ∧ t.model d.handle = none ∧ Frame (touches (.modelEvict n k)) s t) ∧
    (s.streamList.any (·.usesVoice m.handle) = true ∨ s.adaptUses n m.handle = true ∨ s.openUses n m.handle = true →
      Completes (.modelEvict n k) s fun t => Retired t n d { status := stModelInUse } ∧ Frame [.rmk] s t)) ∧
  (∀ (n k : Nat) (d : Desc) (s : State), s.desc n k = some d → d.opcode = 0x04 → s.mayStart n d = true → s.model d.handle = none →
    Completes (.modelEvict n k) s fun t => Retired t n d { status := stSuccess } ∧ Frame [.rmk] s t)

/-- STREAM_OPEN (13 R407, 17 R549, 10 R310): a damaged voice, or the metered stop, refuses it; otherwise admission decides: a refusal reports its reason, and a
place opens the stream in Idle under the lowest free stream ID, which the record's RESULT reports, with the options, seed and line slot of the
descriptor and the initial state of its voice; it waits while a Season change is pending (02 R44). STREAM_CTRL completes once the plan close
that applies it has passed (12 R387). STREAM_CLOSE completes when its stream is Closed, its pulls have completed and its line has played its
last chunk: the ID is free, and COUNT is the number of samples handed off (13 R426, 01 R36); until then it waits.
Model's choices here: log entries 12, 23, 40 and 41. -/
def Obligations.Streams : Prop :=
  (∀ (n k : Nat) (d : Desc) (s : State), s.desc n k = some d → d.opcode = 0x05 → d.started = true ∨ s.mayStart n d = true →
    s.tb.pendingCfg = none → (∀ m, s.model d.handle = some m → m.damaged = false) → s.alm.meteredStop = false →
    let a : Ask := ⟨n, d.handle, d.season, d.rate, d.sflag 2, d.sflag 3, none, [d.handle]⟩
    Completes (.streamOpen n k) s fun t =>
      (∀ m, m ≠ n → t.ring m = s.ring m) ∧ Frame (touches (.streamOpen n k)) s t ∧
      (∀ e, s.admitAsk a = .error e → Retired t n d { status := stAdmissionRefused, detail := e } ∧ t.streams = s.streams) ∧
      (∀ p m id, s.admitAsk a = .ok p → s.model d.handle = some m → freeKey s.streams 16384 0 = some id →
        Retired t n d { status := stSuccess, result := id } ∧
        (2 ≤ d.dest → tabGet (t.dir d.line 0).holders d.lslot = some id) ∧
        ∃ x, t.stream id = some x ∧ x.id = id ∧ x.session = n ∧ x.handle = m.handle ∧ x.phase = .idle ∧ x.rate = d.rate ∧
          x.keep = d.sflag 2 ∧ x.fill = d.sflag 3 ∧ x.dither = d.sflag 4 ∧ x.lineFill = d.sflag 5 ∧
          (x.toHost = true ↔ d.dest % 2 = 1) ∧ (x.toLine = true ↔ 2 ≤ d.dest) ∧ x.line = d.line ∧ x.slot = d.lslot ∧
          x.seed = BitVec.ofNat 64 d.seed ∧ x.key = BitVec.ofNat 32 d.streamKey ∧ x.layers = initialLayers m.image ∧
          x.head = initialHead m.image ∧ x.handed = 0 ∧ x.covered = 0)) ∧
  (∀ (n k : Nat) (d : Desc) (s : State), s.desc n k = some d → d.opcode = 0x05 → d.started = true ∨ s.mayStart n d = true →
    (s.tb.pendingCfg = none → (∃ m, s.model d.handle = some m ∧ m.damaged = true) →
      Completes (.streamOpen n k) s fun t => Retired t n d { status := stModelDamaged } ∧ Frame [.rmk, .lines] s t) ∧
    (s.tb.pendingCfg = none → (∀ m, s.model d.handle = some m → m.damaged = false) → s.alm.meteredStop = true →
      Completes (.streamOpen n k) s fun t => Retired t n d { status := stMeteredStop } ∧ Frame [.rmk, .lines] s t) ∧
    (s.tb.pendingCfg.isSome = true →
      Completes (.streamOpen n k) s fun t =>
        (∃ e, t.desc n k = some e ∧ e.started = true) ∧ (∀ m, (t.ring m).held = (s.ring m).held) ∧ Frame [.rmk] s t)) ∧
  (∀ (n k : Nat) (d : Desc) (s : State), s.desc n k = some d → d.opcode = 0x06 →
    (d.committed = true → Completes (.streamCtrl n k) s fun t => Retired t n d { status := stSuccess } ∧ Frame [.rmk] s t) ∧
    (d.committed = false → exec (.streamCtrl n k) s = .next s)) ∧
  (∀ (n k : Nat) (d : Desc) (x : Stream) (s : State), s.desc n k = some d → d.opcode = 0x09 → s.stream d.stream = some x →
    x.id = d.stream → x.session = n →
    (x.phase = .closed → s.pulls x = [] → x.toLine = false ∨ (x.playing = none ∧ x.played = none) →
      Completes (.streamClose n k) s fun t =>
        Retired t n d { status := stSuccess, count := x.handed } ∧ t.stream d.stream = none ∧ Frame (touches (.streamClose n k)) s t) ∧
    (x.phase ≠ .closed ∨ s.pulls x ≠ [] ∨ (x.toLine = true ∧ (x.playing ≠ none ∨ x.played ≠ none)) →
      exec (.streamClose n k) s = .next s))

/-- Feature data (13 R411 to R417, 12 R384, R387, R395): a push that may start has its buffer fetched; a packet that the host Tracer serves,
authentic and well tagged, extends the stream's feature queue by its records and its coverage by their spans; a packet that fails ends its push
with the status of the first check; a push whose samples are all handed off completes with the packets taken in RESULT, and an aborted one with
ABORTED once it has stopped; and the packets that a Transfer took along are reported handed off by the destination (15 R490).
Model's choices here: log entries 4, 33 and 40. -/
def Obligations.FeatureData : Prop :=
  (∀ (n k : Nat) (d : Desc) (x : Stream) (s : State), s.desc n k = some d → d.opcode = 0x07 → s.stream d.stream = some x →
    actsOn x d = true → x.session = n → d.started = false → d.aborted = false → (s.ring n).linkLost = false →
    (∀ e ∈ s.pushes x, d.seq ≤ e.seq ∨ e.closed = true) → 128 * x.records.length + d.bufBytes ≤ 262144 →
    Completes (.featurePush n k) s fun t =>
      t.desc n k = some { d with started := true, fetchAt := s.tb.sub, due := s.featureDue x } ∧ (∀ m, m ≠ n → t.ring m = s.ring m) ∧
      Frame [.rmk, .sessions, .jobs, .cnt, .tallies] s t) ∧
  (∀ (n k : Nat) (bytes : List Byte) (d : Desc) (x : Stream) (s : State), s.desc n k = some d → d.opcode = 0x07 →
    s.stream d.stream = some x → actsOn x d = true → x.session = n → d.started = true → d.closed = false → d.aborted = false →
    x.transferring = false ∨ x.left = false → s.tracerServes (s.ring n).port (s.featureXfer x d) = true →
    let g := tagOf (bytesAt bytes 0 16)
    let b := bytesAt bytes 0 g.length
    Completes (.featurePacket n k bytes) s fun t =>
      (∀ m, m ≠ n → t.ring m = s.ring m) ∧ Frame [.rmk, .streams, .cnt] s t ∧
      if d.bufBytes < d.offset + g.length then
        Retired t n d { status := stTagInvalid, detail := 1, result := d.packets } ∧ t.streams = s.streams
      else match gcmOpen (s.keyS n) (nonceOf 1 x.ordinal (g.seq + 4294967296 * x.seqWrap)) (bytesAt b 0 16)
          (bytesAt b 16 (g.length - 32)) (bytesAt b (g.length - 16) 16) with
      | none => Retired t n d { status := stAuthFailed, result := d.packets } ∧ t.streams = s.streams
      | some p =>
        let cs := controlsOf g (bytesAt p 0 32) k
        let rs := recordsOf k g.records x.covered (p.drop (if g.hasControl then 32 else 0))
        match packetReason s x g (bytesAt p 0 32) cs with
        | some r => Retired t n d { status := r.1, detail := r.2, result := d.packets } ∧ t.streams = s.streams
        | none =>
          ∃ y, t.stream d.stream = some y ∧ y.records = x.records ++ rs ∧ y.covered = x.covered + (rs.map (·.span)).sum ∧
            y.controls = x.controls ++ cs ∧ y.nextSeq = BitVec.ofNat 32 (g.seq + 1) ∧ y.handed = x.handed ∧
            ∃ e, t.desc n k = some e ∧ e.packets = d.packets + 1 ∧ e.offset = d.offset + g.length ∧ e.fetchAt = s.tb.sub ∧
              e.due = s.featureDue y) ∧
  (∀ (n k : Nat) (d : Desc) (x : Stream) (s : State), s.desc n k = some d → d.opcode = 0x07 → s.stream d.stream = some x →
    actsOn x d = true → x.session = n → (s.pushes x).head? = some d → d.aborted = false → pushCommitted x d = true →
    Completes (.featurePushCommit n k) s fun t =>
      Retired t n d { status := stSuccess, result := d.packets, count := d.done, win := d.win } ∧ Frame [.rmk] s t) ∧
  (∀ (n k : Nat) (d : Desc) (x : Stream) (s : State), s.desc n k = some d → d.opcode = 0x07 → s.stream d.stream = some x →
    actsOn x d = true → x.session = n → (s.pushes x).head? = some d → pushStopped x d = true →
    Completes (.featurePushCommit n k) s fun t =>
      Retired t n d { status := stAborted, result := d.packets, count := d.done, win := d.win } ∧ Frame [.rmk] s t) ∧
  (∀ (n k m : Nat) (d : Desc) (s : State), s.desc n k = some d → d.opcode = 0x07 → 65536 ≤ d.link → d.aborted = false →
    (d.total ≤ d.done + m →
      Completes (.handOffReport n k m) s fun t =>
        Retired t n d { status := stSuccess, result := d.packets, count := d.total, win := d.win } ∧
        Frame [.rmk] s t) ∧
    (d.done + m < d.total →
      Completes (.handOffReport n k m) s fun t => t.desc n k = some { d with done := d.done + m } ∧ Frame [.rmk] s t))

/-- AUDIO_PULL and its delivery (13 R418, R419, 16 R505; 09 R284, R289, R290): the oldest pull of a stream starts at the next sample to be
delivered. A delivery moves whole pieces, in stream order and at most so many samples, and leaves the ring's samples as they are. A piece that the
host Scriber serves moves on by what of it fits the buffer, up to an end mark, and is written behind the words before it under the session's key
with the pull's own nonce; a pull that is done then completes with its bytes in COUNT and its trailer written; one that is not goes on.
Model's choices here: log entries 4, 6 and 40. -/
def Obligations.AudioToTheHost : Prop :=
  (∀ (n k : Nat) (d : Desc) (x : Stream) (s : State), s.desc n k = some d → d.opcode = 0x08 → s.stream d.link = some x → x.session = n →
    d.started = false → (s.pulls x).head? = some d →
    Completes (.audioPull n k) s fun t =>
      t.desc n k = some { d with started := true, first := x.delivered, fetchAt := s.tb.sub } ∧ (∀ m, m ≠ n → t.ring m = s.ring m) ∧
      Frame [.rmk] s t) ∧
  (∀ (id samples : Nat) (d : Desc) (x : Stream) (s : State), s.stream id = some x → (s.pulls x).head? = some d →
    s.desc x.session d.seq = some d → d.started = true → (s.ring x.session).linkLost = false → (s.port (s.ring x.session).port).trained = true →
    (Completes (.audioDelivery id samples) s fun t =>
      (∃ y, t.stream id = some y ∧ x.delivered ≤ y.delivered ∧ y.delivered ≤ x.delivered + samples ∧ y.audio = x.audio) ∧
      s.host.writes <+: t.host.writes ∧ (∀ m, m ≠ x.session → t.ring m = s.ring m) ∧ Frame (touches (.audioDelivery id samples)) s t) ∧
    let n := pieceRoom x d
    (0 < n → samples = n → pullDone x d = false → s.scriberServes (s.ring x.session).port (s.audioXfer x d) = true →
      let pcm := (((x.audio.filter fun a => x.delivered ≤ a.1).take n).map fun a => leBytes 3 a.2.toNat).flatten
      let cipher := (gcmCrypt (s.keyS x.session) (nonceOf 2 x.ordinal d.ordinal) (d.plain ++ pcm)).drop d.done
      let x' : Stream := { x with
        delivered := x.delivered + n
        pieces := x.pieces.filter fun p => x.delivered + n < p.first + p.count }
      let d' : Desc := { d with
        done := d.done + 3 * n
        plain := d.plain ++ pcm
        due := (x.nextPiece.map (·.due)).getD d.due }
      Completes (.audioDelivery id samples) s fun t =>
        (∃ y, t.stream id = some y ∧ y.delivered = x.delivered + n) ∧
        (⟨(s.ring x.session).port, d.addr + d.done, cipher⟩ : HostWrite) ∈ t.host.writes ∧
        (pullDone x' d' = false → t.desc x.session d.seq = some d') ∧
        (pullDone x' d' = true →
          (∀ e ∈ (t.ring x.session).accepted, e.seq ≠ d.seq) ∧
          ∃ c rest, (t.ring x.session).held = (s.ring x.session).held ++ c :: rest ∧ c.slot = d.slot ∧
            c.status = (if x.faulted = true then stStreamFault else stSuccess) ∧ c.count = d'.done ∧
            ∃ w ∈ t.host.writes, w.port = (s.ring x.session).port ∧ w.addr = d.trailerAddr)))

/-! ### Adaptation, Transfers -/

/-- ADAPT_JOB (13 R400, R420, R421, 08 R243): graphs that fail check 13 reject it; without a job context or a save area it is refused; a host
buffer that does not verify ends it with AUTH_FAILED; otherwise it has its Fill job with its input, seed and key, and captured input has its
capture. An optimiser step of the job whose sequence of strokes has ended adds one to its step count. Behind the last step the job ends, and
the descriptor completes with the step count: with the handle of the session's new model, which is the target's image with the output's
weights, or with RESOURCE_EXHAUSTED where the library has no room.
Model's choices here: log entries 32 and 40. -/
def Obligations.AdaptationJobs : Prop :=
  (∀ (n k : Nat) (bytes : List Byte) (d : Desc) (m v : Model) (s : State), s.desc n k = some d → d.opcode = 0x0A →
    s.mayStart n d = true → (s.ring n).linkLost = false → s.model d.handle = some m → s.model d.targetHandle = some v →
    Completes (.adaptJob n k (.start bytes)) s fun t =>
      let begun (id : Nat) (p : List Byte) : Prop :=
        (∃ j, t.job id = some j ∧ j.kind = .adapt n k ∧ j.fill = true ∧ j.state = .frosted ∧ j.session = n ∧ j.handle = m.handle ∧
          j.optStep = 0 ∧ j.steps = d.steps ∧
          j.input = p ∧ j.seed = BitVec.ofNat 64 d.adSeed ∧ j.key = BitVec.ofNat 32 d.jobKey) ∧
        t.desc n k = some { d with started := true, link := id }
      let fits : Bool := s.reserveOk m.image (s.adaptCores m.image) (adaptExtents d)
      (check13 m.image v.image d.outputBytes d.input = false →
        Retired t n d { status := stGraphRejected, detail := 13 } ∧ t.jobs = s.jobs) ∧
      (check13 m.image v.image d.outputBytes d.input = true →
        (freeKey s.jobs 1024 0 = none → Retired t n d { status := stAdmissionRefused, detail := 9 } ∧ t.jobs = s.jobs) ∧
        (∀ id, freeKey s.jobs 1024 0 = some id →
          (fits = false → Retired t n d { status := stAdmissionRefused, detail := 10 } ∧ t.jobs = s.jobs) ∧
          (fits = true → d.input = 1 →
            begun id (zeros (4 * d.inputLen)) ∧ ∃ c ∈ t.lines.captures, c.job = id ∧ c.left = d.inputLen) ∧
          (fits = true → d.input ≠ 1 → s.adaptInput n d bytes = none → Retired t n d { status := stAuthFailed } ∧ t.jobs = s.jobs) ∧
          (∀ p, fits = true → d.input ≠ 1 → s.adaptInput n d bytes = some p → begun id p))) ∧
      (∀ i, i ≠ n → t.ring i = s.ring i) ∧ Frame (touches (.adaptJob n k (.start bytes))) s t) ∧
  (∀ (n k : Nat) (d : Desc) (j : Job) (s : State), s.desc n k = some d → d.opcode = 0x0A → d.started = true →
    s.job d.link = some j → j.id = d.link → j.kind = .adapt n k → s.stepEnds j = true →
    exec (.adaptJob n k .optStep) s = .next (s.setJob { j with optStep := j.optStep + 1, lastRan := s.tb.frameOrd })) ∧
  (∀ (n k : Nat) (d : Desc) (j : Job) (m v : Model) (s : State), s.desc n k = some d → d.opcode = 0x0A → d.started = true →
    s.job d.link = some j → j.id = d.link → j.kind = .adapt n k → j.away = none → d.steps ≤ j.optStep → s.model d.handle = some m →
    s.model d.targetHandle = some v →
    let image := adaptedImage m.image v.image j.output
    let s' := s.endJob j.id false
    Completes (.adaptJob n k .commit) s fun t =>
      (∀ e ∈ (t.ring n).accepted, e.seq ≠ k) ∧
      ∃ c, (t.ring n).held.getLast? = some c ∧ c.slot = d.slot ∧ c.count = j.optStep ∧
        (s'.newHandle = none ∨ s'.poolTake (ceilDiv image.length 2097152) = none → c.status = stExhausted) ∧
        (∀ h es, s'.newHandle = some h → s'.poolTake (ceilDiv image.length 2097152) = some es →
          c.status = stSuccess ∧ c.result = BitVec.ofNat 32 h ∧
          ∃ u, t.model h = some u ∧ u.session = n ∧ u.image = image ∧ c.detail = u.cls))

/-- FILL_OFFLOAD (15 R481, R482): a Frosted adaptation job that has waited longer than OFFLOAD_FRAMES is moved to a member it can reach, with its
save area, the two images, what it has written so far and its scratch; the member that has the room holds it Frosted, with its graph in the library; an optimiser step of the bound
guest adds one to its count; behind the last step the member sends its output region back and ends it; and what comes back is the job's output region.
Model's choices here: log entries 34 and 41. -/
def Obligations.FillOffloads : Prop :=
  (∀ (id member n k : Nat) (j : Job) (a : SaveArea) (d : Desc) (m v : Model) (s : State), s.job id = some j → j.id = id →
    j.kind = .adapt n k → s.desc n k = some d → j.save = some a → s.model d.handle = some m → s.model d.targetHandle = some v →
    d.input = 0 → j.state = .frosted → j.away = none → 0 < s.ihx.offloadFrames → s.ihx.offloadFrames < j.waits →
    s.reaches member = true →
    Completes (.fillOffload id (.move member)) s fun t =>
      (∃ j', t.job id = some j' ∧ j'.away = some member ∧ j'.state = .frosted) ∧
      (let out := memBytes j.output 0 (((j.output.getLast?).map fun c => c.1 + 1).getD 0)
       t.ihx.sent = s.ihx.sent ++
         [⟨s.portTo member, 17, [id], saveBytes m.image a id ++ m.image ++ v.image ++ out ++ s.scratchBytes j⟩]) ∧
      Frame [.sessions, .jobs, .ihx, .cnt, .tallies] s t) ∧
  (∀ (id : Nat) (o : OffloadMsg) (s : State), s.reaches o.home = true → s.job id = none → freeKey s.jobs 1024 0 = some id →
    Completes (.fillOffload id (.arrive o)) s fun t =>
      (∀ i, i ≠ id → t.job i = s.job i) ∧
      ∀ h es, imageReason s o.adapt = none → s.reserveOk o.adapt o.cores (scratchExtents + ceilDiv o.outBytes 2097152) = true →
        s.newHandle = some h →
        s.poolTake (ceilDiv o.adapt.length 2097152) = some es →
        (∃ j, t.job id = some j ∧ j.kind = .guest o.homeJob o.outBytes ∧ j.state = .frosted ∧ j.home = some o.home ∧ j.handle = h ∧
          j.optStep = o.optStep ∧ j.steps = o.steps ∧ j.workFrame = o.workFrame ∧ j.seed = o.seed ∧ j.key = o.key ∧
          (∀ i, i < o.outBytes → memRead j.output i = o.output.getD i 0) ∧ ∃ a, j.save = some a ∧ a.extents = o.extents) ∧
        ∃ m, t.model h = some m ∧ m.image = o.adapt) ∧
  (∀ (id k n : Nat) (j : Job) (s : State), s.job id = some j → j.id = id → j.kind = .guest k n → s.stepEnds j = true →
    exec (.fillOffload id .step) s = .next (s.setJob { j with optStep := j.optStep + 1, lastRan := s.tb.frameOrd })) ∧
  (∀ (id k n home : Nat) (j : Job) (s : State), s.job id = some j → j.id = id → j.kind = .guest k n → j.state = .bound →
    j.steps ≤ j.optStep → j.home = some home →
    Completes (.fillOffload id .finish) s fun t =>
      t.job id = none ∧
      ((s.ihxPort (s.portTo home)).trained = true →
        (⟨s.portTo home, 18, [k, j.optStep], memBytes j.output 0 n⟩ : IhxMsg) ∈ t.ihx.sent)) ∧
  (∀ (id n member : Nat) (b : List Byte) (j : Job) (s : State), s.job id = some j → j.id = id → j.away = some member →
    Completes (.fillOffload id (.returned n b)) s fun t =>
      (∃ j', t.job id = some j' ∧ j'.away = none ∧ j'.optStep = n ∧ ∀ i, i < b.length → memRead j'.output i = b.getD i 0) ∧
      Frame [.sessions, .jobs, .cnt, .tallies] s t)

/-- A Transfer up to its handover (15 R486 steps 1 to 3, R487, 16 R522): TRANSFER_OUT offers its stream as soon as the source may, and waits
until then; TRANSFER_IN waits for the OFFER; an OFFER without a TRANSFER_IN is kept; one that meets its TRANSFER_IN fails with the DETAIL of
the first check, of which the source is told, or is refused by admission, or is admitted: a stream is prepared and ACCEPT answers; on ACCEPT
the source takes the second Frame tick from now as the handover and sends CONFIRM; the destination learns it from CONFIRM.
Model's choices here: log entry 33. -/
def Obligations.TransferToHandover : Prop :=
  (∀ (n k : Nat) (d : Desc) (x : Stream) (m : Model) (e : Session) (s : State), s.desc n k = some d → d.opcode = 0x0B → d.seq = k →
    s.stream d.stream = some x → x.session = n → s.model x.handle = some m → s.session n = some e → s.transferOf n k = none →
    s.transfer d.transferId = none →
    Completes (.transferOut n k) s fun t =>
      Frame [.ihx] s t ∧
      ∃ u, t.transfer d.transferId = some u ∧ u.outgoing = true ∧ u.ring = n ∧ u.seq = k ∧ u.peer = d.target ∧ u.stream = d.stream ∧
        (s.mayOffer u x = true →
          u.stage = .offered ∧ t.ihx.sent = s.ihx.sent ++ [⟨s.portTo d.target, 1, [], offerBytes (s.offerOf u x m e)⟩]) ∧
        (s.mayOffer u x = false → u.stage = .waiting ∧ t.ihx.sent = s.ihx.sent)) ∧
  (∀ (n k : Nat) (d : Desc) (x : Stream) (m : Model) (e : Session) (u : Transfer) (s : State), s.desc n k = some d → d.opcode = 0x0B →
    s.stream d.stream = some x → x.session = n → s.model x.handle = some m → s.session n = some e → s.transferOf n k = some u →
    s.transfer u.id = some u → u.stage = .waiting → s.mayOffer u x = true →
    Completes (.transferOut n k) s fun t =>
      t.transfer u.id = some { u with stage := .offered } ∧
      t.ihx.sent = s.ihx.sent ++ [⟨s.portTo u.peer, 1, [], offerBytes (s.offerOf u x m e)⟩] ∧ Frame [.ihx] s t) ∧
  (∀ (n k : Nat) (d : Desc) (s : State), s.desc n k = some d → d.opcode = 0x0C → d.seq = k → s.mayStart n d = true →
    s.transferOf n k = none → s.transfer d.transferId = none → (∀ q ∈ s.ihx.offers, q.transferId ≠ d.transferId) →
    Completes (.transferIn n k) s fun t =>
      t.desc n k = some { d with started := true } ∧ Frame [.rmk, .ihx] s t ∧
      ∃ u, t.transfer d.transferId = some u ∧ u.outgoing = false ∧ u.stage = .waiting ∧ u.peer = d.source ∧ u.ring = n ∧ u.seq = k) ∧
  (∀ (o : OfferMsg) (s : State), s.ihx.state ≠ 0 → (s.ihxPort (s.portTo o.source)).trained = true →
    (s.ihxPort (s.portTo o.source)).wiringErr = false → o.source < 17 → o.source ≠ s.ihx.member → s.transfer o.transferId = none →
    exec (.offer o) s = .next { s with ihx := { s.ihx with
      offers := s.ihx.offers.filter (fun q => q.transferId != o.transferId) ++ [o] } }) ∧
  (∀ (o : OfferMsg) (u : Transfer) (d : Desc) (s : State), s.ihx.state ≠ 0 → (s.ihxPort (s.portTo o.source)).trained = true →
    (s.ihxPort (s.portTo o.source)).wiringErr = false → o.source < 17 → o.source ≠ s.ihx.member →
    s.transfer o.transferId = some u → u.outgoing = false → u.stage = .waiting → u.peer = o.source → s.tb.pendingCfg = none →
    s.desc u.ring u.seq = some d → s.stream u.stream = none →
    let s' : State := { s with ihx := { s.ihx with offers := s.ihx.offers.filter fun q => q.transferId != o.transferId } }
    let a : Ask := ⟨u.ring, d.handle, s.tb.season, o.rate, o.keep, o.fill, none, [d.handle]⟩
    Completes (.offer o) s fun t =>
      (∀ r, s'.offerReason u.ring d o = some r →
        Retired t u.ring d { status := stTransferFailed, detail := r } ∧ t.transfer o.transferId = none ∧
        t.ihx.sent = s.ihx.sent ++ [⟨s.portTo u.peer, 3, [o.transferId.toNat, r], []⟩]) ∧
      (∀ r, s'.offerReason u.ring d o = none → s'.admitArrival a u.peer = .error r →
        Retired t u.ring d { status := stAdmissionRefused, detail := r } ∧ t.transfer o.transferId = none ∧
        t.ihx.sent = s.ihx.sent ++ [⟨s.portTo u.peer, 3, [o.transferId.toNat, 4], []⟩]) ∧
      (∀ p m, s'.offerReason u.ring d o = none → s'.admitArrival a u.peer = .ok p → s.model d.handle = some m →
        (∃ u', t.transfer o.transferId = some u' ∧ u'.stage = .accepted ∧ u'.offer = some o ∧
          ∃ y, t.stream u'.stream = some y ∧ y.session = u.ring ∧ y.transferring = true) ∧
        t.ihx.sent = s.ihx.sent ++ [⟨s.portTo u.peer, 2, [o.transferId.toNat], []⟩])) ∧
  (∀ (id : DWord) (u : Transfer) (x : Stream) (s : State), s.transfer id = some u → s.stream u.stream = some x → u.outgoing = true →
    u.stage = .offered →
    Completes (.accept id) s fun t =>
      t.transfer id = some { u with stage := .confirmed, handover := s.tb.frameOrd + 2, credits := !x.fill } ∧
      t.ihx.sent = s.ihx.sent ++
        (if (s.ihxPort (s.portTo u.peer)).trained = true then [⟨s.portTo u.peer, 4, [id.toNat, s.tb.frame.toNat + 2], []⟩] else []) ∧
      (t.ihxPort (s.portTo u.peer)).vc1Live = (s.ihxPort (s.portTo u.peer)).vc1Live - (if x.fill then 0 else 256) ∧ Frame [.ihx] s t) ∧
  (∀ (id : DWord) (frame : BitVec 48) (u : Transfer) (s : State), s.transfer id = some u → u.outgoing = false → u.stage = .accepted →
    Completes (.confirm id frame) s fun t =>
      t.transfer id = some { u with stage := .confirmed, handover := s.tb.frameOrd + (frame - s.tb.frame).toNat } ∧ Frame [.ihx] s t)

/-- How a Transfer ends (15 R486 steps 7 and 8, R487, R489 to R491): an envelope that passes every check is imported, and IMPORTED goes to the
manager; one that fails ends the Transfer with STATE_REJECTED and its reason, reason 1 where it is malformed; on IMPORTED the manager moves
the directory entry, and tells both members their OWNER, or, with no entry, that the source keeps the stream; OWNER completes both descriptors
with SUCCESS, or both with TRANSFER_FAILED, DETAIL 8; REFUSE carries the partner's DETAIL; and no partner within 1 s gives DETAIL 1.
Model's choices here: log entries 33 and 40. -/
def Obligations.TransferEnds : Prop :=
  (∀ (b : List Byte) (rendering : Bool) (u : Transfer) (x : Stream) (m : Model) (d : Desc) (s : State),
    s.transfer (BitVec.ofNat 64 (num b 8 8)) = some u →
    s.stream u.stream = some x → x.id = u.stream → s.model x.handle = some m → u.outgoing = false → u.stage = .confirmed →
    s.desc u.ring u.seq = some d →
    Completes (.envelope ⟨b, rendering⟩) s fun t =>
      let r := recordReason m.image (envelopeExport b) x.rate s.tb.season
      (envelopeOk b = true → r = none →
        t.transfer (BitVec.ofNat 64 (num b 8 8)) = some { u with stage := .imported } ∧
        t.ihx.sent = s.ihx.sent ++
          (if (s.ihxPort (s.portTo 0)).trained = true then [⟨s.portTo 0, 6, [num b 8 8 % 2 ^ 64, x.id, x.session], []⟩] else []) ∧
        ∃ y, t.stream u.stream = some y ∧ y.handed = (recordRead (envelopeExport b)).headNext ∧
          y.layers = (recordRead (envelopeExport b)).layers ∧ y.head = (recordRead (envelopeExport b)).head ∧
          (y.phase = .rendering ↔ rendering = true)) ∧
      (∀ k, envelopeOk b = true → r = some k → Retired t u.ring d { status := stStateRejected, detail := k } ∧
        t.transfer (BitVec.ofNat 64 (num b 8 8)) = none) ∧
      (envelopeOk b = false → Retired t u.ring d { status := stStateRejected, detail := 1 } ∧
        t.transfer (BitVec.ofNat 64 (num b 8 8)) = none)) ∧
  (∀ (id : DWord) (src dst sess : Nat) (s : State), s.ihx.role = 1 → s.ihx.state = 2 →
    src / 16384 ≠ s.ihx.member → dst / 16384 ≠ s.ihx.member →
    let told (b : Nat) : List IhxMsg :=
      (([s.portTo (src / 16384), s.portTo (dst / 16384)]).filter fun p => (s.ihxPort p).trained).map fun p => ⟨p, 7, [id.toNat, b], []⟩
    Completes (.imported id src dst sess) s fun t =>
      (∀ e, tabGet s.ihx.directory src = some e →
        t.ihx.directory = tabSet (tabErase s.ihx.directory src) dst { e with session := sess, moving := false } ∧
        t.ihx.sent = s.ihx.sent ++ told 1) ∧
      (tabGet s.ihx.directory src = none → t.ihx.directory = s.ihx.directory ∧ t.ihx.sent = s.ihx.sent ++ told 0) ∧ Frame [.ihx] s t) ∧
  (∀ (id : DWord) (u : Transfer) (d : Desc) (x : Stream) (s : State), s.transfer id = some u → s.desc u.ring u.seq = some d →
    s.stream u.stream = some x → x.id = u.stream →
    (u.outgoing = true → u.stage = .sent →
      Completes (.owner id true) s fun t =>
        Retired t u.ring d { status := stSuccess } ∧ t.transfer id = none ∧
        ∃ y, t.stream u.stream = some y ∧ y.phase = .closed ∧ y.left = true) ∧
    (u.outgoing = false → u.stage = .imported → s.tb.frameOrd ≠ u.handover →
      Completes (.owner id true) s fun t =>
        Retired t u.ring d { status := stSuccess, result := x.id, count := x.headAt } ∧ t.transfer id = none ∧
        ∃ y, t.stream u.stream = some y ∧ y.transferring = false) ∧
    Completes (.owner id false) s fun t =>
      Retired t u.ring d { status := stTransferFailed, detail := 8 } ∧ t.transfer id = none) ∧
  (∀ (id : DWord) (detail : Nat) (u : Transfer) (d : Desc) (s : State), s.transfer id = some u → s.desc u.ring u.seq = some d →
    Completes (.refuse id detail) s fun t =>
      Retired t u.ring d { status := stTransferFailed, detail := detail } ∧ t.transfer id = none) ∧
  (∀ (n k : Nat) (u : Transfer) (d : Desc) (s : State), s.desc n k = some d → d.opcode = 0x0B ∨ d.opcode = 0x0C →
    d.acceptedAt + 24576000 ≤ s.tb.sub → s.transferOf n k = some u → u.stage = .waiting ∨ u.stage = .offered →
    Completes (.transferPartnerTimeout n k) s fun t =>
      Retired t n d { status := stTransferFailed, detail := 1 } ∧ t.transfer u.id = none ∧ Frame [.rmk, .streams, .ihx, .cnt] s t)

/-! ### Setup registers -/

/-- A maintenance write acts only as an aligned 32-bit access; an aligned 64-bit one is two, lower address first; every other is dropped and
counted, and at the adapter of a port that is not trained nothing happens at all (12 R363, R365, 19 R583). Two registers stand for the
rest: a reserved bit of PRF_POLICY_0 keeps zero and a locked policy ignores writes (16 R497), and RMK_DB_BASE ignores writes while a ring
is enabled (12 R368).
Model's choices here: log entry 36. -/
def Obligations.MaintenanceWrites : Prop :=
  (∀ (p a w : Nat) (v : DWord) (s : State), ¬(w = 32 ∧ a % 4 = 0) → ¬(w = 64 ∧ a % 8 = 0) →
    s.readable p (s.accessOf (a / 4 * 4)) = true →
    exec (.maintenanceWrite p a w v) s = .next { s with rmk := { s.rmk with dropped := min (s.rmk.dropped + 1) 0xFFFF } }) ∧
  (∀ (p a w : Nat) (v : DWord) (s : State), p < 2 → (s.port p).trained = false → exec (.maintenanceWrite p a w v) s = .next s) ∧
  (∀ (p a : Nat) (v : DWord) (s t : State), a % 8 = 0 → exec (.maintenanceWrite p a 32 v) s = .next t →
    exec (.maintenanceWrite p a 64 v) s = exec (.maintenanceWrite p (a + 4) 32 (v >>> 32)) t) ∧
  (∀ (p : Nat) (v : DWord) (s : State), s.writable p .ready = true → s.proof.locked = false →
    exec (.maintenanceWrite p 0x6100 32 v) s =
      .next { s with proof := { s.proof with policy := s.proof.policy.set 0 (v.setWidth 32 &&& 0x1FF) } }) ∧
  (∀ (p : Nat) (v : DWord) (s : State), s.proof.locked = true → exec (.maintenanceWrite p 0x6100 32 v) s = .next s) ∧
  (∀ (p : Nat) (v : DWord) (s : State), s.writable p .ready = true → s.anyRingOn = false →
    exec (.maintenanceWrite p 0x80008 32 v) s =
      .next { s with rmk := { s.rmk with dbLo := v.setWidth 32 &&& 0xFFFF0000 } }) ∧
  (∀ (p : Nat) (v : DWord) (s : State), s.anyRingOn = true → exec (.maintenanceWrite p 0x80008 32 v) s = .next s)

/-- ESL_TIMEBASE_CFG (02 R44): a write equal to the setting that will be in force is accepted and changes nothing; a change is pending until
the next Frame tick if no stream is open and no Live job exists, and otherwise refused, with the refusal bit; a change that restores the
setting in force withdraws the pending one; every accepted write clears the refusal bit; while a change is pending, STREAM_OPEN waits and
an OFFER meets no TRANSFER_IN; the Frame tick puts the change in force. A joined worker refuses every write (15 R472, 19 R593). PWR_CAP
holds 24 to 68 steps of 250 W, and 68 after reset (02 R68, 19 R594).
ESL_REBIND accepts a bound Live job that renders streams, and refuses another (11 R333).
Model's choices here: log entry 36. -/
def Obligations.TimebaseAndPowerSettings : Prop :=
  (∀ (p : Nat) (v : Word) (s : State), s.writable p .ready = true → ¬(s.ihx.role = 2 ∧ 2 ≤ s.ihx.state) →
    let new := (fld v 3 2, fld v 1 0)
    let old := (s.tb.season, s.tb.osc)
    let free := (∀ x ∈ s.streamList, x.phase = .closed) ∧ (∀ j ∈ s.jobs, j.2.fill = true) ∧
      (s.ihx.state = 0 ∨ (s.ihx.role = 1 ∧ s.ihx.directory = []))
    (new = s.tb.pendingCfg.getD old →
      exec (.eslTimebaseCfgWrite p v) s = .next { s with tb := { s.tb with refused := false } }) ∧
    (new ≠ s.tb.pendingCfg.getD old → free → new ≠ old →
      exec (.eslTimebaseCfgWrite p v) s = .next { s with tb := { s.tb with pendingCfg := some new, refused := false } }) ∧
    (new ≠ s.tb.pendingCfg.getD old → free → new = old →
      exec (.eslTimebaseCfgWrite p v) s = .next { s with tb := { s.tb with pendingCfg := none, refused := false } }) ∧
    (new ≠ s.tb.pendingCfg.getD old → ¬free →
      exec (.eslTimebaseCfgWrite p v) s = .next { s with tb := { s.tb with refused := true } })) ∧
  (∀ (p : Nat) (v : Word) (s : State), s.writable p .ready = true → s.ihx.role = 2 → 2 ≤ s.ihx.state →
    exec (.eslTimebaseCfgWrite p v) s = .next { s with tb := { s.tb with refused := true } }) ∧
  (∀ (new : Nat × Nat) (s : State), s.tb.pendingCfg = some new →
    (∀ n k, Completes (.streamOpen n k) s fun t =>
      (∀ m, (t.ring m).held = (s.ring m).held) ∧ t.streams = s.streams ∧ Frame [.rmk] s t) ∧
    (∀ n k, Completes (.transferIn n k) s fun t =>
      (∀ m, (t.ring m).held = (s.ring m).held) ∧ t.ihx.offers = s.ihx.offers ∧ Frame [.rmk, .ihx] s t) ∧
    (∀ o : OfferMsg, exec (.offer o) s = .next s ∨ exec (.offer o) s = .next { s with ihx := { s.ihx with
      offers := s.ihx.offers.filter (fun q => q.transferId != o.transferId) ++ [o] } }) ∧
    (∀ w, s.tb.running = true → s.tb.ticks = s.frameTicks →
      Completes (.frameTick w) s fun t => (t.tb.season, t.tb.osc) = new ∧ t.tb.pendingCfg = none)) ∧
  State.reset.pwr.capSteps = 68 ∧
  (∀ (p : Nat) (v : Word) (s : State), s.writable p .ready = true →
    exec (.pwrCapWrite p v) s = .next { s with pwr := { s.pwr with capSteps := max 24 (min 68 (fld v 6 0)) } }) ∧
  (∀ (p : Nat) (v : Word) (j : Job) (s : State), s.writable p .ready = true → bitOf v 10 = true → s.job (fld v 9 0) = some j →
    j.fill = false → j.kind = .streams → j.state = .bound → s.rebind.request = none → s.rebind.place = none →
    exec (.eslRebind p v) s = .next { s with rebind := { s.rebind with
      job := fld v 9 0
      done := false
      refused := false
      request := some (fld v 9 0) } }) ∧
  (∀ (p : Nat) (v : Word) (s : State), s.writable p .ready = true → bitOf v 10 = true → s.job (fld v 9 0) = none →
    exec (.eslRebind p v) s = .next { s with rebind := { s.rebind with job := fld v 9 0, done := false, refused := true } })

/-! ### Strokes, semaphores, cores, Plate and mesh -/

/-- STROKE_ISSUE (04 R118, R141; 09 R285, R286; 11 R330): where the controller of the core's field may issue, the stroke runs on the core with the work that its code
gives it, and is listed among those issued; nothing it computes has reached Plate, the accumulators or the streams. Where it may not, or is another
field's, nothing happens. SAFE_POINT puts in place what is left of the stroke's work, ends it, and charges the cycles of each of its passes in that
pass's mode to the job and its session (04 R142, 11 R352); a core keeps all but its accumulator slots, which the job's files give back when its sequence
of strokes has ended; a stroke that leaves its windows faults the job (04 R129); one whose block close lacks a record (05 R166), one that waits, and one whose core
is stopped go on.
Model's choices here: log entries 8, 28 and 40. -/
def Obligations.StrokeIssuesAndSafePoints : Prop :=
  (∀ (core job stroke : Nat) (j : Job) (s : State), s.job job = some j → s.mayIssue core j stroke = true →
    let work := s.strokeWork j core stroke
    Completes (.strokeIssue (coreField core) core job stroke) s fun t =>
      (t.core core).running = some ⟨job, stroke, strokeModes work.flatten, work⟩ ∧
      (t.core core).waitsDone = 0 ∧ (t.core core).signalsSent = 0 ∧ (∀ c, c ≠ core → t.core c = s.core c) ∧
      t.hatch.plate = s.hatch.plate ∧ t.hatch.acc = s.hatch.acc ∧
      (∃ k, t.job job = some k ∧ k.issued = j.issued ++ [stroke] ∧ k.lastRan = s.tb.frameOrd) ∧
      (∀ i, i ≠ job → t.job i = s.job i) ∧
      t.pwr = { s.pwr with fillRan := s.pwr.fillRan || j.fill } ∧ Frame [.pwr, .jobs, .hatch, .cnt] s t) ∧
  (∀ (field core job stroke : Nat) (s : State),
    field ≠ coreField core ∨ (∀ j, s.job job = some j → s.mayIssue core j stroke = false) →
    exec (.strokeIssue field core job stroke) s = .next s) ∧
  (∀ (core at_ corrected : Nat) (cycles : List Nat) (r : Run) (j : Job) (s : State), (s.core core).running = some r →
    (s.core core).waiting = none → (s.core core).faulted = false → s.job r.job = some j →
    let w := r.work.flatten
    let u := runOps j core (s.tb.frameAt + at_) w s
    (w.any (View.stalls (s.view j core)) = false → u.2 = true →
      Completes (.safePoint core ⟨at_, cycles, corrected⟩) s fun t =>
        let a : Account := { Account.zero with
          hatch4 := cyclesIn 0 r.modes cycles
          hatch8 := cyclesIn 1 r.modes cycles
          hatchF := cyclesIn 2 r.modes cycles }
        (t.core core).running = none ∧ (∀ c, c ≠ core → t.core c = { s.core c with slots := (t.core c).slots }) ∧
        t.hatch.plate = u.1.hatch.plate ∧ t.streams = u.1.streams ∧
        (∀ m i, s.model j.handle = some m → i < strokeCount (strokeImage m.image) → i ∉ j.issued →
          t.hatch.acc = u.1.hatch.acc ∧ ∀ c, c ≠ core → t.core c = u.1.core c) ∧
        (∃ k, t.job r.job = some k ∧ k.account = j.account.charge a ∧ (k.workFrame = j.workFrame ∨ k.workFrame = j.workFrame + 1)) ∧
        (∀ x, s.session j.session = some x → ∃ y, t.session j.session = some y ∧ y.account = x.account.charge a) ∧
        Frame [.sessions, .streams, .jobs, .hatch, .cnt, .tallies] s t) ∧
    (w.any (View.stalls (s.view j core)) = false → u.2 = false →
      exec (.safePoint core ⟨at_, cycles, corrected⟩) s = .next (u.1.tearDown r.job 129)) ∧
    (w.any (View.stalls (s.view j core)) = true → exec (.safePoint core ⟨at_, cycles, corrected⟩) s = .next s)) ∧
  (∀ (core at_ corrected : Nat) (cycles : List Nat) (s : State),
    (s.core core).running = none ∨ (s.core core).waiting.isSome = true ∨ (s.core core).faulted = true →
    exec (.safePoint core ⟨at_, cycles, corrected⟩) s = .next s)

/-- Memory protection (04 R119, R129): whatever a stroke's work, no Plate byte changes but those in the writable windows of its job on its own
core, and no accumulator byte of a slot that another job has, or of a core that is not the job's.
Model's choices here: log entries 8 and 28. -/
def Obligations.StrokesStayInTheirWindows : Prop :=
  ∀ (core now : Nat) (j : Job) (work : List StrokeOp) (s : State), j.id < 1024 →
    (∀ a, (∀ (k : Nat) (w : PlateWindow), k < 8 → j.window core k = some w → w.writable = true →
        ¬(plateAt core j.id k 0 ≤ a ∧ a < plateAt core j.id k (w.limit - w.base))) →
      memRead (runOps j core now work s).1.hatch.plate a = memRead s.hatch.plate a) ∧
    (∀ c p i, p < 64 → i < 1024 →
      ((∃ q ∈ (s.core c).slots, q.1 = p) ∧ ∀ q ∈ (s.core c).slots, q.1 = p → q.2.1 ≠ j.id) ∨ (c ≠ core ∧ c ∉ j.cores) →
      memRead (runOps j core now work s).1.hatch.acc (accAt c (256 * p) + i) = memRead s.hatch.acc (accAt c (256 * p) + i))

/-- Semaphores (04 R134 to R138; 09 R291). At a stroke's semaphore operation its work so far is put in place. A signal to the core's own counter adds
n, and above 4,095 faults the job with the counter as it was; one to another core of the job is sent behind those before it, and arrives in
order, behind the Plate writes that came before it, where a pending wait takes its count as soon as the sum holds it. A wait takes n or stalls,
and after 4 Frames of running time faults the job; so does a list that an engine has stalled for as long and that still waits.
Model's choices here: log entry 1. -/
def Obligations.Semaphores : Prop :=
  (∀ (c pair n p : Nat) (ctr : Counter) (r : Run) (j : Job) (u s : State), (s.core c).running = some r → s.job r.job = some j →
    j.pair c pair = some p → (s.core c).waiting = none → (s.core c).faulted = false → 1 ≤ n → n ≤ 255 →
    s.runWork c s.tb.sub false = (u, true) →
    (c ∈ j.cores → s.pairOwner c p = some j → (s.core c).counter p ctr + n ≤ 4095 →
      Completes (.signal c pair ctr n c) s fun t =>
        (t.core c).counter p ctr = (s.core c).counter p ctr + n ∧ (t.core c).signalsSent = (s.core c).signalsSent + 1 ∧
        (∀ k, k ≠ c → t.core k = u.core k) ∧ t.hatch.plate = u.hatch.plate ∧ t.hatch.acc = u.hatch.acc ∧ t.streams = u.streams ∧
        Frame [.streams, .hatch, .cnt] s t) ∧
    (c ∈ j.cores → s.pairOwner c p = some j → 4095 < (s.core c).counter p ctr + n →
      exec (.signal c pair ctr n c) s =
        .next ((u.setCore c { u.core c with signalsSent := (u.core c).signalsSent + 1 }).tearDown j.id 136)) ∧
    (∀ d q, d ∈ j.cores → d ≠ c → j.pair d pair = some q →
      Completes (.signal c pair ctr n d) s fun t =>
        t.hatch.signals = s.hatch.signals ++ [⟨c, d, q, ctr, n, s.tb.sub⟩] ∧ (t.core c).signalsSent = (s.core c).signalsSent + 1 ∧
        (t.core c).pairs = (s.core c).pairs ∧ (∀ k, k ≠ c → t.core k = u.core k) ∧ t.hatch.plate = u.hatch.plate ∧
        t.hatch.acc = u.hatch.acc ∧ t.streams = u.streams ∧ Frame [.streams, .hatch, .cnt] s t) ∧
    (n ≤ (s.core c).counter p ctr →
      Completes (.wait c pair ctr n) s fun t =>
        (t.core c).counter p ctr = (s.core c).counter p ctr - n ∧ (t.core c).waiting = none ∧
        (t.core c).waitsDone = (s.core c).waitsDone + 1 ∧ (∀ k, k ≠ c → t.core k = u.core k) ∧ t.hatch.plate = u.hatch.plate ∧
        t.hatch.acc = u.hatch.acc ∧ t.streams = u.streams ∧ Frame [.streams, .hatch, .cnt] s t) ∧
    ((s.core c).counter p ctr < n →
      exec (.wait c pair ctr n) s = .next (u.setCore c { u.core c with waiting := some (p, ctr, n), since := some s.tb.sub }))) ∧
  (∀ (a b : Nat) (g : RemoteSig) (rest : List RemoteSig) (j : Job) (s : State),
    takeSignal a b s.hatch.signals = some (g, rest) → (s.core b).faulted = false → s.pairOwner b g.pair = some j →
    s.writesPending a b g.at_ = false →
    ((s.core b).counter g.pair g.ctr + g.n ≤ 4095 → (s.core b).waiting = none →
      Completes (.remoteSignal a b) s fun t =>
        (t.core b).counter g.pair g.ctr = (s.core b).counter g.pair g.ctr + g.n ∧ t.hatch.signals = rest ∧
        (∀ k, k ≠ b → t.core k = s.core k) ∧ Frame [.hatch] s t) ∧
    (∀ m, (s.core b).counter g.pair g.ctr + g.n ≤ 4095 → (s.core b).waiting = some (g.pair, g.ctr, m) →
      m ≤ (s.core b).counter g.pair g.ctr + g.n →
      Completes (.remoteSignal a b) s fun t =>
        (t.core b).counter g.pair g.ctr = (s.core b).counter g.pair g.ctr + g.n - m ∧ (t.core b).waiting = none ∧
        t.hatch.signals = rest ∧ (∀ k, k ≠ b → t.core k = s.core k) ∧ Frame [.hatch] s t) ∧
    (4095 < (s.core b).counter g.pair g.ctr + g.n →
      exec (.remoteSignal a b) s = .next ({ s with hatch := { s.hatch with signals := rest } }.tearDown j.id 136))) ∧
  (∀ (a b : Nat) (g : RemoteSig) (rest : List RemoteSig) (s : State), takeSignal a b s.hatch.signals = some (g, rest) →
    s.writesPending a b g.at_ = true → exec (.remoteSignal a b) s = .next s) ∧
  (∀ (c : Nat) (r : Run) (at_ : Nat) (s : State), (s.core c).running = some r → (s.core c).waiting.isSome = true →
    (s.core c).since = some at_ → at_ + 4 * s.frameSubs ≤ s.tb.sub →
    exec (.waitTimeout c) s = .next (s.tearDown r.job 138)) ∧
  (∀ (c : Nat) (s : State), (s.core c).running = none ∨ (s.core c).waiting = none ∨ s.stalled (s.core c).since = false →
    exec (.waitTimeout c) s = .next ((s.overdue c .tracer ++ s.overdue c .scriber).foldl (fun s id => s.tearDown id 291) s)) ∧
  (∀ (c id : Nat) (eng : Engine) (s : State), id ∈ s.overdue c eng ↔
    ∃ w at_ j, (id, w, at_) ∈ ((s.core c).engine eng).since ∧ at_ + 4 * s.frameSubs ≤ s.tb.sub ∧ s.job id = some j ∧ j.state = .bound ∧
      s.listWaits j c eng w = true)

/-- Core faults (04 R139, R140; 18 R553, R557, R558, R560). A failed check stops the core and is reported with its unit and the running stroke;
with a spare, or nothing to move, that is all; with none, the core's jobs fault and the core is retired, as they are, spare or not, where the router
or the Plate's read path fails; a second fault in a job whose takeover is awaited faults that job. A takeover carries jobs, stroke, pairs and
every core number to the spare. A self test returns a core, or a Burin unit, after its first transient fault and retires it after a permanent
one.
Model's choices here: log entry 31. -/
def Obligations.CoreFaults : Prop :=
  (∀ (c : Nat) (u : CheckUnit) (s : State), s.boot.phase = .ready → s.coreServes c = true →
    let f := EvScope.field (coreField c)
    let report : Option (CheckUnit × Option (Nat × Nat)) := some (u, (s.core c).running.map fun r => (r.job, r.stroke))
    let s' := (s.bump 0x01C 1 f).setCore c { s.core c with faulted := true, failed := report }
    let gone (t : State) : Prop :=
      (t.core c).retired = true ∧ (t.core c).faulted = true ∧ (∀ j ∈ s.coreJobs c, t.job j.id = none) ∧
      ∃ x : Site, x.field = coreField c ∧ t.nv.retiredCores = s.nv.retiredCores ++ [x]
    (u = .router ∨ u = .platePath → Completes (.coreCheckFailure c u) s gone) ∧
    (u ≠ .router → u ≠ .platePath → (∀ j ∈ s.coreJobs c, ∀ k ∈ j.held, k ≠ c → (s.core k).faulted = false) →
      (s'.coreBusy c = false ∨ s'.anySpare c = true → exec (.coreCheckFailure c u) s = .next s') ∧
      (s'.coreBusy c = true → s'.anySpare c = false → Completes (.coreCheckFailure c u) s gone)) ∧
    (∀ j k, u ≠ .router → u ≠ .platePath → j ∈ s.coreJobs c → k ∈ j.held → k ≠ c → (s.core k).faulted = true →
      Completes (.coreCheckFailure c u) s fun t => (t.core c).faulted = true ∧ t.job j.id = none)) ∧
  (∀ (c d : Nat) (s : State), (s.core c).faulted = true → (s.core c).retired = false → (s.core c).takenBy = none →
    s.coreBusy c = true → s.spareCore d = true →
    (coreField d = coreField c ∨ (adjacent (coreField c) (coreField d) = true ∧ s.fieldSpare (coreField c) = false)) →
    Completes (.coreTakeover c d) s fun t =>
      (t.core d).jobs = (s.core c).jobs ∧ (t.core d).running = (s.core c).running ∧ (t.core d).pairs = (s.core c).pairs ∧
      (t.core d).waiting = (s.core c).waiting ∧ (t.core d).faulted = false ∧
      (t.core c).jobs = [] ∧ (t.core c).faulted = true ∧ (t.core c).takenBy = some d ∧
      (∀ id j, s.job id = some j →
        ∃ k, t.job id = some k ∧ k.cores = j.cores.map (swap c d) ∧ k.more = j.more.map (swap c d) ∧ k.issued = j.issued) ∧
      (∀ h m, s.model h = some m → t.model h = some { m with res := swapSet c d m.res }) ∧
      (∀ id x, s.stream id = some x → t.stream id = some (swapSecond c d x)) ∧
      t.hatch.signals = s.hatch.signals.map (fun g => { g with source := swap c d g.source, target := swap c d g.target }) ∧
      Frame [.mem, .models, .streams, .jobs, .hatch, .evt, .cnt, .rebind, .host] s t) ∧
  (∀ (c : Nat) (ok : Bool) (s : State), c < 86016 → (s.core c).faulted = true → (s.core c).retired = false → (s.core c).jobs = [] →
    Completes (.coreSelfTest c ok) s fun t =>
      (ok = true → (s.core c).hadFault = false →
        (t.core c).faulted = false ∧ (t.core c).hadFault = true ∧ t.nv = s.nv) ∧
      (ok = false ∨ (s.core c).hadFault = true →
        (t.core c).retired = true ∧ ∃ x : Site, x.field = coreField c ∧ t.nv.retiredCores = s.nv.retiredCores ++ [x])) ∧
  (∀ (u : Nat) (ok : Bool) (s : State), u < 672 → (s.unit u).failed = true → (s.unit u).retired = false → (s.unit u).ctxs = [] →
    Completes (.coreSelfTest (86016 + u) ok) s fun t =>
      (ok = true → (s.unit u).hadFault = false →
        (t.unit u).failed = false ∧ (t.unit u).hadFault = true ∧ t.nv = s.nv) ∧
      (ok = false ∨ (s.unit u).hadFault = true →
        (t.unit u).retired = true ∧ t.nv.retiredBurin = s.nv.retiredBurin ++ [(u / 8, u % 8)]))

/-- A takeover moves what the core stores (18 R557): the spare's windows, resident weights and accumulators hold the faulted core's bytes, the
faulted core's are zero, and every other core's are as they were.
Model's choices here: log entry 31. -/
def Obligations.TakeoverCarriesTheStorage : Prop :=
  ∀ (c d : Nat) (s : State), Memory.wf s.hatch.plate = true → Memory.wf s.hatch.acc = true → c ≠ d → c < 86016 → d < 86016 →
    (∀ a, a < 1024 * 8 * 2 ^ 19 →
      memRead (s.moveCore c d).hatch.plate (plateAt d 0 0 0 + a) = memRead s.hatch.plate (plateAt c 0 0 0 + a) ∧
      memRead (s.moveCore c d).hatch.plate (plateAt c 0 0 0 + a) = 0 ∧
      (∀ e, e < 86016 → e ≠ c → e ≠ d →
        memRead (s.moveCore c d).hatch.plate (plateAt e 0 0 0 + a) = memRead s.hatch.plate (plateAt e 0 0 0 + a))) ∧
    (∀ a, a < 2 ^ 39 →
      memRead (s.moveCore c d).hatch.plate (residentAt d 0 a) = memRead s.hatch.plate (residentAt c 0 a) ∧
      memRead (s.moveCore c d).hatch.plate (residentAt c 0 a) = 0) ∧
    (∀ i, i < 65536 →
      memRead (s.moveCore c d).hatch.acc (accAt d 0 + i) = memRead s.hatch.acc (accAt c 0 + i) ∧
      memRead (s.moveCore c d).hatch.acc (accAt c 0 + i) = 0 ∧
      (∀ e, e ≠ c → e ≠ d → memRead (s.moveCore c d).hatch.acc (accAt e 0 + i) = memRead s.hatch.acc (accAt e 0 + i)))

/-- Plate errors and scrub (04 R131, R132), and mesh links (04 R145, 18 R559). An uncorrectable word that has a copy in DRAM is read again and
only counted, and where that copy is a voice that cannot be read either, the voice is damaged; in a dirty window, in the accumulators or in a shadow, it faults the job that owns it; in the controller's own region it is a core
fault. A scrub moves to the next of the 5,120 lines. A ninth retry of a link within 1,024 consecutive flits is a lane fault, and the link then runs
on half its lanes.
Model's choices here: log entry 10. -/
def Obligations.PlateAndMesh : Prop :=
  (∀ (c : Nat) (w : PlateWord) (s : State), s.boot.phase = .ready → s.coreServes c = true →
    let f := EvScope.field (coreField c)
    (s.wordClass c w = none → exec (.plateUncorrectable c w) s = .next s) ∧
    (s.wordClass c w = some true →
      (∀ id k o, w = .window id k o → exec (.plateUncorrectable c w) s = .next (s.bump 0x01E 1 f)) ∧
      (∀ h, w = .weights h false → exec (.plateUncorrectable c w) s = .next (s.bump 0x01E 1 f)) ∧
      (∀ h m, w = .weights h true → s.model h = some m → m.handle = h →
        Completes (.plateUncorrectable c w) s fun t => ∃ n, t.model h = some n ∧ n.damaged = true)) ∧
    (s.wordClass c w = some false →
      (∀ id k o, w = .window id k o ∨ w = .accumulator id →
        exec (.plateUncorrectable c w) s = .next ((s.bump 0x01F 1 f).tearDown id 131)) ∧
      (∀ id, w = .shadow id → Completes (.plateUncorrectable c w) s fun t => t.job id = none) ∧
      (∀ i x, w = .second i → s.stream i = some x → Completes (.plateUncorrectable c w) s fun t => t.job x.job = none) ∧
      (w = .system → exec (.plateUncorrectable c w) s = .next ((s.bump 0x01F 1 f).coreFault c))) ∧
    (∀ fixed, Completes (.plateScrub c fixed) s fun t =>
      (t.core c).scrubLine = ((s.core c).scrubLine + 1) % 5120 ∧ t.hatch.plate = s.hatch.plate ∧
      (∀ k, k ≠ c → t.core k = s.core k) ∧ Frame [.hatch, .cnt] s t)) ∧
  (∀ (c id k o : Nat) (j : Job) (x : PlateWindow) (s : State), id ∈ (s.core c).jobs → s.job id = some j → j.window c k = some x →
    o < x.limit - x.base → s.wordClass c (.window id k o) = some (!x.dirty)) ∧
  (∀ (l n : Nat) (s : State), s.boot.phase = .ready →
    let f := EvScope.field (linkField l)
    let x := s.meshLink l
    let rs := (x.retries.filter fun k => n < k + 1024) ++ [n]
    let bad := 9 ≤ rs.length ∧ x.laneFault = false
    Completes (.flitCrcRetry l n) s fun t =>
      ((t.meshLink l).laneFault = true ↔ x.laneFault = true ∨ (bad ∧ x.half = false)) ∧ (t.meshLink l).half = x.half ∧
      (¬(bad ∧ x.half = true) → (t.meshLink l).retries = rs) ∧
      (bad → t.cnt = ((s.bump 0x031 1 f).bump 0x032 1 f).cnt) ∧ (¬bad → t.cnt = (s.bump 0x031 1 f).cnt) ∧
      (∀ k, k ≠ l → t.meshLink k = s.meshLink k) ∧ Frame [.hatch, .cnt] s t) ∧
  (∀ (l : Nat) (s : State), (s.meshLink l).laneFault = true → (s.meshLink l).half = false →
    Completes (.meshLaneHalf l) s fun t =>
      t.meshLink l = ⟨[], true, false⟩ ∧ (∀ k, k ≠ l → t.meshLink k = s.meshLink k) ∧ Frame [.hatch, .evt, .cnt, .host] s t)

/-! ### Faults of fields, Easels and the module; the end of a job -/

/-- Field, Easel and module faults (18 R561 to R563, R572). A field goes out with an alarm, and the job in it ends. The first failed Easel
processor gives its work to its partner, with a repeat plan where the next Frame tick comes within 200 µs; Easel 3, or a second one, is a
module fault. A module fault enters FAULTED with its cause; no stroke, Burin sample, restart or Transfer goes on.
Model's choices here: log entry 23. -/
def Obligations.ModuleFaults : Prop :=
  let alarmed (t : State) (code source : Nat) : Prop := t.evt.table.any (fun k => k.code == code && k.source == t.evt.keySource code source) = true
  let dead (s t : State) (cause : Nat) : Prop :=
    t.boot.phase = .faulted ∧ t.fault.faulted = true ∧ t.fault.cause = cause ∧ alarmed t 0x0D 0 ∧
    (∀ c, (t.core c).running = none) ∧ (∀ u, (t.unit u).busy = none) ∧ (∀ id x, t.stream id = some x → x.restart = none) ∧
    t.ihx.transfers = [] ∧ t.mem.queue = [] ∧ t.nv = s.nv ∧ t.part = s.part ∧ t.tb = s.tb ∧ t.proof = s.proof ∧ t.alm = s.alm
  (∀ (f : Nat) (s : State), s.boot.phase = .ready → f < 84 → (s.field f).out = false →
    Completes (.fieldOut f) s fun t =>
      (t.field f).out = true ∧ alarmed t 0x0B (srcOf 1 f) ∧
      (∀ id j, s.job id = some j → s.inField f j = true → t.job id = none) ∧ Frame tearDownBlocks s t) ∧
  (∀ (e : Nat) (s : State), s.boot.phase = .ready → e < 4 → e ∉ s.fault.easelOut →
    Completes (.easelFailover e) s fun t =>
      (e ≠ 3 → s.fault.easelOut = [] →
        t.fault.easelOut = [e] ∧ alarmed t 0x0C (srcOf 10 e) ∧ t.boot = s.boot ∧
        (t.fault.repeatPlan = true ↔
          s.fault.repeatPlan = true ∨ s.tb.frameAt + s.frameSubs - s.tb.sub < usToSubs 200)) ∧
      (e = 3 → dead s t 4) ∧ (e ≠ 3 → s.fault.easelOut ≠ [] → dead s t 5)) ∧
  (∀ (c : Nat) (s : State), s.boot.phase = .ready → 1 ≤ c → c ≤ 5 → Completes (.moduleFault c) s fun t => dead s t c)

/-- JOB_TEAR_DOWN (11 R357; 10 R306; 01 R36, R38): the job context is gone; an adaptation job's descriptor completes with JOB_FAULT and the
steps done; a row that is no Keep stream is Closed with a fault, and gone where nothing of it is still to be written, and a Keep stream with a second shadow waits
for its restart; the job's windows and accumulators hold zeros, and its cores are without it. KEEP_RESTART, right behind a plan close (02 R67): with a place, the stream goes on from its
second shadow; with none, at the last of its two plan closes the stream faults, and at the one before, it waits on.
Model's choices here: log entries 10, 12, 28 and 41. -/
def Obligations.JobTearDown : Prop :=
  (∀ (id rule : Nat) (j : Job) (s : State), s.job id = some j →
    Completes (.jobTearDown id rule) s fun t =>
      t.job id = none ∧
      (∀ ring seq d, j.kind = .adapt ring seq → j.rows = [] → s.desc ring seq = some d →
        Retired t ring d { status := stJobFault, count := j.optStep }) ∧
      (∀ sid ∈ j.rows, ∀ x, s.stream sid = some x → x.keep = false →
        (∀ y, t.stream sid = some y → y.phase = .closed ∧ y.faulted = true) ∧
        (x.staged = [] → x.lineBuf = [] → x.outBuf = [] → (∀ a ∈ x.audio, a.1 < x.delivered) → t.stream sid = none)) ∧
      (∀ sid ∈ j.rows, ∀ x, s.stream sid = some x → x.keep = true → x.second.isSome = true → x.shadow.isSome = true →
        s.arrivalOf x = none → (∀ h m, h = x.handle ∨ h = x.voice → s.model h = some m → m.damaged = false) →
        ∃ y, t.stream sid = some y ∧ y.restart = some (s.tb.frameOrd + 2)) ∧
      (∀ c ∈ j.held, ∀ k off, k < 8 → off < 2 ^ 19 → memRead t.hatch.plate (plateAt c id k off) = 0) ∧
      (∀ c ∈ j.held, ∀ p k i, (p, id, k) ∈ (s.core c).slots → i < 1024 → memRead t.hatch.acc (accAt c (256 * p) + i) = 0) ∧
      (∀ c ∈ j.held, id ∉ (t.core c).jobs) ∧
      Frame tearDownBlocks s t) ∧
  (∀ (sid last : Nat) (x : Stream) (m : Model) (q : Nat × ExportRec) (b : Budget) (c : Cost) (s : State), s.boot.phase = .ready →
    s.tb.ticks = 0 → s.stream sid = some x → x.restart = some last → x.second = some q → x.budget = some b → s.model x.handle = some m →
    costOf m.image s.tb.season x.rate = some c → s.tb.frameOrd ≤ last → last < s.tb.frameOrd + 2 →
    let a : Ask := ⟨x.session, x.handle, s.tb.season, x.rate, true, false, some b.lost, x.voices⟩
    let fits (p : Place) : Prop := (s.vacated x).fit a m.image c = .ok p ∧ (p.job.isSome = true ∨ s.reserveOk m.image (s.streamMaxCores m.image c) 80 = true)
    ((∀ p, ¬fits p) → s.tb.frameOrd = last → exec (.keepRestart sid) s = .next (s.faultStream x)) ∧
    ((∀ p, ¬fits p) → s.tb.frameOrd < last → exec (.keepRestart sid) s = .next s) ∧
    (∀ p, fits p →
      Completes (.keepRestart sid) s fun t => ∃ y, t.stream sid = some y ∧ y.restart = none ∧ y.budget = none ∧ y.keep = x.keep ∧
        y.layers = q.2.layers ∧ y.head = q.2.head ∧ y.headAt = q.2.headNext)) ∧
  (∀ (sid : Nat) (s : State), s.tb.ticks ≠ 0 → exec (.keepRestart sid) s = .next s)

/-! ### Engines and DRAM -/

/-- Tracer and Scriber entries (09 R268, R269, R273, R274, R291). Where an engine runs, a MARK at the head of its list takes its WAIT and moves on; a
COPY, ZERO or CHAIN_SEND, at its start with its WAIT met, or behind a piece of it, puts one transfer of its job on its way, which stays in one aligned 4
KiB of the address that decides; an entry whose WAIT or grant is missing stalls the list, which keeps the sub-tick of its first stop; one whose range
leaves its window or region faults the job; a remote read without a request credit waits, and an entry that is not next is not issued. RELEASEs whose
source bytes have been read then go out.
Model's choices here: log entries 28, 40 and 41. -/
def Obligations.EngineEntries : Prop :=
  ∀ (core job stroke : Nat) (eng : Engine) (j : Job) (n : Item) (s : State), s.job job = some j →
    s.engineRuns j core eng stroke = true → (eng = .tracer → s.regrant j core = none) →
    let e := n.1
    let x := (s.core core).engine eng
    let w := s.walk j eng stroke
    let grant := e.op = 2 → (s.core core).grantsOf job ≠ []
    let starts := w.2.2 = 0 ∧ s.waitMet j core eng e = true ∧ grant
    let credit := spaceOf e.src = 6 → s.hasCredits j 1 = true
    (s.engineList j eng stroke w.1)[w.2.1]? = some n →
    (e.op = 0 → credit → starts → s.entryFits j core n = true →
      ∃ v, exec (.engineEntryIssue core eng job stroke w.2.1 w.2.2) s = .next (v.sendReleases core eng) ∧
        (∃ k, v.job job = some k ∧ tabGet k.walks (walkKey stroke eng) = some (w.1, w.2.1 + 1, 0)) ∧
        ((v.core core).engine eng).job = job ∧ ((v.core core).engine eng).stroke = stroke ∧
        ((v.core core).engine eng).outstanding.length = x.outstanding.length + (if e.notify || e.release then 1 else 0) ∧
        (e.wait = true → let c := s.waitOn j core eng e; (v.core core).counter c.1 c.2 = (s.core core).counter c.1 c.2 - e.waitN) ∧
        (∀ c, c ≠ core → v.core c = s.core c) ∧ Frame [.jobs, .hatch] s v) ∧
    (e.op = 1 ∨ e.op = 2 ∨ e.op = 4 → credit → (starts ∧ s.entryFits j core n = true) ∨ 0 < w.2.2 →
      ∃ v u merges, exec (.engineEntryIssue core eng job stroke w.2.1 w.2.2) s = .next ((v.sendReleases core eng).countXfer u merges) ∧
        ((v.core core).engine eng).outstanding = x.outstanding ++ [u] ∧ u.job = job ∧ u.core = core ∧ u.op = e.op ∧
        u.srcOff = e.srcOff + w.2.2 ∧ u.dstOff = e.dstOff + w.2.2 ∧ (s.splitAddr j core e + w.2.2) % 4096 + u.len ≤ 4096 ∧
        u.issued = s.tb.sub ∧
        (u.done = true ∨ u ∈ v.mem.queue ∨ ∃ k, v.job job = some k ∧ ∃ r ∈ k.remotes, r.tag = u.stream ∧ r.bytes = u.len) ∧
        (∀ c, c ≠ core → v.core c = s.core c) ∧ Frame [.mem, .jobs, .hatch, .ihx] s v) ∧
    (e.op ≠ 3 → credit → w.2.2 = 0 → s.waitMet j core eng e = false ∨ ¬grant →
      Completes (.engineEntryIssue core eng job stroke w.2.1 w.2.2) s fun t =>
        let since := tabGet ((t.core core).engine eng).since job
        ((t.core core).engine eng).outstanding = x.outstanding ∧
        (∀ at_, tabGet x.since job = some (stroke, at_) → since = some (stroke, at_)) ∧
        ((∀ at_, tabGet x.since job ≠ some (stroke, at_)) → since = some (stroke, s.tb.sub)) ∧
        (∀ c, c ≠ core → t.core c = s.core c) ∧ Frame [.hatch, .cnt] s t) ∧
    (e.op ≠ 3 → credit → starts → s.entryFits j core n = false →
      exec (.engineEntryIssue core eng job stroke w.2.1 w.2.2) s = .next (s.tearDown job 129)) ∧
    (¬credit → exec (.engineEntryIssue core eng job stroke w.2.1 w.2.2) s = .next s) ∧
    (∀ entry part, (entry, part) ≠ w.2 → exec (.engineEntryIssue core eng job stroke entry part) s = .next s)

/-- TRANSFER_COMPLETE, CHAIN_GRANT and CHAIN_DATA_ARRIVAL (09 R271, R272, R276 to R278, R291, R292). The oldest transfer whose bytes are there lands in
its window, or a CHAIN_SEND's bytes go to the successor; its NOTIFY and RELEASE go out once every entry before it is complete: to READY or ROOM of its
own core at once. A core whose CHAIN_RECV is at its list's head grants it to its predecessor, with the earlier deadline; so it does, first, with a
grant that a Frost withdrew. Arriving data is written into the slot of its own job's CHAIN_RECV and, where the chain goes on, to the successor; a length
that differs faults the job.
Model's choices here: log entry 28. -/
def Obligations.TransfersAndTheWeightChain : Prop :=
  (∀ (core : Nat) (eng : Engine) (s : State), let l := ((s.core core).engine eng).outstanding
    (∀ x j, l.find? (fun t => t.done && t.op != 0) = some x → s.job x.job = some j →
      ∃ v, exec (.transferComplete core eng) s = .next ((v.sendSignals core eng).settle j.id) ∧
        ((v.core core).engine eng).outstanding = landFirst l ∧
        (x.op = 1 ∨ x.op = 4 → x.dstSpace = 0 ∨ x.dstSpace = 5 →
          v.hatch.plate = memStore s.hatch.plate (plateAt x.dstCore j.id x.dstHandle x.dstOff) x.data ∧ Frame [.hatch] s v) ∧
        (x.op = 3 ∨ x.dstSpace = 2 → v.hatch.plate = s.hatch.plate ∧ Frame [.hatch] s v) ∧
        (∀ n, x.op = 2 → x.dstSpace = 4 → successor j core = some n →
          (v.core n).chainIn = (s.core n).chainIn ++ chainPieces j.id x.spans x.data ∧ Frame [.hatch] s v)) ∧
    (l.find? (fun t => t.done && t.op != 0) = none → exec (.transferComplete core eng) s = .next (s.sendSignals core eng)) ∧
    (∀ x rest, l = x :: rest → x.done = false ∨ x.op ≠ 0 →
      s.sendSignals core eng = (s.setCore core (s.core core)).sendReleases core eng) ∧
    (∀ x rest, l = x :: rest → x.done = true → x.op = 0 → (∀ y ∈ rest, y.op ≠ 0) →
      s.sendSignals core eng =
        (engineSignal core .ready x.notify (engineSignal core .room x.release
          (s.setCore core ((s.core core).setEngine eng { (s.core core).engine eng with outstanding := rest })))).sendReleases core eng)) ∧
  (∀ (core p n : Nat) (ctr : Counter) (k : Job) (s : State), s.pairOwner core p = some k → (s.core core).waiting = none →
    (s.core core).counter p ctr + n ≤ 4095 →
    ((engineSignal core ctr (some (core, p, n)) s).core core).counter p ctr = (s.core core).counter p ctr + n) ∧
  (∀ (core stroke p : Nat) (j : Job) (s : State), s.job j.id = some j → s.engineUp j core .tracer = true → s.mayFetch j = true →
    predecessor j core = some p → p ≠ core →
    let grants (e : Entry) (t : State) : Prop :=
      let own := s.ownDeadline j .tracer e (s.notifyCore j e) (s.releaseCore j e)
      (∃ w, (t.core p).grants = (s.core p).grants ++ [(j.id, w)] ∧
        (e.wait = false → w = if e.chain = 0 then own else earlier own (((s.core core).grantsOf j.id).headD own))) ∧
      (∃ u, (t.core core).tracer.outstanding = (s.core core).tracer.outstanding ++ [u] ∧ u.op = 3 ∧ u.job = j.id ∧ u.len = e.len ∧
        u.done = false ∧ u.data = []) ∧
      (e.chain ≠ 0 → (t.core core).grants = dropGrants j.id 1 (s.core core).grants) ∧ Frame [.jobs, .hatch] s t
    let goes (n : Item) : Prop := s.waitMet j core .tracer n.1 = true ∧ (n.1.chain ≠ 0 → (s.core core).grantsOf j.id ≠ []) ∧
      s.entryFits j core n = true
    let w := s.walk j .tracer stroke
    (∀ n, s.regrant j core = none → s.engineRuns j core .tracer stroke = true →
      (s.engineList j .tracer stroke w.1)[w.2.1]? = some n → n.1.op = 3 → goes n →
      Completes (.chainGrant core j.id stroke w.2.1 p) s fun t =>
        grants n.1 t ∧ ∃ k, t.job j.id = some k ∧ tabGet k.walks (walkKey stroke .tracer) = some (w.1, w.2.1 + 1, 0)) ∧
    (∀ r n, s.regrant j core = some r → (s.engineList j .tracer r.1 r.2.1)[r.2.2]? = some n → goes n →
      Completes (.chainGrant core j.id r.1 r.2.2 p) s fun t => grants n.1 t ∧ ∃ k, t.job j.id = some k ∧ k.again = j.again.erase r)) ∧
  (∀ (core : Nat) (p : ChainPiece) (rest : List ChainPiece) (x : Xfer) (j : Job) (s : State), (s.core core).chainIn = p :: rest →
    (s.core core).tracer.outstanding.find? (fun u => u.op = 3 && u.job = p.job && !u.done) = some x → s.job p.job = some j →
    (x.len = p.total →
      ∃ v, exec (.chainDataArrival core) s = .next (v.sendReleases core .tracer) ∧
        v.hatch.plate = memStore s.hatch.plate (plateAt core j.id x.dstHandle (x.dstOff + x.data.length)) p.data ∧
        (x.chain = 0 → (v.core core).chainIn = rest) ∧
        (∀ n, x.chain ≠ 0 → successor j core = some n → n ≠ core →
          (v.core core).chainIn = rest ∧ (v.core n).chainIn = (s.core n).chainIn ++ [p]) ∧
        Frame [.hatch] s v) ∧
    (x.len ≠ p.total → exec (.chainDataArrival core) s = .next (s.tearDown x.job 291)))

/-- DRAM service and errors (09 R271, R272, R279; 10 R308 to R313). A served read brings its bytes and a served write stores them, each charged at its
length; its RELEASE can then go out; it waits while a piece of audio, a promotion's copy or a save goes before it; where the scrub's own deadline puts it first, a line of it is read instead. A corrected error is
counted, and more than the threshold within an hour is MEMORY_DEGRADED. An uncorrectable line is met as its region says: the system area faults the
module; a stream's buffer, a save area in use and a job's regions fault the job; a cold model is damaged and its jobs fault; a hot one is only counted.
Scrub takes the next line, and after the last one begins again. A due refresh runs, or waits while an urgent transfer does.
Model's choices here: log entries 10, 11 and 40. -/
def Obligations.DramService : Prop :=
  (∀ (ch : Nat) (x : Xfer) (j : Job) (s : State), s.firstServed (s.waitingAt ch) = some x →
    (s.scrubFirst ch = true → exec (.dramService ch) s = .next (s.scrubOne ch)) ∧
    (s.scrubFirst ch = false → (s.othersAt ch).all (s.waits x).before = false → exec (.dramService ch) s = .next s) ∧
    (s.scrubFirst ch = false → (s.othersAt ch).all (s.waits x).before = true → s.job x.job = some j →
      ∃ v, exec (.dramService ch) s = .next ((v.sendReleases x.core x.engine).charge j.session (some j.id)
          (if x.reads then { Account.zero with dramRd := x.len } else { Account.zero with dramWr := x.len })) ∧
        v.mem = { s.mem with queue := s.mem.queue.erase x } ∧
        (x.reads = true →
          v.dram = s.dram ∧
          ((v.core x.core).engine x.engine).outstanding = changeXfer x
            (fun u => { u with
              data := s.spaceBytes j x.core x.srcSpace x.srcHandle x.srcOff x.len x.stream
              fetched := true
              done := true })
            ((s.core x.core).engine x.engine).outstanding) ∧
        (x.reads = false →
          (x.dstHandle = 1 → v.dram = (s.scratchStore j x.dstOff x.data).dram) ∧
          (x.dstHandle ≠ 1 → v.dram = s.dram ∧ v.job j.id = some { j with output := memStore j.output x.dstOff x.data }) ∧
          ((v.core x.core).engine x.engine).outstanding = changeXfer x
            (fun u => { u with data := x.data, fetched := true, done := true }) ((s.core x.core).engine x.engine).outstanding) ∧
        Frame [.mem, .dram, .jobs, .hatch, .cnt] s v)) ∧
  (∀ (ch a : Nat) (s : State), s.chanServes ch = true →
    let times := ((s.chan ch).ceTimes.filter fun t => s.tb.sub < t + hourSubs) ++ [s.tb.sub]
    Completes (.dramCorrectedRead ch a) s fun t =>
      t.chan ch = { s.chan ch with ce := min ((s.chan ch).ce + 1) 0xFFFFFFFF, ceTimes := times } ∧
      (∀ k, k ≠ ch → t.chan k = s.chan k) ∧
      (s.mem.ceThresh < times.length →
        t.evt.table.any (fun k => k.code == 7 && k.source == t.evt.keySource 7 (srcOf 3 ch)) = true) ∧
      (times.length ≤ s.mem.ceThresh → t.evt = s.evt) ∧ t.dram = s.dram ∧ Frame [.mem, .evt, .cnt, .host] s t) ∧
  (∀ (a : Nat) (s : State), s.boot.phase = .ready →
    let u := { s.bump 0x0E0 1 with mem := { s.mem with ueCount := min (s.mem.ueCount + 1) 0xFFFF } }
    (a < 0x800000000 →
      Completes (.dramUncorrectableRead a) s fun t => t.boot.phase = .faulted ∧ t.fault.cause = 1 ∧ t.mem.ueCount = u.mem.ueCount) ∧
    (∀ x j, 0x800000000 ≤ a → a < 0xC00000000 → s.stream ((a - 0x800000000) / 1048576) = some x → s.job x.job = some j →
      exec (.dramUncorrectableRead a) s = .next (u.tearDown x.job 309)) ∧
    (∀ p j, 0xC00000000 ≤ a → a < 0x2400000000 →
      s.mem.saveUsed.find? (fun p => p.2 == (a - 0xC00000000) / 2097152) = some p → s.job p.1 = some j →
      j.state = .frosted ∨ j.state = .thawing → exec (.dramUncorrectableRead a) s = .next (u.tearDown p.1 309)) ∧
    (∀ p, 0x2400000000 ≤ a → s.mem.poolUsed.find? (fun p => p.2 == (a - 0x2400000000) / 2097152) = some p →
      (1048576 ≤ p.1 → exec (.dramUncorrectableRead a) s = .next (u.tearDown (p.1 - 1048576) 309)) ∧
      (∀ m, p.1 < 1048576 → s.model p.1 = some m →
        (m.hot = true → exec (.dramUncorrectableRead a) s = .next u) ∧
        (m.hot = false → Completes (.dramUncorrectableRead a) s fun t =>
          (∃ n, t.model p.1 = some n ∧ n.damaged = true) ∧
          ∀ id j, s.job id = some j → j.handle = p.1 → t.job id = none)))) ∧
  (∀ (ch : Nat) (s : State), s.chanServes ch = true →
    (s.waitingAt ch = [] ∨ s.scrubFirst ch = true →
      Completes (.dramScrub ch) s fun t =>
        t.chan ch = (if (s.chan ch).scrubLine + 1 < 1000000000 then { s.chan ch with scrubLine := (s.chan ch).scrubLine + 1 }
          else { s.chan ch with scrubLine := 0, scrubAt := s.tb.sub }) ∧
        (∀ k, k ≠ ch → t.chan k = s.chan k) ∧ t.dram = s.dram ∧ Frame [.mem] s t) ∧
    (s.waitingAt ch ≠ [] → s.scrubFirst ch = false → exec (.dramScrub ch) s = .next s) ∧
    Completes (.refresh ch) s fun t =>
      let waits := s.mem.queue.any fun x => s.xferChannel x == ch && s.urgent x
      ((waits = false ∨ Config.refreshLimit ≤ (s.chan ch).postponed) → t.chan ch = { s.chan ch with postponed := 0 }) ∧
      (waits = true → (s.chan ch).postponed < Config.refreshLimit →
        t.chan ch = { s.chan ch with postponed := (s.chan ch).postponed + 1 }) ∧
      (∀ k, k ≠ ch → t.chan k = s.chan k) ∧ t.mem.queue = s.mem.queue ∧ Frame [.mem, .cnt] s t)

/-- The order of service at a channel (09 R284): the transfer served waits there, and none that waits there goes before it: urgent Live work
first by deadline, then all other work by deadline, ties by issue time and then by job ID. -/
def Obligations.DramServiceOrder : Prop :=
  ∀ (s : State) (l : List Xfer),
    (l = [] → s.firstServed l = none) ∧
    (l ≠ [] → ∃ x, s.firstServed l = some x ∧ x ∈ l ∧
      ∀ y ∈ l,
        (s.urgent y = true → s.urgent x = true) ∧
        (s.urgent y = s.urgent x → s.slack x ≤ s.slack y) ∧
        (s.urgent y = s.urgent x → s.slack x = s.slack y → x.issued ≤ y.issued) ∧
        (s.urgent y = s.urgent x → s.slack x = s.slack y → x.issued = y.issued → x.job ≤ y.job))

/-! ### Residency, Frost, remote reads -/

/-- PROMOTION and DEMOTION (10 R315 to R319, 09 R269). An Auto model with enough open streams gets a residency set and a Fill job that copies it, which
waits for capacity, and Fill work that lies in the set is asked to Frost; with no set and nothing that could make room it stays cold. Each transfer of
the copy, served by its channel, brings its bytes to the set's Plate, and is charged; behind the last one a plan close maps the set. A hot model without
an open stream that stands in the way of a promotion, or whose class change waits for that, starts to leave; every other stays.
Model's choices here: log entries 12 and 26. -/
def Obligations.Residency : Prop :=
  (∀ (h n : Nat) (m : Model) (set : List Nat) (s : State), s.model h = some m → m.res = .cold → m.cls = 1 →
    m.damaged = false → s.mem.policy.autoMin ≤ s.openStreams h → s.mem.policy.share ≠ 0 → s.findSet m = some set →
    freeKey s.jobs 1024 0 = some n → s.reserveOk m.image set.length 0 = true →
    Completes (.promotion h) s fun t =>
      t.model h = some { m with res := .copying set n 0 (s.tb.sub, s.tb.sub + s.frameSubs), share := s.mem.policy.share } ∧
      (∃ j, t.job n = some j ∧ j.fill = true ∧ j.kind = .promote h ∧ j.state = .frosted ∧ j.session = m.session) ∧
      ∀ id j, s.job id = some j → j.fill = true → j.state = .bound → (∃ c ∈ j.cores, c ∈ set) →
        ∃ k, t.job id = some k ∧ (k.state = .frosting ∨ k.frostNext = true)) ∧
  (∀ (h : Nat) (m : Model) (s : State), s.model h = some m → m.res = .cold → s.findSet m = none →
    (∀ n, n ≤ s.evictable.length → (s.without s.evictable n).findSet m = none) → exec (.promotion h) s = .next s) ∧
  (∀ (h job done : Nat) (x : Nat × Int) (m : Model) (set : List Nat) (s : State), s.model h = some m →
    m.res = .copying set job done x →
    let p := s.promotionPiece m set done
    let served := s.promotes set job = true ∧ s.channelServes (s.channelOf p.1) (s.waitingFor false x.2 x.1 job) = true
    (served →
      Completes (.promotion h) s fun t =>
        t.hatch.plate = memStore s.hatch.plate (residentAt p.2.1 h p.2.2.1) (bytesAt (weightImage m.image) done p.2.2.2) ∧
        p.1 % 4096 + p.2.2.2 ≤ 4096 ∧
        (imgWeightBytes m.image ≤ done + p.2.2.2 → t.model h = some { m with res := .copied set job }) ∧
        (done + p.2.2.2 < imgWeightBytes m.image →
          t.model h = some { m with res := .copying set job (done + p.2.2.2) (s.tb.sub, s.tb.sub + s.frameSubs) }) ∧
        (∀ j, s.job job = some j → ∃ k, t.job job = some k ∧ k.account = j.account.charge { Account.zero with dramRd := p.2.2.2 }) ∧
        Frame [.sessions, .models, .jobs, .hatch, .tallies] s t) ∧
    (¬served → exec (.promotion h) s = .next s)) ∧
  (∀ (h : Nat) (set : List Nat) (m : Model) (s : State), s.model h = some m → m.res = .hot set →
    let inWay := ∃ q ∈ s.models, s.wantsPromotion q.2 = true ∧ s.findSet q.2 = none ∧ ∃ v ∈ s.evictions q.2, v.handle = h
    (s.openStreams h = 0 → m.clsNext.isSome = true ∨ inWay → exec (.demotion h) s = .next (s.setModel { m with res := .leaving set })) ∧
    (s.openStreams h ≠ 0 ∨ (m.clsNext = none ∧ ¬inWay) → exec (.demotion h) s = .next s))

/-- FROST, LIVE_FROST and THAW (11 R328, R331 to R338, R341, R342, R346, R347; 10 R306). A Fill job at its safe points, once the channels serve its save,
is saved, with what the compiler marks live and the slots of its links that are ready or that a read fills, gives up its cores, and leaves zeros in them.
A rebinding's Live job is saved from its shadow and is Frosted; then it is bound to its new cores, and Thaws. A job that holds a binding is checked
against its save area and restored, or faults with the reason; a read without its reply is issued again.
Model's choices here: log entries 25, 39 and 41. -/
def Obligations.FrostAndThaw : Prop :=
  (∀ (job : Nat) (live : List ExtentKey) (j : Job) (m : Model) (s : State), s.job job = some j →
    s.model j.handle = some m → j.fill = true → j.state = .frosting → s.frostReady j = true → s.switchServed j = true →
    Completes (.frost job live) s fun t =>
      (let a := s.saveOf m.image j live
       (∃ k, t.job job = some k ∧ k.state = .frosted ∧ k.cores = [] ∧ k.save = some a) ∧ a.session = j.session ∧ a.handle = j.handle ∧
        a.frame = s.tb.frame ∧ a.season = s.tb.season ∧ a.optStep = j.optStep ∧ a.issued = j.issued ∧ a.walks = j.walks ∧
        a.extents.map (·.1) = s.liveKeys m.image j (s.parked m.image j) live) ∧
      (∀ c ∈ j.cores, ∀ k off, k < 8 → off < 2 ^ 19 → memRead t.hatch.plate (plateAt c job k off) = 0) ∧
      (∀ c ∈ j.cores, job ∉ (t.core c).jobs) ∧
      Frame [.sessions, .streams, .jobs, .hatch, .burin, .evt, .cnt, .tallies, .host] s t) ∧
  (∀ (job : Nat) (cores : List Nat) (j : Job) (m : Model) (s : State), s.job job = some j → s.rebind.place = some (job, cores) →
    s.model j.handle = some m → j.fill = false → s.boot.phase = .ready →
    (j.state = .frosting → s.switchServed j = true →
      (∀ c ∈ j.cores, (s.core c).faulted = false ∧ ∀ r, (s.core c).running = some r → r.job ≠ job) →
      Completes (.liveFrost job) s fun t =>
        t.rebind = { s.rebind with old := j.held } ∧
        ∃ k, t.job job = some k ∧ k.state = .frosted ∧ k.cores = [] ∧ k.save = some (s.saveOf m.image j [])) ∧
    (j.state = .frosted → s.switching < 16 →
      Completes (.liveFrost job) s fun t =>
        (∃ k, t.job job = some k ∧ k.state = .thawing ∧ k.cores = cores ∧ k.save = j.save) ∧ Frame [.jobs] s t)) ∧
  (∀ (job : Nat) (j : Job) (m : Model) (a : SaveArea) (s : State), s.job job = some j → s.model j.handle = some m →
    j.save = some a → j.state = .thawing → (∀ c ∈ j.cores, (s.core c).faulted = false) → s.switchServed j = true →
    s.hasCredits j (a.parking.filter (·.pstate = 0)).length = true →
    match saveReason m.image a j s.tb.season with
    | some reason =>
      exec (.thaw job) s = .next (((s.rowStreams j).foldl (rejectRow reason) s).tearDownWith job 338 stSaveRejected reason)
    | none =>
      Completes (.thaw job) s fun t =>
        (∃ k, t.job job = some k ∧ k.cores = j.cores ∧ k.save = none ∧ k.issued = a.issued ∧ k.again = a.again ∧
          (j.frostNext = false → k.state = .bound) ∧ (j.frostNext = true → k.state = .frosting ∨ k.frostNext = true)) ∧
        (a.parking = [] → (∀ c, s.rebind.place ≠ some (job, c)) →
          let u := a.extents.foldl (restoreExtent m.image j a.extents) s
          t.hatch.plate = u.hatch.plate ∧ t.hatch.acc = u.hatch.acc))

/-- Remote reads of a Fill job moved to another member (11 R340, R341; 15 R477, R478, R480, R481). A reply goes into the transfer that waits for
it, or into the parking buffer while the job is saved, and the responder's credits return; a read without a reply within 8 µs is issued again under a
new tag, one older, and at age 7 faults the job, but waits while the job is saved or no request credit is left; at the home module a request is queued by
deadline, answered once response credits last, and its own credit returned; a returned credit counts. A port that is wired wrongly carries neither.
Model's choices here: log entries 23, 40 and 41. -/
def Obligations.RemoteReads : Prop :=
  (∀ (job tag : Nat) (data : List Byte) (j : Job) (r : Remote) (s : State), s.job job = some j →
    j.remotes.find? (fun r => r.tag = tag) = some r →
    let rest := j.remotes.filter fun q => q.tag != tag
    let port := s.portTo (j.home.getD 0)
    (j.save = none →
      ∃ v, exec (.remoteReplyParked job tag data) s = .next (((v.sendReleases r.core .tracer).charge j.session (some job)
          { Account.zero with ihlauxIn := r.bytes }).bump (0x150 + port) r.bytes) ∧
        v.job job = some { j with remotes := rest, credits := j.credits - 1 } ∧
        (v.core r.core).tracer = landXfer tag (bytesAt data 0 r.bytes) (s.core r.core).tracer ∧
        v.ihx = (s.returnCredits port 2 (ceilDiv r.bytes 256)).ihx ∧
        (∀ c, c ≠ r.core → v.core c = s.core c) ∧ Frame [.jobs, .hatch, .ihx] s v) ∧
    (∀ a m, j.save = some a → s.model j.handle = some m →
      Completes (.remoteReplyParked job tag data) s fun t =>
        (∃ k, t.job job = some k ∧ k.remotes = rest ∧ k.credits = j.credits - 1 ∧
          k.save = some (SaveArea.sealed m.image { a with parking := a.parking.map (landPark tag (bytesAt data 0 r.bytes)) } job)) ∧
        t.ihx = (s.returnCredits port 2 (ceilDiv r.bytes 256)).ihx ∧ Frame [.sessions, .jobs, .ihx, .cnt, .tallies] s t) ∧
    (j.state = .bound → r.at_ + eightUs ≤ s.tb.sub → r.age < 7 → s.hasCredits j 1 = true →
      Completes (.fillReadTimeout job tag) s fun t =>
        (∃ k, t.job job = some k ∧ k.nextTag = nextTag j.nextTag ∧
          k.remotes = j.remotes.map fun q =>
            if q.tag = tag then { q with tag := j.nextTag, age := r.age + 1, core := r.core, at_ := s.tb.sub } else q) ∧
        (t.core r.core).tracer = retag tag j.nextTag (s.core r.core).tracer ∧
        t.ihx = (s.sendRead j j.nextTag (r.age + 1) r.srcOff r.bytes).ihx ∧ Frame [.jobs, .hatch, .ihx, .cnt] s t) ∧
    (j.state = .bound → r.at_ + eightUs ≤ s.tb.sub → 7 ≤ r.age → exec (.fillReadTimeout job tag) s = .next (s.tearDown job 480)) ∧
    (j.state ≠ .bound ∨ s.tb.sub < r.at_ + eightUs ∨ (r.age < 7 ∧ s.hasCredits j 1 = false) →
      exec (.fillReadTimeout job tag) s = .next s)) ∧
  (∀ (p job tag age off n : Nat) (s : State), (s.ihxPort p).trained = true → (s.ihxPort p).secured = true →
    (s.ihxPort p).wiringErr = false →
    let r : RemoteReq := ⟨job, tag, off, n, (s.tb.sub : Int) + s.frameSubs - age * (s.frameSubs : Int)⟩
    Completes (.remoteReadRequest p job tag age off n) s fun t =>
      (∀ q ∈ (t.ihxPort p).reads, q ∈ (s.ihxPort p).reads ++ [r]) ∧ (t.ihxPort p).vc2Fill ≤ (s.ihxPort p).vc2Fill ∧
      (∀ j, (s.ihxPort p).reads = [] → s.job job = some j → (s.ihxPort p).vc2Fill < ceilDiv n 256 →
        (t.ihxPort p).reads = [r] ∧ t.ihx.sent = s.ihx.sent ∧ Frame [.ihx] s t) ∧
      ((s.ihxPort p).reads = [] → s.job job = none →
        (t.ihxPort p).reads = [] ∧ t.ihx.sent = s.ihx.sent ++ [⟨p, 25, [1, 1], []⟩] ∧ Frame [.ihx] s t) ∧
      (∀ j, (s.ihxPort p).reads = [] → s.job job = some j → ceilDiv n 256 ≤ (s.ihxPort p).vc2Fill →
        (t.ihxPort p).reads = [] ∧ (t.ihxPort p).vc2Fill = (s.ihxPort p).vc2Fill - ceilDiv n 256 ∧
        t.ihx.sent = s.ihx.sent ++ [⟨p, 24, [job, tag], bytesAt j.input off n⟩, ⟨p, 25, [1, 1], []⟩])) ∧
  (∀ (p vc : Nat) (fill : Bool) (s : State), (s.ihxPort p).trained = true → (s.ihxPort p).wiringErr = false →
    let vc2 := if vc = 2 ∧ fill = true then min ((s.ihxPort p).vc2Fill + 1) 4096 else (s.ihxPort p).vc2Fill
    Completes (.creditReturn p vc fill) s fun t =>
      (t.ihxPort p).vc1Live = (if vc = 1 ∧ fill = false then min ((s.ihxPort p).vc1Live + 1) 1024 else (s.ihxPort p).vc1Live) ∧
      (t.ihxPort p).vc1Fill = (if vc = 1 ∧ fill = true then min ((s.ihxPort p).vc1Fill + 1) 1024 else (s.ihxPort p).vc1Fill) ∧
      (t.ihxPort p).vc2Live = (if vc = 2 ∧ fill = false then min ((s.ihxPort p).vc2Live + 1) 4096 else (s.ihxPort p).vc2Live) ∧
      (t.ihxPort p).vc2Fill ≤ vc2 ∧ (∀ q ∈ (t.ihxPort p).reads, q ∈ (s.ihxPort p).reads) ∧
      ((s.ihxPort p).reads = [] → (t.ihxPort p).vc2Fill = vc2 ∧ Frame [.ihx] s t) ∧
      (∀ k, k ≠ p → t.ihxPort k = s.ihxPort k)) ∧
  (∀ (p vc job tag age off n : Nat) (fill : Bool) (s : State), (s.ihxPort p).wiringErr = true →
    exec (.creditReturn p vc fill) s = .next s ∧ exec (.remoteReadRequest p job tag age off n) s = .next s)

/-! ### Burin -/

/-- A sample through a Burin unit (07 R214, R215, R230 to R233, R238, R240; 09 R284, R289). An idle unit fetches conditioning ahead and starts the
sample of its eligible context with the earliest pacing deadline; at hand-off the sample leaves the unit, once, into the output stage, under
its context's mark key; there it becomes a PCM word for each destination; pieces go into the stream's audio ring, in their field's and channel's order; and the
mirror partner holds the head state of the last hand-off.
Model's choices here: log entry 24. -/
def Obligations.Samples : Prop :=
  (∀ (u : Nat) (s : State), s.boot.phase = .ready → s.unitServes u = true → (s.unit u).busy = none →
    (s.nextContext u = none → exec (.sampleStart u) s = .next s) ∧
    (∀ k x c r, s.nextContext u = some (k, x, c) → (s.fetchCond u).computeSample x c = some r →
      Completes (.sampleStart u) s fun t =>
        t.unit u = { (s.fetchCond u).unit u with busy := some k } ∧
        t.stream x.id = some { x with current := some (x.headAt, r.x, r.head) } ∧
        (∀ y, s.stream y.id = some y → s.eligible y ≠ none → y.unit = u → tabGet (s.unit u).ctxs y.ctx = some y.id →
          ∃ d, s.eligible y = some d ∧ s.pacing x c ≤ s.pacing y d) ∧
        Frame [.streams, .burin, .cnt] s t)) ∧
  (∀ (u a cycles k id n : Nat) (v : Word) (h : Head) (x : Stream) (c : Chunk) (s : State), (s.unit u).busy = some k →
    tabGet (s.unit u).ctxs k = some id → s.stream id = some x → x.current = some (n, v, h) → x.chunkOf x.headAt = some c →
    (n < x.handed →
      Completes (.sampleHandOff u a cycles) s fun t =>
        (t.unit u).busy = none ∧ t.stream id = some (Stream.ripen { x with head := h, headAt := n + 1, current := none }) ∧
        Frame [.streams, .burin, .cnt] s t) ∧
    (x.handed ≤ n →
      Completes (.sampleHandOff u a cycles) s fun t =>
        (t.unit u).busy = none ∧
        ∃ y, t.stream id = some y ∧ y.handed = n + 1 ∧ y.headAt = n + 1 ∧ y.head = h ∧ y.current = none ∧
          y.staged = x.staged ++ [⟨n, v, h.envelope, s.tb.frame, c.dither, (tabGet (s.unit x.unit).keys x.ctx).getD []⟩] ∧
          y.records = keepRecords (n + 1) x.records ∧
          (n + 1 = c.first + c.count → c.ends = true → x.phase = .rendering → y.phase = .idle))) ∧
  (∀ (id : Nat) (x : Stream) (h : Handed) (rest : List Handed) (s : State), s.stream id = some x → x.staged = h :: rest →
    let tensor := (((s.model x.handle).bind fun m => imgHead m.image).map (·.tensor)).getD 0
    let draw : Option Word := if h.dither then
        some (Draw.u ⟨x.seed, x.key, BitVec.ofNat 16 (tensor + 1), BitVec.ofNat 48 h.n, 0, h.x.setWidth 16⟩)
      else none
    let up := chipUp h.key (markPayload s.part.serial.toNat x.session (periodAt x.period h).2.toNat) h.n
    let level := ((s.session x.session).map (·.level)).getD 0
    let pcm : Word := BitVec.ofInt 32 (outputPcm h.x h.env up level (s.pcmWidth x) draw).1
    Completes (.outputStageWrite id) s fun t =>
      t.stream id = some { x with
        staged := rest
        period := some (periodAt x.period h)
        outBuf := if x.toHost then x.outBuf ++ [(h.n, pcm &&& 0x00FFFFFF)] else x.outBuf
        lineBuf := if x.toLine then x.lineBuf ++ [(h.n, pcm <<< (32 - s.pcmWidth x))] else x.lineBuf } ∧
      Frame [.streams, .cnt] s t) ∧
  (∀ (id : Nat) (x : Stream) (s : State), s.stream id = some x →
    (s.unitServes x.unit = true → tabGet (s.unit x.unit).ctxs x.ctx = some id →
      exec (.sampleMirror id) s = .next (s.setStream { x with mirror := (x.headAt, x.head) })) ∧
    (x.piece ≠ 0 → x.audio.length + x.piece ≤ 262144 → s.pieceServed x = true →
      Completes (.outputScriberPiece id) s fun t =>
        (let first := ((x.outBuf.head?).map (·.1)).getD 0
         t.stream id = some { x with
          outBuf := x.outBuf.drop x.piece
          audio := x.audio ++ x.outBuf.take x.piece
          pieces := x.pieces ++ [⟨first, x.piece, s.audioDue x (first + x.piece - 1), s.tb.sub⟩]
          paces := x.paces.filter fun p => first + x.piece < p.1 + p.2.1 }) ∧
        Frame [.sessions, .streams, .jobs, .cnt, .tallies] s t) ∧
    (s.pieceServed x = false → exec (.outputScriberPiece id) s = .next s))

/-- Burin faults and moves (07 R236 to R239, 18 R558, R560). A failed unit stops. Its contexts go to the nearest whole idle unit that may take them, with
its weights and mark keys; a context whose mirror is complete goes on from it; where no such unit is left, BURIN_RESERVE_LOW is raised. At a chunk
boundary a context whose next voice its unit has no room for moves to a unit with room, and nothing moves otherwise.
Model's choices here: log entry 31. -/
def Obligations.BurinFaultsAndMoves : Prop :=
  (∀ (u r : Nat) (s : State), s.boot.phase = .ready → s.unitServes u = true → (s.unit u).ctxs = [] → s.rebind.place = none →
    exec (.burinTakeover u r) s =
      .next ((s.setUnit u { s.unit u with failed := true, busy := none }).bump 0x045 1 (.field (u / 8)))) ∧
  (∀ (u r : Nat) (s : State), s.boot.phase = .ready → s.unitServes u = true → s.rebind.place = none → (s.unit u).ctxs ≠ [] →
    (∀ k ∈ (s.unit u).ctxs, ∀ x, s.stream k.2 = some x → ∀ j, s.job x.job = some j → ∀ c ∈ j.held, (s.core c).faulted = false) →
    let nearest (v : Nat) : Prop := v ∈ s.wholeUnits u ∧ ∀ w ∈ s.wholeUnits u, unitDist u v ≤ unitDist u w
    Completes (.burinTakeover u r) s fun t =>
      (t.unit u).failed = true ∧
      (s.wholeUnits u ≠ [] →
        ∃ v, nearest v ∧ (nearest r → v = r) ∧ (t.unit u).ctxs = [] ∧ (t.unit v).ctxs = (s.unit u).ctxs ∧
          (t.unit v).weights = (s.unit u).weights ∧ (t.unit v).keys = (s.unit u).keys ∧
          (∀ k id x, (s.unit u).ctxs = [(k, id)] → s.stream id = some x → x.unit = u → x.mirror.1 = x.headAt →
            t.stream id = some { x with current := none, head := x.mirror.2, unit := v })) ∧
      (s.wholeUnits u = [] → t.evt.table.any (fun k => k.code == 0x0A && k.source == t.evt.keySource 0x0A 0) = true)) ∧
  (∀ (id u : Nat) (x : Stream) (s : State), s.stream id = some x →
    let hs := x.voices ++ s.nextVoices x
    let f := s.freeUnit x
    (s.storeFits (s.unit x.unit) hs = true → exec (.burinContextMove id u) s = .next s) ∧
    (tabGet (s.unit x.unit).ctxs x.ctx = some id → x.current = none →
      (∀ c, x.chunkOf x.headAt = some c → x.headAt ≤ c.first) → s.storeFits (s.unit x.unit) hs = false → u ≠ x.unit →
      f.storeFits (f.unit u) hs = true → s.unitNear x u = true → f.unitTakes true hs (f.streamSixths x) u = true →
      ∀ k, freeKey (f.unit u).ctxs 192 0 = some k →
      Completes (.burinContextMove id u) s fun t =>
        t.stream id = some { x with unit := u, ctx := k, left := false } ∧ tabGet (t.unit u).ctxs k = some id ∧
        (t.unit u).weights = (f.bindUnit x u).loadWeights ((f.bindUnit x u).unit u) hs ∧ Frame [.streams, .burin] s t))

/-! ### Audio lines and clocks -/

/-- START and STOP of lines and groups (14 R448 to R451, R463). A direction in no group that meets the checks enters run-in, or its leader's
holdover or re-lock; one that fails them, or lies in a group, sets CFG_ERR. A counted run-in is ready for the next Frame tick. A STOP begins
the run-out, or stops a direction in holdover at once; one that is refused sets BUSY. A group starts or stops all its members, or none.
Model's choices here: log entry 29. -/
def Obligations.LineStartAndStop : Prop :=
  (∀ (p n d : Nat) (v : Word) (s : State), s.writable p .ready = true → n < 64 → d < 2 →
    let k := 2 * n + d
    let x := s.dirAt k
    (bitOf v 0 = true → bitOf v 1 = false → x.group = 0 → x.state = 0 → s.dirOk x false = true →
      Completes (.lineStart p n d v) s fun t =>
        t.dirAt k = startDir (if x.role = 2 ∧ ((s.dirAt x.leader).state = 3 ∨ (s.dirAt x.leader).state = 4)
          then (s.dirAt x.leader).state else 1) x ∧
        (∀ i, i ≠ k → t.dirAt i = s.dirAt i) ∧ Frame [.lines] s t) ∧
    (bitOf v 0 = true → bitOf v 1 = false → x.group ≠ 0 ∨ (x.state = 0 ∧ s.dirOk x false = false) →
      exec (.lineStart p n d v) s = .next (s.setDirAt k { x with cfgErr := true })) ∧
    (bitOf v 1 = true → bitOf v 0 = false → x.group = 0 → s.stopRefused k = false →
      Completes (.lineStop p n d v) s fun t =>
        t.dirAt k = stopDir x ∧ (∀ i, i ≠ k → t.dirAt i = s.dirAt i) ∧ Frame [.lines] s t) ∧
    (bitOf v 1 = true → bitOf v 0 = false → x.group ≠ 0 ∨ s.stopRefused k = true →
      exec (.lineStop p n d v) s = .next (s.setDirAt k { x with busy := true }))) ∧
  (∀ (n d : Nat) (s : State), d < 2 →
    let x := s.dir n d
    (x.state = 1 →
      Completes (.runInComplete n d) s fun t =>
        t.dir n d = { x with ready := true, rate := if x.role = 1 then s.measuredRate else 0 } ∧ Frame [.lines, .free] s t) ∧
    (x.state = 5 →
      Completes (.runOutComplete n d) s fun t => t.dir n d = { x with state := 0, buf := [] } ∧ Frame [.lines] s t)) ∧
  (∀ (p g : Nat) (v : Word) (s : State), s.writable p .ready = true → 1 ≤ g → g ≤ 15 →
    (bitOf v 0 = true → bitOf v 1 = false → s.groupOk g = true →
      Completes (.groupStart p g v) s fun t =>
        (∀ k ∈ s.members g, t.dirAt k = startDir 1 (s.dirAt k)) ∧ (∀ k, k ∉ s.members g → t.dirAt k = s.dirAt k) ∧
        (t.groupAt g).state = 1 ∧ (t.groupAt g).cfgErr = false ∧ Frame [.lines] s t) ∧
    (bitOf v 0 = true → bitOf v 1 = false → s.groupOk g = false →
      exec (.groupStart p g v) s = .next (s.setGroup g { s.groupAt g with cfgErr := true })) ∧
    (bitOf v 1 = true → bitOf v 0 = false → (∀ k ∈ s.members g, s.stopRefused k = false) →
      Completes (.groupStop p g v) s fun t =>
        (∀ k ∈ s.members g, t.dirAt k = stopDir (s.dirAt k)) ∧ (∀ k, k ∉ s.members g → t.dirAt k = s.dirAt k) ∧
        (t.groupAt g).busy = false ∧ Frame [.lines] s t) ∧
    (bitOf v 1 = true → bitOf v 0 = false → (∃ k ∈ s.members g, s.stopRefused k = true) →
      exec (.groupStop p g v) s = .next (s.setGroup g { s.groupAt g with busy := true })))

/-- Slips and clock events (14 R434, R442, R452, R454 to R460). A drift slip counts on every member of its group, and drops or inserts half a
buffer on receive, but not in the frame of a glitch slip; a stopped clock means holdover, and a rate beyond 500 ppm re-lock, each with its
alarm; RUN_IN good frames in a row make a direction ready to return, and a bad one begins the count again; a glitch slip counts and a receive frame is
lost; a captured word is left-justified with its flag.
Model's choices here: log entry 30. -/
def Obligations.LineClockEvents : Prop :=
  let alarmed (t : State) (code source : Nat) : Prop := t.evt.table.any (fun k => k.code == code && k.source == t.evt.keySource code source) = true
  (∀ (n d : Nat) (low : Bool) (s : State), n < 64 → d < 2 → 2 ≤ (s.dir n d).state → (s.dir n d).state ≤ 4 →
    let k := 2 * n + d
    let x := s.dirAt k
    ((∀ i ∈ s.slipSet k, (s.dirAt i).glitched = false) →
      Completes (.driftSlip n d low) s fun t =>
        (∀ i ∈ s.slipSet k, (t.dirAt i).drift = min ((s.dirAt i).drift + 1) 0xFFFF) ∧
        (∀ i, i ∉ s.slipSet k → t.dirAt i = s.dirAt i) ∧
        (d = 1 → x.group = 0 →
          (t.dirAt k).buf = if low then List.replicate (x.depth / 2) (x.blank 4) ++ x.buf else x.buf.drop (x.depth / 2)) ∧
        Frame [.lines, .evt, .cnt, .tallies, .host] s t) ∧
    (∀ i ∈ s.slipSet k, (s.dirAt i).glitched = true → exec (.driftSlip n d low) s = .next s)) ∧
  (∀ (n d : Nat) (s : State), n < 64 → d < 2 →
    let k := 2 * n + d
    let x := s.dirAt k
    x.role = 1 →
    (x.state ≠ 0 → x.state ≠ 3 →
      Completes (.clockStop n d) s fun t =>
        (∀ i ∈ s.together k, t.dirAt i = holdDir 3 (s.dirAt i)) ∧ (∀ i, i ∉ s.together k → t.dirAt i = s.dirAt i) ∧
        (x.state ≠ 5 → alarmed t 0x0F (s.lineSource k)) ∧ Frame [.lines, .evt, .cnt, .host] s t) ∧
    (∀ r : Half, (r.toInt < -32000 ∨ 32000 < r.toInt) →
      (x.state = 2 →
        Completes (.rateOutOfRange n d r) s fun t =>
          t.dirAt k = { holdDir 4 x with rate := rateField r.toInt } ∧
          (∀ i ∈ s.together k, i ≠ k → t.dirAt i = holdDir 4 (s.dirAt i)) ∧ alarmed t 0x10 (s.lineSource k) ∧
          Frame [.lines, .evt, .cnt, .host] s t) ∧
      (x.state = 1 ∨ x.state = 3 ∨ x.state = 4 →
        Completes (.rateOutOfRange n d r) s fun t =>
          (∀ i ∈ s.together k, t.dirAt i = { s.dirAt i with ready := false }) ∧ Frame [.lines] s t)) ∧
    (x.state = 3 ∨ x.state = 4 →
      Completes (.holdoverReturn n d) s fun t =>
        t.dirAt k = { x with ready := true, rate := s.measuredRate } ∧ Frame [.lines, .free] s t) ∧
    (∀ b w, x.state = 2 → (2 ≤ b ∨ w = true) →
      Completes (.fsGlitch n d b w) s fun t =>
        (t.dirAt k).glitch = min (x.glitch + 1) 0xFFFF ∧ (t.dirAt k).state = 2 ∧ (t.dirAt k).glitched = true ∧
        (d = 0 → (t.dirAt k).buf = x.buf) ∧
        (d = 1 → (∀ f, x.buf.getLast? = some f → x.slotsOn.length ≤ f.length) → (t.dirAt k).buf = x.buf ++ [x.blank 4]) ∧
        (d = 1 → ∀ f, x.buf.getLast? = some f → f.length < x.slotsOn.length →
          (t.dirAt k).buf = x.buf.dropLast ++ [x.blank 4]) ∧ Frame [.lines, .evt, .cnt, .host] s t) ∧
    (∀ b w, x.state = 1 ∨ x.state = 3 ∨ x.state = 4 → (2 ≤ b ∨ w = true) →
      Completes (.fsGlitch n d b w) s fun t => t.dirAt k = { x with ready := false } ∧ Frame [.lines] s t) ∧
    (∀ b, x.state = 2 → b ≤ 1 →
      Completes (.fsGlitch n d b false) s fun t =>
        t.dirAt k = (if d = 1 then { x with glitchNext := true } else x) ∧ Frame [.lines] s t)) ∧
  (∀ (n slot : Nat) (w : Word) (s : State), (s.dir n 1).state = 2 → (s.dir n 1).enabled slot = true →
    let x := s.dir n 1
    let v : LineSlot := ⟨slot, none, (w >>> (32 - x.width)) <<< (32 - x.width) ||| (if x.glitchNext then 8 else 0)⟩
    Completes (.captureWord n 1 slot w) s fun t =>
      (x.buf = [] → (t.dir n 1).buf = [[v]]) ∧
      (∀ f b, x.buf = b ++ [f] → f ≠ [] → (∀ u ∈ f, u.slot < slot) → (t.dir n 1).buf = b ++ [f ++ [v]]) ∧
      (∀ f b, x.buf = b ++ [f] → (∃ u ∈ f, slot ≤ u.slot) → (t.dir n 1).buf = x.buf ++ [[v]]) ∧
      (∀ i j, (i, j) ≠ (n, 1) → i < 64 → j < 2 → t.dir i j = s.dir i j) ∧ Frame [.lines] s t)

/-- Oscillators and slot flags (14 R443 to R445, R462, R463): what a write of CLK_OSC_n_CFG, a steering update and a write of ones to a slot register
do in every state in which they act. A written CFG in Free mode, or in Line mode on a slave line that no other oscillator follows, is taken with its
SLEW; any other reference in Line mode sets CFG_ERR and leaves all else; MODE 2 and 3 leave the mode; an oscillator in Folio mode keeps it. A steering
update of a Line-mode oscillator whose reference runs moves the word by at most SLEW ppm a second, within 1,000 ppm, and LOCKED tells whether the fill
has stayed near for 1 s; of any other oscillator it moves nothing. Ones clear their flags, and no others.
Model's choices here: log entry 11. -/
def Obligations.OscillatorsAndSlotFlags : Prop :=
  (∀ (p n : Nat) (v : Word) (s : State), s.writable p .ready = true → n < 4 →
    let o := s.oscAt n
    let line := fld v 7 2
    let dir := fld v 8 8
    let slew := max 1 (fld v 23 16)
    let taken := ∃ m, m < 4 ∧ m ≠ n ∧ (s.oscAt m).mode = 1 ∧ (s.oscAt m).refLine = line ∧ (s.oscAt m).refDir = dir
    let good := (s.dir line dir).role = 1 ∧ ¬taken
    let others (t : State) : Prop := ∀ m, m ≠ n → ∃ h l ms, t.oscAt m = { s.oscAt m with hold := h, locked := l, lockMs := ms }
    (o.mode ≠ 2 → fld v 1 0 = 0 ∨ (fld v 1 0 = 1 ∧ good) →
      Completes (.clkOscCfgWrite p n v) s fun t =>
        (t.oscAt n).mode = fld v 1 0 ∧ (t.oscAt n).refLine = line ∧ (t.oscAt n).refDir = dir ∧ (t.oscAt n).slew = slew ∧
        (t.oscAt n).cfgErr = false ∧ (t.oscAt n).steer = o.steer ∧ others t ∧ Frame [.lines] s t) ∧
    (o.mode ≠ 2 → 2 ≤ fld v 1 0 →
      Completes (.clkOscCfgWrite p n v) s fun t =>
        (t.oscAt n).mode = o.mode ∧ (t.oscAt n).cfgErr = false ∧ others t ∧ Frame [.lines] s t) ∧
    (o.mode ≠ 2 → fld v 1 0 = 1 → ¬good → exec (.clkOscCfgWrite p n v) s = .next (s.setOsc n { o with cfgErr := true })) ∧
    (o.mode = 2 →
      Completes (.clkOscCfgWrite p n v) s fun t =>
        (t.oscAt n).mode = 2 ∧ (t.oscAt n).slew = slew ∧ others t ∧ Frame [.lines] s t)) ∧
  (∀ (n ms : Nat) (s : State), s.boot.phase = .ready → n < 4 →
    let o := s.oscAt n
    let now := max (-1024000) (min 1024000 o.steer)
    let span : Int := (o.slew * 1024 * ms / 1000 : Nat)
    (o.mode = 1 → o.hold = false →
      Completes (.steeringUpdate n ms) s fun t =>
        let q := t.oscAt n
        now - span ≤ q.steer ∧ q.steer ≤ now + span ∧ -1024000 ≤ q.steer ∧ q.steer ≤ 1024000 ∧
        (q.locked = true ↔ q.lockMs = 1000) ∧ (q.lockMs = 0 ∨ q.lockMs = min 1000 (o.lockMs + ms)) ∧
        q = { o with steer := q.steer, lockMs := q.lockMs, locked := q.locked } ∧ (∀ m, m ≠ n → t.oscAt m = s.oscAt m) ∧
        Frame [.lines, .free] s t) ∧
    (o.mode ≠ 1 ∨ o.hold = true → Completes (.steeringUpdate n ms) s fun t => (∀ m, t.oscAt m = s.oscAt m) ∧ Frame [.free] s t)) ∧
  (∀ (p n d : Nat) (v : Word) (s : State), s.writable p .ready = true → n < 64 → d < 2 →
    let k := 2 * n + d
    let x := s.dirAt k
    (Completes (.slotFlagClear p n d false v) s fun t =>
      t.dirAt k = { x with fill := x.fill &&& ~~~v } ∧ (∀ i, i ≠ k → t.dirAt i = s.dirAt i) ∧ Frame [.lines] s t) ∧
    (Completes (.slotFlagClear p n d true v) s fun t =>
      t.dirAt k = { x with hold := x.hold &&& ~~~v } ∧ (∀ i, i ≠ k → t.dirAt i = s.dirAt i) ∧ Frame [.lines] s t))

/-! ### Ihlaux and the Folio -/

/-- Joining and leaving the Folio, and its keys (15 R465, R466, R469 to R471; 16 R494, R509, R510). A manager joins at once, and announces an
advance where a worker's counter is ahead; a worker with no stream and no job begins to join on its timebase oscillator in Folio mode; a JOIN
or LEAVE that is not permitted sets CFG_ERR. A hello that does not match is a wiring error; one that matches begins the key exchange, whose
check secures the port, on a manager with the group key sent behind it, or raises LINK_SECURITY. A port trains with its credits full, again with fewer
lanes, and goes down on a loss of all lanes or on the 17th authentication failure within a second.
Model's choices here: log entry 34. -/
def Obligations.FolioMembership : Prop :=
  let alarmed (t : State) (code source : Nat) : Prop := t.evt.table.any (fun k => k.code == code && k.source == t.evt.keySource code source) = true
  (∀ (p season : Nat) (v : Word) (n : BitVec 48) (s : State), s.writable p .ready = true → bitOf v 0 = true → bitOf v 1 = false →
    (s.ihx.state = 0 → s.ihx.role = 1 → s.ihx.member = 0 →
      Completes (.join p v season n) s fun t =>
        t.ihx.state = 2 ∧ t.ihx.aligned = true ∧ t.ihx.members = 1 ∧ t.ihx.cfgErr = false ∧
        t.proof.gk = (if s.groupWrap then some s.managerKey else none) ∧
        t.tb.advance = (if s.tb.frame.toNat < n.toNat then some (s.tb.frameOrd + 8, n.toNat - s.tb.frame.toNat) else s.tb.advance) ∧
        t.tb.frame = s.tb.frame ∧ Frame [.tb, .ihx, .proof] s t) ∧
    (s.ihx.state = 0 → s.ihx.role = 2 → 1 ≤ s.ihx.member → s.ihx.member ≤ 16 → s.streams = [] → s.jobs = [] →
      Completes (.join p v season n) s fun t =>
        t.ihx.state = 1 ∧ t.ihx.aligned = false ∧ t.ihx.cfgErr = false ∧ (t.oscAt s.tb.osc).mode = 2 ∧
        (season < 4 → season ≠ s.tb.season → t.tb.pendingCfg = some (season, s.tb.osc)) ∧
        t.tb.season = s.tb.season ∧ Frame [.tb, .lines, .ihx] s t) ∧
    (s.ihx.state ≠ 0 ∨ s.ihx.role = 0 ∨ (s.ihx.role = 1 ∧ s.ihx.member ≠ 0) ∨
        (s.ihx.role = 2 ∧ (s.ihx.member = 0 ∨ 16 < s.ihx.member ∨ s.streams ≠ [] ∨ s.jobs ≠ [])) →
      exec (.join p v season n) s = .next { s with ihx := { s.ihx with cfgErr := true } })) ∧
  (∀ (p : Nat) (v : Word) (s : State), s.writable p .ready = true → bitOf v 0 = false → bitOf v 1 = true →
    (s.ihx.state ≠ 0 → (∀ x ∈ s.streamList, x.phase = .closed) →
      Completes (.leave p v) s fun t =>
        t.ihx.state = 0 ∧ t.ihx.members = 0 ∧ t.ihx.directory = [] ∧ t.ihx.aligned = false ∧ t.proof.gk = none ∧
        (∀ k, (s.ihxPort k).trained = true → (t.ihxPort k).secured = false ∧ (t.ihxPort k).linkKey = []) ∧
        (s.ihx.role = 2 → (t.oscAt s.tb.osc).mode = 0) ∧ Frame [.tb, .lines, .ihx, .proof] s t) ∧
    (s.ihx.state = 0 ∨ (∃ x ∈ s.streamList, x.phase ≠ .closed) →
      exec (.leave p v) s = .next { s with ihx := { s.ihx with cfgErr := true } })) ∧
  (∀ (p : Nat) (m : HelloMsg) (s : State), (s.ihxPort p).trained = true → s.ihx.state ≠ 0 →
    (m.member ≠ s.peerAt p ∨ m.folioId ≠ s.ihx.folioId →
      exec (.hello p m) s = .next (s.setIhxPort p
        { s.ihxPort p with peer := m.member, wiringErr := true, secured := false, linkKey := [] })) ∧
    (m.member = s.peerAt p → m.folioId = s.ihx.folioId →
      Completes (.hello p m) s fun t =>
        t.ihxPort p = { s.ihxPort p with
          peer := m.member
          wiringErr := false
          ownKey := Config.drawn s.free 56
          ownNonce := Config.drawn (s.free + 1) 32 } ∧
        t.ihx.sent = s.ihx.sent ++ [⟨p, 19, [], Config.x448Public (Config.drawn s.free 56) ++ Config.drawn (s.free + 1) 32⟩] ∧
        t.free = s.free + 2 ∧ Frame [.ihx, .free] s t)) ∧
  (∀ (p : Nat) (m : LinkKeyMsg) (s : State), (s.ihxPort p).trained = true → (s.ihxPort p).wiringErr = false →
    (s.ihxPort p).ownKey ≠ [] → s.ihx.state ≠ 0 →
    Completes (.linkKeyExchange p m) s fun t =>
      (s.linkOk (s.ihxPort p) m = true →
        (t.ihxPort p).secured = true ∧ (t.ihxPort p).linkKey = s.linkKey (s.ihxPort p) m ∧ (t.ihxPort p).ownKey = [] ∧
        ((t.ihxPort p).lower = true ↔ s.part.serial.toNat ≤ m.serial.toNat) ∧
        (∃ b, (⟨p, 22, [], b⟩ : IhxMsg) ∈ t.ihx.sent) ∧
        (∀ gk, s.ihx.role = 1 → s.proof.gk = some gk → (⟨p, 23, [], gk ++ s.proof.group⟩ : IhxMsg) ∈ t.ihx.sent)) ∧
      (s.linkOk (s.ihxPort p) m = false →
        (t.ihxPort p).secured = false ∧ (t.ihxPort p).linkKey = [] ∧ alarmed t 0x12 (srcOf 5 p)) ∧
      Frame [.ihx, .evt, .cnt, .host] s t) ∧
  (∀ (gk st : List Byte) (s : State), s.ihx.role = 2 → s.ihx.state ≠ 0 → s.groupWrap = true → (s.ihxPort (s.portTo 0)).secured = true →
    exec (.groupKeyDelivery gk st) s =
      .next { s with proof := { s.proof with gk := some (bytesAt gk 0 56), group := bytesAt st 0 256 } }) ∧
  (∀ (p : Nat) (s : State), s.boot.phase ≠ .reset → p < 16 →
    (∀ lanes, (s.ihxPort p).trained = false → lanes = 16 ∨ lanes = 8 ∨ lanes = 4 →
      exec (.ihlauxPortTrain p lanes) s = .next (s.setIhxPort p { s.ihxPort p with
        trained := true
        lanes := lanes
        vc1Live := 1024
        vc1Fill := 1024
        vc2Live := 4096
        vc2Fill := 4096 })) ∧
    (∀ lanes, (s.ihxPort p).trained = true → lanes = 16 ∨ lanes = 8 ∨ lanes = 4 → lanes ≤ (s.ihxPort p).lanes →
      exec (.ihlauxPortTrain p lanes) s = .next (s.setIhxPort p { s.ihxPort p with
        lanes := lanes
        retrains := min ((s.ihxPort p).retrains + 1) 255 })) ∧
    ((s.ihxPort p).trained = true →
      Completes (.ihlauxPortTrain p 0) s fun t =>
        (t.ihxPort p).trained = false ∧ (t.ihxPort p).secured = false ∧ (t.ihxPort p).linkKey = [] ∧ alarmed t 0x11 (srcOf 5 p) ∧
        Frame [.ihx, .evt, .cnt, .host] s t)) ∧
  (∀ (p : Nat) (s : State), (s.ihxPort p).trained = true → (s.ihxPort p).secured = true →
    let times := (s.ihxPort p).authTimes.filter (fun t => s.tb.sub < t + 24576000) ++ [s.tb.sub]
    Completes (.ihlauxAuthFail p) s fun t =>
      (t.ihxPort p).authFail = min ((s.ihxPort p).authFail + 1) 255 ∧
      (times.length ≤ 16 → (t.ihxPort p).trained = true ∧ (t.ihxPort p).authTimes = times) ∧
      (16 < times.length → (t.ihxPort p).trained = false ∧ alarmed t 0x11 (srcOf 5 p)) ∧ Frame [.ihx, .evt, .cnt, .host] s t)

/-- Alignment (02 R45; 15 R470, R472 to R476). A symbol is echoed, ends holdover and counts a good Frame within 100 ns; 64 in a row are
alignment, with which a worker whose port is secured has joined; it steers the timebase oscillator by at most 20 ppm a second, toward the manager's tick; the Season it
brings is the worker's; with a count that is behind, an advance is due at the next Frame tick. Eight Frames without one are holdover, with its alarm. An advance is announced
for eight Frames ahead, and not by a manager while a Transfer is open. A lost manager is the detached state, and a Transfer then behind its step 7 is
undecided, with its alarm. Half a round trip is a delay.
Model's choices here: log entry 34. -/
def Obligations.Alignment : Prop :=
  (∀ (p delay season : Nat) (n : BitVec 48) (o : Int) (s : State), s.hearsManager p = true →
    let good := n = s.tb.frame ∧ -100 ≤ o ∧ o ≤ 100
    let span : Int := (20 * 1024 * s.frameSubs / 24576000 : Nat)
    let now := max (-1024000) (min 1024000 (s.oscAt s.tb.osc).steer)
    Completes (.alignmentSymbol p ⟨n, season⟩ o delay) s fun t =>
      t.ihx.sinceSymbol = 0 ∧ t.ihx.holdover = false ∧ t.ihx.alignErr = satInt 16 o ∧ t.ihx.delayNs = min delay 0xFFFF ∧
      (¬good → t.ihx.goodTicks = 0 ∧ t.ihx.aligned = false) ∧
      (good → s.ihx.holdover = false →
        t.ihx.goodTicks = min 64 (s.ihx.goodTicks + 1) ∧ (t.ihx.aligned = true ↔ 63 ≤ s.ihx.goodTicks)) ∧
      (good → s.ihx.holdover = true → t.ihx.goodTicks = 1 ∧ t.ihx.aligned = false) ∧
      (⟨p, 11, [n.toNat], []⟩ : IhxMsg) ∈ t.ihx.sent ∧
      (s.tb.frame.toNat < n.toNat → s.tb.advance = none →
        t.tb.advance = some (s.tb.frameOrd + 1, n.toNat - s.tb.frame.toNat)) ∧
      (n.toNat < s.tb.frame.toNat → (⟨p, 20, [s.tb.frame.toNat], []⟩ : IhxMsg) ∈ t.ihx.sent) ∧
      t.ihx.state = (if (s.ihx.state = 1 ∨ s.ihx.state = 3) ∧ t.ihx.aligned = true then 2 else s.ihx.state) ∧
      (t.tb.pendingCfg.map (·.1)).getD t.tb.season = min season 3 ∧
      ((s.oscAt s.tb.osc).mode = 2 →
        let q := t.oscAt s.tb.osc
        now - span ≤ q.steer ∧ q.steer ≤ now + span ∧ -1024000 ≤ q.steer ∧ q.steer ≤ 1024000 ∧
        (0 ≤ o → now ≤ q.steer) ∧ (o ≤ 0 → q.steer ≤ now)) ∧
      Frame [.tb, .lines, .ihx, .free] s t) ∧
  (∀ s : State, s.ihx.role = 2 → s.ihx.state ≠ 0 → s.ihx.holdover = false → 8 ≤ s.ihx.sinceSymbol →
    Completes .alignmentLoss s fun t =>
      t.ihx = { s.ihx with holdover := true, aligned := false, goodTicks := 0 } ∧
      t.evt.table.any (fun k => k.code == 0x13 && k.source == t.evt.keySource 0x13 0) = true ∧ Frame [.ihx, .evt, .cnt, .host] s t) ∧
  (∀ (d : Nat) (s : State), s.tb.running = true → s.ihx.state ≠ 0 → 1 ≤ d → s.tb.advance = none →
    (s.ihx.role ≠ 1 ∨ s.transferOpen = false →
      exec (.counterAdvance d) s = .next { s with tb := { s.tb with advance := some (s.tb.frameOrd + 8, d) } }) ∧
    (s.ihx.role = 1 → s.transferOpen = true → exec (.counterAdvance d) s = .next s)) ∧
  (∀ s : State, s.ihx.role = 2 → s.ihx.state = 2 → (s.ihxPort (s.portTo 0)).trained = false →
    Completes .detached s fun t =>
      t.ihx = { s.ihx with state := 3 } ∧
      (∀ u ∈ s.ihx.transfers, u.stage = .sent ∨ u.stage = .imported →
        t.evt.table.any (fun k => k.code == 0x14 && k.source == t.evt.keySource 0x14 0) = true) ∧ Frame [.ihx, .evt, .cnt, .host] s t) ∧
  (∀ (p n : Nat) (s : State), s.ihx.role = 1 → s.ihx.state = 2 → (s.ihxPort p).trained = true → (s.ihxPort p).secured = true →
    exec (.echoSymbol p n) s = .next (s.setIhxPort p { s.ihxPort p with delayNs := n / 2 }))

/-- The directory and placement on the manager (15 R470, R471, R483, R484, R492). Reports open, close and mark entries under the Folio's stream
numbers, tell capacity, and take a member out; a placement answers the joined members that fit, the one that ranks first before the others,
and 0x1F where none fits.
Model's choices here: log entry 34. -/
def Obligations.DirectoryAndPlacement : Prop :=
  (∀ (m : Nat) (s : State), s.ihx.role = 1 → s.ihx.state = 2 → 1 ≤ m → m ≤ 16 →
    (∀ st sess rate keep fill, Completes (.directoryReport m (.opened st sess rate keep fill)) s fun t =>
      tabGet t.ihx.directory (folioNumber m st) = some ⟨sess, rate, keep, fill, false⟩ ∧
      (∀ k, k ≠ folioNumber m st → tabGet t.ihx.directory k = tabGet s.ihx.directory k) ∧ Frame [.ihx] s t) ∧
    (∀ st, Completes (.directoryReport m (.closed st)) s fun t =>
      tabGet t.ihx.directory (folioNumber m st) = none ∧
      (∀ k, k ≠ folioNumber m st → tabGet t.ihx.directory k = tabGet s.ihx.directory k)) ∧
    (∀ st on e, tabGet s.ihx.directory (folioNumber m st) = some e →
      Completes (.directoryReport m (.moving st on)) s fun t =>
        tabGet t.ihx.directory (folioNumber m st) = some { e with moving := on }) ∧
    (∀ free cores voices, Completes (.directoryReport m (.capacity free cores voices)) s fun t =>
      tabGet t.ihx.capacity m = some ⟨free, cores, voices⟩ ∧ t.ihx.members.testBit m = true ∧ t.ihx.directory = s.ihx.directory) ∧
    Completes (.directoryReport m .left_) s fun t =>
      tabGet t.ihx.capacity m = none ∧ t.ihx.members.testBit m = false ∧
      (∀ st, st < 16384 → tabGet t.ihx.directory (folioNumber m st) = none)) ∧
  (∀ (p : Nat) (v : Word) (s : State), s.writable p .ready = true → bitOf v 0 = true → s.ihx.role = 1 → s.ihx.state = 2 →
    (∀ c ∈ s.ihx.capacity, c.1 ≤ 16) →
    let cs := (s.ihx.capacity.filter fun c => s.ihx.members.testBit c.1).filterMap fun c => s.candidate c.1 c.2
    Completes (.placement p v) s fun t =>
      t.ihx.placeDone = true ∧
      (cs = [] → fld t.ihx.placeResult 4 0 = 0x1F) ∧
      (cs ≠ [] → ∃ c ∈ cs, fld t.ihx.placeResult 4 0 = c.2.2.2 ∧ ∀ d ∈ cs, ranksBefore c d = true) ∧ Frame [.ihx] s t)

/-! ### Proof, mailboxes, staging -/

/-- Proof's commands and the staging store (16 R497, R499, R513, R516, R524; 19 R588, R589). The first write of LOCK locks the policy, holds
MARK_MIN to MARK_MAX and measures it; a later one changes nothing. A rollback count is blown only to the running firmware's number, and only
upward. A mailbox message goes from its bound sender to its bound receiver, once at a time, and any other access is counted with an alarm. A
staged word is stored; COMMIT takes an image that passes every check of 16 R512, or gives the step that failed; CLEAR empties the store.
Model's choices here: log entries 18 and 19. -/
def Obligations.ProofMailboxesAndStaging : Prop :=
  (∀ (p : Nat) (v : Word) (s : State), s.writable p .ready = true →
    (bitOf v 0 = true → s.proof.locked = false →
      Completes (.policyLock p v) s fun t =>
        t.proof.locked = true ∧ t.mbx.locked = true ∧ t.markMin ≤ t.markMax ∧ t.markMax = s.markMax ∧
        t.proof.policy.drop 1 = s.proof.policy.drop 1 ∧
        t.proof.mPol = Config.shake256 ((t.proof.policy.map fun w => leBytes 4 w.toNat).flatten) 64 ∧
        Frame [.proof, .mbx] s t) ∧
    (s.proof.locked = true → exec (.policyLock p v) s = .next s) ∧
    (fld v 5 0 = s.proof.svn → s.part.rollback < fld v 5 0 →
      exec (.commitSvn p v) s = .next { s with part := { s.part with rollback := fld v 5 0 } }) ∧
    (fld v 5 0 ≠ s.proof.svn ∨ fld v 5 0 ≤ s.part.rollback → exec (.commitSvn p v) s = .next s) ∧
    exec (.prfFwDigestSelWrite p v) s = .next { s with proof := { s.proof with digestSel := fld v 3 0 } }) ∧
  (∀ (m ch : Nat) (ws : List Word) (s : State), s.mailboxesUp = true →
    ((s.mailbox ch).sender = m → m ≠ 15 → (s.mailbox ch).full = false →
      Completes (.mailboxSend m ch ws) s fun t =>
        (t.mailbox ch).full = true ∧ (t.mailbox ch).words = (List.range 16).map (fun i => ws.getD i 0) ∧
        (∀ k, k ≠ ch → t.mailbox k = s.mailbox k) ∧ Frame [.mbx] s t) ∧
    ((s.mailbox ch).sender = m → m ≠ 15 → (s.mailbox ch).full = true →
      Completes (.mailboxSend m ch ws) s fun t =>
        (t.mailbox ch).words = (s.mailbox ch).words ∧ ((t.mailbox ch).refused = true ↔ (s.mailbox ch).refused = true ∨ m = 0)) ∧
    ((s.mailbox ch).sender ≠ m →
      Completes (.mailboxSend m ch ws) s fun t =>
        t.mbx.chans = s.mbx.chans ∧ t.mbx.violations = min (s.mbx.violations + 1) 0xFFFF ∧
        t.evt.table.any (fun k => k.code == 0x15 && k.source == t.evt.keySource 0x15 0) = true) ∧
    ((s.mailbox ch).receiver = m → m ≠ 15 →
      Completes (.mailboxLastWordRead m ch 15) s fun t =>
        t.mailbox ch = { s.mailbox ch with full := false } ∧ (∀ k, k ≠ ch → t.mailbox k = s.mailbox k) ∧ Frame [.mbx] s t) ∧
    (∀ w, (s.mailbox ch).receiver = m → m ≠ 15 → w ≠ 15 → exec (.mailboxLastWordRead m ch w) s = .next s)) ∧
  (∀ (p : Nat) (v : Word) (s : State), s.writable p .staging = true →
    (∀ off, s.stage.state ≤ 1 → off < 8388608 → off % 4 = 0 →
      Completes (.fwStageWrite p off v) s fun t =>
        memBytes t.stage.mem off 4 = leBytes 4 v.toNat ∧ t.stage.state = 1 ∧
        (∀ a, a < off ∨ off + 4 ≤ a → memRead t.stage.mem a = memRead s.stage.mem a) ∧ Frame [.stage] s t) ∧
    (∀ off, 2 ≤ s.stage.state → exec (.fwStageWrite p off v) s = .next s) ∧
    (bitOf v 1 = true → bitOf v 0 = false →
      Completes (.fwStageCommit p v) s fun t =>
        let image := memBytes s.stage.mem 0 s.stage.len
        (s.stage.len = 0 ∨ 8388608 < s.stage.len → t.stage.state = 4 ∧ t.stage.refuse = 5) ∧
        (0 < s.stage.len → s.stage.len ≤ 8388608 → firmwareStep s.part image = 0 →
          t.stage.state = 3 ∧ t.stage.image = image ∧ t.stage.svn = Config.fwSvn image) ∧
        (0 < s.stage.len → s.stage.len ≤ 8388608 → firmwareStep s.part image ≠ 0 →
          t.stage.state = 4 ∧ t.stage.refuse = firmwareStep s.part image) ∧
        t.stage.mem = s.stage.mem ∧ Frame [.stage] s t) ∧
    (bitOf v 0 = true → bitOf v 1 = false →
      exec (.fwStageClear p v) s = .next { s with stage := { s.stage with mem := [], state := 0, refuse := 0, svn := 0 } }))

/-! ### Almanac -/

/-- Metering (17 R529 to R535, R539, R540). A shunt sample adds each channel's power, and the 8,000th makes a second; a span below 48.0 V ends
when the voltage has held for more than 1 ms; a boundary closes the interval into a record with its sequence number; BIND gives a session its
line, apart from that of an earlier session of the same ring, UNBIND ends it, tallies add to the session's running window, and WINDOW_END
gives them to its line of the open interval.
Model's choices here: log entry 17. -/
def Obligations.Metering : Prop :=
  (∀ (v : Nat) (mw : List Nat) (s : State), s.alm.running = true →
    Completes (.shuntSample v mw) s fun t =>
      (∀ c, c < 16 → t.alm.chanEnergy.getD c 0 = s.alm.chanEnergy.getD c 0 + mw.getD c 0) ∧
      (s.alm.frac + 1 < 8000 → t.alm.frac = s.alm.frac + 1 ∧ t.alm.time = s.alm.time) ∧
      (8000 ≤ s.alm.frac + 1 → t.alm.frac = 0 ∧ t.alm.time = s.alm.time + 1) ∧ Frame [.alm] s t) ∧
  (∀ (v us : Nat) (s : State), s.alm.running = true →
    (v < 4800 → s.alm.warnOpen = false →
      exec (.warningSpan v us) s = .next { s with alm := { s.alm with warnOpen := true, warnLen := 0, warnHold := 0 } }) ∧
    (v < 4800 → s.alm.warnOpen = true →
      exec (.warningSpan v us) s = .next { s with alm := { s.alm with warnLen := s.alm.warnLen + us, warnHold := 0 } }) ∧
    (4800 ≤ v → s.alm.warnOpen = true → 1 ≤ s.alm.warnHold → 1000 < s.alm.warnHold + us →
      Completes (.warningSpan v us) s fun t =>
        t.alm.warnOpen = false ∧ t.alm.warnCount = s.alm.warnCount + 1 ∧ t.alm.warnTotal = s.alm.warnTotal + s.alm.warnLen + us ∧
        t.alm.flags.testBit 0 = true)) ∧
  (∀ s : State, s.alm.running = true → s.alm.frac = 0 → s.alm.time.toNat % (60 * s.alm.minutes) = 0 →
    s.alm.startS.toNat < s.alm.time.toNat → s.alm.canClose = true →
    Completes .intervalBoundary s fun t =>
      t.alm.seq = s.alm.seq + 1 ∧ t.alm.startS = s.alm.time ∧ t.alm.chanEnergy = [] ∧ t.alm.warnCount = 0 ∧
      t.alm.minutes = s.alm.minutesNext.getD s.alm.minutes ∧ t.alm.minutesNext = none ∧
      (∀ l ∈ t.alm.lines, l.2.live = true ∧ l.2.a = [] ∧ l.2.b = []) ∧ Frame [.alm] s t) ∧
  (∀ (id m : Nat) (s : State), s.alm.running = true →
    (∀ tid f, Completes (.bind id m tid f) s fun t =>
      (∃ k, (id, (⟨tid, true, false, true, [], [], k⟩ : MeterLine)) ∈ t.alm.lines ∧
        ∀ l ∈ s.alm.lines ++ s.alm.windowTallies, l.2.key < k) ∧
      t.alm.mseq = some m ∧ t.alm.lines.length = s.alm.lines.length + 1 ∧ Frame [.alm] s t) ∧
    (∀ f l, s.alm.lines = [(id, l)] → l.live = true → m ≠ 0 →
      Completes (.unbind id m f) s fun t =>
        t.alm.lines = [(id, { l with unbound := true, live := false })] ∧ t.alm.mseq = some m ∧ Frame [.alm] s t) ∧
    (∀ counts, Completes (.tallyA id m counts) s fun t =>
      let w := (s.alm.noteMseq m).windowTally id
      t.alm.windowTally id = { w with a := addCounts 7 w.a counts } ∧ t.alm.mseq = some m ∧
      (∀ k, k ≠ id → t.alm.windowTally k = (s.alm.noteMseq m).windowTally k) ∧
      t.alm.lines = (s.alm.noteMseq m).lines ∧ Frame [.alm] s t) ∧
    (∀ counts, Completes (.tallyB id m counts) s fun t =>
      let w := (s.alm.noteMseq m).windowTally id
      t.alm.windowTally id = { w with b := addCounts 7 w.b counts } ∧ t.alm.mseq = some m ∧
      (∀ k, k ≠ id → t.alm.windowTally k = (s.alm.noteMseq m).windowTally k) ∧
      t.alm.lines = (s.alm.noteMseq m).lines ∧ Frame [.alm] s t) ∧
    (∀ l w f n, s.alm.lines = [(id, l)] → s.alm.windowTallies = [(id, w)] → w.key = l.key → m ≠ 0 →
      Completes (.windowEnd m f n) s fun t =>
        t.alm.lines = [(id, { l with a := addCounts 7 l.a w.a, b := addCounts 7 l.b w.b })]) ∧
    (∀ f n, Completes (.windowEnd m f n) s fun t =>
      t.alm.windowTallies = [] ∧ t.alm.lastFrame = f ∧ t.alm.windows = s.alm.windows + 1 ∧
      t.alm.firstFrame = (if s.alm.windows = 0 then f else s.alm.firstFrame) ∧ t.alm.mseq = some m ∧ Frame [.alm] s t)) ∧
  (∀ (m last : Nat) (s : State), s.alm.running = true → s.alm.mseq = some last → m ≠ last + 1 → m ≠ 0 →
    ∀ f n, Completes (.windowEnd m f n) s fun t => t.alm.flags = s.alm.flags ||| 8)

/-- Acknowledgement and export (17 R547, R548, R551). An acknowledgement frees the oldest unacknowledged record of its kind when number and
signature bytes match, and is counted as refused otherwise; REWIND sets the sending back to the oldest; the next part of a record fills channel
1 while that is empty; the host's two register commands go out to Almanac in order.
Model's choices here: log entry 17. -/
def Obligations.AcknowledgementAndExport : Prop :=
  (∀ (path : AckPath) (kind : Nat) (q : DWord) (sig : List Byte) (s : State), s.alm.running = true →
    Completes (.ack path kind q sig) s fun t =>
      (∀ r, s.alm.records.find? (fun r => r.kind == kind && !r.acked) = some r →
        (r.seq = q.toNat → recordSig r = sig →
          t.alm.records = (s.alm.records.map fun x => if x = r then { x with acked := true } else x) ∧ t.alm.refused = s.alm.refused) ∧
        (r.seq ≠ q.toNat ∨ recordSig r ≠ sig →
          t.alm.records = s.alm.records ∧ t.alm.refused = min (s.alm.refused + 1) 0xFFFF)) ∧
      (s.alm.records.find? (fun r => r.kind == kind && !r.acked) = none →
        t.alm.records = s.alm.records ∧ t.alm.refused = min (s.alm.refused + 1) 0xFFFF) ∧
      (∀ m, path = .mailbox m → t.alm.ackBusy = false ∧ t.alm.mseq = some m) ∧ Frame [.alm] s t) ∧
  (∀ (m : Nat) (s : State), s.alm.running = true →
    Completes (.rewind m) s fun t =>
      t.alm.ackBusy = false ∧ (s.alm.sending.isSome = true → t.alm.rewindNext = true ∧ t.alm.sending = s.alm.sending) ∧
      (∀ r, s.alm.sending = none → s.alm.records.find? (fun r => !r.acked) = some r → t.alm.sending = some (r.kind, r.seq, 0)) ∧
      t.alm.mseq = some m ∧ t.alm.records = s.alm.records ∧ Frame [.alm] s t) ∧
  (∀ (kind q part : Nat) (r : MeterRecord) (s : State), s.alm.running = true → s.alm.sending = some (kind, q, part) →
    s.alm.records.find? (fun r => r.kind == kind && r.seq == q) = some r → (s.mailbox 1).full = false →
    (s.mailbox 1).sender = 6 → (s.mailbox 1).receiver = 0 →
    Completes .exportPart s fun t =>
      t.mailbox 1 = { s.mailbox 1 with full := true, words := wordsOf (partMessage r part) } ∧
      (part + 1 < ceilDiv r.bytes.length 48 → t.alm.sending = some (kind, q, part + 1)) ∧
      (ceilDiv r.bytes.length 48 ≤ part + 1 → t.alm.sending = s.alm.nextRecord kind q) ∧
      t.alm.records = s.alm.records ∧ Frame [.mbx, .alm] s t) ∧
  (∀ (p : Nat) (v : Word) (s : State), s.writable p .ready = true →
    (bitOf v 0 = true →
      Completes (.almAckCtlAck p v) s fun t =>
        t.alm = { s.alm with ackBusy := true } ∧ t.mseqOut = s.mseqOut + 1 ∧
        (∃ b, t.almSent = s.almSent ++ [b] ∧ b.length = 64 ∧ b.take 8 = [5, 0, 0, 0] ++ leBytes 4 s.mseqOut ∧
          num b 8 1 = s.alm.ackKind % 256 ∧ num b 16 4 = s.alm.ackSeqLo.toNat ∧ num b 20 4 = s.alm.ackSeqHi.toNat ∧
          bytesAt b 24 16 = bytesAt ((s.alm.ackSig.map fun w => leBytes 4 w.toNat).flatten) 0 16) ∧
        Frame [.alm, .mseqOut, .almSent] s t) ∧
    (bitOf v 1 = true →
      Completes (.almAckCtlRewind p v) s fun t =>
        t.alm = { s.alm with ackBusy := true } ∧ t.mseqOut = s.mseqOut + 1 ∧
        (∃ b, t.almSent = s.almSent ++ [b] ∧ b.take 8 = [6, 0, 0, 0] ++ leBytes 4 s.mseqOut) ∧ Frame [.alm, .mseqOut, .almSent] s t))

/-- The service connector, the lid and the meter's power (17 R528, R539, R543 to R545, R549). Each audited change raises the audit count by
one; the SET operations are taken with the lid open and 32 audit slots free, and only then; opening the lid raises the tamper counter, running
or not; a loss of input stops Almanac and resets the module, and its return takes the backup clock's time and writes the power-gap record.
Model's choices here: log entry 17. -/
def Obligations.MeterService : Prop :=
  (∀ s : State, s.alm.running = true →
    exec .read s = .next { s with alm := { s.alm with service := s.alm.service ++ s.alm.records } }) ∧
  (∀ s : State, s.alm.canSet = true →
    (∀ x, s.alm.canClose = true →
      Completes (.setTime x) s fun t =>
        t.alm.time = x ∧ t.alm.startS = x ∧ t.alm.seq = s.alm.seq + 1 ∧ t.alm.audit = s.alm.audit + 1 ∧ Frame [.alm] s t) ∧
    (∀ m, m ∈ [1, 5, 15, 30, 60] →
      Completes (.setInterval m) s fun t =>
        t.alm.minutesNext = some m ∧ t.alm.minutes = s.alm.minutes ∧ t.alm.audit = s.alm.audit + 1 ∧ Frame [.alm] s t) ∧
    (∀ l, Completes (.setCoeff l) s fun t =>
      (∀ i, i < 7 → t.alm.coeff.getD i 0 = l.getD i 0 % 65536) ∧ t.alm.audit = s.alm.audit + 1 ∧ Frame [.alm] s t)) ∧
  (∀ (s : State), s.alm.canSet = false →
    (∀ x, exec (.setTime x) s = .next s) ∧ (∀ m, exec (.setInterval m) s = .next s) ∧ (∀ l, exec (.setCoeff l) s = .next s)) ∧
  (∀ (b : List Byte) (s : State), s.alm.running = true → s.alm.lidOpen = true →
    Completes (.stageFw b) s fun t =>
      (Config.meterFwSigned b = true → t.alm.staged = some b ∧ t.alm.audit = s.alm.audit + 1) ∧
      (Config.meterFwSigned b = false → t = s) ∧ t.alm.fwImage = s.alm.fwImage ∧ Frame [.alm] s t) ∧
  (∀ s : State, s.alm.lidOpen = false →
    Completes .lidOpen s fun t =>
      t.alm.lidOpen = true ∧ t.alm.tamper = min (s.alm.tamper + 1) 0xFFFFFFFF ∧
      (s.alm.running = true → t.alm.audit = s.alm.audit + 1 ∧ t.alm.flags.testBit 1 = true) ∧
      (s.alm.running = false → t.alm.latched = s.alm.latched ++ [6] ∧ t.alm.audit = s.alm.audit) ∧ Frame [.alm] s t) ∧
  (∀ s : State, s.alm.lidOpen = true →
    Completes .lidClose s fun t =>
      t.alm.lidOpen = false ∧ t.alm.tamper = s.alm.tamper ∧ (s.alm.running = true → t.alm.audit = s.alm.audit + 1) ∧ Frame [.alm] s t) ∧
  (∀ s : State, s.alm.running = true → s.boot.powered = true →
    Completes .almanacInputLoss s fun t =>
      t.alm.running = false ∧ t.alm.lossAt = s.alm.time ∧ t.boot.phase = .reset ∧ t.boot.powered = false) ∧
  (∀ (x : DWord) (s : State), s.alm.running = false →
    Completes (.powerGap x) s fun t =>
      t.alm.running = true ∧ t.alm.time = s.alm.time + x ∧ t.alm.startS = s.alm.time + x ∧ t.alm.latched = [] ∧
      t.alm.audit = s.alm.audit + 1 + BitVec.ofNat 64 s.alm.latched.length ∧ Frame [.alm] s t)

/-! ### Events and counters -/

/-- Alarms, logs, traces (18 R568 to R572). A first occurrence of an alarm writes its record at once, where the ring has room, and opens its
window; a later one in the window only counts; the window's end writes one record for the count, or makes the key quiet. A log is written
within its source's limit, and is counted as suppressed otherwise; a summary tells of those; a trace above TRACE_PCT is dropped and counted.
Enabling the ring starts it at index 0 and writes the alarms that waited.
Model's choices here: log entry 15. -/
def Obligations.Events : Prop :=
  let quiet (s : State) (code source : Nat) : Prop := s.evt.table.any (fun k => k.code == code && k.source == source) = false
  (∀ (p : Nat) (v : Word) (s : State), s.writable p .faultedToo = true →
    (s.evt.enable = false → bitOf v 4 = true → s.evt.waiting = [] →
      exec (.eventRingEnable p v) s = .next { s with evt := { s.evt with
        order := min (fld v 3 0) 9
        vector := fld v 15 5
        logRate := max (fld v 23 16) 1
        tracePct := min (fld v 31 24) 100
        enable := true
        pi := 0
        ci := 0 } }) ∧
    (∀ r, s.evt.enable = false → bitOf v 4 = true → s.evt.waiting = [r] →
      Completes (.eventRingEnable p v) s fun t =>
        t.evt.waiting = [] ∧ t.evt.pi = 1 ∧ t.host.writes = s.host.writes ++ [⟨s.evtPort, s.evt.base, evtBytes r⟩]) ∧
    (s.evt.enable = true → bitOf v 4 = false → exec (.eventRingEnable p v) s = .next { s with evt := { s.evt with enable := false } }) ∧
    (s.evt.enable = true → bitOf v 4 = true → exec (.eventRingEnable p v) s = .next s)) ∧
  (∀ (code source : Nat) (x : DWord) (s : State), 1 ≤ code → code ≤ 0x16 →
    (quiet s code source → (s.evt.table.filter (fun k => k.source != 0xFFFF)).length < 2048 → s.evt.room = true → s.evt.waiting = [] →
      Completes (.alarm code source x) s fun t =>
        t.evt.table = s.evt.table ++ [⟨code, source, 0, s.tb.frame, s.tb.frame, 0, s.tb.frameOrd + s.evt.coalesce⟩] ∧
        t.evt.pi = s.evt.pi + 1 ∧
        t.host.writes = s.host.writes ++ [⟨s.evtPort, s.evt.base + 32 * (s.evt.pi.toNat % s.evt.slots),
          evtBytes ⟨0, code, source, s.tb.frame, s.tb.frame, 1, x⟩⟩] ∧
        t.host.msix = s.host.msix ++ [s.evt.vector] ∧ Frame [.evt, .cnt, .host] s t) ∧
    (quiet s code source → (s.evt.table.filter (fun k => k.source != 0xFFFF)).length < 2048 → s.evt.room = false →
      Completes (.alarm code source x) s fun t =>
        t.evt.waiting = s.evt.waiting ++ [⟨0, code, source, s.tb.frame, s.tb.frame, 1, x⟩] ∧ t.host = s.host) ∧
    (¬quiet s code source →
      Completes (.alarm code source x) s fun t =>
        (∀ k ∈ s.evt.table, k.code = code → k.source = source →
          ∃ l ∈ t.evt.table, l.code = code ∧ l.source = source ∧ l.count = k.count + 1 ∧ l.detail = x ∧ l.ends = k.ends) ∧
        t.host = s.host ∧ Frame [.evt] s t)) ∧
  (∀ (code source : Nat) (k : AlarmKey) (s : State),
    s.evt.table.find? (fun k => k.code == code && k.source == source) = some k →
    (k.ends ≤ s.tb.frameOrd → k.count = 0 →
      Completes (.coalesceWindowEnd code source) s fun t => quiet t code source ∧ Frame [.evt] s t) ∧
    (k.ends ≤ s.tb.frameOrd → k.count ≠ 0 → s.evt.room = true → s.evt.waiting = [] →
      Completes (.coalesceWindowEnd code source) s fun t =>
        t.host.writes = s.host.writes ++ [⟨s.evtPort, s.evt.base + 32 * (s.evt.pi.toNat % s.evt.slots),
          evtBytes ⟨0, code, source, k.first, k.last, k.count, k.detail⟩⟩] ∧
        (∃ l ∈ t.evt.table, l.code = code ∧ l.source = source ∧ l.count = 0 ∧ l.ends = s.tb.frameOrd + s.evt.coalesce)) ∧
    (s.tb.frameOrd < k.ends → exec (.coalesceWindowEnd code source) s = .next s)) ∧
  (∀ (source : Nat) (s : State), s.evt.logEn = true →
    (∀ code x, 0x40 ≤ code → code ≤ 0x45 →
      (s.evt.logRoom = true → logUnit ≤ (s.logSource source).level →
        Completes (.log code source x) s fun t =>
          t.evt.pi = s.evt.pi + 1 ∧ (t.logSource source).level = (s.logSource source).level - logUnit ∧
          t.host.writes = s.host.writes ++ [⟨s.evtPort, s.evt.base + 32 * (s.evt.pi.toNat % s.evt.slots),
            evtBytes ⟨1, code, source, s.tb.frame, s.tb.frame, 1, x⟩⟩] ∧ Frame [.evt, .cnt, .host] s t) ∧
      (s.evt.logRoom = false ∨ (s.logSource source).level < logUnit →
        Completes (.log code source x) s fun t =>
          (t.logSource source).suppressed = (s.logSource source).suppressed + 1 ∧ t.host = s.host ∧ Frame [.evt, .cnt] s t)) ∧
    (s.evt.logRoom = true → logUnit ≤ (s.logSource source).level → 0 < (s.logSource source).suppressed →
      let l := s.logSource source
      Completes (.logSummary source) s fun t =>
        (t.logSource source).suppressed = 0 ∧ (t.logSource source).level = l.level - logUnit ∧
        t.host.writes = s.host.writes ++ [⟨s.evtPort, s.evt.base + 32 * (s.evt.pi.toNat % s.evt.slots),
          evtBytes ⟨1, 0xFE, source, l.first, l.last, l.suppressed, BitVec.ofNat 64 l.code⟩⟩] ∧ Frame [.evt, .cnt, .host] s t)) ∧
  (∀ (code source : Nat) (x : DWord) (s : State), 0x80 ≤ code → code ≤ 0x85 →
    (s.evt.traceEn = true → s.evt.logRoom = true → 100 * s.evt.fill ≤ s.evt.tracePct * s.evt.slots →
      Completes (.trace code source x) s fun t =>
        t.evt.pi = s.evt.pi + 1 ∧ (t.logSource source).drops = 0 ∧ Frame [.evt, .cnt, .host] s t) ∧
    (s.evt.traceEn = false ∨ s.evt.tracePct * s.evt.slots < 100 * s.evt.fill →
      Completes (.trace code source x) s fun t =>
        (t.logSource source).drops = (s.logSource source).drops + 1 ∧ t.host = s.host ∧ Frame [.evt, .cnt] s t))

/-- Event counters (18 R573, R574): ARM_SNAP and CLEAR_ALL are pending until the next Frame tick; a write of a counter's SEL sets its
source and enable and clears its count, and no other counter changes. Registers whose low half latches the high half as it is read (02
R50, 14 R463, 17 R551, 18 R574): the Frame counter, a group's start Frame, an event counter, the audit count and Almanac's clock. Nothing
else changes. -/
def Obligations.CountersAndLatchingReads : Prop :=
  (∀ (p : Nat) (v : Word) (s : State), s.writable p .ready = true →
     (bitOf v 0 = true → bitOf v 2 = false →
       exec (.armSnap p v) s = .next { s with cnt := { s.cnt with armed := true, snapDone := false } }) ∧
     (bitOf v 2 = true → bitOf v 0 = false → exec (.clearAll p v) s = .next { s with cnt := { s.cnt with clearing := true } }) ∧
     (∀ n, Completes (.counterSourceWrite p n v) s fun t =>
       (t.counter n).source = fld v 9 0 ∧ (t.counter n).enable = bitOf v 10 ∧ (t.counter n).count = 0 ∧
       (t.counter n).snap = (s.counter n).snap ∧ (∀ k, k ≠ n → t.counter k = s.counter k) ∧ Frame [.cnt] s t)) ∧
  (∀ (p : Nat) (s : State),
     (s.readable p .ready = true →
       exec (.eslFrameCntLoRead p) s = .next { s with tb := { s.tb with frameHi := BitVec.ofNat 16 (s.tb.frame.toNat / 2 ^ 32) } } ∧
       (∀ g, 1 ≤ g → g ≤ 15 → exec (.audGroupFrameLoRead p g) s =
         .next (s.setGroup g { s.groupAt g with hi := BitVec.ofNat 16 ((s.groupAt g).frame.toNat / 2 ^ 32) })) ∧
       (∀ c, Completes (.counterLoRead p c) s fun t =>
         t.counter c = { s.counter c with hi := BitVec.ofNat 16 ((s.counter c).count.toNat / 2 ^ 32) } ∧
         (∀ k, k ≠ c → t.counter k = s.counter k) ∧ Frame [.cnt] s t)) ∧
     (s.readable p .almanac = true →
       exec (.almAuditLoRead p) s = .next { s with alm := { s.alm with auditHi := BitVec.ofNat 32 (s.alm.audit.toNat / 2 ^ 32) } } ∧
       exec (.almTimeLoRead p) s = .next { s with alm := { s.alm with timeHi := BitVec.ofNat 32 (s.alm.time.toNat / 2 ^ 32) } }))

/-! ### Reset -/

/-- The register values that the spec states for reset: PWR_CAP 68 steps (02 R68), the scrub period 24 hours and MEM_CE_THRESH 64 (10 R312,
R322), MEM_RES_POLICY with class Auto, pins allowed, eight streams and share 13, PIN_CAP 0xFFFF (10 R322), LOG_RATE 16, TRACE_PCT 50, COALESCE
1,000 Frames, logs enabled and traces not (18 R568), an accounting interval of 1,000 Frames with job records (11 R355), Almanac's interval of
15 minutes (17 R539), PRF_POLICY_0 with MARK_MAX 7 and nothing else (16 R497, R524), and Summer on oscillator 0, not running (02 R43, R44). What
the spec states no value for is the model's choice, log entry 2. -/
def Obligations.ResetValues : Prop :=
  let r := State.reset
  (r.pwr.capSteps = 68 ∧ r.mem.scrubPeriod = 24 ∧ r.mem.ceThresh = 64 ∧ r.mem.policy = ⟨1, true, 8, 13⟩ ∧ r.mem.pinCap = 0xFFFF) ∧
  (r.evt.logRate = 16 ∧ r.evt.tracePct = 50 ∧ r.evt.coalesce = 1000 ∧ r.evt.logEn = true ∧ r.evt.traceEn = false ∧
    r.acct.interval = 1000 ∧ r.acct.jobRecords = true ∧ r.alm.minutes = 15) ∧
  (r.policy0 = 0x1C0 ∧ r.markMin = 0 ∧ r.markMax = 7 ∧ r.lineOut = false ∧ r.groupWrap = false ∧ r.proof.locked = false) ∧
  (r.tb.season = 1 ∧ r.tb.osc = 0 ∧ r.tb.running = false ∧ r.boot.phase = .reset) ∧
  (∀ n, (r.ring n).state = .disabled ∧ (r.ring n).count = 1) ∧ (∀ n, (r.oscAt n).slew = 20) ∧
  r.sessions = [] ∧ r.models = [] ∧ r.streams = [] ∧ r.jobs = [] ∧ r.pending = []
end

