-- ==== Sys2Proof/Laws/Frame.lean ====
section
/-! SUPPORT. How frames compose. Every file of Laws/Frames cites these. -/

namespace Sys2Proof.Machine

open Sys2Proof

theorem Frame.refl {L : List Block} {s : State} : Frame L s s := by
  intro b _
  cases b <;> rfl

theorem State.same_trans {s t u : State} {b : Block} (h : s.same t b) (k : t.same u b) : s.same u b := by
  cases b <;> exact Eq.trans k h

/-- A later change within a frame. -/
theorem Frame.comp {L M : List Block} {s t u : State} (k : Frame M t u) (hML : M ⊆ L) (h : Frame L s t) : Frame L s u :=
  fun b hb => State.same_trans (h b hb) (k b (fun hm => hb (hML hm)))

/-- A frame of fewer blocks is a frame of more. -/
theorem Frame.mono {L M : List Block} {s t : State} (h : Frame M s t) (hML : M ⊆ L) : Frame L s t :=
  fun b hb => h b (fun hm => hb (hML hm))

theorem Frame.ite {L : List Block} {s a b : State} {c : Prop} [Decidable c] (ha : c → Frame L s a) (hb : ¬c → Frame L s b) :
    Frame L s (if c then a else b) := by
  split
  · exact ha ‹_›
  · exact hb ‹_›

theorem Frame.foldl {L : List Block} {α : Type} {s : State} {g : State → α → State} {l : List α} {i : State}
    (h : Frame L s i) (hg : ∀ t a, Frame L s t → Frame L s (g t a)) : Frame L s (l.foldl g i) := by
  induction l generalizing i with
  | nil => exact h
  | cons a l ih => exact ih (hg i a h)

theorem Frame.getD {L : List Block} {s a : State} {o : Option State} (ho : ∀ t, o = some t → Frame L s t) (h : Frame L s a) :
    Frame L s (o.getD a) := by
  cases o with
  | none => exact h
  | some t => exact ho t rfl

/-- A state met on the way lies in the frame too. -/
theorem Frame.cut {L : List Block} {s u : State} (t : State) (h : Frame L s t) (k : Frame L s t → Frame L s u) : Frame L s u := k h

theorem Frame.fst {L : List Block} {s t : State} {α : Type} {a : α} (h : Frame L s t) : Frame L s (t, a).1 := h

theorem Frame.of_fst {L : List Block} {s t : State} {α : Type} {p : State × α} {a : α} (h : p = (t, a)) (k : Frame L s p.1) :
    Frame L s t := by
  subst h
  exact k

theorem Frame.of_some {L : List Block} {s t u : State} (h : some t = some u) (k : Frame L s t) : Frame L s u :=
  Option.some.inj h ▸ k

theorem atBusbar_next {v : Nat} {s t : State} (h : atBusbar v s = .next t) : s = t := by
  unfold atBusbar at h
  split at h
  · cases h
  · exact Host.Outcome.next.inj h

end Sys2Proof.Machine
end

