-- ==== Sys2Proof/Laws/FrameCore.lean ====
section
/-! SUPPORT. Frames: which blocks each operation may change, for the shared operations, events, Almanac, Proof and bring-up. -/

namespace Sys2Proof.Machine

open Sys2Proof

theorem State.sendMsix_frame {s : State} {vector : Nat} : Frame [.host] s (State.sendMsix s vector) := by
  unfold State.sendMsix
  extract_lets -merge v1
  clear_value v1
  refine Frame.comp (M := [.host]) (t := s) (fun b hb => ?_) (by decide) ?_
  · cases b with | host => exact absurd (by decide) hb | _ => rfl
  · exact Frame.refl

theorem State.bump_frame {s : State} {code n : Nat} {sc : optParam EvScope EvScope.module} : Frame [.cnt] s (State.bump s code n sc) := by
  unfold State.bump
  extract_lets -merge v1
  clear_value v1
  refine Frame.comp (M := [.cnt]) (t := s) (fun b hb => ?_) (by decide) ?_
  · cases b with | cnt => exact absurd (by decide) hb | _ => rfl
  · exact Frame.refl

theorem State.hostWrite_frame {s : State} {port addr : Nat} {bytes : List Byte} : Frame [.cnt, .host] s (State.hostWrite s port addr bytes) := by
  unfold State.hostWrite
  extract_lets -merge v1
  clear_value v1
  refine Frame.comp State.bump_frame (by decide) ?_
  refine Frame.comp (M := [.host]) (t := s) (fun b hb => ?_) (by decide) ?_
  · cases b with | host => exact absurd (by decide) hb | _ => rfl
  · exact Frame.refl

theorem State.evtWrite_frame {s : State} {r : EvtRecord} : Frame [.evt, .cnt, .host] s (State.evtWrite s r) := by
  unfold State.evtWrite
  extract_lets -merge v1 v2 v3 v4
  refine Frame.cut v3 (by
    unfold v3
    refine Frame.comp State.hostWrite_frame (by decide) ?_
    exact Frame.refl) fun h5 => ?_
  refine Frame.cut v4 (by
    unfold v4
    refine Frame.comp (M := [.evt]) (t := v3) (fun b hb => ?_) (by decide) ?_
    · cases b with | evt => exact absurd (by decide) hb | _ => rfl
    · assumption) fun h6 => ?_
  clear_value v1 v2 v3 v4
  refine Frame.ite (fun _ => ?_) (fun _ => ?_)
  · refine Frame.comp State.sendMsix_frame (by decide) ?_
    assumption
  · assumption

theorem State.alarmRecord_frame {s : State} {r : EvtRecord} : Frame [.evt, .cnt, .host] s (State.alarmRecord s r) := by
  unfold State.alarmRecord
  refine Frame.ite (fun _ => ?_) (fun _ => ?_)
  · refine Frame.comp State.bump_frame (by decide) ?_
    refine Frame.comp State.evtWrite_frame (by decide) ?_
    exact Frame.refl
  · extract_lets -merge v1
    clear_value v1
    refine Frame.comp (M := [.evt]) (t := s) (fun b hb => ?_) (by decide) ?_
    · cases b with | evt => exact absurd (by decide) hb | _ => rfl
    · exact Frame.refl

theorem State.evtDrain_frame {s : State} : Frame [.evt, .cnt, .host] s (State.evtDrain s) := by
  unfold State.evtDrain
  refine Frame.foldl ?_ (fun t1 a2 h3 => ?_)
  · exact Frame.refl
  · refine Frame.ite (fun _ => ?_) (fun _ => ?_)
    · extract_lets -merge v4
      clear_value v4
      refine Frame.comp State.bump_frame (by decide) ?_
      refine Frame.comp State.evtWrite_frame (by decide) ?_
      refine Frame.comp (M := [.evt]) (t := t1) (fun b hb => ?_) (by decide) ?_
      · cases b with | evt => exact absurd (by decide) hb | _ => rfl
      · assumption
    · assumption

theorem State.raiseAlarm_frame {s : State} {code source detail : Nat} : Frame [.evt, .cnt, .host] s (State.raiseAlarm s code source detail) := by
  unfold State.raiseAlarm
  extract_lets -merge v1 v2 v3 v4 v5 v6
  refine Frame.cut v6 (by
    unfold v6
    refine Frame.comp (M := [.evt]) (t := s) (fun b hb => ?_) (by decide) ?_
    · cases b with | evt => exact absurd (by decide) hb | _ => rfl
    · exact Frame.refl) fun h7 => ?_
  clear_value v1 v2 v3 v4 v5 v6
  refine Frame.ite (fun _ => ?_) (fun _ => ?_)
  · refine Frame.comp (M := [.evt]) (t := s) (fun b hb => ?_) (by decide) ?_
    · cases b with | evt => exact absurd (by decide) hb | _ => rfl
    · exact Frame.refl
  · refine Frame.comp State.alarmRecord_frame (by decide) ?_
    assumption

theorem State.setLog_frame {s : State} {l : LogSource} : Frame [.evt] s (State.setLog s l) := by
  unfold State.setLog
  extract_lets -merge v1
  clear_value v1
  refine Frame.comp (M := [.evt]) (t := s) (fun b hb => ?_) (by decide) ?_
  · cases b with | evt => exact absurd (by decide) hb | _ => rfl
  · exact Frame.refl

theorem State.writeLog_frame {s : State} {code source detail : Nat} : Frame [.evt, .cnt, .host] s (State.writeLog s code source detail) := by
  unfold State.writeLog
  extract_lets -merge v1 v2
  clear_value v1 v2
  refine Frame.ite (fun _ => ?_) (fun _ => ?_)
  · exact Frame.refl
  · refine Frame.ite (fun _ => ?_) (fun _ => ?_)
    · refine Frame.comp State.evtWrite_frame (by decide) ?_
      refine Frame.comp State.setLog_frame (by decide) ?_
      exact Frame.refl
    · refine Frame.comp State.bump_frame (by decide) ?_
      refine Frame.comp State.setLog_frame (by decide) ?_
      exact Frame.refl

theorem State.writeLogSummary_frame {s : State} {source : Nat} : Frame [.evt, .cnt, .host] s (State.writeLogSummary s source) := by
  unfold State.writeLogSummary
  extract_lets -merge v1
  clear_value v1
  refine Frame.ite (fun _ => ?_) (fun _ => ?_)
  · refine Frame.comp State.evtWrite_frame (by decide) ?_
    refine Frame.comp State.setLog_frame (by decide) ?_
    exact Frame.refl
  · exact Frame.refl

theorem State.writeTrace_frame {s : State} {code source detail : Nat} : Frame [.evt, .cnt, .host] s (State.writeTrace s code source detail) := by
  unfold State.writeTrace
  extract_lets -merge v1 v2
  clear_value v1 v2
  refine Frame.ite (fun _ => ?_) (fun _ => ?_)
  · refine Frame.comp State.evtWrite_frame (by decide) ?_
    refine Frame.comp State.setLog_frame (by decide) ?_
    exact Frame.refl
  · refine Frame.comp State.bump_frame (by decide) ?_
    refine Frame.comp State.setLog_frame (by decide) ?_
    exact Frame.refl

theorem State.setRing_frame {s : State} {n : Nat} {r : Ring} : Frame [.rmk] s (State.setRing s n r) := by
  unfold State.setRing
  extract_lets -merge v1
  clear_value v1
  refine Frame.comp (M := [.rmk]) (t := s) (fun b hb => ?_) (by decide) ?_
  · cases b with | rmk => exact absurd (by decide) hb | _ => rfl
  · exact Frame.refl

theorem State.ringWrite_frame {s : State} {n addr : Nat} {bytes : List Byte} : Frame [.cnt, .host] s (State.ringWrite s n addr bytes) := by
  unfold State.ringWrite
  extract_lets -merge v1 v2
  clear_value v1 v2
  refine Frame.ite (fun _ => ?_) (fun _ => ?_)
  · refine Frame.comp (M := [.host]) (t := s) (fun b hb => ?_) (by decide) ?_
    · cases b with | host => exact absurd (by decide) hb | _ => rfl
    · exact Frame.refl
  · refine Frame.comp State.hostWrite_frame (by decide) ?_
    exact Frame.refl

theorem State.mirror_frame {s : State} {n : Nat} : Frame [.cnt, .host] s (State.mirror s n) := by
  unfold State.mirror
  extract_lets -merge v1
  clear_value v1
  refine Frame.ite (fun _ => ?_) (fun _ => ?_)
  · exact Frame.refl
  · refine Frame.comp State.hostWrite_frame (by decide) ?_
    exact Frame.refl

theorem State.hold_frame {s : State} {n : Nat} {rec : CqRecord} : Frame [.rmk] s (State.hold s n rec) := by
  unfold State.hold
  extract_lets -merge v1
  clear_value v1
  refine Frame.comp State.setRing_frame (by decide) ?_
  exact Frame.refl

theorem State.modDesc_frame {s : State} {n seq : Nat} {f : Desc → Desc} : Frame [.rmk] s (State.modDesc s n seq f) := by
  unfold State.modDesc
  extract_lets -merge v1
  clear_value v1
  refine Frame.comp State.setRing_frame (by decide) ?_
  exact Frame.refl

theorem State.complete_frame {s : State} {n : Nat} {d : Desc} {x : Done} : Frame [.rmk] s (State.complete s n d x) := by
  unfold State.complete
  extract_lets -merge v1 v2
  clear_value v1 v2
  refine Frame.comp State.hold_frame (by decide) ?_
  refine Frame.comp State.setRing_frame (by decide) ?_
  exact Frame.refl

theorem writeAudit_frame {akind source : Nat} {old new : List Byte} {s : State} : Frame [.alm] s (writeAudit akind source old new s) := by
  unfold writeAudit
  extract_lets -merge v1 v2 v3
  clear_value v1 v2 v3
  refine Frame.comp (M := [.alm]) (t := s) (fun b hb => ?_) (by decide) ?_
  · cases b with | alm => exact absurd (by decide) hb | _ => rfl
  · exact Frame.refl

theorem closeInterval_frame {flags carry : Nat} {s : State} : Frame [.alm] s (closeInterval flags carry s) := by
  unfold closeInterval
  extract_lets -merge v1 v2 v3 v4 v5 v6
  clear_value v1 v2 v3 v4 v5 v6
  refine Frame.comp (M := [.alm]) (t := s) (fun b hb => ?_) (by decide) ?_
  · cases b with | alm => exact absurd (by decide) hb | _ => rfl
  · exact Frame.refl

theorem execShuntSample_frame {volts : Nat} {milliwatts : List Nat} {s : State} {t : State} (h : execShuntSample volts milliwatts s = .next t) : Frame [.alm] s t := by
  unfold execShuntSample at h
  have h := Host.Outcome.next.inj h
  subst h
  extract_lets -merge v1 v2 v3 v4 v5
  clear_value v1 v2 v3 v4 v5
  refine Frame.ite (fun _ => ?_) (fun _ => ?_)
  · exact Frame.refl
  · refine Frame.comp (M := [.alm]) (t := s) (fun b hb => ?_) (by decide) ?_
    · cases b with | alm => exact absurd (by decide) hb | _ => rfl
    · exact Frame.refl

theorem execWarningSpan_frame {volts micros : Nat} {s : State} {t : State} (h : execWarningSpan volts micros s = .next t) : Frame [.alm] s t := by
  unfold execWarningSpan at h
  have h := Host.Outcome.next.inj h
  subst h
  extract_lets -merge v1 v2 v3
  clear_value v1 v2 v3
  refine Frame.ite (fun _ => ?_) (fun _ => ?_)
  · exact Frame.refl
  · refine Frame.ite (fun _ => ?_) (fun _ => ?_)
    · refine Frame.ite (fun _ => ?_) (fun _ => ?_)
      · refine Frame.comp (M := [.alm]) (t := s) (fun b hb => ?_) (by decide) ?_
        · cases b with | alm => exact absurd (by decide) hb | _ => rfl
        · exact Frame.refl
      · refine Frame.comp (M := [.alm]) (t := s) (fun b hb => ?_) (by decide) ?_
        · cases b with | alm => exact absurd (by decide) hb | _ => rfl
        · exact Frame.refl
    · refine Frame.ite (fun _ => ?_) (fun _ => ?_)
      · exact Frame.refl
      · refine Frame.ite (fun _ => ?_) (fun _ => ?_)
        · refine Frame.comp (M := [.alm]) (t := s) (fun b hb => ?_) (by decide) ?_
          · cases b with | alm => exact absurd (by decide) hb | _ => rfl
          · exact Frame.refl
        · refine Frame.comp (M := [.alm]) (t := s) (fun b hb => ?_) (by decide) ?_
          · cases b with | alm => exact absurd (by decide) hb | _ => rfl
          · exact Frame.refl

theorem execIntervalBoundary_frame {s : State} {t : State} (h : execIntervalBoundary s = .next t) : Frame [.alm] s t := by
  unfold execIntervalBoundary at h
  have h := Host.Outcome.next.inj h
  subst h
  extract_lets -merge v1 v2 v3
  refine Frame.cut v2 (by
    unfold v2
    refine Frame.comp closeInterval_frame (by decide) ?_
    exact Frame.refl) fun h4 => ?_
  clear_value v1 v2 v3
  refine Frame.ite (fun _ => ?_) (fun _ => ?_)
  · refine Frame.comp (M := [.alm]) (t := v2) (fun b hb => ?_) (by decide) ?_
    · cases b with | alm => exact absurd (by decide) hb | _ => rfl
    · assumption
  · exact Frame.refl

theorem execBind_frame {session mseq : Nat} {tid : List Byte} {_frame : BitVec 48} {s : State} {t : State} (h : execBind session mseq tid _frame s = .next t) : Frame [.alm] s t := by
  unfold execBind at h
  have h := Host.Outcome.next.inj h
  subst h
  refine Frame.ite (fun _ => ?_) (fun _ => ?_)
  · exact Frame.refl
  · extract_lets -merge v1
    clear_value v1
    refine Frame.comp (M := [.alm]) (t := s) (fun b hb => ?_) (by decide) ?_
    · cases b with | alm => exact absurd (by decide) hb | _ => rfl
    · exact Frame.refl

theorem execUnbind_frame {session mseq : Nat} {_frame : BitVec 48} {s : State} {t : State} (h : execUnbind session mseq _frame s = .next t) : Frame [.alm] s t := by
  unfold execUnbind at h
  have h := Host.Outcome.next.inj h
  subst h
  refine Frame.ite (fun _ => ?_) (fun _ => ?_)
  · exact Frame.refl
  · extract_lets -merge v1
    clear_value v1
    refine Frame.comp (M := [.alm]) (t := s) (fun b hb => ?_) (by decide) ?_
    · cases b with | alm => exact absurd (by decide) hb | _ => rfl
    · exact Frame.refl

theorem execTallyA_frame {session mseq : Nat} {counts : List Nat} {s : State} {t : State} (h : execTallyA session mseq counts s = .next t) : Frame [.alm] s t := by
  unfold execTallyA at h
  have h := Host.Outcome.next.inj h
  subst h
  refine Frame.ite (fun _ => ?_) (fun _ => ?_)
  · exact Frame.refl
  · extract_lets -merge v1 v2
    clear_value v1 v2
    refine Frame.comp (M := [.alm]) (t := s) (fun b hb => ?_) (by decide) ?_
    · cases b with | alm => exact absurd (by decide) hb | _ => rfl
    · exact Frame.refl

theorem execTallyB_frame {session mseq : Nat} {counts : List Nat} {s : State} {t : State} (h : execTallyB session mseq counts s = .next t) : Frame [.alm] s t := by
  unfold execTallyB at h
  have h := Host.Outcome.next.inj h
  subst h
  refine Frame.ite (fun _ => ?_) (fun _ => ?_)
  · exact Frame.refl
  · extract_lets -merge v1 v2
    clear_value v1 v2
    refine Frame.comp (M := [.alm]) (t := s) (fun b hb => ?_) (by decide) ?_
    · cases b with | alm => exact absurd (by decide) hb | _ => rfl
    · exact Frame.refl

theorem execWindowEnd_frame {mseq : Nat} {frame : BitVec 48} {_sessions : Nat} {s : State} {t : State} (h : execWindowEnd mseq frame _sessions s = .next t) : Frame [.alm] s t := by
  unfold execWindowEnd at h
  have h := Host.Outcome.next.inj h
  subst h
  refine Frame.ite (fun _ => ?_) (fun _ => ?_)
  · exact Frame.refl
  · extract_lets -merge v1
    clear_value v1
    refine Frame.comp (M := [.alm]) (t := s) (fun b hb => ?_) (by decide) ?_
    · cases b with | alm => exact absurd (by decide) hb | _ => rfl
    · exact Frame.refl

theorem execAck_frame {path : AckPath} {kind : Nat} {seq : DWord} {sig : List Byte} {s : State} {t : State} (h : execAck path kind seq sig s = .next t) : Frame [.alm] s t := by
  unfold execAck at h
  have h := Host.Outcome.next.inj h
  subst h
  refine Frame.ite (fun _ => ?_) (fun _ => ?_)
  · exact Frame.refl
  · split
    · rename_i y1 y2
      extract_lets -merge v3
      clear_value v3
      refine Frame.comp (M := [.alm]) (t := s) (fun b hb => ?_) (by decide) ?_
      · cases b with | alm => exact absurd (by decide) hb | _ => rfl
      · exact Frame.refl
    · rename_i y4
      refine Frame.comp (M := [.alm]) (t := s) (fun b hb => ?_) (by decide) ?_
      · cases b with | alm => exact absurd (by decide) hb | _ => rfl
      · exact Frame.refl

theorem execRewind_frame {mseq : Nat} {s : State} {t : State} (h : execRewind mseq s = .next t) : Frame [.alm] s t := by
  unfold execRewind at h
  have h := Host.Outcome.next.inj h
  subst h
  refine Frame.ite (fun _ => ?_) (fun _ => ?_)
  · exact Frame.refl
  · extract_lets -merge v1 v2
    clear_value v1 v2
    refine Frame.comp (M := [.alm]) (t := s) (fun b hb => ?_) (by decide) ?_
    · cases b with | alm => exact absurd (by decide) hb | _ => rfl
    · exact Frame.refl

theorem State.setMailbox_frame {s : State} {n : Nat} {m : Mailbox} : Frame [.mbx] s (State.setMailbox s n m) := by
  unfold State.setMailbox
  extract_lets -merge v1
  clear_value v1
  refine Frame.comp (M := [.mbx]) (t := s) (fun b hb => ?_) (by decide) ?_
  · cases b with | mbx => exact absurd (by decide) hb | _ => rfl
  · exact Frame.refl

theorem execExportPart_frame {s : State} {t : State} (h : execExportPart s = .next t) : Frame [.mbx, .alm] s t := by
  unfold execExportPart at h
  have h := Host.Outcome.next.inj h
  subst h
  extract_lets -merge v1 v2
  clear_value v1 v2
  split
  · exact Frame.refl
  · refine Frame.ite (fun _ => ?_) (fun _ => ?_)
    · exact Frame.refl
    · split
      · exact Frame.refl
      · extract_lets -merge v3 v4 v5
        refine Frame.cut v3 (by
          unfold v3
          refine Frame.comp State.setMailbox_frame (by decide) ?_
          exact Frame.refl) fun h6 => ?_
        clear_value v3 v4 v5
        refine Frame.comp (M := [.alm]) (t := v3) (fun b hb => ?_) (by decide) ?_
        · cases b with | alm => exact absurd (by decide) hb | _ => rfl
        · assumption

theorem sendAlm_frame {ekind session : Nat} {payload : List Byte} {s : State} : Frame [.mseqOut, .almSent] s (sendAlm ekind session payload s) := by
  unfold sendAlm
  refine Frame.comp (M := [.mseqOut, .almSent]) (t := s) (fun b hb => ?_) (by decide) ?_
  · cases b with | mseqOut => exact absurd (by decide) hb | almSent => exact absurd (by decide) hb | _ => rfl
  · exact Frame.refl

theorem almAckWrite_frame {s : State} : Frame [.alm, .mseqOut, .almSent] s (almAckWrite s) := by
  unfold almAckWrite
  extract_lets -merge v1 v2 v3
  refine Frame.cut v2 (by
    unfold v2
    refine Frame.comp sendAlm_frame (by decide) ?_
    exact Frame.refl) fun h4 => ?_
  clear_value v1 v2 v3
  refine Frame.comp (M := [.alm]) (t := v2) (fun b hb => ?_) (by decide) ?_
  · cases b with | alm => exact absurd (by decide) hb | _ => rfl
  · assumption

theorem almRewindWrite_frame {s : State} : Frame [.alm, .mseqOut, .almSent] s (almRewindWrite s) := by
  unfold almRewindWrite
  extract_lets -merge v1 v2
  refine Frame.cut v1 (by
    unfold v1
    refine Frame.comp sendAlm_frame (by decide) ?_
    exact Frame.refl) fun h3 => ?_
  clear_value v1 v2
  refine Frame.comp (M := [.alm]) (t := v1) (fun b hb => ?_) (by decide) ?_
  · cases b with | alm => exact absurd (by decide) hb | _ => rfl
  · assumption

theorem execAlmAckCtlAck_frame {port : Nat} {value : Word} {s : State} {t : State} (h : execAlmAckCtlAck port value s = .next t) : Frame [.alm, .mseqOut, .almSent] s t := by
  unfold execAlmAckCtlAck at h
  have h := Host.Outcome.next.inj h
  subst h
  refine Frame.ite (fun _ => ?_) (fun _ => ?_)
  · refine Frame.comp almAckWrite_frame (by decide) ?_
    exact Frame.refl
  · exact Frame.refl

theorem execAlmAckCtlRewind_frame {port : Nat} {value : Word} {s : State} {t : State} (h : execAlmAckCtlRewind port value s = .next t) : Frame [.alm, .mseqOut, .almSent] s t := by
  unfold execAlmAckCtlRewind at h
  have h := Host.Outcome.next.inj h
  subst h
  refine Frame.ite (fun _ => ?_) (fun _ => ?_)
  · refine Frame.comp almRewindWrite_frame (by decide) ?_
    exact Frame.refl
  · exact Frame.refl

theorem latchAudit_frame {s : State} : Frame [.alm] s (latchAudit s) := by
  unfold latchAudit
  extract_lets -merge v1
  clear_value v1
  refine Frame.comp (M := [.alm]) (t := s) (fun b hb => ?_) (by decide) ?_
  · cases b with | alm => exact absurd (by decide) hb | _ => rfl
  · exact Frame.refl

theorem latchTime_frame {s : State} : Frame [.alm] s (latchTime s) := by
  unfold latchTime
  extract_lets -merge v1
  clear_value v1
  refine Frame.comp (M := [.alm]) (t := s) (fun b hb => ?_) (by decide) ?_
  · cases b with | alm => exact absurd (by decide) hb | _ => rfl
  · exact Frame.refl

theorem execAlmAuditLoRead_frame {port : Nat} {s : State} {t : State} (h : execAlmAuditLoRead port s = .next t) : Frame [.alm] s t := by
  unfold execAlmAuditLoRead at h
  have h := Host.Outcome.next.inj h
  subst h
  refine Frame.ite (fun _ => ?_) (fun _ => ?_)
  · refine Frame.comp latchAudit_frame (by decide) ?_
    exact Frame.refl
  · exact Frame.refl

theorem execAlmTimeLoRead_frame {port : Nat} {s : State} {t : State} (h : execAlmTimeLoRead port s = .next t) : Frame [.alm] s t := by
  unfold execAlmTimeLoRead at h
  have h := Host.Outcome.next.inj h
  subst h
  refine Frame.ite (fun _ => ?_) (fun _ => ?_)
  · refine Frame.comp latchTime_frame (by decide) ?_
    exact Frame.refl
  · exact Frame.refl

theorem execRead_frame {s : State} {t : State} (h : execRead s = .next t) : Frame [.alm] s t := by
  unfold execRead at h
  have h := Host.Outcome.next.inj h
  subst h
  refine Frame.ite (fun _ => ?_) (fun _ => ?_)
  · extract_lets -merge v1
    clear_value v1
    refine Frame.comp (M := [.alm]) (t := s) (fun b hb => ?_) (by decide) ?_
    · cases b with | alm => exact absurd (by decide) hb | _ => rfl
    · exact Frame.refl
  · exact Frame.refl

theorem execSetTime_frame {seconds : DWord} {s : State} {t : State} (h : execSetTime seconds s = .next t) : Frame [.alm] s t := by
  unfold execSetTime at h
  have h := Host.Outcome.next.inj h
  subst h
  refine Frame.ite (fun _ => ?_) (fun _ => ?_)
  · extract_lets -merge v1 v2 v3
    refine Frame.cut v2 (by
      unfold v2
      refine Frame.comp closeInterval_frame (by decide) ?_
      exact Frame.refl) fun h4 => ?_
    clear_value v1 v2 v3
    refine Frame.comp writeAudit_frame (by decide) ?_
    refine Frame.comp (M := [.alm]) (t := v2) (fun b hb => ?_) (by decide) ?_
    · cases b with | alm => exact absurd (by decide) hb | _ => rfl
    · assumption
  · exact Frame.refl

theorem execSetInterval_frame {minutes : Nat} {s : State} {t : State} (h : execSetInterval minutes s = .next t) : Frame [.alm] s t := by
  unfold execSetInterval at h
  have h := Host.Outcome.next.inj h
  subst h
  refine Frame.ite (fun _ => ?_) (fun _ => ?_)
  · extract_lets -merge v1
    clear_value v1
    refine Frame.comp writeAudit_frame (by decide) ?_
    refine Frame.comp (M := [.alm]) (t := s) (fun b hb => ?_) (by decide) ?_
    · cases b with | alm => exact absurd (by decide) hb | _ => rfl
    · exact Frame.refl
  · exact Frame.refl

theorem execSetCoeff_frame {coeff : List Nat} {s : State} {t : State} (h : execSetCoeff coeff s = .next t) : Frame [.alm] s t := by
  unfold execSetCoeff at h
  have h := Host.Outcome.next.inj h
  subst h
  refine Frame.ite (fun _ => ?_) (fun _ => ?_)
  · extract_lets -merge v1 v2
    clear_value v1 v2
    refine Frame.comp writeAudit_frame (by decide) ?_
    refine Frame.comp (M := [.alm]) (t := s) (fun b hb => ?_) (by decide) ?_
    · cases b with | alm => exact absurd (by decide) hb | _ => rfl
    · exact Frame.refl
  · exact Frame.refl

theorem execStageFw_frame {image : List Byte} {s : State} {t : State} (h : execStageFw image s = .next t) : Frame [.alm] s t := by
  unfold execStageFw at h
  have h := Host.Outcome.next.inj h
  subst h
  refine Frame.ite (fun _ => ?_) (fun _ => ?_)
  · extract_lets -merge v1
    clear_value v1
    refine Frame.comp writeAudit_frame (by decide) ?_
    refine Frame.comp (M := [.alm]) (t := s) (fun b hb => ?_) (by decide) ?_
    · cases b with | alm => exact absurd (by decide) hb | _ => rfl
    · exact Frame.refl
  · exact Frame.refl

theorem lidAudit_frame {akind before : Nat} {s : State} : Frame [.alm] s (lidAudit akind before s) := by
  unfold lidAudit
  refine Frame.comp writeAudit_frame (by decide) ?_
  exact Frame.refl

theorem execLidOpen_frame {s : State} {t : State} (h : execLidOpen s = .next t) : Frame [.alm] s t := by
  unfold execLidOpen at h
  have h := Host.Outcome.next.inj h
  subst h
  refine Frame.ite (fun _ => ?_) (fun _ => ?_)
  · exact Frame.refl
  · extract_lets -merge v1 v2 v3
    clear_value v1 v2 v3
    refine Frame.ite (fun _ => ?_) (fun _ => ?_)
    · refine Frame.comp lidAudit_frame (by decide) ?_
      refine Frame.comp (M := [.alm]) (t := s) (fun b hb => ?_) (by decide) ?_
      · cases b with | alm => exact absurd (by decide) hb | _ => rfl
      · exact Frame.refl
    · refine Frame.comp (M := [.alm]) (t := s) (fun b hb => ?_) (by decide) ?_
      · cases b with | alm => exact absurd (by decide) hb | _ => rfl
      · exact Frame.refl

theorem execLidClose_frame {s : State} {t : State} (h : execLidClose s = .next t) : Frame [.alm] s t := by
  unfold execLidClose at h
  have h := Host.Outcome.next.inj h
  subst h
  refine Frame.ite (fun _ => ?_) (fun _ => ?_)
  · exact Frame.refl
  · extract_lets -merge v1 v2
    clear_value v1 v2
    refine Frame.ite (fun _ => ?_) (fun _ => ?_)
    · refine Frame.comp lidAudit_frame (by decide) ?_
      refine Frame.comp (M := [.alm]) (t := s) (fun b hb => ?_) (by decide) ?_
      · cases b with | alm => exact absurd (by decide) hb | _ => rfl
      · exact Frame.refl
    · refine Frame.comp (M := [.alm]) (t := s) (fun b hb => ?_) (by decide) ?_
      · cases b with | alm => exact absurd (by decide) hb | _ => rfl
      · exact Frame.refl

theorem almanacLoss_frame {s : State} : Frame [.alm] s (almanacLoss s) := by
  unfold almanacLoss
  refine Frame.ite (fun _ => ?_) (fun _ => ?_)
  · exact Frame.refl
  · extract_lets -merge v1 v2
    refine Frame.cut v1 (by
      unfold v1
      refine Frame.ite (fun _ => ?_) (fun _ => ?_)
      · refine Frame.comp closeInterval_frame (by decide) ?_
        exact Frame.refl
      · exact Frame.refl) fun h3 => ?_
    clear_value v1 v2
    refine Frame.comp (M := [.alm]) (t := v1) (fun b hb => ?_) (by decide) ?_
    · cases b with | alm => exact absurd (by decide) hb | _ => rfl
    · assumption

theorem execPowerGap_frame {seconds : DWord} {s : State} {t : State} (h : execPowerGap seconds s = .next t) : Frame [.alm] s t := by
  unfold execPowerGap at h
  have h := Host.Outcome.next.inj h
  subst h
  refine Frame.ite (fun _ => ?_) (fun _ => ?_)
  · exact Frame.refl
  · extract_lets -merge v1 v2 v3 v4 v5 v6 v7
    refine Frame.cut v6 (by
      unfold v6
      refine Frame.comp writeAudit_frame (by decide) ?_
      refine Frame.comp (M := [.alm]) (t := s) (fun b hb => ?_) (by decide) ?_
      · cases b with | alm => exact absurd (by decide) hb | _ => rfl
      · exact Frame.refl) fun h8 => ?_
    refine Frame.cut v7 (by
      unfold v7
      refine Frame.foldl ?_ (fun t10 a11 h12 => ?_)
      · assumption
      · refine Frame.comp lidAudit_frame (by decide) ?_
        assumption) fun h9 => ?_
    clear_value v1 v2 v3 v4 v5 v6 v7
    refine Frame.comp (M := [.alm]) (t := v7) (fun b hb => ?_) (by decide) ?_
    · cases b with | alm => exact absurd (by decide) hb | _ => rfl
    · assumption

theorem almanacReset_frame {s : State} : Frame [.alm] s (almanacReset s) := by
  unfold almanacReset
  split
  · exact Frame.refl
  · refine Frame.ite (fun _ => ?_) (fun _ => ?_)
    · extract_lets -merge v1 v2 v3 v4
      refine Frame.cut v1 (by
        unfold v1
        refine Frame.comp closeInterval_frame (by decide) ?_
        exact Frame.refl) fun h5 => ?_
      clear_value v1 v2 v3 v4
      refine Frame.comp writeAudit_frame (by decide) ?_
      refine Frame.comp (M := [.alm]) (t := v1) (fun b hb => ?_) (by decide) ?_
      · cases b with | alm => exact absurd (by decide) hb | _ => rfl
      · assumption
    · exact Frame.refl

theorem State.setCore_frame {s : State} {c : Nat} {x : Core} : Frame [.hatch] s (State.setCore s c x) := by
  unfold State.setCore
  extract_lets -merge v1
  clear_value v1
  refine Frame.comp (M := [.hatch]) (t := s) (fun b hb => ?_) (by decide) ?_
  · cases b with | hatch => exact absurd (by decide) hb | _ => rfl
  · exact Frame.refl

theorem State.setField_frame {s : State} {f : Nat} {x : Field} : Frame [.hatch] s (State.setField s f x) := by
  unfold State.setField
  extract_lets -merge v1
  clear_value v1
  refine Frame.comp (M := [.hatch]) (t := s) (fun b hb => ?_) (by decide) ?_
  · cases b with | hatch => exact absurd (by decide) hb | _ => rfl
  · exact Frame.refl

theorem State.setUnit_frame {s : State} {u : Nat} {x : BurinUnit} : Frame [.burin] s (State.setUnit s u x) := by
  unfold State.setUnit
  refine Frame.comp (M := [.burin]) (t := s) (fun b hb => ?_) (by decide) ?_
  · cases b with | burin => exact absurd (by decide) hb | _ => rfl
  · exact Frame.refl

theorem lockPolicy_frame {s : State} : Frame [.proof, .mbx] s (lockPolicy s) := by
  unfold lockPolicy
  refine Frame.ite (fun _ => ?_) (fun _ => ?_)
  · exact Frame.refl
  · extract_lets -merge v1 v2 v3 v4 v5 v6
    clear_value v1 v2 v3 v4 v5 v6
    refine Frame.comp (M := [.proof, .mbx]) (t := s) (fun b hb => ?_) (by decide) ?_
    · cases b with | proof => exact absurd (by decide) hb | mbx => exact absurd (by decide) hb | _ => rfl
    · exact Frame.refl

theorem execPolicyLock_frame {port : Nat} {value : Word} {s : State} {t : State} (h : execPolicyLock port value s = .next t) : Frame [.proof, .mbx] s t := by
  unfold execPolicyLock at h
  have h := Host.Outcome.next.inj h
  subst h
  refine Frame.ite (fun _ => ?_) (fun _ => ?_)
  · refine Frame.comp lockPolicy_frame (by decide) ?_
    exact Frame.refl
  · exact Frame.refl

theorem commitSvn_frame {v : Word} {s : State} : Frame [.part] s (commitSvn v s) := by
  unfold commitSvn
  extract_lets -merge v1 v2
  clear_value v1 v2
  refine Frame.ite (fun _ => ?_) (fun _ => ?_)
  · refine Frame.comp (M := [.part]) (t := s) (fun b hb => ?_) (by decide) ?_
    · cases b with | part => exact absurd (by decide) hb | _ => rfl
    · exact Frame.refl
  · exact Frame.refl

theorem execCommitSvn_frame {port : Nat} {value : Word} {s : State} {t : State} (h : execCommitSvn port value s = .next t) : Frame [.part] s t := by
  unfold execCommitSvn at h
  have h := Host.Outcome.next.inj h
  subst h
  refine Frame.ite (fun _ => ?_) (fun _ => ?_)
  · refine Frame.comp commitSvn_frame (by decide) ?_
    exact Frame.refl
  · exact Frame.refl

theorem execPrfFwDigestSelWrite_frame {port : Nat} {value : Word} {s : State} {t : State} (h : execPrfFwDigestSelWrite port value s = .next t) : Frame [.proof] s t := by
  unfold execPrfFwDigestSelWrite at h
  have h := Host.Outcome.next.inj h
  subst h
  refine Frame.ite (fun _ => ?_) (fun _ => ?_)
  · extract_lets -merge v1
    clear_value v1
    refine Frame.comp (M := [.proof]) (t := s) (fun b hb => ?_) (by decide) ?_
    · cases b with | proof => exact absurd (by decide) hb | _ => rfl
    · exact Frame.refl
  · exact Frame.refl

theorem mailboxViolation_frame {master channel : Nat} {s : State} : Frame [.mbx, .evt, .cnt, .host] s (mailboxViolation master channel s) := by
  unfold mailboxViolation
  extract_lets -merge v1
  clear_value v1
  refine Frame.comp State.raiseAlarm_frame (by decide) ?_
  refine Frame.comp State.bump_frame (by decide) ?_
  refine Frame.comp (M := [.mbx]) (t := s) (fun b hb => ?_) (by decide) ?_
  · cases b with | mbx => exact absurd (by decide) hb | _ => rfl
  · exact Frame.refl

theorem mailboxSend_frame {master channel : Nat} {words : List Word} {s : State} : Frame [.mbx, .evt, .cnt, .host] s (mailboxSend master channel words s) := by
  unfold mailboxSend
  extract_lets -merge v1
  clear_value v1
  refine Frame.ite (fun _ => ?_) (fun _ => ?_)
  · refine Frame.comp mailboxViolation_frame (by decide) ?_
    exact Frame.refl
  · refine Frame.ite (fun _ => ?_) (fun _ => ?_)
    · refine Frame.comp State.setMailbox_frame (by decide) ?_
      exact Frame.refl
    · refine Frame.comp State.setMailbox_frame (by decide) ?_
      exact Frame.refl

theorem execMailboxSend_frame {master channel : Nat} {words : List Word} {s : State} {t : State} (h : execMailboxSend master channel words s = .next t) : Frame [.mbx, .evt, .cnt, .host] s t := by
  unfold execMailboxSend at h
  have h := Host.Outcome.next.inj h
  subst h
  refine Frame.ite (fun _ => ?_) (fun _ => ?_)
  · refine Frame.comp mailboxSend_frame (by decide) ?_
    exact Frame.refl
  · exact Frame.refl

theorem execMailboxLastWordRead_frame {master channel word : Nat} {s : State} {t : State} (h : execMailboxLastWordRead master channel word s = .next t) : Frame [.mbx, .evt, .cnt, .host] s t := by
  unfold execMailboxLastWordRead at h
  have h := Host.Outcome.next.inj h
  subst h
  extract_lets -merge v1
  clear_value v1
  refine Frame.ite (fun _ => ?_) (fun _ => ?_)
  · exact Frame.refl
  · refine Frame.ite (fun _ => ?_) (fun _ => ?_)
    · refine Frame.ite (fun _ => ?_) (fun _ => ?_)
      · refine Frame.comp State.setMailbox_frame (by decide) ?_
        exact Frame.refl
      · exact Frame.refl
    · refine Frame.ite (fun _ => ?_) (fun _ => ?_)
      · exact Frame.refl
      · refine Frame.comp mailboxViolation_frame (by decide) ?_
        exact Frame.refl

theorem execFwStageWrite_frame {port offset : Nat} {value : Word} {s : State} {t : State} (h : execFwStageWrite port offset value s = .next t) : Frame [.stage] s t := by
  unfold execFwStageWrite at h
  have h := Host.Outcome.next.inj h
  subst h
  refine Frame.ite (fun _ => ?_) (fun _ => ?_)
  · extract_lets -merge v1
    clear_value v1
    refine Frame.comp (M := [.stage]) (t := s) (fun b hb => ?_) (by decide) ?_
    · cases b with | stage => exact absurd (by decide) hb | _ => rfl
    · exact Frame.refl
  · exact Frame.refl

theorem stageCommit_frame {s : State} : Frame [.stage] s (stageCommit s) := by
  unfold stageCommit
  extract_lets -merge v1 v2 v3 v4 v5 v6
  clear_value v1 v2 v3 v4 v5 v6
  refine Frame.ite (fun _ => ?_) (fun _ => ?_)
  · refine Frame.comp (M := [.stage]) (t := s) (fun b hb => ?_) (by decide) ?_
    · cases b with | stage => exact absurd (by decide) hb | _ => rfl
    · exact Frame.refl
  · refine Frame.ite (fun _ => ?_) (fun _ => ?_)
    · refine Frame.comp (M := [.stage]) (t := s) (fun b hb => ?_) (by decide) ?_
      · cases b with | stage => exact absurd (by decide) hb | _ => rfl
      · exact Frame.refl
    · refine Frame.comp (M := [.stage]) (t := s) (fun b hb => ?_) (by decide) ?_
      · cases b with | stage => exact absurd (by decide) hb | _ => rfl
      · exact Frame.refl

theorem stageClear_frame {s : State} : Frame [.stage] s (stageClear s) := by
  unfold stageClear
  extract_lets -merge v1
  clear_value v1
  refine Frame.comp (M := [.stage]) (t := s) (fun b hb => ?_) (by decide) ?_
  · cases b with | stage => exact absurd (by decide) hb | _ => rfl
  · exact Frame.refl

theorem execFwStageCommit_frame {port : Nat} {value : Word} {s : State} {t : State} (h : execFwStageCommit port value s = .next t) : Frame [.stage] s t := by
  unfold execFwStageCommit at h
  have h := Host.Outcome.next.inj h
  subst h
  refine Frame.ite (fun _ => ?_) (fun _ => ?_)
  · refine Frame.comp stageCommit_frame (by decide) ?_
    refine Frame.ite (fun _ => ?_) (fun _ => ?_)
    · refine Frame.comp stageClear_frame (by decide) ?_
      exact Frame.refl
    · exact Frame.refl
  · exact Frame.refl

theorem execFwStageClear_frame {port : Nat} {value : Word} {s : State} {t : State} (h : execFwStageClear port value s = .next t) : Frame [.stage] s t := by
  unfold execFwStageClear at h
  have h := Host.Outcome.next.inj h
  subst h
  refine Frame.ite (fun _ => ?_) (fun _ => ?_)
  · refine Frame.ite (fun _ => ?_) (fun _ => ?_)
    · refine Frame.comp stageCommit_frame (by decide) ?_
      refine Frame.comp stageClear_frame (by decide) ?_
      exact Frame.refl
    · refine Frame.comp stageClear_frame (by decide) ?_
      exact Frame.refl
  · exact Frame.refl

theorem powerOnReset_frame {cause volts : Nat} {s : State} : Frame resetBlocks s (powerOnReset cause volts s) := by
  intro b hb
  cases b with
  | pending => rfl
  | _ => exact absurd (by decide) hb

theorem execColdStart_frame {volts : Nat} {s : State} {t : State} (h : execColdStart volts s = .next t) : Frame resetBlocks s t := by
  unfold execColdStart at h
  have h := atBusbar_next h
  subst h
  refine Frame.ite (fun _ => ?_) (fun _ => ?_)
  · refine Frame.comp powerOnReset_frame (by decide) ?_
    exact Frame.refl
  · exact Frame.refl

theorem execResetHoldEnd_frame {volts : Nat} {s : State} {t : State} (h : execResetHoldEnd volts s = .next t) : Frame [.boot] s t := by
  unfold execResetHoldEnd at h
  have h := atBusbar_next h
  subst h
  refine Frame.ite (fun _ => ?_) (fun _ => ?_)
  · extract_lets -merge v1
    clear_value v1
    refine Frame.comp (M := [.boot]) (t := s) (fun b hb => ?_) (by decide) ?_
    · cases b with | boot => exact absurd (by decide) hb | _ => rfl
    · exact Frame.refl
  · exact Frame.refl

theorem State.enter_frame {s : State} {p : Phase} {ms : Nat} : Frame [.boot] s (State.enter s p ms) := by
  unfold State.enter
  extract_lets -merge v1
  clear_value v1
  refine Frame.comp (M := [.boot]) (t := s) (fun b hb => ?_) (by decide) ?_
  · cases b with | boot => exact absurd (by decide) hb | _ => rfl
  · exact Frame.refl

theorem execWake_frame {ms : Nat} {s : State} {t : State} (h : execWake ms s = .next t) : Frame [.boot] s t := by
  unfold execWake at h
  have h := Host.Outcome.next.inj h
  subst h
  refine Frame.ite (fun _ => ?_) (fun _ => ?_)
  · extract_lets -merge v1
    clear_value v1
    refine Frame.comp State.enter_frame (by decide) ?_
    refine Frame.comp (M := [.boot]) (t := s) (fun b hb => ?_) (by decide) ?_
    · cases b with | boot => exact absurd (by decide) hb | _ => rfl
    · exact Frame.refl
  · exact Frame.refl

theorem execVerify_frame {ms : Nat} {s : State} {t : State} (h : execVerify ms s = .next t) : Frame [.boot, .proof, .mbx] s t := by
  unfold execVerify at h
  have h := Host.Outcome.next.inj h
  subst h
  refine Frame.ite (fun _ => ?_) (fun _ => ?_)
  · extract_lets -merge v1 v2 v3 v4
    clear_value v1 v2 v3 v4
    refine Frame.ite (fun _ => ?_) (fun _ => ?_)
    · refine Frame.comp State.enter_frame (by decide) ?_
      refine Frame.comp (M := [.proof, .mbx]) (t := s) (fun b hb => ?_) (by decide) ?_
      · cases b with | proof => exact absurd (by decide) hb | mbx => exact absurd (by decide) hb | _ => rfl
      · exact Frame.refl
    · refine Frame.comp State.enter_frame (by decide) ?_
      refine Frame.comp (M := [.proof]) (t := s) (fun b hb => ?_) (by decide) ?_
      · cases b with | proof => exact absurd (by decide) hb | _ => rfl
      · exact Frame.refl
  · exact Frame.refl

theorem State.enterFaulted_frame {s : State} {cause : Nat} : Frame [.boot, .evt, .fault, .cnt, .host] s (State.enterFaulted s cause) := by
  unfold State.enterFaulted
  extract_lets -merge v1 v2
  clear_value v1 v2
  refine Frame.comp State.raiseAlarm_frame (by decide) ?_
  refine Frame.comp (M := [.boot, .fault]) (t := s) (fun b hb => ?_) (by decide) ?_
  · cases b with | boot => exact absurd (by decide) hb | fault => exact absurd (by decide) hb | _ => rfl
  · exact Frame.refl

theorem coreFailed_frame {s : State} {x : Site} : Frame [.nv, .hatch, .evt, .cnt, .host] s (coreFailed s x) := by
  unfold coreFailed
  refine Frame.ite (fun _ => ?_) (fun _ => ?_)
  · extract_lets -merge v1 v2
    clear_value v1 v2
    refine Frame.comp State.raiseAlarm_frame (by decide) ?_
    refine Frame.comp (M := [.nv, .hatch]) (t := s) (fun b hb => ?_) (by decide) ?_
    · cases b with | nv => exact absurd (by decide) hb | hatch => exact absurd (by decide) hb | _ => rfl
    · exact Frame.refl
  · exact Frame.refl

theorem burinFailed_frame {s : State} {b : Nat × Nat} : Frame [.nv, .evt, .cnt, .host] s (burinFailed s b) := by
  unfold burinFailed
  refine Frame.ite (fun _ => ?_) (fun _ => ?_)
  · extract_lets -merge v1
    clear_value v1
    refine Frame.comp State.raiseAlarm_frame (by decide) ?_
    refine Frame.comp (M := [.nv]) (t := s) (fun b hb => ?_) (by decide) ?_
    · cases b with | nv => exact absurd (by decide) hb | _ => rfl
    · exact Frame.refl
  · exact Frame.refl

theorem controllerFailed_frame {s : State} {f : Nat} : Frame [.hatch, .evt, .cnt, .host] s (controllerFailed s f) := by
  unfold controllerFailed
  extract_lets -merge v1
  clear_value v1
  refine Frame.comp State.raiseAlarm_frame (by decide) ?_
  refine Frame.comp State.setField_frame (by decide) ?_
  exact Frame.refl

theorem easelFailed_frame {s : State} {e : Nat} : Frame [.evt, .fault, .cnt, .host] s (easelFailed s e) := by
  unfold easelFailed
  extract_lets -merge v1
  clear_value v1
  refine Frame.comp State.raiseAlarm_frame (by decide) ?_
  refine Frame.comp (M := [.fault]) (t := s) (fun b hb => ?_) (by decide) ?_
  · cases b with | fault => exact absurd (by decide) hb | _ => rfl
  · exact Frame.refl

theorem execCores_frame {ms : Nat} {report : CoresReport} {s : State} {t : State} (h : execCores ms report s = .next t) : Frame [.boot, .nv, .hatch, .evt, .fault, .cnt, .host] s t := by
  unfold execCores at h
  have h := Host.Outcome.next.inj h
  subst h
  refine Frame.ite (fun _ => ?_) (fun _ => ?_)
  · extract_lets -merge v1 v2 v3 v4 v5
    refine Frame.cut v1 (by
      unfold v1
      refine Frame.foldl ?_ (fun t7 a8 h9 => ?_)
      · exact Frame.refl
      · refine Frame.comp coreFailed_frame (by decide) ?_
        assumption) fun h6 => ?_
    refine Frame.cut v2 (by
      unfold v2
      refine Frame.foldl ?_ (fun t11 a12 h13 => ?_)
      · assumption
      · refine Frame.comp burinFailed_frame (by decide) ?_
        assumption) fun h10 => ?_
    refine Frame.cut v3 (by
      unfold v3
      refine Frame.foldl ?_ (fun t15 a16 h17 => ?_)
      · assumption
      · refine Frame.comp controllerFailed_frame (by decide) ?_
        assumption) fun h14 => ?_
    refine Frame.cut v4 (by
      unfold v4
      refine Frame.foldl ?_ (fun t19 a20 h21 => ?_)
      · assumption
      · refine Frame.comp easelFailed_frame (by decide) ?_
        assumption) fun h18 => ?_
    clear_value v1 v2 v3 v4 v5
    refine Frame.ite (fun _ => ?_) (fun _ => ?_)
    · refine Frame.comp State.enterFaulted_frame (by decide) ?_
      refine Frame.comp State.enter_frame (by decide) ?_
      assumption
    · refine Frame.ite (fun _ => ?_) (fun _ => ?_)
      · refine Frame.comp State.enterFaulted_frame (by decide) ?_
        refine Frame.comp State.enter_frame (by decide) ?_
        assumption
      · refine Frame.ite (fun _ => ?_) (fun _ => ?_)
        · refine Frame.comp State.enterFaulted_frame (by decide) ?_
          refine Frame.comp State.enter_frame (by decide) ?_
          refine Frame.comp (M := [.fault]) (t := v4) (fun b hb => ?_) (by decide) ?_
          · cases b with | fault => exact absurd (by decide) hb | _ => rfl
          · assumption
        · refine Frame.ite (fun _ => ?_) (fun _ => ?_)
          · refine Frame.comp State.enterFaulted_frame (by decide) ?_
            refine Frame.comp State.enter_frame (by decide) ?_
            assumption
          · refine Frame.comp State.enter_frame (by decide) ?_
            assumption
  · exact Frame.refl

theorem execMemory_frame {ms : Nat} {chans : List ChannelTrain} {s : State} {t : State} (h : execMemory ms chans s = .next t) : Frame [.boot, .mem, .dram, .evt, .fault, .cnt, .host, .free] s t := by
  unfold execMemory at h
  have h := Host.Outcome.next.inj h
  subst h
  refine Frame.ite (fun _ => ?_) (fun _ => ?_)
  · extract_lets -merge v1 v2 v3 v4 v5 v6
    refine Frame.cut v4 (by
      unfold v4
      refine Frame.comp (M := [.mem, .dram, .free]) (t := s) (fun b hb => ?_) (by decide) ?_
      · cases b with | mem => exact absurd (by decide) hb | dram => exact absurd (by decide) hb | free => exact absurd (by decide) hb | _ => rfl
      · exact Frame.refl) fun h7 => ?_
    refine Frame.cut v6 (by
      unfold v6
      refine Frame.ite (fun _ => ?_) (fun _ => ?_)
      · refine Frame.comp State.raiseAlarm_frame (by decide) ?_
        assumption
      · assumption) fun h8 => ?_
    refine Frame.ite (fun _ => ?_) (fun _ => ?_)
    · refine Frame.comp State.enterFaulted_frame (by decide) ?_
      refine Frame.comp State.enter_frame (by decide) ?_
      assumption
    · refine Frame.comp State.enter_frame (by decide) ?_
      assumption
  · exact Frame.refl

theorem execMeasure_frame {ms : Nat} {s : State} {t : State} (h : execMeasure ms s = .next t) : Frame [.boot, .tb, .cap, .proof, .evt, .cnt, .host] s t := by
  unfold execMeasure at h
  have h := Host.Outcome.next.inj h
  subst h
  refine Frame.ite (fun _ => ?_) (fun _ => ?_)
  · extract_lets -merge v1 v2 v3 v4 v5
    refine Frame.cut v3 (by
      unfold v3
      refine Frame.comp (M := [.cap, .proof]) (t := s) (fun b hb => ?_) (by decide) ?_
      · cases b with | cap => exact absurd (by decide) hb | proof => exact absurd (by decide) hb | _ => rfl
      · exact Frame.refl) fun h6 => ?_
    refine Frame.cut v4 (by
      unfold v4
      refine Frame.ite (fun _ => ?_) (fun _ => ?_)
      · refine Frame.comp State.raiseAlarm_frame (by decide) ?_
        assumption
      · assumption) fun h7 => ?_
    clear_value v1 v2 v3 v4 v5
    refine Frame.comp State.enter_frame (by decide) ?_
    refine Frame.comp (M := [.tb]) (t := v4) (fun b hb => ?_) (by decide) ?_
    · cases b with | tb => exact absurd (by decide) hb | _ => rfl
    · assumption
  · exact Frame.refl

theorem resetCtlWrite_frame {v : Word} {s : State} : Frame resetBlocks s (resetCtlWrite v s) := by
  unfold resetCtlWrite
  refine Frame.ite (fun _ => ?_) (fun _ => ?_)
  · refine Frame.comp powerOnReset_frame (by decide) ?_
    exact Frame.refl
  · exact Frame.refl

theorem execHostReset_frame {port : Nat} {value : Word} {s : State} {t : State} (h : execHostReset port value s = .next t) : Frame resetBlocks s t := by
  unfold execHostReset at h
  have h := Host.Outcome.next.inj h
  subst h
  refine Frame.ite (fun _ => ?_) (fun _ => ?_)
  · refine Frame.comp resetCtlWrite_frame (by decide) ?_
    exact Frame.refl
  · exact Frame.refl

theorem powerOff_frame {volts : Nat} {s : State} : Frame resetBlocks s (powerOff volts s) := by
  unfold powerOff
  extract_lets -merge v1 v2
  refine Frame.cut v1 (by
    unfold v1
    refine Frame.comp powerOnReset_frame (by decide) ?_
    exact Frame.refl) fun h3 => ?_
  clear_value v1 v2
  refine Frame.comp (M := [.boot]) (t := v1) (fun b hb => ?_) (by decide) ?_
  · cases b with | boot => exact absurd (by decide) hb | _ => rfl
  · assumption

theorem execSupplyReset_frame {volts : Nat} {s : State} {t : State} (h : execSupplyReset volts s = .next t) : Frame resetBlocks s t := by
  unfold execSupplyReset at h
  have h := atBusbar_next h
  subst h
  refine Frame.ite (fun _ => ?_) (fun _ => ?_)
  · exact Frame.refl
  · extract_lets -merge v1 v2 v3 v4 v5 v6
    refine Frame.cut v3 (by
      unfold v3
      refine Frame.comp powerOnReset_frame (by decide) ?_
      exact Frame.refl) fun h7 => ?_
    refine Frame.cut v6 (by
      unfold v6
      refine Frame.ite (fun _ => ?_) (fun _ => ?_)
      · refine Frame.comp State.raiseAlarm_frame (by decide) ?_
        refine Frame.comp (M := [.nv]) (t := v3) (fun b hb => ?_) (by decide) ?_
        · cases b with | nv => exact absurd (by decide) hb | _ => rfl
        · assumption
      · refine Frame.comp (M := [.boot]) (t := s) (fun b hb => ?_) (by decide) ?_
        · cases b with | boot => exact absurd (by decide) hb | _ => rfl
        · exact Frame.refl) fun h8 => ?_
    clear_value v1 v2 v3 v4 v5 v6
    refine Frame.ite (fun _ => ?_) (fun _ => ?_)
    · refine Frame.comp powerOff_frame (by decide) ?_
      assumption
    · assumption

theorem execSupplyWarningEnd_frame {volts : Nat} {s : State} {t : State} (h : execSupplyWarningEnd volts s = .next t) : Frame [.boot] s t := by
  unfold execSupplyWarningEnd at h
  have h := atBusbar_next h
  subst h
  refine Frame.ite (fun _ => ?_) (fun _ => ?_)
  · extract_lets -merge v1
    clear_value v1
    refine Frame.comp (M := [.boot]) (t := s) (fun b hb => ?_) (by decide) ?_
    · cases b with | boot => exact absurd (by decide) hb | _ => rfl
    · exact Frame.refl
  · exact Frame.refl

theorem execThermalTrip_frame {s : State} {t : State} (h : execThermalTrip s = .next t) : Frame resetBlocks s t := by
  unfold execThermalTrip at h
  have h := Host.Outcome.next.inj h
  subst h
  refine Frame.ite (fun _ => ?_) (fun _ => ?_)
  · extract_lets -merge v1 v2
    refine Frame.cut v1 (by
      unfold v1
      refine Frame.comp powerOnReset_frame (by decide) ?_
      exact Frame.refl) fun h3 => ?_
    clear_value v1 v2
    refine Frame.comp (M := [.boot]) (t := v1) (fun b hb => ?_) (by decide) ?_
    · cases b with | boot => exact absurd (by decide) hb | _ => rfl
    · assumption
  · exact Frame.refl

theorem execAlmanacInputLoss_frame {s : State} {t : State} (h : execAlmanacInputLoss s = .next t) : Frame resetBlocks s t := by
  unfold execAlmanacInputLoss at h
  have h := Host.Outcome.next.inj h
  subst h
  refine Frame.ite (fun _ => ?_) (fun _ => ?_)
  · extract_lets -merge v1
    refine Frame.cut v1 (by
      unfold v1
      refine Frame.comp almanacLoss_frame (by decide) ?_
      exact Frame.refl) fun h2 => ?_
    clear_value v1
    refine Frame.ite (fun _ => ?_) (fun _ => ?_)
    · refine Frame.comp powerOff_frame (by decide) ?_
      assumption
    · assumption
  · exact Frame.refl

theorem execAlarm_frame {code source : Nat} {detail : DWord} {s : State} {t : State} (h : execAlarm code source detail s = .next t) : Frame [.evt, .cnt, .host] s t := by
  unfold execAlarm at h
  have h := Host.Outcome.next.inj h
  subst h
  refine Frame.ite (fun _ => ?_) (fun _ => ?_)
  · refine Frame.comp State.raiseAlarm_frame (by decide) ?_
    exact Frame.refl
  · exact Frame.refl

theorem endAlarmWindow_frame {code source : Nat} {s : State} : Frame [.evt, .cnt, .host] s (endAlarmWindow code source s) := by
  unfold endAlarmWindow
  split
  · exact Frame.refl
  · refine Frame.ite (fun _ => ?_) (fun _ => ?_)
    · exact Frame.refl
    · refine Frame.ite (fun _ => ?_) (fun _ => ?_)
      · extract_lets -merge v1
        clear_value v1
        refine Frame.comp (M := [.evt]) (t := s) (fun b hb => ?_) (by decide) ?_
        · cases b with | evt => exact absurd (by decide) hb | _ => rfl
        · exact Frame.refl
      · extract_lets -merge v2 v3
        clear_value v2 v3
        refine Frame.comp State.alarmRecord_frame (by decide) ?_
        refine Frame.comp (M := [.evt]) (t := s) (fun b hb => ?_) (by decide) ?_
        · cases b with | evt => exact absurd (by decide) hb | _ => rfl
        · exact Frame.refl

theorem execCoalesceWindowEnd_frame {code source : Nat} {s : State} {t : State} (h : execCoalesceWindowEnd code source s = .next t) : Frame [.evt, .cnt, .host] s t := by
  unfold execCoalesceWindowEnd at h
  have h := Host.Outcome.next.inj h
  subst h
  refine Frame.comp endAlarmWindow_frame (by decide) ?_
  exact Frame.refl

theorem execLog_frame {code source : Nat} {detail : DWord} {s : State} {t : State} (h : execLog code source detail s = .next t) : Frame [.evt, .cnt, .host] s t := by
  unfold execLog at h
  have h := Host.Outcome.next.inj h
  subst h
  refine Frame.ite (fun _ => ?_) (fun _ => ?_)
  · refine Frame.comp State.writeLog_frame (by decide) ?_
    exact Frame.refl
  · exact Frame.refl

theorem execLogSummary_frame {source : Nat} {s : State} {t : State} (h : execLogSummary source s = .next t) : Frame [.evt, .cnt, .host] s t := by
  unfold execLogSummary at h
  have h := Host.Outcome.next.inj h
  subst h
  refine Frame.comp State.writeLogSummary_frame (by decide) ?_
  exact Frame.refl

theorem execTrace_frame {code source : Nat} {detail : DWord} {s : State} {t : State} (h : execTrace code source detail s = .next t) : Frame [.evt, .cnt, .host] s t := by
  unfold execTrace at h
  have h := Host.Outcome.next.inj h
  subst h
  refine Frame.ite (fun _ => ?_) (fun _ => ?_)
  · refine Frame.comp State.writeTrace_frame (by decide) ?_
    exact Frame.refl
  · exact Frame.refl

theorem evtCfgWrite_frame {v : Word} {s : State} : Frame [.evt, .cnt, .host] s (evtCfgWrite v s) := by
  unfold evtCfgWrite
  extract_lets -merge v1 v2
  clear_value v1 v2
  refine Frame.ite (fun _ => ?_) (fun _ => ?_)
  · refine Frame.ite (fun _ => ?_) (fun _ => ?_)
    · exact Frame.refl
    · refine Frame.comp (M := [.evt]) (t := s) (fun b hb => ?_) (by decide) ?_
      · cases b with | evt => exact absurd (by decide) hb | _ => rfl
      · exact Frame.refl
  · refine Frame.ite (fun _ => ?_) (fun _ => ?_)
    · refine Frame.comp State.evtDrain_frame (by decide) ?_
      refine Frame.comp (M := [.evt]) (t := s) (fun b hb => ?_) (by decide) ?_
      · cases b with | evt => exact absurd (by decide) hb | _ => rfl
      · exact Frame.refl
    · refine Frame.comp (M := [.evt]) (t := s) (fun b hb => ?_) (by decide) ?_
      · cases b with | evt => exact absurd (by decide) hb | _ => rfl
      · exact Frame.refl

theorem execEventRingEnable_frame {port : Nat} {value : Word} {s : State} {t : State} (h : execEventRingEnable port value s = .next t) : Frame [.evt, .cnt, .host] s t := by
  unfold execEventRingEnable at h
  have h := Host.Outcome.next.inj h
  subst h
  refine Frame.ite (fun _ => ?_) (fun _ => ?_)
  · refine Frame.comp evtCfgWrite_frame (by decide) ?_
    exact Frame.refl
  · exact Frame.refl

theorem evtCiWrite_frame {v : Word} {s : State} : Frame [.evt, .cnt, .host] s (evtCiWrite v s) := by
  unfold evtCiWrite
  extract_lets -merge v1
  clear_value v1
  refine Frame.comp State.evtDrain_frame (by decide) ?_
  refine Frame.comp (M := [.evt]) (t := s) (fun b hb => ?_) (by decide) ?_
  · cases b with | evt => exact absurd (by decide) hb | _ => rfl
  · exact Frame.refl

theorem cntCtlWrite_frame {v : Word} {s : State} : Frame [.cnt] s (cntCtlWrite v s) := by
  unfold cntCtlWrite
  extract_lets -merge v1 v2 v3
  refine Frame.cut v2 (by
    unfold v2
    refine Frame.ite (fun _ => ?_) (fun _ => ?_)
    · refine Frame.comp (M := [.cnt]) (t := s) (fun b hb => ?_) (by decide) ?_
      · cases b with | cnt => exact absurd (by decide) hb | _ => rfl
      · exact Frame.refl
    · exact Frame.refl) fun h4 => ?_
  clear_value v1 v2 v3
  refine Frame.ite (fun _ => ?_) (fun _ => ?_)
  · refine Frame.comp (M := [.cnt]) (t := v2) (fun b hb => ?_) (by decide) ?_
    · cases b with | cnt => exact absurd (by decide) hb | _ => rfl
    · assumption
  · assumption

theorem execArmSnap_frame {port : Nat} {value : Word} {s : State} {t : State} (h : execArmSnap port value s = .next t) : Frame [.cnt] s t := by
  unfold execArmSnap at h
  have h := Host.Outcome.next.inj h
  subst h
  refine Frame.ite (fun _ => ?_) (fun _ => ?_)
  · refine Frame.comp cntCtlWrite_frame (by decide) ?_
    exact Frame.refl
  · exact Frame.refl

theorem execClearAll_frame {port : Nat} {value : Word} {s : State} {t : State} (h : execClearAll port value s = .next t) : Frame [.cnt] s t := by
  unfold execClearAll at h
  have h := Host.Outcome.next.inj h
  subst h
  refine Frame.ite (fun _ => ?_) (fun _ => ?_)
  · refine Frame.comp cntCtlWrite_frame (by decide) ?_
    exact Frame.refl
  · exact Frame.refl

theorem counterSelWrite_frame {n : Nat} {v : Word} {s : State} : Frame [.cnt] s (counterSelWrite n v s) := by
  unfold counterSelWrite
  extract_lets -merge v1 v2 v3
  clear_value v1 v2 v3
  refine Frame.comp (M := [.cnt]) (t := s) (fun b hb => ?_) (by decide) ?_
  · cases b with | cnt => exact absurd (by decide) hb | _ => rfl
  · exact Frame.refl

theorem execCounterSourceWrite_frame {port counter : Nat} {value : Word} {s : State} {t : State} (h : execCounterSourceWrite port counter value s = .next t) : Frame [.cnt] s t := by
  unfold execCounterSourceWrite at h
  have h := Host.Outcome.next.inj h
  subst h
  refine Frame.ite (fun _ => ?_) (fun _ => ?_)
  · refine Frame.comp counterSelWrite_frame (by decide) ?_
    exact Frame.refl
  · exact Frame.refl

theorem execCounterLoRead_frame {port counter : Nat} {s : State} {t : State} (h : execCounterLoRead port counter s = .next t) : Frame [.cnt] s t := by
  unfold execCounterLoRead at h
  have h := Host.Outcome.next.inj h
  subst h
  refine Frame.ite (fun _ => ?_) (fun _ => ?_)
  · extract_lets -merge v1 v2
    clear_value v1 v2
    refine Frame.comp (M := [.cnt]) (t := s) (fun b hb => ?_) (by decide) ?_
    · cases b with | cnt => exact absurd (by decide) hb | _ => rfl
    · exact Frame.refl
  · exact Frame.refl

theorem cntTick_frame {s : State} : Frame [.cnt] s (cntTick s) := by
  unfold cntTick
  extract_lets -merge v1 v2 v3
  clear_value v1 v2 v3
  refine Frame.comp (M := [.cnt]) (t := s) (fun b hb => ?_) (by decide) ?_
  · cases b with | cnt => exact absurd (by decide) hb | _ => rfl
  · exact Frame.refl

end Sys2Proof.Machine
end

