-- ==== Sys2Proof/Laws/FrameRings.lean ====
section
/-! SUPPORT. Frames: which blocks each operation may change, for rings, admission, jobs, residency and sessions. -/

namespace Sys2Proof.Machine

open Sys2Proof

theorem State.setSession_frame {s : State} {n : Nat} {x : Session} : Frame [.sessions] s (State.setSession s n x) := by
  unfold State.setSession
  refine Frame.comp (M := [.sessions]) (t := s) (fun b hb => ?_) (by decide) ?_
  · cases b with | sessions => exact absurd (by decide) hb | _ => rfl
  · exact Frame.refl

theorem State.setStream_frame {s : State} {x : Stream} : Frame [.streams] s (State.setStream s x) := by
  unfold State.setStream
  refine Frame.comp (M := [.streams]) (t := s) (fun b hb => ?_) (by decide) ?_
  · cases b with | streams => exact absurd (by decide) hb | _ => rfl
  · exact Frame.refl

theorem State.setModel_frame {s : State} {x : Model} : Frame [.models] s (State.setModel s x) := by
  unfold State.setModel
  refine Frame.comp (M := [.models]) (t := s) (fun b hb => ?_) (by decide) ?_
  · cases b with | models => exact absurd (by decide) hb | _ => rfl
  · exact Frame.refl

theorem State.setJob_frame {s : State} {x : Job} : Frame [.jobs] s (State.setJob s x) := by
  unfold State.setJob
  refine Frame.comp (M := [.jobs]) (t := s) (fun b hb => ?_) (by decide) ?_
  · cases b with | jobs => exact absurd (by decide) hb | _ => rfl
  · exact Frame.refl

theorem State.setDir_frame {s : State} {n d : Nat} {x : Direction} : Frame [.lines] s (State.setDir s n d x) := by
  unfold State.setDir
  extract_lets -merge v1
  clear_value v1
  refine Frame.comp (M := [.lines]) (t := s) (fun b hb => ?_) (by decide) ?_
  · cases b with | lines => exact absurd (by decide) hb | _ => rfl
  · exact Frame.refl

theorem validate_frame {s : State} {ring : Nat} {d : Desc} {r : State × Option (Nat × Nat)} (h : validate s ring d = r) : Frame [.proof, .mbx] s r.1 := by
  subst h
  unfold validate
  split
  · refine Frame.fst ?_
    exact Frame.refl
  · extract_lets -merge v1
    refine Frame.cut v1 (by
      unfold v1
      refine Frame.ite (fun _ => ?_) (fun _ => ?_)
      · refine Frame.comp lockPolicy_frame (by decide) ?_
        exact Frame.refl
      · exact Frame.refl) fun h2 => ?_
    clear_value v1
    refine Frame.fst ?_
    assumption

theorem State.tally_frame {s : State} {sess : Nat} {a b : List Nat} : Frame [.tallies] s (State.tally s sess a b) := by
  unfold State.tally
  extract_lets -merge v1
  clear_value v1
  refine Frame.comp (M := [.tallies]) (t := s) (fun b hb => ?_) (by decide) ?_
  · cases b with | tallies => exact absurd (by decide) hb | _ => rfl
  · exact Frame.refl

theorem State.charge_frame {s : State} {sess : Nat} {job : Option Nat} {d : Account} : Frame [.sessions, .jobs, .tallies] s (State.charge s sess job d) := by
  unfold State.charge
  extract_lets -merge v1
  refine Frame.cut v1 (by
    unfold v1
    split
    · refine Frame.comp State.setJob_frame (by decide) ?_
      exact Frame.refl
    · exact Frame.refl) fun h2 => ?_
  clear_value v1
  split
  · refine Frame.comp State.tally_frame (by decide) ?_
    refine Frame.comp State.setSession_frame (by decide) ?_
    assumption
  · assumption

theorem writeAcct_frame {sess : Nat} {rc : List Byte} {s : State} : Frame [.sessions, .cnt, .host] s (writeAcct sess rc s) := by
  unfold writeAcct
  split
  · exact Frame.refl
  · extract_lets -merge v1 v2 v3
    refine Frame.cut v2 (by
      unfold v2
      refine Frame.comp State.ringWrite_frame (by decide) ?_
      exact Frame.refl) fun h4 => ?_
    refine Frame.cut v3 (by
      unfold v3
      refine Frame.comp State.ringWrite_frame (by decide) ?_
      assumption) fun h5 => ?_
    clear_value v1 v2 v3
    refine Frame.comp State.setSession_frame (by decide) ?_
    assumption

theorem writeJobRecord_frame {kind : Nat} {faulted : Bool} {j : Job} {s : State} : Frame [.sessions, .jobs, .cnt, .host] s (writeJobRecord kind faulted j s) := by
  unfold writeJobRecord
  extract_lets -merge v1 v2
  refine Frame.cut v2 (by
    unfold v2
    refine Frame.comp writeAcct_frame (by decide) ?_
    exact Frame.refl) fun h3 => ?_
  clear_value v1 v2
  split
  · refine Frame.comp State.setJob_frame (by decide) ?_
    assumption
  · assumption

theorem writeSessionRecord_frame {kind sess : Nat} {s : State} : Frame [.sessions, .cnt, .host] s (writeSessionRecord kind sess s) := by
  unfold writeSessionRecord
  split
  · exact Frame.refl
  · extract_lets -merge v1
    refine Frame.cut v1 (by
      unfold v1
      refine Frame.comp writeAcct_frame (by decide) ?_
      exact Frame.refl) fun h2 => ?_
    clear_value v1
    split
    · refine Frame.comp State.setSession_frame (by decide) ?_
      assumption
    · assumption

theorem State.issueHost_frame {s : State} {ring seq : Nat} {due : Int} : Frame [.rmk] s (State.issueHost s ring seq due) := by
  unfold State.issueHost
  refine Frame.comp State.modDesc_frame (by decide) ?_
  exact Frame.refl

theorem State.setPairs_frame {s : State} {m : List Byte} {pairs : Tab (Tab Nat)} {cores : List Nat} : Frame [.hatch] s (State.setPairs s m pairs cores) := by
  unfold State.setPairs
  refine Frame.foldl ?_ (fun t1 a2 h3 => ?_)
  · exact Frame.refl
  · refine Frame.comp State.setCore_frame (by decide) ?_
    assumption

theorem State.joinCores_frame {s : State} {id : Nat} {cores : List Nat} : Frame [.hatch] s (State.joinCores s id cores) := by
  unfold State.joinCores
  refine Frame.foldl ?_ (fun t1 a2 h3 => ?_)
  · exact Frame.refl
  · extract_lets -merge v4
    clear_value v4
    refine Frame.comp State.setCore_frame (by decide) ?_
    assumption

theorem State.bindCores_frame {s : State} {id : Nat} {m : List Byte} {pairs : Tab (Tab Nat)} {cores : List Nat} : Frame [.hatch] s (State.bindCores s id m pairs cores) := by
  unfold State.bindCores
  refine Frame.comp State.setPairs_frame (by decide) ?_
  refine Frame.comp State.joinCores_frame (by decide) ?_
  exact Frame.refl

theorem State.requestFrost_frame {s : State} {id : Nat} : Frame [.jobs] s (State.requestFrost s id) := by
  unfold State.requestFrost
  split
  · refine Frame.ite (fun _ => ?_) (fun _ => ?_)
    · refine Frame.ite (fun _ => ?_) (fun _ => ?_)
      · refine Frame.comp State.setJob_frame (by decide) ?_
        exact Frame.refl
      · refine Frame.comp State.setJob_frame (by decide) ?_
        exact Frame.refl
    · refine Frame.ite (fun _ => ?_) (fun _ => ?_)
      · refine Frame.comp State.setJob_frame (by decide) ?_
        exact Frame.refl
      · exact Frame.refl
  · exact Frame.refl

theorem State.nextFrost_frame {s : State} : Frame [.jobs] s (State.nextFrost s) := by
  unfold State.nextFrost
  split
  · refine Frame.comp State.requestFrost_frame (by decide) ?_
    exact Frame.refl
  · exact Frame.refl

theorem State.bindUnit_frame {s : State} {x : Stream} {u : Nat} : Frame [.streams, .burin] s (State.bindUnit s x u) := by
  unfold State.bindUnit
  extract_lets -merge v1 v2 v3
  clear_value v1 v2 v3
  split
  · exact Frame.refl
  · refine Frame.comp State.setStream_frame (by decide) ?_
    refine Frame.comp State.setUnit_frame (by decide) ?_
    exact Frame.refl

theorem State.freeUnit_frame {s : State} {x : Stream} : Frame [.burin] s (State.freeUnit s x) := by
  unfold State.freeUnit
  extract_lets -merge v1 v2 v3 v4
  clear_value v1 v2 v3 v4
  refine Frame.ite (fun _ => ?_) (fun _ => ?_)
  · exact Frame.refl
  · refine Frame.comp State.setUnit_frame (by decide) ?_
    exact Frame.refl

theorem State.newJob_frame {s : State} {kind : JobKind} {a : Ask} {m : List Byte} {maxCores : Nat} {seed : DWord} {key : Word} {cores : List Nat} {extents : Nat} {r : State × Nat} (h : State.newJob s kind a m maxCores seed key cores extents = r) : Frame [.mem, .jobs, .hatch] s r.1 := by
  subst h
  unfold State.newJob
  extract_lets -merge v1 v2 v3 v4 v5 v6 v7
  refine Frame.cut v7 (by
    unfold v7
    refine Frame.comp (M := [.mem]) (t := s) (fun b hb => ?_) (by decide) ?_
    · cases b with | mem => exact absurd (by decide) hb | _ => rfl
    · exact Frame.refl) fun h8 => ?_
  clear_value v1 v2 v3 v4 v5 v6 v7
  refine Frame.fst ?_
  refine Frame.comp State.setJob_frame (by decide) ?_
  refine Frame.comp State.bindCores_frame (by decide) ?_
  assumption

theorem State.newFrosted_frame {s : State} {kind : JobKind} {a : Ask} {m : List Byte} {maxCores extents : Nat} {r : State × Nat} (h : State.newFrosted s kind a m maxCores extents = r) : Frame [.mem, .jobs, .hatch] s r.1 := by
  subst h
  unfold State.newFrosted
  extract_lets -merge v1
  refine Frame.cut v1.1 (by
    unfold v1
    refine Frame.comp (State.newJob_frame rfl) (by decide) ?_
    exact Frame.refl) fun h2 => ?_
  clear_value v1
  split
  · rename_i y3 y4 y5
    refine Frame.fst ?_
    refine Frame.comp State.setJob_frame (by decide) ?_
    assumption
  · rename_i y6 y7
    assumption

theorem State.joinRow_frame {s : State} {m : List Byte} {id : Nat} {x : Stream} : Frame [.jobs] s (State.joinRow s m id x) := by
  unfold State.joinRow
  split
  · extract_lets -merge v1
    clear_value v1
    refine Frame.comp State.setJob_frame (by decide) ?_
    exact Frame.refl
  · exact Frame.refl

theorem State.commitFill_frame {s : State} {a : Ask} {m : List Byte} {maxCores : Nat} {p : Place} {x : Stream} : Frame [.mem, .streams, .jobs, .hatch] s (State.commitFill s a m maxCores p x) := by
  unfold State.commitFill
  extract_lets -merge v1 v2
  refine Frame.cut v1.1 (by
    unfold v1
    split
    · refine Frame.fst ?_
      exact Frame.refl
    · refine Frame.comp (State.newFrosted_frame rfl) (by decide) ?_
      exact Frame.refl) fun h3 => ?_
  clear_value v1 v2
  refine Frame.comp State.joinRow_frame (by decide) ?_
  refine Frame.comp State.setStream_frame (by decide) ?_
  assumption

theorem State.commitLive_frame {s : State} {a : Ask} {m : List Byte} {maxCores : Nat} {p : Place} {x : Stream} : Frame [.mem, .streams, .jobs, .hatch, .burin] s (State.commitLive s a m maxCores p x) := by
  unfold State.commitLive
  extract_lets -merge v1 v2 v3 v4
  refine Frame.cut v1.1 (by
    unfold v1
    split
    · extract_lets -merge v6 v7
      clear_value v6 v7
      refine Frame.fst ?_
      refine Frame.comp State.setJob_frame (by decide) ?_
      refine Frame.comp State.joinCores_frame (by decide) ?_
      exact Frame.refl
    · refine Frame.comp (State.newJob_frame rfl) (by decide) ?_
      exact Frame.refl) fun h5 => ?_
  refine Frame.cut v2 (by
    unfold v2
    assumption) fun h8 => ?_
  clear_value v1 v2 v3 v4
  refine Frame.comp State.joinRow_frame (by decide) ?_
  refine Frame.comp State.bindUnit_frame (by decide) ?_
  refine Frame.comp State.setStream_frame (by decide) ?_
  assumption

theorem State.commitPlace_frame {s : State} {a : Ask} {p : Place} {x : Stream} : Frame [.mem, .streams, .jobs, .hatch, .burin] s (State.commitPlace s a p x) := by
  unfold State.commitPlace
  split
  · exact Frame.refl
  · extract_lets -merge v1
    clear_value v1
    refine Frame.ite (fun _ => ?_) (fun _ => ?_)
    · refine Frame.comp State.commitFill_frame (by decide) ?_
      exact Frame.refl
    · refine Frame.comp State.commitLive_frame (by decide) ?_
      exact Frame.refl

theorem State.clearPlace_frame {s : State} {p : Place} : Frame [.jobs] s (State.clearPlace s p) := by
  unfold State.clearPlace
  refine Frame.foldl ?_ (fun t1 a2 h3 => ?_)
  · exact Frame.refl
  · refine Frame.comp State.requestFrost_frame (by decide) ?_
    assumption

theorem execAudioPull_frame {ring seq : Nat} {s : State} {t : State} (h : execAudioPull ring seq s = .next t) : Frame [.rmk] s t := by
  unfold execAudioPull at h
  have h := Host.Outcome.next.inj h
  subst h
  split
  · exact Frame.refl
  · split
    · exact Frame.refl
    · refine Frame.ite (fun _ => ?_) (fun _ => ?_)
      · refine Frame.comp State.modDesc_frame (by decide) ?_
        exact Frame.refl
      · exact Frame.refl

theorem finishPull_frame {ring : Nat} {d : Desc} {x : Stream} {status aflags : Nat} {s : State} : Frame [.rmk, .sessions, .streams, .jobs, .cnt, .tallies, .host] s (finishPull ring d x status aflags s) := by
  unfold finishPull
  extract_lets -merge v1 v2 v3 v4 v5 v6 v7 v8 v9 v10
  refine Frame.cut v7 (by
    unfold v7
    refine Frame.comp State.ringWrite_frame (by decide) ?_
    exact Frame.refl) fun h11 => ?_
  refine Frame.cut v9 (by
    unfold v9
    refine Frame.comp State.charge_frame (by decide) ?_
    assumption) fun h12 => ?_
  refine Frame.cut v10 (by
    unfold v10
    split
    · refine Frame.comp State.setStream_frame (by decide) ?_
      assumption
    · assumption) fun h13 => ?_
  clear_value v1 v2 v3 v4 v5 v6 v7 v8 v9 v10
  refine Frame.comp State.complete_frame (by decide) ?_
  assumption

theorem State.movePiece_frame {s : State} {x : Stream} {d : Desc} {n : Nat} : Frame [.rmk, .sessions, .streams, .jobs, .cnt, .tallies, .host] s (State.movePiece s x d n) := by
  unfold State.movePiece
  extract_lets -merge v1 v2 v3 v4 v5 v6
  refine Frame.cut v6 (by
    unfold v6
    refine Frame.comp State.setStream_frame (by decide) ?_
    refine Frame.comp State.bump_frame (by decide) ?_
    refine Frame.comp State.charge_frame (by decide) ?_
    refine Frame.comp State.ringWrite_frame (by decide) ?_
    exact Frame.refl) fun h7 => ?_
  clear_value v1 v2 v3 v4 v5 v6
  refine Frame.comp State.modDesc_frame (by decide) ?_
  assumption

theorem deliverPieces_frame {stream fuel left : Nat} {s : State} :
    Frame [.rmk, .sessions, .streams, .jobs, .cnt, .tallies, .host] s (deliverPieces stream fuel left s) := by
  induction fuel generalizing left s with
  | zero => exact Frame.refl
  | succ fuel ih =>
    unfold deliverPieces
    split
    · exact Frame.refl
    · split
      · exact Frame.refl
      · extract_lets n
        split
        · exact Frame.refl
        · exact Frame.comp ih (List.Subset.refl _) (Frame.comp State.movePiece_frame (by decide) Frame.refl)

theorem endAborted_frame {stream fuel : Nat} {s : State} :
    Frame [.rmk, .sessions, .streams, .jobs, .cnt, .tallies, .host] s (endAborted stream fuel s) := by
  induction fuel generalizing s with
  | zero => exact Frame.refl
  | succ fuel ih =>
    unfold endAborted
    split
    · exact Frame.refl
    · split
      · exact Frame.refl
      · split
        · exact Frame.comp ih (List.Subset.refl _) (Frame.comp finishPull_frame (by decide) Frame.refl)
        · exact Frame.refl

theorem endPull_frame {stream : Nat} {s : State} : Frame [.rmk, .sessions, .streams, .jobs, .cnt, .tallies, .host] s (endPull stream s) := by
  unfold endPull
  split
  · exact Frame.refl
  · split
    · exact Frame.refl
    · refine Frame.ite (fun _ => ?_) (fun _ => ?_)
      · exact Frame.refl
      · refine Frame.ite (fun _ => ?_) (fun _ => ?_)
        · refine Frame.comp finishPull_frame (by decide) ?_
          exact Frame.refl
        · refine Frame.comp endAborted_frame (by decide) ?_
          refine Frame.comp finishPull_frame (by decide) ?_
          exact Frame.refl

theorem execAudioDelivery_frame {stream samples : Nat} {s : State} {t : State} (h : execAudioDelivery stream samples s = .next t) : Frame [.rmk, .sessions, .streams, .jobs, .cnt, .tallies, .host] s t := by
  unfold execAudioDelivery at h
  have h := Host.Outcome.next.inj h
  subst h
  split
  · exact Frame.refl
  · split
    · exact Frame.refl
    · extract_lets -merge v1
      clear_value v1
      refine Frame.ite (fun _ => ?_) (fun _ => ?_)
      · exact Frame.refl
      · refine Frame.comp endPull_frame (by decide) ?_
        refine Frame.comp deliverPieces_frame (by decide) ?_
        exact Frame.refl

theorem State.releaseCores_frame {s : State} {j : Job} {cores : List Nat} : Frame [.hatch] s (State.releaseCores s j cores) := by
  unfold State.releaseCores
  refine Frame.foldl ?_ (fun t1 a2 h3 => ?_)
  · exact Frame.refl
  · extract_lets -merge v4 v5 v6
    refine Frame.cut v5 (by
      unfold v5
      refine Frame.comp State.setCore_frame (by decide) ?_
      assumption) fun h7 => ?_
    clear_value v4 v5 v6
    refine Frame.comp (M := [.hatch]) (t := v5) (fun b hb => ?_) (by decide) ?_
    · cases b with | hatch => exact absurd (by decide) hb | _ => rfl
    · assumption

theorem State.freeExtents_frame {s : State} {owner : Nat} : Frame [.mem, .dram] s (State.freeExtents s owner) := by
  unfold State.freeExtents
  extract_lets -merge v1 v2
  clear_value v1 v2
  refine Frame.comp (M := [.mem, .dram]) (t := s) (fun b hb => ?_) (by decide) ?_
  · cases b with | mem => exact absurd (by decide) hb | dram => exact absurd (by decide) hb | _ => rfl
  · exact Frame.refl

theorem State.dropTransfers_frame {s : State} {id : Nat} : Frame [.mem] s (State.dropTransfers s id) := by
  unfold State.dropTransfers
  extract_lets -merge v1
  clear_value v1
  refine Frame.comp (M := [.mem]) (t := s) (fun b hb => ?_) (by decide) ?_
  · cases b with | mem => exact absurd (by decide) hb | _ => rfl
  · exact Frame.refl

theorem State.zeroSet_frame {s : State} {m : Model} : Frame [.hatch] s (State.zeroSet s m) := by
  unfold State.zeroSet
  extract_lets -merge v1
  clear_value v1
  refine Frame.comp (M := [.hatch]) (t := s) (fun b hb => ?_) (by decide) ?_
  · cases b with | hatch => exact absurd (by decide) hb | _ => rfl
  · exact Frame.refl

theorem State.dropCtx_frame {s : State} {id u : Nat} : Frame [.burin] s (State.dropCtx s id u) := by
  unfold State.dropCtx
  extract_lets -merge v1
  clear_value v1
  refine Frame.comp State.setUnit_frame (by decide) ?_
  exact Frame.refl

theorem State.dropPlace_frame {s : State} {id : Nat} : Frame [.hatch, .burin, .rebind] s (State.dropPlace s id) := by
  unfold State.dropPlace
  split
  · refine Frame.ite (fun _ => ?_) (fun _ => ?_)
    · exact Frame.refl
    · extract_lets -merge v1 v2 v3 v4
      refine Frame.cut v2 (by
        unfold v2
        refine Frame.foldl ?_ (fun t6 a7 h8 => ?_)
        · exact Frame.refl
        · refine Frame.comp State.dropCtx_frame (by decide) ?_
          assumption) fun h5 => ?_
      refine Frame.cut v3 (by
        unfold v3
        refine Frame.comp State.releaseCores_frame (by decide) ?_
        assumption) fun h9 => ?_
      clear_value v1 v2 v3 v4
      refine Frame.comp (M := [.rebind]) (t := v3) (fun b hb => ?_) (by decide) ?_
      · cases b with | rebind => exact absurd (by decide) hb | _ => rfl
      · assumption
  · exact Frame.refl

theorem State.endJob_frame {s : State} {id : Nat} {faulted : Bool} : Frame [.mem, .dram, .sessions, .models, .streams, .jobs, .hatch, .burin, .lines, .cnt, .rebind, .host] s (State.endJob s id faulted) := by
  unfold State.endJob
  split
  · exact Frame.refl
  · extract_lets -merge v1 v2 v3 v4 v5 v6 v7
    refine Frame.cut v1 (by
      unfold v1
      refine Frame.comp State.freeExtents_frame (by decide) ?_
      refine Frame.comp State.releaseCores_frame (by decide) ?_
      refine Frame.comp State.dropPlace_frame (by decide) ?_
      refine Frame.comp State.dropTransfers_frame (by decide) ?_
      exact Frame.refl) fun h8 => ?_
    refine Frame.cut v2 (by
      unfold v2
      refine Frame.foldl ?_ (fun t10 a11 h12 => ?_)
      · assumption
      · refine Frame.comp State.zeroSet_frame (by decide) ?_
        assumption) fun h9 => ?_
    refine Frame.cut v6 (by
      unfold v6
      refine Frame.comp (M := [.mem, .models, .streams, .lines]) (t := v2) (fun b hb => ?_) (by decide) ?_
      · cases b with | mem => exact absurd (by decide) hb | models => exact absurd (by decide) hb | streams => exact absurd (by decide) hb | lines => exact absurd (by decide) hb | _ => rfl
      · assumption) fun h13 => ?_
    refine Frame.cut v7 (by
      unfold v7
      refine Frame.comp writeJobRecord_frame (by decide) ?_
      assumption) fun h14 => ?_
    clear_value v1 v2 v3 v4 v5 v6 v7
    refine Frame.comp State.nextFrost_frame (by decide) ?_
    refine Frame.comp (M := [.jobs]) (t := v7) (fun b hb => ?_) (by decide) ?_
    · cases b with | jobs => exact absurd (by decide) hb | _ => rfl
    · assumption

theorem State.freeSlot_frame {s : State} {x : Stream} : Frame [.lines] s (State.freeSlot s x) := by
  unfold State.freeSlot
  refine Frame.ite (fun _ => ?_) (fun _ => ?_)
  · extract_lets -merge v1
    clear_value v1
    refine Frame.ite (fun _ => ?_) (fun _ => ?_)
    · refine Frame.comp State.setDir_frame (by decide) ?_
      exact Frame.refl
    · exact Frame.refl
  · exact Frame.refl

theorem State.leaveJob_frame {s : State} {x : Stream} : Frame [.mem, .dram, .sessions, .models, .streams, .jobs, .hatch, .burin, .lines, .cnt, .rebind, .host] s (State.leaveJob s x) := by
  unfold State.leaveJob
  split
  · exact Frame.refl
  · extract_lets -merge v1 v2
    refine Frame.cut v2 (by
      unfold v2
      refine Frame.comp State.setJob_frame (by decide) ?_
      exact Frame.refl) fun h3 => ?_
    clear_value v1 v2
    refine Frame.ite (fun _ => ?_) (fun _ => ?_)
    · refine Frame.comp State.endJob_frame (by decide) ?_
      assumption
    · assumption

theorem State.haltUnit_frame {s : State} {x : Stream} : Frame [.burin] s (State.haltUnit s x) := by
  unfold State.haltUnit
  extract_lets -merge v1
  clear_value v1
  refine Frame.ite (fun _ => ?_) (fun _ => ?_)
  · exact Frame.refl
  · refine Frame.comp State.setUnit_frame (by decide) ?_
    exact Frame.refl

theorem State.releaseStream_frame {s : State} {x : Stream} : Frame [.mem, .dram, .sessions, .models, .streams, .jobs, .hatch, .burin, .lines, .cnt, .rebind, .host] s (State.releaseStream s x) := by
  unfold State.releaseStream
  refine Frame.comp State.leaveJob_frame (by decide) ?_
  refine Frame.comp State.freeSlot_frame (by decide) ?_
  refine Frame.comp State.freeUnit_frame (by decide) ?_
  exact Frame.refl

theorem State.eraseStream_frame {s : State} {id : Nat} : Frame [.streams] s (State.eraseStream s id) := by
  unfold State.eraseStream
  refine Frame.comp (M := [.streams]) (t := s) (fun b hb => ?_) (by decide) ?_
  · cases b with | streams => exact absurd (by decide) hb | _ => rfl
  · exact Frame.refl

theorem State.setIhxPort_frame {s : State} {p : Nat} {x : IhxPort} : Frame [.ihx] s (State.setIhxPort s p x) := by
  unfold State.setIhxPort
  extract_lets -merge v1
  clear_value v1
  refine Frame.comp (M := [.ihx]) (t := s) (fun b hb => ?_) (by decide) ?_
  · cases b with | ihx => exact absurd (by decide) hb | _ => rfl
  · exact Frame.refl

theorem State.send_frame {s : State} {port kind : Nat} {body : List Nat} {bytes : List Byte} : Frame [.ihx] s (State.send s port kind body bytes) := by
  unfold State.send
  extract_lets -merge v1 v2 v3 v4
  clear_value v1 v2 v3 v4
  refine Frame.ite (fun _ => ?_) (fun _ => ?_)
  · exact Frame.refl
  · refine Frame.ite (fun _ => ?_) (fun _ => ?_)
    · refine Frame.comp (M := [.ihx]) (t := s) (fun b hb => ?_) (by decide) ?_
      · cases b with | ihx => exact absurd (by decide) hb | _ => rfl
      · exact Frame.refl
    · refine Frame.comp (M := [.ihx]) (t := s) (fun b hb => ?_) (by decide) ?_
      · cases b with | ihx => exact absurd (by decide) hb | _ => rfl
      · exact Frame.refl

theorem State.freeCredits_frame {s : State} {t : Transfer} : Frame [.ihx] s (State.freeCredits s t) := by
  unfold State.freeCredits
  refine Frame.ite (fun _ => ?_) (fun _ => ?_)
  · extract_lets -merge v1 v2
    clear_value v1 v2
    refine Frame.ite (fun _ => ?_) (fun _ => ?_)
    · refine Frame.comp State.setIhxPort_frame (by decide) ?_
      exact Frame.refl
    · exact Frame.refl
  · exact Frame.refl

theorem State.dropTransfer_frame {s : State} {id : DWord} : Frame [.ihx] s (State.dropTransfer s id) := by
  unfold State.dropTransfer
  split
  · exact Frame.refl
  · extract_lets -merge v1 v2
    refine Frame.cut v1 (by
      unfold v1
      refine Frame.comp State.freeCredits_frame (by decide) ?_
      exact Frame.refl) fun h3 => ?_
    clear_value v1 v2
    refine Frame.comp (M := [.ihx]) (t := v1) (fun b hb => ?_) (by decide) ?_
    · cases b with | ihx => exact absurd (by decide) hb | _ => rfl
    · assumption

theorem State.sendRead_frame {s : State} {j : Job} {tag age off len : Nat} : Frame [.ihx] s (State.sendRead s j tag age off len) := by
  unfold State.sendRead
  extract_lets -merge v1 v2 v3
  clear_value v1 v2 v3
  refine Frame.comp State.send_frame (by decide) ?_
  refine Frame.comp State.setIhxPort_frame (by decide) ?_
  exact Frame.refl

theorem failTransfer_frame {t : Transfer} {detail : Nat} {s : State} : Frame [.rmk, .streams, .ihx, .cnt] s (failTransfer t detail s) := by
  unfold failTransfer
  extract_lets -merge v1 v2
  refine Frame.cut v1 (by
    unfold v1
    split
    · refine Frame.comp State.complete_frame (by decide) ?_
      exact Frame.refl
    · exact Frame.refl) fun h3 => ?_
  refine Frame.cut v2 (by
    unfold v2
    split
    · refine Frame.ite (fun _ => ?_) (fun _ => ?_)
      · refine Frame.comp State.setStream_frame (by decide) ?_
        assumption
      · assumption
    · assumption) fun h4 => ?_
  clear_value v1 v2
  refine Frame.comp State.bump_frame (by decide) ?_
  refine Frame.comp State.send_frame (by decide) ?_
  refine Frame.comp State.dropTransfer_frame (by decide) ?_
  assumption

theorem faultDesc_frame {x : Stream} {s : State} {d : Desc} : Frame [.rmk, .sessions, .streams, .jobs, .ihx, .cnt, .tallies, .host] s (faultDesc x s d) := by
  unfold faultDesc
  split
  · refine Frame.comp finishPull_frame (by decide) ?_
    exact Frame.refl
  · refine Frame.comp State.complete_frame (by decide) ?_
    exact Frame.refl
  · refine Frame.comp State.complete_frame (by decide) ?_
    exact Frame.refl
  · split
    · refine Frame.comp failTransfer_frame (by decide) ?_
      exact Frame.refl
    · refine Frame.comp State.complete_frame (by decide) ?_
      exact Frame.refl
  · refine Frame.comp State.complete_frame (by decide) ?_
    exact Frame.refl

theorem State.endFaulted_frame {s : State} {id : Nat} : Frame [.rmk, .sessions, .streams, .jobs, .lines, .ihx, .cnt, .tallies, .host] s (State.endFaulted s id) := by
  unfold State.endFaulted
  split
  · refine Frame.ite (fun _ => ?_) (fun _ => ?_)
    · refine Frame.comp State.eraseStream_frame (by decide) ?_
      refine Frame.comp State.freeSlot_frame (by decide) ?_
      refine Frame.foldl ?_ (fun t1 a2 h3 => ?_)
      · exact Frame.refl
      · refine Frame.comp faultDesc_frame (by decide) ?_
        assumption
    · exact Frame.refl
  · exact Frame.refl

theorem State.faultStream_frame {s : State} {x : Stream} : Frame [.rmk, .sessions, .streams, .jobs, .burin, .lines, .ihx, .cnt, .tallies, .host] s (State.faultStream s x) := by
  unfold State.faultStream
  extract_lets -merge v1 v2 v3 v4
  refine Frame.cut v1 (by
    unfold v1
    split
    · refine Frame.comp failTransfer_frame (by decide) ?_
      exact Frame.refl
    · exact Frame.refl) fun h5 => ?_
  refine Frame.cut v3 (by
    unfold v3
    refine Frame.comp State.freeUnit_frame (by decide) ?_
    refine Frame.foldl ?_ (fun t7 a8 h9 => ?_)
    · assumption
    · refine Frame.comp faultDesc_frame (by decide) ?_
      assumption) fun h6 => ?_
  clear_value v1 v2 v3 v4
  refine Frame.comp State.endFaulted_frame (by decide) ?_
  refine Frame.comp State.setStream_frame (by decide) ?_
  assumption

theorem State.markRestart_frame {s : State} {x : Stream} : Frame [.rmk] s (State.markRestart s x) := by
  unfold State.markRestart
  extract_lets -merge v1 v2
  clear_value v1 v2
  refine Frame.comp State.setRing_frame (by decide) ?_
  exact Frame.refl

theorem State.awaitRestart_frame {s : State} {x : Stream} : Frame [.rmk, .streams, .burin] s (State.awaitRestart s x) := by
  unfold State.awaitRestart
  extract_lets -merge v1 v2 v3 v4
  refine Frame.cut v1 (by
    unfold v1
    refine Frame.comp State.haltUnit_frame (by decide) ?_
    exact Frame.refl) fun h5 => ?_
  clear_value v1 v2 v3 v4
  refine Frame.comp State.markRestart_frame (by decide) ?_
  refine Frame.comp State.setStream_frame (by decide) ?_
  assumption

theorem faultRow_frame {s : State} {x : Stream} : Frame [.rmk, .sessions, .streams, .jobs, .burin, .lines, .ihx, .cnt, .tallies, .host] s (faultRow s x) := by
  unfold faultRow
  refine Frame.ite (fun _ => ?_) (fun _ => ?_)
  · split
    · refine Frame.comp State.awaitRestart_frame (by decide) ?_
      refine Frame.comp failTransfer_frame (by decide) ?_
      exact Frame.refl
    · refine Frame.comp State.awaitRestart_frame (by decide) ?_
      exact Frame.refl
  · refine Frame.comp State.faultStream_frame (by decide) ?_
    exact Frame.refl

theorem State.completeAdapt_frame {s : State} {j : Job} {status detail : Nat} : Frame [.rmk, .ihx] s (State.completeAdapt s j status detail) := by
  unfold State.completeAdapt
  split
  · split
    · refine Frame.comp State.complete_frame (by decide) ?_
      exact Frame.refl
    · exact Frame.refl
  · refine Frame.comp State.send_frame (by decide) ?_
    exact Frame.refl
  · exact Frame.refl

theorem State.tearDownWith_frame {s : State} {id rule status detail : Nat} : Frame [.mem, .dram, .rmk, .sessions, .models, .streams, .jobs, .hatch, .burin, .lines, .ihx, .evt, .cnt, .rebind, .tallies, .host] s (State.tearDownWith s id rule status detail) := by
  unfold State.tearDownWith
  split
  · exact Frame.refl
  · extract_lets -merge v1 v2 v3 v4
    refine Frame.cut v1 (by
      unfold v1
      refine Frame.comp State.dropTransfers_frame (by decide) ?_
      exact Frame.refl) fun h5 => ?_
    refine Frame.cut v2 (by
      unfold v2
      refine Frame.foldl ?_ (fun t7 a8 h9 => ?_)
      · assumption
      · extract_lets -merge v10
        clear_value v10
        refine Frame.ite (fun _ => ?_) (fun _ => ?_)
        · refine Frame.comp State.setCore_frame (by decide) ?_
          assumption
        · assumption) fun h6 => ?_
    refine Frame.cut v3 (by
      unfold v3
      refine Frame.foldl ?_ (fun t12 a13 h14 => ?_)
      · assumption
      · refine Frame.comp faultRow_frame (by decide) ?_
        assumption) fun h11 => ?_
    refine Frame.cut v4 (by
      unfold v4
      refine Frame.comp State.endJob_frame (by decide) ?_
      refine Frame.comp State.completeAdapt_frame (by decide) ?_
      assumption) fun h15 => ?_
    clear_value v1 v2 v3 v4
    refine Frame.comp State.writeLog_frame (by decide) ?_
    refine Frame.comp State.bump_frame (by decide) ?_
    assumption

theorem State.tearDown_frame {s : State} {id rule : Nat} : Frame [.mem, .dram, .rmk, .sessions, .models, .streams, .jobs, .hatch, .burin, .lines, .ihx, .evt, .cnt, .rebind, .tallies, .host] s (State.tearDown s id rule) := by
  unfold State.tearDown
  refine Frame.comp State.tearDownWith_frame (by decide) ?_
  exact Frame.refl

theorem execJobTearDown_frame {job rule : Nat} {s : State} {t : State} (h : execJobTearDown job rule s = .next t) : Frame [.mem, .dram, .rmk, .sessions, .models, .streams, .jobs, .hatch, .burin, .lines, .ihx, .evt, .cnt, .rebind, .tallies, .host] s t := by
  unfold execJobTearDown at h
  have h := Host.Outcome.next.inj h
  subst h
  refine Frame.comp State.tearDown_frame (by decide) ?_
  exact Frame.refl

theorem State.startPromotion_frame {s t : State} {m : Model} (h : s.startPromotion m = some t) :
    Frame [.mem, .models, .jobs, .hatch] s t := by
  unfold State.startPromotion at h
  split at h
  · cases h
  · split at h
    · cases h
    · extract_lets n s1 at h
      refine Frame.of_some h (Frame.comp State.setModel_frame (by decide) (Frame.foldl ?_ fun t a k => ?_))
      · exact Frame.comp (State.newFrosted_frame rfl) (by decide) Frame.refl
      · exact Frame.comp State.requestFrost_frame (by decide) k

theorem State.without_frame {s : State} {ms : List Model} {n : Nat} : Frame [.models] s (State.without s ms n) := by
  unfold State.without
  refine Frame.foldl ?_ (fun t1 a2 h3 => ?_)
  · exact Frame.refl
  · refine Frame.comp State.setModel_frame (by decide) ?_
    assumption

theorem State.leaveSet_frame {s : State} {m : Model} : Frame [.models] s (State.leaveSet s m) := by
  unfold State.leaveSet
  refine Frame.comp State.setModel_frame (by decide) ?_
  exact Frame.refl

theorem State.makeRoom_frame {s : State} {m : Model} : Frame [.models] s (State.makeRoom s m) := by
  unfold State.makeRoom
  refine Frame.foldl ?_ (fun t1 a2 h3 => ?_)
  · exact Frame.refl
  · refine Frame.comp State.leaveSet_frame (by decide) ?_
    assumption

theorem State.promote_frame {s : State} {m : Model} : Frame [.mem, .models, .jobs, .hatch] s (State.promote s m) := by
  unfold State.promote
  refine Frame.ite (fun _ => ?_) (fun _ => ?_)
  · refine Frame.getD (fun t1 o2 => ?_) ?_
    · refine Frame.comp (State.startPromotion_frame o2) (by decide) ?_
      exact Frame.refl
    · refine Frame.comp State.makeRoom_frame (by decide) ?_
      exact Frame.refl
  · exact Frame.refl

theorem execDemotion_frame {handle : Nat} {s : State} {t : State} (h : execDemotion handle s = .next t) : Frame [.models] s t := by
  unfold execDemotion at h
  have h := Host.Outcome.next.inj h
  subst h
  split
  · exact Frame.refl
  · extract_lets -merge v1 v2
    clear_value v1 v2
    split
    · refine Frame.ite (fun _ => ?_) (fun _ => ?_)
      · refine Frame.comp State.leaveSet_frame (by decide) ?_
        exact Frame.refl
      · exact Frame.refl
    · exact Frame.refl

theorem writeReceipt_frame {sess kind handle : Nat} {hash digest : List Byte} {s : State} : Frame [.sessions, .cnt, .host] s (writeReceipt sess kind handle hash digest s) := by
  unfold writeReceipt
  split
  · exact Frame.refl
  · extract_lets -merge v1 v2
    clear_value v1 v2
    refine Frame.comp State.setSession_frame (by decide) ?_
    refine Frame.comp State.ringWrite_frame (by decide) ?_
    exact Frame.refl

theorem finishLoad_frame {ring : Nat} {d : Desc} {m : Model} {s : State} : Frame [.rmk, .sessions, .cnt, .host] s (finishLoad ring d m s) := by
  unfold finishLoad
  extract_lets -merge v1
  refine Frame.cut v1 (by
    unfold v1
    refine Frame.comp writeReceipt_frame (by decide) ?_
    exact Frame.refl) fun h2 => ?_
  clear_value v1
  refine Frame.comp State.complete_frame (by decide) ?_
  assumption

theorem switchModel_frame {s : State} {m : Model} : Frame [.mem, .dram, .rmk, .sessions, .models, .streams, .jobs, .hatch, .burin, .lines, .cnt, .rebind, .host] s (switchModel s m) := by
  unfold switchModel
  split
  · extract_lets -merge v1
    refine Frame.cut v1 (by
      unfold v1
      refine Frame.comp State.endJob_frame (by decide) ?_
      refine Frame.comp State.setModel_frame (by decide) ?_
      exact Frame.refl) fun h2 => ?_
    clear_value v1
    refine Frame.foldl ?_ (fun t3 a4 h5 => ?_)
    · assumption
    · refine Frame.comp finishLoad_frame (by decide) ?_
      assumption
  · refine Frame.ite (fun _ => ?_) (fun _ => ?_)
    · refine Frame.comp State.setModel_frame (by decide) ?_
      exact Frame.refl
    · refine Frame.comp State.setModel_frame (by decide) ?_
      refine Frame.comp State.zeroSet_frame (by decide) ?_
      exact Frame.refl
  · extract_lets -merge v6 v7
    clear_value v6 v7
    refine Frame.ite (fun _ => ?_) (fun _ => ?_)
    · exact Frame.refl
    · refine Frame.foldl ?_ (fun t8 a9 h10 => ?_)
      · refine Frame.comp State.setModel_frame (by decide) ?_
        exact Frame.refl
      · refine Frame.comp finishLoad_frame (by decide) ?_
        assumption
  · exact Frame.refl

theorem residencyTick_frame {s : State} : Frame [.mem, .dram, .rmk, .sessions, .models, .streams, .jobs, .hatch, .burin, .lines, .cnt, .rebind, .host] s (residencyTick s) := by
  unfold residencyTick
  extract_lets -merge v1 v2
  refine Frame.cut v2 (by
    unfold v2
    refine Frame.comp (M := [.mem]) (t := s) (fun b hb => ?_) (by decide) ?_
    · cases b with | mem => exact absurd (by decide) hb | _ => rfl
    · exact Frame.refl) fun h3 => ?_
  clear_value v1 v2
  refine Frame.foldl ?_ (fun t4 a5 h6 => ?_)
  · assumption
  · refine Frame.comp switchModel_frame (by decide) ?_
    assumption

theorem State.stopPromotion_frame {s : State} {m : Model} : Frame [.mem, .dram, .rmk, .sessions, .models, .streams, .jobs, .hatch, .burin, .lines, .ihx, .evt, .cnt, .rebind, .tallies, .host] s (State.stopPromotion s m) := by
  unfold State.stopPromotion
  split
  · refine Frame.comp State.tearDown_frame (by decide) ?_
    exact Frame.refl
  · refine Frame.comp State.tearDown_frame (by decide) ?_
    exact Frame.refl
  · exact Frame.refl

theorem kickRing_frame {n : Nat} {s : State} : Frame [.rmk] s (kickRing n s) := by
  unfold kickRing
  extract_lets -merge v1 v2
  clear_value v1 v2
  refine Frame.ite (fun _ => ?_) (fun _ => ?_)
  · refine Frame.comp (M := [.rmk]) (t := s) (fun b hb => ?_) (by decide) ?_
    · cases b with | rmk => exact absurd (by decide) hb | _ => rfl
    · exact Frame.refl
  · refine Frame.ite (fun _ => ?_) (fun _ => ?_)
    · refine Frame.comp State.setRing_frame (by decide) ?_
      exact Frame.refl
    · refine Frame.comp State.setRing_frame (by decide) ?_
      exact Frame.refl

theorem execKick_frame {port : Nat} {value : Word} {s : State} {t : State} (h : execKick port value s = .next t) : Frame [.rmk] s t := by
  unfold execKick at h
  have h := Host.Outcome.next.inj h
  subst h
  refine Frame.ite (fun _ => ?_) (fun _ => ?_)
  · refine Frame.comp kickRing_frame (by decide) ?_
    exact Frame.refl
  · exact Frame.refl

theorem State.notify_frame {s : State} {n : Nat} : Frame [.rmk, .cnt, .host] s (State.notify s n) := by
  unfold State.notify
  extract_lets -merge v1
  clear_value v1
  refine Frame.ite (fun _ => ?_) (fun _ => ?_)
  · refine Frame.comp State.bump_frame (by decide) ?_
    refine Frame.comp State.sendMsix_frame (by decide) ?_
    refine Frame.comp State.setRing_frame (by decide) ?_
    exact Frame.refl
  · exact Frame.refl

theorem execMsixNotify_frame {ring : Nat} {holdElapsed : Bool} {s : State} {t : State} (h : execMsixNotify ring holdElapsed s = .next t) : Frame [.rmk, .cnt, .host] s t := by
  unfold execMsixNotify at h
  have h := Host.Outcome.next.inj h
  subst h
  extract_lets -merge v1
  clear_value v1
  refine Frame.ite (fun _ => ?_) (fun _ => ?_)
  · refine Frame.comp State.notify_frame (by decide) ?_
    exact Frame.refl
  · exact Frame.refl

theorem freePcm_frame {ring : Nat} {s : State} {rc : CqRecord} : Frame [.streams] s (freePcm ring s rc) := by
  unfold freePcm
  split
  · exact Frame.refl
  · extract_lets -merge v1
    clear_value v1
    refine Frame.comp (M := [.streams]) (t := s) (fun b hb => ?_) (by decide) ?_
    · cases b with | streams => exact absurd (by decide) hb | _ => rfl
    · exact Frame.refl

theorem takeDoorbell_frame {n : Nat} {sqPi cqCi : Half} {hflags : Word} {s : State} : Frame [.rmk, .streams] s (takeDoorbell n sqPi cqCi hflags s) := by
  unfold takeDoorbell
  extract_lets -merge v1 v2 v3 v4
  refine Frame.cut v4 (by
    unfold v4
    refine Frame.comp State.setRing_frame (by decide) ?_
    exact Frame.refl) fun h5 => ?_
  clear_value v1 v2 v3 v4
  refine Frame.foldl ?_ (fun t6 a7 h8 => ?_)
  · assumption
  · refine Frame.comp freePcm_frame (by decide) ?_
    assumption

theorem overrunCheck_frame {n : Nat} {s : State} : Frame [.rmk] s (overrunCheck n s) := by
  unfold overrunCheck
  extract_lets -merge v1
  clear_value v1
  refine Frame.ite (fun _ => ?_) (fun _ => ?_)
  · refine Frame.comp State.hold_frame (by decide) ?_
    refine Frame.comp State.setRing_frame (by decide) ?_
    exact Frame.refl
  · exact Frame.refl

theorem readEntry_frame {port : Nat} {s : State} : Frame [.cnt] s (readEntry port s) := by
  unfold readEntry
  refine Frame.comp State.bump_frame (by decide) ?_
  refine Frame.comp State.bump_frame (by decide) ?_
  exact Frame.refl

theorem execDoorbellRead_frame {ring : Nat} {sqPi cqCi : Half} {hflags : Word} {s : State} {t : State} (h : execDoorbellRead ring sqPi cqCi hflags s = .next t) : Frame [.rmk, .streams, .cnt, .host] s t := by
  unfold execDoorbellRead at h
  have h := Host.Outcome.next.inj h
  subst h
  extract_lets -merge v1 v2
  refine Frame.cut v2 (by
    unfold v2
    refine Frame.comp readEntry_frame (by decide) ?_
    refine Frame.comp State.setRing_frame (by decide) ?_
    exact Frame.refl) fun h3 => ?_
  clear_value v1 v2
  refine Frame.ite (fun _ => ?_) (fun _ => ?_)
  · refine Frame.comp State.notify_frame (by decide) ?_
    refine Frame.comp overrunCheck_frame (by decide) ?_
    refine Frame.comp takeDoorbell_frame (by decide) ?_
    assumption
  · exact Frame.refl

theorem onAccept_frame {n : Nat} {d : Desc} {s : State} {r : State × Desc} (h : onAccept n d s = r) : Frame [.sessions, .streams, .lines] s r.1 := by
  subst h
  unfold onAccept
  split
  · refine Frame.fst ?_
    exact Frame.refl
  · extract_lets -merge v1
    clear_value v1
    split
    · refine Frame.fst ?_
      refine Frame.comp State.setDir_frame (by decide) ?_
      exact Frame.refl
    · refine Frame.fst ?_
      exact Frame.refl
  · split
    · refine Frame.fst ?_
      refine Frame.comp State.setStream_frame (by decide) ?_
      exact Frame.refl
    · refine Frame.fst ?_
      exact Frame.refl
  · split
    · refine Frame.fst ?_
      refine Frame.comp State.setStream_frame (by decide) ?_
      exact Frame.refl
    · refine Frame.fst ?_
      exact Frame.refl
  · split
    · refine Frame.fst ?_
      refine Frame.comp State.setSession_frame (by decide) ?_
      exact Frame.refl
    · refine Frame.fst ?_
      exact Frame.refl
  · split
    · refine Frame.fst ?_
      refine Frame.comp State.setStream_frame (by decide) ?_
      exact Frame.refl
    · refine Frame.fst ?_
      exact Frame.refl
  · refine Frame.fst ?_
    exact Frame.refl

theorem acceptOne_frame {n : Nat} {s : State} : Frame [.rmk, .sessions, .streams, .lines, .proof, .mbx] s (acceptOne n s) := by
  unfold acceptOne
  extract_lets -merge v1
  clear_value v1
  split
  · exact Frame.refl
  · refine Frame.ite (fun _ => ?_) (fun _ => ?_)
    · exact Frame.refl
    · extract_lets -merge v2
      refine Frame.cut v2 (by
        unfold v2
        refine Frame.comp State.setRing_frame (by decide) ?_
        exact Frame.refl) fun h3 => ?_
      clear_value v2
      split
      · rename_i y4 y5 y6 y7 y8
        refine Frame.cut y5 (by
          refine Frame.comp (validate_frame y8) (by decide) ?_
          assumption) fun h9 => ?_
        refine Frame.comp State.hold_frame (by decide) ?_
        assumption
      · rename_i y10 y11 y12
        refine Frame.cut y11 (by
          refine Frame.comp (validate_frame y12) (by decide) ?_
          assumption) fun h13 => ?_
        split
        rename_i y14 y15 y16 y17
        refine Frame.cut y15 (by
          refine Frame.comp (onAccept_frame y17) (by decide) ?_
          assumption) fun h18 => ?_
        extract_lets -merge v19
        clear_value v19
        refine Frame.comp State.setRing_frame (by decide) ?_
        assumption

theorem pump_frame {n fuel : Nat} {s : State} : Frame [.rmk, .sessions, .streams, .lines, .proof, .mbx] s (pump n fuel s) := by
  induction fuel generalizing s with
  | zero => exact Frame.refl
  | succ fuel ih => exact Frame.comp ih (List.Subset.refl _) (Frame.comp acceptOne_frame (by decide) Frame.refl)

theorem State.pump_frame {s : State} {n : Nat} : Frame [.rmk, .sessions, .streams, .lines, .proof, .mbx] s (s.pump n) := Machine.pump_frame

theorem State.chargeDesc_frame {s : State} {ring : Nat} {d : Desc} : Frame [.sessions, .jobs, .tallies] s (State.chargeDesc s ring d) := by
  unfold State.chargeDesc
  extract_lets -merge v1 v2
  clear_value v1 v2
  refine Frame.comp State.charge_frame (by decide) ?_
  exact Frame.refl

theorem execDescriptorFetch_frame {ring : Nat} {slots : List (List Byte)} {s : State} {t : State} (h : execDescriptorFetch ring slots s = .next t) : Frame [.rmk, .sessions, .streams, .jobs, .lines, .proof, .mbx, .cnt, .tallies, .host] s t := by
  unfold execDescriptorFetch at h
  have h := Host.Outcome.next.inj h
  subst h
  extract_lets -merge v1 v2 v3 v4 v5 v6 v7 v8 v9
  refine Frame.cut v5 (by
    unfold v5
    refine Frame.comp State.setRing_frame (by decide) ?_
    exact Frame.refl) fun h10 => ?_
  refine Frame.cut v8 (by
    unfold v8
    refine Frame.comp (M := [.rmk]) (t := v5) (fun b hb => ?_) (by decide) ?_
    · cases b with | rmk => exact absurd (by decide) hb | _ => rfl
    · assumption) fun h11 => ?_
  refine Frame.cut v9 (by
    unfold v9
    refine Frame.foldl ?_ (fun t13 a14 h15 => ?_)
    · refine Frame.comp State.bump_frame (by decide) ?_
      refine Frame.comp State.bump_frame (by decide) ?_
      assumption
    · refine Frame.comp State.chargeDesc_frame (by decide) ?_
      assumption) fun h12 => ?_
  clear_value v1 v2 v3 v4 v5 v6 v7 v8 v9
  refine Frame.ite (fun _ => ?_) (fun _ => ?_)
  · refine Frame.comp State.mirror_frame (by decide) ?_
    refine Frame.comp State.pump_frame (by decide) ?_
    assumption
  · exact Frame.refl

theorem execNop_frame {ring seq : Nat} {s : State} {t : State} (h : execNop ring seq s = .next t) : Frame [.rmk] s t := by
  unfold execNop at h
  have h := Host.Outcome.next.inj h
  subst h
  split
  · refine Frame.ite (fun _ => ?_) (fun _ => ?_)
    · refine Frame.comp State.complete_frame (by decide) ?_
      exact Frame.refl
    · exact Frame.refl
  · exact Frame.refl

theorem execFence_frame {ring seq : Nat} {s : State} {t : State} (h : execFence ring seq s = .next t) : Frame [.rmk] s t := by
  unfold execFence at h
  have h := Host.Outcome.next.inj h
  subst h
  split
  · refine Frame.ite (fun _ => ?_) (fun _ => ?_)
    · refine Frame.comp State.complete_frame (by decide) ?_
      exact Frame.refl
    · exact Frame.refl
  · exact Frame.refl

theorem execCompletionWrite_frame {ring : Nat} {s : State} {t : State} (h : execCompletionWrite ring s = .next t) : Frame [.rmk, .sessions, .streams, .lines, .proof, .mbx, .cnt, .host] s t := by
  unfold execCompletionWrite at h
  have h := Host.Outcome.next.inj h
  subst h
  extract_lets -merge v1
  clear_value v1
  split
  · exact Frame.refl
  · refine Frame.ite (fun _ => ?_) (fun _ => ?_)
    · exact Frame.refl
    · extract_lets -merge v2 v3 v4 v5
      refine Frame.cut v3 (by
        unfold v3
        refine Frame.comp State.hostWrite_frame (by decide) ?_
        exact Frame.refl) fun h6 => ?_
      refine Frame.cut v4 (by
        unfold v4
        refine Frame.comp State.setRing_frame (by decide) ?_
        assumption) fun h7 => ?_
      refine Frame.cut v5 (by
        unfold v5
        refine Frame.comp State.bump_frame (by decide) ?_
        refine Frame.comp State.mirror_frame (by decide) ?_
        assumption) fun h8 => ?_
      clear_value v2 v3 v4 v5
      refine Frame.comp State.pump_frame (by decide) ?_
      refine Frame.ite (fun _ => ?_) (fun _ => ?_)
      · refine Frame.comp State.notify_frame (by decide) ?_
        assumption
      · assumption

theorem execCqStall_frame {ring : Nat} {s : State} {t : State} (h : execCqStall ring s = .next t) : Frame [.rmk, .evt, .cnt, .host] s t := by
  unfold execCqStall at h
  have h := Host.Outcome.next.inj h
  subst h
  extract_lets -merge v1
  clear_value v1
  split
  · exact Frame.refl
  · refine Frame.ite (fun _ => ?_) (fun _ => ?_)
    · refine Frame.comp State.raiseAlarm_frame (by decide) ?_
      refine Frame.comp State.setRing_frame (by decide) ?_
      exact Frame.refl
    · exact Frame.refl

theorem ringCfgWrite_frame {n : Nat} {v : Word} {s : State} : Frame [.rmk] s (ringCfgWrite n v s) := by
  unfold ringCfgWrite
  extract_lets -merge v1 v2
  clear_value v1 v2
  refine Frame.ite (fun _ => ?_) (fun _ => ?_)
  · refine Frame.ite (fun _ => ?_) (fun _ => ?_)
    · refine Frame.comp State.setRing_frame (by decide) ?_
      exact Frame.refl
    · exact Frame.refl
  · refine Frame.ite (fun _ => ?_) (fun _ => ?_)
    · refine Frame.comp State.setRing_frame (by decide) ?_
      exact Frame.refl
    · refine Frame.ite (fun _ => ?_) (fun _ => ?_)
      · refine Frame.comp State.setRing_frame (by decide) ?_
        exact Frame.refl
      · refine Frame.comp State.setRing_frame (by decide) ?_
        exact Frame.refl

theorem execRingEnable_frame {port ring : Nat} {value : Word} {s : State} {t : State} (h : execRingEnable port ring value s = .next t) : Frame [.rmk] s t := by
  unfold execRingEnable at h
  have h := Host.Outcome.next.inj h
  subst h
  refine Frame.ite (fun _ => ?_) (fun _ => ?_)
  · refine Frame.comp ringCfgWrite_frame (by decide) ?_
    exact Frame.refl
  · exact Frame.refl

theorem rewrite_frame {r : Ring} {l : List CqRecord} {i : Half} {s : State} : Frame [.cnt, .host] s (rewrite r l i s) := by
  induction l generalizing i s with
  | nil => exact Frame.refl
  | cons rc rest ih =>
    refine Frame.comp ih (List.Subset.refl _) (Frame.comp State.hostWrite_frame (by decide) ?_)
    exact Frame.foldl Frame.refl fun t a h => Frame.comp State.hostWrite_frame (by decide) h

theorem flushHeld_frame {n : Nat} {s : State} : Frame [.cnt, .host] s (flushHeld n s) := by
  unfold flushHeld
  extract_lets -merge v1 v2 v3
  refine Frame.cut v3 (by
    unfold v3
    refine Frame.comp (M := [.host]) (t := s) (fun b hb => ?_) (by decide) ?_
    · cases b with | host => exact absurd (by decide) hb | _ => rfl
    · exact Frame.refl) fun h4 => ?_
  clear_value v1 v2 v3
  refine Frame.foldl ?_ (fun t5 a6 h7 => ?_)
  · assumption
  · refine Frame.comp State.hostWrite_frame (by decide) ?_
    assumption

theorem State.refetch_frame {s : State} {n : Nat} : Frame [.rmk] s (State.refetch s n) := by
  unfold State.refetch
  extract_lets -merge v1 v2
  clear_value v1 v2
  refine Frame.comp State.setRing_frame (by decide) ?_
  exact Frame.refl

theorem resumeRing_frame {n : Nat} {sqPi cqCi : Half} {hflags : Word} {s : State} : Frame [.rmk, .streams, .cnt, .host] s (resumeRing n sqPi cqCi hflags s) := by
  unfold resumeRing
  extract_lets -merge v1 v2 v3 v4 v5
  refine Frame.cut v2 (by
    unfold v2
    refine Frame.comp takeDoorbell_frame (by decide) ?_
    refine Frame.comp readEntry_frame (by decide) ?_
    exact Frame.refl) fun h6 => ?_
  refine Frame.cut v4 (by
    unfold v4
    refine Frame.comp State.setRing_frame (by decide) ?_
    assumption) fun h7 => ?_
  clear_value v1 v2 v3 v4 v5
  refine Frame.ite (fun _ => ?_) (fun _ => ?_)
  · exact Frame.refl
  · refine Frame.ite (fun _ => ?_) (fun _ => ?_)
    · refine Frame.comp State.notify_frame (by decide) ?_
      refine Frame.comp overrunCheck_frame (by decide) ?_
      assumption
    · refine Frame.comp State.notify_frame (by decide) ?_
      refine Frame.comp State.refetch_frame (by decide) ?_
      refine Frame.comp State.mirror_frame (by decide) ?_
      refine Frame.comp flushHeld_frame (by decide) ?_
      refine Frame.comp rewrite_frame (by decide) ?_
      assumption

theorem execRingResume_frame {port ring : Nat} {value : Word} {sqPi cqCi : Half} {hflags : Word} {s : State} {t : State} (h : execRingResume port ring value sqPi cqCi hflags s = .next t) : Frame [.rmk, .streams, .cnt, .host] s t := by
  unfold execRingResume at h
  have h := Host.Outcome.next.inj h
  subst h
  refine Frame.ite (fun _ => ?_) (fun _ => ?_)
  · refine Frame.comp resumeRing_frame (by decide) ?_
    exact Frame.refl
  · exact Frame.refl

theorem stopRings_frame {p : Nat} {s : State} : Frame [.rmk, .evt, .cnt, .host] s (stopRings p s) := by
  unfold stopRings
  extract_lets -merge v1 v2
  clear_value v1 v2
  refine Frame.comp State.raiseAlarm_frame (by decide) ?_
  refine Frame.comp (M := [.rmk]) (t := s) (fun b hb => ?_) (by decide) ?_
  · cases b with | rmk => exact absurd (by decide) hb | _ => rfl
  · exact Frame.refl

theorem State.setPort_frame {s : State} {p : Nat} {x : Port} : Frame [.rmk] s (State.setPort s p x) := by
  unfold State.setPort
  extract_lets -merge v1 v2
  clear_value v1 v2
  refine Frame.comp (M := [.rmk]) (t := s) (fun b hb => ?_) (by decide) ?_
  · cases b with | rmk => exact absurd (by decide) hb | _ => rfl
  · exact Frame.refl

theorem openSession_frame {ring : Nat} {d : Desc} {q : List Byte} {s : State} {r : State × List Byte} (h : openSession ring d q s = r) : Frame [.sessions, .free] s r.1 := by
  subst h
  unfold openSession
  extract_lets -merge v1 v2 v3 v4 v5 v6 v7 v8 v9 v10
  clear_value v1 v2 v3 v4 v5 v6 v7 v8 v9 v10
  refine Frame.fst ?_
  refine Frame.comp State.setSession_frame (by decide) ?_
  refine Frame.comp (M := [.free]) (t := s) (fun b hb => ?_) (by decide) ?_
  · cases b with | free => exact absurd (by decide) hb | _ => rfl
  · exact Frame.refl

theorem State.setApart_frame {s : State} {ring : Nat} : Frame [.acct, .tallies] s (State.setApart s ring) := by
  unfold State.setApart
  split
  · refine Frame.ite (fun _ => ?_) (fun _ => ?_)
    · extract_lets -merge v1
      clear_value v1
      refine Frame.comp (M := [.acct, .tallies]) (t := s) (fun b hb => ?_) (by decide) ?_
      · cases b with | acct => exact absurd (by decide) hb | tallies => exact absurd (by decide) hb | _ => rfl
      · exact Frame.refl
    · exact Frame.refl
  · exact Frame.refl

theorem execSessionOpen_frame {ring seq : Nat} {request : List Byte} {s : State} {t : State} (h : execSessionOpen ring seq request s = .next t) : Frame [.rmk, .sessions, .jobs, .cnt, .acct, .tallies, .mseqOut, .almSent, .host, .free] s t := by
  unfold execSessionOpen at h
  have h := Host.Outcome.next.inj h
  subst h
  split
  · exact Frame.refl
  · refine Frame.ite (fun _ => ?_) (fun _ => ?_)
    · exact Frame.refl
    · extract_lets -merge v1 v2 v3 v4
      refine Frame.cut v3 (by
        unfold v3
        refine Frame.comp State.bump_frame (by decide) ?_
        exact Frame.refl) fun h5 => ?_
      clear_value v1 v2 v3 v4
      split
      · refine Frame.comp State.complete_frame (by decide) ?_
        assumption
      · split
        rename_i y6 y7 y8 y9
        refine Frame.cut y7 (by
          refine Frame.comp (openSession_frame y9) (by decide) ?_
          refine Frame.comp State.setApart_frame (by decide) ?_
          assumption) fun h10 => ?_
        extract_lets -merge v11 v12 v13 v14 v15 v16
        refine Frame.cut v11 (by
          unfold v11
          refine Frame.comp State.ringWrite_frame (by decide) ?_
          assumption) fun h17 => ?_
        refine Frame.cut v13 (by
          unfold v13
          refine Frame.comp State.setRing_frame (by decide) ?_
          assumption) fun h18 => ?_
        refine Frame.cut v15 (by
          unfold v15
          refine Frame.comp sendAlm_frame (by decide) ?_
          assumption) fun h19 => ?_
        refine Frame.cut v16 (by
          unfold v16
          refine Frame.comp State.charge_frame (by decide) ?_
          refine Frame.comp State.bump_frame (by decide) ?_
          assumption) fun h20 => ?_
        clear_value v11 v12 v13 v14 v15 v16
        refine Frame.comp State.complete_frame (by decide) ?_
        assumption

theorem State.evict_frame {s : State} {m : Model} : Frame [.mem, .dram, .rmk, .sessions, .models, .streams, .jobs, .hatch, .burin, .lines, .ihx, .evt, .cnt, .rebind, .tallies, .host] s (State.evict s m) := by
  unfold State.evict
  extract_lets -merge v1
  refine Frame.cut v1 (by
    unfold v1
    refine Frame.comp State.freeExtents_frame (by decide) ?_
    refine Frame.comp State.zeroSet_frame (by decide) ?_
    refine Frame.comp State.stopPromotion_frame (by decide) ?_
    exact Frame.refl) fun h2 => ?_
  clear_value v1
  refine Frame.comp (M := [.models]) (t := v1) (fun b hb => ?_) (by decide) ?_
  · cases b with | models => exact absurd (by decide) hb | _ => rfl
  · assumption

theorem execModelEvict_frame {ring seq : Nat} {s : State} {t : State} (h : execModelEvict ring seq s = .next t) : Frame [.mem, .dram, .rmk, .sessions, .models, .streams, .jobs, .hatch, .burin, .lines, .ihx, .evt, .cnt, .rebind, .tallies, .host] s t := by
  unfold execModelEvict at h
  have h := Host.Outcome.next.inj h
  subst h
  split
  · exact Frame.refl
  · refine Frame.ite (fun _ => ?_) (fun _ => ?_)
    · exact Frame.refl
    · split
      · refine Frame.comp State.complete_frame (by decide) ?_
        exact Frame.refl
      · refine Frame.ite (fun _ => ?_) (fun _ => ?_)
        · refine Frame.comp State.complete_frame (by decide) ?_
          exact Frame.refl
        · refine Frame.comp State.complete_frame (by decide) ?_
          refine Frame.comp State.evict_frame (by decide) ?_
          exact Frame.refl

theorem execSessionClose_frame {ring seq : Nat} {s : State} {t : State} (h : execSessionClose ring seq s = .next t) : Frame [.mem, .dram, .rmk, .sessions, .models, .streams, .jobs, .hatch, .burin, .lines, .ihx, .evt, .cnt, .rebind, .tallies, .host] s t := by
  unfold execSessionClose at h
  have h := Host.Outcome.next.inj h
  subst h
  split
  · exact Frame.refl
  · refine Frame.ite (fun _ => ?_) (fun _ => ?_)
    · exact Frame.refl
    · refine Frame.ite (fun _ => ?_) (fun _ => ?_)
      · refine Frame.comp State.complete_frame (by decide) ?_
        exact Frame.refl
      · extract_lets -merge v1 v2 v3 v4 v5 v6
        refine Frame.cut v1 (by
          unfold v1
          refine Frame.foldl ?_ (fun t8 a9 h10 => ?_)
          · exact Frame.refl
          · refine Frame.comp State.evict_frame (by decide) ?_
            assumption) fun h7 => ?_
        refine Frame.cut v2 (by
          unfold v2
          refine Frame.comp writeSessionRecord_frame (by decide) ?_
          assumption) fun h11 => ?_
        refine Frame.cut v3 (by
          unfold v3
          refine Frame.comp writeReceipt_frame (by decide) ?_
          assumption) fun h12 => ?_
        refine Frame.cut v5 (by
          unfold v5
          refine Frame.comp (M := [.sessions, .tallies]) (t := v3) (fun b hb => ?_) (by decide) ?_
          · cases b with | sessions => exact absurd (by decide) hb | tallies => exact absurd (by decide) hb | _ => rfl
          · assumption) fun h13 => ?_
        clear_value v1 v2 v3 v4 v5 v6
        refine Frame.comp State.complete_frame (by decide) ?_
        refine Frame.comp State.setRing_frame (by decide) ?_
        assumption

theorem State.addModel_frame {s : State} {sess cls : Nat} {image : List Byte} {r : State × Model}
    (h : s.addModel sess image cls = some r) : Frame [.mem, .models, .nextHandle] s r.1 := by
  unfold State.addModel at h
  split at h
  · rw [← Option.some.inj h]
    refine Frame.fst (Frame.comp State.setModel_frame (by decide) ?_)
    intro b hb
    cases b with
    | nextHandle => exact absurd (by decide) hb
    | mem => exact absurd (by decide) hb
    | _ => rfl
  · cases h

theorem State.loadClassed_frame {s : State} {ring : Nat} {d : Desc} {image : List Byte} {cls : Nat} : Frame [.mem, .rmk, .sessions, .models, .nextHandle, .jobs, .hatch, .cnt, .host] s (State.loadClassed s ring d image cls) := by
  unfold State.loadClassed
  extract_lets -merge v1 v2
  clear_value v1 v2
  split
  · rename_i y3 y4
    refine Frame.comp State.complete_frame (by decide) ?_
    exact Frame.refl
  · rename_i y5 y6 y7 y8
    refine Frame.cut y6 (by
      refine Frame.comp (State.addModel_frame y8) (by decide) ?_
      exact Frame.refl) fun h9 => ?_
    refine Frame.ite (fun _ => ?_) (fun _ => ?_)
    · split
      · rename_i y10 y11 y12
        refine Frame.cut y11 (by
          refine Frame.comp (State.startPromotion_frame y12) (by decide) ?_
          assumption) fun h13 => ?_
        refine Frame.comp State.modDesc_frame (by decide) ?_
        assumption
      · rename_i y14 y15
        refine Frame.comp finishLoad_frame (by decide) ?_
        refine Frame.comp State.setModel_frame (by decide) ?_
        assumption
    · refine Frame.comp finishLoad_frame (by decide) ?_
      assumption

theorem execModelLoad_frame {ring seq : Nat} {list image : List Byte} {s : State} {t : State} (h : execModelLoad ring seq list image s = .next t) : Frame [.mem, .rmk, .sessions, .models, .nextHandle, .jobs, .hatch, .cnt, .tallies, .host] s t := by
  unfold execModelLoad at h
  have h := Host.Outcome.next.inj h
  subst h
  split
  · exact Frame.refl
  · refine Frame.ite (fun _ => ?_) (fun _ => ?_)
    · exact Frame.refl
    · extract_lets -merge v1 v2 v3 v4 v5 v6 v7
      refine Frame.cut v4 (by
        unfold v4
        refine Frame.comp State.charge_frame (by decide) ?_
        refine Frame.comp State.bump_frame (by decide) ?_
        exact Frame.refl) fun h8 => ?_
      refine Frame.cut v7 (by
        unfold v7
        refine Frame.comp State.charge_frame (by decide) ?_
        refine Frame.comp State.bump_frame (by decide) ?_
        refine Frame.comp State.bump_frame (by decide) ?_
        assumption) fun h9 => ?_
      clear_value v1 v2 v3 v4 v5 v6 v7
      split
      · refine Frame.comp State.complete_frame (by decide) ?_
        assumption
      · split
        · refine Frame.comp State.complete_frame (by decide) ?_
          assumption
        · split
          · refine Frame.comp State.complete_frame (by decide) ?_
            refine Frame.comp State.bump_frame (by decide) ?_
            assumption
          · split
            · refine Frame.comp State.complete_frame (by decide) ?_
              assumption
            · refine Frame.comp State.loadClassed_frame (by decide) ?_
              assumption

end Sys2Proof.Machine
end

