-- ==== Sys2Proof/Laws/FrameStreams.lean ====
section
/-! SUPPORT. Frames: which blocks each operation may change, for streams, aborts, links, strokes, cores and repairs. -/

namespace Sys2Proof.Machine

open Sys2Proof

theorem State.dropSlot_frame {s : State} {d : Desc} : Frame [.lines] s (State.dropSlot s d) := by
  unfold State.dropSlot
  split
  · exact Frame.refl
  · extract_lets -merge v1
    clear_value v1
    refine Frame.comp State.setDir_frame (by decide) ?_
    exact Frame.refl

theorem State.openAt_frame {s : State} {ring : Nat} {a : Ask} {p : Place} {x : Stream} : Frame [.mem, .sessions, .models, .streams, .jobs, .hatch, .burin, .lines, .cnt] s (State.openAt s ring a p x) := by
  unfold State.openAt
  extract_lets -merge v1 v2 v3 v4
  refine Frame.cut v1 (by
    unfold v1
    split
    · refine Frame.comp State.setSession_frame (by decide) ?_
      exact Frame.refl
    · exact Frame.refl) fun h5 => ?_
  refine Frame.cut v2 (by
    unfold v2
    refine Frame.comp State.bump_frame (by decide) ?_
    refine Frame.comp State.commitPlace_frame (by decide) ?_
    assumption) fun h6 => ?_
  refine Frame.cut v3 (by
    unfold v3
    split
    · refine Frame.comp State.setModel_frame (by decide) ?_
      assumption
    · assumption) fun h7 => ?_
  clear_value v1 v2 v3 v4
  refine Frame.ite (fun _ => ?_) (fun _ => ?_)
  · refine Frame.comp State.setDir_frame (by decide) ?_
    assumption
  · assumption

theorem execStreamOpen_frame {ring seq : Nat} {s : State} {t : State} (h : execStreamOpen ring seq s = .next t) : Frame [.mem, .rmk, .sessions, .models, .streams, .jobs, .hatch, .burin, .lines, .evt, .cnt, .host] s t := by
  unfold execStreamOpen at h
  have h := Host.Outcome.next.inj h
  subst h
  split
  · exact Frame.refl
  · refine Frame.ite (fun _ => ?_) (fun _ => ?_)
    · exact Frame.refl
    · refine Frame.ite (fun _ => ?_) (fun _ => ?_)
      · refine Frame.comp State.modDesc_frame (by decide) ?_
        exact Frame.refl
      · refine Frame.ite (fun _ => ?_) (fun _ => ?_)
        · refine Frame.comp State.complete_frame (by decide) ?_
          refine Frame.comp State.dropSlot_frame (by decide) ?_
          exact Frame.refl
        · refine Frame.ite (fun _ => ?_) (fun _ => ?_)
          · refine Frame.comp State.complete_frame (by decide) ?_
            refine Frame.comp State.dropSlot_frame (by decide) ?_
            exact Frame.refl
          · extract_lets -merge v1 v2
            clear_value v1 v2
            split
            · extract_lets -merge v3
              clear_value v3
              refine Frame.comp State.complete_frame (by decide) ?_
              refine Frame.comp State.openAt_frame (by decide) ?_
              exact Frame.refl
            · refine Frame.comp State.complete_frame (by decide) ?_
              refine Frame.comp State.writeTrace_frame (by decide) ?_
              refine Frame.comp State.bump_frame (by decide) ?_
              refine Frame.comp State.dropSlot_frame (by decide) ?_
              exact Frame.refl
            · refine Frame.comp State.complete_frame (by decide) ?_
              refine Frame.comp State.dropSlot_frame (by decide) ?_
              exact Frame.refl

theorem execStreamCtrl_frame {ring seq : Nat} {s : State} {t : State} (h : execStreamCtrl ring seq s = .next t) : Frame [.rmk] s t := by
  unfold execStreamCtrl at h
  have h := Host.Outcome.next.inj h
  subst h
  split
  · refine Frame.ite (fun _ => ?_) (fun _ => ?_)
    · refine Frame.comp State.complete_frame (by decide) ?_
      exact Frame.refl
    · exact Frame.refl
  · exact Frame.refl

theorem execFeaturePush_frame {ring seq : Nat} {s : State} {t : State} (h : execFeaturePush ring seq s = .next t) : Frame [.rmk, .sessions, .jobs, .cnt, .tallies] s t := by
  unfold execFeaturePush at h
  have h := Host.Outcome.next.inj h
  subst h
  split
  · exact Frame.refl
  · split
    · exact Frame.refl
    · extract_lets -merge v1 v2
      clear_value v1 v2
      refine Frame.ite (fun _ => ?_) (fun _ => ?_)
      · refine Frame.comp State.charge_frame (by decide) ?_
        refine Frame.comp State.bump_frame (by decide) ?_
        refine Frame.comp State.issueHost_frame (by decide) ?_
        refine Frame.comp State.modDesc_frame (by decide) ?_
        exact Frame.refl
      · exact Frame.refl

theorem failPush_frame {ring : Nat} {d : Desc} {status detail : Nat} {s : State} : Frame [.rmk] s (failPush ring d status detail s) := by
  unfold failPush
  refine Frame.comp State.complete_frame (by decide) ?_
  exact Frame.refl

theorem execFeaturePacket_frame {ring seq : Nat} {bytes : List Byte} {s : State} {t : State} (h : execFeaturePacket ring seq bytes s = .next t) : Frame [.rmk, .streams, .cnt] s t := by
  unfold execFeaturePacket at h
  have h := Host.Outcome.next.inj h
  subst h
  split
  · exact Frame.refl
  · split
    · exact Frame.refl
    · refine Frame.ite (fun _ => ?_) (fun _ => ?_)
      · exact Frame.refl
      · extract_lets -merge v1 v2 v3
        refine Frame.cut v3 (by
          unfold v3
          refine Frame.comp State.bump_frame (by decide) ?_
          exact Frame.refl) fun h4 => ?_
        clear_value v1 v2 v3
        refine Frame.ite (fun _ => ?_) (fun _ => ?_)
        · refine Frame.comp failPush_frame (by decide) ?_
          exact Frame.refl
        · split
          · refine Frame.comp failPush_frame (by decide) ?_
            refine Frame.comp State.bump_frame (by decide) ?_
            assumption
          · extract_lets -merge v5 v6 v7 v8
            refine Frame.cut v8 (by
              unfold v8
              refine Frame.comp State.setStream_frame (by decide) ?_
              assumption) fun h9 => ?_
            clear_value v5 v6 v7 v8
            split
            · refine Frame.comp failPush_frame (by decide) ?_
              assumption
            · refine Frame.comp State.modDesc_frame (by decide) ?_
              refine Frame.comp State.issueHost_frame (by decide) ?_
              assumption

theorem execFeaturePushCommit_frame {ring seq : Nat} {s : State} {t : State} (h : execFeaturePushCommit ring seq s = .next t) : Frame [.rmk] s t := by
  unfold execFeaturePushCommit at h
  have h := Host.Outcome.next.inj h
  subst h
  split
  · exact Frame.refl
  · split
    · exact Frame.refl
    · refine Frame.ite (fun _ => ?_) (fun _ => ?_)
      · refine Frame.comp State.complete_frame (by decide) ?_
        exact Frame.refl
      · exact Frame.refl

theorem closePush_frame {ring : Nat} {s : State} {d : Desc} : Frame [.rmk] s (closePush ring s d) := by
  unfold closePush
  refine Frame.comp State.complete_frame (by decide) ?_
  exact Frame.refl

theorem execStreamClose_frame {ring seq : Nat} {s : State} {t : State} (h : execStreamClose ring seq s = .next t) : Frame [.mem, .dram, .rmk, .sessions, .models, .streams, .jobs, .hatch, .burin, .lines, .cnt, .rebind, .host] s t := by
  unfold execStreamClose at h
  have h := Host.Outcome.next.inj h
  subst h
  split
  · exact Frame.refl
  · split
    · exact Frame.refl
    · refine Frame.ite (fun _ => ?_) (fun _ => ?_)
      · extract_lets -merge v1 v2
        refine Frame.cut v1 (by
          unfold v1
          refine Frame.foldl ?_ (fun t4 a5 h6 => ?_)
          · exact Frame.refl
          · refine Frame.comp closePush_frame (by decide) ?_
            assumption) fun h3 => ?_
        refine Frame.cut v2 (by
          unfold v2
          split
          · refine Frame.comp State.setModel_frame (by decide) ?_
            assumption
          · assumption) fun h7 => ?_
        clear_value v1 v2
        refine Frame.comp State.complete_frame (by decide) ?_
        refine Frame.comp State.eraseStream_frame (by decide) ?_
        refine Frame.comp State.releaseStream_frame (by decide) ?_
        assumption
      · exact Frame.refl

theorem finishAbort_frame {ring : Nat} {d : Desc} {status : Nat} {s : State} : Frame [.rmk] s (finishAbort ring d status s) := by
  unfold finishAbort
  refine Frame.comp State.complete_frame (by decide) ?_
  exact Frame.refl

theorem State.dropArrival_frame {s : State} {t : Transfer} : Frame [.mem, .dram, .sessions, .models, .streams, .jobs, .hatch, .burin, .lines, .cnt, .rebind, .host] s (State.dropArrival s t) := by
  unfold State.dropArrival
  refine Frame.ite (fun _ => ?_) (fun _ => ?_)
  · exact Frame.refl
  · split
    · refine Frame.ite (fun _ => ?_) (fun _ => ?_)
      · refine Frame.comp State.eraseStream_frame (by decide) ?_
        refine Frame.comp State.releaseStream_frame (by decide) ?_
        exact Frame.refl
      · exact Frame.refl
    · exact Frame.refl

theorem abortTransfer_frame {ring : Nat} {d : Desc} {s : State} : Frame [.mem, .dram, .rmk, .sessions, .models, .streams, .jobs, .hatch, .burin, .lines, .ihx, .cnt, .rebind, .host] s (abortTransfer ring d s) := by
  unfold abortTransfer
  extract_lets -merge v1
  refine Frame.cut v1 (by
    unfold v1
    split
    · extract_lets -merge v3 v4
      refine Frame.cut v3 (by
        unfold v3
        refine Frame.comp State.dropTransfer_frame (by decide) ?_
        refine Frame.comp State.dropArrival_frame (by decide) ?_
        exact Frame.refl) fun h5 => ?_
      refine Frame.cut v4 (by
        unfold v4
        refine Frame.comp State.send_frame (by decide) ?_
        assumption) fun h6 => ?_
      clear_value v3 v4
      split
      · refine Frame.ite (fun _ => ?_) (fun _ => ?_)
        · refine Frame.comp State.setStream_frame (by decide) ?_
          assumption
        · assumption
      · assumption
    · split
      · refine Frame.ite (fun _ => ?_) (fun _ => ?_)
        · refine Frame.comp State.setStream_frame (by decide) ?_
          exact Frame.refl
        · exact Frame.refl
      · exact Frame.refl) fun h2 => ?_
  clear_value v1
  refine Frame.comp State.complete_frame (by decide) ?_
  assumption

theorem abortLoad_frame {ring : Nat} {d : Desc} {s : State} : Frame [.mem, .dram, .rmk, .sessions, .models, .streams, .jobs, .hatch, .burin, .lines, .ihx, .evt, .cnt, .rebind, .tallies, .host] s (abortLoad ring d s) := by
  unfold abortLoad
  refine Frame.ite (fun _ => ?_) (fun _ => ?_)
  · extract_lets -merge v1
    refine Frame.cut v1 (by
      unfold v1
      split
      · refine Frame.comp State.evict_frame (by decide) ?_
        exact Frame.refl
      · exact Frame.refl) fun h2 => ?_
    clear_value v1
    refine Frame.comp State.complete_frame (by decide) ?_
    assumption
  · refine Frame.comp State.complete_frame (by decide) ?_
    exact Frame.refl

theorem abortAdapt_frame {ring : Nat} {d : Desc} {s : State} : Frame [.mem, .dram, .rmk, .sessions, .models, .streams, .jobs, .hatch, .burin, .lines, .cnt, .rebind, .host] s (abortAdapt ring d s) := by
  unfold abortAdapt
  split
  · refine Frame.comp State.complete_frame (by decide) ?_
    refine Frame.comp State.endJob_frame (by decide) ?_
    exact Frame.refl
  · refine Frame.comp State.complete_frame (by decide) ?_
    exact Frame.refl

theorem abortPull_frame {ring : Nat} {t : Desc} {s : State} : Frame [.rmk, .sessions, .streams, .jobs, .cnt, .tallies, .host] s (abortPull ring t s) := by
  unfold abortPull
  split
  · refine Frame.comp endAborted_frame (by decide) ?_
    refine Frame.comp State.modDesc_frame (by decide) ?_
    exact Frame.refl
  · refine Frame.comp State.complete_frame (by decide) ?_
    exact Frame.refl

theorem abortPush_frame {ring : Nat} {t : Desc} {s : State} : Frame [.rmk] s (abortPush ring t s) := by
  unfold abortPush
  extract_lets -merge v1
  clear_value v1
  refine Frame.ite (fun _ => ?_) (fun _ => ?_)
  · refine Frame.comp State.complete_frame (by decide) ?_
    exact Frame.refl
  · refine Frame.comp State.modDesc_frame (by decide) ?_
    exact Frame.refl

theorem stopTarget_frame {ring : Nat} {t : Desc} {s : State} : Frame [.mem, .dram, .rmk, .sessions, .models, .streams, .jobs, .hatch, .burin, .lines, .ihx, .evt, .cnt, .rebind, .tallies, .host] s (stopTarget ring t s) := by
  unfold stopTarget
  split
  · refine Frame.comp abortPush_frame (by decide) ?_
    exact Frame.refl
  · refine Frame.comp abortPull_frame (by decide) ?_
    exact Frame.refl
  · refine Frame.comp abortLoad_frame (by decide) ?_
    exact Frame.refl
  · refine Frame.comp State.complete_frame (by decide) ?_
    refine Frame.comp State.dropSlot_frame (by decide) ?_
    exact Frame.refl
  · refine Frame.comp abortAdapt_frame (by decide) ?_
    exact Frame.refl
  · refine Frame.comp abortTransfer_frame (by decide) ?_
    exact Frame.refl
  · refine Frame.comp abortTransfer_frame (by decide) ?_
    exact Frame.refl
  · refine Frame.comp State.complete_frame (by decide) ?_
    exact Frame.refl

theorem observeAbort_frame {ring : Nat} {d : Desc} {s : State} : Frame [.mem, .dram, .rmk, .sessions, .models, .streams, .jobs, .hatch, .burin, .lines, .ihx, .evt, .cnt, .rebind, .tallies, .host] s (observeAbort ring d s) := by
  unfold observeAbort
  extract_lets -merge v1
  have h_v1 : ∀ x2 x3 x4, Frame [.mem, .dram, .rmk, .sessions, .models, .streams, .jobs, .hatch, .burin, .lines, .ihx, .evt, .cnt, .rebind, .tallies, .host] s x4 → Frame [.mem, .dram, .rmk, .sessions, .models, .streams, .jobs, .hatch, .burin, .lines, .ihx, .evt, .cnt, .rebind, .tallies, .host] s (v1 x2 x3 x4) := by
    intro x2 x3 x4 h5
    unfold v1
    refine Frame.comp State.modDesc_frame (by decide) ?_
    assumption
  clear_value v1
  split
  · refine Frame.comp finishAbort_frame (by decide) ?_
    exact Frame.refl
  · refine Frame.ite (fun _ => ?_) (fun _ => ?_)
    · refine Frame.comp finishAbort_frame (by decide) ?_
      exact Frame.refl
    · refine Frame.ite (fun _ => ?_) (fun _ => ?_)
      · refine Frame.comp finishAbort_frame (by decide) ?_
        exact Frame.refl
      · split
        · refine Frame.comp finishAbort_frame (by decide) ?_
          exact Frame.refl
        · refine Frame.ite (fun _ => ?_) (fun _ => ?_)
          · refine h_v1 _ _ _ ?_
            exact Frame.refl
          · extract_lets -merge v6
            refine Frame.cut v6 (by
              unfold v6
              refine Frame.comp stopTarget_frame (by decide) ?_
              exact Frame.refl) fun h7 => ?_
            clear_value v6
            refine Frame.ite (fun _ => ?_) (fun _ => ?_)
            · refine Frame.comp finishAbort_frame (by decide) ?_
              assumption
            · refine h_v1 _ _ _ ?_
              assumption

theorem execAbort_frame {ring seq : Nat} {s : State} {t : State} (h : execAbort ring seq s = .next t) : Frame [.mem, .dram, .rmk, .sessions, .models, .streams, .jobs, .hatch, .burin, .lines, .ihx, .evt, .cnt, .rebind, .tallies, .host] s t := by
  unfold execAbort at h
  have h := Host.Outcome.next.inj h
  subst h
  split
  · exact Frame.refl
  · refine Frame.ite (fun _ => ?_) (fun _ => ?_)
    · exact Frame.refl
    · refine Frame.ite (fun _ => ?_) (fun _ => ?_)
      · refine Frame.comp observeAbort_frame (by decide) ?_
        exact Frame.refl
      · refine Frame.ite (fun _ => ?_) (fun _ => ?_)
        · refine Frame.comp finishAbort_frame (by decide) ?_
          exact Frame.refl
        · exact Frame.refl

theorem updateHostPath_frame {port : Nat} {s : State} : Frame [.cap, .evt, .cnt, .host] s (updateHostPath port s) := by
  unfold updateHostPath
  refine Frame.ite (fun _ => ?_) (fun _ => Frame.refl)
  have h : Frame [.cap, .evt, .cnt, .host] s { s with cap := { s.cap with hostPath := s.hostPath } } := by
    intro b hb
    cases b with
    | cap => exact absurd (by decide) hb
    | _ => rfl
  dsimp only
  split
  · exact h
  · exact Frame.comp State.raiseAlarm_frame (by decide) h

theorem execRamokLinkTrain_frame {port lanes gen : Nat} {adapterReset : Bool} {s : State} {t : State} (h : execRamokLinkTrain port lanes gen adapterReset s = .next t) : Frame [.cap, .rmk, .evt, .cnt, .host] s t := by
  unfold execRamokLinkTrain at h
  have h := Host.Outcome.next.inj h
  subst h
  refine Frame.ite (fun _ => ?_) (fun _ => ?_)
  · exact Frame.refl
  · refine Frame.ite (fun _ => ?_) (fun _ => ?_)
    · extract_lets -merge v1
      clear_value v1
      refine Frame.comp updateHostPath_frame (by decide) ?_
      refine Frame.comp State.setPort_frame (by decide) ?_
      exact Frame.refl
    · refine Frame.ite (fun _ => ?_) (fun _ => ?_)
      · exact Frame.refl
      · extract_lets -merge v2 v3 v4 v5
        refine Frame.cut v4 (by
          unfold v4
          refine Frame.comp State.setPort_frame (by decide) ?_
          exact Frame.refl) fun h6 => ?_
        refine Frame.cut v5 (by
          unfold v5
          refine Frame.ite (fun _ => ?_) (fun _ => ?_)
          · refine Frame.comp stopRings_frame (by decide) ?_
            assumption
          · assumption) fun h7 => ?_
        clear_value v2 v3 v4 v5
        refine Frame.comp updateHostPath_frame (by decide) ?_
        assumption

theorem execRamokLinkLost_frame {port : Nat} {s : State} {t : State} (h : execRamokLinkLost port s = .next t) : Frame [.cap, .rmk, .evt, .cnt, .host] s t := by
  unfold execRamokLinkLost at h
  have h := Host.Outcome.next.inj h
  subst h
  extract_lets -merge v1
  clear_value v1
  refine Frame.ite (fun _ => ?_) (fun _ => ?_)
  · refine Frame.comp updateHostPath_frame (by decide) ?_
    refine Frame.comp stopRings_frame (by decide) ?_
    refine Frame.comp State.setPort_frame (by decide) ?_
    exact Frame.refl
  · exact Frame.refl

theorem State.modRow_frame {s : State} {j : Job} {row : Nat} {f : Stream → Stream} : Frame [.streams] s (State.modRow s j row f) := by
  unfold State.modRow
  split
  · refine Frame.comp (M := [.streams]) (t := s) (fun b hb => ?_) (by decide) ?_
    · cases b with | streams => exact absurd (by decide) hb | _ => rfl
    · exact Frame.refl
  · exact Frame.refl

theorem State.freeSlots_frame {s : State} {job core : Nat} : Frame [.hatch] s (State.freeSlots s job core) := by
  unfold State.freeSlots
  extract_lets -merge v1 v2 v3
  refine Frame.cut v2 (by
    unfold v2
    refine Frame.comp State.setCore_frame (by decide) ?_
    exact Frame.refl) fun h4 => ?_
  clear_value v1 v2 v3
  refine Frame.comp (M := [.hatch]) (t := v2) (fun b hb => ?_) (by decide) ?_
  · cases b with | hatch => exact absurd (by decide) hb | _ => rfl
  · assumption

theorem State.applyEffect_frame {s : State} {j : Job} {core now : Nat} {e : Effect} : Frame [.streams, .hatch, .cnt] s (State.applyEffect s j core now e) := by
  unfold State.applyEffect
  extract_lets -merge v1 v2 v3 v4 v5 v6 v7
  refine Frame.cut v3 (by
    unfold v3
    refine Frame.comp (M := [.hatch]) (t := s) (fun b hb => ?_) (by decide) ?_
    · cases b with | hatch => exact absurd (by decide) hb | _ => rfl
    · exact Frame.refl) fun h8 => ?_
  refine Frame.cut v4 (by
    unfold v4
    refine Frame.foldl ?_ (fun t10 a11 h12 => ?_)
    · assumption
    · refine Frame.comp State.modRow_frame (by decide) ?_
      assumption) fun h9 => ?_
  refine Frame.cut v6 (by
    unfold v6
    refine Frame.foldl ?_ (fun t14 a15 h16 => ?_)
    · assumption
    · refine Frame.comp State.modRow_frame (by decide) ?_
      assumption) fun h13 => ?_
  clear_value v1 v2 v3 v4 v5 v6 v7
  refine Frame.ite (fun _ => ?_) (fun _ => ?_)
  · refine Frame.comp State.bump_frame (by decide) ?_
    refine Frame.comp State.setCore_frame (by decide) ?_
    assumption
  · assumption

theorem runOps_frame {j : Job} {core now : Nat} {l : List StrokeOp} {s : State} {r : State × Bool} (h : runOps j core now l s = r) :
    Frame [.streams, .hatch, .cnt] s r.1 := by
  subst h
  induction l generalizing s with
  | nil => exact Frame.refl
  | cons op rest ih =>
    unfold runOps
    extract_lets
    split
    · exact Frame.comp ih (List.Subset.refl _) State.applyEffect_frame
    · exact Frame.refl

theorem State.listPlans_frame {s : State} : Frame [.jobs] s (State.listPlans s) := by
  unfold State.listPlans
  refine Frame.comp (M := [.jobs]) (t := s) (fun b hb => ?_) (by decide) ?_
  · cases b with | jobs => exact absurd (by decide) hb | _ => rfl
  · exact Frame.refl

theorem execStrokeIssue_frame {field core job stroke : Nat} {s : State} {t : State} (h : execStrokeIssue field core job stroke s = .next t) : Frame [.pwr, .jobs, .hatch, .cnt] s t := by
  unfold execStrokeIssue at h
  have h := Host.Outcome.next.inj h
  subst h
  split
  · exact Frame.refl
  · refine Frame.ite (fun _ => ?_) (fun _ => ?_)
    · exact Frame.refl
    · extract_lets -merge v1 v2 v3 v4 v5 v6 v7 v8 v9 v10
      refine Frame.cut v4 (by
        unfold v4
        refine Frame.comp State.bump_frame (by decide) ?_
        exact Frame.refl) fun h11 => ?_
      refine Frame.cut v5 (by
        unfold v5
        refine Frame.ite (fun _ => ?_) (fun _ => ?_)
        · refine Frame.comp State.bump_frame (by decide) ?_
          assumption
        · assumption) fun h12 => ?_
      refine Frame.cut v7 (by
        unfold v7
        refine Frame.ite (fun _ => ?_) (fun _ => ?_)
        · refine Frame.comp State.bump_frame (by decide) ?_
          refine Frame.comp (M := [.pwr]) (t := v5) (fun b hb => ?_) (by decide) ?_
          · cases b with | pwr => exact absurd (by decide) hb | _ => rfl
          · assumption
        · assumption) fun h13 => ?_
      refine Frame.cut v9 (by
        unfold v9
        refine Frame.comp State.setCore_frame (by decide) ?_
        assumption) fun h14 => ?_
      clear_value v1 v2 v3 v4 v5 v6 v7 v8 v9 v10
      refine Frame.comp State.setJob_frame (by decide) ?_
      assumption

theorem State.runWork_frame {s : State} {core now : Nat} {whole : Bool} {r : State × Bool} (h : State.runWork s core now whole = r) : Frame [.mem, .dram, .rmk, .sessions, .models, .streams, .jobs, .hatch, .burin, .lines, .ihx, .evt, .cnt, .rebind, .tallies, .host] s r.1 := by
  subst h
  unfold State.runWork
  split
  · refine Frame.fst ?_
    exact Frame.refl
  · split
    · refine Frame.fst ?_
      exact Frame.refl
    · extract_lets -merge v1
      clear_value v1
      split
      · refine Frame.fst ?_
        exact Frame.refl
      · split
        · rename_i y2 y3 y4
          refine Frame.cut y3 (by
            refine Frame.comp (runOps_frame y4) (by decide) ?_
            exact Frame.refl) fun h5 => ?_
          refine Frame.fst ?_
          refine Frame.comp State.tearDown_frame (by decide) ?_
          assumption
        · rename_i y6 y7 y8
          refine Frame.cut y7 (by
            refine Frame.comp (runOps_frame y8) (by decide) ?_
            exact Frame.refl) fun h9 => ?_
          extract_lets -merge v10
          clear_value v10
          refine Frame.fst ?_
          refine Frame.comp State.setCore_frame (by decide) ?_
          assumption

theorem State.endSequence_frame {s : State} {id : Nat} : Frame [.jobs, .hatch] s (State.endSequence s id) := by
  unfold State.endSequence
  split
  · exact Frame.refl
  · extract_lets -merge v1 v2 v3 v4
    refine Frame.cut v3 (by
      unfold v3
      refine Frame.ite (fun _ => ?_) (fun _ => ?_)
      · refine Frame.foldl ?_ (fun t6 a7 h8 => ?_)
        · exact Frame.refl
        · refine Frame.comp State.freeSlots_frame (by decide) ?_
          assumption
      · exact Frame.refl) fun h5 => ?_
    clear_value v1 v2 v3 v4
    refine Frame.comp State.setJob_frame (by decide) ?_
    assumption

theorem execSafePoint_frame {core : Nat} {report : StrokeEnd} {s : State} {t : State} (h : execSafePoint core report s = .next t) : Frame [.mem, .dram, .rmk, .sessions, .models, .streams, .jobs, .hatch, .burin, .lines, .ihx, .evt, .cnt, .rebind, .tallies, .host] s t := by
  unfold execSafePoint at h
  have h := Host.Outcome.next.inj h
  subst h
  extract_lets -merge v1 v2 v3
  clear_value v1 v2 v3
  split
  · exact Frame.refl
  · refine Frame.ite (fun _ => ?_) (fun _ => ?_)
    · exact Frame.refl
    · split
      · rename_i y4 y5 y6
        refine Frame.cut y5 (by
          refine Frame.comp (State.runWork_frame y6) (by decide) ?_
          exact Frame.refl) fun h7 => ?_
        assumption
      · rename_i y8 y9 y10
        refine Frame.cut y9 (by
          refine Frame.comp (State.runWork_frame y10) (by decide) ?_
          exact Frame.refl) fun h11 => ?_
        extract_lets -merge v12 v13 v14 v15 v16 v17 v18
        refine Frame.cut v16 (by
          unfold v16
          refine Frame.comp State.bump_frame (by decide) ?_
          refine Frame.comp State.bump_frame (by decide) ?_
          refine Frame.comp State.bump_frame (by decide) ?_
          refine Frame.comp State.bump_frame (by decide) ?_
          refine Frame.comp State.bump_frame (by decide) ?_
          assumption) fun h19 => ?_
        refine Frame.cut v17 (by
          unfold v17
          split
          · refine Frame.comp State.charge_frame (by decide) ?_
            assumption
          · assumption) fun h20 => ?_
        clear_value v12 v13 v14 v15 v16 v17 v18
        refine Frame.comp State.endSequence_frame (by decide) ?_
        refine Frame.comp State.setCore_frame (by decide) ?_
        assumption

theorem State.signal_frame {s : State} {core p : Nat} {ctr : Counter} {n : Nat} : Frame [.mem, .dram, .rmk, .sessions, .models, .streams, .jobs, .hatch, .burin, .lines, .ihx, .evt, .cnt, .rebind, .tallies, .host] s (State.signal s core p ctr n) := by
  unfold State.signal
  split
  · exact Frame.refl
  · extract_lets -merge v1
    clear_value v1
    refine Frame.ite (fun _ => ?_) (fun _ => ?_)
    · refine Frame.comp State.tearDown_frame (by decide) ?_
      exact Frame.refl
    · refine Frame.comp State.setCore_frame (by decide) ?_
      exact Frame.refl

theorem execSignal_frame {core pair : Nat} {ctr : Counter} {n target : Nat} {s : State} {t : State} (h : execSignal core pair ctr n target s = .next t) : Frame [.mem, .dram, .rmk, .sessions, .models, .streams, .jobs, .hatch, .burin, .lines, .ihx, .evt, .cnt, .rebind, .tallies, .host] s t := by
  unfold execSignal at h
  have h := Host.Outcome.next.inj h
  subst h
  extract_lets -merge v1
  clear_value v1
  split
  · exact Frame.refl
  · split
    · exact Frame.refl
    · refine Frame.ite (fun _ => ?_) (fun _ => ?_)
      · exact Frame.refl
      · split
        · rename_i y2 y3 y4
          refine Frame.cut y3 (by
            refine Frame.comp (State.runWork_frame y4) (by decide) ?_
            exact Frame.refl) fun h5 => ?_
          assumption
        · rename_i y6 y7 y8
          refine Frame.cut y7 (by
            refine Frame.comp (State.runWork_frame y8) (by decide) ?_
            exact Frame.refl) fun h9 => ?_
          extract_lets -merge v10 v11 v12
          refine Frame.cut v11 (by
            unfold v11
            refine Frame.comp State.setCore_frame (by decide) ?_
            assumption) fun h13 => ?_
          clear_value v10 v11 v12
          refine Frame.ite (fun _ => ?_) (fun _ => ?_)
          · refine Frame.comp State.signal_frame (by decide) ?_
            assumption
          · refine Frame.comp (M := [.hatch]) (t := v11) (fun b hb => ?_) (by decide) ?_
            · cases b with | hatch => exact absurd (by decide) hb | _ => rfl
            · assumption

theorem execRemoteSignal_frame {source target : Nat} {s : State} {t : State} (h : execRemoteSignal source target s = .next t) : Frame [.mem, .dram, .rmk, .sessions, .models, .streams, .jobs, .hatch, .burin, .lines, .ihx, .evt, .cnt, .rebind, .tallies, .host] s t := by
  unfold execRemoteSignal at h
  have h := Host.Outcome.next.inj h
  subst h
  split
  · exact Frame.refl
  · refine Frame.ite (fun _ => ?_) (fun _ => ?_)
    · exact Frame.refl
    · extract_lets -merge v1
      clear_value v1
      refine Frame.comp State.signal_frame (by decide) ?_
      refine Frame.comp (M := [.hatch]) (t := s) (fun b hb => ?_) (by decide) ?_
      · cases b with | hatch => exact absurd (by decide) hb | _ => rfl
      · exact Frame.refl

theorem execWait_frame {core pair : Nat} {ctr : Counter} {n : Nat} {s : State} {t : State} (h : execWait core pair ctr n s = .next t) : Frame [.mem, .dram, .rmk, .sessions, .models, .streams, .jobs, .hatch, .burin, .lines, .ihx, .evt, .cnt, .rebind, .tallies, .host] s t := by
  unfold execWait at h
  have h := Host.Outcome.next.inj h
  subst h
  extract_lets -merge v1
  clear_value v1
  split
  · exact Frame.refl
  · split
    · exact Frame.refl
    · refine Frame.ite (fun _ => ?_) (fun _ => ?_)
      · exact Frame.refl
      · split
        · rename_i y2 y3 y4
          refine Frame.cut y3 (by
            refine Frame.comp (State.runWork_frame y4) (by decide) ?_
            exact Frame.refl) fun h5 => ?_
          assumption
        · rename_i y6 y7 y8
          refine Frame.cut y7 (by
            refine Frame.comp (State.runWork_frame y8) (by decide) ?_
            exact Frame.refl) fun h9 => ?_
          extract_lets -merge v10
          clear_value v10
          refine Frame.comp State.setCore_frame (by decide) ?_
          assumption

theorem dropSet_frame {cores : List Nat} {rule : Nat} {s : State} {m : Model} : Frame [.mem, .dram, .rmk, .sessions, .models, .streams, .jobs, .hatch, .burin, .lines, .ihx, .evt, .cnt, .rebind, .tallies, .host] s (dropSet cores rule s m) := by
  unfold dropSet
  refine Frame.ite (fun _ => ?_) (fun _ => ?_)
  · exact Frame.refl
  · split
    · refine Frame.comp State.tearDown_frame (by decide) ?_
      exact Frame.refl
    · refine Frame.comp State.tearDown_frame (by decide) ?_
      exact Frame.refl
    · refine Frame.comp State.setModel_frame (by decide) ?_
      refine Frame.comp State.zeroSet_frame (by decide) ?_
      exact Frame.refl

theorem State.loseCores_frame {s : State} {cores : List Nat} {rule : Nat} : Frame [.mem, .dram, .rmk, .sessions, .models, .streams, .jobs, .hatch, .burin, .lines, .ihx, .evt, .cnt, .rebind, .tallies, .host] s (State.loseCores s cores rule) := by
  unfold State.loseCores
  extract_lets -merge v1
  refine Frame.cut v1 (by
    unfold v1
    refine Frame.comp (M := [.streams]) (t := s) (fun b hb => ?_) (by decide) ?_
    · cases b with | streams => exact absurd (by decide) hb | _ => rfl
    · exact Frame.refl) fun h2 => ?_
  clear_value v1
  refine Frame.foldl ?_ (fun t3 a4 h5 => ?_)
  · assumption
  · refine Frame.comp dropSet_frame (by decide) ?_
    assumption

theorem State.retireCore_frame {s : State} {c : Nat} : Frame [.nv, .hatch, .evt, .cnt, .host] s (State.retireCore s c) := by
  unfold State.retireCore
  extract_lets -merge v1 v2 v3 v4 v5 v6 v7 v8 v9
  refine Frame.cut v4 (by
    unfold v4
    refine Frame.comp State.setCore_frame (by decide) ?_
    exact Frame.refl) fun h10 => ?_
  refine Frame.cut v6 (by
    unfold v6
    refine Frame.comp State.setField_frame (by decide) ?_
    assumption) fun h11 => ?_
  refine Frame.cut v9 (by
    unfold v9
    refine Frame.comp (M := [.nv, .hatch]) (t := v6) (fun b hb => ?_) (by decide) ?_
    · cases b with | nv => exact absurd (by decide) hb | hatch => exact absurd (by decide) hb | _ => rfl
    · assumption) fun h12 => ?_
  clear_value v1 v2 v3 v4 v5 v6 v7 v8 v9
  refine Frame.comp State.raiseAlarm_frame (by decide) ?_
  refine Frame.comp State.bump_frame (by decide) ?_
  assumption

theorem State.coreFault_frame {s : State} {c : Nat} : Frame [.nv, .mem, .dram, .rmk, .sessions, .models, .streams, .jobs, .hatch, .burin, .lines, .ihx, .evt, .cnt, .rebind, .tallies, .host] s (State.coreFault s c) := by
  unfold State.coreFault
  extract_lets -merge v1 v2 v3 v4 v5 v6
  refine Frame.cut v4 (by
    unfold v4
    refine Frame.comp State.setCore_frame (by decide) ?_
    exact Frame.refl) fun h7 => ?_
  refine Frame.cut v5 (by
    unfold v5
    refine Frame.foldl ?_ (fun t9 a10 h11 => ?_)
    · assumption
    · refine Frame.comp State.tearDown_frame (by decide) ?_
      assumption) fun h8 => ?_
  refine Frame.cut v6 (by
    unfold v6
    refine Frame.foldl ?_ (fun t13 a14 h15 => ?_)
    · assumption
    · refine Frame.comp State.tearDown_frame (by decide) ?_
      assumption) fun h12 => ?_
  clear_value v1 v2 v3 v4 v5 v6
  refine Frame.ite (fun _ => ?_) (fun _ => ?_)
  · refine Frame.comp State.retireCore_frame (by decide) ?_
    refine Frame.comp State.loseCores_frame (by decide) ?_
    assumption
  · assumption

theorem State.pathFault_frame {s : State} {c : Nat} : Frame [.nv, .mem, .dram, .rmk, .sessions, .models, .streams, .jobs, .hatch, .burin, .lines, .ihx, .evt, .cnt, .rebind, .tallies, .host] s (State.pathFault s c) := by
  unfold State.pathFault
  extract_lets -merge v1 v2 v3
  refine Frame.cut v2 (by
    unfold v2
    refine Frame.comp State.setCore_frame (by decide) ?_
    exact Frame.refl) fun h4 => ?_
  refine Frame.cut v3 (by
    unfold v3
    refine Frame.foldl ?_ (fun t6 a7 h8 => ?_)
    · assumption
    · refine Frame.comp State.tearDown_frame (by decide) ?_
      assumption) fun h5 => ?_
  clear_value v1 v2 v3
  refine Frame.comp State.retireCore_frame (by decide) ?_
  refine Frame.comp State.loseCores_frame (by decide) ?_
  assumption

theorem execCoreCheckFailure_frame {core : Nat} {unit : CheckUnit} {s : State} {t : State} (h : execCoreCheckFailure core unit s = .next t) : Frame [.nv, .mem, .dram, .rmk, .sessions, .models, .streams, .jobs, .hatch, .burin, .lines, .ihx, .evt, .cnt, .rebind, .tallies, .host] s t := by
  unfold execCoreCheckFailure at h
  have h := Host.Outcome.next.inj h
  subst h
  refine Frame.ite (fun _ => ?_) (fun _ => ?_)
  · extract_lets -merge v1 v2 v3
    refine Frame.cut v2 (by
      unfold v2
      refine Frame.comp State.setCore_frame (by decide) ?_
      exact Frame.refl) fun h4 => ?_
    refine Frame.cut v3 (by
      unfold v3
      refine Frame.comp State.bump_frame (by decide) ?_
      assumption) fun h5 => ?_
    clear_value v1 v2 v3
    split
    · rename_i y6
      refine Frame.comp State.pathFault_frame (by decide) ?_
      assumption
    · rename_i y7
      refine Frame.comp State.pathFault_frame (by decide) ?_
      assumption
    · refine Frame.comp State.coreFault_frame (by decide) ?_
      assumption
  · exact Frame.refl

theorem State.moveCore_frame {s : State} {core spare : Nat} : Frame [.mem, .models, .streams, .jobs, .hatch, .rebind] s (State.moveCore s core spare) := by
  unfold State.moveCore
  extract_lets -merge v1 v2 v3 v4 v5 v6 v7 v8
  refine Frame.cut v3 (by
    unfold v3
    refine Frame.comp State.setCore_frame (by decide) ?_
    exact Frame.refl) fun h9 => ?_
  refine Frame.cut v5 (by
    unfold v5
    refine Frame.comp State.setCore_frame (by decide) ?_
    assumption) fun h10 => ?_
  clear_value v1 v2 v3 v4 v5 v6 v7 v8
  refine Frame.comp (M := [.mem, .models, .streams, .jobs, .hatch, .rebind]) (t := v5) (fun b hb => ?_) (by decide) ?_
  · cases b with | mem => exact absurd (by decide) hb | models => exact absurd (by decide) hb | streams => exact absurd (by decide) hb | jobs => exact absurd (by decide) hb | hatch => exact absurd (by decide) hb | rebind => exact absurd (by decide) hb | _ => rfl
  · assumption

theorem execCoreTakeover_frame {core spare : Nat} {s : State} {t : State} (h : execCoreTakeover core spare s = .next t) : Frame [.mem, .models, .streams, .jobs, .hatch, .evt, .cnt, .rebind, .host] s t := by
  unfold execCoreTakeover at h
  have h := Host.Outcome.next.inj h
  subst h
  extract_lets -merge v1 v2 v3 v4 v5
  clear_value v1 v2 v3 v4 v5
  refine Frame.ite (fun _ => ?_) (fun _ => ?_)
  · refine Frame.comp State.writeLog_frame (by decide) ?_
    refine Frame.comp State.bump_frame (by decide) ?_
    refine Frame.comp State.moveCore_frame (by decide) ?_
    exact Frame.refl
  · exact Frame.refl

theorem State.unitSelfTest_frame {s : State} {u : Nat} {passed : Bool} : Frame [.nv, .burin, .evt, .cnt, .host] s (State.unitSelfTest s u passed) := by
  unfold State.unitSelfTest
  extract_lets -merge v1 v2 v3
  refine Frame.cut v2 (by
    unfold v2
    refine Frame.comp State.setUnit_frame (by decide) ?_
    exact Frame.refl) fun h4 => ?_
  clear_value v1 v2 v3
  refine Frame.ite (fun _ => ?_) (fun _ => ?_)
  · refine Frame.ite (fun _ => ?_) (fun _ => ?_)
    · refine Frame.comp State.setUnit_frame (by decide) ?_
      exact Frame.refl
    · refine Frame.comp State.raiseAlarm_frame (by decide) ?_
      refine Frame.comp (M := [.nv]) (t := v2) (fun b hb => ?_) (by decide) ?_
      · cases b with | nv => exact absurd (by decide) hb | _ => rfl
      · assumption
  · exact Frame.refl

theorem execCoreSelfTest_frame {core : Nat} {passed : Bool} {s : State} {t : State} (h : execCoreSelfTest core passed s = .next t) : Frame [.nv, .mem, .dram, .rmk, .sessions, .models, .streams, .jobs, .hatch, .burin, .lines, .ihx, .evt, .cnt, .rebind, .tallies, .host] s t := by
  unfold execCoreSelfTest at h
  have h := Host.Outcome.next.inj h
  subst h
  extract_lets -merge v1
  clear_value v1
  refine Frame.ite (fun _ => ?_) (fun _ => ?_)
  · refine Frame.comp State.unitSelfTest_frame (by decide) ?_
    exact Frame.refl
  · refine Frame.ite (fun _ => ?_) (fun _ => ?_)
    · exact Frame.refl
    · refine Frame.ite (fun _ => ?_) (fun _ => ?_)
      · refine Frame.comp State.writeLog_frame (by decide) ?_
        refine Frame.comp State.setCore_frame (by decide) ?_
        exact Frame.refl
      · refine Frame.comp State.retireCore_frame (by decide) ?_
        refine Frame.comp State.loseCores_frame (by decide) ?_
        exact Frame.refl

theorem State.faultRowOf_frame {s : State} {x : Stream} : Frame [.mem, .dram, .rmk, .sessions, .models, .streams, .jobs, .hatch, .burin, .lines, .ihx, .evt, .cnt, .rebind, .tallies, .host] s (State.faultRowOf s x) := by
  unfold State.faultRowOf
  refine Frame.ite (fun _ => ?_) (fun _ => ?_)
  · refine Frame.comp State.tearDown_frame (by decide) ?_
    exact Frame.refl
  · refine Frame.comp State.faultStream_frame (by decide) ?_
    exact Frame.refl

theorem State.damage_frame {s : State} {m : Model} : Frame [.mem, .dram, .rmk, .sessions, .models, .streams, .jobs, .hatch, .burin, .lines, .ihx, .evt, .cnt, .rebind, .tallies, .host] s (State.damage s m) := by
  unfold State.damage
  extract_lets -merge v1 v2
  refine Frame.cut v1 (by
    unfold v1
    refine Frame.comp State.setModel_frame (by decide) ?_
    exact Frame.refl) fun h3 => ?_
  refine Frame.cut v2 (by
    unfold v2
    refine Frame.foldl ?_ (fun t5 a6 h7 => ?_)
    · assumption
    · refine Frame.comp State.tearDown_frame (by decide) ?_
      assumption) fun h4 => ?_
  clear_value v1 v2
  refine Frame.foldl ?_ (fun t8 a9 h10 => ?_)
  · assumption
  · refine Frame.comp State.faultRowOf_frame (by decide) ?_
    assumption

theorem State.loseWord_frame {s : State} {core : Nat} {w : PlateWord} : Frame [.nv, .mem, .dram, .rmk, .sessions, .models, .streams, .jobs, .hatch, .burin, .lines, .ihx, .evt, .cnt, .rebind, .tallies, .host] s (State.loseWord s core w) := by
  unfold State.loseWord
  split
  · refine Frame.ite (fun _ => ?_) (fun _ => ?_)
    · exact Frame.refl
    · refine Frame.comp State.tearDown_frame (by decide) ?_
      exact Frame.refl
  · refine Frame.comp State.tearDown_frame (by decide) ?_
    exact Frame.refl
  · split
    · refine Frame.ite (fun _ => ?_) (fun _ => ?_)
      · refine Frame.comp State.damage_frame (by decide) ?_
        exact Frame.refl
      · exact Frame.refl
    · exact Frame.refl
  · extract_lets -merge v1
    clear_value v1
    refine Frame.comp State.tearDown_frame (by decide) ?_
    refine Frame.comp (M := [.streams]) (t := s) (fun b hb => ?_) (by decide) ?_
    · cases b with | streams => exact absurd (by decide) hb | _ => rfl
    · exact Frame.refl
  · split
    · refine Frame.comp State.tearDown_frame (by decide) ?_
      refine Frame.comp State.setStream_frame (by decide) ?_
      exact Frame.refl
    · exact Frame.refl
  · refine Frame.comp State.coreFault_frame (by decide) ?_
    exact Frame.refl

theorem execPlateUncorrectable_frame {core : Nat} {word : PlateWord} {s : State} {t : State} (h : execPlateUncorrectable core word s = .next t) : Frame [.nv, .mem, .dram, .rmk, .sessions, .models, .streams, .jobs, .hatch, .burin, .lines, .ihx, .evt, .cnt, .rebind, .tallies, .host] s t := by
  unfold execPlateUncorrectable at h
  have h := Host.Outcome.next.inj h
  subst h
  extract_lets -merge v1
  clear_value v1
  refine Frame.ite (fun _ => ?_) (fun _ => ?_)
  · exact Frame.refl
  · split
    · exact Frame.refl
    · refine Frame.comp State.loseWord_frame (by decide) ?_
      refine Frame.comp State.bump_frame (by decide) ?_
      exact Frame.refl
    · refine Frame.comp State.loseWord_frame (by decide) ?_
      refine Frame.comp State.bump_frame (by decide) ?_
      exact Frame.refl

theorem execPlateScrub_frame {core : Nat} {corrected : Bool} {s : State} {t : State} (h : execPlateScrub core corrected s = .next t) : Frame [.hatch, .cnt] s t := by
  unfold execPlateScrub at h
  have h := Host.Outcome.next.inj h
  subst h
  refine Frame.ite (fun _ => ?_) (fun _ => ?_)
  · exact Frame.refl
  · extract_lets -merge v1 v2
    refine Frame.cut v2 (by
      unfold v2
      refine Frame.comp State.setCore_frame (by decide) ?_
      exact Frame.refl) fun h3 => ?_
    clear_value v1 v2
    refine Frame.ite (fun _ => ?_) (fun _ => ?_)
    · refine Frame.comp State.bump_frame (by decide) ?_
      assumption
    · assumption

theorem State.setLink_frame {s : State} {l : Nat} {x : MeshLink} : Frame [.hatch] s (State.setLink s l x) := by
  unfold State.setLink
  extract_lets -merge v1
  clear_value v1
  refine Frame.comp (M := [.hatch]) (t := s) (fun b hb => ?_) (by decide) ?_
  · cases b with | hatch => exact absurd (by decide) hb | _ => rfl
  · exact Frame.refl

theorem execFlitCrcRetry_frame {link flit : Nat} {s : State} {t : State} (h : execFlitCrcRetry link flit s = .next t) : Frame [.hatch, .cnt] s t := by
  unfold execFlitCrcRetry at h
  have h := Host.Outcome.next.inj h
  subst h
  refine Frame.ite (fun _ => ?_) (fun _ => ?_)
  · exact Frame.refl
  · extract_lets -merge v1 v2 v3 v4 v5
    refine Frame.cut v5 (by
      unfold v5
      refine Frame.comp State.bump_frame (by decide) ?_
      refine Frame.comp State.setLink_frame (by decide) ?_
      exact Frame.refl) fun h6 => ?_
    clear_value v1 v2 v3 v4 v5
    refine Frame.ite (fun _ => ?_) (fun _ => ?_)
    · refine Frame.comp State.bump_frame (by decide) ?_
      assumption
    · assumption

theorem execMeshLaneHalf_frame {link : Nat} {s : State} {t : State} (h : execMeshLaneHalf link s = .next t) : Frame [.hatch, .evt, .cnt, .host] s t := by
  unfold execMeshLaneHalf at h
  have h := Host.Outcome.next.inj h
  subst h
  extract_lets -merge v1 v2
  clear_value v1 v2
  refine Frame.ite (fun _ => ?_) (fun _ => ?_)
  · refine Frame.comp State.writeLog_frame (by decide) ?_
    refine Frame.comp State.setLink_frame (by decide) ?_
    exact Frame.refl
  · exact Frame.refl

theorem execFieldOut_frame {field : Nat} {s : State} {t : State} (h : execFieldOut field s = .next t) : Frame [.mem, .dram, .rmk, .sessions, .models, .streams, .jobs, .hatch, .burin, .lines, .ihx, .evt, .cnt, .rebind, .tallies, .host] s t := by
  unfold execFieldOut at h
  have h := Host.Outcome.next.inj h
  subst h
  refine Frame.ite (fun _ => ?_) (fun _ => ?_)
  · exact Frame.refl
  · extract_lets -merge v1 v2 v3 v4 v5
    refine Frame.cut v2 (by
      unfold v2
      refine Frame.comp State.setField_frame (by decide) ?_
      exact Frame.refl) fun h6 => ?_
    refine Frame.cut v4 (by
      unfold v4
      refine Frame.comp State.loseCores_frame (by decide) ?_
      assumption) fun h7 => ?_
    refine Frame.cut v5 (by
      unfold v5
      refine Frame.foldl ?_ (fun t9 a10 h11 => ?_)
      · assumption
      · refine Frame.comp State.tearDown_frame (by decide) ?_
        assumption) fun h8 => ?_
    clear_value v1 v2 v3 v4 v5
    refine Frame.comp State.raiseAlarm_frame (by decide) ?_
    assumption

theorem deadDesc_frame {ring : Nat} {s : State} {d : Desc} : Frame [.rmk, .sessions, .streams, .jobs, .ihx, .cnt, .tallies, .host] s (deadDesc ring s d) := by
  unfold deadDesc
  split
  · refine Frame.comp State.complete_frame (by decide) ?_
    exact Frame.refl
  · refine Frame.comp State.complete_frame (by decide) ?_
    exact Frame.refl
  · refine Frame.comp State.complete_frame (by decide) ?_
    exact Frame.refl
  · refine Frame.comp State.complete_frame (by decide) ?_
    exact Frame.refl
  · refine Frame.ite (fun _ => ?_) (fun _ => ?_)
    · split
      · refine Frame.comp faultDesc_frame (by decide) ?_
        exact Frame.refl
      · refine Frame.comp State.complete_frame (by decide) ?_
        exact Frame.refl
    · refine Frame.comp State.complete_frame (by decide) ?_
      exact Frame.refl

theorem deadRing_frame {s : State} {n : Nat} : Frame [.rmk, .sessions, .streams, .jobs, .ihx, .cnt, .tallies, .host] s (deadRing s n) := by
  unfold deadRing
  refine Frame.foldl ?_ (fun t1 a2 h3 => ?_)
  · exact Frame.refl
  · refine Frame.comp deadDesc_frame (by decide) ?_
    assumption

theorem State.moduleFault_frame {s : State} {cause : Nat} : Frame [.boot, .mem, .rmk, .sessions, .streams, .jobs, .hatch, .burin, .ihx, .evt, .fault, .cnt, .tallies, .host] s (State.moduleFault s cause) := by
  unfold State.moduleFault
  extract_lets -merge v1 v2 v3 v4 v5
  refine Frame.cut v1 (by
    unfold v1
    refine Frame.foldl ?_ (fun t7 a8 h9 => ?_)
    · exact Frame.refl
    · refine Frame.comp deadRing_frame (by decide) ?_
      assumption) fun h6 => ?_
  refine Frame.cut v5 (by
    unfold v5
    refine Frame.comp (M := [.mem, .streams, .hatch, .burin, .ihx]) (t := v1) (fun b hb => ?_) (by decide) ?_
    · cases b with | mem => exact absurd (by decide) hb | streams => exact absurd (by decide) hb | hatch => exact absurd (by decide) hb | burin => exact absurd (by decide) hb | ihx => exact absurd (by decide) hb | _ => rfl
    · assumption) fun h10 => ?_
  clear_value v1 v2 v3 v4 v5
  refine Frame.comp State.enterFaulted_frame (by decide) ?_
  assumption

theorem execEaselFailover_frame {easel : Nat} {s : State} {t : State} (h : execEaselFailover easel s = .next t) : Frame [.boot, .mem, .rmk, .sessions, .streams, .jobs, .hatch, .burin, .ihx, .evt, .fault, .cnt, .tallies, .host] s t := by
  unfold execEaselFailover at h
  have h := Host.Outcome.next.inj h
  subst h
  refine Frame.ite (fun _ => ?_) (fun _ => ?_)
  · exact Frame.refl
  · extract_lets -merge v1 v2 v3 v4 v5
    refine Frame.cut v3 (by
      unfold v3
      refine Frame.comp (M := [.fault]) (t := s) (fun b hb => ?_) (by decide) ?_
      · cases b with | fault => exact absurd (by decide) hb | _ => rfl
      · exact Frame.refl) fun h6 => ?_
    clear_value v1 v2 v3 v4 v5
    refine Frame.ite (fun _ => ?_) (fun _ => ?_)
    · refine Frame.comp State.moduleFault_frame (by decide) ?_
      assumption
    · refine Frame.ite (fun _ => ?_) (fun _ => ?_)
      · refine Frame.comp State.moduleFault_frame (by decide) ?_
        assumption
      · refine Frame.comp State.raiseAlarm_frame (by decide) ?_
        refine Frame.comp (M := [.fault]) (t := v3) (fun b hb => ?_) (by decide) ?_
        · cases b with | fault => exact absurd (by decide) hb | _ => rfl
        · assumption

theorem execModuleFault_frame {cause : Nat} {s : State} {t : State} (h : execModuleFault cause s = .next t) : Frame [.boot, .mem, .rmk, .sessions, .streams, .jobs, .hatch, .burin, .ihx, .evt, .fault, .cnt, .tallies, .host] s t := by
  unfold execModuleFault at h
  have h := Host.Outcome.next.inj h
  subst h
  refine Frame.ite (fun _ => ?_) (fun _ => ?_)
  · refine Frame.comp State.moduleFault_frame (by decide) ?_
    exact Frame.refl
  · exact Frame.refl

theorem execSupplyWarning_frame {volts : Nat} {s : State} {t : State} (h : execSupplyWarning volts s = .next t) : Frame [.boot, .pwr, .jobs, .evt, .cnt, .host] s t := by
  unfold execSupplyWarning at h
  have h := atBusbar_next h
  subst h
  refine Frame.ite (fun _ => ?_) (fun _ => ?_)
  · exact Frame.refl
  · refine Frame.ite (fun _ => ?_) (fun _ => ?_)
    · extract_lets -merge v1
      clear_value v1
      refine Frame.comp (M := [.boot]) (t := s) (fun b hb => ?_) (by decide) ?_
      · cases b with | boot => exact absurd (by decide) hb | _ => rfl
      · exact Frame.refl
    · extract_lets -merge v2 v3 v4 v5 v6 v7 v8 v9
      refine Frame.cut v6 (by
        unfold v6
        refine Frame.comp (M := [.boot, .pwr]) (t := s) (fun b hb => ?_) (by decide) ?_
        · cases b with | boot => exact absurd (by decide) hb | pwr => exact absurd (by decide) hb | _ => rfl
        · exact Frame.refl) fun h10 => ?_
      refine Frame.cut v8 (by
        unfold v8
        refine Frame.comp (M := [.pwr]) (t := v6) (fun b hb => ?_) (by decide) ?_
        · cases b with | pwr => exact absurd (by decide) hb | _ => rfl
        · assumption) fun h11 => ?_
      clear_value v2 v3 v4 v5 v6 v7 v8 v9
      refine Frame.ite (fun _ => ?_) (fun _ => ?_)
      · refine Frame.comp State.raiseAlarm_frame (by decide) ?_
        refine Frame.foldl ?_ (fun t12 a13 h14 => ?_)
        · refine Frame.comp State.bump_frame (by decide) ?_
          assumption
        · refine Frame.comp State.requestFrost_frame (by decide) ?_
          assumption
      · assumption

end Sys2Proof.Machine
end

