-- ==== Sys2Proof/Laws/FrameEngines.lean ====
section
/-! SUPPORT. Frames: which blocks each operation may change, for engines, DRAM, Frost and Thaw, and Burin. -/

namespace Sys2Proof.Machine

open Sys2Proof

theorem State.takeWait_frame {s : State} {j : Job} {core : Nat} {eng : Engine} {e : Entry} : Frame [.hatch] s (State.takeWait s j core eng e) := by
  unfold State.takeWait
  refine Frame.ite (fun _ => ?_) (fun _ => ?_)
  · extract_lets -merge v1 v2
    clear_value v1 v2
    refine Frame.comp State.setCore_frame (by decide) ?_
    exact Frame.refl
  · exact Frame.refl

theorem State.scratchStore_frame {s : State} {j : Job} {off : Nat} {b : List Byte} : Frame [.dram] s (State.scratchStore s j off b) := by
  unfold State.scratchStore
  extract_lets -merge v1
  clear_value v1
  refine Frame.comp (M := [.dram]) (t := s) (fun b hb => ?_) (by decide) ?_
  · cases b with | dram => exact absurd (by decide) hb | _ => rfl
  · exact Frame.refl

theorem State.spaceStore_frame {s : State} {j : Job} {core space handle off : Nat} {b : List Byte} : Frame [.dram, .jobs, .hatch] s (State.spaceStore s j core space handle off b) := by
  unfold State.spaceStore
  split
  · extract_lets -merge v1
    clear_value v1
    refine Frame.comp (M := [.hatch]) (t := s) (fun b hb => ?_) (by decide) ?_
    · cases b with | hatch => exact absurd (by decide) hb | _ => rfl
    · exact Frame.refl
  · extract_lets -merge v2
    clear_value v2
    refine Frame.comp (M := [.hatch]) (t := s) (fun b hb => ?_) (by decide) ?_
    · cases b with | hatch => exact absurd (by decide) hb | _ => rfl
    · exact Frame.refl
  · refine Frame.ite (fun _ => ?_) (fun _ => ?_)
    · refine Frame.comp State.scratchStore_frame (by decide) ?_
      exact Frame.refl
    · refine Frame.comp State.setJob_frame (by decide) ?_
      exact Frame.refl
  · exact Frame.refl

theorem State.launch_frame {s : State} {j : Job} {t : Xfer} : Frame [.mem, .jobs, .hatch, .ihx] s (State.launch s j t) := by
  unfold State.launch
  extract_lets -merge v1 v2 v3 v4 v5 v6 v7 v8
  have h_v1 : ∀ x9 x10, Frame [.mem, .jobs, .hatch, .ihx] s x9 → Frame [.mem, .jobs, .hatch, .ihx] s (v1 x9 x10) := by
    intro x9 x10 h11
    unfold v1
    extract_lets -merge v12 v13
    clear_value v12 v13
    refine Frame.comp State.setCore_frame (by decide) ?_
    assumption
  refine Frame.cut v5 (by
    unfold v5
    refine Frame.comp State.setJob_frame (by decide) ?_
    exact Frame.refl) fun h14 => ?_
  refine Frame.cut v7 (by
    unfold v7
    refine h_v1 _ _ ?_
    exact Frame.refl) fun h15 => ?_
  clear_value v1 v2 v3 v4 v5 v6 v7 v8
  refine Frame.ite (fun _ => ?_) (fun _ => ?_)
  · refine Frame.comp State.sendRead_frame (by decide) ?_
    refine h_v1 _ _ ?_
    assumption
  · split
    · refine Frame.comp (M := [.mem]) (t := v7) (fun b hb => ?_) (by decide) ?_
      · cases b with | mem => exact absurd (by decide) hb | _ => rfl
      · assumption
    · refine h_v1 _ _ ?_
      exact Frame.refl

theorem State.countXfer_frame {s : State} {t : Xfer} {merges : Nat} : Frame [.cnt] s (State.countXfer s t merges) := by
  unfold State.countXfer
  extract_lets -merge v1 v2 v3
  refine Frame.cut v2 (by
    unfold v2
    split
    · refine Frame.comp State.bump_frame (by decide) ?_
      refine Frame.comp State.bump_frame (by decide) ?_
      exact Frame.refl
    · refine Frame.comp State.bump_frame (by decide) ?_
      refine Frame.comp State.bump_frame (by decide) ?_
      exact Frame.refl) fun h4 => ?_
  refine Frame.cut v3 (by
    unfold v3
    refine Frame.comp State.bump_frame (by decide) ?_
    assumption) fun h5 => ?_
  clear_value v1 v2 v3
  refine Frame.ite (fun _ => ?_) (fun _ => ?_)
  · refine Frame.comp State.bump_frame (by decide) ?_
    assumption
  · assumption

theorem State.setWalk_frame {s : State} {id core : Nat} {eng : Engine} {stroke : Nat} {w : Nat × Nat × Nat} : Frame [.jobs, .hatch] s (State.setWalk s id core eng stroke w) := by
  unfold State.setWalk
  extract_lets -merge v1 v2 v3
  refine Frame.cut v3 (by
    unfold v3
    refine Frame.comp State.setCore_frame (by decide) ?_
    exact Frame.refl) fun h4 => ?_
  clear_value v1 v2 v3
  split
  · refine Frame.comp State.setJob_frame (by decide) ?_
    assumption
  · assumption

theorem State.stall_frame {s : State} {id core : Nat} {eng : Engine} {stroke : Nat} : Frame [.hatch] s (State.stall s id core eng stroke) := by
  unfold State.stall
  extract_lets -merge v1 v2 v3
  clear_value v1 v2 v3
  refine Frame.comp State.setCore_frame (by decide) ?_
  exact Frame.refl

theorem engineSignal_frame {core : Nat} {ctr : Counter} {sig : Option LinkSig} {s : State} : Frame [.mem, .dram, .rmk, .sessions, .models, .streams, .jobs, .hatch, .burin, .lines, .ihx, .evt, .cnt, .rebind, .tallies, .host] s (engineSignal core ctr sig s) := by
  unfold engineSignal
  split
  · exact Frame.refl
  · refine Frame.ite (fun _ => ?_) (fun _ => ?_)
    · refine Frame.comp State.signal_frame (by decide) ?_
      exact Frame.refl
    · extract_lets -merge v1
      clear_value v1
      refine Frame.comp (M := [.hatch]) (t := s) (fun b hb => ?_) (by decide) ?_
      · cases b with | hatch => exact absurd (by decide) hb | _ => rfl
      · exact Frame.refl

theorem State.sendReleases_frame {s : State} {core : Nat} {eng : Engine} : Frame [.mem, .dram, .rmk, .sessions, .models, .streams, .jobs, .hatch, .burin, .lines, .ihx, .evt, .cnt, .rebind, .tallies, .host] s (State.sendReleases s core eng) := by
  unfold State.sendReleases
  extract_lets -merge v1 v2 v3 v4
  refine Frame.cut v4 (by
    unfold v4
    refine Frame.comp State.setCore_frame (by decide) ?_
    exact Frame.refl) fun h5 => ?_
  clear_value v1 v2 v3 v4
  refine Frame.foldl ?_ (fun t6 a7 h8 => ?_)
  · assumption
  · refine Frame.comp engineSignal_frame (by decide) ?_
    assumption

theorem issueXfer_frame {j : Job} {core : Nat} {eng : Engine} {stroke : Nat} {w : Nat × Nat × Nat} {list : List Item} {n : Item} {s : State} : Frame [.mem, .dram, .rmk, .sessions, .models, .streams, .jobs, .hatch, .burin, .lines, .ihx, .evt, .cnt, .rebind, .tallies, .host] s (issueXfer j core eng stroke w list n s) := by
  unfold issueXfer
  extract_lets -merge v1 v2 v3 v4 v5 v6 v7
  refine Frame.cut v5 (by
    unfold v5
    refine Frame.comp State.setCore_frame (by decide) ?_
    exact Frame.refl) fun h8 => ?_
  refine Frame.cut v6 (by
    unfold v6
    refine Frame.comp State.setWalk_frame (by decide) ?_
    assumption) fun h9 => ?_
  clear_value v1 v2 v3 v4 v5 v6 v7
  split
  · refine Frame.comp State.countXfer_frame (by decide) ?_
    refine Frame.comp State.sendReleases_frame (by decide) ?_
    refine Frame.comp State.launch_frame (by decide) ?_
    assumption
  · assumption

theorem execEngineEntryIssue_frame {core : Nat} {engine : Engine} {job stroke entry part : Nat} {s : State} {t : State} (h : execEngineEntryIssue core engine job stroke entry part s = .next t) : Frame [.mem, .dram, .rmk, .sessions, .models, .streams, .jobs, .hatch, .burin, .lines, .ihx, .evt, .cnt, .rebind, .tallies, .host] s t := by
  unfold execEngineEntryIssue at h
  have h := Host.Outcome.next.inj h
  subst h
  split
  · exact Frame.refl
  · refine Frame.ite (fun _ => ?_) (fun _ => ?_)
    · exact Frame.refl
    · extract_lets -merge v1 v2 v3 v4
      refine Frame.cut v4 (by
        unfold v4
        refine Frame.comp State.stall_frame (by decide) ?_
        exact Frame.refl) fun h5 => ?_
      clear_value v1 v2 v3 v4
      split
      · exact Frame.refl
      · extract_lets -merge v6 v7 v8 v9 v10 v11 v12
        refine Frame.cut v8 (by
          unfold v8
          refine Frame.comp State.takeWait_frame (by decide) ?_
          exact Frame.refl) fun h13 => ?_
        refine Frame.cut v12 (by
          unfold v12
          refine Frame.comp State.setCore_frame (by decide) ?_
          assumption) fun h14 => ?_
        clear_value v6 v7 v8 v9 v10 v11 v12
        refine Frame.ite (fun _ => ?_) (fun _ => ?_)
        · exact Frame.refl
        · refine Frame.ite (fun _ => ?_) (fun _ => ?_)
          · refine Frame.comp issueXfer_frame (by decide) ?_
            exact Frame.refl
          · refine Frame.ite (fun _ => ?_) (fun _ => ?_)
            · refine Frame.ite (fun _ => ?_) (fun _ => ?_)
              · refine Frame.comp State.bump_frame (by decide) ?_
                assumption
              · assumption
            · refine Frame.ite (fun _ => ?_) (fun _ => ?_)
              · refine Frame.comp State.stall_frame (by decide) ?_
                exact Frame.refl
              · refine Frame.ite (fun _ => ?_) (fun _ => ?_)
                · refine Frame.comp State.tearDown_frame (by decide) ?_
                  exact Frame.refl
                · refine Frame.ite (fun _ => ?_) (fun _ => ?_)
                  · refine Frame.comp State.sendReleases_frame (by decide) ?_
                    refine Frame.comp State.setWalk_frame (by decide) ?_
                    assumption
                  · refine Frame.comp issueXfer_frame (by decide) ?_
                    assumption

theorem State.sendChain_frame {s : State} {j : Job} {core : Nat} {ps : List ChainPiece} : Frame [.hatch] s (State.sendChain s j core ps) := by
  unfold State.sendChain
  split
  · extract_lets -merge v1
    clear_value v1
    refine Frame.comp State.setCore_frame (by decide) ?_
    exact Frame.refl
  · exact Frame.refl

theorem State.sendSignals_frame {s : State} {core : Nat} {eng : Engine} : Frame [.mem, .dram, .rmk, .sessions, .models, .streams, .jobs, .hatch, .burin, .lines, .ihx, .evt, .cnt, .rebind, .tallies, .host] s (State.sendSignals s core eng) := by
  unfold State.sendSignals
  extract_lets -merge v1 v2 v3 v4
  refine Frame.cut v4 (by
    unfold v4
    refine Frame.comp State.setCore_frame (by decide) ?_
    exact Frame.refl) fun h5 => ?_
  clear_value v1 v2 v3 v4
  refine Frame.comp State.sendReleases_frame (by decide) ?_
  refine Frame.foldl ?_ (fun t6 a7 h8 => ?_)
  · assumption
  · refine Frame.comp engineSignal_frame (by decide) ?_
    refine Frame.comp engineSignal_frame (by decide) ?_
    assumption

theorem State.landBytes_frame {s : State} {core : Nat} {j : Job} {t : Xfer} : Frame [.dram, .jobs, .hatch] s (State.landBytes s core j t) := by
  unfold State.landBytes
  extract_lets -merge v1
  refine Frame.cut v1 (by
    unfold v1
    refine Frame.ite (fun _ => ?_) (fun _ => ?_)
    · exact Frame.refl
    · refine Frame.comp State.spaceStore_frame (by decide) ?_
      exact Frame.refl) fun h2 => ?_
  clear_value v1
  refine Frame.ite (fun _ => ?_) (fun _ => ?_)
  · refine Frame.comp State.sendChain_frame (by decide) ?_
    assumption
  · assumption

theorem State.settle_frame {s : State} {id : Nat} : Frame [.jobs, .hatch] s (State.settle s id) := by
  unfold State.settle
  split
  · exact Frame.refl
  · refine Frame.ite (fun _ => ?_) (fun _ => ?_)
    · exact Frame.refl
    · split
      · exact Frame.refl
      · extract_lets -merge v1
        refine Frame.cut v1 (by
          unfold v1
          refine Frame.foldl ?_ (fun t3 a4 h5 => ?_)
          · exact Frame.refl
          · refine Frame.comp State.setCore_frame (by decide) ?_
            assumption) fun h2 => ?_
        clear_value v1
        refine Frame.comp State.setJob_frame (by decide) ?_
        refine Frame.comp State.setPairs_frame (by decide) ?_
        assumption

theorem execTransferComplete_frame {core : Nat} {engine : Engine} {s : State} {t : State} (h : execTransferComplete core engine s = .next t) : Frame [.mem, .dram, .rmk, .sessions, .models, .streams, .jobs, .hatch, .burin, .lines, .ihx, .evt, .cnt, .rebind, .tallies, .host] s t := by
  unfold execTransferComplete at h
  have h := Host.Outcome.next.inj h
  subst h
  extract_lets -merge v1 v2 v3
  refine Frame.cut v3 (by
    unfold v3
    refine Frame.comp State.setCore_frame (by decide) ?_
    exact Frame.refl) fun h4 => ?_
  clear_value v1 v2 v3
  split
  · refine Frame.comp State.sendSignals_frame (by decide) ?_
    exact Frame.refl
  · split
    · refine Frame.comp State.sendSignals_frame (by decide) ?_
      assumption
    · refine Frame.comp State.settle_frame (by decide) ?_
      refine Frame.comp State.sendSignals_frame (by decide) ?_
      refine Frame.comp State.landBytes_frame (by decide) ?_
      assumption

theorem State.grant_frame {s : State} {j : Job} {core stroke pos : Nat} {n : Item} {pred : Nat} {r : State × Bool} (h : State.grant s j core stroke pos n pred = r) : Frame [.mem, .dram, .rmk, .sessions, .models, .streams, .jobs, .hatch, .burin, .lines, .ihx, .evt, .cnt, .rebind, .tallies, .host] s r.1 := by
  subst h
  unfold State.grant
  extract_lets -merge v1 v2 v3 v4 v5 v6 v7 v8 v9
  refine Frame.cut v2 (by
    unfold v2
    refine Frame.comp State.takeWait_frame (by decide) ?_
    exact Frame.refl) fun h10 => ?_
  refine Frame.cut v8 (by
    unfold v8
    refine Frame.comp State.setCore_frame (by decide) ?_
    assumption) fun h11 => ?_
  clear_value v1 v2 v3 v4 v5 v6 v7 v8 v9
  split
  · refine Frame.fst ?_
    refine Frame.comp State.stall_frame (by decide) ?_
    exact Frame.refl
  · split
    · refine Frame.fst ?_
      refine Frame.comp State.tearDown_frame (by decide) ?_
      exact Frame.refl
    · refine Frame.fst ?_
      refine Frame.comp State.setCore_frame (by decide) ?_
      assumption

theorem State.formAgain_frame {s : State} {j : Job} {core pred : Nat} {r : Nat × Nat × Nat} : Frame [.mem, .dram, .rmk, .sessions, .models, .streams, .jobs, .hatch, .burin, .lines, .ihx, .evt, .cnt, .rebind, .tallies, .host] s (State.formAgain s j core pred r) := by
  unfold State.formAgain
  split
  · exact Frame.refl
  · split
    · rename_i y1 y2 y3
      refine Frame.cut y2 (by
        refine Frame.comp (State.grant_frame y3) (by decide) ?_
        exact Frame.refl) fun h4 => ?_
      assumption
    · rename_i y5 y6 y7
      refine Frame.cut y6 (by
        refine Frame.comp (State.grant_frame y7) (by decide) ?_
        exact Frame.refl) fun h8 => ?_
      split
      · refine Frame.comp State.setJob_frame (by decide) ?_
        assumption
      · assumption

theorem State.grantHead_frame {s : State} {j : Job} {core stroke pred : Nat} : Frame [.mem, .dram, .rmk, .sessions, .models, .streams, .jobs, .hatch, .burin, .lines, .ihx, .evt, .cnt, .rebind, .tallies, .host] s (State.grantHead s j core stroke pred) := by
  unfold State.grantHead
  extract_lets -merge v1
  clear_value v1
  split
  · exact Frame.refl
  · refine Frame.ite (fun _ => ?_) (fun _ => ?_)
    · exact Frame.refl
    · split
      · rename_i y2 y3 y4
        refine Frame.cut y3 (by
          refine Frame.comp (State.grant_frame y4) (by decide) ?_
          exact Frame.refl) fun h5 => ?_
        assumption
      · rename_i y6 y7 y8
        refine Frame.cut y7 (by
          refine Frame.comp (State.grant_frame y8) (by decide) ?_
          exact Frame.refl) fun h9 => ?_
        refine Frame.comp State.setWalk_frame (by decide) ?_
        assumption

theorem execChainGrant_frame {core job stroke entry pred : Nat} {s : State} {t : State} (h : execChainGrant core job stroke entry pred s = .next t) : Frame [.mem, .dram, .rmk, .sessions, .models, .streams, .jobs, .hatch, .burin, .lines, .ihx, .evt, .cnt, .rebind, .tallies, .host] s t := by
  unfold execChainGrant at h
  have h := Host.Outcome.next.inj h
  subst h
  split
  · exact Frame.refl
  · refine Frame.ite (fun _ => ?_) (fun _ => ?_)
    · exact Frame.refl
    · split
      · refine Frame.ite (fun _ => ?_) (fun _ => ?_)
        · refine Frame.comp State.formAgain_frame (by decide) ?_
          exact Frame.refl
        · exact Frame.refl
      · refine Frame.ite (fun _ => ?_) (fun _ => ?_)
        · refine Frame.comp State.grantHead_frame (by decide) ?_
          exact Frame.refl
        · exact Frame.refl

theorem execChainDataArrival_frame {core : Nat} {s : State} {t : State} (h : execChainDataArrival core s = .next t) : Frame [.mem, .dram, .rmk, .sessions, .models, .streams, .jobs, .hatch, .burin, .lines, .ihx, .evt, .cnt, .rebind, .tallies, .host] s t := by
  unfold execChainDataArrival at h
  have h := Host.Outcome.next.inj h
  subst h
  extract_lets -merge v1 v2
  clear_value v1 v2
  split
  · exact Frame.refl
  · split
    · refine Frame.ite (fun _ => ?_) (fun _ => ?_)
      · refine Frame.comp State.tearDown_frame (by decide) ?_
        exact Frame.refl
      · extract_lets -merge v3 v4 v5 v6
        refine Frame.cut v4 (by
          unfold v4
          refine Frame.comp State.setCore_frame (by decide) ?_
          exact Frame.refl) fun h7 => ?_
        refine Frame.cut v5 (by
          unfold v5
          refine Frame.comp State.spaceStore_frame (by decide) ?_
          assumption) fun h8 => ?_
        refine Frame.cut v6 (by
          unfold v6
          refine Frame.ite (fun _ => ?_) (fun _ => ?_)
          · refine Frame.comp State.sendChain_frame (by decide) ?_
            assumption
          · assumption) fun h9 => ?_
        clear_value v3 v4 v5 v6
        refine Frame.comp State.sendReleases_frame (by decide) ?_
        assumption
    · exact Frame.refl

theorem execWaitTimeout_frame {core : Nat} {s : State} {t : State} (h : execWaitTimeout core s = .next t) : Frame [.mem, .dram, .rmk, .sessions, .models, .streams, .jobs, .hatch, .burin, .lines, .ihx, .evt, .cnt, .rebind, .tallies, .host] s t := by
  unfold execWaitTimeout at h
  have h := Host.Outcome.next.inj h
  subst h
  extract_lets -merge v1 v2
  have h_v2 : ∀ x3, Frame [.mem, .dram, .rmk, .sessions, .models, .streams, .jobs, .hatch, .burin, .lines, .ihx, .evt, .cnt, .rebind, .tallies, .host] s x3 → Frame [.mem, .dram, .rmk, .sessions, .models, .streams, .jobs, .hatch, .burin, .lines, .ihx, .evt, .cnt, .rebind, .tallies, .host] s (v2 x3) := by
    intro x3 h4
    unfold v2
    refine Frame.foldl ?_ (fun t5 a6 h7 => ?_)
    · assumption
    · refine Frame.comp State.tearDown_frame (by decide) ?_
      assumption
  clear_value v1 v2
  split
  · refine Frame.ite (fun _ => ?_) (fun _ => ?_)
    · refine Frame.comp State.tearDown_frame (by decide) ?_
      exact Frame.refl
    · refine h_v2 _ ?_
      exact Frame.refl
  · refine h_v2 _ ?_
    exact Frame.refl

theorem State.setChan_frame {s : State} {c : Nat} {x : Channel} : Frame [.mem] s (State.setChan s c x) := by
  unfold State.setChan
  extract_lets -merge v1
  clear_value v1
  refine Frame.comp (M := [.mem]) (t := s) (fun b hb => ?_) (by decide) ?_
  · cases b with | mem => exact absurd (by decide) hb | _ => rfl
  · exact Frame.refl

theorem State.serve_frame {s : State} {channel : Nat} {t : Xfer} : Frame [.mem, .dram, .rmk, .sessions, .models, .streams, .jobs, .hatch, .burin, .lines, .ihx, .evt, .cnt, .rebind, .tallies, .host] s (State.serve s channel t) := by
  unfold State.serve
  split
  · extract_lets -merge v1
    clear_value v1
    refine Frame.comp (M := [.mem]) (t := s) (fun b hb => ?_) (by decide) ?_
    · cases b with | mem => exact absurd (by decide) hb | _ => rfl
    · exact Frame.refl
  · extract_lets -merge v2 v3 v4 v5 v6 v7 v8 v9 v10 v11 v12
    refine Frame.cut v2 (by
      unfold v2
      refine Frame.ite (fun _ => ?_) (fun _ => ?_)
      · refine Frame.comp State.bump_frame (by decide) ?_
        exact Frame.refl
      · exact Frame.refl) fun h13 => ?_
    refine Frame.cut v4 (by
      unfold v4
      refine Frame.comp (M := [.mem]) (t := v2) (fun b hb => ?_) (by decide) ?_
      · cases b with | mem => exact absurd (by decide) hb | _ => rfl
      · assumption) fun h14 => ?_
    refine Frame.cut v6 (by
      unfold v6
      refine Frame.ite (fun _ => ?_) (fun _ => ?_)
      · refine Frame.comp State.bump_frame (by decide) ?_
        assumption
      · refine Frame.comp State.bump_frame (by decide) ?_
        refine Frame.comp State.spaceStore_frame (by decide) ?_
        assumption) fun h15 => ?_
    refine Frame.cut v9 (by
      unfold v9
      refine Frame.comp State.setCore_frame (by decide) ?_
      assumption) fun h16 => ?_
    refine Frame.cut v10 (by
      unfold v10
      refine Frame.comp State.sendReleases_frame (by decide) ?_
      assumption) fun h17 => ?_
    clear_value v2 v3 v4 v5 v6 v7 v8 v9 v10 v11 v12
    refine Frame.comp State.charge_frame (by decide) ?_
    assumption

theorem State.scrubOne_frame {s : State} {channel : Nat} : Frame [.mem] s (State.scrubOne s channel) := by
  unfold State.scrubOne
  extract_lets -merge v1
  clear_value v1
  refine Frame.ite (fun _ => ?_) (fun _ => ?_)
  · refine Frame.comp State.setChan_frame (by decide) ?_
    exact Frame.refl
  · refine Frame.comp State.setChan_frame (by decide) ?_
    exact Frame.refl

theorem execDramService_frame {channel : Nat} {s : State} {t : State} (h : execDramService channel s = .next t) : Frame [.mem, .dram, .rmk, .sessions, .models, .streams, .jobs, .hatch, .burin, .lines, .ihx, .evt, .cnt, .rebind, .tallies, .host] s t := by
  unfold execDramService at h
  have h := Host.Outcome.next.inj h
  subst h
  split
  · refine Frame.ite (fun _ => ?_) (fun _ => ?_)
    · refine Frame.comp State.scrubOne_frame (by decide) ?_
      exact Frame.refl
    · refine Frame.ite (fun _ => ?_) (fun _ => ?_)
      · refine Frame.comp State.serve_frame (by decide) ?_
        exact Frame.refl
      · exact Frame.refl
  · exact Frame.refl

theorem State.copyPiece_frame {s : State} {m : Model} {set : List Nat} {job done : Nat} : Frame [.sessions, .models, .jobs, .hatch, .tallies] s (State.copyPiece s m set job done) := by
  unfold State.copyPiece
  extract_lets -merge v1 v2 v3 v4 v5 v6 v7 v8
  refine Frame.cut v5 (by
    unfold v5
    refine Frame.comp (M := [.hatch]) (t := s) (fun b hb => ?_) (by decide) ?_
    · cases b with | hatch => exact absurd (by decide) hb | _ => rfl
    · exact Frame.refl) fun h9 => ?_
  refine Frame.cut v7 (by
    unfold v7
    refine Frame.comp State.charge_frame (by decide) ?_
    assumption) fun h10 => ?_
  clear_value v1 v2 v3 v4 v5 v6 v7 v8
  refine Frame.comp State.setModel_frame (by decide) ?_
  assumption

theorem execPromotion_frame {handle : Nat} {s : State} {t : State} (h : execPromotion handle s = .next t) : Frame [.mem, .sessions, .models, .jobs, .hatch, .tallies] s t := by
  unfold execPromotion at h
  have h := Host.Outcome.next.inj h
  subst h
  split
  · exact Frame.refl
  · split
    · refine Frame.comp State.promote_frame (by decide) ?_
      exact Frame.refl
    · refine Frame.ite (fun _ => ?_) (fun _ => ?_)
      · refine Frame.comp State.copyPiece_frame (by decide) ?_
        exact Frame.refl
      · exact Frame.refl
    · exact Frame.refl

theorem execDramCorrectedRead_frame {channel _addr : Nat} {s : State} {t : State} (h : execDramCorrectedRead channel _addr s = .next t) : Frame [.mem, .evt, .cnt, .host] s t := by
  unfold execDramCorrectedRead at h
  have h := Host.Outcome.next.inj h
  subst h
  refine Frame.ite (fun _ => ?_) (fun _ => ?_)
  · exact Frame.refl
  · extract_lets -merge v1 v2 v3
    refine Frame.cut v3 (by
      unfold v3
      refine Frame.comp State.bump_frame (by decide) ?_
      refine Frame.comp State.setChan_frame (by decide) ?_
      exact Frame.refl) fun h4 => ?_
    clear_value v1 v2 v3
    refine Frame.ite (fun _ => ?_) (fun _ => ?_)
    · refine Frame.comp State.raiseAlarm_frame (by decide) ?_
      assumption
    · assumption

theorem execDramUncorrectableRead_frame {addr : Nat} {s : State} {t : State} (h : execDramUncorrectableRead addr s = .next t) : Frame [.boot, .mem, .dram, .rmk, .sessions, .models, .streams, .jobs, .hatch, .burin, .lines, .ihx, .evt, .fault, .cnt, .rebind, .tallies, .host] s t := by
  unfold execDramUncorrectableRead at h
  have h := Host.Outcome.next.inj h
  subst h
  refine Frame.ite (fun _ => ?_) (fun _ => ?_)
  · exact Frame.refl
  · extract_lets -merge v1 v2 v3
    refine Frame.cut v1 (by
      unfold v1
      refine Frame.comp State.bump_frame (by decide) ?_
      exact Frame.refl) fun h4 => ?_
    refine Frame.cut v3 (by
      unfold v3
      refine Frame.comp (M := [.mem]) (t := v1) (fun b hb => ?_) (by decide) ?_
      · cases b with | mem => exact absurd (by decide) hb | _ => rfl
      · assumption) fun h5 => ?_
    clear_value v1 v2 v3
    refine Frame.ite (fun _ => ?_) (fun _ => ?_)
    · refine Frame.comp State.moduleFault_frame (by decide) ?_
      assumption
    · refine Frame.ite (fun _ => ?_) (fun _ => ?_)
      · split
        · refine Frame.comp State.faultRowOf_frame (by decide) ?_
          assumption
        · assumption
      · refine Frame.ite (fun _ => ?_) (fun _ => ?_)
        · split
          · refine Frame.ite (fun _ => ?_) (fun _ => ?_)
            · refine Frame.comp State.tearDown_frame (by decide) ?_
              assumption
            · assumption
          · assumption
        · split
          · refine Frame.ite (fun _ => ?_) (fun _ => ?_)
            · refine Frame.comp State.tearDown_frame (by decide) ?_
              assumption
            · split
              · refine Frame.ite (fun _ => ?_) (fun _ => ?_)
                · assumption
                · refine Frame.comp State.damage_frame (by decide) ?_
                  assumption
              · assumption
          · assumption

theorem execDramScrub_frame {channel : Nat} {s : State} {t : State} (h : execDramScrub channel s = .next t) : Frame [.mem] s t := by
  unfold execDramScrub at h
  have h := Host.Outcome.next.inj h
  subst h
  refine Frame.ite (fun _ => ?_) (fun _ => ?_)
  · refine Frame.comp State.scrubOne_frame (by decide) ?_
    exact Frame.refl
  · exact Frame.refl

theorem execRefresh_frame {channel : Nat} {s : State} {t : State} (h : execRefresh channel s = .next t) : Frame [.mem, .cnt] s t := by
  unfold execRefresh at h
  have h := Host.Outcome.next.inj h
  subst h
  refine Frame.ite (fun _ => ?_) (fun _ => ?_)
  · exact Frame.refl
  · extract_lets -merge v1
    clear_value v1
    refine Frame.ite (fun _ => ?_) (fun _ => ?_)
    · refine Frame.comp State.bump_frame (by decide) ?_
      refine Frame.comp State.setChan_frame (by decide) ?_
      exact Frame.refl
    · refine Frame.comp State.setChan_frame (by decide) ?_
      exact Frame.refl

theorem State.noteSlip_frame {s : State} {x : Stream} {lateUs : Nat} : Frame [.evt, .cnt, .host] s (State.noteSlip s x lateUs) := by
  unfold State.noteSlip
  refine Frame.comp State.writeTrace_frame (by decide) ?_
  refine Frame.comp State.bump_frame (by decide) ?_
  exact Frame.refl

theorem leaveUnit_frame {s : State} {x : Stream} : Frame [.streams, .burin] s (leaveUnit s x) := by
  unfold leaveUnit
  refine Frame.comp State.setStream_frame (by decide) ?_
  refine Frame.comp State.freeUnit_frame (by decide) ?_
  exact Frame.refl

theorem execFrost_frame {job : Nat} {live : List ExtentKey} {s : State} {t : State} (h : execFrost job live s = .next t) : Frame [.sessions, .streams, .jobs, .hatch, .burin, .evt, .cnt, .tallies, .host] s t := by
  unfold execFrost at h
  have h := Host.Outcome.next.inj h
  subst h
  split
  · exact Frame.refl
  · split
    · exact Frame.refl
    · refine Frame.ite (fun _ => ?_) (fun _ => ?_)
      · exact Frame.refl
      · extract_lets -merge v1 v2 v3 v4 v5 v6 v7 v8 v9
        refine Frame.cut v5 (by
          unfold v5
          refine Frame.foldl ?_ (fun t11 a12 h13 => ?_)
          · exact Frame.refl
          · refine Frame.comp leaveUnit_frame (by decide) ?_
            assumption) fun h10 => ?_
        refine Frame.cut v6 (by
          unfold v6
          refine Frame.comp State.releaseCores_frame (by decide) ?_
          assumption) fun h14 => ?_
        refine Frame.cut v7 (by
          unfold v7
          refine Frame.comp State.setJob_frame (by decide) ?_
          assumption) fun h15 => ?_
        refine Frame.cut v9 (by
          unfold v9
          refine Frame.comp State.charge_frame (by decide) ?_
          assumption) fun h16 => ?_
        clear_value v1 v2 v3 v4 v5 v6 v7 v8 v9
        refine Frame.comp State.writeTrace_frame (by decide) ?_
        refine Frame.comp State.bump_frame (by decide) ?_
        refine Frame.comp State.nextFrost_frame (by decide) ?_
        assumption

theorem State.frostLive_frame {s : State} {m : List Byte} {j : Job} : Frame [.sessions, .streams, .jobs, .hatch, .evt, .cnt, .rebind, .tallies, .host] s (State.frostLive s m j) := by
  unfold State.frostLive
  extract_lets -merge v1 v2 v3 v4 v5 v6 v7 v8 v9
  refine Frame.cut v3 (by
    unfold v3
    refine Frame.foldl ?_ (fun t11 a12 h13 => ?_)
    · exact Frame.refl
    · extract_lets -merge v14
      clear_value v14
      refine Frame.comp State.setCore_frame (by decide) ?_
      assumption) fun h10 => ?_
  refine Frame.cut v5 (by
    unfold v5
    refine Frame.comp (M := [.rebind]) (t := v3) (fun b hb => ?_) (by decide) ?_
    · cases b with | rebind => exact absurd (by decide) hb | _ => rfl
    · assumption) fun h15 => ?_
  refine Frame.cut v6 (by
    unfold v6
    refine Frame.comp State.setJob_frame (by decide) ?_
    assumption) fun h16 => ?_
  refine Frame.cut v7 (by
    unfold v7
    refine Frame.foldl ?_ (fun t18 a19 h20 => ?_)
    · assumption
    · refine Frame.comp State.setStream_frame (by decide) ?_
      assumption) fun h17 => ?_
  refine Frame.cut v8 (by
    unfold v8
    refine Frame.foldl ?_ (fun t22 a23 h24 => ?_)
    · assumption
    · refine Frame.comp State.noteSlip_frame (by decide) ?_
      assumption) fun h21 => ?_
  clear_value v1 v2 v3 v4 v5 v6 v7 v8 v9
  refine Frame.comp State.bump_frame (by decide) ?_
  refine Frame.comp State.charge_frame (by decide) ?_
  assumption

theorem State.bindLive_frame {s : State} {m : List Byte} {j : Job} {cores : List Nat} : Frame [.jobs] s (State.bindLive s m j cores) := by
  unfold State.bindLive
  refine Frame.comp State.setJob_frame (by decide) ?_
  exact Frame.refl

theorem execLiveFrost_frame {job : Nat} {s : State} {t : State} (h : execLiveFrost job s = .next t) : Frame [.sessions, .streams, .jobs, .hatch, .evt, .cnt, .rebind, .tallies, .host] s t := by
  unfold execLiveFrost at h
  have h := Host.Outcome.next.inj h
  subst h
  split
  · split
    · exact Frame.refl
    · refine Frame.ite (fun _ => ?_) (fun _ => ?_)
      · exact Frame.refl
      · refine Frame.ite (fun _ => ?_) (fun _ => ?_)
        · refine Frame.ite (fun _ => ?_) (fun _ => ?_)
          · exact Frame.refl
          · refine Frame.comp State.nextFrost_frame (by decide) ?_
            refine Frame.comp State.frostLive_frame (by decide) ?_
            exact Frame.refl
        · refine Frame.ite (fun _ => ?_) (fun _ => ?_)
          · refine Frame.comp State.bindLive_frame (by decide) ?_
            exact Frame.refl
          · exact Frame.refl
  · exact Frame.refl

theorem rejectRow_frame {reason : Nat} {s : State} {x : Stream} : Frame [.rmk, .sessions, .streams, .jobs, .cnt, .tallies, .host] s (rejectRow reason s x) := by
  unfold rejectRow
  refine Frame.ite (fun _ => ?_) (fun _ => ?_)
  · exact Frame.refl
  · refine Frame.foldl ?_ (fun t1 a2 h3 => ?_)
    · exact Frame.refl
    · refine Frame.ite (fun _ => ?_) (fun _ => ?_)
      · refine Frame.comp finishPull_frame (by decide) ?_
        assumption
      · refine Frame.comp State.complete_frame (by decide) ?_
        assumption

theorem State.readAgain_frame {s : State} {j : Job} {tag core age off len : Nat} : Frame [.jobs, .ihx] s (State.readAgain s j tag core age off len) := by
  unfold State.readAgain
  extract_lets -merge v1
  clear_value v1
  refine Frame.comp State.sendRead_frame (by decide) ?_
  refine Frame.comp State.setJob_frame (by decide) ?_
  exact Frame.refl

theorem unpark_frame {m : List Byte} {j : Job} {s : State} {q : Park} : Frame [.dram, .jobs, .hatch, .ihx] s (unpark m j s q) := by
  unfold unpark
  extract_lets -merge v1 v2 v3 v4 v5 v6 v7
  refine Frame.cut v4 (by
    unfold v4
    split
    · refine Frame.comp State.setCore_frame (by decide) ?_
      exact Frame.refl
    · exact Frame.refl) fun h8 => ?_
  clear_value v1 v2 v3 v4 v5 v6 v7
  refine Frame.ite (fun _ => ?_) (fun _ => ?_)
  · refine Frame.comp State.spaceStore_frame (by decide) ?_
    exact Frame.refl
  · split
    · assumption
    · extract_lets -merge v9 v10 v11
      refine Frame.cut v10 (by
        unfold v10
        refine Frame.comp State.setCore_frame (by decide) ?_
        assumption) fun h12 => ?_
      clear_value v9 v10 v11
      refine Frame.comp State.readAgain_frame (by decide) ?_
      assumption

theorem restoreParts_frame {j : Job} {l : List (Nat × Loc × Nat)} {b : List Byte} {s : State} :
    Frame [.hatch] s (restoreParts j s l b) := by
  induction l generalizing s b with
  | nil => exact Frame.refl
  | cons p rest ih =>
    unfold restoreParts
    extract_lets s1
    refine Frame.comp (t := s1) ih (List.Subset.refl _) (Frame.ite (fun _ => ?_) (fun _ => Frame.refl))
    intro b hb
    cases b <;> first | rfl | exact absurd (by decide) hb

theorem restoreExtent_frame {m : List Byte} {j : Job} {all : List (ExtentKey × List Byte)} {s : State} {e : ExtentKey × List Byte} : Frame [.hatch] s (restoreExtent m j all s e) := by
  unfold restoreExtent
  refine Frame.ite (fun _ => ?_) (fun _ => ?_)
  · exact Frame.refl
  · refine Frame.comp restoreParts_frame (by decide) ?_
    exact Frame.refl

theorem restoreLink_frame {m : List Byte} {j : Job} {a : SaveArea} {s : State} {i : Nat} : Frame [.hatch] s (restoreLink m j a s i) := by
  unfold restoreLink
  extract_lets -merge v1 v2 v3
  have h_v3 : ∀ x4 x5 x6 x7, Frame [.hatch] s x4 → Frame [.hatch] s (v3 x4 x5 x6 x7) := by
    intro x4 x5 x6 x7 h8
    unfold v3
    split
    · refine Frame.comp State.setCore_frame (by decide) ?_
      assumption
    · assumption
  clear_value v1 v2 v3
  refine h_v3 _ _ _ _ ?_
  refine h_v3 _ _ _ _ ?_
  exact Frame.refl

theorem takeUnit_frame {s : State} {p : Nat × Nat} : Frame [.streams, .burin] s (takeUnit s p) := by
  unfold takeUnit
  split
  · exact Frame.refl
  · extract_lets -merge v1
    refine Frame.cut v1 (by
      unfold v1
      refine Frame.comp State.dropCtx_frame (by decide) ?_
      refine Frame.comp State.freeUnit_frame (by decide) ?_
      exact Frame.refl) fun h2 => ?_
    clear_value v1
    refine Frame.comp State.bindUnit_frame (by decide) ?_
    assumption

theorem finishRebind_frame {id : Nat} {s : State} : Frame [.streams, .jobs, .hatch, .burin, .rebind] s (finishRebind id s) := by
  unfold finishRebind
  split
  · refine Frame.ite (fun _ => ?_) (fun _ => ?_)
    · exact Frame.refl
    · extract_lets -merge v1 v2 v3 v4
      refine Frame.cut v1 (by
        unfold v1
        refine Frame.foldl ?_ (fun t6 a7 h8 => ?_)
        · exact Frame.refl
        · refine Frame.comp takeUnit_frame (by decide) ?_
          assumption) fun h5 => ?_
      refine Frame.cut v2 (by
        unfold v2
        refine Frame.comp State.releaseCores_frame (by decide) ?_
        assumption) fun h9 => ?_
      refine Frame.cut v3 (by
        unfold v3
        refine Frame.comp State.setJob_frame (by decide) ?_
        assumption) fun h10 => ?_
      clear_value v1 v2 v3 v4
      refine Frame.comp (M := [.rebind]) (t := v3) (fun b hb => ?_) (by decide) ?_
      · cases b with | rebind => exact absurd (by decide) hb | _ => rfl
      · assumption
  · exact Frame.refl

theorem State.restoreSave_frame {s : State} {m : List Byte} {j : Job} {a : SaveArea} : Frame [.dram, .streams, .jobs, .hatch, .burin, .ihx, .rebind] s (State.restoreSave s m j a) := by
  unfold State.restoreSave
  extract_lets -merge v1 v2 v3 v4
  refine Frame.cut v1 (by
    unfold v1
    refine Frame.foldl ?_ (fun t6 a7 h8 => ?_)
    · exact Frame.refl
    · refine Frame.comp restoreExtent_frame (by decide) ?_
      assumption) fun h5 => ?_
  refine Frame.cut v2 (by
    unfold v2
    refine Frame.foldl ?_ (fun t10 a11 h12 => ?_)
    · assumption
    · refine Frame.comp restoreLink_frame (by decide) ?_
      assumption) fun h9 => ?_
  refine Frame.cut v3 (by
    unfold v3
    refine Frame.foldl ?_ (fun t14 a15 h16 => ?_)
    · assumption
    · split
      · extract_lets -merge v17 v18
        clear_value v17 v18
        refine Frame.comp State.setStream_frame (by decide) ?_
        assumption
      · assumption) fun h13 => ?_
  refine Frame.cut v4 (by
    unfold v4
    refine Frame.comp State.setJob_frame (by decide) ?_
    assumption) fun h19 => ?_
  clear_value v1 v2 v3 v4
  refine Frame.comp finishRebind_frame (by decide) ?_
  refine Frame.foldl ?_ (fun t20 a21 h22 => ?_)
  · assumption
  · refine Frame.comp unpark_frame (by decide) ?_
    assumption

theorem execThaw_frame {job : Nat} {s : State} {t : State} (h : execThaw job s = .next t) : Frame [.mem, .dram, .rmk, .sessions, .models, .streams, .jobs, .hatch, .burin, .lines, .ihx, .evt, .cnt, .rebind, .tallies, .host] s t := by
  unfold execThaw at h
  have h := Host.Outcome.next.inj h
  subst h
  split
  · exact Frame.refl
  · split
    · refine Frame.ite (fun _ => ?_) (fun _ => ?_)
      · exact Frame.refl
      · split
        · refine Frame.comp State.tearDownWith_frame (by decide) ?_
          refine Frame.foldl ?_ (fun t1 a2 h3 => ?_)
          · exact Frame.refl
          · refine Frame.comp rejectRow_frame (by decide) ?_
            assumption
        · extract_lets -merge v4 v5 v6 v7 v8 v9
          refine Frame.cut v6 (by
            unfold v6
            refine Frame.comp State.restoreSave_frame (by decide) ?_
            exact Frame.refl) fun h10 => ?_
          refine Frame.cut v8 (by
            unfold v8
            refine Frame.comp State.charge_frame (by decide) ?_
            assumption) fun h11 => ?_
          refine Frame.cut v9 (by
            unfold v9
            refine Frame.ite (fun _ => ?_) (fun _ => ?_)
            · refine Frame.comp State.requestFrost_frame (by decide) ?_
              assumption
            · assumption) fun h12 => ?_
          clear_value v4 v5 v6 v7 v8 v9
          refine Frame.comp State.writeTrace_frame (by decide) ?_
          refine Frame.comp State.bump_frame (by decide) ?_
          refine Frame.comp State.nextFrost_frame (by decide) ?_
          assumption
    · exact Frame.refl

theorem State.returnCredits_frame {s : State} {port vc n : Nat} : Frame [.ihx] s (State.returnCredits s port vc n) := by
  unfold State.returnCredits
  refine Frame.comp State.send_frame (by decide) ?_
  exact Frame.refl

theorem execRemoteReplyParked_frame {job tag : Nat} {data : List Byte} {s : State} {t : State} (h : execRemoteReplyParked job tag data s = .next t) : Frame [.mem, .dram, .rmk, .sessions, .models, .streams, .jobs, .hatch, .burin, .lines, .ihx, .evt, .cnt, .rebind, .tallies, .host] s t := by
  unfold execRemoteReplyParked at h
  have h := Host.Outcome.next.inj h
  subst h
  split
  · exact Frame.refl
  · split
    · exact Frame.refl
    · extract_lets -merge v1 v2 v3 v4 v5 v6 v7 v8
      refine Frame.cut v4 (by
        unfold v4
        refine Frame.comp State.returnCredits_frame (by decide) ?_
        exact Frame.refl) fun h9 => ?_
      refine Frame.cut v5 (by
        unfold v5
        refine Frame.comp State.setJob_frame (by decide) ?_
        assumption) fun h10 => ?_
      refine Frame.cut v7 (by
        unfold v7
        split
        · split
          · refine Frame.comp State.setJob_frame (by decide) ?_
            assumption
          · refine Frame.comp State.setJob_frame (by decide) ?_
            assumption
        · refine Frame.comp State.sendReleases_frame (by decide) ?_
          refine Frame.comp State.setCore_frame (by decide) ?_
          assumption) fun h11 => ?_
      clear_value v1 v2 v3 v4 v5 v6 v7 v8
      refine Frame.comp State.bump_frame (by decide) ?_
      refine Frame.comp State.charge_frame (by decide) ?_
      assumption

theorem execFillReadTimeout_frame {job tag : Nat} {s : State} {t : State} (h : execFillReadTimeout job tag s = .next t) : Frame [.mem, .dram, .rmk, .sessions, .models, .streams, .jobs, .hatch, .burin, .lines, .ihx, .evt, .cnt, .rebind, .tallies, .host] s t := by
  unfold execFillReadTimeout at h
  have h := Host.Outcome.next.inj h
  subst h
  split
  · exact Frame.refl
  · split
    · exact Frame.refl
    · refine Frame.ite (fun _ => ?_) (fun _ => ?_)
      · exact Frame.refl
      · refine Frame.ite (fun _ => ?_) (fun _ => ?_)
        · refine Frame.comp State.tearDown_frame (by decide) ?_
          exact Frame.refl
        · extract_lets -merge v1 v2
          refine Frame.cut v2 (by
            unfold v2
            refine Frame.comp State.setCore_frame (by decide) ?_
            exact Frame.refl) fun h3 => ?_
          clear_value v1 v2
          refine Frame.comp State.bump_frame (by decide) ?_
          refine Frame.comp State.readAgain_frame (by decide) ?_
          assumption

theorem State.noPlace_frame {s : State} {x : Stream} {last : Nat} : Frame [.rmk, .sessions, .streams, .jobs, .burin, .lines, .ihx, .cnt, .tallies, .host] s (State.noPlace s x last) := by
  unfold State.noPlace
  refine Frame.ite (fun _ => ?_) (fun _ => ?_)
  · refine Frame.comp State.faultStream_frame (by decide) ?_
    exact Frame.refl
  · exact Frame.refl

theorem State.vacated_frame {s : State} {x : Stream} : Frame [.streams, .burin] s (State.vacated s x) := by
  unfold State.vacated
  refine Frame.comp State.setStream_frame (by decide) ?_
  refine Frame.comp State.freeUnit_frame (by decide) ?_
  exact Frame.refl

theorem State.followRow_frame {s : State} {lost : Nat × Nat} {job : Nat} : Frame [.streams] s (State.followRow s lost job) := by
  unfold State.followRow
  extract_lets -merge v1
  clear_value v1
  refine Frame.comp (M := [.streams]) (t := s) (fun b hb => ?_) (by decide) ?_
  · cases b with | streams => exact absurd (by decide) hb | _ => rfl
  · exact Frame.refl

theorem State.restartAt_frame {s : State} {a : Ask} {p : Place} {lost : Nat × Nat} {r : ExportRec} {x : Stream} : Frame [.mem, .streams, .jobs, .hatch, .burin, .evt, .cnt, .host] s (State.restartAt s a p lost r x) := by
  unfold State.restartAt
  extract_lets -merge v1
  refine Frame.cut v1 (by
    unfold v1
    refine Frame.comp State.clearPlace_frame (by decide) ?_
    refine Frame.comp State.commitPlace_frame (by decide) ?_
    exact Frame.refl) fun h2 => ?_
  clear_value v1
  split
  · assumption
  · extract_lets -merge v3 v4 v5 v6
    refine Frame.cut v3 (by
      unfold v3
      refine Frame.ite (fun _ => ?_) (fun _ => ?_)
      · refine Frame.comp State.followRow_frame (by decide) ?_
        assumption
      · assumption) fun h7 => ?_
    refine Frame.cut v4 (by
      unfold v4
      refine Frame.comp State.writeLog_frame (by decide) ?_
      refine Frame.comp State.listPlans_frame (by decide) ?_
      assumption) fun h8 => ?_
    refine Frame.cut v6 (by
      unfold v6
      refine Frame.comp State.setStream_frame (by decide) ?_
      assumption) fun h9 => ?_
    clear_value v3 v4 v5 v6
    refine Frame.ite (fun _ => ?_) (fun _ => ?_)
    · refine Frame.ite (fun _ => ?_) (fun _ => ?_)
      · refine Frame.comp State.noteSlip_frame (by decide) ?_
        assumption
      · assumption
    · refine Frame.comp State.setStream_frame (by decide) ?_
      assumption

theorem execKeepRestart_frame {stream : Nat} {s : State} {t : State} (h : execKeepRestart stream s = .next t) : Frame [.mem, .rmk, .sessions, .streams, .jobs, .hatch, .burin, .lines, .ihx, .evt, .cnt, .tallies, .host] s t := by
  unfold execKeepRestart at h
  have h := Host.Outcome.next.inj h
  subst h
  split
  · exact Frame.refl
  · split
    · refine Frame.ite (fun _ => ?_) (fun _ => ?_)
      · exact Frame.refl
      · extract_lets -merge v1 v2
        refine Frame.cut v2 (by
          unfold v2
          refine Frame.comp State.vacated_frame (by decide) ?_
          exact Frame.refl) fun h3 => ?_
        clear_value v1 v2
        split
        · exact Frame.refl
        · split
          · refine Frame.comp State.noPlace_frame (by decide) ?_
            exact Frame.refl
          · refine Frame.ite (fun _ => ?_) (fun _ => ?_)
            · refine Frame.comp State.noPlace_frame (by decide) ?_
              exact Frame.refl
            · refine Frame.comp State.restartAt_frame (by decide) ?_
              assumption
    · exact Frame.refl

theorem State.modTransfer_frame {s : State} {id : DWord} {f : Transfer → Transfer} : Frame [.ihx] s (State.modTransfer s id f) := by
  unfold State.modTransfer
  extract_lets -merge v1
  clear_value v1
  refine Frame.comp (M := [.ihx]) (t := s) (fun b hb => ?_) (by decide) ?_
  · cases b with | ihx => exact absurd (by decide) hb | _ => rfl
  · exact Frame.refl

theorem State.trySend_frame {s : State} {id : Nat} : Frame [.sessions, .streams, .jobs, .ihx, .cnt, .tallies] s (State.trySend s id) := by
  unfold State.trySend
  split
  · split
    · refine Frame.ite (fun _ => ?_) (fun _ => ?_)
      · exact Frame.refl
      · extract_lets -merge v1 v2 v3 v4
        refine Frame.cut v3 (by
          unfold v3
          refine Frame.comp State.modTransfer_frame (by decide) ?_
          refine Frame.comp State.setStream_frame (by decide) ?_
          exact Frame.refl) fun h5 => ?_
        clear_value v1 v2 v3 v4
        refine Frame.comp State.bump_frame (by decide) ?_
        refine Frame.comp State.charge_frame (by decide) ?_
        refine Frame.comp State.send_frame (by decide) ?_
        assumption
    · exact Frame.refl
  · exact Frame.refl

theorem State.fetchCond_frame {s : State} {u : Nat} : Frame [.burin] s (State.fetchCond s u) := by
  unfold State.fetchCond
  extract_lets -merge v1
  clear_value v1
  refine Frame.comp State.setUnit_frame (by decide) ?_
  exact Frame.refl

theorem execSampleStart_frame {unit : Nat} {s : State} {t : State} (h : execSampleStart unit s = .next t) : Frame [.streams, .burin, .cnt] s t := by
  unfold execSampleStart at h
  have h := Host.Outcome.next.inj h
  subst h
  extract_lets -merge v1 v2 v3 v4
  refine Frame.cut v2 (by
    unfold v2
    refine Frame.comp State.fetchCond_frame (by decide) ?_
    exact Frame.refl) fun h5 => ?_
  clear_value v1 v2 v3 v4
  refine Frame.ite (fun _ => ?_) (fun _ => ?_)
  · exact Frame.refl
  · split
    · exact Frame.refl
    · split
      · assumption
      · extract_lets -merge v6 v7
        refine Frame.cut v6 (by
          unfold v6
          refine Frame.ite (fun _ => ?_) (fun _ => ?_)
          · refine Frame.comp State.bump_frame (by decide) ?_
            assumption
          · assumption) fun h8 => ?_
        refine Frame.cut v7 (by
          unfold v7
          refine Frame.ite (fun _ => ?_) (fun _ => ?_)
          · refine Frame.comp State.bump_frame (by decide) ?_
            assumption
          · assumption) fun h9 => ?_
        clear_value v6 v7
        refine Frame.comp State.setStream_frame (by decide) ?_
        refine Frame.comp State.setUnit_frame (by decide) ?_
        assumption

theorem State.shareIk_frame {s : State} {j : Job} {but ik : Nat} : Frame [.rmk, .streams] s (State.shareIk s j but ik) := by
  unfold State.shareIk
  extract_lets -merge v1 v2 v3 v4
  have h_v4 : ∀ x5 x6, Frame [.rmk, .streams] s x5 → Frame [.rmk, .streams] s (v4 x5 x6) := by
    intro x5 x6 h7
    unfold v4
    refine Frame.ite (fun _ => ?_) (fun _ => ?_)
    · assumption
    · extract_lets -merge v8 v9 v10
      clear_value v8 v9 v10
      refine Frame.comp State.setStream_frame (by decide) ?_
      refine Frame.comp State.setRing_frame (by decide) ?_
      assumption
  clear_value v1 v2 v3 v4
  refine Frame.foldl ?_ (fun t11 a12 h13 => ?_)
  · exact Frame.refl
  · refine h_v4 _ _ ?_
    assumption

theorem State.measure_frame {s : State} {x : Stream} {c : Chunk} {now : Nat} {r : State × Nat} (h : State.measure s x c now = r) : Frame [.rmk, .sessions, .streams, .jobs, .tallies] s r.1 := by
  subst h
  unfold State.measure
  split
  · refine Frame.fst ?_
    exact Frame.refl
  · extract_lets -merge v1 v2 v3 v4
    refine Frame.cut v4 (by
      unfold v4
      refine Frame.comp State.charge_frame (by decide) ?_
      refine Frame.comp State.setJob_frame (by decide) ?_
      exact Frame.refl) fun h5 => ?_
    clear_value v1 v2 v3 v4
    split
    · refine Frame.fst ?_
      exact Frame.refl
    · refine Frame.fst ?_
      refine Frame.comp State.shareIk_frame (by decide) ?_
      assumption

theorem State.finishChunk_frame {s : State} {x : Stream} {c : Chunk} {now : Nat} : Frame [.rmk, .sessions, .streams, .jobs, .ihx, .evt, .cnt, .tallies, .host] s (State.finishChunk s x c now) := by
  unfold State.finishChunk
  extract_lets -merge v1 v2 v3 v4 v5 v6 v7 v8 v9 v10 v11 v12
  refine Frame.cut v1.1 (by
    unfold v1
    refine Frame.comp (State.measure_frame rfl) (by decide) ?_
    exact Frame.refl) fun h13 => ?_
  refine Frame.cut v2 (by
    unfold v2
    assumption) fun h14 => ?_
  refine Frame.cut v7 (by
    unfold v7
    refine Frame.foldl ?_ (fun t16 a17 h18 => ?_)
    · assumption
    · refine Frame.comp State.modDesc_frame (by decide) ?_
      assumption) fun h15 => ?_
  refine Frame.cut v11 (by
    unfold v11
    refine Frame.comp State.trySend_frame (by decide) ?_
    refine Frame.comp State.setStream_frame (by decide) ?_
    assumption) fun h19 => ?_
  clear_value v1 v2 v3 v4 v5 v6 v7 v8 v9 v10 v11 v12
  refine Frame.ite (fun _ => ?_) (fun _ => ?_)
  · assumption
  · refine Frame.comp State.writeTrace_frame (by decide) ?_
    assumption

theorem State.reportHandOff_frame {s : State} {x : Stream} {r : FeatRec} {n : Nat} : Frame [.rmk, .ihx] s (State.reportHandOff s x r n) := by
  unfold State.reportHandOff
  refine Frame.ite (fun _ => ?_) (fun _ => ?_)
  · refine Frame.comp State.modDesc_frame (by decide) ?_
    exact Frame.refl
  · refine Frame.ite (fun _ => ?_) (fun _ => ?_)
    · refine Frame.comp State.send_frame (by decide) ?_
      exact Frame.refl
    · exact Frame.refl

theorem State.handOff_frame {s : State} {x : Stream} {c : Chunk} {n cycles now : Nat} {v : Word} {h : Head} : Frame [.rmk, .sessions, .streams, .jobs, .ihx, .evt, .cnt, .tallies, .host] s (State.handOff s x c n cycles now v h) := by
  unfold State.handOff
  extract_lets -merge v1 v2 v3 v4 v5 v6 v7 v8
  refine Frame.cut v3 (by
    unfold v3
    refine Frame.comp State.charge_frame (by decide) ?_
    refine Frame.comp State.bump_frame (by decide) ?_
    exact Frame.refl) fun h9 => ?_
  refine Frame.cut v4 (by
    unfold v4
    refine Frame.comp State.tally_frame (by decide) ?_
    assumption) fun h10 => ?_
  refine Frame.cut v5 (by
    unfold v5
    split
    · refine Frame.comp State.reportHandOff_frame (by decide) ?_
      assumption
    · assumption) fun h11 => ?_
  refine Frame.cut v8 (by
    unfold v8
    refine Frame.ite (fun _ => ?_) (fun _ => ?_)
    · refine Frame.comp State.finishChunk_frame (by decide) ?_
      assumption
    · refine Frame.comp State.setStream_frame (by decide) ?_
      assumption) fun h12 => ?_
  clear_value v1 v2 v3 v4 v5 v6 v7 v8
  split
  · extract_lets -merge v13
    clear_value v13
    refine Frame.comp State.setStream_frame (by decide) ?_
    assumption
  · assumption

theorem execSampleHandOff_frame {unit at_ cycles : Nat} {s : State} {t : State} (h : execSampleHandOff unit at_ cycles s = .next t) : Frame [.rmk, .sessions, .streams, .jobs, .burin, .ihx, .evt, .cnt, .tallies, .host] s t := by
  unfold execSampleHandOff at h
  have h := Host.Outcome.next.inj h
  subst h
  extract_lets -merge v1 v2
  clear_value v1 v2
  split
  · exact Frame.refl
  · split
    · extract_lets -merge v3 v4
      refine Frame.cut v4 (by
        unfold v4
        refine Frame.comp State.bump_frame (by decide) ?_
        refine Frame.comp State.bump_frame (by decide) ?_
        refine Frame.comp State.setUnit_frame (by decide) ?_
        exact Frame.refl) fun h5 => ?_
      clear_value v3 v4
      refine Frame.ite (fun _ => ?_) (fun _ => ?_)
      · refine Frame.comp State.bump_frame (by decide) ?_
        refine Frame.comp State.setStream_frame (by decide) ?_
        assumption
      · refine Frame.comp State.handOff_frame (by decide) ?_
        assumption
    · exact Frame.refl

theorem execOutputStageWrite_frame {stream : Nat} {s : State} {t : State} (h : execOutputStageWrite stream s = .next t) : Frame [.streams, .cnt] s t := by
  unfold execOutputStageWrite at h
  have h := Host.Outcome.next.inj h
  subst h
  split
  · exact Frame.refl
  · split
    · exact Frame.refl
    · extract_lets -merge v1 v2 v3 v4 v5 v6 v7 v8 v9
      refine Frame.cut v8 (by
        unfold v8
        refine Frame.ite (fun _ => ?_) (fun _ => ?_)
        · refine Frame.comp State.bump_frame (by decide) ?_
          exact Frame.refl
        · exact Frame.refl) fun h10 => ?_
      clear_value v1 v2 v3 v4 v5 v6 v7 v8 v9
      refine Frame.comp State.setStream_frame (by decide) ?_
      assumption

theorem execSampleMirror_frame {stream : Nat} {s : State} {t : State} (h : execSampleMirror stream s = .next t) : Frame [.streams] s t := by
  unfold execSampleMirror at h
  have h := Host.Outcome.next.inj h
  subst h
  split
  · refine Frame.ite (fun _ => ?_) (fun _ => ?_)
    · refine Frame.comp State.setStream_frame (by decide) ?_
      exact Frame.refl
    · exact Frame.refl
  · exact Frame.refl

theorem execOutputScriberPiece_frame {stream : Nat} {s : State} {t : State} (h : execOutputScriberPiece stream s = .next t) : Frame [.sessions, .streams, .jobs, .cnt, .tallies] s t := by
  unfold execOutputScriberPiece at h
  have h := Host.Outcome.next.inj h
  subst h
  split
  · exact Frame.refl
  · extract_lets -merge v1 v2 v3 v4 v5
    refine Frame.cut v4 (by
      unfold v4
      refine Frame.comp State.bump_frame (by decide) ?_
      refine Frame.comp State.setStream_frame (by decide) ?_
      exact Frame.refl) fun h6 => ?_
    clear_value v1 v2 v3 v4 v5
    refine Frame.ite (fun _ => ?_) (fun _ => ?_)
    · exact Frame.refl
    · refine Frame.comp State.charge_frame (by decide) ?_
      assumption

theorem State.afterUnit_frame {s : State} {lost : Bool} {x : Stream} : Frame [.streams, .evt, .cnt, .host] s (State.afterUnit s lost x) := by
  unfold State.afterUnit
  extract_lets -merge v1 v2 v3 v4
  refine Frame.ite (fun _ => ?_) (fun _ => ?_)
  · refine Frame.comp State.setStream_frame (by decide) ?_
    exact Frame.refl
  · refine Frame.ite (fun _ => ?_) (fun _ => ?_)
    · refine Frame.comp State.setStream_frame (by decide) ?_
      exact Frame.refl
    · split
      · extract_lets -merge v5 v6
        refine Frame.cut v6 (by
          unfold v6
          refine Frame.comp State.setStream_frame (by decide) ?_
          exact Frame.refl) fun h7 => ?_
        clear_value v5 v6
        refine Frame.ite (fun _ => ?_) (fun _ => ?_)
        · refine Frame.comp State.noteSlip_frame (by decide) ?_
          assumption
        · assumption
      · refine Frame.comp State.setStream_frame (by decide) ?_
        exact Frame.refl

theorem State.moveUnit_frame {s : State} {u v : Nat} : Frame [.streams, .burin] s (State.moveUnit s u v) := by
  unfold State.moveUnit
  extract_lets -merge v1 v2 v3 v4 v5
  refine Frame.cut v3 (by
    unfold v3
    refine Frame.comp State.setUnit_frame (by decide) ?_
    exact Frame.refl) fun h6 => ?_
  refine Frame.cut v5 (by
    unfold v5
    refine Frame.comp State.setUnit_frame (by decide) ?_
    assumption) fun h7 => ?_
  clear_value v1 v2 v3 v4 v5
  refine Frame.foldl ?_ (fun t8 a9 h10 => ?_)
  · assumption
  · split
    · refine Frame.ite (fun _ => ?_) (fun _ => ?_)
      · refine Frame.comp State.setStream_frame (by decide) ?_
        assumption
      · assumption
    · assumption

theorem State.spreadCtx_frame {s : State} {x : Stream} : Frame [.streams, .burin] s (State.spreadCtx s x) := by
  unfold State.spreadCtx
  extract_lets -merge v1
  refine Frame.cut v1 (by
    unfold v1
    refine Frame.comp State.freeUnit_frame (by decide) ?_
    exact Frame.refl) fun h2 => ?_
  clear_value v1
  split
  · refine Frame.comp State.bindUnit_frame (by decide) ?_
    assumption
  · refine Frame.comp State.setStream_frame (by decide) ?_
    assumption

theorem execBurinTakeover_frame {unit replacement : Nat} {s : State} {t : State} (h : execBurinTakeover unit replacement s = .next t) : Frame [.mem, .dram, .rmk, .sessions, .models, .streams, .jobs, .hatch, .burin, .lines, .ihx, .evt, .cnt, .rebind, .tallies, .host] s t := by
  unfold execBurinTakeover at h
  have h := Host.Outcome.next.inj h
  subst h
  extract_lets -merge v1 v2 v3 v4 v5 v6 v7 v8 v9 v10 v11 v12 v13 v14 v15 v16 v17
  refine Frame.cut v3 (by
    unfold v3
    refine Frame.comp State.bump_frame (by decide) ?_
    refine Frame.comp State.setUnit_frame (by decide) ?_
    exact Frame.refl) fun h18 => ?_
  refine Frame.cut v4 (by
    unfold v4
    split
    · refine Frame.ite (fun _ => ?_) (fun _ => ?_)
      · refine Frame.comp State.dropPlace_frame (by decide) ?_
        assumption
      · assumption
    · assumption) fun h19 => ?_
  refine Frame.cut v8 (by
    unfold v8
    refine Frame.foldl ?_ (fun t21 a22 h23 => ?_)
    · assumption
    · refine Frame.comp State.tearDown_frame (by decide) ?_
      assumption) fun h20 => ?_
  refine Frame.cut v12 (by
    unfold v12
    refine Frame.foldl ?_ (fun t25 a26 h27 => ?_)
    · assumption
    · split
      · refine Frame.comp State.afterUnit_frame (by decide) ?_
        assumption
      · assumption) fun h24 => ?_
  refine Frame.cut v13 (by
    unfold v13
    refine Frame.comp State.bump_frame (by decide) ?_
    assumption) fun h28 => ?_
  refine Frame.cut v16 (by
    unfold v16
    refine Frame.foldl ?_ (fun t30 a31 h32 => ?_)
    · assumption
    · split
      · refine Frame.comp State.spreadCtx_frame (by decide) ?_
        assumption
      · assumption) fun h29 => ?_
  clear_value v1 v2 v3 v4 v5 v6 v7 v8 v9 v10 v11 v12 v13 v14 v15 v16 v17
  refine Frame.ite (fun _ => ?_) (fun _ => ?_)
  · exact Frame.refl
  · refine Frame.ite (fun _ => ?_) (fun _ => ?_)
    · assumption
    · split
      · extract_lets -merge v33
        clear_value v33
        refine Frame.comp State.writeLog_frame (by decide) ?_
        refine Frame.comp State.moveUnit_frame (by decide) ?_
        assumption
      · refine Frame.comp State.raiseAlarm_frame (by decide) ?_
        assumption

theorem execBurinContextMove_frame {stream unit : Nat} {s : State} {t : State} (h : execBurinContextMove stream unit s = .next t) : Frame [.streams, .burin] s t := by
  unfold execBurinContextMove at h
  have h := Host.Outcome.next.inj h
  subst h
  split
  · exact Frame.refl
  · extract_lets -merge v1 v2 v3 v4 v5
    refine Frame.cut v3 (by
      unfold v3
      refine Frame.comp State.freeUnit_frame (by decide) ?_
      exact Frame.refl) fun h6 => ?_
    refine Frame.cut v4 (by
      unfold v4
      refine Frame.comp State.bindUnit_frame (by decide) ?_
      assumption) fun h7 => ?_
    clear_value v1 v2 v3 v4 v5
    refine Frame.ite (fun _ => ?_) (fun _ => ?_)
    · exact Frame.refl
    · refine Frame.comp State.setUnit_frame (by decide) ?_
      assumption

end Sys2Proof.Machine
end

