-- ==== Sys2Proof/Laws/FrameLines.lean ====
section
/-! SUPPORT. Frames: which blocks each operation may change, for audio lines, the plan and adaptation. -/

namespace Sys2Proof.Machine

open Sys2Proof

theorem State.setDirAt_frame {s : State} {k : Nat} {x : Direction} : Frame [.lines] s (State.setDirAt s k x) := by
  unfold State.setDirAt
  refine Frame.comp State.setDir_frame (by decide) ?_
  exact Frame.refl

theorem State.setGroup_frame {s : State} {g : Nat} {x : Group} : Frame [.lines] s (State.setGroup s g x) := by
  unfold State.setGroup
  extract_lets -merge v1
  clear_value v1
  refine Frame.comp (M := [.lines]) (t := s) (fun b hb => ?_) (by decide) ?_
  · cases b with | lines => exact absurd (by decide) hb | _ => rfl
  · exact Frame.refl

theorem State.setOsc_frame {s : State} {n : Nat} {x : Osc} : Frame [.lines] s (State.setOsc s n x) := by
  unfold State.setOsc
  extract_lets -merge v1
  clear_value v1
  refine Frame.comp (M := [.lines]) (t := s) (fun b hb => ?_) (by decide) ?_
  · cases b with | lines => exact absurd (by decide) hb | _ => rfl
  · exact Frame.refl

theorem State.syncOscs_frame {s : State} : Frame [.lines] s (State.syncOscs s) := by
  unfold State.syncOscs
  refine Frame.foldl ?_ (fun t1 a2 h3 => ?_)
  · exact Frame.refl
  · extract_lets -merge v4 v5
    clear_value v4 v5
    refine Frame.ite (fun _ => ?_) (fun _ => ?_)
    · assumption
    · refine Frame.comp State.setOsc_frame (by decide) ?_
      assumption

theorem State.moveDirs_frame {s : State} {ks : List Nat} {f : Direction → Direction} : Frame [.lines] s (State.moveDirs s ks f) := by
  unfold State.moveDirs
  extract_lets -merge v1 v2 v3
  refine Frame.cut v1 (by
    unfold v1
    refine Frame.foldl ?_ (fun t5 a6 h7 => ?_)
    · exact Frame.refl
    · refine Frame.comp State.setDirAt_frame (by decide) ?_
      assumption) fun h4 => ?_
  refine Frame.cut v3 (by
    unfold v3
    refine Frame.foldl ?_ (fun t9 a10 h11 => ?_)
    · assumption
    · extract_lets -merge v12 v13
      clear_value v12 v13
      refine Frame.comp State.setGroup_frame (by decide) ?_
      assumption) fun h8 => ?_
  clear_value v1 v2 v3
  refine Frame.comp State.syncOscs_frame (by decide) ?_
  assumption

theorem State.startLine_frame {s : State} {k : Nat} : Frame [.lines] s (State.startLine s k) := by
  unfold State.startLine
  extract_lets -merge v1 v2
  clear_value v1 v2
  refine Frame.ite (fun _ => ?_) (fun _ => ?_)
  · refine Frame.comp State.setDirAt_frame (by decide) ?_
    exact Frame.refl
  · refine Frame.ite (fun _ => ?_) (fun _ => ?_)
    · exact Frame.refl
    · refine Frame.ite (fun _ => ?_) (fun _ => ?_)
      · refine Frame.comp State.setDirAt_frame (by decide) ?_
        exact Frame.refl
      · refine Frame.comp State.moveDirs_frame (by decide) ?_
        exact Frame.refl

theorem State.startGroup_frame {s : State} {g : Nat} : Frame [.lines] s (State.startGroup s g) := by
  unfold State.startGroup
  refine Frame.ite (fun _ => ?_) (fun _ => ?_)
  · extract_lets -merge v1
    clear_value v1
    refine Frame.comp State.moveDirs_frame (by decide) ?_
    refine Frame.comp State.setGroup_frame (by decide) ?_
    exact Frame.refl
  · extract_lets -merge v2
    clear_value v2
    refine Frame.comp State.setGroup_frame (by decide) ?_
    exact Frame.refl

theorem State.stopLine_frame {s : State} {k : Nat} : Frame [.lines] s (State.stopLine s k) := by
  unfold State.stopLine
  extract_lets -merge v1
  clear_value v1
  refine Frame.ite (fun _ => ?_) (fun _ => ?_)
  · refine Frame.comp State.setDirAt_frame (by decide) ?_
    exact Frame.refl
  · refine Frame.comp State.moveDirs_frame (by decide) ?_
    exact Frame.refl

theorem State.stopGroup_frame {s : State} {g : Nat} : Frame [.lines] s (State.stopGroup s g) := by
  unfold State.stopGroup
  refine Frame.ite (fun _ => ?_) (fun _ => ?_)
  · extract_lets -merge v1
    clear_value v1
    refine Frame.comp State.setGroup_frame (by decide) ?_
    exact Frame.refl
  · extract_lets -merge v2
    clear_value v2
    refine Frame.comp State.moveDirs_frame (by decide) ?_
    refine Frame.comp State.setGroup_frame (by decide) ?_
    exact Frame.refl

theorem dirCtlWrite_frame {k : Nat} {v : Word} {s : State} : Frame [.lines] s (dirCtlWrite k v s) := by
  unfold dirCtlWrite
  extract_lets -merge v1
  refine Frame.cut v1 (by
    unfold v1
    refine Frame.ite (fun _ => ?_) (fun _ => ?_)
    · refine Frame.comp State.startLine_frame (by decide) ?_
      exact Frame.refl
    · exact Frame.refl) fun h2 => ?_
  clear_value v1
  refine Frame.ite (fun _ => ?_) (fun _ => ?_)
  · refine Frame.comp State.stopLine_frame (by decide) ?_
    assumption
  · assumption

theorem groupCtlWrite_frame {g : Nat} {v : Word} {s : State} : Frame [.lines] s (groupCtlWrite g v s) := by
  unfold groupCtlWrite
  extract_lets -merge v1
  refine Frame.cut v1 (by
    unfold v1
    refine Frame.ite (fun _ => ?_) (fun _ => ?_)
    · refine Frame.comp State.startGroup_frame (by decide) ?_
      exact Frame.refl
    · exact Frame.refl) fun h2 => ?_
  clear_value v1
  refine Frame.ite (fun _ => ?_) (fun _ => ?_)
  · refine Frame.comp State.stopGroup_frame (by decide) ?_
    assumption
  · assumption

theorem execLineStart_frame {port line dir : Nat} {value : Word} {s : State} {t : State} (h : execLineStart port line dir value s = .next t) : Frame [.lines] s t := by
  unfold execLineStart at h
  have h := Host.Outcome.next.inj h
  subst h
  refine Frame.ite (fun _ => ?_) (fun _ => ?_)
  · refine Frame.comp dirCtlWrite_frame (by decide) ?_
    exact Frame.refl
  · exact Frame.refl

theorem execLineStop_frame {port line dir : Nat} {value : Word} {s : State} {t : State} (h : execLineStop port line dir value s = .next t) : Frame [.lines] s t := by
  unfold execLineStop at h
  have h := Host.Outcome.next.inj h
  subst h
  refine Frame.ite (fun _ => ?_) (fun _ => ?_)
  · refine Frame.comp dirCtlWrite_frame (by decide) ?_
    exact Frame.refl
  · exact Frame.refl

theorem execGroupStart_frame {port group : Nat} {value : Word} {s : State} {t : State} (h : execGroupStart port group value s = .next t) : Frame [.lines] s t := by
  unfold execGroupStart at h
  have h := Host.Outcome.next.inj h
  subst h
  refine Frame.ite (fun _ => ?_) (fun _ => ?_)
  · refine Frame.comp groupCtlWrite_frame (by decide) ?_
    exact Frame.refl
  · exact Frame.refl

theorem execGroupStop_frame {port group : Nat} {value : Word} {s : State} {t : State} (h : execGroupStop port group value s = .next t) : Frame [.lines] s t := by
  unfold execGroupStop at h
  have h := Host.Outcome.next.inj h
  subst h
  refine Frame.ite (fun _ => ?_) (fun _ => ?_)
  · refine Frame.comp groupCtlWrite_frame (by decide) ?_
    exact Frame.refl
  · exact Frame.refl

theorem State.counted_frame {s : State} {ks : List Nat} {st : Nat → Bool} : Frame [.lines, .free] s (State.counted s ks st) := by
  unfold State.counted
  extract_lets -merge v1 v2 v3
  refine Frame.cut v3 (by
    unfold v3
    refine Frame.comp State.moveDirs_frame (by decide) ?_
    exact Frame.refl) fun h4 => ?_
  clear_value v1 v2 v3
  refine Frame.comp (M := [.free]) (t := v3) (fun b hb => ?_) (by decide) ?_
  · cases b with | free => exact absurd (by decide) hb | _ => rfl
  · assumption

theorem execRunInComplete_frame {line dir : Nat} {s : State} {t : State} (h : execRunInComplete line dir s = .next t) : Frame [.lines, .free] s t := by
  unfold execRunInComplete at h
  have h := Host.Outcome.next.inj h
  subst h
  refine Frame.ite (fun _ => ?_) (fun _ => ?_)
  · refine Frame.comp State.counted_frame (by decide) ?_
    exact Frame.refl
  · exact Frame.refl

theorem execRunOutComplete_frame {line dir : Nat} {s : State} {t : State} (h : execRunOutComplete line dir s = .next t) : Frame [.lines] s t := by
  unfold execRunOutComplete at h
  have h := Host.Outcome.next.inj h
  subst h
  refine Frame.ite (fun _ => ?_) (fun _ => ?_)
  · refine Frame.comp State.moveDirs_frame (by decide) ?_
    exact Frame.refl
  · exact Frame.refl

theorem latchGroup_frame {group : Nat} {s : State} : Frame [.lines] s (latchGroup group s) := by
  unfold latchGroup
  extract_lets -merge v1
  clear_value v1
  refine Frame.comp State.setGroup_frame (by decide) ?_
  exact Frame.refl

theorem execAudGroupFrameLoRead_frame {port group : Nat} {s : State} {t : State} (h : execAudGroupFrameLoRead port group s = .next t) : Frame [.lines] s t := by
  unfold execAudGroupFrameLoRead at h
  have h := Host.Outcome.next.inj h
  subst h
  refine Frame.ite (fun _ => ?_) (fun _ => ?_)
  · refine Frame.comp latchGroup_frame (by decide) ?_
    exact Frame.refl
  · exact Frame.refl

theorem State.loseFrame_frame {s : State} {f : List LineSlot} : Frame [.tallies] s (State.loseFrame s f) := by
  unfold State.loseFrame
  refine Frame.foldl ?_ (fun t1 a2 h3 => ?_)
  · exact Frame.refl
  · split
    · refine Frame.comp State.tally_frame (by decide) ?_
      assumption
    · assumption

theorem State.writeFrame_frame {s : State} {k : Nat} {p : Stream → Option (Nat × Nat)} {i ord : Nat} : Frame [.streams, .lines, .cnt, .tallies] s (State.writeFrame s k p i ord) := by
  unfold State.writeFrame
  extract_lets -merge v1 v2 v3 v4 v5 v6 v7 v8 v9 v10
  refine Frame.cut v5 (by
    unfold v5
    refine Frame.foldl ?_ (fun t12 a13 h14 => ?_)
    · exact Frame.refl
    · split
      · refine Frame.comp State.setStream_frame (by decide) ?_
        assumption
      · assumption) fun h11 => ?_
  refine Frame.cut v7 (by
    unfold v7
    refine Frame.comp State.bump_frame (by decide) ?_
    refine Frame.comp State.setDirAt_frame (by decide) ?_
    assumption) fun h15 => ?_
  refine Frame.cut v10 (by
    unfold v10
    refine Frame.comp State.setDirAt_frame (by decide) ?_
    assumption) fun h16 => ?_
  clear_value v1 v2 v3 v4 v5 v6 v7 v8 v9 v10
  refine Frame.ite (fun _ => ?_) (fun _ => ?_)
  · assumption
  · refine Frame.comp State.bump_frame (by decide) ?_
    refine Frame.comp State.loseFrame_frame (by decide) ?_
    assumption

theorem captureFrame_frame {line : Nat} {f : List LineSlot} {s : State} {c : Capture} : Frame [.jobs, .lines] s (captureFrame line f s c) := by
  unfold captureFrame
  refine Frame.ite (fun _ => ?_) (fun _ => ?_)
  · exact Frame.refl
  · split
    · extract_lets -merge v1 v2 v3
      refine Frame.cut v2 (by
        unfold v2
        refine Frame.comp State.setJob_frame (by decide) ?_
        exact Frame.refl) fun h4 => ?_
      clear_value v1 v2 v3
      refine Frame.comp (M := [.lines]) (t := v2) (fun b hb => ?_) (by decide) ?_
      · cases b with | lines => exact absurd (by decide) hb | _ => rfl
      · assumption
    · exact Frame.refl

theorem State.readLine_frame {s : State} {k : Nat} : Frame [.jobs, .lines, .cnt] s (s.readLine k) := by
  unfold State.readLine
  extract_lets x
  split
  rename_i y t ht
  have h : Frame [.jobs, .lines, .cnt] s t := by
    split at ht
    · cases ht
      exact Frame.refl
    · cases ht
      exact Frame.comp State.bump_frame (by decide) Frame.refl
  split
  · exact Frame.comp State.setDirAt_frame (by decide) h
  · refine Frame.foldl (Frame.comp State.setDirAt_frame (by decide) h) fun u a hu => ?_
    exact Frame.comp captureFrame_frame (by decide) hu

theorem execCaptureWord_frame {line dir slot : Nat} {bits : Word} {s : State} {t : State} (h : execCaptureWord line dir slot bits s = .next t) : Frame [.lines] s t := by
  unfold execCaptureWord at h
  have h := Host.Outcome.next.inj h
  subst h
  extract_lets -merge v1 v2 v3 v4 v5 v6 v7
  clear_value v1 v2 v3 v4 v5 v6 v7
  refine Frame.ite (fun _ => ?_) (fun _ => ?_)
  · exact Frame.refl
  · refine Frame.comp State.setDir_frame (by decide) ?_
    exact Frame.refl

theorem State.lineTick_frame {s : State} : Frame [.streams, .jobs, .lines, .cnt, .tallies] s (State.lineTick s) := by
  unfold State.lineTick
  refine Frame.foldl ?_ (fun t1 a2 h3 => ?_)
  · exact Frame.refl
  · extract_lets -merge v4 v5
    refine Frame.cut v5 (by
      unfold v5
      refine Frame.comp State.setDirAt_frame (by decide) ?_
      assumption) fun h6 => ?_
    clear_value v4 v5
    refine Frame.ite (fun _ => ?_) (fun _ => ?_)
    · assumption
    · split
      · assumption
      · refine Frame.ite (fun _ => ?_) (fun _ => ?_)
        · refine Frame.comp State.readLine_frame (by decide) ?_
          assumption
        · refine Frame.comp State.writeFrame_frame (by decide) ?_
          assumption

theorem State.groupTick_frame {s : State} : Frame [.lines] s (State.groupTick s) := by
  unfold State.groupTick
  refine Frame.foldl ?_ (fun t1 a2 h3 => ?_)
  · exact Frame.refl
  · extract_lets -merge v4 v5
    clear_value v4 v5
    split
    · extract_lets -merge v6
      clear_value v6
      refine Frame.ite (fun _ => ?_) (fun _ => ?_)
      · refine Frame.comp State.setGroup_frame (by decide) ?_
        assumption
      · assumption
    · assumption

theorem State.lineFrame_frame {s : State} : Frame [.lines] s (State.lineFrame s) := by
  unfold State.lineFrame
  refine Frame.foldl ?_ (fun t1 a2 h3 => ?_)
  · exact Frame.refl
  · extract_lets -merge v4 v5 v6 v7
    refine Frame.cut v6 (by
      unfold v6
      refine Frame.comp State.moveDirs_frame (by decide) ?_
      assumption) fun h8 => ?_
    clear_value v4 v5 v6 v7
    refine Frame.ite (fun _ => ?_) (fun _ => ?_)
    · assumption
    · refine Frame.ite (fun _ => ?_) (fun _ => ?_)
      · refine Frame.comp State.setGroup_frame (by decide) ?_
        assumption
      · assumption

theorem State.lineRates_frame {s : State} : Frame [.lines, .free] s (State.lineRates s) := by
  unfold State.lineRates
  refine Frame.foldl ?_ (fun t1 a2 h3 => ?_)
  · exact Frame.refl
  · extract_lets -merge v4 v5
    refine Frame.cut v5 (by
      unfold v5
      refine Frame.comp State.setDirAt_frame (by decide) ?_
      assumption) fun h6 => ?_
    clear_value v4 v5
    refine Frame.ite (fun _ => ?_) (fun _ => ?_)
    · refine Frame.comp (M := [.free]) (t := v5) (fun b hb => ?_) (by decide) ?_
      · cases b with | free => exact absurd (by decide) hb | _ => rfl
      · assumption
    · assumption

theorem State.slipDir_frame {s : State} {k : Nat} {low : Bool} : Frame [.lines, .evt, .cnt, .tallies, .host] s (State.slipDir s k low) := by
  unfold State.slipDir
  extract_lets -merge v1 v2 v3 v4 v5 v6 v7 v8
  refine Frame.cut v3 (by
    unfold v3
    refine Frame.comp State.writeTrace_frame (by decide) ?_
    refine Frame.comp State.bump_frame (by decide) ?_
    refine Frame.comp State.bump_frame (by decide) ?_
    exact Frame.refl) fun h9 => ?_
  refine Frame.cut v8 (by
    unfold v8
    refine Frame.foldl ?_ (fun t11 a12 h13 => ?_)
    · assumption
    · refine Frame.comp State.loseFrame_frame (by decide) ?_
      assumption) fun h10 => ?_
  clear_value v1 v2 v3 v4 v5 v6 v7 v8
  refine Frame.ite (fun _ => ?_) (fun _ => ?_)
  · refine Frame.ite (fun _ => ?_) (fun _ => ?_)
    · refine Frame.comp State.bump_frame (by decide) ?_
      refine Frame.comp State.setDirAt_frame (by decide) ?_
      assumption
    · refine Frame.comp State.setDirAt_frame (by decide) ?_
      assumption
  · refine Frame.ite (fun _ => ?_) (fun _ => ?_)
    · refine Frame.comp State.setDirAt_frame (by decide) ?_
      assumption
    · refine Frame.comp State.setDirAt_frame (by decide) ?_
      assumption

theorem execDriftSlip_frame {line dir : Nat} {low : Bool} {s : State} {t : State} (h : execDriftSlip line dir low s = .next t) : Frame [.lines, .evt, .cnt, .tallies, .host] s t := by
  unfold execDriftSlip at h
  have h := Host.Outcome.next.inj h
  subst h
  extract_lets -merge v1
  clear_value v1
  refine Frame.ite (fun _ => ?_) (fun _ => ?_)
  · exact Frame.refl
  · refine Frame.foldl ?_ (fun t2 a3 h4 => ?_)
    · exact Frame.refl
    · refine Frame.comp State.slipDir_frame (by decide) ?_
      assumption

theorem execClockStop_frame {line dir : Nat} {s : State} {t : State} (h : execClockStop line dir s = .next t) : Frame [.lines, .evt, .cnt, .host] s t := by
  unfold execClockStop at h
  have h := Host.Outcome.next.inj h
  subst h
  extract_lets -merge v1 v2 v3
  refine Frame.cut v3 (by
    unfold v3
    refine Frame.comp State.moveDirs_frame (by decide) ?_
    exact Frame.refl) fun h4 => ?_
  clear_value v1 v2 v3
  refine Frame.ite (fun _ => ?_) (fun _ => ?_)
  · exact Frame.refl
  · refine Frame.ite (fun _ => ?_) (fun _ => ?_)
    · assumption
    · refine Frame.comp State.raiseAlarm_frame (by decide) ?_
      assumption

theorem execRateOutOfRange_frame {line dir : Nat} {rate : Half} {s : State} {t : State} (h : execRateOutOfRange line dir rate s = .next t) : Frame [.lines, .evt, .cnt, .host] s t := by
  unfold execRateOutOfRange at h
  have h := Host.Outcome.next.inj h
  subst h
  extract_lets -merge v1 v2 v3 v4 v5
  refine Frame.cut v4 (by
    unfold v4
    refine Frame.comp State.raiseAlarm_frame (by decide) ?_
    refine Frame.comp State.moveDirs_frame (by decide) ?_
    exact Frame.refl) fun h6 => ?_
  clear_value v1 v2 v3 v4 v5
  refine Frame.ite (fun _ => ?_) (fun _ => ?_)
  · exact Frame.refl
  · refine Frame.ite (fun _ => ?_) (fun _ => ?_)
    · refine Frame.comp State.setDirAt_frame (by decide) ?_
      assumption
    · refine Frame.ite (fun _ => ?_) (fun _ => ?_)
      · refine Frame.comp State.moveDirs_frame (by decide) ?_
        exact Frame.refl
      · exact Frame.refl

theorem execHoldoverReturn_frame {line dir : Nat} {s : State} {t : State} (h : execHoldoverReturn line dir s = .next t) : Frame [.lines, .free] s t := by
  unfold execHoldoverReturn at h
  have h := Host.Outcome.next.inj h
  subst h
  extract_lets -merge v1 v2
  clear_value v1 v2
  refine Frame.ite (fun _ => ?_) (fun _ => ?_)
  · refine Frame.comp State.counted_frame (by decide) ?_
    exact Frame.refl
  · exact Frame.refl

theorem State.glitchDir_frame {s : State} {k : Nat} : Frame [.lines, .evt, .cnt, .host] s (State.glitchDir s k) := by
  unfold State.glitchDir
  extract_lets -merge v1 v2 v3 v4
  refine Frame.cut v2 (by
    unfold v2
    refine Frame.comp State.writeTrace_frame (by decide) ?_
    refine Frame.comp State.bump_frame (by decide) ?_
    refine Frame.comp State.bump_frame (by decide) ?_
    exact Frame.refl) fun h5 => ?_
  clear_value v1 v2 v3 v4
  refine Frame.ite (fun _ => ?_) (fun _ => ?_)
  · exact Frame.refl
  · refine Frame.comp State.setDirAt_frame (by decide) ?_
    assumption

theorem execFsGlitch_frame {line dir bclks : Nat} {wrongLength : Bool} {s : State} {t : State} (h : execFsGlitch line dir bclks wrongLength s = .next t) : Frame [.lines, .evt, .cnt, .host] s t := by
  unfold execFsGlitch at h
  have h := Host.Outcome.next.inj h
  subst h
  extract_lets -merge v1 v2
  clear_value v1 v2
  refine Frame.ite (fun _ => ?_) (fun _ => ?_)
  · exact Frame.refl
  · refine Frame.ite (fun _ => ?_) (fun _ => ?_)
    · refine Frame.foldl ?_ (fun t3 a4 h5 => ?_)
      · exact Frame.refl
      · extract_lets -merge v6
        clear_value v6
        refine Frame.ite (fun _ => ?_) (fun _ => ?_)
        · refine Frame.comp State.setDirAt_frame (by decide) ?_
          assumption
        · assumption
    · refine Frame.ite (fun _ => ?_) (fun _ => ?_)
      · refine Frame.foldl ?_ (fun t7 a8 h9 => ?_)
        · exact Frame.refl
        · refine Frame.comp State.glitchDir_frame (by decide) ?_
          assumption
      · refine Frame.comp State.moveDirs_frame (by decide) ?_
        exact Frame.refl

theorem oscCfgWrite_frame {n : Nat} {v : Word} {s : State} : Frame [.lines] s (oscCfgWrite n v s) := by
  unfold oscCfgWrite
  extract_lets -merge v1 v2 v3 v4 v5 v6 v7 v8
  clear_value v1 v2 v3 v4 v5 v6 v7 v8
  refine Frame.ite (fun _ => ?_) (fun _ => ?_)
  · refine Frame.comp State.setOsc_frame (by decide) ?_
    exact Frame.refl
  · refine Frame.comp State.syncOscs_frame (by decide) ?_
    refine Frame.comp State.setOsc_frame (by decide) ?_
    exact Frame.refl

theorem execClkOscCfgWrite_frame {port osc : Nat} {value : Word} {s : State} {t : State} (h : execClkOscCfgWrite port osc value s = .next t) : Frame [.lines] s t := by
  unfold execClkOscCfgWrite at h
  have h := Host.Outcome.next.inj h
  subst h
  refine Frame.ite (fun _ => ?_) (fun _ => ?_)
  · refine Frame.comp oscCfgWrite_frame (by decide) ?_
    exact Frame.refl
  · exact Frame.refl

theorem oscSteerWrite_frame {n : Nat} {v : Word} {s : State} : Frame [.lines] s (oscSteerWrite n v s) := by
  unfold oscSteerWrite
  extract_lets -merge v1
  clear_value v1
  refine Frame.ite (fun _ => ?_) (fun _ => ?_)
  · refine Frame.comp State.setOsc_frame (by decide) ?_
    exact Frame.refl
  · exact Frame.refl

theorem execSteeringUpdate_frame {osc elapsedMs : Nat} {s : State} {t : State} (h : execSteeringUpdate osc elapsedMs s = .next t) : Frame [.lines, .free] s t := by
  unfold execSteeringUpdate at h
  have h := Host.Outcome.next.inj h
  subst h
  extract_lets -merge v1 v2 v3 v4 v5 v6 v7
  refine Frame.cut v4 (by
    unfold v4
    refine Frame.comp (M := [.free]) (t := s) (fun b hb => ?_) (by decide) ?_
    · cases b with | free => exact absurd (by decide) hb | _ => rfl
    · exact Frame.refl) fun h8 => ?_
  clear_value v1 v2 v3 v4 v5 v6 v7
  refine Frame.ite (fun _ => ?_) (fun _ => ?_)
  · exact Frame.refl
  · refine Frame.ite (fun _ => ?_) (fun _ => ?_)
    · refine Frame.comp State.setOsc_frame (by decide) ?_
      assumption
    · assumption

theorem slotFlagClear_frame {k : Nat} {hold : Bool} {v : Word} {s : State} : Frame [.lines] s (slotFlagClear k hold v s) := by
  unfold slotFlagClear
  extract_lets -merge v1
  clear_value v1
  refine Frame.comp State.setDirAt_frame (by decide) ?_
  exact Frame.refl

theorem execSlotFlagClear_frame {port line dir : Nat} {hold : Bool} {value : Word} {s : State} {t : State} (h : execSlotFlagClear port line dir hold value s = .next t) : Frame [.lines] s t := by
  unfold execSlotFlagClear at h
  have h := Host.Outcome.next.inj h
  subst h
  refine Frame.ite (fun _ => ?_) (fun _ => ?_)
  · refine Frame.comp slotFlagClear_frame (by decide) ?_
    exact Frame.refl
  · exact Frame.refl

theorem State.planWith_frame {s : State} {x : Stream} {c : Chunk} : Frame [.streams, .jobs, .burin, .tallies] s (State.planWith s x c) := by
  unfold State.planWith
  extract_lets -merge v1 v2 v3 v4 v5
  refine Frame.cut v2 (by
    unfold v2
    refine Frame.ite (fun _ => ?_) (fun _ => ?_)
    · exact Frame.refl
    · refine Frame.comp State.tally_frame (by decide) ?_
      exact Frame.refl) fun h6 => ?_
  refine Frame.cut v4 (by
    unfold v4
    refine Frame.ite (fun _ => ?_) (fun _ => ?_)
    · assumption
    · refine Frame.comp State.setUnit_frame (by decide) ?_
      assumption) fun h7 => ?_
  refine Frame.cut v5 (by
    unfold v5
    refine Frame.comp State.setStream_frame (by decide) ?_
    assumption) fun h8 => ?_
  clear_value v1 v2 v3 v4 v5
  split
  · refine Frame.ite (fun _ => ?_) (fun _ => ?_)
    · assumption
    · refine Frame.foldl ?_ (fun t9 a10 h11 => ?_)
      · assumption
      · refine Frame.comp State.requestFrost_frame (by decide) ?_
        assumption
  · assumption

theorem State.starve_frame {s : State} {x : Stream} : Frame [.rmk, .streams, .evt, .cnt, .host] s (State.starve s x) := by
  unfold State.starve
  extract_lets -merge v1 v2 v3 v4
  refine Frame.cut v3 (by
    unfold v3
    refine Frame.foldl ?_ (fun t6 a7 h8 => ?_)
    · exact Frame.refl
    · refine Frame.comp State.modDesc_frame (by decide) ?_
      assumption) fun h5 => ?_
  refine Frame.cut v4 (by
    unfold v4
    refine Frame.comp State.setStream_frame (by decide) ?_
    assumption) fun h9 => ?_
  clear_value v1 v2 v3 v4
  refine Frame.comp State.writeTrace_frame (by decide) ?_
  refine Frame.comp State.bump_frame (by decide) ?_
  assumption

theorem State.planStream_frame {repeat_ : Bool} {s : State} {id : Nat} : Frame [.rmk, .streams, .jobs, .burin, .evt, .cnt, .tallies, .host] s (State.planStream repeat_ s id) := by
  unfold State.planStream
  split
  · exact Frame.refl
  · refine Frame.ite (fun _ => ?_) (fun _ => ?_)
    · exact Frame.refl
    · refine Frame.ite (fun _ => ?_) (fun _ => ?_)
      · refine Frame.comp State.setStream_frame (by decide) ?_
        exact Frame.refl
      · refine Frame.ite (fun _ => ?_) (fun _ => ?_)
        · refine Frame.ite (fun _ => ?_) (fun _ => ?_)
          · refine Frame.comp State.setStream_frame (by decide) ?_
            exact Frame.refl
          · exact Frame.refl
        · extract_lets -merge v1
          clear_value v1
          split
          · refine Frame.comp State.planWith_frame (by decide) ?_
            exact Frame.refl
          · refine Frame.ite (fun _ => ?_) (fun _ => ?_)
            · refine Frame.comp State.starve_frame (by decide) ?_
              exact Frame.refl
            · exact Frame.refl

theorem State.removeAborted_frame {s : State} {x : Stream} : Frame [.rmk, .streams] s (State.removeAborted s x) := by
  unfold State.removeAborted
  refine Frame.foldl ?_ (fun t1 a2 h3 => ?_)
  · exact Frame.refl
  · split
    · refine Frame.comp State.modDesc_frame (by decide) ?_
      refine Frame.comp State.setStream_frame (by decide) ?_
      assumption
    · assumption

theorem applyCtrl_frame {s : State} {x : Stream} {d : Desc} : Frame [.rmk, .streams] s (applyCtrl s x d) := by
  unfold applyCtrl
  split
  · exact Frame.refl
  · extract_lets -merge v1 v2
    clear_value v1 v2
    refine Frame.comp State.modDesc_frame (by decide) ?_
    refine Frame.comp State.setStream_frame (by decide) ?_
    exact Frame.refl

theorem State.applyCtrls_frame {s : State} {x : Stream} : Frame [.rmk, .streams] s (State.applyCtrls s x) := by
  unfold State.applyCtrls
  refine Frame.ite (fun _ => ?_) (fun _ => ?_)
  · exact Frame.refl
  · refine Frame.foldl ?_ (fun t1 a2 h3 => ?_)
    · exact Frame.refl
    · refine Frame.comp applyCtrl_frame (by decide) ?_
      assumption

theorem State.resumeMoved_frame {s : State} {x : Stream} : Frame [.streams, .evt, .cnt, .host] s (State.resumeMoved s x) := by
  unfold State.resumeMoved
  extract_lets -merge v1 v2 v3 v4
  refine Frame.cut v4 (by
    unfold v4
    refine Frame.comp State.setStream_frame (by decide) ?_
    exact Frame.refl) fun h5 => ?_
  clear_value v1 v2 v3 v4
  refine Frame.ite (fun _ => ?_) (fun _ => ?_)
  · refine Frame.comp State.noteSlip_frame (by decide) ?_
    assumption
  · assumption

theorem State.resumeContext_frame {s : State} {x : Stream} : Frame [.streams, .burin, .evt, .cnt, .host] s (State.resumeContext s x) := by
  unfold State.resumeContext
  split
  · exact Frame.refl
  · extract_lets -merge v1 v2 v3 v4
    refine Frame.cut v4 (by
      unfold v4
      refine Frame.comp State.bindUnit_frame (by decide) ?_
      exact Frame.refl) fun h5 => ?_
    clear_value v1 v2 v3 v4
    refine Frame.ite (fun _ => ?_) (fun _ => ?_)
    · refine Frame.comp State.noteSlip_frame (by decide) ?_
      assumption
    · assumption

theorem State.tryResume_frame {s : State} {x : Stream} : Frame [.streams, .burin, .evt, .cnt, .host] s (State.tryResume s x) := by
  unfold State.tryResume
  refine Frame.ite (fun _ => ?_) (fun _ => ?_)
  · exact Frame.refl
  · refine Frame.ite (fun _ => ?_) (fun _ => ?_)
    · refine Frame.ite (fun _ => ?_) (fun _ => ?_)
      · refine Frame.comp State.resumeMoved_frame (by decide) ?_
        exact Frame.refl
      · exact Frame.refl
    · refine Frame.comp State.resumeContext_frame (by decide) ?_
      exact Frame.refl

theorem State.leaveOut_frame {s : State} {id : Nat} : Frame [.streams] s (State.leaveOut s id) := by
  unfold State.leaveOut
  split
  · refine Frame.comp State.setStream_frame (by decide) ?_
    exact Frame.refl
  · exact Frame.refl

theorem State.bindRows_frame {fields : List Nat} {l : List Stream} {s t : State} (h : State.bindRows fields l s = some t) :
    Frame [.streams, .burin] s t := by
  induction l generalizing s with
  | nil => exact Frame.of_some h Frame.refl
  | cons x rest ih =>
    unfold State.bindRows at h
    split at h
    · cases h
    · refine Frame.comp (ih h) (List.Subset.refl _) (Frame.comp State.leaveOut_frame (by decide) ?_)
      exact Frame.comp State.bindUnit_frame (by decide) Frame.refl

theorem State.beginThaw_frame {s : State} {j : Job} : Frame [.jobs] s (State.beginThaw s j) := by
  unfold State.beginThaw
  refine Frame.comp State.setJob_frame (by decide) ?_
  exact Frame.refl

theorem State.placeFill_frame {s t : State} {j : Job} {m : List Byte} (h : s.placeFill j m = some t) :
    Frame [.streams, .jobs, .hatch, .burin] s t := by
  unfold State.placeFill at h
  extract_lets n at h
  split at h
  · cases h
  · split at h
    · cases h
    · obtain ⟨r, hr, ht⟩ := Option.map_eq_some_iff.mp h
      rw [← ht]
      refine Frame.comp State.beginThaw_frame (by decide) (Frame.comp State.bindCores_frame (by decide) ?_)
      exact Frame.comp (State.bindRows_frame hr) (by decide) Frame.refl

theorem State.offerFill_frame {s : State} {id : Nat} : Frame [.streams, .jobs, .hatch, .burin] s (State.offerFill s id) := by
  unfold State.offerFill
  split
  · exact Frame.refl
  · split
    · exact Frame.refl
    · refine Frame.ite (fun _ => ?_) (fun _ => ?_)
      · exact Frame.refl
      · extract_lets -merge v1
        refine Frame.cut v1 (by
          unfold v1
          refine Frame.comp State.setJob_frame (by decide) ?_
          exact Frame.refl) fun h2 => ?_
        clear_value v1
        refine Frame.ite (fun _ => ?_) (fun _ => ?_)
        · assumption
        · split
          · refine Frame.ite (fun _ => ?_) (fun _ => ?_)
            · refine Frame.comp State.beginThaw_frame (by decide) ?_
              exact Frame.refl
            · assumption
          · refine Frame.getD (fun t3 o4 => ?_) ?_
            · refine Frame.comp (State.placeFill_frame o4) (by decide) ?_
              exact Frame.refl
            · assumption

theorem State.beginAdapt_frame {s : State} {ring : Nat} {d : Desc} {m : Model} {input : List Byte} : Frame [.mem, .rmk, .sessions, .jobs, .hatch, .lines, .tallies] s (State.beginAdapt s ring d m input) := by
  unfold State.beginAdapt
  extract_lets -merge v1 v2 v3 v4
  refine Frame.cut v2.1 (by
    unfold v2
    refine Frame.comp (State.newJob_frame rfl) (by decide) ?_
    exact Frame.refl) fun h5 => ?_
  refine Frame.cut v3 (by
    unfold v3
    assumption) fun h6 => ?_
  clear_value v1 v2 v3 v4
  split
  · rename_i y7 y8
    assumption
  · rename_i y9 y10 y11
    extract_lets -merge v12 v13 v14
    refine Frame.cut v13 (by
      unfold v13
      refine Frame.comp State.modDesc_frame (by decide) ?_
      refine Frame.comp State.setJob_frame (by decide) ?_
      assumption) fun h15 => ?_
    clear_value v12 v13 v14
    refine Frame.ite (fun _ => ?_) (fun _ => ?_)
    · refine Frame.comp (M := [.lines]) (t := v13) (fun b hb => ?_) (by decide) ?_
      · cases b with | lines => exact absurd (by decide) hb | _ => rfl
      · assumption
    · refine Frame.comp State.charge_frame (by decide) ?_
      assumption

theorem State.adaptStart_frame {s : State} {ring : Nat} {d : Desc} {bytes : List Byte} : Frame [.mem, .rmk, .sessions, .jobs, .hatch, .lines, .cnt, .tallies] s (State.adaptStart s ring d bytes) := by
  unfold State.adaptStart
  split
  · refine Frame.ite (fun _ => ?_) (fun _ => ?_)
    · refine Frame.comp State.complete_frame (by decide) ?_
      exact Frame.refl
    · refine Frame.ite (fun _ => ?_) (fun _ => ?_)
      · refine Frame.comp State.complete_frame (by decide) ?_
        exact Frame.refl
      · refine Frame.ite (fun _ => ?_) (fun _ => ?_)
        · refine Frame.comp State.complete_frame (by decide) ?_
          exact Frame.refl
        · refine Frame.ite (fun _ => ?_) (fun _ => ?_)
          · refine Frame.comp State.beginAdapt_frame (by decide) ?_
            exact Frame.refl
          · extract_lets -merge v1 v2 v3
            refine Frame.cut v2 (by
              unfold v2
              refine Frame.comp State.bump_frame (by decide) ?_
              refine Frame.comp State.bump_frame (by decide) ?_
              exact Frame.refl) fun h4 => ?_
            clear_value v1 v2 v3
            split
            · refine Frame.comp State.complete_frame (by decide) ?_
              refine Frame.comp State.charge_frame (by decide) ?_
              refine Frame.comp State.bump_frame (by decide) ?_
              assumption
            · refine Frame.comp State.beginAdapt_frame (by decide) ?_
              assumption
  · refine Frame.comp State.complete_frame (by decide) ?_
    exact Frame.refl

theorem State.optStep_frame {s : State} {j : Job} : Frame [.jobs] s (State.optStep s j) := by
  unfold State.optStep
  refine Frame.comp State.setJob_frame (by decide) ?_
  exact Frame.refl

theorem State.adaptCommit_frame {s : State} {ring : Nat} {d : Desc} {j : Job} {m t : Model} : Frame [.mem, .dram, .rmk, .sessions, .models, .nextHandle, .streams, .jobs, .hatch, .burin, .lines, .cnt, .rebind, .host] s (State.adaptCommit s ring d j m t) := by
  unfold State.adaptCommit
  extract_lets -merge v1 v2 v3 v4
  refine Frame.cut v2 (by
    unfold v2
    refine Frame.comp State.endJob_frame (by decide) ?_
    exact Frame.refl) fun h5 => ?_
  clear_value v1 v2 v3 v4
  split
  · rename_i y6 y7
    refine Frame.comp State.complete_frame (by decide) ?_
    assumption
  · rename_i y8 y9 y10 y11
    refine Frame.cut y9 (by
      refine Frame.comp (State.addModel_frame y11) (by decide) ?_
      assumption) fun h12 => ?_
    split
    rename_i y13 y14 y15 y16
    refine Frame.cut y14 (by
      refine Frame.of_fst y16 ?_
      split
      · split
        · rename_i y18 y19 y20
          refine Frame.cut y19 (by
            refine Frame.comp (State.startPromotion_frame y20) (by decide) ?_
            assumption) fun h21 => ?_
          refine Frame.fst ?_
          assumption
        · rename_i y22 y23
          refine Frame.fst ?_
          refine Frame.comp State.setModel_frame (by decide) ?_
          assumption
      · refine Frame.fst ?_
        assumption) fun h17 => ?_
    extract_lets -merge v24
    refine Frame.cut v24 (by
      unfold v24
      refine Frame.comp writeReceipt_frame (by decide) ?_
      assumption) fun h25 => ?_
    clear_value v24
    refine Frame.comp State.complete_frame (by decide) ?_
    assumption

theorem execAdaptJob_frame {ring seq : Nat} {phase : AdaptPhase} {s : State} {t : State} (h : execAdaptJob ring seq phase s = .next t) : Frame [.mem, .dram, .rmk, .sessions, .models, .nextHandle, .streams, .jobs, .hatch, .burin, .lines, .cnt, .rebind, .tallies, .host] s t := by
  unfold execAdaptJob at h
  have h := Host.Outcome.next.inj h
  subst h
  split
  · exact Frame.refl
  · refine Frame.ite (fun _ => ?_) (fun _ => ?_)
    · exact Frame.refl
    · split
      · rename_i y1 y2
        refine Frame.ite (fun _ => ?_) (fun _ => ?_)
        · exact Frame.refl
        · refine Frame.comp State.adaptStart_frame (by decide) ?_
          exact Frame.refl
      · rename_i y3
        split
        · refine Frame.ite (fun _ => ?_) (fun _ => ?_)
          · refine Frame.comp State.optStep_frame (by decide) ?_
            exact Frame.refl
          · exact Frame.refl
        · exact Frame.refl
      · rename_i y4
        split
        · refine Frame.ite (fun _ => ?_) (fun _ => ?_)
          · refine Frame.comp State.adaptCommit_frame (by decide) ?_
            exact Frame.refl
          · exact Frame.refl
        · exact Frame.refl

theorem State.offload_frame {s : State} {j : Job} {member : Nat} : Frame [.sessions, .jobs, .ihx, .cnt, .tallies] s (State.offload s j member) := by
  unfold State.offload
  split
  · split
    · split
      · extract_lets -merge v1 v2 v3 v4 v5
        clear_value v1 v2 v3 v4 v5
        refine Frame.ite (fun _ => ?_) (fun _ => ?_)
        · exact Frame.refl
        · refine Frame.comp State.bump_frame (by decide) ?_
          refine Frame.comp State.charge_frame (by decide) ?_
          refine Frame.comp State.send_frame (by decide) ?_
          refine Frame.comp State.setJob_frame (by decide) ?_
          exact Frame.refl
      · exact Frame.refl
    · exact Frame.refl
  · exact Frame.refl

theorem State.takeOffload_frame {s : State} {id : Nat} {o : OffloadMsg} : Frame [.mem, .dram, .models, .nextHandle, .jobs, .hatch] s (State.takeOffload s id o) := by
  unfold State.takeOffload
  extract_lets -merge v1
  clear_value v1
  refine Frame.ite (fun _ => ?_) (fun _ => ?_)
  · exact Frame.refl
  · split
    · rename_i y2 y3
      exact Frame.refl
    · rename_i y4 y5 y6 y7
      refine Frame.cut y5 (by
        refine Frame.comp (State.addModel_frame y7) (by decide) ?_
        exact Frame.refl) fun h8 => ?_
      extract_lets -merge v9 v10
      refine Frame.cut v9.1 (by
        unfold v9
        refine Frame.comp (State.newJob_frame rfl) (by decide) ?_
        assumption) fun h11 => ?_
      refine Frame.cut v10 (by
        unfold v10
        assumption) fun h12 => ?_
      clear_value v9 v10
      split
      · rename_i y13 y14
        assumption
      · rename_i y15 y16 y17
        extract_lets -merge v18 v19 v20 v21 v22
        refine Frame.cut v22 (by
          unfold v22
          refine Frame.comp State.setJob_frame (by decide) ?_
          assumption) fun h23 => ?_
        clear_value v18 v19 v20 v21 v22
        refine Frame.comp State.scratchStore_frame (by decide) ?_
        assumption

theorem State.returnOffload_frame {s : State} {j : Job} {homeJob n : Nat} : Frame [.mem, .dram, .rmk, .sessions, .models, .streams, .jobs, .hatch, .burin, .lines, .ihx, .evt, .cnt, .rebind, .tallies, .host] s (State.returnOffload s j homeJob n) := by
  unfold State.returnOffload
  extract_lets -merge v1 v2 v3
  refine Frame.cut v2 (by
    unfold v2
    refine Frame.comp State.bump_frame (by decide) ?_
    refine Frame.comp State.send_frame (by decide) ?_
    exact Frame.refl) fun h4 => ?_
  refine Frame.cut v3 (by
    unfold v3
    refine Frame.comp State.endJob_frame (by decide) ?_
    assumption) fun h5 => ?_
  clear_value v1 v2 v3
  split
  · refine Frame.comp State.evict_frame (by decide) ?_
    assumption
  · assumption

theorem execFillOffload_frame {job : Nat} {act : OffloadAct} {s : State} {t : State} (h : execFillOffload job act s = .next t) : Frame [.mem, .dram, .rmk, .sessions, .models, .nextHandle, .streams, .jobs, .hatch, .burin, .lines, .ihx, .evt, .cnt, .rebind, .tallies, .host] s t := by
  unfold execFillOffload at h
  have h := Host.Outcome.next.inj h
  subst h
  split
  · rename_i y1 y2 y3
    refine Frame.comp State.takeOffload_frame (by decide) ?_
    exact Frame.refl
  · rename_i y4 y5 y6 y7 y8
    refine Frame.comp State.offload_frame (by decide) ?_
    exact Frame.refl
  · rename_i y9 y10 y11 y12
    split
    · refine Frame.ite (fun _ => ?_) (fun _ => ?_)
      · refine Frame.comp State.optStep_frame (by decide) ?_
        exact Frame.refl
      · exact Frame.refl
    · exact Frame.refl
  · rename_i y13 y14 y15 y16
    split
    · refine Frame.ite (fun _ => ?_) (fun _ => ?_)
      · refine Frame.comp State.returnOffload_frame (by decide) ?_
        exact Frame.refl
      · exact Frame.refl
    · exact Frame.refl
  · rename_i y17 y18 y19 y20 y21 y22
    refine Frame.ite (fun _ => ?_) (fun _ => ?_)
    · extract_lets -merge v23 v24
      clear_value v23 v24
      refine Frame.comp State.bump_frame (by decide) ?_
      refine Frame.comp State.charge_frame (by decide) ?_
      refine Frame.comp State.setJob_frame (by decide) ?_
      exact Frame.refl
    · exact Frame.refl
  · rename_i y25 y26 y27 y28 y29
    exact Frame.refl

end Sys2Proof.Machine
end

