-- ==== Sys2Proof/Laws/FrameFolio.lean ====
section
/-! SUPPORT. Frames: which blocks each operation may change, for the Folio and Transfers. -/

namespace Sys2Proof.Machine

open Sys2Proof

theorem State.portDown_frame {s : State} {port cause : Nat} : Frame [.ihx, .evt, .cnt, .host] s (State.portDown s port cause) := by
  unfold State.portDown
  extract_lets -merge v1 v2 v3 v4 v5
  refine Frame.cut v3 (by
    unfold v3
    refine Frame.comp State.setIhxPort_frame (by decide) ?_
    exact Frame.refl) fun h6 => ?_
  clear_value v1 v2 v3 v4 v5
  refine Frame.comp State.raiseAlarm_frame (by decide) ?_
  refine Frame.comp (M := [.ihx]) (t := v3) (fun b hb => ?_) (by decide) ?_
  · cases b with | ihx => exact absurd (by decide) hb | _ => rfl
  · assumption

theorem execIhlauxPortTrain_frame {port lanes : Nat} {s : State} {t : State} (h : execIhlauxPortTrain port lanes s = .next t) : Frame [.ihx, .evt, .cnt, .host] s t := by
  unfold execIhlauxPortTrain at h
  have h := Host.Outcome.next.inj h
  subst h
  extract_lets -merge v1
  clear_value v1
  refine Frame.ite (fun _ => ?_) (fun _ => ?_)
  · exact Frame.refl
  · refine Frame.ite (fun _ => ?_) (fun _ => ?_)
    · refine Frame.ite (fun _ => ?_) (fun _ => ?_)
      · refine Frame.comp State.portDown_frame (by decide) ?_
        exact Frame.refl
      · exact Frame.refl
    · refine Frame.ite (fun _ => ?_) (fun _ => ?_)
      · exact Frame.refl
      · refine Frame.ite (fun _ => ?_) (fun _ => ?_)
        · refine Frame.ite (fun _ => ?_) (fun _ => ?_)
          · refine Frame.comp State.setIhxPort_frame (by decide) ?_
            exact Frame.refl
          · exact Frame.refl
        · refine Frame.comp State.setIhxPort_frame (by decide) ?_
          exact Frame.refl

theorem execIhlauxAuthFail_frame {port : Nat} {s : State} {t : State} (h : execIhlauxAuthFail port s = .next t) : Frame [.ihx, .evt, .cnt, .host] s t := by
  unfold execIhlauxAuthFail at h
  have h := Host.Outcome.next.inj h
  subst h
  extract_lets -merge v1 v2 v3
  refine Frame.cut v3 (by
    unfold v3
    refine Frame.comp State.bump_frame (by decide) ?_
    refine Frame.comp State.setIhxPort_frame (by decide) ?_
    exact Frame.refl) fun h4 => ?_
  clear_value v1 v2 v3
  refine Frame.ite (fun _ => ?_) (fun _ => ?_)
  · exact Frame.refl
  · refine Frame.ite (fun _ => ?_) (fun _ => ?_)
    · refine Frame.comp State.portDown_frame (by decide) ?_
      assumption
    · assumption

theorem execHello_frame {port : Nat} {msg : HelloMsg} {s : State} {t : State} (h : execHello port msg s = .next t) : Frame [.ihx, .free] s t := by
  unfold execHello at h
  have h := Host.Outcome.next.inj h
  subst h
  extract_lets -merge v1 v2 v3 v4 v5 v6
  refine Frame.cut v6 (by
    unfold v6
    refine Frame.comp State.send_frame (by decide) ?_
    refine Frame.comp State.setIhxPort_frame (by decide) ?_
    exact Frame.refl) fun h7 => ?_
  clear_value v1 v2 v3 v4 v5 v6
  refine Frame.ite (fun _ => ?_) (fun _ => ?_)
  · exact Frame.refl
  · refine Frame.ite (fun _ => ?_) (fun _ => ?_)
    · refine Frame.comp State.setIhxPort_frame (by decide) ?_
      exact Frame.refl
    · refine Frame.comp (M := [.free]) (t := v6) (fun b hb => ?_) (by decide) ?_
      · cases b with | free => exact absurd (by decide) hb | _ => rfl
      · assumption

theorem State.checkJoined_frame {s : State} : Frame [.ihx] s (State.checkJoined s) := by
  unfold State.checkJoined
  extract_lets -merge v1 v2
  clear_value v1 v2
  refine Frame.ite (fun _ => ?_) (fun _ => ?_)
  · refine Frame.comp (M := [.ihx]) (t := s) (fun b hb => ?_) (by decide) ?_
    · cases b with | ihx => exact absurd (by decide) hb | _ => rfl
    · exact Frame.refl
  · exact Frame.refl

theorem execLinkKeyExchange_frame {port : Nat} {msg : LinkKeyMsg} {s : State} {t : State} (h : execLinkKeyExchange port msg s = .next t) : Frame [.ihx, .evt, .cnt, .host] s t := by
  unfold execLinkKeyExchange at h
  have h := Host.Outcome.next.inj h
  subst h
  extract_lets -merge v1 v2 v3 v4 v5 v6
  refine Frame.cut v3 (by
    unfold v3
    refine Frame.comp State.setIhxPort_frame (by decide) ?_
    refine Frame.comp State.send_frame (by decide) ?_
    exact Frame.refl) fun h7 => ?_
  refine Frame.cut v5 (by
    unfold v5
    refine Frame.comp (M := [.ihx]) (t := v3) (fun b hb => ?_) (by decide) ?_
    · cases b with | ihx => exact absurd (by decide) hb | _ => rfl
    · assumption) fun h8 => ?_
  refine Frame.cut v6 (by
    unfold v6
    split
    · refine Frame.ite (fun _ => ?_) (fun _ => ?_)
      · refine Frame.comp State.send_frame (by decide) ?_
        assumption
      · assumption
    · assumption) fun h9 => ?_
  clear_value v1 v2 v3 v4 v5 v6
  refine Frame.ite (fun _ => ?_) (fun _ => ?_)
  · exact Frame.refl
  · refine Frame.ite (fun _ => ?_) (fun _ => ?_)
    · refine Frame.comp State.raiseAlarm_frame (by decide) ?_
      refine Frame.comp State.setIhxPort_frame (by decide) ?_
      exact Frame.refl
    · refine Frame.comp State.checkJoined_frame (by decide) ?_
      assumption

theorem execGroupKeyDelivery_frame {gk statement : List Byte} {s : State} {t : State} (h : execGroupKeyDelivery gk statement s = .next t) : Frame [.proof] s t := by
  unfold execGroupKeyDelivery at h
  have h := Host.Outcome.next.inj h
  subst h
  refine Frame.ite (fun _ => ?_) (fun _ => ?_)
  · extract_lets -merge v1
    clear_value v1
    refine Frame.comp (M := [.proof]) (t := s) (fun b hb => ?_) (by decide) ?_
    · cases b with | proof => exact absurd (by decide) hb | _ => rfl
    · exact Frame.refl
  · exact Frame.refl

theorem State.sendHello_frame {s : State} : Frame [.ihx] s (State.sendHello s) := by
  unfold State.sendHello
  refine Frame.foldl ?_ (fun t1 a2 h3 => ?_)
  · exact Frame.refl
  · refine Frame.comp State.send_frame (by decide) ?_
    assumption

theorem State.timebaseMode_frame {s : State} {mode : Nat} : Frame [.lines] s (State.timebaseMode s mode) := by
  unfold State.timebaseMode
  extract_lets -merge v1
  clear_value v1
  refine Frame.comp State.syncOscs_frame (by decide) ?_
  refine Frame.comp State.setOsc_frame (by decide) ?_
  exact Frame.refl

theorem State.joinManager_frame {s : State} {counter : BitVec 48} : Frame [.tb, .ihx, .proof] s (State.joinManager s counter) := by
  unfold State.joinManager
  extract_lets -merge v1 v2 v3 v4 v5
  clear_value v1 v2 v3 v4 v5
  refine Frame.comp (M := [.tb, .ihx, .proof]) (t := s) (fun b hb => ?_) (by decide) ?_
  · cases b with | tb => exact absurd (by decide) hb | ihx => exact absurd (by decide) hb | proof => exact absurd (by decide) hb | _ => rfl
  · exact Frame.refl

theorem State.joinWorker_frame {s : State} {season : Nat} {counter : BitVec 48} : Frame [.tb, .lines, .ihx] s (State.joinWorker s season counter) := by
  unfold State.joinWorker
  extract_lets -merge v1 v2 v3 v4
  refine Frame.cut v3 (by
    unfold v3
    refine Frame.comp (M := [.tb, .ihx]) (t := s) (fun b hb => ?_) (by decide) ?_
    · cases b with | tb => exact absurd (by decide) hb | ihx => exact absurd (by decide) hb | _ => rfl
    · exact Frame.refl) fun h5 => ?_
  refine Frame.cut v4 (by
    unfold v4
    refine Frame.ite (fun _ => ?_) (fun _ => ?_)
    · refine Frame.comp State.send_frame (by decide) ?_
      assumption
    · assumption) fun h6 => ?_
  clear_value v1 v2 v3 v4
  refine Frame.comp State.timebaseMode_frame (by decide) ?_
  assumption

theorem State.join_frame {s : State} {season : Nat} {counter : BitVec 48} : Frame [.tb, .lines, .ihx, .proof] s (State.join s season counter) := by
  unfold State.join
  extract_lets -merge v1 v2 v3 v4
  clear_value v1 v2 v3 v4
  refine Frame.ite (fun _ => ?_) (fun _ => ?_)
  · refine Frame.comp (M := [.ihx]) (t := s) (fun b hb => ?_) (by decide) ?_
    · cases b with | ihx => exact absurd (by decide) hb | _ => rfl
    · exact Frame.refl
  · refine Frame.ite (fun _ => ?_) (fun _ => ?_)
    · refine Frame.comp State.sendHello_frame (by decide) ?_
      refine Frame.comp State.joinManager_frame (by decide) ?_
      exact Frame.refl
    · refine Frame.comp State.sendHello_frame (by decide) ?_
      refine Frame.comp State.joinWorker_frame (by decide) ?_
      exact Frame.refl

theorem State.leave_frame {s : State} : Frame [.lines, .ihx, .proof] s (State.leave s) := by
  unfold State.leave
  extract_lets -merge v1 v2 v3 v4 v5 v6
  refine Frame.cut v2 (by
    unfold v2
    refine Frame.comp State.send_frame (by decide) ?_
    exact Frame.refl) fun h7 => ?_
  refine Frame.cut v6 (by
    unfold v6
    refine Frame.comp (M := [.ihx, .proof]) (t := v2) (fun b hb => ?_) (by decide) ?_
    · cases b with | ihx => exact absurd (by decide) hb | proof => exact absurd (by decide) hb | _ => rfl
    · assumption) fun h8 => ?_
  clear_value v1 v2 v3 v4 v5 v6
  refine Frame.ite (fun _ => ?_) (fun _ => ?_)
  · refine Frame.comp (M := [.ihx]) (t := s) (fun b hb => ?_) (by decide) ?_
    · cases b with | ihx => exact absurd (by decide) hb | _ => rfl
    · exact Frame.refl
  · refine Frame.ite (fun _ => ?_) (fun _ => ?_)
    · refine Frame.comp State.timebaseMode_frame (by decide) ?_
      assumption
    · assumption

theorem folioCtlWrite_frame {v : Word} {season : Nat} {counter : BitVec 48} {s : State} : Frame [.tb, .lines, .ihx, .proof] s (folioCtlWrite v season counter s) := by
  unfold folioCtlWrite
  extract_lets -merge v1
  refine Frame.cut v1 (by
    unfold v1
    refine Frame.ite (fun _ => ?_) (fun _ => ?_)
    · refine Frame.comp State.join_frame (by decide) ?_
      exact Frame.refl
    · exact Frame.refl) fun h2 => ?_
  clear_value v1
  refine Frame.ite (fun _ => ?_) (fun _ => ?_)
  · refine Frame.comp State.leave_frame (by decide) ?_
    assumption
  · assumption

theorem execJoin_frame {port : Nat} {value : Word} {season : Nat} {counter : BitVec 48} {s : State} {t : State} (h : execJoin port value season counter s = .next t) : Frame [.tb, .lines, .ihx, .proof] s t := by
  unfold execJoin at h
  have h := Host.Outcome.next.inj h
  subst h
  refine Frame.ite (fun _ => ?_) (fun _ => ?_)
  · refine Frame.comp folioCtlWrite_frame (by decide) ?_
    exact Frame.refl
  · exact Frame.refl

theorem execLeave_frame {port : Nat} {value : Word} {s : State} {t : State} (h : execLeave port value s = .next t) : Frame [.tb, .lines, .ihx, .proof] s t := by
  unfold execLeave at h
  have h := Host.Outcome.next.inj h
  subst h
  refine Frame.ite (fun _ => ?_) (fun _ => ?_)
  · refine Frame.comp folioCtlWrite_frame (by decide) ?_
    exact Frame.refl
  · exact Frame.refl

theorem State.steerToManager_frame {s : State} {offsetNs : Int} : Frame [.lines, .free] s (State.steerToManager s offsetNs) := by
  unfold State.steerToManager
  extract_lets -merge v1 v2 v3 v4
  refine Frame.cut v4 (by
    unfold v4
    refine Frame.comp State.setOsc_frame (by decide) ?_
    exact Frame.refl) fun h5 => ?_
  clear_value v1 v2 v3 v4
  refine Frame.ite (fun _ => ?_) (fun _ => ?_)
  · exact Frame.refl
  · refine Frame.comp (M := [.free]) (t := v4) (fun b hb => ?_) (by decide) ?_
    · cases b with | free => exact absurd (by decide) hb | _ => rfl
    · assumption

theorem State.takeSeason_frame {season : Nat} {s : State} : Frame [.tb] s (State.takeSeason season s) := by
  unfold State.takeSeason
  extract_lets -merge v1 v2 v3
  clear_value v1 v2 v3
  refine Frame.ite (fun _ => ?_) (fun _ => ?_)
  · exact Frame.refl
  · refine Frame.ite (fun _ => ?_) (fun _ => ?_)
    · refine Frame.comp (M := [.tb]) (t := s) (fun b hb => ?_) (by decide) ?_
      · cases b with | tb => exact absurd (by decide) hb | _ => rfl
      · exact Frame.refl
    · refine Frame.comp (M := [.tb]) (t := s) (fun b hb => ?_) (by decide) ?_
      · cases b with | tb => exact absurd (by decide) hb | _ => rfl
      · exact Frame.refl

theorem execAlignmentSymbol_frame {port : Nat} {symbol : AlignMsg} {offsetNs : Int} {delayNs : Nat} {s : State} {t : State} (h : execAlignmentSymbol port symbol offsetNs delayNs s = .next t) : Frame [.tb, .lines, .ihx, .free] s t := by
  unfold execAlignmentSymbol at h
  have h := Host.Outcome.next.inj h
  subst h
  refine Frame.ite (fun _ => ?_) (fun _ => ?_)
  · exact Frame.refl
  · extract_lets -merge v1 v2 v3 v4 v5 v6 v7 v8
    refine Frame.cut v4 (by
      unfold v4
      refine Frame.comp State.takeSeason_frame (by decide) ?_
      refine Frame.comp State.steerToManager_frame (by decide) ?_
      refine Frame.comp State.send_frame (by decide) ?_
      exact Frame.refl) fun h9 => ?_
    refine Frame.cut v7 (by
      unfold v7
      refine Frame.comp (M := [.tb, .ihx]) (t := v4) (fun b hb => ?_) (by decide) ?_
      · cases b with | tb => exact absurd (by decide) hb | ihx => exact absurd (by decide) hb | _ => rfl
      · assumption) fun h10 => ?_
    refine Frame.cut v8 (by
      unfold v8
      refine Frame.ite (fun _ => ?_) (fun _ => ?_)
      · refine Frame.comp State.send_frame (by decide) ?_
        assumption
      · assumption) fun h11 => ?_
    clear_value v1 v2 v3 v4 v5 v6 v7 v8
    refine Frame.comp State.checkJoined_frame (by decide) ?_
    assumption

theorem execEchoSymbol_frame {port roundTripNs : Nat} {s : State} {t : State} (h : execEchoSymbol port roundTripNs s = .next t) : Frame [.ihx] s t := by
  unfold execEchoSymbol at h
  have h := Host.Outcome.next.inj h
  subst h
  extract_lets -merge v1
  clear_value v1
  refine Frame.ite (fun _ => ?_) (fun _ => ?_)
  · refine Frame.comp State.setIhxPort_frame (by decide) ?_
    exact Frame.refl
  · exact Frame.refl

theorem execAlignmentLoss_frame {s : State} {t : State} (h : execAlignmentLoss s = .next t) : Frame [.ihx, .evt, .cnt, .host] s t := by
  unfold execAlignmentLoss at h
  have h := Host.Outcome.next.inj h
  subst h
  refine Frame.ite (fun _ => ?_) (fun _ => ?_)
  · extract_lets -merge v1
    clear_value v1
    refine Frame.comp State.raiseAlarm_frame (by decide) ?_
    refine Frame.comp (M := [.ihx]) (t := s) (fun b hb => ?_) (by decide) ?_
    · cases b with | ihx => exact absurd (by decide) hb | _ => rfl
    · exact Frame.refl
  · exact Frame.refl

theorem execCounterAdvance_frame {d : Nat} {s : State} {t : State} (h : execCounterAdvance d s = .next t) : Frame [.tb] s t := by
  unfold execCounterAdvance at h
  have h := Host.Outcome.next.inj h
  subst h
  refine Frame.ite (fun _ => ?_) (fun _ => ?_)
  · extract_lets -merge v1
    clear_value v1
    refine Frame.comp (M := [.tb]) (t := s) (fun b hb => ?_) (by decide) ?_
    · cases b with | tb => exact absurd (by decide) hb | _ => rfl
    · exact Frame.refl
  · exact Frame.refl

theorem execDetached_frame {s : State} {t : State} (h : execDetached s = .next t) : Frame [.ihx, .evt, .cnt, .host] s t := by
  unfold execDetached at h
  have h := Host.Outcome.next.inj h
  subst h
  refine Frame.ite (fun _ => ?_) (fun _ => ?_)
  · extract_lets -merge v1 v2
    refine Frame.cut v2 (by
      unfold v2
      refine Frame.comp (M := [.ihx]) (t := s) (fun b hb => ?_) (by decide) ?_
      · cases b with | ihx => exact absurd (by decide) hb | _ => rfl
      · exact Frame.refl) fun h3 => ?_
    clear_value v1 v2
    refine Frame.foldl ?_ (fun t4 a5 h6 => ?_)
    · assumption
    · refine Frame.comp State.raiseAlarm_frame (by decide) ?_
      assumption
  · exact Frame.refl

theorem State.reportTick_frame {s : State} : Frame [.ihx] s (State.reportTick s) := by
  unfold State.reportTick
  refine Frame.ite (fun _ => ?_) (fun _ => ?_)
  · exact Frame.refl
  · refine Frame.ite (fun _ => ?_) (fun _ => ?_)
    · extract_lets -merge v1 v2 v3 v4
      clear_value v1 v2 v3 v4
      refine Frame.comp (M := [.ihx]) (t := s) (fun b hb => ?_) (by decide) ?_
      · cases b with | ihx => exact absurd (by decide) hb | _ => rfl
      · exact Frame.refl
    · extract_lets -merge v5 v6
      refine Frame.cut v6 (by
        unfold v6
        refine Frame.comp State.send_frame (by decide) ?_
        exact Frame.refl) fun h7 => ?_
      clear_value v5 v6
      refine Frame.comp State.send_frame (by decide) ?_
      assumption

theorem execDirectoryReport_frame {member : Nat} {report : DirReport} {s : State} {t : State} (h : execDirectoryReport member report s = .next t) : Frame [.ihx] s t := by
  unfold execDirectoryReport at h
  have h := Host.Outcome.next.inj h
  subst h
  refine Frame.ite (fun _ => ?_) (fun _ => ?_)
  · exact Frame.refl
  · extract_lets -merge v1
    clear_value v1
    split
    · rename_i y2 y3 y4 y5 y6 y7
      refine Frame.comp (M := [.ihx]) (t := s) (fun b hb => ?_) (by decide) ?_
      · cases b with | ihx => exact absurd (by decide) hb | _ => rfl
      · exact Frame.refl
    · rename_i y8 y9
      refine Frame.comp (M := [.ihx]) (t := s) (fun b hb => ?_) (by decide) ?_
      · cases b with | ihx => exact absurd (by decide) hb | _ => rfl
      · exact Frame.refl
    · rename_i y10 y11 y12
      refine Frame.comp (M := [.ihx]) (t := s) (fun b hb => ?_) (by decide) ?_
      · cases b with | ihx => exact absurd (by decide) hb | _ => rfl
      · exact Frame.refl
    · rename_i y13 y14 y15 y16
      refine Frame.comp (M := [.ihx]) (t := s) (fun b hb => ?_) (by decide) ?_
      · cases b with | ihx => exact absurd (by decide) hb | _ => rfl
      · exact Frame.refl
    · rename_i y17
      refine Frame.comp (M := [.ihx]) (t := s) (fun b hb => ?_) (by decide) ?_
      · cases b with | ihx => exact absurd (by decide) hb | _ => rfl
      · exact Frame.refl

theorem placeCtlWrite_frame {v : Word} {s : State} : Frame [.ihx] s (placeCtlWrite v s) := by
  unfold placeCtlWrite
  refine Frame.ite (fun _ => ?_) (fun _ => ?_)
  · exact Frame.refl
  · extract_lets -merge v1 v2
    clear_value v1 v2
    refine Frame.comp (M := [.ihx]) (t := s) (fun b hb => ?_) (by decide) ?_
    · cases b with | ihx => exact absurd (by decide) hb | _ => rfl
    · exact Frame.refl

theorem execPlacement_frame {port : Nat} {value : Word} {s : State} {t : State} (h : execPlacement port value s = .next t) : Frame [.ihx] s t := by
  unfold execPlacement at h
  have h := Host.Outcome.next.inj h
  subst h
  refine Frame.ite (fun _ => ?_) (fun _ => ?_)
  · refine Frame.comp placeCtlWrite_frame (by decide) ?_
    exact Frame.refl
  · exact Frame.refl

theorem serveReads_frame {port fuel : Nat} {s : State} : Frame [.sessions, .jobs, .ihx, .cnt, .tallies] s (serveReads port fuel s) := by
  induction fuel generalizing s with
  | zero => exact Frame.refl
  | succ fuel ih =>
    unfold serveReads
    extract_lets x
    split
    · exact Frame.refl
    · extract_lets q
      split
      · extract_lets s2
        split
        · exact Frame.refl
        · refine Frame.comp ih (List.Subset.refl _) (Frame.comp State.returnCredits_frame (by decide) ?_)
          exact Frame.comp State.bump_frame (by decide) (Frame.comp State.charge_frame (by decide) (Frame.comp State.send_frame (by decide)
            (Frame.comp State.setIhxPort_frame (by decide) Frame.refl)))
      · refine Frame.comp ih (List.Subset.refl _) (Frame.comp State.returnCredits_frame (by decide) ?_)
        exact Frame.comp State.setIhxPort_frame (by decide) Frame.refl

theorem execCreditReturn_frame {port vc : Nat} {fill : Bool} {s : State} {t : State} (h : execCreditReturn port vc fill s = .next t) : Frame [.sessions, .jobs, .ihx, .cnt, .tallies] s t := by
  unfold execCreditReturn at h
  have h := Host.Outcome.next.inj h
  subst h
  extract_lets -merge v1 v2
  clear_value v1 v2
  refine Frame.ite (fun _ => ?_) (fun _ => ?_)
  · exact Frame.refl
  · refine Frame.comp serveReads_frame (by decide) ?_
    refine Frame.comp State.setIhxPort_frame (by decide) ?_
    exact Frame.refl

theorem execRemoteReadRequest_frame {port job tag age offset bytes : Nat} {s : State} {t : State} (h : execRemoteReadRequest port job tag age offset bytes s = .next t) : Frame [.sessions, .jobs, .ihx, .cnt, .tallies] s t := by
  unfold execRemoteReadRequest at h
  have h := Host.Outcome.next.inj h
  subst h
  extract_lets -merge v1 v2 v3
  clear_value v1 v2 v3
  refine Frame.ite (fun _ => ?_) (fun _ => ?_)
  · exact Frame.refl
  · refine Frame.comp serveReads_frame (by decide) ?_
    refine Frame.comp State.setIhxPort_frame (by decide) ?_
    exact Frame.refl

theorem State.addTransfer_frame {s : State} {outgoing : Bool} {ring : Nat} {d : Desc} {peer stream : Nat} : Frame [.ihx] s (State.addTransfer s outgoing ring d peer stream) := by
  unfold State.addTransfer
  refine Frame.ite (fun _ => ?_) (fun _ => ?_)
  · exact Frame.refl
  · extract_lets -merge v1
    clear_value v1
    refine Frame.comp (M := [.ihx]) (t := s) (fun b hb => ?_) (by decide) ?_
    · cases b with | ihx => exact absurd (by decide) hb | _ => rfl
    · exact Frame.refl

theorem execTransferOut_frame {ring seq : Nat} {s : State} {t : State} (h : execTransferOut ring seq s = .next t) : Frame [.ihx] s t := by
  unfold execTransferOut at h
  have h := Host.Outcome.next.inj h
  subst h
  split
  · exact Frame.refl
  · split
    · exact Frame.refl
    · refine Frame.ite (fun _ => ?_) (fun _ => ?_)
      · exact Frame.refl
      · extract_lets -merge v1
        refine Frame.cut v1 (by
          unfold v1
          refine Frame.ite (fun _ => ?_) (fun _ => ?_)
          · exact Frame.refl
          · refine Frame.comp State.addTransfer_frame (by decide) ?_
            exact Frame.refl) fun h2 => ?_
        clear_value v1
        split
        · refine Frame.ite (fun _ => ?_) (fun _ => ?_)
          · refine Frame.comp State.send_frame (by decide) ?_
            refine Frame.comp State.modTransfer_frame (by decide) ?_
            assumption
          · assumption
        · assumption

theorem State.endArrival_frame {s : State} {t : Transfer} {status detail sourceDetail : Nat} : Frame [.mem, .dram, .rmk, .sessions, .models, .streams, .jobs, .hatch, .burin, .lines, .ihx, .cnt, .rebind, .host] s (State.endArrival s t status detail sourceDetail) := by
  unfold State.endArrival
  extract_lets -merge v1 v2
  refine Frame.cut v1 (by
    unfold v1
    refine Frame.comp State.dropTransfer_frame (by decide) ?_
    refine Frame.comp State.dropArrival_frame (by decide) ?_
    exact Frame.refl) fun h3 => ?_
  refine Frame.cut v2 (by
    unfold v2
    split
    · refine Frame.comp State.complete_frame (by decide) ?_
      assumption
    · assumption) fun h4 => ?_
  clear_value v1 v2
  refine Frame.comp State.bump_frame (by decide) ?_
  refine Frame.comp State.send_frame (by decide) ?_
  assumption

theorem State.meetOffer_frame {s : State} {t : Transfer} {o : OfferMsg} : Frame [.mem, .dram, .rmk, .sessions, .models, .streams, .jobs, .hatch, .burin, .lines, .ihx, .evt, .cnt, .rebind, .host] s (State.meetOffer s t o) := by
  unfold State.meetOffer
  extract_lets -merge v1 v2 v3
  refine Frame.cut v2 (by
    unfold v2
    refine Frame.comp (M := [.ihx]) (t := s) (fun b hb => ?_) (by decide) ?_
    · cases b with | ihx => exact absurd (by decide) hb | _ => rfl
    · exact Frame.refl) fun h4 => ?_
  clear_value v1 v2 v3
  split
  · assumption
  · split
    · refine Frame.comp State.endArrival_frame (by decide) ?_
      assumption
    · extract_lets -merge v5
      clear_value v5
      split
      · extract_lets -merge v6 v7 v8 v9
        refine Frame.cut v8 (by
          unfold v8
          refine Frame.comp State.bump_frame (by decide) ?_
          refine Frame.comp State.leaveOut_frame (by decide) ?_
          refine Frame.comp State.clearPlace_frame (by decide) ?_
          refine Frame.comp State.commitPlace_frame (by decide) ?_
          assumption) fun h10 => ?_
        refine Frame.cut v9 (by
          unfold v9
          refine Frame.comp State.modTransfer_frame (by decide) ?_
          assumption) fun h11 => ?_
        clear_value v6 v7 v8 v9
        refine Frame.comp State.send_frame (by decide) ?_
        refine Frame.comp State.modDesc_frame (by decide) ?_
        assumption
      · refine Frame.comp State.endArrival_frame (by decide) ?_
        refine Frame.comp State.writeTrace_frame (by decide) ?_
        refine Frame.comp State.bump_frame (by decide) ?_
        assumption
      · refine Frame.comp State.endArrival_frame (by decide) ?_
        assumption

theorem execTransferIn_frame {ring seq : Nat} {s : State} {t : State} (h : execTransferIn ring seq s = .next t) : Frame [.mem, .dram, .rmk, .sessions, .models, .streams, .jobs, .hatch, .burin, .lines, .ihx, .evt, .cnt, .rebind, .host] s t := by
  unfold execTransferIn at h
  have h := Host.Outcome.next.inj h
  subst h
  split
  · exact Frame.refl
  · refine Frame.ite (fun _ => ?_) (fun _ => ?_)
    · exact Frame.refl
    · extract_lets -merge v1 v2
      refine Frame.cut v1 (by
        unfold v1
        refine Frame.ite (fun _ => ?_) (fun _ => ?_)
        · refine Frame.comp State.addTransfer_frame (by decide) ?_
          refine Frame.comp State.modDesc_frame (by decide) ?_
          exact Frame.refl
        · exact Frame.refl) fun h3 => ?_
      clear_value v1 v2
      split
      · refine Frame.ite (fun _ => ?_) (fun _ => ?_)
        · refine Frame.comp State.meetOffer_frame (by decide) ?_
          assumption
        · assumption
      · assumption

theorem execOffer_frame {msg : OfferMsg} {s : State} {t : State} (h : execOffer msg s = .next t) : Frame [.mem, .dram, .rmk, .sessions, .models, .streams, .jobs, .hatch, .burin, .lines, .ihx, .evt, .cnt, .rebind, .host] s t := by
  unfold execOffer at h
  have h := Host.Outcome.next.inj h
  subst h
  extract_lets -merge v1 v2 v3
  refine Frame.cut v3 (by
    unfold v3
    refine Frame.comp (M := [.ihx]) (t := s) (fun b hb => ?_) (by decide) ?_
    · cases b with | ihx => exact absurd (by decide) hb | _ => rfl
    · exact Frame.refl) fun h4 => ?_
  clear_value v1 v2 v3
  refine Frame.ite (fun _ => ?_) (fun _ => ?_)
  · exact Frame.refl
  · split
    · refine Frame.ite (fun _ => ?_) (fun _ => ?_)
      · refine Frame.comp State.meetOffer_frame (by decide) ?_
        assumption
      · assumption
    · assumption

theorem execTransferPartnerTimeout_frame {ring seq : Nat} {s : State} {t : State} (h : execTransferPartnerTimeout ring seq s = .next t) : Frame [.rmk, .streams, .ihx, .cnt] s t := by
  unfold execTransferPartnerTimeout at h
  have h := Host.Outcome.next.inj h
  subst h
  split
  · exact Frame.refl
  · refine Frame.ite (fun _ => ?_) (fun _ => ?_)
    · exact Frame.refl
    · split
      · refine Frame.ite (fun _ => ?_) (fun _ => ?_)
        · refine Frame.comp failTransfer_frame (by decide) ?_
          exact Frame.refl
        · exact Frame.refl
      · extract_lets -merge v1
        refine Frame.cut v1 (by
          unfold v1
          split
          · refine Frame.ite (fun _ => ?_) (fun _ => ?_)
            · refine Frame.comp State.setStream_frame (by decide) ?_
              exact Frame.refl
            · exact Frame.refl
          · exact Frame.refl) fun h2 => ?_
        clear_value v1
        refine Frame.comp State.bump_frame (by decide) ?_
        refine Frame.comp State.complete_frame (by decide) ?_
        assumption

theorem execAccept_frame {transferId : DWord} {s : State} {t : State} (h : execAccept transferId s = .next t) : Frame [.ihx] s t := by
  unfold execAccept at h
  have h := Host.Outcome.next.inj h
  subst h
  split
  · exact Frame.refl
  · split
    · exact Frame.refl
    · refine Frame.ite (fun _ => ?_) (fun _ => ?_)
      · exact Frame.refl
      · extract_lets -merge v1 v2 v3
        refine Frame.cut v3 (by
          unfold v3
          refine Frame.ite (fun _ => ?_) (fun _ => ?_)
          · exact Frame.refl
          · refine Frame.comp State.setIhxPort_frame (by decide) ?_
            exact Frame.refl) fun h4 => ?_
        clear_value v1 v2 v3
        refine Frame.comp State.send_frame (by decide) ?_
        refine Frame.comp State.modTransfer_frame (by decide) ?_
        assumption

theorem execConfirm_frame {transferId : DWord} {frame : BitVec 48} {s : State} {t : State} (h : execConfirm transferId frame s = .next t) : Frame [.ihx] s t := by
  unfold execConfirm at h
  have h := Host.Outcome.next.inj h
  subst h
  split
  · refine Frame.ite (fun _ => ?_) (fun _ => ?_)
    · refine Frame.comp State.modTransfer_frame (by decide) ?_
      exact Frame.refl
    · exact Frame.refl
  · exact Frame.refl

theorem execRefuse_frame {transferId : DWord} {detail : Nat} {s : State} {t : State} (h : execRefuse transferId detail s = .next t) : Frame [.mem, .dram, .rmk, .sessions, .models, .streams, .jobs, .hatch, .burin, .lines, .ihx, .cnt, .rebind, .host] s t := by
  unfold execRefuse at h
  have h := Host.Outcome.next.inj h
  subst h
  extract_lets -merge v1 v2
  refine Frame.cut v2 (by
    unfold v2
    refine Frame.comp (M := [.ihx]) (t := s) (fun b hb => ?_) (by decide) ?_
    · cases b with | ihx => exact absurd (by decide) hb | _ => rfl
    · exact Frame.refl) fun h3 => ?_
  clear_value v1 v2
  split
  · assumption
  · extract_lets -merge v4 v5 v6
    refine Frame.cut v4 (by
      unfold v4
      refine Frame.comp State.dropArrival_frame (by decide) ?_
      assumption) fun h7 => ?_
    refine Frame.cut v5 (by
      unfold v5
      split
      · refine Frame.ite (fun _ => ?_) (fun _ => ?_)
        · refine Frame.comp State.setStream_frame (by decide) ?_
          assumption
        · assumption
      · assumption) fun h8 => ?_
    refine Frame.cut v6 (by
      unfold v6
      split
      · refine Frame.comp State.complete_frame (by decide) ?_
        assumption
      · assumption) fun h9 => ?_
    clear_value v4 v5 v6
    refine Frame.comp State.bump_frame (by decide) ?_
    refine Frame.comp State.dropTransfer_frame (by decide) ?_
    assumption

theorem State.importStream_frame {s : State} {m : List Byte} {x : Stream} : Frame [.streams, .jobs] s (State.importStream s m x) := by
  unfold State.importStream
  extract_lets -merge v1
  refine Frame.cut v1 (by
    unfold v1
    refine Frame.comp State.setStream_frame (by decide) ?_
    exact Frame.refl) fun h2 => ?_
  clear_value v1
  split
  · refine Frame.comp State.setJob_frame (by decide) ?_
    assumption
  · assumption

theorem execEnvelope_frame {msg : EnvelopeMsg} {s : State} {t : State} (h : execEnvelope msg s = .next t) : Frame [.mem, .dram, .rmk, .sessions, .models, .streams, .jobs, .hatch, .burin, .lines, .ihx, .cnt, .rebind, .tallies, .host] s t := by
  unfold execEnvelope at h
  have h := Host.Outcome.next.inj h
  subst h
  split
  · exact Frame.refl
  · split
    · exact Frame.refl
    · split
      · exact Frame.refl
      · refine Frame.ite (fun _ => ?_) (fun _ => ?_)
        · exact Frame.refl
        · extract_lets -merge v1 v2 v3 v4 v5 v6
          refine Frame.cut v4 (by
            unfold v4
            refine Frame.comp State.bump_frame (by decide) ?_
            refine Frame.comp State.charge_frame (by decide) ?_
            exact Frame.refl) fun h7 => ?_
          refine Frame.cut v6 (by
            unfold v6
            refine Frame.comp State.importStream_frame (by decide) ?_
            assumption) fun h8 => ?_
          clear_value v1 v2 v3 v4 v5 v6
          split
          · refine Frame.comp State.endArrival_frame (by decide) ?_
            assumption
          · refine Frame.comp State.send_frame (by decide) ?_
            refine Frame.comp State.modTransfer_frame (by decide) ?_
            assumption

theorem State.arrive_frame {s : State} {t : Transfer} {d : Desc} {x : Stream} : Frame [.rmk, .sessions, .streams, .jobs, .burin, .ihx, .evt, .cnt, .tallies, .host] s (State.arrive s t d x) := by
  unfold State.arrive
  extract_lets -merge v1 v2 v3 v4 v5
  refine Frame.cut v2 (by
    unfold v2
    split
    · refine Frame.comp State.setSession_frame (by decide) ?_
      exact Frame.refl
    · exact Frame.refl) fun h6 => ?_
  refine Frame.cut v4 (by
    unfold v4
    refine Frame.comp State.bump_frame (by decide) ?_
    refine Frame.comp State.dropTransfer_frame (by decide) ?_
    refine Frame.comp State.setStream_frame (by decide) ?_
    assumption) fun h7 => ?_
  refine Frame.cut v5 (by
    unfold v5
    refine Frame.comp State.complete_frame (by decide) ?_
    assumption) fun h8 => ?_
  clear_value v1 v2 v3 v4 v5
  refine Frame.ite (fun _ => ?_) (fun _ => ?_)
  · refine Frame.comp State.listPlans_frame (by decide) ?_
    refine Frame.comp State.planStream_frame (by decide) ?_
    refine Frame.comp State.resumeMoved_frame (by decide) ?_
    assumption
  · assumption

theorem followPush_frame {ring dest : Nat} {s : State} {d : Desc} : Frame [.rmk] s (followPush ring dest s d) := by
  unfold followPush
  refine Frame.ite (fun _ => ?_) (fun _ => ?_)
  · refine Frame.comp State.complete_frame (by decide) ?_
    exact Frame.refl
  · refine Frame.comp State.modDesc_frame (by decide) ?_
    exact Frame.refl

theorem State.depart_frame {s : State} {t : Transfer} {d : Desc} {x : Stream} : Frame [.rmk, .streams, .ihx, .cnt] s (State.depart s t d x) := by
  unfold State.depart
  extract_lets -merge v1 v2 v3
  refine Frame.cut v1 (by
    unfold v1
    refine Frame.foldl ?_ (fun t5 a6 h7 => ?_)
    · exact Frame.refl
    · refine Frame.comp followPush_frame (by decide) ?_
      assumption) fun h4 => ?_
  refine Frame.cut v2 (by
    unfold v2
    refine Frame.foldl ?_ (fun t9 a10 h11 => ?_)
    · assumption
    · refine Frame.comp State.complete_frame (by decide) ?_
      assumption) fun h8 => ?_
  refine Frame.cut v3 (by
    unfold v3
    refine Frame.comp State.setStream_frame (by decide) ?_
    assumption) fun h12 => ?_
  clear_value v1 v2 v3
  refine Frame.comp State.complete_frame (by decide) ?_
  refine Frame.comp State.bump_frame (by decide) ?_
  refine Frame.comp State.dropTransfer_frame (by decide) ?_
  assumption

theorem State.owner_frame {s : State} {id : DWord} {destination : Bool} : Frame [.mem, .dram, .rmk, .sessions, .models, .streams, .jobs, .hatch, .burin, .lines, .ihx, .evt, .cnt, .rebind, .tallies, .host] s (State.owner s id destination) := by
  unfold State.owner
  split
  · exact Frame.refl
  · split
    · refine Frame.ite (fun _ => ?_) (fun _ => ?_)
      · refine Frame.ite (fun _ => ?_) (fun _ => ?_)
        · refine Frame.ite (fun _ => ?_) (fun _ => ?_)
          · refine Frame.comp State.depart_frame (by decide) ?_
            exact Frame.refl
          · exact Frame.refl
        · refine Frame.comp failTransfer_frame (by decide) ?_
          exact Frame.refl
      · refine Frame.ite (fun _ => ?_) (fun _ => ?_)
        · refine Frame.ite (fun _ => ?_) (fun _ => ?_)
          · refine Frame.comp State.arrive_frame (by decide) ?_
            exact Frame.refl
          · exact Frame.refl
        · refine Frame.comp State.endArrival_frame (by decide) ?_
          exact Frame.refl
    · exact Frame.refl

theorem execOwner_frame {transferId : DWord} {destination : Bool} {s : State} {t : State} (h : execOwner transferId destination s = .next t) : Frame [.mem, .dram, .rmk, .sessions, .models, .streams, .jobs, .hatch, .burin, .lines, .ihx, .evt, .cnt, .rebind, .tallies, .host] s t := by
  unfold execOwner at h
  have h := Host.Outcome.next.inj h
  subst h
  refine Frame.comp State.owner_frame (by decide) ?_
  exact Frame.refl

theorem State.tellOwner_frame {s : State} {member : Nat} {id : DWord} {destination : Bool} : Frame [.mem, .dram, .rmk, .sessions, .models, .streams, .jobs, .hatch, .burin, .lines, .ihx, .evt, .cnt, .rebind, .tallies, .host] s (State.tellOwner s member id destination) := by
  unfold State.tellOwner
  refine Frame.ite (fun _ => ?_) (fun _ => ?_)
  · refine Frame.comp State.owner_frame (by decide) ?_
    exact Frame.refl
  · refine Frame.comp State.send_frame (by decide) ?_
    exact Frame.refl

theorem execImported_frame {transferId : DWord} {source dest session : Nat} {s : State} {t : State} (h : execImported transferId source dest session s = .next t) : Frame [.mem, .dram, .rmk, .sessions, .models, .streams, .jobs, .hatch, .burin, .lines, .ihx, .evt, .cnt, .rebind, .tallies, .host] s t := by
  unfold execImported at h
  have h := Host.Outcome.next.inj h
  subst h
  refine Frame.ite (fun _ => ?_) (fun _ => ?_)
  · exact Frame.refl
  · split
    · extract_lets -merge v1 v2
      refine Frame.cut v2 (by
        unfold v2
        refine Frame.comp (M := [.ihx]) (t := s) (fun b hb => ?_) (by decide) ?_
        · cases b with | ihx => exact absurd (by decide) hb | _ => rfl
        · exact Frame.refl) fun h3 => ?_
      clear_value v1 v2
      refine Frame.comp State.tellOwner_frame (by decide) ?_
      refine Frame.comp State.tellOwner_frame (by decide) ?_
      assumption
    · refine Frame.comp State.tellOwner_frame (by decide) ?_
      refine Frame.comp State.tellOwner_frame (by decide) ?_
      exact Frame.refl

theorem execHandOffReport_frame {ring seq samples : Nat} {s : State} {t : State} (h : execHandOffReport ring seq samples s = .next t) : Frame [.rmk] s t := by
  unfold execHandOffReport at h
  have h := Host.Outcome.next.inj h
  subst h
  split
  · exact Frame.refl
  · refine Frame.ite (fun _ => ?_) (fun _ => ?_)
    · exact Frame.refl
    · extract_lets -merge v1 v2
      refine Frame.cut v2 (by
        unfold v2
        refine Frame.comp State.modDesc_frame (by decide) ?_
        exact Frame.refl) fun h3 => ?_
      clear_value v1 v2
      refine Frame.ite (fun _ => ?_) (fun _ => ?_)
      · assumption
      · refine Frame.comp State.complete_frame (by decide) ?_
        assumption

end Sys2Proof.Machine
end

