-- ==== Sys2Proof/Laws/FrameTick.lean ====
section
/-! SUPPORT. Frames: which blocks each operation may change, for the sample tick, the Frame tick and the setup registers. -/

namespace Sys2Proof.Machine

open Sys2Proof

theorem slipStream_frame {s : State} {x : Stream} : Frame [.streams, .cnt] s (slipStream s x) := by
  unfold slipStream
  extract_lets -merge v1 v2
  clear_value v1 v2
  refine Frame.ite (fun _ => ?_) (fun _ => ?_)
  · exact Frame.refl
  · refine Frame.comp State.bump_frame (by decide) ?_
    refine Frame.comp State.setStream_frame (by decide) ?_
    exact Frame.refl

theorem execSampleTick_frame {s : State} {t : State} (h : execSampleTick s = .next t) : Frame [.boot, .tb, .streams, .jobs, .lines, .cnt, .tallies] s t := by
  unfold execSampleTick at h
  have h := Host.Outcome.next.inj h
  subst h
  refine Frame.ite (fun _ => ?_) (fun _ => ?_)
  · exact Frame.refl
  · extract_lets -merge v1 v2 v3 v4 v5
    refine Frame.cut v2 (by
      unfold v2
      refine Frame.comp (M := [.boot, .tb]) (t := s) (fun b hb => ?_) (by decide) ?_
      · cases b with | boot => exact absurd (by decide) hb | tb => exact absurd (by decide) hb | _ => rfl
      · exact Frame.refl) fun h6 => ?_
    refine Frame.cut v3 (by
      unfold v3
      refine Frame.comp State.bump_frame (by decide) ?_
      assumption) fun h7 => ?_
    refine Frame.cut v4 (by
      unfold v4
      refine Frame.ite (fun _ => ?_) (fun _ => ?_)
      · refine Frame.comp State.bump_frame (by decide) ?_
        assumption
      · assumption) fun h8 => ?_
    refine Frame.cut v5 (by
      unfold v5
      refine Frame.ite (fun _ => ?_) (fun _ => ?_)
      · refine Frame.foldl ?_ (fun t10 a11 h12 => ?_)
        · assumption
        · refine Frame.comp slipStream_frame (by decide) ?_
          assumption
      · assumption) fun h9 => ?_
    clear_value v1 v2 v3 v4 v5
    refine Frame.ite (fun _ => ?_) (fun _ => ?_)
    · assumption
    · refine Frame.comp State.groupTick_frame (by decide) ?_
      refine Frame.comp State.lineTick_frame (by decide) ?_
      assumption

theorem counterTick_frame {s : State} : Frame [.tb] s (counterTick s) := by
  unfold counterTick
  extract_lets -merge v1 v2
  clear_value v1 v2
  refine Frame.comp (M := [.tb]) (t := s) (fun b hb => ?_) (by decide) ?_
  · cases b with | tb => exact absurd (by decide) hb | _ => rfl
  · exact Frame.refl

theorem markStretched_frame {s : State} : Frame [.rmk, .sessions, .streams, .jobs] s (markStretched s) := by
  unfold markStretched
  refine Frame.ite (fun _ => ?_) (fun _ => ?_)
  · exact Frame.refl
  · extract_lets -merge v1 v2 v3 v4 v5 v6 v7 v8 v9 v10 v11
    clear_value v1 v2 v3 v4 v5 v6 v7 v8 v9 v10 v11
    refine Frame.comp (M := [.rmk, .sessions, .streams, .jobs]) (t := s) (fun b hb => ?_) (by decide) ?_
    · cases b with | rmk => exact absurd (by decide) hb | sessions => exact absurd (by decide) hb | streams => exact absurd (by decide) hb | jobs => exact absurd (by decide) hb | _ => rfl
    · exact Frame.refl

theorem powerTick_frame {watts : Nat} {s : State} : Frame [.pwr, .evt, .cnt, .host] s (powerTick watts s) := by
  unfold powerTick
  extract_lets -merge v1 v2 v3 v4 v5 v6
  refine Frame.cut v4 (by
    unfold v4
    refine Frame.ite (fun _ => ?_) (fun _ => ?_)
    · refine Frame.comp State.raiseAlarm_frame (by decide) ?_
      exact Frame.refl
    · exact Frame.refl) fun h7 => ?_
  refine Frame.cut v5 (by
    unfold v5
    refine Frame.ite (fun _ => ?_) (fun _ => ?_)
    · refine Frame.comp State.bump_frame (by decide) ?_
      assumption
    · assumption) fun h8 => ?_
  refine Frame.comp (M := [.pwr]) (t := v5) (fun b hb => ?_) (by decide) ?_
  · cases b with | pwr => exact absurd (by decide) hb | _ => rfl
  · assumption

theorem State.keepSecond_frame {s : State} {m : List Byte} {r : ExportRec} {x : Stream} : Frame [.sessions, .streams, .jobs, .tallies] s (State.keepSecond s m r x) := by
  unfold State.keepSecond
  split
  · refine Frame.comp State.setStream_frame (by decide) ?_
    exact Frame.refl
  · extract_lets -merge v1 v2 v3
    clear_value v1 v2 v3
    refine Frame.comp State.charge_frame (by decide) ?_
    refine Frame.comp State.setStream_frame (by decide) ?_
    exact Frame.refl

theorem State.trimWeights_frame {s : State} {u : Nat} : Frame [.burin] s (State.trimWeights s u) := by
  unfold State.trimWeights
  extract_lets -merge v1 v2
  clear_value v1 v2
  refine Frame.ite (fun _ => ?_) (fun _ => ?_)
  · exact Frame.refl
  · refine Frame.comp State.setUnit_frame (by decide) ?_
    exact Frame.refl

theorem tickStream_frame {s : State} {id : Nat} : Frame [.sessions, .streams, .jobs, .burin, .ihx, .cnt, .tallies] s (tickStream s id) := by
  unfold tickStream
  split
  · exact Frame.refl
  · split
    · exact Frame.refl
    · refine Frame.ite (fun _ => ?_) (fun _ => ?_)
      · refine Frame.comp State.setStream_frame (by decide) ?_
        exact Frame.refl
      · extract_lets -merge v1 v2 v3 v4 v5
        refine Frame.cut v3 (by
          unfold v3
          refine Frame.ite (fun _ => ?_) (fun _ => ?_)
          · refine Frame.comp State.setStream_frame (by decide) ?_
            exact Frame.refl
          · refine Frame.ite (fun _ => ?_) (fun _ => ?_)
            · refine Frame.comp State.keepSecond_frame (by decide) ?_
              exact Frame.refl
            · refine Frame.comp State.setStream_frame (by decide) ?_
              exact Frame.refl) fun h6 => ?_
        refine Frame.cut v4 (by
          unfold v4
          refine Frame.ite (fun _ => ?_) (fun _ => ?_)
          · assumption
          · refine Frame.comp State.trimWeights_frame (by decide) ?_
            assumption) fun h7 => ?_
        clear_value v1 v2 v3 v4 v5
        refine Frame.ite (fun _ => ?_) (fun _ => ?_)
        · split
          · refine Frame.comp State.setStream_frame (by decide) ?_
            assumption
          · assumption
        · refine Frame.comp State.trySend_frame (by decide) ?_
          assumption

theorem leaveForTransfer_frame {s : State} : Frame [.streams] s (leaveForTransfer s) := by
  unfold leaveForTransfer
  refine Frame.foldl ?_ (fun t1 a2 h3 => ?_)
  · exact Frame.refl
  · split
    · refine Frame.ite (fun _ => ?_) (fun _ => ?_)
      · refine Frame.comp State.setStream_frame (by decide) ?_
        assumption
      · assumption
    · assumption

theorem holdTransfers_frame {s : State} : Frame [.ihx] s (holdTransfers s) := by
  unfold holdTransfers
  extract_lets -merge v1 v2
  clear_value v1 v2
  refine Frame.comp (M := [.ihx]) (t := s) (fun b hb => ?_) (by decide) ?_
  · cases b with | ihx => exact absurd (by decide) hb | _ => rfl
  · exact Frame.refl

theorem commitCloses_frame {s : State} : Frame [.rmk] s (commitCloses s) := by
  unfold commitCloses
  extract_lets -merge v1 v2 v3
  clear_value v1 v2 v3
  refine Frame.comp (M := [.rmk]) (t := s) (fun b hb => ?_) (by decide) ?_
  · cases b with | rmk => exact absurd (by decide) hb | _ => rfl
  · exact Frame.refl

theorem closeSteps_frame {s : State} : Frame [.mem, .dram, .rmk, .sessions, .models, .streams, .jobs, .hatch, .burin, .lines, .evt, .cnt, .rebind, .host] s (closeSteps s) := by
  unfold closeSteps
  extract_lets -merge v1 v2 v3
  refine Frame.cut v1 (by
    unfold v1
    refine Frame.comp residencyTick_frame (by decide) ?_
    exact Frame.refl) fun h4 => ?_
  refine Frame.cut v2 (by
    unfold v2
    refine Frame.foldl ?_ (fun t6 a7 h8 => ?_)
    · assumption
    · refine Frame.comp State.applyCtrls_frame (by decide) ?_
      refine Frame.comp State.removeAborted_frame (by decide) ?_
      assumption) fun h5 => ?_
  refine Frame.cut v3 (by
    unfold v3
    refine Frame.comp leaveForTransfer_frame (by decide) ?_
    refine Frame.comp commitCloses_frame (by decide) ?_
    assumption) fun h9 => ?_
  clear_value v1 v2 v3
  refine Frame.foldl ?_ (fun t10 a11 h12 => ?_)
  · assumption
  · split
    · refine Frame.comp State.tryResume_frame (by decide) ?_
      assumption
    · assumption

theorem recordCoverage_frame {s : State} : Frame [.streams] s (recordCoverage s) := by
  unfold recordCoverage
  extract_lets -merge v1
  clear_value v1
  refine Frame.comp (M := [.streams]) (t := s) (fun b hb => ?_) (by decide) ?_
  · cases b with | streams => exact absurd (by decide) hb | _ => rfl
  · exact Frame.refl

theorem endStream_frame {s : State} {id : Nat} : Frame [.mem, .dram, .sessions, .models, .streams, .jobs, .hatch, .burin, .lines, .cnt, .rebind, .host] s (endStream s id) := by
  unfold endStream
  split
  · exact Frame.refl
  · refine Frame.ite (fun _ => ?_) (fun _ => ?_)
    · refine Frame.comp State.setStream_frame (by decide) ?_
      exact Frame.refl
    · refine Frame.ite (fun _ => ?_) (fun _ => ?_)
      · extract_lets -merge v1 v2
        refine Frame.cut v1 (by
          unfold v1
          refine Frame.comp State.releaseStream_frame (by decide) ?_
          exact Frame.refl) fun h3 => ?_
        refine Frame.cut v2 (by
          unfold v2
          refine Frame.ite (fun _ => ?_) (fun _ => ?_)
          · split
            · refine Frame.comp State.setStream_frame (by decide) ?_
              assumption
            · assumption
          · exact Frame.refl) fun h4 => ?_
        clear_value v1 v2
        refine Frame.ite (fun _ => ?_) (fun _ => ?_)
        · refine Frame.comp State.eraseStream_frame (by decide) ?_
          assumption
        · assumption
      · exact Frame.refl

theorem restartDeadline_frame {s : State} {id : Nat} : Frame [.rmk, .sessions, .streams, .jobs, .burin, .lines, .ihx, .cnt, .tallies, .host] s (restartDeadline s id) := by
  unfold restartDeadline
  split
  · refine Frame.ite (fun _ => ?_) (fun _ => ?_)
    · refine Frame.comp State.faultStream_frame (by decide) ?_
      exact Frame.refl
    · exact Frame.refl
  · exact Frame.refl

theorem State.reserveUnits_frame {held fields : List Nat} {l : List Stream} {s : State} {r : State × List (Nat × Nat)}
    (h : State.reserveUnits held fields l s = some r) : Frame [.burin] s r.1 := by
  induction l generalizing s r with
  | nil => exact Option.some.inj h ▸ Frame.refl
  | cons x rest ih =>
    unfold State.reserveUnits at h
    extract_lets units at h
    split at h
    · cases h
    · extract_lets b k s1 at h
      obtain ⟨q, hq, hr⟩ := Option.map_eq_some_iff.mp h
      rw [← hr]
      show Frame _ s q.1
      exact Frame.comp (t := s1) (ih (r := q) hq) (List.Subset.refl _) (Frame.comp (M := [.burin]) State.setUnit_frame (by decide) Frame.refl)

theorem State.commitRebind_frame {s : State} {m : List Byte} {j : Job} {cores : List Nat} {units : List (Nat × Nat)} : Frame [.jobs, .hatch, .rebind] s (State.commitRebind s m j cores units) := by
  unfold State.commitRebind
  extract_lets -merge v1 v2 v3 v4 v5
  refine Frame.cut v2 (by
    unfold v2
    refine Frame.comp State.setJob_frame (by decide) ?_
    refine Frame.comp State.bindCores_frame (by decide) ?_
    exact Frame.refl) fun h6 => ?_
  refine Frame.cut v4 (by
    unfold v4
    refine Frame.foldl ?_ (fun t8 a9 h10 => ?_)
    · assumption
    · refine Frame.comp State.requestFrost_frame (by decide) ?_
      assumption) fun h7 => ?_
  clear_value v1 v2 v3 v4 v5
  refine Frame.comp (M := [.rebind]) (t := v4) (fun b hb => ?_) (by decide) ?_
  · cases b with | rebind => exact absurd (by decide) hb | _ => rfl
  · assumption

theorem rebindTick_frame {s : State} : Frame [.jobs, .hatch, .burin, .rebind] s (rebindTick s) := by
  unfold rebindTick
  split
  · exact Frame.refl
  · extract_lets r refuse
    have hr : Frame [.jobs, .hatch, .burin, .rebind] s refuse := by
      intro b hb
      cases b <;> first | rfl | exact absurd (by decide) hb
    split
    · exact hr
    · split
      · refine Frame.ite (fun _ => hr) (fun _ => ?_)
        split
        · exact hr
        · split
          · exact hr
          · next h => exact Frame.comp State.commitRebind_frame (by decide) (Frame.comp (State.reserveUnits_frame h) (by decide) Frame.refl)
      · exact hr

theorem rebindFrost_frame {s : State} : Frame [.jobs] s (rebindFrost s) := by
  unfold rebindFrost
  split
  · refine Frame.ite (fun _ => ?_) (fun _ => ?_)
    · refine Frame.comp State.requestFrost_frame (by decide) ?_
      exact Frame.refl
    · exact Frame.refl
  · exact Frame.refl

theorem fillTick_frame {s : State} : Frame [.streams, .jobs, .hatch, .burin] s (fillTick s) := by
  unfold fillTick
  extract_lets -merge v1 v2
  refine Frame.cut v2 (by
    unfold v2
    refine Frame.foldl ?_ (fun t4 a5 h6 => ?_)
    · exact Frame.refl
    · refine Frame.comp State.requestFrost_frame (by decide) ?_
      assumption) fun h3 => ?_
  clear_value v1 v2
  refine Frame.ite (fun _ => ?_) (fun _ => ?_)
  · assumption
  · refine Frame.foldl ?_ (fun t7 a8 h9 => ?_)
    · assumption
    · refine Frame.comp State.offerFill_frame (by decide) ?_
      assumption

theorem planTick_frame {s : State} : Frame [.mem, .dram, .rmk, .sessions, .models, .streams, .jobs, .hatch, .burin, .lines, .ihx, .evt, .fault, .cnt, .rebind, .tallies, .host] s (planTick s) := by
  unfold planTick
  refine Frame.ite (fun _ => ?_) (fun _ => ?_)
  · extract_lets -merge v1 v2 v3
    refine Frame.cut v1 (by
      unfold v1
      refine Frame.comp holdTransfers_frame (by decide) ?_
      exact Frame.refl) fun h4 => ?_
    refine Frame.cut v3 (by
      unfold v3
      refine Frame.comp (M := [.fault]) (t := v1) (fun b hb => ?_) (by decide) ?_
      · cases b with | fault => exact absurd (by decide) hb | _ => rfl
      · assumption) fun h5 => ?_
    clear_value v1 v2 v3
    refine Frame.comp State.listPlans_frame (by decide) ?_
    refine Frame.foldl ?_ (fun t6 a7 h8 => ?_)
    · assumption
    · refine Frame.comp State.planStream_frame (by decide) ?_
      assumption
  · extract_lets -merge v9 v10 v11 v12 v13
    refine Frame.cut v9 (by
      unfold v9
      refine Frame.comp closeSteps_frame (by decide) ?_
      exact Frame.refl) fun h14 => ?_
    refine Frame.cut v10 (by
      unfold v10
      refine Frame.comp recordCoverage_frame (by decide) ?_
      refine Frame.comp State.listPlans_frame (by decide) ?_
      refine Frame.foldl ?_ (fun t16 a17 h18 => ?_)
      · assumption
      · refine Frame.comp State.planStream_frame (by decide) ?_
        assumption) fun h15 => ?_
    refine Frame.cut v11 (by
      unfold v11
      refine Frame.foldl ?_ (fun t20 a21 h22 => ?_)
      · assumption
      · refine Frame.comp endStream_frame (by decide) ?_
        assumption) fun h19 => ?_
    refine Frame.cut v12 (by
      unfold v12
      refine Frame.foldl ?_ (fun t24 a25 h26 => ?_)
      · assumption
      · refine Frame.comp State.endFaulted_frame (by decide) ?_
        assumption) fun h23 => ?_
    refine Frame.cut v13 (by
      unfold v13
      refine Frame.foldl ?_ (fun t28 a29 h30 => ?_)
      · assumption
      · refine Frame.comp restartDeadline_frame (by decide) ?_
        assumption) fun h27 => ?_
    clear_value v9 v10 v11 v12 v13
    refine Frame.comp fillTick_frame (by decide) ?_
    refine Frame.comp rebindTick_frame (by decide) ?_
    assumption

theorem sendSymbols_frame {s : State} : Frame [.ihx] s (sendSymbols s) := by
  unfold sendSymbols
  refine Frame.ite (fun _ => ?_) (fun _ => ?_)
  · exact Frame.refl
  · extract_lets -merge v1
    clear_value v1
    refine Frame.foldl ?_ (fun t2 a3 h4 => ?_)
    · exact Frame.refl
    · refine Frame.comp State.send_frame (by decide) ?_
      assumption

theorem missSymbol_frame {s : State} : Frame [.ihx] s (missSymbol s) := by
  unfold missSymbol
  refine Frame.ite (fun _ => ?_) (fun _ => ?_)
  · extract_lets -merge v1
    clear_value v1
    refine Frame.comp (M := [.ihx]) (t := s) (fun b hb => ?_) (by decide) ?_
    · cases b with | ihx => exact absurd (by decide) hb | _ => rfl
    · exact Frame.refl
  · exact Frame.refl

theorem execFrameTick_frame {watts : Nat} {s : State} {t : State} (h : execFrameTick watts s = .next t) : Frame [.tb, .pwr, .mem, .dram, .rmk, .sessions, .models, .streams, .jobs, .hatch, .burin, .lines, .ihx, .evt, .fault, .cnt, .rebind, .tallies, .host, .free] s t := by
  unfold execFrameTick at h
  have h := Host.Outcome.next.inj h
  subst h
  refine Frame.ite (fun _ => ?_) (fun _ => ?_)
  · exact Frame.refl
  · extract_lets -merge v1 v2 v3 v4 v5 v6 v7
    refine Frame.cut v1 (by
      unfold v1
      refine Frame.ite (fun _ => ?_) (fun _ => ?_)
      · refine Frame.comp State.bump_frame (by decide) ?_
        exact Frame.refl
      · exact Frame.refl) fun h8 => ?_
    refine Frame.cut v2 (by
      unfold v2
      refine Frame.comp cntTick_frame (by decide) ?_
      refine Frame.comp counterTick_frame (by decide) ?_
      refine Frame.comp markStretched_frame (by decide) ?_
      assumption) fun h9 => ?_
    refine Frame.cut v3 (by
      unfold v3
      refine Frame.comp State.bump_frame (by decide) ?_
      assumption) fun h10 => ?_
    refine Frame.cut v4 (by
      unfold v4
      refine Frame.comp powerTick_frame (by decide) ?_
      assumption) fun h11 => ?_
    refine Frame.cut v5 (by
      unfold v5
      refine Frame.foldl ?_ (fun t13 a14 h15 => ?_)
      · assumption
      · refine Frame.comp tickStream_frame (by decide) ?_
        assumption) fun h12 => ?_
    refine Frame.cut v6 (by
      unfold v6
      refine Frame.comp rebindFrost_frame (by decide) ?_
      refine Frame.foldl ?_ (fun t17 a18 h19 => ?_)
      · assumption
      · refine Frame.comp State.settle_frame (by decide) ?_
        assumption) fun h16 => ?_
    refine Frame.cut v7 (by
      unfold v7
      refine Frame.comp State.lineFrame_frame (by decide) ?_
      refine Frame.comp State.lineRates_frame (by decide) ?_
      refine Frame.comp planTick_frame (by decide) ?_
      assumption) fun h20 => ?_
    clear_value v1 v2 v3 v4 v5 v6 v7
    refine Frame.ite (fun _ => ?_) (fun _ => ?_)
    · assumption
    · refine Frame.comp State.reportTick_frame (by decide) ?_
      refine Frame.comp missSymbol_frame (by decide) ?_
      refine Frame.comp sendSymbols_frame (by decide) ?_
      assumption

theorem sendTally_frame {s : State} {e : Nat × Tally} : Frame [.mseqOut, .almSent] s (sendTally s e) := by
  unfold sendTally
  extract_lets -merge v1 v2
  refine Frame.cut v2 (by
    unfold v2
    refine Frame.ite (fun _ => ?_) (fun _ => ?_)
    · exact Frame.refl
    · refine Frame.comp sendAlm_frame (by decide) ?_
      refine Frame.comp sendAlm_frame (by decide) ?_
      exact Frame.refl) fun h3 => ?_
  clear_value v1 v2
  split
  · refine Frame.comp sendAlm_frame (by decide) ?_
    assumption
  · assumption

theorem execTallyWindowEnd_frame {s : State} {t : State} (h : execTallyWindowEnd s = .next t) : Frame [.acct, .tallies, .mseqOut, .almSent] s t := by
  unfold execTallyWindowEnd at h
  have h := Host.Outcome.next.inj h
  subst h
  refine Frame.ite (fun _ => ?_) (fun _ => ?_)
  · exact Frame.refl
  · extract_lets -merge v1 v2 v3 v4
    refine Frame.cut v3 (by
      unfold v3
      refine Frame.comp sendAlm_frame (by decide) ?_
      refine Frame.foldl ?_ (fun t6 a7 h8 => ?_)
      · exact Frame.refl
      · refine Frame.comp sendTally_frame (by decide) ?_
        assumption) fun h5 => ?_
    clear_value v1 v2 v3 v4
    refine Frame.comp (M := [.acct, .tallies]) (t := v3) (fun b hb => ?_) (by decide) ?_
    · cases b with | acct => exact absurd (by decide) hb | tallies => exact absurd (by decide) hb | _ => rfl
    · assumption

theorem execAccountingIntervalEnd_frame {s : State} {t : State} (h : execAccountingIntervalEnd s = .next t) : Frame [.sessions, .jobs, .cnt, .acct, .host] s t := by
  unfold execAccountingIntervalEnd at h
  have h := Host.Outcome.next.inj h
  subst h
  refine Frame.ite (fun _ => ?_) (fun _ => ?_)
  · exact Frame.refl
  · extract_lets -merge v1 v2 v3 v4
    refine Frame.cut v1 (by
      unfold v1
      refine Frame.ite (fun _ => ?_) (fun _ => ?_)
      · refine Frame.foldl ?_ (fun t6 a7 h8 => ?_)
        · exact Frame.refl
        · refine Frame.comp writeJobRecord_frame (by decide) ?_
          assumption
      · exact Frame.refl) fun h5 => ?_
    refine Frame.cut v2 (by
      unfold v2
      refine Frame.foldl ?_ (fun t10 a11 h12 => ?_)
      · assumption
      · refine Frame.comp writeSessionRecord_frame (by decide) ?_
        assumption) fun h9 => ?_
    clear_value v1 v2 v3 v4
    refine Frame.comp (M := [.acct]) (t := v2) (fun b hb => ?_) (by decide) ?_
    · cases b with | acct => exact absurd (by decide) hb | _ => rfl
    · assumption

theorem execEslFrameCntLoRead_frame {port : Nat} {s : State} {t : State} (h : execEslFrameCntLoRead port s = .next t) : Frame [.tb] s t := by
  unfold execEslFrameCntLoRead at h
  have h := Host.Outcome.next.inj h
  subst h
  refine Frame.ite (fun _ => ?_) (fun _ => ?_)
  · extract_lets -merge v1
    clear_value v1
    refine Frame.comp (M := [.tb]) (t := s) (fun b hb => ?_) (by decide) ?_
    · cases b with | tb => exact absurd (by decide) hb | _ => rfl
    · exact Frame.refl
  · exact Frame.refl

theorem timebaseCfgWrite_frame {v : Word} {s : State} : Frame [.tb] s (timebaseCfgWrite v s) := by
  unfold timebaseCfgWrite
  extract_lets -merge v1 v2 v3 v4 v5 v6
  have h_v4 : ∀ x7, Frame [.tb] s (v4 x7) := by
    intro x7
    unfold v4
    refine Frame.comp (M := [.tb]) (t := s) (fun b hb => ?_) (by decide) ?_
    · cases b with | tb => exact absurd (by decide) hb | _ => rfl
    · exact Frame.refl
  clear_value v1 v2 v3 v4 v5 v6
  refine Frame.ite (fun _ => ?_) (fun _ => ?_)
  · refine Frame.comp (M := [.tb]) (t := s) (fun b hb => ?_) (by decide) ?_
    · cases b with | tb => exact absurd (by decide) hb | _ => rfl
    · exact Frame.refl
  · refine Frame.ite (fun _ => ?_) (fun _ => ?_)
    · refine h_v4 _
    · refine Frame.ite (fun _ => ?_) (fun _ => ?_)
      · refine Frame.comp (M := [.tb]) (t := s) (fun b hb => ?_) (by decide) ?_
        · cases b with | tb => exact absurd (by decide) hb | _ => rfl
        · exact Frame.refl
      · refine h_v4 _

theorem execEslTimebaseCfgWrite_frame {port : Nat} {value : Word} {s : State} {t : State} (h : execEslTimebaseCfgWrite port value s = .next t) : Frame [.tb] s t := by
  unfold execEslTimebaseCfgWrite at h
  have h := Host.Outcome.next.inj h
  subst h
  refine Frame.ite (fun _ => ?_) (fun _ => ?_)
  · refine Frame.comp timebaseCfgWrite_frame (by decide) ?_
    exact Frame.refl
  · exact Frame.refl

theorem rebindWrite_frame {v : Word} {s : State} : Frame [.rebind] s (rebindWrite v s) := by
  unfold rebindWrite
  extract_lets -merge v1 v2 v3 v4 v5
  refine Frame.cut v3 (by
    unfold v3
    refine Frame.comp (M := [.rebind]) (t := s) (fun b hb => ?_) (by decide) ?_
    · cases b with | rebind => exact absurd (by decide) hb | _ => rfl
    · exact Frame.refl) fun h6 => ?_
  clear_value v1 v2 v3 v4 v5
  refine Frame.ite (fun _ => ?_) (fun _ => ?_)
  · assumption
  · refine Frame.comp (M := [.rebind]) (t := v3) (fun b hb => ?_) (by decide) ?_
    · cases b with | rebind => exact absurd (by decide) hb | _ => rfl
    · assumption

theorem execEslRebind_frame {port : Nat} {value : Word} {s : State} {t : State} (h : execEslRebind port value s = .next t) : Frame [.rebind] s t := by
  unfold execEslRebind at h
  have h := Host.Outcome.next.inj h
  subst h
  refine Frame.ite (fun _ => ?_) (fun _ => ?_)
  · refine Frame.comp rebindWrite_frame (by decide) ?_
    exact Frame.refl
  · exact Frame.refl

theorem acctCfgWrite_frame {v : Word} {s : State} : Frame [.acct] s (acctCfgWrite v s) := by
  unfold acctCfgWrite
  extract_lets -merge v1 v2
  clear_value v1 v2
  refine Frame.comp (M := [.acct]) (t := s) (fun b hb => ?_) (by decide) ?_
  · cases b with | acct => exact absurd (by decide) hb | _ => rfl
  · exact Frame.refl

theorem execEslAcctCfgWrite_frame {port : Nat} {value : Word} {s : State} {t : State} (h : execEslAcctCfgWrite port value s = .next t) : Frame [.acct] s t := by
  unfold execEslAcctCfgWrite at h
  have h := Host.Outcome.next.inj h
  subst h
  refine Frame.ite (fun _ => ?_) (fun _ => ?_)
  · refine Frame.comp acctCfgWrite_frame (by decide) ?_
    exact Frame.refl
  · exact Frame.refl

theorem pwrCapWrite_frame {v : Word} {s : State} : Frame [.pwr] s (pwrCapWrite v s) := by
  unfold pwrCapWrite
  extract_lets -merge v1
  clear_value v1
  refine Frame.comp (M := [.pwr]) (t := s) (fun b hb => ?_) (by decide) ?_
  · cases b with | pwr => exact absurd (by decide) hb | _ => rfl
  · exact Frame.refl

theorem execPwrCapWrite_frame {port : Nat} {value : Word} {s : State} {t : State} (h : execPwrCapWrite port value s = .next t) : Frame [.pwr] s t := by
  unfold execPwrCapWrite at h
  have h := Host.Outcome.next.inj h
  subst h
  refine Frame.ite (fun _ => ?_) (fun _ => ?_)
  · refine Frame.comp pwrCapWrite_frame (by decide) ?_
    exact Frame.refl
  · exact Frame.refl

theorem eslWrite_frame {o : Nat} {v : Word} {s : State} : Frame resetBlocks s (eslWrite o v s) := by
  unfold eslWrite
  split
  · refine Frame.comp timebaseCfgWrite_frame (by decide) ?_
    exact Frame.refl
  · refine Frame.comp resetCtlWrite_frame (by decide) ?_
    exact Frame.refl
  · extract_lets -merge v1
    clear_value v1
    refine Frame.comp (M := [.stage]) (t := s) (fun b hb => ?_) (by decide) ?_
    · cases b with | stage => exact absurd (by decide) hb | _ => rfl
    · exact Frame.refl
  · extract_lets -merge v2
    refine Frame.cut v2 (by
      unfold v2
      refine Frame.ite (fun _ => ?_) (fun _ => ?_)
      · refine Frame.comp stageClear_frame (by decide) ?_
        exact Frame.refl
      · exact Frame.refl) fun h3 => ?_
    clear_value v2
    refine Frame.ite (fun _ => ?_) (fun _ => ?_)
    · refine Frame.comp stageCommit_frame (by decide) ?_
      assumption
    · assumption
  · refine Frame.comp acctCfgWrite_frame (by decide) ?_
    exact Frame.refl
  · refine Frame.comp rebindWrite_frame (by decide) ?_
    exact Frame.refl
  · refine Frame.ite (fun _ => ?_) (fun _ => ?_)
    · exact Frame.refl
    · extract_lets -merge v4
      clear_value v4
      refine Frame.comp (M := [.evt]) (t := s) (fun b hb => ?_) (by decide) ?_
      · cases b with | evt => exact absurd (by decide) hb | _ => rfl
      · exact Frame.refl
  · refine Frame.ite (fun _ => ?_) (fun _ => ?_)
    · exact Frame.refl
    · extract_lets -merge v5
      clear_value v5
      refine Frame.comp (M := [.evt]) (t := s) (fun b hb => ?_) (by decide) ?_
      · cases b with | evt => exact absurd (by decide) hb | _ => rfl
      · exact Frame.refl
  · refine Frame.comp evtCfgWrite_frame (by decide) ?_
    exact Frame.refl
  · refine Frame.ite (fun _ => ?_) (fun _ => ?_)
    · exact Frame.refl
    · extract_lets -merge v6
      clear_value v6
      refine Frame.comp (M := [.evt]) (t := s) (fun b hb => ?_) (by decide) ?_
      · cases b with | evt => exact absurd (by decide) hb | _ => rfl
      · exact Frame.refl
  · refine Frame.comp evtCiWrite_frame (by decide) ?_
    exact Frame.refl
  · extract_lets -merge v7
    clear_value v7
    refine Frame.comp (M := [.evt]) (t := s) (fun b hb => ?_) (by decide) ?_
    · cases b with | evt => exact absurd (by decide) hb | _ => rfl
    · exact Frame.refl
  · exact Frame.refl

theorem memRegWrite_frame {o : Nat} {v : Word} {s : State} : Frame [.nv, .mem] s (memRegWrite o v s) := by
  unfold memRegWrite
  split
  · extract_lets -merge v1
    clear_value v1
    refine Frame.comp (M := [.nv]) (t := s) (fun b hb => ?_) (by decide) ?_
    · cases b with | nv => exact absurd (by decide) hb | _ => rfl
    · exact Frame.refl
  · extract_lets -merge v2
    clear_value v2
    refine Frame.comp (M := [.mem]) (t := s) (fun b hb => ?_) (by decide) ?_
    · cases b with | mem => exact absurd (by decide) hb | _ => rfl
    · exact Frame.refl
  · extract_lets -merge v3
    clear_value v3
    refine Frame.comp (M := [.mem]) (t := s) (fun b hb => ?_) (by decide) ?_
    · cases b with | mem => exact absurd (by decide) hb | _ => rfl
    · exact Frame.refl
  · extract_lets -merge v4
    clear_value v4
    refine Frame.comp (M := [.mem]) (t := s) (fun b hb => ?_) (by decide) ?_
    · cases b with | mem => exact absurd (by decide) hb | _ => rfl
    · exact Frame.refl
  · extract_lets -merge v5
    clear_value v5
    refine Frame.comp (M := [.mem]) (t := s) (fun b hb => ?_) (by decide) ?_
    · cases b with | mem => exact absurd (by decide) hb | _ => rfl
    · exact Frame.refl
  · exact Frame.refl

theorem clkWrite_frame {o : Nat} {v : Word} {s : State} : Frame [.lines] s (clkWrite o v s) := by
  unfold clkWrite
  refine Frame.ite (fun _ => ?_) (fun _ => ?_)
  · exact Frame.refl
  · refine Frame.ite (fun _ => ?_) (fun _ => ?_)
    · refine Frame.comp oscCfgWrite_frame (by decide) ?_
      exact Frame.refl
    · refine Frame.ite (fun _ => ?_) (fun _ => ?_)
      · refine Frame.comp oscSteerWrite_frame (by decide) ?_
        exact Frame.refl
      · exact Frame.refl

theorem folioCfgWrite_frame {v : Word} {s : State} : Frame [.ihx] s (folioCfgWrite v s) := by
  unfold folioCfgWrite
  refine Frame.ite (fun _ => ?_) (fun _ => ?_)
  · exact Frame.refl
  · extract_lets -merge v1
    clear_value v1
    refine Frame.comp (M := [.ihx]) (t := s) (fun b hb => ?_) (by decide) ?_
    · cases b with | ihx => exact absurd (by decide) hb | _ => rfl
    · exact Frame.refl

theorem ihxWrite_frame {o : Nat} {v : Word} {s : State} : Frame [.lines, .ihx, .proof] s (ihxWrite o v s) := by
  unfold ihxWrite
  refine Frame.ite (fun _ => ?_) (fun _ => ?_)
  · refine Frame.comp folioCfgWrite_frame (by decide) ?_
    exact Frame.refl
  · refine Frame.ite (fun _ => ?_) (fun _ => ?_)
    · refine Frame.ite (fun _ => ?_) (fun _ => ?_)
      · refine Frame.comp State.leave_frame (by decide) ?_
        exact Frame.refl
      · exact Frame.refl
    · refine Frame.ite (fun _ => ?_) (fun _ => ?_)
      · extract_lets -merge v1
        clear_value v1
        refine Frame.comp (M := [.ihx]) (t := s) (fun b hb => ?_) (by decide) ?_
        · cases b with | ihx => exact absurd (by decide) hb | _ => rfl
        · exact Frame.refl
      · refine Frame.ite (fun _ => ?_) (fun _ => ?_)
        · exact Frame.refl
        · refine Frame.ite (fun _ => ?_) (fun _ => ?_)
          · extract_lets -merge v2 v3
            clear_value v2 v3
            refine Frame.comp (M := [.ihx]) (t := s) (fun b hb => ?_) (by decide) ?_
            · cases b with | ihx => exact absurd (by decide) hb | _ => rfl
            · exact Frame.refl
          · refine Frame.ite (fun _ => ?_) (fun _ => ?_)
            · refine Frame.comp placeCtlWrite_frame (by decide) ?_
              exact Frame.refl
            · refine Frame.ite (fun _ => ?_) (fun _ => ?_)
              · extract_lets -merge v4
                clear_value v4
                refine Frame.comp (M := [.ihx]) (t := s) (fun b hb => ?_) (by decide) ?_
                · cases b with | ihx => exact absurd (by decide) hb | _ => rfl
                · exact Frame.refl
              · exact Frame.refl

theorem prfWrite_frame {o : Nat} {v : Word} {s : State} : Frame [.part, .proof, .mbx] s (prfWrite o v s) := by
  unfold prfWrite
  extract_lets -merge v1 v2 v3
  have h_v2 : ∀ x4 x5, Frame [.part, .proof, .mbx] s (v2 x4 x5) := by
    intro x4 x5
    unfold v2
    refine Frame.ite (fun _ => ?_) (fun _ => ?_)
    · exact Frame.refl
    · refine Frame.comp (M := [.proof]) (t := s) (fun b hb => ?_) (by decide) ?_
      · cases b with | proof => exact absurd (by decide) hb | _ => rfl
      · exact Frame.refl
  clear_value v1 v2 v3
  split
  · refine Frame.ite (fun _ => ?_) (fun _ => ?_)
    · refine Frame.comp lockPolicy_frame (by decide) ?_
      exact Frame.refl
    · exact Frame.refl
  · refine Frame.comp commitSvn_frame (by decide) ?_
    exact Frame.refl
  · refine Frame.comp (M := [.proof]) (t := s) (fun b hb => ?_) (by decide) ?_
    · cases b with | proof => exact absurd (by decide) hb | _ => rfl
    · exact Frame.refl
  · refine h_v2 _ _
  · refine h_v2 _ _
  · exact Frame.refl

theorem almWrite_frame {o : Nat} {v : Word} {s : State} : Frame [.alm, .mseqOut, .almSent] s (almWrite o v s) := by
  unfold almWrite
  extract_lets -merge v1 v2
  refine Frame.cut v2 (by
    unfold v2
    refine Frame.ite (fun _ => ?_) (fun _ => ?_)
    · refine Frame.comp almAckWrite_frame (by decide) ?_
      exact Frame.refl
    · exact Frame.refl) fun h3 => ?_
  clear_value v1 v2
  split
  · refine Frame.ite (fun _ => ?_) (fun _ => ?_)
    · refine Frame.comp almRewindWrite_frame (by decide) ?_
      assumption
    · assumption
  · refine Frame.comp (M := [.alm]) (t := s) (fun b hb => ?_) (by decide) ?_
    · cases b with | alm => exact absurd (by decide) hb | _ => rfl
    · exact Frame.refl
  · refine Frame.comp (M := [.alm]) (t := s) (fun b hb => ?_) (by decide) ?_
    · cases b with | alm => exact absurd (by decide) hb | _ => rfl
    · exact Frame.refl
  · refine Frame.comp (M := [.alm]) (t := s) (fun b hb => ?_) (by decide) ?_
    · cases b with | alm => exact absurd (by decide) hb | _ => rfl
    · exact Frame.refl
  · refine Frame.comp (M := [.alm]) (t := s) (fun b hb => ?_) (by decide) ?_
    · cases b with | alm => exact absurd (by decide) hb | _ => rfl
    · exact Frame.refl
  · refine Frame.comp (M := [.alm]) (t := s) (fun b hb => ?_) (by decide) ?_
    · cases b with | alm => exact absurd (by decide) hb | _ => rfl
    · exact Frame.refl
  · refine Frame.comp (M := [.alm]) (t := s) (fun b hb => ?_) (by decide) ?_
    · cases b with | alm => exact absurd (by decide) hb | _ => rfl
    · exact Frame.refl
  · refine Frame.comp (M := [.alm]) (t := s) (fun b hb => ?_) (by decide) ?_
    · cases b with | alm => exact absurd (by decide) hb | _ => rfl
    · exact Frame.refl
  · exact Frame.refl

theorem audWrite_frame {o : Nat} {v : Word} {s : State} : Frame [.lines] s (audWrite o v s) := by
  unfold audWrite
  refine Frame.ite (fun _ => ?_) (fun _ => ?_)
  · extract_lets -merge v1 v2
    clear_value v1 v2
    split
    · refine Frame.ite (fun _ => ?_) (fun _ => ?_)
      · refine Frame.comp State.setDirAt_frame (by decide) ?_
        exact Frame.refl
      · exact Frame.refl
    · refine Frame.ite (fun _ => ?_) (fun _ => ?_)
      · refine Frame.comp State.setDirAt_frame (by decide) ?_
        exact Frame.refl
      · exact Frame.refl
    · refine Frame.ite (fun _ => ?_) (fun _ => ?_)
      · refine Frame.comp State.setDirAt_frame (by decide) ?_
        exact Frame.refl
      · exact Frame.refl
    · refine Frame.comp dirCtlWrite_frame (by decide) ?_
      exact Frame.refl
    · refine Frame.comp slotFlagClear_frame (by decide) ?_
      exact Frame.refl
    · refine Frame.comp slotFlagClear_frame (by decide) ?_
      exact Frame.refl
    · exact Frame.refl
  · refine Frame.ite (fun _ => ?_) (fun _ => ?_)
    · refine Frame.comp groupCtlWrite_frame (by decide) ?_
      exact Frame.refl
    · exact Frame.refl

theorem mbxWrite_frame {o : Nat} {v : Word} {s : State} : Frame [.mbx, .evt, .cnt, .host] s (mbxWrite o v s) := by
  unfold mbxWrite
  refine Frame.ite (fun _ => ?_) (fun _ => ?_)
  · extract_lets -merge v1
    clear_value v1
    refine Frame.ite (fun _ => ?_) (fun _ => ?_)
    · refine Frame.comp mailboxSend_frame (by decide) ?_
      exact Frame.refl
    · exact Frame.refl
  · refine Frame.ite (fun _ => ?_) (fun _ => ?_)
    · extract_lets -merge v2 v3
      clear_value v2 v3
      refine Frame.ite (fun _ => ?_) (fun _ => ?_)
      · refine Frame.comp mailboxViolation_frame (by decide) ?_
        exact Frame.refl
      · refine Frame.ite (fun _ => ?_) (fun _ => ?_)
        · exact Frame.refl
        · refine Frame.comp State.setMailbox_frame (by decide) ?_
          exact Frame.refl
    · exact Frame.refl

theorem cntWrite_frame {o : Nat} {v : Word} {s : State} : Frame [.cnt] s (cntWrite o v s) := by
  unfold cntWrite
  refine Frame.ite (fun _ => ?_) (fun _ => ?_)
  · refine Frame.comp cntCtlWrite_frame (by decide) ?_
    exact Frame.refl
  · refine Frame.ite (fun _ => ?_) (fun _ => ?_)
    · refine Frame.comp counterSelWrite_frame (by decide) ?_
      exact Frame.refl
    · refine Frame.ite (fun _ => ?_) (fun _ => ?_)
      · refine Frame.comp counterSelWrite_frame (by decide) ?_
        exact Frame.refl
      · exact Frame.refl

theorem rmkWrite_frame {o : Nat} {v : Word} {s : State} : Frame [.rmk] s (rmkWrite o v s) := by
  unfold rmkWrite
  refine Frame.ite (fun _ => ?_) (fun _ => ?_)
  · refine Frame.ite (fun _ => ?_) (fun _ => ?_)
    · exact Frame.refl
    · split
      · extract_lets -merge v1
        clear_value v1
        refine Frame.comp (M := [.rmk]) (t := s) (fun b hb => ?_) (by decide) ?_
        · cases b with | rmk => exact absurd (by decide) hb | _ => rfl
        · exact Frame.refl
      · extract_lets -merge v2
        clear_value v2
        refine Frame.comp (M := [.rmk]) (t := s) (fun b hb => ?_) (by decide) ?_
        · cases b with | rmk => exact absurd (by decide) hb | _ => rfl
        · exact Frame.refl
      · extract_lets -merge v3
        clear_value v3
        refine Frame.comp (M := [.rmk]) (t := s) (fun b hb => ?_) (by decide) ?_
        · cases b with | rmk => exact absurd (by decide) hb | _ => rfl
        · exact Frame.refl
      · exact Frame.refl
  · refine Frame.ite (fun _ => ?_) (fun _ => ?_)
    · extract_lets -merge v4 v5 v6
      have h_v6 : ∀ x7, Frame [.rmk] s (v6 x7) := by
        intro x7
        unfold v6
        refine Frame.ite (fun _ => ?_) (fun _ => ?_)
        · exact Frame.refl
        · refine Frame.comp State.setRing_frame (by decide) ?_
          exact Frame.refl
      clear_value v4 v5 v6
      split
      · refine h_v6 _
      · refine h_v6 _
      · refine h_v6 _
      · refine h_v6 _
      · refine Frame.comp ringCfgWrite_frame (by decide) ?_
        exact Frame.refl
      · refine h_v6 _
      · exact Frame.refl
    · exact Frame.refl

theorem stageWrite_frame {offset : Nat} {v : Word} {s : State} : Frame [.stage] s (stageWrite offset v s) := by
  unfold stageWrite
  refine Frame.ite (fun _ => ?_) (fun _ => ?_)
  · extract_lets -merge v1
    clear_value v1
    refine Frame.comp (M := [.stage]) (t := s) (fun b hb => ?_) (by decide) ?_
    · cases b with | stage => exact absurd (by decide) hb | _ => rfl
    · exact Frame.refl
  · exact Frame.refl

theorem regWrite_frame {a : Nat} {v : Word} {s : State} : Frame resetBlocks s (regWrite a v s) := by
  unfold regWrite
  refine Frame.ite (fun _ => ?_) (fun _ => ?_)
  · exact Frame.refl
  · refine Frame.ite (fun _ => ?_) (fun _ => ?_)
    · refine Frame.comp eslWrite_frame (by decide) ?_
      exact Frame.refl
    · refine Frame.ite (fun _ => ?_) (fun _ => ?_)
      · refine Frame.ite (fun _ => ?_) (fun _ => ?_)
        · refine Frame.comp pwrCapWrite_frame (by decide) ?_
          exact Frame.refl
        · exact Frame.refl
      · refine Frame.ite (fun _ => ?_) (fun _ => ?_)
        · refine Frame.comp memRegWrite_frame (by decide) ?_
          exact Frame.refl
        · refine Frame.ite (fun _ => ?_) (fun _ => ?_)
          · refine Frame.comp clkWrite_frame (by decide) ?_
            exact Frame.refl
          · refine Frame.ite (fun _ => ?_) (fun _ => ?_)
            · refine Frame.comp ihxWrite_frame (by decide) ?_
              exact Frame.refl
            · refine Frame.ite (fun _ => ?_) (fun _ => ?_)
              · refine Frame.comp prfWrite_frame (by decide) ?_
                exact Frame.refl
              · refine Frame.ite (fun _ => ?_) (fun _ => ?_)
                · refine Frame.comp almWrite_frame (by decide) ?_
                  exact Frame.refl
                · refine Frame.ite (fun _ => ?_) (fun _ => ?_)
                  · exact Frame.refl
                  · refine Frame.ite (fun _ => ?_) (fun _ => ?_)
                    · refine Frame.comp audWrite_frame (by decide) ?_
                      exact Frame.refl
                    · refine Frame.ite (fun _ => ?_) (fun _ => ?_)
                      · refine Frame.comp mbxWrite_frame (by decide) ?_
                        exact Frame.refl
                      · refine Frame.ite (fun _ => ?_) (fun _ => ?_)
                        · refine Frame.comp cntWrite_frame (by decide) ?_
                          exact Frame.refl
                        · refine Frame.ite (fun _ => ?_) (fun _ => ?_)
                          · exact Frame.refl
                          · refine Frame.ite (fun _ => ?_) (fun _ => ?_)
                            · refine Frame.comp rmkWrite_frame (by decide) ?_
                              exact Frame.refl
                            · refine Frame.ite (fun _ => ?_) (fun _ => ?_)
                              · exact Frame.refl
                              · refine Frame.ite (fun _ => ?_) (fun _ => ?_)
                                · refine Frame.comp stageWrite_frame (by decide) ?_
                                  exact Frame.refl
                                · exact Frame.refl

theorem wordWrite_frame {port a : Nat} {v : Word} {s : State} : Frame resetBlocks s (wordWrite port a v s) := by
  unfold wordWrite
  refine Frame.ite (fun _ => ?_) (fun _ => ?_)
  · refine Frame.comp regWrite_frame (by decide) ?_
    exact Frame.refl
  · exact Frame.refl

theorem dropWrite_frame {port a : Nat} {s : State} : Frame [.rmk] s (dropWrite port a s) := by
  unfold dropWrite
  refine Frame.ite (fun _ => ?_) (fun _ => ?_)
  · extract_lets -merge v1
    clear_value v1
    refine Frame.comp (M := [.rmk]) (t := s) (fun b hb => ?_) (by decide) ?_
    · cases b with | rmk => exact absurd (by decide) hb | _ => rfl
    · exact Frame.refl
  · exact Frame.refl

theorem execMaintenanceWrite_frame {port addr width : Nat} {value : DWord} {s : State} {t : State} (h : execMaintenanceWrite port addr width value s = .next t) : Frame resetBlocks s t := by
  unfold execMaintenanceWrite at h
  have h := Host.Outcome.next.inj h
  subst h
  refine Frame.ite (fun _ => ?_) (fun _ => ?_)
  · refine Frame.comp wordWrite_frame (by decide) ?_
    exact Frame.refl
  · refine Frame.ite (fun _ => ?_) (fun _ => ?_)
    · refine Frame.comp wordWrite_frame (by decide) ?_
      refine Frame.comp wordWrite_frame (by decide) ?_
      exact Frame.refl
    · refine Frame.comp dropWrite_frame (by decide) ?_
      exact Frame.refl

theorem State.readLatch_frame {s : State} {a : Nat} : Frame [.lines, .alm] s (State.readLatch s a) := by
  unfold State.readLatch
  refine Frame.ite (fun _ => ?_) (fun _ => ?_)
  · refine Frame.comp latchAudit_frame (by decide) ?_
    exact Frame.refl
  · refine Frame.ite (fun _ => ?_) (fun _ => ?_)
    · refine Frame.comp latchTime_frame (by decide) ?_
      exact Frame.refl
    · refine Frame.ite (fun _ => ?_) (fun _ => ?_)
      · refine Frame.comp latchGroup_frame (by decide) ?_
        exact Frame.refl
      · exact Frame.refl

end Sys2Proof.Machine
end

