-- ==== Sys2Proof/Laws/Memory.lean ====
section
/-! SUPPORT. Byte memories: every operation keeps the canonical form, and a byte reads as it was last written. -/

namespace Sys2Proof.Machine

open Sys2Proof

/-- Every listed address is above `a`. -/
def Memory.above (a : Nat) (m : List Host.Cell) : Prop := ∀ c ∈ m, a < c.1

theorem Memory.wf_cons {c : Host.Cell} {m : List Host.Cell} :
    Memory.wf (c :: m) = true ↔ c.2 ≠ 0 ∧ Memory.above c.1 m ∧ Memory.wf m = true := by
  induction m generalizing c with
  | nil => simp [Memory.wf, Memory.above]
  | cons d m ih =>
    have hd := ih (c := d)
    simp only [Memory.wf, Bool.and_eq_true, bne_iff_ne, decide_eq_true_eq]
    constructor
    · rintro ⟨⟨h0, hlt⟩, hm⟩
      refine ⟨h0, ?_, hm⟩
      intro e he
      rcases List.mem_cons.mp he with rfl | he
      · exact hlt
      · exact Nat.lt_trans hlt ((hd.mp hm).2.1 e he)
    · rintro ⟨h0, hab, hm⟩
      exact ⟨⟨h0, hab d (List.mem_cons_self ..)⟩, hm⟩

theorem Memory.wf_filter {m : List Host.Cell} (p : Host.Cell → Bool) (h : Memory.wf m = true) : Memory.wf (m.filter p) = true := by
  induction m with
  | nil => rfl
  | cons c m ih =>
    obtain ⟨h0, hab, hm⟩ := Memory.wf_cons.mp h
    rw [List.filter_cons]
    split
    · exact Memory.wf_cons.mpr ⟨h0, fun d hd => hab d (List.mem_of_mem_filter hd), ih hm⟩
    · exact ih hm

/-- Erasing an address keeps the canonical form. -/
theorem Memory.wf_erase {m : List Host.Cell} (a : Nat) (h : Memory.wf m = true) : Memory.wf (tabErase m a) = true :=
  Memory.wf_filter _ h

theorem mem_tabSet {m : List Host.Cell} {a : Nat} {b : Byte} {c : Host.Cell} (h : c ∈ tabSet m a b) : c = (a, b) ∨ c ∈ m := by
  induction m with
  | nil => simpa [tabSet] using h
  | cons d m ih =>
    unfold tabSet at h
    split at h
    · simpa using h
    · split at h
      · rcases List.mem_cons.mp h with h | h
        · exact .inl h
        · exact .inr (List.mem_cons_of_mem _ h)
      · rcases List.mem_cons.mp h with h | h
        · exact .inr (h ▸ List.mem_cons_self ..)
        · exact (ih h).imp_right (List.mem_cons_of_mem _)

/-- Setting a byte that is not zero keeps the canonical form. -/
theorem Memory.wf_set {m : List Host.Cell} {a : Nat} {b : Byte} (hb : b ≠ 0) (h : Memory.wf m = true) :
    Memory.wf (tabSet m a b) = true := by
  induction m with
  | nil =>
    refine Memory.wf_cons.mpr ⟨hb, ?_, rfl⟩
    intro c hc
    cases hc
  | cons d m ih =>
    obtain ⟨h0, hab, hm⟩ := Memory.wf_cons.mp h
    unfold tabSet
    split
    · refine Memory.wf_cons.mpr ⟨hb, fun c hc => ?_, h⟩
      rcases List.mem_cons.mp hc with rfl | hc
      · assumption
      · exact Nat.lt_trans (by assumption) (hab c hc)
    · split
      · next heq =>
        refine Memory.wf_cons.mpr ⟨hb, fun c hc => ?_, hm⟩
        show a < c.1
        rw [heq]
        exact hab c hc
      · refine Memory.wf_cons.mpr ⟨h0, fun c hc => ?_, ih hm⟩
        show d.1 < c.1
        rcases mem_tabSet hc with rfl | hc
        · show d.1 < a
          omega
        · exact hab c hc

/-- Writing a byte keeps the canonical form. -/
theorem memWrite_wf {m : List Host.Cell} {a : Nat} {b : Byte} (h : Memory.wf m = true) : Memory.wf (memWrite m a b) = true := by
  unfold memWrite
  split
  · exact Memory.wf_erase a h
  · exact Memory.wf_set (by assumption) h

/-- Writing a run of bytes keeps the canonical form. -/
theorem memStore_wf {m : List Host.Cell} {a : Nat} {l : List Byte} (h : Memory.wf m = true) : Memory.wf (memStore m a l) = true := by
  induction l generalizing m a with
  | nil => exact h
  | cons b l ih => exact ih (memWrite_wf h)

/-- Zeroing a run of bytes keeps the canonical form. -/
theorem memZero_wf {m : List Host.Cell} {a n : Nat} (h : Memory.wf m = true) : Memory.wf (memZero m a n) = true :=
  Memory.wf_filter _ h

/-- Zeroing several runs of bytes keeps the canonical form. -/
theorem memZeros_wf {m : List Host.Cell} {at_ : Nat → Nat} {n : Nat} {l : List Nat} (h : Memory.wf m = true) :
    Memory.wf (l.foldl (fun m k => memZero m (at_ k) n) m) = true := by
  induction l generalizing m with
  | nil => exact h
  | cons k l ih => exact ih (memZero_wf h)

/-! ### Reading -/

theorem tabGet_tabSet_same {α : Type} (t : Tab α) (k : Nat) (v : α) : tabGet (tabSet t k v) k = some v := by
  induction t with
  | nil => simp [tabSet, tabGet]
  | cons p t ih =>
    unfold tabSet
    split
    · simp [tabGet]
    · split
      · simp [tabGet]
      · next hne => simp [tabGet, hne, ih]

theorem tabGet_tabSet_other {α : Type} (t : Tab α) {k j : Nat} (v : α) (h : j ≠ k) : tabGet (tabSet t k v) j = tabGet t j := by
  induction t with
  | nil => simp [tabSet, tabGet, h]
  | cons p t ih =>
    unfold tabSet
    split
    · simp [tabGet, h]
    · split
      · next he =>
        subst he
        simp [tabGet, h]
      · simp [tabGet, ih]

theorem tabGet_filter_out {α : Type} (t : Tab α) {p : Nat × α → Bool} {k : Nat} (h : ∀ v, p (k, v) = false) :
    tabGet (t.filter p) k = none := by
  induction t with
  | nil => rfl
  | cons c t ih =>
    rw [List.filter_cons]
    split
    · next hc =>
      have hk : k ≠ c.1 := fun e => by
        have := h c.2
        rw [e] at this
        exact absurd hc (by simp [this])
      simp [tabGet, hk, ih]
    · exact ih

theorem tabGet_filter_in {α : Type} (t : Tab α) {p : Nat × α → Bool} {k : Nat} (h : ∀ v, p (k, v) = true) :
    tabGet (t.filter p) k = tabGet t k := by
  induction t with
  | nil => rfl
  | cons c t ih =>
    rw [List.filter_cons]
    by_cases hk : k = c.1
    · have : p c = true := by
        have := h c.2
        rwa [hk] at this
      rw [if_pos this]
      simp [tabGet, hk]
    · split
      · simp [tabGet, hk, ih]
      · simp [tabGet, hk, ih]

theorem tabGet_tabErase_same {α : Type} (t : Tab α) (k : Nat) : tabGet (tabErase t k) k = none :=
  tabGet_filter_out t fun v => by simp

theorem tabGet_tabErase_other {α : Type} (t : Tab α) {k j : Nat} (h : j ≠ k) : tabGet (tabErase t k) j = tabGet t j :=
  tabGet_filter_in t fun v => by simp [h]

/-- A byte reads as it was last written. -/
@[simp] theorem memRead_memWrite_same (m : List Host.Cell) (a : Nat) (b : Byte) : memRead (memWrite m a b) a = b := by
  unfold memRead memWrite
  split
  · next h => simp [tabGet_tabErase_same, h]
  · simp [tabGet_tabSet_same]

/-- A write leaves every other byte alone. -/
theorem memRead_memWrite_other (m : List Host.Cell) {a c : Nat} (b : Byte) (h : c ≠ a) :
    memRead (memWrite m a b) c = memRead m c := by
  unfold memRead memWrite
  split
  · rw [tabGet_tabErase_other m h]
  · rw [tabGet_tabSet_other m b h]

/-- A run of writes leaves every byte outside it alone. -/
theorem memRead_memStore_out (m : List Host.Cell) {a c : Nat} (l : List Byte) (h : c < a ∨ a + l.length ≤ c) :
    memRead (memStore m a l) c = memRead m c := by
  induction l generalizing m a with
  | nil => rfl
  | cons b l ih =>
    have hc : c ≠ a := by
      simp only [List.length_cons] at h
      omega
    have h' : c < a + 1 ∨ a + 1 + l.length ≤ c := by
      simp only [List.length_cons] at h
      omega
    show memRead (memStore (memWrite m a b) (a + 1) l) c = memRead m c
    rw [ih (memWrite m a b) h', memRead_memWrite_other m b hc]

/-- A run of writes reads back byte by byte. -/
theorem memRead_memStore_in (m : List Host.Cell) (a : Nat) (l : List Byte) {i : Nat} (h : i < l.length) :
    memRead (memStore m a l) (a + i) = l[i] := by
  induction l generalizing m a i with
  | nil => exact absurd h (Nat.not_lt_zero i)
  | cons b l ih =>
    show memRead (memStore (memWrite m a b) (a + 1) l) (a + i) = (b :: l)[i]
    cases i with
    | zero =>
      rw [memRead_memStore_out _ _ (by omega)]
      exact memRead_memWrite_same m a b
    | succ i =>
      have hi : i < l.length := by
        simp only [List.length_cons] at h
        omega
      have he : a + (i + 1) = a + 1 + i := by omega
      rw [he]
      exact ih (memWrite m a b) (a + 1) hi

/-- Zeroing a run makes its bytes read zero. -/
theorem memRead_memZero_in (m : List Host.Cell) {a n c : Nat} (h : a ≤ c ∧ c < a + n) : memRead (memZero m a n) c = 0 := by
  unfold memRead memZero
  rw [tabGet_filter_out m fun v => by simp; omega]
  rfl

/-- Zeroing a run leaves every other byte alone. -/
theorem memRead_memZero_out (m : List Host.Cell) {a n c : Nat} (h : c < a ∨ a + n ≤ c) :
    memRead (memZero m a n) c = memRead m c := by
  unfold memRead memZero
  rw [tabGet_filter_in m fun v => by simp; omega]

end Sys2Proof.Machine
end

