-- ==== Sys2Proof/Laws/Inv.lean ====
section
/-! SUPPORT. How the invariant of Safety.lean composes. -/

namespace Sys2Proof.Machine

open Sys2Proof

/-- A change outside the blocks the invariant speaks of keeps it. -/
theorem State.Inv.of_frame {L : List Block} {s t : State} (h : Frame L s t) (hL : ∀ b ∈ invBlocks, b ∉ L) (hs : s.Inv) :
    t.Inv := by
  have hb (b : Block) (hi : b ∈ invBlocks) : s.same t b := h b (hL b hi)
  have hpart : t.part = s.part := hb .part (by decide)
  have hstage : t.stage = s.stage := hb .stage (by decide)
  have htb : t.tb = s.tb := hb .tb (by decide)
  have hpwr : t.pwr = s.pwr := hb .pwr (by decide)
  have hmem : t.mem = s.mem := hb .mem (by decide)
  have hdram : t.dram = s.dram := hb .dram (by decide)
  have hhatch : t.hatch = s.hatch := hb .hatch (by decide)
  have hproof : t.proof = s.proof := hb .proof (by decide)
  have hevt : t.evt = s.evt := hb .evt (by decide)
  have hacct : t.acct = s.acct := hb .acct (by decide)
  have hpending : t.pending = s.pending := hb .pending (by decide)
  constructor
  case dram => exact hdram ▸ hs.dram
  case plate => exact hhatch ▸ hs.plate
  case acc => exact hhatch ▸ hs.acc
  case stage => exact hstage ▸ hs.stage
  case season => exact htb ▸ hs.season
  case osc => exact htb ▸ hs.osc
  case pendingCfg => exact htb ▸ hs.pendingCfg
  case ticks =>
    have := hs.ticks
    unfold State.frameTicks at this ⊢
    rw [htb]
    exact this
  case capSteps => exact hpwr ▸ hs.capSteps
  case capNow => exact hpwr ▸ hs.capNow
  case scrub => exact hmem ▸ hs.scrub
  case rollback => exact hpart ▸ hs.rollback
  case policyRegs => exact hproof ▸ hs.policyRegs
  case policy => exact hproof ▸ hs.policy
  case order => exact hevt ▸ hs.order
  case logRate => exact hevt ▸ hs.logRate
  case interval => exact hacct ▸ hs.interval
  case queue => exact hpending ▸ hs.queue

/-- The invariant holds right after reset. -/
theorem State.reset_inv : State.reset.Inv := by
  constructor
  case pendingCfg => intro p h; cases h
  case policy => intro h; cases h
  case interval => exact ⟨by decide, fun n h => by cases h⟩
  case queue => intro c h; cases h
  all_goals decide

theorem State.Inv.cut {u : State} (t : State) (h : t.Inv) (k : t.Inv → u.Inv) : u.Inv := k h

theorem State.Inv.ite {a b : State} {c : Prop} [Decidable c] (ha : c → a.Inv) (hb : ¬c → b.Inv) :
    State.Inv (if c then a else b) := by
  split
  · exact ha ‹_›
  · exact hb ‹_›

theorem State.Inv.foldl {α : Type} {g : State → α → State} {l : List α} {i : State} (h : i.Inv)
    (hg : ∀ t a, t.Inv → (g t a).Inv) : State.Inv (l.foldl g i) := by
  induction l generalizing i with
  | nil => exact h
  | cons a l ih => exact ih (hg i a h)

theorem State.Inv.getD {a : State} {o : Option State} (ho : ∀ t, o = some t → t.Inv) (h : a.Inv) : (o.getD a).Inv := by
  cases o with
  | none => exact h
  | some t => exact ho t rfl

theorem State.Inv.fst {t : State} {α : Type} {a : α} (h : t.Inv) : State.Inv (t, a).1 := h

theorem State.Inv.of_fst {t : State} {α : Type} {p : State × α} {a : α} (h : p = (t, a)) (k : p.1.Inv) : t.Inv := by
  subst h
  exact k

theorem State.Inv.of_some {t u : State} (h : some t = some u) (k : t.Inv) : u.Inv := Option.some.inj h ▸ k

/-- A slot of the accumulator file taken for a job leaves both memories of the cores as they were. -/
theorem Hatch.takeSlot_mem (h : Hatch) (core job k : Nat) :
    (h.takeSlot core job k).plate = h.plate ∧ (h.takeSlot core job k).acc = h.acc := by
  unfold Hatch.takeSlot
  extract_lets x
  split
  · exact ⟨rfl, rfl⟩
  · split <;> exact ⟨rfl, rfl⟩

/-- A write of the accumulator file keeps both memories of the cores canonical. -/
theorem accStore_wf {core job off : Nat} {h : Hatch} {b : List Byte} (hp : Memory.wf h.plate = true) (ha : Memory.wf h.acc = true) :
    Memory.wf (h.accStore core job off b).plate = true ∧ Memory.wf (h.accStore core job off b).acc = true := by
  induction b generalizing h off with
  | nil => exact ⟨hp, ha⟩
  | cons b bs ih =>
    unfold Hatch.accStore
    extract_lets h1 h2
    obtain ⟨p1, a1⟩ := Hatch.takeSlot_mem h core job (off / 1024)
    refine ih ?_ ?_ <;> unfold h2 <;> split
    · exact p1 ▸ hp
    · exact p1 ▸ hp
    · exact memWrite_wf (a1 ▸ ha)
    · exact a1 ▸ ha

/-- A store of a stroke keeps both memories of the cores canonical. -/
theorem storeAt_wf {core job : Nat} {h : Hatch} {w : Loc × List Byte} (hp : Memory.wf h.plate = true) (ha : Memory.wf h.acc = true) :
    Memory.wf (storeAt core job h w).plate = true ∧ Memory.wf (storeAt core job h w).acc = true := by
  unfold storeAt
  split
  · exact ⟨memStore_wf hp, ha⟩
  · exact accStore_wf hp ha

/-- Moving a run of bytes keeps the canonical form. -/
theorem moveCells_wf {m : List Host.Cell} {a b n : Nat} (h : Memory.wf m = true) : Memory.wf (moveCells m a b n) = true := by
  have hw (l : List Host.Cell) (m : List Host.Cell) (hm : Memory.wf m = true) :
      Memory.wf (l.foldl (fun m c => memWrite m c.1 c.2) m) = true := by
    induction l generalizing m with
    | nil => exact hm
    | cons c l ih => exact ih _ (memWrite_wf hm)
  exact memZero_wf (hw _ _ (memZero_wf h))

end Sys2Proof.Machine
end

