-- ==== Sys2Proof/Laws/InvCore.lean ====
section
/-! SUPPORT. The invariant: each operation keeps the invariant, for the shared operations, events, Almanac, Proof and bring-up. -/

namespace Sys2Proof.Machine

open Sys2Proof

theorem State.evtWrite_inv {s : State} {r : EvtRecord} (hs : s.Inv) : State.Inv (State.evtWrite s r) := by
  unfold State.evtWrite
  extract_lets -merge v1 v2 v3 v4
  refine State.Inv.cut v3 (by
    unfold v3
    refine State.Inv.of_frame State.hostWrite_frame (by decide) ?_
    assumption) fun h5 => ?_
  refine State.Inv.cut v4 (by
    unfold v4
    refine ⟨h5.dram, h5.plate, h5.acc, h5.stage, h5.season, h5.osc, h5.pendingCfg, h5.ticks, h5.capSteps, h5.capNow, h5.scrub, h5.rollback, h5.policyRegs, h5.policy, h5.order, h5.logRate, h5.interval, h5.queue⟩) fun h6 => ?_
  clear_value v2 v3 v4
  refine State.Inv.ite (fun _ => ?_) (fun _ => ?_)
  · refine State.Inv.of_frame State.sendMsix_frame (by decide) ?_
    assumption
  · assumption

theorem State.alarmRecord_inv {s : State} {r : EvtRecord} (hs : s.Inv) : State.Inv (State.alarmRecord s r) := by
  unfold State.alarmRecord
  refine State.Inv.ite (fun _ => ?_) (fun _ => ?_)
  · refine State.Inv.of_frame State.bump_frame (by decide) ?_
    refine State.evtWrite_inv ?_
    assumption
  · extract_lets -merge v1
    refine ⟨hs.dram, hs.plate, hs.acc, hs.stage, hs.season, hs.osc, hs.pendingCfg, hs.ticks, hs.capSteps, hs.capNow, hs.scrub, hs.rollback, hs.policyRegs, hs.policy, hs.order, hs.logRate, hs.interval, hs.queue⟩

theorem State.evtDrain_inv {s : State} (hs : s.Inv) : State.Inv (State.evtDrain s) := by
  unfold State.evtDrain
  refine State.Inv.foldl ?_ (fun t1 a2 h3 => ?_)
  · assumption
  · refine State.Inv.ite (fun _ => ?_) (fun _ => ?_)
    · extract_lets -merge v4
      refine State.Inv.of_frame State.bump_frame (by decide) ?_
      refine State.evtWrite_inv ?_
      refine ⟨h3.dram, h3.plate, h3.acc, h3.stage, h3.season, h3.osc, h3.pendingCfg, h3.ticks, h3.capSteps, h3.capNow, h3.scrub, h3.rollback, h3.policyRegs, h3.policy, h3.order, h3.logRate, h3.interval, h3.queue⟩
    · assumption

theorem State.raiseAlarm_inv {s : State} {code source detail : Nat} (hs : s.Inv) : State.Inv (State.raiseAlarm s code source detail) := by
  unfold State.raiseAlarm
  extract_lets -merge v1 v2 v3 v4 v5 v6
  refine State.Inv.cut v6 (by
    unfold v6
    refine ⟨hs.dram, hs.plate, hs.acc, hs.stage, hs.season, hs.osc, hs.pendingCfg, hs.ticks, hs.capSteps, hs.capNow, hs.scrub, hs.rollback, hs.policyRegs, hs.policy, hs.order, hs.logRate, hs.interval, hs.queue⟩) fun h7 => ?_
  clear_value v1 v6
  refine State.Inv.ite (fun _ => ?_) (fun _ => ?_)
  · refine ⟨hs.dram, hs.plate, hs.acc, hs.stage, hs.season, hs.osc, hs.pendingCfg, hs.ticks, hs.capSteps, hs.capNow, hs.scrub, hs.rollback, hs.policyRegs, hs.policy, hs.order, hs.logRate, hs.interval, hs.queue⟩
  · refine State.alarmRecord_inv ?_
    assumption

theorem State.setLog_inv {s : State} {l : LogSource} (hs : s.Inv) : State.Inv (State.setLog s l) := by
  unfold State.setLog
  extract_lets -merge v1
  refine ⟨hs.dram, hs.plate, hs.acc, hs.stage, hs.season, hs.osc, hs.pendingCfg, hs.ticks, hs.capSteps, hs.capNow, hs.scrub, hs.rollback, hs.policyRegs, hs.policy, hs.order, hs.logRate, hs.interval, hs.queue⟩

theorem State.writeLog_inv {s : State} {code source detail : Nat} (hs : s.Inv) : State.Inv (State.writeLog s code source detail) := by
  unfold State.writeLog
  extract_lets -merge v1 v2
  refine State.Inv.ite (fun _ => ?_) (fun _ => ?_)
  · assumption
  · refine State.Inv.ite (fun _ => ?_) (fun _ => ?_)
    · refine State.evtWrite_inv ?_
      refine State.setLog_inv ?_
      assumption
    · refine State.Inv.of_frame State.bump_frame (by decide) ?_
      refine State.setLog_inv ?_
      assumption

theorem State.writeLogSummary_inv {s : State} {source : Nat} (hs : s.Inv) : State.Inv (State.writeLogSummary s source) := by
  unfold State.writeLogSummary
  extract_lets -merge v1
  refine State.Inv.ite (fun _ => ?_) (fun _ => ?_)
  · refine State.evtWrite_inv ?_
    refine State.setLog_inv ?_
    assumption
  · assumption

theorem State.writeTrace_inv {s : State} {code source detail : Nat} (hs : s.Inv) : State.Inv (State.writeTrace s code source detail) := by
  unfold State.writeTrace
  extract_lets -merge v1 v2
  refine State.Inv.ite (fun _ => ?_) (fun _ => ?_)
  · refine State.evtWrite_inv ?_
    refine State.setLog_inv ?_
    assumption
  · refine State.Inv.of_frame State.bump_frame (by decide) ?_
    refine State.setLog_inv ?_
    assumption

theorem State.setCore_inv {s : State} {c : Nat} {x : Core} (hs : s.Inv) : State.Inv (State.setCore s c x) := by
  unfold State.setCore
  extract_lets -merge v1
  refine ⟨hs.dram, hs.plate, hs.acc, hs.stage, hs.season, hs.osc, hs.pendingCfg, hs.ticks, hs.capSteps, hs.capNow, hs.scrub, hs.rollback, hs.policyRegs, hs.policy, hs.order, hs.logRate, hs.interval, hs.queue⟩

theorem State.setField_inv {s : State} {f : Nat} {x : Field} (hs : s.Inv) : State.Inv (State.setField s f x) := by
  unfold State.setField
  extract_lets -merge v1
  refine ⟨hs.dram, hs.plate, hs.acc, hs.stage, hs.season, hs.osc, hs.pendingCfg, hs.ticks, hs.capSteps, hs.capNow, hs.scrub, hs.rollback, hs.policyRegs, hs.policy, hs.order, hs.logRate, hs.interval, hs.queue⟩

theorem lockPolicy_inv {s : State} (hs : s.Inv) : State.Inv (lockPolicy s) := by
  unfold lockPolicy
  refine State.Inv.ite (fun _ => hs) (fun _ => ?_)
  extract_lets policy debug table rebind
  have hlen : policy.length = 16 := by
    show (s.proof.policy.drop 1).length + 1 = 16
    rw [List.length_drop, hs.policyRegs]
  exact ⟨hs.dram, hs.plate, hs.acc, hs.stage, hs.season, hs.osc, hs.pendingCfg, hs.ticks, hs.capSteps, hs.capNow, hs.scrub, hs.rollback, hlen, fun _ => rfl, hs.order, hs.logRate, hs.interval, hs.queue⟩

theorem execPolicyLock_inv {port : Nat} {value : Word} {s : State} {t : State} (h : execPolicyLock port value s = .next t) (hs : s.Inv) : t.Inv := by
  unfold execPolicyLock at h
  have h := Host.Outcome.next.inj h
  subst h
  refine State.Inv.ite (fun _ => ?_) (fun _ => ?_)
  · refine lockPolicy_inv ?_
    assumption
  · assumption

theorem commitSvn_inv {v : Word} {s : State} (hs : s.Inv) : State.Inv (commitSvn v s) := by
  unfold commitSvn
  extract_lets n
  refine State.Inv.ite (fun _ => ?_) (fun _ => hs)
  have hn : fld v 5 0 ≤ 63 := by
    unfold fld
    omega
  exact ⟨hs.dram, hs.plate, hs.acc, hs.stage, hs.season, hs.osc, hs.pendingCfg, hs.ticks, hs.capSteps, hs.capNow, hs.scrub, hn, hs.policyRegs, hs.policy, hs.order, hs.logRate, hs.interval, hs.queue⟩

theorem execCommitSvn_inv {port : Nat} {value : Word} {s : State} {t : State} (h : execCommitSvn port value s = .next t) (hs : s.Inv) : t.Inv := by
  unfold execCommitSvn at h
  have h := Host.Outcome.next.inj h
  subst h
  refine State.Inv.ite (fun _ => ?_) (fun _ => ?_)
  · refine commitSvn_inv ?_
    assumption
  · assumption

theorem execPrfFwDigestSelWrite_inv {port : Nat} {value : Word} {s : State} {t : State} (h : execPrfFwDigestSelWrite port value s = .next t) (hs : s.Inv) : t.Inv := by
  unfold execPrfFwDigestSelWrite at h
  have h := Host.Outcome.next.inj h
  subst h
  refine State.Inv.ite (fun _ => ?_) (fun _ => ?_)
  · extract_lets -merge v1
    refine ⟨hs.dram, hs.plate, hs.acc, hs.stage, hs.season, hs.osc, hs.pendingCfg, hs.ticks, hs.capSteps, hs.capNow, hs.scrub, hs.rollback, hs.policyRegs, hs.policy, hs.order, hs.logRate, hs.interval, hs.queue⟩
  · assumption

theorem mailboxViolation_inv {master channel : Nat} {s : State} (hs : s.Inv) : State.Inv (mailboxViolation master channel s) := by
  unfold mailboxViolation
  extract_lets -merge v1
  refine State.raiseAlarm_inv ?_
  refine State.Inv.of_frame State.bump_frame (by decide) ?_
  refine ⟨hs.dram, hs.plate, hs.acc, hs.stage, hs.season, hs.osc, hs.pendingCfg, hs.ticks, hs.capSteps, hs.capNow, hs.scrub, hs.rollback, hs.policyRegs, hs.policy, hs.order, hs.logRate, hs.interval, hs.queue⟩

theorem mailboxSend_inv {master channel : Nat} {words : List Word} {s : State} (hs : s.Inv) : State.Inv (mailboxSend master channel words s) := by
  unfold mailboxSend
  extract_lets -merge v1
  refine State.Inv.ite (fun _ => ?_) (fun _ => ?_)
  · refine mailboxViolation_inv ?_
    assumption
  · refine State.Inv.ite (fun _ => ?_) (fun _ => ?_)
    · refine State.Inv.of_frame State.setMailbox_frame (by decide) ?_
      assumption
    · refine State.Inv.of_frame State.setMailbox_frame (by decide) ?_
      assumption

theorem execMailboxSend_inv {master channel : Nat} {words : List Word} {s : State} {t : State} (h : execMailboxSend master channel words s = .next t) (hs : s.Inv) : t.Inv := by
  unfold execMailboxSend at h
  have h := Host.Outcome.next.inj h
  subst h
  refine State.Inv.ite (fun _ => ?_) (fun _ => ?_)
  · refine mailboxSend_inv ?_
    assumption
  · assumption

theorem execMailboxLastWordRead_inv {master channel word : Nat} {s : State} {t : State} (h : execMailboxLastWordRead master channel word s = .next t) (hs : s.Inv) : t.Inv := by
  unfold execMailboxLastWordRead at h
  have h := Host.Outcome.next.inj h
  subst h
  extract_lets -merge v1
  refine State.Inv.ite (fun _ => ?_) (fun _ => ?_)
  · assumption
  · refine State.Inv.ite (fun _ => ?_) (fun _ => ?_)
    · refine State.Inv.ite (fun _ => ?_) (fun _ => ?_)
      · refine State.Inv.of_frame State.setMailbox_frame (by decide) ?_
        assumption
      · assumption
    · refine State.Inv.ite (fun _ => ?_) (fun _ => ?_)
      · assumption
      · refine mailboxViolation_inv ?_
        assumption

theorem execFwStageWrite_inv {port offset : Nat} {value : Word} {s : State} {t : State} (h : execFwStageWrite port offset value s = .next t) (hs : s.Inv) : t.Inv := by
  unfold execFwStageWrite at h
  have h := Host.Outcome.next.inj h
  subst h
  refine State.Inv.ite (fun _ => ?_) (fun _ => ?_)
  · extract_lets -merge v1
    refine ⟨hs.dram, hs.plate, hs.acc, ?_, hs.season, hs.osc, hs.pendingCfg, hs.ticks, hs.capSteps, hs.capNow, hs.scrub, hs.rollback, hs.policyRegs, hs.policy, hs.order, hs.logRate, hs.interval, hs.queue⟩
    exact memStore_wf hs.stage
  · assumption

theorem stageCommit_inv {s : State} (hs : s.Inv) : State.Inv (stageCommit s) := by
  unfold stageCommit
  extract_lets -merge v1 v2 v3 v4 v5 v6
  clear_value v1 v3 v4
  refine State.Inv.ite (fun _ => ?_) (fun _ => ?_)
  · refine ⟨hs.dram, hs.plate, hs.acc, hs.stage, hs.season, hs.osc, hs.pendingCfg, hs.ticks, hs.capSteps, hs.capNow, hs.scrub, hs.rollback, hs.policyRegs, hs.policy, hs.order, hs.logRate, hs.interval, hs.queue⟩
  · refine State.Inv.ite (fun _ => ?_) (fun _ => ?_)
    · refine ⟨hs.dram, hs.plate, hs.acc, hs.stage, hs.season, hs.osc, hs.pendingCfg, hs.ticks, hs.capSteps, hs.capNow, hs.scrub, hs.rollback, hs.policyRegs, hs.policy, hs.order, hs.logRate, hs.interval, hs.queue⟩
    · refine ⟨hs.dram, hs.plate, hs.acc, hs.stage, hs.season, hs.osc, hs.pendingCfg, hs.ticks, hs.capSteps, hs.capNow, hs.scrub, hs.rollback, hs.policyRegs, hs.policy, hs.order, hs.logRate, hs.interval, hs.queue⟩

theorem stageClear_inv {s : State} (hs : s.Inv) : State.Inv (stageClear s) := by
  unfold stageClear
  extract_lets -merge v1
  refine ⟨hs.dram, hs.plate, hs.acc, ?_, hs.season, hs.osc, hs.pendingCfg, hs.ticks, hs.capSteps, hs.capNow, hs.scrub, hs.rollback, hs.policyRegs, hs.policy, hs.order, hs.logRate, hs.interval, hs.queue⟩
  rfl

theorem execFwStageCommit_inv {port : Nat} {value : Word} {s : State} {t : State} (h : execFwStageCommit port value s = .next t) (hs : s.Inv) : t.Inv := by
  unfold execFwStageCommit at h
  have h := Host.Outcome.next.inj h
  subst h
  refine State.Inv.ite (fun _ => ?_) (fun _ => ?_)
  · refine stageCommit_inv ?_
    refine State.Inv.ite (fun _ => ?_) (fun _ => ?_)
    · refine stageClear_inv ?_
      assumption
    · assumption
  · assumption

theorem execFwStageClear_inv {port : Nat} {value : Word} {s : State} {t : State} (h : execFwStageClear port value s = .next t) (hs : s.Inv) : t.Inv := by
  unfold execFwStageClear at h
  have h := Host.Outcome.next.inj h
  subst h
  refine State.Inv.ite (fun _ => ?_) (fun _ => ?_)
  · refine State.Inv.ite (fun _ => ?_) (fun _ => ?_)
    · refine stageCommit_inv ?_
      refine stageClear_inv ?_
      assumption
    · refine stageClear_inv ?_
      assumption
  · assumption

theorem powerOnReset_inv {cause volts : Nat} {s : State} (hs : s.Inv) : State.Inv (powerOnReset cause volts s) := by
  have hstage : Memory.wf (if (s.stage.state == 3) = true then [] else s.stage.mem) = true := by
    split
    · rfl
    · exact hs.stage
  have hz : State.reset.Inv := State.reset_inv
  exact ⟨hz.dram, hz.plate, hz.acc, hstage, hz.season, hz.osc, hz.pendingCfg, hz.ticks, hz.capSteps, hz.capNow, hz.scrub, hs.rollback, hz.policyRegs, hz.policy, hz.order, hz.logRate, hz.interval, hs.queue⟩

theorem execColdStart_inv {volts : Nat} {s : State} {t : State} (h : execColdStart volts s = .next t) (hs : s.Inv) : t.Inv := by
  unfold execColdStart at h
  have h := atBusbar_next h
  subst h
  refine State.Inv.ite (fun _ => ?_) (fun _ => ?_)
  · refine powerOnReset_inv ?_
    assumption
  · assumption

theorem execVerify_inv {ms : Nat} {s : State} {t : State} (h : execVerify ms s = .next t) (hs : s.Inv) : t.Inv := by
  unfold execVerify at h
  have h := Host.Outcome.next.inj h
  subst h
  refine State.Inv.ite (fun _ => ?_) (fun _ => ?_)
  · extract_lets -merge v1 v2 v3 v4
    clear_value v1
    refine State.Inv.ite (fun _ => ?_) (fun _ => ?_)
    · refine State.Inv.of_frame State.enter_frame (by decide) ?_
      refine ⟨hs.dram, hs.plate, hs.acc, hs.stage, hs.season, hs.osc, hs.pendingCfg, hs.ticks, hs.capSteps, hs.capNow, hs.scrub, hs.rollback, hs.policyRegs, hs.policy, hs.order, hs.logRate, hs.interval, hs.queue⟩
    · refine State.Inv.of_frame State.enter_frame (by decide) ?_
      refine ⟨hs.dram, hs.plate, hs.acc, hs.stage, hs.season, hs.osc, hs.pendingCfg, hs.ticks, hs.capSteps, hs.capNow, hs.scrub, hs.rollback, hs.policyRegs, hs.policy, hs.order, hs.logRate, hs.interval, hs.queue⟩
  · assumption

theorem State.enterFaulted_inv {s : State} {cause : Nat} (hs : s.Inv) : State.Inv (State.enterFaulted s cause) := by
  unfold State.enterFaulted
  extract_lets -merge v1 v2
  refine State.raiseAlarm_inv ?_
  refine ⟨hs.dram, hs.plate, hs.acc, hs.stage, hs.season, hs.osc, hs.pendingCfg, hs.ticks, hs.capSteps, hs.capNow, hs.scrub, hs.rollback, hs.policyRegs, hs.policy, hs.order, hs.logRate, hs.interval, hs.queue⟩

theorem coreFailed_inv {s : State} {x : Site} (hs : s.Inv) : State.Inv (coreFailed s x) := by
  unfold coreFailed
  refine State.Inv.ite (fun _ => ?_) (fun _ => ?_)
  · extract_lets -merge v1 v2
    refine State.raiseAlarm_inv ?_
    refine ⟨hs.dram, hs.plate, hs.acc, hs.stage, hs.season, hs.osc, hs.pendingCfg, hs.ticks, hs.capSteps, hs.capNow, hs.scrub, hs.rollback, hs.policyRegs, hs.policy, hs.order, hs.logRate, hs.interval, hs.queue⟩
  · assumption

theorem burinFailed_inv {s : State} {b : Nat × Nat} (hs : s.Inv) : State.Inv (burinFailed s b) := by
  unfold burinFailed
  refine State.Inv.ite (fun _ => ?_) (fun _ => ?_)
  · extract_lets -merge v1
    refine State.raiseAlarm_inv ?_
    refine ⟨hs.dram, hs.plate, hs.acc, hs.stage, hs.season, hs.osc, hs.pendingCfg, hs.ticks, hs.capSteps, hs.capNow, hs.scrub, hs.rollback, hs.policyRegs, hs.policy, hs.order, hs.logRate, hs.interval, hs.queue⟩
  · assumption

theorem controllerFailed_inv {s : State} {f : Nat} (hs : s.Inv) : State.Inv (controllerFailed s f) := by
  unfold controllerFailed
  extract_lets -merge v1
  refine State.raiseAlarm_inv ?_
  refine State.setField_inv ?_
  assumption

theorem easelFailed_inv {s : State} {e : Nat} (hs : s.Inv) : State.Inv (easelFailed s e) := by
  unfold easelFailed
  extract_lets -merge v1
  refine State.raiseAlarm_inv ?_
  refine ⟨hs.dram, hs.plate, hs.acc, hs.stage, hs.season, hs.osc, hs.pendingCfg, hs.ticks, hs.capSteps, hs.capNow, hs.scrub, hs.rollback, hs.policyRegs, hs.policy, hs.order, hs.logRate, hs.interval, hs.queue⟩

theorem execCores_inv {ms : Nat} {report : CoresReport} {s : State} {t : State} (h : execCores ms report s = .next t) (hs : s.Inv) : t.Inv := by
  unfold execCores at h
  have h := Host.Outcome.next.inj h
  subst h
  refine State.Inv.ite (fun _ => ?_) (fun _ => ?_)
  · extract_lets -merge v1 v2 v3 v4 v5
    refine State.Inv.cut v1 (by
      unfold v1
      refine State.Inv.foldl ?_ (fun t7 a8 h9 => ?_)
      · assumption
      · refine coreFailed_inv ?_
        assumption) fun h6 => ?_
    refine State.Inv.cut v2 (by
      unfold v2
      refine State.Inv.foldl ?_ (fun t11 a12 h13 => ?_)
      · assumption
      · refine burinFailed_inv ?_
        assumption) fun h10 => ?_
    refine State.Inv.cut v3 (by
      unfold v3
      refine State.Inv.foldl ?_ (fun t15 a16 h17 => ?_)
      · assumption
      · refine controllerFailed_inv ?_
        assumption) fun h14 => ?_
    refine State.Inv.cut v4 (by
      unfold v4
      refine State.Inv.foldl ?_ (fun t19 a20 h21 => ?_)
      · assumption
      · refine easelFailed_inv ?_
        assumption) fun h18 => ?_
    clear_value v1 v2 v3 v4
    refine State.Inv.ite (fun _ => ?_) (fun _ => ?_)
    · refine State.enterFaulted_inv ?_
      refine State.Inv.of_frame State.enter_frame (by decide) ?_
      assumption
    · refine State.Inv.ite (fun _ => ?_) (fun _ => ?_)
      · refine State.enterFaulted_inv ?_
        refine State.Inv.of_frame State.enter_frame (by decide) ?_
        assumption
      · refine State.Inv.ite (fun _ => ?_) (fun _ => ?_)
        · refine State.enterFaulted_inv ?_
          refine State.Inv.of_frame State.enter_frame (by decide) ?_
          refine ⟨h18.dram, h18.plate, h18.acc, h18.stage, h18.season, h18.osc, h18.pendingCfg, h18.ticks, h18.capSteps, h18.capNow, h18.scrub, h18.rollback, h18.policyRegs, h18.policy, h18.order, h18.logRate, h18.interval, h18.queue⟩
        · refine State.Inv.ite (fun _ => ?_) (fun _ => ?_)
          · refine State.enterFaulted_inv ?_
            refine State.Inv.of_frame State.enter_frame (by decide) ?_
            assumption
          · refine State.Inv.of_frame State.enter_frame (by decide) ?_
            assumption
  · assumption

theorem execMemory_inv {ms : Nat} {chans : List ChannelTrain} {s : State} {t : State} (h : execMemory ms chans s = .next t) (hs : s.Inv) : t.Inv := by
  unfold execMemory at h
  have h := Host.Outcome.next.inj h
  subst h
  refine State.Inv.ite (fun _ => ?_) (fun _ => ?_)
  · extract_lets -merge v1 v2 v3 v4 v5 v6
    refine State.Inv.cut v4 (by
      unfold v4
      refine ⟨?_, hs.plate, hs.acc, hs.stage, hs.season, hs.osc, hs.pendingCfg, hs.ticks, hs.capSteps, hs.capNow, hs.scrub, hs.rollback, hs.policyRegs, hs.policy, hs.order, hs.logRate, hs.interval, hs.queue⟩
      rfl) fun h7 => ?_
    refine State.Inv.cut v6 (by
      unfold v6
      refine State.Inv.ite (fun _ => ?_) (fun _ => ?_)
      · refine State.raiseAlarm_inv ?_
        assumption
      · assumption) fun h8 => ?_
    refine State.Inv.ite (fun _ => ?_) (fun _ => ?_)
    · refine State.enterFaulted_inv ?_
      refine State.Inv.of_frame State.enter_frame (by decide) ?_
      assumption
    · refine State.Inv.of_frame State.enter_frame (by decide) ?_
      assumption
  · assumption

theorem execMeasure_inv {ms : Nat} {s t : State} (h : execMeasure ms s = .next t) (hs : s.Inv) : t.Inv := by
  unfold execMeasure at h
  have h := Host.Outcome.next.inj h
  subst h
  refine State.Inv.ite (fun _ => ?_) (fun _ => hs)
  extract_lets -merge cap p0 s1 s2 p1
  clear_value cap
  have hone : (1 : Nat) < 4 := by decide
  have hzero : (0 : Nat) < 4 := by decide
  refine State.Inv.cut s1 ?_ fun h1 => State.Inv.cut s2 ?_ fun h2 => ?_
  · exact ⟨hs.dram, hs.plate, hs.acc, hs.stage, hs.season, hs.osc, hs.pendingCfg, hs.ticks, hs.capSteps, hs.capNow, hs.scrub, hs.rollback, hs.policyRegs, hs.policy, hs.order, hs.logRate, hs.interval, hs.queue⟩
  · exact State.Inv.ite (fun _ => State.raiseAlarm_inv h1) (fun _ => h1)
  · refine State.Inv.of_frame State.enter_frame (by decide) ?_
    exact ⟨h2.dram, h2.plate, h2.acc, h2.stage, hone, hzero, (fun p hp => by cases hp), (Nat.zero_le _), h2.capSteps, h2.capNow, h2.scrub, h2.rollback, h2.policyRegs, h2.policy, h2.order, h2.logRate, h2.interval, h2.queue⟩

theorem resetCtlWrite_inv {v : Word} {s : State} (hs : s.Inv) : State.Inv (resetCtlWrite v s) := by
  unfold resetCtlWrite
  refine State.Inv.ite (fun _ => ?_) (fun _ => ?_)
  · refine powerOnReset_inv ?_
    assumption
  · assumption

theorem execHostReset_inv {port : Nat} {value : Word} {s : State} {t : State} (h : execHostReset port value s = .next t) (hs : s.Inv) : t.Inv := by
  unfold execHostReset at h
  have h := Host.Outcome.next.inj h
  subst h
  refine State.Inv.ite (fun _ => ?_) (fun _ => ?_)
  · refine resetCtlWrite_inv ?_
    assumption
  · assumption

theorem powerOff_inv {volts : Nat} {s : State} (hs : s.Inv) : State.Inv (powerOff volts s) := by
  unfold powerOff
  extract_lets -merge v1 v2
  refine State.Inv.cut v1 (by
    unfold v1
    refine powerOnReset_inv ?_
    assumption) fun h3 => ?_
  clear_value v1
  refine ⟨h3.dram, h3.plate, h3.acc, h3.stage, h3.season, h3.osc, h3.pendingCfg, h3.ticks, h3.capSteps, h3.capNow, h3.scrub, h3.rollback, h3.policyRegs, h3.policy, h3.order, h3.logRate, h3.interval, h3.queue⟩

theorem execSupplyReset_inv {volts : Nat} {s : State} {t : State} (h : execSupplyReset volts s = .next t) (hs : s.Inv) : t.Inv := by
  unfold execSupplyReset at h
  have h := atBusbar_next h
  subst h
  refine State.Inv.ite (fun _ => ?_) (fun _ => ?_)
  · assumption
  · extract_lets -merge v1 v2 v3 v4 v5 v6
    refine State.Inv.cut v3 (by
      unfold v3
      refine powerOnReset_inv ?_
      assumption) fun h7 => ?_
    refine State.Inv.cut v6 (by
      unfold v6
      refine State.Inv.ite (fun _ => ?_) (fun _ => ?_)
      · refine State.raiseAlarm_inv ?_
        refine ⟨h7.dram, h7.plate, h7.acc, h7.stage, h7.season, h7.osc, h7.pendingCfg, h7.ticks, h7.capSteps, h7.capNow, h7.scrub, h7.rollback, h7.policyRegs, h7.policy, h7.order, h7.logRate, h7.interval, h7.queue⟩
      · refine ⟨hs.dram, hs.plate, hs.acc, hs.stage, hs.season, hs.osc, hs.pendingCfg, hs.ticks, hs.capSteps, hs.capNow, hs.scrub, hs.rollback, hs.policyRegs, hs.policy, hs.order, hs.logRate, hs.interval, hs.queue⟩) fun h8 => ?_
    clear_value v1 v2 v3 v6
    refine State.Inv.ite (fun _ => ?_) (fun _ => ?_)
    · refine powerOff_inv ?_
      assumption
    · assumption

theorem execThermalTrip_inv {s : State} {t : State} (h : execThermalTrip s = .next t) (hs : s.Inv) : t.Inv := by
  unfold execThermalTrip at h
  have h := Host.Outcome.next.inj h
  subst h
  refine State.Inv.ite (fun _ => ?_) (fun _ => ?_)
  · extract_lets -merge v1 v2
    refine State.Inv.cut v1 (by
      unfold v1
      refine powerOnReset_inv ?_
      assumption) fun h3 => ?_
    clear_value v1
    refine ⟨h3.dram, h3.plate, h3.acc, h3.stage, h3.season, h3.osc, h3.pendingCfg, h3.ticks, h3.capSteps, h3.capNow, h3.scrub, h3.rollback, h3.policyRegs, h3.policy, h3.order, h3.logRate, h3.interval, h3.queue⟩
  · assumption

theorem execAlmanacInputLoss_inv {s : State} {t : State} (h : execAlmanacInputLoss s = .next t) (hs : s.Inv) : t.Inv := by
  unfold execAlmanacInputLoss at h
  have h := Host.Outcome.next.inj h
  subst h
  refine State.Inv.ite (fun _ => ?_) (fun _ => ?_)
  · extract_lets -merge v1
    refine State.Inv.cut v1 (by
      unfold v1
      refine State.Inv.of_frame almanacLoss_frame (by decide) ?_
      assumption) fun h2 => ?_
    clear_value v1
    refine State.Inv.ite (fun _ => ?_) (fun _ => ?_)
    · refine powerOff_inv ?_
      assumption
    · assumption
  · assumption

theorem execAlarm_inv {code source : Nat} {detail : DWord} {s : State} {t : State} (h : execAlarm code source detail s = .next t) (hs : s.Inv) : t.Inv := by
  unfold execAlarm at h
  have h := Host.Outcome.next.inj h
  subst h
  refine State.Inv.ite (fun _ => ?_) (fun _ => ?_)
  · refine State.raiseAlarm_inv ?_
    assumption
  · assumption

theorem endAlarmWindow_inv {code source : Nat} {s : State} (hs : s.Inv) : State.Inv (endAlarmWindow code source s) := by
  unfold endAlarmWindow
  split
  · assumption
  · refine State.Inv.ite (fun _ => ?_) (fun _ => ?_)
    · assumption
    · refine State.Inv.ite (fun _ => ?_) (fun _ => ?_)
      · extract_lets -merge v1
        refine ⟨hs.dram, hs.plate, hs.acc, hs.stage, hs.season, hs.osc, hs.pendingCfg, hs.ticks, hs.capSteps, hs.capNow, hs.scrub, hs.rollback, hs.policyRegs, hs.policy, hs.order, hs.logRate, hs.interval, hs.queue⟩
      · extract_lets -merge v2 v3
        refine State.alarmRecord_inv ?_
        refine ⟨hs.dram, hs.plate, hs.acc, hs.stage, hs.season, hs.osc, hs.pendingCfg, hs.ticks, hs.capSteps, hs.capNow, hs.scrub, hs.rollback, hs.policyRegs, hs.policy, hs.order, hs.logRate, hs.interval, hs.queue⟩

theorem execCoalesceWindowEnd_inv {code source : Nat} {s : State} {t : State} (h : execCoalesceWindowEnd code source s = .next t) (hs : s.Inv) : t.Inv := by
  unfold execCoalesceWindowEnd at h
  have h := Host.Outcome.next.inj h
  subst h
  refine endAlarmWindow_inv ?_
  assumption

theorem execLog_inv {code source : Nat} {detail : DWord} {s : State} {t : State} (h : execLog code source detail s = .next t) (hs : s.Inv) : t.Inv := by
  unfold execLog at h
  have h := Host.Outcome.next.inj h
  subst h
  refine State.Inv.ite (fun _ => ?_) (fun _ => ?_)
  · refine State.writeLog_inv ?_
    assumption
  · assumption

theorem execLogSummary_inv {source : Nat} {s : State} {t : State} (h : execLogSummary source s = .next t) (hs : s.Inv) : t.Inv := by
  unfold execLogSummary at h
  have h := Host.Outcome.next.inj h
  subst h
  refine State.writeLogSummary_inv ?_
  assumption

theorem execTrace_inv {code source : Nat} {detail : DWord} {s : State} {t : State} (h : execTrace code source detail s = .next t) (hs : s.Inv) : t.Inv := by
  unfold execTrace at h
  have h := Host.Outcome.next.inj h
  subst h
  refine State.Inv.ite (fun _ => ?_) (fun _ => ?_)
  · refine State.writeTrace_inv ?_
    assumption
  · assumption

theorem evtCfgWrite_inv {v : Word} {s : State} (hs : s.Inv) : State.Inv (evtCfgWrite v s) := by
  have ho : min (fld v 3 0) 9 ≤ 9 := Nat.min_le_right ..
  have hl : 1 ≤ max (fld v 23 16) 1 := Nat.le_max_right ..
  unfold evtCfgWrite
  extract_lets e
  refine State.Inv.ite (fun _ => ?_) (fun _ => ?_)
  · refine State.Inv.ite (fun _ => hs) (fun _ => ?_)
    exact ⟨hs.dram, hs.plate, hs.acc, hs.stage, hs.season, hs.osc, hs.pendingCfg, hs.ticks, hs.capSteps, hs.capNow, hs.scrub, hs.rollback, hs.policyRegs, hs.policy, hs.order, hs.logRate, hs.interval, hs.queue⟩
  · extract_lets e1
    refine State.Inv.ite (fun _ => ?_) (fun _ => ?_)
    · refine State.evtDrain_inv ?_
      exact ⟨hs.dram, hs.plate, hs.acc, hs.stage, hs.season, hs.osc, hs.pendingCfg, hs.ticks, hs.capSteps, hs.capNow, hs.scrub, hs.rollback, hs.policyRegs, hs.policy, ho, hl, hs.interval, hs.queue⟩
    · exact ⟨hs.dram, hs.plate, hs.acc, hs.stage, hs.season, hs.osc, hs.pendingCfg, hs.ticks, hs.capSteps, hs.capNow, hs.scrub, hs.rollback, hs.policyRegs, hs.policy, ho, hl, hs.interval, hs.queue⟩

theorem execEventRingEnable_inv {port : Nat} {value : Word} {s : State} {t : State} (h : execEventRingEnable port value s = .next t) (hs : s.Inv) : t.Inv := by
  unfold execEventRingEnable at h
  have h := Host.Outcome.next.inj h
  subst h
  refine State.Inv.ite (fun _ => ?_) (fun _ => ?_)
  · refine evtCfgWrite_inv ?_
    assumption
  · assumption

theorem evtCiWrite_inv {v : Word} {s : State} (hs : s.Inv) : State.Inv (evtCiWrite v s) := by
  unfold evtCiWrite
  extract_lets -merge v1
  refine State.evtDrain_inv ?_
  refine ⟨hs.dram, hs.plate, hs.acc, hs.stage, hs.season, hs.osc, hs.pendingCfg, hs.ticks, hs.capSteps, hs.capNow, hs.scrub, hs.rollback, hs.policyRegs, hs.policy, hs.order, hs.logRate, hs.interval, hs.queue⟩

end Sys2Proof.Machine
end

