-- ==== Sys2Proof/Laws/InvRings.lean ====
section
/-! SUPPORT. The invariant: each operation keeps the invariant, for rings, admission, jobs, residency and sessions. -/

namespace Sys2Proof.Machine

open Sys2Proof

theorem validate_inv {s : State} {ring : Nat} {d : Desc} {r : State × Option (Nat × Nat)} (h : validate s ring d = r) (hs : s.Inv) : r.1.Inv := by
  subst h
  unfold validate
  split
  · refine State.Inv.fst ?_
    assumption
  · extract_lets -merge v1
    refine State.Inv.cut v1 (by
      unfold v1
      refine State.Inv.ite (fun _ => ?_) (fun _ => ?_)
      · refine lockPolicy_inv ?_
        assumption
      · assumption) fun h2 => ?_
    clear_value v1
    refine State.Inv.fst ?_
    assumption

theorem State.setPairs_inv {s : State} {m : List Byte} {pairs : Tab (Tab Nat)} {cores : List Nat} (hs : s.Inv) : State.Inv (State.setPairs s m pairs cores) := by
  unfold State.setPairs
  refine State.Inv.foldl ?_ (fun t1 a2 h3 => ?_)
  · assumption
  · refine State.setCore_inv ?_
    assumption

theorem State.joinCores_inv {s : State} {id : Nat} {cores : List Nat} (hs : s.Inv) : State.Inv (State.joinCores s id cores) := by
  unfold State.joinCores
  refine State.Inv.foldl ?_ (fun t1 a2 h3 => ?_)
  · assumption
  · extract_lets -merge v4
    refine State.setCore_inv ?_
    assumption

theorem State.bindCores_inv {s : State} {id : Nat} {m : List Byte} {pairs : Tab (Tab Nat)} {cores : List Nat} (hs : s.Inv) : State.Inv (State.bindCores s id m pairs cores) := by
  unfold State.bindCores
  refine State.setPairs_inv ?_
  refine State.joinCores_inv ?_
  assumption

theorem State.newJob_inv {s : State} {kind : JobKind} {a : Ask} {m : List Byte} {maxCores : Nat} {seed : DWord} {key : Word} {cores : List Nat} {extents : Nat} {r : State × Nat} (h : State.newJob s kind a m maxCores seed key cores extents = r) (hs : s.Inv) : r.1.Inv := by
  subst h
  unfold State.newJob
  extract_lets -merge v1 v2 v3 v4 v5 v6 v7
  refine State.Inv.cut v7 (by
    unfold v7
    refine ⟨hs.dram, hs.plate, hs.acc, hs.stage, hs.season, hs.osc, hs.pendingCfg, hs.ticks, hs.capSteps, hs.capNow, hs.scrub, hs.rollback, hs.policyRegs, hs.policy, hs.order, hs.logRate, hs.interval, hs.queue⟩) fun h8 => ?_
  clear_value v1 v2 v5 v7
  refine State.Inv.fst ?_
  refine State.Inv.of_frame State.setJob_frame (by decide) ?_
  refine State.bindCores_inv ?_
  assumption

theorem State.newFrosted_inv {s : State} {kind : JobKind} {a : Ask} {m : List Byte} {maxCores extents : Nat} {r : State × Nat} (h : State.newFrosted s kind a m maxCores extents = r) (hs : s.Inv) : r.1.Inv := by
  subst h
  unfold State.newFrosted
  extract_lets -merge v1
  refine State.Inv.cut v1.1 (by
    unfold v1
    refine State.newJob_inv rfl ?_
    assumption) fun h2 => ?_
  clear_value v1
  split
  · rename_i y3 y4 y5
    refine State.Inv.fst ?_
    refine State.Inv.of_frame State.setJob_frame (by decide) ?_
    assumption
  · rename_i y6 y7
    assumption

theorem State.commitFill_inv {s : State} {a : Ask} {m : List Byte} {maxCores : Nat} {p : Place} {x : Stream} (hs : s.Inv) : State.Inv (State.commitFill s a m maxCores p x) := by
  unfold State.commitFill
  extract_lets -merge v1 v2
  refine State.Inv.cut v1.1 (by
    unfold v1
    split
    · refine State.Inv.fst ?_
      assumption
    · refine State.newFrosted_inv rfl ?_
      assumption) fun h3 => ?_
  clear_value v1
  refine State.Inv.of_frame State.joinRow_frame (by decide) ?_
  refine State.Inv.of_frame State.setStream_frame (by decide) ?_
  assumption

theorem State.commitLive_inv {s : State} {a : Ask} {m : List Byte} {maxCores : Nat} {p : Place} {x : Stream} (hs : s.Inv) : State.Inv (State.commitLive s a m maxCores p x) := by
  unfold State.commitLive
  extract_lets -merge v1 v2 v3 v4
  refine State.Inv.cut v1.1 (by
    unfold v1
    split
    · extract_lets -merge v6 v7
      clear_value v6 v7
      refine State.Inv.fst ?_
      refine State.Inv.of_frame State.setJob_frame (by decide) ?_
      refine State.joinCores_inv ?_
      assumption
    · refine State.newJob_inv rfl ?_
      assumption) fun h5 => ?_
  refine State.Inv.cut v2 (by
    unfold v2
    assumption) fun h8 => ?_
  clear_value v1 v2
  refine State.Inv.of_frame State.joinRow_frame (by decide) ?_
  refine State.Inv.of_frame State.bindUnit_frame (by decide) ?_
  refine State.Inv.of_frame State.setStream_frame (by decide) ?_
  assumption

theorem State.commitPlace_inv {s : State} {a : Ask} {p : Place} {x : Stream} (hs : s.Inv) : State.Inv (State.commitPlace s a p x) := by
  unfold State.commitPlace
  split
  · assumption
  · extract_lets -merge v1
    clear_value v1
    refine State.Inv.ite (fun _ => ?_) (fun _ => ?_)
    · refine State.commitFill_inv ?_
      assumption
    · refine State.commitLive_inv ?_
      assumption

theorem State.releaseCores_inv {s : State} {j : Job} {cores : List Nat} (hs : s.Inv) : State.Inv (State.releaseCores s j cores) := by
  unfold State.releaseCores
  refine State.Inv.foldl ?_ (fun t1 a2 h3 => ?_)
  · assumption
  · extract_lets -merge v4 v5 v6
    refine State.Inv.cut v5 (by
      unfold v5
      refine State.setCore_inv ?_
      assumption) fun h7 => ?_
    clear_value v5
    refine ⟨h7.dram, ?_, ?_, h7.stage, h7.season, h7.osc, h7.pendingCfg, h7.ticks, h7.capSteps, h7.capNow, h7.scrub, h7.rollback, h7.policyRegs, h7.policy, h7.order, h7.logRate, h7.interval, h7.queue⟩
    · exact memZero_wf h7.plate
    · exact memZeros_wf h7.acc

theorem State.freeExtents_inv {s : State} {owner : Nat} (hs : s.Inv) : State.Inv (s.freeExtents owner) := by
  have hz (es : List Nat) (m : List Host.Cell) (hm : Memory.wf m = true) :
      Memory.wf (es.foldl (fun m e => memZero m (extentAddr e) 2097152) m) = true := by
    induction es generalizing m with
    | nil => exact hm
    | cons e es ih => exact ih _ (memZero_wf hm)
  exact ⟨hz _ _ hs.dram, hs.plate, hs.acc, hs.stage, hs.season, hs.osc, hs.pendingCfg, hs.ticks, hs.capSteps, hs.capNow, hs.scrub, hs.rollback, hs.policyRegs, hs.policy, hs.order, hs.logRate, hs.interval, hs.queue⟩

theorem State.dropTransfers_inv {s : State} {id : Nat} (hs : s.Inv) : State.Inv (State.dropTransfers s id) := by
  unfold State.dropTransfers
  extract_lets -merge v1
  refine ⟨hs.dram, hs.plate, hs.acc, hs.stage, hs.season, hs.osc, hs.pendingCfg, hs.ticks, hs.capSteps, hs.capNow, hs.scrub, hs.rollback, hs.policyRegs, hs.policy, hs.order, hs.logRate, hs.interval, hs.queue⟩

theorem State.zeroSet_inv {s : State} {m : Model} (hs : s.Inv) : State.Inv (State.zeroSet s m) := by
  unfold State.zeroSet
  extract_lets -merge v1
  refine ⟨hs.dram, ?_, hs.acc, hs.stage, hs.season, hs.osc, hs.pendingCfg, hs.ticks, hs.capSteps, hs.capNow, hs.scrub, hs.rollback, hs.policyRegs, hs.policy, hs.order, hs.logRate, hs.interval, hs.queue⟩
  exact memZeros_wf hs.plate

theorem State.dropPlace_inv {s : State} {id : Nat} (hs : s.Inv) : State.Inv (State.dropPlace s id) := by
  unfold State.dropPlace
  split
  · refine State.Inv.ite (fun _ => ?_) (fun _ => ?_)
    · assumption
    · extract_lets -merge v1 v2 v3 v4
      refine State.Inv.cut v2 (by
        unfold v2
        refine State.Inv.foldl ?_ (fun t6 a7 h8 => ?_)
        · assumption
        · refine State.Inv.of_frame State.dropCtx_frame (by decide) ?_
          assumption) fun h5 => ?_
      refine State.Inv.cut v3 (by
        unfold v3
        refine State.releaseCores_inv ?_
        assumption) fun h9 => ?_
      clear_value v2 v3
      refine ⟨h9.dram, h9.plate, h9.acc, h9.stage, h9.season, h9.osc, h9.pendingCfg, h9.ticks, h9.capSteps, h9.capNow, h9.scrub, h9.rollback, h9.policyRegs, h9.policy, h9.order, h9.logRate, h9.interval, h9.queue⟩
  · assumption

theorem State.endJob_inv {s : State} {id : Nat} {faulted : Bool} (hs : s.Inv) : State.Inv (State.endJob s id faulted) := by
  unfold State.endJob
  split
  · assumption
  · extract_lets -merge v1 v2 v3 v4 v5 v6 v7
    refine State.Inv.cut v1 (by
      unfold v1
      refine State.freeExtents_inv ?_
      refine State.releaseCores_inv ?_
      refine State.dropPlace_inv ?_
      refine State.dropTransfers_inv ?_
      assumption) fun h8 => ?_
    refine State.Inv.cut v2 (by
      unfold v2
      refine State.Inv.foldl ?_ (fun t10 a11 h12 => ?_)
      · assumption
      · refine State.zeroSet_inv ?_
        assumption) fun h9 => ?_
    refine State.Inv.cut v6 (by
      unfold v6
      refine ⟨h9.dram, h9.plate, h9.acc, h9.stage, h9.season, h9.osc, h9.pendingCfg, h9.ticks, h9.capSteps, h9.capNow, h9.scrub, h9.rollback, h9.policyRegs, h9.policy, h9.order, h9.logRate, h9.interval, h9.queue⟩) fun h13 => ?_
    refine State.Inv.cut v7 (by
      unfold v7
      refine State.Inv.of_frame writeJobRecord_frame (by decide) ?_
      assumption) fun h14 => ?_
    clear_value v1 v2 v6 v7
    refine State.Inv.of_frame State.nextFrost_frame (by decide) ?_
    refine ⟨h14.dram, h14.plate, h14.acc, h14.stage, h14.season, h14.osc, h14.pendingCfg, h14.ticks, h14.capSteps, h14.capNow, h14.scrub, h14.rollback, h14.policyRegs, h14.policy, h14.order, h14.logRate, h14.interval, h14.queue⟩

theorem State.leaveJob_inv {s : State} {x : Stream} (hs : s.Inv) : State.Inv (State.leaveJob s x) := by
  unfold State.leaveJob
  split
  · assumption
  · extract_lets -merge v1 v2
    refine State.Inv.cut v2 (by
      unfold v2
      refine State.Inv.of_frame State.setJob_frame (by decide) ?_
      assumption) fun h3 => ?_
    clear_value v1 v2
    refine State.Inv.ite (fun _ => ?_) (fun _ => ?_)
    · refine State.endJob_inv ?_
      assumption
    · assumption

theorem State.releaseStream_inv {s : State} {x : Stream} (hs : s.Inv) : State.Inv (State.releaseStream s x) := by
  unfold State.releaseStream
  refine State.leaveJob_inv ?_
  refine State.Inv.of_frame State.freeSlot_frame (by decide) ?_
  refine State.Inv.of_frame State.freeUnit_frame (by decide) ?_
  assumption

theorem State.tearDownWith_inv {s : State} {id rule status detail : Nat} (hs : s.Inv) : State.Inv (State.tearDownWith s id rule status detail) := by
  unfold State.tearDownWith
  split
  · assumption
  · extract_lets -merge v1 v2 v3 v4
    refine State.Inv.cut v1 (by
      unfold v1
      refine State.dropTransfers_inv ?_
      assumption) fun h5 => ?_
    refine State.Inv.cut v2 (by
      unfold v2
      refine State.Inv.foldl ?_ (fun t7 a8 h9 => ?_)
      · assumption
      · extract_lets -merge v10
        refine State.Inv.ite (fun _ => ?_) (fun _ => ?_)
        · refine State.setCore_inv ?_
          assumption
        · assumption) fun h6 => ?_
    refine State.Inv.cut v3 (by
      unfold v3
      refine State.Inv.foldl ?_ (fun t12 a13 h14 => ?_)
      · assumption
      · refine State.Inv.of_frame faultRow_frame (by decide) ?_
        assumption) fun h11 => ?_
    refine State.Inv.cut v4 (by
      unfold v4
      refine State.endJob_inv ?_
      refine State.Inv.of_frame State.completeAdapt_frame (by decide) ?_
      assumption) fun h15 => ?_
    clear_value v1 v2 v3 v4
    refine State.writeLog_inv ?_
    refine State.Inv.of_frame State.bump_frame (by decide) ?_
    assumption

theorem State.tearDown_inv {s : State} {id rule : Nat} (hs : s.Inv) : State.Inv (State.tearDown s id rule) := by
  unfold State.tearDown
  refine State.tearDownWith_inv ?_
  assumption

theorem execJobTearDown_inv {job rule : Nat} {s : State} {t : State} (h : execJobTearDown job rule s = .next t) (hs : s.Inv) : t.Inv := by
  unfold execJobTearDown at h
  have h := Host.Outcome.next.inj h
  subst h
  refine State.tearDown_inv ?_
  assumption

theorem State.startPromotion_inv {s t : State} {m : Model} (h : s.startPromotion m = some t) (hs : s.Inv) : t.Inv := by
  unfold State.startPromotion at h
  split at h
  · cases h
  · split at h
    · cases h
    · extract_lets n s1 at h
      refine State.Inv.of_some h (State.Inv.of_frame State.setModel_frame (by decide) (State.Inv.foldl ?_ fun t a k => ?_))
      · exact State.newFrosted_inv rfl hs
      · exact State.Inv.of_frame State.requestFrost_frame (by decide) k

theorem State.promote_inv {s : State} {m : Model} (hs : s.Inv) : State.Inv (State.promote s m) := by
  unfold State.promote
  refine State.Inv.ite (fun _ => ?_) (fun _ => ?_)
  · refine State.Inv.getD (fun t1 o2 => ?_) ?_
    · refine State.startPromotion_inv o2 ?_
      assumption
    · refine State.Inv.of_frame State.makeRoom_frame (by decide) ?_
      assumption
  · assumption

theorem switchModel_inv {s : State} {m : Model} (hs : s.Inv) : State.Inv (switchModel s m) := by
  unfold switchModel
  split
  · extract_lets -merge v1
    refine State.Inv.cut v1 (by
      unfold v1
      refine State.endJob_inv ?_
      refine State.Inv.of_frame State.setModel_frame (by decide) ?_
      assumption) fun h2 => ?_
    clear_value v1
    refine State.Inv.foldl ?_ (fun t3 a4 h5 => ?_)
    · assumption
    · refine State.Inv.of_frame finishLoad_frame (by decide) ?_
      assumption
  · refine State.Inv.ite (fun _ => ?_) (fun _ => ?_)
    · refine State.Inv.of_frame State.setModel_frame (by decide) ?_
      assumption
    · refine State.Inv.of_frame State.setModel_frame (by decide) ?_
      refine State.zeroSet_inv ?_
      assumption
  · extract_lets -merge v6 v7
    clear_value v6
    refine State.Inv.ite (fun _ => ?_) (fun _ => ?_)
    · assumption
    · refine State.Inv.foldl ?_ (fun t8 a9 h10 => ?_)
      · refine State.Inv.of_frame State.setModel_frame (by decide) ?_
        assumption
      · refine State.Inv.of_frame finishLoad_frame (by decide) ?_
        assumption
  · assumption

theorem residencyTick_inv {s : State} (hs : s.Inv) : State.Inv (residencyTick s) := by
  unfold residencyTick
  extract_lets -merge v1 v2
  refine State.Inv.cut v2 (by
    unfold v2
    refine ⟨hs.dram, hs.plate, hs.acc, hs.stage, hs.season, hs.osc, hs.pendingCfg, hs.ticks, hs.capSteps, hs.capNow, hs.scrub, hs.rollback, hs.policyRegs, hs.policy, hs.order, hs.logRate, hs.interval, hs.queue⟩) fun h3 => ?_
  clear_value v2
  refine State.Inv.foldl ?_ (fun t4 a5 h6 => ?_)
  · assumption
  · refine switchModel_inv ?_
    assumption

theorem State.stopPromotion_inv {s : State} {m : Model} (hs : s.Inv) : State.Inv (State.stopPromotion s m) := by
  unfold State.stopPromotion
  split
  · refine State.tearDown_inv ?_
    assumption
  · refine State.tearDown_inv ?_
    assumption
  · assumption

theorem acceptOne_inv {n : Nat} {s : State} (hs : s.Inv) : State.Inv (acceptOne n s) := by
  unfold acceptOne
  extract_lets -merge v1
  split
  · assumption
  · refine State.Inv.ite (fun _ => ?_) (fun _ => ?_)
    · assumption
    · extract_lets -merge v2
      refine State.Inv.cut v2 (by
        unfold v2
        refine State.Inv.of_frame State.setRing_frame (by decide) ?_
        assumption) fun h3 => ?_
      clear_value v2
      split
      · rename_i y4 y5 y6 y7 y8
        refine State.Inv.cut y5 (by
          refine validate_inv y8 ?_
          assumption) fun h9 => ?_
        refine State.Inv.of_frame State.hold_frame (by decide) ?_
        assumption
      · rename_i y10 y11 y12
        refine State.Inv.cut y11 (by
          refine validate_inv y12 ?_
          assumption) fun h13 => ?_
        split
        rename_i y14 y15 y16 y17
        refine State.Inv.cut y15 (by
          refine State.Inv.of_frame (onAccept_frame y17) (by decide) ?_
          assumption) fun h18 => ?_
        extract_lets -merge v19
        refine State.Inv.of_frame State.setRing_frame (by decide) ?_
        assumption

theorem pump_inv {n fuel : Nat} {s : State} (hs : s.Inv) : State.Inv (pump n fuel s) := by
  induction fuel generalizing s with
  | zero => exact hs
  | succ fuel ih => exact ih (acceptOne_inv hs)

theorem State.pump_inv {s : State} {n : Nat} (hs : s.Inv) : State.Inv (s.pump n) := Machine.pump_inv hs

theorem execDescriptorFetch_inv {ring : Nat} {slots : List (List Byte)} {s : State} {t : State} (h : execDescriptorFetch ring slots s = .next t) (hs : s.Inv) : t.Inv := by
  unfold execDescriptorFetch at h
  have h := Host.Outcome.next.inj h
  subst h
  extract_lets -merge v1 v2 v3 v4 v5 v6 v7 v8 v9
  refine State.Inv.cut v5 (by
    unfold v5
    refine State.Inv.of_frame State.setRing_frame (by decide) ?_
    assumption) fun h10 => ?_
  refine State.Inv.cut v8 (by
    unfold v8
    refine ⟨h10.dram, h10.plate, h10.acc, h10.stage, h10.season, h10.osc, h10.pendingCfg, h10.ticks, h10.capSteps, h10.capNow, h10.scrub, h10.rollback, h10.policyRegs, h10.policy, h10.order, h10.logRate, h10.interval, h10.queue⟩) fun h11 => ?_
  refine State.Inv.cut v9 (by
    unfold v9
    refine State.Inv.foldl ?_ (fun t13 a14 h15 => ?_)
    · refine State.Inv.of_frame State.bump_frame (by decide) ?_
      refine State.Inv.of_frame State.bump_frame (by decide) ?_
      assumption
    · refine State.Inv.of_frame State.chargeDesc_frame (by decide) ?_
      assumption) fun h12 => ?_
  clear_value v2 v3 v4 v5 v8 v9
  refine State.Inv.ite (fun _ => ?_) (fun _ => ?_)
  · refine State.Inv.of_frame State.mirror_frame (by decide) ?_
    refine State.pump_inv ?_
    assumption
  · assumption

theorem execCompletionWrite_inv {ring : Nat} {s : State} {t : State} (h : execCompletionWrite ring s = .next t) (hs : s.Inv) : t.Inv := by
  unfold execCompletionWrite at h
  have h := Host.Outcome.next.inj h
  subst h
  extract_lets -merge v1
  split
  · assumption
  · refine State.Inv.ite (fun _ => ?_) (fun _ => ?_)
    · assumption
    · extract_lets -merge v2 v3 v4 v5
      refine State.Inv.cut v3 (by
        unfold v3
        refine State.Inv.of_frame State.hostWrite_frame (by decide) ?_
        assumption) fun h6 => ?_
      refine State.Inv.cut v4 (by
        unfold v4
        refine State.Inv.of_frame State.setRing_frame (by decide) ?_
        assumption) fun h7 => ?_
      refine State.Inv.cut v5 (by
        unfold v5
        refine State.Inv.of_frame State.bump_frame (by decide) ?_
        refine State.Inv.of_frame State.mirror_frame (by decide) ?_
        assumption) fun h8 => ?_
      clear_value v3 v4 v5
      refine State.pump_inv ?_
      refine State.Inv.ite (fun _ => ?_) (fun _ => ?_)
      · refine State.Inv.of_frame State.notify_frame (by decide) ?_
        assumption
      · assumption

theorem execCqStall_inv {ring : Nat} {s : State} {t : State} (h : execCqStall ring s = .next t) (hs : s.Inv) : t.Inv := by
  unfold execCqStall at h
  have h := Host.Outcome.next.inj h
  subst h
  extract_lets -merge v1
  split
  · assumption
  · refine State.Inv.ite (fun _ => ?_) (fun _ => ?_)
    · refine State.raiseAlarm_inv ?_
      refine State.Inv.of_frame State.setRing_frame (by decide) ?_
      assumption
    · assumption

theorem stopRings_inv {p : Nat} {s : State} (hs : s.Inv) : State.Inv (stopRings p s) := by
  unfold stopRings
  extract_lets -merge v1 v2
  refine State.raiseAlarm_inv ?_
  refine ⟨hs.dram, hs.plate, hs.acc, hs.stage, hs.season, hs.osc, hs.pendingCfg, hs.ticks, hs.capSteps, hs.capNow, hs.scrub, hs.rollback, hs.policyRegs, hs.policy, hs.order, hs.logRate, hs.interval, hs.queue⟩

theorem State.setApart_inv {s : State} {ring : Nat} (hs : s.Inv) : State.Inv (State.setApart s ring) := by
  unfold State.setApart
  split
  · refine State.Inv.ite (fun _ => ?_) (fun _ => ?_)
    · extract_lets -merge v1
      refine ⟨hs.dram, hs.plate, hs.acc, hs.stage, hs.season, hs.osc, hs.pendingCfg, hs.ticks, hs.capSteps, hs.capNow, hs.scrub, hs.rollback, hs.policyRegs, hs.policy, hs.order, hs.logRate, hs.interval, hs.queue⟩
    · assumption
  · assumption

theorem execSessionOpen_inv {ring seq : Nat} {request : List Byte} {s : State} {t : State} (h : execSessionOpen ring seq request s = .next t) (hs : s.Inv) : t.Inv := by
  unfold execSessionOpen at h
  have h := Host.Outcome.next.inj h
  subst h
  split
  · assumption
  · refine State.Inv.ite (fun _ => ?_) (fun _ => ?_)
    · assumption
    · extract_lets -merge v1 v2 v3 v4
      refine State.Inv.cut v3 (by
        unfold v3
        refine State.Inv.of_frame State.bump_frame (by decide) ?_
        assumption) fun h5 => ?_
      clear_value v1 v2 v3
      split
      · refine State.Inv.of_frame State.complete_frame (by decide) ?_
        assumption
      · split
        rename_i y6 y7 y8 y9
        refine State.Inv.cut y7 (by
          refine State.Inv.of_frame (openSession_frame y9) (by decide) ?_
          refine State.setApart_inv ?_
          assumption) fun h10 => ?_
        extract_lets -merge v11 v12 v13 v14 v15 v16
        refine State.Inv.cut v11 (by
          unfold v11
          refine State.Inv.of_frame State.ringWrite_frame (by decide) ?_
          assumption) fun h17 => ?_
        refine State.Inv.cut v13 (by
          unfold v13
          refine State.Inv.of_frame State.setRing_frame (by decide) ?_
          assumption) fun h18 => ?_
        refine State.Inv.cut v15 (by
          unfold v15
          refine State.Inv.of_frame sendAlm_frame (by decide) ?_
          assumption) fun h19 => ?_
        refine State.Inv.cut v16 (by
          unfold v16
          refine State.Inv.of_frame State.charge_frame (by decide) ?_
          refine State.Inv.of_frame State.bump_frame (by decide) ?_
          assumption) fun h20 => ?_
        clear_value v11 v13 v14 v15 v16
        refine State.Inv.of_frame State.complete_frame (by decide) ?_
        assumption

theorem State.evict_inv {s : State} {m : Model} (hs : s.Inv) : State.Inv (State.evict s m) := by
  unfold State.evict
  extract_lets -merge v1
  refine State.Inv.cut v1 (by
    unfold v1
    refine State.freeExtents_inv ?_
    refine State.zeroSet_inv ?_
    refine State.stopPromotion_inv ?_
    assumption) fun h2 => ?_
  clear_value v1
  refine ⟨h2.dram, h2.plate, h2.acc, h2.stage, h2.season, h2.osc, h2.pendingCfg, h2.ticks, h2.capSteps, h2.capNow, h2.scrub, h2.rollback, h2.policyRegs, h2.policy, h2.order, h2.logRate, h2.interval, h2.queue⟩

theorem execModelEvict_inv {ring seq : Nat} {s : State} {t : State} (h : execModelEvict ring seq s = .next t) (hs : s.Inv) : t.Inv := by
  unfold execModelEvict at h
  have h := Host.Outcome.next.inj h
  subst h
  split
  · assumption
  · refine State.Inv.ite (fun _ => ?_) (fun _ => ?_)
    · assumption
    · split
      · refine State.Inv.of_frame State.complete_frame (by decide) ?_
        assumption
      · refine State.Inv.ite (fun _ => ?_) (fun _ => ?_)
        · refine State.Inv.of_frame State.complete_frame (by decide) ?_
          assumption
        · refine State.Inv.of_frame State.complete_frame (by decide) ?_
          refine State.evict_inv ?_
          assumption

theorem execSessionClose_inv {ring seq : Nat} {s : State} {t : State} (h : execSessionClose ring seq s = .next t) (hs : s.Inv) : t.Inv := by
  unfold execSessionClose at h
  have h := Host.Outcome.next.inj h
  subst h
  split
  · assumption
  · refine State.Inv.ite (fun _ => ?_) (fun _ => ?_)
    · assumption
    · refine State.Inv.ite (fun _ => ?_) (fun _ => ?_)
      · refine State.Inv.of_frame State.complete_frame (by decide) ?_
        assumption
      · extract_lets -merge v1 v2 v3 v4 v5 v6
        refine State.Inv.cut v1 (by
          unfold v1
          refine State.Inv.foldl ?_ (fun t8 a9 h10 => ?_)
          · assumption
          · refine State.evict_inv ?_
            assumption) fun h7 => ?_
        refine State.Inv.cut v2 (by
          unfold v2
          refine State.Inv.of_frame writeSessionRecord_frame (by decide) ?_
          assumption) fun h11 => ?_
        refine State.Inv.cut v3 (by
          unfold v3
          refine State.Inv.of_frame writeReceipt_frame (by decide) ?_
          assumption) fun h12 => ?_
        refine State.Inv.cut v5 (by
          unfold v5
          refine ⟨h12.dram, h12.plate, h12.acc, h12.stage, h12.season, h12.osc, h12.pendingCfg, h12.ticks, h12.capSteps, h12.capNow, h12.scrub, h12.rollback, h12.policyRegs, h12.policy, h12.order, h12.logRate, h12.interval, h12.queue⟩) fun h13 => ?_
        clear_value v1 v2 v3 v5
        refine State.Inv.of_frame State.complete_frame (by decide) ?_
        refine State.Inv.of_frame State.setRing_frame (by decide) ?_
        assumption

theorem State.addModel_inv {s : State} {sess cls : Nat} {image : List Byte} {r : State × Model}
    (h : s.addModel sess image cls = some r) (hs : s.Inv) : r.1.Inv := by
  unfold State.addModel at h
  split at h
  · rw [← Option.some.inj h]
    refine State.Inv.fst (State.Inv.of_frame State.setModel_frame (by decide) ?_)
    exact ⟨hs.dram, hs.plate, hs.acc, hs.stage, hs.season, hs.osc, hs.pendingCfg, hs.ticks, hs.capSteps, hs.capNow, hs.scrub, hs.rollback, hs.policyRegs, hs.policy, hs.order, hs.logRate, hs.interval, hs.queue⟩
  · cases h

theorem State.loadClassed_inv {s : State} {ring : Nat} {d : Desc} {image : List Byte} {cls : Nat} (hs : s.Inv) : State.Inv (State.loadClassed s ring d image cls) := by
  unfold State.loadClassed
  extract_lets -merge v1 v2
  clear_value v1 v2
  split
  · rename_i y3 y4
    refine State.Inv.of_frame State.complete_frame (by decide) ?_
    assumption
  · rename_i y5 y6 y7 y8
    refine State.Inv.cut y6 (by
      refine State.addModel_inv y8 ?_
      assumption) fun h9 => ?_
    refine State.Inv.ite (fun _ => ?_) (fun _ => ?_)
    · split
      · rename_i y10 y11 y12
        refine State.Inv.cut y11 (by
          refine State.startPromotion_inv y12 ?_
          assumption) fun h13 => ?_
        refine State.Inv.of_frame State.modDesc_frame (by decide) ?_
        assumption
      · rename_i y14 y15
        refine State.Inv.of_frame finishLoad_frame (by decide) ?_
        refine State.Inv.of_frame State.setModel_frame (by decide) ?_
        assumption
    · refine State.Inv.of_frame finishLoad_frame (by decide) ?_
      assumption

theorem execModelLoad_inv {ring seq : Nat} {list image : List Byte} {s : State} {t : State} (h : execModelLoad ring seq list image s = .next t) (hs : s.Inv) : t.Inv := by
  unfold execModelLoad at h
  have h := Host.Outcome.next.inj h
  subst h
  split
  · assumption
  · refine State.Inv.ite (fun _ => ?_) (fun _ => ?_)
    · assumption
    · extract_lets -merge v1 v2 v3 v4 v5 v6 v7
      refine State.Inv.cut v4 (by
        unfold v4
        refine State.Inv.of_frame State.charge_frame (by decide) ?_
        refine State.Inv.of_frame State.bump_frame (by decide) ?_
        assumption) fun h8 => ?_
      refine State.Inv.cut v7 (by
        unfold v7
        refine State.Inv.of_frame State.charge_frame (by decide) ?_
        refine State.Inv.of_frame State.bump_frame (by decide) ?_
        refine State.Inv.of_frame State.bump_frame (by decide) ?_
        assumption) fun h9 => ?_
      clear_value v1 v2 v4 v5 v7
      split
      · refine State.Inv.of_frame State.complete_frame (by decide) ?_
        assumption
      · split
        · refine State.Inv.of_frame State.complete_frame (by decide) ?_
          assumption
        · split
          · refine State.Inv.of_frame State.complete_frame (by decide) ?_
            refine State.Inv.of_frame State.bump_frame (by decide) ?_
            assumption
          · split
            · refine State.Inv.of_frame State.complete_frame (by decide) ?_
              assumption
            · refine State.loadClassed_inv ?_
              assumption

end Sys2Proof.Machine
end

