-- ==== Sys2Proof/Laws/InvStreams.lean ====
section
/-! SUPPORT. The invariant: each operation keeps the invariant, for streams, aborts, links, strokes, cores and repairs. -/

namespace Sys2Proof.Machine

open Sys2Proof

theorem State.openAt_inv {s : State} {ring : Nat} {a : Ask} {p : Place} {x : Stream} (hs : s.Inv) : State.Inv (State.openAt s ring a p x) := by
  unfold State.openAt
  extract_lets -merge v1 v2 v3 v4
  refine State.Inv.cut v1 (by
    unfold v1
    split
    · refine State.Inv.of_frame State.setSession_frame (by decide) ?_
      assumption
    · assumption) fun h5 => ?_
  refine State.Inv.cut v2 (by
    unfold v2
    refine State.Inv.of_frame State.bump_frame (by decide) ?_
    refine State.commitPlace_inv ?_
    assumption) fun h6 => ?_
  refine State.Inv.cut v3 (by
    unfold v3
    split
    · refine State.Inv.of_frame State.setModel_frame (by decide) ?_
      assumption
    · assumption) fun h7 => ?_
  clear_value v1 v2 v3
  refine State.Inv.ite (fun _ => ?_) (fun _ => ?_)
  · refine State.Inv.of_frame State.setDir_frame (by decide) ?_
    assumption
  · assumption

theorem execStreamOpen_inv {ring seq : Nat} {s : State} {t : State} (h : execStreamOpen ring seq s = .next t) (hs : s.Inv) : t.Inv := by
  unfold execStreamOpen at h
  have h := Host.Outcome.next.inj h
  subst h
  split
  · assumption
  · refine State.Inv.ite (fun _ => ?_) (fun _ => ?_)
    · assumption
    · refine State.Inv.ite (fun _ => ?_) (fun _ => ?_)
      · refine State.Inv.of_frame State.modDesc_frame (by decide) ?_
        assumption
      · refine State.Inv.ite (fun _ => ?_) (fun _ => ?_)
        · refine State.Inv.of_frame State.complete_frame (by decide) ?_
          refine State.Inv.of_frame State.dropSlot_frame (by decide) ?_
          assumption
        · refine State.Inv.ite (fun _ => ?_) (fun _ => ?_)
          · refine State.Inv.of_frame State.complete_frame (by decide) ?_
            refine State.Inv.of_frame State.dropSlot_frame (by decide) ?_
            assumption
          · extract_lets -merge v1 v2
            clear_value v2
            split
            · extract_lets -merge v3
              refine State.Inv.of_frame State.complete_frame (by decide) ?_
              refine State.openAt_inv ?_
              assumption
            · refine State.Inv.of_frame State.complete_frame (by decide) ?_
              refine State.writeTrace_inv ?_
              refine State.Inv.of_frame State.bump_frame (by decide) ?_
              refine State.Inv.of_frame State.dropSlot_frame (by decide) ?_
              assumption
            · refine State.Inv.of_frame State.complete_frame (by decide) ?_
              refine State.Inv.of_frame State.dropSlot_frame (by decide) ?_
              assumption

theorem execStreamClose_inv {ring seq : Nat} {s : State} {t : State} (h : execStreamClose ring seq s = .next t) (hs : s.Inv) : t.Inv := by
  unfold execStreamClose at h
  have h := Host.Outcome.next.inj h
  subst h
  split
  · assumption
  · split
    · assumption
    · refine State.Inv.ite (fun _ => ?_) (fun _ => ?_)
      · extract_lets -merge v1 v2
        refine State.Inv.cut v1 (by
          unfold v1
          refine State.Inv.foldl ?_ (fun t4 a5 h6 => ?_)
          · assumption
          · refine State.Inv.of_frame closePush_frame (by decide) ?_
            assumption) fun h3 => ?_
        refine State.Inv.cut v2 (by
          unfold v2
          split
          · refine State.Inv.of_frame State.setModel_frame (by decide) ?_
            assumption
          · assumption) fun h7 => ?_
        clear_value v1 v2
        refine State.Inv.of_frame State.complete_frame (by decide) ?_
        refine State.Inv.of_frame State.eraseStream_frame (by decide) ?_
        refine State.releaseStream_inv ?_
        assumption
      · assumption

theorem State.dropArrival_inv {s : State} {t : Transfer} (hs : s.Inv) : State.Inv (State.dropArrival s t) := by
  unfold State.dropArrival
  refine State.Inv.ite (fun _ => ?_) (fun _ => ?_)
  · assumption
  · split
    · refine State.Inv.ite (fun _ => ?_) (fun _ => ?_)
      · refine State.Inv.of_frame State.eraseStream_frame (by decide) ?_
        refine State.releaseStream_inv ?_
        assumption
      · assumption
    · assumption

theorem abortTransfer_inv {ring : Nat} {d : Desc} {s : State} (hs : s.Inv) : State.Inv (abortTransfer ring d s) := by
  unfold abortTransfer
  extract_lets -merge v1
  refine State.Inv.cut v1 (by
    unfold v1
    split
    · extract_lets -merge v3 v4
      refine State.Inv.cut v3 (by
        unfold v3
        refine State.Inv.of_frame State.dropTransfer_frame (by decide) ?_
        refine State.dropArrival_inv ?_
        assumption) fun h5 => ?_
      refine State.Inv.cut v4 (by
        unfold v4
        refine State.Inv.of_frame State.send_frame (by decide) ?_
        assumption) fun h6 => ?_
      clear_value v3 v4
      split
      · refine State.Inv.ite (fun _ => ?_) (fun _ => ?_)
        · refine State.Inv.of_frame State.setStream_frame (by decide) ?_
          assumption
        · assumption
      · assumption
    · split
      · refine State.Inv.ite (fun _ => ?_) (fun _ => ?_)
        · refine State.Inv.of_frame State.setStream_frame (by decide) ?_
          assumption
        · assumption
      · assumption) fun h2 => ?_
  clear_value v1
  refine State.Inv.of_frame State.complete_frame (by decide) ?_
  assumption

theorem abortLoad_inv {ring : Nat} {d : Desc} {s : State} (hs : s.Inv) : State.Inv (abortLoad ring d s) := by
  unfold abortLoad
  refine State.Inv.ite (fun _ => ?_) (fun _ => ?_)
  · extract_lets -merge v1
    refine State.Inv.cut v1 (by
      unfold v1
      split
      · refine State.evict_inv ?_
        assumption
      · assumption) fun h2 => ?_
    clear_value v1
    refine State.Inv.of_frame State.complete_frame (by decide) ?_
    assumption
  · refine State.Inv.of_frame State.complete_frame (by decide) ?_
    assumption

theorem abortAdapt_inv {ring : Nat} {d : Desc} {s : State} (hs : s.Inv) : State.Inv (abortAdapt ring d s) := by
  unfold abortAdapt
  split
  · refine State.Inv.of_frame State.complete_frame (by decide) ?_
    refine State.endJob_inv ?_
    assumption
  · refine State.Inv.of_frame State.complete_frame (by decide) ?_
    assumption

theorem stopTarget_inv {ring : Nat} {t : Desc} {s : State} (hs : s.Inv) : State.Inv (stopTarget ring t s) := by
  unfold stopTarget
  split
  · refine State.Inv.of_frame abortPush_frame (by decide) ?_
    assumption
  · refine State.Inv.of_frame abortPull_frame (by decide) ?_
    assumption
  · refine abortLoad_inv ?_
    assumption
  · refine State.Inv.of_frame State.complete_frame (by decide) ?_
    refine State.Inv.of_frame State.dropSlot_frame (by decide) ?_
    assumption
  · refine abortAdapt_inv ?_
    assumption
  · refine abortTransfer_inv ?_
    assumption
  · refine abortTransfer_inv ?_
    assumption
  · refine State.Inv.of_frame State.complete_frame (by decide) ?_
    assumption

theorem observeAbort_inv {ring : Nat} {d : Desc} {s : State} (hs : s.Inv) : State.Inv (observeAbort ring d s) := by
  unfold observeAbort
  extract_lets -merge v1
  have h_v1 : ∀ x2 x3 x4, State.Inv x4 → State.Inv (v1 x2 x3 x4) := by
    intro x2 x3 x4 h5
    unfold v1
    refine State.Inv.of_frame State.modDesc_frame (by decide) ?_
    assumption
  clear_value v1
  split
  · refine State.Inv.of_frame finishAbort_frame (by decide) ?_
    assumption
  · refine State.Inv.ite (fun _ => ?_) (fun _ => ?_)
    · refine State.Inv.of_frame finishAbort_frame (by decide) ?_
      assumption
    · refine State.Inv.ite (fun _ => ?_) (fun _ => ?_)
      · refine State.Inv.of_frame finishAbort_frame (by decide) ?_
        assumption
      · split
        · refine State.Inv.of_frame finishAbort_frame (by decide) ?_
          assumption
        · refine State.Inv.ite (fun _ => ?_) (fun _ => ?_)
          · refine h_v1 _ _ _ ?_
            assumption
          · extract_lets -merge v6
            refine State.Inv.cut v6 (by
              unfold v6
              refine stopTarget_inv ?_
              assumption) fun h7 => ?_
            clear_value v6
            refine State.Inv.ite (fun _ => ?_) (fun _ => ?_)
            · refine State.Inv.of_frame finishAbort_frame (by decide) ?_
              assumption
            · refine h_v1 _ _ _ ?_
              assumption

theorem execAbort_inv {ring seq : Nat} {s : State} {t : State} (h : execAbort ring seq s = .next t) (hs : s.Inv) : t.Inv := by
  unfold execAbort at h
  have h := Host.Outcome.next.inj h
  subst h
  split
  · assumption
  · refine State.Inv.ite (fun _ => ?_) (fun _ => ?_)
    · assumption
    · refine State.Inv.ite (fun _ => ?_) (fun _ => ?_)
      · refine observeAbort_inv ?_
        assumption
      · refine State.Inv.ite (fun _ => ?_) (fun _ => ?_)
        · refine State.Inv.of_frame finishAbort_frame (by decide) ?_
          assumption
        · assumption

theorem updateHostPath_inv {port : Nat} {s : State} (hs : s.Inv) : State.Inv (updateHostPath port s) := by
  have h1 : State.Inv { s with cap := { s.cap with hostPath := s.hostPath } } :=
    ⟨hs.dram, hs.plate, hs.acc, hs.stage, hs.season, hs.osc, hs.pendingCfg, hs.ticks, hs.capSteps, hs.capNow, hs.scrub, hs.rollback, hs.policyRegs, hs.policy, hs.order, hs.logRate, hs.interval, hs.queue⟩
  unfold updateHostPath
  refine State.Inv.ite (fun _ => ?_) (fun _ => hs)
  dsimp only
  split
  · exact h1
  · exact State.raiseAlarm_inv h1

theorem execRamokLinkTrain_inv {port lanes gen : Nat} {adapterReset : Bool} {s : State} {t : State} (h : execRamokLinkTrain port lanes gen adapterReset s = .next t) (hs : s.Inv) : t.Inv := by
  unfold execRamokLinkTrain at h
  have h := Host.Outcome.next.inj h
  subst h
  refine State.Inv.ite (fun _ => ?_) (fun _ => ?_)
  · assumption
  · refine State.Inv.ite (fun _ => ?_) (fun _ => ?_)
    · extract_lets -merge v1
      refine updateHostPath_inv ?_
      refine State.Inv.of_frame State.setPort_frame (by decide) ?_
      assumption
    · refine State.Inv.ite (fun _ => ?_) (fun _ => ?_)
      · assumption
      · extract_lets -merge v2 v3 v4 v5
        refine State.Inv.cut v4 (by
          unfold v4
          refine State.Inv.of_frame State.setPort_frame (by decide) ?_
          assumption) fun h6 => ?_
        refine State.Inv.cut v5 (by
          unfold v5
          refine State.Inv.ite (fun _ => ?_) (fun _ => ?_)
          · refine stopRings_inv ?_
            assumption
          · assumption) fun h7 => ?_
        clear_value v4 v5
        refine updateHostPath_inv ?_
        assumption

theorem execRamokLinkLost_inv {port : Nat} {s : State} {t : State} (h : execRamokLinkLost port s = .next t) (hs : s.Inv) : t.Inv := by
  unfold execRamokLinkLost at h
  have h := Host.Outcome.next.inj h
  subst h
  extract_lets -merge v1
  refine State.Inv.ite (fun _ => ?_) (fun _ => ?_)
  · refine updateHostPath_inv ?_
    refine stopRings_inv ?_
    refine State.Inv.of_frame State.setPort_frame (by decide) ?_
    assumption
  · assumption

theorem State.freeSlots_inv {s : State} {job core : Nat} (hs : s.Inv) : State.Inv (State.freeSlots s job core) := by
  unfold State.freeSlots
  extract_lets -merge v1 v2 v3
  refine State.Inv.cut v2 (by
    unfold v2
    refine State.setCore_inv ?_
    assumption) fun h4 => ?_
  clear_value v2
  refine ⟨h4.dram, h4.plate, ?_, h4.stage, h4.season, h4.osc, h4.pendingCfg, h4.ticks, h4.capSteps, h4.capNow, h4.scrub, h4.rollback, h4.policyRegs, h4.policy, h4.order, h4.logRate, h4.interval, h4.queue⟩
  exact memZeros_wf h4.acc

theorem State.applyEffect_inv {s : State} {j : Job} {core now : Nat} {e : Effect} (hs : s.Inv) :
    State.Inv (s.applyEffect j core now e) := by
  have hp (l : List (Loc × List Byte)) (h : Hatch) (a : Memory.wf h.plate = true) (b : Memory.wf h.acc = true) :
      Memory.wf (l.foldl (storeAt core j.id) h).plate = true ∧ Memory.wf (l.foldl (storeAt core j.id) h).acc = true := by
    induction l generalizing h with
    | nil => exact ⟨a, b⟩
    | cons w l ih =>
      obtain ⟨x, y⟩ := storeAt_wf (core := core) (job := j.id) (w := w) a b
      exact ih _ x y
  have hq (l : List (Nat × Nat × Word)) (h : Hatch) (a : Memory.wf h.plate = true) (b : Memory.wf h.acc = true) :
      Memory.wf (l.foldl (fun h a => h.accStore a.1 j.id (4 * a.2.1) (leBytes 4 a.2.2.toNat)) h).plate = true ∧
        Memory.wf (l.foldl (fun h a => h.accStore a.1 j.id (4 * a.2.1) (leBytes 4 a.2.2.toNat)) h).acc = true := by
    induction l generalizing h with
    | nil => exact ⟨a, b⟩
    | cons w l ih =>
      obtain ⟨x, y⟩ := accStore_wf (core := w.1) (job := j.id) (off := 4 * w.2.1) (b := leBytes 4 w.2.2.toNat) a b
      rw [List.foldl_cons]
      exact ih _ x y
  unfold State.applyEffect
  extract_lets h0 h1 s1 s2 first s3 c
  obtain ⟨p0, a0⟩ := hp e.plate s.hatch hs.plate hs.acc
  obtain ⟨p1, a1⟩ := hq e.acc h0 p0 a0
  have i1 : s1.Inv := ⟨hs.dram, p1, a1, hs.stage, hs.season, hs.osc, hs.pendingCfg, hs.ticks, hs.capSteps, hs.capNow, hs.scrub, hs.rollback, hs.policyRegs, hs.policy, hs.order, hs.logRate, hs.interval, hs.queue⟩
  have i2 : s2.Inv := State.Inv.foldl i1 fun t l ht => State.Inv.of_frame State.modRow_frame (by decide) ht
  have i3 : s3.Inv := State.Inv.foldl i2 fun t l ht => State.Inv.of_frame State.modRow_frame (by decide) ht
  exact State.Inv.ite (fun _ => State.Inv.of_frame State.bump_frame (by decide) (State.setCore_inv i3)) (fun _ => i3)

theorem runOps_inv {j : Job} {core now : Nat} {l : List StrokeOp} {s : State} {r : State × Bool} (h : runOps j core now l s = r)
    (hs : s.Inv) : r.1.Inv := by
  subst h
  induction l generalizing s with
  | nil => exact hs
  | cons op rest ih =>
    unfold runOps
    extract_lets
    split
    · exact ih (State.applyEffect_inv hs)
    · exact hs

theorem execStrokeIssue_inv {field core job stroke : Nat} {s : State} {t : State} (h : execStrokeIssue field core job stroke s = .next t) (hs : s.Inv) : t.Inv := by
  unfold execStrokeIssue at h
  have h := Host.Outcome.next.inj h
  subst h
  split
  · assumption
  · refine State.Inv.ite (fun _ => ?_) (fun _ => ?_)
    · assumption
    · extract_lets -merge v1 v2 v3 v4 v5 v6 v7 v8 v9 v10
      refine State.Inv.cut v4 (by
        unfold v4
        refine State.Inv.of_frame State.bump_frame (by decide) ?_
        assumption) fun h11 => ?_
      refine State.Inv.cut v5 (by
        unfold v5
        refine State.Inv.ite (fun _ => ?_) (fun _ => ?_)
        · refine State.Inv.of_frame State.bump_frame (by decide) ?_
          assumption
        · assumption) fun h12 => ?_
      refine State.Inv.cut v7 (by
        unfold v7
        refine State.Inv.ite (fun _ => ?_) (fun _ => ?_)
        · refine State.Inv.of_frame State.bump_frame (by decide) ?_
          refine ⟨h12.dram, h12.plate, h12.acc, h12.stage, h12.season, h12.osc, h12.pendingCfg, h12.ticks, h12.capSteps, h12.capNow, h12.scrub, h12.rollback, h12.policyRegs, h12.policy, h12.order, h12.logRate, h12.interval, h12.queue⟩
        · assumption) fun h13 => ?_
      refine State.Inv.cut v9 (by
        unfold v9
        refine State.setCore_inv ?_
        assumption) fun h14 => ?_
      clear_value v1 v2 v3 v4 v5 v7 v9 v10
      refine State.Inv.of_frame State.setJob_frame (by decide) ?_
      assumption

theorem State.runWork_inv {s : State} {core now : Nat} {whole : Bool} {r : State × Bool} (h : State.runWork s core now whole = r) (hs : s.Inv) : r.1.Inv := by
  subst h
  unfold State.runWork
  split
  · refine State.Inv.fst ?_
    assumption
  · split
    · refine State.Inv.fst ?_
      assumption
    · extract_lets -merge v1
      clear_value v1
      split
      · refine State.Inv.fst ?_
        assumption
      · split
        · rename_i y2 y3 y4
          refine State.Inv.cut y3 (by
            refine runOps_inv y4 ?_
            assumption) fun h5 => ?_
          refine State.Inv.fst ?_
          refine State.tearDown_inv ?_
          assumption
        · rename_i y6 y7 y8
          refine State.Inv.cut y7 (by
            refine runOps_inv y8 ?_
            assumption) fun h9 => ?_
          extract_lets -merge v10
          refine State.Inv.fst ?_
          refine State.setCore_inv ?_
          assumption

theorem State.endSequence_inv {s : State} {id : Nat} (hs : s.Inv) : State.Inv (State.endSequence s id) := by
  unfold State.endSequence
  split
  · assumption
  · extract_lets -merge v1 v2 v3 v4
    refine State.Inv.cut v3 (by
      unfold v3
      refine State.Inv.ite (fun _ => ?_) (fun _ => ?_)
      · refine State.Inv.foldl ?_ (fun t6 a7 h8 => ?_)
        · assumption
        · refine State.freeSlots_inv ?_
          assumption
      · assumption) fun h5 => ?_
    clear_value v1 v2 v3
    refine State.Inv.of_frame State.setJob_frame (by decide) ?_
    assumption

theorem execSafePoint_inv {core : Nat} {report : StrokeEnd} {s : State} {t : State} (h : execSafePoint core report s = .next t) (hs : s.Inv) : t.Inv := by
  unfold execSafePoint at h
  have h := Host.Outcome.next.inj h
  subst h
  extract_lets -merge v1 v2 v3
  clear_value v2
  split
  · assumption
  · refine State.Inv.ite (fun _ => ?_) (fun _ => ?_)
    · assumption
    · split
      · rename_i y4 y5 y6
        refine State.Inv.cut y5 (by
          refine State.runWork_inv y6 ?_
          assumption) fun h7 => ?_
        assumption
      · rename_i y8 y9 y10
        refine State.Inv.cut y9 (by
          refine State.runWork_inv y10 ?_
          assumption) fun h11 => ?_
        extract_lets -merge v12 v13 v14 v15 v16 v17 v18
        refine State.Inv.cut v16 (by
          unfold v16
          refine State.Inv.of_frame State.bump_frame (by decide) ?_
          refine State.Inv.of_frame State.bump_frame (by decide) ?_
          refine State.Inv.of_frame State.bump_frame (by decide) ?_
          refine State.Inv.of_frame State.bump_frame (by decide) ?_
          refine State.Inv.of_frame State.bump_frame (by decide) ?_
          assumption) fun h19 => ?_
        refine State.Inv.cut v17 (by
          unfold v17
          split
          · refine State.Inv.of_frame State.charge_frame (by decide) ?_
            assumption
          · assumption) fun h20 => ?_
        clear_value v12 v13 v14 v16 v17
        refine State.endSequence_inv ?_
        refine State.setCore_inv ?_
        assumption

theorem State.signal_inv {s : State} {core p : Nat} {ctr : Counter} {n : Nat} (hs : s.Inv) : State.Inv (State.signal s core p ctr n) := by
  unfold State.signal
  split
  · assumption
  · extract_lets -merge v1
    refine State.Inv.ite (fun _ => ?_) (fun _ => ?_)
    · refine State.tearDown_inv ?_
      assumption
    · refine State.setCore_inv ?_
      assumption

theorem execSignal_inv {core pair : Nat} {ctr : Counter} {n target : Nat} {s : State} {t : State} (h : execSignal core pair ctr n target s = .next t) (hs : s.Inv) : t.Inv := by
  unfold execSignal at h
  have h := Host.Outcome.next.inj h
  subst h
  extract_lets -merge v1
  split
  · assumption
  · split
    · assumption
    · refine State.Inv.ite (fun _ => ?_) (fun _ => ?_)
      · assumption
      · split
        · rename_i y2 y3 y4
          refine State.Inv.cut y3 (by
            refine State.runWork_inv y4 ?_
            assumption) fun h5 => ?_
          assumption
        · rename_i y6 y7 y8
          refine State.Inv.cut y7 (by
            refine State.runWork_inv y8 ?_
            assumption) fun h9 => ?_
          extract_lets -merge v10 v11 v12
          refine State.Inv.cut v11 (by
            unfold v11
            refine State.setCore_inv ?_
            assumption) fun h13 => ?_
          clear_value v11
          refine State.Inv.ite (fun _ => ?_) (fun _ => ?_)
          · refine State.signal_inv ?_
            assumption
          · refine ⟨h13.dram, h13.plate, h13.acc, h13.stage, h13.season, h13.osc, h13.pendingCfg, h13.ticks, h13.capSteps, h13.capNow, h13.scrub, h13.rollback, h13.policyRegs, h13.policy, h13.order, h13.logRate, h13.interval, h13.queue⟩

theorem execRemoteSignal_inv {source target : Nat} {s : State} {t : State} (h : execRemoteSignal source target s = .next t) (hs : s.Inv) : t.Inv := by
  unfold execRemoteSignal at h
  have h := Host.Outcome.next.inj h
  subst h
  split
  · assumption
  · refine State.Inv.ite (fun _ => ?_) (fun _ => ?_)
    · assumption
    · extract_lets -merge v1
      refine State.signal_inv ?_
      refine ⟨hs.dram, hs.plate, hs.acc, hs.stage, hs.season, hs.osc, hs.pendingCfg, hs.ticks, hs.capSteps, hs.capNow, hs.scrub, hs.rollback, hs.policyRegs, hs.policy, hs.order, hs.logRate, hs.interval, hs.queue⟩

theorem execWait_inv {core pair : Nat} {ctr : Counter} {n : Nat} {s : State} {t : State} (h : execWait core pair ctr n s = .next t) (hs : s.Inv) : t.Inv := by
  unfold execWait at h
  have h := Host.Outcome.next.inj h
  subst h
  extract_lets -merge v1
  split
  · assumption
  · split
    · assumption
    · refine State.Inv.ite (fun _ => ?_) (fun _ => ?_)
      · assumption
      · split
        · rename_i y2 y3 y4
          refine State.Inv.cut y3 (by
            refine State.runWork_inv y4 ?_
            assumption) fun h5 => ?_
          assumption
        · rename_i y6 y7 y8
          refine State.Inv.cut y7 (by
            refine State.runWork_inv y8 ?_
            assumption) fun h9 => ?_
          extract_lets -merge v10
          refine State.setCore_inv ?_
          assumption

theorem dropSet_inv {cores : List Nat} {rule : Nat} {s : State} {m : Model} (hs : s.Inv) : State.Inv (dropSet cores rule s m) := by
  unfold dropSet
  refine State.Inv.ite (fun _ => ?_) (fun _ => ?_)
  · assumption
  · split
    · refine State.tearDown_inv ?_
      assumption
    · refine State.tearDown_inv ?_
      assumption
    · refine State.Inv.of_frame State.setModel_frame (by decide) ?_
      refine State.zeroSet_inv ?_
      assumption

theorem State.loseCores_inv {s : State} {cores : List Nat} {rule : Nat} (hs : s.Inv) : State.Inv (State.loseCores s cores rule) := by
  unfold State.loseCores
  extract_lets -merge v1
  refine State.Inv.cut v1 (by
    unfold v1
    refine ⟨hs.dram, hs.plate, hs.acc, hs.stage, hs.season, hs.osc, hs.pendingCfg, hs.ticks, hs.capSteps, hs.capNow, hs.scrub, hs.rollback, hs.policyRegs, hs.policy, hs.order, hs.logRate, hs.interval, hs.queue⟩) fun h2 => ?_
  clear_value v1
  refine State.Inv.foldl ?_ (fun t3 a4 h5 => ?_)
  · assumption
  · refine dropSet_inv ?_
    assumption

theorem State.retireCore_inv {s : State} {c : Nat} (hs : s.Inv) : State.Inv (State.retireCore s c) := by
  unfold State.retireCore
  extract_lets -merge v1 v2 v3 v4 v5 v6 v7 v8 v9
  refine State.Inv.cut v4 (by
    unfold v4
    refine State.setCore_inv ?_
    assumption) fun h10 => ?_
  refine State.Inv.cut v6 (by
    unfold v6
    refine State.setField_inv ?_
    assumption) fun h11 => ?_
  refine State.Inv.cut v9 (by
    unfold v9
    refine ⟨h11.dram, h11.plate, h11.acc, h11.stage, h11.season, h11.osc, h11.pendingCfg, h11.ticks, h11.capSteps, h11.capNow, h11.scrub, h11.rollback, h11.policyRegs, h11.policy, h11.order, h11.logRate, h11.interval, h11.queue⟩) fun h12 => ?_
  clear_value v1 v4 v6 v9
  refine State.raiseAlarm_inv ?_
  refine State.Inv.of_frame State.bump_frame (by decide) ?_
  assumption

theorem State.coreFault_inv {s : State} {c : Nat} (hs : s.Inv) : State.Inv (State.coreFault s c) := by
  unfold State.coreFault
  extract_lets -merge v1 v2 v3 v4 v5 v6
  refine State.Inv.cut v4 (by
    unfold v4
    refine State.setCore_inv ?_
    assumption) fun h7 => ?_
  refine State.Inv.cut v5 (by
    unfold v5
    refine State.Inv.foldl ?_ (fun t9 a10 h11 => ?_)
    · assumption
    · refine State.tearDown_inv ?_
      assumption) fun h8 => ?_
  refine State.Inv.cut v6 (by
    unfold v6
    refine State.Inv.foldl ?_ (fun t13 a14 h15 => ?_)
    · assumption
    · refine State.tearDown_inv ?_
      assumption) fun h12 => ?_
  clear_value v1 v2 v4 v5 v6
  refine State.Inv.ite (fun _ => ?_) (fun _ => ?_)
  · refine State.retireCore_inv ?_
    refine State.loseCores_inv ?_
    assumption
  · assumption

theorem State.pathFault_inv {s : State} {c : Nat} (hs : s.Inv) : State.Inv (State.pathFault s c) := by
  unfold State.pathFault
  extract_lets -merge v1 v2 v3
  refine State.Inv.cut v2 (by
    unfold v2
    refine State.setCore_inv ?_
    assumption) fun h4 => ?_
  refine State.Inv.cut v3 (by
    unfold v3
    refine State.Inv.foldl ?_ (fun t6 a7 h8 => ?_)
    · assumption
    · refine State.tearDown_inv ?_
      assumption) fun h5 => ?_
  clear_value v2 v3
  refine State.retireCore_inv ?_
  refine State.loseCores_inv ?_
  assumption

theorem execCoreCheckFailure_inv {core : Nat} {unit : CheckUnit} {s : State} {t : State} (h : execCoreCheckFailure core unit s = .next t) (hs : s.Inv) : t.Inv := by
  unfold execCoreCheckFailure at h
  have h := Host.Outcome.next.inj h
  subst h
  refine State.Inv.ite (fun _ => ?_) (fun _ => ?_)
  · extract_lets -merge v1 v2 v3
    refine State.Inv.cut v2 (by
      unfold v2
      refine State.setCore_inv ?_
      assumption) fun h4 => ?_
    refine State.Inv.cut v3 (by
      unfold v3
      refine State.Inv.of_frame State.bump_frame (by decide) ?_
      assumption) fun h5 => ?_
    clear_value v2 v3
    split
    · rename_i y6
      refine State.pathFault_inv ?_
      assumption
    · rename_i y7
      refine State.pathFault_inv ?_
      assumption
    · refine State.coreFault_inv ?_
      assumption
  · assumption

theorem State.moveCore_inv {s : State} {core spare : Nat} (hs : s.Inv) : State.Inv (s.moveCore core spare) := by
  unfold State.moveCore
  extract_lets -merge x y s1 c s2 m h r
  have i : s2.Inv := State.setCore_inv (State.setCore_inv hs)
  exact ⟨i.dram, moveCells_wf (moveCells_wf i.plate), moveCells_wf i.acc, i.stage, i.season, i.osc, i.pendingCfg, i.ticks, i.capSteps, i.capNow, i.scrub, i.rollback, i.policyRegs, i.policy, i.order, i.logRate, i.interval, i.queue⟩

theorem execCoreTakeover_inv {core spare : Nat} {s : State} {t : State} (h : execCoreTakeover core spare s = .next t) (hs : s.Inv) : t.Inv := by
  unfold execCoreTakeover at h
  have h := Host.Outcome.next.inj h
  subst h
  extract_lets -merge v1 v2 v3 v4 v5
  clear_value v2 v3 v4 v5
  refine State.Inv.ite (fun _ => ?_) (fun _ => ?_)
  · refine State.writeLog_inv ?_
    refine State.Inv.of_frame State.bump_frame (by decide) ?_
    refine State.moveCore_inv ?_
    assumption
  · assumption

theorem State.unitSelfTest_inv {s : State} {u : Nat} {passed : Bool} (hs : s.Inv) : State.Inv (State.unitSelfTest s u passed) := by
  unfold State.unitSelfTest
  extract_lets -merge v1 v2 v3
  refine State.Inv.cut v2 (by
    unfold v2
    refine State.Inv.of_frame State.setUnit_frame (by decide) ?_
    assumption) fun h4 => ?_
  clear_value v2
  refine State.Inv.ite (fun _ => ?_) (fun _ => ?_)
  · refine State.Inv.ite (fun _ => ?_) (fun _ => ?_)
    · refine State.Inv.of_frame State.setUnit_frame (by decide) ?_
      assumption
    · refine State.raiseAlarm_inv ?_
      refine ⟨h4.dram, h4.plate, h4.acc, h4.stage, h4.season, h4.osc, h4.pendingCfg, h4.ticks, h4.capSteps, h4.capNow, h4.scrub, h4.rollback, h4.policyRegs, h4.policy, h4.order, h4.logRate, h4.interval, h4.queue⟩
  · assumption

theorem execCoreSelfTest_inv {core : Nat} {passed : Bool} {s : State} {t : State} (h : execCoreSelfTest core passed s = .next t) (hs : s.Inv) : t.Inv := by
  unfold execCoreSelfTest at h
  have h := Host.Outcome.next.inj h
  subst h
  extract_lets -merge v1
  refine State.Inv.ite (fun _ => ?_) (fun _ => ?_)
  · refine State.unitSelfTest_inv ?_
    assumption
  · refine State.Inv.ite (fun _ => ?_) (fun _ => ?_)
    · assumption
    · refine State.Inv.ite (fun _ => ?_) (fun _ => ?_)
      · refine State.writeLog_inv ?_
        refine State.setCore_inv ?_
        assumption
      · refine State.retireCore_inv ?_
        refine State.loseCores_inv ?_
        assumption

theorem State.faultRowOf_inv {s : State} {x : Stream} (hs : s.Inv) : State.Inv (State.faultRowOf s x) := by
  unfold State.faultRowOf
  refine State.Inv.ite (fun _ => ?_) (fun _ => ?_)
  · refine State.tearDown_inv ?_
    assumption
  · refine State.Inv.of_frame State.faultStream_frame (by decide) ?_
    assumption

theorem State.damage_inv {s : State} {m : Model} (hs : s.Inv) : State.Inv (State.damage s m) := by
  unfold State.damage
  extract_lets -merge v1 v2
  refine State.Inv.cut v1 (by
    unfold v1
    refine State.Inv.of_frame State.setModel_frame (by decide) ?_
    assumption) fun h3 => ?_
  refine State.Inv.cut v2 (by
    unfold v2
    refine State.Inv.foldl ?_ (fun t5 a6 h7 => ?_)
    · assumption
    · refine State.tearDown_inv ?_
      assumption) fun h4 => ?_
  clear_value v1 v2
  refine State.Inv.foldl ?_ (fun t8 a9 h10 => ?_)
  · assumption
  · refine State.faultRowOf_inv ?_
    assumption

theorem State.loseWord_inv {s : State} {core : Nat} {w : PlateWord} (hs : s.Inv) : State.Inv (State.loseWord s core w) := by
  unfold State.loseWord
  split
  · refine State.Inv.ite (fun _ => ?_) (fun _ => ?_)
    · assumption
    · refine State.tearDown_inv ?_
      assumption
  · refine State.tearDown_inv ?_
    assumption
  · split
    · refine State.Inv.ite (fun _ => ?_) (fun _ => ?_)
      · refine State.damage_inv ?_
        assumption
      · assumption
    · assumption
  · extract_lets -merge v1
    clear_value v1
    refine State.tearDown_inv ?_
    refine ⟨hs.dram, hs.plate, hs.acc, hs.stage, hs.season, hs.osc, hs.pendingCfg, hs.ticks, hs.capSteps, hs.capNow, hs.scrub, hs.rollback, hs.policyRegs, hs.policy, hs.order, hs.logRate, hs.interval, hs.queue⟩
  · split
    · refine State.tearDown_inv ?_
      refine State.Inv.of_frame State.setStream_frame (by decide) ?_
      assumption
    · assumption
  · refine State.coreFault_inv ?_
    assumption

theorem execPlateUncorrectable_inv {core : Nat} {word : PlateWord} {s : State} {t : State} (h : execPlateUncorrectable core word s = .next t) (hs : s.Inv) : t.Inv := by
  unfold execPlateUncorrectable at h
  have h := Host.Outcome.next.inj h
  subst h
  extract_lets -merge v1
  clear_value v1
  refine State.Inv.ite (fun _ => ?_) (fun _ => ?_)
  · assumption
  · split
    · assumption
    · refine State.loseWord_inv ?_
      refine State.Inv.of_frame State.bump_frame (by decide) ?_
      assumption
    · refine State.loseWord_inv ?_
      refine State.Inv.of_frame State.bump_frame (by decide) ?_
      assumption

theorem execPlateScrub_inv {core : Nat} {corrected : Bool} {s : State} {t : State} (h : execPlateScrub core corrected s = .next t) (hs : s.Inv) : t.Inv := by
  unfold execPlateScrub at h
  have h := Host.Outcome.next.inj h
  subst h
  refine State.Inv.ite (fun _ => ?_) (fun _ => ?_)
  · assumption
  · extract_lets -merge v1 v2
    refine State.Inv.cut v2 (by
      unfold v2
      refine State.setCore_inv ?_
      assumption) fun h3 => ?_
    clear_value v2
    refine State.Inv.ite (fun _ => ?_) (fun _ => ?_)
    · refine State.Inv.of_frame State.bump_frame (by decide) ?_
      assumption
    · assumption

theorem State.setLink_inv {s : State} {l : Nat} {x : MeshLink} (hs : s.Inv) : State.Inv (State.setLink s l x) := by
  unfold State.setLink
  extract_lets -merge v1
  refine ⟨hs.dram, hs.plate, hs.acc, hs.stage, hs.season, hs.osc, hs.pendingCfg, hs.ticks, hs.capSteps, hs.capNow, hs.scrub, hs.rollback, hs.policyRegs, hs.policy, hs.order, hs.logRate, hs.interval, hs.queue⟩

theorem execFlitCrcRetry_inv {link flit : Nat} {s : State} {t : State} (h : execFlitCrcRetry link flit s = .next t) (hs : s.Inv) : t.Inv := by
  unfold execFlitCrcRetry at h
  have h := Host.Outcome.next.inj h
  subst h
  refine State.Inv.ite (fun _ => ?_) (fun _ => ?_)
  · assumption
  · extract_lets -merge v1 v2 v3 v4 v5
    refine State.Inv.cut v5 (by
      unfold v5
      refine State.Inv.of_frame State.bump_frame (by decide) ?_
      refine State.setLink_inv ?_
      assumption) fun h6 => ?_
    clear_value v2 v3 v4 v5
    refine State.Inv.ite (fun _ => ?_) (fun _ => ?_)
    · refine State.Inv.of_frame State.bump_frame (by decide) ?_
      assumption
    · assumption

theorem execMeshLaneHalf_inv {link : Nat} {s : State} {t : State} (h : execMeshLaneHalf link s = .next t) (hs : s.Inv) : t.Inv := by
  unfold execMeshLaneHalf at h
  have h := Host.Outcome.next.inj h
  subst h
  extract_lets -merge v1 v2
  clear_value v2
  refine State.Inv.ite (fun _ => ?_) (fun _ => ?_)
  · refine State.writeLog_inv ?_
    refine State.setLink_inv ?_
    assumption
  · assumption

theorem execFieldOut_inv {field : Nat} {s : State} {t : State} (h : execFieldOut field s = .next t) (hs : s.Inv) : t.Inv := by
  unfold execFieldOut at h
  have h := Host.Outcome.next.inj h
  subst h
  refine State.Inv.ite (fun _ => ?_) (fun _ => ?_)
  · assumption
  · extract_lets -merge v1 v2 v3 v4 v5
    refine State.Inv.cut v2 (by
      unfold v2
      refine State.setField_inv ?_
      assumption) fun h6 => ?_
    refine State.Inv.cut v4 (by
      unfold v4
      refine State.loseCores_inv ?_
      assumption) fun h7 => ?_
    refine State.Inv.cut v5 (by
      unfold v5
      refine State.Inv.foldl ?_ (fun t9 a10 h11 => ?_)
      · assumption
      · refine State.tearDown_inv ?_
        assumption) fun h8 => ?_
    clear_value v2 v3 v4 v5
    refine State.raiseAlarm_inv ?_
    assumption

theorem State.moduleFault_inv {s : State} {cause : Nat} (hs : s.Inv) : State.Inv (State.moduleFault s cause) := by
  unfold State.moduleFault
  extract_lets -merge v1 v2 v3 v4 v5
  refine State.Inv.cut v1 (by
    unfold v1
    refine State.Inv.foldl ?_ (fun t7 a8 h9 => ?_)
    · assumption
    · refine State.Inv.of_frame deadRing_frame (by decide) ?_
      assumption) fun h6 => ?_
  refine State.Inv.cut v5 (by
    unfold v5
    refine ⟨h6.dram, h6.plate, h6.acc, h6.stage, h6.season, h6.osc, h6.pendingCfg, h6.ticks, h6.capSteps, h6.capNow, h6.scrub, h6.rollback, h6.policyRegs, h6.policy, h6.order, h6.logRate, h6.interval, h6.queue⟩) fun h10 => ?_
  clear_value v1 v5
  refine State.enterFaulted_inv ?_
  assumption

theorem execEaselFailover_inv {easel : Nat} {s : State} {t : State} (h : execEaselFailover easel s = .next t) (hs : s.Inv) : t.Inv := by
  unfold execEaselFailover at h
  have h := Host.Outcome.next.inj h
  subst h
  refine State.Inv.ite (fun _ => ?_) (fun _ => ?_)
  · assumption
  · extract_lets -merge v1 v2 v3 v4 v5
    refine State.Inv.cut v3 (by
      unfold v3
      refine ⟨hs.dram, hs.plate, hs.acc, hs.stage, hs.season, hs.osc, hs.pendingCfg, hs.ticks, hs.capSteps, hs.capNow, hs.scrub, hs.rollback, hs.policyRegs, hs.policy, hs.order, hs.logRate, hs.interval, hs.queue⟩) fun h6 => ?_
    clear_value v1 v3 v4
    refine State.Inv.ite (fun _ => ?_) (fun _ => ?_)
    · refine State.moduleFault_inv ?_
      assumption
    · refine State.Inv.ite (fun _ => ?_) (fun _ => ?_)
      · refine State.moduleFault_inv ?_
        assumption
      · refine State.raiseAlarm_inv ?_
        refine ⟨h6.dram, h6.plate, h6.acc, h6.stage, h6.season, h6.osc, h6.pendingCfg, h6.ticks, h6.capSteps, h6.capNow, h6.scrub, h6.rollback, h6.policyRegs, h6.policy, h6.order, h6.logRate, h6.interval, h6.queue⟩

theorem execModuleFault_inv {cause : Nat} {s : State} {t : State} (h : execModuleFault cause s = .next t) (hs : s.Inv) : t.Inv := by
  unfold execModuleFault at h
  have h := Host.Outcome.next.inj h
  subst h
  refine State.Inv.ite (fun _ => ?_) (fun _ => ?_)
  · refine State.moduleFault_inv ?_
    assumption
  · assumption

theorem execSupplyWarning_inv {volts : Nat} {s : State} {t : State} (h : execSupplyWarning volts s = .next t) (hs : s.Inv) : t.Inv := by
  unfold execSupplyWarning at h
  have h := atBusbar_next h
  subst h
  refine State.Inv.ite (fun _ => ?_) (fun _ => ?_)
  · assumption
  · refine State.Inv.ite (fun _ => ?_) (fun _ => ?_)
    · extract_lets -merge v1
      refine ⟨hs.dram, hs.plate, hs.acc, hs.stage, hs.season, hs.osc, hs.pendingCfg, hs.ticks, hs.capSteps, hs.capNow, hs.scrub, hs.rollback, hs.policyRegs, hs.policy, hs.order, hs.logRate, hs.interval, hs.queue⟩
    · extract_lets -merge v2 v3 v4 v5 v6 v7 v8 v9
      refine State.Inv.cut v6 (by
        unfold v6
        refine ⟨hs.dram, hs.plate, hs.acc, hs.stage, hs.season, hs.osc, hs.pendingCfg, hs.ticks, hs.capSteps, hs.capNow, hs.scrub, hs.rollback, hs.policyRegs, hs.policy, hs.order, hs.logRate, hs.interval, hs.queue⟩) fun h10 => ?_
      refine State.Inv.cut v8 (by
        unfold v8
        refine ⟨h10.dram, h10.plate, h10.acc, h10.stage, h10.season, h10.osc, h10.pendingCfg, h10.ticks, h10.capSteps, h10.capNow, h10.scrub, h10.rollback, h10.policyRegs, h10.policy, h10.order, h10.logRate, h10.interval, h10.queue⟩) fun h11 => ?_
      clear_value v2 v3 v6 v8 v9
      refine State.Inv.ite (fun _ => ?_) (fun _ => ?_)
      · refine State.raiseAlarm_inv ?_
        refine State.Inv.foldl ?_ (fun t12 a13 h14 => ?_)
        · refine State.Inv.of_frame State.bump_frame (by decide) ?_
          assumption
        · refine State.Inv.of_frame State.requestFrost_frame (by decide) ?_
          assumption
      · assumption

end Sys2Proof.Machine
end

