-- ==== Sys2Proof/Laws/InvEngines.lean ====
section
/-! SUPPORT. The invariant: each operation keeps the invariant, for engines, DRAM, Frost and Thaw, and Burin. -/

namespace Sys2Proof.Machine

open Sys2Proof

theorem State.takeWait_inv {s : State} {j : Job} {core : Nat} {eng : Engine} {e : Entry} (hs : s.Inv) : State.Inv (State.takeWait s j core eng e) := by
  unfold State.takeWait
  refine State.Inv.ite (fun _ => ?_) (fun _ => ?_)
  · extract_lets -merge v1 v2
    clear_value v1
    refine State.setCore_inv ?_
    assumption
  · assumption

theorem State.scratchStore_inv {s : State} {j : Job} {off : Nat} {b : List Byte} (hs : s.Inv) :
    State.Inv (s.scratchStore j off b) := by
  unfold State.scratchStore
  extract_lets put
  have hp (l : List Nat) (m : List Host.Cell) (hm : Memory.wf m = true) : Memory.wf (l.foldl put m) = true := by
    induction l generalizing m with
    | nil => exact hm
    | cons i l ih => exact ih _ (memWrite_wf hm)
  exact ⟨hp _ _ hs.dram, hs.plate, hs.acc, hs.stage, hs.season, hs.osc, hs.pendingCfg, hs.ticks, hs.capSteps, hs.capNow, hs.scrub, hs.rollback, hs.policyRegs, hs.policy, hs.order, hs.logRate, hs.interval, hs.queue⟩

theorem State.spaceStore_inv {s : State} {j : Job} {core space handle off : Nat} {b : List Byte} (hs : s.Inv) : State.Inv (State.spaceStore s j core space handle off b) := by
  unfold State.spaceStore
  split
  · extract_lets -merge v1
    refine ⟨hs.dram, ?_, hs.acc, hs.stage, hs.season, hs.osc, hs.pendingCfg, hs.ticks, hs.capSteps, hs.capNow, hs.scrub, hs.rollback, hs.policyRegs, hs.policy, hs.order, hs.logRate, hs.interval, hs.queue⟩
    exact memStore_wf hs.plate
  · extract_lets -merge v2
    refine ⟨hs.dram, ?_, hs.acc, hs.stage, hs.season, hs.osc, hs.pendingCfg, hs.ticks, hs.capSteps, hs.capNow, hs.scrub, hs.rollback, hs.policyRegs, hs.policy, hs.order, hs.logRate, hs.interval, hs.queue⟩
    exact memStore_wf hs.plate
  · refine State.Inv.ite (fun _ => ?_) (fun _ => ?_)
    · refine State.scratchStore_inv ?_
      assumption
    · refine State.Inv.of_frame State.setJob_frame (by decide) ?_
      assumption
  · assumption

theorem State.launch_inv {s : State} {j : Job} {t : Xfer} (hs : s.Inv) : State.Inv (State.launch s j t) := by
  unfold State.launch
  extract_lets -merge v1 v2 v3 v4 v5 v6 v7 v8
  have h_v1 : ∀ x9 x10, State.Inv x9 → State.Inv (v1 x9 x10) := by
    intro x9 x10 h11
    unfold v1
    extract_lets -merge v12 v13
    refine State.setCore_inv ?_
    assumption
  refine State.Inv.cut v5 (by
    unfold v5
    refine State.Inv.of_frame State.setJob_frame (by decide) ?_
    assumption) fun h14 => ?_
  refine State.Inv.cut v7 (by
    unfold v7
    refine h_v1 _ _ ?_
    assumption) fun h15 => ?_
  clear_value v1 v2 v3 v4 v5 v7
  refine State.Inv.ite (fun _ => ?_) (fun _ => ?_)
  · refine State.Inv.of_frame State.sendRead_frame (by decide) ?_
    refine h_v1 _ _ ?_
    assumption
  · split
    · refine ⟨h15.dram, h15.plate, h15.acc, h15.stage, h15.season, h15.osc, h15.pendingCfg, h15.ticks, h15.capSteps, h15.capNow, h15.scrub, h15.rollback, h15.policyRegs, h15.policy, h15.order, h15.logRate, h15.interval, h15.queue⟩
    · refine h_v1 _ _ ?_
      assumption

theorem State.setWalk_inv {s : State} {id core : Nat} {eng : Engine} {stroke : Nat} {w : Nat × Nat × Nat} (hs : s.Inv) : State.Inv (State.setWalk s id core eng stroke w) := by
  unfold State.setWalk
  extract_lets -merge v1 v2 v3
  refine State.Inv.cut v3 (by
    unfold v3
    refine State.setCore_inv ?_
    assumption) fun h4 => ?_
  clear_value v3
  split
  · refine State.Inv.of_frame State.setJob_frame (by decide) ?_
    assumption
  · assumption

theorem State.stall_inv {s : State} {id core : Nat} {eng : Engine} {stroke : Nat} (hs : s.Inv) : State.Inv (State.stall s id core eng stroke) := by
  unfold State.stall
  extract_lets -merge v1 v2 v3
  clear_value v3
  refine State.setCore_inv ?_
  assumption

theorem engineSignal_inv {core : Nat} {ctr : Counter} {sig : Option LinkSig} {s : State} (hs : s.Inv) : State.Inv (engineSignal core ctr sig s) := by
  unfold engineSignal
  split
  · assumption
  · refine State.Inv.ite (fun _ => ?_) (fun _ => ?_)
    · refine State.signal_inv ?_
      assumption
    · extract_lets -merge v1
      refine ⟨hs.dram, hs.plate, hs.acc, hs.stage, hs.season, hs.osc, hs.pendingCfg, hs.ticks, hs.capSteps, hs.capNow, hs.scrub, hs.rollback, hs.policyRegs, hs.policy, hs.order, hs.logRate, hs.interval, hs.queue⟩

theorem State.sendReleases_inv {s : State} {core : Nat} {eng : Engine} (hs : s.Inv) : State.Inv (State.sendReleases s core eng) := by
  unfold State.sendReleases
  extract_lets -merge v1 v2 v3 v4
  refine State.Inv.cut v4 (by
    unfold v4
    refine State.setCore_inv ?_
    assumption) fun h5 => ?_
  clear_value v3 v4
  refine State.Inv.foldl ?_ (fun t6 a7 h8 => ?_)
  · assumption
  · refine engineSignal_inv ?_
    assumption

theorem issueXfer_inv {j : Job} {core : Nat} {eng : Engine} {stroke : Nat} {w : Nat × Nat × Nat} {list : List Item} {n : Item} {s : State} (hs : s.Inv) : State.Inv (issueXfer j core eng stroke w list n s) := by
  unfold issueXfer
  extract_lets -merge v1 v2 v3 v4 v5 v6 v7
  refine State.Inv.cut v5 (by
    unfold v5
    refine State.setCore_inv ?_
    assumption) fun h8 => ?_
  refine State.Inv.cut v6 (by
    unfold v6
    refine State.setWalk_inv ?_
    assumption) fun h9 => ?_
  clear_value v1 v5 v6 v7
  split
  · refine State.Inv.of_frame State.countXfer_frame (by decide) ?_
    refine State.sendReleases_inv ?_
    refine State.launch_inv ?_
    assumption
  · assumption

theorem execEngineEntryIssue_inv {core : Nat} {engine : Engine} {job stroke entry part : Nat} {s : State} {t : State} (h : execEngineEntryIssue core engine job stroke entry part s = .next t) (hs : s.Inv) : t.Inv := by
  unfold execEngineEntryIssue at h
  have h := Host.Outcome.next.inj h
  subst h
  split
  · assumption
  · refine State.Inv.ite (fun _ => ?_) (fun _ => ?_)
    · assumption
    · extract_lets -merge v1 v2 v3 v4
      refine State.Inv.cut v4 (by
        unfold v4
        refine State.stall_inv ?_
        assumption) fun h5 => ?_
      clear_value v2 v3 v4
      split
      · assumption
      · extract_lets -merge v6 v7 v8 v9 v10 v11 v12
        refine State.Inv.cut v8 (by
          unfold v8
          refine State.takeWait_inv ?_
          assumption) fun h13 => ?_
        refine State.Inv.cut v12 (by
          unfold v12
          refine State.setCore_inv ?_
          assumption) fun h14 => ?_
        clear_value v8 v12
        refine State.Inv.ite (fun _ => ?_) (fun _ => ?_)
        · assumption
        · refine State.Inv.ite (fun _ => ?_) (fun _ => ?_)
          · refine issueXfer_inv ?_
            assumption
          · refine State.Inv.ite (fun _ => ?_) (fun _ => ?_)
            · refine State.Inv.ite (fun _ => ?_) (fun _ => ?_)
              · refine State.Inv.of_frame State.bump_frame (by decide) ?_
                assumption
              · assumption
            · refine State.Inv.ite (fun _ => ?_) (fun _ => ?_)
              · refine State.stall_inv ?_
                assumption
              · refine State.Inv.ite (fun _ => ?_) (fun _ => ?_)
                · refine State.tearDown_inv ?_
                  assumption
                · refine State.Inv.ite (fun _ => ?_) (fun _ => ?_)
                  · refine State.sendReleases_inv ?_
                    refine State.setWalk_inv ?_
                    assumption
                  · refine issueXfer_inv ?_
                    assumption

theorem State.sendChain_inv {s : State} {j : Job} {core : Nat} {ps : List ChainPiece} (hs : s.Inv) : State.Inv (State.sendChain s j core ps) := by
  unfold State.sendChain
  split
  · extract_lets -merge v1
    refine State.setCore_inv ?_
    assumption
  · assumption

theorem State.sendSignals_inv {s : State} {core : Nat} {eng : Engine} (hs : s.Inv) : State.Inv (State.sendSignals s core eng) := by
  unfold State.sendSignals
  extract_lets -merge v1 v2 v3 v4
  refine State.Inv.cut v4 (by
    unfold v4
    refine State.setCore_inv ?_
    assumption) fun h5 => ?_
  clear_value v3 v4
  refine State.sendReleases_inv ?_
  refine State.Inv.foldl ?_ (fun t6 a7 h8 => ?_)
  · assumption
  · refine engineSignal_inv ?_
    refine engineSignal_inv ?_
    assumption

theorem State.landBytes_inv {s : State} {core : Nat} {j : Job} {t : Xfer} (hs : s.Inv) : State.Inv (State.landBytes s core j t) := by
  unfold State.landBytes
  extract_lets -merge v1
  refine State.Inv.cut v1 (by
    unfold v1
    refine State.Inv.ite (fun _ => ?_) (fun _ => ?_)
    · assumption
    · refine State.spaceStore_inv ?_
      assumption) fun h2 => ?_
  clear_value v1
  refine State.Inv.ite (fun _ => ?_) (fun _ => ?_)
  · refine State.sendChain_inv ?_
    assumption
  · assumption

theorem State.settle_inv {s : State} {id : Nat} (hs : s.Inv) : State.Inv (State.settle s id) := by
  unfold State.settle
  split
  · assumption
  · refine State.Inv.ite (fun _ => ?_) (fun _ => ?_)
    · assumption
    · split
      · assumption
      · extract_lets -merge v1
        refine State.Inv.cut v1 (by
          unfold v1
          refine State.Inv.foldl ?_ (fun t3 a4 h5 => ?_)
          · assumption
          · refine State.setCore_inv ?_
            assumption) fun h2 => ?_
        clear_value v1
        refine State.Inv.of_frame State.setJob_frame (by decide) ?_
        refine State.setPairs_inv ?_
        assumption

theorem execTransferComplete_inv {core : Nat} {engine : Engine} {s : State} {t : State} (h : execTransferComplete core engine s = .next t) (hs : s.Inv) : t.Inv := by
  unfold execTransferComplete at h
  have h := Host.Outcome.next.inj h
  subst h
  extract_lets -merge v1 v2 v3
  refine State.Inv.cut v3 (by
    unfold v3
    refine State.setCore_inv ?_
    assumption) fun h4 => ?_
  clear_value v3
  split
  · refine State.sendSignals_inv ?_
    assumption
  · split
    · refine State.sendSignals_inv ?_
      assumption
    · refine State.settle_inv ?_
      refine State.sendSignals_inv ?_
      refine State.landBytes_inv ?_
      assumption

theorem State.grant_inv {s : State} {j : Job} {core stroke pos : Nat} {n : Item} {pred : Nat} {r : State × Bool} (h : State.grant s j core stroke pos n pred = r) (hs : s.Inv) : r.1.Inv := by
  subst h
  unfold State.grant
  extract_lets -merge v1 v2 v3 v4 v5 v6 v7 v8 v9
  refine State.Inv.cut v2 (by
    unfold v2
    refine State.takeWait_inv ?_
    assumption) fun h10 => ?_
  refine State.Inv.cut v8 (by
    unfold v8
    refine State.setCore_inv ?_
    assumption) fun h11 => ?_
  clear_value v2 v8
  split
  · refine State.Inv.fst ?_
    refine State.stall_inv ?_
    assumption
  · split
    · refine State.Inv.fst ?_
      refine State.tearDown_inv ?_
      assumption
    · refine State.Inv.fst ?_
      refine State.setCore_inv ?_
      assumption

theorem State.formAgain_inv {s : State} {j : Job} {core pred : Nat} {r : Nat × Nat × Nat} (hs : s.Inv) : State.Inv (State.formAgain s j core pred r) := by
  unfold State.formAgain
  split
  · assumption
  · split
    · rename_i y1 y2 y3
      refine State.Inv.cut y2 (by
        refine State.grant_inv y3 ?_
        assumption) fun h4 => ?_
      assumption
    · rename_i y5 y6 y7
      refine State.Inv.cut y6 (by
        refine State.grant_inv y7 ?_
        assumption) fun h8 => ?_
      split
      · refine State.Inv.of_frame State.setJob_frame (by decide) ?_
        assumption
      · assumption

theorem State.grantHead_inv {s : State} {j : Job} {core stroke pred : Nat} (hs : s.Inv) : State.Inv (State.grantHead s j core stroke pred) := by
  unfold State.grantHead
  extract_lets -merge v1
  clear_value v1
  split
  · assumption
  · refine State.Inv.ite (fun _ => ?_) (fun _ => ?_)
    · assumption
    · split
      · rename_i y2 y3 y4
        refine State.Inv.cut y3 (by
          refine State.grant_inv y4 ?_
          assumption) fun h5 => ?_
        assumption
      · rename_i y6 y7 y8
        refine State.Inv.cut y7 (by
          refine State.grant_inv y8 ?_
          assumption) fun h9 => ?_
        refine State.setWalk_inv ?_
        assumption

theorem execChainGrant_inv {core job stroke entry pred : Nat} {s : State} {t : State} (h : execChainGrant core job stroke entry pred s = .next t) (hs : s.Inv) : t.Inv := by
  unfold execChainGrant at h
  have h := Host.Outcome.next.inj h
  subst h
  split
  · assumption
  · refine State.Inv.ite (fun _ => ?_) (fun _ => ?_)
    · assumption
    · split
      · refine State.Inv.ite (fun _ => ?_) (fun _ => ?_)
        · refine State.formAgain_inv ?_
          assumption
        · assumption
      · refine State.Inv.ite (fun _ => ?_) (fun _ => ?_)
        · refine State.grantHead_inv ?_
          assumption
        · assumption

theorem execChainDataArrival_inv {core : Nat} {s : State} {t : State} (h : execChainDataArrival core s = .next t) (hs : s.Inv) : t.Inv := by
  unfold execChainDataArrival at h
  have h := Host.Outcome.next.inj h
  subst h
  extract_lets -merge v1 v2
  split
  · assumption
  · split
    · refine State.Inv.ite (fun _ => ?_) (fun _ => ?_)
      · refine State.tearDown_inv ?_
        assumption
      · extract_lets -merge v3 v4 v5 v6
        refine State.Inv.cut v4 (by
          unfold v4
          refine State.setCore_inv ?_
          assumption) fun h7 => ?_
        refine State.Inv.cut v5 (by
          unfold v5
          refine State.spaceStore_inv ?_
          assumption) fun h8 => ?_
        refine State.Inv.cut v6 (by
          unfold v6
          refine State.Inv.ite (fun _ => ?_) (fun _ => ?_)
          · refine State.sendChain_inv ?_
            assumption
          · assumption) fun h9 => ?_
        clear_value v4 v5 v6
        refine State.sendReleases_inv ?_
        assumption
    · assumption

theorem execWaitTimeout_inv {core : Nat} {s : State} {t : State} (h : execWaitTimeout core s = .next t) (hs : s.Inv) : t.Inv := by
  unfold execWaitTimeout at h
  have h := Host.Outcome.next.inj h
  subst h
  extract_lets -merge v1 v2
  have h_v2 : ∀ x3, State.Inv x3 → State.Inv (v2 x3) := by
    intro x3 h4
    unfold v2
    refine State.Inv.foldl ?_ (fun t5 a6 h7 => ?_)
    · assumption
    · refine State.tearDown_inv ?_
      assumption
  clear_value v2
  split
  · refine State.Inv.ite (fun _ => ?_) (fun _ => ?_)
    · refine State.tearDown_inv ?_
      assumption
    · refine h_v2 _ ?_
      assumption
  · refine h_v2 _ ?_
    assumption

theorem State.setChan_inv {s : State} {c : Nat} {x : Channel} (hs : s.Inv) : State.Inv (State.setChan s c x) := by
  unfold State.setChan
  extract_lets -merge v1
  refine ⟨hs.dram, hs.plate, hs.acc, hs.stage, hs.season, hs.osc, hs.pendingCfg, hs.ticks, hs.capSteps, hs.capNow, hs.scrub, hs.rollback, hs.policyRegs, hs.policy, hs.order, hs.logRate, hs.interval, hs.queue⟩

theorem State.serve_inv {s : State} {channel : Nat} {t : Xfer} (hs : s.Inv) : State.Inv (State.serve s channel t) := by
  unfold State.serve
  split
  · extract_lets -merge v1
    refine ⟨hs.dram, hs.plate, hs.acc, hs.stage, hs.season, hs.osc, hs.pendingCfg, hs.ticks, hs.capSteps, hs.capNow, hs.scrub, hs.rollback, hs.policyRegs, hs.policy, hs.order, hs.logRate, hs.interval, hs.queue⟩
  · extract_lets -merge v2 v3 v4 v5 v6 v7 v8 v9 v10 v11 v12
    refine State.Inv.cut v2 (by
      unfold v2
      refine State.Inv.ite (fun _ => ?_) (fun _ => ?_)
      · refine State.Inv.of_frame State.bump_frame (by decide) ?_
        assumption
      · assumption) fun h13 => ?_
    refine State.Inv.cut v4 (by
      unfold v4
      refine ⟨h13.dram, h13.plate, h13.acc, h13.stage, h13.season, h13.osc, h13.pendingCfg, h13.ticks, h13.capSteps, h13.capNow, h13.scrub, h13.rollback, h13.policyRegs, h13.policy, h13.order, h13.logRate, h13.interval, h13.queue⟩) fun h14 => ?_
    refine State.Inv.cut v6 (by
      unfold v6
      refine State.Inv.ite (fun _ => ?_) (fun _ => ?_)
      · refine State.Inv.of_frame State.bump_frame (by decide) ?_
        assumption
      · refine State.Inv.of_frame State.bump_frame (by decide) ?_
        refine State.spaceStore_inv ?_
        assumption) fun h15 => ?_
    refine State.Inv.cut v9 (by
      unfold v9
      refine State.setCore_inv ?_
      assumption) fun h16 => ?_
    refine State.Inv.cut v10 (by
      unfold v10
      refine State.sendReleases_inv ?_
      assumption) fun h17 => ?_
    clear_value v2 v4 v5 v6 v9 v10
    refine State.Inv.of_frame State.charge_frame (by decide) ?_
    assumption

theorem State.scrubOne_inv {s : State} {channel : Nat} (hs : s.Inv) : State.Inv (State.scrubOne s channel) := by
  unfold State.scrubOne
  extract_lets -merge v1
  refine State.Inv.ite (fun _ => ?_) (fun _ => ?_)
  · refine State.setChan_inv ?_
    assumption
  · refine State.setChan_inv ?_
    assumption

theorem execDramService_inv {channel : Nat} {s : State} {t : State} (h : execDramService channel s = .next t) (hs : s.Inv) : t.Inv := by
  unfold execDramService at h
  have h := Host.Outcome.next.inj h
  subst h
  split
  · refine State.Inv.ite (fun _ => ?_) (fun _ => ?_)
    · refine State.scrubOne_inv ?_
      assumption
    · refine State.Inv.ite (fun _ => ?_) (fun _ => ?_)
      · refine State.serve_inv ?_
        assumption
      · assumption
  · assumption

theorem State.copyPiece_inv {s : State} {m : Model} {set : List Nat} {job done : Nat} (hs : s.Inv) : State.Inv (State.copyPiece s m set job done) := by
  unfold State.copyPiece
  extract_lets -merge v1 v2 v3 v4 v5 v6 v7 v8
  refine State.Inv.cut v5 (by
    unfold v5
    refine ⟨hs.dram, ?_, hs.acc, hs.stage, hs.season, hs.osc, hs.pendingCfg, hs.ticks, hs.capSteps, hs.capNow, hs.scrub, hs.rollback, hs.policyRegs, hs.policy, hs.order, hs.logRate, hs.interval, hs.queue⟩
    exact memStore_wf hs.plate) fun h9 => ?_
  refine State.Inv.cut v7 (by
    unfold v7
    refine State.Inv.of_frame State.charge_frame (by decide) ?_
    assumption) fun h10 => ?_
  clear_value v1 v2 v3 v5 v7 v8
  refine State.Inv.of_frame State.setModel_frame (by decide) ?_
  assumption

theorem execPromotion_inv {handle : Nat} {s : State} {t : State} (h : execPromotion handle s = .next t) (hs : s.Inv) : t.Inv := by
  unfold execPromotion at h
  have h := Host.Outcome.next.inj h
  subst h
  split
  · assumption
  · split
    · refine State.promote_inv ?_
      assumption
    · refine State.Inv.ite (fun _ => ?_) (fun _ => ?_)
      · refine State.copyPiece_inv ?_
        assumption
      · assumption
    · assumption

theorem execDramCorrectedRead_inv {channel _addr : Nat} {s : State} {t : State} (h : execDramCorrectedRead channel _addr s = .next t) (hs : s.Inv) : t.Inv := by
  unfold execDramCorrectedRead at h
  have h := Host.Outcome.next.inj h
  subst h
  refine State.Inv.ite (fun _ => ?_) (fun _ => ?_)
  · assumption
  · extract_lets -merge v1 v2 v3
    refine State.Inv.cut v3 (by
      unfold v3
      refine State.Inv.of_frame State.bump_frame (by decide) ?_
      refine State.setChan_inv ?_
      assumption) fun h4 => ?_
    clear_value v2 v3
    refine State.Inv.ite (fun _ => ?_) (fun _ => ?_)
    · refine State.raiseAlarm_inv ?_
      assumption
    · assumption

theorem execDramUncorrectableRead_inv {addr : Nat} {s : State} {t : State} (h : execDramUncorrectableRead addr s = .next t) (hs : s.Inv) : t.Inv := by
  unfold execDramUncorrectableRead at h
  have h := Host.Outcome.next.inj h
  subst h
  refine State.Inv.ite (fun _ => ?_) (fun _ => ?_)
  · assumption
  · extract_lets -merge v1 v2 v3
    refine State.Inv.cut v1 (by
      unfold v1
      refine State.Inv.of_frame State.bump_frame (by decide) ?_
      assumption) fun h4 => ?_
    refine State.Inv.cut v3 (by
      unfold v3
      refine ⟨h4.dram, h4.plate, h4.acc, h4.stage, h4.season, h4.osc, h4.pendingCfg, h4.ticks, h4.capSteps, h4.capNow, h4.scrub, h4.rollback, h4.policyRegs, h4.policy, h4.order, h4.logRate, h4.interval, h4.queue⟩) fun h5 => ?_
    clear_value v1 v3
    refine State.Inv.ite (fun _ => ?_) (fun _ => ?_)
    · refine State.moduleFault_inv ?_
      assumption
    · refine State.Inv.ite (fun _ => ?_) (fun _ => ?_)
      · split
        · refine State.faultRowOf_inv ?_
          assumption
        · assumption
      · refine State.Inv.ite (fun _ => ?_) (fun _ => ?_)
        · split
          · refine State.Inv.ite (fun _ => ?_) (fun _ => ?_)
            · refine State.tearDown_inv ?_
              assumption
            · assumption
          · assumption
        · split
          · refine State.Inv.ite (fun _ => ?_) (fun _ => ?_)
            · refine State.tearDown_inv ?_
              assumption
            · split
              · refine State.Inv.ite (fun _ => ?_) (fun _ => ?_)
                · assumption
                · refine State.damage_inv ?_
                  assumption
              · assumption
          · assumption

theorem execDramScrub_inv {channel : Nat} {s : State} {t : State} (h : execDramScrub channel s = .next t) (hs : s.Inv) : t.Inv := by
  unfold execDramScrub at h
  have h := Host.Outcome.next.inj h
  subst h
  refine State.Inv.ite (fun _ => ?_) (fun _ => ?_)
  · refine State.scrubOne_inv ?_
    assumption
  · assumption

theorem execRefresh_inv {channel : Nat} {s : State} {t : State} (h : execRefresh channel s = .next t) (hs : s.Inv) : t.Inv := by
  unfold execRefresh at h
  have h := Host.Outcome.next.inj h
  subst h
  refine State.Inv.ite (fun _ => ?_) (fun _ => ?_)
  · assumption
  · extract_lets -merge v1
    refine State.Inv.ite (fun _ => ?_) (fun _ => ?_)
    · refine State.Inv.of_frame State.bump_frame (by decide) ?_
      refine State.setChan_inv ?_
      assumption
    · refine State.setChan_inv ?_
      assumption

theorem State.noteSlip_inv {s : State} {x : Stream} {lateUs : Nat} (hs : s.Inv) : State.Inv (State.noteSlip s x lateUs) := by
  unfold State.noteSlip
  refine State.writeTrace_inv ?_
  refine State.Inv.of_frame State.bump_frame (by decide) ?_
  assumption

theorem execFrost_inv {job : Nat} {live : List ExtentKey} {s : State} {t : State} (h : execFrost job live s = .next t) (hs : s.Inv) : t.Inv := by
  unfold execFrost at h
  have h := Host.Outcome.next.inj h
  subst h
  split
  · assumption
  · split
    · assumption
    · refine State.Inv.ite (fun _ => ?_) (fun _ => ?_)
      · assumption
      · extract_lets -merge v1 v2 v3 v4 v5 v6 v7 v8 v9
        refine State.Inv.cut v5 (by
          unfold v5
          refine State.Inv.foldl ?_ (fun t11 a12 h13 => ?_)
          · assumption
          · refine State.Inv.of_frame leaveUnit_frame (by decide) ?_
            assumption) fun h10 => ?_
        refine State.Inv.cut v6 (by
          unfold v6
          refine State.releaseCores_inv ?_
          assumption) fun h14 => ?_
        refine State.Inv.cut v7 (by
          unfold v7
          refine State.Inv.of_frame State.setJob_frame (by decide) ?_
          assumption) fun h15 => ?_
        refine State.Inv.cut v9 (by
          unfold v9
          refine State.Inv.of_frame State.charge_frame (by decide) ?_
          assumption) fun h16 => ?_
        clear_value v2 v3 v4 v5 v6 v7 v9
        refine State.writeTrace_inv ?_
        refine State.Inv.of_frame State.bump_frame (by decide) ?_
        refine State.Inv.of_frame State.nextFrost_frame (by decide) ?_
        assumption

theorem State.frostLive_inv {s : State} {m : List Byte} {j : Job} (hs : s.Inv) : State.Inv (State.frostLive s m j) := by
  unfold State.frostLive
  extract_lets -merge v1 v2 v3 v4 v5 v6 v7 v8 v9
  refine State.Inv.cut v3 (by
    unfold v3
    refine State.Inv.foldl ?_ (fun t11 a12 h13 => ?_)
    · assumption
    · extract_lets -merge v14
      refine State.setCore_inv ?_
      assumption) fun h10 => ?_
  refine State.Inv.cut v5 (by
    unfold v5
    refine ⟨h10.dram, h10.plate, h10.acc, h10.stage, h10.season, h10.osc, h10.pendingCfg, h10.ticks, h10.capSteps, h10.capNow, h10.scrub, h10.rollback, h10.policyRegs, h10.policy, h10.order, h10.logRate, h10.interval, h10.queue⟩) fun h15 => ?_
  refine State.Inv.cut v6 (by
    unfold v6
    refine State.Inv.of_frame State.setJob_frame (by decide) ?_
    assumption) fun h16 => ?_
  refine State.Inv.cut v7 (by
    unfold v7
    refine State.Inv.foldl ?_ (fun t18 a19 h20 => ?_)
    · assumption
    · refine State.Inv.of_frame State.setStream_frame (by decide) ?_
      assumption) fun h17 => ?_
  refine State.Inv.cut v8 (by
    unfold v8
    refine State.Inv.foldl ?_ (fun t22 a23 h24 => ?_)
    · assumption
    · refine State.noteSlip_inv ?_
      assumption) fun h21 => ?_
  clear_value v2 v3 v5 v6 v7 v8
  refine State.Inv.of_frame State.bump_frame (by decide) ?_
  refine State.Inv.of_frame State.charge_frame (by decide) ?_
  assumption

theorem execLiveFrost_inv {job : Nat} {s : State} {t : State} (h : execLiveFrost job s = .next t) (hs : s.Inv) : t.Inv := by
  unfold execLiveFrost at h
  have h := Host.Outcome.next.inj h
  subst h
  split
  · split
    · assumption
    · refine State.Inv.ite (fun _ => ?_) (fun _ => ?_)
      · assumption
      · refine State.Inv.ite (fun _ => ?_) (fun _ => ?_)
        · refine State.Inv.ite (fun _ => ?_) (fun _ => ?_)
          · assumption
          · refine State.Inv.of_frame State.nextFrost_frame (by decide) ?_
            refine State.frostLive_inv ?_
            assumption
        · refine State.Inv.ite (fun _ => ?_) (fun _ => ?_)
          · refine State.Inv.of_frame State.bindLive_frame (by decide) ?_
            assumption
          · assumption
  · assumption

theorem unpark_inv {m : List Byte} {j : Job} {s : State} {q : Park} (hs : s.Inv) : State.Inv (unpark m j s q) := by
  unfold unpark
  extract_lets -merge v1 v2 v3 v4 v5 v6 v7
  refine State.Inv.cut v4 (by
    unfold v4
    split
    · refine State.setCore_inv ?_
      assumption
    · assumption) fun h8 => ?_
  clear_value v1 v2 v3 v4
  refine State.Inv.ite (fun _ => ?_) (fun _ => ?_)
  · refine State.spaceStore_inv ?_
    assumption
  · split
    · assumption
    · extract_lets -merge v9 v10 v11
      refine State.Inv.cut v10 (by
        unfold v10
        refine State.setCore_inv ?_
        assumption) fun h12 => ?_
      clear_value v10 v11
      refine State.Inv.of_frame State.readAgain_frame (by decide) ?_
      assumption

theorem restoreParts_inv {j : Job} {l : List (Nat × Loc × Nat)} {b : List Byte} {s : State} (hs : s.Inv) :
    State.Inv (restoreParts j s l b) := by
  induction l generalizing s b with
  | nil => exact hs
  | cons p rest ih =>
    unfold restoreParts
    extract_lets s1
    refine ih (State.Inv.ite (fun _ => ?_) (fun _ => hs))
    obtain ⟨x, y⟩ := storeAt_wf (core := p.1) (job := j.id) (w := (p.2.1, bytesAt b 0 p.2.2)) hs.plate hs.acc
    exact ⟨hs.dram, x, y, hs.stage, hs.season, hs.osc, hs.pendingCfg, hs.ticks, hs.capSteps, hs.capNow, hs.scrub, hs.rollback, hs.policyRegs, hs.policy, hs.order, hs.logRate, hs.interval, hs.queue⟩

theorem restoreExtent_inv {m : List Byte} {j : Job} {all : List (ExtentKey × List Byte)} {s : State} {e : ExtentKey × List Byte} (hs : s.Inv) : State.Inv (restoreExtent m j all s e) := by
  unfold restoreExtent
  refine State.Inv.ite (fun _ => ?_) (fun _ => ?_)
  · assumption
  · refine restoreParts_inv ?_
    assumption

theorem restoreLink_inv {m : List Byte} {j : Job} {a : SaveArea} {s : State} {i : Nat} (hs : s.Inv) : State.Inv (restoreLink m j a s i) := by
  unfold restoreLink
  extract_lets -merge v1 v2 v3
  have h_v3 : ∀ x4 x5 x6 x7, State.Inv x4 → State.Inv (v3 x4 x5 x6 x7) := by
    intro x4 x5 x6 x7 h8
    unfold v3
    split
    · refine State.setCore_inv ?_
      assumption
    · assumption
  clear_value v2 v3
  refine h_v3 _ _ _ _ ?_
  refine h_v3 _ _ _ _ ?_
  assumption

theorem finishRebind_inv {id : Nat} {s : State} (hs : s.Inv) : State.Inv (finishRebind id s) := by
  unfold finishRebind
  split
  · refine State.Inv.ite (fun _ => ?_) (fun _ => ?_)
    · assumption
    · extract_lets -merge v1 v2 v3 v4
      refine State.Inv.cut v1 (by
        unfold v1
        refine State.Inv.foldl ?_ (fun t6 a7 h8 => ?_)
        · assumption
        · refine State.Inv.of_frame takeUnit_frame (by decide) ?_
          assumption) fun h5 => ?_
      refine State.Inv.cut v2 (by
        unfold v2
        refine State.releaseCores_inv ?_
        assumption) fun h9 => ?_
      refine State.Inv.cut v3 (by
        unfold v3
        refine State.Inv.of_frame State.setJob_frame (by decide) ?_
        assumption) fun h10 => ?_
      clear_value v1 v2 v3
      refine ⟨h10.dram, h10.plate, h10.acc, h10.stage, h10.season, h10.osc, h10.pendingCfg, h10.ticks, h10.capSteps, h10.capNow, h10.scrub, h10.rollback, h10.policyRegs, h10.policy, h10.order, h10.logRate, h10.interval, h10.queue⟩
  · assumption

theorem State.restoreSave_inv {s : State} {m : List Byte} {j : Job} {a : SaveArea} (hs : s.Inv) : State.Inv (State.restoreSave s m j a) := by
  unfold State.restoreSave
  extract_lets -merge v1 v2 v3 v4
  refine State.Inv.cut v1 (by
    unfold v1
    refine State.Inv.foldl ?_ (fun t6 a7 h8 => ?_)
    · assumption
    · refine restoreExtent_inv ?_
      assumption) fun h5 => ?_
  refine State.Inv.cut v2 (by
    unfold v2
    refine State.Inv.foldl ?_ (fun t10 a11 h12 => ?_)
    · assumption
    · refine restoreLink_inv ?_
      assumption) fun h9 => ?_
  refine State.Inv.cut v3 (by
    unfold v3
    refine State.Inv.foldl ?_ (fun t14 a15 h16 => ?_)
    · assumption
    · split
      · extract_lets -merge v17 v18
        refine State.Inv.of_frame State.setStream_frame (by decide) ?_
        assumption
      · assumption) fun h13 => ?_
  refine State.Inv.cut v4 (by
    unfold v4
    refine State.Inv.of_frame State.setJob_frame (by decide) ?_
    assumption) fun h19 => ?_
  clear_value v1 v2 v3 v4
  refine finishRebind_inv ?_
  refine State.Inv.foldl ?_ (fun t20 a21 h22 => ?_)
  · assumption
  · refine unpark_inv ?_
    assumption

theorem execThaw_inv {job : Nat} {s : State} {t : State} (h : execThaw job s = .next t) (hs : s.Inv) : t.Inv := by
  unfold execThaw at h
  have h := Host.Outcome.next.inj h
  subst h
  split
  · assumption
  · split
    · refine State.Inv.ite (fun _ => ?_) (fun _ => ?_)
      · assumption
      · split
        · refine State.tearDownWith_inv ?_
          refine State.Inv.foldl ?_ (fun t1 a2 h3 => ?_)
          · assumption
          · refine State.Inv.of_frame rejectRow_frame (by decide) ?_
            assumption
        · extract_lets -merge v4 v5 v6 v7 v8 v9
          refine State.Inv.cut v6 (by
            unfold v6
            refine State.restoreSave_inv ?_
            assumption) fun h10 => ?_
          refine State.Inv.cut v8 (by
            unfold v8
            refine State.Inv.of_frame State.charge_frame (by decide) ?_
            assumption) fun h11 => ?_
          refine State.Inv.cut v9 (by
            unfold v9
            refine State.Inv.ite (fun _ => ?_) (fun _ => ?_)
            · refine State.Inv.of_frame State.requestFrost_frame (by decide) ?_
              assumption
            · assumption) fun h12 => ?_
          clear_value v4 v5 v6 v8 v9
          refine State.writeTrace_inv ?_
          refine State.Inv.of_frame State.bump_frame (by decide) ?_
          refine State.Inv.of_frame State.nextFrost_frame (by decide) ?_
          assumption
    · assumption

theorem execRemoteReplyParked_inv {job tag : Nat} {data : List Byte} {s : State} {t : State} (h : execRemoteReplyParked job tag data s = .next t) (hs : s.Inv) : t.Inv := by
  unfold execRemoteReplyParked at h
  have h := Host.Outcome.next.inj h
  subst h
  split
  · assumption
  · split
    · assumption
    · extract_lets -merge v1 v2 v3 v4 v5 v6 v7 v8
      refine State.Inv.cut v4 (by
        unfold v4
        refine State.Inv.of_frame State.returnCredits_frame (by decide) ?_
        assumption) fun h9 => ?_
      refine State.Inv.cut v5 (by
        unfold v5
        refine State.Inv.of_frame State.setJob_frame (by decide) ?_
        assumption) fun h10 => ?_
      refine State.Inv.cut v7 (by
        unfold v7
        split
        · split
          · refine State.Inv.of_frame State.setJob_frame (by decide) ?_
            assumption
          · refine State.Inv.of_frame State.setJob_frame (by decide) ?_
            assumption
        · refine State.sendReleases_inv ?_
          refine State.setCore_inv ?_
          assumption) fun h11 => ?_
      clear_value v1 v2 v4 v5 v7
      refine State.Inv.of_frame State.bump_frame (by decide) ?_
      refine State.Inv.of_frame State.charge_frame (by decide) ?_
      assumption

theorem execFillReadTimeout_inv {job tag : Nat} {s : State} {t : State} (h : execFillReadTimeout job tag s = .next t) (hs : s.Inv) : t.Inv := by
  unfold execFillReadTimeout at h
  have h := Host.Outcome.next.inj h
  subst h
  split
  · assumption
  · split
    · assumption
    · refine State.Inv.ite (fun _ => ?_) (fun _ => ?_)
      · assumption
      · refine State.Inv.ite (fun _ => ?_) (fun _ => ?_)
        · refine State.tearDown_inv ?_
          assumption
        · extract_lets -merge v1 v2
          refine State.Inv.cut v2 (by
            unfold v2
            refine State.setCore_inv ?_
            assumption) fun h3 => ?_
          clear_value v2
          refine State.Inv.of_frame State.bump_frame (by decide) ?_
          refine State.Inv.of_frame State.readAgain_frame (by decide) ?_
          assumption

theorem State.restartAt_inv {s : State} {a : Ask} {p : Place} {lost : Nat × Nat} {r : ExportRec} {x : Stream} (hs : s.Inv) : State.Inv (State.restartAt s a p lost r x) := by
  unfold State.restartAt
  extract_lets -merge v1
  refine State.Inv.cut v1 (by
    unfold v1
    refine State.Inv.of_frame State.clearPlace_frame (by decide) ?_
    refine State.commitPlace_inv ?_
    assumption) fun h2 => ?_
  clear_value v1
  split
  · assumption
  · extract_lets -merge v3 v4 v5 v6
    refine State.Inv.cut v3 (by
      unfold v3
      refine State.Inv.ite (fun _ => ?_) (fun _ => ?_)
      · refine State.Inv.of_frame State.followRow_frame (by decide) ?_
        assumption
      · assumption) fun h7 => ?_
    refine State.Inv.cut v4 (by
      unfold v4
      refine State.writeLog_inv ?_
      refine State.Inv.of_frame State.listPlans_frame (by decide) ?_
      assumption) fun h8 => ?_
    refine State.Inv.cut v6 (by
      unfold v6
      refine State.Inv.of_frame State.setStream_frame (by decide) ?_
      assumption) fun h9 => ?_
    clear_value v3 v4 v6
    refine State.Inv.ite (fun _ => ?_) (fun _ => ?_)
    · refine State.Inv.ite (fun _ => ?_) (fun _ => ?_)
      · refine State.noteSlip_inv ?_
        assumption
      · assumption
    · refine State.Inv.of_frame State.setStream_frame (by decide) ?_
      assumption

theorem execKeepRestart_inv {stream : Nat} {s : State} {t : State} (h : execKeepRestart stream s = .next t) (hs : s.Inv) : t.Inv := by
  unfold execKeepRestart at h
  have h := Host.Outcome.next.inj h
  subst h
  split
  · assumption
  · split
    · refine State.Inv.ite (fun _ => ?_) (fun _ => ?_)
      · assumption
      · extract_lets -merge v1 v2
        refine State.Inv.cut v2 (by
          unfold v2
          refine State.Inv.of_frame State.vacated_frame (by decide) ?_
          assumption) fun h3 => ?_
        clear_value v2
        split
        · assumption
        · split
          · refine State.Inv.of_frame State.noPlace_frame (by decide) ?_
            assumption
          · refine State.Inv.ite (fun _ => ?_) (fun _ => ?_)
            · refine State.Inv.of_frame State.noPlace_frame (by decide) ?_
              assumption
            · refine State.restartAt_inv ?_
              assumption
    · assumption

theorem State.finishChunk_inv {s : State} {x : Stream} {c : Chunk} {now : Nat} (hs : s.Inv) : State.Inv (State.finishChunk s x c now) := by
  unfold State.finishChunk
  extract_lets -merge v1 v2 v3 v4 v5 v6 v7 v8 v9 v10 v11 v12
  refine State.Inv.cut v1.1 (by
    unfold v1
    refine State.Inv.of_frame (State.measure_frame rfl) (by decide) ?_
    assumption) fun h13 => ?_
  refine State.Inv.cut v2 (by
    unfold v2
    assumption) fun h14 => ?_
  refine State.Inv.cut v7 (by
    unfold v7
    refine State.Inv.foldl ?_ (fun t16 a17 h18 => ?_)
    · assumption
    · refine State.Inv.of_frame State.modDesc_frame (by decide) ?_
      assumption) fun h15 => ?_
  refine State.Inv.cut v11 (by
    unfold v11
    refine State.Inv.of_frame State.trySend_frame (by decide) ?_
    refine State.Inv.of_frame State.setStream_frame (by decide) ?_
    assumption) fun h19 => ?_
  clear_value v1 v2 v3 v4 v6 v7 v11 v12
  refine State.Inv.ite (fun _ => ?_) (fun _ => ?_)
  · assumption
  · refine State.writeTrace_inv ?_
    assumption

theorem State.handOff_inv {s : State} {x : Stream} {c : Chunk} {n cycles now : Nat} {v : Word} {h : Head} (hs : s.Inv) : State.Inv (State.handOff s x c n cycles now v h) := by
  unfold State.handOff
  extract_lets -merge v1 v2 v3 v4 v5 v6 v7 v8
  refine State.Inv.cut v3 (by
    unfold v3
    refine State.Inv.of_frame State.charge_frame (by decide) ?_
    refine State.Inv.of_frame State.bump_frame (by decide) ?_
    assumption) fun h9 => ?_
  refine State.Inv.cut v4 (by
    unfold v4
    refine State.Inv.of_frame State.tally_frame (by decide) ?_
    assumption) fun h10 => ?_
  refine State.Inv.cut v5 (by
    unfold v5
    split
    · refine State.Inv.of_frame State.reportHandOff_frame (by decide) ?_
      assumption
    · assumption) fun h11 => ?_
  refine State.Inv.cut v8 (by
    unfold v8
    refine State.Inv.ite (fun _ => ?_) (fun _ => ?_)
    · refine State.finishChunk_inv ?_
      assumption
    · refine State.Inv.of_frame State.setStream_frame (by decide) ?_
      assumption) fun h12 => ?_
  clear_value v1 v3 v4 v5 v6 v8
  split
  · extract_lets -merge v13
    clear_value v13
    refine State.Inv.of_frame State.setStream_frame (by decide) ?_
    assumption
  · assumption

theorem execSampleHandOff_inv {unit at_ cycles : Nat} {s : State} {t : State} (h : execSampleHandOff unit at_ cycles s = .next t) (hs : s.Inv) : t.Inv := by
  unfold execSampleHandOff at h
  have h := Host.Outcome.next.inj h
  subst h
  extract_lets -merge v1 v2
  clear_value v2
  split
  · assumption
  · split
    · extract_lets -merge v3 v4
      refine State.Inv.cut v4 (by
        unfold v4
        refine State.Inv.of_frame State.bump_frame (by decide) ?_
        refine State.Inv.of_frame State.bump_frame (by decide) ?_
        refine State.Inv.of_frame State.setUnit_frame (by decide) ?_
        assumption) fun h5 => ?_
      clear_value v3 v4
      refine State.Inv.ite (fun _ => ?_) (fun _ => ?_)
      · refine State.Inv.of_frame State.bump_frame (by decide) ?_
        refine State.Inv.of_frame State.setStream_frame (by decide) ?_
        assumption
      · refine State.handOff_inv ?_
        assumption
    · assumption

theorem State.afterUnit_inv {s : State} {lost : Bool} {x : Stream} (hs : s.Inv) : State.Inv (State.afterUnit s lost x) := by
  unfold State.afterUnit
  extract_lets -merge v1 v2 v3 v4
  refine State.Inv.ite (fun _ => ?_) (fun _ => ?_)
  · refine State.Inv.of_frame State.setStream_frame (by decide) ?_
    assumption
  · refine State.Inv.ite (fun _ => ?_) (fun _ => ?_)
    · refine State.Inv.of_frame State.setStream_frame (by decide) ?_
      assumption
    · split
      · extract_lets -merge v5 v6
        refine State.Inv.cut v6 (by
          unfold v6
          refine State.Inv.of_frame State.setStream_frame (by decide) ?_
          assumption) fun h7 => ?_
        clear_value v6
        refine State.Inv.ite (fun _ => ?_) (fun _ => ?_)
        · refine State.noteSlip_inv ?_
          assumption
        · assumption
      · refine State.Inv.of_frame State.setStream_frame (by decide) ?_
        assumption

theorem execBurinTakeover_inv {unit replacement : Nat} {s : State} {t : State} (h : execBurinTakeover unit replacement s = .next t) (hs : s.Inv) : t.Inv := by
  unfold execBurinTakeover at h
  have h := Host.Outcome.next.inj h
  subst h
  extract_lets -merge v1 v2 v3 v4 v5 v6 v7 v8 v9 v10 v11 v12 v13 v14 v15 v16 v17
  refine State.Inv.cut v3 (by
    unfold v3
    refine State.Inv.of_frame State.bump_frame (by decide) ?_
    refine State.Inv.of_frame State.setUnit_frame (by decide) ?_
    assumption) fun h18 => ?_
  refine State.Inv.cut v4 (by
    unfold v4
    split
    · refine State.Inv.ite (fun _ => ?_) (fun _ => ?_)
      · refine State.dropPlace_inv ?_
        assumption
      · assumption
    · assumption) fun h19 => ?_
  refine State.Inv.cut v8 (by
    unfold v8
    refine State.Inv.foldl ?_ (fun t21 a22 h23 => ?_)
    · assumption
    · refine State.tearDown_inv ?_
      assumption) fun h20 => ?_
  refine State.Inv.cut v12 (by
    unfold v12
    refine State.Inv.foldl ?_ (fun t25 a26 h27 => ?_)
    · assumption
    · split
      · refine State.afterUnit_inv ?_
        assumption
      · assumption) fun h24 => ?_
  refine State.Inv.cut v13 (by
    unfold v13
    refine State.Inv.of_frame State.bump_frame (by decide) ?_
    assumption) fun h28 => ?_
  refine State.Inv.cut v16 (by
    unfold v16
    refine State.Inv.foldl ?_ (fun t30 a31 h32 => ?_)
    · assumption
    · split
      · refine State.Inv.of_frame State.spreadCtx_frame (by decide) ?_
        assumption
      · assumption) fun h29 => ?_
  clear_value v2 v3 v4 v6 v7 v8 v10 v11 v12 v13 v14 v15 v16 v17
  refine State.Inv.ite (fun _ => ?_) (fun _ => ?_)
  · assumption
  · refine State.Inv.ite (fun _ => ?_) (fun _ => ?_)
    · assumption
    · split
      · extract_lets -merge v33
        clear_value v33
        refine State.writeLog_inv ?_
        refine State.Inv.of_frame State.moveUnit_frame (by decide) ?_
        assumption
      · refine State.raiseAlarm_inv ?_
        assumption

end Sys2Proof.Machine
end

