-- ==== Sys2Proof/Laws/InvLines.lean ====
section
/-! SUPPORT. The invariant: each operation keeps the invariant, for audio lines, the plan and adaptation. -/

namespace Sys2Proof.Machine

open Sys2Proof

theorem State.slipDir_inv {s : State} {k : Nat} {low : Bool} (hs : s.Inv) : State.Inv (State.slipDir s k low) := by
  unfold State.slipDir
  extract_lets -merge v1 v2 v3 v4 v5 v6 v7 v8
  refine State.Inv.cut v3 (by
    unfold v3
    refine State.writeTrace_inv ?_
    refine State.Inv.of_frame State.bump_frame (by decide) ?_
    refine State.Inv.of_frame State.bump_frame (by decide) ?_
    assumption) fun h9 => ?_
  refine State.Inv.cut v8 (by
    unfold v8
    refine State.Inv.foldl ?_ (fun t11 a12 h13 => ?_)
    · assumption
    · refine State.Inv.of_frame State.loseFrame_frame (by decide) ?_
      assumption) fun h10 => ?_
  clear_value v2 v3 v5 v6 v7 v8
  refine State.Inv.ite (fun _ => ?_) (fun _ => ?_)
  · refine State.Inv.ite (fun _ => ?_) (fun _ => ?_)
    · refine State.Inv.of_frame State.bump_frame (by decide) ?_
      refine State.Inv.of_frame State.setDirAt_frame (by decide) ?_
      assumption
    · refine State.Inv.of_frame State.setDirAt_frame (by decide) ?_
      assumption
  · refine State.Inv.ite (fun _ => ?_) (fun _ => ?_)
    · refine State.Inv.of_frame State.setDirAt_frame (by decide) ?_
      assumption
    · refine State.Inv.of_frame State.setDirAt_frame (by decide) ?_
      assumption

theorem execDriftSlip_inv {line dir : Nat} {low : Bool} {s : State} {t : State} (h : execDriftSlip line dir low s = .next t) (hs : s.Inv) : t.Inv := by
  unfold execDriftSlip at h
  have h := Host.Outcome.next.inj h
  subst h
  extract_lets -merge v1
  clear_value v1
  refine State.Inv.ite (fun _ => ?_) (fun _ => ?_)
  · assumption
  · refine State.Inv.foldl ?_ (fun t2 a3 h4 => ?_)
    · assumption
    · refine State.slipDir_inv ?_
      assumption

theorem execClockStop_inv {line dir : Nat} {s : State} {t : State} (h : execClockStop line dir s = .next t) (hs : s.Inv) : t.Inv := by
  unfold execClockStop at h
  have h := Host.Outcome.next.inj h
  subst h
  extract_lets -merge v1 v2 v3
  refine State.Inv.cut v3 (by
    unfold v3
    refine State.Inv.of_frame State.moveDirs_frame (by decide) ?_
    assumption) fun h4 => ?_
  clear_value v1 v3
  refine State.Inv.ite (fun _ => ?_) (fun _ => ?_)
  · assumption
  · refine State.Inv.ite (fun _ => ?_) (fun _ => ?_)
    · assumption
    · refine State.raiseAlarm_inv ?_
      assumption

theorem execRateOutOfRange_inv {line dir : Nat} {rate : Half} {s : State} {t : State} (h : execRateOutOfRange line dir rate s = .next t) (hs : s.Inv) : t.Inv := by
  unfold execRateOutOfRange at h
  have h := Host.Outcome.next.inj h
  subst h
  extract_lets -merge v1 v2 v3 v4 v5
  refine State.Inv.cut v4 (by
    unfold v4
    refine State.raiseAlarm_inv ?_
    refine State.Inv.of_frame State.moveDirs_frame (by decide) ?_
    assumption) fun h6 => ?_
  clear_value v1 v3 v4
  refine State.Inv.ite (fun _ => ?_) (fun _ => ?_)
  · assumption
  · refine State.Inv.ite (fun _ => ?_) (fun _ => ?_)
    · refine State.Inv.of_frame State.setDirAt_frame (by decide) ?_
      assumption
    · refine State.Inv.ite (fun _ => ?_) (fun _ => ?_)
      · refine State.Inv.of_frame State.moveDirs_frame (by decide) ?_
        assumption
      · assumption

theorem State.glitchDir_inv {s : State} {k : Nat} (hs : s.Inv) : State.Inv (State.glitchDir s k) := by
  unfold State.glitchDir
  extract_lets -merge v1 v2 v3 v4
  refine State.Inv.cut v2 (by
    unfold v2
    refine State.writeTrace_inv ?_
    refine State.Inv.of_frame State.bump_frame (by decide) ?_
    refine State.Inv.of_frame State.bump_frame (by decide) ?_
    assumption) fun h5 => ?_
  clear_value v2 v4
  refine State.Inv.ite (fun _ => ?_) (fun _ => ?_)
  · assumption
  · refine State.Inv.of_frame State.setDirAt_frame (by decide) ?_
    assumption

theorem execFsGlitch_inv {line dir bclks : Nat} {wrongLength : Bool} {s : State} {t : State} (h : execFsGlitch line dir bclks wrongLength s = .next t) (hs : s.Inv) : t.Inv := by
  unfold execFsGlitch at h
  have h := Host.Outcome.next.inj h
  subst h
  extract_lets -merge v1 v2
  clear_value v1
  refine State.Inv.ite (fun _ => ?_) (fun _ => ?_)
  · assumption
  · refine State.Inv.ite (fun _ => ?_) (fun _ => ?_)
    · refine State.Inv.foldl ?_ (fun t3 a4 h5 => ?_)
      · assumption
      · extract_lets -merge v6
        refine State.Inv.ite (fun _ => ?_) (fun _ => ?_)
        · refine State.Inv.of_frame State.setDirAt_frame (by decide) ?_
          assumption
        · assumption
    · refine State.Inv.ite (fun _ => ?_) (fun _ => ?_)
      · refine State.Inv.foldl ?_ (fun t7 a8 h9 => ?_)
        · assumption
        · refine State.glitchDir_inv ?_
          assumption
      · refine State.Inv.of_frame State.moveDirs_frame (by decide) ?_
        assumption

theorem State.starve_inv {s : State} {x : Stream} (hs : s.Inv) : State.Inv (State.starve s x) := by
  unfold State.starve
  extract_lets -merge v1 v2 v3 v4
  refine State.Inv.cut v3 (by
    unfold v3
    refine State.Inv.foldl ?_ (fun t6 a7 h8 => ?_)
    · assumption
    · refine State.Inv.of_frame State.modDesc_frame (by decide) ?_
      assumption) fun h5 => ?_
  refine State.Inv.cut v4 (by
    unfold v4
    refine State.Inv.of_frame State.setStream_frame (by decide) ?_
    assumption) fun h9 => ?_
  clear_value v3 v4
  refine State.writeTrace_inv ?_
  refine State.Inv.of_frame State.bump_frame (by decide) ?_
  assumption

theorem State.planStream_inv {repeat_ : Bool} {s : State} {id : Nat} (hs : s.Inv) : State.Inv (State.planStream repeat_ s id) := by
  unfold State.planStream
  split
  · assumption
  · refine State.Inv.ite (fun _ => ?_) (fun _ => ?_)
    · assumption
    · refine State.Inv.ite (fun _ => ?_) (fun _ => ?_)
      · refine State.Inv.of_frame State.setStream_frame (by decide) ?_
        assumption
      · refine State.Inv.ite (fun _ => ?_) (fun _ => ?_)
        · refine State.Inv.ite (fun _ => ?_) (fun _ => ?_)
          · refine State.Inv.of_frame State.setStream_frame (by decide) ?_
            assumption
          · assumption
        · extract_lets -merge v1
          clear_value v1
          split
          · refine State.Inv.of_frame State.planWith_frame (by decide) ?_
            assumption
          · refine State.Inv.ite (fun _ => ?_) (fun _ => ?_)
            · refine State.starve_inv ?_
              assumption
            · assumption

theorem State.resumeMoved_inv {s : State} {x : Stream} (hs : s.Inv) : State.Inv (State.resumeMoved s x) := by
  unfold State.resumeMoved
  extract_lets -merge v1 v2 v3 v4
  refine State.Inv.cut v4 (by
    unfold v4
    refine State.Inv.of_frame State.setStream_frame (by decide) ?_
    assumption) fun h5 => ?_
  clear_value v1 v4
  refine State.Inv.ite (fun _ => ?_) (fun _ => ?_)
  · refine State.noteSlip_inv ?_
    assumption
  · assumption

theorem State.resumeContext_inv {s : State} {x : Stream} (hs : s.Inv) : State.Inv (State.resumeContext s x) := by
  unfold State.resumeContext
  split
  · assumption
  · extract_lets -merge v1 v2 v3 v4
    refine State.Inv.cut v4 (by
      unfold v4
      refine State.Inv.of_frame State.bindUnit_frame (by decide) ?_
      assumption) fun h5 => ?_
    clear_value v1 v2 v4
    refine State.Inv.ite (fun _ => ?_) (fun _ => ?_)
    · refine State.noteSlip_inv ?_
      assumption
    · assumption

theorem State.tryResume_inv {s : State} {x : Stream} (hs : s.Inv) : State.Inv (State.tryResume s x) := by
  unfold State.tryResume
  refine State.Inv.ite (fun _ => ?_) (fun _ => ?_)
  · assumption
  · refine State.Inv.ite (fun _ => ?_) (fun _ => ?_)
    · refine State.Inv.ite (fun _ => ?_) (fun _ => ?_)
      · refine State.resumeMoved_inv ?_
        assumption
      · assumption
    · refine State.resumeContext_inv ?_
      assumption

theorem State.placeFill_inv {s t : State} {j : Job} {m : List Byte} (h : s.placeFill j m = some t) (hs : s.Inv) : t.Inv := by
  unfold State.placeFill at h
  extract_lets n at h
  split at h
  · cases h
  · split at h
    · cases h
    · obtain ⟨r, hr, ht⟩ := Option.map_eq_some_iff.mp h
      rw [← ht]
      refine State.Inv.of_frame State.beginThaw_frame (by decide) (State.bindCores_inv ?_)
      exact State.Inv.of_frame (State.bindRows_frame hr) (by decide) hs

theorem State.offerFill_inv {s : State} {id : Nat} (hs : s.Inv) : State.Inv (State.offerFill s id) := by
  unfold State.offerFill
  split
  · assumption
  · split
    · assumption
    · refine State.Inv.ite (fun _ => ?_) (fun _ => ?_)
      · assumption
      · extract_lets -merge v1
        refine State.Inv.cut v1 (by
          unfold v1
          refine State.Inv.of_frame State.setJob_frame (by decide) ?_
          assumption) fun h2 => ?_
        clear_value v1
        refine State.Inv.ite (fun _ => ?_) (fun _ => ?_)
        · assumption
        · split
          · refine State.Inv.ite (fun _ => ?_) (fun _ => ?_)
            · refine State.Inv.of_frame State.beginThaw_frame (by decide) ?_
              assumption
            · assumption
          · refine State.Inv.getD (fun t3 o4 => ?_) ?_
            · refine State.placeFill_inv o4 ?_
              assumption
            · assumption

theorem State.beginAdapt_inv {s : State} {ring : Nat} {d : Desc} {m : Model} {input : List Byte} (hs : s.Inv) : State.Inv (State.beginAdapt s ring d m input) := by
  unfold State.beginAdapt
  extract_lets -merge v1 v2 v3 v4
  refine State.Inv.cut v2.1 (by
    unfold v2
    refine State.newJob_inv rfl ?_
    assumption) fun h5 => ?_
  refine State.Inv.cut v3 (by
    unfold v3
    assumption) fun h6 => ?_
  clear_value v2 v3
  split
  · rename_i y7 y8
    assumption
  · rename_i y9 y10 y11
    extract_lets -merge v12 v13 v14
    refine State.Inv.cut v13 (by
      unfold v13
      refine State.Inv.of_frame State.modDesc_frame (by decide) ?_
      refine State.Inv.of_frame State.setJob_frame (by decide) ?_
      assumption) fun h15 => ?_
    clear_value v13
    refine State.Inv.ite (fun _ => ?_) (fun _ => ?_)
    · refine ⟨h15.dram, h15.plate, h15.acc, h15.stage, h15.season, h15.osc, h15.pendingCfg, h15.ticks, h15.capSteps, h15.capNow, h15.scrub, h15.rollback, h15.policyRegs, h15.policy, h15.order, h15.logRate, h15.interval, h15.queue⟩
    · refine State.Inv.of_frame State.charge_frame (by decide) ?_
      assumption

theorem State.adaptStart_inv {s : State} {ring : Nat} {d : Desc} {bytes : List Byte} (hs : s.Inv) : State.Inv (State.adaptStart s ring d bytes) := by
  unfold State.adaptStart
  split
  · refine State.Inv.ite (fun _ => ?_) (fun _ => ?_)
    · refine State.Inv.of_frame State.complete_frame (by decide) ?_
      assumption
    · refine State.Inv.ite (fun _ => ?_) (fun _ => ?_)
      · refine State.Inv.of_frame State.complete_frame (by decide) ?_
        assumption
      · refine State.Inv.ite (fun _ => ?_) (fun _ => ?_)
        · refine State.Inv.of_frame State.complete_frame (by decide) ?_
          assumption
        · refine State.Inv.ite (fun _ => ?_) (fun _ => ?_)
          · refine State.beginAdapt_inv ?_
            assumption
          · extract_lets -merge v1 v2 v3
            refine State.Inv.cut v2 (by
              unfold v2
              refine State.Inv.of_frame State.bump_frame (by decide) ?_
              refine State.Inv.of_frame State.bump_frame (by decide) ?_
              assumption) fun h4 => ?_
            clear_value v1 v2
            split
            · refine State.Inv.of_frame State.complete_frame (by decide) ?_
              refine State.Inv.of_frame State.charge_frame (by decide) ?_
              refine State.Inv.of_frame State.bump_frame (by decide) ?_
              assumption
            · refine State.beginAdapt_inv ?_
              assumption
  · refine State.Inv.of_frame State.complete_frame (by decide) ?_
    assumption

theorem State.adaptCommit_inv {s : State} {ring : Nat} {d : Desc} {j : Job} {m t : Model} (hs : s.Inv) : State.Inv (State.adaptCommit s ring d j m t) := by
  unfold State.adaptCommit
  extract_lets -merge v1 v2 v3 v4
  refine State.Inv.cut v2 (by
    unfold v2
    refine State.endJob_inv ?_
    assumption) fun h5 => ?_
  clear_value v1 v2 v3 v4
  split
  · rename_i y6 y7
    refine State.Inv.of_frame State.complete_frame (by decide) ?_
    assumption
  · rename_i y8 y9 y10 y11
    refine State.Inv.cut y9 (by
      refine State.addModel_inv y11 ?_
      assumption) fun h12 => ?_
    split
    rename_i y13 y14 y15 y16
    refine State.Inv.cut y14 (by
      refine State.Inv.of_fst y16 ?_
      split
      · split
        · rename_i y18 y19 y20
          refine State.Inv.cut y19 (by
            refine State.startPromotion_inv y20 ?_
            assumption) fun h21 => ?_
          refine State.Inv.fst ?_
          assumption
        · rename_i y22 y23
          refine State.Inv.fst ?_
          refine State.Inv.of_frame State.setModel_frame (by decide) ?_
          assumption
      · refine State.Inv.fst ?_
        assumption) fun h17 => ?_
    extract_lets -merge v24
    refine State.Inv.cut v24 (by
      unfold v24
      refine State.Inv.of_frame writeReceipt_frame (by decide) ?_
      assumption) fun h25 => ?_
    clear_value v24
    refine State.Inv.of_frame State.complete_frame (by decide) ?_
    assumption

theorem execAdaptJob_inv {ring seq : Nat} {phase : AdaptPhase} {s : State} {t : State} (h : execAdaptJob ring seq phase s = .next t) (hs : s.Inv) : t.Inv := by
  unfold execAdaptJob at h
  have h := Host.Outcome.next.inj h
  subst h
  split
  · assumption
  · refine State.Inv.ite (fun _ => ?_) (fun _ => ?_)
    · assumption
    · split
      · rename_i y1 y2
        refine State.Inv.ite (fun _ => ?_) (fun _ => ?_)
        · assumption
        · refine State.adaptStart_inv ?_
          assumption
      · rename_i y3
        split
        · refine State.Inv.ite (fun _ => ?_) (fun _ => ?_)
          · refine State.Inv.of_frame State.optStep_frame (by decide) ?_
            assumption
          · assumption
        · assumption
      · rename_i y4
        split
        · refine State.Inv.ite (fun _ => ?_) (fun _ => ?_)
          · refine State.adaptCommit_inv ?_
            assumption
          · assumption
        · assumption

theorem State.takeOffload_inv {s : State} {id : Nat} {o : OffloadMsg} (hs : s.Inv) : State.Inv (State.takeOffload s id o) := by
  unfold State.takeOffload
  extract_lets -merge v1
  clear_value v1
  refine State.Inv.ite (fun _ => ?_) (fun _ => ?_)
  · assumption
  · split
    · rename_i y2 y3
      assumption
    · rename_i y4 y5 y6 y7
      refine State.Inv.cut y5 (by
        refine State.addModel_inv y7 ?_
        assumption) fun h8 => ?_
      extract_lets -merge v9 v10
      refine State.Inv.cut v9.1 (by
        unfold v9
        refine State.newJob_inv rfl ?_
        assumption) fun h11 => ?_
      refine State.Inv.cut v10 (by
        unfold v10
        assumption) fun h12 => ?_
      clear_value v9 v10
      split
      · rename_i y13 y14
        assumption
      · rename_i y15 y16 y17
        extract_lets -merge v18 v19 v20 v21 v22
        refine State.Inv.cut v22 (by
          unfold v22
          refine State.Inv.of_frame State.setJob_frame (by decide) ?_
          assumption) fun h23 => ?_
        clear_value v22
        refine State.scratchStore_inv ?_
        assumption

theorem State.returnOffload_inv {s : State} {j : Job} {homeJob n : Nat} (hs : s.Inv) : State.Inv (State.returnOffload s j homeJob n) := by
  unfold State.returnOffload
  extract_lets -merge v1 v2 v3
  refine State.Inv.cut v2 (by
    unfold v2
    refine State.Inv.of_frame State.bump_frame (by decide) ?_
    refine State.Inv.of_frame State.send_frame (by decide) ?_
    assumption) fun h4 => ?_
  refine State.Inv.cut v3 (by
    unfold v3
    refine State.endJob_inv ?_
    assumption) fun h5 => ?_
  clear_value v1 v2 v3
  split
  · refine State.evict_inv ?_
    assumption
  · assumption

theorem execFillOffload_inv {job : Nat} {act : OffloadAct} {s : State} {t : State} (h : execFillOffload job act s = .next t) (hs : s.Inv) : t.Inv := by
  unfold execFillOffload at h
  have h := Host.Outcome.next.inj h
  subst h
  split
  · rename_i y1 y2 y3
    refine State.takeOffload_inv ?_
    assumption
  · rename_i y4 y5 y6 y7 y8
    refine State.Inv.of_frame State.offload_frame (by decide) ?_
    assumption
  · rename_i y9 y10 y11 y12
    split
    · refine State.Inv.ite (fun _ => ?_) (fun _ => ?_)
      · refine State.Inv.of_frame State.optStep_frame (by decide) ?_
        assumption
      · assumption
    · assumption
  · rename_i y13 y14 y15 y16
    split
    · refine State.Inv.ite (fun _ => ?_) (fun _ => ?_)
      · refine State.returnOffload_inv ?_
        assumption
      · assumption
    · assumption
  · rename_i y17 y18 y19 y20 y21 y22
    refine State.Inv.ite (fun _ => ?_) (fun _ => ?_)
    · extract_lets -merge v23 v24
      clear_value v23
      refine State.Inv.of_frame State.bump_frame (by decide) ?_
      refine State.Inv.of_frame State.charge_frame (by decide) ?_
      refine State.Inv.of_frame State.setJob_frame (by decide) ?_
      assumption
    · assumption
  · rename_i y25 y26 y27 y28 y29
    assumption

end Sys2Proof.Machine
end

