-- ==== Sys2Proof/Laws/InvFolio.lean ====
section
/-! SUPPORT. The invariant: each operation keeps the invariant, for the Folio and Transfers. -/

namespace Sys2Proof.Machine

open Sys2Proof

theorem State.portDown_inv {s : State} {port cause : Nat} (hs : s.Inv) : State.Inv (State.portDown s port cause) := by
  unfold State.portDown
  extract_lets -merge v1 v2 v3 v4 v5
  refine State.Inv.cut v3 (by
    unfold v3
    refine State.Inv.of_frame State.setIhxPort_frame (by decide) ?_
    assumption) fun h6 => ?_
  clear_value v3
  refine State.raiseAlarm_inv ?_
  refine ⟨h6.dram, h6.plate, h6.acc, h6.stage, h6.season, h6.osc, h6.pendingCfg, h6.ticks, h6.capSteps, h6.capNow, h6.scrub, h6.rollback, h6.policyRegs, h6.policy, h6.order, h6.logRate, h6.interval, h6.queue⟩

theorem execIhlauxPortTrain_inv {port lanes : Nat} {s : State} {t : State} (h : execIhlauxPortTrain port lanes s = .next t) (hs : s.Inv) : t.Inv := by
  unfold execIhlauxPortTrain at h
  have h := Host.Outcome.next.inj h
  subst h
  extract_lets -merge v1
  refine State.Inv.ite (fun _ => ?_) (fun _ => ?_)
  · assumption
  · refine State.Inv.ite (fun _ => ?_) (fun _ => ?_)
    · refine State.Inv.ite (fun _ => ?_) (fun _ => ?_)
      · refine State.portDown_inv ?_
        assumption
      · assumption
    · refine State.Inv.ite (fun _ => ?_) (fun _ => ?_)
      · assumption
      · refine State.Inv.ite (fun _ => ?_) (fun _ => ?_)
        · refine State.Inv.ite (fun _ => ?_) (fun _ => ?_)
          · refine State.Inv.of_frame State.setIhxPort_frame (by decide) ?_
            assumption
          · assumption
        · refine State.Inv.of_frame State.setIhxPort_frame (by decide) ?_
          assumption

theorem execIhlauxAuthFail_inv {port : Nat} {s : State} {t : State} (h : execIhlauxAuthFail port s = .next t) (hs : s.Inv) : t.Inv := by
  unfold execIhlauxAuthFail at h
  have h := Host.Outcome.next.inj h
  subst h
  extract_lets -merge v1 v2 v3
  refine State.Inv.cut v3 (by
    unfold v3
    refine State.Inv.of_frame State.bump_frame (by decide) ?_
    refine State.Inv.of_frame State.setIhxPort_frame (by decide) ?_
    assumption) fun h4 => ?_
  clear_value v2 v3
  refine State.Inv.ite (fun _ => ?_) (fun _ => ?_)
  · assumption
  · refine State.Inv.ite (fun _ => ?_) (fun _ => ?_)
    · refine State.portDown_inv ?_
      assumption
    · assumption

theorem execLinkKeyExchange_inv {port : Nat} {msg : LinkKeyMsg} {s : State} {t : State} (h : execLinkKeyExchange port msg s = .next t) (hs : s.Inv) : t.Inv := by
  unfold execLinkKeyExchange at h
  have h := Host.Outcome.next.inj h
  subst h
  extract_lets -merge v1 v2 v3 v4 v5 v6
  refine State.Inv.cut v3 (by
    unfold v3
    refine State.Inv.of_frame State.setIhxPort_frame (by decide) ?_
    refine State.Inv.of_frame State.send_frame (by decide) ?_
    assumption) fun h7 => ?_
  refine State.Inv.cut v5 (by
    unfold v5
    refine ⟨h7.dram, h7.plate, h7.acc, h7.stage, h7.season, h7.osc, h7.pendingCfg, h7.ticks, h7.capSteps, h7.capNow, h7.scrub, h7.rollback, h7.policyRegs, h7.policy, h7.order, h7.logRate, h7.interval, h7.queue⟩) fun h8 => ?_
  refine State.Inv.cut v6 (by
    unfold v6
    split
    · refine State.Inv.ite (fun _ => ?_) (fun _ => ?_)
      · refine State.Inv.of_frame State.send_frame (by decide) ?_
        assumption
      · assumption
    · assumption) fun h9 => ?_
  clear_value v2 v3 v5 v6
  refine State.Inv.ite (fun _ => ?_) (fun _ => ?_)
  · assumption
  · refine State.Inv.ite (fun _ => ?_) (fun _ => ?_)
    · refine State.raiseAlarm_inv ?_
      refine State.Inv.of_frame State.setIhxPort_frame (by decide) ?_
      assumption
    · refine State.Inv.of_frame State.checkJoined_frame (by decide) ?_
      assumption

theorem execGroupKeyDelivery_inv {gk statement : List Byte} {s : State} {t : State} (h : execGroupKeyDelivery gk statement s = .next t) (hs : s.Inv) : t.Inv := by
  unfold execGroupKeyDelivery at h
  have h := Host.Outcome.next.inj h
  subst h
  refine State.Inv.ite (fun _ => ?_) (fun _ => ?_)
  · extract_lets -merge v1
    refine ⟨hs.dram, hs.plate, hs.acc, hs.stage, hs.season, hs.osc, hs.pendingCfg, hs.ticks, hs.capSteps, hs.capNow, hs.scrub, hs.rollback, hs.policyRegs, hs.policy, hs.order, hs.logRate, hs.interval, hs.queue⟩
  · assumption

theorem State.joinManager_inv {s : State} {counter : BitVec 48} (hs : s.Inv) : State.Inv (State.joinManager s counter) := by
  unfold State.joinManager
  extract_lets -merge v1 v2 v3 v4 v5
  clear_value v1 v2
  refine ⟨hs.dram, hs.plate, hs.acc, hs.stage, hs.season, hs.osc, hs.pendingCfg, hs.ticks, hs.capSteps, hs.capNow, hs.scrub, hs.rollback, hs.policyRegs, hs.policy, hs.order, hs.logRate, hs.interval, hs.queue⟩

theorem State.joinWorker_inv {s : State} {season : Nat} {counter : BitVec 48} (hseason : season < 4) (hs : s.Inv) :
    State.Inv (s.joinWorker season counter) := by
  unfold State.joinWorker
  extract_lets p0 p1 s1 s2
  have hp : ∀ p, (if season = s.tb.season then s.tb.pendingCfg else some (season, s.tb.osc)) = some p → p.1 < 4 ∧ p.2 < 4 := by
    intro p h
    split at h
    · exact hs.pendingCfg p h
    · cases h
      exact ⟨hseason, hs.osc⟩
  have h1 : s1.Inv :=
    ⟨hs.dram, hs.plate, hs.acc, hs.stage, hs.season, hs.osc, hp, hs.ticks, hs.capSteps, hs.capNow, hs.scrub, hs.rollback, hs.policyRegs, hs.policy, hs.order, hs.logRate, hs.interval, hs.queue⟩
  refine State.Inv.of_frame State.timebaseMode_frame (by decide) ?_
  exact State.Inv.ite (fun _ => State.Inv.of_frame State.send_frame (by decide) h1) (fun _ => h1)

theorem State.join_inv {s : State} {season : Nat} {counter : BitVec 48} (hseason : season < 4) (hs : s.Inv) :
    State.Inv (s.join season counter) := by
  unfold State.join
  refine State.Inv.ite (fun _ => ?_) (fun _ => State.Inv.ite (fun _ => ?_) (fun _ => ?_))
  · exact ⟨hs.dram, hs.plate, hs.acc, hs.stage, hs.season, hs.osc, hs.pendingCfg, hs.ticks, hs.capSteps, hs.capNow, hs.scrub, hs.rollback, hs.policyRegs, hs.policy, hs.order, hs.logRate, hs.interval, hs.queue⟩
  · exact State.Inv.of_frame State.sendHello_frame (by decide) (State.joinManager_inv hs)
  · exact State.Inv.of_frame State.sendHello_frame (by decide) (State.joinWorker_inv hseason hs)

theorem State.leave_inv {s : State} (hs : s.Inv) : State.Inv (State.leave s) := by
  unfold State.leave
  extract_lets -merge v1 v2 v3 v4 v5 v6
  refine State.Inv.cut v2 (by
    unfold v2
    refine State.Inv.of_frame State.send_frame (by decide) ?_
    assumption) fun h7 => ?_
  refine State.Inv.cut v6 (by
    unfold v6
    refine ⟨h7.dram, h7.plate, h7.acc, h7.stage, h7.season, h7.osc, h7.pendingCfg, h7.ticks, h7.capSteps, h7.capNow, h7.scrub, h7.rollback, h7.policyRegs, h7.policy, h7.order, h7.logRate, h7.interval, h7.queue⟩) fun h8 => ?_
  clear_value v2 v6
  refine State.Inv.ite (fun _ => ?_) (fun _ => ?_)
  · refine ⟨hs.dram, hs.plate, hs.acc, hs.stage, hs.season, hs.osc, hs.pendingCfg, hs.ticks, hs.capSteps, hs.capNow, hs.scrub, hs.rollback, hs.policyRegs, hs.policy, hs.order, hs.logRate, hs.interval, hs.queue⟩
  · refine State.Inv.ite (fun _ => ?_) (fun _ => ?_)
    · refine State.Inv.of_frame State.timebaseMode_frame (by decide) ?_
      assumption
    · assumption

theorem folioCtlWrite_inv {v : Word} {season : Nat} {counter : BitVec 48} {s : State} (hseason : season < 4)
    (hs : s.Inv) : State.Inv (folioCtlWrite v season counter s) := by
  unfold folioCtlWrite
  extract_lets s1
  have h1 : s1.Inv := State.Inv.ite (fun _ => State.join_inv hseason hs) (fun _ => hs)
  exact State.Inv.ite (fun _ => State.leave_inv h1) (fun _ => h1)

theorem execJoin_inv {port : Nat} {value : Word} {season : Nat} {counter : BitVec 48} {s t : State}
    (h : execJoin port value season counter s = .next t) (hs : s.Inv) : t.Inv := by
  unfold execJoin at h
  have h := Host.Outcome.next.inj h
  subst h
  exact State.Inv.ite (fun _ => folioCtlWrite_inv (Nat.lt_succ_of_le (Nat.min_le_right ..)) hs) (fun _ => hs)

theorem execLeave_inv {port : Nat} {value : Word} {s t : State}
    (h : execLeave port value s = .next t) (hs : s.Inv) : t.Inv := by
  unfold execLeave at h
  have h := Host.Outcome.next.inj h
  subst h
  exact State.Inv.ite (fun _ => folioCtlWrite_inv (by decide) hs) (fun _ => hs)

theorem State.takeSeason_inv {season : Nat} {s : State} (hs : s.Inv) : State.Inv (s.takeSeason season) := by
  have hv : min season 3 < 4 := by omega
  unfold State.takeSeason
  extract_lets v p0 p1
  refine State.Inv.ite (fun _ => hs) fun _ => State.Inv.ite (fun h0 => ?_) fun _ => ?_
  · exact ⟨hs.dram, hs.plate, hs.acc, hs.stage, hv, hs.osc, fun p hp => (nomatch hp), le_of_eq_of_le h0 (Nat.zero_le _), hs.capSteps, hs.capNow, hs.scrub, hs.rollback, hs.policyRegs, hs.policy, hs.order, hs.logRate, hs.interval, hs.queue⟩
  · exact ⟨hs.dram, hs.plate, hs.acc, hs.stage, hs.season, hs.osc, fun p hp => (by cases hp; exact ⟨hv, hs.osc⟩), hs.ticks, hs.capSteps, hs.capNow, hs.scrub, hs.rollback, hs.policyRegs, hs.policy, hs.order, hs.logRate, hs.interval, hs.queue⟩

theorem execAlignmentSymbol_inv {port : Nat} {symbol : AlignMsg} {offsetNs : Int} {delayNs : Nat} {s : State} {t : State} (h : execAlignmentSymbol port symbol offsetNs delayNs s = .next t) (hs : s.Inv) : t.Inv := by
  unfold execAlignmentSymbol at h
  have h := Host.Outcome.next.inj h
  subst h
  refine State.Inv.ite (fun _ => ?_) (fun _ => ?_)
  · assumption
  · extract_lets -merge v1 v2 v3 v4 v5 v6 v7 v8
    refine State.Inv.cut v4 (by
      unfold v4
      refine State.takeSeason_inv ?_
      refine State.Inv.of_frame State.steerToManager_frame (by decide) ?_
      refine State.Inv.of_frame State.send_frame (by decide) ?_
      assumption) fun h9 => ?_
    refine State.Inv.cut v7 (by
      unfold v7
      refine ⟨h9.dram, h9.plate, h9.acc, h9.stage, h9.season, h9.osc, h9.pendingCfg, h9.ticks, h9.capSteps, h9.capNow, h9.scrub, h9.rollback, h9.policyRegs, h9.policy, h9.order, h9.logRate, h9.interval, h9.queue⟩) fun h10 => ?_
    refine State.Inv.cut v8 (by
      unfold v8
      refine State.Inv.ite (fun _ => ?_) (fun _ => ?_)
      · refine State.Inv.of_frame State.send_frame (by decide) ?_
        assumption
      · assumption) fun h11 => ?_
    clear_value v1 v2 v3 v4 v7 v8
    refine State.Inv.of_frame State.checkJoined_frame (by decide) ?_
    assumption

theorem execAlignmentLoss_inv {s : State} {t : State} (h : execAlignmentLoss s = .next t) (hs : s.Inv) : t.Inv := by
  unfold execAlignmentLoss at h
  have h := Host.Outcome.next.inj h
  subst h
  refine State.Inv.ite (fun _ => ?_) (fun _ => ?_)
  · extract_lets -merge v1
    refine State.raiseAlarm_inv ?_
    refine ⟨hs.dram, hs.plate, hs.acc, hs.stage, hs.season, hs.osc, hs.pendingCfg, hs.ticks, hs.capSteps, hs.capNow, hs.scrub, hs.rollback, hs.policyRegs, hs.policy, hs.order, hs.logRate, hs.interval, hs.queue⟩
  · assumption

theorem execCounterAdvance_inv {d : Nat} {s : State} {t : State} (h : execCounterAdvance d s = .next t) (hs : s.Inv) : t.Inv := by
  unfold execCounterAdvance at h
  have h := Host.Outcome.next.inj h
  subst h
  refine State.Inv.ite (fun _ => ?_) (fun _ => ?_)
  · extract_lets -merge v1
    refine ⟨hs.dram, hs.plate, hs.acc, hs.stage, hs.season, hs.osc, hs.pendingCfg, hs.ticks, hs.capSteps, hs.capNow, hs.scrub, hs.rollback, hs.policyRegs, hs.policy, hs.order, hs.logRate, hs.interval, hs.queue⟩
  · assumption

theorem execDetached_inv {s : State} {t : State} (h : execDetached s = .next t) (hs : s.Inv) : t.Inv := by
  unfold execDetached at h
  have h := Host.Outcome.next.inj h
  subst h
  refine State.Inv.ite (fun _ => ?_) (fun _ => ?_)
  · extract_lets -merge v1 v2
    refine State.Inv.cut v2 (by
      unfold v2
      refine ⟨hs.dram, hs.plate, hs.acc, hs.stage, hs.season, hs.osc, hs.pendingCfg, hs.ticks, hs.capSteps, hs.capNow, hs.scrub, hs.rollback, hs.policyRegs, hs.policy, hs.order, hs.logRate, hs.interval, hs.queue⟩) fun h3 => ?_
    clear_value v2
    refine State.Inv.foldl ?_ (fun t4 a5 h6 => ?_)
    · assumption
    · refine State.raiseAlarm_inv ?_
      assumption
  · assumption

theorem State.endArrival_inv {s : State} {t : Transfer} {status detail sourceDetail : Nat} (hs : s.Inv) : State.Inv (State.endArrival s t status detail sourceDetail) := by
  unfold State.endArrival
  extract_lets -merge v1 v2
  refine State.Inv.cut v1 (by
    unfold v1
    refine State.Inv.of_frame State.dropTransfer_frame (by decide) ?_
    refine State.dropArrival_inv ?_
    assumption) fun h3 => ?_
  refine State.Inv.cut v2 (by
    unfold v2
    split
    · refine State.Inv.of_frame State.complete_frame (by decide) ?_
      assumption
    · assumption) fun h4 => ?_
  clear_value v1 v2
  refine State.Inv.of_frame State.bump_frame (by decide) ?_
  refine State.Inv.of_frame State.send_frame (by decide) ?_
  assumption

theorem State.meetOffer_inv {s : State} {t : Transfer} {o : OfferMsg} (hs : s.Inv) : State.Inv (State.meetOffer s t o) := by
  unfold State.meetOffer
  extract_lets -merge v1 v2 v3
  refine State.Inv.cut v2 (by
    unfold v2
    refine ⟨hs.dram, hs.plate, hs.acc, hs.stage, hs.season, hs.osc, hs.pendingCfg, hs.ticks, hs.capSteps, hs.capNow, hs.scrub, hs.rollback, hs.policyRegs, hs.policy, hs.order, hs.logRate, hs.interval, hs.queue⟩) fun h4 => ?_
  clear_value v2 v3
  split
  · assumption
  · split
    · refine State.endArrival_inv ?_
      assumption
    · extract_lets -merge v5
      split
      · extract_lets -merge v6 v7 v8 v9
        refine State.Inv.cut v8 (by
          unfold v8
          refine State.Inv.of_frame State.bump_frame (by decide) ?_
          refine State.Inv.of_frame State.leaveOut_frame (by decide) ?_
          refine State.Inv.of_frame State.clearPlace_frame (by decide) ?_
          refine State.commitPlace_inv ?_
          assumption) fun h10 => ?_
        refine State.Inv.cut v9 (by
          unfold v9
          refine State.Inv.of_frame State.modTransfer_frame (by decide) ?_
          assumption) fun h11 => ?_
        clear_value v8 v9
        refine State.Inv.of_frame State.send_frame (by decide) ?_
        refine State.Inv.of_frame State.modDesc_frame (by decide) ?_
        assumption
      · refine State.endArrival_inv ?_
        refine State.writeTrace_inv ?_
        refine State.Inv.of_frame State.bump_frame (by decide) ?_
        assumption
      · refine State.endArrival_inv ?_
        assumption

theorem execTransferIn_inv {ring seq : Nat} {s : State} {t : State} (h : execTransferIn ring seq s = .next t) (hs : s.Inv) : t.Inv := by
  unfold execTransferIn at h
  have h := Host.Outcome.next.inj h
  subst h
  split
  · assumption
  · refine State.Inv.ite (fun _ => ?_) (fun _ => ?_)
    · assumption
    · extract_lets -merge v1 v2
      refine State.Inv.cut v1 (by
        unfold v1
        refine State.Inv.ite (fun _ => ?_) (fun _ => ?_)
        · refine State.Inv.of_frame State.addTransfer_frame (by decide) ?_
          refine State.Inv.of_frame State.modDesc_frame (by decide) ?_
          assumption
        · assumption) fun h3 => ?_
      clear_value v1 v2
      split
      · refine State.Inv.ite (fun _ => ?_) (fun _ => ?_)
        · refine State.meetOffer_inv ?_
          assumption
        · assumption
      · assumption

theorem execOffer_inv {msg : OfferMsg} {s : State} {t : State} (h : execOffer msg s = .next t) (hs : s.Inv) : t.Inv := by
  unfold execOffer at h
  have h := Host.Outcome.next.inj h
  subst h
  extract_lets -merge v1 v2 v3
  refine State.Inv.cut v3 (by
    unfold v3
    refine ⟨hs.dram, hs.plate, hs.acc, hs.stage, hs.season, hs.osc, hs.pendingCfg, hs.ticks, hs.capSteps, hs.capNow, hs.scrub, hs.rollback, hs.policyRegs, hs.policy, hs.order, hs.logRate, hs.interval, hs.queue⟩) fun h4 => ?_
  clear_value v3
  refine State.Inv.ite (fun _ => ?_) (fun _ => ?_)
  · assumption
  · split
    · refine State.Inv.ite (fun _ => ?_) (fun _ => ?_)
      · refine State.meetOffer_inv ?_
        assumption
      · assumption
    · assumption

theorem execRefuse_inv {transferId : DWord} {detail : Nat} {s : State} {t : State} (h : execRefuse transferId detail s = .next t) (hs : s.Inv) : t.Inv := by
  unfold execRefuse at h
  have h := Host.Outcome.next.inj h
  subst h
  extract_lets -merge v1 v2
  refine State.Inv.cut v2 (by
    unfold v2
    refine ⟨hs.dram, hs.plate, hs.acc, hs.stage, hs.season, hs.osc, hs.pendingCfg, hs.ticks, hs.capSteps, hs.capNow, hs.scrub, hs.rollback, hs.policyRegs, hs.policy, hs.order, hs.logRate, hs.interval, hs.queue⟩) fun h3 => ?_
  clear_value v2
  split
  · assumption
  · extract_lets -merge v4 v5 v6
    refine State.Inv.cut v4 (by
      unfold v4
      refine State.dropArrival_inv ?_
      assumption) fun h7 => ?_
    refine State.Inv.cut v5 (by
      unfold v5
      split
      · refine State.Inv.ite (fun _ => ?_) (fun _ => ?_)
        · refine State.Inv.of_frame State.setStream_frame (by decide) ?_
          assumption
        · assumption
      · assumption) fun h8 => ?_
    refine State.Inv.cut v6 (by
      unfold v6
      split
      · refine State.Inv.of_frame State.complete_frame (by decide) ?_
        assumption
      · assumption) fun h9 => ?_
    clear_value v4 v5 v6
    refine State.Inv.of_frame State.bump_frame (by decide) ?_
    refine State.Inv.of_frame State.dropTransfer_frame (by decide) ?_
    assumption

theorem execEnvelope_inv {msg : EnvelopeMsg} {s : State} {t : State} (h : execEnvelope msg s = .next t) (hs : s.Inv) : t.Inv := by
  unfold execEnvelope at h
  have h := Host.Outcome.next.inj h
  subst h
  split
  · assumption
  · split
    · assumption
    · split
      · assumption
      · refine State.Inv.ite (fun _ => ?_) (fun _ => ?_)
        · assumption
        · extract_lets -merge v1 v2 v3 v4 v5 v6
          refine State.Inv.cut v4 (by
            unfold v4
            refine State.Inv.of_frame State.bump_frame (by decide) ?_
            refine State.Inv.of_frame State.charge_frame (by decide) ?_
            assumption) fun h7 => ?_
          refine State.Inv.cut v6 (by
            unfold v6
            refine State.Inv.of_frame State.importStream_frame (by decide) ?_
            assumption) fun h8 => ?_
          clear_value v1 v2 v4 v5 v6
          split
          · refine State.endArrival_inv ?_
            assumption
          · refine State.Inv.of_frame State.send_frame (by decide) ?_
            refine State.Inv.of_frame State.modTransfer_frame (by decide) ?_
            assumption

theorem State.arrive_inv {s : State} {t : Transfer} {d : Desc} {x : Stream} (hs : s.Inv) : State.Inv (State.arrive s t d x) := by
  unfold State.arrive
  extract_lets -merge v1 v2 v3 v4 v5
  refine State.Inv.cut v2 (by
    unfold v2
    split
    · refine State.Inv.of_frame State.setSession_frame (by decide) ?_
      assumption
    · assumption) fun h6 => ?_
  refine State.Inv.cut v4 (by
    unfold v4
    refine State.Inv.of_frame State.bump_frame (by decide) ?_
    refine State.Inv.of_frame State.dropTransfer_frame (by decide) ?_
    refine State.Inv.of_frame State.setStream_frame (by decide) ?_
    assumption) fun h7 => ?_
  refine State.Inv.cut v5 (by
    unfold v5
    refine State.Inv.of_frame State.complete_frame (by decide) ?_
    assumption) fun h8 => ?_
  clear_value v1 v2 v4 v5
  refine State.Inv.ite (fun _ => ?_) (fun _ => ?_)
  · refine State.Inv.of_frame State.listPlans_frame (by decide) ?_
    refine State.planStream_inv ?_
    refine State.resumeMoved_inv ?_
    assumption
  · assumption

theorem State.owner_inv {s : State} {id : DWord} {destination : Bool} (hs : s.Inv) : State.Inv (State.owner s id destination) := by
  unfold State.owner
  split
  · assumption
  · split
    · refine State.Inv.ite (fun _ => ?_) (fun _ => ?_)
      · refine State.Inv.ite (fun _ => ?_) (fun _ => ?_)
        · refine State.Inv.ite (fun _ => ?_) (fun _ => ?_)
          · refine State.Inv.of_frame State.depart_frame (by decide) ?_
            assumption
          · assumption
        · refine State.Inv.of_frame failTransfer_frame (by decide) ?_
          assumption
      · refine State.Inv.ite (fun _ => ?_) (fun _ => ?_)
        · refine State.Inv.ite (fun _ => ?_) (fun _ => ?_)
          · refine State.arrive_inv ?_
            assumption
          · assumption
        · refine State.endArrival_inv ?_
          assumption
    · assumption

theorem execOwner_inv {transferId : DWord} {destination : Bool} {s : State} {t : State} (h : execOwner transferId destination s = .next t) (hs : s.Inv) : t.Inv := by
  unfold execOwner at h
  have h := Host.Outcome.next.inj h
  subst h
  refine State.owner_inv ?_
  assumption

theorem State.tellOwner_inv {s : State} {member : Nat} {id : DWord} {destination : Bool} (hs : s.Inv) : State.Inv (State.tellOwner s member id destination) := by
  unfold State.tellOwner
  refine State.Inv.ite (fun _ => ?_) (fun _ => ?_)
  · refine State.owner_inv ?_
    assumption
  · refine State.Inv.of_frame State.send_frame (by decide) ?_
    assumption

theorem execImported_inv {transferId : DWord} {source dest session : Nat} {s : State} {t : State} (h : execImported transferId source dest session s = .next t) (hs : s.Inv) : t.Inv := by
  unfold execImported at h
  have h := Host.Outcome.next.inj h
  subst h
  refine State.Inv.ite (fun _ => ?_) (fun _ => ?_)
  · assumption
  · split
    · extract_lets -merge v1 v2
      refine State.Inv.cut v2 (by
        unfold v2
        refine ⟨hs.dram, hs.plate, hs.acc, hs.stage, hs.season, hs.osc, hs.pendingCfg, hs.ticks, hs.capSteps, hs.capNow, hs.scrub, hs.rollback, hs.policyRegs, hs.policy, hs.order, hs.logRate, hs.interval, hs.queue⟩) fun h3 => ?_
      clear_value v2
      refine State.tellOwner_inv ?_
      refine State.tellOwner_inv ?_
      assumption
    · refine State.tellOwner_inv ?_
      refine State.tellOwner_inv ?_
      assumption

end Sys2Proof.Machine
end

