-- ==== Sys2Proof/Laws/InvTick.lean ====
section
/-! SUPPORT. The invariant: each operation keeps the invariant, for the sample tick, the Frame tick and the setup registers. -/

namespace Sys2Proof.Machine

open Sys2Proof

theorem execSampleTick_inv {s t : State} (h : execSampleTick s = .next t) (hs : s.Inv) : t.Inv := by
  unfold execSampleTick at h
  have h := Host.Outcome.next.inj h
  subst h
  refine State.Inv.ite (fun _ => hs) (fun hlt => ?_)
  simp only [Bool.or_eq_true, decide_eq_true_eq, not_or, Nat.not_le] at hlt
  extract_lets -merge p0 s1 s2 s3 s4
  have hticks : s.tb.ticks + 1 ≤ s.frameTicks := hlt.2
  have h1 : s1.Inv :=
    ⟨hs.dram, hs.plate, hs.acc, hs.stage, hs.season, hs.osc, hs.pendingCfg, hticks, hs.capSteps, hs.capNow, hs.scrub, hs.rollback, hs.policyRegs, hs.policy, hs.order, hs.logRate, hs.interval, hs.queue⟩
  have h2 : s2.Inv := State.Inv.of_frame State.bump_frame (by decide) h1
  have h3 : s3.Inv := State.Inv.ite (fun _ => State.Inv.of_frame State.bump_frame (by decide) h2) (fun _ => h2)
  clear_value s3
  refine State.Inv.ite (fun _ => h3) (fun _ => ?_)
  refine State.Inv.of_frame State.groupTick_frame (by decide) (State.Inv.of_frame State.lineTick_frame (by decide) ?_)
  exact State.Inv.ite
    (fun _ => State.Inv.foldl h3 fun _ _ h => State.Inv.of_frame slipStream_frame (by decide) h) (fun _ => h3)

theorem counterTick_inv {s : State} (hs : s.Inv) : State.Inv (counterTick s) := by
  have hc : (s.tb.pendingCfg.getD (s.tb.season, s.tb.osc)).1 < 4 ∧ (s.tb.pendingCfg.getD (s.tb.season, s.tb.osc)).2 < 4 := by
    cases h : s.tb.pendingCfg with
    | none => exact ⟨hs.season, hs.osc⟩
    | some p => exact hs.pendingCfg p h
  exact ⟨hs.dram, hs.plate, hs.acc, hs.stage, hc.1, hc.2, (fun p hp => by cases hp), Nat.zero_le _, hs.capSteps, hs.capNow, hs.scrub, hs.rollback, hs.policyRegs, hs.policy, hs.order, hs.logRate, hs.interval, hs.queue⟩

theorem powerTick_inv {watts : Nat} {s : State} (hs : s.Inv) : State.Inv (powerTick watts s) := by
  unfold powerTick
  extract_lets above alone throttled s1 s2 p0
  have h1 : s1.Inv := State.Inv.ite (fun _ => State.raiseAlarm_inv hs) (fun _ => hs)
  have h2 : s2.Inv := State.Inv.ite (fun _ => State.Inv.of_frame State.bump_frame (by decide) h1) (fun _ => h1)
  exact ⟨h2.dram, h2.plate, h2.acc, h2.stage, h2.season, h2.osc, h2.pendingCfg, h2.ticks, h2.capSteps, h2.capSteps, h2.scrub, h2.rollback, h2.policyRegs, h2.policy, h2.order, h2.logRate, h2.interval, h2.queue⟩

theorem closeSteps_inv {s : State} (hs : s.Inv) : State.Inv (closeSteps s) := by
  unfold closeSteps
  extract_lets -merge v1 v2 v3
  refine State.Inv.cut v1 (by
    unfold v1
    refine residencyTick_inv ?_
    assumption) fun h4 => ?_
  refine State.Inv.cut v2 (by
    unfold v2
    refine State.Inv.foldl ?_ (fun t6 a7 h8 => ?_)
    · assumption
    · refine State.Inv.of_frame State.applyCtrls_frame (by decide) ?_
      refine State.Inv.of_frame State.removeAborted_frame (by decide) ?_
      assumption) fun h5 => ?_
  refine State.Inv.cut v3 (by
    unfold v3
    refine State.Inv.of_frame leaveForTransfer_frame (by decide) ?_
    refine State.Inv.of_frame commitCloses_frame (by decide) ?_
    assumption) fun h9 => ?_
  clear_value v1 v2 v3
  refine State.Inv.foldl ?_ (fun t10 a11 h12 => ?_)
  · assumption
  · split
    · refine State.tryResume_inv ?_
      assumption
    · assumption

theorem endStream_inv {s : State} {id : Nat} (hs : s.Inv) : State.Inv (endStream s id) := by
  unfold endStream
  split
  · assumption
  · refine State.Inv.ite (fun _ => ?_) (fun _ => ?_)
    · refine State.Inv.of_frame State.setStream_frame (by decide) ?_
      assumption
    · refine State.Inv.ite (fun _ => ?_) (fun _ => ?_)
      · extract_lets -merge v1 v2
        refine State.Inv.cut v1 (by
          unfold v1
          refine State.releaseStream_inv ?_
          assumption) fun h3 => ?_
        refine State.Inv.cut v2 (by
          unfold v2
          refine State.Inv.ite (fun _ => ?_) (fun _ => ?_)
          · split
            · refine State.Inv.of_frame State.setStream_frame (by decide) ?_
              assumption
            · assumption
          · assumption) fun h4 => ?_
        clear_value v1 v2
        refine State.Inv.ite (fun _ => ?_) (fun _ => ?_)
        · refine State.Inv.of_frame State.eraseStream_frame (by decide) ?_
          assumption
        · assumption
      · assumption

theorem State.commitRebind_inv {s : State} {m : List Byte} {j : Job} {cores : List Nat} {units : List (Nat × Nat)} (hs : s.Inv) : State.Inv (State.commitRebind s m j cores units) := by
  unfold State.commitRebind
  extract_lets -merge v1 v2 v3 v4 v5
  refine State.Inv.cut v2 (by
    unfold v2
    refine State.Inv.of_frame State.setJob_frame (by decide) ?_
    refine State.bindCores_inv ?_
    assumption) fun h6 => ?_
  refine State.Inv.cut v4 (by
    unfold v4
    refine State.Inv.foldl ?_ (fun t8 a9 h10 => ?_)
    · assumption
    · refine State.Inv.of_frame State.requestFrost_frame (by decide) ?_
      assumption) fun h7 => ?_
  clear_value v1 v2 v3 v4
  refine ⟨h7.dram, h7.plate, h7.acc, h7.stage, h7.season, h7.osc, h7.pendingCfg, h7.ticks, h7.capSteps, h7.capNow, h7.scrub, h7.rollback, h7.policyRegs, h7.policy, h7.order, h7.logRate, h7.interval, h7.queue⟩

theorem rebindTick_inv {s : State} (hs : s.Inv) : State.Inv (rebindTick s) := by
  unfold rebindTick
  split
  · assumption
  · extract_lets -merge v1 v2
    refine State.Inv.cut v2 (by
      unfold v2
      refine ⟨hs.dram, hs.plate, hs.acc, hs.stage, hs.season, hs.osc, hs.pendingCfg, hs.ticks, hs.capSteps, hs.capNow, hs.scrub, hs.rollback, hs.policyRegs, hs.policy, hs.order, hs.logRate, hs.interval, hs.queue⟩) fun h3 => ?_
    clear_value v2
    split
    · assumption
    · split
      · refine State.Inv.ite (fun _ => ?_) (fun _ => ?_)
        · assumption
        · split
          · assumption
          · split
            · rename_i y4 y5
              assumption
            · rename_i y6 y7 y8 y9
              refine State.Inv.cut y7 (by
                refine State.Inv.of_frame (State.reserveUnits_frame y9) (by decide) ?_
                assumption) fun h10 => ?_
              refine State.commitRebind_inv ?_
              assumption
      · assumption

theorem fillTick_inv {s : State} (hs : s.Inv) : State.Inv (fillTick s) := by
  unfold fillTick
  extract_lets -merge v1 v2
  refine State.Inv.cut v2 (by
    unfold v2
    refine State.Inv.foldl ?_ (fun t4 a5 h6 => ?_)
    · assumption
    · refine State.Inv.of_frame State.requestFrost_frame (by decide) ?_
      assumption) fun h3 => ?_
  clear_value v2
  refine State.Inv.ite (fun _ => ?_) (fun _ => ?_)
  · assumption
  · refine State.Inv.foldl ?_ (fun t7 a8 h9 => ?_)
    · assumption
    · refine State.offerFill_inv ?_
      assumption

theorem planTick_inv {s : State} (hs : s.Inv) : State.Inv (planTick s) := by
  unfold planTick
  refine State.Inv.ite (fun _ => ?_) (fun _ => ?_)
  · extract_lets -merge v1 v2 v3
    refine State.Inv.cut v1 (by
      unfold v1
      refine State.Inv.of_frame holdTransfers_frame (by decide) ?_
      assumption) fun h4 => ?_
    refine State.Inv.cut v3 (by
      unfold v3
      refine ⟨h4.dram, h4.plate, h4.acc, h4.stage, h4.season, h4.osc, h4.pendingCfg, h4.ticks, h4.capSteps, h4.capNow, h4.scrub, h4.rollback, h4.policyRegs, h4.policy, h4.order, h4.logRate, h4.interval, h4.queue⟩) fun h5 => ?_
    clear_value v1 v3
    refine State.Inv.of_frame State.listPlans_frame (by decide) ?_
    refine State.Inv.foldl ?_ (fun t6 a7 h8 => ?_)
    · assumption
    · refine State.planStream_inv ?_
      assumption
  · extract_lets -merge v9 v10 v11 v12 v13
    refine State.Inv.cut v9 (by
      unfold v9
      refine closeSteps_inv ?_
      assumption) fun h14 => ?_
    refine State.Inv.cut v10 (by
      unfold v10
      refine State.Inv.of_frame recordCoverage_frame (by decide) ?_
      refine State.Inv.of_frame State.listPlans_frame (by decide) ?_
      refine State.Inv.foldl ?_ (fun t16 a17 h18 => ?_)
      · assumption
      · refine State.planStream_inv ?_
        assumption) fun h15 => ?_
    refine State.Inv.cut v11 (by
      unfold v11
      refine State.Inv.foldl ?_ (fun t20 a21 h22 => ?_)
      · assumption
      · refine endStream_inv ?_
        assumption) fun h19 => ?_
    refine State.Inv.cut v12 (by
      unfold v12
      refine State.Inv.foldl ?_ (fun t24 a25 h26 => ?_)
      · assumption
      · refine State.Inv.of_frame State.endFaulted_frame (by decide) ?_
        assumption) fun h23 => ?_
    refine State.Inv.cut v13 (by
      unfold v13
      refine State.Inv.foldl ?_ (fun t28 a29 h30 => ?_)
      · assumption
      · refine State.Inv.of_frame restartDeadline_frame (by decide) ?_
        assumption) fun h27 => ?_
    clear_value v9 v10 v11 v12 v13
    refine fillTick_inv ?_
    refine rebindTick_inv ?_
    assumption

theorem execFrameTick_inv {watts : Nat} {s : State} {t : State} (h : execFrameTick watts s = .next t) (hs : s.Inv) : t.Inv := by
  unfold execFrameTick at h
  have h := Host.Outcome.next.inj h
  subst h
  refine State.Inv.ite (fun _ => ?_) (fun _ => ?_)
  · assumption
  · extract_lets -merge v1 v2 v3 v4 v5 v6 v7
    refine State.Inv.cut v1 (by
      unfold v1
      refine State.Inv.ite (fun _ => ?_) (fun _ => ?_)
      · refine State.Inv.of_frame State.bump_frame (by decide) ?_
        assumption
      · assumption) fun h8 => ?_
    refine State.Inv.cut v2 (by
      unfold v2
      refine State.Inv.of_frame cntTick_frame (by decide) ?_
      refine counterTick_inv ?_
      refine State.Inv.of_frame markStretched_frame (by decide) ?_
      assumption) fun h9 => ?_
    refine State.Inv.cut v3 (by
      unfold v3
      refine State.Inv.of_frame State.bump_frame (by decide) ?_
      assumption) fun h10 => ?_
    refine State.Inv.cut v4 (by
      unfold v4
      refine powerTick_inv ?_
      assumption) fun h11 => ?_
    refine State.Inv.cut v5 (by
      unfold v5
      refine State.Inv.foldl ?_ (fun t13 a14 h15 => ?_)
      · assumption
      · refine State.Inv.of_frame tickStream_frame (by decide) ?_
        assumption) fun h12 => ?_
    refine State.Inv.cut v6 (by
      unfold v6
      refine State.Inv.of_frame rebindFrost_frame (by decide) ?_
      refine State.Inv.foldl ?_ (fun t17 a18 h19 => ?_)
      · assumption
      · refine State.settle_inv ?_
        assumption) fun h16 => ?_
    refine State.Inv.cut v7 (by
      unfold v7
      refine State.Inv.of_frame State.lineFrame_frame (by decide) ?_
      refine State.Inv.of_frame State.lineRates_frame (by decide) ?_
      refine planTick_inv ?_
      assumption) fun h20 => ?_
    clear_value v1 v2 v3 v4 v5 v6 v7
    refine State.Inv.ite (fun _ => ?_) (fun _ => ?_)
    · assumption
    · refine State.Inv.of_frame State.reportTick_frame (by decide) ?_
      refine State.Inv.of_frame missSymbol_frame (by decide) ?_
      refine State.Inv.of_frame sendSymbols_frame (by decide) ?_
      assumption

theorem execTallyWindowEnd_inv {s : State} {t : State} (h : execTallyWindowEnd s = .next t) (hs : s.Inv) : t.Inv := by
  unfold execTallyWindowEnd at h
  have h := Host.Outcome.next.inj h
  subst h
  refine State.Inv.ite (fun _ => ?_) (fun _ => ?_)
  · assumption
  · extract_lets -merge v1 v2 v3 v4
    refine State.Inv.cut v3 (by
      unfold v3
      refine State.Inv.of_frame sendAlm_frame (by decide) ?_
      refine State.Inv.foldl ?_ (fun t6 a7 h8 => ?_)
      · assumption
      · refine State.Inv.of_frame sendTally_frame (by decide) ?_
        assumption) fun h5 => ?_
    clear_value v1 v2 v3
    refine ⟨h5.dram, h5.plate, h5.acc, h5.stage, h5.season, h5.osc, h5.pendingCfg, h5.ticks, h5.capSteps, h5.capNow, h5.scrub, h5.rollback, h5.policyRegs, h5.policy, h5.order, h5.logRate, h5.interval, h5.queue⟩

theorem execAccountingIntervalEnd_inv {s t : State} (h : execAccountingIntervalEnd s = .next t) (hs : s.Inv) : t.Inv := by
  unfold execAccountingIntervalEnd at h
  have h := Host.Outcome.next.inj h
  subst h
  refine State.Inv.ite (fun _ => hs) (fun _ => ?_)
  extract_lets -merge s1 s2 next p0
  have h1 : s1.Inv := State.Inv.ite
    (fun _ => State.Inv.foldl hs fun _ _ h => State.Inv.of_frame writeJobRecord_frame (by decide) h) (fun _ => hs)
  have h2 : s2.Inv := State.Inv.foldl h1 fun _ _ h => State.Inv.of_frame writeSessionRecord_frame (by decide) h
  have hn : 1 ≤ next.1 := by
    show 1 ≤ (s2.acct.next.getD (s2.acct.interval, s2.acct.jobRecords)).1
    cases hx : s2.acct.next with
    | none => exact h2.interval.1
    | some n => exact h2.interval.2 n hx
  clear_value s2
  exact ⟨h2.dram, h2.plate, h2.acc, h2.stage, h2.season, h2.osc, h2.pendingCfg, h2.ticks, h2.capSteps, h2.capNow, h2.scrub, h2.rollback, h2.policyRegs, h2.policy, h2.order, h2.logRate, ⟨hn, fun n hx => by cases hx⟩, h2.queue⟩

theorem execEslFrameCntLoRead_inv {port : Nat} {s : State} {t : State} (h : execEslFrameCntLoRead port s = .next t) (hs : s.Inv) : t.Inv := by
  unfold execEslFrameCntLoRead at h
  have h := Host.Outcome.next.inj h
  subst h
  refine State.Inv.ite (fun _ => ?_) (fun _ => ?_)
  · extract_lets -merge v1
    refine ⟨hs.dram, hs.plate, hs.acc, hs.stage, hs.season, hs.osc, hs.pendingCfg, hs.ticks, hs.capSteps, hs.capNow, hs.scrub, hs.rollback, hs.policyRegs, hs.policy, hs.order, hs.logRate, hs.interval, hs.queue⟩
  · assumption

theorem timebaseCfgWrite_inv {v : Word} {s : State} (hs : s.Inv) : State.Inv (timebaseCfgWrite v s) := by
  unfold timebaseCfgWrite
  extract_lets -merge new old p0 accept p1 p2
  have ha (p : Option (Nat × Nat)) (hp : ∀ q, p = some q → q.1 < 4 ∧ q.2 < 4) : (accept p).Inv :=
    ⟨hs.dram, hs.plate, hs.acc, hs.stage, hs.season, hs.osc, hp, hs.ticks, hs.capSteps, hs.capNow, hs.scrub, hs.rollback, hs.policyRegs, hs.policy, hs.order, hs.logRate, hs.interval, hs.queue⟩
  have hr : State.Inv { s with tb := { s.tb with refused := true } } :=
    ⟨hs.dram, hs.plate, hs.acc, hs.stage, hs.season, hs.osc, hs.pendingCfg, hs.ticks, hs.capSteps, hs.capNow, hs.scrub, hs.rollback, hs.policyRegs, hs.policy, hs.order, hs.logRate, hs.interval, hs.queue⟩
  refine State.Inv.ite (fun _ => hr) (fun _ => State.Inv.ite (fun _ => ha _ hs.pendingCfg) (fun _ => State.Inv.ite (fun _ => hr) (fun _ => ha _ ?_)))
  intro q hq
  split at hq
  · cases hq
  · cases hq
    simp only [new, fld]
    omega

theorem execEslTimebaseCfgWrite_inv {port : Nat} {value : Word} {s : State} {t : State} (h : execEslTimebaseCfgWrite port value s = .next t) (hs : s.Inv) : t.Inv := by
  unfold execEslTimebaseCfgWrite at h
  have h := Host.Outcome.next.inj h
  subst h
  refine State.Inv.ite (fun _ => ?_) (fun _ => ?_)
  · refine timebaseCfgWrite_inv ?_
    assumption
  · assumption

theorem acctCfgWrite_inv {v : Word} {s : State} (hs : s.Inv) : State.Inv (acctCfgWrite v s) := by
  have hold : 1 ≤ (s.acct.next.map (·.1)).getD s.acct.interval := by
    cases h : s.acct.next with
    | none => exact hs.interval.1
    | some n => exact hs.interval.2 n h
  have hn : ∀ n, some (if fld v 15 0 = 0 then (s.acct.next.map (·.1)).getD s.acct.interval else fld v 15 0, bitOf v 16) = some n → 1 ≤ n.1 := by
    intro n h
    cases h
    dsimp only
    split
    · exact hold
    · omega
  exact ⟨hs.dram, hs.plate, hs.acc, hs.stage, hs.season, hs.osc, hs.pendingCfg, hs.ticks, hs.capSteps, hs.capNow, hs.scrub, hs.rollback, hs.policyRegs, hs.policy, hs.order, hs.logRate, ⟨hs.interval.1, hn⟩, hs.queue⟩

theorem execEslAcctCfgWrite_inv {port : Nat} {value : Word} {s : State} {t : State} (h : execEslAcctCfgWrite port value s = .next t) (hs : s.Inv) : t.Inv := by
  unfold execEslAcctCfgWrite at h
  have h := Host.Outcome.next.inj h
  subst h
  refine State.Inv.ite (fun _ => ?_) (fun _ => ?_)
  · refine acctCfgWrite_inv ?_
    assumption
  · assumption

theorem pwrCapWrite_inv {v : Word} {s : State} (hs : s.Inv) : State.Inv (pwrCapWrite v s) := by
  have hc : 24 ≤ max 24 (min 68 (fld v 6 0)) ∧ max 24 (min 68 (fld v 6 0)) ≤ 68 := by omega
  exact ⟨hs.dram, hs.plate, hs.acc, hs.stage, hs.season, hs.osc, hs.pendingCfg, hs.ticks, hc, hs.capNow, hs.scrub, hs.rollback, hs.policyRegs, hs.policy, hs.order, hs.logRate, hs.interval, hs.queue⟩

theorem execPwrCapWrite_inv {port : Nat} {value : Word} {s : State} {t : State} (h : execPwrCapWrite port value s = .next t) (hs : s.Inv) : t.Inv := by
  unfold execPwrCapWrite at h
  have h := Host.Outcome.next.inj h
  subst h
  refine State.Inv.ite (fun _ => ?_) (fun _ => ?_)
  · refine pwrCapWrite_inv ?_
    assumption
  · assumption

theorem eslWrite_inv {o : Nat} {v : Word} {s : State} (hs : s.Inv) : State.Inv (eslWrite o v s) := by
  unfold eslWrite
  split
  · refine timebaseCfgWrite_inv ?_
    assumption
  · refine resetCtlWrite_inv ?_
    assumption
  · extract_lets -merge v1
    refine ⟨hs.dram, hs.plate, hs.acc, hs.stage, hs.season, hs.osc, hs.pendingCfg, hs.ticks, hs.capSteps, hs.capNow, hs.scrub, hs.rollback, hs.policyRegs, hs.policy, hs.order, hs.logRate, hs.interval, hs.queue⟩
  · extract_lets -merge v2
    refine State.Inv.cut v2 (by
      unfold v2
      refine State.Inv.ite (fun _ => ?_) (fun _ => ?_)
      · refine stageClear_inv ?_
        assumption
      · assumption) fun h3 => ?_
    clear_value v2
    refine State.Inv.ite (fun _ => ?_) (fun _ => ?_)
    · refine stageCommit_inv ?_
      assumption
    · assumption
  · refine acctCfgWrite_inv ?_
    assumption
  · refine State.Inv.of_frame rebindWrite_frame (by decide) ?_
    assumption
  · refine State.Inv.ite (fun _ => ?_) (fun _ => ?_)
    · assumption
    · extract_lets -merge v4
      refine ⟨hs.dram, hs.plate, hs.acc, hs.stage, hs.season, hs.osc, hs.pendingCfg, hs.ticks, hs.capSteps, hs.capNow, hs.scrub, hs.rollback, hs.policyRegs, hs.policy, hs.order, hs.logRate, hs.interval, hs.queue⟩
  · refine State.Inv.ite (fun _ => ?_) (fun _ => ?_)
    · assumption
    · extract_lets -merge v5
      refine ⟨hs.dram, hs.plate, hs.acc, hs.stage, hs.season, hs.osc, hs.pendingCfg, hs.ticks, hs.capSteps, hs.capNow, hs.scrub, hs.rollback, hs.policyRegs, hs.policy, hs.order, hs.logRate, hs.interval, hs.queue⟩
  · refine evtCfgWrite_inv ?_
    assumption
  · refine State.Inv.ite (fun _ => ?_) (fun _ => ?_)
    · assumption
    · extract_lets -merge v6
      refine ⟨hs.dram, hs.plate, hs.acc, hs.stage, hs.season, hs.osc, hs.pendingCfg, hs.ticks, hs.capSteps, hs.capNow, hs.scrub, hs.rollback, hs.policyRegs, hs.policy, hs.order, hs.logRate, hs.interval, hs.queue⟩
  · refine evtCiWrite_inv ?_
    assumption
  · extract_lets -merge v7
    refine ⟨hs.dram, hs.plate, hs.acc, hs.stage, hs.season, hs.osc, hs.pendingCfg, hs.ticks, hs.capSteps, hs.capNow, hs.scrub, hs.rollback, hs.policyRegs, hs.policy, hs.order, hs.logRate, hs.interval, hs.queue⟩
  · assumption

theorem memRegWrite_inv {o : Nat} {v : Word} {s : State} (hs : s.Inv) : State.Inv (memRegWrite o v s) := by
  have hp : 1 ≤ (if fld v 4 0 = 0 || 24 < fld v 4 0 then 24 else fld v 4 0) ∧
      (if fld v 4 0 = 0 || 24 < fld v 4 0 then 24 else fld v 4 0) ≤ 24 := by
    split
    · decide
    · next h =>
      simp only [Bool.or_eq_true, decide_eq_true_eq, not_or] at h
      omega
  unfold memRegWrite
  split
  · exact ⟨hs.dram, hs.plate, hs.acc, hs.stage, hs.season, hs.osc, hs.pendingCfg, hs.ticks, hs.capSteps, hs.capNow, hs.scrub, hs.rollback, hs.policyRegs, hs.policy, hs.order, hs.logRate, hs.interval, hs.queue⟩
  · exact ⟨hs.dram, hs.plate, hs.acc, hs.stage, hs.season, hs.osc, hs.pendingCfg, hs.ticks, hs.capSteps, hs.capNow, hp, hs.rollback, hs.policyRegs, hs.policy, hs.order, hs.logRate, hs.interval, hs.queue⟩
  · exact ⟨hs.dram, hs.plate, hs.acc, hs.stage, hs.season, hs.osc, hs.pendingCfg, hs.ticks, hs.capSteps, hs.capNow, hs.scrub, hs.rollback, hs.policyRegs, hs.policy, hs.order, hs.logRate, hs.interval, hs.queue⟩
  · exact ⟨hs.dram, hs.plate, hs.acc, hs.stage, hs.season, hs.osc, hs.pendingCfg, hs.ticks, hs.capSteps, hs.capNow, hs.scrub, hs.rollback, hs.policyRegs, hs.policy, hs.order, hs.logRate, hs.interval, hs.queue⟩
  · exact ⟨hs.dram, hs.plate, hs.acc, hs.stage, hs.season, hs.osc, hs.pendingCfg, hs.ticks, hs.capSteps, hs.capNow, hs.scrub, hs.rollback, hs.policyRegs, hs.policy, hs.order, hs.logRate, hs.interval, hs.queue⟩
  · exact hs

theorem ihxWrite_inv {o : Nat} {v : Word} {s : State} (hs : s.Inv) : State.Inv (ihxWrite o v s) := by
  unfold ihxWrite
  refine State.Inv.ite (fun _ => ?_) (fun _ => ?_)
  · refine State.Inv.of_frame folioCfgWrite_frame (by decide) ?_
    assumption
  · refine State.Inv.ite (fun _ => ?_) (fun _ => ?_)
    · refine State.Inv.ite (fun _ => ?_) (fun _ => ?_)
      · refine State.leave_inv ?_
        assumption
      · assumption
    · refine State.Inv.ite (fun _ => ?_) (fun _ => ?_)
      · extract_lets -merge v1
        refine ⟨hs.dram, hs.plate, hs.acc, hs.stage, hs.season, hs.osc, hs.pendingCfg, hs.ticks, hs.capSteps, hs.capNow, hs.scrub, hs.rollback, hs.policyRegs, hs.policy, hs.order, hs.logRate, hs.interval, hs.queue⟩
      · refine State.Inv.ite (fun _ => ?_) (fun _ => ?_)
        · assumption
        · refine State.Inv.ite (fun _ => ?_) (fun _ => ?_)
          · extract_lets -merge v2 v3
            clear_value v2
            refine ⟨hs.dram, hs.plate, hs.acc, hs.stage, hs.season, hs.osc, hs.pendingCfg, hs.ticks, hs.capSteps, hs.capNow, hs.scrub, hs.rollback, hs.policyRegs, hs.policy, hs.order, hs.logRate, hs.interval, hs.queue⟩
          · refine State.Inv.ite (fun _ => ?_) (fun _ => ?_)
            · refine State.Inv.of_frame placeCtlWrite_frame (by decide) ?_
              assumption
            · refine State.Inv.ite (fun _ => ?_) (fun _ => ?_)
              · extract_lets -merge v4
                refine ⟨hs.dram, hs.plate, hs.acc, hs.stage, hs.season, hs.osc, hs.pendingCfg, hs.ticks, hs.capSteps, hs.capNow, hs.scrub, hs.rollback, hs.policyRegs, hs.policy, hs.order, hs.logRate, hs.interval, hs.queue⟩
              · assumption

theorem prfWrite_inv {o : Nat} {v : Word} {s : State} (hs : s.Inv) : State.Inv (prfWrite o v s) := by
  unfold prfWrite
  extract_lets -merge p0 setPolicy p1
  have hp (i : Nat) (w : Word) : (setPolicy i w).Inv := by
    refine State.Inv.ite (fun _ => hs) (fun hl => ?_)
    exact ⟨hs.dram, hs.plate, hs.acc, hs.stage, hs.season, hs.osc, hs.pendingCfg, hs.ticks, hs.capSteps, hs.capNow, hs.scrub, hs.rollback, (by rw [List.length_set]; exact hs.policyRegs), fun h => absurd h hl, hs.order, hs.logRate, hs.interval, hs.queue⟩
  split
  · exact State.Inv.ite (fun _ => lockPolicy_inv hs) (fun _ => hs)
  · exact commitSvn_inv hs
  · exact ⟨hs.dram, hs.plate, hs.acc, hs.stage, hs.season, hs.osc, hs.pendingCfg, hs.ticks, hs.capSteps, hs.capNow, hs.scrub, hs.rollback, hs.policyRegs, hs.policy, hs.order, hs.logRate, hs.interval, hs.queue⟩
  · exact hp _ _
  · exact hp _ _
  · exact hs

theorem mbxWrite_inv {o : Nat} {v : Word} {s : State} (hs : s.Inv) : State.Inv (mbxWrite o v s) := by
  unfold mbxWrite
  refine State.Inv.ite (fun _ => ?_) (fun _ => ?_)
  · extract_lets -merge v1
    clear_value v1
    refine State.Inv.ite (fun _ => ?_) (fun _ => ?_)
    · refine mailboxSend_inv ?_
      assumption
    · assumption
  · refine State.Inv.ite (fun _ => ?_) (fun _ => ?_)
    · extract_lets -merge v2 v3
      clear_value v2
      refine State.Inv.ite (fun _ => ?_) (fun _ => ?_)
      · refine mailboxViolation_inv ?_
        assumption
      · refine State.Inv.ite (fun _ => ?_) (fun _ => ?_)
        · assumption
        · refine State.Inv.of_frame State.setMailbox_frame (by decide) ?_
          assumption
    · assumption

theorem stageWrite_inv {offset : Nat} {v : Word} {s : State} (hs : s.Inv) : State.Inv (stageWrite offset v s) := by
  unfold stageWrite
  refine State.Inv.ite (fun _ => ?_) (fun _ => ?_)
  · extract_lets -merge v1
    refine ⟨hs.dram, hs.plate, hs.acc, ?_, hs.season, hs.osc, hs.pendingCfg, hs.ticks, hs.capSteps, hs.capNow, hs.scrub, hs.rollback, hs.policyRegs, hs.policy, hs.order, hs.logRate, hs.interval, hs.queue⟩
    exact memStore_wf hs.stage
  · assumption

theorem regWrite_inv {a : Nat} {v : Word} {s : State} (hs : s.Inv) : State.Inv (regWrite a v s) := by
  unfold regWrite
  refine State.Inv.ite (fun _ => ?_) (fun _ => ?_)
  · assumption
  · refine State.Inv.ite (fun _ => ?_) (fun _ => ?_)
    · refine eslWrite_inv ?_
      assumption
    · refine State.Inv.ite (fun _ => ?_) (fun _ => ?_)
      · refine State.Inv.ite (fun _ => ?_) (fun _ => ?_)
        · refine pwrCapWrite_inv ?_
          assumption
        · assumption
      · refine State.Inv.ite (fun _ => ?_) (fun _ => ?_)
        · refine memRegWrite_inv ?_
          assumption
        · refine State.Inv.ite (fun _ => ?_) (fun _ => ?_)
          · refine State.Inv.of_frame clkWrite_frame (by decide) ?_
            assumption
          · refine State.Inv.ite (fun _ => ?_) (fun _ => ?_)
            · refine ihxWrite_inv ?_
              assumption
            · refine State.Inv.ite (fun _ => ?_) (fun _ => ?_)
              · refine prfWrite_inv ?_
                assumption
              · refine State.Inv.ite (fun _ => ?_) (fun _ => ?_)
                · refine State.Inv.of_frame almWrite_frame (by decide) ?_
                  assumption
                · refine State.Inv.ite (fun _ => ?_) (fun _ => ?_)
                  · assumption
                  · refine State.Inv.ite (fun _ => ?_) (fun _ => ?_)
                    · refine State.Inv.of_frame audWrite_frame (by decide) ?_
                      assumption
                    · refine State.Inv.ite (fun _ => ?_) (fun _ => ?_)
                      · refine mbxWrite_inv ?_
                        assumption
                      · refine State.Inv.ite (fun _ => ?_) (fun _ => ?_)
                        · refine State.Inv.of_frame cntWrite_frame (by decide) ?_
                          assumption
                        · refine State.Inv.ite (fun _ => ?_) (fun _ => ?_)
                          · assumption
                          · refine State.Inv.ite (fun _ => ?_) (fun _ => ?_)
                            · refine State.Inv.of_frame rmkWrite_frame (by decide) ?_
                              assumption
                            · refine State.Inv.ite (fun _ => ?_) (fun _ => ?_)
                              · assumption
                              · refine State.Inv.ite (fun _ => ?_) (fun _ => ?_)
                                · refine stageWrite_inv ?_
                                  assumption
                                · assumption

theorem wordWrite_inv {port a : Nat} {v : Word} {s : State} (hs : s.Inv) : State.Inv (wordWrite port a v s) := by
  unfold wordWrite
  refine State.Inv.ite (fun _ => ?_) (fun _ => ?_)
  · refine regWrite_inv ?_
    assumption
  · assumption

theorem execMaintenanceWrite_inv {port addr width : Nat} {value : DWord} {s : State} {t : State} (h : execMaintenanceWrite port addr width value s = .next t) (hs : s.Inv) : t.Inv := by
  unfold execMaintenanceWrite at h
  have h := Host.Outcome.next.inj h
  subst h
  refine State.Inv.ite (fun _ => ?_) (fun _ => ?_)
  · refine wordWrite_inv ?_
    assumption
  · refine State.Inv.ite (fun _ => ?_) (fun _ => ?_)
    · refine wordWrite_inv ?_
      refine wordWrite_inv ?_
      assumption
    · refine State.Inv.of_frame dropWrite_frame (by decide) ?_
      assumption

end Sys2Proof.Machine
end

