-- ==== Sys2Proof/Laws/State.lean ====
section
/-! SUPPORT. What each update of the state leaves alone, and what a table reads after an update: cited, so that no proof unfolds a
record update. -/

namespace Sys2Proof.Machine

open Sys2Proof

variable (s : State)

/-! ### State.setRing -/

@[simp] theorem State.setRing_boot (n : Nat) (r : Ring) : (s.setRing n r).boot = s.boot := rfl
@[simp] theorem State.setRing_nv (n : Nat) (r : Ring) : (s.setRing n r).nv = s.nv := rfl
@[simp] theorem State.setRing_part (n : Nat) (r : Ring) : (s.setRing n r).part = s.part := rfl
@[simp] theorem State.setRing_stage (n : Nat) (r : Ring) : (s.setRing n r).stage = s.stage := rfl
@[simp] theorem State.setRing_tb (n : Nat) (r : Ring) : (s.setRing n r).tb = s.tb := rfl
@[simp] theorem State.setRing_cap (n : Nat) (r : Ring) : (s.setRing n r).cap = s.cap := rfl
@[simp] theorem State.setRing_pwr (n : Nat) (r : Ring) : (s.setRing n r).pwr = s.pwr := rfl
@[simp] theorem State.setRing_mem (n : Nat) (r : Ring) : (s.setRing n r).mem = s.mem := rfl
@[simp] theorem State.setRing_dram (n : Nat) (r : Ring) : (s.setRing n r).dram = s.dram := rfl
@[simp] theorem State.setRing_sessions (n : Nat) (r : Ring) : (s.setRing n r).sessions = s.sessions := rfl
@[simp] theorem State.setRing_models (n : Nat) (r : Ring) : (s.setRing n r).models = s.models := rfl
@[simp] theorem State.setRing_nextHandle (n : Nat) (r : Ring) : (s.setRing n r).nextHandle = s.nextHandle := rfl
@[simp] theorem State.setRing_streams (n : Nat) (r : Ring) : (s.setRing n r).streams = s.streams := rfl
@[simp] theorem State.setRing_jobs (n : Nat) (r : Ring) : (s.setRing n r).jobs = s.jobs := rfl
@[simp] theorem State.setRing_hatch (n : Nat) (r : Ring) : (s.setRing n r).hatch = s.hatch := rfl
@[simp] theorem State.setRing_burin (n : Nat) (r : Ring) : (s.setRing n r).burin = s.burin := rfl
@[simp] theorem State.setRing_lines (n : Nat) (r : Ring) : (s.setRing n r).lines = s.lines := rfl
@[simp] theorem State.setRing_ihx (n : Nat) (r : Ring) : (s.setRing n r).ihx = s.ihx := rfl
@[simp] theorem State.setRing_proof (n : Nat) (r : Ring) : (s.setRing n r).proof = s.proof := rfl
@[simp] theorem State.setRing_mbx (n : Nat) (r : Ring) : (s.setRing n r).mbx = s.mbx := rfl
@[simp] theorem State.setRing_alm (n : Nat) (r : Ring) : (s.setRing n r).alm = s.alm := rfl
@[simp] theorem State.setRing_evt (n : Nat) (r : Ring) : (s.setRing n r).evt = s.evt := rfl
@[simp] theorem State.setRing_fault (n : Nat) (r : Ring) : (s.setRing n r).fault = s.fault := rfl
@[simp] theorem State.setRing_cnt (n : Nat) (r : Ring) : (s.setRing n r).cnt = s.cnt := rfl
@[simp] theorem State.setRing_acct (n : Nat) (r : Ring) : (s.setRing n r).acct = s.acct := rfl
@[simp] theorem State.setRing_rebind (n : Nat) (r : Ring) : (s.setRing n r).rebind = s.rebind := rfl
@[simp] theorem State.setRing_tallies (n : Nat) (r : Ring) : (s.setRing n r).tallies = s.tallies := rfl
@[simp] theorem State.setRing_mseqOut (n : Nat) (r : Ring) : (s.setRing n r).mseqOut = s.mseqOut := rfl
@[simp] theorem State.setRing_almSent (n : Nat) (r : Ring) : (s.setRing n r).almSent = s.almSent := rfl
@[simp] theorem State.setRing_host (n : Nat) (r : Ring) : (s.setRing n r).host = s.host := rfl
@[simp] theorem State.setRing_free (n : Nat) (r : Ring) : (s.setRing n r).free = s.free := rfl
@[simp] theorem State.setRing_pending (n : Nat) (r : Ring) : (s.setRing n r).pending = s.pending := rfl

/-! ### State.setPort -/

@[simp] theorem State.setPort_boot (p : Nat) (x : Port) : (s.setPort p x).boot = s.boot := rfl
@[simp] theorem State.setPort_nv (p : Nat) (x : Port) : (s.setPort p x).nv = s.nv := rfl
@[simp] theorem State.setPort_part (p : Nat) (x : Port) : (s.setPort p x).part = s.part := rfl
@[simp] theorem State.setPort_stage (p : Nat) (x : Port) : (s.setPort p x).stage = s.stage := rfl
@[simp] theorem State.setPort_tb (p : Nat) (x : Port) : (s.setPort p x).tb = s.tb := rfl
@[simp] theorem State.setPort_cap (p : Nat) (x : Port) : (s.setPort p x).cap = s.cap := rfl
@[simp] theorem State.setPort_pwr (p : Nat) (x : Port) : (s.setPort p x).pwr = s.pwr := rfl
@[simp] theorem State.setPort_mem (p : Nat) (x : Port) : (s.setPort p x).mem = s.mem := rfl
@[simp] theorem State.setPort_dram (p : Nat) (x : Port) : (s.setPort p x).dram = s.dram := rfl
@[simp] theorem State.setPort_sessions (p : Nat) (x : Port) : (s.setPort p x).sessions = s.sessions := rfl
@[simp] theorem State.setPort_models (p : Nat) (x : Port) : (s.setPort p x).models = s.models := rfl
@[simp] theorem State.setPort_nextHandle (p : Nat) (x : Port) : (s.setPort p x).nextHandle = s.nextHandle := rfl
@[simp] theorem State.setPort_streams (p : Nat) (x : Port) : (s.setPort p x).streams = s.streams := rfl
@[simp] theorem State.setPort_jobs (p : Nat) (x : Port) : (s.setPort p x).jobs = s.jobs := rfl
@[simp] theorem State.setPort_hatch (p : Nat) (x : Port) : (s.setPort p x).hatch = s.hatch := rfl
@[simp] theorem State.setPort_burin (p : Nat) (x : Port) : (s.setPort p x).burin = s.burin := rfl
@[simp] theorem State.setPort_lines (p : Nat) (x : Port) : (s.setPort p x).lines = s.lines := rfl
@[simp] theorem State.setPort_ihx (p : Nat) (x : Port) : (s.setPort p x).ihx = s.ihx := rfl
@[simp] theorem State.setPort_proof (p : Nat) (x : Port) : (s.setPort p x).proof = s.proof := rfl
@[simp] theorem State.setPort_mbx (p : Nat) (x : Port) : (s.setPort p x).mbx = s.mbx := rfl
@[simp] theorem State.setPort_alm (p : Nat) (x : Port) : (s.setPort p x).alm = s.alm := rfl
@[simp] theorem State.setPort_evt (p : Nat) (x : Port) : (s.setPort p x).evt = s.evt := rfl
@[simp] theorem State.setPort_fault (p : Nat) (x : Port) : (s.setPort p x).fault = s.fault := rfl
@[simp] theorem State.setPort_cnt (p : Nat) (x : Port) : (s.setPort p x).cnt = s.cnt := rfl
@[simp] theorem State.setPort_acct (p : Nat) (x : Port) : (s.setPort p x).acct = s.acct := rfl
@[simp] theorem State.setPort_rebind (p : Nat) (x : Port) : (s.setPort p x).rebind = s.rebind := rfl
@[simp] theorem State.setPort_tallies (p : Nat) (x : Port) : (s.setPort p x).tallies = s.tallies := rfl
@[simp] theorem State.setPort_mseqOut (p : Nat) (x : Port) : (s.setPort p x).mseqOut = s.mseqOut := rfl
@[simp] theorem State.setPort_almSent (p : Nat) (x : Port) : (s.setPort p x).almSent = s.almSent := rfl
@[simp] theorem State.setPort_host (p : Nat) (x : Port) : (s.setPort p x).host = s.host := rfl
@[simp] theorem State.setPort_free (p : Nat) (x : Port) : (s.setPort p x).free = s.free := rfl
@[simp] theorem State.setPort_pending (p : Nat) (x : Port) : (s.setPort p x).pending = s.pending := rfl

/-! ### State.setSession -/

@[simp] theorem State.setSession_boot (n : Nat) (x : Session) : (s.setSession n x).boot = s.boot := rfl
@[simp] theorem State.setSession_nv (n : Nat) (x : Session) : (s.setSession n x).nv = s.nv := rfl
@[simp] theorem State.setSession_part (n : Nat) (x : Session) : (s.setSession n x).part = s.part := rfl
@[simp] theorem State.setSession_stage (n : Nat) (x : Session) : (s.setSession n x).stage = s.stage := rfl
@[simp] theorem State.setSession_tb (n : Nat) (x : Session) : (s.setSession n x).tb = s.tb := rfl
@[simp] theorem State.setSession_cap (n : Nat) (x : Session) : (s.setSession n x).cap = s.cap := rfl
@[simp] theorem State.setSession_pwr (n : Nat) (x : Session) : (s.setSession n x).pwr = s.pwr := rfl
@[simp] theorem State.setSession_mem (n : Nat) (x : Session) : (s.setSession n x).mem = s.mem := rfl
@[simp] theorem State.setSession_dram (n : Nat) (x : Session) : (s.setSession n x).dram = s.dram := rfl
@[simp] theorem State.setSession_rmk (n : Nat) (x : Session) : (s.setSession n x).rmk = s.rmk := rfl
@[simp] theorem State.setSession_models (n : Nat) (x : Session) : (s.setSession n x).models = s.models := rfl
@[simp] theorem State.setSession_nextHandle (n : Nat) (x : Session) : (s.setSession n x).nextHandle = s.nextHandle := rfl
@[simp] theorem State.setSession_streams (n : Nat) (x : Session) : (s.setSession n x).streams = s.streams := rfl
@[simp] theorem State.setSession_jobs (n : Nat) (x : Session) : (s.setSession n x).jobs = s.jobs := rfl
@[simp] theorem State.setSession_hatch (n : Nat) (x : Session) : (s.setSession n x).hatch = s.hatch := rfl
@[simp] theorem State.setSession_burin (n : Nat) (x : Session) : (s.setSession n x).burin = s.burin := rfl
@[simp] theorem State.setSession_lines (n : Nat) (x : Session) : (s.setSession n x).lines = s.lines := rfl
@[simp] theorem State.setSession_ihx (n : Nat) (x : Session) : (s.setSession n x).ihx = s.ihx := rfl
@[simp] theorem State.setSession_proof (n : Nat) (x : Session) : (s.setSession n x).proof = s.proof := rfl
@[simp] theorem State.setSession_mbx (n : Nat) (x : Session) : (s.setSession n x).mbx = s.mbx := rfl
@[simp] theorem State.setSession_alm (n : Nat) (x : Session) : (s.setSession n x).alm = s.alm := rfl
@[simp] theorem State.setSession_evt (n : Nat) (x : Session) : (s.setSession n x).evt = s.evt := rfl
@[simp] theorem State.setSession_fault (n : Nat) (x : Session) : (s.setSession n x).fault = s.fault := rfl
@[simp] theorem State.setSession_cnt (n : Nat) (x : Session) : (s.setSession n x).cnt = s.cnt := rfl
@[simp] theorem State.setSession_acct (n : Nat) (x : Session) : (s.setSession n x).acct = s.acct := rfl
@[simp] theorem State.setSession_rebind (n : Nat) (x : Session) : (s.setSession n x).rebind = s.rebind := rfl
@[simp] theorem State.setSession_tallies (n : Nat) (x : Session) : (s.setSession n x).tallies = s.tallies := rfl
@[simp] theorem State.setSession_mseqOut (n : Nat) (x : Session) : (s.setSession n x).mseqOut = s.mseqOut := rfl
@[simp] theorem State.setSession_almSent (n : Nat) (x : Session) : (s.setSession n x).almSent = s.almSent := rfl
@[simp] theorem State.setSession_host (n : Nat) (x : Session) : (s.setSession n x).host = s.host := rfl
@[simp] theorem State.setSession_free (n : Nat) (x : Session) : (s.setSession n x).free = s.free := rfl
@[simp] theorem State.setSession_pending (n : Nat) (x : Session) : (s.setSession n x).pending = s.pending := rfl

/-! ### State.setStream -/

@[simp] theorem State.setStream_boot (x : Stream) : (s.setStream x).boot = s.boot := rfl
@[simp] theorem State.setStream_nv (x : Stream) : (s.setStream x).nv = s.nv := rfl
@[simp] theorem State.setStream_part (x : Stream) : (s.setStream x).part = s.part := rfl
@[simp] theorem State.setStream_stage (x : Stream) : (s.setStream x).stage = s.stage := rfl
@[simp] theorem State.setStream_tb (x : Stream) : (s.setStream x).tb = s.tb := rfl
@[simp] theorem State.setStream_cap (x : Stream) : (s.setStream x).cap = s.cap := rfl
@[simp] theorem State.setStream_pwr (x : Stream) : (s.setStream x).pwr = s.pwr := rfl
@[simp] theorem State.setStream_mem (x : Stream) : (s.setStream x).mem = s.mem := rfl
@[simp] theorem State.setStream_dram (x : Stream) : (s.setStream x).dram = s.dram := rfl
@[simp] theorem State.setStream_rmk (x : Stream) : (s.setStream x).rmk = s.rmk := rfl
@[simp] theorem State.setStream_sessions (x : Stream) : (s.setStream x).sessions = s.sessions := rfl
@[simp] theorem State.setStream_models (x : Stream) : (s.setStream x).models = s.models := rfl
@[simp] theorem State.setStream_nextHandle (x : Stream) : (s.setStream x).nextHandle = s.nextHandle := rfl
@[simp] theorem State.setStream_jobs (x : Stream) : (s.setStream x).jobs = s.jobs := rfl
@[simp] theorem State.setStream_hatch (x : Stream) : (s.setStream x).hatch = s.hatch := rfl
@[simp] theorem State.setStream_burin (x : Stream) : (s.setStream x).burin = s.burin := rfl
@[simp] theorem State.setStream_lines (x : Stream) : (s.setStream x).lines = s.lines := rfl
@[simp] theorem State.setStream_ihx (x : Stream) : (s.setStream x).ihx = s.ihx := rfl
@[simp] theorem State.setStream_proof (x : Stream) : (s.setStream x).proof = s.proof := rfl
@[simp] theorem State.setStream_mbx (x : Stream) : (s.setStream x).mbx = s.mbx := rfl
@[simp] theorem State.setStream_alm (x : Stream) : (s.setStream x).alm = s.alm := rfl
@[simp] theorem State.setStream_evt (x : Stream) : (s.setStream x).evt = s.evt := rfl
@[simp] theorem State.setStream_fault (x : Stream) : (s.setStream x).fault = s.fault := rfl
@[simp] theorem State.setStream_cnt (x : Stream) : (s.setStream x).cnt = s.cnt := rfl
@[simp] theorem State.setStream_acct (x : Stream) : (s.setStream x).acct = s.acct := rfl
@[simp] theorem State.setStream_rebind (x : Stream) : (s.setStream x).rebind = s.rebind := rfl
@[simp] theorem State.setStream_tallies (x : Stream) : (s.setStream x).tallies = s.tallies := rfl
@[simp] theorem State.setStream_mseqOut (x : Stream) : (s.setStream x).mseqOut = s.mseqOut := rfl
@[simp] theorem State.setStream_almSent (x : Stream) : (s.setStream x).almSent = s.almSent := rfl
@[simp] theorem State.setStream_host (x : Stream) : (s.setStream x).host = s.host := rfl
@[simp] theorem State.setStream_free (x : Stream) : (s.setStream x).free = s.free := rfl
@[simp] theorem State.setStream_pending (x : Stream) : (s.setStream x).pending = s.pending := rfl

/-! ### State.setModel -/

@[simp] theorem State.setModel_boot (x : Model) : (s.setModel x).boot = s.boot := rfl
@[simp] theorem State.setModel_nv (x : Model) : (s.setModel x).nv = s.nv := rfl
@[simp] theorem State.setModel_part (x : Model) : (s.setModel x).part = s.part := rfl
@[simp] theorem State.setModel_stage (x : Model) : (s.setModel x).stage = s.stage := rfl
@[simp] theorem State.setModel_tb (x : Model) : (s.setModel x).tb = s.tb := rfl
@[simp] theorem State.setModel_cap (x : Model) : (s.setModel x).cap = s.cap := rfl
@[simp] theorem State.setModel_pwr (x : Model) : (s.setModel x).pwr = s.pwr := rfl
@[simp] theorem State.setModel_mem (x : Model) : (s.setModel x).mem = s.mem := rfl
@[simp] theorem State.setModel_dram (x : Model) : (s.setModel x).dram = s.dram := rfl
@[simp] theorem State.setModel_rmk (x : Model) : (s.setModel x).rmk = s.rmk := rfl
@[simp] theorem State.setModel_sessions (x : Model) : (s.setModel x).sessions = s.sessions := rfl
@[simp] theorem State.setModel_nextHandle (x : Model) : (s.setModel x).nextHandle = s.nextHandle := rfl
@[simp] theorem State.setModel_streams (x : Model) : (s.setModel x).streams = s.streams := rfl
@[simp] theorem State.setModel_jobs (x : Model) : (s.setModel x).jobs = s.jobs := rfl
@[simp] theorem State.setModel_hatch (x : Model) : (s.setModel x).hatch = s.hatch := rfl
@[simp] theorem State.setModel_burin (x : Model) : (s.setModel x).burin = s.burin := rfl
@[simp] theorem State.setModel_lines (x : Model) : (s.setModel x).lines = s.lines := rfl
@[simp] theorem State.setModel_ihx (x : Model) : (s.setModel x).ihx = s.ihx := rfl
@[simp] theorem State.setModel_proof (x : Model) : (s.setModel x).proof = s.proof := rfl
@[simp] theorem State.setModel_mbx (x : Model) : (s.setModel x).mbx = s.mbx := rfl
@[simp] theorem State.setModel_alm (x : Model) : (s.setModel x).alm = s.alm := rfl
@[simp] theorem State.setModel_evt (x : Model) : (s.setModel x).evt = s.evt := rfl
@[simp] theorem State.setModel_fault (x : Model) : (s.setModel x).fault = s.fault := rfl
@[simp] theorem State.setModel_cnt (x : Model) : (s.setModel x).cnt = s.cnt := rfl
@[simp] theorem State.setModel_acct (x : Model) : (s.setModel x).acct = s.acct := rfl
@[simp] theorem State.setModel_rebind (x : Model) : (s.setModel x).rebind = s.rebind := rfl
@[simp] theorem State.setModel_tallies (x : Model) : (s.setModel x).tallies = s.tallies := rfl
@[simp] theorem State.setModel_mseqOut (x : Model) : (s.setModel x).mseqOut = s.mseqOut := rfl
@[simp] theorem State.setModel_almSent (x : Model) : (s.setModel x).almSent = s.almSent := rfl
@[simp] theorem State.setModel_host (x : Model) : (s.setModel x).host = s.host := rfl
@[simp] theorem State.setModel_free (x : Model) : (s.setModel x).free = s.free := rfl
@[simp] theorem State.setModel_pending (x : Model) : (s.setModel x).pending = s.pending := rfl

/-! ### State.setJob -/

@[simp] theorem State.setJob_boot (x : Job) : (s.setJob x).boot = s.boot := rfl
@[simp] theorem State.setJob_nv (x : Job) : (s.setJob x).nv = s.nv := rfl
@[simp] theorem State.setJob_part (x : Job) : (s.setJob x).part = s.part := rfl
@[simp] theorem State.setJob_stage (x : Job) : (s.setJob x).stage = s.stage := rfl
@[simp] theorem State.setJob_tb (x : Job) : (s.setJob x).tb = s.tb := rfl
@[simp] theorem State.setJob_cap (x : Job) : (s.setJob x).cap = s.cap := rfl
@[simp] theorem State.setJob_pwr (x : Job) : (s.setJob x).pwr = s.pwr := rfl
@[simp] theorem State.setJob_mem (x : Job) : (s.setJob x).mem = s.mem := rfl
@[simp] theorem State.setJob_dram (x : Job) : (s.setJob x).dram = s.dram := rfl
@[simp] theorem State.setJob_rmk (x : Job) : (s.setJob x).rmk = s.rmk := rfl
@[simp] theorem State.setJob_sessions (x : Job) : (s.setJob x).sessions = s.sessions := rfl
@[simp] theorem State.setJob_models (x : Job) : (s.setJob x).models = s.models := rfl
@[simp] theorem State.setJob_nextHandle (x : Job) : (s.setJob x).nextHandle = s.nextHandle := rfl
@[simp] theorem State.setJob_streams (x : Job) : (s.setJob x).streams = s.streams := rfl
@[simp] theorem State.setJob_hatch (x : Job) : (s.setJob x).hatch = s.hatch := rfl
@[simp] theorem State.setJob_burin (x : Job) : (s.setJob x).burin = s.burin := rfl
@[simp] theorem State.setJob_lines (x : Job) : (s.setJob x).lines = s.lines := rfl
@[simp] theorem State.setJob_ihx (x : Job) : (s.setJob x).ihx = s.ihx := rfl
@[simp] theorem State.setJob_proof (x : Job) : (s.setJob x).proof = s.proof := rfl
@[simp] theorem State.setJob_mbx (x : Job) : (s.setJob x).mbx = s.mbx := rfl
@[simp] theorem State.setJob_alm (x : Job) : (s.setJob x).alm = s.alm := rfl
@[simp] theorem State.setJob_evt (x : Job) : (s.setJob x).evt = s.evt := rfl
@[simp] theorem State.setJob_fault (x : Job) : (s.setJob x).fault = s.fault := rfl
@[simp] theorem State.setJob_cnt (x : Job) : (s.setJob x).cnt = s.cnt := rfl
@[simp] theorem State.setJob_acct (x : Job) : (s.setJob x).acct = s.acct := rfl
@[simp] theorem State.setJob_rebind (x : Job) : (s.setJob x).rebind = s.rebind := rfl
@[simp] theorem State.setJob_tallies (x : Job) : (s.setJob x).tallies = s.tallies := rfl
@[simp] theorem State.setJob_mseqOut (x : Job) : (s.setJob x).mseqOut = s.mseqOut := rfl
@[simp] theorem State.setJob_almSent (x : Job) : (s.setJob x).almSent = s.almSent := rfl
@[simp] theorem State.setJob_host (x : Job) : (s.setJob x).host = s.host := rfl
@[simp] theorem State.setJob_free (x : Job) : (s.setJob x).free = s.free := rfl
@[simp] theorem State.setJob_pending (x : Job) : (s.setJob x).pending = s.pending := rfl

/-! ### State.setCore -/

@[simp] theorem State.setCore_boot (c : Nat) (x : Core) : (s.setCore c x).boot = s.boot := rfl
@[simp] theorem State.setCore_nv (c : Nat) (x : Core) : (s.setCore c x).nv = s.nv := rfl
@[simp] theorem State.setCore_part (c : Nat) (x : Core) : (s.setCore c x).part = s.part := rfl
@[simp] theorem State.setCore_stage (c : Nat) (x : Core) : (s.setCore c x).stage = s.stage := rfl
@[simp] theorem State.setCore_tb (c : Nat) (x : Core) : (s.setCore c x).tb = s.tb := rfl
@[simp] theorem State.setCore_cap (c : Nat) (x : Core) : (s.setCore c x).cap = s.cap := rfl
@[simp] theorem State.setCore_pwr (c : Nat) (x : Core) : (s.setCore c x).pwr = s.pwr := rfl
@[simp] theorem State.setCore_mem (c : Nat) (x : Core) : (s.setCore c x).mem = s.mem := rfl
@[simp] theorem State.setCore_dram (c : Nat) (x : Core) : (s.setCore c x).dram = s.dram := rfl
@[simp] theorem State.setCore_rmk (c : Nat) (x : Core) : (s.setCore c x).rmk = s.rmk := rfl
@[simp] theorem State.setCore_sessions (c : Nat) (x : Core) : (s.setCore c x).sessions = s.sessions := rfl
@[simp] theorem State.setCore_models (c : Nat) (x : Core) : (s.setCore c x).models = s.models := rfl
@[simp] theorem State.setCore_nextHandle (c : Nat) (x : Core) : (s.setCore c x).nextHandle = s.nextHandle := rfl
@[simp] theorem State.setCore_streams (c : Nat) (x : Core) : (s.setCore c x).streams = s.streams := rfl
@[simp] theorem State.setCore_jobs (c : Nat) (x : Core) : (s.setCore c x).jobs = s.jobs := rfl
@[simp] theorem State.setCore_burin (c : Nat) (x : Core) : (s.setCore c x).burin = s.burin := rfl
@[simp] theorem State.setCore_lines (c : Nat) (x : Core) : (s.setCore c x).lines = s.lines := rfl
@[simp] theorem State.setCore_ihx (c : Nat) (x : Core) : (s.setCore c x).ihx = s.ihx := rfl
@[simp] theorem State.setCore_proof (c : Nat) (x : Core) : (s.setCore c x).proof = s.proof := rfl
@[simp] theorem State.setCore_mbx (c : Nat) (x : Core) : (s.setCore c x).mbx = s.mbx := rfl
@[simp] theorem State.setCore_alm (c : Nat) (x : Core) : (s.setCore c x).alm = s.alm := rfl
@[simp] theorem State.setCore_evt (c : Nat) (x : Core) : (s.setCore c x).evt = s.evt := rfl
@[simp] theorem State.setCore_fault (c : Nat) (x : Core) : (s.setCore c x).fault = s.fault := rfl
@[simp] theorem State.setCore_cnt (c : Nat) (x : Core) : (s.setCore c x).cnt = s.cnt := rfl
@[simp] theorem State.setCore_acct (c : Nat) (x : Core) : (s.setCore c x).acct = s.acct := rfl
@[simp] theorem State.setCore_rebind (c : Nat) (x : Core) : (s.setCore c x).rebind = s.rebind := rfl
@[simp] theorem State.setCore_tallies (c : Nat) (x : Core) : (s.setCore c x).tallies = s.tallies := rfl
@[simp] theorem State.setCore_mseqOut (c : Nat) (x : Core) : (s.setCore c x).mseqOut = s.mseqOut := rfl
@[simp] theorem State.setCore_almSent (c : Nat) (x : Core) : (s.setCore c x).almSent = s.almSent := rfl
@[simp] theorem State.setCore_host (c : Nat) (x : Core) : (s.setCore c x).host = s.host := rfl
@[simp] theorem State.setCore_free (c : Nat) (x : Core) : (s.setCore c x).free = s.free := rfl
@[simp] theorem State.setCore_pending (c : Nat) (x : Core) : (s.setCore c x).pending = s.pending := rfl

/-! ### State.setField -/

@[simp] theorem State.setField_boot (f : Nat) (x : Field) : (s.setField f x).boot = s.boot := rfl
@[simp] theorem State.setField_nv (f : Nat) (x : Field) : (s.setField f x).nv = s.nv := rfl
@[simp] theorem State.setField_part (f : Nat) (x : Field) : (s.setField f x).part = s.part := rfl
@[simp] theorem State.setField_stage (f : Nat) (x : Field) : (s.setField f x).stage = s.stage := rfl
@[simp] theorem State.setField_tb (f : Nat) (x : Field) : (s.setField f x).tb = s.tb := rfl
@[simp] theorem State.setField_cap (f : Nat) (x : Field) : (s.setField f x).cap = s.cap := rfl
@[simp] theorem State.setField_pwr (f : Nat) (x : Field) : (s.setField f x).pwr = s.pwr := rfl
@[simp] theorem State.setField_mem (f : Nat) (x : Field) : (s.setField f x).mem = s.mem := rfl
@[simp] theorem State.setField_dram (f : Nat) (x : Field) : (s.setField f x).dram = s.dram := rfl
@[simp] theorem State.setField_rmk (f : Nat) (x : Field) : (s.setField f x).rmk = s.rmk := rfl
@[simp] theorem State.setField_sessions (f : Nat) (x : Field) : (s.setField f x).sessions = s.sessions := rfl
@[simp] theorem State.setField_models (f : Nat) (x : Field) : (s.setField f x).models = s.models := rfl
@[simp] theorem State.setField_nextHandle (f : Nat) (x : Field) : (s.setField f x).nextHandle = s.nextHandle := rfl
@[simp] theorem State.setField_streams (f : Nat) (x : Field) : (s.setField f x).streams = s.streams := rfl
@[simp] theorem State.setField_jobs (f : Nat) (x : Field) : (s.setField f x).jobs = s.jobs := rfl
@[simp] theorem State.setField_burin (f : Nat) (x : Field) : (s.setField f x).burin = s.burin := rfl
@[simp] theorem State.setField_lines (f : Nat) (x : Field) : (s.setField f x).lines = s.lines := rfl
@[simp] theorem State.setField_ihx (f : Nat) (x : Field) : (s.setField f x).ihx = s.ihx := rfl
@[simp] theorem State.setField_proof (f : Nat) (x : Field) : (s.setField f x).proof = s.proof := rfl
@[simp] theorem State.setField_mbx (f : Nat) (x : Field) : (s.setField f x).mbx = s.mbx := rfl
@[simp] theorem State.setField_alm (f : Nat) (x : Field) : (s.setField f x).alm = s.alm := rfl
@[simp] theorem State.setField_evt (f : Nat) (x : Field) : (s.setField f x).evt = s.evt := rfl
@[simp] theorem State.setField_fault (f : Nat) (x : Field) : (s.setField f x).fault = s.fault := rfl
@[simp] theorem State.setField_cnt (f : Nat) (x : Field) : (s.setField f x).cnt = s.cnt := rfl
@[simp] theorem State.setField_acct (f : Nat) (x : Field) : (s.setField f x).acct = s.acct := rfl
@[simp] theorem State.setField_rebind (f : Nat) (x : Field) : (s.setField f x).rebind = s.rebind := rfl
@[simp] theorem State.setField_tallies (f : Nat) (x : Field) : (s.setField f x).tallies = s.tallies := rfl
@[simp] theorem State.setField_mseqOut (f : Nat) (x : Field) : (s.setField f x).mseqOut = s.mseqOut := rfl
@[simp] theorem State.setField_almSent (f : Nat) (x : Field) : (s.setField f x).almSent = s.almSent := rfl
@[simp] theorem State.setField_host (f : Nat) (x : Field) : (s.setField f x).host = s.host := rfl
@[simp] theorem State.setField_free (f : Nat) (x : Field) : (s.setField f x).free = s.free := rfl
@[simp] theorem State.setField_pending (f : Nat) (x : Field) : (s.setField f x).pending = s.pending := rfl

/-! ### State.setLink -/

@[simp] theorem State.setLink_boot (l : Nat) (x : MeshLink) : (s.setLink l x).boot = s.boot := rfl
@[simp] theorem State.setLink_nv (l : Nat) (x : MeshLink) : (s.setLink l x).nv = s.nv := rfl
@[simp] theorem State.setLink_part (l : Nat) (x : MeshLink) : (s.setLink l x).part = s.part := rfl
@[simp] theorem State.setLink_stage (l : Nat) (x : MeshLink) : (s.setLink l x).stage = s.stage := rfl
@[simp] theorem State.setLink_tb (l : Nat) (x : MeshLink) : (s.setLink l x).tb = s.tb := rfl
@[simp] theorem State.setLink_cap (l : Nat) (x : MeshLink) : (s.setLink l x).cap = s.cap := rfl
@[simp] theorem State.setLink_pwr (l : Nat) (x : MeshLink) : (s.setLink l x).pwr = s.pwr := rfl
@[simp] theorem State.setLink_mem (l : Nat) (x : MeshLink) : (s.setLink l x).mem = s.mem := rfl
@[simp] theorem State.setLink_dram (l : Nat) (x : MeshLink) : (s.setLink l x).dram = s.dram := rfl
@[simp] theorem State.setLink_rmk (l : Nat) (x : MeshLink) : (s.setLink l x).rmk = s.rmk := rfl
@[simp] theorem State.setLink_sessions (l : Nat) (x : MeshLink) : (s.setLink l x).sessions = s.sessions := rfl
@[simp] theorem State.setLink_models (l : Nat) (x : MeshLink) : (s.setLink l x).models = s.models := rfl
@[simp] theorem State.setLink_nextHandle (l : Nat) (x : MeshLink) : (s.setLink l x).nextHandle = s.nextHandle := rfl
@[simp] theorem State.setLink_streams (l : Nat) (x : MeshLink) : (s.setLink l x).streams = s.streams := rfl
@[simp] theorem State.setLink_jobs (l : Nat) (x : MeshLink) : (s.setLink l x).jobs = s.jobs := rfl
@[simp] theorem State.setLink_burin (l : Nat) (x : MeshLink) : (s.setLink l x).burin = s.burin := rfl
@[simp] theorem State.setLink_lines (l : Nat) (x : MeshLink) : (s.setLink l x).lines = s.lines := rfl
@[simp] theorem State.setLink_ihx (l : Nat) (x : MeshLink) : (s.setLink l x).ihx = s.ihx := rfl
@[simp] theorem State.setLink_proof (l : Nat) (x : MeshLink) : (s.setLink l x).proof = s.proof := rfl
@[simp] theorem State.setLink_mbx (l : Nat) (x : MeshLink) : (s.setLink l x).mbx = s.mbx := rfl
@[simp] theorem State.setLink_alm (l : Nat) (x : MeshLink) : (s.setLink l x).alm = s.alm := rfl
@[simp] theorem State.setLink_evt (l : Nat) (x : MeshLink) : (s.setLink l x).evt = s.evt := rfl
@[simp] theorem State.setLink_fault (l : Nat) (x : MeshLink) : (s.setLink l x).fault = s.fault := rfl
@[simp] theorem State.setLink_cnt (l : Nat) (x : MeshLink) : (s.setLink l x).cnt = s.cnt := rfl
@[simp] theorem State.setLink_acct (l : Nat) (x : MeshLink) : (s.setLink l x).acct = s.acct := rfl
@[simp] theorem State.setLink_rebind (l : Nat) (x : MeshLink) : (s.setLink l x).rebind = s.rebind := rfl
@[simp] theorem State.setLink_tallies (l : Nat) (x : MeshLink) : (s.setLink l x).tallies = s.tallies := rfl
@[simp] theorem State.setLink_mseqOut (l : Nat) (x : MeshLink) : (s.setLink l x).mseqOut = s.mseqOut := rfl
@[simp] theorem State.setLink_almSent (l : Nat) (x : MeshLink) : (s.setLink l x).almSent = s.almSent := rfl
@[simp] theorem State.setLink_host (l : Nat) (x : MeshLink) : (s.setLink l x).host = s.host := rfl
@[simp] theorem State.setLink_free (l : Nat) (x : MeshLink) : (s.setLink l x).free = s.free := rfl
@[simp] theorem State.setLink_pending (l : Nat) (x : MeshLink) : (s.setLink l x).pending = s.pending := rfl

/-! ### State.setUnit -/

@[simp] theorem State.setUnit_boot (u : Nat) (x : BurinUnit) : (s.setUnit u x).boot = s.boot := rfl
@[simp] theorem State.setUnit_nv (u : Nat) (x : BurinUnit) : (s.setUnit u x).nv = s.nv := rfl
@[simp] theorem State.setUnit_part (u : Nat) (x : BurinUnit) : (s.setUnit u x).part = s.part := rfl
@[simp] theorem State.setUnit_stage (u : Nat) (x : BurinUnit) : (s.setUnit u x).stage = s.stage := rfl
@[simp] theorem State.setUnit_tb (u : Nat) (x : BurinUnit) : (s.setUnit u x).tb = s.tb := rfl
@[simp] theorem State.setUnit_cap (u : Nat) (x : BurinUnit) : (s.setUnit u x).cap = s.cap := rfl
@[simp] theorem State.setUnit_pwr (u : Nat) (x : BurinUnit) : (s.setUnit u x).pwr = s.pwr := rfl
@[simp] theorem State.setUnit_mem (u : Nat) (x : BurinUnit) : (s.setUnit u x).mem = s.mem := rfl
@[simp] theorem State.setUnit_dram (u : Nat) (x : BurinUnit) : (s.setUnit u x).dram = s.dram := rfl
@[simp] theorem State.setUnit_rmk (u : Nat) (x : BurinUnit) : (s.setUnit u x).rmk = s.rmk := rfl
@[simp] theorem State.setUnit_sessions (u : Nat) (x : BurinUnit) : (s.setUnit u x).sessions = s.sessions := rfl
@[simp] theorem State.setUnit_models (u : Nat) (x : BurinUnit) : (s.setUnit u x).models = s.models := rfl
@[simp] theorem State.setUnit_nextHandle (u : Nat) (x : BurinUnit) : (s.setUnit u x).nextHandle = s.nextHandle := rfl
@[simp] theorem State.setUnit_streams (u : Nat) (x : BurinUnit) : (s.setUnit u x).streams = s.streams := rfl
@[simp] theorem State.setUnit_jobs (u : Nat) (x : BurinUnit) : (s.setUnit u x).jobs = s.jobs := rfl
@[simp] theorem State.setUnit_hatch (u : Nat) (x : BurinUnit) : (s.setUnit u x).hatch = s.hatch := rfl
@[simp] theorem State.setUnit_lines (u : Nat) (x : BurinUnit) : (s.setUnit u x).lines = s.lines := rfl
@[simp] theorem State.setUnit_ihx (u : Nat) (x : BurinUnit) : (s.setUnit u x).ihx = s.ihx := rfl
@[simp] theorem State.setUnit_proof (u : Nat) (x : BurinUnit) : (s.setUnit u x).proof = s.proof := rfl
@[simp] theorem State.setUnit_mbx (u : Nat) (x : BurinUnit) : (s.setUnit u x).mbx = s.mbx := rfl
@[simp] theorem State.setUnit_alm (u : Nat) (x : BurinUnit) : (s.setUnit u x).alm = s.alm := rfl
@[simp] theorem State.setUnit_evt (u : Nat) (x : BurinUnit) : (s.setUnit u x).evt = s.evt := rfl
@[simp] theorem State.setUnit_fault (u : Nat) (x : BurinUnit) : (s.setUnit u x).fault = s.fault := rfl
@[simp] theorem State.setUnit_cnt (u : Nat) (x : BurinUnit) : (s.setUnit u x).cnt = s.cnt := rfl
@[simp] theorem State.setUnit_acct (u : Nat) (x : BurinUnit) : (s.setUnit u x).acct = s.acct := rfl
@[simp] theorem State.setUnit_rebind (u : Nat) (x : BurinUnit) : (s.setUnit u x).rebind = s.rebind := rfl
@[simp] theorem State.setUnit_tallies (u : Nat) (x : BurinUnit) : (s.setUnit u x).tallies = s.tallies := rfl
@[simp] theorem State.setUnit_mseqOut (u : Nat) (x : BurinUnit) : (s.setUnit u x).mseqOut = s.mseqOut := rfl
@[simp] theorem State.setUnit_almSent (u : Nat) (x : BurinUnit) : (s.setUnit u x).almSent = s.almSent := rfl
@[simp] theorem State.setUnit_host (u : Nat) (x : BurinUnit) : (s.setUnit u x).host = s.host := rfl
@[simp] theorem State.setUnit_free (u : Nat) (x : BurinUnit) : (s.setUnit u x).free = s.free := rfl
@[simp] theorem State.setUnit_pending (u : Nat) (x : BurinUnit) : (s.setUnit u x).pending = s.pending := rfl

/-! ### State.setChan -/

@[simp] theorem State.setChan_boot (c : Nat) (x : Channel) : (s.setChan c x).boot = s.boot := rfl
@[simp] theorem State.setChan_nv (c : Nat) (x : Channel) : (s.setChan c x).nv = s.nv := rfl
@[simp] theorem State.setChan_part (c : Nat) (x : Channel) : (s.setChan c x).part = s.part := rfl
@[simp] theorem State.setChan_stage (c : Nat) (x : Channel) : (s.setChan c x).stage = s.stage := rfl
@[simp] theorem State.setChan_tb (c : Nat) (x : Channel) : (s.setChan c x).tb = s.tb := rfl
@[simp] theorem State.setChan_cap (c : Nat) (x : Channel) : (s.setChan c x).cap = s.cap := rfl
@[simp] theorem State.setChan_pwr (c : Nat) (x : Channel) : (s.setChan c x).pwr = s.pwr := rfl
@[simp] theorem State.setChan_dram (c : Nat) (x : Channel) : (s.setChan c x).dram = s.dram := rfl
@[simp] theorem State.setChan_rmk (c : Nat) (x : Channel) : (s.setChan c x).rmk = s.rmk := rfl
@[simp] theorem State.setChan_sessions (c : Nat) (x : Channel) : (s.setChan c x).sessions = s.sessions := rfl
@[simp] theorem State.setChan_models (c : Nat) (x : Channel) : (s.setChan c x).models = s.models := rfl
@[simp] theorem State.setChan_nextHandle (c : Nat) (x : Channel) : (s.setChan c x).nextHandle = s.nextHandle := rfl
@[simp] theorem State.setChan_streams (c : Nat) (x : Channel) : (s.setChan c x).streams = s.streams := rfl
@[simp] theorem State.setChan_jobs (c : Nat) (x : Channel) : (s.setChan c x).jobs = s.jobs := rfl
@[simp] theorem State.setChan_hatch (c : Nat) (x : Channel) : (s.setChan c x).hatch = s.hatch := rfl
@[simp] theorem State.setChan_burin (c : Nat) (x : Channel) : (s.setChan c x).burin = s.burin := rfl
@[simp] theorem State.setChan_lines (c : Nat) (x : Channel) : (s.setChan c x).lines = s.lines := rfl
@[simp] theorem State.setChan_ihx (c : Nat) (x : Channel) : (s.setChan c x).ihx = s.ihx := rfl
@[simp] theorem State.setChan_proof (c : Nat) (x : Channel) : (s.setChan c x).proof = s.proof := rfl
@[simp] theorem State.setChan_mbx (c : Nat) (x : Channel) : (s.setChan c x).mbx = s.mbx := rfl
@[simp] theorem State.setChan_alm (c : Nat) (x : Channel) : (s.setChan c x).alm = s.alm := rfl
@[simp] theorem State.setChan_evt (c : Nat) (x : Channel) : (s.setChan c x).evt = s.evt := rfl
@[simp] theorem State.setChan_fault (c : Nat) (x : Channel) : (s.setChan c x).fault = s.fault := rfl
@[simp] theorem State.setChan_cnt (c : Nat) (x : Channel) : (s.setChan c x).cnt = s.cnt := rfl
@[simp] theorem State.setChan_acct (c : Nat) (x : Channel) : (s.setChan c x).acct = s.acct := rfl
@[simp] theorem State.setChan_rebind (c : Nat) (x : Channel) : (s.setChan c x).rebind = s.rebind := rfl
@[simp] theorem State.setChan_tallies (c : Nat) (x : Channel) : (s.setChan c x).tallies = s.tallies := rfl
@[simp] theorem State.setChan_mseqOut (c : Nat) (x : Channel) : (s.setChan c x).mseqOut = s.mseqOut := rfl
@[simp] theorem State.setChan_almSent (c : Nat) (x : Channel) : (s.setChan c x).almSent = s.almSent := rfl
@[simp] theorem State.setChan_host (c : Nat) (x : Channel) : (s.setChan c x).host = s.host := rfl
@[simp] theorem State.setChan_free (c : Nat) (x : Channel) : (s.setChan c x).free = s.free := rfl
@[simp] theorem State.setChan_pending (c : Nat) (x : Channel) : (s.setChan c x).pending = s.pending := rfl

/-! ### State.setDir -/

@[simp] theorem State.setDir_boot (n d : Nat) (x : Direction) : (s.setDir n d x).boot = s.boot := rfl
@[simp] theorem State.setDir_nv (n d : Nat) (x : Direction) : (s.setDir n d x).nv = s.nv := rfl
@[simp] theorem State.setDir_part (n d : Nat) (x : Direction) : (s.setDir n d x).part = s.part := rfl
@[simp] theorem State.setDir_stage (n d : Nat) (x : Direction) : (s.setDir n d x).stage = s.stage := rfl
@[simp] theorem State.setDir_tb (n d : Nat) (x : Direction) : (s.setDir n d x).tb = s.tb := rfl
@[simp] theorem State.setDir_cap (n d : Nat) (x : Direction) : (s.setDir n d x).cap = s.cap := rfl
@[simp] theorem State.setDir_pwr (n d : Nat) (x : Direction) : (s.setDir n d x).pwr = s.pwr := rfl
@[simp] theorem State.setDir_mem (n d : Nat) (x : Direction) : (s.setDir n d x).mem = s.mem := rfl
@[simp] theorem State.setDir_dram (n d : Nat) (x : Direction) : (s.setDir n d x).dram = s.dram := rfl
@[simp] theorem State.setDir_rmk (n d : Nat) (x : Direction) : (s.setDir n d x).rmk = s.rmk := rfl
@[simp] theorem State.setDir_sessions (n d : Nat) (x : Direction) : (s.setDir n d x).sessions = s.sessions := rfl
@[simp] theorem State.setDir_models (n d : Nat) (x : Direction) : (s.setDir n d x).models = s.models := rfl
@[simp] theorem State.setDir_nextHandle (n d : Nat) (x : Direction) : (s.setDir n d x).nextHandle = s.nextHandle := rfl
@[simp] theorem State.setDir_streams (n d : Nat) (x : Direction) : (s.setDir n d x).streams = s.streams := rfl
@[simp] theorem State.setDir_jobs (n d : Nat) (x : Direction) : (s.setDir n d x).jobs = s.jobs := rfl
@[simp] theorem State.setDir_hatch (n d : Nat) (x : Direction) : (s.setDir n d x).hatch = s.hatch := rfl
@[simp] theorem State.setDir_burin (n d : Nat) (x : Direction) : (s.setDir n d x).burin = s.burin := rfl
@[simp] theorem State.setDir_ihx (n d : Nat) (x : Direction) : (s.setDir n d x).ihx = s.ihx := rfl
@[simp] theorem State.setDir_proof (n d : Nat) (x : Direction) : (s.setDir n d x).proof = s.proof := rfl
@[simp] theorem State.setDir_mbx (n d : Nat) (x : Direction) : (s.setDir n d x).mbx = s.mbx := rfl
@[simp] theorem State.setDir_alm (n d : Nat) (x : Direction) : (s.setDir n d x).alm = s.alm := rfl
@[simp] theorem State.setDir_evt (n d : Nat) (x : Direction) : (s.setDir n d x).evt = s.evt := rfl
@[simp] theorem State.setDir_fault (n d : Nat) (x : Direction) : (s.setDir n d x).fault = s.fault := rfl
@[simp] theorem State.setDir_cnt (n d : Nat) (x : Direction) : (s.setDir n d x).cnt = s.cnt := rfl
@[simp] theorem State.setDir_acct (n d : Nat) (x : Direction) : (s.setDir n d x).acct = s.acct := rfl
@[simp] theorem State.setDir_rebind (n d : Nat) (x : Direction) : (s.setDir n d x).rebind = s.rebind := rfl
@[simp] theorem State.setDir_tallies (n d : Nat) (x : Direction) : (s.setDir n d x).tallies = s.tallies := rfl
@[simp] theorem State.setDir_mseqOut (n d : Nat) (x : Direction) : (s.setDir n d x).mseqOut = s.mseqOut := rfl
@[simp] theorem State.setDir_almSent (n d : Nat) (x : Direction) : (s.setDir n d x).almSent = s.almSent := rfl
@[simp] theorem State.setDir_host (n d : Nat) (x : Direction) : (s.setDir n d x).host = s.host := rfl
@[simp] theorem State.setDir_free (n d : Nat) (x : Direction) : (s.setDir n d x).free = s.free := rfl
@[simp] theorem State.setDir_pending (n d : Nat) (x : Direction) : (s.setDir n d x).pending = s.pending := rfl

/-! ### State.setGroup -/

@[simp] theorem State.setGroup_boot (g : Nat) (x : Group) : (s.setGroup g x).boot = s.boot := rfl
@[simp] theorem State.setGroup_nv (g : Nat) (x : Group) : (s.setGroup g x).nv = s.nv := rfl
@[simp] theorem State.setGroup_part (g : Nat) (x : Group) : (s.setGroup g x).part = s.part := rfl
@[simp] theorem State.setGroup_stage (g : Nat) (x : Group) : (s.setGroup g x).stage = s.stage := rfl
@[simp] theorem State.setGroup_tb (g : Nat) (x : Group) : (s.setGroup g x).tb = s.tb := rfl
@[simp] theorem State.setGroup_cap (g : Nat) (x : Group) : (s.setGroup g x).cap = s.cap := rfl
@[simp] theorem State.setGroup_pwr (g : Nat) (x : Group) : (s.setGroup g x).pwr = s.pwr := rfl
@[simp] theorem State.setGroup_mem (g : Nat) (x : Group) : (s.setGroup g x).mem = s.mem := rfl
@[simp] theorem State.setGroup_dram (g : Nat) (x : Group) : (s.setGroup g x).dram = s.dram := rfl
@[simp] theorem State.setGroup_rmk (g : Nat) (x : Group) : (s.setGroup g x).rmk = s.rmk := rfl
@[simp] theorem State.setGroup_sessions (g : Nat) (x : Group) : (s.setGroup g x).sessions = s.sessions := rfl
@[simp] theorem State.setGroup_models (g : Nat) (x : Group) : (s.setGroup g x).models = s.models := rfl
@[simp] theorem State.setGroup_nextHandle (g : Nat) (x : Group) : (s.setGroup g x).nextHandle = s.nextHandle := rfl
@[simp] theorem State.setGroup_streams (g : Nat) (x : Group) : (s.setGroup g x).streams = s.streams := rfl
@[simp] theorem State.setGroup_jobs (g : Nat) (x : Group) : (s.setGroup g x).jobs = s.jobs := rfl
@[simp] theorem State.setGroup_hatch (g : Nat) (x : Group) : (s.setGroup g x).hatch = s.hatch := rfl
@[simp] theorem State.setGroup_burin (g : Nat) (x : Group) : (s.setGroup g x).burin = s.burin := rfl
@[simp] theorem State.setGroup_ihx (g : Nat) (x : Group) : (s.setGroup g x).ihx = s.ihx := rfl
@[simp] theorem State.setGroup_proof (g : Nat) (x : Group) : (s.setGroup g x).proof = s.proof := rfl
@[simp] theorem State.setGroup_mbx (g : Nat) (x : Group) : (s.setGroup g x).mbx = s.mbx := rfl
@[simp] theorem State.setGroup_alm (g : Nat) (x : Group) : (s.setGroup g x).alm = s.alm := rfl
@[simp] theorem State.setGroup_evt (g : Nat) (x : Group) : (s.setGroup g x).evt = s.evt := rfl
@[simp] theorem State.setGroup_fault (g : Nat) (x : Group) : (s.setGroup g x).fault = s.fault := rfl
@[simp] theorem State.setGroup_cnt (g : Nat) (x : Group) : (s.setGroup g x).cnt = s.cnt := rfl
@[simp] theorem State.setGroup_acct (g : Nat) (x : Group) : (s.setGroup g x).acct = s.acct := rfl
@[simp] theorem State.setGroup_rebind (g : Nat) (x : Group) : (s.setGroup g x).rebind = s.rebind := rfl
@[simp] theorem State.setGroup_tallies (g : Nat) (x : Group) : (s.setGroup g x).tallies = s.tallies := rfl
@[simp] theorem State.setGroup_mseqOut (g : Nat) (x : Group) : (s.setGroup g x).mseqOut = s.mseqOut := rfl
@[simp] theorem State.setGroup_almSent (g : Nat) (x : Group) : (s.setGroup g x).almSent = s.almSent := rfl
@[simp] theorem State.setGroup_host (g : Nat) (x : Group) : (s.setGroup g x).host = s.host := rfl
@[simp] theorem State.setGroup_free (g : Nat) (x : Group) : (s.setGroup g x).free = s.free := rfl
@[simp] theorem State.setGroup_pending (g : Nat) (x : Group) : (s.setGroup g x).pending = s.pending := rfl

/-! ### State.setOsc -/

@[simp] theorem State.setOsc_boot (n : Nat) (x : Osc) : (s.setOsc n x).boot = s.boot := rfl
@[simp] theorem State.setOsc_nv (n : Nat) (x : Osc) : (s.setOsc n x).nv = s.nv := rfl
@[simp] theorem State.setOsc_part (n : Nat) (x : Osc) : (s.setOsc n x).part = s.part := rfl
@[simp] theorem State.setOsc_stage (n : Nat) (x : Osc) : (s.setOsc n x).stage = s.stage := rfl
@[simp] theorem State.setOsc_tb (n : Nat) (x : Osc) : (s.setOsc n x).tb = s.tb := rfl
@[simp] theorem State.setOsc_cap (n : Nat) (x : Osc) : (s.setOsc n x).cap = s.cap := rfl
@[simp] theorem State.setOsc_pwr (n : Nat) (x : Osc) : (s.setOsc n x).pwr = s.pwr := rfl
@[simp] theorem State.setOsc_mem (n : Nat) (x : Osc) : (s.setOsc n x).mem = s.mem := rfl
@[simp] theorem State.setOsc_dram (n : Nat) (x : Osc) : (s.setOsc n x).dram = s.dram := rfl
@[simp] theorem State.setOsc_rmk (n : Nat) (x : Osc) : (s.setOsc n x).rmk = s.rmk := rfl
@[simp] theorem State.setOsc_sessions (n : Nat) (x : Osc) : (s.setOsc n x).sessions = s.sessions := rfl
@[simp] theorem State.setOsc_models (n : Nat) (x : Osc) : (s.setOsc n x).models = s.models := rfl
@[simp] theorem State.setOsc_nextHandle (n : Nat) (x : Osc) : (s.setOsc n x).nextHandle = s.nextHandle := rfl
@[simp] theorem State.setOsc_streams (n : Nat) (x : Osc) : (s.setOsc n x).streams = s.streams := rfl
@[simp] theorem State.setOsc_jobs (n : Nat) (x : Osc) : (s.setOsc n x).jobs = s.jobs := rfl
@[simp] theorem State.setOsc_hatch (n : Nat) (x : Osc) : (s.setOsc n x).hatch = s.hatch := rfl
@[simp] theorem State.setOsc_burin (n : Nat) (x : Osc) : (s.setOsc n x).burin = s.burin := rfl
@[simp] theorem State.setOsc_ihx (n : Nat) (x : Osc) : (s.setOsc n x).ihx = s.ihx := rfl
@[simp] theorem State.setOsc_proof (n : Nat) (x : Osc) : (s.setOsc n x).proof = s.proof := rfl
@[simp] theorem State.setOsc_mbx (n : Nat) (x : Osc) : (s.setOsc n x).mbx = s.mbx := rfl
@[simp] theorem State.setOsc_alm (n : Nat) (x : Osc) : (s.setOsc n x).alm = s.alm := rfl
@[simp] theorem State.setOsc_evt (n : Nat) (x : Osc) : (s.setOsc n x).evt = s.evt := rfl
@[simp] theorem State.setOsc_fault (n : Nat) (x : Osc) : (s.setOsc n x).fault = s.fault := rfl
@[simp] theorem State.setOsc_cnt (n : Nat) (x : Osc) : (s.setOsc n x).cnt = s.cnt := rfl
@[simp] theorem State.setOsc_acct (n : Nat) (x : Osc) : (s.setOsc n x).acct = s.acct := rfl
@[simp] theorem State.setOsc_rebind (n : Nat) (x : Osc) : (s.setOsc n x).rebind = s.rebind := rfl
@[simp] theorem State.setOsc_tallies (n : Nat) (x : Osc) : (s.setOsc n x).tallies = s.tallies := rfl
@[simp] theorem State.setOsc_mseqOut (n : Nat) (x : Osc) : (s.setOsc n x).mseqOut = s.mseqOut := rfl
@[simp] theorem State.setOsc_almSent (n : Nat) (x : Osc) : (s.setOsc n x).almSent = s.almSent := rfl
@[simp] theorem State.setOsc_host (n : Nat) (x : Osc) : (s.setOsc n x).host = s.host := rfl
@[simp] theorem State.setOsc_free (n : Nat) (x : Osc) : (s.setOsc n x).free = s.free := rfl
@[simp] theorem State.setOsc_pending (n : Nat) (x : Osc) : (s.setOsc n x).pending = s.pending := rfl

/-! ### State.setIhxPort -/

@[simp] theorem State.setIhxPort_boot (p : Nat) (x : IhxPort) : (s.setIhxPort p x).boot = s.boot := rfl
@[simp] theorem State.setIhxPort_nv (p : Nat) (x : IhxPort) : (s.setIhxPort p x).nv = s.nv := rfl
@[simp] theorem State.setIhxPort_part (p : Nat) (x : IhxPort) : (s.setIhxPort p x).part = s.part := rfl
@[simp] theorem State.setIhxPort_stage (p : Nat) (x : IhxPort) : (s.setIhxPort p x).stage = s.stage := rfl
@[simp] theorem State.setIhxPort_tb (p : Nat) (x : IhxPort) : (s.setIhxPort p x).tb = s.tb := rfl
@[simp] theorem State.setIhxPort_cap (p : Nat) (x : IhxPort) : (s.setIhxPort p x).cap = s.cap := rfl
@[simp] theorem State.setIhxPort_pwr (p : Nat) (x : IhxPort) : (s.setIhxPort p x).pwr = s.pwr := rfl
@[simp] theorem State.setIhxPort_mem (p : Nat) (x : IhxPort) : (s.setIhxPort p x).mem = s.mem := rfl
@[simp] theorem State.setIhxPort_dram (p : Nat) (x : IhxPort) : (s.setIhxPort p x).dram = s.dram := rfl
@[simp] theorem State.setIhxPort_rmk (p : Nat) (x : IhxPort) : (s.setIhxPort p x).rmk = s.rmk := rfl
@[simp] theorem State.setIhxPort_sessions (p : Nat) (x : IhxPort) : (s.setIhxPort p x).sessions = s.sessions := rfl
@[simp] theorem State.setIhxPort_models (p : Nat) (x : IhxPort) : (s.setIhxPort p x).models = s.models := rfl
@[simp] theorem State.setIhxPort_nextHandle (p : Nat) (x : IhxPort) : (s.setIhxPort p x).nextHandle = s.nextHandle := rfl
@[simp] theorem State.setIhxPort_streams (p : Nat) (x : IhxPort) : (s.setIhxPort p x).streams = s.streams := rfl
@[simp] theorem State.setIhxPort_jobs (p : Nat) (x : IhxPort) : (s.setIhxPort p x).jobs = s.jobs := rfl
@[simp] theorem State.setIhxPort_hatch (p : Nat) (x : IhxPort) : (s.setIhxPort p x).hatch = s.hatch := rfl
@[simp] theorem State.setIhxPort_burin (p : Nat) (x : IhxPort) : (s.setIhxPort p x).burin = s.burin := rfl
@[simp] theorem State.setIhxPort_lines (p : Nat) (x : IhxPort) : (s.setIhxPort p x).lines = s.lines := rfl
@[simp] theorem State.setIhxPort_proof (p : Nat) (x : IhxPort) : (s.setIhxPort p x).proof = s.proof := rfl
@[simp] theorem State.setIhxPort_mbx (p : Nat) (x : IhxPort) : (s.setIhxPort p x).mbx = s.mbx := rfl
@[simp] theorem State.setIhxPort_alm (p : Nat) (x : IhxPort) : (s.setIhxPort p x).alm = s.alm := rfl
@[simp] theorem State.setIhxPort_evt (p : Nat) (x : IhxPort) : (s.setIhxPort p x).evt = s.evt := rfl
@[simp] theorem State.setIhxPort_fault (p : Nat) (x : IhxPort) : (s.setIhxPort p x).fault = s.fault := rfl
@[simp] theorem State.setIhxPort_cnt (p : Nat) (x : IhxPort) : (s.setIhxPort p x).cnt = s.cnt := rfl
@[simp] theorem State.setIhxPort_acct (p : Nat) (x : IhxPort) : (s.setIhxPort p x).acct = s.acct := rfl
@[simp] theorem State.setIhxPort_rebind (p : Nat) (x : IhxPort) : (s.setIhxPort p x).rebind = s.rebind := rfl
@[simp] theorem State.setIhxPort_tallies (p : Nat) (x : IhxPort) : (s.setIhxPort p x).tallies = s.tallies := rfl
@[simp] theorem State.setIhxPort_mseqOut (p : Nat) (x : IhxPort) : (s.setIhxPort p x).mseqOut = s.mseqOut := rfl
@[simp] theorem State.setIhxPort_almSent (p : Nat) (x : IhxPort) : (s.setIhxPort p x).almSent = s.almSent := rfl
@[simp] theorem State.setIhxPort_host (p : Nat) (x : IhxPort) : (s.setIhxPort p x).host = s.host := rfl
@[simp] theorem State.setIhxPort_free (p : Nat) (x : IhxPort) : (s.setIhxPort p x).free = s.free := rfl
@[simp] theorem State.setIhxPort_pending (p : Nat) (x : IhxPort) : (s.setIhxPort p x).pending = s.pending := rfl

/-! ### State.setMailbox -/

@[simp] theorem State.setMailbox_boot (n : Nat) (m : Mailbox) : (s.setMailbox n m).boot = s.boot := rfl
@[simp] theorem State.setMailbox_nv (n : Nat) (m : Mailbox) : (s.setMailbox n m).nv = s.nv := rfl
@[simp] theorem State.setMailbox_part (n : Nat) (m : Mailbox) : (s.setMailbox n m).part = s.part := rfl
@[simp] theorem State.setMailbox_stage (n : Nat) (m : Mailbox) : (s.setMailbox n m).stage = s.stage := rfl
@[simp] theorem State.setMailbox_tb (n : Nat) (m : Mailbox) : (s.setMailbox n m).tb = s.tb := rfl
@[simp] theorem State.setMailbox_cap (n : Nat) (m : Mailbox) : (s.setMailbox n m).cap = s.cap := rfl
@[simp] theorem State.setMailbox_pwr (n : Nat) (m : Mailbox) : (s.setMailbox n m).pwr = s.pwr := rfl
@[simp] theorem State.setMailbox_mem (n : Nat) (m : Mailbox) : (s.setMailbox n m).mem = s.mem := rfl
@[simp] theorem State.setMailbox_dram (n : Nat) (m : Mailbox) : (s.setMailbox n m).dram = s.dram := rfl
@[simp] theorem State.setMailbox_rmk (n : Nat) (m : Mailbox) : (s.setMailbox n m).rmk = s.rmk := rfl
@[simp] theorem State.setMailbox_sessions (n : Nat) (m : Mailbox) : (s.setMailbox n m).sessions = s.sessions := rfl
@[simp] theorem State.setMailbox_models (n : Nat) (m : Mailbox) : (s.setMailbox n m).models = s.models := rfl
@[simp] theorem State.setMailbox_nextHandle (n : Nat) (m : Mailbox) : (s.setMailbox n m).nextHandle = s.nextHandle := rfl
@[simp] theorem State.setMailbox_streams (n : Nat) (m : Mailbox) : (s.setMailbox n m).streams = s.streams := rfl
@[simp] theorem State.setMailbox_jobs (n : Nat) (m : Mailbox) : (s.setMailbox n m).jobs = s.jobs := rfl
@[simp] theorem State.setMailbox_hatch (n : Nat) (m : Mailbox) : (s.setMailbox n m).hatch = s.hatch := rfl
@[simp] theorem State.setMailbox_burin (n : Nat) (m : Mailbox) : (s.setMailbox n m).burin = s.burin := rfl
@[simp] theorem State.setMailbox_lines (n : Nat) (m : Mailbox) : (s.setMailbox n m).lines = s.lines := rfl
@[simp] theorem State.setMailbox_ihx (n : Nat) (m : Mailbox) : (s.setMailbox n m).ihx = s.ihx := rfl
@[simp] theorem State.setMailbox_proof (n : Nat) (m : Mailbox) : (s.setMailbox n m).proof = s.proof := rfl
@[simp] theorem State.setMailbox_alm (n : Nat) (m : Mailbox) : (s.setMailbox n m).alm = s.alm := rfl
@[simp] theorem State.setMailbox_evt (n : Nat) (m : Mailbox) : (s.setMailbox n m).evt = s.evt := rfl
@[simp] theorem State.setMailbox_fault (n : Nat) (m : Mailbox) : (s.setMailbox n m).fault = s.fault := rfl
@[simp] theorem State.setMailbox_cnt (n : Nat) (m : Mailbox) : (s.setMailbox n m).cnt = s.cnt := rfl
@[simp] theorem State.setMailbox_acct (n : Nat) (m : Mailbox) : (s.setMailbox n m).acct = s.acct := rfl
@[simp] theorem State.setMailbox_rebind (n : Nat) (m : Mailbox) : (s.setMailbox n m).rebind = s.rebind := rfl
@[simp] theorem State.setMailbox_tallies (n : Nat) (m : Mailbox) : (s.setMailbox n m).tallies = s.tallies := rfl
@[simp] theorem State.setMailbox_mseqOut (n : Nat) (m : Mailbox) : (s.setMailbox n m).mseqOut = s.mseqOut := rfl
@[simp] theorem State.setMailbox_almSent (n : Nat) (m : Mailbox) : (s.setMailbox n m).almSent = s.almSent := rfl
@[simp] theorem State.setMailbox_host (n : Nat) (m : Mailbox) : (s.setMailbox n m).host = s.host := rfl
@[simp] theorem State.setMailbox_free (n : Nat) (m : Mailbox) : (s.setMailbox n m).free = s.free := rfl
@[simp] theorem State.setMailbox_pending (n : Nat) (m : Mailbox) : (s.setMailbox n m).pending = s.pending := rfl

/-! ### State.hostWrite -/

@[simp] theorem State.hostWrite_boot (p a : Nat) (b : List Byte) : (s.hostWrite p a b).boot = s.boot := rfl
@[simp] theorem State.hostWrite_nv (p a : Nat) (b : List Byte) : (s.hostWrite p a b).nv = s.nv := rfl
@[simp] theorem State.hostWrite_part (p a : Nat) (b : List Byte) : (s.hostWrite p a b).part = s.part := rfl
@[simp] theorem State.hostWrite_stage (p a : Nat) (b : List Byte) : (s.hostWrite p a b).stage = s.stage := rfl
@[simp] theorem State.hostWrite_tb (p a : Nat) (b : List Byte) : (s.hostWrite p a b).tb = s.tb := rfl
@[simp] theorem State.hostWrite_cap (p a : Nat) (b : List Byte) : (s.hostWrite p a b).cap = s.cap := rfl
@[simp] theorem State.hostWrite_pwr (p a : Nat) (b : List Byte) : (s.hostWrite p a b).pwr = s.pwr := rfl
@[simp] theorem State.hostWrite_mem (p a : Nat) (b : List Byte) : (s.hostWrite p a b).mem = s.mem := rfl
@[simp] theorem State.hostWrite_dram (p a : Nat) (b : List Byte) : (s.hostWrite p a b).dram = s.dram := rfl
@[simp] theorem State.hostWrite_rmk (p a : Nat) (b : List Byte) : (s.hostWrite p a b).rmk = s.rmk := rfl
@[simp] theorem State.hostWrite_sessions (p a : Nat) (b : List Byte) : (s.hostWrite p a b).sessions = s.sessions := rfl
@[simp] theorem State.hostWrite_models (p a : Nat) (b : List Byte) : (s.hostWrite p a b).models = s.models := rfl
@[simp] theorem State.hostWrite_nextHandle (p a : Nat) (b : List Byte) : (s.hostWrite p a b).nextHandle = s.nextHandle := rfl
@[simp] theorem State.hostWrite_streams (p a : Nat) (b : List Byte) : (s.hostWrite p a b).streams = s.streams := rfl
@[simp] theorem State.hostWrite_jobs (p a : Nat) (b : List Byte) : (s.hostWrite p a b).jobs = s.jobs := rfl
@[simp] theorem State.hostWrite_hatch (p a : Nat) (b : List Byte) : (s.hostWrite p a b).hatch = s.hatch := rfl
@[simp] theorem State.hostWrite_burin (p a : Nat) (b : List Byte) : (s.hostWrite p a b).burin = s.burin := rfl
@[simp] theorem State.hostWrite_lines (p a : Nat) (b : List Byte) : (s.hostWrite p a b).lines = s.lines := rfl
@[simp] theorem State.hostWrite_ihx (p a : Nat) (b : List Byte) : (s.hostWrite p a b).ihx = s.ihx := rfl
@[simp] theorem State.hostWrite_proof (p a : Nat) (b : List Byte) : (s.hostWrite p a b).proof = s.proof := rfl
@[simp] theorem State.hostWrite_mbx (p a : Nat) (b : List Byte) : (s.hostWrite p a b).mbx = s.mbx := rfl
@[simp] theorem State.hostWrite_alm (p a : Nat) (b : List Byte) : (s.hostWrite p a b).alm = s.alm := rfl
@[simp] theorem State.hostWrite_evt (p a : Nat) (b : List Byte) : (s.hostWrite p a b).evt = s.evt := rfl
@[simp] theorem State.hostWrite_fault (p a : Nat) (b : List Byte) : (s.hostWrite p a b).fault = s.fault := rfl
@[simp] theorem State.hostWrite_acct (p a : Nat) (b : List Byte) : (s.hostWrite p a b).acct = s.acct := rfl
@[simp] theorem State.hostWrite_rebind (p a : Nat) (b : List Byte) : (s.hostWrite p a b).rebind = s.rebind := rfl
@[simp] theorem State.hostWrite_tallies (p a : Nat) (b : List Byte) : (s.hostWrite p a b).tallies = s.tallies := rfl
@[simp] theorem State.hostWrite_mseqOut (p a : Nat) (b : List Byte) : (s.hostWrite p a b).mseqOut = s.mseqOut := rfl
@[simp] theorem State.hostWrite_almSent (p a : Nat) (b : List Byte) : (s.hostWrite p a b).almSent = s.almSent := rfl
@[simp] theorem State.hostWrite_free (p a : Nat) (b : List Byte) : (s.hostWrite p a b).free = s.free := rfl
@[simp] theorem State.hostWrite_pending (p a : Nat) (b : List Byte) : (s.hostWrite p a b).pending = s.pending := rfl

/-! ### State.sendMsix -/

@[simp] theorem State.sendMsix_boot (v : Nat) : (s.sendMsix v).boot = s.boot := rfl
@[simp] theorem State.sendMsix_nv (v : Nat) : (s.sendMsix v).nv = s.nv := rfl
@[simp] theorem State.sendMsix_part (v : Nat) : (s.sendMsix v).part = s.part := rfl
@[simp] theorem State.sendMsix_stage (v : Nat) : (s.sendMsix v).stage = s.stage := rfl
@[simp] theorem State.sendMsix_tb (v : Nat) : (s.sendMsix v).tb = s.tb := rfl
@[simp] theorem State.sendMsix_cap (v : Nat) : (s.sendMsix v).cap = s.cap := rfl
@[simp] theorem State.sendMsix_pwr (v : Nat) : (s.sendMsix v).pwr = s.pwr := rfl
@[simp] theorem State.sendMsix_mem (v : Nat) : (s.sendMsix v).mem = s.mem := rfl
@[simp] theorem State.sendMsix_dram (v : Nat) : (s.sendMsix v).dram = s.dram := rfl
@[simp] theorem State.sendMsix_rmk (v : Nat) : (s.sendMsix v).rmk = s.rmk := rfl
@[simp] theorem State.sendMsix_sessions (v : Nat) : (s.sendMsix v).sessions = s.sessions := rfl
@[simp] theorem State.sendMsix_models (v : Nat) : (s.sendMsix v).models = s.models := rfl
@[simp] theorem State.sendMsix_nextHandle (v : Nat) : (s.sendMsix v).nextHandle = s.nextHandle := rfl
@[simp] theorem State.sendMsix_streams (v : Nat) : (s.sendMsix v).streams = s.streams := rfl
@[simp] theorem State.sendMsix_jobs (v : Nat) : (s.sendMsix v).jobs = s.jobs := rfl
@[simp] theorem State.sendMsix_hatch (v : Nat) : (s.sendMsix v).hatch = s.hatch := rfl
@[simp] theorem State.sendMsix_burin (v : Nat) : (s.sendMsix v).burin = s.burin := rfl
@[simp] theorem State.sendMsix_lines (v : Nat) : (s.sendMsix v).lines = s.lines := rfl
@[simp] theorem State.sendMsix_ihx (v : Nat) : (s.sendMsix v).ihx = s.ihx := rfl
@[simp] theorem State.sendMsix_proof (v : Nat) : (s.sendMsix v).proof = s.proof := rfl
@[simp] theorem State.sendMsix_mbx (v : Nat) : (s.sendMsix v).mbx = s.mbx := rfl
@[simp] theorem State.sendMsix_alm (v : Nat) : (s.sendMsix v).alm = s.alm := rfl
@[simp] theorem State.sendMsix_evt (v : Nat) : (s.sendMsix v).evt = s.evt := rfl
@[simp] theorem State.sendMsix_fault (v : Nat) : (s.sendMsix v).fault = s.fault := rfl
@[simp] theorem State.sendMsix_cnt (v : Nat) : (s.sendMsix v).cnt = s.cnt := rfl
@[simp] theorem State.sendMsix_acct (v : Nat) : (s.sendMsix v).acct = s.acct := rfl
@[simp] theorem State.sendMsix_rebind (v : Nat) : (s.sendMsix v).rebind = s.rebind := rfl
@[simp] theorem State.sendMsix_tallies (v : Nat) : (s.sendMsix v).tallies = s.tallies := rfl
@[simp] theorem State.sendMsix_mseqOut (v : Nat) : (s.sendMsix v).mseqOut = s.mseqOut := rfl
@[simp] theorem State.sendMsix_almSent (v : Nat) : (s.sendMsix v).almSent = s.almSent := rfl
@[simp] theorem State.sendMsix_free (v : Nat) : (s.sendMsix v).free = s.free := rfl
@[simp] theorem State.sendMsix_pending (v : Nat) : (s.sendMsix v).pending = s.pending := rfl

/-! ### State.bump -/

@[simp] theorem State.bump_boot (code n : Nat) (sc : EvScope) : (s.bump code n sc).boot = s.boot := rfl
@[simp] theorem State.bump_nv (code n : Nat) (sc : EvScope) : (s.bump code n sc).nv = s.nv := rfl
@[simp] theorem State.bump_part (code n : Nat) (sc : EvScope) : (s.bump code n sc).part = s.part := rfl
@[simp] theorem State.bump_stage (code n : Nat) (sc : EvScope) : (s.bump code n sc).stage = s.stage := rfl
@[simp] theorem State.bump_tb (code n : Nat) (sc : EvScope) : (s.bump code n sc).tb = s.tb := rfl
@[simp] theorem State.bump_cap (code n : Nat) (sc : EvScope) : (s.bump code n sc).cap = s.cap := rfl
@[simp] theorem State.bump_pwr (code n : Nat) (sc : EvScope) : (s.bump code n sc).pwr = s.pwr := rfl
@[simp] theorem State.bump_mem (code n : Nat) (sc : EvScope) : (s.bump code n sc).mem = s.mem := rfl
@[simp] theorem State.bump_dram (code n : Nat) (sc : EvScope) : (s.bump code n sc).dram = s.dram := rfl
@[simp] theorem State.bump_rmk (code n : Nat) (sc : EvScope) : (s.bump code n sc).rmk = s.rmk := rfl
@[simp] theorem State.bump_sessions (code n : Nat) (sc : EvScope) : (s.bump code n sc).sessions = s.sessions := rfl
@[simp] theorem State.bump_models (code n : Nat) (sc : EvScope) : (s.bump code n sc).models = s.models := rfl
@[simp] theorem State.bump_nextHandle (code n : Nat) (sc : EvScope) : (s.bump code n sc).nextHandle = s.nextHandle := rfl
@[simp] theorem State.bump_streams (code n : Nat) (sc : EvScope) : (s.bump code n sc).streams = s.streams := rfl
@[simp] theorem State.bump_jobs (code n : Nat) (sc : EvScope) : (s.bump code n sc).jobs = s.jobs := rfl
@[simp] theorem State.bump_hatch (code n : Nat) (sc : EvScope) : (s.bump code n sc).hatch = s.hatch := rfl
@[simp] theorem State.bump_burin (code n : Nat) (sc : EvScope) : (s.bump code n sc).burin = s.burin := rfl
@[simp] theorem State.bump_lines (code n : Nat) (sc : EvScope) : (s.bump code n sc).lines = s.lines := rfl
@[simp] theorem State.bump_ihx (code n : Nat) (sc : EvScope) : (s.bump code n sc).ihx = s.ihx := rfl
@[simp] theorem State.bump_proof (code n : Nat) (sc : EvScope) : (s.bump code n sc).proof = s.proof := rfl
@[simp] theorem State.bump_mbx (code n : Nat) (sc : EvScope) : (s.bump code n sc).mbx = s.mbx := rfl
@[simp] theorem State.bump_alm (code n : Nat) (sc : EvScope) : (s.bump code n sc).alm = s.alm := rfl
@[simp] theorem State.bump_evt (code n : Nat) (sc : EvScope) : (s.bump code n sc).evt = s.evt := rfl
@[simp] theorem State.bump_fault (code n : Nat) (sc : EvScope) : (s.bump code n sc).fault = s.fault := rfl
@[simp] theorem State.bump_acct (code n : Nat) (sc : EvScope) : (s.bump code n sc).acct = s.acct := rfl
@[simp] theorem State.bump_rebind (code n : Nat) (sc : EvScope) : (s.bump code n sc).rebind = s.rebind := rfl
@[simp] theorem State.bump_tallies (code n : Nat) (sc : EvScope) : (s.bump code n sc).tallies = s.tallies := rfl
@[simp] theorem State.bump_mseqOut (code n : Nat) (sc : EvScope) : (s.bump code n sc).mseqOut = s.mseqOut := rfl
@[simp] theorem State.bump_almSent (code n : Nat) (sc : EvScope) : (s.bump code n sc).almSent = s.almSent := rfl
@[simp] theorem State.bump_host (code n : Nat) (sc : EvScope) : (s.bump code n sc).host = s.host := rfl
@[simp] theorem State.bump_free (code n : Nat) (sc : EvScope) : (s.bump code n sc).free = s.free := rfl
@[simp] theorem State.bump_pending (code n : Nat) (sc : EvScope) : (s.bump code n sc).pending = s.pending := rfl

/-! ### State.setLog -/

@[simp] theorem State.setLog_boot (l : LogSource) : (s.setLog l).boot = s.boot := rfl
@[simp] theorem State.setLog_nv (l : LogSource) : (s.setLog l).nv = s.nv := rfl
@[simp] theorem State.setLog_part (l : LogSource) : (s.setLog l).part = s.part := rfl
@[simp] theorem State.setLog_stage (l : LogSource) : (s.setLog l).stage = s.stage := rfl
@[simp] theorem State.setLog_tb (l : LogSource) : (s.setLog l).tb = s.tb := rfl
@[simp] theorem State.setLog_cap (l : LogSource) : (s.setLog l).cap = s.cap := rfl
@[simp] theorem State.setLog_pwr (l : LogSource) : (s.setLog l).pwr = s.pwr := rfl
@[simp] theorem State.setLog_mem (l : LogSource) : (s.setLog l).mem = s.mem := rfl
@[simp] theorem State.setLog_dram (l : LogSource) : (s.setLog l).dram = s.dram := rfl
@[simp] theorem State.setLog_rmk (l : LogSource) : (s.setLog l).rmk = s.rmk := rfl
@[simp] theorem State.setLog_sessions (l : LogSource) : (s.setLog l).sessions = s.sessions := rfl
@[simp] theorem State.setLog_models (l : LogSource) : (s.setLog l).models = s.models := rfl
@[simp] theorem State.setLog_nextHandle (l : LogSource) : (s.setLog l).nextHandle = s.nextHandle := rfl
@[simp] theorem State.setLog_streams (l : LogSource) : (s.setLog l).streams = s.streams := rfl
@[simp] theorem State.setLog_jobs (l : LogSource) : (s.setLog l).jobs = s.jobs := rfl
@[simp] theorem State.setLog_hatch (l : LogSource) : (s.setLog l).hatch = s.hatch := rfl
@[simp] theorem State.setLog_burin (l : LogSource) : (s.setLog l).burin = s.burin := rfl
@[simp] theorem State.setLog_lines (l : LogSource) : (s.setLog l).lines = s.lines := rfl
@[simp] theorem State.setLog_ihx (l : LogSource) : (s.setLog l).ihx = s.ihx := rfl
@[simp] theorem State.setLog_proof (l : LogSource) : (s.setLog l).proof = s.proof := rfl
@[simp] theorem State.setLog_mbx (l : LogSource) : (s.setLog l).mbx = s.mbx := rfl
@[simp] theorem State.setLog_alm (l : LogSource) : (s.setLog l).alm = s.alm := rfl
@[simp] theorem State.setLog_fault (l : LogSource) : (s.setLog l).fault = s.fault := rfl
@[simp] theorem State.setLog_cnt (l : LogSource) : (s.setLog l).cnt = s.cnt := rfl
@[simp] theorem State.setLog_acct (l : LogSource) : (s.setLog l).acct = s.acct := rfl
@[simp] theorem State.setLog_rebind (l : LogSource) : (s.setLog l).rebind = s.rebind := rfl
@[simp] theorem State.setLog_tallies (l : LogSource) : (s.setLog l).tallies = s.tallies := rfl
@[simp] theorem State.setLog_mseqOut (l : LogSource) : (s.setLog l).mseqOut = s.mseqOut := rfl
@[simp] theorem State.setLog_almSent (l : LogSource) : (s.setLog l).almSent = s.almSent := rfl
@[simp] theorem State.setLog_host (l : LogSource) : (s.setLog l).host = s.host := rfl
@[simp] theorem State.setLog_free (l : LogSource) : (s.setLog l).free = s.free := rfl
@[simp] theorem State.setLog_pending (l : LogSource) : (s.setLog l).pending = s.pending := rfl

/-! ### Reading what was set -/

@[simp] theorem State.stream_setStream (x : Stream) : (s.setStream x).stream x.id = some x := by
  simp [State.stream, State.setStream, tabGet_tabSet_same]
theorem State.stream_setStream_other (x : Stream) {n : Nat} (h : n ≠ x.id) : (s.setStream x).stream n = s.stream n := by
  simp [State.stream, State.setStream, tabGet_tabSet_other _ _ h]
@[simp] theorem State.job_setJob (x : Job) : (s.setJob x).job x.id = some x := by
  simp [State.job, State.setJob, tabGet_tabSet_same]
theorem State.job_setJob_other (x : Job) {n : Nat} (h : n ≠ x.id) : (s.setJob x).job n = s.job n := by
  simp [State.job, State.setJob, tabGet_tabSet_other _ _ h]
@[simp] theorem State.model_setModel (x : Model) : (s.setModel x).model x.handle = some x := by
  simp [State.model, State.setModel, tabGet_tabSet_same]
theorem State.model_setModel_other (x : Model) {n : Nat} (h : n ≠ x.handle) : (s.setModel x).model n = s.model n := by
  simp [State.model, State.setModel, tabGet_tabSet_other _ _ h]
/-- A record read by its ID carries that ID. -/
theorem State.job_id {n : Nat} {j : Job} (h : s.job n = some j) : j.id = n := by
  simp [State.job, Option.filter_eq_some_iff] at h
  exact h.2
/-- A record read by its ID carries that ID. -/
theorem State.stream_id {n : Nat} {x : Stream} (h : s.stream n = some x) : x.id = n := by
  simp [State.stream, Option.filter_eq_some_iff] at h
  exact h.2
/-- A record read by its handle carries that handle. -/
theorem State.model_handle {n : Nat} {m : Model} (h : s.model n = some m) : m.handle = n := by
  simp [State.model, Option.filter_eq_some_iff] at h
  exact h.2
@[simp] theorem State.ring_setRing (n : Nat) (r : Ring) : (s.setRing n r).ring n = r := by
  show (tabGet (tabSet s.rmk.rings n r) n).getD Ring.init = r
  rw [tabGet_tabSet_same]
  rfl
theorem State.ring_setRing_other {n k : Nat} (r : Ring) (h : k ≠ n) : (s.setRing n r).ring k = s.ring k := by
  show (tabGet (tabSet s.rmk.rings n r) k).getD Ring.init = (tabGet s.rmk.rings k).getD Ring.init
  rw [tabGet_tabSet_other s.rmk.rings r h]
@[simp] theorem State.core_setCore (c : Nat) (x : Core) : (s.setCore c x).core c = x := by
  show (tabGet (tabSet s.hatch.cores c x) c).getD _ = x
  rw [tabGet_tabSet_same]
  rfl
theorem State.core_setCore_other {c k : Nat} (x : Core) (h : k ≠ c) : (s.setCore c x).core k = s.core k := by
  show (tabGet (tabSet s.hatch.cores c x) k).getD _ = (tabGet s.hatch.cores k).getD _
  rw [tabGet_tabSet_other s.hatch.cores x h]
@[simp] theorem State.unit_setUnit (u : Nat) (x : BurinUnit) : (s.setUnit u x).unit u = x := by
  show (tabGet (tabSet s.burin u x) u).getD _ = x
  rw [tabGet_tabSet_same]
  rfl
@[simp] theorem State.dir_setDir (n d : Nat) (x : Direction) : (s.setDir n d x).dir n d = x := by
  show (tabGet (tabSet s.lines.dirs (2 * n + d) x) (2 * n + d)).getD _ = x
  rw [tabGet_tabSet_same]
  rfl
@[simp] theorem State.groupAt_setGroup (g : Nat) (x : Group) : (s.setGroup g x).groupAt g = x := by
  show (tabGet (tabSet s.lines.groups g x) g).getD _ = x
  rw [tabGet_tabSet_same]
  rfl
@[simp] theorem State.ihxPort_setIhxPort (p : Nat) (x : IhxPort) : (s.setIhxPort p x).ihxPort p = x := by
  show (tabGet (tabSet s.ihx.ports p x) p).getD _ = x
  rw [tabGet_tabSet_same]
  rfl

end Sys2Proof.Machine
end

