-- ==== Sys2Proof/Laws/Reads.lean ====
section
/-! SUPPORT. What the shared operations leave of every block, and what a table reads behind an operation that does not touch it. -/

namespace Sys2Proof.Machine

open Sys2Proof

variable (s : State)


/-! ### State.evtWrite: the blocks it leaves alone -/

@[simp] theorem State.evtWrite_boot (r : EvtRecord) : (s.evtWrite r).boot = s.boot :=
  State.evtWrite_frame .boot (by decide)
@[simp] theorem State.evtWrite_nv (r : EvtRecord) : (s.evtWrite r).nv = s.nv :=
  State.evtWrite_frame .nv (by decide)
@[simp] theorem State.evtWrite_part (r : EvtRecord) : (s.evtWrite r).part = s.part :=
  State.evtWrite_frame .part (by decide)
@[simp] theorem State.evtWrite_stage (r : EvtRecord) : (s.evtWrite r).stage = s.stage :=
  State.evtWrite_frame .stage (by decide)
@[simp] theorem State.evtWrite_tb (r : EvtRecord) : (s.evtWrite r).tb = s.tb :=
  State.evtWrite_frame .tb (by decide)
@[simp] theorem State.evtWrite_cap (r : EvtRecord) : (s.evtWrite r).cap = s.cap :=
  State.evtWrite_frame .cap (by decide)
@[simp] theorem State.evtWrite_pwr (r : EvtRecord) : (s.evtWrite r).pwr = s.pwr :=
  State.evtWrite_frame .pwr (by decide)
@[simp] theorem State.evtWrite_mem (r : EvtRecord) : (s.evtWrite r).mem = s.mem :=
  State.evtWrite_frame .mem (by decide)
@[simp] theorem State.evtWrite_dram (r : EvtRecord) : (s.evtWrite r).dram = s.dram :=
  State.evtWrite_frame .dram (by decide)
@[simp] theorem State.evtWrite_rmk (r : EvtRecord) : (s.evtWrite r).rmk = s.rmk :=
  State.evtWrite_frame .rmk (by decide)
@[simp] theorem State.evtWrite_sessions (r : EvtRecord) : (s.evtWrite r).sessions = s.sessions :=
  State.evtWrite_frame .sessions (by decide)
@[simp] theorem State.evtWrite_models (r : EvtRecord) : (s.evtWrite r).models = s.models :=
  State.evtWrite_frame .models (by decide)
@[simp] theorem State.evtWrite_nextHandle (r : EvtRecord) : (s.evtWrite r).nextHandle = s.nextHandle :=
  State.evtWrite_frame .nextHandle (by decide)
@[simp] theorem State.evtWrite_streams (r : EvtRecord) : (s.evtWrite r).streams = s.streams :=
  State.evtWrite_frame .streams (by decide)
@[simp] theorem State.evtWrite_jobs (r : EvtRecord) : (s.evtWrite r).jobs = s.jobs :=
  State.evtWrite_frame .jobs (by decide)
@[simp] theorem State.evtWrite_hatch (r : EvtRecord) : (s.evtWrite r).hatch = s.hatch :=
  State.evtWrite_frame .hatch (by decide)
@[simp] theorem State.evtWrite_burin (r : EvtRecord) : (s.evtWrite r).burin = s.burin :=
  State.evtWrite_frame .burin (by decide)
@[simp] theorem State.evtWrite_lines (r : EvtRecord) : (s.evtWrite r).lines = s.lines :=
  State.evtWrite_frame .lines (by decide)
@[simp] theorem State.evtWrite_ihx (r : EvtRecord) : (s.evtWrite r).ihx = s.ihx :=
  State.evtWrite_frame .ihx (by decide)
@[simp] theorem State.evtWrite_proof (r : EvtRecord) : (s.evtWrite r).proof = s.proof :=
  State.evtWrite_frame .proof (by decide)
@[simp] theorem State.evtWrite_mbx (r : EvtRecord) : (s.evtWrite r).mbx = s.mbx :=
  State.evtWrite_frame .mbx (by decide)
@[simp] theorem State.evtWrite_alm (r : EvtRecord) : (s.evtWrite r).alm = s.alm :=
  State.evtWrite_frame .alm (by decide)
@[simp] theorem State.evtWrite_fault (r : EvtRecord) : (s.evtWrite r).fault = s.fault :=
  State.evtWrite_frame .fault (by decide)
@[simp] theorem State.evtWrite_acct (r : EvtRecord) : (s.evtWrite r).acct = s.acct :=
  State.evtWrite_frame .acct (by decide)
@[simp] theorem State.evtWrite_rebind (r : EvtRecord) : (s.evtWrite r).rebind = s.rebind :=
  State.evtWrite_frame .rebind (by decide)
@[simp] theorem State.evtWrite_tallies (r : EvtRecord) : (s.evtWrite r).tallies = s.tallies :=
  State.evtWrite_frame .tallies (by decide)
@[simp] theorem State.evtWrite_mseqOut (r : EvtRecord) : (s.evtWrite r).mseqOut = s.mseqOut :=
  State.evtWrite_frame .mseqOut (by decide)
@[simp] theorem State.evtWrite_almSent (r : EvtRecord) : (s.evtWrite r).almSent = s.almSent :=
  State.evtWrite_frame .almSent (by decide)
@[simp] theorem State.evtWrite_free (r : EvtRecord) : (s.evtWrite r).free = s.free :=
  State.evtWrite_frame .free (by decide)
@[simp] theorem State.evtWrite_pending (r : EvtRecord) : (s.evtWrite r).pending = s.pending :=
  State.evtWrite_frame .pending (by decide)

/-! ### State.alarmRecord: the blocks it leaves alone -/

@[simp] theorem State.alarmRecord_boot (r : EvtRecord) : (s.alarmRecord r).boot = s.boot :=
  State.alarmRecord_frame .boot (by decide)
@[simp] theorem State.alarmRecord_nv (r : EvtRecord) : (s.alarmRecord r).nv = s.nv :=
  State.alarmRecord_frame .nv (by decide)
@[simp] theorem State.alarmRecord_part (r : EvtRecord) : (s.alarmRecord r).part = s.part :=
  State.alarmRecord_frame .part (by decide)
@[simp] theorem State.alarmRecord_stage (r : EvtRecord) : (s.alarmRecord r).stage = s.stage :=
  State.alarmRecord_frame .stage (by decide)
@[simp] theorem State.alarmRecord_tb (r : EvtRecord) : (s.alarmRecord r).tb = s.tb :=
  State.alarmRecord_frame .tb (by decide)
@[simp] theorem State.alarmRecord_cap (r : EvtRecord) : (s.alarmRecord r).cap = s.cap :=
  State.alarmRecord_frame .cap (by decide)
@[simp] theorem State.alarmRecord_pwr (r : EvtRecord) : (s.alarmRecord r).pwr = s.pwr :=
  State.alarmRecord_frame .pwr (by decide)
@[simp] theorem State.alarmRecord_mem (r : EvtRecord) : (s.alarmRecord r).mem = s.mem :=
  State.alarmRecord_frame .mem (by decide)
@[simp] theorem State.alarmRecord_dram (r : EvtRecord) : (s.alarmRecord r).dram = s.dram :=
  State.alarmRecord_frame .dram (by decide)
@[simp] theorem State.alarmRecord_rmk (r : EvtRecord) : (s.alarmRecord r).rmk = s.rmk :=
  State.alarmRecord_frame .rmk (by decide)
@[simp] theorem State.alarmRecord_sessions (r : EvtRecord) : (s.alarmRecord r).sessions = s.sessions :=
  State.alarmRecord_frame .sessions (by decide)
@[simp] theorem State.alarmRecord_models (r : EvtRecord) : (s.alarmRecord r).models = s.models :=
  State.alarmRecord_frame .models (by decide)
@[simp] theorem State.alarmRecord_nextHandle (r : EvtRecord) : (s.alarmRecord r).nextHandle = s.nextHandle :=
  State.alarmRecord_frame .nextHandle (by decide)
@[simp] theorem State.alarmRecord_streams (r : EvtRecord) : (s.alarmRecord r).streams = s.streams :=
  State.alarmRecord_frame .streams (by decide)
@[simp] theorem State.alarmRecord_jobs (r : EvtRecord) : (s.alarmRecord r).jobs = s.jobs :=
  State.alarmRecord_frame .jobs (by decide)
@[simp] theorem State.alarmRecord_hatch (r : EvtRecord) : (s.alarmRecord r).hatch = s.hatch :=
  State.alarmRecord_frame .hatch (by decide)
@[simp] theorem State.alarmRecord_burin (r : EvtRecord) : (s.alarmRecord r).burin = s.burin :=
  State.alarmRecord_frame .burin (by decide)
@[simp] theorem State.alarmRecord_lines (r : EvtRecord) : (s.alarmRecord r).lines = s.lines :=
  State.alarmRecord_frame .lines (by decide)
@[simp] theorem State.alarmRecord_ihx (r : EvtRecord) : (s.alarmRecord r).ihx = s.ihx :=
  State.alarmRecord_frame .ihx (by decide)
@[simp] theorem State.alarmRecord_proof (r : EvtRecord) : (s.alarmRecord r).proof = s.proof :=
  State.alarmRecord_frame .proof (by decide)
@[simp] theorem State.alarmRecord_mbx (r : EvtRecord) : (s.alarmRecord r).mbx = s.mbx :=
  State.alarmRecord_frame .mbx (by decide)
@[simp] theorem State.alarmRecord_alm (r : EvtRecord) : (s.alarmRecord r).alm = s.alm :=
  State.alarmRecord_frame .alm (by decide)
@[simp] theorem State.alarmRecord_fault (r : EvtRecord) : (s.alarmRecord r).fault = s.fault :=
  State.alarmRecord_frame .fault (by decide)
@[simp] theorem State.alarmRecord_acct (r : EvtRecord) : (s.alarmRecord r).acct = s.acct :=
  State.alarmRecord_frame .acct (by decide)
@[simp] theorem State.alarmRecord_rebind (r : EvtRecord) : (s.alarmRecord r).rebind = s.rebind :=
  State.alarmRecord_frame .rebind (by decide)
@[simp] theorem State.alarmRecord_tallies (r : EvtRecord) : (s.alarmRecord r).tallies = s.tallies :=
  State.alarmRecord_frame .tallies (by decide)
@[simp] theorem State.alarmRecord_mseqOut (r : EvtRecord) : (s.alarmRecord r).mseqOut = s.mseqOut :=
  State.alarmRecord_frame .mseqOut (by decide)
@[simp] theorem State.alarmRecord_almSent (r : EvtRecord) : (s.alarmRecord r).almSent = s.almSent :=
  State.alarmRecord_frame .almSent (by decide)
@[simp] theorem State.alarmRecord_free (r : EvtRecord) : (s.alarmRecord r).free = s.free :=
  State.alarmRecord_frame .free (by decide)
@[simp] theorem State.alarmRecord_pending (r : EvtRecord) : (s.alarmRecord r).pending = s.pending :=
  State.alarmRecord_frame .pending (by decide)

/-! ### State.evtDrain: the blocks it leaves alone -/

@[simp] theorem State.evtDrain_boot : s.evtDrain.boot = s.boot :=
  State.evtDrain_frame .boot (by decide)
@[simp] theorem State.evtDrain_nv : s.evtDrain.nv = s.nv :=
  State.evtDrain_frame .nv (by decide)
@[simp] theorem State.evtDrain_part : s.evtDrain.part = s.part :=
  State.evtDrain_frame .part (by decide)
@[simp] theorem State.evtDrain_stage : s.evtDrain.stage = s.stage :=
  State.evtDrain_frame .stage (by decide)
@[simp] theorem State.evtDrain_tb : s.evtDrain.tb = s.tb :=
  State.evtDrain_frame .tb (by decide)
@[simp] theorem State.evtDrain_cap : s.evtDrain.cap = s.cap :=
  State.evtDrain_frame .cap (by decide)
@[simp] theorem State.evtDrain_pwr : s.evtDrain.pwr = s.pwr :=
  State.evtDrain_frame .pwr (by decide)
@[simp] theorem State.evtDrain_mem : s.evtDrain.mem = s.mem :=
  State.evtDrain_frame .mem (by decide)
@[simp] theorem State.evtDrain_dram : s.evtDrain.dram = s.dram :=
  State.evtDrain_frame .dram (by decide)
@[simp] theorem State.evtDrain_rmk : s.evtDrain.rmk = s.rmk :=
  State.evtDrain_frame .rmk (by decide)
@[simp] theorem State.evtDrain_sessions : s.evtDrain.sessions = s.sessions :=
  State.evtDrain_frame .sessions (by decide)
@[simp] theorem State.evtDrain_models : s.evtDrain.models = s.models :=
  State.evtDrain_frame .models (by decide)
@[simp] theorem State.evtDrain_nextHandle : s.evtDrain.nextHandle = s.nextHandle :=
  State.evtDrain_frame .nextHandle (by decide)
@[simp] theorem State.evtDrain_streams : s.evtDrain.streams = s.streams :=
  State.evtDrain_frame .streams (by decide)
@[simp] theorem State.evtDrain_jobs : s.evtDrain.jobs = s.jobs :=
  State.evtDrain_frame .jobs (by decide)
@[simp] theorem State.evtDrain_hatch : s.evtDrain.hatch = s.hatch :=
  State.evtDrain_frame .hatch (by decide)
@[simp] theorem State.evtDrain_burin : s.evtDrain.burin = s.burin :=
  State.evtDrain_frame .burin (by decide)
@[simp] theorem State.evtDrain_lines : s.evtDrain.lines = s.lines :=
  State.evtDrain_frame .lines (by decide)
@[simp] theorem State.evtDrain_ihx : s.evtDrain.ihx = s.ihx :=
  State.evtDrain_frame .ihx (by decide)
@[simp] theorem State.evtDrain_proof : s.evtDrain.proof = s.proof :=
  State.evtDrain_frame .proof (by decide)
@[simp] theorem State.evtDrain_mbx : s.evtDrain.mbx = s.mbx :=
  State.evtDrain_frame .mbx (by decide)
@[simp] theorem State.evtDrain_alm : s.evtDrain.alm = s.alm :=
  State.evtDrain_frame .alm (by decide)
@[simp] theorem State.evtDrain_fault : s.evtDrain.fault = s.fault :=
  State.evtDrain_frame .fault (by decide)
@[simp] theorem State.evtDrain_acct : s.evtDrain.acct = s.acct :=
  State.evtDrain_frame .acct (by decide)
@[simp] theorem State.evtDrain_rebind : s.evtDrain.rebind = s.rebind :=
  State.evtDrain_frame .rebind (by decide)
@[simp] theorem State.evtDrain_tallies : s.evtDrain.tallies = s.tallies :=
  State.evtDrain_frame .tallies (by decide)
@[simp] theorem State.evtDrain_mseqOut : s.evtDrain.mseqOut = s.mseqOut :=
  State.evtDrain_frame .mseqOut (by decide)
@[simp] theorem State.evtDrain_almSent : s.evtDrain.almSent = s.almSent :=
  State.evtDrain_frame .almSent (by decide)
@[simp] theorem State.evtDrain_free : s.evtDrain.free = s.free :=
  State.evtDrain_frame .free (by decide)
@[simp] theorem State.evtDrain_pending : s.evtDrain.pending = s.pending :=
  State.evtDrain_frame .pending (by decide)

/-! ### State.raiseAlarm: the blocks it leaves alone -/

@[simp] theorem State.raiseAlarm_boot (code source detail : Nat) : (s.raiseAlarm code source detail).boot = s.boot :=
  State.raiseAlarm_frame .boot (by decide)
@[simp] theorem State.raiseAlarm_nv (code source detail : Nat) : (s.raiseAlarm code source detail).nv = s.nv :=
  State.raiseAlarm_frame .nv (by decide)
@[simp] theorem State.raiseAlarm_part (code source detail : Nat) : (s.raiseAlarm code source detail).part = s.part :=
  State.raiseAlarm_frame .part (by decide)
@[simp] theorem State.raiseAlarm_stage (code source detail : Nat) : (s.raiseAlarm code source detail).stage = s.stage :=
  State.raiseAlarm_frame .stage (by decide)
@[simp] theorem State.raiseAlarm_tb (code source detail : Nat) : (s.raiseAlarm code source detail).tb = s.tb :=
  State.raiseAlarm_frame .tb (by decide)
@[simp] theorem State.raiseAlarm_cap (code source detail : Nat) : (s.raiseAlarm code source detail).cap = s.cap :=
  State.raiseAlarm_frame .cap (by decide)
@[simp] theorem State.raiseAlarm_pwr (code source detail : Nat) : (s.raiseAlarm code source detail).pwr = s.pwr :=
  State.raiseAlarm_frame .pwr (by decide)
@[simp] theorem State.raiseAlarm_mem (code source detail : Nat) : (s.raiseAlarm code source detail).mem = s.mem :=
  State.raiseAlarm_frame .mem (by decide)
@[simp] theorem State.raiseAlarm_dram (code source detail : Nat) : (s.raiseAlarm code source detail).dram = s.dram :=
  State.raiseAlarm_frame .dram (by decide)
@[simp] theorem State.raiseAlarm_rmk (code source detail : Nat) : (s.raiseAlarm code source detail).rmk = s.rmk :=
  State.raiseAlarm_frame .rmk (by decide)
@[simp] theorem State.raiseAlarm_sessions (code source detail : Nat) : (s.raiseAlarm code source detail).sessions = s.sessions :=
  State.raiseAlarm_frame .sessions (by decide)
@[simp] theorem State.raiseAlarm_models (code source detail : Nat) : (s.raiseAlarm code source detail).models = s.models :=
  State.raiseAlarm_frame .models (by decide)
@[simp] theorem State.raiseAlarm_nextHandle (code source detail : Nat) : (s.raiseAlarm code source detail).nextHandle = s.nextHandle :=
  State.raiseAlarm_frame .nextHandle (by decide)
@[simp] theorem State.raiseAlarm_streams (code source detail : Nat) : (s.raiseAlarm code source detail).streams = s.streams :=
  State.raiseAlarm_frame .streams (by decide)
@[simp] theorem State.raiseAlarm_jobs (code source detail : Nat) : (s.raiseAlarm code source detail).jobs = s.jobs :=
  State.raiseAlarm_frame .jobs (by decide)
@[simp] theorem State.raiseAlarm_hatch (code source detail : Nat) : (s.raiseAlarm code source detail).hatch = s.hatch :=
  State.raiseAlarm_frame .hatch (by decide)
@[simp] theorem State.raiseAlarm_burin (code source detail : Nat) : (s.raiseAlarm code source detail).burin = s.burin :=
  State.raiseAlarm_frame .burin (by decide)
@[simp] theorem State.raiseAlarm_lines (code source detail : Nat) : (s.raiseAlarm code source detail).lines = s.lines :=
  State.raiseAlarm_frame .lines (by decide)
@[simp] theorem State.raiseAlarm_ihx (code source detail : Nat) : (s.raiseAlarm code source detail).ihx = s.ihx :=
  State.raiseAlarm_frame .ihx (by decide)
@[simp] theorem State.raiseAlarm_proof (code source detail : Nat) : (s.raiseAlarm code source detail).proof = s.proof :=
  State.raiseAlarm_frame .proof (by decide)
@[simp] theorem State.raiseAlarm_mbx (code source detail : Nat) : (s.raiseAlarm code source detail).mbx = s.mbx :=
  State.raiseAlarm_frame .mbx (by decide)
@[simp] theorem State.raiseAlarm_alm (code source detail : Nat) : (s.raiseAlarm code source detail).alm = s.alm :=
  State.raiseAlarm_frame .alm (by decide)
@[simp] theorem State.raiseAlarm_fault (code source detail : Nat) : (s.raiseAlarm code source detail).fault = s.fault :=
  State.raiseAlarm_frame .fault (by decide)
@[simp] theorem State.raiseAlarm_acct (code source detail : Nat) : (s.raiseAlarm code source detail).acct = s.acct :=
  State.raiseAlarm_frame .acct (by decide)
@[simp] theorem State.raiseAlarm_rebind (code source detail : Nat) : (s.raiseAlarm code source detail).rebind = s.rebind :=
  State.raiseAlarm_frame .rebind (by decide)
@[simp] theorem State.raiseAlarm_tallies (code source detail : Nat) : (s.raiseAlarm code source detail).tallies = s.tallies :=
  State.raiseAlarm_frame .tallies (by decide)
@[simp] theorem State.raiseAlarm_mseqOut (code source detail : Nat) : (s.raiseAlarm code source detail).mseqOut = s.mseqOut :=
  State.raiseAlarm_frame .mseqOut (by decide)
@[simp] theorem State.raiseAlarm_almSent (code source detail : Nat) : (s.raiseAlarm code source detail).almSent = s.almSent :=
  State.raiseAlarm_frame .almSent (by decide)
@[simp] theorem State.raiseAlarm_free (code source detail : Nat) : (s.raiseAlarm code source detail).free = s.free :=
  State.raiseAlarm_frame .free (by decide)
@[simp] theorem State.raiseAlarm_pending (code source detail : Nat) : (s.raiseAlarm code source detail).pending = s.pending :=
  State.raiseAlarm_frame .pending (by decide)

/-! ### State.writeLog: the blocks it leaves alone -/

@[simp] theorem State.writeLog_boot (code source detail : Nat) : (s.writeLog code source detail).boot = s.boot :=
  State.writeLog_frame .boot (by decide)
@[simp] theorem State.writeLog_nv (code source detail : Nat) : (s.writeLog code source detail).nv = s.nv :=
  State.writeLog_frame .nv (by decide)
@[simp] theorem State.writeLog_part (code source detail : Nat) : (s.writeLog code source detail).part = s.part :=
  State.writeLog_frame .part (by decide)
@[simp] theorem State.writeLog_stage (code source detail : Nat) : (s.writeLog code source detail).stage = s.stage :=
  State.writeLog_frame .stage (by decide)
@[simp] theorem State.writeLog_tb (code source detail : Nat) : (s.writeLog code source detail).tb = s.tb :=
  State.writeLog_frame .tb (by decide)
@[simp] theorem State.writeLog_cap (code source detail : Nat) : (s.writeLog code source detail).cap = s.cap :=
  State.writeLog_frame .cap (by decide)
@[simp] theorem State.writeLog_pwr (code source detail : Nat) : (s.writeLog code source detail).pwr = s.pwr :=
  State.writeLog_frame .pwr (by decide)
@[simp] theorem State.writeLog_mem (code source detail : Nat) : (s.writeLog code source detail).mem = s.mem :=
  State.writeLog_frame .mem (by decide)
@[simp] theorem State.writeLog_dram (code source detail : Nat) : (s.writeLog code source detail).dram = s.dram :=
  State.writeLog_frame .dram (by decide)
@[simp] theorem State.writeLog_rmk (code source detail : Nat) : (s.writeLog code source detail).rmk = s.rmk :=
  State.writeLog_frame .rmk (by decide)
@[simp] theorem State.writeLog_sessions (code source detail : Nat) : (s.writeLog code source detail).sessions = s.sessions :=
  State.writeLog_frame .sessions (by decide)
@[simp] theorem State.writeLog_models (code source detail : Nat) : (s.writeLog code source detail).models = s.models :=
  State.writeLog_frame .models (by decide)
@[simp] theorem State.writeLog_nextHandle (code source detail : Nat) : (s.writeLog code source detail).nextHandle = s.nextHandle :=
  State.writeLog_frame .nextHandle (by decide)
@[simp] theorem State.writeLog_streams (code source detail : Nat) : (s.writeLog code source detail).streams = s.streams :=
  State.writeLog_frame .streams (by decide)
@[simp] theorem State.writeLog_jobs (code source detail : Nat) : (s.writeLog code source detail).jobs = s.jobs :=
  State.writeLog_frame .jobs (by decide)
@[simp] theorem State.writeLog_hatch (code source detail : Nat) : (s.writeLog code source detail).hatch = s.hatch :=
  State.writeLog_frame .hatch (by decide)
@[simp] theorem State.writeLog_burin (code source detail : Nat) : (s.writeLog code source detail).burin = s.burin :=
  State.writeLog_frame .burin (by decide)
@[simp] theorem State.writeLog_lines (code source detail : Nat) : (s.writeLog code source detail).lines = s.lines :=
  State.writeLog_frame .lines (by decide)
@[simp] theorem State.writeLog_ihx (code source detail : Nat) : (s.writeLog code source detail).ihx = s.ihx :=
  State.writeLog_frame .ihx (by decide)
@[simp] theorem State.writeLog_proof (code source detail : Nat) : (s.writeLog code source detail).proof = s.proof :=
  State.writeLog_frame .proof (by decide)
@[simp] theorem State.writeLog_mbx (code source detail : Nat) : (s.writeLog code source detail).mbx = s.mbx :=
  State.writeLog_frame .mbx (by decide)
@[simp] theorem State.writeLog_alm (code source detail : Nat) : (s.writeLog code source detail).alm = s.alm :=
  State.writeLog_frame .alm (by decide)
@[simp] theorem State.writeLog_fault (code source detail : Nat) : (s.writeLog code source detail).fault = s.fault :=
  State.writeLog_frame .fault (by decide)
@[simp] theorem State.writeLog_acct (code source detail : Nat) : (s.writeLog code source detail).acct = s.acct :=
  State.writeLog_frame .acct (by decide)
@[simp] theorem State.writeLog_rebind (code source detail : Nat) : (s.writeLog code source detail).rebind = s.rebind :=
  State.writeLog_frame .rebind (by decide)
@[simp] theorem State.writeLog_tallies (code source detail : Nat) : (s.writeLog code source detail).tallies = s.tallies :=
  State.writeLog_frame .tallies (by decide)
@[simp] theorem State.writeLog_mseqOut (code source detail : Nat) : (s.writeLog code source detail).mseqOut = s.mseqOut :=
  State.writeLog_frame .mseqOut (by decide)
@[simp] theorem State.writeLog_almSent (code source detail : Nat) : (s.writeLog code source detail).almSent = s.almSent :=
  State.writeLog_frame .almSent (by decide)
@[simp] theorem State.writeLog_free (code source detail : Nat) : (s.writeLog code source detail).free = s.free :=
  State.writeLog_frame .free (by decide)
@[simp] theorem State.writeLog_pending (code source detail : Nat) : (s.writeLog code source detail).pending = s.pending :=
  State.writeLog_frame .pending (by decide)

/-! ### State.writeTrace: the blocks it leaves alone -/

@[simp] theorem State.writeTrace_boot (code source detail : Nat) : (s.writeTrace code source detail).boot = s.boot :=
  State.writeTrace_frame .boot (by decide)
@[simp] theorem State.writeTrace_nv (code source detail : Nat) : (s.writeTrace code source detail).nv = s.nv :=
  State.writeTrace_frame .nv (by decide)
@[simp] theorem State.writeTrace_part (code source detail : Nat) : (s.writeTrace code source detail).part = s.part :=
  State.writeTrace_frame .part (by decide)
@[simp] theorem State.writeTrace_stage (code source detail : Nat) : (s.writeTrace code source detail).stage = s.stage :=
  State.writeTrace_frame .stage (by decide)
@[simp] theorem State.writeTrace_tb (code source detail : Nat) : (s.writeTrace code source detail).tb = s.tb :=
  State.writeTrace_frame .tb (by decide)
@[simp] theorem State.writeTrace_cap (code source detail : Nat) : (s.writeTrace code source detail).cap = s.cap :=
  State.writeTrace_frame .cap (by decide)
@[simp] theorem State.writeTrace_pwr (code source detail : Nat) : (s.writeTrace code source detail).pwr = s.pwr :=
  State.writeTrace_frame .pwr (by decide)
@[simp] theorem State.writeTrace_mem (code source detail : Nat) : (s.writeTrace code source detail).mem = s.mem :=
  State.writeTrace_frame .mem (by decide)
@[simp] theorem State.writeTrace_dram (code source detail : Nat) : (s.writeTrace code source detail).dram = s.dram :=
  State.writeTrace_frame .dram (by decide)
@[simp] theorem State.writeTrace_rmk (code source detail : Nat) : (s.writeTrace code source detail).rmk = s.rmk :=
  State.writeTrace_frame .rmk (by decide)
@[simp] theorem State.writeTrace_sessions (code source detail : Nat) : (s.writeTrace code source detail).sessions = s.sessions :=
  State.writeTrace_frame .sessions (by decide)
@[simp] theorem State.writeTrace_models (code source detail : Nat) : (s.writeTrace code source detail).models = s.models :=
  State.writeTrace_frame .models (by decide)
@[simp] theorem State.writeTrace_nextHandle (code source detail : Nat) : (s.writeTrace code source detail).nextHandle = s.nextHandle :=
  State.writeTrace_frame .nextHandle (by decide)
@[simp] theorem State.writeTrace_streams (code source detail : Nat) : (s.writeTrace code source detail).streams = s.streams :=
  State.writeTrace_frame .streams (by decide)
@[simp] theorem State.writeTrace_jobs (code source detail : Nat) : (s.writeTrace code source detail).jobs = s.jobs :=
  State.writeTrace_frame .jobs (by decide)
@[simp] theorem State.writeTrace_hatch (code source detail : Nat) : (s.writeTrace code source detail).hatch = s.hatch :=
  State.writeTrace_frame .hatch (by decide)
@[simp] theorem State.writeTrace_burin (code source detail : Nat) : (s.writeTrace code source detail).burin = s.burin :=
  State.writeTrace_frame .burin (by decide)
@[simp] theorem State.writeTrace_lines (code source detail : Nat) : (s.writeTrace code source detail).lines = s.lines :=
  State.writeTrace_frame .lines (by decide)
@[simp] theorem State.writeTrace_ihx (code source detail : Nat) : (s.writeTrace code source detail).ihx = s.ihx :=
  State.writeTrace_frame .ihx (by decide)
@[simp] theorem State.writeTrace_proof (code source detail : Nat) : (s.writeTrace code source detail).proof = s.proof :=
  State.writeTrace_frame .proof (by decide)
@[simp] theorem State.writeTrace_mbx (code source detail : Nat) : (s.writeTrace code source detail).mbx = s.mbx :=
  State.writeTrace_frame .mbx (by decide)
@[simp] theorem State.writeTrace_alm (code source detail : Nat) : (s.writeTrace code source detail).alm = s.alm :=
  State.writeTrace_frame .alm (by decide)
@[simp] theorem State.writeTrace_fault (code source detail : Nat) : (s.writeTrace code source detail).fault = s.fault :=
  State.writeTrace_frame .fault (by decide)
@[simp] theorem State.writeTrace_acct (code source detail : Nat) : (s.writeTrace code source detail).acct = s.acct :=
  State.writeTrace_frame .acct (by decide)
@[simp] theorem State.writeTrace_rebind (code source detail : Nat) : (s.writeTrace code source detail).rebind = s.rebind :=
  State.writeTrace_frame .rebind (by decide)
@[simp] theorem State.writeTrace_tallies (code source detail : Nat) : (s.writeTrace code source detail).tallies = s.tallies :=
  State.writeTrace_frame .tallies (by decide)
@[simp] theorem State.writeTrace_mseqOut (code source detail : Nat) : (s.writeTrace code source detail).mseqOut = s.mseqOut :=
  State.writeTrace_frame .mseqOut (by decide)
@[simp] theorem State.writeTrace_almSent (code source detail : Nat) : (s.writeTrace code source detail).almSent = s.almSent :=
  State.writeTrace_frame .almSent (by decide)
@[simp] theorem State.writeTrace_free (code source detail : Nat) : (s.writeTrace code source detail).free = s.free :=
  State.writeTrace_frame .free (by decide)
@[simp] theorem State.writeTrace_pending (code source detail : Nat) : (s.writeTrace code source detail).pending = s.pending :=
  State.writeTrace_frame .pending (by decide)

/-! ### State.mirror: the blocks it leaves alone -/

@[simp] theorem State.mirror_boot (n : Nat) : (s.mirror n).boot = s.boot :=
  State.mirror_frame .boot (by decide)
@[simp] theorem State.mirror_nv (n : Nat) : (s.mirror n).nv = s.nv :=
  State.mirror_frame .nv (by decide)
@[simp] theorem State.mirror_part (n : Nat) : (s.mirror n).part = s.part :=
  State.mirror_frame .part (by decide)
@[simp] theorem State.mirror_stage (n : Nat) : (s.mirror n).stage = s.stage :=
  State.mirror_frame .stage (by decide)
@[simp] theorem State.mirror_tb (n : Nat) : (s.mirror n).tb = s.tb :=
  State.mirror_frame .tb (by decide)
@[simp] theorem State.mirror_cap (n : Nat) : (s.mirror n).cap = s.cap :=
  State.mirror_frame .cap (by decide)
@[simp] theorem State.mirror_pwr (n : Nat) : (s.mirror n).pwr = s.pwr :=
  State.mirror_frame .pwr (by decide)
@[simp] theorem State.mirror_mem (n : Nat) : (s.mirror n).mem = s.mem :=
  State.mirror_frame .mem (by decide)
@[simp] theorem State.mirror_dram (n : Nat) : (s.mirror n).dram = s.dram :=
  State.mirror_frame .dram (by decide)
@[simp] theorem State.mirror_rmk (n : Nat) : (s.mirror n).rmk = s.rmk :=
  State.mirror_frame .rmk (by decide)
@[simp] theorem State.mirror_sessions (n : Nat) : (s.mirror n).sessions = s.sessions :=
  State.mirror_frame .sessions (by decide)
@[simp] theorem State.mirror_models (n : Nat) : (s.mirror n).models = s.models :=
  State.mirror_frame .models (by decide)
@[simp] theorem State.mirror_nextHandle (n : Nat) : (s.mirror n).nextHandle = s.nextHandle :=
  State.mirror_frame .nextHandle (by decide)
@[simp] theorem State.mirror_streams (n : Nat) : (s.mirror n).streams = s.streams :=
  State.mirror_frame .streams (by decide)
@[simp] theorem State.mirror_jobs (n : Nat) : (s.mirror n).jobs = s.jobs :=
  State.mirror_frame .jobs (by decide)
@[simp] theorem State.mirror_hatch (n : Nat) : (s.mirror n).hatch = s.hatch :=
  State.mirror_frame .hatch (by decide)
@[simp] theorem State.mirror_burin (n : Nat) : (s.mirror n).burin = s.burin :=
  State.mirror_frame .burin (by decide)
@[simp] theorem State.mirror_lines (n : Nat) : (s.mirror n).lines = s.lines :=
  State.mirror_frame .lines (by decide)
@[simp] theorem State.mirror_ihx (n : Nat) : (s.mirror n).ihx = s.ihx :=
  State.mirror_frame .ihx (by decide)
@[simp] theorem State.mirror_proof (n : Nat) : (s.mirror n).proof = s.proof :=
  State.mirror_frame .proof (by decide)
@[simp] theorem State.mirror_mbx (n : Nat) : (s.mirror n).mbx = s.mbx :=
  State.mirror_frame .mbx (by decide)
@[simp] theorem State.mirror_alm (n : Nat) : (s.mirror n).alm = s.alm :=
  State.mirror_frame .alm (by decide)
@[simp] theorem State.mirror_evt (n : Nat) : (s.mirror n).evt = s.evt :=
  State.mirror_frame .evt (by decide)
@[simp] theorem State.mirror_fault (n : Nat) : (s.mirror n).fault = s.fault :=
  State.mirror_frame .fault (by decide)
@[simp] theorem State.mirror_acct (n : Nat) : (s.mirror n).acct = s.acct :=
  State.mirror_frame .acct (by decide)
@[simp] theorem State.mirror_rebind (n : Nat) : (s.mirror n).rebind = s.rebind :=
  State.mirror_frame .rebind (by decide)
@[simp] theorem State.mirror_tallies (n : Nat) : (s.mirror n).tallies = s.tallies :=
  State.mirror_frame .tallies (by decide)
@[simp] theorem State.mirror_mseqOut (n : Nat) : (s.mirror n).mseqOut = s.mseqOut :=
  State.mirror_frame .mseqOut (by decide)
@[simp] theorem State.mirror_almSent (n : Nat) : (s.mirror n).almSent = s.almSent :=
  State.mirror_frame .almSent (by decide)
@[simp] theorem State.mirror_free (n : Nat) : (s.mirror n).free = s.free :=
  State.mirror_frame .free (by decide)
@[simp] theorem State.mirror_pending (n : Nat) : (s.mirror n).pending = s.pending :=
  State.mirror_frame .pending (by decide)

/-! ### State.hold: the blocks it leaves alone -/

@[simp] theorem State.hold_boot (n : Nat) (rec : CqRecord) : (s.hold n rec).boot = s.boot :=
  State.hold_frame .boot (by decide)
@[simp] theorem State.hold_nv (n : Nat) (rec : CqRecord) : (s.hold n rec).nv = s.nv :=
  State.hold_frame .nv (by decide)
@[simp] theorem State.hold_part (n : Nat) (rec : CqRecord) : (s.hold n rec).part = s.part :=
  State.hold_frame .part (by decide)
@[simp] theorem State.hold_stage (n : Nat) (rec : CqRecord) : (s.hold n rec).stage = s.stage :=
  State.hold_frame .stage (by decide)
@[simp] theorem State.hold_tb (n : Nat) (rec : CqRecord) : (s.hold n rec).tb = s.tb :=
  State.hold_frame .tb (by decide)
@[simp] theorem State.hold_cap (n : Nat) (rec : CqRecord) : (s.hold n rec).cap = s.cap :=
  State.hold_frame .cap (by decide)
@[simp] theorem State.hold_pwr (n : Nat) (rec : CqRecord) : (s.hold n rec).pwr = s.pwr :=
  State.hold_frame .pwr (by decide)
@[simp] theorem State.hold_mem (n : Nat) (rec : CqRecord) : (s.hold n rec).mem = s.mem :=
  State.hold_frame .mem (by decide)
@[simp] theorem State.hold_dram (n : Nat) (rec : CqRecord) : (s.hold n rec).dram = s.dram :=
  State.hold_frame .dram (by decide)
@[simp] theorem State.hold_sessions (n : Nat) (rec : CqRecord) : (s.hold n rec).sessions = s.sessions :=
  State.hold_frame .sessions (by decide)
@[simp] theorem State.hold_models (n : Nat) (rec : CqRecord) : (s.hold n rec).models = s.models :=
  State.hold_frame .models (by decide)
@[simp] theorem State.hold_nextHandle (n : Nat) (rec : CqRecord) : (s.hold n rec).nextHandle = s.nextHandle :=
  State.hold_frame .nextHandle (by decide)
@[simp] theorem State.hold_streams (n : Nat) (rec : CqRecord) : (s.hold n rec).streams = s.streams :=
  State.hold_frame .streams (by decide)
@[simp] theorem State.hold_jobs (n : Nat) (rec : CqRecord) : (s.hold n rec).jobs = s.jobs :=
  State.hold_frame .jobs (by decide)
@[simp] theorem State.hold_hatch (n : Nat) (rec : CqRecord) : (s.hold n rec).hatch = s.hatch :=
  State.hold_frame .hatch (by decide)
@[simp] theorem State.hold_burin (n : Nat) (rec : CqRecord) : (s.hold n rec).burin = s.burin :=
  State.hold_frame .burin (by decide)
@[simp] theorem State.hold_lines (n : Nat) (rec : CqRecord) : (s.hold n rec).lines = s.lines :=
  State.hold_frame .lines (by decide)
@[simp] theorem State.hold_ihx (n : Nat) (rec : CqRecord) : (s.hold n rec).ihx = s.ihx :=
  State.hold_frame .ihx (by decide)
@[simp] theorem State.hold_proof (n : Nat) (rec : CqRecord) : (s.hold n rec).proof = s.proof :=
  State.hold_frame .proof (by decide)
@[simp] theorem State.hold_mbx (n : Nat) (rec : CqRecord) : (s.hold n rec).mbx = s.mbx :=
  State.hold_frame .mbx (by decide)
@[simp] theorem State.hold_alm (n : Nat) (rec : CqRecord) : (s.hold n rec).alm = s.alm :=
  State.hold_frame .alm (by decide)
@[simp] theorem State.hold_evt (n : Nat) (rec : CqRecord) : (s.hold n rec).evt = s.evt :=
  State.hold_frame .evt (by decide)
@[simp] theorem State.hold_fault (n : Nat) (rec : CqRecord) : (s.hold n rec).fault = s.fault :=
  State.hold_frame .fault (by decide)
@[simp] theorem State.hold_cnt (n : Nat) (rec : CqRecord) : (s.hold n rec).cnt = s.cnt :=
  State.hold_frame .cnt (by decide)
@[simp] theorem State.hold_acct (n : Nat) (rec : CqRecord) : (s.hold n rec).acct = s.acct :=
  State.hold_frame .acct (by decide)
@[simp] theorem State.hold_rebind (n : Nat) (rec : CqRecord) : (s.hold n rec).rebind = s.rebind :=
  State.hold_frame .rebind (by decide)
@[simp] theorem State.hold_tallies (n : Nat) (rec : CqRecord) : (s.hold n rec).tallies = s.tallies :=
  State.hold_frame .tallies (by decide)
@[simp] theorem State.hold_mseqOut (n : Nat) (rec : CqRecord) : (s.hold n rec).mseqOut = s.mseqOut :=
  State.hold_frame .mseqOut (by decide)
@[simp] theorem State.hold_almSent (n : Nat) (rec : CqRecord) : (s.hold n rec).almSent = s.almSent :=
  State.hold_frame .almSent (by decide)
@[simp] theorem State.hold_host (n : Nat) (rec : CqRecord) : (s.hold n rec).host = s.host :=
  State.hold_frame .host (by decide)
@[simp] theorem State.hold_free (n : Nat) (rec : CqRecord) : (s.hold n rec).free = s.free :=
  State.hold_frame .free (by decide)
@[simp] theorem State.hold_pending (n : Nat) (rec : CqRecord) : (s.hold n rec).pending = s.pending :=
  State.hold_frame .pending (by decide)

/-! ### State.modDesc: the blocks it leaves alone -/

@[simp] theorem State.modDesc_boot (n seq : Nat) (f : Desc → Desc) : (s.modDesc n seq f).boot = s.boot :=
  State.modDesc_frame .boot (by decide)
@[simp] theorem State.modDesc_nv (n seq : Nat) (f : Desc → Desc) : (s.modDesc n seq f).nv = s.nv :=
  State.modDesc_frame .nv (by decide)
@[simp] theorem State.modDesc_part (n seq : Nat) (f : Desc → Desc) : (s.modDesc n seq f).part = s.part :=
  State.modDesc_frame .part (by decide)
@[simp] theorem State.modDesc_stage (n seq : Nat) (f : Desc → Desc) : (s.modDesc n seq f).stage = s.stage :=
  State.modDesc_frame .stage (by decide)
@[simp] theorem State.modDesc_tb (n seq : Nat) (f : Desc → Desc) : (s.modDesc n seq f).tb = s.tb :=
  State.modDesc_frame .tb (by decide)
@[simp] theorem State.modDesc_cap (n seq : Nat) (f : Desc → Desc) : (s.modDesc n seq f).cap = s.cap :=
  State.modDesc_frame .cap (by decide)
@[simp] theorem State.modDesc_pwr (n seq : Nat) (f : Desc → Desc) : (s.modDesc n seq f).pwr = s.pwr :=
  State.modDesc_frame .pwr (by decide)
@[simp] theorem State.modDesc_mem (n seq : Nat) (f : Desc → Desc) : (s.modDesc n seq f).mem = s.mem :=
  State.modDesc_frame .mem (by decide)
@[simp] theorem State.modDesc_dram (n seq : Nat) (f : Desc → Desc) : (s.modDesc n seq f).dram = s.dram :=
  State.modDesc_frame .dram (by decide)
@[simp] theorem State.modDesc_sessions (n seq : Nat) (f : Desc → Desc) : (s.modDesc n seq f).sessions = s.sessions :=
  State.modDesc_frame .sessions (by decide)
@[simp] theorem State.modDesc_models (n seq : Nat) (f : Desc → Desc) : (s.modDesc n seq f).models = s.models :=
  State.modDesc_frame .models (by decide)
@[simp] theorem State.modDesc_nextHandle (n seq : Nat) (f : Desc → Desc) : (s.modDesc n seq f).nextHandle = s.nextHandle :=
  State.modDesc_frame .nextHandle (by decide)
@[simp] theorem State.modDesc_streams (n seq : Nat) (f : Desc → Desc) : (s.modDesc n seq f).streams = s.streams :=
  State.modDesc_frame .streams (by decide)
@[simp] theorem State.modDesc_jobs (n seq : Nat) (f : Desc → Desc) : (s.modDesc n seq f).jobs = s.jobs :=
  State.modDesc_frame .jobs (by decide)
@[simp] theorem State.modDesc_hatch (n seq : Nat) (f : Desc → Desc) : (s.modDesc n seq f).hatch = s.hatch :=
  State.modDesc_frame .hatch (by decide)
@[simp] theorem State.modDesc_burin (n seq : Nat) (f : Desc → Desc) : (s.modDesc n seq f).burin = s.burin :=
  State.modDesc_frame .burin (by decide)
@[simp] theorem State.modDesc_lines (n seq : Nat) (f : Desc → Desc) : (s.modDesc n seq f).lines = s.lines :=
  State.modDesc_frame .lines (by decide)
@[simp] theorem State.modDesc_ihx (n seq : Nat) (f : Desc → Desc) : (s.modDesc n seq f).ihx = s.ihx :=
  State.modDesc_frame .ihx (by decide)
@[simp] theorem State.modDesc_proof (n seq : Nat) (f : Desc → Desc) : (s.modDesc n seq f).proof = s.proof :=
  State.modDesc_frame .proof (by decide)
@[simp] theorem State.modDesc_mbx (n seq : Nat) (f : Desc → Desc) : (s.modDesc n seq f).mbx = s.mbx :=
  State.modDesc_frame .mbx (by decide)
@[simp] theorem State.modDesc_alm (n seq : Nat) (f : Desc → Desc) : (s.modDesc n seq f).alm = s.alm :=
  State.modDesc_frame .alm (by decide)
@[simp] theorem State.modDesc_evt (n seq : Nat) (f : Desc → Desc) : (s.modDesc n seq f).evt = s.evt :=
  State.modDesc_frame .evt (by decide)
@[simp] theorem State.modDesc_fault (n seq : Nat) (f : Desc → Desc) : (s.modDesc n seq f).fault = s.fault :=
  State.modDesc_frame .fault (by decide)
@[simp] theorem State.modDesc_cnt (n seq : Nat) (f : Desc → Desc) : (s.modDesc n seq f).cnt = s.cnt :=
  State.modDesc_frame .cnt (by decide)
@[simp] theorem State.modDesc_acct (n seq : Nat) (f : Desc → Desc) : (s.modDesc n seq f).acct = s.acct :=
  State.modDesc_frame .acct (by decide)
@[simp] theorem State.modDesc_rebind (n seq : Nat) (f : Desc → Desc) : (s.modDesc n seq f).rebind = s.rebind :=
  State.modDesc_frame .rebind (by decide)
@[simp] theorem State.modDesc_tallies (n seq : Nat) (f : Desc → Desc) : (s.modDesc n seq f).tallies = s.tallies :=
  State.modDesc_frame .tallies (by decide)
@[simp] theorem State.modDesc_mseqOut (n seq : Nat) (f : Desc → Desc) : (s.modDesc n seq f).mseqOut = s.mseqOut :=
  State.modDesc_frame .mseqOut (by decide)
@[simp] theorem State.modDesc_almSent (n seq : Nat) (f : Desc → Desc) : (s.modDesc n seq f).almSent = s.almSent :=
  State.modDesc_frame .almSent (by decide)
@[simp] theorem State.modDesc_host (n seq : Nat) (f : Desc → Desc) : (s.modDesc n seq f).host = s.host :=
  State.modDesc_frame .host (by decide)
@[simp] theorem State.modDesc_free (n seq : Nat) (f : Desc → Desc) : (s.modDesc n seq f).free = s.free :=
  State.modDesc_frame .free (by decide)
@[simp] theorem State.modDesc_pending (n seq : Nat) (f : Desc → Desc) : (s.modDesc n seq f).pending = s.pending :=
  State.modDesc_frame .pending (by decide)

/-! ### State.complete: the blocks it leaves alone -/

@[simp] theorem State.complete_boot (n : Nat) (d : Desc) (x : Done) : (s.complete n d x).boot = s.boot :=
  State.complete_frame .boot (by decide)
@[simp] theorem State.complete_nv (n : Nat) (d : Desc) (x : Done) : (s.complete n d x).nv = s.nv :=
  State.complete_frame .nv (by decide)
@[simp] theorem State.complete_part (n : Nat) (d : Desc) (x : Done) : (s.complete n d x).part = s.part :=
  State.complete_frame .part (by decide)
@[simp] theorem State.complete_stage (n : Nat) (d : Desc) (x : Done) : (s.complete n d x).stage = s.stage :=
  State.complete_frame .stage (by decide)
@[simp] theorem State.complete_tb (n : Nat) (d : Desc) (x : Done) : (s.complete n d x).tb = s.tb :=
  State.complete_frame .tb (by decide)
@[simp] theorem State.complete_cap (n : Nat) (d : Desc) (x : Done) : (s.complete n d x).cap = s.cap :=
  State.complete_frame .cap (by decide)
@[simp] theorem State.complete_pwr (n : Nat) (d : Desc) (x : Done) : (s.complete n d x).pwr = s.pwr :=
  State.complete_frame .pwr (by decide)
@[simp] theorem State.complete_mem (n : Nat) (d : Desc) (x : Done) : (s.complete n d x).mem = s.mem :=
  State.complete_frame .mem (by decide)
@[simp] theorem State.complete_dram (n : Nat) (d : Desc) (x : Done) : (s.complete n d x).dram = s.dram :=
  State.complete_frame .dram (by decide)
@[simp] theorem State.complete_sessions (n : Nat) (d : Desc) (x : Done) : (s.complete n d x).sessions = s.sessions :=
  State.complete_frame .sessions (by decide)
@[simp] theorem State.complete_models (n : Nat) (d : Desc) (x : Done) : (s.complete n d x).models = s.models :=
  State.complete_frame .models (by decide)
@[simp] theorem State.complete_nextHandle (n : Nat) (d : Desc) (x : Done) : (s.complete n d x).nextHandle = s.nextHandle :=
  State.complete_frame .nextHandle (by decide)
@[simp] theorem State.complete_streams (n : Nat) (d : Desc) (x : Done) : (s.complete n d x).streams = s.streams :=
  State.complete_frame .streams (by decide)
@[simp] theorem State.complete_jobs (n : Nat) (d : Desc) (x : Done) : (s.complete n d x).jobs = s.jobs :=
  State.complete_frame .jobs (by decide)
@[simp] theorem State.complete_hatch (n : Nat) (d : Desc) (x : Done) : (s.complete n d x).hatch = s.hatch :=
  State.complete_frame .hatch (by decide)
@[simp] theorem State.complete_burin (n : Nat) (d : Desc) (x : Done) : (s.complete n d x).burin = s.burin :=
  State.complete_frame .burin (by decide)
@[simp] theorem State.complete_lines (n : Nat) (d : Desc) (x : Done) : (s.complete n d x).lines = s.lines :=
  State.complete_frame .lines (by decide)
@[simp] theorem State.complete_ihx (n : Nat) (d : Desc) (x : Done) : (s.complete n d x).ihx = s.ihx :=
  State.complete_frame .ihx (by decide)
@[simp] theorem State.complete_proof (n : Nat) (d : Desc) (x : Done) : (s.complete n d x).proof = s.proof :=
  State.complete_frame .proof (by decide)
@[simp] theorem State.complete_mbx (n : Nat) (d : Desc) (x : Done) : (s.complete n d x).mbx = s.mbx :=
  State.complete_frame .mbx (by decide)
@[simp] theorem State.complete_alm (n : Nat) (d : Desc) (x : Done) : (s.complete n d x).alm = s.alm :=
  State.complete_frame .alm (by decide)
@[simp] theorem State.complete_evt (n : Nat) (d : Desc) (x : Done) : (s.complete n d x).evt = s.evt :=
  State.complete_frame .evt (by decide)
@[simp] theorem State.complete_fault (n : Nat) (d : Desc) (x : Done) : (s.complete n d x).fault = s.fault :=
  State.complete_frame .fault (by decide)
@[simp] theorem State.complete_cnt (n : Nat) (d : Desc) (x : Done) : (s.complete n d x).cnt = s.cnt :=
  State.complete_frame .cnt (by decide)
@[simp] theorem State.complete_acct (n : Nat) (d : Desc) (x : Done) : (s.complete n d x).acct = s.acct :=
  State.complete_frame .acct (by decide)
@[simp] theorem State.complete_rebind (n : Nat) (d : Desc) (x : Done) : (s.complete n d x).rebind = s.rebind :=
  State.complete_frame .rebind (by decide)
@[simp] theorem State.complete_tallies (n : Nat) (d : Desc) (x : Done) : (s.complete n d x).tallies = s.tallies :=
  State.complete_frame .tallies (by decide)
@[simp] theorem State.complete_mseqOut (n : Nat) (d : Desc) (x : Done) : (s.complete n d x).mseqOut = s.mseqOut :=
  State.complete_frame .mseqOut (by decide)
@[simp] theorem State.complete_almSent (n : Nat) (d : Desc) (x : Done) : (s.complete n d x).almSent = s.almSent :=
  State.complete_frame .almSent (by decide)
@[simp] theorem State.complete_host (n : Nat) (d : Desc) (x : Done) : (s.complete n d x).host = s.host :=
  State.complete_frame .host (by decide)
@[simp] theorem State.complete_free (n : Nat) (d : Desc) (x : Done) : (s.complete n d x).free = s.free :=
  State.complete_frame .free (by decide)
@[simp] theorem State.complete_pending (n : Nat) (d : Desc) (x : Done) : (s.complete n d x).pending = s.pending :=
  State.complete_frame .pending (by decide)

/-! ### State.tally: the blocks it leaves alone -/

@[simp] theorem State.tally_boot (sess : Nat) (a b : List Nat) : (s.tally sess a b).boot = s.boot :=
  State.tally_frame .boot (by decide)
@[simp] theorem State.tally_nv (sess : Nat) (a b : List Nat) : (s.tally sess a b).nv = s.nv :=
  State.tally_frame .nv (by decide)
@[simp] theorem State.tally_part (sess : Nat) (a b : List Nat) : (s.tally sess a b).part = s.part :=
  State.tally_frame .part (by decide)
@[simp] theorem State.tally_stage (sess : Nat) (a b : List Nat) : (s.tally sess a b).stage = s.stage :=
  State.tally_frame .stage (by decide)
@[simp] theorem State.tally_tb (sess : Nat) (a b : List Nat) : (s.tally sess a b).tb = s.tb :=
  State.tally_frame .tb (by decide)
@[simp] theorem State.tally_cap (sess : Nat) (a b : List Nat) : (s.tally sess a b).cap = s.cap :=
  State.tally_frame .cap (by decide)
@[simp] theorem State.tally_pwr (sess : Nat) (a b : List Nat) : (s.tally sess a b).pwr = s.pwr :=
  State.tally_frame .pwr (by decide)
@[simp] theorem State.tally_mem (sess : Nat) (a b : List Nat) : (s.tally sess a b).mem = s.mem :=
  State.tally_frame .mem (by decide)
@[simp] theorem State.tally_dram (sess : Nat) (a b : List Nat) : (s.tally sess a b).dram = s.dram :=
  State.tally_frame .dram (by decide)
@[simp] theorem State.tally_rmk (sess : Nat) (a b : List Nat) : (s.tally sess a b).rmk = s.rmk :=
  State.tally_frame .rmk (by decide)
@[simp] theorem State.tally_sessions (sess : Nat) (a b : List Nat) : (s.tally sess a b).sessions = s.sessions :=
  State.tally_frame .sessions (by decide)
@[simp] theorem State.tally_models (sess : Nat) (a b : List Nat) : (s.tally sess a b).models = s.models :=
  State.tally_frame .models (by decide)
@[simp] theorem State.tally_nextHandle (sess : Nat) (a b : List Nat) : (s.tally sess a b).nextHandle = s.nextHandle :=
  State.tally_frame .nextHandle (by decide)
@[simp] theorem State.tally_streams (sess : Nat) (a b : List Nat) : (s.tally sess a b).streams = s.streams :=
  State.tally_frame .streams (by decide)
@[simp] theorem State.tally_jobs (sess : Nat) (a b : List Nat) : (s.tally sess a b).jobs = s.jobs :=
  State.tally_frame .jobs (by decide)
@[simp] theorem State.tally_hatch (sess : Nat) (a b : List Nat) : (s.tally sess a b).hatch = s.hatch :=
  State.tally_frame .hatch (by decide)
@[simp] theorem State.tally_burin (sess : Nat) (a b : List Nat) : (s.tally sess a b).burin = s.burin :=
  State.tally_frame .burin (by decide)
@[simp] theorem State.tally_lines (sess : Nat) (a b : List Nat) : (s.tally sess a b).lines = s.lines :=
  State.tally_frame .lines (by decide)
@[simp] theorem State.tally_ihx (sess : Nat) (a b : List Nat) : (s.tally sess a b).ihx = s.ihx :=
  State.tally_frame .ihx (by decide)
@[simp] theorem State.tally_proof (sess : Nat) (a b : List Nat) : (s.tally sess a b).proof = s.proof :=
  State.tally_frame .proof (by decide)
@[simp] theorem State.tally_mbx (sess : Nat) (a b : List Nat) : (s.tally sess a b).mbx = s.mbx :=
  State.tally_frame .mbx (by decide)
@[simp] theorem State.tally_alm (sess : Nat) (a b : List Nat) : (s.tally sess a b).alm = s.alm :=
  State.tally_frame .alm (by decide)
@[simp] theorem State.tally_evt (sess : Nat) (a b : List Nat) : (s.tally sess a b).evt = s.evt :=
  State.tally_frame .evt (by decide)
@[simp] theorem State.tally_fault (sess : Nat) (a b : List Nat) : (s.tally sess a b).fault = s.fault :=
  State.tally_frame .fault (by decide)
@[simp] theorem State.tally_cnt (sess : Nat) (a b : List Nat) : (s.tally sess a b).cnt = s.cnt :=
  State.tally_frame .cnt (by decide)
@[simp] theorem State.tally_acct (sess : Nat) (a b : List Nat) : (s.tally sess a b).acct = s.acct :=
  State.tally_frame .acct (by decide)
@[simp] theorem State.tally_rebind (sess : Nat) (a b : List Nat) : (s.tally sess a b).rebind = s.rebind :=
  State.tally_frame .rebind (by decide)
@[simp] theorem State.tally_mseqOut (sess : Nat) (a b : List Nat) : (s.tally sess a b).mseqOut = s.mseqOut :=
  State.tally_frame .mseqOut (by decide)
@[simp] theorem State.tally_almSent (sess : Nat) (a b : List Nat) : (s.tally sess a b).almSent = s.almSent :=
  State.tally_frame .almSent (by decide)
@[simp] theorem State.tally_host (sess : Nat) (a b : List Nat) : (s.tally sess a b).host = s.host :=
  State.tally_frame .host (by decide)
@[simp] theorem State.tally_free (sess : Nat) (a b : List Nat) : (s.tally sess a b).free = s.free :=
  State.tally_frame .free (by decide)
@[simp] theorem State.tally_pending (sess : Nat) (a b : List Nat) : (s.tally sess a b).pending = s.pending :=
  State.tally_frame .pending (by decide)

/-! ### State.charge: the blocks it leaves alone -/

@[simp] theorem State.charge_boot (sess : Nat) (job : Option Nat) (d : Account) : (s.charge sess job d).boot = s.boot :=
  State.charge_frame .boot (by decide)
@[simp] theorem State.charge_nv (sess : Nat) (job : Option Nat) (d : Account) : (s.charge sess job d).nv = s.nv :=
  State.charge_frame .nv (by decide)
@[simp] theorem State.charge_part (sess : Nat) (job : Option Nat) (d : Account) : (s.charge sess job d).part = s.part :=
  State.charge_frame .part (by decide)
@[simp] theorem State.charge_stage (sess : Nat) (job : Option Nat) (d : Account) : (s.charge sess job d).stage = s.stage :=
  State.charge_frame .stage (by decide)
@[simp] theorem State.charge_tb (sess : Nat) (job : Option Nat) (d : Account) : (s.charge sess job d).tb = s.tb :=
  State.charge_frame .tb (by decide)
@[simp] theorem State.charge_cap (sess : Nat) (job : Option Nat) (d : Account) : (s.charge sess job d).cap = s.cap :=
  State.charge_frame .cap (by decide)
@[simp] theorem State.charge_pwr (sess : Nat) (job : Option Nat) (d : Account) : (s.charge sess job d).pwr = s.pwr :=
  State.charge_frame .pwr (by decide)
@[simp] theorem State.charge_mem (sess : Nat) (job : Option Nat) (d : Account) : (s.charge sess job d).mem = s.mem :=
  State.charge_frame .mem (by decide)
@[simp] theorem State.charge_dram (sess : Nat) (job : Option Nat) (d : Account) : (s.charge sess job d).dram = s.dram :=
  State.charge_frame .dram (by decide)
@[simp] theorem State.charge_rmk (sess : Nat) (job : Option Nat) (d : Account) : (s.charge sess job d).rmk = s.rmk :=
  State.charge_frame .rmk (by decide)
@[simp] theorem State.charge_models (sess : Nat) (job : Option Nat) (d : Account) : (s.charge sess job d).models = s.models :=
  State.charge_frame .models (by decide)
@[simp] theorem State.charge_nextHandle (sess : Nat) (job : Option Nat) (d : Account) : (s.charge sess job d).nextHandle = s.nextHandle :=
  State.charge_frame .nextHandle (by decide)
@[simp] theorem State.charge_streams (sess : Nat) (job : Option Nat) (d : Account) : (s.charge sess job d).streams = s.streams :=
  State.charge_frame .streams (by decide)
@[simp] theorem State.charge_hatch (sess : Nat) (job : Option Nat) (d : Account) : (s.charge sess job d).hatch = s.hatch :=
  State.charge_frame .hatch (by decide)
@[simp] theorem State.charge_burin (sess : Nat) (job : Option Nat) (d : Account) : (s.charge sess job d).burin = s.burin :=
  State.charge_frame .burin (by decide)
@[simp] theorem State.charge_lines (sess : Nat) (job : Option Nat) (d : Account) : (s.charge sess job d).lines = s.lines :=
  State.charge_frame .lines (by decide)
@[simp] theorem State.charge_ihx (sess : Nat) (job : Option Nat) (d : Account) : (s.charge sess job d).ihx = s.ihx :=
  State.charge_frame .ihx (by decide)
@[simp] theorem State.charge_proof (sess : Nat) (job : Option Nat) (d : Account) : (s.charge sess job d).proof = s.proof :=
  State.charge_frame .proof (by decide)
@[simp] theorem State.charge_mbx (sess : Nat) (job : Option Nat) (d : Account) : (s.charge sess job d).mbx = s.mbx :=
  State.charge_frame .mbx (by decide)
@[simp] theorem State.charge_alm (sess : Nat) (job : Option Nat) (d : Account) : (s.charge sess job d).alm = s.alm :=
  State.charge_frame .alm (by decide)
@[simp] theorem State.charge_evt (sess : Nat) (job : Option Nat) (d : Account) : (s.charge sess job d).evt = s.evt :=
  State.charge_frame .evt (by decide)
@[simp] theorem State.charge_fault (sess : Nat) (job : Option Nat) (d : Account) : (s.charge sess job d).fault = s.fault :=
  State.charge_frame .fault (by decide)
@[simp] theorem State.charge_cnt (sess : Nat) (job : Option Nat) (d : Account) : (s.charge sess job d).cnt = s.cnt :=
  State.charge_frame .cnt (by decide)
@[simp] theorem State.charge_acct (sess : Nat) (job : Option Nat) (d : Account) : (s.charge sess job d).acct = s.acct :=
  State.charge_frame .acct (by decide)
@[simp] theorem State.charge_rebind (sess : Nat) (job : Option Nat) (d : Account) : (s.charge sess job d).rebind = s.rebind :=
  State.charge_frame .rebind (by decide)
@[simp] theorem State.charge_mseqOut (sess : Nat) (job : Option Nat) (d : Account) : (s.charge sess job d).mseqOut = s.mseqOut :=
  State.charge_frame .mseqOut (by decide)
@[simp] theorem State.charge_almSent (sess : Nat) (job : Option Nat) (d : Account) : (s.charge sess job d).almSent = s.almSent :=
  State.charge_frame .almSent (by decide)
@[simp] theorem State.charge_host (sess : Nat) (job : Option Nat) (d : Account) : (s.charge sess job d).host = s.host :=
  State.charge_frame .host (by decide)
@[simp] theorem State.charge_free (sess : Nat) (job : Option Nat) (d : Account) : (s.charge sess job d).free = s.free :=
  State.charge_frame .free (by decide)
@[simp] theorem State.charge_pending (sess : Nat) (job : Option Nat) (d : Account) : (s.charge sess job d).pending = s.pending :=
  State.charge_frame .pending (by decide)

/-! ### State.send: the blocks it leaves alone -/

@[simp] theorem State.send_boot (port kind : Nat) (body : List Nat) (bytes : List Byte) : (s.send port kind body bytes).boot = s.boot :=
  State.send_frame .boot (by decide)
@[simp] theorem State.send_nv (port kind : Nat) (body : List Nat) (bytes : List Byte) : (s.send port kind body bytes).nv = s.nv :=
  State.send_frame .nv (by decide)
@[simp] theorem State.send_part (port kind : Nat) (body : List Nat) (bytes : List Byte) : (s.send port kind body bytes).part = s.part :=
  State.send_frame .part (by decide)
@[simp] theorem State.send_stage (port kind : Nat) (body : List Nat) (bytes : List Byte) : (s.send port kind body bytes).stage = s.stage :=
  State.send_frame .stage (by decide)
@[simp] theorem State.send_tb (port kind : Nat) (body : List Nat) (bytes : List Byte) : (s.send port kind body bytes).tb = s.tb :=
  State.send_frame .tb (by decide)
@[simp] theorem State.send_cap (port kind : Nat) (body : List Nat) (bytes : List Byte) : (s.send port kind body bytes).cap = s.cap :=
  State.send_frame .cap (by decide)
@[simp] theorem State.send_pwr (port kind : Nat) (body : List Nat) (bytes : List Byte) : (s.send port kind body bytes).pwr = s.pwr :=
  State.send_frame .pwr (by decide)
@[simp] theorem State.send_mem (port kind : Nat) (body : List Nat) (bytes : List Byte) : (s.send port kind body bytes).mem = s.mem :=
  State.send_frame .mem (by decide)
@[simp] theorem State.send_dram (port kind : Nat) (body : List Nat) (bytes : List Byte) : (s.send port kind body bytes).dram = s.dram :=
  State.send_frame .dram (by decide)
@[simp] theorem State.send_rmk (port kind : Nat) (body : List Nat) (bytes : List Byte) : (s.send port kind body bytes).rmk = s.rmk :=
  State.send_frame .rmk (by decide)
@[simp] theorem State.send_sessions (port kind : Nat) (body : List Nat) (bytes : List Byte) : (s.send port kind body bytes).sessions = s.sessions :=
  State.send_frame .sessions (by decide)
@[simp] theorem State.send_models (port kind : Nat) (body : List Nat) (bytes : List Byte) : (s.send port kind body bytes).models = s.models :=
  State.send_frame .models (by decide)
@[simp] theorem State.send_nextHandle (port kind : Nat) (body : List Nat) (bytes : List Byte) : (s.send port kind body bytes).nextHandle = s.nextHandle :=
  State.send_frame .nextHandle (by decide)
@[simp] theorem State.send_streams (port kind : Nat) (body : List Nat) (bytes : List Byte) : (s.send port kind body bytes).streams = s.streams :=
  State.send_frame .streams (by decide)
@[simp] theorem State.send_jobs (port kind : Nat) (body : List Nat) (bytes : List Byte) : (s.send port kind body bytes).jobs = s.jobs :=
  State.send_frame .jobs (by decide)
@[simp] theorem State.send_hatch (port kind : Nat) (body : List Nat) (bytes : List Byte) : (s.send port kind body bytes).hatch = s.hatch :=
  State.send_frame .hatch (by decide)
@[simp] theorem State.send_burin (port kind : Nat) (body : List Nat) (bytes : List Byte) : (s.send port kind body bytes).burin = s.burin :=
  State.send_frame .burin (by decide)
@[simp] theorem State.send_lines (port kind : Nat) (body : List Nat) (bytes : List Byte) : (s.send port kind body bytes).lines = s.lines :=
  State.send_frame .lines (by decide)
@[simp] theorem State.send_proof (port kind : Nat) (body : List Nat) (bytes : List Byte) : (s.send port kind body bytes).proof = s.proof :=
  State.send_frame .proof (by decide)
@[simp] theorem State.send_mbx (port kind : Nat) (body : List Nat) (bytes : List Byte) : (s.send port kind body bytes).mbx = s.mbx :=
  State.send_frame .mbx (by decide)
@[simp] theorem State.send_alm (port kind : Nat) (body : List Nat) (bytes : List Byte) : (s.send port kind body bytes).alm = s.alm :=
  State.send_frame .alm (by decide)
@[simp] theorem State.send_evt (port kind : Nat) (body : List Nat) (bytes : List Byte) : (s.send port kind body bytes).evt = s.evt :=
  State.send_frame .evt (by decide)
@[simp] theorem State.send_fault (port kind : Nat) (body : List Nat) (bytes : List Byte) : (s.send port kind body bytes).fault = s.fault :=
  State.send_frame .fault (by decide)
@[simp] theorem State.send_cnt (port kind : Nat) (body : List Nat) (bytes : List Byte) : (s.send port kind body bytes).cnt = s.cnt :=
  State.send_frame .cnt (by decide)
@[simp] theorem State.send_acct (port kind : Nat) (body : List Nat) (bytes : List Byte) : (s.send port kind body bytes).acct = s.acct :=
  State.send_frame .acct (by decide)
@[simp] theorem State.send_rebind (port kind : Nat) (body : List Nat) (bytes : List Byte) : (s.send port kind body bytes).rebind = s.rebind :=
  State.send_frame .rebind (by decide)
@[simp] theorem State.send_tallies (port kind : Nat) (body : List Nat) (bytes : List Byte) : (s.send port kind body bytes).tallies = s.tallies :=
  State.send_frame .tallies (by decide)
@[simp] theorem State.send_mseqOut (port kind : Nat) (body : List Nat) (bytes : List Byte) : (s.send port kind body bytes).mseqOut = s.mseqOut :=
  State.send_frame .mseqOut (by decide)
@[simp] theorem State.send_almSent (port kind : Nat) (body : List Nat) (bytes : List Byte) : (s.send port kind body bytes).almSent = s.almSent :=
  State.send_frame .almSent (by decide)
@[simp] theorem State.send_host (port kind : Nat) (body : List Nat) (bytes : List Byte) : (s.send port kind body bytes).host = s.host :=
  State.send_frame .host (by decide)
@[simp] theorem State.send_free (port kind : Nat) (body : List Nat) (bytes : List Byte) : (s.send port kind body bytes).free = s.free :=
  State.send_frame .free (by decide)
@[simp] theorem State.send_pending (port kind : Nat) (body : List Nat) (bytes : List Byte) : (s.send port kind body bytes).pending = s.pending :=
  State.send_frame .pending (by decide)

/-! ### State.ring behind other operations -/

@[simp] theorem State.ring_setSession (n : Nat) (x : Session) (k : Nat) : (s.setSession n x).ring k = s.ring k := rfl
@[simp] theorem State.ring_setModel (x : Model) (k : Nat) : (s.setModel x).ring k = s.ring k := rfl
@[simp] theorem State.ring_setStream (x : Stream) (k : Nat) : (s.setStream x).ring k = s.ring k := rfl
@[simp] theorem State.ring_setJob (x : Job) (k : Nat) : (s.setJob x).ring k = s.ring k := rfl
@[simp] theorem State.ring_setCore (c : Nat) (x : Core) (k : Nat) : (s.setCore c x).ring k = s.ring k := rfl
@[simp] theorem State.ring_setField (f : Nat) (x : Field) (k : Nat) : (s.setField f x).ring k = s.ring k := rfl
@[simp] theorem State.ring_setLink (l : Nat) (x : MeshLink) (k : Nat) : (s.setLink l x).ring k = s.ring k := rfl
@[simp] theorem State.ring_setUnit (u : Nat) (x : BurinUnit) (k : Nat) : (s.setUnit u x).ring k = s.ring k := rfl
@[simp] theorem State.ring_setDir (n d : Nat) (x : Direction) (k : Nat) : (s.setDir n d x).ring k = s.ring k := rfl
@[simp] theorem State.ring_setGroup (g : Nat) (x : Group) (k : Nat) : (s.setGroup g x).ring k = s.ring k := rfl
@[simp] theorem State.ring_setOsc (n : Nat) (x : Osc) (k : Nat) : (s.setOsc n x).ring k = s.ring k := rfl
@[simp] theorem State.ring_setIhxPort (p : Nat) (x : IhxPort) (k : Nat) : (s.setIhxPort p x).ring k = s.ring k := rfl
@[simp] theorem State.ring_setMailbox (n : Nat) (m : Mailbox) (k : Nat) : (s.setMailbox n m).ring k = s.ring k := rfl
@[simp] theorem State.ring_setChan (c : Nat) (x : Channel) (k : Nat) : (s.setChan c x).ring k = s.ring k := rfl
@[simp] theorem State.ring_setPort (p : Nat) (x : Port) (k : Nat) : (s.setPort p x).ring k = s.ring k := by
  unfold State.ring State.setPort
  split <;> rfl
@[simp] theorem State.ring_setLog (l : LogSource) (k : Nat) : (s.setLog l).ring k = s.ring k := rfl
@[simp] theorem State.ring_bump (code n : Nat) (sc : EvScope) (k : Nat) : (s.bump code n sc).ring k = s.ring k := rfl
@[simp] theorem State.ring_hostWrite (port addr : Nat) (bytes : List Byte) (k : Nat) : (s.hostWrite port addr bytes).ring k = s.ring k := rfl
@[simp] theorem State.ring_sendMsix (vector : Nat) (k : Nat) : (s.sendMsix vector).ring k = s.ring k := rfl
@[simp] theorem State.ring_evtWrite (r : EvtRecord) (k : Nat) : (s.evtWrite r).ring k = s.ring k := by
  simp only [State.ring, State.evtWrite_rmk]
@[simp] theorem State.ring_alarmRecord (r : EvtRecord) (k : Nat) : (s.alarmRecord r).ring k = s.ring k := by
  simp only [State.ring, State.alarmRecord_rmk]
@[simp] theorem State.ring_evtDrain (k : Nat) : s.evtDrain.ring k = s.ring k := by
  simp only [State.ring, State.evtDrain_rmk]
@[simp] theorem State.ring_raiseAlarm (code source detail : Nat) (k : Nat) : (s.raiseAlarm code source detail).ring k = s.ring k := by
  simp only [State.ring, State.raiseAlarm_rmk]
@[simp] theorem State.ring_writeLog (code source detail : Nat) (k : Nat) : (s.writeLog code source detail).ring k = s.ring k := by
  simp only [State.ring, State.writeLog_rmk]
@[simp] theorem State.ring_writeTrace (code source detail : Nat) (k : Nat) : (s.writeTrace code source detail).ring k = s.ring k := by
  simp only [State.ring, State.writeTrace_rmk]
@[simp] theorem State.ring_mirror (n : Nat) (k : Nat) : (s.mirror n).ring k = s.ring k := by
  simp only [State.ring, State.mirror_rmk]
@[simp] theorem State.ring_tally (sess : Nat) (a b : List Nat) (k : Nat) : (s.tally sess a b).ring k = s.ring k := by
  simp only [State.ring, State.tally_rmk]
@[simp] theorem State.ring_charge (sess : Nat) (job : Option Nat) (d : Account) (k : Nat) : (s.charge sess job d).ring k = s.ring k := by
  simp only [State.ring, State.charge_rmk]
@[simp] theorem State.ring_send (port kind : Nat) (body : List Nat) (bytes : List Byte) (k : Nat) : (s.send port kind body bytes).ring k = s.ring k := by
  simp only [State.ring, State.send_rmk]

/-! ### State.port behind other operations -/

@[simp] theorem State.port_setRing (n : Nat) (r : Ring) (k : Nat) : (s.setRing n r).port k = s.port k := rfl
@[simp] theorem State.port_setSession (n : Nat) (x : Session) (k : Nat) : (s.setSession n x).port k = s.port k := rfl
@[simp] theorem State.port_setModel (x : Model) (k : Nat) : (s.setModel x).port k = s.port k := rfl
@[simp] theorem State.port_setStream (x : Stream) (k : Nat) : (s.setStream x).port k = s.port k := rfl
@[simp] theorem State.port_setJob (x : Job) (k : Nat) : (s.setJob x).port k = s.port k := rfl
@[simp] theorem State.port_setCore (c : Nat) (x : Core) (k : Nat) : (s.setCore c x).port k = s.port k := rfl
@[simp] theorem State.port_setField (f : Nat) (x : Field) (k : Nat) : (s.setField f x).port k = s.port k := rfl
@[simp] theorem State.port_setLink (l : Nat) (x : MeshLink) (k : Nat) : (s.setLink l x).port k = s.port k := rfl
@[simp] theorem State.port_setUnit (u : Nat) (x : BurinUnit) (k : Nat) : (s.setUnit u x).port k = s.port k := rfl
@[simp] theorem State.port_setDir (n d : Nat) (x : Direction) (k : Nat) : (s.setDir n d x).port k = s.port k := rfl
@[simp] theorem State.port_setGroup (g : Nat) (x : Group) (k : Nat) : (s.setGroup g x).port k = s.port k := rfl
@[simp] theorem State.port_setOsc (n : Nat) (x : Osc) (k : Nat) : (s.setOsc n x).port k = s.port k := rfl
@[simp] theorem State.port_setIhxPort (p : Nat) (x : IhxPort) (k : Nat) : (s.setIhxPort p x).port k = s.port k := rfl
@[simp] theorem State.port_setMailbox (n : Nat) (m : Mailbox) (k : Nat) : (s.setMailbox n m).port k = s.port k := rfl
@[simp] theorem State.port_setChan (c : Nat) (x : Channel) (k : Nat) : (s.setChan c x).port k = s.port k := rfl
@[simp] theorem State.port_setLog (l : LogSource) (k : Nat) : (s.setLog l).port k = s.port k := rfl
@[simp] theorem State.port_bump (code n : Nat) (sc : EvScope) (k : Nat) : (s.bump code n sc).port k = s.port k := rfl
@[simp] theorem State.port_hostWrite (port addr : Nat) (bytes : List Byte) (k : Nat) : (s.hostWrite port addr bytes).port k = s.port k := rfl
@[simp] theorem State.port_sendMsix (vector : Nat) (k : Nat) : (s.sendMsix vector).port k = s.port k := rfl
@[simp] theorem State.port_evtWrite (r : EvtRecord) (k : Nat) : (s.evtWrite r).port k = s.port k := by
  simp only [State.port, State.evtWrite_rmk]
@[simp] theorem State.port_alarmRecord (r : EvtRecord) (k : Nat) : (s.alarmRecord r).port k = s.port k := by
  simp only [State.port, State.alarmRecord_rmk]
@[simp] theorem State.port_evtDrain (k : Nat) : s.evtDrain.port k = s.port k := by
  simp only [State.port, State.evtDrain_rmk]
@[simp] theorem State.port_raiseAlarm (code source detail : Nat) (k : Nat) : (s.raiseAlarm code source detail).port k = s.port k := by
  simp only [State.port, State.raiseAlarm_rmk]
@[simp] theorem State.port_writeLog (code source detail : Nat) (k : Nat) : (s.writeLog code source detail).port k = s.port k := by
  simp only [State.port, State.writeLog_rmk]
@[simp] theorem State.port_writeTrace (code source detail : Nat) (k : Nat) : (s.writeTrace code source detail).port k = s.port k := by
  simp only [State.port, State.writeTrace_rmk]
@[simp] theorem State.port_mirror (n : Nat) (k : Nat) : (s.mirror n).port k = s.port k := by
  simp only [State.port, State.mirror_rmk]
@[simp] theorem State.port_tally (sess : Nat) (a b : List Nat) (k : Nat) : (s.tally sess a b).port k = s.port k := by
  simp only [State.port, State.tally_rmk]
@[simp] theorem State.port_charge (sess : Nat) (job : Option Nat) (d : Account) (k : Nat) : (s.charge sess job d).port k = s.port k := by
  simp only [State.port, State.charge_rmk]
@[simp] theorem State.port_send (port kind : Nat) (body : List Nat) (bytes : List Byte) (k : Nat) : (s.send port kind body bytes).port k = s.port k := by
  simp only [State.port, State.send_rmk]

/-! ### State.session behind other operations -/

@[simp] theorem State.session_setRing (n : Nat) (r : Ring) (k : Nat) : (s.setRing n r).session k = s.session k := rfl
@[simp] theorem State.session_setModel (x : Model) (k : Nat) : (s.setModel x).session k = s.session k := rfl
@[simp] theorem State.session_setStream (x : Stream) (k : Nat) : (s.setStream x).session k = s.session k := rfl
@[simp] theorem State.session_setJob (x : Job) (k : Nat) : (s.setJob x).session k = s.session k := rfl
@[simp] theorem State.session_setCore (c : Nat) (x : Core) (k : Nat) : (s.setCore c x).session k = s.session k := rfl
@[simp] theorem State.session_setField (f : Nat) (x : Field) (k : Nat) : (s.setField f x).session k = s.session k := rfl
@[simp] theorem State.session_setLink (l : Nat) (x : MeshLink) (k : Nat) : (s.setLink l x).session k = s.session k := rfl
@[simp] theorem State.session_setUnit (u : Nat) (x : BurinUnit) (k : Nat) : (s.setUnit u x).session k = s.session k := rfl
@[simp] theorem State.session_setDir (n d : Nat) (x : Direction) (k : Nat) : (s.setDir n d x).session k = s.session k := rfl
@[simp] theorem State.session_setGroup (g : Nat) (x : Group) (k : Nat) : (s.setGroup g x).session k = s.session k := rfl
@[simp] theorem State.session_setOsc (n : Nat) (x : Osc) (k : Nat) : (s.setOsc n x).session k = s.session k := rfl
@[simp] theorem State.session_setIhxPort (p : Nat) (x : IhxPort) (k : Nat) : (s.setIhxPort p x).session k = s.session k := rfl
@[simp] theorem State.session_setMailbox (n : Nat) (m : Mailbox) (k : Nat) : (s.setMailbox n m).session k = s.session k := rfl
@[simp] theorem State.session_setChan (c : Nat) (x : Channel) (k : Nat) : (s.setChan c x).session k = s.session k := rfl
@[simp] theorem State.session_setPort (p : Nat) (x : Port) (k : Nat) : (s.setPort p x).session k = s.session k := rfl
@[simp] theorem State.session_setLog (l : LogSource) (k : Nat) : (s.setLog l).session k = s.session k := rfl
@[simp] theorem State.session_bump (code n : Nat) (sc : EvScope) (k : Nat) : (s.bump code n sc).session k = s.session k := rfl
@[simp] theorem State.session_hostWrite (port addr : Nat) (bytes : List Byte) (k : Nat) : (s.hostWrite port addr bytes).session k = s.session k := rfl
@[simp] theorem State.session_sendMsix (vector : Nat) (k : Nat) : (s.sendMsix vector).session k = s.session k := rfl
@[simp] theorem State.session_evtWrite (r : EvtRecord) (k : Nat) : (s.evtWrite r).session k = s.session k := by
  simp only [State.session, State.evtWrite_sessions]
@[simp] theorem State.session_alarmRecord (r : EvtRecord) (k : Nat) : (s.alarmRecord r).session k = s.session k := by
  simp only [State.session, State.alarmRecord_sessions]
@[simp] theorem State.session_evtDrain (k : Nat) : s.evtDrain.session k = s.session k := by
  simp only [State.session, State.evtDrain_sessions]
@[simp] theorem State.session_raiseAlarm (code source detail : Nat) (k : Nat) : (s.raiseAlarm code source detail).session k = s.session k := by
  simp only [State.session, State.raiseAlarm_sessions]
@[simp] theorem State.session_writeLog (code source detail : Nat) (k : Nat) : (s.writeLog code source detail).session k = s.session k := by
  simp only [State.session, State.writeLog_sessions]
@[simp] theorem State.session_writeTrace (code source detail : Nat) (k : Nat) : (s.writeTrace code source detail).session k = s.session k := by
  simp only [State.session, State.writeTrace_sessions]
@[simp] theorem State.session_mirror (n : Nat) (k : Nat) : (s.mirror n).session k = s.session k := by
  simp only [State.session, State.mirror_sessions]
@[simp] theorem State.session_hold (n : Nat) (rec : CqRecord) (k : Nat) : (s.hold n rec).session k = s.session k := by
  simp only [State.session, State.hold_sessions]
@[simp] theorem State.session_modDesc (n seq : Nat) (f : Desc → Desc) (k : Nat) : (s.modDesc n seq f).session k = s.session k := by
  simp only [State.session, State.modDesc_sessions]
@[simp] theorem State.session_complete (n : Nat) (d : Desc) (x : Done) (k : Nat) : (s.complete n d x).session k = s.session k := by
  simp only [State.session, State.complete_sessions]
@[simp] theorem State.session_tally (sess : Nat) (a b : List Nat) (k : Nat) : (s.tally sess a b).session k = s.session k := by
  simp only [State.session, State.tally_sessions]
@[simp] theorem State.session_send (port kind : Nat) (body : List Nat) (bytes : List Byte) (k : Nat) : (s.send port kind body bytes).session k = s.session k := by
  simp only [State.session, State.send_sessions]

/-! ### State.model behind other operations -/

@[simp] theorem State.model_setRing (n : Nat) (r : Ring) (k : Nat) : (s.setRing n r).model k = s.model k := rfl
@[simp] theorem State.model_setSession (n : Nat) (x : Session) (k : Nat) : (s.setSession n x).model k = s.model k := rfl
@[simp] theorem State.model_setStream (x : Stream) (k : Nat) : (s.setStream x).model k = s.model k := rfl
@[simp] theorem State.model_setJob (x : Job) (k : Nat) : (s.setJob x).model k = s.model k := rfl
@[simp] theorem State.model_setCore (c : Nat) (x : Core) (k : Nat) : (s.setCore c x).model k = s.model k := rfl
@[simp] theorem State.model_setField (f : Nat) (x : Field) (k : Nat) : (s.setField f x).model k = s.model k := rfl
@[simp] theorem State.model_setLink (l : Nat) (x : MeshLink) (k : Nat) : (s.setLink l x).model k = s.model k := rfl
@[simp] theorem State.model_setUnit (u : Nat) (x : BurinUnit) (k : Nat) : (s.setUnit u x).model k = s.model k := rfl
@[simp] theorem State.model_setDir (n d : Nat) (x : Direction) (k : Nat) : (s.setDir n d x).model k = s.model k := rfl
@[simp] theorem State.model_setGroup (g : Nat) (x : Group) (k : Nat) : (s.setGroup g x).model k = s.model k := rfl
@[simp] theorem State.model_setOsc (n : Nat) (x : Osc) (k : Nat) : (s.setOsc n x).model k = s.model k := rfl
@[simp] theorem State.model_setIhxPort (p : Nat) (x : IhxPort) (k : Nat) : (s.setIhxPort p x).model k = s.model k := rfl
@[simp] theorem State.model_setMailbox (n : Nat) (m : Mailbox) (k : Nat) : (s.setMailbox n m).model k = s.model k := rfl
@[simp] theorem State.model_setChan (c : Nat) (x : Channel) (k : Nat) : (s.setChan c x).model k = s.model k := rfl
@[simp] theorem State.model_setPort (p : Nat) (x : Port) (k : Nat) : (s.setPort p x).model k = s.model k := rfl
@[simp] theorem State.model_setLog (l : LogSource) (k : Nat) : (s.setLog l).model k = s.model k := rfl
@[simp] theorem State.model_bump (code n : Nat) (sc : EvScope) (k : Nat) : (s.bump code n sc).model k = s.model k := rfl
@[simp] theorem State.model_hostWrite (port addr : Nat) (bytes : List Byte) (k : Nat) : (s.hostWrite port addr bytes).model k = s.model k := rfl
@[simp] theorem State.model_sendMsix (vector : Nat) (k : Nat) : (s.sendMsix vector).model k = s.model k := rfl
@[simp] theorem State.model_evtWrite (r : EvtRecord) (k : Nat) : (s.evtWrite r).model k = s.model k := by
  simp only [State.model, State.evtWrite_models]
@[simp] theorem State.model_alarmRecord (r : EvtRecord) (k : Nat) : (s.alarmRecord r).model k = s.model k := by
  simp only [State.model, State.alarmRecord_models]
@[simp] theorem State.model_evtDrain (k : Nat) : s.evtDrain.model k = s.model k := by
  simp only [State.model, State.evtDrain_models]
@[simp] theorem State.model_raiseAlarm (code source detail : Nat) (k : Nat) : (s.raiseAlarm code source detail).model k = s.model k := by
  simp only [State.model, State.raiseAlarm_models]
@[simp] theorem State.model_writeLog (code source detail : Nat) (k : Nat) : (s.writeLog code source detail).model k = s.model k := by
  simp only [State.model, State.writeLog_models]
@[simp] theorem State.model_writeTrace (code source detail : Nat) (k : Nat) : (s.writeTrace code source detail).model k = s.model k := by
  simp only [State.model, State.writeTrace_models]
@[simp] theorem State.model_mirror (n : Nat) (k : Nat) : (s.mirror n).model k = s.model k := by
  simp only [State.model, State.mirror_models]
@[simp] theorem State.model_hold (n : Nat) (rec : CqRecord) (k : Nat) : (s.hold n rec).model k = s.model k := by
  simp only [State.model, State.hold_models]
@[simp] theorem State.model_modDesc (n seq : Nat) (f : Desc → Desc) (k : Nat) : (s.modDesc n seq f).model k = s.model k := by
  simp only [State.model, State.modDesc_models]
@[simp] theorem State.model_complete (n : Nat) (d : Desc) (x : Done) (k : Nat) : (s.complete n d x).model k = s.model k := by
  simp only [State.model, State.complete_models]
@[simp] theorem State.model_tally (sess : Nat) (a b : List Nat) (k : Nat) : (s.tally sess a b).model k = s.model k := by
  simp only [State.model, State.tally_models]
@[simp] theorem State.model_charge (sess : Nat) (job : Option Nat) (d : Account) (k : Nat) : (s.charge sess job d).model k = s.model k := by
  simp only [State.model, State.charge_models]
@[simp] theorem State.model_send (port kind : Nat) (body : List Nat) (bytes : List Byte) (k : Nat) : (s.send port kind body bytes).model k = s.model k := by
  simp only [State.model, State.send_models]

/-! ### State.stream behind other operations -/

@[simp] theorem State.stream_setRing (n : Nat) (r : Ring) (k : Nat) : (s.setRing n r).stream k = s.stream k := rfl
@[simp] theorem State.stream_setSession (n : Nat) (x : Session) (k : Nat) : (s.setSession n x).stream k = s.stream k := rfl
@[simp] theorem State.stream_setModel (x : Model) (k : Nat) : (s.setModel x).stream k = s.stream k := rfl
@[simp] theorem State.stream_setJob (x : Job) (k : Nat) : (s.setJob x).stream k = s.stream k := rfl
@[simp] theorem State.stream_setCore (c : Nat) (x : Core) (k : Nat) : (s.setCore c x).stream k = s.stream k := rfl
@[simp] theorem State.stream_setField (f : Nat) (x : Field) (k : Nat) : (s.setField f x).stream k = s.stream k := rfl
@[simp] theorem State.stream_setLink (l : Nat) (x : MeshLink) (k : Nat) : (s.setLink l x).stream k = s.stream k := rfl
@[simp] theorem State.stream_setUnit (u : Nat) (x : BurinUnit) (k : Nat) : (s.setUnit u x).stream k = s.stream k := rfl
@[simp] theorem State.stream_setDir (n d : Nat) (x : Direction) (k : Nat) : (s.setDir n d x).stream k = s.stream k := rfl
@[simp] theorem State.stream_setGroup (g : Nat) (x : Group) (k : Nat) : (s.setGroup g x).stream k = s.stream k := rfl
@[simp] theorem State.stream_setOsc (n : Nat) (x : Osc) (k : Nat) : (s.setOsc n x).stream k = s.stream k := rfl
@[simp] theorem State.stream_setIhxPort (p : Nat) (x : IhxPort) (k : Nat) : (s.setIhxPort p x).stream k = s.stream k := rfl
@[simp] theorem State.stream_setMailbox (n : Nat) (m : Mailbox) (k : Nat) : (s.setMailbox n m).stream k = s.stream k := rfl
@[simp] theorem State.stream_setChan (c : Nat) (x : Channel) (k : Nat) : (s.setChan c x).stream k = s.stream k := rfl
@[simp] theorem State.stream_setPort (p : Nat) (x : Port) (k : Nat) : (s.setPort p x).stream k = s.stream k := rfl
@[simp] theorem State.stream_setLog (l : LogSource) (k : Nat) : (s.setLog l).stream k = s.stream k := rfl
@[simp] theorem State.stream_bump (code n : Nat) (sc : EvScope) (k : Nat) : (s.bump code n sc).stream k = s.stream k := rfl
@[simp] theorem State.stream_hostWrite (port addr : Nat) (bytes : List Byte) (k : Nat) : (s.hostWrite port addr bytes).stream k = s.stream k := rfl
@[simp] theorem State.stream_sendMsix (vector : Nat) (k : Nat) : (s.sendMsix vector).stream k = s.stream k := rfl
@[simp] theorem State.stream_evtWrite (r : EvtRecord) (k : Nat) : (s.evtWrite r).stream k = s.stream k := by
  simp only [State.stream, State.evtWrite_streams]
@[simp] theorem State.stream_alarmRecord (r : EvtRecord) (k : Nat) : (s.alarmRecord r).stream k = s.stream k := by
  simp only [State.stream, State.alarmRecord_streams]
@[simp] theorem State.stream_evtDrain (k : Nat) : s.evtDrain.stream k = s.stream k := by
  simp only [State.stream, State.evtDrain_streams]
@[simp] theorem State.stream_raiseAlarm (code source detail : Nat) (k : Nat) : (s.raiseAlarm code source detail).stream k = s.stream k := by
  simp only [State.stream, State.raiseAlarm_streams]
@[simp] theorem State.stream_writeLog (code source detail : Nat) (k : Nat) : (s.writeLog code source detail).stream k = s.stream k := by
  simp only [State.stream, State.writeLog_streams]
@[simp] theorem State.stream_writeTrace (code source detail : Nat) (k : Nat) : (s.writeTrace code source detail).stream k = s.stream k := by
  simp only [State.stream, State.writeTrace_streams]
@[simp] theorem State.stream_mirror (n : Nat) (k : Nat) : (s.mirror n).stream k = s.stream k := by
  simp only [State.stream, State.mirror_streams]
@[simp] theorem State.stream_hold (n : Nat) (rec : CqRecord) (k : Nat) : (s.hold n rec).stream k = s.stream k := by
  simp only [State.stream, State.hold_streams]
@[simp] theorem State.stream_modDesc (n seq : Nat) (f : Desc → Desc) (k : Nat) : (s.modDesc n seq f).stream k = s.stream k := by
  simp only [State.stream, State.modDesc_streams]
@[simp] theorem State.stream_complete (n : Nat) (d : Desc) (x : Done) (k : Nat) : (s.complete n d x).stream k = s.stream k := by
  simp only [State.stream, State.complete_streams]
@[simp] theorem State.stream_tally (sess : Nat) (a b : List Nat) (k : Nat) : (s.tally sess a b).stream k = s.stream k := by
  simp only [State.stream, State.tally_streams]
@[simp] theorem State.stream_charge (sess : Nat) (job : Option Nat) (d : Account) (k : Nat) : (s.charge sess job d).stream k = s.stream k := by
  simp only [State.stream, State.charge_streams]
@[simp] theorem State.stream_send (port kind : Nat) (body : List Nat) (bytes : List Byte) (k : Nat) : (s.send port kind body bytes).stream k = s.stream k := by
  simp only [State.stream, State.send_streams]

/-! ### State.job behind other operations -/

@[simp] theorem State.job_setRing (n : Nat) (r : Ring) (k : Nat) : (s.setRing n r).job k = s.job k := rfl
@[simp] theorem State.job_setSession (n : Nat) (x : Session) (k : Nat) : (s.setSession n x).job k = s.job k := rfl
@[simp] theorem State.job_setModel (x : Model) (k : Nat) : (s.setModel x).job k = s.job k := rfl
@[simp] theorem State.job_setStream (x : Stream) (k : Nat) : (s.setStream x).job k = s.job k := rfl
@[simp] theorem State.job_setCore (c : Nat) (x : Core) (k : Nat) : (s.setCore c x).job k = s.job k := rfl
@[simp] theorem State.job_setField (f : Nat) (x : Field) (k : Nat) : (s.setField f x).job k = s.job k := rfl
@[simp] theorem State.job_setLink (l : Nat) (x : MeshLink) (k : Nat) : (s.setLink l x).job k = s.job k := rfl
@[simp] theorem State.job_setUnit (u : Nat) (x : BurinUnit) (k : Nat) : (s.setUnit u x).job k = s.job k := rfl
@[simp] theorem State.job_setDir (n d : Nat) (x : Direction) (k : Nat) : (s.setDir n d x).job k = s.job k := rfl
@[simp] theorem State.job_setGroup (g : Nat) (x : Group) (k : Nat) : (s.setGroup g x).job k = s.job k := rfl
@[simp] theorem State.job_setOsc (n : Nat) (x : Osc) (k : Nat) : (s.setOsc n x).job k = s.job k := rfl
@[simp] theorem State.job_setIhxPort (p : Nat) (x : IhxPort) (k : Nat) : (s.setIhxPort p x).job k = s.job k := rfl
@[simp] theorem State.job_setMailbox (n : Nat) (m : Mailbox) (k : Nat) : (s.setMailbox n m).job k = s.job k := rfl
@[simp] theorem State.job_setChan (c : Nat) (x : Channel) (k : Nat) : (s.setChan c x).job k = s.job k := rfl
@[simp] theorem State.job_setPort (p : Nat) (x : Port) (k : Nat) : (s.setPort p x).job k = s.job k := rfl
@[simp] theorem State.job_setLog (l : LogSource) (k : Nat) : (s.setLog l).job k = s.job k := rfl
@[simp] theorem State.job_bump (code n : Nat) (sc : EvScope) (k : Nat) : (s.bump code n sc).job k = s.job k := rfl
@[simp] theorem State.job_hostWrite (port addr : Nat) (bytes : List Byte) (k : Nat) : (s.hostWrite port addr bytes).job k = s.job k := rfl
@[simp] theorem State.job_sendMsix (vector : Nat) (k : Nat) : (s.sendMsix vector).job k = s.job k := rfl
@[simp] theorem State.job_evtWrite (r : EvtRecord) (k : Nat) : (s.evtWrite r).job k = s.job k := by
  simp only [State.job, State.evtWrite_jobs]
@[simp] theorem State.job_alarmRecord (r : EvtRecord) (k : Nat) : (s.alarmRecord r).job k = s.job k := by
  simp only [State.job, State.alarmRecord_jobs]
@[simp] theorem State.job_evtDrain (k : Nat) : s.evtDrain.job k = s.job k := by
  simp only [State.job, State.evtDrain_jobs]
@[simp] theorem State.job_raiseAlarm (code source detail : Nat) (k : Nat) : (s.raiseAlarm code source detail).job k = s.job k := by
  simp only [State.job, State.raiseAlarm_jobs]
@[simp] theorem State.job_writeLog (code source detail : Nat) (k : Nat) : (s.writeLog code source detail).job k = s.job k := by
  simp only [State.job, State.writeLog_jobs]
@[simp] theorem State.job_writeTrace (code source detail : Nat) (k : Nat) : (s.writeTrace code source detail).job k = s.job k := by
  simp only [State.job, State.writeTrace_jobs]
@[simp] theorem State.job_mirror (n : Nat) (k : Nat) : (s.mirror n).job k = s.job k := by
  simp only [State.job, State.mirror_jobs]
@[simp] theorem State.job_hold (n : Nat) (rec : CqRecord) (k : Nat) : (s.hold n rec).job k = s.job k := by
  simp only [State.job, State.hold_jobs]
@[simp] theorem State.job_modDesc (n seq : Nat) (f : Desc → Desc) (k : Nat) : (s.modDesc n seq f).job k = s.job k := by
  simp only [State.job, State.modDesc_jobs]
@[simp] theorem State.job_complete (n : Nat) (d : Desc) (x : Done) (k : Nat) : (s.complete n d x).job k = s.job k := by
  simp only [State.job, State.complete_jobs]
@[simp] theorem State.job_tally (sess : Nat) (a b : List Nat) (k : Nat) : (s.tally sess a b).job k = s.job k := by
  simp only [State.job, State.tally_jobs]
@[simp] theorem State.job_send (port kind : Nat) (body : List Nat) (bytes : List Byte) (k : Nat) : (s.send port kind body bytes).job k = s.job k := by
  simp only [State.job, State.send_jobs]

/-! ### State.core behind other operations -/

@[simp] theorem State.core_setRing (n : Nat) (r : Ring) (k : Nat) : (s.setRing n r).core k = s.core k := rfl
@[simp] theorem State.core_setSession (n : Nat) (x : Session) (k : Nat) : (s.setSession n x).core k = s.core k := rfl
@[simp] theorem State.core_setModel (x : Model) (k : Nat) : (s.setModel x).core k = s.core k := rfl
@[simp] theorem State.core_setStream (x : Stream) (k : Nat) : (s.setStream x).core k = s.core k := rfl
@[simp] theorem State.core_setJob (x : Job) (k : Nat) : (s.setJob x).core k = s.core k := rfl
@[simp] theorem State.core_setField (f : Nat) (x : Field) (k : Nat) : (s.setField f x).core k = s.core k := rfl
@[simp] theorem State.core_setLink (l : Nat) (x : MeshLink) (k : Nat) : (s.setLink l x).core k = s.core k := rfl
@[simp] theorem State.core_setUnit (u : Nat) (x : BurinUnit) (k : Nat) : (s.setUnit u x).core k = s.core k := rfl
@[simp] theorem State.core_setDir (n d : Nat) (x : Direction) (k : Nat) : (s.setDir n d x).core k = s.core k := rfl
@[simp] theorem State.core_setGroup (g : Nat) (x : Group) (k : Nat) : (s.setGroup g x).core k = s.core k := rfl
@[simp] theorem State.core_setOsc (n : Nat) (x : Osc) (k : Nat) : (s.setOsc n x).core k = s.core k := rfl
@[simp] theorem State.core_setIhxPort (p : Nat) (x : IhxPort) (k : Nat) : (s.setIhxPort p x).core k = s.core k := rfl
@[simp] theorem State.core_setMailbox (n : Nat) (m : Mailbox) (k : Nat) : (s.setMailbox n m).core k = s.core k := rfl
@[simp] theorem State.core_setChan (c : Nat) (x : Channel) (k : Nat) : (s.setChan c x).core k = s.core k := rfl
@[simp] theorem State.core_setPort (p : Nat) (x : Port) (k : Nat) : (s.setPort p x).core k = s.core k := rfl
@[simp] theorem State.core_setLog (l : LogSource) (k : Nat) : (s.setLog l).core k = s.core k := rfl
@[simp] theorem State.core_bump (code n : Nat) (sc : EvScope) (k : Nat) : (s.bump code n sc).core k = s.core k := rfl
@[simp] theorem State.core_hostWrite (port addr : Nat) (bytes : List Byte) (k : Nat) : (s.hostWrite port addr bytes).core k = s.core k := rfl
@[simp] theorem State.core_sendMsix (vector : Nat) (k : Nat) : (s.sendMsix vector).core k = s.core k := rfl
@[simp] theorem State.core_evtWrite (r : EvtRecord) (k : Nat) : (s.evtWrite r).core k = s.core k := by
  simp only [State.core, State.evtWrite_hatch]
@[simp] theorem State.core_alarmRecord (r : EvtRecord) (k : Nat) : (s.alarmRecord r).core k = s.core k := by
  simp only [State.core, State.alarmRecord_hatch]
@[simp] theorem State.core_evtDrain (k : Nat) : s.evtDrain.core k = s.core k := by
  simp only [State.core, State.evtDrain_hatch]
@[simp] theorem State.core_raiseAlarm (code source detail : Nat) (k : Nat) : (s.raiseAlarm code source detail).core k = s.core k := by
  simp only [State.core, State.raiseAlarm_hatch]
@[simp] theorem State.core_writeLog (code source detail : Nat) (k : Nat) : (s.writeLog code source detail).core k = s.core k := by
  simp only [State.core, State.writeLog_hatch]
@[simp] theorem State.core_writeTrace (code source detail : Nat) (k : Nat) : (s.writeTrace code source detail).core k = s.core k := by
  simp only [State.core, State.writeTrace_hatch]
@[simp] theorem State.core_mirror (n : Nat) (k : Nat) : (s.mirror n).core k = s.core k := by
  simp only [State.core, State.mirror_hatch]
@[simp] theorem State.core_hold (n : Nat) (rec : CqRecord) (k : Nat) : (s.hold n rec).core k = s.core k := by
  simp only [State.core, State.hold_hatch]
@[simp] theorem State.core_modDesc (n seq : Nat) (f : Desc → Desc) (k : Nat) : (s.modDesc n seq f).core k = s.core k := by
  simp only [State.core, State.modDesc_hatch]
@[simp] theorem State.core_complete (n : Nat) (d : Desc) (x : Done) (k : Nat) : (s.complete n d x).core k = s.core k := by
  simp only [State.core, State.complete_hatch]
@[simp] theorem State.core_tally (sess : Nat) (a b : List Nat) (k : Nat) : (s.tally sess a b).core k = s.core k := by
  simp only [State.core, State.tally_hatch]
@[simp] theorem State.core_charge (sess : Nat) (job : Option Nat) (d : Account) (k : Nat) : (s.charge sess job d).core k = s.core k := by
  simp only [State.core, State.charge_hatch]
@[simp] theorem State.core_send (port kind : Nat) (body : List Nat) (bytes : List Byte) (k : Nat) : (s.send port kind body bytes).core k = s.core k := by
  simp only [State.core, State.send_hatch]

/-! ### State.field behind other operations -/

@[simp] theorem State.field_setRing (n : Nat) (r : Ring) (k : Nat) : (s.setRing n r).field k = s.field k := rfl
@[simp] theorem State.field_setSession (n : Nat) (x : Session) (k : Nat) : (s.setSession n x).field k = s.field k := rfl
@[simp] theorem State.field_setModel (x : Model) (k : Nat) : (s.setModel x).field k = s.field k := rfl
@[simp] theorem State.field_setStream (x : Stream) (k : Nat) : (s.setStream x).field k = s.field k := rfl
@[simp] theorem State.field_setJob (x : Job) (k : Nat) : (s.setJob x).field k = s.field k := rfl
@[simp] theorem State.field_setCore (c : Nat) (x : Core) (k : Nat) : (s.setCore c x).field k = s.field k := rfl
@[simp] theorem State.field_setLink (l : Nat) (x : MeshLink) (k : Nat) : (s.setLink l x).field k = s.field k := rfl
@[simp] theorem State.field_setUnit (u : Nat) (x : BurinUnit) (k : Nat) : (s.setUnit u x).field k = s.field k := rfl
@[simp] theorem State.field_setDir (n d : Nat) (x : Direction) (k : Nat) : (s.setDir n d x).field k = s.field k := rfl
@[simp] theorem State.field_setGroup (g : Nat) (x : Group) (k : Nat) : (s.setGroup g x).field k = s.field k := rfl
@[simp] theorem State.field_setOsc (n : Nat) (x : Osc) (k : Nat) : (s.setOsc n x).field k = s.field k := rfl
@[simp] theorem State.field_setIhxPort (p : Nat) (x : IhxPort) (k : Nat) : (s.setIhxPort p x).field k = s.field k := rfl
@[simp] theorem State.field_setMailbox (n : Nat) (m : Mailbox) (k : Nat) : (s.setMailbox n m).field k = s.field k := rfl
@[simp] theorem State.field_setChan (c : Nat) (x : Channel) (k : Nat) : (s.setChan c x).field k = s.field k := rfl
@[simp] theorem State.field_setPort (p : Nat) (x : Port) (k : Nat) : (s.setPort p x).field k = s.field k := rfl
@[simp] theorem State.field_setLog (l : LogSource) (k : Nat) : (s.setLog l).field k = s.field k := rfl
@[simp] theorem State.field_bump (code n : Nat) (sc : EvScope) (k : Nat) : (s.bump code n sc).field k = s.field k := rfl
@[simp] theorem State.field_hostWrite (port addr : Nat) (bytes : List Byte) (k : Nat) : (s.hostWrite port addr bytes).field k = s.field k := rfl
@[simp] theorem State.field_sendMsix (vector : Nat) (k : Nat) : (s.sendMsix vector).field k = s.field k := rfl
@[simp] theorem State.field_evtWrite (r : EvtRecord) (k : Nat) : (s.evtWrite r).field k = s.field k := by
  simp only [State.field, State.evtWrite_hatch]
@[simp] theorem State.field_alarmRecord (r : EvtRecord) (k : Nat) : (s.alarmRecord r).field k = s.field k := by
  simp only [State.field, State.alarmRecord_hatch]
@[simp] theorem State.field_evtDrain (k : Nat) : s.evtDrain.field k = s.field k := by
  simp only [State.field, State.evtDrain_hatch]
@[simp] theorem State.field_raiseAlarm (code source detail : Nat) (k : Nat) : (s.raiseAlarm code source detail).field k = s.field k := by
  simp only [State.field, State.raiseAlarm_hatch]
@[simp] theorem State.field_writeLog (code source detail : Nat) (k : Nat) : (s.writeLog code source detail).field k = s.field k := by
  simp only [State.field, State.writeLog_hatch]
@[simp] theorem State.field_writeTrace (code source detail : Nat) (k : Nat) : (s.writeTrace code source detail).field k = s.field k := by
  simp only [State.field, State.writeTrace_hatch]
@[simp] theorem State.field_mirror (n : Nat) (k : Nat) : (s.mirror n).field k = s.field k := by
  simp only [State.field, State.mirror_hatch]
@[simp] theorem State.field_hold (n : Nat) (rec : CqRecord) (k : Nat) : (s.hold n rec).field k = s.field k := by
  simp only [State.field, State.hold_hatch]
@[simp] theorem State.field_modDesc (n seq : Nat) (f : Desc → Desc) (k : Nat) : (s.modDesc n seq f).field k = s.field k := by
  simp only [State.field, State.modDesc_hatch]
@[simp] theorem State.field_complete (n : Nat) (d : Desc) (x : Done) (k : Nat) : (s.complete n d x).field k = s.field k := by
  simp only [State.field, State.complete_hatch]
@[simp] theorem State.field_tally (sess : Nat) (a b : List Nat) (k : Nat) : (s.tally sess a b).field k = s.field k := by
  simp only [State.field, State.tally_hatch]
@[simp] theorem State.field_charge (sess : Nat) (job : Option Nat) (d : Account) (k : Nat) : (s.charge sess job d).field k = s.field k := by
  simp only [State.field, State.charge_hatch]
@[simp] theorem State.field_send (port kind : Nat) (body : List Nat) (bytes : List Byte) (k : Nat) : (s.send port kind body bytes).field k = s.field k := by
  simp only [State.field, State.send_hatch]

/-! ### State.meshLink behind other operations -/

@[simp] theorem State.meshLink_setRing (n : Nat) (r : Ring) (k : Nat) : (s.setRing n r).meshLink k = s.meshLink k := rfl
@[simp] theorem State.meshLink_setSession (n : Nat) (x : Session) (k : Nat) : (s.setSession n x).meshLink k = s.meshLink k := rfl
@[simp] theorem State.meshLink_setModel (x : Model) (k : Nat) : (s.setModel x).meshLink k = s.meshLink k := rfl
@[simp] theorem State.meshLink_setStream (x : Stream) (k : Nat) : (s.setStream x).meshLink k = s.meshLink k := rfl
@[simp] theorem State.meshLink_setJob (x : Job) (k : Nat) : (s.setJob x).meshLink k = s.meshLink k := rfl
@[simp] theorem State.meshLink_setCore (c : Nat) (x : Core) (k : Nat) : (s.setCore c x).meshLink k = s.meshLink k := rfl
@[simp] theorem State.meshLink_setField (f : Nat) (x : Field) (k : Nat) : (s.setField f x).meshLink k = s.meshLink k := rfl
@[simp] theorem State.meshLink_setUnit (u : Nat) (x : BurinUnit) (k : Nat) : (s.setUnit u x).meshLink k = s.meshLink k := rfl
@[simp] theorem State.meshLink_setDir (n d : Nat) (x : Direction) (k : Nat) : (s.setDir n d x).meshLink k = s.meshLink k := rfl
@[simp] theorem State.meshLink_setGroup (g : Nat) (x : Group) (k : Nat) : (s.setGroup g x).meshLink k = s.meshLink k := rfl
@[simp] theorem State.meshLink_setOsc (n : Nat) (x : Osc) (k : Nat) : (s.setOsc n x).meshLink k = s.meshLink k := rfl
@[simp] theorem State.meshLink_setIhxPort (p : Nat) (x : IhxPort) (k : Nat) : (s.setIhxPort p x).meshLink k = s.meshLink k := rfl
@[simp] theorem State.meshLink_setMailbox (n : Nat) (m : Mailbox) (k : Nat) : (s.setMailbox n m).meshLink k = s.meshLink k := rfl
@[simp] theorem State.meshLink_setChan (c : Nat) (x : Channel) (k : Nat) : (s.setChan c x).meshLink k = s.meshLink k := rfl
@[simp] theorem State.meshLink_setPort (p : Nat) (x : Port) (k : Nat) : (s.setPort p x).meshLink k = s.meshLink k := rfl
@[simp] theorem State.meshLink_setLog (l : LogSource) (k : Nat) : (s.setLog l).meshLink k = s.meshLink k := rfl
@[simp] theorem State.meshLink_bump (code n : Nat) (sc : EvScope) (k : Nat) : (s.bump code n sc).meshLink k = s.meshLink k := rfl
@[simp] theorem State.meshLink_hostWrite (port addr : Nat) (bytes : List Byte) (k : Nat) : (s.hostWrite port addr bytes).meshLink k = s.meshLink k := rfl
@[simp] theorem State.meshLink_sendMsix (vector : Nat) (k : Nat) : (s.sendMsix vector).meshLink k = s.meshLink k := rfl
@[simp] theorem State.meshLink_evtWrite (r : EvtRecord) (k : Nat) : (s.evtWrite r).meshLink k = s.meshLink k := by
  simp only [State.meshLink, State.evtWrite_hatch]
@[simp] theorem State.meshLink_alarmRecord (r : EvtRecord) (k : Nat) : (s.alarmRecord r).meshLink k = s.meshLink k := by
  simp only [State.meshLink, State.alarmRecord_hatch]
@[simp] theorem State.meshLink_evtDrain (k : Nat) : s.evtDrain.meshLink k = s.meshLink k := by
  simp only [State.meshLink, State.evtDrain_hatch]
@[simp] theorem State.meshLink_raiseAlarm (code source detail : Nat) (k : Nat) : (s.raiseAlarm code source detail).meshLink k = s.meshLink k := by
  simp only [State.meshLink, State.raiseAlarm_hatch]
@[simp] theorem State.meshLink_writeLog (code source detail : Nat) (k : Nat) : (s.writeLog code source detail).meshLink k = s.meshLink k := by
  simp only [State.meshLink, State.writeLog_hatch]
@[simp] theorem State.meshLink_writeTrace (code source detail : Nat) (k : Nat) : (s.writeTrace code source detail).meshLink k = s.meshLink k := by
  simp only [State.meshLink, State.writeTrace_hatch]
@[simp] theorem State.meshLink_mirror (n : Nat) (k : Nat) : (s.mirror n).meshLink k = s.meshLink k := by
  simp only [State.meshLink, State.mirror_hatch]
@[simp] theorem State.meshLink_hold (n : Nat) (rec : CqRecord) (k : Nat) : (s.hold n rec).meshLink k = s.meshLink k := by
  simp only [State.meshLink, State.hold_hatch]
@[simp] theorem State.meshLink_modDesc (n seq : Nat) (f : Desc → Desc) (k : Nat) : (s.modDesc n seq f).meshLink k = s.meshLink k := by
  simp only [State.meshLink, State.modDesc_hatch]
@[simp] theorem State.meshLink_complete (n : Nat) (d : Desc) (x : Done) (k : Nat) : (s.complete n d x).meshLink k = s.meshLink k := by
  simp only [State.meshLink, State.complete_hatch]
@[simp] theorem State.meshLink_tally (sess : Nat) (a b : List Nat) (k : Nat) : (s.tally sess a b).meshLink k = s.meshLink k := by
  simp only [State.meshLink, State.tally_hatch]
@[simp] theorem State.meshLink_charge (sess : Nat) (job : Option Nat) (d : Account) (k : Nat) : (s.charge sess job d).meshLink k = s.meshLink k := by
  simp only [State.meshLink, State.charge_hatch]
@[simp] theorem State.meshLink_send (port kind : Nat) (body : List Nat) (bytes : List Byte) (k : Nat) : (s.send port kind body bytes).meshLink k = s.meshLink k := by
  simp only [State.meshLink, State.send_hatch]

/-! ### State.unit behind other operations -/

@[simp] theorem State.unit_setRing (n : Nat) (r : Ring) (k : Nat) : (s.setRing n r).unit k = s.unit k := rfl
@[simp] theorem State.unit_setSession (n : Nat) (x : Session) (k : Nat) : (s.setSession n x).unit k = s.unit k := rfl
@[simp] theorem State.unit_setModel (x : Model) (k : Nat) : (s.setModel x).unit k = s.unit k := rfl
@[simp] theorem State.unit_setStream (x : Stream) (k : Nat) : (s.setStream x).unit k = s.unit k := rfl
@[simp] theorem State.unit_setJob (x : Job) (k : Nat) : (s.setJob x).unit k = s.unit k := rfl
@[simp] theorem State.unit_setCore (c : Nat) (x : Core) (k : Nat) : (s.setCore c x).unit k = s.unit k := rfl
@[simp] theorem State.unit_setField (f : Nat) (x : Field) (k : Nat) : (s.setField f x).unit k = s.unit k := rfl
@[simp] theorem State.unit_setLink (l : Nat) (x : MeshLink) (k : Nat) : (s.setLink l x).unit k = s.unit k := rfl
@[simp] theorem State.unit_setDir (n d : Nat) (x : Direction) (k : Nat) : (s.setDir n d x).unit k = s.unit k := rfl
@[simp] theorem State.unit_setGroup (g : Nat) (x : Group) (k : Nat) : (s.setGroup g x).unit k = s.unit k := rfl
@[simp] theorem State.unit_setOsc (n : Nat) (x : Osc) (k : Nat) : (s.setOsc n x).unit k = s.unit k := rfl
@[simp] theorem State.unit_setIhxPort (p : Nat) (x : IhxPort) (k : Nat) : (s.setIhxPort p x).unit k = s.unit k := rfl
@[simp] theorem State.unit_setMailbox (n : Nat) (m : Mailbox) (k : Nat) : (s.setMailbox n m).unit k = s.unit k := rfl
@[simp] theorem State.unit_setChan (c : Nat) (x : Channel) (k : Nat) : (s.setChan c x).unit k = s.unit k := rfl
@[simp] theorem State.unit_setPort (p : Nat) (x : Port) (k : Nat) : (s.setPort p x).unit k = s.unit k := rfl
@[simp] theorem State.unit_setLog (l : LogSource) (k : Nat) : (s.setLog l).unit k = s.unit k := rfl
@[simp] theorem State.unit_bump (code n : Nat) (sc : EvScope) (k : Nat) : (s.bump code n sc).unit k = s.unit k := rfl
@[simp] theorem State.unit_hostWrite (port addr : Nat) (bytes : List Byte) (k : Nat) : (s.hostWrite port addr bytes).unit k = s.unit k := rfl
@[simp] theorem State.unit_sendMsix (vector : Nat) (k : Nat) : (s.sendMsix vector).unit k = s.unit k := rfl
@[simp] theorem State.unit_evtWrite (r : EvtRecord) (k : Nat) : (s.evtWrite r).unit k = s.unit k := by
  simp only [State.unit, State.evtWrite_burin]
@[simp] theorem State.unit_alarmRecord (r : EvtRecord) (k : Nat) : (s.alarmRecord r).unit k = s.unit k := by
  simp only [State.unit, State.alarmRecord_burin]
@[simp] theorem State.unit_evtDrain (k : Nat) : s.evtDrain.unit k = s.unit k := by
  simp only [State.unit, State.evtDrain_burin]
@[simp] theorem State.unit_raiseAlarm (code source detail : Nat) (k : Nat) : (s.raiseAlarm code source detail).unit k = s.unit k := by
  simp only [State.unit, State.raiseAlarm_burin]
@[simp] theorem State.unit_writeLog (code source detail : Nat) (k : Nat) : (s.writeLog code source detail).unit k = s.unit k := by
  simp only [State.unit, State.writeLog_burin]
@[simp] theorem State.unit_writeTrace (code source detail : Nat) (k : Nat) : (s.writeTrace code source detail).unit k = s.unit k := by
  simp only [State.unit, State.writeTrace_burin]
@[simp] theorem State.unit_mirror (n : Nat) (k : Nat) : (s.mirror n).unit k = s.unit k := by
  simp only [State.unit, State.mirror_burin]
@[simp] theorem State.unit_hold (n : Nat) (rec : CqRecord) (k : Nat) : (s.hold n rec).unit k = s.unit k := by
  simp only [State.unit, State.hold_burin]
@[simp] theorem State.unit_modDesc (n seq : Nat) (f : Desc → Desc) (k : Nat) : (s.modDesc n seq f).unit k = s.unit k := by
  simp only [State.unit, State.modDesc_burin]
@[simp] theorem State.unit_complete (n : Nat) (d : Desc) (x : Done) (k : Nat) : (s.complete n d x).unit k = s.unit k := by
  simp only [State.unit, State.complete_burin]
@[simp] theorem State.unit_tally (sess : Nat) (a b : List Nat) (k : Nat) : (s.tally sess a b).unit k = s.unit k := by
  simp only [State.unit, State.tally_burin]
@[simp] theorem State.unit_charge (sess : Nat) (job : Option Nat) (d : Account) (k : Nat) : (s.charge sess job d).unit k = s.unit k := by
  simp only [State.unit, State.charge_burin]
@[simp] theorem State.unit_send (port kind : Nat) (body : List Nat) (bytes : List Byte) (k : Nat) : (s.send port kind body bytes).unit k = s.unit k := by
  simp only [State.unit, State.send_burin]

/-! ### State.dirAt behind other operations -/

@[simp] theorem State.dirAt_setRing (n : Nat) (r : Ring) (k : Nat) : (s.setRing n r).dirAt k = s.dirAt k := rfl
@[simp] theorem State.dirAt_setSession (n : Nat) (x : Session) (k : Nat) : (s.setSession n x).dirAt k = s.dirAt k := rfl
@[simp] theorem State.dirAt_setModel (x : Model) (k : Nat) : (s.setModel x).dirAt k = s.dirAt k := rfl
@[simp] theorem State.dirAt_setStream (x : Stream) (k : Nat) : (s.setStream x).dirAt k = s.dirAt k := rfl
@[simp] theorem State.dirAt_setJob (x : Job) (k : Nat) : (s.setJob x).dirAt k = s.dirAt k := rfl
@[simp] theorem State.dirAt_setCore (c : Nat) (x : Core) (k : Nat) : (s.setCore c x).dirAt k = s.dirAt k := rfl
@[simp] theorem State.dirAt_setField (f : Nat) (x : Field) (k : Nat) : (s.setField f x).dirAt k = s.dirAt k := rfl
@[simp] theorem State.dirAt_setLink (l : Nat) (x : MeshLink) (k : Nat) : (s.setLink l x).dirAt k = s.dirAt k := rfl
@[simp] theorem State.dirAt_setUnit (u : Nat) (x : BurinUnit) (k : Nat) : (s.setUnit u x).dirAt k = s.dirAt k := rfl
@[simp] theorem State.dirAt_setGroup (g : Nat) (x : Group) (k : Nat) : (s.setGroup g x).dirAt k = s.dirAt k := rfl
@[simp] theorem State.dirAt_setOsc (n : Nat) (x : Osc) (k : Nat) : (s.setOsc n x).dirAt k = s.dirAt k := rfl
@[simp] theorem State.dirAt_setIhxPort (p : Nat) (x : IhxPort) (k : Nat) : (s.setIhxPort p x).dirAt k = s.dirAt k := rfl
@[simp] theorem State.dirAt_setMailbox (n : Nat) (m : Mailbox) (k : Nat) : (s.setMailbox n m).dirAt k = s.dirAt k := rfl
@[simp] theorem State.dirAt_setChan (c : Nat) (x : Channel) (k : Nat) : (s.setChan c x).dirAt k = s.dirAt k := rfl
@[simp] theorem State.dirAt_setPort (p : Nat) (x : Port) (k : Nat) : (s.setPort p x).dirAt k = s.dirAt k := rfl
@[simp] theorem State.dirAt_setLog (l : LogSource) (k : Nat) : (s.setLog l).dirAt k = s.dirAt k := rfl
@[simp] theorem State.dirAt_bump (code n : Nat) (sc : EvScope) (k : Nat) : (s.bump code n sc).dirAt k = s.dirAt k := rfl
@[simp] theorem State.dirAt_hostWrite (port addr : Nat) (bytes : List Byte) (k : Nat) : (s.hostWrite port addr bytes).dirAt k = s.dirAt k := rfl
@[simp] theorem State.dirAt_sendMsix (vector : Nat) (k : Nat) : (s.sendMsix vector).dirAt k = s.dirAt k := rfl
@[simp] theorem State.dirAt_evtWrite (r : EvtRecord) (k : Nat) : (s.evtWrite r).dirAt k = s.dirAt k := by
  simp only [State.dirAt, State.dir, State.evtWrite_lines]
@[simp] theorem State.dirAt_alarmRecord (r : EvtRecord) (k : Nat) : (s.alarmRecord r).dirAt k = s.dirAt k := by
  simp only [State.dirAt, State.dir, State.alarmRecord_lines]
@[simp] theorem State.dirAt_evtDrain (k : Nat) : s.evtDrain.dirAt k = s.dirAt k := by
  simp only [State.dirAt, State.dir, State.evtDrain_lines]
@[simp] theorem State.dirAt_raiseAlarm (code source detail : Nat) (k : Nat) : (s.raiseAlarm code source detail).dirAt k = s.dirAt k := by
  simp only [State.dirAt, State.dir, State.raiseAlarm_lines]
@[simp] theorem State.dirAt_writeLog (code source detail : Nat) (k : Nat) : (s.writeLog code source detail).dirAt k = s.dirAt k := by
  simp only [State.dirAt, State.dir, State.writeLog_lines]
@[simp] theorem State.dirAt_writeTrace (code source detail : Nat) (k : Nat) : (s.writeTrace code source detail).dirAt k = s.dirAt k := by
  simp only [State.dirAt, State.dir, State.writeTrace_lines]
@[simp] theorem State.dirAt_mirror (n : Nat) (k : Nat) : (s.mirror n).dirAt k = s.dirAt k := by
  simp only [State.dirAt, State.dir, State.mirror_lines]
@[simp] theorem State.dirAt_hold (n : Nat) (rec : CqRecord) (k : Nat) : (s.hold n rec).dirAt k = s.dirAt k := by
  simp only [State.dirAt, State.dir, State.hold_lines]
@[simp] theorem State.dirAt_modDesc (n seq : Nat) (f : Desc → Desc) (k : Nat) : (s.modDesc n seq f).dirAt k = s.dirAt k := by
  simp only [State.dirAt, State.dir, State.modDesc_lines]
@[simp] theorem State.dirAt_complete (n : Nat) (d : Desc) (x : Done) (k : Nat) : (s.complete n d x).dirAt k = s.dirAt k := by
  simp only [State.dirAt, State.dir, State.complete_lines]
@[simp] theorem State.dirAt_tally (sess : Nat) (a b : List Nat) (k : Nat) : (s.tally sess a b).dirAt k = s.dirAt k := by
  simp only [State.dirAt, State.dir, State.tally_lines]
@[simp] theorem State.dirAt_charge (sess : Nat) (job : Option Nat) (d : Account) (k : Nat) : (s.charge sess job d).dirAt k = s.dirAt k := by
  simp only [State.dirAt, State.dir, State.charge_lines]
@[simp] theorem State.dirAt_send (port kind : Nat) (body : List Nat) (bytes : List Byte) (k : Nat) : (s.send port kind body bytes).dirAt k = s.dirAt k := by
  simp only [State.dirAt, State.dir, State.send_lines]

/-! ### State.groupAt behind other operations -/

@[simp] theorem State.groupAt_setRing (n : Nat) (r : Ring) (k : Nat) : (s.setRing n r).groupAt k = s.groupAt k := rfl
@[simp] theorem State.groupAt_setSession (n : Nat) (x : Session) (k : Nat) : (s.setSession n x).groupAt k = s.groupAt k := rfl
@[simp] theorem State.groupAt_setModel (x : Model) (k : Nat) : (s.setModel x).groupAt k = s.groupAt k := rfl
@[simp] theorem State.groupAt_setStream (x : Stream) (k : Nat) : (s.setStream x).groupAt k = s.groupAt k := rfl
@[simp] theorem State.groupAt_setJob (x : Job) (k : Nat) : (s.setJob x).groupAt k = s.groupAt k := rfl
@[simp] theorem State.groupAt_setCore (c : Nat) (x : Core) (k : Nat) : (s.setCore c x).groupAt k = s.groupAt k := rfl
@[simp] theorem State.groupAt_setField (f : Nat) (x : Field) (k : Nat) : (s.setField f x).groupAt k = s.groupAt k := rfl
@[simp] theorem State.groupAt_setLink (l : Nat) (x : MeshLink) (k : Nat) : (s.setLink l x).groupAt k = s.groupAt k := rfl
@[simp] theorem State.groupAt_setUnit (u : Nat) (x : BurinUnit) (k : Nat) : (s.setUnit u x).groupAt k = s.groupAt k := rfl
@[simp] theorem State.groupAt_setDir (n d : Nat) (x : Direction) (k : Nat) : (s.setDir n d x).groupAt k = s.groupAt k := rfl
@[simp] theorem State.groupAt_setOsc (n : Nat) (x : Osc) (k : Nat) : (s.setOsc n x).groupAt k = s.groupAt k := rfl
@[simp] theorem State.groupAt_setIhxPort (p : Nat) (x : IhxPort) (k : Nat) : (s.setIhxPort p x).groupAt k = s.groupAt k := rfl
@[simp] theorem State.groupAt_setMailbox (n : Nat) (m : Mailbox) (k : Nat) : (s.setMailbox n m).groupAt k = s.groupAt k := rfl
@[simp] theorem State.groupAt_setChan (c : Nat) (x : Channel) (k : Nat) : (s.setChan c x).groupAt k = s.groupAt k := rfl
@[simp] theorem State.groupAt_setPort (p : Nat) (x : Port) (k : Nat) : (s.setPort p x).groupAt k = s.groupAt k := rfl
@[simp] theorem State.groupAt_setLog (l : LogSource) (k : Nat) : (s.setLog l).groupAt k = s.groupAt k := rfl
@[simp] theorem State.groupAt_bump (code n : Nat) (sc : EvScope) (k : Nat) : (s.bump code n sc).groupAt k = s.groupAt k := rfl
@[simp] theorem State.groupAt_hostWrite (port addr : Nat) (bytes : List Byte) (k : Nat) : (s.hostWrite port addr bytes).groupAt k = s.groupAt k := rfl
@[simp] theorem State.groupAt_sendMsix (vector : Nat) (k : Nat) : (s.sendMsix vector).groupAt k = s.groupAt k := rfl
@[simp] theorem State.groupAt_evtWrite (r : EvtRecord) (k : Nat) : (s.evtWrite r).groupAt k = s.groupAt k := by
  simp only [State.groupAt, State.evtWrite_lines]
@[simp] theorem State.groupAt_alarmRecord (r : EvtRecord) (k : Nat) : (s.alarmRecord r).groupAt k = s.groupAt k := by
  simp only [State.groupAt, State.alarmRecord_lines]
@[simp] theorem State.groupAt_evtDrain (k : Nat) : s.evtDrain.groupAt k = s.groupAt k := by
  simp only [State.groupAt, State.evtDrain_lines]
@[simp] theorem State.groupAt_raiseAlarm (code source detail : Nat) (k : Nat) : (s.raiseAlarm code source detail).groupAt k = s.groupAt k := by
  simp only [State.groupAt, State.raiseAlarm_lines]
@[simp] theorem State.groupAt_writeLog (code source detail : Nat) (k : Nat) : (s.writeLog code source detail).groupAt k = s.groupAt k := by
  simp only [State.groupAt, State.writeLog_lines]
@[simp] theorem State.groupAt_writeTrace (code source detail : Nat) (k : Nat) : (s.writeTrace code source detail).groupAt k = s.groupAt k := by
  simp only [State.groupAt, State.writeTrace_lines]
@[simp] theorem State.groupAt_mirror (n : Nat) (k : Nat) : (s.mirror n).groupAt k = s.groupAt k := by
  simp only [State.groupAt, State.mirror_lines]
@[simp] theorem State.groupAt_hold (n : Nat) (rec : CqRecord) (k : Nat) : (s.hold n rec).groupAt k = s.groupAt k := by
  simp only [State.groupAt, State.hold_lines]
@[simp] theorem State.groupAt_modDesc (n seq : Nat) (f : Desc → Desc) (k : Nat) : (s.modDesc n seq f).groupAt k = s.groupAt k := by
  simp only [State.groupAt, State.modDesc_lines]
@[simp] theorem State.groupAt_complete (n : Nat) (d : Desc) (x : Done) (k : Nat) : (s.complete n d x).groupAt k = s.groupAt k := by
  simp only [State.groupAt, State.complete_lines]
@[simp] theorem State.groupAt_tally (sess : Nat) (a b : List Nat) (k : Nat) : (s.tally sess a b).groupAt k = s.groupAt k := by
  simp only [State.groupAt, State.tally_lines]
@[simp] theorem State.groupAt_charge (sess : Nat) (job : Option Nat) (d : Account) (k : Nat) : (s.charge sess job d).groupAt k = s.groupAt k := by
  simp only [State.groupAt, State.charge_lines]
@[simp] theorem State.groupAt_send (port kind : Nat) (body : List Nat) (bytes : List Byte) (k : Nat) : (s.send port kind body bytes).groupAt k = s.groupAt k := by
  simp only [State.groupAt, State.send_lines]

/-! ### State.oscAt behind other operations -/

@[simp] theorem State.oscAt_setRing (n : Nat) (r : Ring) (k : Nat) : (s.setRing n r).oscAt k = s.oscAt k := rfl
@[simp] theorem State.oscAt_setSession (n : Nat) (x : Session) (k : Nat) : (s.setSession n x).oscAt k = s.oscAt k := rfl
@[simp] theorem State.oscAt_setModel (x : Model) (k : Nat) : (s.setModel x).oscAt k = s.oscAt k := rfl
@[simp] theorem State.oscAt_setStream (x : Stream) (k : Nat) : (s.setStream x).oscAt k = s.oscAt k := rfl
@[simp] theorem State.oscAt_setJob (x : Job) (k : Nat) : (s.setJob x).oscAt k = s.oscAt k := rfl
@[simp] theorem State.oscAt_setCore (c : Nat) (x : Core) (k : Nat) : (s.setCore c x).oscAt k = s.oscAt k := rfl
@[simp] theorem State.oscAt_setField (f : Nat) (x : Field) (k : Nat) : (s.setField f x).oscAt k = s.oscAt k := rfl
@[simp] theorem State.oscAt_setLink (l : Nat) (x : MeshLink) (k : Nat) : (s.setLink l x).oscAt k = s.oscAt k := rfl
@[simp] theorem State.oscAt_setUnit (u : Nat) (x : BurinUnit) (k : Nat) : (s.setUnit u x).oscAt k = s.oscAt k := rfl
@[simp] theorem State.oscAt_setDir (n d : Nat) (x : Direction) (k : Nat) : (s.setDir n d x).oscAt k = s.oscAt k := rfl
@[simp] theorem State.oscAt_setGroup (g : Nat) (x : Group) (k : Nat) : (s.setGroup g x).oscAt k = s.oscAt k := rfl
@[simp] theorem State.oscAt_setIhxPort (p : Nat) (x : IhxPort) (k : Nat) : (s.setIhxPort p x).oscAt k = s.oscAt k := rfl
@[simp] theorem State.oscAt_setMailbox (n : Nat) (m : Mailbox) (k : Nat) : (s.setMailbox n m).oscAt k = s.oscAt k := rfl
@[simp] theorem State.oscAt_setChan (c : Nat) (x : Channel) (k : Nat) : (s.setChan c x).oscAt k = s.oscAt k := rfl
@[simp] theorem State.oscAt_setPort (p : Nat) (x : Port) (k : Nat) : (s.setPort p x).oscAt k = s.oscAt k := rfl
@[simp] theorem State.oscAt_setLog (l : LogSource) (k : Nat) : (s.setLog l).oscAt k = s.oscAt k := rfl
@[simp] theorem State.oscAt_bump (code n : Nat) (sc : EvScope) (k : Nat) : (s.bump code n sc).oscAt k = s.oscAt k := rfl
@[simp] theorem State.oscAt_hostWrite (port addr : Nat) (bytes : List Byte) (k : Nat) : (s.hostWrite port addr bytes).oscAt k = s.oscAt k := rfl
@[simp] theorem State.oscAt_sendMsix (vector : Nat) (k : Nat) : (s.sendMsix vector).oscAt k = s.oscAt k := rfl
@[simp] theorem State.oscAt_evtWrite (r : EvtRecord) (k : Nat) : (s.evtWrite r).oscAt k = s.oscAt k := by
  simp only [State.oscAt, State.evtWrite_lines]
@[simp] theorem State.oscAt_alarmRecord (r : EvtRecord) (k : Nat) : (s.alarmRecord r).oscAt k = s.oscAt k := by
  simp only [State.oscAt, State.alarmRecord_lines]
@[simp] theorem State.oscAt_evtDrain (k : Nat) : s.evtDrain.oscAt k = s.oscAt k := by
  simp only [State.oscAt, State.evtDrain_lines]
@[simp] theorem State.oscAt_raiseAlarm (code source detail : Nat) (k : Nat) : (s.raiseAlarm code source detail).oscAt k = s.oscAt k := by
  simp only [State.oscAt, State.raiseAlarm_lines]
@[simp] theorem State.oscAt_writeLog (code source detail : Nat) (k : Nat) : (s.writeLog code source detail).oscAt k = s.oscAt k := by
  simp only [State.oscAt, State.writeLog_lines]
@[simp] theorem State.oscAt_writeTrace (code source detail : Nat) (k : Nat) : (s.writeTrace code source detail).oscAt k = s.oscAt k := by
  simp only [State.oscAt, State.writeTrace_lines]
@[simp] theorem State.oscAt_mirror (n : Nat) (k : Nat) : (s.mirror n).oscAt k = s.oscAt k := by
  simp only [State.oscAt, State.mirror_lines]
@[simp] theorem State.oscAt_hold (n : Nat) (rec : CqRecord) (k : Nat) : (s.hold n rec).oscAt k = s.oscAt k := by
  simp only [State.oscAt, State.hold_lines]
@[simp] theorem State.oscAt_modDesc (n seq : Nat) (f : Desc → Desc) (k : Nat) : (s.modDesc n seq f).oscAt k = s.oscAt k := by
  simp only [State.oscAt, State.modDesc_lines]
@[simp] theorem State.oscAt_complete (n : Nat) (d : Desc) (x : Done) (k : Nat) : (s.complete n d x).oscAt k = s.oscAt k := by
  simp only [State.oscAt, State.complete_lines]
@[simp] theorem State.oscAt_tally (sess : Nat) (a b : List Nat) (k : Nat) : (s.tally sess a b).oscAt k = s.oscAt k := by
  simp only [State.oscAt, State.tally_lines]
@[simp] theorem State.oscAt_charge (sess : Nat) (job : Option Nat) (d : Account) (k : Nat) : (s.charge sess job d).oscAt k = s.oscAt k := by
  simp only [State.oscAt, State.charge_lines]
@[simp] theorem State.oscAt_send (port kind : Nat) (body : List Nat) (bytes : List Byte) (k : Nat) : (s.send port kind body bytes).oscAt k = s.oscAt k := by
  simp only [State.oscAt, State.send_lines]

/-! ### State.ihxPort behind other operations -/

@[simp] theorem State.ihxPort_setRing (n : Nat) (r : Ring) (k : Nat) : (s.setRing n r).ihxPort k = s.ihxPort k := rfl
@[simp] theorem State.ihxPort_setSession (n : Nat) (x : Session) (k : Nat) : (s.setSession n x).ihxPort k = s.ihxPort k := rfl
@[simp] theorem State.ihxPort_setModel (x : Model) (k : Nat) : (s.setModel x).ihxPort k = s.ihxPort k := rfl
@[simp] theorem State.ihxPort_setStream (x : Stream) (k : Nat) : (s.setStream x).ihxPort k = s.ihxPort k := rfl
@[simp] theorem State.ihxPort_setJob (x : Job) (k : Nat) : (s.setJob x).ihxPort k = s.ihxPort k := rfl
@[simp] theorem State.ihxPort_setCore (c : Nat) (x : Core) (k : Nat) : (s.setCore c x).ihxPort k = s.ihxPort k := rfl
@[simp] theorem State.ihxPort_setField (f : Nat) (x : Field) (k : Nat) : (s.setField f x).ihxPort k = s.ihxPort k := rfl
@[simp] theorem State.ihxPort_setLink (l : Nat) (x : MeshLink) (k : Nat) : (s.setLink l x).ihxPort k = s.ihxPort k := rfl
@[simp] theorem State.ihxPort_setUnit (u : Nat) (x : BurinUnit) (k : Nat) : (s.setUnit u x).ihxPort k = s.ihxPort k := rfl
@[simp] theorem State.ihxPort_setDir (n d : Nat) (x : Direction) (k : Nat) : (s.setDir n d x).ihxPort k = s.ihxPort k := rfl
@[simp] theorem State.ihxPort_setGroup (g : Nat) (x : Group) (k : Nat) : (s.setGroup g x).ihxPort k = s.ihxPort k := rfl
@[simp] theorem State.ihxPort_setOsc (n : Nat) (x : Osc) (k : Nat) : (s.setOsc n x).ihxPort k = s.ihxPort k := rfl
@[simp] theorem State.ihxPort_setMailbox (n : Nat) (m : Mailbox) (k : Nat) : (s.setMailbox n m).ihxPort k = s.ihxPort k := rfl
@[simp] theorem State.ihxPort_setChan (c : Nat) (x : Channel) (k : Nat) : (s.setChan c x).ihxPort k = s.ihxPort k := rfl
@[simp] theorem State.ihxPort_setPort (p : Nat) (x : Port) (k : Nat) : (s.setPort p x).ihxPort k = s.ihxPort k := rfl
@[simp] theorem State.ihxPort_setLog (l : LogSource) (k : Nat) : (s.setLog l).ihxPort k = s.ihxPort k := rfl
@[simp] theorem State.ihxPort_bump (code n : Nat) (sc : EvScope) (k : Nat) : (s.bump code n sc).ihxPort k = s.ihxPort k := rfl
@[simp] theorem State.ihxPort_hostWrite (port addr : Nat) (bytes : List Byte) (k : Nat) : (s.hostWrite port addr bytes).ihxPort k = s.ihxPort k := rfl
@[simp] theorem State.ihxPort_sendMsix (vector : Nat) (k : Nat) : (s.sendMsix vector).ihxPort k = s.ihxPort k := rfl
@[simp] theorem State.ihxPort_evtWrite (r : EvtRecord) (k : Nat) : (s.evtWrite r).ihxPort k = s.ihxPort k := by
  simp only [State.ihxPort, State.evtWrite_ihx]
@[simp] theorem State.ihxPort_alarmRecord (r : EvtRecord) (k : Nat) : (s.alarmRecord r).ihxPort k = s.ihxPort k := by
  simp only [State.ihxPort, State.alarmRecord_ihx]
@[simp] theorem State.ihxPort_evtDrain (k : Nat) : s.evtDrain.ihxPort k = s.ihxPort k := by
  simp only [State.ihxPort, State.evtDrain_ihx]
@[simp] theorem State.ihxPort_raiseAlarm (code source detail : Nat) (k : Nat) : (s.raiseAlarm code source detail).ihxPort k = s.ihxPort k := by
  simp only [State.ihxPort, State.raiseAlarm_ihx]
@[simp] theorem State.ihxPort_writeLog (code source detail : Nat) (k : Nat) : (s.writeLog code source detail).ihxPort k = s.ihxPort k := by
  simp only [State.ihxPort, State.writeLog_ihx]
@[simp] theorem State.ihxPort_writeTrace (code source detail : Nat) (k : Nat) : (s.writeTrace code source detail).ihxPort k = s.ihxPort k := by
  simp only [State.ihxPort, State.writeTrace_ihx]
@[simp] theorem State.ihxPort_mirror (n : Nat) (k : Nat) : (s.mirror n).ihxPort k = s.ihxPort k := by
  simp only [State.ihxPort, State.mirror_ihx]
@[simp] theorem State.ihxPort_hold (n : Nat) (rec : CqRecord) (k : Nat) : (s.hold n rec).ihxPort k = s.ihxPort k := by
  simp only [State.ihxPort, State.hold_ihx]
@[simp] theorem State.ihxPort_modDesc (n seq : Nat) (f : Desc → Desc) (k : Nat) : (s.modDesc n seq f).ihxPort k = s.ihxPort k := by
  simp only [State.ihxPort, State.modDesc_ihx]
@[simp] theorem State.ihxPort_complete (n : Nat) (d : Desc) (x : Done) (k : Nat) : (s.complete n d x).ihxPort k = s.ihxPort k := by
  simp only [State.ihxPort, State.complete_ihx]
@[simp] theorem State.ihxPort_tally (sess : Nat) (a b : List Nat) (k : Nat) : (s.tally sess a b).ihxPort k = s.ihxPort k := by
  simp only [State.ihxPort, State.tally_ihx]
@[simp] theorem State.ihxPort_charge (sess : Nat) (job : Option Nat) (d : Account) (k : Nat) : (s.charge sess job d).ihxPort k = s.ihxPort k := by
  simp only [State.ihxPort, State.charge_ihx]

/-! ### State.mailbox behind other operations -/

@[simp] theorem State.mailbox_setRing (n : Nat) (r : Ring) (k : Nat) : (s.setRing n r).mailbox k = s.mailbox k := rfl
@[simp] theorem State.mailbox_setSession (n : Nat) (x : Session) (k : Nat) : (s.setSession n x).mailbox k = s.mailbox k := rfl
@[simp] theorem State.mailbox_setModel (x : Model) (k : Nat) : (s.setModel x).mailbox k = s.mailbox k := rfl
@[simp] theorem State.mailbox_setStream (x : Stream) (k : Nat) : (s.setStream x).mailbox k = s.mailbox k := rfl
@[simp] theorem State.mailbox_setJob (x : Job) (k : Nat) : (s.setJob x).mailbox k = s.mailbox k := rfl
@[simp] theorem State.mailbox_setCore (c : Nat) (x : Core) (k : Nat) : (s.setCore c x).mailbox k = s.mailbox k := rfl
@[simp] theorem State.mailbox_setField (f : Nat) (x : Field) (k : Nat) : (s.setField f x).mailbox k = s.mailbox k := rfl
@[simp] theorem State.mailbox_setLink (l : Nat) (x : MeshLink) (k : Nat) : (s.setLink l x).mailbox k = s.mailbox k := rfl
@[simp] theorem State.mailbox_setUnit (u : Nat) (x : BurinUnit) (k : Nat) : (s.setUnit u x).mailbox k = s.mailbox k := rfl
@[simp] theorem State.mailbox_setDir (n d : Nat) (x : Direction) (k : Nat) : (s.setDir n d x).mailbox k = s.mailbox k := rfl
@[simp] theorem State.mailbox_setGroup (g : Nat) (x : Group) (k : Nat) : (s.setGroup g x).mailbox k = s.mailbox k := rfl
@[simp] theorem State.mailbox_setOsc (n : Nat) (x : Osc) (k : Nat) : (s.setOsc n x).mailbox k = s.mailbox k := rfl
@[simp] theorem State.mailbox_setIhxPort (p : Nat) (x : IhxPort) (k : Nat) : (s.setIhxPort p x).mailbox k = s.mailbox k := rfl
@[simp] theorem State.mailbox_setChan (c : Nat) (x : Channel) (k : Nat) : (s.setChan c x).mailbox k = s.mailbox k := rfl
@[simp] theorem State.mailbox_setPort (p : Nat) (x : Port) (k : Nat) : (s.setPort p x).mailbox k = s.mailbox k := rfl
@[simp] theorem State.mailbox_setLog (l : LogSource) (k : Nat) : (s.setLog l).mailbox k = s.mailbox k := rfl
@[simp] theorem State.mailbox_bump (code n : Nat) (sc : EvScope) (k : Nat) : (s.bump code n sc).mailbox k = s.mailbox k := rfl
@[simp] theorem State.mailbox_hostWrite (port addr : Nat) (bytes : List Byte) (k : Nat) : (s.hostWrite port addr bytes).mailbox k = s.mailbox k := rfl
@[simp] theorem State.mailbox_sendMsix (vector : Nat) (k : Nat) : (s.sendMsix vector).mailbox k = s.mailbox k := rfl
@[simp] theorem State.mailbox_evtWrite (r : EvtRecord) (k : Nat) : (s.evtWrite r).mailbox k = s.mailbox k := by
  simp only [State.mailbox, State.evtWrite_mbx]
@[simp] theorem State.mailbox_alarmRecord (r : EvtRecord) (k : Nat) : (s.alarmRecord r).mailbox k = s.mailbox k := by
  simp only [State.mailbox, State.alarmRecord_mbx]
@[simp] theorem State.mailbox_evtDrain (k : Nat) : s.evtDrain.mailbox k = s.mailbox k := by
  simp only [State.mailbox, State.evtDrain_mbx]
@[simp] theorem State.mailbox_raiseAlarm (code source detail : Nat) (k : Nat) : (s.raiseAlarm code source detail).mailbox k = s.mailbox k := by
  simp only [State.mailbox, State.raiseAlarm_mbx]
@[simp] theorem State.mailbox_writeLog (code source detail : Nat) (k : Nat) : (s.writeLog code source detail).mailbox k = s.mailbox k := by
  simp only [State.mailbox, State.writeLog_mbx]
@[simp] theorem State.mailbox_writeTrace (code source detail : Nat) (k : Nat) : (s.writeTrace code source detail).mailbox k = s.mailbox k := by
  simp only [State.mailbox, State.writeTrace_mbx]
@[simp] theorem State.mailbox_mirror (n : Nat) (k : Nat) : (s.mirror n).mailbox k = s.mailbox k := by
  simp only [State.mailbox, State.mirror_mbx]
@[simp] theorem State.mailbox_hold (n : Nat) (rec : CqRecord) (k : Nat) : (s.hold n rec).mailbox k = s.mailbox k := by
  simp only [State.mailbox, State.hold_mbx]
@[simp] theorem State.mailbox_modDesc (n seq : Nat) (f : Desc → Desc) (k : Nat) : (s.modDesc n seq f).mailbox k = s.mailbox k := by
  simp only [State.mailbox, State.modDesc_mbx]
@[simp] theorem State.mailbox_complete (n : Nat) (d : Desc) (x : Done) (k : Nat) : (s.complete n d x).mailbox k = s.mailbox k := by
  simp only [State.mailbox, State.complete_mbx]
@[simp] theorem State.mailbox_tally (sess : Nat) (a b : List Nat) (k : Nat) : (s.tally sess a b).mailbox k = s.mailbox k := by
  simp only [State.mailbox, State.tally_mbx]
@[simp] theorem State.mailbox_charge (sess : Nat) (job : Option Nat) (d : Account) (k : Nat) : (s.charge sess job d).mailbox k = s.mailbox k := by
  simp only [State.mailbox, State.charge_mbx]
@[simp] theorem State.mailbox_send (port kind : Nat) (body : List Nat) (bytes : List Byte) (k : Nat) : (s.send port kind body bytes).mailbox k = s.mailbox k := by
  simp only [State.mailbox, State.send_mbx]

/-! ### State.chan behind other operations -/

@[simp] theorem State.chan_setRing (n : Nat) (r : Ring) (k : Nat) : (s.setRing n r).chan k = s.chan k := rfl
@[simp] theorem State.chan_setSession (n : Nat) (x : Session) (k : Nat) : (s.setSession n x).chan k = s.chan k := rfl
@[simp] theorem State.chan_setModel (x : Model) (k : Nat) : (s.setModel x).chan k = s.chan k := rfl
@[simp] theorem State.chan_setStream (x : Stream) (k : Nat) : (s.setStream x).chan k = s.chan k := rfl
@[simp] theorem State.chan_setJob (x : Job) (k : Nat) : (s.setJob x).chan k = s.chan k := rfl
@[simp] theorem State.chan_setCore (c : Nat) (x : Core) (k : Nat) : (s.setCore c x).chan k = s.chan k := rfl
@[simp] theorem State.chan_setField (f : Nat) (x : Field) (k : Nat) : (s.setField f x).chan k = s.chan k := rfl
@[simp] theorem State.chan_setLink (l : Nat) (x : MeshLink) (k : Nat) : (s.setLink l x).chan k = s.chan k := rfl
@[simp] theorem State.chan_setUnit (u : Nat) (x : BurinUnit) (k : Nat) : (s.setUnit u x).chan k = s.chan k := rfl
@[simp] theorem State.chan_setDir (n d : Nat) (x : Direction) (k : Nat) : (s.setDir n d x).chan k = s.chan k := rfl
@[simp] theorem State.chan_setGroup (g : Nat) (x : Group) (k : Nat) : (s.setGroup g x).chan k = s.chan k := rfl
@[simp] theorem State.chan_setOsc (n : Nat) (x : Osc) (k : Nat) : (s.setOsc n x).chan k = s.chan k := rfl
@[simp] theorem State.chan_setIhxPort (p : Nat) (x : IhxPort) (k : Nat) : (s.setIhxPort p x).chan k = s.chan k := rfl
@[simp] theorem State.chan_setMailbox (n : Nat) (m : Mailbox) (k : Nat) : (s.setMailbox n m).chan k = s.chan k := rfl
@[simp] theorem State.chan_setPort (p : Nat) (x : Port) (k : Nat) : (s.setPort p x).chan k = s.chan k := rfl
@[simp] theorem State.chan_setLog (l : LogSource) (k : Nat) : (s.setLog l).chan k = s.chan k := rfl
@[simp] theorem State.chan_bump (code n : Nat) (sc : EvScope) (k : Nat) : (s.bump code n sc).chan k = s.chan k := rfl
@[simp] theorem State.chan_hostWrite (port addr : Nat) (bytes : List Byte) (k : Nat) : (s.hostWrite port addr bytes).chan k = s.chan k := rfl
@[simp] theorem State.chan_sendMsix (vector : Nat) (k : Nat) : (s.sendMsix vector).chan k = s.chan k := rfl
@[simp] theorem State.chan_evtWrite (r : EvtRecord) (k : Nat) : (s.evtWrite r).chan k = s.chan k := by
  simp only [State.chan, State.evtWrite_mem]
@[simp] theorem State.chan_alarmRecord (r : EvtRecord) (k : Nat) : (s.alarmRecord r).chan k = s.chan k := by
  simp only [State.chan, State.alarmRecord_mem]
@[simp] theorem State.chan_evtDrain (k : Nat) : s.evtDrain.chan k = s.chan k := by
  simp only [State.chan, State.evtDrain_mem]
@[simp] theorem State.chan_raiseAlarm (code source detail : Nat) (k : Nat) : (s.raiseAlarm code source detail).chan k = s.chan k := by
  simp only [State.chan, State.raiseAlarm_mem]
@[simp] theorem State.chan_writeLog (code source detail : Nat) (k : Nat) : (s.writeLog code source detail).chan k = s.chan k := by
  simp only [State.chan, State.writeLog_mem]
@[simp] theorem State.chan_writeTrace (code source detail : Nat) (k : Nat) : (s.writeTrace code source detail).chan k = s.chan k := by
  simp only [State.chan, State.writeTrace_mem]
@[simp] theorem State.chan_mirror (n : Nat) (k : Nat) : (s.mirror n).chan k = s.chan k := by
  simp only [State.chan, State.mirror_mem]
@[simp] theorem State.chan_hold (n : Nat) (rec : CqRecord) (k : Nat) : (s.hold n rec).chan k = s.chan k := by
  simp only [State.chan, State.hold_mem]
@[simp] theorem State.chan_modDesc (n seq : Nat) (f : Desc → Desc) (k : Nat) : (s.modDesc n seq f).chan k = s.chan k := by
  simp only [State.chan, State.modDesc_mem]
@[simp] theorem State.chan_complete (n : Nat) (d : Desc) (x : Done) (k : Nat) : (s.complete n d x).chan k = s.chan k := by
  simp only [State.chan, State.complete_mem]
@[simp] theorem State.chan_tally (sess : Nat) (a b : List Nat) (k : Nat) : (s.tally sess a b).chan k = s.chan k := by
  simp only [State.chan, State.tally_mem]
@[simp] theorem State.chan_charge (sess : Nat) (job : Option Nat) (d : Account) (k : Nat) : (s.charge sess job d).chan k = s.chan k := by
  simp only [State.chan, State.charge_mem]
@[simp] theorem State.chan_send (port kind : Nat) (body : List Nat) (bytes : List Byte) (k : Nat) : (s.send port kind body bytes).chan k = s.chan k := by
  simp only [State.chan, State.send_mem]

/-! ### State.counter behind other operations -/

@[simp] theorem State.counter_setRing (n : Nat) (r : Ring) (k : Nat) : (s.setRing n r).counter k = s.counter k := rfl
@[simp] theorem State.counter_setSession (n : Nat) (x : Session) (k : Nat) : (s.setSession n x).counter k = s.counter k := rfl
@[simp] theorem State.counter_setModel (x : Model) (k : Nat) : (s.setModel x).counter k = s.counter k := rfl
@[simp] theorem State.counter_setStream (x : Stream) (k : Nat) : (s.setStream x).counter k = s.counter k := rfl
@[simp] theorem State.counter_setJob (x : Job) (k : Nat) : (s.setJob x).counter k = s.counter k := rfl
@[simp] theorem State.counter_setCore (c : Nat) (x : Core) (k : Nat) : (s.setCore c x).counter k = s.counter k := rfl
@[simp] theorem State.counter_setField (f : Nat) (x : Field) (k : Nat) : (s.setField f x).counter k = s.counter k := rfl
@[simp] theorem State.counter_setLink (l : Nat) (x : MeshLink) (k : Nat) : (s.setLink l x).counter k = s.counter k := rfl
@[simp] theorem State.counter_setUnit (u : Nat) (x : BurinUnit) (k : Nat) : (s.setUnit u x).counter k = s.counter k := rfl
@[simp] theorem State.counter_setDir (n d : Nat) (x : Direction) (k : Nat) : (s.setDir n d x).counter k = s.counter k := rfl
@[simp] theorem State.counter_setGroup (g : Nat) (x : Group) (k : Nat) : (s.setGroup g x).counter k = s.counter k := rfl
@[simp] theorem State.counter_setOsc (n : Nat) (x : Osc) (k : Nat) : (s.setOsc n x).counter k = s.counter k := rfl
@[simp] theorem State.counter_setIhxPort (p : Nat) (x : IhxPort) (k : Nat) : (s.setIhxPort p x).counter k = s.counter k := rfl
@[simp] theorem State.counter_setMailbox (n : Nat) (m : Mailbox) (k : Nat) : (s.setMailbox n m).counter k = s.counter k := rfl
@[simp] theorem State.counter_setChan (c : Nat) (x : Channel) (k : Nat) : (s.setChan c x).counter k = s.counter k := rfl
@[simp] theorem State.counter_setPort (p : Nat) (x : Port) (k : Nat) : (s.setPort p x).counter k = s.counter k := rfl
@[simp] theorem State.counter_setLog (l : LogSource) (k : Nat) : (s.setLog l).counter k = s.counter k := rfl
@[simp] theorem State.counter_sendMsix (vector : Nat) (k : Nat) : (s.sendMsix vector).counter k = s.counter k := rfl
@[simp] theorem State.counter_hold (n : Nat) (rec : CqRecord) (k : Nat) : (s.hold n rec).counter k = s.counter k := by
  simp only [State.counter, State.hold_cnt]
@[simp] theorem State.counter_modDesc (n seq : Nat) (f : Desc → Desc) (k : Nat) : (s.modDesc n seq f).counter k = s.counter k := by
  simp only [State.counter, State.modDesc_cnt]
@[simp] theorem State.counter_complete (n : Nat) (d : Desc) (x : Done) (k : Nat) : (s.complete n d x).counter k = s.counter k := by
  simp only [State.counter, State.complete_cnt]
@[simp] theorem State.counter_tally (sess : Nat) (a b : List Nat) (k : Nat) : (s.tally sess a b).counter k = s.counter k := by
  simp only [State.counter, State.tally_cnt]
@[simp] theorem State.counter_charge (sess : Nat) (job : Option Nat) (d : Account) (k : Nat) : (s.charge sess job d).counter k = s.counter k := by
  simp only [State.counter, State.charge_cnt]
@[simp] theorem State.counter_send (port kind : Nat) (body : List Nat) (bytes : List Byte) (k : Nat) : (s.send port kind body bytes).counter k = s.counter k := by
  simp only [State.counter, State.send_cnt]

/-! ### Reading what was set -/

@[simp] theorem State.session_setSession (n : Nat) (x : Session) : (s.setSession n x).session n = some x := tabGet_tabSet_same s.sessions n x
theorem State.session_setSession_other {n k : Nat} (x : Session) (h : k ≠ n) : (s.setSession n x).session k = s.session k :=
  tabGet_tabSet_other s.sessions x h
@[simp] theorem State.meshLink_setLink (l : Nat) (x : MeshLink) : (s.setLink l x).meshLink l = x := by
  simp [State.setLink, State.meshLink, tabGet_tabSet_same]
theorem State.meshLink_setLink_other {l k : Nat} (x : MeshLink) (h : k ≠ l) : (s.setLink l x).meshLink k = s.meshLink k := by
  simp [State.setLink, State.meshLink, tabGet_tabSet_other _ _ h]
@[simp] theorem State.field_setField (f : Nat) (x : Field) : (s.setField f x).field f = x := by
  simp [State.setField, State.field, tabGet_tabSet_same]
theorem State.field_setField_other {f k : Nat} (x : Field) (h : k ≠ f) : (s.setField f x).field k = s.field k := by
  simp [State.setField, State.field, tabGet_tabSet_other _ _ h]
theorem State.unit_setUnit_other {u k : Nat} (x : BurinUnit) (h : k ≠ u) : (s.setUnit u x).unit k = s.unit k := by
  simp [State.setUnit, State.unit, tabGet_tabSet_other _ _ h]
theorem State.groupAt_setGroup_other {g k : Nat} (x : Group) (h : k ≠ g) : (s.setGroup g x).groupAt k = s.groupAt k := by
  simp [State.setGroup, State.groupAt, tabGet_tabSet_other _ _ h]
@[simp] theorem State.oscAt_setOsc (n : Nat) (x : Osc) : (s.setOsc n x).oscAt n = x := by
  simp [State.setOsc, State.oscAt, tabGet_tabSet_same]
theorem State.oscAt_setOsc_other {n k : Nat} (x : Osc) (h : k ≠ n) : (s.setOsc n x).oscAt k = s.oscAt k := by
  simp [State.setOsc, State.oscAt, tabGet_tabSet_other _ _ h]
theorem State.ihxPort_setIhxPort_other {p k : Nat} (x : IhxPort) (h : k ≠ p) : (s.setIhxPort p x).ihxPort k = s.ihxPort k := by
  simp [State.setIhxPort, State.ihxPort, tabGet_tabSet_other _ _ h]
@[simp] theorem State.mailbox_setMailbox (n : Nat) (m : Mailbox) : (s.setMailbox n m).mailbox n = m := by
  simp [State.setMailbox, State.mailbox, tabGet_tabSet_same]
theorem State.mailbox_setMailbox_other {n k : Nat} (m : Mailbox) (h : k ≠ n) : (s.setMailbox n m).mailbox k = s.mailbox k := by
  simp [State.setMailbox, State.mailbox, tabGet_tabSet_other _ _ h]
@[simp] theorem State.chan_setChan (c : Nat) (x : Channel) : (s.setChan c x).chan c = x := by
  simp [State.setChan, State.chan, tabGet_tabSet_same]
theorem State.chan_setChan_other {c k : Nat} (x : Channel) (h : k ≠ c) : (s.setChan c x).chan k = s.chan k := by
  simp [State.setChan, State.chan, tabGet_tabSet_other _ _ h]
theorem dirKey (k : Nat) : 2 * (k / 2) + k % 2 = k := by omega
@[simp] theorem State.dirAt_setDirAt (k : Nat) (x : Direction) : (s.setDirAt k x).dirAt k = x := by
  simp [State.setDirAt, State.dirAt]
theorem State.dirAt_setDirAt_other {n k : Nat} (x : Direction) (h : k ≠ n) : (s.setDirAt n x).dirAt k = s.dirAt k := by
  simp only [State.setDirAt, State.dirAt, State.setDir, State.dir, dirKey]
  rw [tabGet_tabSet_other _ _ h]
/-- A line direction by its number. -/
theorem State.dirAt_of_dir (n d : Nat) : s.dirAt (2 * n + d) = s.dir n d := by
  simp only [State.dirAt, State.dir, dirKey]
/-- The newest record of a ring behind a completion, and the descriptors still accepted (12 R377). -/
theorem State.complete_retired (n : Nat) (d : Desc) (x : Done) : Retired (s.complete n d x) n d x := by
  refine ⟨⟨s.tb.sub, ?_⟩, ?_⟩
  · simp [State.complete, State.hold]
  · intro e he
    simp [State.complete, State.hold] at he
    exact he.2
theorem State.complete_ring_other {n k : Nat} (d : Desc) (x : Done) (h : k ≠ n) : (s.complete n d x).ring k = s.ring k := by
  simp only [State.complete, State.hold]
  rw [State.ring_setRing_other _ _ h, State.ring_setRing_other _ _ h]

end Sys2Proof.Machine
end

