-- ==== Sys2Proof/Tests/Slice0.lean ====
section
/-! SUPPORT. Tests of the model: the checks of `WellFormed`, small steps with results read from the spec, and for every statement of
Certificates/Slice0 states and operands that meet its hypotheses. -/

set_option Elab.async false

namespace Sys2Proof.Tests

open Sys2Proof Sys2Proof.Machine

/-! ### Small states -/

/-- READY, with port 0 trained and the timebase running. -/
def up : State := { State.reset with
  boot := { State.reset.boot with phase := .ready }
  tb := { State.reset.tb with running := true }
  rmk := { State.reset.rmk with port0 := ⟨true, 8, 3, 0, true⟩, dbValid := true } }

/-- Another phase of bring-up. -/
def at_ (p : Phase) : State := { up with boot := { up.boot with phase := p } }

/-- The last sample tick of a Frame has passed. -/
def ending : State := { up with tb := { up.tb with ticks := 240 } }

/-- A bound ring 0. -/
def ring0 : Ring := { Ring.init with state := .bound }

/-- `up` with ring 0 as given. -/
def onRing (r : Ring) : State := up.setRing 0 r

/-- Descriptor number 1 of ring 0: 64 bytes that begin with the given ones, the rest zero. -/
def descOf (b : List Byte) : Desc := { fetchedDesc 0 (b ++ zeros (64 - b.length)) with seq := 1, accepted := true }

/-- A state with descriptors accepted on ring 0. -/
def State.holding (s : State) (ds : List Desc) : State := s.setRing 0 { ring0 with accepted := ds }

/-- Whether an outcome is a next state that meets a test. -/
def nextIs (o : Host.Outcome State Fault Refusal) (p : State → Bool) : Bool :=
  match o with
  | .next t => p t
  | _ => false

/-- A clear image: one head layer, one cost record (Summer, 16 kHz), one link, one stroke with a list of four Tracer entries: MARK,
COPY, CHAIN_RECV, and a COPY that is too long for its source (03 R94 to R97, 09 R260 to R263). -/
def image : List Byte :=
  leBytes 4 0x4B4A4D46 ++ zeros 4 ++ zeros 64 ++ leBytes 1 2 ++ leBytes 1 2 ++ zeros 2 ++ leBytes 2 1 ++ leBytes 2 1
  ++ leBytes 4 1 ++ leBytes 2 1 ++ leBytes 2 100 ++ leBytes 4 100 ++ leBytes 4 68 ++ zeros 4
  ++ leBytes 4 128 ++ leBytes 4 160 ++ leBytes 4 208 ++ leBytes 4 400 ++ leBytes 4 464 ++ zeros 8
  ++ (zeros 2 ++ leBytes 1 7 ++ leBytes 1 1 ++ zeros 8 ++ leBytes 4 68 ++ zeros 2 ++ leBytes 2 3 ++ zeros 12)
  ++ (leBytes 1 1 ++ leBytes 1 1 ++ zeros 2 ++ leBytes 4 1000 ++ leBytes 4 1000 ++ leBytes 4 1 ++ leBytes 4 1 ++ zeros 12
    ++ leBytes 1 255 ++ zeros 15)
  ++ (leBytes 2 1 ++ leBytes 2 1 ++ leBytes 4 16 ++ leBytes 4 32 ++ zeros 4)
  ++ (zeros 2 ++ leBytes 1 4 ++ zeros 13)
  ++ (zeros 8 ++ leBytes 4 64 ++ leBytes 2 4 ++ zeros 18)
  ++ zeros 32
  ++ (leBytes 1 1 ++ zeros 1 ++ leBytes 1 0x10 ++ zeros 1 ++ leBytes 4 64 ++ zeros 24)
  ++ (leBytes 1 3 ++ zeros 1 ++ leBytes 1 0x40 ++ zeros 1 ++ leBytes 4 64 ++ zeros 24)
  ++ (leBytes 1 1 ++ zeros 1 ++ leBytes 1 0x10 ++ zeros 1 ++ leBytes 4 1048576 ++ zeros 24)
  ++ zeros 64

/-- Voice model 7 of session 0. -/
def model7 : Model := ⟨7, 0, image, [], 1, none, false, .cold, 13, 0⟩

/-- Session 0. -/
def session0 : Session :=
  ⟨0, zeros 16, [], [], [], [], 0, false, 0, 0, 0, 0, 0, 0, 0, 0, Account.zero⟩

/-- Stream 5 of session 0 with model 7 at 16 kHz, for job 3. -/
def stream5 : Stream := { freshStream up 5 0 model7 1 0 0 0 with job := 3 }

/-- Live job 3 of session 0 on cores 0 and 1, with stream 5 in its row 0. -/
def job3 : Job where
  id := 3
  fill := false
  kind := .streams
  state := .bound
  session := 0
  handle := 7
  rate := 1
  cores := [0, 1]
  more := []
  maxCores := 4
  rows := [5]
  windows := List.replicate 2 [⟨64, 0x4C000, true, true⟩, ⟨0, 64, false, false⟩]
  shared := []
  pairs := [(0, [(0, 2)]), (1, [(0, 2)])]
  seed := 0
  key := 0
  optStep := 0
  steps := 0
  workFrame := 0
  output := []
  input := []
  save := none
  remotes := []
  credits := 0
  nextTag := 0
  home := none
  away := none
  account := Account.zero
  issued := []
  plans := []
  work := []
  walks := []
  again := []
  condDone := false
  lastRan := 0
  waits := 0
  switch := (0, 0, 0)
  frostNext := false
  ik := (0, 0, 0)

/-- A core of job 3. -/
def core3 : Core := { Core.init with jobs := [3] }

/-- `up` with 18 cores in field 0, session 0, model 7, stream 5 and job 3 on cores 0 and 1. -/
def work : State := { up with
  cap := { up.cap with fieldCores := [18] }
  sessions := [(0, session0)]
  models := [(7, model7)]
  streams := [(5, stream5)]
  jobs := [(3, job3)]
  hatch := { up.hatch with cores := [(0, core3), (1, core3)] } }

/-! ### Hypotheses that can be met: queue, supply, bring-up, timebase -/

theorem witness_StepRunsTheFrontCommand : up.pending = [] ∧ State.reset.pending = [] := by decide

theorem witness_OnlyOvervoltageStops :
    6000 < supplyVolts (.coldStart 6001) ∧ supplyVolts (.coldStart 6000) ≤ 6000 ∧ supplyVolts .sampleTick ≤ 6000 := by decide

/-- For the statements about every command that answers a next state, and, with the lock set, about the locked policy. -/
theorem witness_CommandsTouchOnlyTheirBlocks : ∃ t, exec (.pwrCapWrite 0 30) up = .next t ∧ t.pwr.capSteps = 30 := ⟨_, rfl, by decide⟩

theorem witness_FusesAndLockedPolicyAreKept :
    (∃ t, exec (.pwrCapWrite 0 30) { up with proof := { up.proof with locked := true } } = .next t ∧ t.proof.locked = true) ∧
    nextIs (exec (.commitSvn 0 9) { up with proof := { up.proof with svn := 9 } }) (fun t => t.part.rollback == 9) = true :=
  ⟨⟨_, rfl, by decide⟩, by decide +kernel⟩

theorem witness_BootStateEdges : ∃ t, exec (.resetHoldEnd 4800) State.reset = .next t ∧ t.boot.phase = .wake := ⟨_, rfl, by decide⟩

theorem witness_FrameCounterRule : nextIs (exec (.frameTick 0) ending) (fun t => t.tb.frame == 1) = true := by
  decide +kernel

theorem witness_EveryStepKeepsTheInvariant : 
    ending.Inv ∧ ∃ t, step { ending with pending := [.thermalTrip] } = .next t :=
  ⟨⟨by decide, by decide, by decide, by decide, by decide, by decide, (by intro p h; cases h), by decide, by decide, by decide, by decide,
    by decide, by decide, (by intro h; cases h), by decide, by decide, ⟨by decide, by intro n h; cases h⟩, (by intro c h; cases h)⟩, _, rfl⟩

/-- A module without power. -/
def dark : State := { State.reset with boot := { State.reset.boot with powered := false } }

theorem witness_PowerOnResets :
    (dark.boot.powered = false ∧ (3000 : Nat) ≤ 3000 ∧ 6000 ≤ (6000 : Nat)) ∧
    (up.writable 0 .reset = true ∧ fld 0x1C1EA 15 0 = 0xC1EA ∧ bitOf 0x1C1EA 16 = true) ∧
    (up.boot.powered = true ∧ up.boot.phase ≠ .reset ∧ up.boot.tripped = false ∧ (3000 : Nat) ≤ 3000 ∧ (4199 : Nat) < 4200) := by
  decide

/-- Self tests that find nothing wrong. -/
def clean : CoresReport := ⟨[], [], [], [], false, false⟩

theorem witness_BringUp :
    (State.reset.boot.phase = .reset ∧ State.reset.boot.powered = true ∧ State.reset.boot.tripped = false ∧ (4800 : Nat) ≤ 4800) ∧
    (at_ .wake).boot.phase = .wake ∧ (at_ .verify).boot.phase = .verify ∧
    ((at_ .cores).boot.phase = .cores ∧ clean.proofFailed = false ∧ clean.oscFailed = false ∧ 3 ∉ clean.easels ∧
      clean.easels.length ≤ 1) ∧
    (at_ .memory).boot.phase = .memory ∧ (at_ .measure).boot.phase = .measure := by decide

/-- The supply is in a warning. -/
def warned : State := { up with boot := { up.boot with warning := true, stretched := true, busbar := 4500 } }

theorem witness_SupplyWarnings :
    (up.boot.powered = true ∧ up.boot.phase ≠ .reset ∧ up.boot.warning = false ∧ (4200 : Nat) ≤ 4200 ∧ (4799 : Nat) < 4800) ∧
    (warned.boot.warning = true ∧ (4800 : Nat) ≤ 4800 ∧ (6000 : Nat) ≤ 6000) := by decide

/-- At the end of a Frame, with an advance that is due. -/
def advancing : State := { ending with tb := { ending.tb with advance := some (1, 3) } }

theorem witness_TimebaseTicks :
    (up.tb.running = true ∧ up.tb.ticks < up.frameTicks) ∧ (ending.tb.running = true ∧ ending.tb.ticks = ending.frameTicks) ∧
    ending.tb.advance = none ∧
    (advancing.tb.ticks = advancing.frameTicks ∧ advancing.tb.advance = some (1, 3) ∧ advancing.transferOpen = false ∧
      1 ≤ advancing.tb.frameOrd + 1) := by decide

/-- FAULTED at the end of a Frame, with a snapshot armed and a counter off. -/
def faultedEnd : State := { ending with
  boot := { ending.boot with phase := .faulted }
  cnt := ⟨true, false, true, 0, [(4, ⟨1, false, 9, 0, 0⟩)]⟩ }

theorem witness_PowerCapAndSnapshots :
    (ending.tb.running = true ∧ ending.tb.ticks = ending.frameTicks ∧ ending.boot.phase = .ready ∧
      17000 ≤ 250 * ending.pwr.capNow ∧ 250 * ending.pwr.capNow < 17001 ∧ ending.pwr.fillRan = false) ∧
    (faultedEnd.tb.running = true ∧ faultedEnd.tb.ticks = faultedEnd.frameTicks ∧ faultedEnd.boot.phase ≠ .ready ∧
      faultedEnd.cnt.armed = true ∧ tabGet faultedEnd.cnt.ctrs 4 = some ⟨1, false, 9, 0, 0⟩) := by decide

/-- The last Frame of a tally window and of an accounting interval. -/
def closing : State := { ending with tb := { ending.tb with frame := 999, frameOrd := 999 } }

theorem witness_TallyWindowsAndAccounting :
    (closing.boot.phase = .ready ∧ closing.windowEnds = true ∧ closing.acct.windowEnd ≠ some closing.tb.frameOrd) ∧
    (closing.boot.phase = .ready ∧ closing.tb.ticks = closing.frameTicks ∧
      closing.acct.first + closing.acct.interval ≤ closing.tb.frameOrd + 1) ∧
    up.writable 0 .ready = true := by decide

/-! ### Rings -/

/-- A ring with a doorbell read outstanding, an interrupt that waits, and its slots overrun by SQ_PI 17. -/
def reading : Ring := { ring0 with reading := true, uncovered := 1 }

theorem witness_KicksAndDoorbellReads :
    (up.writable 0 .faultedToo = true ∧ (up.ring (fld 0 11 0)).enabled = false) ∧
    ((onRing ring0).writable 0 .faultedToo = true ∧ ((onRing ring0).ring (fld 0 11 0)).enabled = true ∧
      ((onRing ring0).ring 0).reading = false) ∧
    (((onRing reading).ring 0).enabled = true ∧ ((onRing reading).ring 0).reading = true ∧
      ((onRing reading).port ((onRing reading).ring 0).port).trained = true ∧
      (onRing reading).tracerServes ((onRing reading).ring 0).port ((onRing reading).readXfer 0) = true ∧ bitOf 1 0 = true ∧
      0 < ((onRing reading).ring 0).uncovered ∧ ((onRing reading).ring 0).linkLost = false ∧
      ((16 : Half) - ((onRing reading).ring 0).sqCi).toNat ≤ ((onRing reading).ring 0).sqSize ∧
      ((onRing reading).ring 0).sqSize < ((17 : Half) - ((onRing reading).ring 0).sqCi).toNat ∧
      ((onRing reading).ring 0).overrun = false) := by decide

/-- A ring with 16 slots to fetch. -/
def full : State := onRing { ring0 with sqPi := 16 }

theorem witness_DescriptorFetches :
    full.boot.phase = .ready ∧ (full.ring 0).wantsFetch = true ∧ (full.port (full.ring 0).port).trained = true ∧
    (List.replicate 16 (zeros 64)).length ≤ 16 ∧ (List.replicate 16 (zeros 64)).length ≤ ((full.ring 0).sqPi - (full.ring 0).sqCi).toNat ∧
    (full.ring 0).sqCi.toNat % (full.ring 0).sqSize + (List.replicate 16 (zeros 64)).length ≤ (full.ring 0).sqSize ∧
    (full.ring 0).outstanding + (List.replicate 16 (zeros 64)).length ≤ 1024 ∧ full.myTurn 0 = true ∧
    full.tracerServes (full.ring 0).port (full.fetchXfer 0) = true := by decide

/-- An ABORT of slot 4, and slots as accepted. -/
def abort4 : Desc := { descOf (leBytes 1 0x0D ++ zeros 7 ++ leBytes 2 4 ++ leBytes 1 9) with seq := 2 }
def aborting (slots : Tab (Byte × Nat × Nat)) (e : Desc) : State := up.setRing 0 { ring0 with accepted := [e, abort4], slots := slots }
def ctrl6 : Desc := descOf (leBytes 1 6)

theorem witness_NopFenceAndAbort :
    ((State.holding up [descOf (leBytes 1 0x0F)]).desc 0 1 = some (descOf (leBytes 1 0x0F)) ∧ (descOf (leBytes 1 0x0F)).opcode = 0x0F) ∧
    ((State.holding up [descOf (leBytes 1 0x0E)]).desc 0 1 = some (descOf (leBytes 1 0x0E)) ∧ (descOf (leBytes 1 0x0E)).opcode = 0x0E ∧
      ((State.holding up [descOf (leBytes 1 0x0E)]).ring 0).held = [] ∧
      ∀ e ∈ ((State.holding up [descOf (leBytes 1 0x0E)]).ring 0).accepted, (descOf (leBytes 1 0x0E)).seq ≤ e.seq) ∧
    (abort4.opcode = 0x0D ∧ abort4.started = false ∧ abort4.targetSlot = 4 ∧ abort4.targetGen = 9) ∧
    ((aborting [] ctrl6).desc 0 2 = some abort4 ∧ tabGet ((aborting [] ctrl6).ring 0).slots 4 = none) ∧
    (tabGet ((aborting [(4, 8, 6, 1)] ctrl6).ring 0).slots 4 = some (8, 6, 1) ∧ (8 : Byte) ≠ abort4.targetGen) ∧
    (notAbortable 1 = true ∧ notAbortable 7 = false ∧ (aborting [(4, 9, 7, 3)] ctrl6).desc 0 3 = none) ∧
    (tabGet ((aborting [(4, 9, 6, 1)] ctrl6).ring 0).slots 4 = some (9, 6, ctrl6.seq) ∧
      (aborting [(4, 9, 6, 1)] ctrl6).desc 0 ctrl6.seq = some ctrl6 ∧ ctrl6.opcode = 6 ∧ ctrl6.aborted = false ∧
      ctrl6.committed = false) := by decide

theorem witness_FenceWaits :
    let d : Desc := { descOf (leBytes 1 0x0E) with seq := 2 }
    let s := State.holding up [ctrl6, d]
    s.desc 0 2 = some d ∧ d.opcode = 0x0E ∧ ctrl6 ∈ (s.ring 0).accepted ∧ ctrl6.seq < d.seq := by decide

/-- A ring that holds one record. -/
def record1 : CqRecord := recordOf ctrl6 { status := 0 }
def held1 : State := onRing { ring0 with held := [record1], heldSince := some 0 }
def stuck1 : State := onRing { ring0 with held := [record1], cqPi := 16 }
def late1 : State := { held1 with tb := { held1.tb with sub := 4 * 512 * 240 + 1 } }

theorem witness_CompletionsAndInterrupts :
    ((held1.ring 0).held = [record1] ∧ (held1.ring 0).linkLost = false ∧ (held1.port (held1.ring 0).port).trained = true ∧
      ((held1.ring 0).cqPi - (held1.ring 0).cqCi).toNat < (held1.ring 0).cqSize ∧
      held1.scriberServes (held1.ring 0).port (held1.recordXfer 0) = true) ∧
    ((stuck1.ring 0).held = [record1] ∧ (stuck1.ring 0).cqSize ≤ ((stuck1.ring 0).cqPi - (stuck1.ring 0).cqCi).toNat) ∧
    ((late1.ring 0).heldSince = some 0 ∧ (late1.ring 0).cqStall = false ∧ 0 + 4 * late1.frameSubs < late1.tb.sub) ∧
    (let s := onRing { ring0 with arm := true, uncovered := 1 }
     (s.ring 0).arm = true ∧ (s.ring 0).linkLost = false ∧ 0 < (s.ring 0).uncovered ∧ max (s.ring 0).count 1 ≤ (s.ring 0).uncovered) ∧
    (let s := onRing { ring0 with arm := true, uncovered := 1, count := 2 }
     (s.ring 0).firstAt + usToSubs (s.ring 0).holdUs ≤ s.tb.sub ∧ ¬max (s.ring 0).count 1 ≤ (s.ring 0).uncovered) := by
  decide

theorem witness_RingEnableResumeAndLinks :
    (up.writable 0 .ready = true ∧ (up.ring 0).enabled = false ∧ bitOf 0x488 10 = true ∧ up.rmk.dbValid = true ∧
      fld 0x488 3 0 ≤ fld 0x488 7 4 ∧ fld 0x488 3 0 ≤ 8 ∧ fld 0x488 7 4 ≤ 8 ∧ (up.port (fld 0x488 8 8)).trained = true) ∧
    (bitOf 0x401 10 = true ∧ fld 0x401 7 4 < fld 0x401 3 0) ∧ (8 < fld 0x499 3 0) ∧ (up.port (fld 0x500 8 8)).trained = false ∧
    (let s := onRing { ring0 with stopped := true, overrun := true }
     s.writable 0 .ready = true ∧ bitOf 1 0 = true ∧ (s.ring 0).stopped = true ∧ (s.port (s.ring 0).port).trained = true ∧
       (s.ring 0).overrun = true ∧
       ((16 : Half) - (s.ring 0).sqCi).toNat ≤ (s.ring 0).sqSize ∧ (s.ring 0).sqSize < ((17 : Half) - (s.ring 0).sqCi).toNat) ∧
    (let s := onRing { ring0 with stopped := true, linkLost := true }
     (s.ring 0).stopped = true ∧ (s.ring 0).overrun = false ∧ (s.ring 0).sqSize < ((17 : Half) - (s.ring 0).sqCi).toNat) ∧
    (up.ring 0).stopped = false ∧ up.boot.phase ≠ .reset ∧ (up.port 0).everUp = true := by decide

/-! ### Sessions, models, streams, features, audio -/

/-- `work` with descriptors accepted on ring 0. -/
def working (ds : List Desc) : State := State.holding work ds

/-- The same with nothing but session 0 and its ring. -/
def sessionOnly (ds : List Desc) : State := State.holding { up with sessions := [(0, session0)] } ds

def open1 : Desc := descOf (leBytes 1 1)
def close2 : Desc := descOf (leBytes 1 2)

theorem witness_Sessions :
    ((State.holding up [open1]).desc 0 1 = some open1 ∧ open1.opcode = 0x01 ∧ ((State.holding up [open1]).ring 0).linkLost = false) ∧
    (let s := sessionOnly [close2]
     s.desc 0 1 = some close2 ∧ close2.opcode = 0x02 ∧ s.mayStart 0 close2 = true ∧ (s.ring 0).linkLost = false ∧
       (∀ x ∈ s.streamList, x.session = 0 → x.phase = .closed) ∧ ∀ e ∈ (s.ring 0).accepted, e.seq = 1) ∧
    (let s := working [close2]
     s.desc 0 1 = some close2 ∧ s.mayStart 0 close2 = true ∧ ∃ x ∈ s.streamList, x.session = 0 ∧ x.phase ≠ .closed) ∧
    (let s := sessionOnly [close2, { descOf (leBytes 1 0x0F) with seq := 2 }]
     s.desc 0 1 = some close2 ∧ s.mayStart 0 close2 = true ∧ ∃ e ∈ (s.ring 0).accepted, e.seq ≠ 1) := by decide

/-- A MODEL_LOAD of 208 bytes from a list of one entry, and such a list: address, bytes, reserved (13 R404). -/
def load1 : Desc := descOf (leBytes 1 3 ++ zeros 15 ++ leBytes 2 1 ++ leBytes 1 1 ++ zeros 1 ++ leBytes 4 208)
def list1 : List Byte := leBytes 8 4096 ++ leBytes 4 208 ++ zeros 4
/-- A STREAM_OPEN of handle 7 that has started. -/
def openStarted : Desc := { descOf (leBytes 1 5 ++ zeros 7 ++ leBytes 4 7) with started := true }
/-- A MODEL_EVICT of handle 7 or 8. -/
def evict (h : Nat) : Desc := descOf (leBytes 1 4 ++ zeros 7 ++ leBytes 4 h)

/-- Model 7 alone. -/
def modelOnly (ds : List Desc) : State := State.holding { up with sessions := [(0, session0)], models := [(7, model7)] } ds

theorem witness_VoiceModels :
    (let s := sessionOnly [load1]
     s.desc 0 1 = some load1 ∧ load1.opcode = 0x03 ∧ s.mayStart 0 load1 = true ∧ (s.ring 0).linkLost = false ∧
       s.tracerServes (s.ring 0).port (s.imageXfer 0 load1) = true) ∧
    listReason load1.listCount load1.wrappedBytes (bytesAt list1 0 (16 * load1.listCount)) = none ∧
    listReason load1.listCount load1.wrappedBytes (bytesAt (zeros 16) 0 (16 * load1.listCount)) = some 0x14 ∧
    load1.cls < 2 ∧ (sessionOnly [load1]).newHandle = some 0 ∧
    wrapKey up (zeros 208) = none ∧ imageReason up (zeros 128) = some 1 ∧
    (let s := modelOnly [evict 7]
     s.desc 0 1 = some (evict 7) ∧ (evict 7).opcode = 0x04 ∧ s.mayStart 0 (evict 7) = true ∧ s.model (evict 7).handle = some model7 ∧
       model7.handle = (evict 7).handle ∧ s.streamList.any (·.usesVoice 7) = false ∧ s.adaptUses 0 7 = false ∧
       s.openUses 0 7 = false) ∧
    (let s := working [evict 7]
     s.desc 0 1 = some (evict 7) ∧ s.mayStart 0 (evict 7) = true ∧ s.streamList.any (·.usesVoice 7) = true) ∧
    (modelOnly [evict 7, { openStarted with seq := 2 }]).openUses 0 7 = true ∧
    (let s := working [evict 8]
     s.desc 0 1 = some (evict 8) ∧ s.mayStart 0 (evict 8) = true ∧ s.model (evict 8).handle = none) := by decide +kernel

/-- A STREAM_OPEN of handle 7 under Summer at 16 kHz. -/
def openS : Desc := descOf (leBytes 1 5 ++ zeros 7 ++ leBytes 4 7 ++ leBytes 1 1 ++ leBytes 1 1 ++ leBytes 1 1)
def askS : Ask := ⟨0, openS.handle, openS.season, openS.rate, openS.sflag 2, openS.sflag 3, none, [openS.handle]⟩
def ctrl6done : Desc := { ctrl6 with committed := true }
/-- Descriptors that name stream 5. -/
def on5 (op : Nat) : Desc := descOf (leBytes 1 op ++ zeros 1 ++ leBytes 2 5)
def closed5 : Stream := { stream5 with phase := .closed }

/-- A module that can take a stream: 18 cores in field 0, its units whole, DRAM for the regions, power and rates. -/
def ample (ds : List Desc) : State := State.holding { up with
  cap := { up.cap with fieldCores := [18], burinUnits := 8, channels := 3, speed := 8800, hostPath := 10 }
  mem := { up.mem with chans := [(0, ⟨0, 0, 0, 0, [], 0, 0, 0⟩), (1, ⟨0, 0, 0, 0, [], 0, 0, 0⟩), (2, ⟨0, 0, 0, 0, [], 0, 0, 0⟩)] }
  sessions := [(0, session0)], models := [(7, model7)] } ds

theorem witness_Streams :
    (let s := ample [openS]
     s.desc 0 1 = some openS ∧ openS.opcode = 0x05 ∧ s.mayStart 0 openS = true ∧ s.tb.pendingCfg = none ∧ s.alm.meteredStop = false ∧
       (∀ m, s.model openS.handle = some m → m.damaged = false) ∧ (s.admitAsk askS).toOption.isSome = true ∧
       s.model openS.handle = some model7 ∧ freeKey s.streams 16384 0 = some 0) ∧
    (let s := sessionOnly [openS]
     s.desc 0 1 = some openS ∧ s.admitAsk askS = .error 1) ∧
    (let s : State := { ample [openS] with models := [(7, { model7 with damaged := true })] }
     s.mayStart 0 openS = true ∧ ∃ m, s.model openS.handle = some m ∧ m.damaged = true) ∧
    ((State.holding up [ctrl6done]).desc 0 1 = some ctrl6done ∧ ctrl6done.opcode = 0x06 ∧ ctrl6done.committed = true) ∧
    (let s : State := { working [on5 9] with streams := [(5, closed5)] }
     s.desc 0 1 = some (on5 9) ∧ (on5 9).opcode = 0x09 ∧ s.stream (on5 9).stream = some closed5 ∧ closed5.id = (on5 9).stream ∧
       closed5.session = 0 ∧ closed5.phase = .closed ∧ s.pulls closed5 = [] ∧ closed5.toLine = false) := by decide +kernel

/-- Almanac's audit slots but 63 hold unacknowledged records: the metered stop (17 R549). -/
def stopped : State := { sessionOnly [openS] with alm := { up.alm with records := List.replicate 1985 ⟨1, 0, [], false⟩ } }

theorem witness_MeteredStop :
    stopped.desc 0 1 = some openS ∧ stopped.mayStart 0 openS = true ∧ stopped.tb.pendingCfg = none ∧ stopped.alm.meteredStop = true := by
  decide +kernel

/-- A push of stream 5 with a buffer of 160 bytes. -/
def push7 : Desc := descOf (leBytes 1 7 ++ zeros 1 ++ leBytes 2 5 ++ zeros 12 ++ leBytes 4 160)
def push7s : Desc := { push7 with started := true }
def push7c : Desc := { push7s with closed := true }
def push7l : Desc := { push7s with link := 65536, total := 100, done := 40 }
/-- A packet of one record without a control: 160 bytes (13 R412). -/
def packet : List Byte := leBytes 2 5 ++ zeros 1 ++ leBytes 1 1 ++ zeros 156

theorem witness_FeatureData :
    (let s := working [push7]
     s.desc 0 1 = some push7 ∧ push7.opcode = 0x07 ∧ s.stream push7.stream = some stream5 ∧ actsOn stream5 push7 = true ∧
       stream5.session = 0 ∧ push7.started = false ∧ push7.aborted = false ∧ (s.ring 0).linkLost = false ∧
       (∀ e ∈ s.pushes stream5, push7.seq ≤ e.seq ∨ e.closed = true) ∧ 128 * stream5.records.length + push7.bufBytes ≤ 262144) ∧
    (let s := working [push7s]
     s.desc 0 1 = some push7s ∧ actsOn stream5 push7s = true ∧ push7s.started = true ∧ push7s.closed = false ∧ push7s.aborted = false ∧
       stream5.transferring = false ∧ s.tracerServes (s.ring 0).port (s.featureXfer stream5 push7s) = true ∧
       push7s.offset + (tagOf (bytesAt packet 0 16)).length ≤ push7s.bufBytes) ∧
    (let s := working [push7c]
     s.desc 0 1 = some push7c ∧ actsOn stream5 push7c = true ∧ (s.pushes stream5).head? = some push7c ∧ push7c.aborted = false ∧
       pushCommitted stream5 push7c = true) ∧
    (let s := working [push7l]
     s.desc 0 1 = some push7l ∧ push7l.opcode = 0x07 ∧ 65536 ≤ push7l.link ∧ push7l.aborted = false ∧
       push7l.total ≤ push7l.done + 60 ∧ push7l.done + 59 < push7l.total) := by decide +kernel

/-- A pull of stream 5 into six bytes, as accepted and as started. -/
def pull8 : Desc := { descOf (leBytes 1 8 ++ zeros 15 ++ leBytes 4 6) with link := 5 }
def pull8s : Desc := { pull8 with started := true }
def audible5 : Stream := { stream5 with audio := [(0, 1), (1, 2)], pieces := [⟨0, 1, 0, 0⟩, ⟨1, 1, 0, 0⟩] }

theorem witness_AudioToTheHost :
    (let s := working [pull8]
     s.desc 0 1 = some pull8 ∧ pull8.opcode = 0x08 ∧ s.stream pull8.link = some stream5 ∧ stream5.session = 0 ∧ pull8.started = false ∧
       (s.pulls stream5).head? = some pull8) ∧
    (let s : State := { working [pull8s] with streams := [(5, audible5)] }
     s.stream 5 = some audible5 ∧ (s.pulls audible5).head? = some pull8s ∧ s.desc audible5.session pull8s.seq = some pull8s ∧
       pull8s.started = true ∧
       (s.ring audible5.session).linkLost = false ∧ (s.port (s.ring audible5.session).port).trained = true ∧
       s.scriberServes (s.ring audible5.session).port (s.audioXfer audible5 pull8s) = true ∧
       pieceRoom audible5 pull8s = 1 ∧ pullDone audible5 pull8s = false ∧
       pullDone { audible5 with delivered := 1, pieces := [⟨1, 1, 0, 0⟩] } { pull8s with done := 3, plain := [1, 0, 0] } = false ∧
       pieceRoom { audible5 with delivered := 1 } { pull8s with done := 3 } = 1 ∧
       pullDone { audible5 with delivered := 2, pieces := [] } { pull8s with done := 6 } = true) := by
  decide +kernel


/-- The forms that wait, and an aborted push that has stopped. -/
def push7a : Desc := { push7s with aborted := true, committed := true }
def playing5 : Stream := { closed5 with toLine := true, played := some 9 }

theorem witness_StreamsThatWait :
    (let s : State := { ample [openS] with tb := { up.tb with pendingCfg := some (2, 0) } }
     s.desc 0 1 = some openS ∧ s.tb.pendingCfg.isSome = true) ∧
    ((State.holding up [ctrl6]).desc 0 1 = some ctrl6 ∧ ctrl6.opcode = 0x06 ∧ ctrl6.committed = false) ∧
    (let s : State := { working [on5 9] with streams := [(5, playing5)] }
     s.desc 0 1 = some (on5 9) ∧ s.stream (on5 9).stream = some playing5 ∧ playing5.id = (on5 9).stream ∧ playing5.session = 0 ∧
       playing5.toLine = true ∧ playing5.played ≠ none) ∧
    (let s := working [push7a]
     s.desc 0 1 = some push7a ∧ actsOn stream5 push7a = true ∧ (s.pushes stream5).head? = some push7a ∧
       pushStopped stream5 push7a = true) := by decide +kernel
/-! ### Adaptation, Transfers -/

/-- An adaptation graph: the image with FLAGS for adaptation and input, one cost record, and an adaptation block of one
substitution of 16 bytes (13 R422). -/
def adaptImage : List Byte :=
  patch (image.take 400) 6 (leBytes 2 3)
    ++ (leBytes 4 0x4B414450 ++ leBytes 2 1 ++ zeros 2 ++ zeros 64 ++ leBytes 4 128 ++ leBytes 4 16 ++ zeros 48
      ++ (zeros 8 ++ leBytes 4 16 ++ zeros 4))

/-- Model 8, the adaptation graph. -/
def model8 : Model := { model7 with handle := 8, image := adaptImage }

/-- An ADAPT_JOB of graph 8 on voice 7 with 480 captured samples, one step, 16 output bytes (13 R420). -/
def adaptA : Desc :=
  descOf (leBytes 1 0xA ++ zeros 7 ++ leBytes 4 8 ++ leBytes 4 7 ++ leBytes 1 1 ++ zeros 3 ++ leBytes 4 480 ++ zeros 20 ++ leBytes 4 1
    ++ leBytes 4 16)
def adaptAs : Desc := { adaptA with started := true, link := 3 }

/-- The Fill job of that descriptor. -/
def fill3 : Job := { job3 with fill := true, kind := .adapt 0 1, rows := [], handle := 8, workFrame := 1, steps := 1 }

/-- A module with both models, DRAM, and a descriptor; and the same with the job. -/
def adapting (ds : List Desc) : State := { ample ds with models := [(7, model7), (8, model8)] }
def adaptRuns (j : Job) : State := { adapting [adaptAs] with jobs := [(3, j)] }

theorem witness_AdaptationJobs :
    (let s := adapting [adaptA]
     s.desc 0 1 = some adaptA ∧ adaptA.opcode = 0x0A ∧ s.mayStart 0 adaptA = true ∧ (s.ring 0).linkLost = false ∧
       s.model adaptA.handle = some model8 ∧ s.model adaptA.targetHandle = some model7 ∧
       check13 model8.image model7.image adaptA.outputBytes adaptA.input = true ∧ freeKey s.jobs 1024 0 = some 0 ∧
       s.reserveOk model8.image (s.adaptCores model8.image) (adaptExtents adaptA) = true ∧ adaptA.input = 1) ∧
    check13 model7.image model7.image adaptA.outputBytes adaptA.input = false ∧
    (let s := adaptRuns fill3
     s.desc 0 1 = some adaptAs ∧ adaptAs.started = true ∧ s.job adaptAs.link = some fill3 ∧ fill3.id = adaptAs.link ∧
       fill3.kind = .adapt 0 1 ∧ s.stepEnds fill3 = true) ∧
    (let j := { fill3 with optStep := 1 }
     let s := adaptRuns j
     s.job adaptAs.link = some j ∧ j.id = adaptAs.link ∧ j.kind = .adapt 0 1 ∧ j.away = none ∧ adaptAs.steps ≤ j.optStep ∧
       s.model adaptAs.handle = some model8 ∧ s.model adaptAs.targetHandle = some model7) := by decide +kernel

/-- A save area of job 3. -/
def area3 : SaveArea where
  svflags := 0
  graphHash := zeros 64
  seed := 0
  key := 0
  session := 0
  handle := 7
  season := 1
  frame := 0
  optStep := 0
  workFrame := 0
  cores := 0
  rows := []
  extents := []
  issued := []
  walks := []
  again := []
  parking := []
  digest := []

/-- An Ihlaux port that is trained and secured. -/
def secured : IhxPort := { IhxPort.init with trained := true, lanes := 16, secured := true, vc1Live := 1024, vc2Fill := 4 }

/-- Member 1 of a Folio, joined and aligned, with its port to the manager (port 15), and to member 2 (port 0). -/
def member1 : Ihx := { up.ihx with role := 2, member := 1, state := 2, aligned := true, ports := [(0, secured), (15, secured)] }

/-- ADAPT_JOB without captured input. -/
def adaptB : Desc :=
  { descOf (leBytes 1 0xA ++ zeros 7 ++ leBytes 4 8 ++ leBytes 4 7 ++ zeros 28 ++ leBytes 4 1 ++ leBytes 4 16) with
    started := true
    link := 3 }
def frosted3 : Job := { fill3 with state := .frosted, save := some area3, waits := 11, cores := [] }
def offloading : State :=
  { State.holding (adapting []) [adaptB] with jobs := [(3, frosted3)], ihx := { member1 with offloadFrames := 10 } }

theorem witness_FillOffloads :
    (offloading.job 3 = some frosted3 ∧ frosted3.kind = .adapt 0 1 ∧ offloading.desc 0 1 = some adaptB ∧ frosted3.save = some area3 ∧
      offloading.model adaptB.handle = some model8 ∧ offloading.model adaptB.targetHandle = some model7 ∧ adaptB.input = 0 ∧
      frosted3.state = .frosted ∧ frosted3.away = none ∧ 0 < offloading.ihx.offloadFrames ∧
      offloading.ihx.offloadFrames < frosted3.waits ∧ offloading.reaches 2 = true) ∧
    (let j := { fill3 with kind := .guest 3 16 }
     let s : State := { up with jobs := [(3, j)] }
     s.job 3 = some j ∧ j.id = 3 ∧ j.kind = .guest 3 16 ∧ s.stepEnds j = true) ∧
    (let j := { fill3 with kind := .guest 3 16, home := some 2, optStep := 1 }
     let s : State := { up with jobs := [(3, j)], ihx := member1 }
     s.job 3 = some j ∧ j.id = 3 ∧ j.kind = .guest 3 16 ∧ j.state = .bound ∧ j.steps ≤ j.optStep ∧ j.home = some 2 ∧
       (s.ihxPort (s.portTo 2)).trained = true) ∧
    (let j := { fill3 with away := some 2 }
     let s : State := { up with jobs := [(3, j)] }
     s.job 3 = some j ∧ j.id = 3 ∧ j.away = some 2) := by decide +kernel

/-- An offloaded job of member 2 that arrives where there is room. -/
def offload3 : OffloadMsg := ⟨2, 3, adaptImage, image, 0, 0, 0, 1, 1, 1, 16, zeros 16, [], [], [], [], [], []⟩
def receiving : State := { ample [] with ihx := member1 }

theorem witness_OffloadArrives :
    receiving.reaches offload3.home = true ∧ receiving.job 0 = none ∧ freeKey receiving.jobs 1024 0 = some 0 ∧
    receiving.reserveOk offload3.adapt offload3.cores (scratchExtents + ceilDiv offload3.outBytes 2097152) = true ∧
    receiving.newHandle = some 0 ∧ (receiving.poolTake (ceilDiv offload3.adapt.length 2097152)).isSome = true := by decide +kernel

/-- TRANSFER_OUT of stream 5 to member 2 and TRANSFER_IN from member 2 for handle 7, both of Transfer 9 (13 R410). -/
def outB : Desc := descOf (leBytes 1 0xB ++ zeros 1 ++ leBytes 2 5 ++ zeros 4 ++ leBytes 1 2 ++ zeros 7 ++ leBytes 8 9)
def inC : Desc := descOf (leBytes 1 0xC ++ zeros 7 ++ leBytes 4 7 ++ leBytes 1 2 ++ zeros 3 ++ leBytes 8 9)
/-- Transfer 9, on the source and on the destination. -/
def out9 (g : TransferStage) : Transfer := ⟨9, true, 0, 1, 2, 5, g, 0, 0, none, false⟩
def in9 (g : TransferStage) (stream : Nat) : Transfer := ⟨9, false, 0, 1, 2, stream, g, 4, 0, none, false⟩
/-- An OFFER from member 2 that agrees with model 7 and session 0. -/
def offer9 : OfferMsg := ⟨9, 2, 1, zeros 64, [], zeros 16, [], 1, false, false, false, false⟩
/-- Member 1 with a descriptor and Transfers. -/
def folio (ds : List Desc) (ts : List Transfer) : State := { State.holding work ds with ihx := { member1 with transfers := ts } }
def folioAmple (ts : List Transfer) : State := { ample [inC] with ihx := { member1 with transfers := ts } }

theorem witness_TransferToHandover :
    (let s := folio [outB] []
     s.desc 0 1 = some outB ∧ outB.opcode = 0x0B ∧ outB.seq = 1 ∧ s.stream outB.stream = some stream5 ∧ stream5.session = 0 ∧
       s.model stream5.handle = some model7 ∧ s.session 0 = some session0 ∧ s.transferOf 0 1 = none ∧
       s.transfer outB.transferId = none ∧ s.mayOffer (out9 .waiting) stream5 = true) ∧
    (let s : State := { folio [outB] [] with ihx := { member1 with aligned := false } }
     s.mayOffer (out9 .waiting) stream5 = false) ∧
    (let s := folio [outB] [out9 .waiting]
     s.desc 0 1 = some outB ∧ s.stream outB.stream = some stream5 ∧ s.model stream5.handle = some model7 ∧ s.session 0 = some session0 ∧
       s.transferOf 0 1 = some (out9 .waiting) ∧ s.transfer (out9 .waiting).id = some (out9 .waiting) ∧
       (out9 .waiting).stage = .waiting ∧ s.mayOffer (out9 .waiting) stream5 = true) ∧
    (let s := folio [inC] []
     s.desc 0 1 = some inC ∧ inC.opcode = 0x0C ∧ inC.seq = 1 ∧ s.mayStart 0 inC = true ∧ s.transferOf 0 1 = none ∧
       s.transfer inC.transferId = none ∧ ∀ q ∈ s.ihx.offers, q.transferId ≠ inC.transferId) ∧
    (let s := folio [] []
     s.ihx.state ≠ 0 ∧ (s.ihxPort (s.portTo offer9.source)).trained = true ∧
      (s.ihxPort (s.portTo offer9.source)).wiringErr = false ∧ offer9.source < 17 ∧ offer9.source ≠ s.ihx.member ∧
       s.transfer offer9.transferId = none) := by decide +kernel

theorem witness_OfferMeetsTransferIn :
    let u := in9 .waiting 16384
    let s := folioAmple [u]
    s.ihx.state ≠ 0 ∧ (s.ihxPort (s.portTo offer9.source)).trained = true ∧
      (s.ihxPort (s.portTo offer9.source)).wiringErr = false ∧ offer9.source < 17 ∧ offer9.source ≠ s.ihx.member ∧ s.transfer offer9.transferId = some u ∧ u.outgoing = false ∧
      u.stage = .waiting ∧ u.peer = offer9.source ∧ s.tb.pendingCfg = none ∧ s.desc u.ring u.seq = some inC ∧ s.stream u.stream = none ∧
      s.offerReason u.ring inC { offer9 with hasLine := true } = some 2 ∧ s.offerReason u.ring inC offer9 = none ∧
      (s.admitArrival ⟨u.ring, inC.handle, s.tb.season, offer9.rate, offer9.keep, offer9.fill, none, [inC.handle]⟩ u.peer).toOption.isSome = true ∧
      s.offerReason u.ring inC { offer9 with rate := 3 } = none ∧
      (s.admitArrival ⟨u.ring, inC.handle, s.tb.season, 3, offer9.keep, offer9.fill, none, [inC.handle]⟩ u.peer).toOption = none ∧
      s.model inC.handle = some model7 := by decide +kernel

theorem witness_AcceptAndConfirm :
    (let s := folio [outB] [out9 .offered]
     s.transfer 9 = some (out9 .offered) ∧ s.stream (out9 .offered).stream = some stream5 ∧ (out9 .offered).outgoing = true ∧
       (out9 .offered).stage = .offered ∧ (s.ihxPort (s.portTo (out9 .offered).peer)).trained = true) ∧
    (let s := folio [inC] [in9 .accepted 5]
     s.transfer 9 = some (in9 .accepted 5) ∧ (in9 .accepted 5).outgoing = false ∧ (in9 .accepted 5).stage = .accepted) := by decide +kernel

/-- Stream 5 as a Transfer brings it in. -/
def arriving5 : Stream := { stream5 with transferring := true }
def arrives (g : TransferStage) : State := { folio [inC] [in9 g 5] with streams := [(5, arriving5)] }

theorem witness_TransferEnds :
    (let s := arrives .confirmed
     let b := zeros 8 ++ leBytes 8 9 ++ zeros 48
     s.transfer (BitVec.ofNat 64 (num b 8 8)) = some (in9 .confirmed 5) ∧ s.stream 5 = some arriving5 ∧ arriving5.id = 5 ∧
       s.model arriving5.handle = some model7 ∧ (in9 .confirmed 5).outgoing = false ∧ (in9 .confirmed 5).stage = .confirmed ∧
       s.desc 0 1 = some inC ∧ envelopeOk b = false) ∧
    (let s : State := { up with ihx := { up.ihx with role := 1, state := 2, directory := [(16384 + 5, ⟨0, 1, false, false, true⟩)] } }
     s.ihx.role = 1 ∧ s.ihx.state = 2 ∧ tabGet s.ihx.directory 16389 = some ⟨0, 1, false, false, true⟩ ∧
       16389 / 16384 ≠ s.ihx.member ∧ 32773 / 16384 ≠ s.ihx.member) ∧
    (let s := folio [outB] [out9 .sent]
     s.transfer 9 = some (out9 .sent) ∧ s.desc 0 1 = some outB ∧ s.stream 5 = some stream5 ∧ (out9 .sent).outgoing = true ∧
       stream5.id = (out9 .sent).stream) ∧
    (let s := arrives .imported
     s.transfer 9 = some (in9 .imported 5) ∧ s.desc 0 1 = some inC ∧ s.stream 5 = some arriving5 ∧ (in9 .imported 5).outgoing = false ∧
       s.tb.frameOrd ≠ (in9 .imported 5).handover) ∧
    (let s : State := { folio [outB] [out9 .offered] with tb := { up.tb with sub := 24576000 } }
     s.desc 0 1 = some outB ∧ outB.opcode = 0x0B ∧ outB.acceptedAt + 24576000 ≤ s.tb.sub ∧ s.transferOf 0 1 = some (out9 .offered) ∧
       (out9 .offered).stage = .offered) := by
  decide +kernel

/-! ### Setup registers -/

theorem witness_MaintenanceWrites :
    (¬((16 : Nat) = 32 ∧ 0x6100 % 4 = 0) ∧ ¬((16 : Nat) = 64 ∧ 0x6100 % 8 = 0) ∧ up.readable 0 (up.accessOf (0x6100 / 4 * 4)) = true) ∧
    (¬((32 : Nat) = 32 ∧ 0x6102 % 4 = 0) ∧ up.readable 0 (up.accessOf (0x6102 / 4 * 4)) = true) ∧
    ((1 : Nat) < 2 ∧ (up.port 1).trained = false) ∧
    (0x6100 % 8 = 0 ∧ ∃ t, exec (.maintenanceWrite 0 0x6100 32 1) up = .next t ∧ t.proof.policy.getD 0 0 = 1) ∧
    (up.writable 0 .ready = true ∧ up.proof.locked = false ∧ up.anyRingOn = false ∧ (onRing ring0).anyRingOn = true) ∧
    ({ up with proof := { up.proof with locked := true } } : State).proof.locked = true :=
  ⟨by decide, by decide, by decide, ⟨by decide, _, rfl, by decide +kernel⟩, by decide, rfl⟩

theorem witness_TimebaseAndPowerSettings :
    (up.writable 0 .ready = true ∧ ¬(up.ihx.role = 2 ∧ 2 ≤ up.ihx.state) ∧ (fld 4 3 2, fld 4 1 0) = up.tb.pendingCfg.getD (up.tb.season, up.tb.osc)) ∧
    ((fld 8 3 2, fld 8 1 0) ≠ up.tb.pendingCfg.getD (up.tb.season, up.tb.osc) ∧ (∀ x ∈ up.streamList, x.phase = .closed) ∧
      (∀ j ∈ up.jobs, j.2.fill = true) ∧ up.ihx.state = 0 ∧ (fld 8 3 2, fld 8 1 0) ≠ (up.tb.season, up.tb.osc)) ∧
    (let s : State := { up with tb := { up.tb with pendingCfg := some (2, 0) } }
     (fld 4 3 2, fld 4 1 0) ≠ s.tb.pendingCfg.getD (s.tb.season, s.tb.osc) ∧ (fld 4 3 2, fld 4 1 0) = (s.tb.season, s.tb.osc)) ∧
    (let s : State := { up with ihx := { up.ihx with role := 2, state := 2 } }
     s.writable 0 .ready = true ∧ s.ihx.role = 2 ∧ 2 ≤ s.ihx.state) ∧
    (let s : State := { State.holding up [descOf (leBytes 1 5), { descOf (leBytes 1 0xC) with seq := 2, started := true }] with
       tb := { up.tb with pendingCfg := some (2, 0), ticks := 240 } }
     (s.desc 0 1).any (·.opcode == 5) = true ∧ (s.desc 0 2).any (fun d => d.opcode == 0xC && !s.mayStart 0 d) = true ∧
       s.tb.pendingCfg = some (2, 0) ∧ s.tb.running = true ∧ s.tb.ticks = s.frameTicks) ∧
    (work.writable 0 .ready = true ∧ work.ihx.state = 0 ∧ ¬∀ x ∈ work.streamList, x.phase = .closed) ∧
    (bitOf 0x403 10 = true ∧ work.job (fld 0x403 9 0) = some job3 ∧ job3.fill = false ∧ job3.kind = .streams ∧ job3.state = .bound ∧
      work.rebind.request = none ∧ work.rebind.place = none) ∧
    (bitOf 0x404 10 = true ∧ work.job (fld 0x404 9 0) = none) := by decide +kernel

/-! ### Strokes, semaphores, cores, Plate, mesh -/

/-- Stream 5 with a chunk whose Hatch layers compute. -/
def chunk5 : Chunk := ⟨0, 80, 0, 0, 0, none, [], [], [], [], false, false, 0, false, []⟩
def planned5 : Stream := { stream5 with hatchChunk := some chunk5 }
def striking : State := { work with streams := [(5, planned5)] }


/-- Job 3 on core 0 alone, where the plan puts every stroke. -/
def solo3 : Job := { job3 with cores := [0], maxCores := 1, plans := [[⟨0, 5, 0, 0⟩]] }
def soloing : State := { striking with jobs := [(3, solo3)], hatch := { up.hatch with cores := [(0, core3)] } }

theorem lone_home (k : List Byte) (j : Job) (c n : Nat) (h : j.cores = [c]) : strokeHome k j n = some c := by
  unfold strokeHome
  rw [show j.cores.length = 1 by rw [h]; rfl, Nat.mod_one, h]
  rfl

theorem solo_turn (k : List Byte) (h : strokeCount k = 1) : strokeTurn k solo3 0 0 = true := by
  have i : solo3.issued = [] := rfl
  simp [strokeTurn, lone_home k solo3 0 0 rfl, h, i, List.range_succ]

theorem solo_issues : soloing.mayIssue 0 solo3 0 = true := by
  have e : soloing.strokeReady 0 solo3 0 = true := by
    have m : soloing.model solo3.handle = some model7 := rfl
    unfold State.strokeReady
    rw [m]
    dsimp only
    rw [solo_turn (strokeImage model7.image) (by decide +kernel)]
    decide +kernel
  unfold State.mayIssue
  dsimp only
  rw [e]
  decide +kernel

/-- A stroke whose work sums two words into the window, and one whose result leaves it. -/
def inside : StrokeOp := .sum 8 2 ⟨0, 64⟩ ⟨0, 0⟩ ⟨0, 0, 0, 0, 0⟩
def outside : StrokeOp := .sum 8 2 ⟨0, 64⟩ ⟨0, 0x4C000⟩ ⟨0, 0, 0, 0, 0⟩
/-- A tile that reads a record at the window's start, which the Tracer still owes. -/
def owed : StrokeOp := .tile ⟨0, ⟨0, 0⟩, 1, 512, 0⟩ ⟨0, ⟨0, 4096⟩, 1, 512, 0⟩ 0 16 0 ⟨0, 0, 0, 0, 0⟩
def going (work : List (List StrokeOp)) : Core := { core3 with running := some ⟨3, 0, [1], work⟩ }

theorem witness_StrokeIssuesAndSafePoints :
    (soloing.job 3 = some solo3 ∧ soloing.mayIssue 0 solo3 0 = true) ∧
    (work.job 3 = some job3 ∧ work.mayIssue 0 job3 0 = false ∧ up.job 3 = none) ∧
    (let s := work.setCore 0 (going [[inside]])
     (s.core 0).running = some ⟨3, 0, [1], [[inside]]⟩ ∧ (s.core 0).waiting = none ∧ (s.core 0).faulted = false ∧ s.job 3 = some job3 ∧
       [inside].any (View.stalls (s.view job3 0)) = false ∧ (runOps job3 0 0 [inside] s).2 = true ∧
       [outside].any (View.stalls (s.view job3 0)) = false ∧ (runOps job3 0 0 [outside] s).2 = false ∧
       s.session job3.session = some session0) :=
  ⟨⟨rfl, solo_issues⟩, by decide +kernel, by decide +kernel⟩

theorem witness_StrokesStayInTheirWindows :
    job3.id < 1024 ∧
    (∀ (k : Nat) (w : PlateWindow), k < 8 → job3.window 0 k = some w → w.writable = true →
      ¬(plateAt 0 3 k 0 ≤ plateAt 0 3 0 0x4BFC0 ∧ plateAt 0 3 0 0x4BFC0 < plateAt 0 3 k (w.limit - w.base))) ∧
    (3 : Nat) ≠ 4 ∧ (17 : Nat) ≠ 0 ∧ 17 ∉ job3.cores := by
  refine ⟨by decide, ?_, by decide, by decide, by decide⟩
  intro k w hk h hw
  match k with
  | 0 => cases h; decide
  | 1 => cases h; cases hw
  | k + 2 => cases h

/-- Core 0 of job 3 running a stroke, with READY and ROOM of physical pair 2 as given. -/
def runs (ready room : Nat) : Core := { core3 with running := some ⟨3, 0, [1], [[inside]]⟩, pairs := [(2, (ready, room))] }
def semState (x : Core) : State := work.setCore 0 x
/-- A Scriber's COPY of eight bytes into core 0's window, not yet done. -/
def toCore0 : Xfer :=
  { core := 1, engine := .scriber, job := 3, stroke := 0, entry := 0, op := 1, srcSpace := 0, srcHandle := 0, srcOff := 0, stream := 0,
    dstSpace := 5, dstHandle := 0, dstOff := 64, dstCore := 0, len := 8, spans := [(0, 8, false)], chain := 0, notify := none,
    release := none, deadline := 0, issued := 0, live := true, data := zeros 8, fetched := true, done := false }

theorem witness_StallsForARecord :
    let s := work.setCore 0 { going [[owed]] with tracer := ⟨3, 0, [], [toCore0], []⟩ }
    (s.core 0).running = some ⟨3, 0, [1], [[owed]]⟩ ∧ (s.core 0).waiting = none ∧ (s.core 0).faulted = false ∧ s.job 3 = some job3 ∧
      [owed].any (View.stalls (s.view job3 0)) = true := by decide +kernel

theorem witness_Semaphores :
    (let s := semState (runs 3840 0)
     (s.core 0).running = some ⟨3, 0, [1], [[inside]]⟩ ∧ s.job 3 = some job3 ∧ job3.pair 0 0 = some 2 ∧ job3.pair 1 0 = some 2 ∧ (s.core 0).waiting = none ∧
       (s.core 0).faulted = false ∧ (s.runWork 0 s.tb.sub false).2 = true ∧ 0 ∈ job3.cores ∧ s.pairOwner 0 2 = some job3 ∧ (s.core 0).counter 2 .ready + 255 ≤ 4095 ∧
       1 ∈ job3.cores ∧ (1 : Nat) ≠ 0 ∧ 255 ≤ (s.core 0).counter 2 .ready) ∧
    (let s := semState (runs 3841 0)
     s.pairOwner 0 2 = some job3 ∧ 4095 < (s.core 0).counter 2 .ready + 255 ∧ (s.core 0).counter 2 .room < 1) ∧
    (let g : RemoteSig := ⟨1, 0, 2, .ready, 5, 0⟩
     let s : State := { semState core3 with hatch := { (semState core3).hatch with signals := [g] } }
     takeSignal 1 0 s.hatch.signals = some (g, []) ∧ (s.core 0).faulted = false ∧ s.pairOwner 0 g.pair = some job3 ∧
       s.writesPending 1 0 g.at_ = false ∧
       (s.core 0).counter g.pair g.ctr + g.n ≤ 4095 ∧ (s.core 0).waiting = none) ∧
    (let s := semState { core3 with waiting := some (2, .ready, 5) }
     (s.core 0).waiting = some (2, .ready, 5) ∧ 5 ≤ (s.core 0).counter 2 .ready + 5) ∧
    (let s := semState { core3 with pairs := [(2, (4091, 0))] }
     4095 < (s.core 0).counter 2 .ready + 5) ∧
    (let g : RemoteSig := ⟨1, 0, 2, .ready, 5, 7⟩
     let s : State := { work.setCore 1 { core3 with scriber := ⟨3, 0, [], [toCore0], []⟩ } with hatch := {
       (work.setCore 1 { core3 with scriber := ⟨3, 0, [], [toCore0], []⟩ }).hatch with signals := [g] } }
     takeSignal 1 0 s.hatch.signals = some (g, []) ∧ s.writesPending 1 0 g.at_ = true) := by decide +kernel

/-- Four Frames of running time since a wait began, on a stroke and on an engine. -/
def waited (x : Core) : State := { work.setCore 0 x with tb := { up.tb with sub := 4 * up.frameSubs } }

/-- Core 0 of job 3 behind a list whose head is a CHAIN_RECV without a grant, since sub-tick 0. -/
def stuck : State :=
  waited { core3 with tracer := ⟨3, 0, [(3, 0, 0)], [], []⟩ }

theorem witness_WaitTimeouts :
    (let s := waited { runs 0 0 with waiting := some (2, .ready, 1), since := some 0 }
     (s.core 0).running = some ⟨3, 0, [1], [[inside]]⟩ ∧ (s.core 0).waiting.isSome = true ∧ (s.core 0).since = some 0 ∧
       0 + 4 * s.frameSubs ≤ s.tb.sub) ∧
    ((stuck.core 0).running = none ∧ (stuck.core 0).waiting = none ∧ stuck.stalled (stuck.core 0).since = false ∧
      (3, 0, 0) ∈ ((stuck.core 0).engine .tracer).since ∧ 0 + 4 * stuck.frameSubs ≤ stuck.tb.sub ∧ stuck.job 3 = some job3 ∧
      job3.state = .bound) := by decide +kernel

/-- A module with two cores in field 0, both of job 3: no spare. -/
def tight : State := { work with cap := { work.cap with fieldCores := [2] } }
def faulty (x : Core) : State := work.setCore 0 x

/-- Core 0 of a state reported by a unit. -/
def reported (s : State) (u : CheckUnit) : State :=
  (s.bump 0x01C 1 (.field (coreField 0))).setCore 0 { s.core 0 with
    faulted := true
    failed := some (u, (s.core 0).running.map fun r => (r.job, r.stroke)) }

theorem witness_CoreFaults :
    (work.boot.phase = .ready ∧ work.coreServes 0 = true ∧ CheckUnit.array ≠ .router ∧ CheckUnit.array ≠ .platePath ∧
      (∀ j ∈ work.coreJobs 0, ∀ k ∈ j.held, k ≠ 0 → (work.core k).faulted = false) ∧ (reported work .array).anySpare 0 = true) ∧
    (tight.coreServes 0 = true ∧ (∀ j ∈ tight.coreJobs 0, ∀ k ∈ j.held, k ≠ 0 → (tight.core k).faulted = false) ∧
      (reported tight .array).coreBusy 0 = true ∧ (reported tight .array).anySpare 0 = false) ∧
    (let s := tight.setCore 1 { core3 with faulted := true }
     s.boot.phase = .ready ∧ s.coreServes 0 = true ∧ job3 ∈ s.coreJobs 0 ∧ 1 ∈ job3.held ∧ (1 : Nat) ≠ 0 ∧ (s.core 1).faulted = true) ∧
    (let s := faulty { core3 with faulted := true }
     (s.core 0).faulted = true ∧ (s.core 0).retired = false ∧ (s.core 0).takenBy = none ∧ s.coreBusy 0 = true ∧
       s.spareCore 17 = true ∧ coreField 17 = coreField 0 ∧ s.model 7 = some model7 ∧ s.stream 5 = some stream5) ∧
    (let s := faulty { Core.init with faulted := true, hadFault := true }
     (0 : Nat) < 86016 ∧ (s.core 0).faulted = true ∧ (s.core 0).retired = false ∧ (s.core 0).jobs = [] ∧ (s.core 0).hadFault = true) ∧
    (let s := up.setUnit 671 { up.unit 671 with failed := true }
     (671 : Nat) < 672 ∧ (s.unit 671).failed = true ∧ (s.unit 671).retired = false ∧ (s.unit 671).ctxs = [] ∧
       (s.unit 671).hadFault = false) := by
  decide +kernel

theorem witness_TakeoverCarriesTheStorage :
    Memory.wf up.hatch.plate = true ∧ Memory.wf up.hatch.acc = true ∧
    Memory.wf ({ up.hatch with plate := [(0, 1), (0x4BFFF, 2)] } : Hatch).plate = true ∧ (0 : Nat) ≠ 17 ∧ (0 : Nat) < 86016 ∧ (17 : Nat) < 86016 ∧ (5 : Nat) ≠ 0 ∧ (5 : Nat) ≠ 17 := by decide

/-- Stream 5 as a Keep stream with its second shadow on core 17. -/
def kept5 : Stream := { stream5 with keep := true, secondCores := [17] }

theorem witness_PlateAndMesh :
    (work.boot.phase = .ready ∧ work.coreServes 0 = true ∧ work.wordClass 0 (.window 3 2 0) = none ∧
      work.wordClass 0 (.window 3 0 0x4BFC0) = none ∧ work.wordClass 0 (.window 3 0 0x4BFBF) = some false ∧
      work.wordClass 0 (.window 3 1 63) = some true ∧ work.wordClass 0 (.accumulator 3) = some false ∧
      work.wordClass 0 (.shadow 3) = some false ∧ work.wordClass 17 (.shadow 3) = none ∧
      soloing.wordClass 1 (.shadow 3) = some false ∧ soloing.wordClass 0 (.shadow 3) = none ∧ work.wordClass 0 .system = some false ∧ work.wordClass 0 (.weights 7 false) = none) ∧
    (let s : State := { work with models := [(7, { model7 with res := .hot [0] })] }
     s.coreServes 0 = true ∧ s.wordClass 0 (.weights 7 false) = some true ∧ s.wordClass 0 (.weights 7 true) = some true ∧
       (s.model 7).any (·.handle == 7) = true) ∧
    (let s : State := { work with streams := [(5, kept5)] }
     s.coreServes 17 = true ∧ s.wordClass 17 (.second 5) = some false ∧ s.stream 5 = some kept5) ∧
    (3 ∈ (work.core 0).jobs ∧ work.job 3 = some job3 ∧ job3.window 0 0 = some ⟨64, 0x4C000, true, true⟩ ∧ 0x4BFBF < 0x4C000 - 64) ∧
    (let s : State := { up with hatch := { up.hatch with links := [(1, ⟨[], false, true⟩)] } }
     (s.meshLink 1).laneFault = true ∧ (s.meshLink 1).half = false) := by decide +kernel

/-- 04 R145: a ninth retry at flit 1023 lies within the window of 1,024 flits that began at flit 0; at flit 1024 it does not. -/
theorem test_lane_fault_window :
    let s : State := { up with hatch := { up.hatch with links := [(1, ⟨[0, 1, 2, 3, 4, 5, 6, 7], false, false⟩)] } }
    (match exec (.flitCrcRetry 1 1023) s with | .next t => (t.meshLink 1).laneFault | _ => false) = true ∧
    (match exec (.flitCrcRetry 1 1024) s with | .next t => (t.meshLink 1).laneFault | _ => true) = false := by decide +kernel

/-! ### Faults of fields, Easels and the module; the end of a job -/

theorem witness_ModuleFaults :
    (work.boot.phase = .ready ∧ (work.field 0).out = false ∧ (work.jobs.map (·.2)).filter (work.inField 0) = [job3]) ∧
    (up.boot.phase = .ready ∧ 0 ∉ up.fault.easelOut ∧ up.fault.easelOut = []) ∧
    (let s : State := { up with fault := { up.fault with easelOut := [0] } }
     1 ∉ s.fault.easelOut ∧ s.fault.easelOut ≠ []) := by decide +kernel

/-- A record of stream 5 at its start. -/
def record5 : ExportRec := ⟨1, zeros 64, 0, 0, 1, 1, 0, 0, 0, [], [], ⟨0, 0, 0, [], []⟩, none⟩
/-- A Keep stream that lost its place, its second shadow, and the module behind a plan close. -/
def lost5 (last : Nat) : Stream :=
  { stream5 with
    keep := true
    job := 1024
    restart := some last
    budget := some ⟨(3, 0), [], none⟩
    second := some (1, record5) }
/-- No field has a core: no place can be found. -/
def barren (last : Nat) : State := { up with models := [(7, model7)], streams := [(5, lost5 last)] }
/-- Two fields with cores and units. -/
def roomy : State := { ample [] with
  cap := { up.cap with fieldCores := [18, 18], burinUnits := 16, channels := 3, speed := 8800, hostPath := 10 }
  streams := [(5, lost5 1)] }

theorem witness_JobTearDown :
    (work.job 3 = some job3 ∧ job3.id = 3 ∧ job3.rows = [5] ∧ work.stream 5 = some stream5 ∧ stream5.id = 5 ∧ stream5.keep = false ∧
      stream5.staged = [] ∧ stream5.lineBuf = [] ∧ stream5.outBuf = [] ∧ stream5.audio = [] ∧ 0 ∈ job3.held ∧ 1 ∈ job3.held) ∧
    (let x : Stream := { lost5 0 with job := 3, restart := none, budget := none, shadow := some record5 }
     let s : State := { work with streams := [(5, x)] }
     s.stream 5 = some x ∧ x.keep = true ∧ x.second.isSome = true ∧ x.shadow.isSome = true ∧ s.arrivalOf x = none ∧ s.model x.handle = some model7 ∧
       model7.damaged = false) ∧
    (let s := adaptRuns fill3
     s.job 3 = some fill3 ∧ fill3.kind = .adapt 0 1 ∧ fill3.rows = [] ∧ s.desc 0 1 = some adaptAs) ∧
    (let s := work.setCore 0 { core3 with slots := [(63, 3, 0)] }
     s.job 3 = some job3 ∧ 0 ∈ job3.held ∧ (63, 3, 0) ∈ (s.core 0).slots) ∧
    ending.tb.ticks ≠ 0 := by decide +kernel

theorem firstPlace_of_none (f : List Nat → Except Nat Place) (w : Nat) :
    ∀ l : List (Option (List Nat)), (∀ x ∈ l, x = none) → firstPlace f l w = .error w
  | [], _ => rfl
  | none :: rest, h => firstPlace_of_none f w rest fun x hx => h x (List.mem_cons_of_mem _ hx)
  | some a :: _, h => absurd (h (some a) List.mem_cons_self) (by simp)

theorem takeCores_of_no_offer (offers : Nat → List Nat) (h : ∀ f, offers f = []) (n : Nat) :
    ∀ g : List Nat, g ≠ [] → takeCores offers n g = none
  | [], e => absurd rfl e
  | f :: g, _ => by simp [takeCores, h]

theorem fieldGroups_nonempty : ∀ g ∈ fieldGroups, g ≠ [] := by
  have grown : ∀ l, ∀ g ∈ growGroups l, g ≠ [] := by
    intro l g h
    unfold growGroups at h
    simp only [List.mem_flatten, List.mem_map] at h
    aesop
  have ones : ∀ g ∈ (List.range 84).map (fun f => [f]), g ≠ [] := by simp
  intro g h
  simp only [fieldGroups, List.mem_append] at h
  rcases h with ((h | h) | h) | h
  · exact ones g h
  all_goals exact grown _ g h

theorem fitNew_of_no_offer (s : State) (a : Ask) (m : List Byte) (c : Cost) (n : Nat) (h : ∀ kib f, s.fieldOffer a.claim kib f = []) :
    s.fitNew a m c n = .error 2 := by
  have none_ : ∀ kib, ∀ g ∈ fieldGroups, takeCores (s.fieldOffer a.claim kib) n g = none := fun kib g hg =>
    takeCores_of_no_offer _ (h kib) n g (fieldGroups_nonempty g hg)
  unfold State.fitNew
  dsimp only
  rw [firstPlace_of_none _ _ _ fun x hx => by
    obtain ⟨f, _, rfl⟩ := List.mem_map.1 hx
    exact takeCores_of_no_offer _ (h _) n _ (List.cons_ne_nil _ _)]
  dsimp only
  rw [firstPlace_of_none _ _ _ fun x hx => by
    obtain ⟨g, hg, rfl⟩ := List.mem_map.1 hx
    exact none_ _ g (List.mem_of_mem_drop hg)]
  dsimp only
  rw [if_neg]
  simp only [Bool.and_eq_true, List.any_eq_true, List.mem_map, not_and, not_exists]
  rintro _ _ ⟨g, hg, rfl⟩ e
  rw [none_ 0 g hg] at e
  cases e

/-- What stream 5 asks for. -/
def askAgain : Ask := ⟨0, 7, 1, 1, true, false, some (3, 0), [7]⟩

theorem barren_fits_nothing (last : Nat) (c : Cost) : ((barren last).vacated (lost5 last)).fit askAgain image c = .error 2 := by
  have jobs : ((barren last).vacated (lost5 last)).joinable askAgain = [] := rfl
  have key : (freeKey ((barren last).vacated (lost5 last)).jobs 1024 0).isNone = false := rfl
  have h : ∀ n, ((barren last).vacated (lost5 last)).fitNew askAgain image c n = .error 2 := fun n =>
    fitNew_of_no_offer _ _ _ _ n fun _ _ => rfl
  unfold State.fit
  simp only [jobs, key, h, List.findSome?_nil, Bool.false_eq_true, if_false]
  split
  · next e =>
    rw [List.findSome?_eq_some_iff] at e
    obtain ⟨_, _, _, _, e, _⟩ := e
    cases e
  · rfl

theorem barren_places_nothing (c : Cost) (p : Place) : ((barren 0).vacated (lost5 0)).fit askAgain image c ≠ .ok p := by
  rw [barren_fits_nothing]
  exact fun e => nomatch e

theorem witness_KeepRestartRefused :
    (barren 0).stream 5 = some (lost5 0) ∧ (lost5 0).restart = some 0 ∧ (lost5 0).second.isSome = true ∧ (barren 0).tb.ticks = 0 ∧
    (barren 0).boot.phase = .ready ∧ (lost5 0).budget = some ⟨(3, 0), [], none⟩ ∧ (lost5 0).voices = [7] ∧
    ((barren 0).model 7).isSome = true ∧ (costOf image 1 1).isSome = true ∧ (barren 0).tb.frameOrd = 0 ∧
    (∀ c p, ((barren 0).vacated (lost5 0)).fit askAgain image c ≠ .ok p) ∧
    (barren 1).tb.frameOrd < 1 ∧ 1 < (barren 1).tb.frameOrd + 2 :=
  ⟨by decide, rfl, rfl, rfl, rfl, rfl, by decide, by decide, by decide, rfl, barren_places_nothing, by decide,
    by decide⟩

theorem witness_KeepRestartPlaced :
    ((costOf image 1 1).any fun c => ((roomy.vacated (lost5 1)).fit askAgain image c).toOption.isSome) = true := by decide +kernel

theorem witness_KeepRestartReserves :
    roomy.stream 5 = some (lost5 1) ∧ ((costOf image 1 1).any fun c => roomy.reserveOk image (roomy.streamMaxCores image c) 80) = true := by decide +kernel

/-! ### Engines and DRAM -/

/-- Job 3 on core 0, whose Tracer is at an entry of stroke 0 with `part` of its bytes in transfers. -/
def walking (pos part : Nat) : Job := { solo3 with walks := [(0, (0, pos, part))] }
def engine (pos part : Nat) : State := { soloing with
  jobs := [(3, walking pos part)]
  hatch := { up.hatch with cores := [(0, { core3 with tracer := ⟨3, 0, [], [], []⟩ })] } }

/-- The same with a model whose entry 1 waits for READY of link 0. -/
def model7w : Model := { model7 with image := patch (patch image 305 [1]) 330 [1] }
def engineWaits : State := { engine 1 0 with models := [(7, model7w)] }
/-- The same with an entry 1 that reads at the home module, of a job that has a home and no request credit. -/
def walkingHome : Job := { walking 1 0 with home := some 2 }
def engineHome : State :=
  { engine 1 0 with jobs := [(3, walkingHome)], models := [(7, { model7 with image := patch image 306 [0x60] })], ihx := member1 }

theorem lone_turn (s : State) (j : Job) (c : Nat) (eng : Engine) (seq : Nat) (h : j.cores = [c]) (k : strokeCount (s.strokes j) = 1) :
    s.listTurn j c eng 0 seq = true := by
  unfold State.listTurn
  dsimp only
  simp [lone_home _ j c _ h, k, List.range_succ]

/-- All that the Tracer of core 0 needs to run but the turn of its list, which a job with one core and one stroke always has. -/
theorem runs_of_rest (s : State) (j : Job) (eng : Engine) (h : j.cores = [0]) (k : strokeCount (s.strokes j) = 1)
    (r : (s.engineUp j 0 eng && (s.mayFetch j || ((j.state == .bound || j.state == .frosting) && 0 < (s.walk j eng 0).2.2))
      && s.seqPlanned j eng (s.walk j eng 0).1) = true)
    (f : s.engineFree ((s.core 0).engine eng) eng j.id 0 = true) : s.engineRuns j 0 eng 0 = true := by
  have t := lone_turn s j 0 eng (s.walk j eng 0).1 h k
  unfold State.engineRuns
  dsimp only
  rw [t, f, Bool.and_true, Bool.and_true]
  exact r

/-- The entry at a position of the list, where the list stands there. -/
def standsAt (s : State) (j : Job) (pos part : Nat) (p : Item → Bool) : Bool :=
  s.job 3 == some j && s.regrant j 0 == none && s.walk j .tracer 0 == (0, pos, part)
    && ((s.engineList j .tracer 0 0)[pos]?).any fun e => e.2 == (noStream, 0) && p e

theorem witness_EngineEntries :
    (standsAt (engine 0 0) (walking 0 0) 0 0 fun e => e.1.op = 0 && (engine 0 0).waitMet (walking 0 0) 0 .tracer e.1
      && (engine 0 0).entryFits (walking 0 0) 0 e && spaceOf e.1.src != 6) = true ∧
    (standsAt (engine 1 0) (walking 1 0) 1 0 fun e => e.1.op = 1 && (engine 1 0).waitMet (walking 1 0) 0 .tracer e.1
      && (engine 1 0).entryFits (walking 1 0) 0 e && spaceOf e.1.src != 6) = true ∧
    (standsAt (engine 1 32) (walking 1 32) 1 32 fun e => e.1.op = 1 && spaceOf e.1.src != 6) = true ∧
    (standsAt engineWaits (walking 1 0) 1 0 fun e => e.1.op != 3 && spaceOf e.1.src != 6
      && !engineWaits.waitMet (walking 1 0) 0 .tracer e.1) = true ∧
    (standsAt (engine 3 0) (walking 3 0) 3 0 fun e => e.1.op != 3 && e.1.op != 2 && spaceOf e.1.src != 6
      && (engine 3 0).waitMet (walking 3 0) 0 .tracer e.1 && !(engine 3 0).entryFits (walking 3 0) 0 e) = true ∧
    (standsAt engineHome walkingHome 1 0 fun e => spaceOf e.1.src == 6 && !engineHome.hasCredits walkingHome 1) = true ∧
    (engine 0 0).engineRuns (walking 0 0) 0 .tracer 0 = true ∧ (engine 1 32).engineRuns (walking 1 32) 0 .tracer 0 = true ∧
    engineWaits.engineRuns (walking 1 0) 0 .tracer 0 = true ∧ engineHome.engineRuns walkingHome 0 .tracer 0 = true :=
  ⟨by decide +kernel, by decide +kernel, by decide +kernel, by decide +kernel, by decide +kernel, by decide +kernel,
    runs_of_rest _ _ _ rfl (by decide +kernel) (by decide +kernel) (by decide +kernel),
    runs_of_rest _ _ _ rfl (by decide +kernel) (by decide +kernel) (by decide +kernel),
    runs_of_rest _ _ _ rfl (by decide +kernel) (by decide +kernel) (by decide +kernel),
    runs_of_rest _ _ _ rfl (by decide +kernel) (by decide +kernel) (by decide +kernel)⟩

/-- The list that waits has done so for 4 Frames. -/
theorem test_overdue_list :
    ({ engineWaits.setCore 0 { core3 with tracer := ⟨3, 0, [(3, 0, 0)], [], []⟩ } with
      tb := { up.tb with sub := 4 * up.frameSubs } } : State).overdue 0 .tracer = [3] := by decide +kernel

/-- A COPY of two bytes into the first window of job 3, in progress or done. -/
def copy1 : Xfer where
  core := 0
  engine := .tracer
  job := 3
  stroke := 0
  entry := 1
  op := 1
  srcSpace := 2
  srcHandle := 1
  srcOff := 0
  stream := 16384
  dstSpace := 0
  dstHandle := 0
  dstOff := 0
  dstCore := 0
  len := 2
  spans := []
  chain := 0
  notify := none
  release := none
  deadline := 0
  issued := 0
  live := true
  data := []
  fetched := false
  done := false
def copied1 : Xfer := { copy1 with data := [1, 2], done := true }
/-- A CHAIN_RECV of 64 bytes that waits for its data. -/
def recv1 : Xfer := { copy1 with op := 3, srcSpace := 4, len := 64 }
/-- A write of one byte to the scratch region. -/
def write1 : Xfer := { copy1 with op := 1, srcSpace := 0, dstSpace := 2, dstHandle := 1, data := [7], len := 1 }

/-- `work` with transfers of core 0's Tracer. -/
def moving (x : Core) (q : List Xfer) : State :=
  { work with hatch := { work.hatch with cores := tabSet work.hatch.cores 0 x }, mem := { work.mem with queue := q } }

theorem witness_TransfersAndTheWeightChain :
    (let c := { core3 with tracer := ⟨3, 0, [], [copied1], []⟩ }
     let s := moving c []
     ((s.core 0).engine .tracer).outstanding.find? (fun t => t.done && t.op != 0) = some copied1 ∧ s.job copied1.job = some job3 ∧
       copied1.op = 1 ∧ copied1.dstSpace = 0) ∧
    (let x := { copied1 with dstSpace := 2, engine := .scriber }
     [x].find? (fun t => t.done && t.op != 0) = some x ∧ x.dstSpace = 2) ∧
    (let x := { copied1 with op := 2, dstSpace := 4, engine := .scriber, spans := [(64, 2, false)] }
     [x].find? (fun t => t.done && t.op != 0) = some x ∧ successor job3 0 = some 1 ∧
       chainPieces 3 x.spans x.data = [⟨3, 64, [1, 2], false⟩]) ∧
    [copy1].find? (fun t => t.done && t.op != 0) = none ∧ copy1.done = false ∧
    (let x := { copied1 with op := 0, notify := some (0, 2, 1) }
     let s := moving { core3 with tracer := ⟨3, 0, [], [x], []⟩, pairs := [(2, (4094, 0))] } []
     ((s.core 0).engine .tracer).outstanding = [x] ∧ x.done = true ∧ s.pairOwner 0 2 = some job3 ∧ (s.core 0).waiting = none ∧
       (s.core 0).counter 2 .ready + 1 ≤ 4095) ∧
    (let s := moving { core3 with tracer := ⟨3, 0, [], [recv1], []⟩, chainIn := [⟨3, 64, [5], false⟩] } []
     (s.core 0).chainIn = [⟨3, 64, [5], false⟩] ∧
       (s.core 0).tracer.outstanding.find? (fun u => u.op = 3 && u.job = 3 && !u.done) = some recv1 ∧ s.job 3 = some job3 ∧
       recv1.len = 64 ∧ recv1.chain = 0 ∧ { recv1 with chain := 1 }.chain ≠ 0 ∧ successor job3 0 = some 1 ∧ (1 : Nat) ≠ 0) ∧
    (let s := moving { core3 with tracer := ⟨3, 0, [], [recv1], []⟩, chainIn := [⟨3, 65, [5], false⟩] } []
     (s.core 0).chainIn = [⟨3, 65, [5], false⟩] ∧ recv1.len ≠ 65) := by decide +kernel

/-- Job 3 on cores 0 and 1, with core 1 at the CHAIN_RECV of its list, or with its grant withdrawn. -/
def chained (again : List (Nat × Nat × Nat)) : Job := { job3 with walks := [(0, (0, 2, 0))], again := again, plans := [[⟨0, 5, 0, 0⟩]] }
def chaining (again : List (Nat × Nat × Nat)) : State := { soloing with
  jobs := [(3, chained again)]
  hatch := { up.hatch with cores := [(0, core3), (1, { core3 with tracer := ⟨3, 0, [], [], []⟩ })] } }

/-- The plan is a free value (log entry 8): where it gives the stroke of the image to the second of the job's two cores, that core's
CHAIN_RECV can be granted. -/
theorem witness_ChainGrants (h : Config.strokeCore (strokeImage image) 2 0 % 2 = 1) (again : List (Nat × Nat × Nat))
    (ha : again = [] ∨ again = [(0, 0, 2)]) :
    (chaining again).job 3 = some (chained again) ∧ (chaining again).engineRuns (chained again) 1 .tracer 0 = true ∧
    predecessor (chained again) 1 = some 0 ∧ (chaining again).walk (chained again) .tracer 0 = (0, 2, 0) ∧
    (chaining again).regrant (chained again) 1 = again.head? ∧
    (((chaining again).engineList (chained again) .tracer 0 0)[2]?).any (fun e => e.1.op = 3 && e.1.chain = 0 && !e.1.wait
      && (chaining again).waitMet (chained again) 1 .tracer e.1 && (chaining again).entryFits (chained again) 1 e) = true := by
  have home : strokeHome ((chaining again).strokes (chained again)) (chained again) 0 = some 1 := by
    unfold strokeHome
    show (chained again).cores[Config.strokeCore (strokeImage image) 2 0 % 2]? = some 1
    rw [h]
    rfl
  have count : strokeCount ((chaining again).strokes (chained again)) = 1 := by
    show strokeCount (strokeImage image) = 1
    decide +kernel
  have turn (seq : Nat) : (chaining again).listTurn (chained again) 1 .tracer 0 seq = true := by
    unfold State.listTurn
    dsimp only
    simp [home, count, List.range_succ]
  refine ⟨by rcases ha with rfl | rfl <;> decide +kernel, ?_, rfl, by rcases ha with rfl | rfl <;> decide +kernel, ?_,
    by rcases ha with rfl | rfl <;> decide +kernel⟩
  · unfold State.engineRuns
    dsimp only
    rw [turn, Bool.and_true]
    rcases ha with rfl | rfl <;> decide +kernel
  · unfold State.regrant
    rcases ha with rfl | rfl
    · rfl
    · show List.find? _ [(0, 0, 2)] = some (0, 0, 2)
      simp [home]

/-- Three channels in service. -/
def threeChans : Tab Channel := [(0, ⟨0, 0, 0, 0, [], 0, 0, 0⟩), (1, ⟨0, 0, 0, 0, [], 0, 0, 0⟩), (2, ⟨0, 0, 0, 0, [], 0, 0, 0⟩)]
def serving (s : State) : State := { s with mem := { s.mem with chans := threeChans } }

theorem witness_DramService :
    (let s := serving (moving { core3 with tracer := ⟨3, 0, [], [copy1], []⟩ } [copy1])
     let c := s.xferChannel copy1
     c < 3 ∧ s.firstServed (s.waitingAt c) = some copy1 ∧ s.scrubFirst c = false ∧ (s.othersAt c).all (s.waits copy1).before = true ∧
       s.job copy1.job = some job3 ∧ copy1.reads = true) ∧
    (let s := serving (moving { core3 with tracer := ⟨3, 0, [], [write1], []⟩ } [write1])
     let c := s.xferChannel write1
     s.firstServed (s.waitingAt c) = some write1 ∧ s.scrubFirst c = false ∧ (s.othersAt c).all (s.waits write1).before = true ∧
       write1.reads = false ∧ write1.dstHandle = 1 ∧ s.chanServes c = true ∧ s.waitingAt c ≠ []) ∧
    (let x := { write1 with live := false, issued := 24 * hourSubs, deadline := BitVec.ofNat 32 (24 * hourSubs + 1000000) }
     let s := serving (moving { core3 with tracer := ⟨3, 0, [], [x], []⟩ } [x])
     let s : State := { s with tb := { s.tb with sub := 24 * hourSubs + 1000 } }
     let c := s.xferChannel x
     s.firstServed (s.waitingAt c) = some x ∧ s.scrubFirst c = true ∧ s.chanServes c = true) ∧
    (let s : State := { serving (moving core3 [{ write1 with live := false }]) with
       jobs := [(3, job3), (4, { job3 with id := 4, state := .frosting, cores := [], rows := [] })]
       tb := { up.tb with sub := up.frameSubs - 100 } }
     let c := s.xferChannel write1
     s.firstServed (s.waitingAt c) = some { write1 with live := false } ∧ s.scrubFirst c = false ∧
       (s.othersAt c).all (s.waits { write1 with live := false }).before = false) ∧
    (serving up).chanServes 2 = true ∧ (serving up).waitingAt 2 = [] ∧
    (work.boot.phase = .ready ∧ work.stream ((0x800000000 + 5 * 1048576 - 0x800000000) / 1048576) = some stream5 ∧
      work.job stream5.job = some job3) ∧
    (let s : State := { adaptRuns frosted3 with mem := { up.mem with saveUsed := [(3, 24575)], poolUsed := [(1048576 + 3, 0)] } }
     s.mem.saveUsed.find? (fun p => p.2 == (0x23FFFFFFFF - 0xC00000000) / 2097152) = none ∧
       s.mem.saveUsed.find? (fun p => p.2 == (0xC00000000 + 24575 * 2097152 - 0xC00000000) / 2097152) = some (3, 24575) ∧
       s.mem.poolUsed.find? (fun p => p.2 == (0x2400000000 - 0x2400000000) / 2097152) = some (1048576 + 3, 0) ∧
       s.job 3 = some frosted3 ∧ frosted3.state = .frosted) ∧
    (let s : State := { up with models := [(7, model7)], mem := { up.mem with poolUsed := [(7, 0)] } }
     s.mem.poolUsed.find? (fun p => p.2 == (0x2400000000 - 0x2400000000) / 2097152) = some (7, 0) ∧ s.model 7 = some model7 ∧
       model7.hot = false) ∧
    ({ model7 with res := .hot [0] } : Model).hot = true := by decide +kernel

theorem witness_DramServiceOrder :
    (serving work).firstServed [copy1, { copy1 with live := false }] = some copy1 ∧
    (serving work).firstServed [{ copy1 with live := false }, copy1] = some copy1 := by decide +kernel

/-! ### Residency, Frost, remote reads -/

/-- An Auto model with one open stream where one stream is enough. -/
def eager : State :=
  { work with mem := { (serving work).mem with policy := ⟨1, true, 1, 13⟩ } }
/-- SHARE 0: no residency at all. -/
def noShare : State := { work with mem := { work.mem with policy := ⟨1, true, 1, 0⟩ } }

theorem noShare_finds_nothing (ms : List Model) (n : Nat) (m : Model) : (noShare.without ms n).findSet m = none := by
  have h : ∀ (l : List Model) (s : State), s.mem.policy.share = 0 →
      (l.foldl (fun s m => s.setModel { m with res := .cold }) s).mem.policy.share = 0 := by
    intro l
    induction l with
    | nil => exact fun s hs => hs
    | cons a l ih => exact fun s hs => ih _ hs
  have e : (noShare.without ms n).mem.policy.share = 0 := h _ _ rfl
  simp only [State.findSet, e, if_true]

/-- Model 7 hot on core 2; with another Auto model that waits for a promotion it stands in the way of. -/
def hot7 : Model := { model7 with res := .hot [0] }
def bulky (m : Model) : Model := { m with image := patch m.image 0x74 (leBytes 4 (400 + 13 * 16384)) }
def model9 : Model := bulky { model7 with handle := 9 }
def crowded : State := { eager with
  models := [(7, bulky hot7), (9, model9)]
  streams := [(5, { stream5 with handle := 9, voice := 9 })]
  cap := { eager.cap with fieldCores := [1] } }

theorem witness_Residency :
    (eager.model 7 = some model7 ∧ model7.handle = 7 ∧ model7.res = .cold ∧ model7.cls = 1 ∧ model7.damaged = false ∧
      eager.mem.policy.autoMin ≤ eager.openStreams 7 ∧ eager.mem.policy.share ≠ 0 ∧ eager.findSet model7 = some [0] ∧
      freeKey eager.jobs 1024 0 = some 0 ∧ eager.reserveOk model7.image 1 0 = true) ∧
    (let m := { model7 with res := .copying [2] 3 0 (0, 0) }
     let s : State := serving { work with models := [(7, m)] }
     s.model 7 = some m ∧ s.promotes [2] 3 = true ∧
       s.channelServes (s.channelOf (s.promotionPiece m [2] 0).1) (s.waitingFor false 0 0 3) = true ∧
       imgWeightBytes m.image ≤ 0 + (s.promotionPiece m [2] 0).2.2.2 ∧ s.job 3 = some job3) ∧
    (let m := { model7 with res := .copying [2] 3 0 (0, 0), image := patch model7.image 0x74 (leBytes 4 8656) ++ zeros 8192 }
     let s : State := serving { work with models := [(7, m)] }
     s.promotes [2] 3 = true ∧ 0 + (s.promotionPiece m [2] 0).2.2.2 < imgWeightBytes m.image) ∧
    (let m := { model7 with res := .copying [0] 9 0 (0, 0) }
     ({ work with models := [(7, m)] } : State).promotes [0] 9 = false) := by decide +kernel

/-- No set where no field has a core with room for its last part. -/
theorem findSet_none_of_no_last (s : State) (m : Model)
    (h : ∀ f ∈ s.setFields m.handle, s.plateOffer s.plateLive
      (ceilDiv (imgWeightBytes m.image) 1024 - 16 * s.mem.policy.share * (setCores m s.mem.policy.share - 1)) f = []) :
    s.findSet m = none := by
  unfold State.findSet
  dsimp only
  split
  · rfl
  · rw [List.findSome?_eq_none_iff]
    intro g hg
    have hs := (List.mem_filter.mp hg).2
    simp only [List.all_eq_true, List.contains_iff_mem] at hs
    have he : (g.map (s.plateOffer s.plateLive
        (ceilDiv (imgWeightBytes m.image) 1024 - 16 * s.mem.policy.share * (setCores m s.mem.policy.share - 1)))).flatten = [] := by
      simp only [List.flatten_eq_nil_iff, List.mem_map]
      rintro l ⟨f, hf, rfl⟩
      exact h f (hs f hf)
    unfold State.setOn
    dsimp only
    rw [he]
    rfl

theorem crowded_noSet : crowded.findSet model9 = none :=
  findSet_none_of_no_last _ _ (by decide +kernel)

/-- The one model that could leave makes room. -/
theorem evictions_of_one (s : State) (m v : Model) (e : s.evictable = [v]) (n : s.findSet m = none)
    (y : ((s.without [v] 1).findSet m).isSome = true) : s.evictions m = [v] := by
  have z : s.without [v] 0 = s := rfl
  simp [State.evictions, e, z, y, n, List.range_succ]

theorem crowded_evicts : crowded.evictions model9 = [bulky hot7] :=
  evictions_of_one _ _ _ (by decide +kernel) crowded_noSet (by decide +kernel)

theorem witness_ResidencyInWay :
    crowded.model 7 = some (bulky hot7) ∧ crowded.openStreams 7 = 0 ∧
    ∃ q ∈ crowded.models, crowded.wantsPromotion q.2 = true ∧ crowded.findSet q.2 = none ∧ ∃ v ∈ crowded.evictions q.2, v.handle = 7 :=
  ⟨rfl, by decide +kernel, (9, model9), .tail _ (.head _), by decide +kernel, crowded_noSet, bulky hot7,
    by rw [crowded_evicts]; exact .head _, rfl⟩

theorem witness_ResidencyLeaves :
    (let m := { hot7 with clsNext := some 0 }
     let s : State := { up with models := [(7, m)] }
     s.model 7 = some m ∧ m.res = .hot [0] ∧ s.openStreams 7 = 0 ∧ m.clsNext.isSome = true) ∧
    (let s : State := { work with models := [(7, hot7)] }
     s.model 7 = some hot7 ∧ s.openStreams 7 ≠ 0) ∧
    (let s : State := { up with models := [(7, hot7)] }
     s.model 7 = some hot7 ∧ s.openStreams 7 = 0 ∧ hot7.clsNext = none ∧ ∀ q ∈ s.models, s.wantsPromotion q.2 = false) := by decide +kernel

theorem witness_ResidencyNotFound :
    noShare.model 7 = some model7 ∧ model7.res = .cold ∧ noShare.findSet model7 = none ∧
    ∀ n, n ≤ noShare.evictable.length → (noShare.without noShare.evictable n).findSet model7 = none :=
  ⟨by decide +kernel, rfl, rfl, fun n _ => noShare_finds_nothing _ n _⟩

/-- Fill job 3, of streams, asked to Frost; and about to Thaw from a save area that belongs to another Season, and from its own. -/
def frosting3 : Job := { job3 with fill := true, state := .frosting }
def thawing3 : Job := { job3 with fill := true, state := .thawing, save := some area3 }
def rebinding (j : Job) : State :=
  { work with jobs := [(3, j)], rebind := { up.rebind with place := some (3, [2, 3]), at_ := 0 }, tb := { up.tb with frameOrd := 1 } }

theorem witness_FrostAndThaw :
    (let s : State := { work with jobs := [(3, frosting3)] }
     s.job 3 = some frosting3 ∧ s.model frosting3.handle = some model7 ∧ frosting3.fill = true ∧ frosting3.state = .frosting ∧
       s.frostReady frosting3 = true ∧ s.switchServed frosting3 = true ∧ 0 ∈ frosting3.cores) ∧
    (let j := { job3 with state := .frosting }
     let s := rebinding j
     s.job 3 = some j ∧ s.rebind.place = some (3, [2, 3]) ∧ s.model j.handle = some model7 ∧ j.fill = false ∧ s.boot.phase = .ready ∧
       s.switchServed j = true ∧ ∀ c ∈ j.cores, (s.core c).faulted = false ∧ (s.core c).running = none) ∧
    (let j := { job3 with state := .frosted, cores := [], save := some area3 }
     let s := rebinding j
     s.job 3 = some j ∧ s.rebind.place = some (3, [2, 3]) ∧ s.model j.handle = some model7 ∧ j.fill = false ∧ s.boot.phase = .ready ∧
       s.switching < 16) ∧
    (let s : State := { work with jobs := [(3, thawing3)] }
     s.job 3 = some thawing3 ∧ s.model thawing3.handle = some model7 ∧ thawing3.save = some area3 ∧ thawing3.state = .thawing ∧
       s.switchServed thawing3 = true ∧ s.hasCredits thawing3 (area3.parking.filter (·.pstate = 0)).length = true ∧
       ∀ c ∈ thawing3.cores, (s.core c).faulted = false) := by decide +kernel

def read4 (age : Nat) : Remote := ⟨4, 0, 2, 0, 0, 64, age, 0⟩
def reader (age : Nat) : Job := { fill3 with remotes := [read4 age] }
/-- `adaptRuns` when 8 µs have passed. -/
def later (j : Job) : State := { adaptRuns j with tb := { up.tb with sub := eightUs } }
/-- Member 1 with a port whose responses have 4 credits. -/
def home : State := { up with ihx := member1, jobs := [(3, { fill3 with input := zeros 8 })] }

theorem witness_RemoteReads :
    (let s := later (reader 6)
     s.job 3 = some (reader 6) ∧ (reader 6).remotes.find? (fun r => r.tag = 4) = some (read4 6) ∧ (reader 6).save = none ∧
       (reader 6).state = .bound ∧ (read4 6).at_ + eightUs ≤ s.tb.sub ∧ (read4 6).age < 7 ∧ s.hasCredits (reader 6) 1 = true) ∧
    (7 ≤ (read4 7).age ∧ (reader 7).state = .bound ∧ (read4 7).at_ + eightUs ≤ (later (reader 7)).tb.sub) ∧
    (adaptRuns (reader 6)).tb.sub < (read4 6).at_ + eightUs ∧
    (let j := { reader 6 with home := some 2 }
     let s : State := { later j with ihx := member1 }
     (read4 6).age < 7 ∧ s.hasCredits j 1 = false) ∧
    (let j := { reader 0 with state := .frosted, save := some area3 }
     let s := adaptRuns j
     s.job 3 = some j ∧ j.save = some area3 ∧ s.model j.handle = some model8) ∧
    ((home.ihxPort 0).trained = true ∧ (home.ihxPort 0).secured = true ∧ (home.ihxPort 0).wiringErr = false ∧
      (home.ihxPort 0).reads = [] ∧ (home.ihxPort 0).vc2Fill < ceilDiv 1025 256 ∧ ceilDiv 1024 256 ≤ (home.ihxPort 0).vc2Fill ∧
      (home.job 3).isSome = true ∧ home.job 4 = none) ∧
    (let s : State := { up with ihx := { member1 with ports := [(0, { secured with wiringErr := true })] } }
     (s.ihxPort 0).wiringErr = true) := by decide +kernel

/-! ### Burin -/

/-- A chunk that Burin may take, and stream 5 rendering it on unit 0, context 0. -/
def chunkB : Chunk := { chunk5 with condAt := some 0, cond := zeros 160 }
def sounding : Stream := { stream5 with burinChunks := [chunkB] }
def unit0 : BurinUnit := ⟨[(0, 5)], [(7, 0)], none, false, false, false, [], []⟩
def singing (x : Stream) (u : BurinUnit) : State := { work with streams := [(5, x)], burin := [(0, u)] }
/-- Stream 5 with sample n computed, before and after it was handed off once. -/
def computed (n handed : Nat) : Stream := { sounding with current := some (n, 0, sounding.head), headAt := n, handed := handed }
def handed1 : Handed := ⟨0, 0, 0, 0, false, []⟩

theorem witness_Samples :
    (let s := singing sounding unit0
     s.boot.phase = .ready ∧ s.unitServes 0 = true ∧ (s.unit 0).busy = none ∧ s.nextContext 0 = some (0, sounding, chunkB) ∧
       ((s.fetchCond 0).computeSample sounding chunkB).isSome = true) ∧
    (let x := computed 3 4
     let s := singing x { unit0 with busy := some 0 }
     (s.unit 0).busy = some 0 ∧ tabGet (s.unit 0).ctxs 0 = some 5 ∧ s.stream 5 = some x ∧ x.id = 5 ∧
       x.current = some (3, 0, sounding.head) ∧ x.chunkOf x.headAt = some chunkB ∧ 3 < x.handed) ∧
    (let x := computed 3 3
     let s := singing x { unit0 with busy := some 0 }
     (s.unit 0).busy = some 0 ∧ s.stream 5 = some x ∧ x.chunkOf x.headAt = some chunkB ∧ x.handed ≤ 3 ∧ 3 + 1 ≠ chunkB.first + chunkB.count) ∧
    (let x := { sounding with staged := [handed1] }
     let s := singing x unit0
     s.stream 5 = some x ∧ x.id = 5 ∧ x.staged = [handed1]) ∧
    (let s := singing sounding unit0
     s.stream 5 = some sounding ∧ s.unitServes sounding.unit = true ∧ tabGet (s.unit sounding.unit).ctxs sounding.ctx = some 5) ∧
    (singing stream5 unit0).nextContext 0 = none ∧
    (let c := { chunkB with ends := true }
     let x := { computed 79 79 with burinChunks := [c], phase := .rendering }
     let s := singing x { unit0 with busy := some 0 }
     s.stream 5 = some x ∧ x.chunkOf x.headAt = some c ∧ x.handed ≤ 79 ∧ 79 + 1 = c.first + c.count ∧ c.ends = true) := by decide +kernel

/-- Streams with a piece to write; the one whose samples are due first goes first. -/
def full5 : Stream := { sounding with outBuf := (List.range 4096).map fun i => (i, 0) }
def full6 : Stream := { full5 with id := 6, paces := [(0, 8192, 0)] }
def both56 : State := { work with streams := [(5, { full5 with paces := [(0, 8192, -1)] }), (6, full6)] }

theorem witness_Pieces :
    (full5.piece ≠ 0 ∧ full5.audio.length + full5.piece ≤ 262144 ∧ State.pieceServed { work with streams := [(5, full5)] } full5 = true) ∧
    both56.stream 6 = some full6 ∧ both56.pieceServed full6 = false :=
  ⟨by decide +kernel, rfl, by decide +kernel⟩

/-- Of the units near field 0 only units 0 and 1 are left. -/
def twoUnits : State :=
  let s := singing { sounding with mirror := (0, sounding.head) } unit0
  { s with
    part := { s.part with disabledBurin := (List.range 6).map fun i => (0, i + 2) }
    hatch := { s.hatch with fields := ((List.range 84).filter (adjacent 0)).map fun f => (f, ⟨true, 0⟩) } }

theorem witness_BurinFaultsAndMoves :
    (work.boot.phase = .ready ∧ work.unitServes 0 = true ∧ (work.unit 0).ctxs = [] ∧ work.rebind.place = none) ∧
    (twoUnits.boot.phase = .ready ∧ twoUnits.unitServes 0 = true ∧ twoUnits.rebind.place = none ∧ (twoUnits.unit 0).ctxs = [(0, 5)] ∧
      ((twoUnits.stream 5).any fun x => x.unit = 0 && x.mirror.1 = x.headAt) = true ∧ twoUnits.job 3 = some job3 ∧
      (∀ c ∈ job3.held, (twoUnits.core c).faulted = false) ∧ twoUnits.wholeUnits 0 = [1]) ∧
    (let s := singing sounding unit0
     s.storeFits (s.unit sounding.unit) (sounding.voices ++ s.nextVoices sounding) = true) ∧
    (let s := singing sounding { unit0 with weights := [(9, 1572865)] }
     let hs := sounding.voices ++ s.nextVoices sounding
     let f := s.freeUnit sounding
     tabGet (s.unit sounding.unit).ctxs sounding.ctx = some 5 ∧ sounding.current = none ∧ sounding.chunkOf sounding.headAt = some chunkB ∧
       sounding.headAt ≤ chunkB.first ∧ s.storeFits (s.unit sounding.unit) hs = false ∧ 1 ≠ sounding.unit ∧
       f.storeFits (f.unit 1) hs = true ∧ s.unitNear sounding 1 = true ∧
       f.unitTakes true hs (f.streamSixths sounding) 1 = true ∧ freeKey (f.unit 1).ctxs 192 0 = some 0) := by decide +kernel

/-! ### Audio lines and clocks -/

/-- A direction of two slots at 16 kHz with buffers of four frames, of a role and group; the leader of a follower is line 1 transmit. -/
def dirOf (role group state : Nat) : Direction :=
  { Direction.init with cfg := BitVec.ofNat 32 (4 + 128 + 1024 * role + 2 ^ 19 + 2 ^ 21 + 2 ^ 28 * group), slots := 3, state := state }
/-- `up` with a direction at line 0, transmit or receive. -/
def line (d : Nat) (x : Direction) : State := up.setDir 0 d x
/-- Two masters in group 1, and whether a slot of the second is held. -/
def pair1 (state : Nat) (hold : Tab Nat) : State :=
  (line 0 (dirOf 0 1 state)).setDir 1 0 { dirOf 0 1 state with holders := hold }

theorem witness_LineStartAndStop :
    (let s := line 0 (dirOf 0 0 0)
     s.writable 0 .ready = true ∧ bitOf 1 0 = true ∧ bitOf 1 1 = false ∧ (s.dirAt 0).group = 0 ∧ (s.dirAt 0).state = 0 ∧
       s.dirOk (s.dirAt 0) false = true ∧ s.stopRefused 0 = false ∧ bitOf 2 1 = true ∧ bitOf 2 0 = false) ∧
    (let s := (line 0 (dirOf 2 0 0)).setDir 1 0 (dirOf 1 0 3)
     s.dirOk (s.dirAt 0) false = true ∧ (s.dirAt 0).role = 2 ∧ (s.dirAt (s.dirAt 0).leader).state = 3) ∧
    (let s := line 0 (dirOf 3 0 0)
     (s.dirAt 0).state = 0 ∧ s.dirOk (s.dirAt 0) false = false) ∧
    ((line 0 (dirOf 0 1 0)).dirAt 0).group ≠ 0 ∧
    (let s := line 0 { dirOf 0 0 2 with holders := [(0, 5)] }
     s.stopRefused 0 = true) ∧
    ((line 1 (dirOf 0 0 1)).dir 0 1).state = 1 ∧ ((line 1 (dirOf 0 0 5)).dir 0 1).state = 5 ∧
    ((pair1 0 []).groupOk 1 = true ∧ (pair1 2 []).groupOk 1 = false ∧ (∀ k ∈ (pair1 2 []).members 1, (pair1 2 []).stopRefused k = false) ∧
      ∃ k ∈ (pair1 2 [(0, 5)]).members 1, (pair1 2 [(0, 5)]).stopRefused k = true) := by decide +kernel

theorem witness_LineClockEvents :
    (let s := line 1 (dirOf 1 0 2)
     2 ≤ (s.dir 0 1).state ∧ (s.dir 0 1).state ≤ 4 ∧ (s.dirAt 1).group = 0 ∧ (s.dirAt 1).role = 1 ∧ (s.dirAt 1).state = 2 ∧
       (s.dirAt 1).state ≠ 0 ∧ (s.dirAt 1).state ≠ 3 ∧ (s.dirAt 1).state ≠ 5) ∧
    ((line 1 (dirOf 1 0 4)).dir 0 1).state = 4 ∧ ((line 1 (dirOf 1 0 1)).dirAt 1).state = 1 ∧ ((line 1 (dirOf 1 0 3)).dirAt 1).state = 3 ∧
    ((-32001 : Int) < -32000 ∧ ((BitVec.ofInt 16 (-32001) : Half).toInt = -32001) ∧ ((BitVec.ofInt 16 32001 : Half).toInt = 32001)) ∧
    (let s := line 1 (dirOf 0 0 2)
     (s.dir 0 1).state = 2 ∧ (s.dir 0 1).enabled 0 = true ∧ (s.dir 0 1).enabled 1 = true ∧ (s.dir 0 1).buf = [] ∧
       (∀ i ∈ s.slipSet 1, (s.dirAt i).glitched = false) ∧
       ∃ i ∈ (line 1 { dirOf 0 0 2 with glitched := true }).slipSet 1, ((line 1 { dirOf 0 0 2 with glitched := true }).dirAt i).glitched = true) ∧
    (let f : List LineSlot := [⟨0, none, 0⟩]
     let s := line 1 { dirOf 0 0 2 with buf := [f] }
     (s.dir 0 1).buf = [] ++ [f] ∧ f ≠ [] ∧ (∀ u ∈ f, u.slot < 1) ∧ ∃ u ∈ f, 0 ≤ u.slot) := by decide +kernel

/-- Oscillator 1 as given. -/
def osc1 (x : Osc) : State := (line 0 (dirOf 1 0 2)).setOsc 1 x
def free1 : Osc := ⟨0, 0, 0, 20, 1024000, false, 0, false, false⟩
def line1 : Osc := { free1 with mode := 1 }

theorem witness_OscillatorsAndSlotFlags :
    (let s := osc1 free1
     s.writable 0 .ready = true ∧ (s.oscAt 1).mode ≠ 2 ∧ fld 0x140000 1 0 = 0 ∧ fld 0x140001 1 0 = 1 ∧ 2 ≤ fld 0x140002 1 0 ∧
       (s.dir (fld 0x140001 7 2) (fld 0x140001 8 8)).role = 1 ∧ (s.oscAt 0).mode = 0 ∧ (s.oscAt 2).mode = 0 ∧ (s.oscAt 3).mode = 0 ∧
       (s.dir (fld 0x140005 7 2) (fld 0x140005 8 8)).role ≠ 1) ∧
    (let s := (osc1 line1).setOsc 2 free1
     (s.oscAt 2).mode ≠ 2 ∧ (1 : Nat) ≠ 2 ∧ (s.oscAt 1).mode = 1 ∧ (s.oscAt 1).refLine = fld 0x140001 7 2 ∧
       (s.oscAt 1).refDir = fld 0x140001 8 8) ∧
    ((osc1 line1).boot.phase = .ready ∧ (1 : Nat) < 4 ∧
      ((osc1 line1).oscAt 1).mode = 1 ∧ ((osc1 line1).oscAt 1).hold = false) ∧
    (((osc1 { line1 with mode := 2, steer := -1024000 }).oscAt 1).mode = 2 ∧ up.ihx.holdover = false) ∧
    ((osc1 { line1 with hold := true }).oscAt 1).hold = true ∧ (osc1 line1).writable 0 .ready = true ∧ (63 : Nat) < 64 := by decide +kernel

/-! ### Ihlaux and the Folio -/

/-- A manager and a worker outside the Folio; the manager joined. -/
def asManager : State := { up with ihx := { up.ihx with role := 1 } }
def asWorker : State := { up with ihx := { up.ihx with role := 2, member := 16 } }
def manager : State := { up with ihx := { up.ihx with role := 1, state := 2, members := 1, ports := [(15, secured)] } }
def joined : State := { up with ihx := member1 }
/-- Port 3 of member 1, trained, with its half of a key exchange drawn. -/
def exchanging : State := joined.setIhxPort 3 { secured with secured := false, ownKey := [1], ownNonce := [2] }

theorem witness_FolioMembership :
    (asManager.writable 0 .ready = true ∧ bitOf 1 0 = true ∧ bitOf 1 1 = false ∧ asManager.ihx.state = 0 ∧ asManager.ihx.role = 1 ∧
      asManager.ihx.member = 0) ∧
    (asWorker.ihx.role = 2 ∧ 1 ≤ asWorker.ihx.member ∧ asWorker.ihx.member ≤ 16 ∧ asWorker.streams = [] ∧ asWorker.jobs = [] ∧
      (2 : Nat) ≠ asWorker.tb.season) ∧
    (joined.ihx.state ≠ 0 ∧ up.ihx.role = 0) ∧
    (bitOf 2 0 = false ∧ bitOf 2 1 = true ∧ (∀ x ∈ joined.streamList, x.phase = .closed) ∧ (joined.ihxPort 15).trained = true ∧
      joined.ihx.role = 2 ∧ up.ihx.state = 0 ∧ ∃ x ∈ work.streamList, x.phase ≠ .closed) ∧
    ((exchanging.ihxPort 3).trained = true ∧ exchanging.ihx.state ≠ 0 ∧ exchanging.peerAt 3 = 5 ∧ exchanging.ihx.folioId = 0 ∧
      (6 : Nat) ≠ exchanging.peerAt 3) ∧
    ((exchanging.ihxPort 3).wiringErr = false ∧ (exchanging.ihxPort 3).ownKey ≠ []) ∧
    (let s : State := { joined with proof := { up.proof with policy := up.proof.policy.set 0 0x1C2 } }
     s.ihx.role = 2 ∧ s.ihx.state ≠ 0 ∧ s.groupWrap = true ∧ (s.ihxPort (s.portTo 0)).secured = true) ∧
    (up.boot.phase ≠ .reset ∧ (up.ihxPort 15).trained = false ∧ (joined.ihxPort 15).trained = true) ∧
    (let s : State := { joined with tb := { up.tb with sub := 24576000 } }
     let t := s.setIhxPort 15 { secured with authTimes := List.replicate 16 1 }
     (t.ihxPort 15).trained = true ∧ (t.ihxPort 15).secured = true ∧
       16 < ((t.ihxPort 15).authTimes.filter (fun u => t.tb.sub < u + 24576000) ++ [t.tb.sub]).length ∧
       ((s.ihxPort 15).authTimes.filter (fun u => s.tb.sub < u + 24576000) ++ [s.tb.sub]).length ≤ 16) := by decide +kernel

theorem witness_Alignment :
    (joined.hearsManager 15 = true ∧ (0 : BitVec 48) = joined.tb.frame ∧ (-100 : Int) ≤ -100 ∧ joined.ihx.holdover = false ∧
      joined.tb.frame.toNat < (5 : BitVec 48).toNat ∧ joined.tb.advance = none) ∧
    (let s : State := { joined with ihx := { member1 with holdover := true }, tb := { up.tb with frame := 6 } }
     s.hearsManager 15 = true ∧ s.ihx.holdover = true ∧ (5 : BitVec 48).toNat < s.tb.frame.toNat) ∧
    (let s : State := { joined with ihx := { member1 with sinceSymbol := 8 } }
     s.ihx.role = 2 ∧ s.ihx.state ≠ 0 ∧ s.ihx.holdover = false ∧ 8 ≤ s.ihx.sinceSymbol) ∧
    (manager.tb.running = true ∧ manager.ihx.state ≠ 0 ∧ manager.tb.advance = none ∧ manager.ihx.role = 1 ∧ manager.transferOpen = false) ∧
    (let s : State := { manager with ihx := { manager.ihx with transfers := [out9 .confirmed] } }
     s.ihx.role = 1 ∧ s.transferOpen = true ∧ s.tb.advance = none) ∧
    (let s : State := { joined with ihx := { member1 with ports := [] } }
     s.ihx.role = 2 ∧ s.ihx.state = 2 ∧ (s.ihxPort (s.portTo 0)).trained = false) ∧
    (manager.ihx.state = 2 ∧ (manager.ihxPort 15).trained = true ∧ (manager.ihxPort 15).secured = true) := by decide +kernel

theorem witness_DirectoryAndPlacement :
    (manager.ihx.role = 1 ∧ manager.ihx.state = 2 ∧ (1 : Nat) ≤ 16 ∧
      tabGet ({ manager.ihx with directory := [(folioNumber 16 0, ⟨0, 1, false, false, false⟩)] } : Ihx).directory (folioNumber 16 0)
        = some ⟨0, 1, false, false, false⟩) ∧
    (manager.writable 0 .ready = true ∧ bitOf 1 0 = true ∧ (∀ c ∈ manager.ihx.capacity, c.1 ≤ 16) ∧
      ((manager.ihx.capacity.filter fun c => manager.ihx.members.testBit c.1).filterMap fun c => manager.candidate c.1 c.2) = []) ∧
    (let s : State := { manager with ihx := { manager.ihx with members := 3, capacity := [(1, ⟨List.replicate 7 1000, 10000, []⟩)] } }
     (∀ c ∈ s.ihx.capacity, c.1 ≤ 16) ∧
       ((s.ihx.capacity.filter fun c => s.ihx.members.testBit c.1).filterMap fun c => s.candidate c.1 c.2) ≠ []) := by decide +kernel

/-! ### Proof, mailboxes, staging -/

/-- Channel 3 from the host to the debug port, as given. -/
def box (m : Mailbox) : State := up.setMailbox 3 m
def box3 : Mailbox := { Mailbox.init with sender := 0, receiver := 8 }
def staged (len state : Nat) : State := { up with stage := { up.stage with len := len, state := state } }

theorem witness_ProofMailboxesAndStaging :
    (up.writable 0 .ready = true ∧ bitOf 1 0 = true ∧ up.proof.locked = false) ∧
    (let s : State := { up with proof := { up.proof with svn := 63 }, part := { up.part with rollback := 62 } }
     fld 63 5 0 = s.proof.svn ∧ s.part.rollback < fld 63 5 0 ∧ fld 62 5 0 ≤ s.part.rollback) ∧
    (up.mailboxesUp = true ∧ ((box box3).mailbox 3).sender = 0 ∧ (0 : Nat) ≠ 15 ∧ ((box box3).mailbox 3).full = false ∧
      ((box { box3 with full := true }).mailbox 3).full = true ∧ ((box box3).mailbox 3).sender ≠ 1 ∧
      ((box box3).mailbox 3).receiver = 8) ∧
    (up.writable 0 .staging = true ∧ up.stage.state ≤ 1 ∧ 8388604 % 4 = 0 ∧ 2 ≤ (staged 4 2).stage.state ∧ bitOf 2 1 = true ∧
      bitOf 2 0 = false ∧ (staged 0 1).stage.len = 0 ∧ 8388608 < (staged 8388609 1).stage.len ∧ 0 < (staged 8388608 1).stage.len ∧
      (staged 8388608 1).stage.len ≤ 8388608 ∧ bitOf 1 0 = true ∧ bitOf 1 1 = false) := by decide +kernel

/-! ### Almanac -/

/-- `up` with Almanac as given. -/
def meter (a : Alm) : State := { up with alm := a }
def meterLine : MeterLine := ⟨zeros 16, true, false, true, [], [], 9⟩
def audit5 : MeterRecord := ⟨1, 5, zeros 160, false⟩

theorem witness_Metering :
    (up.alm.running = true ∧ up.alm.frac + 1 < 8000 ∧ 8000 ≤ ({ up.alm with frac := 7999 } : Alm).frac + 1) ∧
    (up.alm.warnOpen = false ∧ ({ up.alm with warnOpen := true } : Alm).warnOpen = true ∧ (4799 : Nat) < 4800) ∧
    (let s := meter { up.alm with warnOpen := true, warnHold := 1 }
     s.alm.running = true ∧ s.alm.warnOpen = true ∧ 1 ≤ s.alm.warnHold ∧ 1000 < s.alm.warnHold + 1000) ∧
    (let s := meter { up.alm with time := 900 }
     s.alm.running = true ∧ s.alm.frac = 0 ∧ s.alm.time.toNat % (60 * s.alm.minutes) = 0 ∧ s.alm.startS.toNat < s.alm.time.toNat ∧
       s.alm.canClose = true) ∧
    ((meter { up.alm with lines := [(3, meterLine)] }).alm.lines = [(3, meterLine)] ∧ meterLine.live = true) ∧
    (let s := meter { up.alm with lines := [(3, meterLine)], windowTallies := [(3, { meterLine with a := [1], bound := false })] }
     s.alm.lines = [(3, meterLine)] ∧ s.alm.windowTallies = [(3, { meterLine with a := [1], bound := false })] ∧
       ({ meterLine with a := [1], bound := false } : MeterLine).key = meterLine.key) ∧
    (let s := meter { up.alm with mseq := some 4 }
     s.alm.running = true ∧ s.alm.mseq = some 4 ∧ (6 : Nat) ≠ 4 + 1 ∧ (6 : Nat) ≠ 0) := by decide +kernel

theorem witness_AcknowledgementAndExport :
    (let s := meter { up.alm with records := [audit5] }
     s.alm.running = true ∧ s.alm.records.find? (fun r => r.kind == 1 && !r.acked) = some audit5 ∧ audit5.seq = (5 : DWord).toNat ∧
       recordSig audit5 = zeros 16 ∧ audit5.seq ≠ (6 : DWord).toNat ∧ s.alm.records.find? (fun r => r.kind == 0 && !r.acked) = none ∧
       s.alm.sending = none ∧ s.alm.records.find? (fun r => !r.acked) = some audit5) ∧
    (let s := (meter { up.alm with records := [audit5], sending := some (1, 5, 2) }).setMailbox 1 { Mailbox.init with sender := 6, receiver := 0 }
     s.alm.running = true ∧ s.alm.sending = some (1, 5, 2) ∧ s.alm.records.find? (fun r => r.kind == 1 && r.seq == 5) = some audit5 ∧
       (s.mailbox 1).full = false ∧ (s.mailbox 1).sender = 6 ∧ (s.mailbox 1).receiver = 0 ∧ 2 + 1 < ceilDiv audit5.bytes.length 48 ∧
       ceilDiv audit5.bytes.length 48 ≤ 3 + 1 ∧ s.alm.sending.isSome = true) ∧
    (up.writable 0 .ready = true ∧ bitOf 1 0 = true ∧ bitOf 2 1 = true) := by decide +kernel

theorem witness_MeterService :
    up.alm.running = true ∧
    ((meter { up.alm with lidOpen := true }).alm.canSet = true ∧ (meter { up.alm with lidOpen := true }).alm.canClose = true ∧
      60 ∈ [1, 5, 15, 30, 60]) ∧
    up.alm.canSet = false ∧ ((meter { up.alm with lidOpen := true }).alm.running = true ∧ (meter { up.alm with lidOpen := true }).alm.lidOpen = true) ∧
    up.alm.lidOpen = false ∧ (meter { up.alm with running := false }).alm.running = false ∧ up.boot.powered = true := by decide +kernel

/-! ### Events and counters -/

/-- `up` with the event ring as given; running, with 64 slots. -/
def events (e : Evt) : State := { up with evt := e }
def evtOn : Evt := { up.evt with enable := true, traceEn := true }
def rec2 : EvtRecord := ⟨0, 2, 0, 0, 0, 1, 0⟩
def key2 (count ends : Nat) : AlarmKey := ⟨2, 0, count, 0, 0, 0, ends⟩

theorem witness_Events :
    (up.writable 0 .faultedToo = true ∧ up.evt.enable = false ∧ bitOf 0x10 4 = true ∧ up.evt.waiting = [] ∧
      (events { up.evt with waiting := [rec2] }).evt.waiting = [rec2] ∧ evtOn.enable = true ∧ bitOf 0 4 = false) ∧
    ((events evtOn).evt.table.any (fun k => k.code == 0x16 && k.source == 0) = false ∧
      ((events evtOn).evt.table.filter (fun k => k.source != 0xFFFF)).length < 2048 ∧ evtOn.room = true ∧ evtOn.waiting = [] ∧
      ({ evtOn with pi := 64 } : Evt).room = false ∧
      ({ evtOn with table := [key2 0 9] } : Evt).table.any (fun k => k.code == 2 && k.source == 0) = true) ∧
    ((events { evtOn with table := [key2 0 0] }).evt.table.find? (fun k => k.code == 2 && k.source == 0) = some (key2 0 0) ∧
      (key2 0 0).ends ≤ up.tb.frameOrd ∧ (key2 0 0).count = 0 ∧ (key2 1 0).count ≠ 0 ∧ up.tb.frameOrd < (key2 0 1).ends) ∧
    ((events evtOn).evt.logEn = true ∧ (events evtOn).evt.logRoom = true ∧ logUnit ≤ ((events evtOn).logSource 4).level ∧
      ({ evtOn with pi := 56 } : Evt).logRoom = false ∧ ({ evtOn with pi := 55 } : Evt).logRoom = true) ∧
    (let s := events { evtOn with logs := [⟨4, logUnit, 0, 3, 0x40, 0, 0, 0⟩] }
     logUnit ≤ (s.logSource 4).level ∧ 0 < (s.logSource 4).suppressed ∧
       ((events { evtOn with logs := [⟨4, logUnit - 1, 0, 3, 0x40, 0, 0, 0⟩] }).logSource 4).level < logUnit) ∧
    (evtOn.traceEn = true ∧ 100 * ({ evtOn with pi := 32 } : Evt).fill ≤ evtOn.tracePct * evtOn.slots ∧
      evtOn.tracePct * evtOn.slots < 100 * ({ evtOn with pi := 33 } : Evt).fill ∧ up.evt.traceEn = false) := by decide +kernel

theorem witness_CountersAndLatchingReads :
    (up.writable 0 .ready = true ∧ bitOf 1 0 = true ∧ bitOf 1 2 = false ∧ bitOf 4 2 = true ∧ bitOf 4 0 = false) ∧
    up.readable 0 .ready = true ∧ up.readable 0 .almanac = true := by decide


/-! ### Ill-formed commands: one for each check of `WellFormed` -/

theorem wf_port : (Instr.pwrCapWrite 2 0).wf = false := by decide
theorem wf_ring : (Instr.fence 4096 1).wf = false := by decide
theorem wf_core : (Instr.plateScrub 86016 true).wf = false := by decide
theorem wf_field : (Instr.fieldOut 84).wf = false := by decide
theorem wf_unit : (Instr.sampleStart 672).wf = false := by decide
theorem wf_channel : (Instr.dramScrub 32).wf = false := by decide
theorem wf_lineDir : (Instr.clockStop 64 0).wf = false ∧ (Instr.clockStop 0 2).wf = false := by decide
theorem wf_group : (Instr.groupStart 0 0 1).wf = false ∧ (Instr.groupStart 0 16 1).wf = false := by decide
theorem wf_osc : (Instr.steeringUpdate 4 1).wf = false := by decide
theorem wf_ihx : (Instr.ihlauxAuthFail 16).wf = false := by decide
theorem wf_mailbox : (Instr.mailboxSend 0 64 [0]).wf = false := by decide
theorem wf_master : (Instr.mailboxSend 9 0 [0]).wf = false := by decide
theorem wf_counter : (Instr.counterLoRead 0 704).wf = false := by decide
theorem wf_stream : (Instr.keepRestart 16384).wf = false := by decide
theorem wf_session : (Instr.unbind 4096 0 0).wf = false := by decide
theorem wf_job : (Instr.thaw 1024).wf = false := by decide
theorem wf_handle : (Instr.promotion 0x100000).wf = false := by decide
theorem wf_source : (Instr.logSummary 65536).wf = false := by decide
theorem wf_semaphore : (Instr.signal 0 256 .ready 1 0).wf = false ∧ (Instr.wait 0 0 .room 0).wf = false := by decide
theorem wf_offload : (Instr.fillOffload 0 (.move 17)).wf = false := by decide
theorem wf_site : (Instr.cores 1 ⟨[⟨0, 32, 0⟩], [], [], [], false, false⟩).wf = false := by decide
theorem wf_maintenance_address : (Instr.maintenanceWrite 0 0x1000000 32 0).wf = false := by decide
theorem wf_every_shape_has_a_good_term : (Instr.signal 0 255 .ready 255 86015).wf = true
    ∧ (Instr.counterLoRead 1 703).wf = true ∧ (Instr.groupStop 1 15 0).wf = true := by decide

/-! ### Commands come through the queue alone -/

theorem no_word_spells_a_command : decodeTableWord 32 0 = none ∧ decodeTableWord 0 0 = none := by decide
theorem withFetchWord_changes_nothing : State.reset.withFetchWord 32 7 = State.reset := rfl

/-! ### The spec's worked examples -/

/-- 08, "One draw under two mappings": U and U′. -/
theorem test_stipple_draw : Draw.hash ⟨0x7D2104C83A5E91F6#64, 0x51A70C3E#32, 0x0213#16, 2160000#48, 77#16, 0#16⟩
    = (0x3B0B4D83#32, 0xCBC71FFF#32) := by decide

/-- 05, after R175: F32 0x3F33_3333 converts to S32 exactly; 17.5 saturates and sets the range flag. -/
theorem test_f32_to_s32 : s32Round .nearest (f32Value 0x3F333333#32) = (0x05999998#32, false)
    ∧ s32Round .nearest (f32Value 0x418C0000#32) = (0x7FFFFFFF#32, true) := by decide

/-- 05, "A Q8B block written twice": the declared super-scale, nearest even. -/
theorem test_q8b_declared : encodeBlock 2 (superScale 0x3D80#16)
    [(Exact.mk' 3 1, .nearest), (Exact.mk' (-3) 2, .nearest), (Exact.mk' 5 100, .nearest), (Exact.mk' 1 100, .nearest)]
    = ([0x7B, 0xC3, 0x02, 0x00], 0xD9, false) := by decide +kernel

/-- The same block, -1.5 rounded by two draws. -/
theorem test_q8b_stochastic : (encodeBlock 2 (superScale 0x3D80#16)
    [(Exact.mk' 3 1, .nearest), (Exact.mk' (-3) 2, .draw 0x3C00), (Exact.mk' (-3) 2, .draw 0x9000)]).1
    = [0x7B, 0xC2, 0xC3] := by decide +kernel

/-- The same block in computed-scale form: super-scale, block code and the code of 3.0. -/
theorem test_q8b_computed : leastSuper 127 (Exact.mk' 3 1) = 0x3CC2#16
    ∧ encodeBlock 2 (superScale 0x3CC2#16) [(Exact.mk' 3 1, .nearest)] = ([0x7F], 0xF0, false) := by decide +kernel

/-- 05, "A second moment in Q8L": 0.4096 takes code 0xEA to nearest even, and by a draw 0xEB below 0x6435. -/
theorem test_q8l : encodeLog .nearest (Exact.mk' 4096 10000) = (0xEA, false)
    ∧ encodeLog (.draw 0x6434) (Exact.mk' 4096 10000) = (0xEB, false)
    ∧ encodeLog (.draw 0x6435) (Exact.mk' 4096 10000) = (0xEA, false) := by decide +kernel

/-- 07, "A ferry sample through the output stage". -/
theorem test_output_stage : envelopeStep 0x01800000#32 0x02000000#32 = 0x01802000#32
    ∧ markSize 0x01802000#32 3 24 = 3073
    ∧ outputPcm 0x02000000#32 0x01802000#32 false 3 24 (some 0x3A989C40#32) = (0x1FFF40, false) := by decide +kernel

/-- 12, R371: the doorbell record of ring 679 with RMK_DB_BASE 0x10_0040_0000. -/
theorem test_doorbell_address :
    ({ State.reset with rmk := { State.reset.rmk with dbLo := 0x00400000#32, dbHi := 0x10#32 } } : State).doorbell 679
    = 0x1000402A70 := by decide

/-- 15: port 5 of member 3 connects to port 10 of member 9. -/
theorem test_wiring :
    ({ State.reset with ihx := { State.reset.ihx with member := 3 } } : State).peerAt 5 = 9
    ∧ ({ State.reset with ihx := { State.reset.ihx with member := 9 } } : State).peerAt 10 = 3 := by decide

/-- 11: the interference ratio 292 is written 0x0124. -/
theorem test_ratio : ratio256 292 256 = 0x0124 ∧ ratio256 1 0 = 0xFFFF := by decide

/-- 02: the helpline's Spring job takes 22 cores, and its head of 700 cycles two sixths of a slot at 16 kHz (R59, R61). -/
theorem test_cores : coresFor (leBytes 4 0 ++ zeros 252) 96 (100 * 23644800) = 22 := by decide +kernel

/-- 02, "The Frame budget" of the helpline: 32 Keep rows in Spring cost 23,644,800 core-cycles (R66). -/
theorem test_keep_rows : cycles100 ⟨0, 1, 0, 240000, 690000, 0, 0, 0, 0, 0, 0, 0, 0, 0⟩ (List.replicate 32 true) = 100 * 23644800 := by decide

/-- R46: samples per Frame for the rates 8, 16, 24, 32 and 48 kHz in Summer and at 16 kHz in Spring. -/
theorem test_frame_samples : (List.range 5).map up.frameSamples = [40, 80, 120, 160, 240]
    ∧ ({ up with tb := { up.tb with season := 0 } } : State).frameSamples 1 = 32 := by decide

/-- A step with nothing waiting idles, and a step with a command in front takes it from the queue. -/
theorem test_step : nextIs (step State.reset) (· == State.reset) = true
    ∧ nextIs (step { up with pending := [.sampleTick, .thermalTrip] }) (fun t => t.pending = [.thermalTrip] && t.tb.ticks = up.tb.ticks + 1)
      = true := by decide +kernel

/-- R41, R46: after the 240th tick of a Summer Frame the Frame takes no further SAMPLE_TICK. -/
theorem test_last_tick : nextIs (exec .sampleTick ending) (fun t => t.tb.ticks = 240) = true := by decide +kernel

/-- R592, R322: MEM_RES_POLICY lies at 0x00_3014. -/
theorem test_setup_address : nextIs (exec (.maintenanceWrite 0 0x3014 32 0x3026) up)
    (fun t => t.mem.policyNext = some ⟨2, true, 2, 3⟩) = true := by decide +kernel
end Sys2Proof.Tests
end

section
/-! ### Every command: its frame, and the invariant -/

namespace Sys2Proof.Machine

open Sys2Proof

/-- A frame of other blocks, by a check of the two lists that computes. -/
theorem Frame.widen {L M : List Block} {s t : State} (h : Frame L s t) (hLM : (L.all fun b => decide (b ∈ M)) = true) :
    Frame M s t :=
  h.mono fun b hb => of_decide_eq_true (List.all_eq_true.mp hLM b hb)

/-- The frame of a command, for all commands at once: each arm cites the frame of its meaning. -/
theorem exec_frame {c : Instr} {s t : State} (h : exec c s = .next t) : Frame (touches c) s t := by
  cases c with
  | coldStart => exact execColdStart_frame h
  | resetHoldEnd => exact execResetHoldEnd_frame h
  | wake => exact execWake_frame h
  | verify => exact execVerify_frame h
  | cores => exact execCores_frame h
  | memory => exact execMemory_frame h
  | measure => exact execMeasure_frame h
  | hostReset => exact execHostReset_frame h
  | supplyReset => exact execSupplyReset_frame h
  | supplyWarning => exact execSupplyWarning_frame h
  | supplyWarningEnd => exact execSupplyWarningEnd_frame h
  | thermalTrip => exact execThermalTrip_frame h
  | sampleTick => exact execSampleTick_frame h
  | frameTick => exact (execFrameTick_frame h).widen rfl
  | tallyWindowEnd => exact execTallyWindowEnd_frame h
  | accountingIntervalEnd => exact (execAccountingIntervalEnd_frame h).widen rfl
  | kick => exact execKick_frame h
  | doorbellRead => exact execDoorbellRead_frame h
  | descriptorFetch => exact execDescriptorFetch_frame h
  | sessionOpen => exact (execSessionOpen_frame h).widen rfl
  | sessionClose => exact execSessionClose_frame h
  | modelLoad => exact execModelLoad_frame h
  | modelEvict => exact execModelEvict_frame h
  | streamOpen => exact execStreamOpen_frame h
  | streamCtrl => exact execStreamCtrl_frame h
  | featurePush => exact execFeaturePush_frame h
  | featurePacket => exact execFeaturePacket_frame h
  | featurePushCommit => exact execFeaturePushCommit_frame h
  | audioPull => exact execAudioPull_frame h
  | audioDelivery => exact execAudioDelivery_frame h
  | streamClose => exact execStreamClose_frame h
  | adaptJob => exact execAdaptJob_frame h
  | transferOut => exact execTransferOut_frame h
  | transferIn => exact execTransferIn_frame h
  | transferPartnerTimeout => exact execTransferPartnerTimeout_frame h
  | abort => exact execAbort_frame h
  | fence => exact execFence_frame h
  | nop => exact execNop_frame h
  | completionWrite => exact execCompletionWrite_frame h
  | cqStall => exact execCqStall_frame h
  | msixNotify => exact execMsixNotify_frame h
  | ringEnable => exact execRingEnable_frame h
  | ringResume => exact execRingResume_frame h
  | ramokLinkTrain => exact execRamokLinkTrain_frame h
  | ramokLinkLost => exact execRamokLinkLost_frame h
  | maintenanceWrite => exact execMaintenanceWrite_frame h
  | eslFrameCntLoRead => exact execEslFrameCntLoRead_frame h
  | eslTimebaseCfgWrite => exact execEslTimebaseCfgWrite_frame h
  | eslRebind => exact execEslRebind_frame h
  | eslAcctCfgWrite => exact execEslAcctCfgWrite_frame h
  | pwrCapWrite => exact execPwrCapWrite_frame h
  | strokeIssue => exact execStrokeIssue_frame h
  | safePoint => exact execSafePoint_frame h
  | signal => exact execSignal_frame h
  | remoteSignal => exact execRemoteSignal_frame h
  | wait => exact execWait_frame h
  | waitTimeout => exact execWaitTimeout_frame h
  | coreCheckFailure => exact (execCoreCheckFailure_frame h).widen rfl
  | coreTakeover => exact execCoreTakeover_frame h
  | coreSelfTest => exact (execCoreSelfTest_frame h).widen rfl
  | plateUncorrectable => exact (execPlateUncorrectable_frame h).widen rfl
  | plateScrub => exact execPlateScrub_frame h
  | flitCrcRetry => exact execFlitCrcRetry_frame h
  | meshLaneHalf => exact execMeshLaneHalf_frame h
  | fieldOut => exact execFieldOut_frame h
  | easelFailover => exact execEaselFailover_frame h
  | moduleFault => exact execModuleFault_frame h
  | engineEntryIssue => exact execEngineEntryIssue_frame h
  | transferComplete => exact execTransferComplete_frame h
  | chainGrant => exact execChainGrant_frame h
  | chainDataArrival => exact execChainDataArrival_frame h
  | dramService => exact execDramService_frame h
  | dramCorrectedRead _ addr => exact execDramCorrectedRead_frame (_addr := addr) h
  | dramUncorrectableRead => exact (execDramUncorrectableRead_frame h).widen rfl
  | dramScrub => exact execDramScrub_frame h
  | refresh => exact execRefresh_frame h
  | promotion => exact execPromotion_frame h
  | demotion => exact execDemotion_frame h
  | frost => exact execFrost_frame h
  | liveFrost => exact execLiveFrost_frame h
  | thaw => exact execThaw_frame h
  | remoteReplyParked => exact execRemoteReplyParked_frame h
  | jobTearDown => exact execJobTearDown_frame h
  | keepRestart => exact execKeepRestart_frame h
  | sampleStart => exact execSampleStart_frame h
  | sampleHandOff => exact execSampleHandOff_frame h
  | outputStageWrite => exact execOutputStageWrite_frame h
  | sampleMirror => exact execSampleMirror_frame h
  | outputScriberPiece => exact execOutputScriberPiece_frame h
  | burinTakeover unit replacement => exact execBurinTakeover_frame (unit := unit) (replacement := replacement) (s := s) h
  | burinContextMove => exact execBurinContextMove_frame h
  | lineStart => exact execLineStart_frame h
  | runInComplete => exact execRunInComplete_frame h
  | lineStop => exact execLineStop_frame h
  | runOutComplete => exact execRunOutComplete_frame h
  | groupStart => exact execGroupStart_frame h
  | groupStop => exact execGroupStop_frame h
  | audGroupFrameLoRead => exact execAudGroupFrameLoRead_frame h
  | driftSlip => exact execDriftSlip_frame h
  | clockStop => exact execClockStop_frame h
  | fsGlitch => exact execFsGlitch_frame h
  | rateOutOfRange => exact execRateOutOfRange_frame h
  | holdoverReturn => exact execHoldoverReturn_frame h
  | captureWord => exact execCaptureWord_frame h
  | steeringUpdate => exact execSteeringUpdate_frame h
  | clkOscCfgWrite => exact execClkOscCfgWrite_frame h
  | slotFlagClear => exact execSlotFlagClear_frame h
  | join => exact execJoin_frame h
  | leave => exact execLeave_frame h
  | hello => exact execHello_frame h
  | linkKeyExchange => exact execLinkKeyExchange_frame h
  | groupKeyDelivery => exact execGroupKeyDelivery_frame h
  | alignmentSymbol => exact execAlignmentSymbol_frame h
  | alignmentLoss => exact execAlignmentLoss_frame h
  | counterAdvance => exact execCounterAdvance_frame h
  | detached => exact execDetached_frame h
  | ihlauxPortTrain => exact execIhlauxPortTrain_frame h
  | ihlauxAuthFail => exact execIhlauxAuthFail_frame h
  | fillReadTimeout => exact execFillReadTimeout_frame h
  | fillOffload => exact (execFillOffload_frame h).widen rfl
  | directoryReport => exact execDirectoryReport_frame h
  | placement => exact execPlacement_frame h
  | offer => exact execOffer_frame h
  | accept => exact execAccept_frame h
  | envelope => exact execEnvelope_frame h
  | imported => exact execImported_frame h
  | owner => exact execOwner_frame h
  | policyLock => exact execPolicyLock_frame h
  | commitSvn => exact execCommitSvn_frame h
  | prfFwDigestSelWrite => exact execPrfFwDigestSelWrite_frame h
  | mailboxSend => exact execMailboxSend_frame h
  | mailboxLastWordRead => exact execMailboxLastWordRead_frame h
  | fwStageWrite => exact execFwStageWrite_frame h
  | fwStageCommit => exact execFwStageCommit_frame h
  | fwStageClear => exact execFwStageClear_frame h
  | shuntSample => exact execShuntSample_frame h
  | warningSpan => exact execWarningSpan_frame h
  | intervalBoundary => exact execIntervalBoundary_frame h
  | bind _ _ _ frame => exact execBind_frame (_frame := frame) h
  | unbind _ _ frame => exact execUnbind_frame (_frame := frame) h
  | tallyA => exact execTallyA_frame h
  | tallyB => exact execTallyB_frame h
  | windowEnd _ _ sessions => exact execWindowEnd_frame (_sessions := sessions) h
  | ack => exact execAck_frame h
  | rewind => exact execRewind_frame h
  | exportPart => exact execExportPart_frame h
  | almAckCtlAck => exact execAlmAckCtlAck_frame h
  | almAckCtlRewind => exact execAlmAckCtlRewind_frame h
  | almAuditLoRead => exact execAlmAuditLoRead_frame h
  | almTimeLoRead => exact execAlmTimeLoRead_frame h
  | read => exact execRead_frame h
  | setTime => exact execSetTime_frame h
  | setInterval => exact execSetInterval_frame h
  | setCoeff => exact execSetCoeff_frame h
  | stageFw => exact execStageFw_frame h
  | lidOpen => exact execLidOpen_frame h
  | lidClose => exact execLidClose_frame h
  | almanacInputLoss => exact execAlmanacInputLoss_frame h
  | powerGap => exact execPowerGap_frame h
  | eventRingEnable => exact execEventRingEnable_frame h
  | alarm => exact execAlarm_frame h
  | coalesceWindowEnd => exact execCoalesceWindowEnd_frame h
  | log => exact execLog_frame h
  | logSummary => exact execLogSummary_frame h
  | trace => exact execTrace_frame h
  | armSnap => exact execArmSnap_frame h
  | clearAll => exact execClearAll_frame h
  | counterSourceWrite => exact execCounterSourceWrite_frame h
  | counterLoRead => exact execCounterLoRead_frame h
  | echoSymbol => exact execEchoSymbol_frame h
  | confirm => exact execConfirm_frame h
  | refuse => exact execRefuse_frame h
  | handOffReport => exact execHandOffReport_frame h
  | creditReturn => exact execCreditReturn_frame h
  | remoteReadRequest => exact execRemoteReadRequest_frame h

/-- What a command leaves alone reads as before. -/
theorem exec_same {c : Instr} {s t : State} {b : Block} (h : exec c s = .next t) (hb : decide (b ∈ touches c) = false) :
    s.same t b :=
  exec_frame h b (of_decide_eq_false hb)

/-- A command that changes no block of the invariant keeps it. -/
theorem exec_inv_of_frame {c : Instr} {s t : State} (hc : (invBlocks.all fun b => decide (b ∉ touches c)) = true)
    (h : exec c s = .next t) (hs : s.Inv) : t.Inv :=
  State.Inv.of_frame (exec_frame h) (fun b hb => of_decide_eq_true (List.all_eq_true.mp hc b hb)) hs

/-- Every command keeps the invariant: by the law of its meaning where it changes a block that the invariant speaks of, else by its
frame. -/
theorem exec_inv {c : Instr} {s t : State} (h : exec c s = .next t) (hs : s.Inv) : t.Inv := by
  cases c with
  | coldStart => exact execColdStart_inv h hs
  | verify => exact execVerify_inv h hs
  | cores => exact execCores_inv h hs
  | memory => exact execMemory_inv h hs
  | measure => exact execMeasure_inv h hs
  | hostReset => exact execHostReset_inv h hs
  | supplyReset => exact execSupplyReset_inv h hs
  | supplyWarning => exact execSupplyWarning_inv h hs
  | thermalTrip => exact execThermalTrip_inv h hs
  | sampleTick => exact execSampleTick_inv h hs
  | frameTick => exact execFrameTick_inv h hs
  | tallyWindowEnd => exact execTallyWindowEnd_inv h hs
  | accountingIntervalEnd => exact execAccountingIntervalEnd_inv h hs
  | descriptorFetch => exact execDescriptorFetch_inv h hs
  | sessionOpen => exact execSessionOpen_inv h hs
  | sessionClose => exact execSessionClose_inv h hs
  | modelLoad => exact execModelLoad_inv h hs
  | modelEvict => exact execModelEvict_inv h hs
  | streamOpen => exact execStreamOpen_inv h hs
  | streamClose => exact execStreamClose_inv h hs
  | adaptJob => exact execAdaptJob_inv h hs
  | transferIn => exact execTransferIn_inv h hs
  | abort => exact execAbort_inv h hs
  | completionWrite => exact execCompletionWrite_inv h hs
  | cqStall => exact execCqStall_inv h hs
  | ramokLinkTrain => exact execRamokLinkTrain_inv h hs
  | ramokLinkLost => exact execRamokLinkLost_inv h hs
  | maintenanceWrite => exact execMaintenanceWrite_inv h hs
  | eslFrameCntLoRead => exact execEslFrameCntLoRead_inv h hs
  | eslTimebaseCfgWrite => exact execEslTimebaseCfgWrite_inv h hs
  | eslAcctCfgWrite => exact execEslAcctCfgWrite_inv h hs
  | pwrCapWrite => exact execPwrCapWrite_inv h hs
  | strokeIssue => exact execStrokeIssue_inv h hs
  | safePoint => exact execSafePoint_inv h hs
  | signal => exact execSignal_inv h hs
  | remoteSignal => exact execRemoteSignal_inv h hs
  | wait => exact execWait_inv h hs
  | waitTimeout => exact execWaitTimeout_inv h hs
  | coreCheckFailure => exact execCoreCheckFailure_inv h hs
  | coreTakeover => exact execCoreTakeover_inv h hs
  | coreSelfTest => exact execCoreSelfTest_inv h hs
  | plateUncorrectable => exact execPlateUncorrectable_inv h hs
  | plateScrub => exact execPlateScrub_inv h hs
  | flitCrcRetry => exact execFlitCrcRetry_inv h hs
  | meshLaneHalf => exact execMeshLaneHalf_inv h hs
  | fieldOut => exact execFieldOut_inv h hs
  | easelFailover => exact execEaselFailover_inv h hs
  | moduleFault => exact execModuleFault_inv h hs
  | engineEntryIssue => exact execEngineEntryIssue_inv h hs
  | transferComplete => exact execTransferComplete_inv h hs
  | chainGrant => exact execChainGrant_inv h hs
  | chainDataArrival => exact execChainDataArrival_inv h hs
  | dramService => exact execDramService_inv h hs
  | dramCorrectedRead _ addr => exact execDramCorrectedRead_inv (_addr := addr) h hs
  | dramUncorrectableRead => exact execDramUncorrectableRead_inv h hs
  | dramScrub => exact execDramScrub_inv h hs
  | refresh => exact execRefresh_inv h hs
  | promotion => exact execPromotion_inv h hs
  | frost => exact execFrost_inv h hs
  | liveFrost => exact execLiveFrost_inv h hs
  | thaw => exact execThaw_inv h hs
  | remoteReplyParked => exact execRemoteReplyParked_inv h hs
  | jobTearDown => exact execJobTearDown_inv h hs
  | keepRestart => exact execKeepRestart_inv h hs
  | sampleHandOff => exact execSampleHandOff_inv h hs
  | burinTakeover unit replacement => exact execBurinTakeover_inv (unit := unit) (replacement := replacement) (s := s) h hs
  | driftSlip => exact execDriftSlip_inv h hs
  | clockStop => exact execClockStop_inv h hs
  | fsGlitch => exact execFsGlitch_inv h hs
  | rateOutOfRange => exact execRateOutOfRange_inv h hs
  | join => exact execJoin_inv h hs
  | leave => exact execLeave_inv h hs
  | linkKeyExchange => exact execLinkKeyExchange_inv h hs
  | groupKeyDelivery => exact execGroupKeyDelivery_inv h hs
  | alignmentSymbol => exact execAlignmentSymbol_inv h hs
  | alignmentLoss => exact execAlignmentLoss_inv h hs
  | counterAdvance => exact execCounterAdvance_inv h hs
  | detached => exact execDetached_inv h hs
  | ihlauxPortTrain => exact execIhlauxPortTrain_inv h hs
  | ihlauxAuthFail => exact execIhlauxAuthFail_inv h hs
  | fillReadTimeout => exact execFillReadTimeout_inv h hs
  | fillOffload => exact execFillOffload_inv h hs
  | offer => exact execOffer_inv h hs
  | envelope => exact execEnvelope_inv h hs
  | imported => exact execImported_inv h hs
  | owner => exact execOwner_inv h hs
  | policyLock => exact execPolicyLock_inv h hs
  | commitSvn => exact execCommitSvn_inv h hs
  | prfFwDigestSelWrite => exact execPrfFwDigestSelWrite_inv h hs
  | mailboxSend => exact execMailboxSend_inv h hs
  | mailboxLastWordRead => exact execMailboxLastWordRead_inv h hs
  | fwStageWrite => exact execFwStageWrite_inv h hs
  | fwStageCommit => exact execFwStageCommit_inv h hs
  | fwStageClear => exact execFwStageClear_inv h hs
  | almanacInputLoss => exact execAlmanacInputLoss_inv h hs
  | eventRingEnable => exact execEventRingEnable_inv h hs
  | alarm => exact execAlarm_inv h hs
  | coalesceWindowEnd => exact execCoalesceWindowEnd_inv h hs
  | log => exact execLog_inv h hs
  | logSummary => exact execLogSummary_inv h hs
  | trace => exact execTrace_inv h hs
  | refuse => exact execRefuse_inv h hs
  | _ => exact exec_inv_of_frame rfl h hs

/-- The invariant does not ask how many commands wait: it holds of the state whose front command has been taken. -/
theorem State.Inv.tail {s : State} {c : Instr} {rest : List Instr} (hs : s.Inv) (hp : s.pending = c :: rest) :
    State.Inv { s with pending := rest } :=
  { hs with queue := fun d hd => hs.queue d (hp ▸ List.mem_cons_of_mem c hd) }

/-- Settles O4: a step idles, or runs the front command on the state with the queue's rest, and every command keeps the invariant. -/
theorem everyStepKeepsTheInvariant : Obligations.EveryStepKeepsTheInvariant := by
  intro s t hs h
  unfold step at h
  split at h
  case h_1 => exact Host.Outcome.next.inj h ▸ hs
  case h_2 hp => exact exec_inv h (hs.tail hp)

end Sys2Proof.Machine
end

section
/-! ### The Frame counter and the timebase (02 R41 to R49, 15 R476) -/

namespace Sys2Proof.Machine

open Sys2Proof

/-- Between two states the boot state and the Frame counter stay, or the module is in RESET with the counter at 0. -/
def CounterKept (s t : State) : Prop :=
  (t.boot.phase = s.boot.phase ∧ t.tb.frame = s.tb.frame) ∨ (t.boot.phase = .reset ∧ t.tb.frame = 0)

theorem CounterKept.refl (s : State) : CounterKept s s := .inl ⟨rfl, rfl⟩

theorem CounterKept.trans {s t u : State} (h : CounterKept s t) (k : CounterKept t u) : CounterKept s u := by
  obtain ⟨kb, kf⟩ | k := k
  · exact h.imp (fun ⟨hb, hf⟩ => ⟨kb.trans hb, kf.trans hf⟩) (fun ⟨hb, hf⟩ => ⟨kb.trans hb, kf.trans hf⟩)
  · exact .inr k

theorem CounterKept.ite {s a b : State} {c : Prop} [Decidable c] (ha : CounterKept s a) (hb : CounterKept s b) :
    CounterKept s (if c then a else b) := by
  split
  · exact ha
  · exact hb

theorem CounterKept.of_frame {L : List Block} {s t : State} (h : Frame L s t) (hboot : decide (.boot ∈ L) = false)
    (htb : decide (.tb ∈ L) = false) : CounterKept s t :=
  .inl ⟨congrArg Boot.phase (h .boot (of_decide_eq_false hboot)), congrArg Timebase.frame (h .tb (of_decide_eq_false htb))⟩

/-- What the rule for the Frame counter says of a command that keeps it. -/
theorem CounterKept.counter {s t : State} (h : CounterKept s t) :
    t.tb.frame = s.tb.frame ∨ (t.boot.phase = .reset ∧ t.tb.frame = 0) :=
  h.imp_left And.right

/-! ### Power-on resets -/

theorem powerOnReset_counterKept (cause volts : Nat) (s : State) : CounterKept s (powerOnReset cause volts s) := .inr ⟨rfl, rfl⟩

theorem powerOff_counterKept (volts : Nat) (s : State) : CounterKept s (powerOff volts s) := .inr ⟨rfl, rfl⟩

theorem resetCtlWrite_counterKept (v : Word) (s : State) : CounterKept s (resetCtlWrite v s) :=
  .ite (powerOnReset_counterKept ..) (.refl s)

theorem execColdStart_counterKept {v : Nat} {s t : State} (h : execColdStart v s = .next t) : CounterKept s t := by
  rw [← atBusbar_next h]
  exact .ite (powerOnReset_counterKept ..) (.refl s)

theorem execHostReset_counterKept {port : Nat} {value : Word} {s t : State} (h : execHostReset port value s = .next t) :
    CounterKept s t := by
  rw [← Host.Outcome.next.inj h]
  exact .ite (resetCtlWrite_counterKept ..) (.refl s)

theorem execThermalTrip_counterKept {s t : State} (h : execThermalTrip s = .next t) : CounterKept s t := by
  rw [← Host.Outcome.next.inj h]
  exact .ite (.inr ⟨rfl, rfl⟩) (.refl s)

theorem execSupplyReset_counterKept {v : Nat} {s t : State} (h : execSupplyReset v s = .next t) : CounterKept s t := by
  rw [← atBusbar_next h]
  refine .ite (.refl s) ?_
  extract_lets crossing at_ s1 _ _ s2
  have h1 : CounterKept s s1 := powerOnReset_counterKept 1 v s
  have halarm (u : State) : CounterKept u (u.raiseAlarm 0x02 0 at_) := .of_frame State.raiseAlarm_frame rfl rfl
  have h2 : CounterKept s s2 := .ite ((h1.trans (.inl ⟨rfl, rfl⟩)).trans (halarm _)) (.inl ⟨rfl, rfl⟩)
  exact .ite (h2.trans (powerOff_counterKept v s2)) h2

theorem execAlmanacInputLoss_counterKept {s t : State} (h : execAlmanacInputLoss s = .next t) : CounterKept s t := by
  rw [← Host.Outcome.next.inj h]
  have hloss : CounterKept s (almanacLoss s) := .of_frame almanacLoss_frame rfl rfl
  exact .ite (.ite (hloss.trans (powerOff_counterKept ..)) hloss) (.refl s)

/-! ### Register writes -/

theorem timebaseCfgWrite_counterKept (v : Word) (s : State) : CounterKept s (timebaseCfgWrite v s) :=
  .ite (.inl ⟨rfl, rfl⟩) (.ite (.inl ⟨rfl, rfl⟩) (.ite (.inl ⟨rfl, rfl⟩) (.inl ⟨rfl, rfl⟩)))

theorem eslWrite_counterKept (o : Nat) (v : Word) (s : State) : CounterKept s (eslWrite o v s) := by
  unfold eslWrite
  split
  · exact timebaseCfgWrite_counterKept v s
  · exact resetCtlWrite_counterKept v s
  · exact .inl ⟨rfl, rfl⟩
  · have hclear : CounterKept s (if bitOf v 0 then stageClear s else s) := .ite (.of_frame stageClear_frame rfl rfl) (.refl s)
    exact .ite (hclear.trans (.of_frame stageCommit_frame rfl rfl)) hclear
  · exact .of_frame acctCfgWrite_frame rfl rfl
  · exact .of_frame rebindWrite_frame rfl rfl
  · exact .ite (.refl s) (.inl ⟨rfl, rfl⟩)
  · exact .ite (.refl s) (.inl ⟨rfl, rfl⟩)
  · exact .of_frame evtCfgWrite_frame rfl rfl
  · exact .ite (.refl s) (.inl ⟨rfl, rfl⟩)
  · exact .of_frame evtCiWrite_frame rfl rfl
  · exact .inl ⟨rfl, rfl⟩
  · exact .refl s

theorem regWrite_counterKept (a : Nat) (v : Word) (s : State) : CounterKept s (regWrite a v s) := by
  unfold regWrite
  repeat' with_reducible refine CounterKept.ite ?_ ?_
  exacts [.refl s, eslWrite_counterKept .., .of_frame pwrCapWrite_frame rfl rfl, .refl s, .of_frame memRegWrite_frame rfl rfl,
    .of_frame clkWrite_frame rfl rfl, .of_frame ihxWrite_frame rfl rfl, .of_frame prfWrite_frame rfl rfl,
    .of_frame almWrite_frame rfl rfl, .refl s, .of_frame audWrite_frame rfl rfl, .of_frame mbxWrite_frame rfl rfl,
    .of_frame cntWrite_frame rfl rfl, .refl s, .of_frame rmkWrite_frame rfl rfl, .refl s, .of_frame stageWrite_frame rfl rfl,
    .refl s]

theorem wordWrite_counterKept (port a : Nat) (v : Word) (s : State) : CounterKept s (wordWrite port a v s) :=
  .ite (regWrite_counterKept a v s) (.refl s)

theorem execMaintenanceWrite_counterKept {port addr width : Nat} {value : DWord} {s t : State}
    (h : execMaintenanceWrite port addr width value s = .next t) : CounterKept s t := by
  rw [← Host.Outcome.next.inj h]
  exact .ite (wordWrite_counterKept ..)
    (.ite ((wordWrite_counterKept ..).trans (wordWrite_counterKept ..)) (.of_frame dropWrite_frame rfl rfl))

theorem execEslFrameCntLoRead_counterKept {port : Nat} {s t : State} (h : execEslFrameCntLoRead port s = .next t) :
    CounterKept s t := by
  rw [← Host.Outcome.next.inj h]
  exact .ite (.inl ⟨rfl, rfl⟩) (.refl s)

theorem execEslTimebaseCfgWrite_counterKept {port : Nat} {value : Word} {s t : State}
    (h : execEslTimebaseCfgWrite port value s = .next t) : CounterKept s t := by
  rw [← Host.Outcome.next.inj h]
  exact .ite (timebaseCfgWrite_counterKept value s) (.refl s)

/-! ### The Folio's commands (15 R470 to R476) -/

theorem joinManager_counterKept (s : State) (counter : BitVec 48) : CounterKept s (s.joinManager counter) := .inl ⟨rfl, rfl⟩

theorem joinWorker_counterKept (s : State) (season : Nat) (counter : BitVec 48) : CounterKept s (s.joinWorker season counter) := by
  unfold State.joinWorker
  extract_lets _ _ s1 s2
  have h1 : CounterKept s s1 := .inl ⟨rfl, rfl⟩
  have h2 : CounterKept s1 s2 := .ite (.of_frame State.send_frame rfl rfl) (.refl s1)
  exact (h1.trans h2).trans (.of_frame State.timebaseMode_frame rfl rfl)

theorem join_counterKept (s : State) (season : Nat) (counter : BitVec 48) : CounterKept s (s.join season counter) :=
  have hello (u : State) : CounterKept u u.sendHello := .of_frame State.sendHello_frame rfl rfl
  .ite (.inl ⟨rfl, rfl⟩)
    (.ite ((joinManager_counterKept s counter).trans (hello _)) ((joinWorker_counterKept s season counter).trans (hello _)))

theorem folioCtlWrite_counterKept (v : Word) (season : Nat) (counter : BitVec 48) (s : State) :
    CounterKept s (folioCtlWrite v season counter s) :=
  have hjoin : CounterKept s (if bitOf v 0 then s.join season counter else s) := .ite (join_counterKept ..) (.refl s)
  .ite (hjoin.trans (.of_frame State.leave_frame rfl rfl)) hjoin

theorem takeSeason_counterKept (season : Nat) (s : State) : CounterKept s (s.takeSeason season) :=
  .ite (.refl s) (.ite (.inl ⟨rfl, rfl⟩) (.inl ⟨rfl, rfl⟩))

theorem execAlignmentSymbol_counterKept {port : Nat} {symbol : AlignMsg} {offsetNs : Int} {delayNs : Nat} {s t : State}
    (h : execAlignmentSymbol port symbol offsetNs delayNs s = .next t) : CounterKept s t := by
  rw [← Host.Outcome.next.inj h]
  refine .ite (.refl s) ?_
  extract_lets d good ticks s1 _ _ s2 s3
  have hsend : CounterKept s (s.send port 11 [symbol.counter.toNat] []) := .of_frame State.send_frame rfl rfl
  have hsteer (u : State) : CounterKept u (u.steerToManager offsetNs) := .of_frame State.steerToManager_frame rfl rfl
  have h1 : CounterKept s s1 := (hsend.trans (hsteer _)).trans (takeSeason_counterKept ..)
  have h2 : CounterKept s1 s2 := .inl ⟨rfl, rfl⟩
  have h3 : CounterKept s2 s3 := .ite (.of_frame State.send_frame rfl rfl) (.refl s2)
  exact ((h1.trans h2).trans h3).trans (.of_frame State.checkJoined_frame rfl rfl)

theorem execCounterAdvance_counterKept {d : Nat} {s t : State} (h : execCounterAdvance d s = .next t) : CounterKept s t := by
  rw [← Host.Outcome.next.inj h]
  exact .ite (.inl ⟨rfl, rfl⟩) (.refl s)

theorem execJoin_counterKept {port season : Nat} {value : Word} {counter : BitVec 48} {s t : State}
    (h : execJoin port value season counter s = .next t) : CounterKept s t := by
  rw [← Host.Outcome.next.inj h]
  exact .ite (folioCtlWrite_counterKept ..) (.refl s)

theorem execLeave_counterKept {port : Nat} {value : Word} {s t : State} (h : execLeave port value s = .next t) : CounterKept s t := by
  rw [← Host.Outcome.next.inj h]
  exact .ite (folioCtlWrite_counterKept ..) (.refl s)

/-! ### The ticks (02 R41 to R49, R56) -/

/-- Inside a Frame a sample tick moves the timebase by its 512 sub-ticks and leaves the rest of it. -/
theorem execSampleTick_tb {s : State} (hrun : s.tb.running = true) (hin : s.tb.ticks < s.frameTicks) :
    ∃ t, execSampleTick s = .next t ∧ t.tb = { s.tb with sub := s.tb.sub + 512, ticks := s.tb.ticks + 1 } := by
  refine ⟨_, rfl, ?_⟩
  rw [if_neg (by simp [hrun, hin])]
  extract_lets _ s1 s2 s3 s4
  have h2 : s2.tb = s1.tb := State.bump_tb ..
  have h3 : s3.tb = s2.tb := by
    unfold s3
    split
    · exact State.bump_tb ..
    · rfl
  have h4 : s4.tb = s3.tb := by
    refine Frame.ite (L := [.streams, .cnt]) (fun _ => Frame.foldl .refl fun t x ht => ?_) (fun _ => .refl) .tb (by decide)
    exact Frame.comp slipStream_frame (by decide) ht
  have h5 : Frame [.streams, .jobs, .lines, .cnt, .tallies] s4 s4.lineTick.groupTick :=
    Frame.comp State.groupTick_frame (by decide) State.lineTick_frame
  split
  · rw [h3, h2]
  · rw [h5 .tb (by decide), h4, h3, h2]

theorem execSampleTick_counter {s t : State} (h : execSampleTick s = .next t) : t.tb.frame = s.tb.frame := by
  by_cases hgo : s.tb.running = true ∧ s.tb.ticks < s.frameTicks
  · obtain ⟨u, hu, htb⟩ := execSampleTick_tb hgo.1 hgo.2
    rw [← Host.Outcome.next.inj (hu.symm.trans h), htb]
  · rw [← Host.Outcome.next.inj h, if_pos (by simpa [imp_iff_not_or] using hgo)]

theorem advanceDue_congr {s u : State} (htb : u.tb = s.tb) (hihx : u.ihx = s.ihx) : u.advanceDue = s.advanceDue := by
  unfold State.advanceDue State.transferOpen
  rw [htb, hihx]

theorem nextFrame_congr {s u : State} (htb : u.tb = s.tb) (hihx : u.ihx = s.ihx) : u.nextFrame = s.nextFrame := by
  unfold State.nextFrame State.skipFrames
  rw [advanceDue_congr htb hihx, htb]

/-- The counter's step reads the timebase and the Folio alone. -/
theorem counterTick_tb_congr {s u : State} (htb : u.tb = s.tb) (hihx : u.ihx = s.ihx) : (counterTick u).tb = (counterTick s).tb := by
  simp only [counterTick, nextFrame_congr htb hihx, advanceDue_congr htb hihx, htb]

/-- The blocks that a Frame tick may change behind the step of the counter. -/
def frameTickBlocks : List Block := tearDownBlocks ++ [.pwr, .fault, .free]

/-- At the last sample tick of a Frame the Frame tick does to the timebase what the counter's step does: what comes before it leaves
the timebase and the Folio, which that step reads, and what comes behind it leaves the timebase. -/
theorem execFrameTick_tb {w : Nat} {s : State} (hrun : s.tb.running = true) (hend : s.tb.ticks = s.frameTicks) :
    ∃ t, execFrameTick w s = .next t ∧ t.tb = (counterTick s).tb := by
  refine ⟨_, rfl, ?_⟩
  rw [if_neg (by simp [hrun, hend])]
  extract_lets s1 s2 s3 s4 s5 s6 s7
  have h1 : Frame [.cnt] s s1 := Frame.ite (fun _ => State.bump_frame) (fun _ => .refl)
  have hm : Frame [.rmk, .sessions, .streams, .jobs, .cnt] s (markStretched s1) :=
    Frame.comp markStretched_frame (by decide) (h1.widen rfl)
  have h2 : s2.tb = (counterTick s).tb := by
    have htb : (markStretched s1).tb = s.tb := hm .tb (by decide)
    have hihx : (markStretched s1).ihx = s.ihx := hm .ihx (by decide)
    calc s2.tb = (counterTick (markStretched s1)).tb := cntTick_frame .tb (by decide)
      _ = (counterTick s).tb := counterTick_tb_congr htb hihx
  have h3 : Frame frameTickBlocks s2 s3 := State.bump_frame.widen rfl
  have h4 : Frame frameTickBlocks s2 s4 := Frame.comp powerTick_frame (by decide) h3
  have h5 : Frame frameTickBlocks s2 s5 :=
    Frame.foldl h4 fun u id hu => Frame.comp tickStream_frame (by decide) hu
  have h6 : Frame frameTickBlocks s2 s6 :=
    Frame.comp rebindFrost_frame (by decide) (Frame.foldl h5 fun u id hu => Frame.comp State.settle_frame (by decide) hu)
  have h7 : Frame frameTickBlocks s2 s7 :=
    Frame.comp State.lineFrame_frame (by decide) (Frame.comp State.lineRates_frame (by decide) (Frame.comp planTick_frame (by decide) h6))
  have h8 : Frame frameTickBlocks s2 (missSymbol (sendSymbols s7)).reportTick :=
    Frame.comp State.reportTick_frame (by decide) (Frame.comp missSymbol_frame (by decide) (Frame.comp sendSymbols_frame (by decide) h7))
  split
  · rw [h3 .tb (by decide), h2]
  · rw [h8 .tb (by decide), h2]

theorem execFrameTick_counter {w : Nat} {s t : State} (h : execFrameTick w s = .next t) :
    t.tb.frame = s.tb.frame ∨ t.tb.frame = s.nextFrame := by
  by_cases hgo : s.tb.running = true ∧ s.tb.ticks = s.frameTicks
  · obtain ⟨u, hu, htb⟩ := execFrameTick_tb (w := w) hgo.1 hgo.2
    rw [← Host.Outcome.next.inj (hu.symm.trans h), htb]
    exact .inr rfl
  · left
    rw [← Host.Outcome.next.inj h, if_pos (by simpa [imp_iff_not_or] using hgo)]

theorem execMeasure_counter {ms : Nat} {s t : State} (h : execMeasure ms s = .next t) : t.tb.frame = s.tb.frame ∨ t.tb.frame = 0 := by
  rw [← Host.Outcome.next.inj h]
  split
  · exact .inr rfl
  · exact .inl rfl

/-! ### The rule for the Frame counter (02 R48, R49; 15 R476) -/

/-- Settles O8: the ticks and MEASURE by their own laws, the commands that may reset the module or that write another part of the
timebase by `CounterKept`, and every other command by its frame. -/
theorem frameCounterRule : Obligations.FrameCounterRule := by
  intro c s t h
  have kept (hk : CounterKept s t) : t.tb.frame = s.tb.frame ∨ ((∃ w, c = .frameTick w) ∧ t.tb.frame = s.nextFrame) ∨
      ((∃ ms, c = .measure ms) ∧ t.tb.frame = 0) ∨ (t.boot.phase = .reset ∧ t.tb.frame = 0) :=
    hk.counter.imp_right fun hr => .inr (.inr hr)
  cases c with
  | frameTick w => exact (execFrameTick_counter h).imp_right fun hf => .inl ⟨⟨w, rfl⟩, hf⟩
  | sampleTick => exact .inl (execSampleTick_counter h)
  | measure ms => exact (execMeasure_counter h).imp_right fun hf => .inr (.inl ⟨⟨ms, rfl⟩, hf⟩)
  | coldStart => exact kept (execColdStart_counterKept h)
  | hostReset => exact kept (execHostReset_counterKept h)
  | supplyReset => exact kept (execSupplyReset_counterKept h)
  | thermalTrip => exact kept (execThermalTrip_counterKept h)
  | almanacInputLoss => exact kept (execAlmanacInputLoss_counterKept h)
  | maintenanceWrite => exact kept (execMaintenanceWrite_counterKept h)
  | eslFrameCntLoRead => exact kept (execEslFrameCntLoRead_counterKept h)
  | eslTimebaseCfgWrite => exact kept (execEslTimebaseCfgWrite_counterKept h)
  | counterAdvance => exact kept (execCounterAdvance_counterKept h)
  | join => exact kept (execJoin_counterKept h)
  | leave => exact kept (execLeave_counterKept h)
  | alignmentSymbol => exact kept (execAlignmentSymbol_counterKept h)
  | _ => exact .inl (congrArg Timebase.frame (exec_same (b := .tb) h rfl))

end Sys2Proof.Machine
end

section
/-! ### Ticks of the timebase, its settings, and the values after reset (02 R41 to R48, R68; 11 R333; 19 R593, R594) -/

namespace Sys2Proof.Machine

open Sys2Proof

/-! ### The counter at a Frame tick (02 R48, 15 R476) -/

theorem nextFrame_of_no_advance {s : State} (h : s.tb.advance = none) : s.nextFrame = s.tb.frame + 1 := by
  simp [State.nextFrame, State.skipFrames, State.advanceDue, h]

theorem nextFrame_of_advance {s : State} {at_ d : Nat} (h : s.tb.advance = some (at_, d)) (hopen : s.transferOpen = false)
    (hdue : at_ ≤ s.tb.frameOrd + 1) : s.nextFrame = s.tb.frame + 1 + BitVec.ofNat 48 d := by
  have hskip : s.skipFrames = d := by simp [State.skipFrames, State.advanceDue, h, hopen, hdue]
  rw [State.nextFrame, hskip, BitVec.ofNat_add, ← BitVec.add_assoc]
  rfl

/-- A pending change of Season and oscillator is in force behind the counter's step (02 R44). -/
theorem counterTick_cfg (s : State) :
    ((counterTick s).tb.season, (counterTick s).tb.osc) = s.tb.pendingCfg.getD (s.tb.season, s.tb.osc) := rfl

/-- Settles O12: inside a Frame by what a sample tick leaves of the timebase, at its end by the counter's step, which is all that a
Frame tick does to the timebase. -/
theorem timebaseTicks : Obligations.TimebaseTicks := by
  refine ⟨fun s hrun hin => ?_, fun w s hrun hend => ?_⟩
  · obtain ⟨t, ht, htb⟩ := execSampleTick_tb hrun hin
    exact ⟨t, ht, htb, execSampleTick_frame ht⟩
  · obtain ⟨t, ht, htb⟩ := execFrameTick_tb (w := w) hrun hend
    refine ⟨t, ht, ?_⟩
    simp only [htb]
    exact ⟨rfl, rfl, rfl, rfl, nextFrame_of_no_advance, fun at_ d => nextFrame_of_advance, counterTick_cfg s, rfl,
      exec_frame (c := .frameTick w) ht⟩

/-! ### ESL_TIMEBASE_CFG (02 R44, 15 R472, 19 R593) -/

/-- Where a change of Season may be taken (02 R44, 15 R472). -/
theorem seasonFree_iff (s : State) : s.seasonFree = true ↔
    (∀ x ∈ s.streamList, x.phase = .closed) ∧ (∀ j ∈ s.jobs, j.2.fill = true) ∧
      (s.ihx.state = 0 ∨ (s.ihx.role = 1 ∧ s.ihx.directory = [])) := by
  simp [State.seasonFree, and_assoc]

section
variable {v : Word} {s : State}

theorem timebaseCfgWrite_joined (hrole : s.ihx.role = 2) (hstate : 2 ≤ s.ihx.state) :
    timebaseCfgWrite v s = { s with tb := { s.tb with refused := true } } :=
  if_pos (by simp [hrole, hstate])

theorem timebaseCfgWrite_same (hj : ¬(s.ihx.role = 2 ∧ 2 ≤ s.ihx.state))
    (hsame : (fld v 3 2, fld v 1 0) = s.tb.pendingCfg.getD (s.tb.season, s.tb.osc)) :
    timebaseCfgWrite v s = { s with tb := { s.tb with refused := false } } :=
  (if_neg (by simpa using hj)).trans (if_pos hsame)

theorem timebaseCfgWrite_busy (hj : ¬(s.ihx.role = 2 ∧ 2 ≤ s.ihx.state))
    (hnew : (fld v 3 2, fld v 1 0) ≠ s.tb.pendingCfg.getD (s.tb.season, s.tb.osc)) (hbusy : ¬s.seasonFree = true) :
    timebaseCfgWrite v s = { s with tb := { s.tb with refused := true } } :=
  (if_neg (by simpa using hj)).trans ((if_neg hnew).trans (if_pos (by simpa using hbusy)))

theorem timebaseCfgWrite_free (hj : ¬(s.ihx.role = 2 ∧ 2 ≤ s.ihx.state))
    (hnew : (fld v 3 2, fld v 1 0) ≠ s.tb.pendingCfg.getD (s.tb.season, s.tb.osc)) (hfree : s.seasonFree = true) :
    timebaseCfgWrite v s = { s with tb := { s.tb with
      pendingCfg := if (fld v 3 2, fld v 1 0) = (s.tb.season, s.tb.osc) then none else some (fld v 3 2, fld v 1 0)
      refused := false } } :=
  (if_neg (by simpa using hj)).trans ((if_neg hnew).trans (if_neg (by simp [hfree])))

end

/-! ### While a change is pending (02 R44) -/

/-- Marking a descriptor leaves the records that the rings hold. -/
theorem modDesc_held (s : State) (n seq : Nat) (f : Desc → Desc) (m : Nat) :
    ((s.modDesc n seq f).ring m).held = (s.ring m).held := by
  by_cases hm : m = n
  · subst hm
    simp [State.modDesc]
  · rw [State.modDesc, State.ring_setRing_other _ _ hm]

theorem addTransfer_offers (s : State) (outgoing : Bool) (ring : Nat) (d : Desc) (peer stream : Nat) :
    (s.addTransfer outgoing ring d peer stream).ihx.offers = s.ihx.offers := by
  unfold State.addTransfer
  split <;> rfl

theorem addTransfer_ring (s : State) (outgoing : Bool) (ring : Nat) (d : Desc) (peer stream m : Nat) :
    (s.addTransfer outgoing ring d peer stream).ring m = s.ring m := by
  unfold State.addTransfer
  split <;> rfl

section
variable {n k : Nat} {s : State} (hp : s.tb.pendingCfg.isSome = true)
include hp

/-- A STREAM_OPEN at most starts. -/
theorem execStreamOpen_pending :
    execStreamOpen n k s = .next s ∨ execStreamOpen n k s = .next (s.modDesc n k fun d => { d with started := true }) := by
  unfold execStreamOpen
  split
  · exact .inl rfl
  · split
    · exact .inl rfl
    · exact .inr rfl

/-- A TRANSFER_IN at most starts, and its Transfer waits. -/
theorem execTransferIn_pending :
    execTransferIn n k s = .next s ∨
    ∃ d : Desc, execTransferIn n k s =
      .next ((s.modDesc n k fun d => { d with started := true }).addTransfer false n d d.source 16384) := by
  unfold execTransferIn
  split
  · exact .inl rfl
  · next d _ =>
    split
    · exact .inl rfl
    · extract_lets s1 o?
      have htb : s1.tb = s.tb :=
        Frame.ite (L := [.rmk, .ihx]) (fun _ => Frame.comp State.addTransfer_frame (by decide) (State.modDesc_frame.widen rfl))
          (fun _ => .refl) .tb (by decide)
      have hs1 : s1 = s ∨ ∃ d : Desc, s1 =
          (s.modDesc n k fun d => { d with started := true }).addTransfer false n d d.source 16384 := by
        unfold s1
        split
        · exact .inr ⟨d, rfl⟩
        · exact .inl rfl
      split
      · rw [if_neg (by simp [htb, Option.isSome_iff_ne_none.mp hp])]
        exact hs1.imp (congrArg _) fun ⟨d, h⟩ => ⟨d, congrArg _ h⟩
      · exact hs1.imp (congrArg _) fun ⟨d, h⟩ => ⟨d, congrArg _ h⟩

/-- An OFFER is kept at most. -/
theorem execOffer_pending (o : OfferMsg) :
    execOffer o s = .next s ∨ execOffer o s = .next { s with ihx := { s.ihx with
      offers := s.ihx.offers.filter (fun q => q.transferId != o.transferId) ++ [o] } } := by
  unfold execOffer
  extract_lets q _ s1
  have htb : s1.tb = s.tb := rfl
  split
  · exact .inl rfl
  · split
    · rw [if_neg (by simp [htb, Option.isSome_iff_ne_none.mp hp])]
      exact .inr rfl
    · exact .inr rfl

end

/-! ### ESL_REBIND and PWR_CAP (11 R333, 02 R68) -/

@[simp] theorem job_with_rebind (s : State) (r : Rebind) (n : Nat) : ({ s with rebind := r } : State).job n = s.job n := rfl

theorem rebindWrite_accepts {v : Word} {j : Job} {s : State} (hgo : bitOf v 10 = true) (hj : s.job (fld v 9 0) = some j)
    (hlive : j.fill = false) (hkind : j.kind = .streams) (hbound : j.state = .bound) (hreq : s.rebind.request = none)
    (hplace : s.rebind.place = none) :
    rebindWrite v s = { s with rebind := { s.rebind with
      job := fld v 9 0
      done := false
      refused := false
      request := some (fld v 9 0) } } := by
  simp [rebindWrite, hgo, hj, hlive, hkind, hbound, hreq, hplace]

theorem rebindWrite_refuses {v : Word} {s : State} (hgo : bitOf v 10 = true) (hj : s.job (fld v 9 0) = none) :
    rebindWrite v s = { s with rebind := { s.rebind with job := fld v 9 0, done := false, refused := true } } := by
  simp [rebindWrite, hgo, hj]

/-- While a change of Season or oscillator is pending, STREAM_OPENs and TRANSFER_INs wait, and the Frame tick puts it in force. -/
theorem pendingCfg_waits {new : Nat × Nat} {s : State} (hp : s.tb.pendingCfg = some new) :
    (∀ n k, Completes (.streamOpen n k) s fun t =>
      (∀ m, (t.ring m).held = (s.ring m).held) ∧ t.streams = s.streams ∧ Frame [.rmk] s t) ∧
    (∀ n k, Completes (.transferIn n k) s fun t =>
      (∀ m, (t.ring m).held = (s.ring m).held) ∧ t.ihx.offers = s.ihx.offers ∧ Frame [.rmk, .ihx] s t) ∧
    (∀ w, s.tb.running = true → s.tb.ticks = s.frameTicks →
      Completes (.frameTick w) s fun t => (t.tb.season, t.tb.osc) = new ∧ t.tb.pendingCfg = none) := by
  have hsome : s.tb.pendingCfg.isSome = true := by rw [hp]; rfl
  refine ⟨fun n k => ?_, fun n k => ?_, fun w hrun hend => ?_⟩
  · obtain h | h := execStreamOpen_pending (n := n) (k := k) hsome
    · exact ⟨s, h, fun _ => rfl, rfl, .refl⟩
    · exact ⟨_, h, modDesc_held s n k _, State.modDesc_streams .., State.modDesc_frame⟩
  · obtain h | ⟨d, h⟩ := execTransferIn_pending (n := n) (k := k) hsome
    · exact ⟨s, h, fun _ => rfl, rfl, .refl⟩
    · refine ⟨_, h, fun m => ?_, ?_, Frame.comp State.addTransfer_frame (by decide) (State.modDesc_frame.widen rfl)⟩
      · rw [addTransfer_ring, modDesc_held]
      · rw [addTransfer_offers, State.modDesc_ihx]
  · obtain ⟨t, ht, htb⟩ := execFrameTick_tb (w := w) hrun hend
    refine ⟨t, ht, ?_⟩
    simp only [htb]
    exact ⟨(counterTick_cfg s).trans (by rw [hp]; rfl), rfl⟩

/-- Settles O30: each write by the case of `timebaseCfgWrite` that it meets, and what waits on a pending change. -/
theorem timebaseAndPowerSettings : Obligations.TimebaseAndPowerSettings := by
  have write (p : Nat) (v : Word) (s : State) (hw : s.writable p .ready = true) :
      exec (.eslTimebaseCfgWrite p v) s = .next (timebaseCfgWrite v s) := congrArg _ (if_pos hw)
  have rebind (p : Nat) (v : Word) (s : State) (hw : s.writable p .ready = true) :
      exec (.eslRebind p v) s = .next (rebindWrite v s) := congrArg _ (if_pos hw)
  refine ⟨fun p v s hw hj => ?_, fun p v s hw hrole hstate => ?_, fun new s hp => ?_, rfl, fun p v s hw => congrArg _ (if_pos hw),
    fun p v j s hw hgo hjob hlive hkind hbound hreq hplace => ?_, fun p v s hw hgo hjob => ?_⟩
  · rw [write p v s hw]
    refine ⟨fun hsame => ?_, fun hnew hfree hne => ?_, fun hnew hfree hre => ?_, fun hnew hbusy => ?_⟩
    · rw [timebaseCfgWrite_same hj hsame]
    · rw [timebaseCfgWrite_free hj hnew ((seasonFree_iff s).mpr hfree), if_neg hne]
    · rw [timebaseCfgWrite_free hj hnew ((seasonFree_iff s).mpr hfree), if_pos hre]
    · rw [timebaseCfgWrite_busy hj hnew fun h => hbusy ((seasonFree_iff s).mp h)]
  · rw [write p v s hw, timebaseCfgWrite_joined hrole hstate]
  · obtain ⟨hopen, hin, htick⟩ := pendingCfg_waits hp
    exact ⟨hopen, hin, execOffer_pending (by rw [hp]; rfl), htick⟩
  · rw [rebind p v s hw, rebindWrite_accepts hgo hjob hlive hkind hbound hreq hplace]
  · rw [rebind p v s hw, rebindWrite_refuses hgo hjob]

/-! ### After reset (19 R578) -/

/-- Settles O60: each value stands in `State.reset`. -/
theorem resetValues : Obligations.ResetValues := by
  refine ⟨?_, ?_, ?_, ?_, ?_, ?_, rfl, rfl, rfl, rfl, rfl⟩
  · decide
  · decide
  · decide
  · decide
  · exact fun n => ⟨rfl, rfl⟩
  · exact fun n => rfl

end Sys2Proof.Machine
end

section
/-! ### Alarms in the table (18 R570) -/

namespace Sys2Proof.Machine

open Sys2Proof

/-- The alarm of a code and source is in the table, under the key it takes. -/
def Evt.listed (e : Evt) (code source : Nat) : Prop :=
  e.table.any (fun k => k.code == code && k.source == e.keySource code source) = true

theorem keySource_congr {e f : Evt} (h : f.table = e.table) (code source : Nat) : f.keySource code source = e.keySource code source := by
  unfold Evt.keySource
  rw [h]

/-- A change of entries that leaves their keys leaves the key an alarm takes. -/
theorem keySource_map (e : Evt) {g : AlarmKey → AlarmKey} (hc : ∀ k, (g k).code = k.code) (hs : ∀ k, (g k).source = k.source)
    (code source : Nat) : ({ e with table := e.table.map g } : Evt).keySource code source = e.keySource code source := by
  simp [Evt.keySource, List.filter_map, Function.comp_def, hc, hs]

/-- The key an alarm took is the key it takes again. -/
theorem keySource_append (e : Evt) {k : AlarmKey} {code source : Nat} (hc : k.code = code) (hs : k.source = e.keySource code source) :
    ({ e with table := e.table ++ [k] } : Evt).keySource code source = e.keySource code source := by
  by_cases hin : e.table.any (fun k => k.code == code && k.source == source) = true
  · simp [Evt.keySource, hin]
  · by_cases hroom : (e.table.filter (fun k => k.source != 0xFFFF)).length < 2048
    · simp [Evt.keySource, hc, hs, hroom]
    · have hsrc : e.keySource code source = 0xFFFF := by
        rw [Evt.keySource, if_neg hin, if_neg hroom]
      rw [hsrc] at hs ⊢
      by_cases hff : source = 0xFFFF
      · simp [Evt.keySource, hff]
      · have hin' : ¬(e.table ++ [k]).any (fun k => k.code == code && k.source == source) = true := by
          simpa [hs, Ne.symm hff] using hin
        have hroom' : ¬((e.table ++ [k]).filter (fun k => k.source != 0xFFFF)).length < 2048 := by
          simpa [hs] using hroom
        rw [Evt.keySource, if_neg hin', if_neg hroom']

theorem alarmAgain_code (code source : Nat) (now : BitVec 48) (detail : DWord) (k : AlarmKey) :
    (alarmAgain code source now detail k).code = k.code := by
  unfold alarmAgain
  split <;> rfl

theorem alarmAgain_source (code source : Nat) (now : BitVec 48) (detail : DWord) (k : AlarmKey) :
    (alarmAgain code source now detail k).source = k.source := by
  unfold alarmAgain
  split <;> rfl

theorem evtWrite_table (s : State) (r : EvtRecord) : (s.evtWrite r).evt.table = s.evt.table := by
  unfold State.evtWrite
  exact (apply_ite (fun u : State => u.evt.table) _ _ _).trans (ite_self _)

theorem alarmRecord_table (s : State) (r : EvtRecord) : (s.alarmRecord r).evt.table = s.evt.table := by
  unfold State.alarmRecord
  split
  · rw [State.bump_evt, evtWrite_table]
  · rfl

/-- A raised alarm is in the table. -/
theorem raiseAlarm_listed (s : State) (code source detail : Nat) : (s.raiseAlarm code source detail).evt.listed code source := by
  unfold State.raiseAlarm
  extract_lets src now _ k s1
  split
  · next hin =>
    rw [Evt.listed, keySource_map s.evt (alarmAgain_code _ _ _ _) (alarmAgain_source _ _ _ _)]
    simpa [Function.comp_def, alarmAgain_code, alarmAgain_source] using hin
  · rw [Evt.listed, keySource_congr (alarmRecord_table s1 _), alarmRecord_table, keySource_append s.evt (k := k) rfl rfl]
    simp [s1, k, src]

/-- An alarm raised for each of some occurrences is in the table. -/
theorem raiseAlarms_listed {α : Type} (code source : Nat) (detail : α → Nat) {l : List α} (hl : l ≠ []) (s : State) :
    (l.foldl (fun s a => s.raiseAlarm code source (detail a)) s).evt.listed code source := by
  obtain ⟨l, a, rfl⟩ := List.eq_nil_or_concat l |>.resolve_left hl
  rw [List.concat_eq_append, List.foldl_concat]
  exact raiseAlarm_listed ..

end Sys2Proof.Machine
end

section
/-! ### Alignment (02 R45; 15 R470, R472 to R476) -/

namespace Sys2Proof.Machine

open Sys2Proof

/-! ### Messages on a port -/

/-- Sending changes what has been sent of the Folio's state, and nothing else of it. -/
theorem send_ihx (s : State) (port kind : Nat) (body : List Nat) (bytes : List Byte) :
    ∃ sent wire frames, (s.send port kind body bytes).ihx = { s.ihx with sent := sent, wire := wire, frames := frames } := by
  unfold State.send
  extract_lets x n
  split
  · exact ⟨_, _, _, rfl⟩
  · split <;> exact ⟨_, _, _, rfl⟩

/-- What has been sent stays sent. -/
theorem mem_sent_send {s : State} {m : IhxMsg} (h : m ∈ s.ihx.sent) (port kind : Nat) (body : List Nat) (bytes : List Byte) :
    m ∈ (s.send port kind body bytes).ihx.sent := by
  unfold State.send
  extract_lets x n
  split
  · exact h
  · split <;> exact List.mem_append_left _ h

/-- A message goes out on a trained port. -/
theorem send_mem_sent {s : State} {port : Nat} (h : (s.ihxPort port).trained = true) (kind : Nat) (body : List Nat) (bytes : List Byte) :
    (⟨port, kind, body, bytes⟩ : IhxMsg) ∈ (s.send port kind body bytes).ihx.sent := by
  unfold State.send
  extract_lets x n
  rw [if_neg (by simp [x, h])]
  split <;> exact List.mem_append_right _ (List.mem_singleton_self _)

/-! ### The worker's place in the Folio (15 R470, R473) -/

theorem hearsManager_iff (s : State) (p : Nat) : s.hearsManager p = true ↔
    s.ihx.role = 2 ∧ s.ihx.state ≠ 0 ∧ p = s.portTo 0 ∧ (s.ihxPort p).trained = true ∧ (s.ihxPort p).secured = true := by
  simp [State.hearsManager, and_assoc]

/-- A worker whose port to the manager is up and secured has joined, or is back, as soon as it is aligned. -/
theorem checkJoined_ihx {s : State} (hrole : s.ihx.role = 2) (htrained : (s.ihxPort (s.portTo 0)).trained = true)
    (hsecured : (s.ihxPort (s.portTo 0)).secured = true) :
    s.checkJoined.ihx =
      { s.ihx with state := if (s.ihx.state = 1 ∨ s.ihx.state = 3) ∧ s.ihx.aligned = true then 2 else s.ihx.state } := by
  by_cases hjoin : (s.ihx.state = 1 ∨ s.ihx.state = 3) ∧ s.ihx.aligned = true
  · simp [State.checkJoined, hrole, htrained, hsecured, hjoin]
  · rw [if_neg hjoin, State.checkJoined, if_neg (by simpa [hrole, htrained, hsecured] using hjoin)]

/-! ### The Season that a symbol brings (02 R45, 15 R472) -/

theorem takeSeason_tb_congr {s u : State} (h : u.tb = s.tb) (season : Nat) : (u.takeSeason season).tb = (s.takeSeason season).tb := by
  unfold State.takeSeason
  simp only [h, apply_ite State.tb]

/-- The Season, and the change of it that waits, are all that it touches. -/
theorem takeSeason_tb (s : State) (season : Nat) :
    ∃ now next, (s.takeSeason season).tb = { s.tb with season := now, pendingCfg := next } := by
  unfold State.takeSeason
  extract_lets v
  split
  · exact ⟨_, _, rfl⟩
  · split <;> exact ⟨_, _, rfl⟩

/-- The Season in force behind the next Frame tick is the symbol's. -/
theorem takeSeason_season (s : State) (season : Nat) :
    ((s.takeSeason season).tb.pendingCfg.map (·.1)).getD (s.takeSeason season).tb.season = min season 3 := by
  unfold State.takeSeason
  extract_lets v
  split
  · next h => exact h.symm
  · split <;> rfl

/-! ### Steering toward the manager's tick (15 R474) -/

/-- The most that a symbol steers, in steps of 1/1,024 ppm: what 20 ppm per second gives in a Frame. -/
def State.steerSpan (s : State) : Nat := 20 * 1024 * s.frameSubs / 24576000

theorem steerToManager_oscAt {s : State} (o : Int) (hmode : (s.oscAt s.tb.osc).mode = 2) :
    ∃ step : Nat, step ≤ s.steerSpan ∧
      ((s.steerToManager o).oscAt s.tb.osc).steer = steerSat ((s.oscAt s.tb.osc).steer + o.sign * step) := by
  refine ⟨Config.freeNat s.free % (s.steerSpan + 1), Nat.lt_succ_iff.mp (Nat.mod_lt _ (Nat.succ_pos _)), ?_⟩
  unfold State.steerToManager
  extract_lets q span step
  rw [if_neg (by simp [q, hmode])]
  exact congrArg Osc.steer (State.oscAt_setOsc ..)

/-- A step of at most `span` in the direction of the offset, within ±1,000 ppm. -/
theorem steerSat_step {x o : Int} {step span : Nat} (h : step ≤ span) :
    let now := max (-1024000) (min 1024000 x)
    let q := steerSat (x + o.sign * step)
    now - span ≤ q ∧ q ≤ now + span ∧ -1024000 ≤ q ∧ q ≤ 1024000 ∧ (0 ≤ o → now ≤ q) ∧ (o ≤ 0 → q ≤ now) := by
  unfold steerSat
  obtain ho | rfl | ho := lt_trichotomy o 0
  · rw [Int.sign_eq_neg_one_of_neg ho]
    omega
  · rw [Int.sign_zero]
    omega
  · rw [Int.sign_eq_one_of_pos ho]
    omega

/-- How the timebase oscillator stands behind the echo and the steering of a symbol (15 R474). -/
theorem steered_bounds {s t : State} {p : Nat} {n : BitVec 48} {o : Int}
    (hlines : t.lines = ((s.send p 11 [n.toNat] []).steerToManager o).lines) (hmode : (s.oscAt s.tb.osc).mode = 2) :
    let now := max (-1024000) (min 1024000 (s.oscAt s.tb.osc).steer)
    let q := t.oscAt s.tb.osc
    now - s.steerSpan ≤ q.steer ∧ q.steer ≤ now + s.steerSpan ∧ -1024000 ≤ q.steer ∧ q.steer ≤ 1024000 ∧
      (0 ≤ o → now ≤ q.steer) ∧ (o ≤ 0 → q.steer ≤ now) := by
  have hosc : t.oscAt s.tb.osc = ((s.send p 11 [n.toNat] []).steerToManager o).oscAt s.tb.osc := by
    simp only [State.oscAt, hlines]
  have hspan : (s.send p 11 [n.toNat] []).steerSpan = s.steerSpan := by
    simp only [State.steerSpan, State.frameSubs, State.frameTicks, State.send_tb]
  obtain ⟨step, hstep, hsteer⟩ := steerToManager_oscAt (s := s.send p 11 [n.toNat] []) o (by simpa using hmode)
  simp only [State.send_tb, State.oscAt_send] at hsteer
  intro now q
  have hq : q.steer = steerSat ((s.oscAt s.tb.osc).steer + o.sign * step) := by rw [← hsteer, ← hosc]
  rw [hq]
  exact steerSat_step (hstep.trans_eq hspan)

/-! ### ALIGNMENT_SYMBOL (15 R470 to R476) -/

/-- Good Frames in a row behind a symbol: the first one behind holdover counts from 1 (15 R475). -/
def State.goodBehind (s : State) (n : BitVec 48) (o : Int) : Nat :=
  if n = s.tb.frame ∧ -100 ≤ o ∧ o ≤ 100 then (if s.ihx.holdover then 1 else s.ihx.goodTicks + 1) else 0

/-- An advance as a symbol leaves it: one is due at the next Frame tick where the count is behind and none is announced (15 R476). -/
def State.advanceBehind (s : State) (n : BitVec 48) : Option (Nat × Nat) :=
  if s.tb.frame.toNat < n.toNat ∧ s.tb.advance = none then some (s.tb.frameOrd + 1, n.toNat - s.tb.frame.toNat) else s.tb.advance

/-- What a symbol with `k` good Frames in a row sets of a worker's alignment (15 R474, R475). -/
def Ihx.behindSymbol (x : Ihx) (k delay : Nat) (o : Int) (measured : Option Int) : Ihx :=
  { x with
    sinceSymbol := 0
    holdover := false
    delayNs := min delay 0xFFFF
    alignErr := satInt 16 o
    goodTicks := min 64 k
    aligned := decide (64 ≤ k)
    measured := measured }

/-- What a symbol on the port to the manager leaves: the lines as the echo and the steering leave them, the timebase with the Folio's
Season and an advance that is due, and the Folio's state with the symbol's counts and with what has been sent. -/
theorem execAlignmentSymbol_leaves {p delay season : Nat} {n : BitVec 48} {o : Int} {s : State} (hears : s.hearsManager p = true) :
    ∃ t, execAlignmentSymbol p ⟨n, season⟩ o delay s = .next t ∧
      t.lines = ((s.send p 11 [n.toNat] []).steerToManager o).lines ∧
      t.tb = { (s.takeSeason season).tb with advance := s.advanceBehind n } ∧
      (∃ measured sent wire frames, t.ihx = { s.ihx.behindSymbol (s.goodBehind n o) delay o measured with
        state := if (s.ihx.state = 1 ∨ s.ihx.state = 3) ∧ 64 ≤ s.goodBehind n o then 2 else s.ihx.state
        sent := sent
        wire := wire
        frames := frames }) ∧
      (⟨p, 11, [n.toNat], []⟩ : IhxMsg) ∈ t.ihx.sent ∧
      (n.toNat < s.tb.frame.toNat → (⟨p, 20, [s.tb.frame.toNat], []⟩ : IhxMsg) ∈ t.ihx.sent) := by
  obtain ⟨hrole, -, hport, htrained, hsecured⟩ := (hearsManager_iff s p).mp hears
  refine ⟨_, rfl, ?_⟩
  rw [if_neg (by simp [hears])]
  extract_lets d good ticks s1 tb1 ihx1 s2 s3
  have hticks : ticks = s.goodBehind n o := by
    have hgood : good = true ↔ n = s.tb.frame ∧ -100 ≤ o ∧ o ≤ 100 := by
      simp only [good, d, Bool.and_eq_true, decide_eq_true_eq, and_assoc, sub_eq_zero, Nat.cast_inj, BitVec.toNat_inj]
    simp only [ticks, State.goodBehind, hgood]
  have h1lines : s1.lines = ((s.send p 11 [n.toNat] []).steerToManager o).lines := State.takeSeason_frame .lines (by decide)
  have h1tb : s1.tb = (s.takeSeason season).tb :=
    takeSeason_tb_congr ((State.steerToManager_frame .tb (by decide)).trans (State.send_tb ..)) season
  have h1ihx : s1.ihx = (s.send p 11 [n.toNat] []).ihx :=
    (State.takeSeason_frame .ihx (by decide)).trans (State.steerToManager_frame .ihx (by decide))
  obtain ⟨now, next, hseason⟩ := takeSeason_tb s season
  obtain ⟨sent, wire, frames, hecho⟩ := send_ihx s p 11 [n.toNat] []
  have h3 : Frame [.ihx] s2 s3 := Frame.ite (fun _ => State.send_frame) (fun _ => .refl)
  obtain ⟨sent', wire', frames', h3ihx⟩ : ∃ sent wire frames,
      s3.ihx = { s2.ihx with sent := sent, wire := wire, frames := frames } := by
    unfold s3
    split
    · exact send_ihx ..
    · exact ⟨_, _, _, rfl⟩
  have hihx : s3.ihx = { s.ihx.behindSymbol (s.goodBehind n o) delay o (if d = 0 then none else some d) with
      sent := sent'
      wire := wire'
      frames := frames' } := by
    simp only [h3ihx, s2, ihx1, h1ihx, hecho, hticks, Ihx.behindSymbol]
  have hport3 : s3.ihxPort (s3.portTo 0) = s.ihxPort p := by
    rw [hport]
    simp only [State.ihxPort, State.portTo, hihx, Ihx.behindSymbol]
  have hjoined := checkJoined_ihx (s := s3) (by rw [hihx]; exact hrole) (by rw [hport3]; exact htrained)
    (by rw [hport3]; exact hsecured)
  have htb2 : s2.tb = { (s.takeSeason season).tb with advance := s.advanceBehind n } := by
    simp [s2, tb1, d, h1tb, hseason, State.advanceBehind]
  have hframe2 : s2.tb.frame = s.tb.frame := by rw [htb2, hseason]
  have hsent2 : (⟨p, 11, [n.toNat], []⟩ : IhxMsg) ∈ s2.ihx.sent := by
    have := send_mem_sent htrained 11 [n.toNat] []
    rwa [← h1ihx] at this
  have htrained2 : (s2.ihxPort p).trained = true := by
    have : s2.ihx.ports = s.ihx.ports := by simp only [s2, ihx1, h1ihx, hecho]
    simpa only [State.ihxPort, this] using htrained
  have hsent3 : s3.checkJoined.ihx.sent = s3.ihx.sent := by rw [hjoined]
  refine ⟨?_, ?_, ?_, ?_, ?_⟩
  · exact ((State.checkJoined_frame .lines (by decide)).trans (h3 .lines (by decide))).trans h1lines
  · exact ((State.checkJoined_frame .tb (by decide)).trans (h3 .tb (by decide))).trans htb2
  · exact ⟨if d = 0 then none else some d, sent', wire', frames', by simp only [hjoined, hihx, Ihx.behindSymbol, decide_eq_true_eq]⟩
  · rw [hsent3]
    unfold s3
    split
    · exact mem_sent_send hsent2 ..
    · exact hsent2
  · intro hbehind
    rw [hsent3]
    unfold s3
    rw [if_pos (Int.sub_neg_of_lt (Int.ofNat_lt.mpr hbehind) : d < 0), hframe2]
    exact send_mem_sent htrained2 ..

/-! ### Advances, holdover and detachment (15 R473, R475, R476) -/

/-- A counter advance is announced for eight Frames ahead (15 R476). -/
theorem execCounterAdvance_announces {d : Nat} {s : State} (hrun : s.tb.running = true) (hstate : s.ihx.state ≠ 0) (hd : 1 ≤ d)
    (hnone : s.tb.advance = none) (hclear : s.ihx.role ≠ 1 ∨ s.transferOpen = false) :
    execCounterAdvance d s = .next { s with tb := { s.tb with advance := some (s.tb.frameOrd + 8, d) } } := by
  rw [execCounterAdvance, if_pos (by obtain h | h := hclear <;> simp [hrun, hstate, hd, hnone, h])]

/-- A manager holds an advance back while a Transfer is open (15 R476). -/
theorem execCounterAdvance_held {d : Nat} {s : State} (hrole : s.ihx.role = 1) (hopen : s.transferOpen = true) :
    execCounterAdvance d s = .next s := by
  rw [execCounterAdvance, if_neg (by simp [hrole, hopen])]

/-- Eight Frames without a symbol are holdover, with its alarm (15 R475). -/
theorem execAlignmentLoss_holdover {s : State} (hrole : s.ihx.role = 2) (hstate : s.ihx.state ≠ 0) (hnot : s.ihx.holdover = false)
    (hsince : 8 ≤ s.ihx.sinceSymbol) :
    execAlignmentLoss s =
      .next (({ s with ihx := { s.ihx with holdover := true, aligned := false, goodTicks := 0 } } : State).raiseAlarm 0x13 0 0) := by
  rw [execAlignmentLoss, if_pos (by simp [hrole, hstate, hnot, hsince])]

/-- A lost manager is the detached state, with an alarm for each Transfer behind its step 7 (15 R473, R491). -/
theorem execDetached_alarms {s : State} (hrole : s.ihx.role = 2) (hstate : s.ihx.state = 2)
    (hlost : (s.ihxPort (s.portTo 0)).trained = false) :
    execDetached s = .next ((s.ihx.transfers.filter fun t => t.stage == .sent || t.stage == .imported).foldl
      (fun s t => s.raiseAlarm 0x14 0 t.id.toNat) { s with ihx := { s.ihx with state := 3 } }) := by
  rw [execDetached, if_pos (by simp [hrole, hstate, hlost])]

/-- Settles O52: the symbol by what it leaves of the lines, the timebase and the Folio's state; the alarms by the keys they take in
the alarm table. -/
theorem alignment : Obligations.Alignment := by
  refine ⟨fun p delay season n o s hears => ?_, fun s hrole hstate hnot hsince => ?_, fun d s hrun hstate hd hnone => ?_,
    fun s hrole hstate hlost => ?_, fun p n s hrole hstate htrained hsecured => ?_⟩
  · obtain ⟨t, ht, hlines, htb, ⟨measured, sent, wire, frames, hihx⟩, hecho, hbehind⟩ :=
      execAlignmentSymbol_leaves (delay := delay) (season := season) (n := n) (o := o) hears
    have hgood (h : n = s.tb.frame ∧ -100 ≤ o ∧ o ≤ 100) :
        s.goodBehind n o = if s.ihx.holdover then 1 else s.ihx.goodTicks + 1 := if_pos h
    refine ⟨t, ht, by rw [hihx]; rfl, by rw [hihx]; rfl, by rw [hihx]; rfl, by rw [hihx]; rfl, fun hbad => ?_, fun hg hhold => ?_,
      fun hg hhold => ?_, hecho, fun hahead hnone => ?_, hbehind, ?_, ?_, steered_bounds hlines, execAlignmentSymbol_frame ht⟩
    · have : s.goodBehind n o = 0 := if_neg hbad
      simp [hihx, Ihx.behindSymbol, this]
    · rw [hgood hg, hhold] at hihx
      simp [hihx, Ihx.behindSymbol]
    · rw [hgood hg, hhold] at hihx
      simp [hihx, Ihx.behindSymbol]
    · simp [htb, State.advanceBehind, hahead, hnone]
    · simp [hihx, Ihx.behindSymbol]
    · rw [htb]
      exact takeSeason_season s season
  · refine ⟨_, execAlignmentLoss_holdover hrole hstate hnot hsince, State.raiseAlarm_ihx .., raiseAlarm_listed .., ?_⟩
    exact execAlignmentLoss_frame (execAlignmentLoss_holdover hrole hstate hnot hsince)
  · exact ⟨execCounterAdvance_announces hrun hstate hd hnone, execCounterAdvance_held⟩
  · refine ⟨_, execDetached_alarms hrole hstate hlost, ?_, fun u hu hstage => ?_,
      execDetached_frame (execDetached_alarms hrole hstate hlost)⟩
    · exact Frame.foldl (L := [.evt, .cnt, .host]) .refl (fun u t hu => Frame.comp State.raiseAlarm_frame (by decide) hu) .ihx (by decide)
    · refine raiseAlarms_listed 0x14 0 _ (List.ne_nil_of_mem (a := u) (List.mem_filter.mpr ⟨hu, ?_⟩)) _
      simpa using hstage
  · exact congrArg _ (if_pos (by simp [hrole, hstate, htrained, hsecured]))

end Sys2Proof.Machine
end

section
/-! ### What a stroke's operations write (04 R119, R129) -/

namespace Sys2Proof.Machine

open Sys2Proof

/-! ### Tables -/

theorem tabGet_eq_none {α : Type} {t : Tab α} {k : Nat} (h : tabGet t k = none) : ∀ q ∈ t, q.1 ≠ k := by
  induction t with
  | nil => simp
  | cons p t ih =>
    unfold tabGet at h
    split at h
    · cases h
    · next hne =>
      rintro q (_ | ⟨_, hq⟩)
      · exact Ne.symm hne
      · exact ih h q hq

/-- Every entry but that of the key stays. -/
theorem mem_tabSet_of_mem {α : Type} {t : Tab α} {k : Nat} (v : α) {q : Nat × α} (hq : q ∈ t) (hk : q.1 ≠ k) : q ∈ tabSet t k v := by
  induction t with
  | nil => cases hq
  | cons p t ih =>
    unfold tabSet
    split
    · exact List.mem_cons_of_mem _ hq
    · split
      · next heq => exact (List.mem_cons.mp hq).elim (fun he => absurd (he ▸ heq.symm) hk) (List.mem_cons_of_mem _)
      · exact (List.mem_cons.mp hq).elim (fun he => he ▸ List.mem_cons_self ..) fun hq => List.mem_cons_of_mem _ (ih hq)

theorem eq_or_mem_of_mem_tabSet {α : Type} {t : Tab α} {k : Nat} {v : α} {q : Nat × α} (hq : q ∈ tabSet t k v) : q = (k, v) ∨ q ∈ t := by
  induction t with
  | nil => simpa [tabSet] using hq
  | cons p t ih =>
    unfold tabSet at hq
    split at hq
    · exact List.mem_cons.mp hq
    · split at hq
      · exact (List.mem_cons.mp hq).imp_right (List.mem_cons_of_mem _)
      · exact (List.mem_cons.mp hq).elim (fun he => .inr (he ▸ List.mem_cons_self ..)) fun hq => (ih hq).imp_right (List.mem_cons_of_mem _)

/-- The later of two values set at a key stands. -/
theorem tabSet_tabSet {α : Type} (t : Tab α) (k : Nat) (v w : α) : tabSet (tabSet t k v) k w = tabSet t k w := by
  induction t with
  | nil => simp [tabSet]
  | cons p t ih =>
    by_cases hlt : k < p.1
    · simp [tabSet, hlt]
    · by_cases heq : k = p.1
      · simp [tabSet, heq]
      · simp [tabSet, hlt, heq, ih]

theorem tabGet_tabMap {α : Type} (t : Tab α) (f : Nat → α → α) (k : Nat) : tabGet (tabMap t f) k = (tabGet t k).map (f k) := by
  induction t with
  | nil => rfl
  | cons p t ih =>
    by_cases h : k = p.1
    · simp [tabMap, tabGet, h]
    · have ih' : tabGet (t.map fun p => (p.1, f p.1 p.2)) k = _ := ih
      simp [tabMap, tabGet, h, ih']

theorem freeKey_free {α : Type} {t : Tab α} {fuel start p : Nat} (h : freeKey t fuel start = some p) : tabGet t p = none := by
  induction fuel generalizing start with
  | zero => cases h
  | succ n ih =>
    unfold freeKey at h
    split at h
    · next hn => exact Option.some.inj h ▸ Option.isNone_iff_eq_none.mp hn
    · exact ih h

/-! ### A core's accumulator file -/

theorem Core.slotOf_spec {x : Core} {job k p : Nat} (h : x.slotOf job k = some p) : p < 64 ∧ (p, job, k) ∈ x.slots := by
  obtain ⟨⟨a, b⟩, hq, rfl⟩ := Option.map_eq_some_iff.mp h
  have hp := List.find?_some hq
  simp only [Bool.and_eq_true, decide_eq_true_eq, beq_iff_eq] at hp
  exact ⟨hp.1, hp.2 ▸ List.mem_of_find?_eq_some hq⟩

theorem Hatch.core_tabSet (h : Hatch) (c : Nat) (x : Core) (d : Nat) :
    ({ h with cores := tabSet h.cores c x } : Hatch).core d = if d = c then x else h.core d := by
  by_cases hd : d = c
  · subst hd
    simp [Hatch.core, tabGet_tabSet_same]
  · simp [Hatch.core, tabGet_tabSet_other _ _ hd, hd]

/-- Other jobs have a slot, and the job has not. -/
def Core.others (x : Core) (job p : Nat) : Prop := (∃ q ∈ x.slots, q.1 = p) ∧ ∀ q ∈ x.slots, q.1 = p → q.2.1 ≠ job

/-- What a job's work cannot reach: a slot that other jobs have, or any slot of a core that is not among those it writes. -/
def Hatch.shut (h : Hatch) (job : Nat) (reach : List Nat) (c p : Nat) : Prop := (h.core c).others job p ∨ c ∉ reach

theorem Core.others_congr {x y : Core} {job p : Nat} (hs : y.slots = x.slots) (h : x.others job p) : y.others job p := by
  rw [Core.others, hs]
  exact h

/-- Taking a free slot leaves those of the other jobs to them. -/
theorem Core.others_tabSet {x : Core} {job p r k : Nat} (h : x.others job p) (hr : tabGet x.slots r = none) :
    ({ x with slots := tabSet x.slots r (job, k) } : Core).others job p := by
  obtain ⟨⟨q, hq, hp⟩, hall⟩ := h
  have hpr : p ≠ r := hp ▸ tabGet_eq_none hr q hq
  refine ⟨⟨q, mem_tabSet_of_mem _ hq (hp ▸ hpr), hp⟩, fun q hq hqp => ?_⟩
  obtain rfl | hq := eq_or_mem_of_mem_tabSet hq
  · exact absurd hqp (Ne.symm hpr)
  · exact hall q hq hqp

theorem Hatch.takeSlot_acc (h : Hatch) (core job k : Nat) : (h.takeSlot core job k).acc = h.acc := by
  unfold Hatch.takeSlot
  extract_lets x
  split
  · rfl
  · split <;> rfl

theorem Hatch.takeSlot_shut {h : Hatch} {job : Nat} {reach : List Nat} {c p : Nat} (hs : h.shut job reach c p) (core k : Nat) :
    (h.takeSlot core job k).shut job reach c p := by
  unfold Hatch.takeSlot
  extract_lets x
  split
  · exact hs
  · split
    · next r hr =>
      refine hs.imp_left fun ho => ?_
      rw [Hatch.core_tabSet]
      split
      · next hc => exact Core.others_tabSet (show (h.core core).others job p from hc ▸ ho) (freeKey_free hr)
      · exact ho
    · exact hs

/-- A byte of a slot that is shut to a job, and still is. -/
def Hatch.holds (h : Hatch) (job : Nat) (reach : List Nat) (c p i : Nat) (b : Byte) : Prop :=
  h.shut job reach c p ∧ memRead h.acc (accAt c (256 * p) + i) = b

/-- A job's stores into accumulators leave what is shut to it. -/
theorem Hatch.accStore_holds {core job c p i : Nat} {reach : List Nat} {x : Byte} (hcore : core ∈ reach) (hp : p < 64) (hi : i < 1024)
    (bs : List Byte) {h : Hatch} (off : Nat) (hs : h.holds job reach c p i x) : (h.accStore core job off bs).holds job reach c p i x := by
  induction bs generalizing h off with
  | nil => exact hs
  | cons b bs ih =>
    unfold Hatch.accStore
    extract_lets h1 h2
    have h1s : h1.shut job reach c p := Hatch.takeSlot_shut hs.1 core _
    have h1a : h1.acc = h.acc := Hatch.takeSlot_acc ..
    refine ih (off + 1) ?_
    unfold h2
    split
    · next q hq =>
      obtain ⟨hq64, hmem⟩ := Core.slotOf_spec hq
      refine ⟨h1s, ?_⟩
      have hne : core ≠ c ∨ q ≠ p := by
        obtain ⟨-, ho⟩ | hout := h1s
        · exact Classical.or_iff_not_imp_left.mpr fun hc hqp => ho _ (not_not.mp hc ▸ hmem) hqp rfl
        · exact .inl fun hc => hout (hc ▸ hcore)
      have hoff : off % 1024 < 1024 := Nat.mod_lt _ (by decide)
      rw [memRead_memWrite_other _ _ (by unfold accAt; omega), h1a]
      exact hs.2
    · exact ⟨h1s, h1a ▸ hs.2⟩

/-- From `h` to `h'` only Plate, accumulators and the slots of the accumulator files change. -/
def Hatch.Stored (h h' : Hatch) : Prop :=
  h' = { h with cores := h'.cores, plate := h'.plate, acc := h'.acc } ∧ ∀ c, h'.core c = { h.core c with slots := (h'.core c).slots }

theorem Hatch.Stored.refl (h : Hatch) : h.Stored h := ⟨rfl, fun _ => rfl⟩

theorem Hatch.Stored.trans {h h' h'' : Hatch} (a : h.Stored h') (b : h'.Stored h'') : h.Stored h'' := by
  refine ⟨?_, fun c => ?_⟩
  · rw [b.1, a.1]
  · rw [b.2 c, a.2 c]

theorem Hatch.takeSlot_stored (h : Hatch) (core job k : Nat) : h.Stored (h.takeSlot core job k) ∧ (h.takeSlot core job k).plate = h.plate := by
  unfold Hatch.takeSlot
  extract_lets x
  split
  · exact ⟨.refl h, rfl⟩
  · split
    · refine ⟨⟨rfl, fun c => ?_⟩, rfl⟩
      rw [Hatch.core_tabSet]
      split
      · next hc => rw [hc]
      · rfl
    · exact ⟨.refl h, rfl⟩

theorem Hatch.accStore_stored (core job : Nat) (bs : List Byte) (h : Hatch) (off : Nat) :
    h.Stored (h.accStore core job off bs) ∧ (h.accStore core job off bs).plate = h.plate := by
  induction bs generalizing h off with
  | nil => exact ⟨.refl h, rfl⟩
  | cons b bs ih =>
    unfold Hatch.accStore
    extract_lets h1 h2
    obtain ⟨h1s, h1p⟩ : h.Stored h1 ∧ h1.plate = h.plate := Hatch.takeSlot_stored ..
    obtain ⟨h2s, h2p⟩ : h1.Stored h2 ∧ h2.plate = h1.plate := by
      unfold h2
      split
      · exact ⟨⟨rfl, fun _ => rfl⟩, rfl⟩
      · exact ⟨.refl h1, rfl⟩
    obtain ⟨h3s, h3p⟩ := ih h2 (off + 1)
    exact ⟨(h1s.trans h2s).trans h3s, (h3p.trans h2p).trans h1p⟩

/-! ### Stores in Plate -/

theorem storeAt_stored (core job : Nat) (h : Hatch) (w : Loc × List Byte) : h.Stored (storeAt core job h w) := by
  unfold storeAt
  split
  · exact ⟨rfl, fun _ => rfl⟩
  · exact (Hatch.accStore_stored ..).1

theorem storeAt_holds {core job c p i : Nat} {reach : List Nat} {x : Byte} (hcore : core ∈ reach) (hp : p < 64) (hi : i < 1024) {h : Hatch}
    (hs : h.holds job reach c p i x) (w : Loc × List Byte) : (storeAt core job h w).holds job reach c p i x := by
  unfold storeAt
  split
  · exact hs
  · exact Hatch.accStore_holds hcore hp hi _ _ hs

/-- A store changes no byte of Plate outside its own range. -/
theorem storeAt_plate_out {core job a : Nat} (h : Hatch) {w : Loc × List Byte}
    (ha : w.1.window < 8 → a < plateAt core job w.1.window w.1.off ∨ plateAt core job w.1.window w.1.off + w.2.length ≤ a) :
    memRead (storeAt core job h w).plate a = memRead h.plate a := by
  unfold storeAt
  split
  · next hw => exact memRead_memStore_out _ _ (ha hw)
  · rw [(Hatch.accStore_stored ..).2]

/-! ### The effect of an operation -/

theorem View.of_core (v : View) (op : StrokeOp) : (v.of op).core = v.core := by
  unfold View.of
  split <;> rfl

theorem View.of_j (v : View) (op : StrokeOp) : (v.of op).j = v.j := by
  unfold View.of
  split <;> rfl

theorem wash_acc (v : View) (n rows acc : Nat) (p : WashProg) (at_ : Coord) (dst : Loc) : (wash v n rows acc p at_ dst).acc = [] := by
  unfold wash
  split
  · rfl
  · exact (apply_ite Effect.acc _ _ _).trans (ite_self _)

theorem vecEffect_acc (v : View) (op : VecOp) (fmt n : Nat) (a b c dst : Loc) : (vecEffect v op fmt n a b c dst).acc = [] := by
  unfold vecEffect
  simp only [apply_ite Effect.acc, plateEffect, wordsEffect, Effect.none, ite_self]

theorem scanEffect_acc (v : View) (row layer chan : Nat) (span : Sys2Proof.Span) (a b : Loc) (stride : Nat) (dst : Loc) (outStride : Nat) :
    (scanEffect v row layer chan span a b stride dst outStride).acc = [] := by
  unfold scanEffect
  split
  · exact (apply_ite Effect.acc _ _ _).trans (ite_self _)
  · rfl

theorem heldEffect_acc (v : View) (row layer step : Nat) (src vals dst : Loc) : (heldEffect v row layer step src vals dst).acc = [] := by
  unfold heldEffect
  split
  · simp only [apply_ite Effect.acc, plateEffect, Effect.none, ite_self]
  · rfl

theorem advanceEffect_acc (v : View) (row layer : Nat) (src vals : Loc) : (advanceEffect v row layer src vals).acc = [] := by
  unfold advanceEffect
  split
  · exact (apply_ite Effect.acc _ _ _).trans (ite_self _)
  · rfl

theorem upsampleEffect_acc (v : View) (row layer stride : Nat) (src dst : Loc) : (upsampleEffect v row layer stride src dst).acc = [] := by
  unfold upsampleEffect
  split
  · exact (apply_ite Effect.acc _ _ _).trans (ite_self _)
  · rfl

theorem overrideEffect_acc (v : View) (row layer step k : Nat) (dst : Loc) : (overrideEffect v row layer step k dst).acc = [] := by
  unfold overrideEffect
  split
  · extract_lets t
    split <;> rfl
  · rfl

theorem dropEffect_acc (v : View) (fmt n : Nat) (a dst : Loc) (keep gain : Half) (at_ : Coord) :
    (dropEffect v fmt n a dst keep gain at_).acc = [] :=
  (apply_ite Effect.acc _ _ _).trans (ite_self _)

theorem drawEffect_acc (v : View) (f : Draw → Word) (n : Nat) (dst : Loc) (data : DrawData) (at_ : Coord) :
    (drawEffect v f n dst data at_).acc = [] :=
  (apply_ite Effect.acc _ _ _).trans (ite_self _)

/-- The accumulators that an operation writes by their number are its core's, or those of the core that a root goes to, which is the job's. -/
theorem opEffectAt_acc (v : View) (op : StrokeOp) : ∀ a ∈ (opEffectAt v op).acc, a.1 = v.core ∨ a.1 ∈ v.j.cores := by
  cases op with
  | tile =>
    simp only [opEffectAt]
    split
    · simp
    · simp [Effect.none]
  | sendRoot =>
    simp only [opEffectAt]
    split
    · next c hc => simpa using .inr (List.mem_of_getElem? hc)
    · simp [Effect.none]
  | combine => simp [opEffectAt]
  | wash => simp [opEffectAt, wash_acc]
  | vec => simp [opEffectAt, vecEffect_acc]
  | act => simp [opEffectAt, wordsEffect, plateEffect, Effect.none]
  | sum =>
    simp only [opEffectAt]
    split <;> simp [wordsEffect, plateEffect, Effect.none]
  | gather => simp [opEffectAt, plateEffect, Effect.none]
  | scatter => simp [opEffectAt, Effect.none]
  | convert => simp [opEffectAt, plateEffect, Effect.none]
  | scan => simp [opEffectAt, scanEffect_acc]
  | held => simp [opEffectAt, heldEffect_acc]
  | advance => simp [opEffectAt, advanceEffect_acc]
  | upsample => simp [opEffectAt, upsampleEffect_acc]
  | override => simp [opEffectAt, overrideEffect_acc]
  | dropout => simp [opEffectAt, dropEffect_acc]
  | draws => simp [opEffectAt, drawEffect_acc]
  | normal => simp [opEffectAt, drawEffect_acc]
  | condReady => simp [opEffectAt, Effect.none]

theorem opEffect_acc (v : View) (op : StrokeOp) : ∀ a ∈ (opEffect v op).acc, a.1 ∈ v.core :: v.j.cores := fun a ha =>
  List.mem_cons.mpr (v.of_core op ▸ v.of_j op ▸ opEffectAt_acc (v.of op) op a ha)

/-- A range of Plate that an operation may write lies in a writable window of its job on its core (04 R129). -/
theorem View.allows_write {v : View} {l : Loc} {n : Nat} (h : v.allows (l, n, true) = true) (hl : l.window < 8) :
    n = 0 ∨ ∃ w, v.j.window v.core l.window = some w ∧ w.writable = true ∧ l.off + n ≤ w.limit - w.base := by
  simp only [View.allows, hl, if_true, Bool.or_eq_true, decide_eq_true_eq, Option.any_eq_true, Bool.and_eq_true] at h
  exact h.imp_right fun ⟨w, hw, hstop, hwr⟩ => ⟨w, hw, by simpa using hwr, hstop⟩

theorem View.fits_writes {v : View} {op : StrokeOp} {e : Effect} (h : v.fits op e = true) :
    ∀ w ∈ e.plate, v.allows (w.1, w.2.length, true) = true := by
  simp only [View.fits, Bool.and_eq_true, List.all_eq_true] at h
  exact h.1.1.2

/-! ### What an effect stores -/

/-- What an effect leaves of Plate and accumulators. -/
def Effect.store (e : Effect) (core job : Nat) (h : Hatch) : Hatch :=
  e.acc.foldl (fun h a => h.accStore a.1 job (4 * a.2.1) (leBytes 4 a.2.2.toNat)) (e.plate.foldl (storeAt core job) h)

theorem Effect.store_stored (e : Effect) (core job : Nat) (h : Hatch) : h.Stored (e.store core job h) :=
  List.foldlRecOn (motive := h.Stored) _ _
    (List.foldlRecOn (motive := h.Stored) _ _ (.refl h) fun _ hb w _ => hb.trans (storeAt_stored core job _ w))
    fun _ hb _ _ => hb.trans (Hatch.accStore_stored ..).1

theorem Effect.store_holds {e : Effect} {core job c p i : Nat} {reach : List Nat} {x : Byte} (hcore : core ∈ reach)
    (hacc : ∀ a ∈ e.acc, a.1 ∈ reach) (hp : p < 64) (hi : i < 1024) {h : Hatch} (hs : h.holds job reach c p i x) :
    (e.store core job h).holds job reach c p i x :=
  List.foldlRecOn (motive := fun h : Hatch => h.holds job reach c p i x) _ _
    (List.foldlRecOn (motive := fun h : Hatch => h.holds job reach c p i x) _ _ hs fun _ hb w _ => storeAt_holds hcore hp hi hb w)
    fun _ hb a ha => Hatch.accStore_holds (hacc a ha) hp hi _ _ hb

theorem Effect.store_plate_out {e : Effect} {core job a : Nat} (h : Hatch)
    (ha : ∀ w ∈ e.plate, w.1.window < 8 →
      a < plateAt core job w.1.window w.1.off ∨ plateAt core job w.1.window w.1.off + w.2.length ≤ a) :
    memRead (e.store core job h).plate a = memRead h.plate a :=
  List.foldlRecOn (motive := fun g : Hatch => memRead g.plate a = memRead h.plate a) _ _
    (List.foldlRecOn (motive := fun g : Hatch => memRead g.plate a = memRead h.plate a) _ _ rfl
      fun g hb w hw => (storeAt_plate_out g (ha w hw)).trans hb)
    fun _ hb _ _ => (congrArg (memRead · a) (Hatch.accStore_stored ..).2).trans hb

/-- An effect reaches Hatch by its stores, and by its core's range flag. -/
theorem applyEffect_hatch (s : State) (j : Job) (core now : Nat) (e : Effect) :
    (s.applyEffect j core now e).hatch =
      let h := e.store core j.id s.hatch
      if e.flag then { h with cores := tabSet h.cores core { h.core core with rangeFlag := true } } else h := by
  unfold State.applyEffect
  extract_lets h1 h2 s1 s2 first s3 x h
  have h3 : s3.hatch = h :=
    Frame.foldl (L := [.streams]) (Frame.foldl (L := [.streams]) (s := s1) .refl fun _ _ hf => Frame.comp State.modRow_frame (by decide) hf)
      (fun _ _ hf => Frame.comp State.modRow_frame (by decide) hf) .hatch (by decide)
  have hx : x = h.core core := by rw [← h3]; rfl
  split
  · show ({ s3.hatch with cores := tabSet s3.hatch.cores core { x with rangeFlag := true } } : Hatch) = _
    rw [hx, h3]
  · exact h3

/-- From `s` to `t` a stroke of a core has worked: of Hatch only Plate, the accumulators and their slots change, and its range flag. -/
def State.Worked (core : Nat) (s t : State) : Prop :=
  t.hatch = { s.hatch with cores := t.hatch.cores, plate := t.hatch.plate, acc := t.hatch.acc } ∧
  (∀ c, c ≠ core → t.core c = { s.core c with slots := (t.core c).slots }) ∧
  t.core core = { s.core core with slots := (t.core core).slots, rangeFlag := (t.core core).rangeFlag }

theorem State.Worked.refl (core : Nat) (s : State) : s.Worked core s := ⟨rfl, fun _ _ => rfl, rfl⟩

theorem State.Worked.trans {core : Nat} {s t u : State} (a : State.Worked core s t) (b : State.Worked core t u) : State.Worked core s u := by
  obtain ⟨a1, a2, a3⟩ := a
  obtain ⟨b1, b2, b3⟩ := b
  refine ⟨?_, fun c hc => ?_, ?_⟩
  · rw [b1, a1]
  · rw [b2 c hc, a2 c hc]
  · rw [b3, a3]

theorem State.applyEffect_worked (s : State) (j : Job) (core now : Nat) (e : Effect) : s.Worked core (s.applyEffect j core now e) := by
  have hs := Effect.store_stored e core j.id s.hatch
  have hh := applyEffect_hatch s j core now e
  have hcore (c : Nat) : (s.applyEffect j core now e).core c = (s.applyEffect j core now e).hatch.core c := rfl
  dsimp only at hh
  split at hh
  · refine ⟨by rw [hh, hs.1], fun c hc => ?_, ?_⟩
    · rw [hcore, hh, Hatch.core_tabSet, if_neg hc]
      exact hs.2 c
    · rw [hcore, hh, Hatch.core_tabSet, if_pos rfl, hs.2 core]
      rfl
  · refine ⟨by rw [hh, hs.1], fun c _ => ?_, ?_⟩
    · rw [hcore, hh]
      exact hs.2 c
    · rw [hcore, hh, hs.2 core]
      rfl

theorem State.applyEffect_plate (s : State) (j : Job) (core now : Nat) (e : Effect) :
    (s.applyEffect j core now e).hatch.plate = (e.store core j.id s.hatch).plate := by
  rw [applyEffect_hatch]
  exact (apply_ite Hatch.plate _ _ _).trans (ite_self _)

theorem State.applyEffect_holds {s : State} {j : Job} {core now c p i : Nat} {e : Effect} {reach : List Nat} {x : Byte}
    (hcore : core ∈ reach) (hacc : ∀ a ∈ e.acc, a.1 ∈ reach) (hp : p < 64) (hi : i < 1024) (hs : s.hatch.holds j.id reach c p i x) :
    (s.applyEffect j core now e).hatch.holds j.id reach c p i x := by
  have hst := Effect.store_holds hcore hacc hp hi hs
  rw [applyEffect_hatch]
  dsimp only
  split
  · refine ⟨hst.1.imp_left fun ho => ?_, hst.2⟩
    rw [Hatch.core_tabSet]
    split
    · next hc =>
      subst hc
      exact Core.others_congr rfl ho
    · exact ho
  · exact hst

/-! ### A stroke's work (04 R119, R129) -/

theorem runOps_worked (j : Job) (core now : Nat) (work : List StrokeOp) (s : State) : s.Worked core (runOps j core now work s).1 := by
  induction work generalizing s with
  | nil => exact .refl core s
  | cons op rest ih =>
    unfold runOps
    extract_lets v e
    split
    · exact (State.applyEffect_worked s j core now e).trans (ih _)
    · exact .refl core s

/-- A byte of Plate that is in no writable window of the job on its core stays as it is. -/
theorem runOps_plate {j : Job} {core now a : Nat}
    (ha : ∀ (k : Nat) (w : PlateWindow), k < 8 → j.window core k = some w → w.writable = true →
      ¬(plateAt core j.id k 0 ≤ a ∧ a < plateAt core j.id k (w.limit - w.base))) (work : List StrokeOp) (s : State) :
    memRead (runOps j core now work s).1.hatch.plate a = memRead s.hatch.plate a := by
  induction work generalizing s with
  | nil => rfl
  | cons op rest ih =>
    unfold runOps
    extract_lets v e
    split
    · next hfits =>
      rw [ih, State.applyEffect_plate]
      refine Effect.store_plate_out _ fun w hw hk => ?_
      obtain hn | ⟨x, hx, hwr, hstop⟩ := View.allows_write (View.fits_writes hfits w hw) hk
      · rw [hn]
        omega
      · have hout := ha _ x hk hx hwr
        unfold plateAt at hout ⊢
        omega
    · rfl

/-- A byte of a slot that is shut to the job stays as it is. -/
theorem runOps_holds {j : Job} {core now c p i : Nat} {x : Byte} (hp : p < 64) (hi : i < 1024) (work : List StrokeOp) {s : State}
    (hs : s.hatch.holds j.id (core :: j.cores) c p i x) : (runOps j core now work s).1.hatch.holds j.id (core :: j.cores) c p i x := by
  induction work generalizing s with
  | nil => exact hs
  | cons op rest ih =>
    unfold runOps
    extract_lets v e
    split
    · exact ih (State.applyEffect_holds (List.mem_cons_self ..) (opEffect_acc v op) hp hi hs)
    · exact hs

/-- Settles O32: each operation writes Plate in the windows that its check allows, and accumulators in slots that its job has or takes. -/
theorem strokesStayInTheirWindows : Obligations.StrokesStayInTheirWindows := by
  intro core now j work s _
  refine ⟨fun a ha => runOps_plate ha work s, fun c p i hp hi hshut => (runOps_holds hp hi work ⟨?_, rfl⟩).2⟩
  exact hshut.imp_right fun ⟨hc, hn⟩ => by simp [hc, hn]

end Sys2Proof.Machine
end

section
/-! ### What the end of a job leaves (01 R36, R38; 11 R357) -/

namespace Sys2Proof.Machine

open Sys2Proof

/-- From `s` to `t` no job context appears. -/
def State.NoNewJob (s t : State) : Prop := ∀ id, s.job id = none → t.job id = none

/-- A voice model is there, and damaged. -/
def State.HasDamaged (s : State) (h : Nat) : Prop := ∃ m, s.model h = some m ∧ m.damaged = true

/-- From `s` to `t` no job context appears, no core becomes faulted or is mended, and no damaged voice model goes or is mended. -/
structure State.Sheds (s t : State) : Prop where
  job     : s.NoNewJob t
  faulted : ∀ c, (t.core c).faulted = (s.core c).faulted
  damaged : ∀ h, s.HasDamaged h → t.HasDamaged h

theorem State.Sheds.refl (s : State) : s.Sheds s := ⟨fun _ h => h, fun _ => rfl, fun _ h => h⟩

theorem State.Sheds.trans {s t u : State} (a : s.Sheds t) (b : t.Sheds u) : s.Sheds u :=
  ⟨fun id h => b.job id (a.job id h), fun c => (b.faulted c).trans (a.faulted c), fun h hd => b.damaged h (a.damaged h hd)⟩

/-- What a frame leaves alone needs no more; the rest is given. -/
theorem State.Sheds.of_frame {L : List Block} {s t : State} (h : Frame L s t) (hjob : .jobs ∉ L ∨ s.NoNewJob t)
    (hcore : .hatch ∉ L ∨ ∀ c, (t.core c).faulted = (s.core c).faulted)
    (hmodel : .models ∉ L ∨ ∀ h, s.HasDamaged h → t.HasDamaged h) : s.Sheds t where
  job := hjob.elim (fun hn id => by simp only [State.job, show t.jobs = s.jobs from h .jobs hn, imp_self]) fun h => h
  faulted := hcore.elim (fun hn c => by simp only [State.core, show t.hatch = s.hatch from h .hatch hn]) fun h => h
  damaged := hmodel.elim
    (fun hn k => by simp only [State.HasDamaged, State.model, show t.models = s.models from h .models hn, imp_self]) fun h => h

/-- A frame without jobs, Hatch and voice models. -/
theorem Frame.sheds {L : List Block} {s t : State} (h : Frame L s t)
    (hL : decide (.jobs ∉ L ∧ .hatch ∉ L ∧ .models ∉ L) = true) : s.Sheds t :=
  have ⟨hjob, hcore, hmodel⟩ := of_decide_eq_true hL
  .of_frame h (.inl hjob) (.inl hcore) (.inl hmodel)

theorem State.Sheds.foldl {α : Type} {f : State → α → State} (hf : ∀ (s : State) (a : α), s.Sheds (f s a)) (l : List α) (s : State) :
    s.Sheds (l.foldl f s) :=
  List.foldlRecOn (motive := s.Sheds) l f (.refl s) fun _ hb a _ => hb.trans (hf _ a)

theorem State.Sheds.ite {s a b : State} {p : Prop} [Decidable p] (ha : s.Sheds a) (hb : s.Sheds b) : s.Sheds (if p then a else b) := by
  split
  · exact ha
  · exact hb

/-! ### Jobs -/

/-- A record takes the place of a job context that is there. -/
theorem State.setJob_sheds {s : State} {x j : Job} (h : s.job x.id = some j) : s.Sheds (s.setJob x) := by
  refine .of_frame State.setJob_frame (.inr fun id hid => ?_) (.inl (by decide)) (.inl (by decide))
  have hne : id ≠ x.id := fun he => by rw [he, h] at hid; cases hid
  rw [State.job_setJob_other _ _ hne, hid]

theorem State.charge_sheds (s : State) (sess : Nat) (job : Option Nat) (d : Account) : s.Sheds (s.charge sess job d) := by
  unfold State.charge
  extract_lets s1
  have h1 : s.Sheds s1 := by
    unfold s1
    split
    · next j hj =>
      obtain ⟨id, -, hid⟩ := Option.bind_eq_some_iff.mp hj
      exact State.setJob_sheds (j := j) (show s.job j.id = some j by rw [State.job_id s hid, hid])
    · exact .refl s
  split
  · exact h1.trans ((Frame.comp (L := [.sessions, .tallies]) State.tally_frame (by decide)
      (State.setSession_frame.mono (by decide))).sheds rfl)
  · exact h1

theorem finishPull_sheds (ring : Nat) (d : Desc) (x : Stream) (status aflags : Nat) (s : State) :
    s.Sheds (finishPull ring d x status aflags s) := by
  unfold finishPull
  extract_lets first samples marked aad sealed port s1 a s2 s3
  have h1 : s.Sheds s1 := State.ringWrite_frame.sheds rfl
  have h2 : s.Sheds s2 := h1.trans (State.charge_sheds ..)
  have h3 : s2.Sheds s3 := by
    unfold s3
    split
    · exact State.setStream_frame.sheds rfl
    · exact .refl s2
  exact (h2.trans h3).trans (State.complete_frame.sheds rfl)

theorem faultDesc_sheds (x : Stream) (s : State) (d : Desc) : s.Sheds (faultDesc x s d) := by
  unfold faultDesc
  split
  · exact finishPull_sheds ..
  · exact State.complete_frame.sheds rfl
  · exact State.complete_frame.sheds rfl
  · split
    · exact failTransfer_frame.sheds rfl
    · exact State.complete_frame.sheds rfl
  · exact State.complete_frame.sheds rfl

theorem State.endFaulted_sheds (s : State) (id : Nat) : s.Sheds (s.endFaulted id) := by
  unfold State.endFaulted
  split
  · refine .ite ?_ (.refl s)
    exact ((State.Sheds.foldl (faultDesc_sheds _) _ s).trans (State.freeSlot_frame.sheds rfl)).trans (State.eraseStream_frame.sheds rfl)
  · exact .refl s

theorem State.faultStream_sheds (s : State) (x : Stream) : s.Sheds (s.faultStream x) := by
  unfold State.faultStream
  extract_lets s1 ds s2 y
  have h1 : s.Sheds s1 := by
    unfold s1
    split
    · exact failTransfer_frame.sheds rfl
    · exact .refl s
  have h2 : s1.Sheds s2 := (State.Sheds.foldl (faultDesc_sheds x) ds s1).trans (State.freeUnit_frame.sheds rfl)
  exact ((h1.trans h2).trans (State.setStream_frame.sheds rfl)).trans (State.endFaulted_sheds ..)

theorem faultRow_sheds (s : State) (x : Stream) : s.Sheds (faultRow s x) := by
  unfold faultRow
  refine .ite ?_ (State.faultStream_sheds s x)
  split
  · exact (failTransfer_frame.sheds rfl).trans (State.awaitRestart_frame.sheds rfl)
  · exact State.awaitRestart_frame.sheds rfl

theorem State.requestFrost_sheds (s : State) (id : Nat) : s.Sheds (s.requestFrost id) := by
  unfold State.requestFrost
  split
  · next j hj =>
    have hset (x : Job) (hx : x.id = j.id) : s.Sheds (s.setJob x) :=
      State.setJob_sheds (j := j) (by rw [hx, State.job_id s hj, hj])
    exact .ite (.ite (hset _ rfl) (hset _ rfl)) (.ite (hset _ rfl) (.refl s))
  · exact .refl s

theorem State.nextFrost_sheds (s : State) : s.Sheds s.nextFrost := by
  unfold State.nextFrost
  split
  · exact State.requestFrost_sheds ..
  · exact .refl s

theorem writeJobRecord_sheds (kind : Nat) (faulted : Bool) (j : Job) (s : State) : s.Sheds (writeJobRecord kind faulted j s) := by
  unfold writeJobRecord
  extract_lets rc s1
  have h1 : s.Sheds s1 := writeAcct_frame.sheds rfl
  split
  · next k hk => exact h1.trans (State.setJob_sheds (j := k) (show s1.job k.id = some k by rw [State.job_id s1 hk, hk]))
  · exact h1

/-! ### Cores -/

/-- A core's record changes, and its fault mark does not. -/
theorem State.setCore_sheds {s : State} {c : Nat} {x : Core} (h : x.faulted = (s.core c).faulted) : s.Sheds (s.setCore c x) := by
  refine .of_frame State.setCore_frame (.inl (by decide)) (.inr fun k => ?_) (.inl (by decide))
  by_cases hk : k = c
  · rw [hk, State.core_setCore, h]
  · rw [State.core_setCore_other _ _ hk]

theorem State.releaseCores_sheds (s : State) (j : Job) (cores : List Nat) : s.Sheds (s.releaseCores j cores) := by
  refine State.Sheds.foldl (fun s c => ?_) cores s
  extract_lets x s1
  have h1 : s.Sheds s1 := State.setCore_sheds rfl
  exact ⟨h1.job, h1.faulted, h1.damaged⟩

theorem State.zeroSet_sheds (s : State) (m : Model) : s.Sheds (s.zeroSet m) := ⟨fun _ h => h, fun _ => rfl, fun _ h => h⟩

theorem State.dropPlace_sheds (s : State) (id : Nat) : s.Sheds (s.dropPlace id) := by
  unfold State.dropPlace
  split
  · refine .ite (.refl s) ?_
    extract_lets other s1 s2
    have h1 : s.Sheds s1 := .foldl (fun _ _ => State.dropCtx_frame.sheds rfl) _ s
    have h2 : s1.Sheds s2 := State.releaseCores_sheds ..
    have h := h1.trans h2
    exact ⟨h.job, h.faulted, h.damaged⟩
  · exact .refl s

/-! ### The end of a job -/

theorem coldModel_handle (job : Nat) (m : Model) : (coldModel job m).handle = m.handle := by
  unfold coldModel
  split <;> rfl

theorem coldModel_damaged (job : Nat) (m : Model) : (coldModel job m).damaged = m.damaged := by
  unfold coldModel
  split <;> rfl

/-- A record that keeps its key reads as it was changed. -/
theorem tabGet_tabMap_filter {α : Type} (t : Tab α) {f : Nat → α → α} {k : Nat} {p : α → Bool} (hp : ∀ x, p (f k x) = p x) :
    (tabGet (tabMap t f) k).filter p = ((tabGet t k).filter p).map (f k) := by
  rw [tabGet_tabMap]
  cases tabGet t k with
  | none => rfl
  | some x => cases hx : p x <;> simp [Option.filter, hp, hx]

theorem State.endJob_sheds_gone (s : State) (id : Nat) (faulted : Bool) : s.Sheds (s.endJob id faulted) ∧ (s.endJob id faulted).job id = none := by
  unfold State.endJob
  split
  · next h => exact ⟨.refl s, h⟩
  · next j hj =>
    extract_lets s1 s2 alone streams models s3 s4
    have h1 : s.Sheds s1 :=
      (((State.dropTransfers_frame.sheds rfl).trans (State.dropPlace_sheds ..)).trans (State.releaseCores_sheds ..)).trans
        (State.freeExtents_frame.sheds rfl)
    have h2 : s1.Sheds s2 := .foldl State.zeroSet_sheds _ s1
    have h3 : s2.Sheds s3 := by
      refine ⟨fun _ h => h, fun _ => rfl, fun h ⟨m, hm, hd⟩ => ⟨coldModel id m, ?_, ?_⟩⟩
      · exact (tabGet_tabMap_filter (f := fun _ m => coldModel id m) s2.models fun m => by rw [coldModel_handle]).trans (congrArg (Option.map _) hm)
      · rw [coldModel_damaged, hd]
    have h4 : s3.Sheds s4 := writeJobRecord_sheds ..
    have h5 : s4.Sheds { s4 with jobs := tabErase s4.jobs id } := by
      refine ⟨fun k hk => ?_, fun _ => rfl, fun _ h => h⟩
      by_cases hki : k = id
      · simp [State.job, hki, tabGet_tabErase_same]
      · simpa [State.job, tabGet_tabErase_other _ hki] using hk
    have h6 := State.nextFrost_sheds { s4 with jobs := tabErase s4.jobs id }
    exact ⟨((((h1.trans h2).trans h3).trans h4).trans h5).trans h6, h6.job id (by simp [State.job, tabGet_tabErase_same])⟩

theorem State.tearDownWith_sheds_gone (s : State) (id rule status detail : Nat) :
    s.Sheds (s.tearDownWith id rule status detail) ∧ (s.tearDownWith id rule status detail).job id = none := by
  unfold State.tearDownWith
  split
  · next h => exact ⟨.refl s, h⟩
  · next j hj =>
    extract_lets s1 s2 s3 s4
    have h1 : s.Sheds s1 := State.dropTransfers_frame.sheds rfl
    have h2 : s1.Sheds s2 := by
      refine .foldl (fun s c => ?_) _ s1
      extract_lets x
      exact .ite (State.setCore_sheds rfl) (.refl s)
    have h3 : s2.Sheds s3 := .foldl faultRow_sheds _ s2
    obtain ⟨h4, hgone⟩ := State.endJob_sheds_gone (s3.completeAdapt j status detail) id true
    have h5 : s4.Sheds ((s4.bump 0x206 1).writeLog 0x44 (srcOf 9 id) rule) :=
      (State.bump_frame.sheds rfl).trans (State.writeLog_frame.sheds rfl)
    exact ⟨(((h1.trans h2).trans h3).trans ((State.completeAdapt_frame.sheds rfl).trans h4)).trans h5, h5.job id hgone⟩

/-- A tear-down only takes away. -/
theorem State.tearDown_sheds (s : State) (id rule : Nat) : s.Sheds (s.tearDown id rule) := (State.tearDownWith_sheds_gone ..).1

/-- A job context that is torn down is gone. -/
theorem State.tearDown_gone (s : State) (id rule : Nat) : (s.tearDown id rule).job id = none := (State.tearDownWith_sheds_gone ..).2

/-- Jobs that are torn down one after the other are all gone. -/
theorem State.tearDowns_gone (rule : Nat) {l : List Job} {j : Job} (hj : j ∈ l) (s : State) :
    (l.foldl (fun s j => s.tearDown j.id rule) s).job j.id = none := by
  obtain ⟨as, bs, rfl⟩ := List.append_of_mem hj
  rw [List.foldl_append, List.foldl_cons]
  exact (State.Sheds.foldl (fun s (k : Job) => State.tearDown_sheds s k.id rule) bs _).job _ (State.tearDown_gone ..)

end Sys2Proof.Machine
end

section
/-! ### Plate errors, Plate scrub and mesh links (04 R131, R132, R145; 10 R309; 18 R559) -/

namespace Sys2Proof.Machine

open Sys2Proof

/-! ### Uncorrectable words (04 R131) -/

section

variable {s : State} {c : Nat} {w : PlateWord} (hready : s.boot.phase = .ready) (hserves : s.coreServes c = true)
include hready hserves

/-- A word with a copy is counted as read again. -/
theorem execPlateUncorrectable_clean (h : s.wordClass c w = some true) :
    exec (.plateUncorrectable c w) s = .next ((s.bump 0x01E 1 (.field (coreField c))).loseWord c w) := by
  show execPlateUncorrectable c w s = _
  rw [execPlateUncorrectable, if_neg (by simp [hready, hserves]), h]

/-- A word without a copy is counted as lost. -/
theorem execPlateUncorrectable_lost (h : s.wordClass c w = some false) :
    exec (.plateUncorrectable c w) s = .next ((s.bump 0x01F 1 (.field (coreField c))).loseWord c w) := by
  show execPlateUncorrectable c w s = _
  rw [execPlateUncorrectable, if_neg (by simp [hready, hserves]), h]

end

/-- A word that a core does not hold is no error. -/
theorem execPlateUncorrectable_of_absent {s : State} {c : Nat} {w : PlateWord} (h : s.wordClass c w = none) :
    exec (.plateUncorrectable c w) s = .next s := by
  show execPlateUncorrectable c w s = _
  rw [execPlateUncorrectable, h]
  exact congrArg _ (ite_self s)

theorem wordClass_window {s : State} {c id k o : Nat} {clean : Bool} (h : s.wordClass c (.window id k o) = some clean) :
    ∃ x, (s.job id).bind (·.window c k) = some x ∧ x.dirty = !clean := by
  unfold State.wordClass at h
  extract_lets bound at h
  dsimp only at h
  split at h
  · obtain ⟨x, hx, rfl⟩ := Option.map_eq_some_iff.mp h
    exact ⟨x, (Option.filter_eq_some_iff.mp hx).1, (Bool.not_not _).symm⟩
  · cases h

/-- A clean line of a window is read again; a dirty one is lost with its job. -/
theorem loseWord_window {s : State} {c id k o : Nat} {x : PlateWindow} (h : (s.job id).bind (·.window c k) = some x) :
    s.loseWord c (.window id k o) = if x.dirty then s.tearDown id 131 else s := by
  rw [State.loseWord, h]
  cases hd : x.dirty <;> simp [hd]

theorem loseWord_weights_reread (s : State) (c h : Nat) : s.loseWord c (.weights h false) = s := by
  unfold State.loseWord
  dsimp only
  split <;> rfl

theorem State.faultRowOf_sheds (s : State) (x : Stream) : s.Sheds (s.faultRowOf x) :=
  .ite (State.tearDown_sheds ..) (State.faultStream_sheds ..)

/-- A voice that is damaged stays so through the tear-downs that it causes (10 R309). -/
theorem damage_hasDamaged (s : State) (m : Model) : (s.damage m).HasDamaged m.handle := by
  unfold State.damage
  extract_lets s1 s2
  have h1 : s1.HasDamaged m.handle := ⟨{ m with damaged := true }, State.model_setModel s { m with damaged := true }, rfl⟩
  have h2 : s1.Sheds s2 := .foldl (fun s (j : Job) => State.tearDown_sheds s j.id 309) _ s1
  have h3 := State.Sheds.foldl State.faultRowOf_sheds (s2.streamList.filter fun x => x.handle == m.handle || x.voice == m.handle) s2
  exact (h2.trans h3).damaged m.handle h1

theorem loseWord_shadow_gone (s : State) (c id : Nat) : (s.loseWord c (.shadow id)).job id = none := State.tearDown_gone ..

theorem loseWord_second_gone {s : State} {i : Nat} {x : Stream} (c : Nat) (h : s.stream i = some x) :
    (s.loseWord c (.second i)).job x.job = none := by
  rw [State.loseWord, h]
  exact State.tearDown_gone ..

/-! ### Scrubbing (04 R132) -/

/-- A core reads as it was set, the others as before. -/
theorem core_of_setCore {s t : State} {c : Nat} {x : Core} (h : t.hatch = (s.setCore c x).hatch) :
    t.core c = x ∧ ∀ k, k ≠ c → t.core k = s.core k := by
  have hcore (k : Nat) : t.core k = (s.setCore c x).core k := by simp only [State.core, h]
  exact ⟨by rw [hcore, State.core_setCore], fun k hk => by rw [hcore, State.core_setCore_other _ _ hk]⟩

theorem execPlateScrub_next {s : State} {c : Nat} (hready : s.boot.phase = .ready) (hserves : s.coreServes c = true) (fixed : Bool) :
    ∃ t, exec (.plateScrub c fixed) s = .next t ∧
      t.hatch = (s.setCore c { s.core c with scrubLine := ((s.core c).scrubLine + 1) % 5120 }).hatch := by
  refine ⟨_, rfl, ?_⟩
  rw [if_neg (by simp [hready, hserves])]
  exact (apply_ite State.hatch _ _ _).trans (ite_self _)

/-! ### Mesh links (04 R145, 18 R559) -/

/-- The retries of a link within the last 1,024 flits, one at flit `n` being the newest (04 R145). -/
def MeshLink.window (x : MeshLink) (n : Nat) : List Nat := (x.retries.filter fun k => n < k + 1024) ++ [n]

/-- Whether a retry at flit `n` is a lane fault (04 R145). -/
def MeshLink.Ninth (x : MeshLink) (n : Nat) : Prop := 9 ≤ (x.window n).length ∧ x.laneFault = false

theorem MeshLink.ninth_iff (x : MeshLink) (n : Nat) : (8 < (x.window n).length && !x.laneFault) = true ↔ x.Ninth n := by
  simp [MeshLink.Ninth, Nat.succ_le_iff]

/-- A retry that is no ninth one is kept by its flit. -/
theorem execFlitCrcRetry_kept {s : State} {l n : Nat} (hready : s.boot.phase = .ready) (h : ¬(s.meshLink l).Ninth n) :
    Completes (.flitCrcRetry l n) s fun t =>
      t.hatch = (s.setLink l { s.meshLink l with retries := (s.meshLink l).window n }).hatch ∧
      t.cnt = (s.bump 0x031 1 (.field (linkField l))).cnt := by
  have hbad := Bool.eq_false_iff.mpr (mt (MeshLink.ninth_iff ..).mp h)
  refine ⟨_, congrArg Host.Outcome.next (if_neg (by simp [hready])), ?_⟩
  unfold MeshLink.window at hbad ⊢
  simp only [hbad, Bool.false_and, Bool.or_false, Bool.false_eq_true, if_false]
  exact ⟨rfl, rfl⟩

/-- A ninth retry is a lane fault; on half its lanes the link begins anew without retries. -/
theorem execFlitCrcRetry_ninth {s : State} {l n : Nat} (hready : s.boot.phase = .ready) (h : (s.meshLink l).Ninth n) :
    Completes (.flitCrcRetry l n) s fun t =>
      t.hatch = (s.setLink l { s.meshLink l with
        retries := if (s.meshLink l).half then [] else (s.meshLink l).window n
        laneFault := !(s.meshLink l).half }).hatch ∧
      t.cnt = ((s.bump 0x031 1 (.field (linkField l))).bump 0x032 1 (.field (linkField l))).cnt := by
  have hbad := (MeshLink.ninth_iff ..).mpr h
  refine ⟨_, congrArg Host.Outcome.next (if_neg (by simp [hready])), ?_⟩
  unfold MeshLink.window at hbad ⊢
  simp only [hbad, Bool.true_and, if_true]
  exact ⟨by rw [h.2]; rfl, rfl⟩

/-- A link with a lane fault goes on with half its lanes, and with no retries. -/
theorem execMeshLaneHalf_half {s : State} {l : Nat} (hfault : (s.meshLink l).laneFault = true) (hhalf : (s.meshLink l).half = false) :
    Completes (.meshLaneHalf l) s fun t => t.hatch = (s.setLink l ⟨[], true, false⟩).hatch := by
  refine ⟨_, rfl, ?_⟩
  rw [if_pos (by simp [hfault, hhalf])]
  exact State.writeLog_hatch ..

/-- A link reads as it was set, the others as before. -/
theorem meshLink_of_setLink {s t : State} {l : Nat} {x : MeshLink} (h : t.hatch = (s.setLink l x).hatch) :
    t.meshLink l = x ∧ ∀ k, k ≠ l → t.meshLink k = s.meshLink k := by
  have hlink (k : Nat) : t.meshLink k = (s.setLink l x).meshLink k := by simp only [State.meshLink, h]
  exact ⟨by rw [hlink, State.meshLink_setLink], fun k hk => by rw [hlink, State.meshLink_setLink_other _ _ hk]⟩

/-- Settles O36: an uncorrectable word by its class and its window, a scrub and a retry by what they set, a lane fault by its log. -/
theorem plateAndMesh : Obligations.PlateAndMesh := by
  refine ⟨fun c w s hready hserves => ⟨execPlateUncorrectable_of_absent, fun hclean => ⟨?_, ?_, ?_⟩, fun hlost => ⟨?_, ?_, ?_, ?_⟩, ?_⟩,
    fun c id k o j x s hbound hj hx ho => ?_, fun l n s hready => ?_, fun l s hfault hhalf => ?_⟩
  · rintro id k o rfl
    obtain ⟨x, hx, hd⟩ := wordClass_window hclean
    rw [execPlateUncorrectable_clean hready hserves hclean, loseWord_window (by simpa using hx), hd]
    rfl
  · rintro h rfl
    rw [execPlateUncorrectable_clean hready hserves hclean, loseWord_weights_reread]
  · rintro h m rfl hm hmh
    refine ⟨_, execPlateUncorrectable_clean hready hserves hclean, ?_⟩
    rw [State.loseWord, State.model_bump, hm, ← hmh]
    exact damage_hasDamaged ..
  · rintro id k o (rfl | rfl)
    · obtain ⟨x, hx, hd⟩ := wordClass_window hlost
      rw [execPlateUncorrectable_lost hready hserves hlost, loseWord_window (by simpa using hx), hd]
      rfl
    · exact execPlateUncorrectable_lost hready hserves hlost
  · rintro id rfl
    exact ⟨_, execPlateUncorrectable_lost hready hserves hlost, loseWord_shadow_gone ..⟩
  · rintro i x rfl hx
    exact ⟨_, execPlateUncorrectable_lost hready hserves hlost, loseWord_second_gone c (by simpa using hx)⟩
  · rintro rfl
    exact execPlateUncorrectable_lost hready hserves hlost
  · intro fixed
    obtain ⟨t, ht, hh⟩ := execPlateScrub_next hready hserves fixed
    obtain ⟨hc, hother⟩ := core_of_setCore hh
    exact ⟨t, ht, by rw [hc], by rw [hh]; rfl, hother, execPlateScrub_frame ht⟩
  · simp [State.wordClass, hbound, hj, hx, ho, Option.filter]
  · intro f x rs bad
    by_cases h : bad
    · obtain ⟨t, ht, hh, hcnt⟩ := execFlitCrcRetry_ninth hready h
      obtain ⟨hl, hother⟩ := meshLink_of_setLink hh
      refine ⟨t, ht, ?_, by rw [hl], fun hn => ?_, fun _ => hcnt, fun hn => absurd h hn, hother, execFlitCrcRetry_frame ht⟩
      · simp [hl, x, h, h.2]
      · rw [hl]
        exact if_neg fun hhalf => hn ⟨h, hhalf⟩
    · obtain ⟨t, ht, hh, hcnt⟩ := execFlitCrcRetry_kept hready h
      obtain ⟨hl, hother⟩ := meshLink_of_setLink hh
      refine ⟨t, ht, ?_, by rw [hl], fun _ => by rw [hl]; rfl, fun hb => absurd hb h, fun _ => hcnt, hother, execFlitCrcRetry_frame ht⟩
      simp [hl, x, h]
  · obtain ⟨t, ht, hh⟩ := execMeshLaneHalf_half hfault hhalf
    obtain ⟨hl, hother⟩ := meshLink_of_setLink hh
    exact ⟨t, ht, hl, hother, execMeshLaneHalf_frame ht⟩

end Sys2Proof.Machine
end

section
/-! ### Core faults, takeovers and self tests (04 R139, R140; 18 R553, R557, R558, R560) -/

namespace Sys2Proof.Machine

open Sys2Proof

/-! ### A core that leaves service (04 R151; 10 R306) -/

theorem State.setCore_setCore (s : State) (c : Nat) (x y : Core) : (s.setCore c x).setCore c y = s.setCore c y := by
  simp only [State.setCore, tabSet_tabSet]

theorem coreSite_field {s : State} {f k : Nat} {x : Site} (h : s.coreSite f k = some x) : x.field = f := by
  obtain ⟨i, -, rfl⟩ := List.mem_map.mp (List.mem_of_mem_filter (List.mem_of_getElem? h))
  rfl

/-- A core is retired, and the non-volatile store lists its site. -/
theorem retireCore_retires (s : State) (c : Nat) :
    ((s.retireCore c).core c).retired = true ∧ ((s.retireCore c).core c).faulted = true ∧ (s.retireCore c).jobs = s.jobs ∧
      ∃ x : Site, x.field = coreField c ∧ (s.retireCore c).nv.retiredCores = s.nv.retiredCores ++ [x] := by
  unfold State.retireCore
  extract_lets f site x s1 y s2 nv hatch s3
  have hcore : s3.core c = { s.core c with retired := true, faulted := true } := State.core_setCore ..
  have hsite : site.field = f := by
    unfold site
    cases hx : s.coreSite f (coreLogical c) with
    | none => rfl
    | some x => exact coreSite_field hx
  refine ⟨?_, ?_, ?_, site, hsite, ?_⟩
  · rw [State.core_raiseAlarm, State.core_bump, hcore]
  · rw [State.core_raiseAlarm, State.core_bump, hcore]
  · rw [State.raiseAlarm_jobs, State.bump_jobs]
    rfl
  · rw [State.raiseAlarm_nv, State.bump_nv]
    rfl

theorem dropSet_noNewJob (cores : List Nat) (rule : Nat) (s : State) (m : Model) : s.NoNewJob (dropSet cores rule s m) := by
  unfold dropSet
  split
  · exact fun _ h => h
  · split
    · exact (State.tearDown_sheds ..).job
    · exact (State.tearDown_sheds ..).job
    · exact fun _ h => h

theorem loseCores_noNewJob (s : State) (cores : List Nat) (rule : Nat) : s.NoNewJob (s.loseCores cores rule) :=
  List.foldlRecOn (motive := s.NoNewJob) _ (dropSet cores rule) (fun _ h => h) fun _ hb m _ id h =>
    dropSet_noNewJob cores rule _ m id (hb id h)

/-- A core is gone: retired, with its site listed, and none of the jobs that were bound to it is left. -/
def State.CoreGone (s : State) (c : Nat) (t : State) : Prop :=
  (t.core c).retired = true ∧ (t.core c).faulted = true ∧ (∀ j ∈ s.coreJobs c, t.job j.id = none) ∧
    ∃ x : Site, x.field = coreField c ∧ t.nv.retiredCores = s.nv.retiredCores ++ [x]

/-- A core whose jobs are torn down leaves service with what it still holds. -/
theorem retired_coreGone {s u : State} {c rule : Nat} (hnv : u.nv = s.nv) (hjobs : ∀ j ∈ s.coreJobs c, u.job j.id = none) :
    s.CoreGone c ((u.loseCores [c] rule).retireCore c) := by
  obtain ⟨hret, hfault, hkeep, x, hx, hlist⟩ := retireCore_retires (u.loseCores [c] rule) c
  refine ⟨hret, hfault, fun j hj => ?_, x, hx, ?_⟩
  · have := loseCores_noNewJob u [c] rule j.id (hjobs j hj)
    simpa only [State.job, hkeep] using this
  · rw [hlist, show (u.loseCores [c] rule).nv = u.nv from State.loseCores_frame .nv (by decide), hnv]

theorem tearDowns_nv (rule : Nat) (l : List Job) (s : State) : (l.foldl (fun s j => s.tearDown j.id rule) s).nv = s.nv :=
  Frame.foldl (L := tearDownBlocks) .refl (fun _ _ h => Frame.comp State.tearDown_frame (by decide) h) .nv (by decide)

/-- A core leaves service with the jobs bound to it. -/
theorem jobs_and_core_gone {s u : State} {c : Nat} (rule : Nat) (hnv : u.nv = s.nv) (hjobs : s.coreJobs c = u.coreJobs c) :
    s.CoreGone c ((((u.coreJobs c).foldl (fun s j => s.tearDown j.id rule) u).loseCores [c] rule).retireCore c) :=
  retired_coreGone ((tearDowns_nv ..).trans hnv) fun _ hj => State.tearDowns_gone rule (hjobs ▸ hj) u

/-! ### A failed check (04 R139, R140; 18 R553, R557, R560) -/

/-- A core that its unit `u` has stopped, counted and reported (04 R140). -/
def State.stopped (s : State) (c : Nat) (u : CheckUnit) : State :=
  (s.bump 0x01C 1 (.field (coreField c))).setCore c { s.core c with
    faulted := true
    failed := some (u, (s.core c).running.map fun r => (r.job, r.stroke)) }

theorem stopped_coreJobs (s : State) (c : Nat) (u : CheckUnit) : (s.stopped c u).coreJobs c = s.coreJobs c := by
  simp only [State.stopped, State.coreJobs, State.core_setCore]
  rfl

/-- The jobs of a core that wait for another core's takeover (18 R557). -/
def State.secondFaults (s : State) (c : Nat) : List Job :=
  (s.coreJobs c).filter fun j => j.held.any fun k => k != c && (s.core k).faulted

theorem mem_secondFaults {s : State} {c : Nat} {j : Job} :
    j ∈ s.secondFaults c ↔ j ∈ s.coreJobs c ∧ ∃ k ∈ j.held, k ≠ c ∧ (s.core k).faulted = true := by
  simp [State.secondFaults]

theorem stopped_secondFaults (s : State) (c : Nat) (x : Core) (hx : x.jobs = (s.core c).jobs) :
    ((s.setCore c x).bump 0x01C 1 (.field (coreField c))).secondFaults c = s.secondFaults c := by
  have hjobs : ((s.setCore c x).bump 0x01C 1 (.field (coreField c))).coreJobs c = s.coreJobs c := by
    simp only [State.coreJobs, State.core_bump, State.core_setCore, hx]
    rfl
  rw [State.secondFaults, hjobs]
  refine List.filter_congr fun _ _ => List.any_congr rfl fun k => ?_
  by_cases hk : k = c
  · simp [hk]
  · rw [State.core_bump, State.core_setCore_other _ _ hk]

/-- The jobs with a second fault are torn down, and with nothing left to move, or with a spare, that is all (18 R557, R560). -/
def State.faultCore (s : State) (c : Nat) (second : List Job) : State :=
  let u := second.foldl (fun s j => s.tearDown j.id 560) s
  if u.coreBusy c && !u.anySpare c then
    (((u.coreJobs c).foldl (fun s (j : Job) => s.tearDown j.id 560) u).loseCores [c] 560).retireCore c
  else u

/-- What a failed check does, by its unit. -/
theorem execCoreCheckFailure_next {s : State} {c : Nat} (hready : s.boot.phase = .ready) (hserves : s.coreServes c = true) (u : CheckUnit) :
    exec (.coreCheckFailure c u) s = .next (if u = .router ∨ u = .platePath
      then ((((s.stopped c u).coreJobs c).foldl (fun s j => s.tearDown j.id 553) (s.stopped c u)).loseCores [c] 553).retireCore c
      else (s.stopped c u).faultCore c (s.secondFaults c)) := by
  refine congrArg Host.Outcome.next ((if_pos (by simp [hready, hserves])).trans ?_)
  extract_lets x s1 s2
  have hstop : s2.setCore c { s2.core c with faulted := true } = s.stopped c u := by
    have hcore : s2.core c = { x with failed := some (u, x.running.map fun r => (r.job, r.stroke)) } := State.core_setCore ..
    rw [hcore]
    exact State.setCore_setCore (s.bump 0x01C 1 (.field (coreField c))) c _ _
  have hpath : s2.pathFault c =
      ((((s.stopped c u).coreJobs c).foldl (fun s j => s.tearDown j.id 553) (s.stopped c u)).loseCores [c] 553).retireCore c := by
    rw [← hstop]
    rfl
  have hfault : s2.coreFault c = (s.stopped c u).faultCore c (s.secondFaults c) := by
    rw [← hstop, ← stopped_secondFaults s c { x with failed := some (u, x.running.map fun r => (r.job, r.stroke)) } rfl]
    rfl
  rw [← hpath, ← hfault]
  cases u <;> rfl

/-! ### Takeovers (18 R557) -/

/-- What a takeover leaves on the two cores, and of the records that name them. -/
theorem moveCore_reads {s : State} {c d : Nat} (hcd : c ≠ d) :
    ((s.moveCore c d).core d).jobs = (s.core c).jobs ∧ ((s.moveCore c d).core d).running = (s.core c).running ∧
    ((s.moveCore c d).core d).pairs = (s.core c).pairs ∧ ((s.moveCore c d).core d).waiting = (s.core c).waiting ∧
    ((s.moveCore c d).core d).faulted = false ∧ ((s.moveCore c d).core c).jobs = [] ∧ ((s.moveCore c d).core c).faulted = true ∧
    ((s.moveCore c d).core c).takenBy = some d := by
  have hd : (s.moveCore c d).core d = swapEngines c d { s.core c with
      faulted := false
      failed := (s.core d).failed
      hadFault := (s.core d).hadFault
      rangeFlag := (s.core d).rangeFlag
      scrubLine := (s.core d).scrubLine
      takenBy := none } := by
    simp [State.moveCore, State.core, State.setCore, tabGet_tabMap, tabGet_tabSet_same, tabGet_tabSet_other _ _ (Ne.symm hcd)]
  have hc : (s.moveCore c d).core c = swapEngines c d { Core.init with
      faulted := true
      failed := (s.core c).failed
      hadFault := (s.core c).hadFault
      takenBy := some d } := by
    simp [State.moveCore, State.core, State.setCore, tabGet_tabMap, tabGet_tabSet_same]
  rw [hd, hc]
  exact ⟨rfl, rfl, rfl, rfl, rfl, rfl, rfl, rfl⟩

theorem moveCore_job {s : State} {id : Nat} {j : Job} (c d : Nat) (h : s.job id = some j) :
    (s.moveCore c d).job id = some (swapJob c d j) :=
  (tabGet_tabMap_filter (f := fun _ j => swapJob c d j) s.jobs fun _ => rfl).trans (congrArg (Option.map _) h)

theorem moveCore_model {s : State} {k : Nat} {m : Model} (c d : Nat) (h : s.model k = some m) :
    (s.moveCore c d).model k = some { m with res := swapSet c d m.res } :=
  (tabGet_tabMap_filter (f := fun _ (m : Model) => { m with res := swapSet c d m.res }) s.models fun _ => rfl).trans
    (congrArg (Option.map _) h)

theorem moveCore_stream {s : State} {id : Nat} {x : Stream} (c d : Nat) (h : s.stream id = some x) :
    (s.moveCore c d).stream id = some (swapSecond c d x) :=
  (tabGet_tabMap_filter (f := fun _ x => swapSecond c d x) s.streams fun _ => rfl).trans (congrArg (Option.map _) h)

/-- A core that waits for its takeover is no spare. -/
theorem spareCore_not_faulted {s : State} {d : Nat} (h : s.spareCore d = true) : (s.core d).faulted = false := by
  simp only [State.spareCore, State.coreServes, Bool.and_eq_true, Bool.not_eq_true'] at h
  exact h.1.1.1.1.2

theorem execCoreTakeover_next {s : State} {c d : Nat} (hfault : (s.core c).faulted = true) (hret : (s.core c).retired = false)
    (htaken : (s.core c).takenBy = none) (hbusy : s.coreBusy c = true) (hspare : s.spareCore d = true)
    (hnear : coreField d = coreField c ∨ (adjacent (coreField c) (coreField d) = true ∧ s.fieldSpare (coreField c) = false)) :
    ∃ detail, exec (.coreTakeover c d) s =
      .next (((s.moveCore c d).bump 0x020 1 (.field (coreField c))).writeLog 0x40 (srcOf 1 (coreField c)) detail) :=
  ⟨_, congrArg Host.Outcome.next (if_pos (by simpa [hfault, hret, htaken, hbusy, hspare] using hnear))⟩

/-! ### Self tests (18 R558) -/

theorem execCoreSelfTest_returns {s : State} {c : Nat} (hc : c < 86016) (hfault : (s.core c).faulted = true)
    (hret : (s.core c).retired = false) (hjobs : (s.core c).jobs = []) (hfirst : (s.core c).hadFault = false) :
    exec (.coreSelfTest c true) s =
      .next ((s.setCore c { s.core c with faulted := false, hadFault := true, takenBy := none }).writeLog 0x43
        (srcOf 1 (coreField c)) (s.coreRowCol c)) := by
  refine congrArg Host.Outcome.next ?_
  rw [if_neg (by omega), if_neg (by simp [hfault, hret, hjobs]), if_pos (by simp [hfirst])]

theorem execCoreSelfTest_retires {s : State} {c : Nat} {ok : Bool} (hc : c < 86016) (hfault : (s.core c).faulted = true)
    (hret : (s.core c).retired = false) (hjobs : (s.core c).jobs = []) (hbad : ok = false ∨ (s.core c).hadFault = true) :
    exec (.coreSelfTest c ok) s = .next ((s.loseCores [c] 560).retireCore c) := by
  refine congrArg Host.Outcome.next ?_
  rw [if_neg (by omega), if_neg (by simp [hfault, hret, hjobs]), if_neg (by obtain h | h := hbad <;> simp [h])]

theorem execCoreSelfTest_unit (u : Nat) (ok : Bool) (s : State) : exec (.coreSelfTest (86016 + u) ok) s = .next (s.unitSelfTest u ok) := by
  refine congrArg Host.Outcome.next ?_
  rw [if_pos (by omega), Nat.add_sub_cancel_left]

theorem unitSelfTest_returns {s : State} {u : Nat} (hu : u < 672) (hfailed : (s.unit u).failed = true) (hret : (s.unit u).retired = false)
    (hctxs : (s.unit u).ctxs = []) (hfirst : (s.unit u).hadFault = false) :
    s.unitSelfTest u true = s.setUnit u { s.unit u with failed := false, hadFault := true } := by
  unfold State.unitSelfTest
  rw [if_pos (by simp [hu, hfailed, hret, hctxs]), if_pos (by simp [hfirst])]

theorem unitSelfTest_retires {s : State} {u : Nat} {ok : Bool} (hu : u < 672) (hfailed : (s.unit u).failed = true)
    (hret : (s.unit u).retired = false) (hctxs : (s.unit u).ctxs = []) (hbad : ok = false ∨ (s.unit u).hadFault = true) :
    ((s.unitSelfTest u ok).unit u).retired = true ∧
      (s.unitSelfTest u ok).nv.retiredBurin = s.nv.retiredBurin ++ [(u / 8, u % 8)] := by
  unfold State.unitSelfTest
  rw [if_pos (by simp [hu, hfailed, hret, hctxs]), if_neg (by obtain h | h := hbad <;> simp [h])]
  extract_lets b s1
  constructor
  · rw [State.unit_raiseAlarm]
    exact congrArg BurinUnit.retired (State.unit_setUnit ..)
  · rw [State.raiseAlarm_nv]
    rfl

/-- A core that keeps serving jobs, or is gone, is still faulted; the jobs with a second fault are gone (18 R557, R560). -/
theorem faultCore_faults {s : State} {c : Nat} {second : List Job} (hc : (s.core c).faulted = true) {j : Job} (hj : j ∈ second) :
    ((s.faultCore c second).core c).faulted = true ∧ (s.faultCore c second).job j.id = none := by
  unfold State.faultCore
  extract_lets u
  have hu : s.Sheds u := .foldl (fun s (j : Job) => State.tearDown_sheds s j.id 560) second s
  have hgone : u.job j.id = none := State.tearDowns_gone 560 hj s
  split
  · obtain ⟨-, hfault, hjobs, -⟩ :=
      retireCore_retires (((u.coreJobs c).foldl (fun s (j : Job) => s.tearDown j.id 560) u).loseCores [c] 560) c
    refine ⟨hfault, ?_⟩
    have hrest := State.Sheds.foldl (fun s (j : Job) => State.tearDown_sheds s j.id 560) (u.coreJobs c) u
    have hlost := loseCores_noNewJob _ [c] 560 j.id (hrest.job j.id hgone)
    simpa only [State.job, hjobs] using hlost
  · exact ⟨(hu.faulted c).trans hc, hgone⟩

/-- With no second fault a core waits for its spare, or is gone with its jobs where there is none (18 R557, R560). -/
theorem faultCore_nil (s : State) (c : Nat) : s.faultCore c [] = if s.coreBusy c && !s.anySpare c then
    (((s.coreJobs c).foldl (fun s (j : Job) => s.tearDown j.id 560) s).loseCores [c] 560).retireCore c else s := rfl

theorem secondFaults_nil {s : State} {c : Nat} (h : ∀ j ∈ s.coreJobs c, ∀ k ∈ j.held, k ≠ c → (s.core k).faulted = false) :
    s.secondFaults c = [] :=
  List.eq_nil_iff_forall_not_mem.mpr fun j hj => by
    obtain ⟨hj, k, hk, hkc, hf⟩ := mem_secondFaults.mp hj
    rw [h j hj k hk hkc] at hf
    cases hf

/-- Settles O34: a failed check by its unit and by what waits for a spare, a takeover by the core it moves, a self test by its outcome. -/
theorem coreFaults : Obligations.CoreFaults := by
  refine ⟨fun c u s hready hserves => ⟨fun hu => ?_, fun hr hp hnone => ⟨fun hrest => ?_, fun hbusy hspare => ?_⟩,
    fun j k hr hp hj hk hkc hkf => ?_⟩, fun c d s hfault hret htaken hbusy hspare hnear => ?_,
    fun c ok s hc hfault hret hjobs => ?_, fun u ok s hu hfailed hret hctxs => ?_⟩
  · rw [Completes, execCoreCheckFailure_next hready hserves, if_pos hu]
    exact ⟨_, rfl, jobs_and_core_gone (s := s) 553 rfl (stopped_coreJobs s c u).symm⟩
  · rw [execCoreCheckFailure_next hready hserves, if_neg (not_or.mpr ⟨hr, hp⟩), secondFaults_nil hnone, faultCore_nil]
    exact congrArg Host.Outcome.next (if_neg (by obtain h | h := hrest <;> simp [State.stopped, h]))
  · rw [Completes, execCoreCheckFailure_next hready hserves, if_neg (not_or.mpr ⟨hr, hp⟩), secondFaults_nil hnone, faultCore_nil]
    exact ⟨_, congrArg Host.Outcome.next (if_pos (by simp [State.stopped, hbusy, hspare])),
      jobs_and_core_gone (s := s) 560 rfl (stopped_coreJobs s c u).symm⟩
  · rw [Completes, execCoreCheckFailure_next hready hserves, if_neg (not_or.mpr ⟨hr, hp⟩)]
    exact ⟨_, rfl, faultCore_faults (congrArg Core.faulted (State.core_setCore ..)) (mem_secondFaults.mpr ⟨hj, k, hk, hkc, hkf⟩)⟩
  · have hcd : c ≠ d := fun h => by rw [h, spareCore_not_faulted hspare] at hfault; cases hfault
    obtain ⟨detail, ht⟩ := execCoreTakeover_next hfault hret htaken hbusy hspare hnear
    obtain ⟨hjobs, hrun, hpairs, hwait, hgood, hempty, hstill, hby⟩ := moveCore_reads (s := s) hcd
    refine ⟨_, ht, ?_⟩
    simp only [State.core_writeLog, State.core_bump, State.job_writeLog, State.job_bump, State.model_writeLog, State.model_bump,
      State.stream_writeLog, State.stream_bump, State.writeLog_hatch, State.bump_hatch]
    exact ⟨hjobs, hrun, hpairs, hwait, hgood, hempty, hstill, hby, fun id j hj => ⟨_, moveCore_job c d hj, rfl, rfl, rfl⟩,
      fun h m => moveCore_model c d, fun id x => moveCore_stream c d, rfl, execCoreTakeover_frame ht⟩
  · by_cases hgood : ok = true ∧ (s.core c).hadFault = false
    · obtain ⟨rfl, hfirst⟩ := hgood
      refine ⟨_, execCoreSelfTest_returns hc hfault hret hjobs hfirst, fun _ _ => ?_, fun hbad => by simp [hfirst] at hbad⟩
      simp only [State.core_writeLog, State.core_setCore, State.writeLog_nv, State.setCore_nv, and_self]
    · have hbad : ok = false ∨ (s.core c).hadFault = true := by
        simpa only [not_and_or, Bool.not_eq_true, Bool.not_eq_false] using hgood
      obtain ⟨hretired, -, -, x, hx, hlist⟩ := retireCore_retires (s.loseCores [c] 560) c
      rw [show (s.loseCores [c] 560).nv = s.nv from State.loseCores_frame .nv (by decide)] at hlist
      exact ⟨_, execCoreSelfTest_retires hc hfault hret hjobs hbad, fun h h' => absurd ⟨h, h'⟩ hgood, fun _ => ⟨hretired, x, hx, hlist⟩⟩
  · refine ⟨_, execCoreSelfTest_unit u ok s, ?_, unitSelfTest_retires hu hfailed hret hctxs⟩
    rintro rfl hfirst
    rw [unitSelfTest_returns hu hfailed hret hctxs hfirst, State.unit_setUnit]
    exact ⟨rfl, rfl, rfl⟩

end Sys2Proof.Machine
end

section
/-! ### The work of a running stroke, and the semaphores (04 R118, R129, R133 to R138; 05 R166; 09 R291) -/

namespace Sys2Proof.Machine

open Sys2Proof

/-! ### A stroke's next work (04 R118, R129; 05 R166) -/

/-- The work that a running stroke does now: its next segment, or all that is left. -/
def Run.now (r : Run) (whole : Bool) : List StrokeOp := if whole then r.work.flatten else r.work.headD []

/-- What a running stroke has still to do behind that. -/
def Run.later (r : Run) (whole : Bool) : Run := { r with work := if whole then [] else r.work.tail }

/-- From `s` to `u` a stroke on a core has done some of its work: of the core only its stroke, its slots and its range flag change, of the
others only their slots. -/
structure State.Ran (s : State) (c : Nat) (u : State) : Prop where
  frame   : Frame [.streams, .hatch, .cnt] s u
  signals : u.hatch.signals = s.hatch.signals
  other   : ∀ k, k ≠ c → u.core k = { s.core k with slots := (u.core k).slots }
  core    : u.core c = { s.core c with running := (u.core c).running, slots := (u.core c).slots, rangeFlag := (u.core c).rangeFlag }

section

variable {s : State} {c : Nat} {r : Run} {j : Job} (hrun : (s.core c).running = some r) (hj : s.job r.job = some j)
include hrun hj

/-- A stroke whose block close lacks a record stalls (05 R166). -/
theorem runWork_stalls {whole : Bool} (now : Nat) (h : (r.now whole).any (View.stalls (s.view j c)) = true) :
    s.runWork c now whole = (s, false) := by
  unfold State.runWork
  simp only [hrun, hj]
  exact if_pos h

/-- A stroke that leaves its windows faults its job (04 R129). -/
theorem runWork_faults {whole : Bool} {now : Nat} (hstall : (r.now whole).any (View.stalls (s.view j c)) = false)
    (h : (runOps j c now (r.now whole) s).2 = false) :
    s.runWork c now whole = ((runOps j c now (r.now whole) s).1.tearDown r.job 129, false) := by
  unfold Run.now at *
  unfold State.runWork
  simp only [hrun, hj, hstall, Bool.false_eq_true, if_false]
  split
  · next hu => rw [hu]
  · next hu => rw [hu] at h; cases h

/-- What a stroke computes is put in place, and the rest of its work is left to it. -/
theorem runWork_goes {whole : Bool} {now : Nat} (hstall : (r.now whole).any (View.stalls (s.view j c)) = false)
    (h : (runOps j c now (r.now whole) s).2 = true) :
    s.runWork c now whole =
      ((runOps j c now (r.now whole) s).1.setCore c { (runOps j c now (r.now whole) s).1.core c with running := some (r.later whole) }, true) := by
  unfold Run.now at *
  unfold State.runWork
  simp only [hrun, hj, hstall, Bool.false_eq_true, if_false]
  split
  · next hu => rw [hu] at h; cases h
  · next hu => rw [hu]; rfl

/-- Of a stroke that goes on, only what its operations write has changed, and its core's record of the work left. -/
theorem runWork_ran {whole : Bool} {now : Nat} {u : State} (h : s.runWork c now whole = (u, true)) : s.Ran c u := by
  cases hstall : (r.now whole).any (View.stalls (s.view j c)) with
  | true => rw [runWork_stalls hrun hj now hstall] at h; cases h
  | false =>
    cases hok : (runOps j c now (r.now whole) s).2 with
    | false => rw [runWork_faults hrun hj hstall hok] at h; cases h
    | true =>
      rw [runWork_goes hrun hj hstall hok] at h
      obtain ⟨rfl, -⟩ := Prod.mk.inj h
      obtain ⟨hh, hother, hc⟩ := runOps_worked j c now (r.now whole) s
      refine ⟨Frame.comp State.setCore_frame (by decide) (runOps_frame rfl), ?_, fun k hk => ?_, ?_⟩
      · show (runOps j c now (r.now whole) s).1.hatch.signals = s.hatch.signals
        rw [hh]
      · rw [State.core_setCore_other _ _ hk]
        exact hother k hk
      · rw [State.core_setCore, hc]

end

/-! ### Counters and waits (04 R133, R134) -/

@[simp] theorem Core.counter_setCounter (x : Core) (p : Nat) (ctr : Counter) (n : Nat) : (x.setCounter p ctr n).counter p ctr = n := by
  cases ctr <;> simp [Core.counter, Core.setCounter, tabGet_tabSet_same]

@[simp] theorem Core.setCounter_waiting (x : Core) (p : Nat) (ctr : Counter) (n : Nat) : (x.setCounter p ctr n).waiting = x.waiting := by
  cases ctr <;> rfl

@[simp] theorem Core.setCounter_signalsSent (x : Core) (p : Nat) (ctr : Counter) (n : Nat) :
    (x.setCounter p ctr n).signalsSent = x.signalsSent := by
  cases ctr <;> rfl

theorem Core.counter_congr {x y : Core} (h : y.pairs = x.pairs) (p : Nat) (ctr : Counter) : y.counter p ctr = x.counter p ctr := by
  unfold Core.counter
  rw [h]

/-- A core whose stroke waits for a counter. -/
def Core.waitFor (x : Core) (p : Nat) (ctr : Counter) (n at_ : Nat) : Core := { x with waiting := some (p, ctr, n), since := some at_ }

theorem resumeWait_none {x : Core} (h : x.waiting = none) : resumeWait x = x := by
  rw [resumeWait, h]

/-- A wait whose counter holds what it waits for takes it. -/
theorem resumeWait_met {x : Core} {p n : Nat} {ctr : Counter} (h : x.waiting = some (p, ctr, n)) (hn : n ≤ x.counter p ctr) :
    resumeWait x = { x.setCounter p ctr (x.counter p ctr - n) with waiting := none, since := none, waitsDone := x.waitsDone + 1 } := by
  rw [resumeWait, h]
  exact if_pos hn

theorem resumeWait_unmet {x : Core} {p n : Nat} {ctr : Counter} (h : x.waiting = some (p, ctr, n)) (hn : x.counter p ctr < n) :
    resumeWait x = x := by
  rw [resumeWait, h]
  exact if_neg (Nat.not_le.mpr hn)

/-! ### A signal at a counter (04 R134 to R136) -/

/-- The remote signals on their way, in the order sent. -/
def State.onTheWay (s : State) (sent : List RemoteSig) : State := { s with hatch := { s.hatch with signals := sent } }

theorem State.onTheWay_frame (s : State) (sent : List RemoteSig) : Frame [.hatch] s (s.onTheWay sent) := by
  intro b hb
  cases b with | hatch => exact absurd (by decide) hb | _ => rfl

theorem State.core_onTheWay (s : State) (sent : List RemoteSig) (c : Nat) : (s.onTheWay sent).core c = s.core c := rfl

theorem State.job_congr {s t : State} (h : t.jobs = s.jobs) : t.job = s.job := by
  funext i
  rw [State.job, h]
  rfl

theorem pairOwner_congr {s t : State} {c : Nat} (hjobs : t.jobs = s.jobs) (hcore : (t.core c).jobs = (s.core c).jobs) (p : Nat) :
    t.pairOwner c p = s.pairOwner c p := by
  rw [State.pairOwner, State.coreJobs, hcore, State.job_congr hjobs]
  rfl

/-- A signal that the counter can hold is added, and the pending wait is tested behind it. -/
theorem signal_adds {s : State} {c p n : Nat} {ctr : Counter} {j : Job} (hown : s.pairOwner c p = some j)
    (hn : (s.core c).counter p ctr + n ≤ 4095) :
    s.signal c p ctr n = s.setCore c (resumeWait ((s.core c).setCounter p ctr ((s.core c).counter p ctr + n))) := by
  rw [State.signal, hown]
  exact if_neg (Nat.not_lt.mpr hn)

/-- A signal that the counter cannot hold faults the job of the pair. -/
theorem signal_overflows {s : State} {c p n : Nat} {ctr : Counter} {j : Job} (hown : s.pairOwner c p = some j)
    (hn : 4095 < (s.core c).counter p ctr + n) : s.signal c p ctr n = s.tearDown j.id 136 := by
  rw [State.signal, hown]
  exact if_pos hn

/-! ### SIGNAL and WAIT of a running stroke (04 R134) -/

/-- A core whose stroke has signalled once more (18 R556). -/
def State.countSignal (s : State) (c : Nat) : State := s.setCore c { s.core c with signalsSent := (s.core c).signalsSent + 1 }

theorem State.core_countSignal (s : State) (c : Nat) :
    (s.countSignal c).core c = { s.core c with signalsSent := (s.core c).signalsSent + 1 } := State.core_setCore ..

theorem State.core_countSignal_other (s : State) {c k : Nat} (h : k ≠ c) : (s.countSignal c).core k = s.core k :=
  State.core_setCore_other _ _ h

section

variable {s u : State} {c : Nat} (hran : s.Ran c u)
include hran

theorem State.Ran.counter (p : Nat) (ctr : Counter) : (u.core c).counter p ctr = (s.core c).counter p ctr :=
  Core.counter_congr (by rw [hran.core]) p ctr

theorem State.Ran.counter_countSignal (p : Nat) (ctr : Counter) : ((u.countSignal c).core c).counter p ctr = (s.core c).counter p ctr := by
  rw [State.core_countSignal]
  exact hran.counter p ctr

theorem State.Ran.pairOwner (p : Nat) : (u.countSignal c).pairOwner c p = s.pairOwner c p := by
  refine pairOwner_congr (s := s) (t := u.countSignal c) (hran.frame .jobs (by decide)) ?_ p
  rw [State.core_countSignal, hran.core]

theorem State.Ran.countSignal_frame : Frame [.streams, .hatch, .cnt] s (u.countSignal c) :=
  Frame.comp State.setCore_frame (by decide) hran.frame

/-- A signal to the stroke's own core is added where the counter can hold it. -/
theorem State.Ran.signal_adds {p n : Nat} {ctr : Counter} {j : Job} (hwait : (s.core c).waiting = none)
    (hown : s.pairOwner c p = some j) (hle : (s.core c).counter p ctr + n ≤ 4095) :
    (u.countSignal c).signal c p ctr n =
      (u.countSignal c).setCore c (((u.countSignal c).core c).setCounter p ctr ((s.core c).counter p ctr + n)) := by
  have hcount := hran.counter_countSignal p ctr
  rw [Machine.signal_adds (hran.pairOwner p ▸ hown) (hcount ▸ hle), hcount, resumeWait_none]
  rw [Core.setCounter_waiting, State.core_countSignal, hran.core]
  exact hwait

end

section

variable {s u : State} {c n : Nat} {r : Run} {j : Job} (hrun : (s.core c).running = some r) (hj : s.job r.job = some j)
  (hwait : (s.core c).waiting = none) (hfault : (s.core c).faulted = false) (h1 : 1 ≤ n) (h255 : n ≤ 255)
  (hwork : s.runWork c s.tb.sub false = (u, true))
include hrun hj hwait hfault h1 h255 hwork

/-- A stroke's signal to its own core, its work so far in place, reaches the counter. -/
theorem execSignal_own {pair p : Nat} (ctr : Counter) (hc : c ∈ j.cores) (hp : j.pair c pair = some p) :
    exec (.signal c pair ctr n c) s = .next ((u.countSignal c).signal c p ctr n) := by
  show execSignal c pair ctr n c s = _
  unfold execSignal
  simp only [hrun, hj, Option.bind_some, hp, hwork]
  rw [if_neg (by simp [hwait, hfault, hc]; omega), if_pos trivial]
  rfl

/-- A stroke's signal to another core, its work so far in place, is sent behind those before it. -/
theorem execSignal_sends {d pair p : Nat} (ctr : Counter) (hd : d ∈ j.cores) (hdc : d ≠ c) (hp : j.pair d pair = some p) :
    exec (.signal c pair ctr n d) s = .next ((u.countSignal c).onTheWay (s.hatch.signals ++ [⟨c, d, p, ctr, n, s.tb.sub⟩])) := by
  have hran := runWork_ran hrun hj hwork
  show execSignal c pair ctr n d s = _
  unfold execSignal
  simp only [hrun, hj, Option.bind_some, hp, hwork]
  rw [if_neg (by simp [hwait, hfault, hd]; omega), if_neg hdc, ← hran.signals, ← show u.tb = s.tb from hran.frame .tb (by decide)]
  rfl

/-- A stroke's wait, its work so far in place, is tested at once. -/
theorem execWait_tests {pair p : Nat} (ctr : Counter) (hp : j.pair c pair = some p) :
    exec (.wait c pair ctr n) s =
      .next (u.setCore c (resumeWait ((u.core c).waitFor p ctr n s.tb.sub))) := by
  have hran := runWork_ran hrun hj hwork
  show execWait c pair ctr n s = _
  unfold execWait
  simp only [hrun, hj, Option.bind_some, hp, hwork]
  rw [if_neg (by simp [hwait, hfault]; omega), show u.tb = s.tb from hran.frame .tb (by decide)]
  rfl

end

/-! ### Remote signals and waits that last too long (04 R137, R138; 09 R291) -/

theorem execRemoteSignal_applies {s : State} {a b : Nat} {g : RemoteSig} {rest : List RemoteSig}
    (htake : takeSignal a b s.hatch.signals = some (g, rest)) (hfault : (s.core b).faulted = false)
    (hwrites : s.writesPending a b g.at_ = false) :
    exec (.remoteSignal a b) s =
      .next ((s.onTheWay rest).signal b g.pair g.ctr g.n) := by
  show execRemoteSignal a b s = _
  unfold execRemoteSignal
  simp only [htake]
  rw [if_neg (by simp [hfault, hwrites])]
  rfl

theorem execRemoteSignal_held {s : State} {a b : Nat} {g : RemoteSig} {rest : List RemoteSig}
    (htake : takeSignal a b s.hatch.signals = some (g, rest)) (hwrites : s.writesPending a b g.at_ = true) :
    exec (.remoteSignal a b) s = .next s := by
  show execRemoteSignal a b s = _
  unfold execRemoteSignal
  simp only [htake]
  rw [if_pos (by simp [hwrites])]

/-- A stroke's wait that has stalled for 4 Frames faults its job (04 R138). -/
theorem execWaitTimeout_stroke {s : State} {c : Nat} {r : Run} (hrun : (s.core c).running = some r)
    (hwait : (s.core c).waiting.isSome = true) (hstall : s.stalled (s.core c).since = true) :
    exec (.waitTimeout c) s = .next (s.tearDown r.job 138) := by
  show execWaitTimeout c s = _
  unfold execWaitTimeout
  simp only [hrun, hwait, hstall, Bool.and_self, if_true]

/-- Without such a wait, the lists that an engine has stalled for as long fault their jobs (09 R291). -/
theorem execWaitTimeout_lists {s : State} {c : Nat}
    (h : (s.core c).running = none ∨ (s.core c).waiting = none ∨ s.stalled (s.core c).since = false) :
    exec (.waitTimeout c) s = .next ((s.overdue c .tracer ++ s.overdue c .scriber).foldl (fun s id => s.tearDown id 291) s) := by
  show execWaitTimeout c s = _
  unfold execWaitTimeout
  cases hrun : (s.core c).running with
  | none => simp only [hrun]
  | some r =>
    simp only [hrun]
    obtain h | h | h := h
    · rw [hrun] at h
      cases h
    · rw [if_neg (by simp [h])]
    · rw [if_neg (by simp [h])]

theorem mem_overdue {s : State} {c id : Nat} {eng : Engine} : id ∈ s.overdue c eng ↔
    ∃ w at_ j, (id, w, at_) ∈ ((s.core c).engine eng).since ∧ at_ + 4 * s.frameSubs ≤ s.tb.sub ∧ s.job id = some j ∧ j.state = .bound ∧
      s.listWaits j c eng w = true := by
  simp only [State.overdue, State.stalled, List.mem_map, List.mem_filter, Bool.and_eq_true, Option.any_some, decide_eq_true_eq,
    Option.any_eq_true, beq_iff_eq]
  constructor
  · rintro ⟨⟨i, w, at_⟩, ⟨hmem, hlate, j, hj, hbound, hwaits⟩, rfl⟩
    exact ⟨w, at_, j, hmem, hlate, hj, hbound, hwaits⟩
  · rintro ⟨w, at_, j, hmem, hlate, hj, hbound, hwaits⟩
    exact ⟨(id, w, at_), ⟨hmem, hlate, j, hj, hbound, hwaits⟩, rfl⟩

/-- Settles O33: a semaphore operation by what its core's counter holds, behind the stroke's work; a remote signal as it arrives; a wait by
the time it has stalled. -/
theorem semaphores : Obligations.Semaphores := by
  refine ⟨fun c pair n p ctr r j u s hrun hj hp hwait hfault h1 h255 hwork => ⟨fun hc hown hle => ?_, fun hc hown hlt => ?_,
      fun d q hd hdc hq => ?_, fun hn => ?_, fun hn => ?_⟩,
    fun a b g rest j s htake hfault hown hwrites => ⟨fun hle hwait => ?_, fun m hle hwait hm => ?_, fun hlt => ?_⟩,
    fun a b g rest s htake hwrites => execRemoteSignal_held htake hwrites,
    fun c r at_ s hrun hwait hsince hlate => execWaitTimeout_stroke hrun hwait (by simpa [hsince, State.stalled] using hlate),
    fun c s hnone => execWaitTimeout_lists hnone, fun c id eng s => mem_overdue⟩
  · have hran := runWork_ran hrun hj hwork
    have ht := execSignal_own hrun hj hwait hfault h1 h255 hwork ctr hc hp
    rw [hran.signal_adds hwait hown hle] at ht
    refine ⟨_, ht, ?_, ?_, fun k hk => ?_, rfl, rfl, rfl, Frame.comp State.setCore_frame (by decide) hran.countSignal_frame⟩
    · rw [State.core_setCore, Core.counter_setCounter]
    · rw [State.core_setCore, Core.setCounter_signalsSent, State.core_countSignal, hran.core]
    · rw [State.core_setCore_other _ _ hk, State.core_countSignal_other _ hk]
  · have hran := runWork_ran hrun hj hwork
    rw [execSignal_own hrun hj hwait hfault h1 h255 hwork ctr hc hp,
      signal_overflows (hran.pairOwner p ▸ hown) (hran.counter_countSignal p ctr ▸ hlt)]
    rfl
  · have hran := runWork_ran hrun hj hwork
    refine ⟨_, execSignal_sends hrun hj hwait hfault h1 h255 hwork ctr hd hdc hq, rfl, ?_, ?_, fun k => State.core_countSignal_other u, rfl,
      rfl, rfl, Frame.comp (M := [.hatch]) (State.onTheWay_frame _ _) (by decide) hran.countSignal_frame⟩
    · exact (congrArg Core.signalsSent (State.core_countSignal u c)).trans (by rw [hran.core])
    · exact (congrArg Core.pairs (State.core_countSignal u c)).trans (by rw [hran.core])
  · have hran := runWork_ran hrun hj hwork
    have hcount := hran.counter p ctr
    have ht := execWait_tests hrun hj hwait hfault h1 h255 hwork ctr hp
    rw [resumeWait_met rfl (show n ≤ ((u.core c).waitFor p ctr n s.tb.sub).counter p ctr from hcount ▸ hn)] at ht
    refine ⟨_, ht, ?_, ?_, ?_, fun k hk => State.core_setCore_other _ _ hk, rfl, rfl, rfl,
      Frame.comp State.setCore_frame (by decide) hran.frame⟩
    · rw [State.core_setCore]
      exact (Core.counter_setCounter ..).trans (congrArg (· - n) hcount)
    · rw [State.core_setCore]
    · rw [State.core_setCore]
      show (u.core c).waitsDone + 1 = _
      rw [hran.core]
  · have hran := runWork_ran hrun hj hwork
    rw [execWait_tests hrun hj hwait hfault h1 h255 hwork ctr hp,
      resumeWait_unmet rfl (show ((u.core c).waitFor p ctr n s.tb.sub).counter p ctr < n from hran.counter p ctr ▸ hn)]
    rfl
  · have ht := execRemoteSignal_applies htake hfault hwrites
    rw [signal_adds (s := s.onTheWay rest) hown hle, State.core_onTheWay, resumeWait_none ((Core.setCounter_waiting ..).trans hwait)] at ht
    refine ⟨_, ht, ?_, rfl, fun k hk => State.core_setCore_other _ _ hk, ?_⟩
    · rw [State.core_setCore, Core.counter_setCounter]
    · exact Frame.comp State.setCore_frame (by decide) (s.onTheWay_frame rest)
  · have ht := execRemoteSignal_applies htake hfault hwrites
    rw [signal_adds (s := s.onTheWay rest) hown hle, State.core_onTheWay, resumeWait_met ((Core.setCounter_waiting ..).trans hwait)
      (hm.trans_eq (Core.counter_setCounter ..).symm)] at ht
    refine ⟨_, ht, ?_, ?_, rfl, fun k hk => State.core_setCore_other _ _ hk, ?_⟩
    · rw [State.core_setCore]
      exact (Core.counter_setCounter ..).trans (congrArg (· - m) (Core.counter_setCounter ..))
    · rw [State.core_setCore]
    · exact Frame.comp State.setCore_frame (by decide) (s.onTheWay_frame rest)
  · rw [execRemoteSignal_applies htake hfault hwrites, signal_overflows (s := s.onTheWay rest) hown hlt]
    rfl

end Sys2Proof.Machine
end

section
/-! ### Stroke issues and safe points (04 R118, R119, R141, R142; 09 R285, R286; 11 R330, R352) -/

namespace Sys2Proof.Machine

open Sys2Proof

/-! ### The end of a job's sequence of strokes (04 R119) -/

theorem State.core_freeSlots (s : State) (job core c : Nat) : (s.freeSlots job core).hatch.core c =
    if c = core then { s.core core with slots := (s.core core).slots.filter (·.2.1 != job) } else s.hatch.core c :=
  Hatch.core_tabSet ..

/-- A job gives back slots on one core, and Plate stays. -/
theorem State.freeSlots_stored (s : State) (job core : Nat) :
    s.hatch.Stored (s.freeSlots job core).hatch ∧ (s.freeSlots job core).hatch.plate = s.hatch.plate := by
  refine ⟨⟨rfl, fun c => ?_⟩, rfl⟩
  by_cases hc : c = core
  · subst hc
    rw [State.core_freeSlots, if_pos rfl]
    rfl
  · rw [State.core_freeSlots, if_neg hc]

theorem State.endSequence_stored (s : State) (id : Nat) :
    s.hatch.Stored (s.endSequence id).hatch ∧ (s.endSequence id).hatch.plate = s.hatch.plate := by
  unfold State.endSequence
  split
  · exact ⟨.refl _, rfl⟩
  · next j _ =>
    extract_lets n ends s1 k
    show s.hatch.Stored s1.hatch ∧ s1.hatch.plate = s.hatch.plate
    unfold s1
    split
    · refine List.foldlRecOn (motive := fun t : State => s.hatch.Stored t.hatch ∧ t.hatch.plate = s.hatch.plate) _ _ ⟨.refl _, rfl⟩ ?_
      intro t ht c _
      obtain ⟨hstored, hplate⟩ := t.freeSlots_stored id c
      exact ⟨ht.1.trans hstored, hplate.trans ht.2⟩
    · exact ⟨.refl _, rfl⟩

theorem State.job_setJob_of_id (s : State) {x : Job} {id : Nat} (h : x.id = id) : (s.setJob x).job id = some x :=
  h ▸ State.job_setJob s x

section

variable {s : State} {id : Nat} {j : Job} (hj : s.job id = some j)
include hj

theorem State.endSequence_job : ∃ k, (s.endSequence id).job id = some k ∧ k.account = j.account ∧
    (k.workFrame = j.workFrame ∨ k.workFrame = j.workFrame + 1) := by
  have hid : j.id = id := s.job_id hj
  unfold State.endSequence
  simp only [hj]
  split
  · exact ⟨_, State.job_setJob_of_id _ hid, rfl, .inr rfl⟩
  · exact ⟨_, State.job_setJob_of_id _ hid, rfl, .inl rfl⟩

/-- While a stroke of the sequence has still to be issued, the accumulators stay with the job. -/
theorem State.endSequence_hatch {m : Model} {i : Nat} (hm : s.model j.handle = some m) (hi : i < strokeCount (strokeImage m.image))
    (hleft : i ∉ j.issued) : (s.endSequence id).hatch = s.hatch := by
  have hends : (List.range (strokeCount (strokeImage m.image))).all j.issued.contains = false := by
    simp only [List.all_eq_false, List.mem_range]
    exact ⟨i, hi, by simpa using hleft⟩
  unfold State.endSequence
  simp only [hj, hm, Option.map_some, Option.getD_some, hends, Bool.false_and, Bool.false_eq_true, if_false]
  rfl

/-! ### What a charge reaches (11 R352) -/

theorem State.charge_job (sess : Nat) (d : Account) :
    (s.charge sess (some id) d).job id = some { j with account := j.account.charge d } := by
  have hid : j.id = id := s.job_id hj
  unfold State.charge
  simp only [Option.bind_some, hj]
  split
  · exact State.job_setJob_of_id s hid
  · exact State.job_setJob_of_id s hid

end

theorem State.charge_session {s : State} {sess : Nat} {x : Session} (h : s.session sess = some x) (job : Option Nat) (d : Account) :
    (s.charge sess job d).session sess = some { x with account := x.account.charge d } := by
  unfold State.charge
  extract_lets s1
  have hs1 : s1.session sess = some x := by
    unfold s1
    split
    · exact h
    · exact h
  rw [hs1]
  exact tabGet_tabSet_same ..

theorem State.session_congr {s t : State} (h : t.sessions = s.sessions) : t.session = s.session := by
  funext n
  rw [State.session, h]
  rfl

theorem State.model_congr {s t : State} (h : t.models = s.models) : t.model = s.model := by
  funext n
  rw [State.model, h]
  rfl

/-! ### STROKE_ISSUE (04 R118, R141) -/

/-- A core on which a stroke of a job starts with its work. -/
def State.startStroke (s : State) (core job stroke : Nat) (work : List (List StrokeOp)) : State :=
  s.setCore core { s.core core with
    running := some ⟨job, stroke, strokeModes work.flatten, work⟩
    waitsDone := 0
    signalsSent := 0 }

theorem State.core_startStroke (s : State) (core job stroke : Nat) (work : List (List StrokeOp)) :
    (s.startStroke core job stroke work).core core =
      { s.core core with running := some ⟨job, stroke, strokeModes work.flatten, work⟩, waitsDone := 0, signalsSent := 0 } :=
  State.core_setCore ..

/-- The counts of a stroke's issue, and that Fill ran. -/
def State.countIssue (s : State) (core : Nat) (fill earlier : Bool) : State :=
  let f := EvScope.field (coreField core)
  let s := s.bump 0x019 1 f
  let s := if !fill && earlier then s.bump 0x01A 1 f else s
  if fill then ({ s with pwr := { s.pwr with fillRan := true } }).bump 0x01B 1 f else s

theorem State.countIssue_frame (s : State) (core : Nat) (fill earlier : Bool) : Frame [.pwr, .cnt] s (s.countIssue core fill earlier) := by
  cases fill <;> cases earlier <;> exact fun b hb => by cases b with | pwr | cnt => exact absurd (by decide) hb | _ => rfl

theorem State.countIssue_pwr (s : State) (core : Nat) (fill earlier : Bool) :
    (s.countIssue core fill earlier).pwr = { s.pwr with fillRan := s.pwr.fillRan || fill } := by
  cases fill
  · rw [Bool.or_false]
    cases earlier <;> rfl
  · rw [Bool.or_true]
    rfl

/-- A stroke that may be issued starts, and its job lists it. -/
theorem execStrokeIssue_issues {s : State} {core job stroke : Nat} {j : Job} (hj : s.job job = some j) (hmay : s.mayIssue core j stroke = true) :
    ∃ earlier work, exec (.strokeIssue (coreField core) core job stroke) s =
      .next (((s.countIssue core j.fill earlier).startStroke core job stroke (s.strokeWork j core stroke)).setJob
        { j with issued := j.issued ++ [stroke], work := work, lastRan := s.tb.frameOrd }) := by
  let earlier := (s.listedBefore core job).any fun l => !s.jobRan l
  have htb : (s.countIssue core j.fill earlier).tb = s.tb := s.countIssue_frame core j.fill earlier .tb (by decide)
  refine ⟨earlier, if j.issued.isEmpty then (j.plans.headD []).map fun r => (r.stream, r.first) else j.work, ?_⟩
  rw [← htb]
  show execStrokeIssue (coreField core) core job stroke s = _
  unfold execStrokeIssue
  refine congrArg Host.Outcome.next ?_
  rw [hj]
  exact if_neg (by simp [hmay])

theorem execStrokeIssue_refuses {s : State} {field core job stroke : Nat}
    (h : field ≠ coreField core ∨ ∀ j, s.job job = some j → s.mayIssue core j stroke = false) :
    exec (.strokeIssue field core job stroke) s = .next s := by
  show execStrokeIssue field core job stroke s = _
  unfold execStrokeIssue
  refine congrArg Host.Outcome.next ?_
  split
  · rfl
  · next j hj =>
    refine if_pos ?_
    obtain h | h := h
    · simp [h]
    · simp [h j hj]

/-! ### SAFE_POINT (04 R118, R142) -/

/-- What a stroke's passes cost, each in its mode (11 R352). -/
def Run.spent (r : Run) (cycles : List Nat) : Account := { Account.zero with
  hatch4 := cyclesIn 0 r.modes cycles
  hatch8 := cyclesIn 1 r.modes cycles
  hatchF := cyclesIn 2 r.modes cycles }

/-- The counts of a stroke that ends: its passes, each in its mode, and the errors that its reads corrected. -/
def State.countStroke (s : State) (core : Nat) (a : Account) (corrected : Nat) : State :=
  let f := EvScope.field (coreField core)
  ((((s.bump 0x010 (a.hatch4 + a.hatch8 + a.hatchF) f).bump 0x011 a.hatch4 f).bump 0x012 a.hatch8 f).bump 0x013 a.hatchF f).bump 0x01D corrected f

theorem State.countStroke_frame (s : State) (core : Nat) (a : Account) (corrected : Nat) : Frame [.cnt] s (s.countStroke core a corrected) :=
  Frame.comp State.bump_frame (by decide) (Frame.comp State.bump_frame (by decide) (Frame.comp State.bump_frame (by decide)
    (Frame.comp State.bump_frame (by decide) State.bump_frame)))

theorem State.countStroke_job (s : State) (core : Nat) (a : Account) (corrected id : Nat) :
    (s.countStroke core a corrected).job id = s.job id := by
  simp only [State.job, State.countStroke, State.bump_jobs]

theorem State.countStroke_session (s : State) (core : Nat) (a : Account) (corrected n : Nat) :
    (s.countStroke core a corrected).session n = s.session n := by
  simp only [State.countStroke, State.session_bump]

/-- What a stroke has cost, charged to its job and the job's session. -/
def State.chargeStroke (s : State) (id : Nat) (a : Account) : State :=
  match s.job id with
  | some j => s.charge j.session (some id) a
  | none => s

theorem State.chargeStroke_eq {s : State} {id : Nat} {j : Job} (a : Account) (hj : s.job id = some j) :
    s.chargeStroke id a = s.charge j.session (some id) a := by
  rw [State.chargeStroke, hj]

/-- A core whose stroke has ended. -/
def State.strokeDone (s : State) (core : Nat) : State := s.setCore core { s.core core with running := none }

/-- A stroke's end, whatever the core's record of the work left. -/
theorem State.strokeDone_setCore (s : State) (core : Nat) (run : Option Run) :
    (s.setCore core { s.core core with running := run }).strokeDone core = s.strokeDone core := by
  rw [State.strokeDone, State.core_setCore, State.setCore_setCore]
  rfl

theorem State.core_strokeDone (s : State) (core : Nat) : (s.strokeDone core).core core = { s.core core with running := none } :=
  State.core_setCore ..

theorem State.core_strokeDone_other (s : State) {core c : Nat} (h : c ≠ core) : (s.strokeDone core).core c = s.core c :=
  State.core_setCore_other _ _ h

/-- What a stroke's end leaves for its job's sequence: it is counted and charged, and its core is free. -/
def State.afterStroke (s : State) (core sess : Nat) (r : Run) (cycles : List Nat) (corrected : Nat) : State :=
  ((s.countStroke core (r.spent cycles) corrected).charge sess (some r.job) (r.spent cycles)).strokeDone core

section

variable (s : State) (core sess : Nat) (r : Run) (cycles : List Nat) (corrected : Nat)

theorem State.afterStroke_frame :
    Frame [.sessions, .jobs, .hatch, .cnt, .tallies] s (s.afterStroke core sess r cycles corrected) :=
  Frame.comp State.setCore_frame (by decide) (Frame.comp State.charge_frame (by decide) (Frame.comp (M := [.cnt])
    (s.countStroke_frame core (r.spent cycles) corrected) (by decide) .refl))

/-- Of Hatch, a stroke's end changes its core's record of the stroke. -/
theorem State.afterStroke_hatch : (s.afterStroke core sess r cycles corrected).hatch = (s.strokeDone core).hatch := by
  have hz : ((s.countStroke core (r.spent cycles) corrected).charge sess (some r.job) (r.spent cycles)).hatch = s.hatch :=
    (State.charge_hatch ..).trans (s.countStroke_frame core (r.spent cycles) corrected .hatch (by decide))
  unfold State.afterStroke State.strokeDone State.setCore State.core
  rw [hz]

theorem State.afterStroke_hatch_setCore (run : Option Run) :
    ((s.setCore core { s.core core with running := run }).afterStroke core sess r cycles corrected).hatch = (s.strokeDone core).hatch :=
  (State.afterStroke_hatch ..).trans (congrArg State.hatch (s.strokeDone_setCore core run))

theorem State.afterStroke_job {j : Job} (hj : s.job r.job = some j) :
    (s.afterStroke core sess r cycles corrected).job r.job = some { j with account := j.account.charge (r.spent cycles) } :=
  State.charge_job ((s.countStroke_job ..).trans hj) sess _

theorem State.afterStroke_session {x : Session} (hx : s.session sess = some x) :
    (s.afterStroke core sess r cycles corrected).session sess = some { x with account := x.account.charge (r.spent cycles) } :=
  State.charge_session ((s.countStroke_session ..).trans hx) _ _

end

section

variable {s u : State} {core at_ corrected : Nat} {cycles : List Nat} {r : Run} {j : Job} (hrun : (s.core core).running = some r)
  (hwait : (s.core core).waiting = none) (hfault : (s.core core).faulted = false)
include hrun hwait hfault

/-- A stroke whose work does not go on keeps its core. -/
theorem execSafePoint_stays (hwork : s.runWork core (s.tb.frameAt + at_) true = (u, false)) :
    exec (.safePoint core ⟨at_, cycles, corrected⟩) s = .next u := by
  show execSafePoint core ⟨at_, cycles, corrected⟩ s = _
  unfold execSafePoint
  simp only [hrun, hwait, hfault, hwork, Option.isSome_none, Bool.or_self, Bool.false_eq_true, if_false]

/-- A stroke whose work is done ends: it is counted and charged, and its core is free. -/
theorem execSafePoint_ends (hwork : s.runWork core (s.tb.frameAt + at_) true = (u, true)) (hj : u.job r.job = some j) :
    exec (.safePoint core ⟨at_, cycles, corrected⟩) s =
      .next ((u.afterStroke core j.session r cycles corrected).endSequence r.job) := by
  show execSafePoint core ⟨at_, cycles, corrected⟩ s = _
  unfold execSafePoint
  have hjob := (u.countStroke_job core (r.spent cycles) corrected r.job).trans hj
  rw [State.afterStroke, ← State.chargeStroke_eq _ hjob]
  refine congrArg Host.Outcome.next ?_
  extract_lets x
  rw [show x.running = some r from hrun]
  refine (if_neg (by simp [x, hwait, hfault])).trans ?_
  rw [hwork]
  rfl

end

/-- A stroke that does the rest of its work ends: what its operations wrote stays, its core is free, and its job and session are charged. -/
theorem execSafePoint_ended {s : State} {core at_ corrected : Nat} {cycles : List Nat} {r : Run} {j : Job}
    (hrun : (s.core core).running = some r) (hwait : (s.core core).waiting = none) (hfault : (s.core core).faulted = false)
    (hj : s.job r.job = some j) (hstall : r.work.flatten.any (View.stalls (s.view j core)) = false)
    (hok : (runOps j core (s.tb.frameAt + at_) r.work.flatten s).2 = true) :
    ∃ w, exec (.safePoint core ⟨at_, cycles, corrected⟩) s = .next (w.endSequence r.job) ∧
      w.hatch = ((runOps j core (s.tb.frameAt + at_) r.work.flatten s).1.strokeDone core).hatch ∧
      w.streams = (runOps j core (s.tb.frameAt + at_) r.work.flatten s).1.streams ∧
      w.job r.job = some { j with account := j.account.charge (r.spent cycles) } ∧
      (∀ x, s.session j.session = some x → w.session j.session = some { x with account := x.account.charge (r.spent cycles) }) ∧
      w.model = s.model ∧ Frame [.sessions, .streams, .jobs, .hatch, .cnt, .tallies] s w := by
  have hwork := runWork_goes (whole := true) hrun hj hstall hok
  have hran := (runWork_ran hrun hj hwork).frame
  have hjob := (congrFun (State.job_congr (hran .jobs (by decide))) r.job).trans hj
  have hafter (u : State) := u.afterStroke_frame core j.session r cycles corrected
  refine ⟨_, execSafePoint_ends hrun hwait hfault hwork hjob, State.afterStroke_hatch_setCore .., hafter _ .streams (by decide),
    State.afterStroke_job _ core j.session r cycles corrected hjob,
    fun x hx => State.afterStroke_session _ core j.session r cycles corrected ?_,
    State.model_congr ((hafter _ .models (by decide)).trans (hran .models (by decide))),
    Frame.comp (hafter _) (by decide) (hran.mono (by decide))⟩
  exact (congrFun (State.session_congr (hran .sessions (by decide))) _).trans hx

/-- A core that runs no stroke, or whose stroke waits, or that is stopped, has no safe point. -/
theorem execSafePoint_idle {s : State} {core : Nat} {report : StrokeEnd}
    (h : (s.core core).running = none ∨ (s.core core).waiting.isSome = true ∨ (s.core core).faulted = true) :
    exec (.safePoint core report) s = .next s := by
  show execSafePoint core report s = _
  unfold execSafePoint
  cases hrun : (s.core core).running with
  | none => simp only [hrun]
  | some r =>
    simp only [hrun]
    rw [if_pos]
    obtain h | h | h := h
    · rw [hrun] at h
      cases h
    · simp [h]
    · simp [h]

/-- Settles O31: what an issue starts, what it leaves, and by what a stroke's work and its core's state say whether the stroke ends. -/
theorem strokeIssuesAndSafePoints : Obligations.StrokeIssuesAndSafePoints := by
  refine ⟨fun core job stroke j s hj hmay => ?_, fun field core job stroke s h => execStrokeIssue_refuses h,
    fun core at_ corrected cycles r j s hrun hwait hfault hj => ⟨fun hstall hok => ?_, fun hstall hok => ?_, fun hstall => ?_⟩,
    fun core at_ corrected cycles s h => execSafePoint_idle h⟩
  · obtain ⟨earlier, work, ht⟩ := execStrokeIssue_issues hj hmay
    have hframe := s.countIssue_frame core j.fill earlier
    have hhatch : (s.countIssue core j.fill earlier).hatch = s.hatch := hframe .hatch (by decide)
    have hstart := (s.countIssue core j.fill earlier).core_startStroke core job stroke (s.strokeWork j core stroke)
    have hplate := congrArg Hatch.plate hhatch
    have hacc := congrArg Hatch.acc hhatch
    have hid : j.id = job := s.job_id hj
    refine ⟨_, ht, congrArg Core.running hstart, congrArg Core.waitsDone hstart, congrArg Core.signalsSent hstart, fun c hc => ?_,
      hplate, hacc, ⟨_, State.job_setJob_of_id _ hid, rfl, rfl⟩, fun i hi => ?_,
      s.countIssue_pwr core j.fill earlier,
      Frame.comp State.setJob_frame (by decide) (Frame.comp State.setCore_frame (by decide) (Frame.comp hframe (by decide) .refl))⟩
    · exact (State.core_setCore_other _ _ hc).trans (congrArg (Hatch.core · c) hhatch)
    · exact (State.job_setJob_other _ _ (hid.symm ▸ hi)).trans (congrFun (State.job_congr (hframe .jobs (by decide))) i)
  · obtain ⟨-, hother, -⟩ := runOps_worked j core (s.tb.frameAt + at_) r.work.flatten s
    obtain ⟨w, ht, hhatch, hstreams, hjob, hsession, hmodel, hframe⟩ :=
      execSafePoint_ended (cycles := cycles) (corrected := corrected) hrun hwait hfault hj hstall hok
    generalize (runOps j core (s.tb.frameAt + at_) r.work.flatten s).1 = v at *
    have hw : w.core core = { v.core core with running := none } := (congrArg (Hatch.core · core) hhatch).trans (v.core_strokeDone core)
    have hwother c (hc : c ≠ core) : w.core c = v.core c := (congrArg (Hatch.core · c) hhatch).trans (v.core_strokeDone_other hc)
    have hwplate := congrArg Hatch.plate hhatch
    have hwacc := congrArg Hatch.acc hhatch
    obtain ⟨⟨-, hslots⟩, hplate⟩ := w.endSequence_stored r.job
    obtain ⟨k, hk, haccount, hwork⟩ := State.endSequence_job hjob
    refine ⟨_, ht, ?_, fun c hc => ?_, hplate.trans hwplate, ?_, fun m i hm hi hleft => ?_, ⟨k, hk, haccount, hwork⟩, fun x hx => ?_,
      Frame.comp State.endSequence_frame (by decide) hframe⟩
    · exact (congrArg Core.running (hslots core)).trans (congrArg Core.running hw)
    · refine (hslots c).trans ?_
      rw [show w.hatch.core c = v.core c from hwother c hc, hother c hc]
      rfl
    · exact (State.endSequence_frame (s := w) (id := r.job) .streams (by decide)).trans hstreams
    · have hsame := State.endSequence_hatch hjob ((congrFun hmodel _).trans hm) hi hleft
      exact ⟨(congrArg Hatch.acc hsame).trans hwacc, fun c hc => (congrArg (Hatch.core · c) hsame).trans (hwother c hc)⟩
    · have hsame := State.session_congr (State.endSequence_frame (s := w) (id := r.job) .sessions (by decide))
      exact ⟨_, (congrFun hsame _).trans (hsession x hx), rfl⟩
  · exact execSafePoint_stays hrun hwait hfault (runWork_faults (whole := true) hrun hj hstall hok)
  · exact execSafePoint_stays hrun hwait hfault (runWork_stalls (whole := true) hrun hj _ hstall)

end Sys2Proof.Machine
end

section
/-! ### A sample through a Burin unit and the output stage (07 R214 to R240, 09 R284, R289) -/

namespace Sys2Proof.Machine

open Sys2Proof

/-! ### What a change of other blocks leaves of the streams and the units -/

theorem State.stream_congr {s t : State} (h : t.streams = s.streams) : t.stream = s.stream := by
  funext n
  rw [State.stream, h]
  rfl

theorem State.unit_congr {s t : State} (h : t.burin = s.burin) : t.unit = s.unit := by
  funext n
  rw [State.unit, h]
  rfl

theorem Frame.stream {L : List Block} {s t : State} (h : Frame L s t) (hL : .streams ∉ L) : t.stream = s.stream :=
  State.stream_congr (h .streams hL)

theorem Frame.unit {L : List Block} {s t : State} (h : Frame L s t) (hL : .burin ∉ L) : t.unit = s.unit :=
  State.unit_congr (h .burin hL)

/-- A changed record of a stream is read by the number that read it before. -/
theorem State.stream_setStream_again {s : State} (t : State) {id : Nat} {x y : Stream} (hx : s.stream id = some x) (hy : y.id = x.id) :
    (t.setStream y).stream id = some y :=
  hy.trans (s.stream_id hx) ▸ t.stream_setStream y

theorem mem_of_tabGet {α : Type} {t : Tab α} {k : Nat} {v : α} (h : tabGet t k = some v) : (k, v) ∈ t := by
  induction t with
  | nil => cases h
  | cons q t ih =>
    obtain ⟨i, w⟩ := q
    rw [tabGet] at h
    split at h
    · next hk =>
      obtain rfl := Option.some.inj h
      exact hk ▸ .head _
    · exact .tail _ (ih h)

/-! ### SAMPLE_START (07 R214, R215) -/

/-- The eligible contexts of a unit, in its order of contexts. -/
def State.eligibleContexts (s : State) (u : Nat) : List (Nat × Stream × Chunk) :=
  (s.unit u).ctxs.filterMap fun k =>
    (s.stream k.2).bind fun x => if x.unit = u && x.ctx = k.1 then (s.eligible x).map fun c => (k.1, x, c) else none

/-- The next context of a unit is an eligible one of least pacing deadline. -/
theorem nextContext_eq_argmin (s : State) (u : Nat) :
    s.nextContext u = (s.eligibleContexts u).argmin fun e => s.pacing e.2.1 e.2.2 := by
  refine congrArg (List.foldl · none _) ?_
  funext best e
  cases best with
  | none => rfl
  | some b => rfl

theorem mem_eligibleContexts {s : State} {u : Nat} {y : Stream} {d : Chunk} (hy : s.stream y.id = some y) (hd : s.eligible y = some d)
    (hu : y.unit = u) (hctx : tabGet (s.unit u).ctxs y.ctx = some y.id) : (y.ctx, y, d) ∈ s.eligibleContexts u :=
  List.mem_filterMap.mpr ⟨_, mem_of_tabGet hctx, by simp [hy, hd, hu]⟩

/-- No eligible context of a unit has an earlier pacing deadline than the next one. -/
theorem nextContext_earliest {s : State} {u k : Nat} {x y : Stream} {c d : Chunk} (hnext : s.nextContext u = some (k, x, c))
    (hy : s.stream y.id = some y) (hd : s.eligible y = some d) (hu : y.unit = u) (hctx : tabGet (s.unit u).ctxs y.ctx = some y.id) :
    s.pacing x c ≤ s.pacing y d :=
  List.le_of_mem_argmin (mem_eligibleContexts hy hd hu hctx) (nextContext_eq_argmin s u ▸ hnext)

/-- The counts of a head's clamp and of its flag (07 R229). -/
def State.countHead (s : State) (u : Nat) (r : HeadOut) : State :=
  let f := EvScope.field (u / 8)
  let s := if r.clamp then s.bump 0x043 1 f else s
  if r.flag then s.bump 0x017 1 f else s

theorem execSampleStart_starts {s : State} {u k : Nat} {x : Stream} {c : Chunk} {r : HeadOut} (hready : s.boot.phase = .ready)
    (hserves : s.unitServes u = true) (hidle : (s.unit u).busy = none) (hnext : s.nextContext u = some (k, x, c))
    (hr : (s.fetchCond u).computeSample x c = some r) :
    exec (.sampleStart u) s = .next ((((s.fetchCond u).countHead u r).setUnit u { (s.fetchCond u).unit u with busy := some k }).setStream
      { x with current := some (x.headAt, r.x, r.head) }) := by
  refine congrArg Host.Outcome.next ?_
  rw [if_neg (by simp [hready, hserves, hidle]), hnext]
  simp only [hr]
  rfl

theorem execSampleStart_waits {s : State} {u : Nat} (hnext : s.nextContext u = none) : exec (.sampleStart u) s = .next s := by
  refine congrArg Host.Outcome.next ?_
  rw [hnext]
  exact ite_self _

/-! ### SAMPLE_HAND_OFF (07 R229, R230, R240) -/

/-- Two states of a stream agree on its head and on what it has handed off. -/
structure Stream.SameHead (x y : Stream) : Prop where
  id : y.id = x.id
  head : y.head = x.head
  headAt : y.headAt = x.headAt
  handed : y.handed = x.handed
  current : y.current = x.current
  staged : y.staged = x.staged
  records : y.records = x.records

theorem Stream.SameHead.trans {x y z : Stream} (a : x.SameHead y) (b : y.SameHead z) : x.SameHead z :=
  ⟨b.id.trans a.id, b.head.trans a.head, b.headAt.trans a.headAt, b.handed.trans a.handed, b.current.trans a.current,
    b.staged.trans a.staged, b.records.trans a.records⟩

theorem ripen_sameHead (x : Stream) : x.SameHead x.ripen := by
  unfold Stream.ripen
  split
  · exact ⟨rfl, rfl, rfl, rfl, rfl, rfl, rfl⟩
  · exact ⟨rfl, rfl, rfl, rfl, rfl, rfl, rfl⟩

theorem ripen_phase (x : Stream) : x.ripen.phase = x.phase := by
  unfold Stream.ripen
  split
  · rfl
  · rfl

/-- A stream that is sent to a Transfer's destination leaves the plan, and nothing of its head changes. -/
theorem trySend_stream {s : State} {id : Nat} {x : Stream} (h : s.stream id = some x) :
    ∃ y, (s.trySend id).stream id = some y ∧ x.SameHead y ∧ y.phase = x.phase := by
  have hkept : ∃ y, s.stream id = some y ∧ x.SameHead y ∧ y.phase = x.phase := ⟨x, h, ⟨rfl, rfl, rfl, rfl, rfl, rfl, rfl⟩, rfl⟩
  unfold State.trySend
  split
  · next t z _ hz =>
    obtain rfl : x = z := Option.some.inj (h.symm.trans hz)
    split
    · split
      · exact hkept
      · extract_lets b port s1
        refine ⟨{ x with left := true, missed := false }, ?_, ⟨rfl, rfl, rfl, rfl, rfl, rfl, rfl⟩, rfl⟩
        rw [State.stream_bump, State.stream_charge, State.stream_send]
        exact State.stream_setStream_again s h rfl
    · exact hkept
  · exact hkept

/-- The last sample of a chunk leaves its stream's head as the hand-off left it; at an end mark the stream goes idle (01 R36). -/
theorem finishChunk_stream (s : State) (x : Stream) (c : Chunk) (now : Nat) :
    ∃ y, (s.finishChunk x c now).stream x.id = some y ∧ x.SameHead y ∧ (c.ends = true → x.phase = .rendering → y.phase = .idle) := by
  unfold State.finishChunk
  extract_lets m s1 next ends w seqs s2 ripe x1 x2 s3 late
  have hx2 : x.SameHead x2 ∧ (c.ends = true → x.phase = .rendering → x2.phase = .idle) := by
    have hx1 : x.SameHead x1 := (ripen_sameHead x).trans ⟨rfl, rfl, rfl, rfl, rfl, rfl, rfl⟩
    have hphase : x1.phase = x.phase := ripen_phase x
    unfold x2
    split
    · exact ⟨hx1.trans ⟨rfl, rfl, rfl, rfl, rfl, rfl, rfl⟩, fun _ hr => by simp [Stream.endAt, hphase, hr]⟩
    · next hends => exact ⟨hx1, fun he => absurd (by simp [ends, he]) hends⟩
  obtain ⟨hsame, hidle⟩ := hx2
  obtain ⟨y, hy, hxy, hphase⟩ := trySend_stream (State.stream_setStream s2 x2)
  have hs3 : s3.stream x.id = some y := by
    rw [← hsame.id]
    exact hy
  refine ⟨y, ?_, hsame.trans hxy, fun he hr => hphase.trans (hidle he hr)⟩
  split
  · exact hs3
  · rw [State.stream_writeTrace, hs3]

/-- A unit that a sample has left, with the unit's counts of it (07 R229). -/
def State.sampleLeaves (s : State) (u cycles stall : Nat) : State :=
  let f := EvScope.field (u / 8)
  ((s.setUnit u { s.unit u with busy := none }).bump 0x041 cycles f).bump 0x042 stall f

theorem sampleLeaves_unit (s : State) (u cycles stall : Nat) : (s.sampleLeaves u cycles stall).unit u = { s.unit u with busy := none } :=
  State.unit_setUnit ..

theorem sampleLeaves_keys (s : State) (u cycles stall v : Nat) : ((s.sampleLeaves u cycles stall).unit v).keys = (s.unit v).keys := by
  by_cases h : v = u
  · rw [h, sampleLeaves_unit]
  · exact congrArg BurinUnit.keys (State.unit_setUnit_other s _ h)

theorem sampleLeaves_frame (s : State) (u cycles stall : Nat) : Frame [.burin, .cnt] s (s.sampleLeaves u cycles stall) :=
  Frame.comp State.bump_frame (by decide) (Frame.comp State.bump_frame (by decide) (Frame.comp State.setUnit_frame (by decide) .refl))

/-- What a hand-off leaves of its stream: the sample in the output stage under its context's mark key, and the head behind it. -/
structure State.HandsOff (s : State) (x : Stream) (c : Chunk) (n : Nat) (v : Word) (h : Head) (y : Stream) : Prop where
  handed : y.handed = n + 1
  headAt : y.headAt = n + 1
  head : y.head = h
  current : y.current = none
  staged : y.staged = x.staged ++ [⟨n, v, h.envelope, s.tb.frame, c.dither, (tabGet (s.unit x.unit).keys x.ctx).getD []⟩]
  records : y.records = keepRecords (n + 1) x.records
  idle : n + 1 = c.first + c.count → c.ends = true → x.phase = .rendering → y.phase = .idle

theorem handOff_stream (s : State) (x : Stream) (c : Chunk) (n cycles now : Nat) (v : Word) (h : Head) :
    ∃ y, (s.handOff x c n cycles now v h).stream x.id = some y ∧ s.HandsOff x c n v h y := by
  unfold State.handOff
  extract_lets f zero s1 s2 s3 key y s4
  have hs3 : Frame [.rmk, .sessions, .jobs, .ihx, .cnt, .tallies] s s3 := by
    have hs2 : Frame [.rmk, .sessions, .jobs, .ihx, .cnt, .tallies] s s2 := by
      unfold s2
      refine Frame.comp State.tally_frame (by decide) ?_
      unfold s1
      refine Frame.comp State.charge_frame (by decide) ?_
      exact Frame.comp State.bump_frame (by decide) .refl
    unfold s3
    split
    · exact Frame.comp State.reportHandOff_frame (by decide) hs2
    · exact hs2
  have hkey : key = (tabGet (s.unit x.unit).keys x.ctx).getD [] := by
    unfold key
    rw [hs3.unit (by decide)]
  have hs4 : ∃ z, s4.stream x.id = some z ∧ y.SameHead z ∧
      (n + 1 = c.first + c.count → c.ends = true → x.phase = .rendering → z.phase = .idle) := by
    unfold s4
    split
    · obtain ⟨z, hz, hyz, hidle⟩ := finishChunk_stream s3 y c now
      exact ⟨z, hz, hyz, fun _ => hidle⟩
    · next hlast => exact ⟨y, State.stream_setStream s3 y, ⟨rfl, rfl, rfl, rfl, rfl, rfl, rfl⟩, fun h => absurd h hlast⟩
  obtain ⟨z, hz, hyz, hidle⟩ := hs4
  rw [hz]
  refine ⟨_, State.stream_setStream_again s4 hz rfl, ⟨hyz.handed, hyz.headAt, hyz.head, hyz.current, hyz.staged.trans ?_,
    congrArg (keepRecords (n + 1)) hyz.records, hidle⟩⟩
  rw [← hkey, ← hs3 .tb (by decide)]

/-- A sample in a unit: the unit's context holds a stream whose head has computed it, of a chunk that Burin may take. -/
structure State.InUnit (s : State) (u id n : Nat) (v : Word) (h : Head) (x : Stream) (c : Chunk) : Prop where
  context : ∃ k, (s.unit u).busy = some k ∧ tabGet (s.unit u).ctxs k = some id
  stream : s.stream id = some x
  current : x.current = some (n, v, h)
  chunk : x.chunkOf x.headAt = some c

/-- At hand-off a sample leaves its unit: the output buffer drops a repeated one, and takes a new one (07 R230, R239). -/
theorem execSampleHandOff_leaves {s : State} {u id n : Nat} {v : Word} {h : Head} {x : Stream} {c : Chunk} (hin : s.InUnit u id n v h x c)
    (a cycles : Nat) :
    ∃ stall, exec (.sampleHandOff u a cycles) s = .next (if n < x.handed then
        ((s.sampleLeaves u cycles stall).setStream (Stream.ripen { x with head := h, headAt := n + 1, current := none })).bump 0x047 1 (.field (u / 8))
      else (s.sampleLeaves u cycles stall).handOff x c n cycles (s.tb.frameAt + a) v h) := by
  obtain ⟨⟨k, hbusy, hctx⟩, hx, hcur, hc⟩ := hin
  refine ⟨cycles - ((s.model (x.voiceAt n)).map fun m => programCost (headPart m.image)).getD 0, congrArg Host.Outcome.next ?_⟩
  simp only [hbusy, Option.bind_some, hctx, hx, hcur, hc]
  rfl

/-- A repeated sample is dropped, the head standing behind it (07 R239). -/
theorem execSampleHandOff_drops {s : State} {u id n : Nat} {v : Word} {h : Head} {x : Stream} {c : Chunk} (hin : s.InUnit u id n v h x c)
    (a cycles : Nat) (hn : n < x.handed) :
    Completes (.sampleHandOff u a cycles) s fun t =>
      (t.unit u).busy = none ∧ t.stream id = some (Stream.ripen { x with head := h, headAt := n + 1, current := none }) ∧
      Frame [.streams, .burin, .cnt] s t := by
  obtain ⟨stall, ht⟩ := execSampleHandOff_leaves hin a cycles
  rw [if_pos hn] at ht
  refine ⟨_, ht, ?_, ?_, ?_⟩
  · rw [State.unit_bump, State.unit_setStream, sampleLeaves_unit]
  · rw [State.stream_bump]
    exact State.stream_setStream_again _ hin.stream (ripen_sameHead _).id
  · refine Frame.comp State.bump_frame (by decide) (Frame.comp State.setStream_frame (by decide) ?_)
    exact (sampleLeaves_frame s u cycles stall).mono (by decide)

/-- A new sample goes into the output stage, once (07 R230, R240). -/
theorem execSampleHandOff_hands {s : State} {u id n : Nat} {v : Word} {h : Head} {x : Stream} {c : Chunk} (hin : s.InUnit u id n v h x c)
    (a cycles : Nat) (hn : x.handed ≤ n) :
    Completes (.sampleHandOff u a cycles) s fun t => (t.unit u).busy = none ∧ ∃ y, t.stream id = some y ∧ s.HandsOff x c n v h y := by
  obtain ⟨stall, ht⟩ := execSampleHandOff_leaves hin a cycles
  rw [if_neg (Nat.not_lt.mpr hn)] at ht
  obtain ⟨y, hy, hoff⟩ := handOff_stream (s.sampleLeaves u cycles stall) x c n cycles (s.tb.frameAt + a) v h
  rw [s.stream_id hin.stream] at hy
  have hstaged := hoff.staged
  rw [sampleLeaves_keys, sampleLeaves_frame s u cycles stall .tb (by decide)] at hstaged
  refine ⟨_, ht, ?_, y, hy, { hoff with staged := hstaged }⟩
  rw [State.handOff_frame.unit (by decide), sampleLeaves_unit]

/-! ### The output stage and the output Scriber (07 R231 to R233, R238; 09 R284, R289) -/

theorem execOutputStageWrite_writes {s : State} {id : Nat} {x : Stream} {h : Handed} {rest : List Handed} (hx : s.stream id = some x)
    (hstaged : x.staged = h :: rest) :
    let tensor := (((s.model x.handle).bind fun m => imgHead m.image).map (·.tensor)).getD 0
    let draw : Option Word := if h.dither then
        some (Draw.u ⟨x.seed, x.key, BitVec.ofNat 16 (tensor + 1), BitVec.ofNat 48 h.n, 0, h.x.setWidth 16⟩)
      else none
    let up := chipUp h.key (markPayload s.part.serial.toNat x.session (periodAt x.period h).2.toNat) h.n
    let level := ((s.session x.session).map (·.level)).getD 0
    let out := outputPcm h.x h.env up level (s.pcmWidth x) draw
    let pcm : Word := BitVec.ofInt 32 out.1
    exec (.outputStageWrite id) s = .next ((if out.2 then s.bump 0x044 1 (.field (x.unit / 8)) else s).setStream { x with
      staged := rest
      period := some (periodAt x.period h)
      outBuf := if x.toHost then x.outBuf ++ [(h.n, pcm &&& 0x00FFFFFF)] else x.outBuf
      lineBuf := if x.toLine then x.lineBuf ++ [(h.n, pcm <<< (32 - s.pcmWidth x))] else x.lineBuf }) := by
  refine congrArg Host.Outcome.next ?_
  rw [hx]
  simp only [hstaged]

theorem execSampleMirror_mirrors {s : State} {id : Nat} {x : Stream} (hx : s.stream id = some x) (hserves : s.unitServes x.unit = true)
    (hctx : tabGet (s.unit x.unit).ctxs x.ctx = some id) :
    exec (.sampleMirror id) s = .next (s.setStream { x with mirror := (x.headAt, x.head) }) := by
  refine congrArg Host.Outcome.next ?_
  rw [hx]
  exact if_pos (by simp [hserves, hctx])

theorem execOutputScriberPiece_writes {s : State} {id : Nat} {x : Stream} (hx : s.stream id = some x) (hpiece : x.piece ≠ 0)
    (hroom : x.audio.length + x.piece ≤ 262144) (hserved : s.pieceServed x = true) :
    let first := ((x.outBuf.head?).map (·.1)).getD 0
    Completes (.outputScriberPiece id) s fun t => t.stream id = some { x with
      outBuf := x.outBuf.drop x.piece
      audio := x.audio ++ x.outBuf.take x.piece
      pieces := x.pieces ++ [⟨first, x.piece, s.audioDue x (first + x.piece - 1), s.tb.sub⟩]
      paces := x.paces.filter fun p => first + x.piece < p.1 + p.2.1 } := by
  intro first
  refine ⟨_, rfl, ?_⟩
  rw [hx]
  simp only [if_neg (show ¬(x.piece = 0 || decide (262144 < x.audio.length + x.piece) || !s.pieceServed x) = true by
    simp [hpiece, hroom, hserved])]
  rw [State.stream_charge, State.stream_bump]
  exact State.stream_setStream_again s hx rfl

theorem execOutputScriberPiece_waits {s : State} {id : Nat} {x : Stream} (hx : s.stream id = some x) (hserved : s.pieceServed x = false) :
    exec (.outputScriberPiece id) s = .next s := by
  refine congrArg Host.Outcome.next ?_
  rw [hx]
  exact if_pos (by simp [hserved])

/-- Settles O46: the start by the least pacing deadline, the hand-off by whether its sample is a repeated one, the output stage and the
output Scriber by what they write. -/
theorem samples : Obligations.Samples := by
  refine ⟨fun u s hready hserves hidle => ⟨execSampleStart_waits, fun k x c r hnext hr => ?_⟩,
    fun u a cycles k id n v h x c s hbusy hctx hx hcur hc => ?_, fun id x h rest s hx hstaged => ?_,
    fun id x s hx => ⟨execSampleMirror_mirrors hx, fun hpiece hroom hserved => ?_, execOutputScriberPiece_waits hx⟩⟩
  · have ht := execSampleStart_starts hready hserves hidle hnext hr
    refine ⟨_, ht, ?_, State.stream_setStream .., fun y hy hel hu hyctx => ?_, execSampleStart_frame ht⟩
    · rw [State.unit_setStream, State.unit_setUnit]
    · obtain ⟨d, hd⟩ := Option.ne_none_iff_exists'.mp hel
      exact ⟨d, hd, nextContext_earliest hnext hy hd hu hyctx⟩
  · have hin : s.InUnit u id n v h x c := ⟨⟨k, hbusy, hctx⟩, hx, hcur, hc⟩
    refine ⟨execSampleHandOff_drops hin a cycles, fun hn => ?_⟩
    obtain ⟨t, ht, hfree, y, hy, hoff⟩ := execSampleHandOff_hands hin a cycles hn
    exact ⟨t, ht, hfree, y, hy, hoff.handed, hoff.headAt, hoff.head, hoff.current, hoff.staged, hoff.records, hoff.idle⟩
  · have ht := execOutputStageWrite_writes hx hstaged
    exact ⟨_, ht, State.stream_setStream_again _ hx rfl, execOutputStageWrite_frame ht⟩
  · obtain ⟨t, ht, hy⟩ := execOutputScriberPiece_writes hx hpiece hroom hserved
    exact ⟨t, ht, hy, execOutputScriberPiece_frame ht⟩

end Sys2Proof.Machine
end

section
/-! ### Burin faults and context moves (07 R236 to R239, 18 R558, R560) -/

namespace Sys2Proof.Machine

open Sys2Proof

/-! ### A failed unit (07 R237, R239; 18 R560) -/

/-- A unit that has failed its check, with the count of it. -/
def State.failUnit (s : State) (u : Nat) : State :=
  (s.setUnit u { s.unit u with failed := true, busy := none }).bump 0x045 1 (.field (u / 8))

theorem failUnit_frame (s : State) (u : Nat) : Frame [.burin, .cnt] s (s.failUnit u) :=
  Frame.comp State.bump_frame (by decide) (Frame.comp State.setUnit_frame (by decide) .refl)

theorem failUnit_unit (s : State) (u : Nat) : (s.failUnit u).unit u = { s.unit u with failed := true, busy := none } :=
  State.unit_setUnit ..

theorem failUnit_ctxs (s : State) (u : Nat) : ((s.failUnit u).unit u).ctxs = (s.unit u).ctxs := by
  rw [failUnit_unit]

theorem failUnit_unit_other (s : State) {u v : Nat} (h : v ≠ u) : (s.failUnit u).unit v = s.unit v :=
  State.unit_setUnit_other s _ h

/-- Jobs with a context in a unit and a core that has failed: a second fault ends them (18 R560). -/
def State.secondUnitFaults (s : State) (u : Nat) : List Nat :=
  (((s.unit u).ctxs.map (·.2)).filterMap fun id => (s.stream id).map (·.job)).eraseDups.filter fun j =>
    (s.job j).any fun j => j.held.any fun c => (s.core c).faulted

theorem secondUnitFaults_nil {s : State} {u : Nat}
    (h : ∀ k ∈ (s.unit u).ctxs, ∀ x, s.stream k.2 = some x → ∀ j, s.job x.job = some j → ∀ c ∈ j.held, (s.core c).faulted = false) :
    s.secondUnitFaults u = [] := by
  refine List.filter_eq_nil_iff.mpr fun id hid hfault => ?_
  obtain ⟨i, hi, hjob⟩ := List.mem_filterMap.mp (List.mem_eraseDups.mp hid)
  obtain ⟨k, hk, rfl⟩ := List.mem_map.mp hi
  obtain ⟨x, hx, rfl⟩ := Option.map_eq_some_iff.mp hjob
  obtain ⟨j, hj, hcores⟩ := (Option.any_eq_true ..).mp hfault
  obtain ⟨c, hc, hf⟩ := List.any_eq_true.mp hcores
  exact Bool.false_ne_true ((h k hk x hx j hj c hc).symm.trans hf)

/-- A stream goes on after its unit failed. -/
def resumeCtx (lost : Bool) (s : State) (id : Nat) : State :=
  match s.stream id with
  | some x => s.afterUnit lost x
  | none => s

/-- Every context of a failed unit goes on from its mirror or its shadow, with the count of the takeover. -/
def State.resumed (s : State) (u : Nat) : State :=
  (((s.unit u).ctxs.map (·.2)).foldl (resumeCtx ((s.mirrorPartner u).any fun v => (s.unit v).failed)) s).bump 0x046 1 (.field (u / 8))

/-- The whole idle units nearest to a unit. -/
def State.nearestUnits (s : State) (u : Nat) : List Nat :=
  (s.wholeUnits u).filter fun v => (s.wholeUnits u).all fun w => unitDist u v ≤ unitDist u w

/-- A context that finds no whole unit. -/
def spreadOne (s : State) (id : Nat) : State :=
  match s.stream id with
  | some x => s.spreadCtx x
  | none => s

/-- The contexts of a unit go to the nearest whole unit found, or to the one that the takeover names if that is a nearest one too; where none is
found they are spread, and the reserve is low. -/
def State.rehome (s : State) (u r : Nat) (ids : List Nat) : Option Nat → State
  | some v =>
    let v := if (s.nearestUnits u).contains r then r else v
    (s.moveUnit u v).writeLog 0x41 (srcOf 2 u) v
  | none =>
    let t := ids.foldl spreadOne s
    t.raiseAlarm 0x0A 0 (ids.filter fun id => (t.stream id).any (·.left)).length

/-- What a takeover leaves once a unit's contexts go on. -/
def State.takenOver (s : State) (u r : Nat) (ids : List Nat) : State := s.rehome u r ids (s.nearestUnits u).head?

theorem execBurinTakeover_next {s : State} {u : Nat} (r : Nat) (hready : s.boot.phase = .ready) (hserves : s.unitServes u = true)
    (hplace : s.rebind.place = none) (hsecond : s.secondUnitFaults u = []) :
    exec (.burinTakeover u r) s = .next (if (s.unit u).ctxs.isEmpty then s.failUnit u
      else ((s.failUnit u).resumed u).takenOver u r ((s.unit u).ctxs.map (·.2))) := by
  have hctxs := failUnit_ctxs s u
  have hsecond : (s.failUnit u).secondUnitFaults u = [] := by
    rw [← hsecond, State.secondUnitFaults, hctxs]
    rfl
  refine congrArg Host.Outcome.next ?_
  rw [if_neg (by simp [hready, hserves])]
  extract_lets f s1 s2 b ids second s3 b' xs lost s4 s5 idle near
  have hs2 : s2 = s.failUnit u := by
    unfold s2
    rw [show s1.rebind.place = none from hplace]
    rfl
  have hs3 : s3 = s.failUnit u := by
    unfold s3
    rw [show second = s2.secondUnitFaults u from rfl, hs2, hsecond]
    rfl
  clear_value s3
  subst hs3
  have hnear : near = ((s.failUnit u).resumed u).nearestUnits u := rfl
  rw [← hctxs, State.takenOver, ← hnear]
  cases near.head? with
  | none => rfl
  | some v => rfl

/-! ### Which whole units may take a failed one's contexts (03 R102, 07 R239) -/

/-- What says which fields lie near a stream: its job, or the cores held for it. -/
def Stream.home (x : Stream) : Nat × Option Budget := (x.job, x.budget)

/-- Two states hold the same streams, each in its home. -/
def State.SameHomes (s t : State) : Prop := ∀ id, (t.stream id).map Stream.home = (s.stream id).map Stream.home

theorem State.SameHomes.refl (s : State) : s.SameHomes s := fun _ => rfl

theorem State.SameHomes.trans {s t u : State} (a : s.SameHomes t) (b : t.SameHomes u) : s.SameHomes u := fun id => (b id).trans (a id)

theorem setStream_sameHomes {s : State} {id : Nat} {x y : Stream} (hx : s.stream id = some x) (hid : y.id = x.id) (hhome : y.home = x.home) :
    s.SameHomes (s.setStream y) := by
  intro i
  by_cases h : i = id
  · subst h
    rw [State.stream_setStream_again s hx hid, hx, Option.map_some, Option.map_some, hhome]
  · rw [State.stream_setStream_other s y (hid.trans (s.stream_id hx) ▸ h)]

/-- A stream that goes on after its unit failed keeps its home; from a mirror that is complete it goes on as it was (07 R239). -/
theorem afterUnit_stream (s : State) (lost : Bool) (x : Stream) :
    ∃ y, (s.afterUnit lost x).stream = (s.setStream y).stream ∧ y.id = x.id ∧ y.home = x.home ∧
      (x.mirror.1 = x.headAt → y = { x with current := none, head := x.mirror.2 }) := by
  have hreplayed (z : Stream) : z.replayed.id = z.id ∧ z.replayed.home = z.home := by
    unfold Stream.replayed
    split
    · exact ⟨rfl, rfl⟩
    · exact ⟨rfl, rfl⟩
  have hcarried (r : ExportRec) (z : Stream) : (z.withCarried r).id = z.id ∧ (z.withCarried r).home = z.home := by
    unfold Stream.withCarried
    split
    · split
      · exact ⟨rfl, rfl⟩
      · exact ⟨rfl, rfl⟩
    · exact ⟨rfl, rfl⟩
  unfold State.afterUnit
  extract_lets z back missed
  have hback : back.id = x.id ∧ back.home = x.home := hreplayed z
  split
  · exact ⟨_, rfl, rfl, rfl, fun _ => rfl⟩
  · next hm =>
    split
    · exact ⟨_, rfl, hback.1, hback.2, fun h => absurd h hm⟩
    · split
      · next r _ =>
        extract_lets y t
        have hmissed : missed.id = x.id ∧ missed.home = x.home := by
          unfold missed
          split
          · exact ⟨rfl, rfl⟩
          · exact ⟨rfl, rfl⟩
        refine ⟨{ y with head := r.head, headAt := r.headNext }, ?_, (hcarried r missed).1.trans hmissed.1,
          (hcarried r missed).2.trans hmissed.2, fun h => absurd h hm⟩
        split
        · exact State.noteSlip_frame.stream (by decide)
        · rfl
      · exact ⟨_, rfl, hback.1, hback.2, fun h => absurd h hm⟩

theorem resumeCtx_sameHomes (lost : Bool) (s : State) (id : Nat) : s.SameHomes (resumeCtx lost s id) := by
  unfold resumeCtx
  split
  · next x hx =>
    obtain ⟨y, hy, hid, hhome, -⟩ := afterUnit_stream s lost x
    intro i
    rw [hy]
    exact setStream_sameHomes hx hid hhome i
  · exact .refl s

theorem resumed_sameHomes (s : State) (u : Nat) : s.SameHomes (s.resumed u) :=
  List.foldlRecOn (motive := s.SameHomes) _ (resumeCtx _) (.refl s) fun t h id _ => h.trans (resumeCtx_sameHomes _ t id)

theorem resumed_frame (s : State) (u : Nat) : Frame [.streams, .evt, .cnt, .host] s (s.resumed u) := by
  refine Frame.comp State.bump_frame (by decide) (Frame.foldl .refl fun t id h => ?_)
  unfold resumeCtx
  split
  · exact Frame.comp State.afterUnit_frame (by decide) h
  · exact h

theorem unitNear_congr {s t : State} {x y : Stream} (hjobs : t.jobs = s.jobs) (hhome : y.home = x.home) (v : Nat) :
    t.unitNear y v = s.unitNear x v := by
  obtain ⟨hjob, hbudget⟩ := Prod.mk.inj hhome
  rw [State.unitNear, State.streamFields, State.job_congr hjobs, hjob, hbudget]
  rfl

/-- Which whole units may take a unit's contexts depends on the other units, and on its streams' homes. -/
theorem wholeUnits_congr {s t : State} {u : Nat} (hframe : Frame [.streams, .burin, .evt, .cnt, .host] s t) (hhomes : s.SameHomes t)
    (hctxs : (t.unit u).ctxs = (s.unit u).ctxs) (hother : ∀ v, v ≠ u → t.unit v = s.unit v) : t.wholeUnits u = s.wholeUnits u := by
  unfold State.wholeUnits
  refine List.filter_congr fun v _ => ?_
  by_cases hv : v = u
  · simp [hv]
  · have hpart : t.part = s.part := hframe .part (by decide)
    have hnv : t.nv = s.nv := hframe .nv (by decide)
    have hhatch : t.hatch = s.hatch := hframe .hatch (by decide)
    have hserves : t.unitServes v = s.unitServes v := by
      simp only [State.unitServes, State.unitExists, State.field, hother v hv, hpart, hnv, hhatch]
    rw [hserves, hother v hv, hctxs, List.all_filterMap, List.all_filterMap]
    refine congrArg _ (List.all_congr rfl fun k => ?_)
    have hk := hhomes k.2
    cases hx : s.stream k.2 with
    | none => rw [hx] at hk; rw [Option.map_eq_none_iff.mp hk]
    | some x =>
      rw [hx] at hk
      obtain ⟨y, hy, hhome⟩ := Option.map_eq_some_iff.mp hk
      rw [hy]
      exact unitNear_congr (hframe .jobs (by decide)) hhome v

theorem mem_nearestUnits {s : State} {u v : Nat} :
    v ∈ s.nearestUnits u ↔ v ∈ s.wholeUnits u ∧ ∀ w ∈ s.wholeUnits u, unitDist u v ≤ unitDist u w := by
  simp only [State.nearestUnits, List.mem_filter, List.all_eq_true, decide_eq_true_eq]

theorem mem_nearestUnits_of_whole {s t : State} {u v : Nat} (h : t.wholeUnits u = s.wholeUnits u) :
    v ∈ t.nearestUnits u ↔ v ∈ s.wholeUnits u ∧ ∀ w ∈ s.wholeUnits u, unitDist u v ≤ unitDist u w :=
  h ▸ mem_nearestUnits

/-- Where a whole unit is left, a nearest one is. -/
theorem nearestUnits_nonempty {s : State} {u : Nat} (h : s.wholeUnits u ≠ []) : s.nearestUnits u ≠ [] := by
  obtain ⟨v, hv⟩ := Option.ne_none_iff_exists'.mp (mt (List.argmin_eq_none (f := unitDist u)).mp h)
  exact List.ne_nil_of_mem (mem_nearestUnits.mpr ⟨List.argmin_mem hv, fun w hw => List.le_of_mem_argmin hw hv⟩)

/-- The unit that takes a failed one's contexts is a nearest one, and the one that the takeover names if that is a nearest one. -/
theorem takenOver_moves {s : State} {u : Nat} (r : Nat) (ids : List Nat) (h : s.wholeUnits u ≠ []) :
    ∃ v ∈ s.nearestUnits u, (r ∈ s.nearestUnits u → v = r) ∧ s.takenOver u r ids = (s.moveUnit u v).writeLog 0x41 (srcOf 2 u) v := by
  obtain ⟨w, rest, hw⟩ := List.exists_cons_of_ne_nil (nearestUnits_nonempty h)
  have hhead : (s.nearestUnits u).head? = some w := by rw [hw, List.head?_cons]
  refine ⟨if (s.nearestUnits u).contains r then r else w, ?_, fun hr => if_pos (List.contains_iff_mem.mpr hr), ?_⟩
  · split
    · next hr => exact List.contains_iff_mem.mp hr
    · exact List.mem_of_mem_head? hhead
  · rw [State.takenOver, hhead]
    rfl

theorem takenOver_spreads {s : State} {u : Nat} (r : Nat) (ids : List Nat) (h : s.wholeUnits u = []) :
    ∃ n, s.takenOver u r ids = (ids.foldl spreadOne s).raiseAlarm 0x0A 0 n := by
  have hnone : s.nearestUnits u = [] := by rw [State.nearestUnits, h, List.filter_nil]
  rw [State.takenOver, hnone]
  exact ⟨_, rfl⟩

/-! ### The move of a unit's contexts, and their spread (07 R239, 18 R560) -/

/-- A stream of a unit goes to another unit with its context. -/
def moveCtx (u v : Nat) (s : State) (k : Nat × Nat) : State :=
  match s.stream k.2 with
  | some x => if x.unit = u then s.setStream { x with unit := v } else s
  | none => s

/-- Two units, the first of them with its contexts, weights and mark keys in the second. -/
def State.passUnit (s : State) (u v : Nat) : State :=
  let s' := s.setUnit v { s.unit v with ctxs := (s.unit u).ctxs, weights := (s.unit u).weights, keys := (s.unit u).keys, queue := [] }
  s'.setUnit u { s'.unit u with ctxs := [], weights := [], keys := [], queue := [] }

theorem moveUnit_eq (s : State) (u v : Nat) : s.moveUnit u v = (s.unit u).ctxs.foldl (moveCtx u v) (s.passUnit u v) := rfl

theorem moveCtx_frame (u v : Nat) (s : State) (k : Nat × Nat) : Frame [.streams] s (moveCtx u v s k) := by
  unfold moveCtx
  split
  · exact .ite (fun _ => State.setStream_frame) fun _ => .refl
  · exact .refl

theorem moveUnit_unit (s : State) (u v : Nat) : (s.moveUnit u v).unit = (s.passUnit u v).unit :=
  Frame.unit (L := [.streams]) (Frame.foldl .refl fun t k h => (moveCtx_frame u v t k).comp (List.Subset.refl _) h) (by decide)

theorem passUnit_from {s : State} {u v : Nat} (h : v ≠ u) :
    (s.passUnit u v).unit u = { s.unit u with ctxs := [], weights := [], keys := [], queue := [] } := by
  rw [State.passUnit, State.unit_setUnit, State.unit_setUnit_other _ _ h.symm]

theorem passUnit_to {s : State} {u v : Nat} (h : v ≠ u) :
    (s.passUnit u v).unit v =
      { s.unit v with ctxs := (s.unit u).ctxs, weights := (s.unit u).weights, keys := (s.unit u).keys, queue := [] } := by
  rw [State.passUnit, State.unit_setUnit_other _ _ h, State.unit_setUnit]

theorem moveUnit_contexts {s : State} {u v : Nat} (h : v ≠ u) :
    ((s.moveUnit u v).unit u).ctxs = [] ∧ ((s.moveUnit u v).unit v).ctxs = (s.unit u).ctxs ∧
      ((s.moveUnit u v).unit v).weights = (s.unit u).weights ∧ ((s.moveUnit u v).unit v).keys = (s.unit u).keys := by
  rw [moveUnit_unit, passUnit_from h, passUnit_to h]
  exact ⟨rfl, rfl, rfl, rfl⟩

/-- The one context of a unit takes its stream along. -/
theorem moveUnit_stream {s : State} {u v k id : Nat} {x : Stream} (hctxs : (s.unit u).ctxs = [(k, id)]) (hx : s.stream id = some x)
    (hu : x.unit = u) : (s.moveUnit u v).stream id = some { x with unit := v } := by
  have hswap : (s.passUnit u v).stream id = some x := hx
  rw [moveUnit_eq, hctxs, List.foldl_cons, List.foldl_nil, moveCtx, hswap]
  simp only [if_pos hu]
  exact State.stream_setStream_again _ hx rfl

theorem freeUnit_failed (s : State) (x : Stream) (u : Nat) : ((s.freeUnit x).unit u).failed = (s.unit u).failed := by
  unfold State.freeUnit
  extract_lets b ctxs used busy
  split
  · rfl
  · by_cases h : u = x.unit
    · rw [h, State.unit_setUnit]
    · rw [State.unit_setUnit_other _ _ h]

theorem bindUnit_failed (s : State) (x : Stream) (v u : Nat) : ((s.bindUnit x v).unit u).failed = (s.unit u).failed := by
  unfold State.bindUnit
  extract_lets b
  split
  · rfl
  · rw [State.unit_setStream]
    by_cases h : u = v
    · rw [h, State.unit_setUnit]
    · rw [State.unit_setUnit_other _ _ h]

theorem spreadOne_failed (s : State) (id u : Nat) : ((spreadOne s id).unit u).failed = (s.unit u).failed := by
  unfold spreadOne State.spreadCtx
  split
  · next x _ =>
    extract_lets t
    split
    · exact (bindUnit_failed ..).trans (freeUnit_failed ..)
    · exact freeUnit_failed s x u
  · rfl

/-- A spread repairs no unit. -/
theorem spread_failed (s : State) (ids : List Nat) (u : Nat) : ((ids.foldl spreadOne s).unit u).failed = (s.unit u).failed :=
  List.foldlRecOn (motive := fun t => (t.unit u).failed = (s.unit u).failed) ids spreadOne rfl fun t h id _ =>
    (spreadOne_failed t id u).trans h

/-! ### BURIN_CONTEXT_MOVE (07 R236) -/

section
variable {s : State} {id u : Nat} {x : Stream} (hx : s.stream id = some x)
include hx

theorem execBurinContextMove_stays (hfits : s.storeFits (s.unit x.unit) (x.voices ++ s.nextVoices x) = true) :
    exec (.burinContextMove id u) s = .next s := by
  refine congrArg Host.Outcome.next ?_
  rw [hx]
  exact if_pos (by simp [hfits])

theorem execBurinContextMove_moves (hctx : tabGet (s.unit x.unit).ctxs x.ctx = some id) (hcur : x.current = none)
    (hinside : ∀ c, x.chunkOf x.headAt = some c → x.headAt ≤ c.first)
    (hfull : s.storeFits (s.unit x.unit) (x.voices ++ s.nextVoices x) = false) (hu : u ≠ x.unit)
    (hfits : (s.freeUnit x).storeFits ((s.freeUnit x).unit u) (x.voices ++ s.nextVoices x) = true) (hnear : s.unitNear x u = true)
    (htakes : (s.freeUnit x).unitTakes true (x.voices ++ s.nextVoices x) ((s.freeUnit x).streamSixths x) u = true) :
    let t := (s.freeUnit x).bindUnit x u
    exec (.burinContextMove id u) s =
      .next (t.setUnit u { t.unit u with weights := t.loadWeights (t.unit u) (x.voices ++ s.nextVoices x) }) := by
  have hin : ((x.chunkOf x.headAt).any fun c => c.first < x.headAt) = false := by
    cases hc : x.chunkOf x.headAt with
    | none => rfl
    | some c => simpa using hinside c hc
  refine congrArg Host.Outcome.next ?_
  rw [hx]
  exact if_neg (by simp [hctx, hcur, hin, hfull, hu, hfits, hnear, htakes])

end

/-- A context that is bound to a unit takes its lowest free slot there. -/
theorem bindUnit_binds {s : State} {x : Stream} {id u k : Nat} (hid : x.id = id) (hk : freeKey (s.unit u).ctxs 192 0 = some k) :
    (s.bindUnit x u).stream id = some { x with unit := u, ctx := k, left := false } ∧
      tabGet ((s.bindUnit x u).unit u).ctxs k = some id := by
  subst hid
  rw [State.bindUnit]
  simp only [hk]
  refine ⟨State.stream_setStream _ { x with unit := u, ctx := k, left := false }, ?_⟩
  rw [State.unit_setStream, State.unit_setUnit]
  exact tabGet_tabSet_same ..

/-! ### What a takeover leaves (07 R239, 18 R560) -/

theorem ne_of_mem_wholeUnits {s : State} {u v : Nat} (h : v ∈ s.wholeUnits u) : v ≠ u := by
  have hv := (List.mem_filter.mp h).2
  simp only [Bool.and_eq_true, bne_iff_ne] at hv
  exact hv.1.1.1

theorem takenOver_failed (s : State) (u r : Nat) (ids : List Nat) : ((s.takenOver u r ids).unit u).failed = (s.unit u).failed := by
  by_cases h : s.wholeUnits u = []
  · obtain ⟨n, hn⟩ := takenOver_spreads r ids h
    rw [hn, State.unit_raiseAlarm, spread_failed]
  · obtain ⟨v, hv, -, hmove⟩ := takenOver_moves r ids h
    rw [hmove, State.unit_writeLog, moveUnit_unit, passUnit_from (ne_of_mem_wholeUnits (mem_nearestUnits.mp hv).1)]

theorem resumed_unit (s : State) (u : Nat) : (s.resumed u).unit = s.unit := (resumed_frame s u).unit (by decide)

theorem failUnit_resumed_wholeUnits (s : State) (u : Nat) : ((s.failUnit u).resumed u).wholeUnits u = s.wholeUnits u := by
  refine wholeUnits_congr ?_ (resumed_sameHomes (s.failUnit u) u) ?_ fun v hv => ?_
  · exact Frame.comp (resumed_frame _ u) (by decide) ((failUnit_frame s u).mono (by decide))
  · rw [resumed_unit, failUnit_ctxs]
  · rw [resumed_unit, failUnit_unit_other s hv]

/-- The one context of a unit, its mirror complete, goes on from it. -/
theorem resumed_stream {s : State} {u k id : Nat} {x : Stream} (hctxs : (s.unit u).ctxs = [(k, id)]) (hx : s.stream id = some x)
    (hm : x.mirror.1 = x.headAt) : (s.resumed u).stream id = some { x with current := none, head := x.mirror.2 } := by
  obtain ⟨y, hy, hid, -, hmirror⟩ := afterUnit_stream s ((s.mirrorPartner u).any fun v => (s.unit v).failed) x
  rw [State.resumed, State.stream_bump, hctxs, List.map_cons, List.map_nil, List.foldl_cons, List.foldl_nil, resumeCtx, hx]
  simp only [hy]
  rw [State.stream_setStream_again s hx hid, hmirror hm]

/-- Settles O47: a takeover by whether a whole unit is left, which the contexts that go on do not change; a move by the room it finds. -/
theorem burinFaultsAndMoves : Obligations.BurinFaultsAndMoves := by
  refine ⟨fun u r s hready hserves hctxs hplace => ?_, fun u r s hready hserves hplace hctxs hsound => ?_,
    fun id u x s hx => ⟨execBurinContextMove_stays hx, fun hctx hcur hin hfull hu hfits hnear htakes k hk => ?_⟩⟩
  · rw [execBurinTakeover_next r hready hserves hplace (secondUnitFaults_nil (by simp [hctxs])), if_pos (by simp [hctxs])]
    rfl
  · intro nearest
    have ht := execBurinTakeover_next r hready hserves hplace (secondUnitFaults_nil hsound)
    rw [if_neg (mt List.isEmpty_iff.mp hctxs)] at ht
    have hwhole := failUnit_resumed_wholeUnits s u
    have hunit : ((s.failUnit u).resumed u).unit = (s.failUnit u).unit := resumed_unit ..
    refine ⟨_, ht, ?_, fun hsome => ?_, fun hnone => ?_⟩
    · rw [takenOver_failed, hunit, failUnit_unit]
    · obtain ⟨v, hv, hr, hmove⟩ := takenOver_moves r ((s.unit u).ctxs.map (·.2)) fun h => hsome (hwhole.symm.trans h)
      have hnearest (w : Nat) : w ∈ ((s.failUnit u).resumed u).nearestUnits u ↔ nearest w := mem_nearestUnits_of_whole hwhole
      have hvu : v ≠ u := ne_of_mem_wholeUnits (mem_nearestUnits.mp hv).1
      obtain ⟨hfrom, hto, hweights, hkeys⟩ := moveUnit_contexts (s := (s.failUnit u).resumed u) hvu
      rw [hunit, failUnit_unit] at hto hweights hkeys
      simp only [hmove, State.unit_writeLog, State.stream_writeLog]
      refine ⟨v, (hnearest v).mp hv, fun h => hr ((hnearest r).mpr h), hfrom, hto, hweights, hkeys, fun k id x hone hx hxu hm => ?_⟩
      have hfail : ((s.failUnit u).unit u).ctxs = [(k, id)] := (failUnit_ctxs s u).trans hone
      rw [moveUnit_stream (by rw [hunit, hfail]) (resumed_stream hfail hx hm) hxu]
    · obtain ⟨n, hn⟩ := takenOver_spreads r ((s.unit u).ctxs.map (·.2)) (hwhole.trans hnone)
      rw [hn]
      exact raiseAlarm_listed ..
  · have ht := execBurinContextMove_moves hx hctx hcur hin hfull hu hfits hnear htakes
    obtain ⟨hstream, hbound⟩ := bindUnit_binds (s.stream_id hx) hk
    refine ⟨_, ht, hstream, ?_, ?_, execBurinContextMove_frame ht⟩
    · rw [State.unit_setUnit]
      exact hbound
    · rw [State.unit_setUnit]

end Sys2Proof.Machine
end

section
/-! ### The order in which a channel serves (09 R284) -/

namespace Sys2Proof.Machine

open Sys2Proof

/-- What a waiting transfer is served by: urgency first, then the deadline, the issue time and the job (09 R284). -/
def Waiting.key (a : Waiting) : Bool ×ₗ Int ×ₗ Nat ×ₗ Nat := toLex (!a.urgent, toLex (a.slack, toLex (a.issued, a.job)))

/-- The order of service is the lexicographic one. -/
theorem Waiting.before_iff_key (a b : Waiting) : a.before b = true ↔ a.key ≤ b.key := by
  simp only [Waiting.before, Waiting.key, Prod.Lex.toLex_le_toLex, bne_iff_ne, ne_eq, ite_not]
  by_cases hu : a.urgent = b.urgent
  · by_cases hs : a.slack = b.slack
    · by_cases hi : a.issued = b.issued
      · simp [hu, hs, hi]
      · simp [hu, hs, hi]
    · simp [hu, hs]
  · cases ha : a.urgent with
    | true => simp [show b.urgent = false by simpa [ha] using Ne.symm hu]
    | false => simp [show b.urgent = true by simpa [ha] using Ne.symm hu]

/-- What it says of two transfers that one does not go before the other. -/
theorem Waiting.before_imp {a b : Waiting} (h : a.before b = true) :
    (b.urgent = true → a.urgent = true) ∧
    (b.urgent = a.urgent → a.slack ≤ b.slack) ∧
    (b.urgent = a.urgent → a.slack = b.slack → a.issued ≤ b.issued) ∧
    (b.urgent = a.urgent → a.slack = b.slack → a.issued = b.issued → a.job ≤ b.job) := by
  simp only [Waiting.before_iff_key, Waiting.key, Prod.Lex.toLex_le_toLex] at h
  obtain hu | ⟨hu, h⟩ := h
  · have hlt : a.urgent = true ∧ b.urgent = false := by simpa [Bool.lt_iff] using hu
    simp [hlt]
  · have hurgent : a.urgent = b.urgent := by simpa using hu
    refine ⟨fun hb => hurgent.trans hb, fun _ => ?_, fun _ hs => ?_, fun _ hs hi => ?_⟩
    all_goals omega

theorem Waiting.before_refl (a : Waiting) : a.before a = true := (Waiting.before_iff_key a a).mpr le_rfl

theorem Waiting.before_total (a b : Waiting) : a.before b = true ∨ b.before a = true := by
  simpa only [Waiting.before_iff_key] using le_total a.key b.key

theorem Waiting.before_trans {a b c : Waiting} (h : a.before b = true) (k : b.before c = true) : a.before c = true := by
  rw [Waiting.before_iff_key] at *
  exact h.trans k

/-- A list serves one of its transfers, and none of them goes before it. -/
theorem firstServed_before (s : State) (t : Xfer) (rest : List Xfer) :
    ∃ x, s.firstServed (t :: rest) = some x ∧ x ∈ t :: rest ∧ ∀ y ∈ t :: rest, s.before x y = true := by
  induction rest generalizing t with
  | nil => exact ⟨t, rfl, List.mem_singleton_self t, by simp [State.before, Waiting.before_refl]⟩
  | cons r rest ih =>
    obtain ⟨u, hu, hmem, hfirst⟩ := ih r
    rw [State.firstServed, hu]
    by_cases htu : s.before t u = true
    · exact ⟨t, if_pos htu, List.mem_cons_self, List.forall_mem_cons.mpr
        ⟨Waiting.before_refl _, fun y hy => Waiting.before_trans htu (hfirst y hy)⟩⟩
    · exact ⟨u, if_neg htu, List.mem_cons_of_mem t hmem, List.forall_mem_cons.mpr
        ⟨(Waiting.before_total ..).resolve_left htu, hfirst⟩⟩

/-- Settles O42: the transfer served goes before every one of the list, and the order is read off what that says. -/
theorem dramServiceOrder : Obligations.DramServiceOrder := by
  refine fun s l => ⟨fun h => by rw [h]; rfl, fun h => ?_⟩
  obtain ⟨t, rest, rfl⟩ := List.exists_cons_of_ne_nil h
  obtain ⟨x, hx, hmem, hfirst⟩ := firstServed_before s t rest
  exact ⟨x, hx, hmem, fun y hy => Waiting.before_imp (hfirst y hy)⟩

end Sys2Proof.Machine
end

section
/-! ### What an engine has under way (09 R256, R271) -/

namespace Sys2Proof.Machine

open Sys2Proof

/-! ### The engines of a core -/

@[simp] theorem Core.engine_setEngine (x : Core) (e : Engine) (y : EngineState) : (x.setEngine e y).engine e = y := by
  cases e <;> rfl

@[simp] theorem Core.setEngine_engine (x : Core) (e : Engine) : x.setEngine e (x.engine e) = x := by
  cases e <;> rfl

@[simp] theorem Core.setEngine_pairs (x : Core) (e : Engine) (y : EngineState) : (x.setEngine e y).pairs = x.pairs := by
  cases e <;> rfl

@[simp] theorem Core.setEngine_chainIn (x : Core) (e : Engine) (y : EngineState) : (x.setEngine e y).chainIn = x.chainIn := by
  cases e <;> rfl

/-- An engine of a core with these transfers under way. -/
def State.underWay (s : State) (core : Nat) (eng : Engine) (l : List Xfer) : State :=
  s.setCore core ((s.core core).setEngine eng { (s.core core).engine eng with outstanding := l })

theorem State.underWay_frame {s : State} {core : Nat} {eng : Engine} {l : List Xfer} : Frame [.hatch] s (s.underWay core eng l) :=
  State.setCore_frame

theorem core_underWay (s : State) (core : Nat) (eng : Engine) (l : List Xfer) :
    (s.underWay core eng l).core core = (s.core core).setEngine eng { (s.core core).engine eng with outstanding := l } :=
  State.core_setCore ..

theorem core_underWay_other (s : State) {core c : Nat} (eng : Engine) (l : List Xfer) (h : c ≠ core) :
    (s.underWay core eng l).core c = s.core c :=
  State.core_setCore_other _ _ h

@[simp] theorem outstanding_underWay (s : State) (core : Nat) (eng : Engine) (l : List Xfer) :
    (((s.underWay core eng l).core core).engine eng).outstanding = l := by
  rw [core_underWay, Core.engine_setEngine]

theorem underWay_chainIn (s : State) (core : Nat) (eng : Engine) (l : List Xfer) (c : Nat) :
    ((s.underWay core eng l).core c).chainIn = (s.core c).chainIn := by
  by_cases hc : c = core
  · rw [hc, core_underWay, Core.setEngine_chainIn]
  · rw [core_underWay_other _ _ _ hc]

theorem State.core_congr {s t : State} (h : t.hatch = s.hatch) : t.core = s.core := by
  funext c
  rw [State.core, h]
  rfl

end Sys2Proof.Machine
end

section
/-! ### DRAM service, errors, scrub and refresh (09 R271, R272, R279; 10 R308 to R313) -/

namespace Sys2Proof.Machine

open Sys2Proof

/-! ### A transfer served (09 R271, R279) -/

/-- A controller takes a transfer from those that wait, and counts an urgent one. -/
def State.takeUp (s : State) (x : Xfer) : State :=
  let s := if s.urgent x then s.bump 0x0E1 1 else s
  { s with mem := { s.mem with queue := s.mem.queue.erase x } }

theorem takeUp_eq (s : State) (x : Xfer) :
    ∃ cnt, s.takeUp x = { s with cnt := cnt, mem := { s.mem with queue := s.mem.queue.erase x } } := by
  unfold State.takeUp
  cases s.urgent x
  · exact ⟨s.cnt, rfl⟩
  · exact ⟨(s.bump 0x0E1 1).cnt, rfl⟩

theorem State.takeUp_frame {s : State} {x : Xfer} : Frame [.mem, .cnt] s (s.takeUp x) := by
  obtain ⟨cnt, h⟩ := takeUp_eq s x
  rw [h]
  exact fun b hb => by cases b with | mem | cnt => exact absurd (by decide) hb | _ => rfl

theorem takeUp_mem (s : State) (x : Xfer) : (s.takeUp x).mem = { s.mem with queue := s.mem.queue.erase x } := by
  obtain ⟨cnt, h⟩ := takeUp_eq s x
  rw [h]

theorem takeUp_spaceBytes (s : State) (x : Xfer) (j : Job) (core space handle off len stream : Nat) :
    (s.takeUp x).spaceBytes j core space handle off len stream = s.spaceBytes j core space handle off len stream := by
  obtain ⟨cnt, h⟩ := takeUp_eq s x
  rw [h]
  rfl

theorem takeUp_scratchStore (s : State) (x : Xfer) (j : Job) (off : Nat) (b : List Byte) :
    ((s.takeUp x).scratchStore j off b).dram = (s.scratchStore j off b).dram := by
  obtain ⟨cnt, h⟩ := takeUp_eq s x
  rw [h]
  rfl

/-- A transfer's engine learns that its DRAM access is done, with the bytes it carries. -/
def State.accessed (s : State) (x : Xfer) (data : List Byte) : State :=
  s.underWay x.core x.engine
    (changeXfer x (fun u => { u with data := data, fetched := true, done := true }) ((s.core x.core).engine x.engine).outstanding)

theorem State.accessed_frame {s : State} {x : Xfer} {data : List Byte} : Frame [.hatch] s (s.accessed x data) :=
  State.underWay_frame

theorem accessed_outstanding {s t : State} (h : t.core = s.core) (x : Xfer) (data : List Byte) :
    (((t.accessed x data).core x.core).engine x.engine).outstanding =
      changeXfer x (fun u => { u with data := data, fetched := true, done := true }) ((s.core x.core).engine x.engine).outstanding := by
  rw [← h]
  exact outstanding_underWay ..

/-- What the accounts of a transfer take for its DRAM access (09 R279). -/
def Xfer.dramCharge (x : Xfer) : Account :=
  if x.reads then { Account.zero with dramRd := x.len } else { Account.zero with dramWr := x.len }

/-- What a write to DRAM stores: a job's scratch region lies in the module's DRAM, its output with the job (10 R304). -/
theorem spaceStore_region (s : State) (j : Job) (core handle off : Nat) (b : List Byte) :
    (handle = 1 → s.spaceStore j core 2 handle off b = s.scratchStore j off b) ∧
    (handle ≠ 1 → s.spaceStore j core 2 handle off b = s.setJob { j with output := memStore j.output off b }) :=
  ⟨fun h => if_pos h, fun h => if_neg h⟩

theorem spaceStore_region_frame {s : State} {j : Job} {core handle off : Nat} {b : List Byte} :
    Frame [.dram, .jobs] s (s.spaceStore j core 2 handle off b) := by
  obtain ⟨hscratch, houtput⟩ := spaceStore_region s j core handle off b
  by_cases h : handle = 1
  · rw [hscratch h]
    exact State.scratchStore_frame.mono (by decide)
  · rw [houtput h]
    exact State.setJob_frame.mono (by decide)

/-- A channel reads for a transfer, and counts the bytes. -/
def State.readFor (s : State) (ch : Nat) (x : Xfer) : State := (s.takeUp x).bump (0x080 + ch) x.len

theorem State.readFor_frame {s : State} {ch : Nat} {x : Xfer} : Frame [.mem, .cnt] s (s.readFor ch x) :=
  Frame.comp State.bump_frame (by decide) State.takeUp_frame

/-- A channel stores what a transfer writes, and counts the bytes. -/
def State.writeFor (s : State) (ch : Nat) (x : Xfer) (j : Job) : State :=
  ((s.takeUp x).spaceStore j x.core 2 x.dstHandle x.dstOff x.data).bump (0x0A0 + ch) x.len

theorem State.writeFor_frame {s : State} {ch : Nat} {x : Xfer} {j : Job} : Frame [.mem, .dram, .jobs, .cnt] s (s.writeFor ch x j) :=
  Frame.comp State.bump_frame (by decide) (Frame.comp spaceStore_region_frame (by decide) (State.takeUp_frame.mono (by decide)))

theorem writeFor_mem (s : State) (ch : Nat) (x : Xfer) (j : Job) :
    (s.writeFor ch x j).mem = { s.mem with queue := s.mem.queue.erase x } := by
  rw [State.writeFor, State.bump_mem, ← takeUp_mem]
  exact spaceStore_region_frame .mem (by decide)

theorem writeFor_scratch (s : State) (ch : Nat) {x : Xfer} (j : Job) (h : x.dstHandle = 1) :
    (s.writeFor ch x j).dram = (s.scratchStore j x.dstOff x.data).dram := by
  rw [State.writeFor, State.bump_dram, (spaceStore_region ..).1 h, takeUp_scratchStore]

theorem writeFor_output (s : State) (ch : Nat) {x : Xfer} (j : Job) (h : x.dstHandle ≠ 1) :
    (s.writeFor ch x j).dram = s.dram ∧ (s.writeFor ch x j).job j.id = some { j with output := memStore j.output x.dstOff x.data } := by
  rw [State.writeFor, (spaceStore_region ..).2 h, State.bump_dram, State.setJob_dram, State.job_bump]
  exact ⟨State.takeUp_frame .dram (by decide), State.job_setJob ..⟩

section

variable {s : State} {ch : Nat} {x : Xfer} {j : Job} (hj : s.job x.job = some j)
include hj

/-- A served read brings its bytes. -/
theorem serve_read (hr : x.reads = true) : s.serve ch x =
    (((s.readFor ch x).accessed x (s.spaceBytes j x.core x.srcSpace x.srcHandle x.srcOff x.len x.stream)).sendReleases
      x.core x.engine).charge j.session (some j.id) x.dramCharge := by
  rw [← takeUp_spaceBytes s x]
  unfold State.serve Xfer.dramCharge
  simp only [hj, hr, if_true]
  rfl

/-- A served write is in DRAM. -/
theorem serve_write (hr : x.reads = false) : s.serve ch x =
    (((s.writeFor ch x j).accessed x x.data).sendReleases x.core x.engine).charge j.session (some j.id) x.dramCharge := by
  unfold State.serve Xfer.dramCharge
  simp only [hj, hr, Bool.false_eq_true, if_false]
  rfl

end

theorem execDramService_scrubs {s : State} {ch : Nat} {x : Xfer} (hx : s.firstServed (s.waitingAt ch) = some x)
    (hscrub : s.scrubFirst ch = true) : exec (.dramService ch) s = .next (s.scrubOne ch) := by
  show execDramService ch s = _
  simp [execDramService, hx, hscrub]

theorem execDramService_waits {s : State} {ch : Nat} {x : Xfer} (hx : s.firstServed (s.waitingAt ch) = some x)
    (hscrub : s.scrubFirst ch = false) (h : (s.othersAt ch).all (s.waits x).before = false) : exec (.dramService ch) s = .next s := by
  show execDramService ch s = _
  simp only [execDramService, hx, hscrub, h, Bool.false_eq_true, if_false]

theorem execDramService_serves {s : State} {ch : Nat} {x : Xfer} (hx : s.firstServed (s.waitingAt ch) = some x)
    (hscrub : s.scrubFirst ch = false) (h : (s.othersAt ch).all (s.waits x).before = true) :
    exec (.dramService ch) s = .next (s.serve ch x) := by
  show execDramService ch s = _
  simp only [execDramService, hx, hscrub, h, Bool.false_eq_true, if_false, if_true]

/-! ### Errors (10 R308 to R310, R312) -/

/-- The corrected errors of a channel within the hour that ends now (10 R312). -/
def State.ceWithinHour (s : State) (ch : Nat) : List Nat := ((s.chan ch).ceTimes.filter fun t => s.tb.sub < t + hourSubs) ++ [s.tb.sub]

/-- A corrected error, counted with its channel. -/
def State.countCe (s : State) (ch : Nat) : State :=
  (s.setChan ch { s.chan ch with ce := min ((s.chan ch).ce + 1) 0xFFFFFFFF, ceTimes := s.ceWithinHour ch }).bump (0x0C0 + ch) 1

theorem execDramCorrectedRead_counts {s : State} {ch : Nat} (a : Nat) (hserves : s.chanServes ch = true) :
    exec (.dramCorrectedRead ch a) s = .next (
      if s.mem.ceThresh < (s.ceWithinHour ch).length then
        (s.countCe ch).raiseAlarm 0x07 (srcOf 3 ch) (s.ceWithinHour ch).length
      else s.countCe ch) := by
  show execDramCorrectedRead ch a s = _
  simp only [execDramCorrectedRead, hserves, Bool.not_true, Bool.false_eq_true, if_false]
  rfl

/-- An uncorrectable error, counted. -/
def State.countUe (s : State) : State :=
  { s.bump 0x0E0 1 with mem := { s.mem with ueCount := min (s.mem.ueCount + 1) 0xFFFF } }

theorem countUe_frame (s : State) : Frame [.mem, .cnt] s s.countUe := by
  intro b hb
  cases b with | mem | cnt => exact absurd (by decide) hb | _ => rfl

theorem countUe_stream (s : State) : s.countUe.stream = s.stream := (countUe_frame s).stream (by decide)

theorem countUe_job (s : State) : s.countUe.job = s.job := State.job_congr (countUe_frame s .jobs (by decide))

theorem countUe_model (s : State) : s.countUe.model = s.model := State.model_congr (countUe_frame s .models (by decide))

/-- What a counted uncorrectable line does, by the region that holds it (10 R300, R309). -/
def State.loseLine (s : State) (a : Nat) : State :=
  if a < 0x800000000 then s.moduleFault 1
  else if a < 0xC00000000 then
    match s.stream ((a - 0x800000000) / 1048576) with
    | some x => s.faultRowOf x
    | none => s
  else if a < 0x2400000000 then
    match s.mem.saveUsed.find? fun p => p.2 == (a - 0xC00000000) / 2097152 with
    | some p => if (s.job p.1).any fun j => j.state == .frosted || j.state == .thawing then s.tearDown p.1 309 else s
    | none => s
  else
    match s.mem.poolUsed.find? fun p => p.2 == (a - 0x2400000000) / 2097152 with
    | some p =>
      if 1048576 ≤ p.1 then s.tearDown (p.1 - 1048576) 309
      else match s.model p.1 with
        | some m => if m.hot then s else s.damage m
        | none => s
    | none => s

theorem execDramUncorrectableRead_loses {s t : State} {a : Nat} (hready : s.boot.phase = .ready) (h : s.countUe.loseLine a = t) :
    exec (.dramUncorrectableRead a) s = .next t :=
  congrArg Host.Outcome.next ((if_neg (by simp [hready])).trans h)

section

variable {s : State} {a : Nat}

/-- The system area is the module's (10 R309). -/
theorem loseLine_system (ha : a < 0x800000000) : s.loseLine a = s.moduleFault 1 := if_pos ha

/-- A stream's buffer faults the stream's job (10 R309). -/
theorem loseLine_buffer {x : Stream} {j : Job} (hlo : 0x800000000 ≤ a) (hhi : a < 0xC00000000)
    (hx : s.stream ((a - 0x800000000) / 1048576) = some x) (hj : s.job x.job = some j) : s.loseLine a = s.tearDown x.job 309 := by
  rw [State.loseLine, if_neg (by omega), if_pos hhi, hx]
  exact if_pos (by rw [hj]; rfl)

/-- A save area in use faults the job that it keeps (10 R309). -/
theorem loseLine_save {p : Nat × Nat} {j : Job} (hlo : 0xC00000000 ≤ a) (hhi : a < 0x2400000000)
    (hp : s.mem.saveUsed.find? (fun p => p.2 == (a - 0xC00000000) / 2097152) = some p) (hj : s.job p.1 = some j)
    (hstate : j.state = .frosted ∨ j.state = .thawing) : s.loseLine a = s.tearDown p.1 309 := by
  rw [State.loseLine, if_neg (by omega), if_neg (by omega), if_pos hhi, hp]
  exact if_pos (by simpa [hj] using hstate)

/-- What the general pool holds at a line decides (10 R309, R310). -/
theorem loseLine_pool {p : Nat × Nat} (hlo : 0x2400000000 ≤ a)
    (hp : s.mem.poolUsed.find? (fun p => p.2 == (a - 0x2400000000) / 2097152) = some p) :
    (1048576 ≤ p.1 → s.loseLine a = s.tearDown (p.1 - 1048576) 309) ∧
    ∀ m, p.1 < 1048576 → s.model p.1 = some m → s.loseLine a = if m.hot then s else s.damage m := by
  rw [State.loseLine, if_neg (by omega), if_neg (by omega), if_neg (by omega), hp]
  refine ⟨fun h => if_pos h, fun m h hm => ?_⟩
  dsimp only
  rw [if_neg (by omega), hm]

end

theorem enterFaulted_faults (s : State) (cause : Nat) :
    (s.enterFaulted cause).boot.phase = .faulted ∧ (s.enterFaulted cause).fault.cause = cause ∧ (s.enterFaulted cause).mem = s.mem := by
  unfold State.enterFaulted
  simp

/-- A module fault faults the module with its cause, whatever the descriptors that complete do (18 R563). -/
theorem moduleFault_faults (s : State) (cause : Nat) :
    (s.moduleFault cause).boot.phase = .faulted ∧ (s.moduleFault cause).fault.cause = cause ∧
      (s.moduleFault cause).mem.ueCount = s.mem.ueCount := by
  unfold State.moduleFault
  extract_lets u
  have hu : u.mem = s.mem := Frame.foldl .refl (fun _ _ h => Frame.comp deadRing_frame (fun _ h => h) h) .mem (by decide)
  obtain ⟨hphase, hcause, hmem⟩ := enterFaulted_faults _ cause
  refine ⟨hphase, hcause, ?_⟩
  rw [hmem, ← hu]

/-- The jobs of a damaged model fault (10 R310). -/
theorem damage_jobs_gone {s : State} {m : Model} {id : Nat} {j : Job} (hj : s.job id = some j) (hm : j.handle = m.handle) :
    (s.damage m).job id = none := by
  have hid : j.id = id := s.job_id hj
  have hin : (id, j) ∈ s.jobs := mem_of_tabGet (Option.filter_eq_some_iff.mp hj).1
  unfold State.damage
  extract_lets s1 s2
  have hgone : s2.job j.id = none :=
    State.tearDowns_gone 309 (List.mem_filter.mpr ⟨List.mem_map_of_mem (f := (·.2)) hin, by simp [hm]⟩) s1
  exact (State.Sheds.foldl State.faultRowOf_sheds _ s2).job id (hid ▸ hgone)

/-! ### Scrub and refresh (10 R311, R313) -/

theorem scrubOne_eq (s : State) (ch : Nat) : s.scrubOne ch = s.setChan ch
    (if (s.chan ch).scrubLine + 1 < channelLines then { s.chan ch with scrubLine := (s.chan ch).scrubLine + 1 }
      else { s.chan ch with scrubLine := 0, scrubAt := s.tb.sub }) := by
  unfold State.scrubOne
  extract_lets c
  split
  · rfl
  · rfl

theorem execDramScrub_reads {s : State} {ch : Nat} (hserves : s.chanServes ch = true)
    (h : s.waitingAt ch = [] ∨ s.scrubFirst ch = true) : exec (.dramScrub ch) s = .next (s.scrubOne ch) :=
  congrArg Host.Outcome.next (if_pos (by simpa [hserves] using h))

theorem execDramScrub_waits {s : State} {ch : Nat} (hwaiting : s.waitingAt ch ≠ []) (hscrub : s.scrubFirst ch = false) :
    exec (.dramScrub ch) s = .next s :=
  congrArg Host.Outcome.next (if_neg (by simp [hwaiting, hscrub]))

/-- Whether an urgent transfer waits at a channel. -/
def State.urgentAt (s : State) (ch : Nat) : Bool := s.mem.queue.any fun x => s.xferChannel x == ch && s.urgent x

/-- A due refresh runs, or is put off for an urgent transfer. -/
theorem execRefresh_next {s : State} {ch : Nat} (hserves : s.chanServes ch = true) :
    ∃ t, exec (.refresh ch) s = .next t ∧ t.mem =
      (s.setChan ch { s.chan ch with
        postponed := if s.urgentAt ch = true ∧ (s.chan ch).postponed < Config.refreshLimit then (s.chan ch).postponed + 1 else 0 }).mem := by
  refine ⟨_, congrArg Host.Outcome.next (if_neg (by simp [hserves])), ?_⟩
  have hcond : (s.urgentAt ch && decide ((s.chan ch).postponed < Config.refreshLimit)) = true ↔
      s.urgentAt ch = true ∧ (s.chan ch).postponed < Config.refreshLimit := by simp
  by_cases h : s.urgentAt ch = true ∧ (s.chan ch).postponed < Config.refreshLimit
  · rw [if_pos h]
    exact (congrArg State.mem (if_pos (hcond.mpr h))).trans rfl
  · rw [if_neg h]
    exact congrArg State.mem (if_neg (mt hcond.mp h))

/-- A channel reads as it was set, the others as before. -/
theorem chan_of_setChan {s t : State} {ch : Nat} {x : Channel} (h : t.mem = (s.setChan ch x).mem) :
    t.chan ch = x ∧ (∀ k, k ≠ ch → t.chan k = s.chan k) ∧ t.mem.queue = s.mem.queue := by
  have hchan (k : Nat) : t.chan k = (s.setChan ch x).chan k := by simp only [State.chan, h]
  exact ⟨by rw [hchan, State.chan_setChan], fun k hk => by rw [hchan, State.chan_setChan_other _ _ hk], by rw [h]; rfl⟩

/-- Settles O41: a served transfer by whether it reads, errors by the region of their line, scrub and refresh by what they set. -/
theorem dramService : Obligations.DramService := by
  refine ⟨fun ch x j s hx => ⟨execDramService_scrubs hx, execDramService_waits hx, fun hscrub hbefore hj => ?_⟩,
    fun ch a s hserves => ?_, fun a s hready => ⟨fun ha => ?_, fun x j hlo hhi hx hj => ?_, fun p j hlo hhi hp hj hstate => ?_,
      fun p hlo hp => ?_⟩, fun ch s hserves => ⟨fun h => ?_, execDramScrub_waits, ?_⟩⟩
  · rw [execDramService_serves hx hscrub hbefore]
    by_cases hr : x.reads = true
    · rw [serve_read hj hr]
      refine ⟨_, rfl, takeUp_mem s x, fun _ => ⟨State.readFor_frame (ch := ch) .dram (by decide), accessed_outstanding ?_ ..⟩,
        fun h => absurd hr (by simp [h]), Frame.comp State.accessed_frame (by decide) (State.readFor_frame.mono (by decide))⟩
      exact State.core_congr (State.readFor_frame .hatch (by decide))
    · rw [serve_write hj (Bool.eq_false_iff.mpr hr)]
      refine ⟨_, rfl, writeFor_mem s ch x j, fun h => absurd h hr,
        fun _ => ⟨writeFor_scratch s ch j, writeFor_output s ch j, accessed_outstanding ?_ ..⟩,
        Frame.comp State.accessed_frame (by decide) (State.writeFor_frame.mono (by decide))⟩
      exact State.core_congr (State.writeFor_frame .hatch (by decide))
  · refine ⟨_, execDramCorrectedRead_counts a hserves, ?_⟩
    have hchan : (s.countCe ch).mem = _ := State.bump_mem ..
    obtain ⟨hset, hother, -⟩ := chan_of_setChan hchan
    have hframe : Frame [.mem, .cnt] s (s.countCe ch) := Frame.comp State.bump_frame (by decide) (State.setChan_frame.mono (by decide))
    split
    · next h =>
      simp only [State.chan_raiseAlarm]
      exact ⟨hset, hother, fun _ => raiseAlarm_listed .., fun hle => absurd h (Nat.not_lt.mpr hle), State.raiseAlarm_dram ..,
        Frame.comp State.raiseAlarm_frame (by decide) (hframe.mono (by decide))⟩
    · next h => exact ⟨hset, hother, fun hlt => absurd hlt h, fun _ => rfl, rfl, hframe.mono (by decide)⟩
  · exact ⟨_, execDramUncorrectableRead_loses hready (loseLine_system ha), moduleFault_faults s.countUe 1⟩
  · exact execDramUncorrectableRead_loses hready (loseLine_buffer hlo hhi (countUe_stream s ▸ hx) (countUe_job s ▸ hj))
  · exact execDramUncorrectableRead_loses hready (loseLine_save hlo hhi hp (countUe_job s ▸ hj) hstate)
  · obtain ⟨hjob, hmodel⟩ := loseLine_pool (s := s.countUe) hlo hp
    refine ⟨fun h => execDramUncorrectableRead_loses hready (hjob h), fun m h hm => ⟨fun hhot => ?_, fun hcold => ?_⟩⟩
    · exact execDramUncorrectableRead_loses hready ((hmodel m h (countUe_model s ▸ hm)).trans (if_pos hhot))
    · refine ⟨_, execDramUncorrectableRead_loses hready ((hmodel m h (countUe_model s ▸ hm)).trans (if_neg (by simp [hcold]))), ?_⟩
      rw [← s.model_handle hm]
      exact ⟨damage_hasDamaged .., fun id j hj hh => damage_jobs_gone (countUe_job s ▸ hj) hh⟩
  · obtain ⟨hset, hother, -⟩ := chan_of_setChan (congrArg State.mem (scrubOne_eq s ch))
    exact ⟨_, execDramScrub_reads hserves h, hset, hother, State.scrubOne_frame .dram (by decide), State.scrubOne_frame⟩
  · obtain ⟨t, ht, hmem⟩ := execRefresh_next hserves
    obtain ⟨hset, hother, hqueue⟩ := chan_of_setChan hmem
    refine ⟨t, ht, fun h => ?_, fun hwaits hlimit => ?_, hother, hqueue, execRefresh_frame ht⟩
    · rw [hset, if_neg]
      rintro ⟨hurgent, hlt⟩
      exact h.elim (fun hw => absurd hurgent (Bool.eq_false_iff.mp hw)) (Nat.not_le.mpr hlt)
    · rw [hset, if_pos ⟨hwaits, hlimit⟩]

end Sys2Proof.Machine
end

section
/-! ### Entries of an engine's list (09 R268, R269, R273, R274, R291) -/

namespace Sys2Proof.Machine

open Sys2Proof

/-! ### The WAIT of an entry (09 R268) -/

@[simp] theorem Core.counter_setEngine (x : Core) (e : Engine) (y : EngineState) (p : Nat) (ctr : Counter) :
    (x.setEngine e y).counter p ctr = x.counter p ctr :=
  Core.counter_congr (x.setEngine_pairs e y) p ctr

@[simp] theorem Core.engine_setCounter (x : Core) (p : Nat) (ctr : Counter) (n : Nat) (e : Engine) :
    (x.setCounter p ctr n).engine e = x.engine e := by
  cases ctr <;> cases e <;> rfl

@[simp] theorem Core.engine_grants (x : Core) (g : List (Nat × Word)) (e : Engine) : ({ x with grants := g } : Core).engine e = x.engine e := by
  cases e <;> rfl

@[simp] theorem Core.setCounter_grants (x : Core) (p : Nat) (ctr : Counter) (n : Nat) : (x.setCounter p ctr n).grants = x.grants := by
  cases ctr <;> rfl

section

variable (s : State) (j : Job) (core : Nat) (eng : Engine) (e : Entry)

theorem takeWait_of_no_wait (h : e.wait = false) : s.takeWait j core eng e = s := by
  simp [State.takeWait, h]

theorem takeWait_engine (g : Engine) : ((s.takeWait j core eng e).core core).engine g = (s.core core).engine g := by
  unfold State.takeWait
  split
  · simp
  · rfl

theorem takeWait_grants : ((s.takeWait j core eng e).core core).grants = (s.core core).grants := by
  unfold State.takeWait
  split
  · simp
  · rfl

theorem takeWait_core_other {c : Nat} (h : c ≠ core) : (s.takeWait j core eng e).core c = s.core c := by
  unfold State.takeWait
  split
  · exact State.core_setCore_other _ _ h
  · rfl

theorem takeWait_counter (h : e.wait = true) :
    ((s.takeWait j core eng e).core core).counter (s.waitOn j core eng e).1 (s.waitOn j core eng e).2 =
      (s.core core).counter (s.waitOn j core eng e).1 (s.waitOn j core eng e).2 - e.waitN := by
  rw [State.takeWait, if_pos h]
  simp

theorem takeWait_splitAddr : (s.takeWait j core eng e).splitAddr j core e = s.splitAddr j core e := by
  unfold State.takeWait
  split
  · rfl
  · rfl

end

/-! ### Where an engine stands (09 R268, R273, R291) -/

/-- A job whose list of a stroke has been walked to a place. -/
def Job.walkTo (j : Job) (eng : Engine) (stroke : Nat) (w : Nat × Nat × Nat) : Job :=
  { j with walks := tabSet j.walks (walkKey stroke eng) w }

section

variable (s : State) (id core : Nat) (eng : Engine) (stroke : Nat) (w : Nat × Nat × Nat)

theorem setWalk_core : (s.setWalk id core eng stroke w).core core =
    (s.core core).setEngine eng { (s.core core).engine eng with
      job := id, stroke := stroke, since := tabErase ((s.core core).engine eng).since id } := by
  unfold State.setWalk
  extract_lets c x s1
  have h1 : s1.core core = _ := State.core_setCore ..
  split
  · exact h1
  · exact h1

theorem setWalk_outstanding :
    (((s.setWalk id core eng stroke w).core core).engine eng).outstanding = ((s.core core).engine eng).outstanding := by
  rw [setWalk_core, Core.engine_setEngine]

theorem setWalk_core_other {c : Nat} (h : c ≠ core) : (s.setWalk id core eng stroke w).core c = s.core c := by
  unfold State.setWalk
  extract_lets x y s1
  have h1 : s1.core c = s.core c := State.core_setCore_other _ _ h
  split
  · exact h1
  · exact h1

theorem setWalk_job {j : Job} (hj : s.job id = some j) :
    (s.setWalk id core eng stroke w).job id = some (j.walkTo eng stroke w) := by
  unfold State.setWalk
  extract_lets x y s1
  rw [show s1.job id = some j from hj]
  exact State.job_setJob_of_id _ (show j.id = id from s.job_id hj)

theorem stall_core : (s.stall id core eng stroke).core core =
    (s.core core).setEngine eng { (s.core core).engine eng with
      job := id, stroke := stroke
      since := tabSet ((s.core core).engine eng).since id (stroke,
        match tabGet ((s.core core).engine eng).since id with
        | some w => if w.1 = stroke then w.2 else s.tb.sub
        | none => s.tb.sub) } :=
  State.core_setCore ..

theorem stall_core_other {c : Nat} (h : c ≠ core) : (s.stall id core eng stroke).core c = s.core c :=
  State.core_setCore_other _ _ h

/-- A list that stops keeps the sub-tick of its first stop (09 R291). -/
theorem stall_since :
    let since := tabGet (((s.stall id core eng stroke).core core).engine eng).since id
    (∀ at_, tabGet ((s.core core).engine eng).since id = some (stroke, at_) → since = some (stroke, at_)) ∧
    ((∀ at_, tabGet ((s.core core).engine eng).since id ≠ some (stroke, at_)) → since = some (stroke, s.tb.sub)) := by
  rw [stall_core, Core.engine_setEngine]
  dsimp only
  rw [tabGet_tabSet_same]
  refine ⟨fun at_ h => by simp [h], fun h => ?_⟩
  split
  · next w hw =>
    have hne : w.1 ≠ stroke := fun hs => h w.2 (by rw [hw, ← hs])
    rw [if_neg hne]
  · rfl

end

/-! ### Transfers (09 R268 to R270) -/

/-- Two records of one transfer, apart from how far its bytes have come. -/
def Xfer.Same (t u : Xfer) : Prop :=
  ∃ data fetched done stream, u = { t with data := data, fetched := fetched, done := done, stream := stream }

/-- An engine's newest transfer, as it has become. -/
def State.relist (s : State) (t : Xfer) : State :=
  s.underWay t.core t.engine (((s.core t.core).engine t.engine).outstanding.dropLast ++ [t])

/-- The request of a job for a remote read (15 R481). -/
def Job.request (j : Job) (t : Xfer) (now : Nat) : Job := { j with
  nextTag := (j.nextTag + 1) % 2 ^ 32
  credits := j.credits + 1
  remotes := j.remotes ++ [⟨j.nextTag, t.core, t.srcHandle, t.srcOff, t.dstOff, t.len, 0, now⟩] }

/-- A new transfer reads at its home, waits at a channel, or has its bytes at once (09 R271, 15 R481). -/
theorem launch_cases (s : State) (j : Job) (t : Xfer) :
    (s.launch j t = ((s.setJob (j.request t s.tb.sub)).relist { t with stream := j.nextTag }).sendRead j j.nextTag 0 t.srcOff t.len) ∨
    (∃ data fetched, let u := { t with data := data, fetched := fetched }
      s.launch j t = { s.relist u with mem := { s.mem with queue := s.mem.queue ++ [u] } }) ∨
    (∃ data, s.launch j t = s.relist { t with data := data, fetched := true, done := true }) := by
  unfold State.launch
  extract_lets mark reads dram tag s1 t1 s2
  have ht1 : ∃ data fetched, t1 = { t with data := data, fetched := fetched } := by
    unfold t1
    split
    · exact ⟨_, _, rfl⟩
    · split
      · exact ⟨_, _, rfl⟩
      · exact ⟨t.data, t.fetched, rfl⟩
  obtain ⟨data, fetched, ht⟩ := ht1
  clear_value dram t1
  subst ht
  by_cases hremote : (reads && decide (t.srcSpace = 6) && j.home.isSome) = true
  · exact .inl (if_pos hremote)
  · rw [if_neg hremote]
    cases dram with
    | some a => exact .inr (.inl ⟨data, fetched, rfl⟩)
    | none => exact .inr (.inr ⟨_, rfl⟩)

theorem relist_core {s : State} {t u : Xfer} {l : List Xfer} (hcore : u.core = t.core) (heng : u.engine = t.engine)
    (h : ((s.core t.core).engine t.engine).outstanding = l ++ [t]) :
    (((s.relist u).core t.core).engine t.engine).outstanding = l ++ [u] ∧ ∀ c, c ≠ t.core → (s.relist u).core c = s.core c := by
  rw [State.relist, hcore, heng, h, List.dropLast_concat]
  exact ⟨outstanding_underWay .., fun c hc => core_underWay_other _ _ _ hc⟩

/-- A transfer that is on its way: its bytes are there, it waits at a channel, or its job's home has been asked for them (09 R271, 15 R481). -/
def State.OnWay (s : State) (id : Nat) (u : Xfer) : Prop :=
  u.done = true ∨ u ∈ s.mem.queue ∨ ∃ k, s.job id = some k ∧ ∃ r ∈ k.remotes, r.tag = u.stream ∧ r.bytes = u.len

/-- An engine's newest transfer sets out. -/
theorem launch_onWay {s : State} {j : Job} {t : Xfer} {l : List Xfer}
    (h : ((s.core t.core).engine t.engine).outstanding = l ++ [t]) :
    ∃ u, t.Same u ∧ (((s.launch j t).core t.core).engine t.engine).outstanding = l ++ [u] ∧ (s.launch j t).OnWay j.id u ∧
      ∀ c, c ≠ t.core → (s.launch j t).core c = s.core c := by
  obtain hl | ⟨data, fetched, hl⟩ | ⟨data, hl⟩ := launch_cases s j t
  · let u : Xfer := { t with stream := j.nextTag }
    have hframe : Frame [.ihx] _ (s.launch j t) := hl ▸ State.sendRead_frame
    obtain ⟨hout, hother⟩ := relist_core (s := s.setJob (j.request t s.tb.sub)) (t := t) (u := u) rfl rfl h
    rw [← State.core_congr (hframe .hatch (by decide))] at hout hother
    refine ⟨u, ⟨_, _, _, _, rfl⟩, hout, .inr (.inr ⟨j.request t s.tb.sub, ?_, ?_⟩), hother⟩
    · rw [State.job_congr (hframe .jobs (by decide))]
      exact State.job_setJob s (j.request t s.tb.sub)
    · exact ⟨_, List.mem_append_right _ (List.mem_singleton_self _), rfl, rfl⟩
  · let u : Xfer := { t with data := data, fetched := fetched }
    obtain ⟨hout, hother⟩ := relist_core (t := t) (u := u) rfl rfl h
    rw [hl]
    exact ⟨u, ⟨_, _, _, _, rfl⟩, hout, .inr (.inl (List.mem_append_right _ (List.mem_singleton_self u))), hother⟩
  · let u : Xfer := { t with data := data, fetched := true, done := true }
    obtain ⟨hout, hother⟩ := relist_core (t := t) (u := u) rfl rfl h
    rw [hl]
    exact ⟨u, ⟨_, _, _, _, rfl⟩, hout, .inl rfl, hother⟩

/-- What a transfer takes in besides its own entry stays in the bytes that are left of its window (09 R269, R270). -/
theorem mergeRun_len (s : State) (j : Job) (l : List Item) (cur : Item) (room grants : Nat) (p : Machine.Span) :
    (s.mergeRun j l cur room grants p).len ≤ p.len + room := by
  induction l generalizing cur room grants p with
  | nil => exact Nat.le_add_right ..
  | cons n rest ih =>
    unfold State.mergeRun
    split
    · split
      · next hfits =>
        refine (ih ..).trans ?_
        dsimp only
        omega
      · exact Nat.le_refl _
    · exact Nat.le_add_right ..

/-- A transfer stays in one aligned 4 KiB (09 R269). -/
theorem formXfer_window (s : State) (j : Job) (core : Nat) (eng : Engine) (stroke pos part : Nat) (list : List Item) (n : Item) :
    (s.splitAddr j core n.1 + part) % 4096 + (s.formXfer j core eng stroke pos part list n).1.len ≤ 4096 := by
  unfold State.formXfer
  extract_lets e grants room piece ends after r own t
  have hroom : (s.splitAddr j core n.1 + part) % 4096 + room = 4096 := by
    unfold room e
    omega
  have hpiece : piece ≤ room := Nat.min_le_right ..
  have hlen : r.len ≤ room := by
    unfold r
    split
    · refine (mergeRun_len ..).trans ?_
      dsimp only
      omega
    · exact hpiece
  show _ + r.len ≤ 4096
  omega

/-- From `s`, `part` bytes of an entry being in transfers, its next transfer `u` has been put on its way, and `v` is what that leaves. -/
structure Issued (s : State) (j : Job) (core : Nat) (eng : Engine) (part : Nat) (e : Entry) (v : State) (u : Xfer) : Prop where
  outstanding : ((v.core core).engine eng).outstanding = ((s.core core).engine eng).outstanding ++ [u]
  ofJob : u.job = j.id
  ofCore : u.core = core
  ofOp : u.op = e.op
  srcOff : u.srcOff = e.srcOff + part
  dstOff : u.dstOff = e.dstOff + part
  window : (s.splitAddr j core e + part) % 4096 + u.len ≤ 4096
  issued : u.issued = s.tb.sub
  onWay : v.OnWay j.id u
  others : ∀ c, c ≠ core → v.core c = s.core c
  frame : Frame [.mem, .jobs, .hatch, .ihx] s v

/-- What a WAIT takes before is no part of what an issue leaves. -/
theorem Issued.of_takeWait {s v : State} {j : Job} {core part : Nat} {eng : Engine} {e : Entry} {u : Xfer}
    (h : Issued (s.takeWait j core eng e) j core eng part e v u) : Issued s j core eng part e v u where
  outstanding := by rw [h.outstanding, takeWait_engine]
  ofJob := h.ofJob
  ofCore := h.ofCore
  ofOp := h.ofOp
  srcOff := h.srcOff
  dstOff := h.dstOff
  window := takeWait_splitAddr s j core eng e ▸ h.window
  issued := h.issued.trans (congrArg Timebase.sub (State.takeWait_frame .tb (by decide)))
  onWay := h.onWay
  others c hc := (h.others c hc).trans (takeWait_core_other s j core eng e hc)
  frame := Frame.comp h.frame (fun _ hb => hb) (State.takeWait_frame.mono (by decide))

/-- The next transfer of an entry is put on its way, and counted. -/
theorem issueXfer_issues {s : State} {j k : Job} (hk : s.job j.id = some k) (core : Nat) (eng : Engine) (stroke : Nat) (w : Nat × Nat × Nat)
    (list : List Item) (n : Item) :
    ∃ v u merges, issueXfer j core eng stroke w list n s = (v.sendReleases core eng).countXfer u merges ∧
      Issued s j core eng w.2.2 n.1 v u := by
  unfold issueXfer
  extract_lets r c x c1 s1 s2 merges
  have hs1 : s1.core core = { c1 with grants := _ } := State.core_setCore ..
  have hout : ((s2.core core).engine eng).outstanding = x.outstanding ++ [r.1] := by
    refine (setWalk_outstanding ..).trans ?_
    rw [hs1, Core.engine_grants]
    exact congrArg EngineState.outstanding (Core.engine_setEngine ..)
  have hothers (d : Nat) (hd : d ≠ core) : s2.core d = s.core d :=
    (setWalk_core_other _ _ _ _ _ _ hd).trans (State.core_setCore_other _ _ hd)
  have hframe : Frame [.jobs, .hatch] s s2 := Frame.comp State.setWalk_frame (by decide) (State.setCore_frame.mono (by decide))
  rw [setWalk_job s1 j.id core eng stroke _ hk]
  obtain ⟨u, ⟨data, fetched, done, stream, rfl⟩, hlist, honWay, hlaunch⟩ :=
    launch_onWay (s := s2) (j := k.walkTo eng stroke (w.1, w.2.1 + r.2.ended, r.2.part)) (t := r.1) hout
  refine ⟨_, { r.1 with data := data, fetched := fetched, done := done, stream := stream }, merges, rfl, hlist, rfl, rfl, rfl, rfl, rfl,
    formXfer_window s j core eng stroke w.2.1 w.2.2 list n, rfl, ?_, fun d hd => (hlaunch d hd).trans (hothers d hd), ?_⟩
  · rw [← s.job_id hk]
    exact honWay
  · exact Frame.comp State.launch_frame (by decide) (hframe.mono (by decide))

/-! ### ENGINE_ENTRY_ISSUE (09 R268, R273, R274, R291) -/

/-- An engine of a core that runs for a stroke of a job stands at an item of its list. -/
structure State.AtItem (s : State) (core id stroke : Nat) (eng : Engine) (j : Job) (n : Item) : Prop where
  job : s.job id = some j
  runs : s.engineRuns j core eng stroke = true
  noRegrant : eng = .tracer → s.regrant j core = none
  item : (s.engineList j eng stroke (s.walk j eng stroke).1)[(s.walk j eng stroke).2.1]? = some n

/-- An item's WAIT is met, and a CHAIN_SEND has its grant (09 R273, R277). -/
def State.Ready (s : State) (j : Job) (core id : Nat) (eng : Engine) (e : Entry) : Prop :=
  s.waitMet j core eng e = true ∧ (e.op = 2 → (s.core core).grantsOf id ≠ [])

/-- A remote read has its request credit (15 R477). -/
def State.Credit (s : State) (j : Job) (e : Entry) : Prop := spaceOf e.src = 6 → s.hasCredits j 1 = true

/-- An entry at the place of its list is issued unless it is a CHAIN_RECV or lacks its credit. -/
theorem issue_here {s : State} {j : Job} {e : Entry} (w : Nat × Nat × Nat) (hop : e.op ≠ 3) (hcredit : s.Credit j e) :
    ¬(e.op = 3 || (w.2.1, w.2.2) != w.2 || (spaceOf e.src = 6 && !s.hasCredits j 1)) = true := by
  have hc : (decide (spaceOf e.src = 6) && !s.hasCredits j 1) = false := by
    by_cases hsrc : spaceOf e.src = 6
    · simp [hcredit hsrc]
    · simp [hsrc]
  simp [hop, hc]

/-- Behind a MARK: its WAIT is taken, its signals are to go out, and the list stands at the next entry (09 R268, R272). -/
def State.marked (s : State) (j : Job) (core id : Nat) (eng : Engine) (stroke : Nat) (w : Nat × Nat × Nat) (e : Entry) (x : Xfer) : State :=
  ((s.takeWait j core eng e).underWay core eng
    (if e.notify || e.release then ((s.core core).engine eng).outstanding ++ [x] else ((s.core core).engine eng).outstanding)).setWalk
      id core eng stroke (w.1, w.2.1 + 1, 0)

theorem State.marked_frame {s : State} {j : Job} {core id : Nat} {eng : Engine} {stroke : Nat} {w : Nat × Nat × Nat} {e : Entry} {x : Xfer} :
    Frame [.jobs, .hatch] s (s.marked j core id eng stroke w e x) :=
  Frame.comp State.setWalk_frame (by decide) (Frame.comp State.underWay_frame (by decide) (State.takeWait_frame.mono (by decide)))

section

variable (s : State) (j : Job) (core id : Nat) (eng : Engine) (stroke : Nat) (w : Nat × Nat × Nat) (e : Entry) (x : Xfer)

theorem marked_job {k : Job} (hk : s.job id = some k) :
    (s.marked j core id eng stroke w e x).job id = some (k.walkTo eng stroke (w.1, w.2.1 + 1, 0)) := by
  refine setWalk_job _ _ _ _ _ _ ?_
  rw [State.job_congr (State.underWay_frame .jobs (by decide)), State.job_congr (State.takeWait_frame .jobs (by decide)), hk]

theorem marked_engine : let y := ((s.marked j core id eng stroke w e x).core core).engine eng
    y.job = id ∧ y.stroke = stroke ∧
      y.outstanding.length = ((s.core core).engine eng).outstanding.length + (if e.notify || e.release then 1 else 0) := by
  unfold State.marked
  rw [setWalk_core, Core.engine_setEngine]
  refine ⟨rfl, rfl, ?_⟩
  dsimp only
  rw [outstanding_underWay]
  split
  · exact List.length_append
  · rfl

theorem marked_counter (h : e.wait = true) :
    ((s.marked j core id eng stroke w e x).core core).counter (s.waitOn j core eng e).1 (s.waitOn j core eng e).2 =
      (s.core core).counter (s.waitOn j core eng e).1 (s.waitOn j core eng e).2 - e.waitN := by
  rw [State.marked, setWalk_core, Core.counter_setEngine, core_underWay, Core.counter_setEngine, takeWait_counter s j core eng e h]

theorem marked_core_other {c : Nat} (h : c ≠ core) : (s.marked j core id eng stroke w e x).core c = s.core c := by
  rw [State.marked, setWalk_core_other _ _ _ _ _ _ h, core_underWay_other _ _ _ h, takeWait_core_other _ _ _ _ _ h]

end

section

variable {s : State} {core id stroke : Nat} {eng : Engine} {j : Job} {n : Item} (h : s.AtItem core id stroke eng j n)
include h

theorem State.AtItem.guard : ¬(!s.engineRuns j core eng stroke || (eng == .tracer && (s.regrant j core).isSome)) = true := by
  have hnone : (eng == .tracer && (s.regrant j core).isSome) = false := by
    cases eng with
    | tracer => simp [h.noRegrant rfl]
    | scriber => rfl
  simp [h.runs, hnone]

/-- Nothing but the item at which the list stands is issued, nor a remote read without a credit. -/
theorem State.AtItem.exec_stays {entry part : Nat} (hno : (entry, part) ≠ (s.walk j eng stroke).2 ∨ ¬s.Credit j n.1) :
    exec (.engineEntryIssue core eng id stroke entry part) s = .next s := by
  have hno' : (n.1.op = 3 || (entry, part) != (s.walk j eng stroke).2 || (spaceOf n.1.src = 6 && !s.hasCredits j 1)) = true := by
    obtain hne | hcredit := hno
    · simp [bne_iff_ne.mpr hne]
    · simp [Classical.not_imp.mp hcredit]
  show execEngineEntryIssue core eng id stroke entry part s = _
  unfold execEngineEntryIssue
  simp only [h.job, h.item]
  rw [if_neg h.guard, if_pos hno']

/-- Behind a piece of it, the rest of an entry goes on. -/
theorem State.AtItem.exec_continues (hop : n.1.op ≠ 3) (hcredit : s.Credit j n.1) (hpart : 0 < (s.walk j eng stroke).2.2) :
    exec (.engineEntryIssue core eng id stroke (s.walk j eng stroke).2.1 (s.walk j eng stroke).2.2) s =
      .next (issueXfer j core eng stroke (s.walk j eng stroke) (s.engineList j eng stroke (s.walk j eng stroke).1) n s) := by
  show execEngineEntryIssue core eng id stroke _ _ s = _
  unfold execEngineEntryIssue
  simp only [h.job, h.item]
  rw [if_neg h.guard, if_neg (issue_here _ hop hcredit), if_pos hpart]

/-- A list that is not ready stops; a WAIT on a link that the core's strokes fill is counted. -/
theorem State.AtItem.exec_stops (hop : n.1.op ≠ 3) (hcredit : s.Credit j n.1) (hpart : (s.walk j eng stroke).2.2 = 0)
    (hno : ¬s.Ready j core id eng n.1) :
    ∃ t, exec (.engineEntryIssue core eng id stroke (s.walk j eng stroke).2.1 (s.walk j eng stroke).2.2) s = .next t ∧
      t.hatch = (s.stall id core eng stroke).hatch ∧ Frame [.hatch, .cnt] s t := by
  have hstall : Frame [.hatch, .cnt] s (s.stall id core eng stroke) := State.stall_frame.mono (by decide)
  show ∃ t, execEngineEntryIssue core eng id stroke _ _ s = .next t ∧ _
  unfold execEngineEntryIssue
  simp only [h.job, h.item]
  rw [if_neg h.guard, if_neg (issue_here _ hop hcredit), if_neg (by omega)]
  by_cases hwait : s.waitMet j core eng n.1 = true
  · have hgrant : (decide (n.1.op = 2) && ((s.core core).grantsOf id).isEmpty) = true := by
      simpa [State.Ready, hwait] using hno
    rw [if_neg (by simp [hwait]), if_pos hgrant]
    exact ⟨_, rfl, rfl, hstall⟩
  · rw [if_pos (by simp [hwait])]
    refine ⟨_, rfl, ?_, ?_⟩
    · split
      · rfl
      · rfl
    · exact .ite (fun _ => Frame.comp State.bump_frame (by decide) hstall) fun _ => hstall

/-- An entry that may start faults its job where its range does not pass; else it takes its WAIT, and a MARK is passed, any other begun. -/
theorem State.AtItem.exec_starts (hop : n.1.op ≠ 3) (hcredit : s.Credit j n.1) (hpart : (s.walk j eng stroke).2.2 = 0)
    (hready : s.Ready j core id eng n.1) :
    ∃ x, exec (.engineEntryIssue core eng id stroke (s.walk j eng stroke).2.1 (s.walk j eng stroke).2.2) s = .next (
      if s.entryFits j core n = false then s.tearDown id 129
      else if n.1.op = 0 then (s.marked j core id eng stroke (s.walk j eng stroke) n.1 x).sendReleases core eng
      else issueXfer j core eng stroke (s.walk j eng stroke) (s.engineList j eng stroke (s.walk j eng stroke).1) n
        (s.takeWait j core eng n.1)) := by
  obtain ⟨hwait, hgrant⟩ := hready
  show ∃ x, execEngineEntryIssue core eng id stroke _ _ s = _
  unfold execEngineEntryIssue State.marked
  simp only [h.job, h.item, Bool.not_eq_true']
  rw [if_neg (by simpa using h.guard), if_neg (issue_here _ hop hcredit), if_neg (by omega), if_neg (by simp [hwait]),
    if_neg (by simpa using hgrant), ← takeWait_engine s j core eng n.1 eng]
  exact ⟨_, rfl⟩

end

/-- An issued entry, as the statement of O39 says it. -/
theorem Issued.stated {s v : State} {j : Job} {core part id : Nat} {eng : Engine} {e : Entry} {u : Xfer} (hid : j.id = id)
    (h : Issued s j core eng part e v u) :
    ((v.core core).engine eng).outstanding = ((s.core core).engine eng).outstanding ++ [u] ∧ u.job = id ∧ u.core = core ∧ u.op = e.op ∧
      u.srcOff = e.srcOff + part ∧ u.dstOff = e.dstOff + part ∧ (s.splitAddr j core e + part) % 4096 + u.len ≤ 4096 ∧
      u.issued = s.tb.sub ∧ v.OnWay id u ∧ (∀ c, c ≠ core → v.core c = s.core c) ∧ Frame [.mem, .jobs, .hatch, .ihx] s v := by
  subst hid
  exact ⟨h.outstanding, h.ofJob, h.ofCore, h.ofOp, h.srcOff, h.dstOff, h.window, h.issued, h.onWay, h.others, h.frame⟩

/-- Settles O39: an entry by whether the list may start it, goes on with it, or must stop. -/
theorem engineEntries : Obligations.EngineEntries := by
  intro core id stroke eng j n s hj hruns hregrant e x w grant starts credit hitem
  have hat : s.AtItem core id stroke eng j n := ⟨hj, hruns, hregrant, hitem⟩
  have hid : j.id = id := s.job_id hj
  refine ⟨fun h0 hcredit ⟨hpart, hwait, hgrant⟩ hfits => ?_, fun hop hcredit hgo => ?_, fun hop hcredit hpart hno => ?_,
    fun hop hcredit ⟨hpart, hwait, hgrant⟩ hfits => ?_, fun hcredit => hat.exec_stays (.inr hcredit),
    fun entry part hne => hat.exec_stays (.inl hne)⟩
  · obtain ⟨u, hu⟩ := hat.exec_starts (show e.op ≠ 3 by omega) hcredit hpart ⟨hwait, hgrant⟩
    rw [if_neg (by simp [hfits]), if_pos h0] at hu
    obtain ⟨hjob, hstroke, hlen⟩ := marked_engine s j core id eng stroke w e u
    exact ⟨_, hu, ⟨_, marked_job _ _ _ _ _ _ _ _ _ hj, tabGet_tabSet_same ..⟩, hjob, hstroke, hlen,
      marked_counter s j core id eng stroke w e u, fun c hc => marked_core_other _ _ _ _ _ _ _ _ _ hc, State.marked_frame⟩
  · by_cases hpart : 0 < w.2.2
    · obtain ⟨v, u, merges, hv, hissued⟩ := issueXfer_issues (s := s) (hid ▸ hj) core eng stroke w (s.engineList j eng stroke w.1) n
      exact ⟨v, u, merges, (hat.exec_continues (show e.op ≠ 3 by omega) hcredit hpart).trans (congrArg _ hv), hissued.stated hid⟩
    · obtain ⟨⟨hzero, hwait, hgrant⟩, hfits⟩ := hgo.resolve_right hpart
      obtain ⟨x, hx⟩ := hat.exec_starts (show e.op ≠ 3 by omega) hcredit hzero ⟨hwait, hgrant⟩
      rw [if_neg (by simp [hfits]), if_neg (show e.op ≠ 0 by omega)] at hx
      have hk : (s.takeWait j core eng e).job j.id = some j := by
        rw [State.job_congr (State.takeWait_frame .jobs (by decide)), hid, hj]
      obtain ⟨v, u, merges, hv, hissued⟩ := issueXfer_issues hk core eng stroke w (s.engineList j eng stroke w.1) n
      exact ⟨v, u, merges, hx.trans (congrArg _ hv), hissued.of_takeWait.stated hid⟩
  · obtain ⟨t, ht, hhatch, hframe⟩ := hat.exec_stops hop hcredit hpart fun ⟨hwait, hgrant⟩ =>
      hno.elim (Bool.eq_false_iff.mp · hwait) (· hgrant)
    refine ⟨t, ht, ?_⟩
    dsimp only
    rw [State.core_congr hhatch]
    obtain ⟨hfirst, hnow⟩ := stall_since s id core eng stroke
    refine ⟨?_, hfirst, hnow, fun c hc => stall_core_other _ _ _ _ _ hc, hframe⟩
    rw [stall_core, Core.engine_setEngine]
  · obtain ⟨x, hx⟩ := hat.exec_starts hop hcredit hpart ⟨hwait, hgrant⟩
    exact hx.trans (congrArg _ (if_pos hfits))

end Sys2Proof.Machine
end

section
/-! ### Transfers that land, and the weight chain (09 R271, R272, R276 to R278, R291, R292) -/

namespace Sys2Proof.Machine

open Sys2Proof

/-! ### Bytes that land (09 R271, R278) -/

theorem spaceStore_core (s : State) (j : Job) (core space handle off : Nat) (b : List Byte) :
    (s.spaceStore j core space handle off b).core = s.core := by
  unfold State.spaceStore
  split
  · rfl
  · rfl
  · split
    · rfl
    · rfl
  · rfl

/-- Bytes for a window lie in Plate (09 R264). -/
theorem spaceStore_window (s : State) (j : Job) (core handle off : Nat) (b : List Byte) {space : Nat} (h : space = 0 ∨ space = 5) :
    s.spaceStore j core space handle off b =
      { s with hatch := { s.hatch with plate := memStore s.hatch.plate (plateAt core j.id handle off) b } } := by
  obtain rfl | rfl := h
  · rfl
  · rfl

section

variable (s : State) {j : Job} {core n : Nat} (ps : List ChainPiece)

theorem sendChain_plate : (s.sendChain j core ps).hatch.plate = s.hatch.plate := by
  unfold State.sendChain
  split
  · rfl
  · rfl

theorem sendChain_engine (c : Nat) (e : Engine) : ((s.sendChain j core ps).core c).engine e = (s.core c).engine e := by
  unfold State.sendChain
  split
  · next n _ =>
    by_cases hc : c = n
    · rw [hc, State.core_setCore]
      cases e <;> rfl
    · rw [State.core_setCore_other _ _ hc]
  · rfl

/-- The successor receives what a core sends on, and no other core does (09 R278). -/
theorem sendChain_chainIn (h : successor j core = some n) :
    ((s.sendChain j core ps).core n).chainIn = (s.core n).chainIn ++ ps ∧ ∀ c, c ≠ n → (s.sendChain j core ps).core c = s.core c := by
  rw [State.sendChain, h]
  exact ⟨by rw [State.core_setCore], fun c hc => State.core_setCore_other _ _ hc⟩

end

section

variable (s : State) (core : Nat) (j : Job) (x : Xfer)

theorem landBytes_engine (c : Nat) (e : Engine) : ((s.landBytes core j x).core c).engine e = (s.core c).engine e := by
  unfold State.landBytes
  extract_lets s1
  have h1 : s1.core = s.core := by
    unfold s1
    split
    · rfl
    · exact spaceStore_core ..
  split
  · rw [sendChain_engine, h1]
  · rw [h1]

variable {x}

/-- A COPY or ZERO to a window lands in it. -/
theorem landBytes_window (hop : x.op = 1 ∨ x.op = 4) (h : x.dstSpace = 0 ∨ x.dstSpace = 5) :
    s.landBytes core j x =
      { s with hatch := { s.hatch with plate := memStore s.hatch.plate (plateAt x.dstCore j.id x.dstHandle x.dstOff) x.data } } := by
  unfold State.landBytes
  rw [if_neg (show ¬x.op = 2 by omega), if_neg (by simp; omega), spaceStore_window s j x.dstCore x.dstHandle x.dstOff x.data h]

/-- A transfer into a region is in DRAM already, and a CHAIN_RECV's bytes in their slot. -/
theorem landBytes_landed (h : x.op = 3 ∨ x.dstSpace = 2) :
    (s.landBytes core j x).hatch.plate = s.hatch.plate ∧ Frame [.hatch] s (s.landBytes core j x) := by
  unfold State.landBytes
  extract_lets s1
  have h1 : s1 = s := if_pos (by simpa using h)
  rw [h1]
  split
  · exact ⟨sendChain_plate .., State.sendChain_frame⟩
  · exact ⟨rfl, .refl⟩

/-- A CHAIN_SEND's bytes go on to the successor. -/
theorem landBytes_chain (hop : x.op = 2) (h : x.dstSpace = 4) :
    s.landBytes core j x = s.sendChain j core (chainPieces j.id x.spans x.data) := by
  unfold State.landBytes
  extract_lets s1
  have h1 : s1 = s := (if_neg (by simp [hop, h])).trans (by rw [h]; rfl)
  rw [if_pos hop, h1]

end

/-! ### TRANSFER_COMPLETE (09 R271, R272) -/

theorem execTransferComplete_lands {s : State} {core : Nat} {eng : Engine} {x : Xfer} {j : Job}
    (hx : ((s.core core).engine eng).outstanding.find? (fun t => t.done && t.op != 0) = some x) (hj : s.job x.job = some j) :
    exec (.transferComplete core eng) s =
      .next ((((s.underWay core eng (landFirst ((s.core core).engine eng).outstanding)).landBytes core j x).sendSignals core eng).settle
        j.id) := by
  show execTransferComplete core eng s = _
  unfold execTransferComplete
  simp only [hx, State.job_setCore, hj]
  rfl

theorem execTransferComplete_none {s : State} {core : Nat} {eng : Engine}
    (hx : ((s.core core).engine eng).outstanding.find? (fun t => t.done && t.op != 0) = none) :
    exec (.transferComplete core eng) s = .next (s.sendSignals core eng) := by
  show execTransferComplete core eng s = _
  unfold execTransferComplete
  simp only [hx]

/-- Nothing goes out of a list whose oldest transfer has not landed. -/
theorem takeLanded_none {l : List Xfer} (h : ∀ x ∈ l.head?, x.done = false ∨ x.op ≠ 0) : takeLanded l = ([], l) := by
  cases l with
  | nil => rfl
  | cons x rest =>
    refine if_neg ?_
    obtain hd | hop := h x rfl
    · simp [hd]
    · simp [hop]

/-- The signals of the transfers that have landed go out in order, then the RELEASEs that can (09 R272). -/
theorem sendSignals_eq (s : State) (core : Nat) (eng : Engine) :
    s.sendSignals core eng =
      ((takeLanded ((s.core core).engine eng).outstanding).1.foldl
        (fun s x => engineSignal core .ready x.notify (engineSignal core .room x.release s))
        (s.underWay core eng (takeLanded ((s.core core).engine eng).outstanding).2)).sendReleases core eng := rfl

theorem sendSignals_none {s : State} {core : Nat} {eng : Engine}
    (h : ∀ x ∈ ((s.core core).engine eng).outstanding.head?, x.done = false ∨ x.op ≠ 0) :
    s.sendSignals core eng = (s.setCore core (s.core core)).sendReleases core eng := by
  rw [sendSignals_eq, takeLanded_none h]
  exact congrArg (fun c => (s.setCore core c).sendReleases core eng) (Core.setEngine_engine ..)

theorem sendSignals_first {s : State} {core : Nat} {eng : Engine} {x : Xfer} {rest : List Xfer}
    (hl : ((s.core core).engine eng).outstanding = x :: rest) (hdone : x.done = true) (hop : x.op = 0)
    (hrest : ∀ y ∈ rest, y.op ≠ 0) :
    s.sendSignals core eng =
      (engineSignal core .ready x.notify (engineSignal core .room x.release (s.underWay core eng rest))).sendReleases core eng := by
  have htake : takeLanded (x :: rest) = ([x], rest) := by
    rw [takeLanded, if_pos (by simp [hop, hdone]), takeLanded_none fun y hy => .inr (hrest y (List.mem_of_mem_head? hy))]
  rw [sendSignals_eq, hl, htake]
  rfl

/-- A signal of an engine to its own core is in the counter at once (04 R137, 09 R272). -/
theorem engineSignal_own {s : State} {core p n : Nat} {ctr : Counter} {k : Job} (hown : s.pairOwner core p = some k)
    (hwait : (s.core core).waiting = none) (hn : (s.core core).counter p ctr + n ≤ 4095) :
    ((engineSignal core ctr (some (core, p, n)) s).core core).counter p ctr = (s.core core).counter p ctr + n := by
  rw [engineSignal, if_pos rfl, signal_adds hown hn, State.core_setCore, resumeWait_none (by rw [Core.setCounter_waiting, hwait]),
    Core.counter_setCounter]

/-! ### Grants (09 R277, R292) -/

/-- The deadline that a CHAIN_RECV is granted with: the earlier of its own and that of the grant it has itself (09 R277). -/
def State.grantDeadline (s : State) (j : Job) (core : Nat) (e : Entry) : Word :=
  let own := s.ownDeadline j .tracer e (s.notifyCore j e) (s.releaseCore j e)
  if e.chain = 0 then own else earlier own (((s.core core).grantsOf j.id).headD own)

/-- From `s` to `t` a core grants a CHAIN_RECV of a job to its predecessor `p`, and the entry is outstanding (09 R277). -/
structure Grants (s : State) (j : Job) (core p : Nat) (e : Entry) (t : State) : Prop where
  given : ∃ w, (t.core p).grants = (s.core p).grants ++ [(j.id, w)] ∧ (e.wait = false → w = s.grantDeadline j core e)
  outstanding : ∃ u : Xfer, (t.core core).tracer.outstanding = (s.core core).tracer.outstanding ++ [u] ∧ u.op = 3 ∧ u.job = j.id ∧
    u.len = e.len ∧ u.done = false ∧ u.data = []
  used : e.chain ≠ 0 → (t.core core).grants = dropGrants j.id 1 (s.core core).grants
  frame : Frame [.jobs, .hatch] s t

/-- A CHAIN_RECV that can be granted: its WAIT is met, its successor has granted it, and its slot lies in its window. -/
def State.Grantable (s : State) (j : Job) (core : Nat) (n : Item) : Prop :=
  s.waitMet j core .tracer n.1 = true ∧ (n.1.chain ≠ 0 → (s.core core).grantsOf j.id ≠ []) ∧ s.entryFits j core n = true

/-- What only moves the list on, or forgets a withdrawn grant, leaves the grant. -/
theorem Grants.move {s t u : State} {j : Job} {core p : Nat} {e : Entry} (h : Grants s j core p e t) (hp : u.core p = t.core p)
    (hout : (u.core core).tracer.outstanding = (t.core core).tracer.outstanding) (hgrants : (u.core core).grants = (t.core core).grants)
    (hframe : Frame [.jobs, .hatch] t u) : Grants s j core p e u where
  given := hp ▸ h.given
  outstanding := hout ▸ h.outstanding
  used hc := hgrants.trans (h.used hc)
  frame := Frame.comp hframe (fun _ hb => hb) h.frame

theorem grant_grants {s : State} {j : Job} {core p : Nat} {n : Item} (stroke pos : Nat) (hp : p ≠ core) (hgo : s.Grantable j core n) :
    ∃ t, s.grant j core stroke pos n p = (t, true) ∧ Grants s j core p n.1 t ∧ t.jobs = s.jobs := by
  obtain ⟨hwait, hchain, hfits⟩ := hgo
  have hmissing : ¬s.grantMissing j core n.1 = true := by
    simp only [State.grantMissing, hwait, Bool.not_true, Bool.false_or, Bool.and_eq_true, bne_iff_ne, List.isEmpty_iff, not_and]
    exact hchain
  unfold State.grant
  extract_lets e s1 own deadline u c y s2
  rw [if_neg hmissing, if_neg (by simp [hfits])]
  have hs2 : s2.core core = _ := State.core_setCore ..
  have hother : s2.core p = s.core p := (State.core_setCore_other _ _ hp).trans (takeWait_core_other s j core .tracer e hp)
  have hframe : Frame [.hatch] s (s2.setCore p { s2.core p with grants := (s2.core p).grants ++ [(j.id, deadline)] }) :=
    Frame.comp State.setCore_frame (by decide) (Frame.comp State.setCore_frame (by decide) State.takeWait_frame)
  refine ⟨_, rfl, ⟨⟨deadline, ?_, fun hw => ?_⟩, ⟨u, ?_, rfl, rfl, rfl, rfl, rfl⟩, fun hc => ?_, hframe.mono (by decide)⟩,
    hframe .jobs (by decide)⟩
  · rw [State.core_setCore, hother]
  · have hs1 : s1 = s := takeWait_of_no_wait s j core .tracer e hw
    unfold deadline own
    rw [hs1, State.grantDeadline]
    by_cases hc : e.chain = 0
    · rw [if_pos hc, if_neg (by simp [hc])]
    · rw [if_neg hc, if_pos (by simpa using hc)]
  · rw [State.core_setCore_other _ _ hp.symm, hs2]
    exact congrArg (· ++ [u]) (congrArg EngineState.outstanding (takeWait_engine s j core .tracer e .tracer))
  · rw [State.core_setCore_other _ _ hp.symm, hs2]
    exact (if_pos (by simpa using hc)).trans (congrArg (dropGrants j.id 1) (takeWait_grants s j core .tracer e))

/-! ### CHAIN_GRANT (09 R277, R292) -/

section

variable {s : State} {core stroke p : Nat} {j : Job} (hj : s.job j.id = some j) (hup : s.engineUp j core .tracer = true)
  (hfetch : s.mayFetch j = true) (hpred : predecessor j core = some p)
include hj hup hfetch hpred

theorem execChainGrant_next_head (hnone : s.regrant j core = none) (hruns : s.engineRuns j core .tracer stroke = true) :
    exec (.chainGrant core j.id stroke (s.walk j .tracer stroke).2.1 p) s = .next (s.grantHead j core stroke p) := by
  have hat : s.grantAt j core stroke = (s.walk j .tracer stroke).2.1 := by rw [State.grantAt, hnone]
  show execChainGrant core j.id stroke _ p s = _
  unfold execChainGrant
  simp only [hj, hnone]
  rw [if_neg (by simp [hfetch, hpred, hup, hat]), if_pos hruns]

theorem execChainGrant_next_again {r : Nat × Nat × Nat} (hr : s.regrant j core = some r) :
    exec (.chainGrant core j.id r.1 r.2.2 p) s = .next (s.formAgain j core p r) := by
  have hat : s.grantAt j core r.1 = r.2.2 := by rw [State.grantAt, hr]
  show execChainGrant core j.id r.1 _ p s = _
  unfold execChainGrant
  simp only [hj, hr]
  rw [if_neg (by simp [hfetch, hpred, hup, hat]), if_pos trivial]

/-- The CHAIN_RECV at the head of a core's list is granted, and the list goes on (09 R277). -/
theorem execChainGrant_head {n : Item} (hp : p ≠ core) (hnone : s.regrant j core = none) (hruns : s.engineRuns j core .tracer stroke = true)
    (hitem : (s.engineList j .tracer stroke (s.walk j .tracer stroke).1)[(s.walk j .tracer stroke).2.1]? = some n) (hop : n.1.op = 3)
    (hgo : s.Grantable j core n) :
    ∃ t, exec (.chainGrant core j.id stroke (s.walk j .tracer stroke).2.1 p) s = .next t ∧ Grants s j core p n.1 t ∧
      t.job j.id = some (j.walkTo .tracer stroke ((s.walk j .tracer stroke).1, (s.walk j .tracer stroke).2.1 + 1, 0)) := by
  obtain ⟨t, ht, hgrants, hjobs⟩ := grant_grants stroke (s.walk j .tracer stroke).2.1 hp hgo
  have hhead : s.grantHead j core stroke p =
      t.setWalk j.id core .tracer stroke ((s.walk j .tracer stroke).1, (s.walk j .tracer stroke).2.1 + 1, 0) := by
    unfold State.grantHead
    simp only [hitem]
    rw [if_neg (by simp [hop]), ht]
  refine ⟨_, execChainGrant_next_head hj hup hfetch hpred hnone hruns, ?_⟩
  rw [hhead]
  refine ⟨hgrants.move (setWalk_core_other _ _ _ _ _ _ hp) ?_ ?_ State.setWalk_frame, setWalk_job _ _ _ _ _ _ ?_⟩
  · exact setWalk_outstanding t j.id core .tracer stroke _
  · rw [setWalk_core]
    rfl
  · rw [State.job_congr hjobs, hj]

/-- A grant that a Frost withdrew is formed again first (09 R292). -/
theorem execChainGrant_again {r : Nat × Nat × Nat} {n : Item} (hp : p ≠ core) (hr : s.regrant j core = some r)
    (hitem : (s.engineList j .tracer r.1 r.2.1)[r.2.2]? = some n) (hgo : s.Grantable j core n) :
    ∃ t, exec (.chainGrant core j.id r.1 r.2.2 p) s = .next t ∧ Grants s j core p n.1 t ∧
      t.job j.id = some { j with again := j.again.erase r } := by
  obtain ⟨t, ht, hgrants, hjobs⟩ := grant_grants r.1 r.2.2 hp hgo
  have hform : s.formAgain j core p r = t.setJob { j with again := j.again.erase r } := by
    unfold State.formAgain
    simp only [hitem, ht]
    rw [State.job_congr hjobs, hj]
  refine ⟨_, execChainGrant_next_again hj hup hfetch hpred hr, ?_⟩
  rw [hform]
  exact ⟨hgrants.move rfl rfl rfl (State.setJob_frame.mono (by decide)), State.job_setJob ..⟩

end

/-! ### CHAIN_DATA_ARRIVAL (09 R276, R278, R291) -/

/-- Data for a CHAIN_RECV leaves the core's input, stands in the entry, and is in its slot (09 R278). -/
def State.received (s : State) (j : Job) (core : Nat) (p : ChainPiece) (rest : List ChainPiece) (x : Xfer) : State :=
  let c := s.core core
  let got : Xfer := { x with data := x.data ++ p.data, fetched := p.last, done := p.last }
  (s.setCore core { c with
    chainIn := rest
    tracer := { c.tracer with outstanding := fillRecv p.job (fun _ => got) c.tracer.outstanding } }).spaceStore j core 0 x.dstHandle
      (x.dstOff + x.data.length) p.data

section

variable (s : State) (j : Job) (core : Nat) (p : ChainPiece) (rest : List ChainPiece) (x : Xfer)

theorem received_plate : (s.received j core p rest x).hatch.plate =
    memStore s.hatch.plate (plateAt core j.id x.dstHandle (x.dstOff + x.data.length)) p.data := rfl

theorem received_chainIn : ((s.received j core p rest x).core core).chainIn = rest := by
  rw [State.received, spaceStore_core, State.core_setCore]

theorem received_core_other {c : Nat} (h : c ≠ core) : (s.received j core p rest x).core c = s.core c := by
  rw [State.received, spaceStore_core, State.core_setCore_other _ _ h]

end

theorem State.received_frame {s : State} {j : Job} {core : Nat} {p : ChainPiece} {rest : List ChainPiece} {x : Xfer} :
    Frame [.hatch] s (s.received j core p rest x) := by
  intro b hb
  cases b with | hatch => exact absurd (by decide) hb | _ => rfl

section

variable {s : State} {core : Nat} {p : ChainPiece} {rest : List ChainPiece} {x : Xfer} {j : Job}
  (hin : (s.core core).chainIn = p :: rest)
  (hx : (s.core core).tracer.outstanding.find? (fun u => u.op = 3 && u.job = p.job && !u.done) = some x) (hj : s.job p.job = some j)
include hin hx hj

theorem execChainDataArrival_receives (hlen : x.len = p.total) :
    exec (.chainDataArrival core) s = .next (
      (if x.chain = 0 then s.received j core p rest x else (s.received j core p rest x).sendChain j core [p]).sendReleases core .tracer) := by
  show execChainDataArrival core s = _
  unfold execChainDataArrival
  simp only [hin, hx, hj]
  rw [if_neg (by simp [hlen])]
  by_cases hc : x.chain = 0
  · rw [if_pos hc, if_neg (by simp [hc])]
    rfl
  · rw [if_neg hc, if_pos (by simpa using hc)]
    rfl

theorem execChainDataArrival_faults (hlen : x.len ≠ p.total) : exec (.chainDataArrival core) s = .next (s.tearDown x.job 291) := by
  show execChainDataArrival core s = _
  unfold execChainDataArrival
  simp only [hin, hx, hj]
  rw [if_pos (by simpa using hlen)]

end

/-- Settles O40: a landing by where its bytes go, the signals of a list by its head, a grant by the entry it is for, arriving data by its length. -/
theorem transfersAndTheWeightChain : Obligations.TransfersAndTheWeightChain := by
  refine ⟨fun core eng s => ⟨fun x j hx hj => ⟨_, execTransferComplete_lands hx hj, ?_, fun hop h => ?_, fun h => ?_, fun n hop h hn => ?_⟩,
      execTransferComplete_none, fun x rest hl h => ?_, fun x rest hl hdone hop hrest => sendSignals_first hl hdone hop hrest⟩,
    fun core p n ctr k s => engineSignal_own, fun core stroke p j s hj hup hfetch hpred hp => ⟨?_, ?_⟩,
    fun core p rest x j s hin hx hj => ⟨fun hlen => ?_, execChainDataArrival_faults hin hx hj⟩⟩
  · rw [landBytes_engine, outstanding_underWay]
  · rw [landBytes_window _ core j hop h]
    exact ⟨rfl, fun b hb => by cases b with | hatch => exact absurd (by decide) hb | _ => rfl⟩
  · obtain ⟨hplate, hframe⟩ := landBytes_landed (s.underWay core eng (landFirst ((s.core core).engine eng).outstanding)) core j h
    exact ⟨hplate, Frame.comp hframe (by decide) State.underWay_frame⟩
  · rw [landBytes_chain _ core j hop h]
    refine ⟨?_, Frame.comp State.sendChain_frame (by decide) State.underWay_frame⟩
    rw [(sendChain_chainIn _ _ hn).1, underWay_chainIn]
  · exact sendSignals_none (by rw [show ((s.core core).engine eng).outstanding = x :: rest from hl]; simpa using h)
  · intro n hnone hruns hitem hop hgo
    obtain ⟨t, ht, hgrants, hjob⟩ := execChainGrant_head hj hup hfetch hpred hp hnone hruns hitem hop hgo
    exact ⟨t, ht, ⟨hgrants.given, hgrants.outstanding, hgrants.used, hgrants.frame⟩, _, hjob, tabGet_tabSet_same ..⟩
  · intro r n hr hitem hgo
    obtain ⟨t, ht, hgrants, hjob⟩ := execChainGrant_again hj hup hfetch hpred hp hr hitem hgo
    exact ⟨t, ht, ⟨hgrants.given, hgrants.outstanding, hgrants.used, hgrants.frame⟩, _, hjob, rfl⟩
  · refine ⟨_, execChainDataArrival_receives hin hx hj hlen, ?_, fun hc => ?_, fun n hc hn hne => ?_, ?_⟩
    · split
      · rfl
      · rw [sendChain_plate, received_plate]
    · rw [if_pos hc, received_chainIn]
    · obtain ⟨hnext, hother⟩ := sendChain_chainIn (s.received j core p rest x) [p] hn
      rw [if_neg hc, hnext, hother core hne.symm, received_chainIn, received_core_other _ _ _ _ _ _ hne]
      exact ⟨rfl, rfl⟩
    · exact .ite (fun _ => State.received_frame) fun _ => Frame.comp State.sendChain_frame (by decide) State.received_frame

end Sys2Proof.Machine
end

section
/-! ### Promotion and demotion of voice models (10 R315 to R319, 09 R269) -/

namespace Sys2Proof.Machine

open Sys2Proof

/-! ### Requests to Frost (11 R331, R346) -/

/-- A job Frosts, or will when the number of Frosts in progress lets it (11 R346). -/
def State.FrostAsked (s : State) (id : Nat) : Prop := ∃ k, s.job id = some k ∧ (k.state = .frosting ∨ k.frostNext = true)

section

variable {s : State} {id : Nat} {j : Job} (hj : s.job id = some j)

include hj

theorem requestFrost_bound (h : j.state = .bound) : (s.requestFrost id).FrostAsked id := by
  have hid : j.id = id := s.job_id hj
  simp only [State.requestFrost, hj, h, beq_self_eq_true, if_true]
  split
  · exact ⟨_, State.job_setJob_of_id s hid, .inl rfl⟩
  · exact ⟨_, State.job_setJob_of_id s hid, .inr rfl⟩

theorem requestFrost_thawing (h : j.state = .thawing) : (s.requestFrost id).FrostAsked id := by
  have hid : j.id = id := s.job_id hj
  rw [State.requestFrost, hj]
  simp only [h]
  exact ⟨_, State.job_setJob_of_id s hid, .inr rfl⟩

/-- A job that neither is bound nor Thaws takes no request. -/
theorem requestFrost_idle (hb : j.state ≠ .bound) (ht : j.state ≠ .thawing) : s.requestFrost id = s := by
  simp [State.requestFrost, hj, hb, ht]

end

section

variable {s : State} {i id : Nat}

theorem requestFrost_other (h : id ≠ i) : (s.requestFrost i).job id = s.job id := by
  unfold State.requestFrost
  split
  · next j hj =>
    have hset (x : Job) (hx : x.id = j.id) : (s.setJob x).job id = s.job id :=
      State.job_setJob_other s x (by rwa [hx, s.job_id hj])
    split
    · split
      · exact hset _ rfl
      · exact hset _ rfl
    · split
      · exact hset _ rfl
      · rfl
  · rfl

theorem requestFrost_asked (h : s.FrostAsked id) : (s.requestFrost i).FrostAsked id := by
  by_cases hi : id = i
  · subst hi
    have ⟨k, hk, _⟩ := h
    by_cases hb : k.state = .bound
    · exact requestFrost_bound hk hb
    · by_cases ht : k.state = .thawing
      · exact requestFrost_thawing hk ht
      · rwa [requestFrost_idle hk hb ht]
  · rwa [State.FrostAsked, requestFrost_other hi]

theorem requestFrosts_asked (l : List Nat) (h : s.FrostAsked id) : (l.foldl State.requestFrost s).FrostAsked id := by
  induction l generalizing s with
  | nil => exact h
  | cons i l ih => exact ih (requestFrost_asked h)

/-- Of the jobs asked to Frost each bound one is to. -/
theorem requestFrosts_bound {l : List Nat} {j : Job} (hid : id ∈ l) (hj : s.job id = some j) (hb : j.state = .bound) :
    (l.foldl State.requestFrost s).FrostAsked id := by
  induction l generalizing s with
  | nil => cases hid
  | cons i l ih =>
    by_cases hi : id = i
    · subst hi
      exact requestFrosts_asked l (requestFrost_bound hj hb)
    · exact ih ((List.mem_cons.mp hid).resolve_left hi) ((requestFrost_other hi).trans hj)

/-- A job that neither is bound nor Thaws stays as it is, whatever is asked. -/
theorem requestFrosts_idle (l : List Nat) {j : Job} (hj : s.job id = some j) (hb : j.state ≠ .bound) (ht : j.state ≠ .thawing) :
    (l.foldl State.requestFrost s).job id = some j := by
  induction l generalizing s with
  | nil => exact hj
  | cons i l ih =>
    by_cases hi : id = i
    · subst hi
      exact ih ((requestFrost_idle hj hb ht).symm ▸ hj)
    · exact ih ((requestFrost_other hi).trans hj)

theorem requestFrosts_frame (l : List Nat) : Frame [.jobs] s (l.foldl State.requestFrost s) :=
  .foldl .refl fun _ _ h => Frame.comp State.requestFrost_frame (by decide) h

/-- Bound Fill work on one of the cores is among the Fill jobs there. -/
theorem mem_fillOn {set : List Nat} {u c : Nat} {j : Job} (hj : s.job id = some j) (hfill : j.fill = true) (hb : j.state = .bound)
    (hc : c ∈ j.cores) (hset : c ∈ set) : id ∈ s.fillOn set u := by
  have hmem : (id, j) ∈ s.jobs := mem_of_tabGet (Option.filter_eq_some_iff.mp hj).1
  have hheld : j.held.any set.contains = true :=
    List.any_eq_true.mpr ⟨c, List.mem_append_left _ hc, List.contains_iff_mem.mpr hset⟩
  refine List.mem_map.mpr ⟨j, List.mem_filter.mpr ⟨List.mem_map.mpr ⟨_, hmem, rfl⟩, ?_⟩, s.job_id hj⟩
  simp [hfill, hb, hheld]

end

/-! ### A new job context (11 R323, R328) -/

/-- The later of two records set for a job stands. -/
theorem State.setJob_setJob (s : State) {x y : Job} (h : y.id = x.id) : (s.setJob x).setJob y = s.setJob y := by
  simp only [State.setJob, h, tabSet_tabSet]

section

variable {s : State} {n : Nat} (hn : freeKey s.jobs 1024 0 = some n) (kind : JobKind) (a : Ask) (m : List Byte) (maxCores extents : Nat)

include hn

/-- A job context is new under the lowest free ID; of memory it takes from the pools alone. -/
theorem newJob_eq (seed : DWord) (key : Word) (cores : List Nat) :
    ∃ u j, s.newJob kind a m maxCores seed key cores extents = (u.setJob j, n) ∧ Frame [.mem, .hatch] s u ∧
      u.mem.policy = s.mem.policy ∧ j.id = n ∧ j.fill = a.fill ∧ j.kind = kind ∧ j.session = a.session := by
  have hid : (freeKey s.jobs 1024 0).getD 0 = n := by rw [hn, Option.getD_some]
  refine ⟨_, _, Prod.ext rfl hid, Frame.comp State.bindCores_frame (by decide) fun b hb => ?_,
    (congrArg Mem.policy (State.bindCores_frame .mem (by decide))).trans rfl, hid, rfl, rfl, rfl⟩
  cases b with | mem => exact absurd (by decide) hb | _ => rfl

/-- Fill work begins as a Frosted job (11 R328). -/
theorem newFrosted_eq :
    ∃ u j, s.newFrosted kind a m maxCores extents = (u.setJob j, n) ∧ Frame [.mem, .hatch] s u ∧ u.mem.policy = s.mem.policy ∧
      j.id = n ∧ j.fill = a.fill ∧ j.kind = kind ∧ j.session = a.session ∧ j.state = .frosted := by
  obtain ⟨u, j, hnew, hframe, hpolicy, hid, hfill, hkind, hsession⟩ := newJob_eq hn kind a m maxCores extents 0 0 []
  refine ⟨u, { j with state := .frosted, save := some (s.emptySave m j) }, ?_, hframe, hpolicy, hid, hfill, hkind, hsession, rfl⟩
  unfold State.newFrosted
  simp only [hnew, State.job_setJob_of_id u hid]
  exact congrArg (·, n) (State.setJob_setJob u rfl)

end

/-! ### The start of a promotion (10 R315 to R318, 11 R326) -/

/-- The job that is to copy a model into a residency set, and its ID (10 R317, 11 R323). -/
def State.newCopy (s : State) (m : Model) (set : List Nat) : State × Nat :=
  s.newFrosted (.promote m.handle) ⟨m.session, m.handle, s.tb.season, 0, false, true, none, []⟩ m.image set.length 0

/-- Beside a copy's new job, Fill work in the set is asked to Frost (10 R317, 11 R350). -/
def State.openCopy (s : State) (m : Model) (set : List Nat) : State :=
  (s.fillOn set noUnit).foldl State.requestFrost (s.newCopy m set).1

section

variable {s : State} {m : Model} {set : List Nat} {n : Nat} (hn : freeKey s.jobs 1024 0 = some n)

theorem openCopy_tb : (s.openCopy m set).tb = s.tb :=
  (requestFrosts_frame _ .tb (by decide)).trans (State.newFrosted_frame rfl .tb (by decide))

include hn

theorem newCopy_eq (m : Model) (set : List Nat) :
    ∃ u j, s.newCopy m set = (u.setJob j, n) ∧ Frame [.mem, .hatch] s u ∧ u.mem.policy = s.mem.policy ∧ j.id = n ∧
      j.fill = true ∧ j.kind = .promote m.handle ∧ j.session = m.session ∧ j.state = .frosted :=
  newFrosted_eq hn ..

theorem openCopy_policy : (s.openCopy m set).mem.policy = s.mem.policy := by
  obtain ⟨u, j, hnew, _, hpolicy, _⟩ := newCopy_eq hn m set
  rw [State.openCopy, hnew]
  exact (congrArg Mem.policy (requestFrosts_frame _ .mem (by decide))).trans hpolicy

/-- The copy's job is Fill work of the model's session, and waits Frosted for capacity (10 R317, 11 R323). -/
theorem openCopy_job : ∃ j, (s.openCopy m set).job n = some j ∧
    j.fill = true ∧ j.kind = .promote m.handle ∧ j.state = .frosted ∧ j.session = m.session := by
  obtain ⟨u, j, hnew, _, _, hid, hfill, hkind, hsession, hstate⟩ := newCopy_eq hn m set
  rw [State.openCopy, hnew]
  exact ⟨j, requestFrosts_idle _ (State.job_setJob_of_id u hid) (by simp [hstate]) (by simp [hstate]), hfill, hkind, hstate, hsession⟩

/-- Fill work that is bound to a core of the set is to Frost (11 R350). -/
theorem openCopy_asks {id c : Nat} {j : Job} (hj : s.job id = some j) (hfill : j.fill = true) (hb : j.state = .bound)
    (hc : c ∈ j.cores) (hset : c ∈ set) : (s.openCopy m set).FrostAsked id := by
  have hne : id ≠ n := by
    rintro rfl
    simp [State.job, freeKey_free hn] at hj
  obtain ⟨u, k, hnew, hframe, _, hid, _⟩ := newCopy_eq hn m set
  have hold : (u.setJob k).job id = some j :=
    (State.job_setJob_other u k (hid ▸ hne)).trans (State.job_congr (hframe .jobs (by decide)) ▸ hj)
  rw [State.openCopy, hnew]
  exact requestFrosts_bound (mem_fillOn hj hfill hb hc hset) hold hb

theorem startPromotion_opens (hset : s.findSet m = some set) (hres : s.reserveOk m.image set.length 0 = true) :
    s.startPromotion m = some ((s.openCopy m set).setModel
      { m with res := .copying set n 0 (s.tb.sub, s.tb.sub + s.frameSubs), share := s.mem.policy.share }) := by
  have hid : (s.newCopy m set).2 = n := by
    obtain ⟨u, j, hnew, _⟩ := newCopy_eq hn m set
    rw [hnew]
  have hsubs : (s.openCopy m set).frameSubs = s.frameSubs := by
    rw [State.frameSubs, State.frameTicks, openCopy_tb]
    rfl
  rw [← hid, ← openCopy_tb (m := m) (set := set), ← openCopy_policy (m := m) (set := set) hn, ← hsubs]
  simp only [State.startPromotion, hset, hn, hres, Option.isNone_some, Bool.not_true, Bool.or_self, Bool.false_eq_true, if_false]
  rfl

end

theorem startPromotion_none {s : State} {m : Model} (h : s.findSet m = none) : s.startPromotion m = none := by
  simp only [State.startPromotion, h]

theorem wantsPromotion_iff {s : State} {m : Model} : s.wantsPromotion m = true ↔
    m.cls = 1 ∧ m.res = .cold ∧ s.mem.policy.autoMin ≤ s.openStreams m.handle ∧ s.mem.policy.share ≠ 0 ∧ m.damaged = false := by
  simp [State.wantsPromotion, and_assoc]

/-- If all the models that may leave would not make room, none does (10 R318). -/
theorem evictions_of_no_room {s : State} {m : Model}
    (h : ∀ n, n ≤ s.evictable.length → (s.without s.evictable n).findSet m = none) : s.evictions m = [] := by
  have hnone : (List.range (s.evictable.length + 1)).find? (fun n => ((s.without s.evictable n).findSet m).isSome) = none := by
    refine List.find?_eq_none.mpr fun n hn => ?_
    simp [h n (Nat.lt_succ_iff.mp (List.mem_range.mp hn))]
  simp only [State.evictions, hnone]

theorem promote_of_no_room {s : State} {m : Model} (hset : s.findSet m = none)
    (h : ∀ n, n ≤ s.evictable.length → (s.without s.evictable n).findSet m = none) : s.promote m = s := by
  rw [State.promote, startPromotion_none hset, Option.getD_none, State.makeRoom, evictions_of_no_room h]
  exact ite_self s

theorem execPromotion_cold {s : State} {h : Nat} {m : Model} (hm : s.model h = some m) (hres : m.res = .cold) :
    exec (.promotion h) s = .next (s.promote m) := by
  show execPromotion h s = _
  simp only [execPromotion, hm, hres]

/-! ### The transfers of a copy (09 R269, R279; 10 R317) -/

/-- A transfer's source lies in one window of 4,096 bytes (09 R269). -/
theorem promotionPiece_window (s : State) (m : Model) (set : List Nat) (done : Nat) :
    (s.promotionPiece m set done).1 % 4096 + (s.promotionPiece m set done).2.2.2 ≤ 4096 := by
  unfold State.promotionPiece
  extract_lets part addr
  have hlt : addr % 4096 < 4096 := Nat.mod_lt _ (by decide)
  dsimp only
  omega

section

variable (s : State) (m : Model) (set : List Nat) (job done : Nat)

theorem copyPiece_plate : (s.copyPiece m set job done).hatch.plate =
    memStore s.hatch.plate (residentAt (s.promotionPiece m set done).2.1 m.handle (s.promotionPiece m set done).2.2.1)
      (bytesAt (weightImage m.image) done (s.promotionPiece m set done).2.2.2) := by
  unfold State.copyPiece
  extract_lets p n data hatch s1 spent s2 res
  exact congrArg Hatch.plate (State.charge_hatch s1 ..)

theorem copyPiece_model : (s.copyPiece m set job done).model m.handle = some { m with
    res := if imgWeightBytes m.image ≤ done + (s.promotionPiece m set done).2.2.2 then .copied set job
      else .copying set job (done + (s.promotionPiece m set done).2.2.2) (s.tb.sub, s.tb.sub + s.frameSubs) } := by
  unfold State.copyPiece
  extract_lets p n data hatch s1 spent s2 res
  have htb : s2.tb = s.tb := State.charge_tb s1 ..
  have hres : res = if imgWeightBytes m.image ≤ done + n then .copied set job
      else .copying set job (done + n) (s.tb.sub, s.tb.sub + s.frameSubs) := by
    unfold res
    rw [State.frameSubs, State.frameTicks, htb]
    rfl
  rw [← hres]
  exact State.model_setModel ..

theorem copyPiece_job {j : Job} (hj : s.job job = some j) : (s.copyPiece m set job done).job job = some { j with
    account := j.account.charge { Account.zero with dramRd := (s.promotionPiece m set done).2.2.2 } } := by
  unfold State.copyPiece
  extract_lets p n data hatch s1 spent s2 res
  exact State.charge_job (s := s1) hj ..

end

theorem execPromotion_copying {s : State} {h job done : Nat} {x : Nat × Int} {m : Model} {set : List Nat} (hm : s.model h = some m)
    (hres : m.res = .copying set job done x) : exec (.promotion h) s = .next (
      if s.promotes set job = true ∧
        s.channelServes (s.channelOf (s.promotionPiece m set done).1) (s.waitingFor false x.2 x.1 job) = true
      then s.copyPiece m set job done else s) := by
  show execPromotion h s = _
  simp only [execPromotion, hm, hres, Bool.and_eq_true]

/-! ### Demotion (10 R318, R319) -/

/-- A model stands in the way of a promotion: it is one of those that leave to make room for it (10 R318). -/
def State.inWay (s : State) (h : Nat) : Prop :=
  ∃ q ∈ s.models, s.wantsPromotion q.2 = true ∧ s.findSet q.2 = none ∧ ∃ v ∈ s.evictions q.2, v.handle = h

theorem inWay_iff_any {s : State} {h : Nat} : s.inWay h ↔
    ((s.models.map (·.2)).any fun p => s.wantsPromotion p && (s.findSet p).isNone && (s.evictions p).any (·.handle == h)) = true := by
  simp [State.inWay, and_assoc]

theorem execDemotion_hot {s : State} {h : Nat} {m : Model} {set : List Nat} (hm : s.model h = some m) (hres : m.res = .hot set)
    [Decidable (s.openStreams h = 0 ∧ (m.clsNext.isSome = true ∨ s.inWay h))] :
    exec (.demotion h) s = .next (
      if s.openStreams h = 0 ∧ (m.clsNext.isSome = true ∨ s.inWay h) then s.setModel { m with res := .leaving set } else s) := by
  show execDemotion h s = _
  simp only [execDemotion, hm, hres, State.leaveSet, Residency.cores, inWay_iff_any, Bool.and_eq_true, Bool.or_eq_true, beq_iff_eq]

/-- Settles O43: the start of a promotion by what the copy's job and the requests to Frost leave, its transfers by what each moves and
charges, a demotion by whether a stream is open and what waits for it. -/
theorem residency : Obligations.Residency := by
  unfold Obligations.Residency
  refine ⟨fun h n m set s hm hres hcls hdam hmin hshare hset hn hok => ?_, fun h m s hm hres hset hroom => ?_,
    fun h job done x m set s hm hres => ⟨fun hserved => ?_, fun hnot => ?_⟩,
    fun h set m s hm hres => ⟨fun hopen hmay => ?_, fun hstays => ?_⟩⟩
  · obtain rfl := s.model_handle hm
    refine ⟨_, execPromotion_cold hm hres, ?_⟩
    rw [State.promote, if_pos (wantsPromotion_iff.mpr ⟨hcls, hres, hmin, hshare, hdam⟩), startPromotion_opens hn hset hok, Option.getD_some]
    exact ⟨State.model_setModel .., openCopy_job hn, fun id j hj hfill hb ⟨c, hc, hcset⟩ => openCopy_asks hn hj hfill hb hc hcset⟩
  · rw [execPromotion_cold hm hres, promote_of_no_room hset hroom]
  · obtain rfl := s.model_handle hm
    refine ⟨_, (execPromotion_copying hm hres).trans (by rw [if_pos hserved]), copyPiece_plate .., promotionPiece_window ..,
      fun hlast => ?_, fun hmore => ?_, fun j hj => ⟨_, copyPiece_job _ _ _ _ _ hj, rfl⟩, State.copyPiece_frame⟩
    · rw [copyPiece_model, if_pos hlast]
    · rw [copyPiece_model, if_neg (Nat.not_le.mpr hmore)]
  · rw [execPromotion_copying hm hres, if_neg hnot]
  · classical
    rw [execDemotion_hot hm hres, if_pos ⟨hopen, hmay⟩]
  · classical
    rw [execDemotion_hot hm hres, if_neg]
    rintro ⟨hopen, hmay⟩
    obtain hne | ⟨hclass, hfree⟩ := hstays
    · exact hne hopen
    · exact hmay.elim (by simp [hclass]) hfree

end Sys2Proof.Machine
end

section
/-! ### Remote reads of a Fill job, their replies and credits (11 R340, R341; 15 R477, R478, R480, R481) -/

namespace Sys2Proof.Machine

open Sys2Proof

/-! ### Messages and ports (15 R465, R477) -/

/-- What is sent depends on nothing but the Folio's state. -/
theorem send_ihx_congr {s t : State} (h : t.ihx = s.ihx) (port kind : Nat) (body : List Nat) (bytes : List Byte) :
    (t.send port kind body bytes).ihx = (s.send port kind body bytes).ihx := by
  unfold State.send State.ihxPort
  simp only [h, apply_ite State.ihx]

theorem sendRead_ihx_congr {s t : State} (h : t.ihx = s.ihx) (j : Job) (tag age off len : Nat) :
    (t.sendRead j tag age off len).ihx = (s.sendRead j tag age off len).ihx := by
  unfold State.sendRead
  have hp : t.portTo (j.home.getD 0) = s.portTo (j.home.getD 0) := by simp only [State.portTo, h]
  have hx (p : Nat) : t.ihxPort p = s.ihxPort p := by simp only [State.ihxPort, h]
  simp only [hp, hx]
  exact send_ihx_congr (by simp only [State.setIhxPort, h]) ..

@[simp] theorem State.ihxPort_send (s : State) (port kind : Nat) (body : List Nat) (bytes : List Byte) (k : Nat) :
    (s.send port kind body bytes).ihxPort k = s.ihxPort k := by
  obtain ⟨sent, wire, frames, h⟩ := send_ihx s port kind body bytes
  simp only [State.ihxPort, h]

@[simp] theorem State.ihxPort_returnCredits (s : State) (port vc n k : Nat) : (s.returnCredits port vc n).ihxPort k = s.ihxPort k :=
  State.ihxPort_send ..

theorem send_sent {s : State} {port : Nat} (h : (s.ihxPort port).trained = true) (kind : Nat) (body : List Nat) (bytes : List Byte) :
    (s.send port kind body bytes).ihx.sent = s.ihx.sent ++ [⟨port, kind, body, bytes⟩] := by
  unfold State.send
  extract_lets x n
  rw [if_neg (by simp [x, h])]
  split <;> rfl

/-! ### REMOTE_REPLY_PARKED (11 R340, R341; 15 R477) -/

section

variable {s : State} {job tag : Nat} {j : Job} {r : Remote} (hj : s.job job = some j)
  (hr : j.remotes.find? (fun r => r.tag = tag) = some r)

/-- A job that waits for a read no more. -/
def Job.answered (j : Job) (tag : Nat) : Job :=
  { j with remotes := j.remotes.filter fun q => q.tag != tag, credits := j.credits - 1 }

/-- The port on which a moved job's home answers. -/
def State.homePort (s : State) (j : Job) : Nat := s.portTo (j.home.getD 0)

/-- A reply's response credits return. -/
def State.replied (s : State) (j : Job) (r : Remote) : State := s.returnCredits (s.homePort j) 2 (ceilDiv r.bytes 256)

/-- What a job is charged for a reply, and what the port counts. -/
def State.countReply (s : State) (u : State) (j : Job) (job : Nat) (r : Remote) : State :=
  (u.charge j.session (some job) { Account.zero with ihlauxIn := r.bytes }).bump (0x150 + s.homePort j) r.bytes

/-- A reply in its slot: the transfer that waits for it is done. -/
def State.landReply (s : State) (core tag : Nat) (b : List Byte) : State :=
  s.setCore core { s.core core with tracer := landXfer tag b (s.core core).tracer }

/-- A saved job with a reply in its parking buffer. -/
def Job.parked (j : Job) (m : List Byte) (a : SaveArea) (tag : Nat) (b : List Byte) : Job :=
  { j with save := some (SaveArea.sealed m { a with parking := a.parking.map (landPark tag b) } j.id) }

/-- A reply goes into its slot, or into the parking buffer while the job is saved (11 R340). -/
def State.takeReply (s : State) (j : Job) (tag : Nat) (r : Remote) (b : List Byte) : State :=
  match j.save with
  | some a =>
    match s.model j.handle with
    | some m => s.setJob ((j.answered tag).parked m.image a tag b)
    | none => s.setJob (j.answered tag)
  | none => ((s.setJob (j.answered tag)).landReply r.core tag b).sendReleases r.core .tracer

theorem takeReply_lands {j : Job} (h : j.save = none) (s : State) (tag : Nat) (r : Remote) (b : List Byte) :
    s.takeReply j tag r b = ((s.setJob (j.answered tag)).landReply r.core tag b).sendReleases r.core .tracer := by
  rw [State.takeReply, h]

theorem takeReply_parks {j : Job} {a : SaveArea} {m : Model} {s : State} (h : j.save = some a) (hm : s.model j.handle = some m)
    (tag : Nat) (r : Remote) (b : List Byte) : s.takeReply j tag r b = s.setJob ((j.answered tag).parked m.image a tag b) := by
  rw [State.takeReply, h]
  simp only [hm]

/-- A job with a reply in the slot that waited for it. -/
def State.landed (s : State) (j : Job) (tag : Nat) (r : Remote) (b : List Byte) : State :=
  ((s.replied j r).setJob (j.answered tag)).landReply r.core tag b

theorem State.replied_frame {s : State} {j : Job} {r : Remote} : Frame [.ihx] s (s.replied j r) := State.returnCredits_frame

theorem replied_core (s : State) (j : Job) (r : Remote) : (s.replied j r).core = s.core :=
  State.core_congr (State.replied_frame .hatch (by decide))

theorem landed_core (s : State) (j : Job) (tag : Nat) (r : Remote) (b : List Byte) :
    ((s.landed j tag r b).core r.core).tracer = landXfer tag b (s.core r.core).tracer := by
  rw [State.landed, State.landReply, State.core_setCore, State.core_setJob, replied_core]

theorem landed_core_other (s : State) (j : Job) (tag : Nat) {r : Remote} {c : Nat} (b : List Byte) (h : c ≠ r.core) :
    (s.landed j tag r b).core c = s.core c := by
  rw [State.landed, State.landReply, State.core_setCore_other _ _ h, State.core_setJob, replied_core]

theorem State.landed_frame {s : State} {j : Job} {tag : Nat} {r : Remote} {b : List Byte} :
    Frame [.jobs, .hatch, .ihx] s (s.landed j tag r b) :=
  Frame.comp State.setCore_frame (by decide) (Frame.comp State.setJob_frame (by decide) (State.replied_frame.mono (by decide)))

theorem State.countReply_frame {s u : State} {j : Job} {job : Nat} {r : Remote} :
    Frame [.sessions, .jobs, .cnt, .tallies] u (s.countReply u j job r) :=
  Frame.comp State.bump_frame (by decide) (State.charge_frame.mono (by decide))

theorem countReply_ihx (s u : State) (j : Job) (job : Nat) (r : Remote) : (s.countReply u j job r).ihx = u.ihx := by
  rw [State.countReply, State.bump_ihx, State.charge_ihx]

theorem countReply_job {u : State} {k : Job} {id : Nat} (s : State) (hk : u.job id = some k) (j : Job) (r : Remote) :
    (s.countReply u j id r).job id = some { k with account := k.account.charge { Account.zero with ihlauxIn := r.bytes } } := by
  rw [State.countReply, State.job_bump, State.charge_job hk]

include hj hr

theorem execRemoteReplyParked_next (data : List Byte) : exec (.remoteReplyParked job tag data) s =
    .next (s.countReply ((s.replied j r).takeReply j tag r (bytesAt data 0 r.bytes)) j job r) := by
  show execRemoteReplyParked job tag data s = _
  obtain rfl := s.job_id hj
  unfold execRemoteReplyParked
  simp only [hj, hr]
  rfl

/-! ### FILL_READ_TIMEOUT (15 R480) -/

/-- A read goes out again, and the transfer that waits for it waits for its new tag. -/
def State.reissue (s : State) (j : Job) (tag : Nat) (r : Remote) : State :=
  (s.setCore r.core { s.core r.core with tracer := retag tag j.nextTag (s.core r.core).tracer }).readAgain
    j tag r.core (r.age + 1) r.srcOff r.bytes

theorem execFillReadTimeout_next : exec (.fillReadTimeout job tag) s = .next (
    if j.state ≠ .bound ∨ s.tb.sub < r.at_ + eightUs ∨ (r.age < 7 ∧ s.hasCredits j 1 = false) then s
    else if 7 ≤ r.age then s.tearDown job 480
    else (s.reissue j tag r).bump 0x161 1) := by
  show execFillReadTimeout job tag s = _
  unfold execFillReadTimeout
  simp only [hj, hr, Bool.or_eq_true, bne_iff_ne, decide_eq_true_eq, Bool.and_eq_true, Bool.not_eq_true', or_assoc]
  rfl

omit hr in
theorem reissue_job (r : Remote) : (s.reissue j tag r).job job = some { j with
    nextTag := nextTag j.nextTag
    remotes := j.remotes.map fun q =>
      if q.tag = tag then { q with tag := j.nextTag, age := r.age + 1, core := r.core, at_ := s.tb.sub } else q } := by
  rw [State.reissue, State.readAgain, State.job_congr (State.sendRead_frame .jobs (by decide))]
  exact State.job_setJob_of_id _ (s.job_id (j := j) hj)

end

theorem reissue_core (s : State) (j : Job) (tag : Nat) (r : Remote) :
    ((s.reissue j tag r).core r.core).tracer = retag tag j.nextTag (s.core r.core).tracer := by
  rw [State.reissue, State.core_congr (State.readAgain_frame .hatch (by decide)), State.core_setCore]

theorem reissue_ihx (s : State) (j : Job) (tag : Nat) (r : Remote) :
    (s.reissue j tag r).ihx = (s.sendRead j j.nextTag (r.age + 1) r.srcOff r.bytes).ihx := by
  rw [State.reissue, State.readAgain]
  refine sendRead_ihx_congr ?_ ..
  rfl

theorem State.reissue_frame {s : State} {j : Job} {tag : Nat} {r : Remote} : Frame [.jobs, .hatch, .ihx] s (s.reissue j tag r) :=
  Frame.comp State.readAgain_frame (by decide) (State.setCore_frame.mono (by decide))

/-! ### Reads that wait at the home module (15 R478, R480, R481) -/

/-- Of a port with reads that wait, some are answered, and response credits go with them. -/
def IhxPort.Answers (x y : IhxPort) : Prop := ∃ n l, n ≤ x.vc2Fill ∧ l ⊆ x.reads ∧ y = { x with vc2Fill := n, reads := l }

theorem IhxPort.Answers.refl (x : IhxPort) : x.Answers x := ⟨_, _, le_rfl, List.Subset.refl _, rfl⟩

theorem IhxPort.Answers.trans {x y z : IhxPort} (a : x.Answers y) (b : y.Answers z) : x.Answers z := by
  obtain ⟨n, l, hn, hl, rfl⟩ := a
  obtain ⟨n', l', hn', hl', rfl⟩ := b
  exact ⟨n', l', hn'.trans hn, List.Subset.trans hl' hl, rfl⟩

/-- A read leaves its port, and its request credit goes back. -/
def State.dropReq (s : State) (p n : Nat) (q : RemoteReq) : State :=
  s.setIhxPort p { s.ihxPort p with vc2Fill := (s.ihxPort p).vc2Fill - n, reads := (s.ihxPort p).reads.erase q }

/-- A read of a job that is there is answered. -/
def State.answer (s : State) (p : Nat) (j : Job) (q : RemoteReq) : State :=
  ((((s.dropReq p (ceilDiv q.bytes 256) q).send p 24 [q.job, q.tag] (bytesAt j.input q.offset q.bytes)).charge j.session (some j.id)
    { Account.zero with ihlauxOut := q.bytes }).bump (0x140 + p) q.bytes).returnCredits p 1 1

/-- The read that goes first: of the earliest deadline, and of those the one that came first. -/
def firstReq (r : RemoteReq) (rest : List RemoteReq) : RemoteReq := rest.foldl (fun a b => if b.deadline < a.deadline then b else a) r

/-- Serving goes on behind a read that could be answered, or whose job has ended (15 R481). -/
theorem serveReads_succ {p fuel : Nat} {s : State} {r : RemoteReq} {rest : List RemoteReq} (h : (s.ihxPort p).reads = r :: rest) :
    serveReads p (fuel + 1) s =
      let q := firstReq r rest
      match s.job q.job with
      | some j => if (s.ihxPort p).vc2Fill < ceilDiv q.bytes 256 then s else serveReads p fuel (s.answer p j q)
      | none => serveReads p fuel ((s.dropReq p 0 q).returnCredits p 1 1) := by
  rw [serveReads]
  simp only [State.dropReq, State.answer, h]
  rfl

theorem dropReq_ihxPort (s : State) (p n : Nat) (q : RemoteReq) : (s.dropReq p n q).ihxPort p =
    { s.ihxPort p with vc2Fill := (s.ihxPort p).vc2Fill - n, reads := (s.ihxPort p).reads.erase q } := State.ihxPort_setIhxPort ..

theorem dropReq_answers (s : State) (p n : Nat) (q : RemoteReq) : (s.ihxPort p).Answers ((s.dropReq p n q).ihxPort p) :=
  ⟨_, _, Nat.sub_le .., List.erase_subset, dropReq_ihxPort ..⟩

theorem answer_ihxPort (s : State) (p : Nat) (j : Job) (q : RemoteReq) (k : Nat) :
    (s.answer p j q).ihxPort k = (s.dropReq p (ceilDiv q.bytes 256) q).ihxPort k := by
  simp only [State.answer, State.ihxPort_returnCredits, State.ihxPort_bump, State.ihxPort_charge, State.ihxPort_send]

/-- Serving a port's reads answers some of them, and leaves every other port as it was. -/
theorem serveReads_answers (p fuel : Nat) (s : State) : (s.ihxPort p).Answers ((serveReads p fuel s).ihxPort p) ∧
    ∀ k, k ≠ p → (serveReads p fuel s).ihxPort k = s.ihxPort k := by
  induction fuel generalizing s with
  | zero => exact ⟨.refl _, fun _ _ => rfl⟩
  | succ fuel ih =>
    cases h : (s.ihxPort p).reads with
    | nil =>
      have hnone : serveReads p (fuel + 1) s = s := by
        rw [serveReads]
        simp only [h]
      rw [hnone]
      exact ⟨.refl _, fun _ _ => rfl⟩
    | cons r rest =>
      have step {t : State} {n : Nat} {q : RemoteReq} (ht : t.ihxPort = (s.dropReq p n q).ihxPort) :
          (s.ihxPort p).Answers ((serveReads p fuel t).ihxPort p) ∧ ∀ k, k ≠ p → (serveReads p fuel t).ihxPort k = s.ihxPort k := by
        obtain ⟨hport, hother⟩ := ih t
        refine ⟨(dropReq_answers s p n q).trans (ht ▸ hport), fun k hk => ?_⟩
        rw [hother k hk, ht, State.dropReq, State.ihxPort_setIhxPort_other _ _ hk]
      rw [serveReads_succ h]
      dsimp only
      split
      · split
        · exact ⟨.refl _, fun _ _ => rfl⟩
        · exact step (funext (answer_ihxPort _ _ _ _))
      · exact step (funext (State.ihxPort_returnCredits _ _ _ _))

/-! ### REMOTE_READ_REQUEST (15 R480, R481) -/

/-- A request that has been queued on its port. -/
def State.queued (s : State) (p : Nat) (r : RemoteReq) : State :=
  s.setIhxPort p { s.ihxPort p with reads := (s.ihxPort p).reads ++ [r] }

/-- A request with the sub-tick at which its Frame ends, less its age in Frames (15 R481). -/
def State.dated (s : State) (job tag age off n : Nat) : RemoteReq :=
  ⟨job, tag, off, n, (s.tb.sub : Int) + s.frameSubs - age * (s.frameSubs : Int)⟩

theorem queued_ihxPort (s : State) (p : Nat) (r : RemoteReq) :
    (s.queued p r).ihxPort p = { s.ihxPort p with reads := (s.ihxPort p).reads ++ [r] } := State.ihxPort_setIhxPort ..

theorem execRemoteReadRequest_next {s : State} {p : Nat} (htrained : (s.ihxPort p).trained = true) (hsecured : (s.ihxPort p).secured = true)
    (hwiring : (s.ihxPort p).wiringErr = false) (job tag age off n : Nat) : exec (.remoteReadRequest p job tag age off n) s =
      .next (serveReads p ((s.ihxPort p).reads.length + 1) (s.queued p (s.dated job tag age off n))) := by
  refine congrArg Host.Outcome.next ((if_neg (by simp [htrained, hsecured, hwiring])).trans ?_)
  extract_lets deadline x
  rw [show x.reads.length = (s.ihxPort p).reads.length + 1 from List.length_append]
  rfl

section

variable {s : State} {p : Nat} {r : RemoteReq} (h : (s.ihxPort p).reads = [])
include h

theorem queued_reads : ((s.queued p r).ihxPort p).reads = [r] := by
  rw [queued_ihxPort, h]
  rfl

/-- A request that is alone on its port waits for response credits. -/
theorem serveReads_waits {j : Job} (hj : s.job r.job = some j) (hless : (s.ihxPort p).vc2Fill < ceilDiv r.bytes 256) :
    serveReads p ((s.ihxPort p).reads.length + 1) (s.queued p r) = s.queued p r := by
  rw [serveReads_succ (queued_reads h), queued_ihxPort]
  dsimp only [firstReq, List.foldl_nil]
  rw [State.queued, State.job_setIhxPort, hj]
  exact if_pos hless

/-- A request that is alone on its port is answered. -/
theorem serveReads_answered {j : Job} (hj : s.job r.job = some j) (hcredit : ceilDiv r.bytes 256 ≤ (s.ihxPort p).vc2Fill) :
    serveReads p ((s.ihxPort p).reads.length + 1) (s.queued p r) = (s.queued p r).answer p j r := by
  rw [serveReads_succ (queued_reads h), queued_ihxPort, h]
  dsimp only [firstReq, List.foldl_nil]
  rw [State.queued, State.job_setIhxPort, hj]
  exact if_neg (Nat.not_lt.mpr hcredit)

/-- A request that is alone on its port, of a job that has ended, gives its credit back. -/
theorem serveReads_ended (hj : s.job r.job = none) :
    serveReads p ((s.ihxPort p).reads.length + 1) (s.queued p r) = ((s.queued p r).dropReq p 0 r).returnCredits p 1 1 := by
  rw [serveReads_succ (queued_reads h), h]
  dsimp only [firstReq, List.foldl_nil]
  rw [State.queued, State.job_setIhxPort, hj]
  rfl

theorem dropReq_queued (n : Nat) : ((s.queued p r).dropReq p n r).ihxPort p =
    { s.ihxPort p with vc2Fill := (s.ihxPort p).vc2Fill - n, reads := [] } := by
  rw [dropReq_ihxPort, queued_ihxPort, h]
  simp

end

theorem State.dropReq_frame {s : State} {p n : Nat} {q : RemoteReq} : Frame [.ihx] s (s.dropReq p n q) := State.setIhxPort_frame

theorem State.queued_frame {s : State} {p : Nat} {r : RemoteReq} : Frame [.ihx] s (s.queued p r) := State.setIhxPort_frame

/-- The answer of a read and its credit go out on a trained port. -/
theorem answer_sent {s : State} {p : Nat} (h : (s.ihxPort p).trained = true) (j : Job) (q : RemoteReq) :
    (s.answer p j q).ihx.sent = s.ihx.sent ++ [⟨p, 24, [q.job, q.tag], bytesAt j.input q.offset q.bytes⟩, ⟨p, 25, [1, 1], []⟩] := by
  have hdrop : ((s.dropReq p (ceilDiv q.bytes 256) q).ihxPort p).trained = true := by rw [dropReq_ihxPort, h]
  unfold State.answer State.returnCredits
  rw [send_sent (by simpa using hdrop), State.bump_ihx, State.charge_ihx, send_sent hdrop, List.append_assoc]
  rfl

section

variable {s : State} {p : Nat} {r : RemoteReq} (htrained : (s.ihxPort p).trained = true) (hreads : (s.ihxPort p).reads = [])
include htrained hreads

/-- What the read of a job that has ended leaves of its port. -/
theorem ended_leaves : let t := ((s.queued p r).dropReq p 0 r).returnCredits p 1 1
    (t.ihxPort p).reads = [] ∧ t.ihx.sent = s.ihx.sent ++ [⟨p, 25, [1, 1], []⟩] ∧ Frame [.ihx] s t := by
  have htr : (((s.queued p r).dropReq p 0 r).ihxPort p).trained = true := by rw [dropReq_queued hreads, htrained]
  refine ⟨?_, send_sent htr .., ?_⟩
  · rw [State.ihxPort_returnCredits, dropReq_queued hreads]
  · exact Frame.comp State.returnCredits_frame (by decide) (Frame.comp State.dropReq_frame (by decide) State.queued_frame)

/-- What a read that is answered at once leaves of its port. -/
theorem answered_leaves (j : Job) : let t := (s.queued p r).answer p j r
    (t.ihxPort p).reads = [] ∧ (t.ihxPort p).vc2Fill = (s.ihxPort p).vc2Fill - ceilDiv r.bytes 256 ∧
      t.ihx.sent = s.ihx.sent ++ [⟨p, 24, [r.job, r.tag], bytesAt j.input r.offset r.bytes⟩, ⟨p, 25, [1, 1], []⟩] := by
  have htr : ((s.queued p r).ihxPort p).trained = true := by rw [queued_ihxPort, htrained]
  extract_lets t
  have hport : t.ihxPort p = { s.ihxPort p with vc2Fill := (s.ihxPort p).vc2Fill - ceilDiv r.bytes 256, reads := [] } :=
    (answer_ihxPort ..).trans (dropReq_queued hreads _)
  rw [hport]
  exact ⟨rfl, rfl, answer_sent htr ..⟩

end

/-! ### CREDIT_RETURN (15 R477, R478) -/

/-- A port to which a credit has returned. -/
def IhxPort.credited (x : IhxPort) (vc : Nat) (fill : Bool) : IhxPort :=
  if vc = 1 then (if fill then { x with vc1Fill := satAdd x.vc1Fill 1 1024 } else { x with vc1Live := satAdd x.vc1Live 1 1024 })
  else if vc = 2 then (if fill then { x with vc2Fill := satAdd x.vc2Fill 1 4096 } else { x with vc2Live := satAdd x.vc2Live 1 4096 })
  else x

/-- A returned credit counts in its own pool, up to the pool's size. -/
theorem credited_eq (x : IhxPort) (vc : Nat) (fill : Bool) : x.credited vc fill = { x with
    vc1Live := if vc = 1 ∧ fill = false then min (x.vc1Live + 1) 1024 else x.vc1Live
    vc1Fill := if vc = 1 ∧ fill = true then min (x.vc1Fill + 1) 1024 else x.vc1Fill
    vc2Live := if vc = 2 ∧ fill = false then min (x.vc2Live + 1) 4096 else x.vc2Live
    vc2Fill := if vc = 2 ∧ fill = true then min (x.vc2Fill + 1) 4096 else x.vc2Fill } := by
  unfold IhxPort.credited
  by_cases h1 : vc = 1
  · cases fill <;> simp [h1, satAdd]
  · by_cases h2 : vc = 2
    · cases fill <;> simp [h2, satAdd]
    · simp [h1, h2]

theorem execCreditReturn_next {s : State} {p : Nat} (htrained : (s.ihxPort p).trained = true) (hwiring : (s.ihxPort p).wiringErr = false)
    (vc : Nat) (fill : Bool) : exec (.creditReturn p vc fill) s =
      .next (serveReads p (s.ihxPort p).reads.length (s.setIhxPort p ((s.ihxPort p).credited vc fill))) := by
  show execCreditReturn p vc fill s = _
  rw [show (s.ihxPort p).reads = ((s.ihxPort p).credited vc fill).reads by rw [credited_eq]]
  exact congrArg Host.Outcome.next (if_neg (by simp [htrained, hwiring]))

/-- What a returned credit leaves of its port and of the others (15 R477, R478). -/
theorem credited_leaves (s : State) (p vc : Nat) (fill : Bool) :
    ∃ n l, n ≤ ((s.ihxPort p).credited vc fill).vc2Fill ∧ l ⊆ (s.ihxPort p).reads ∧
      let t := serveReads p (s.ihxPort p).reads.length (s.setIhxPort p ((s.ihxPort p).credited vc fill))
      t.ihxPort p = { (s.ihxPort p).credited vc fill with vc2Fill := n, reads := l } ∧ ∀ k, k ≠ p → t.ihxPort k = s.ihxPort k := by
  obtain ⟨⟨n, l, hn, hl, hport⟩, hother⟩ :=
    serveReads_answers p (s.ihxPort p).reads.length (s.setIhxPort p ((s.ihxPort p).credited vc fill))
  rw [State.ihxPort_setIhxPort] at hn hl hport
  rw [credited_eq] at hl
  exact ⟨n, l, hn, hl, hport, fun k hk => (hother k hk).trans (State.ihxPort_setIhxPort_other _ _ hk)⟩

/-- Settles O45: a reply by where it lands, a timeout by its age and its credit, a request and a returned credit by what serving the port's
reads leaves of it. -/
theorem remoteReads : Obligations.RemoteReads := by
  unfold Obligations.RemoteReads
  refine ⟨fun job tag data j r s hj hr => ⟨fun hsave => ?_, fun a m hsave hm => ?_, fun hb hdue hage hcredit => ?_, fun hb hdue hage => ?_,
      fun hwait => ?_⟩, fun p job tag age off n s htrained hsecured hwiring => ?_, fun p vc fill s htrained hwiring => ?_,
    fun p vc job tag age off n fill s hwiring => ⟨?_, ?_⟩⟩
  · refine ⟨s.landed j tag r (bytesAt data 0 r.bytes), (execRemoteReplyParked_next hj hr data).trans (by rw [takeReply_lands hsave]; rfl),
      State.job_setJob_of_id _ (s.job_id (j := j) hj), landed_core .., rfl, fun c hc => landed_core_other _ _ _ _ hc, State.landed_frame⟩
  · obtain rfl := s.job_id hj
    have hmodel : (s.replied j r).model j.handle = some m := by
      rw [State.model_congr (State.replied_frame .models (by decide)), hm]
    have hexec := execRemoteReplyParked_next hj hr data
    rw [takeReply_parks hsave hmodel] at hexec
    have hjob := countReply_job s (State.job_setJob (s.replied j r) ((j.answered tag).parked m.image a tag (bytesAt data 0 r.bytes))) j r
    exact ⟨_, hexec, ⟨_, hjob, rfl, rfl, rfl⟩, countReply_ihx .., Frame.comp State.countReply_frame (by decide)
        (Frame.comp State.setJob_frame (by decide) (State.replied_frame.mono (by decide)))⟩
  · have hexec := execFillReadTimeout_next hj hr
    rw [if_neg (by simp [hb, hcredit]; omega), if_neg (Nat.not_le.mpr hage)] at hexec
    exact ⟨_, hexec, ⟨_, (State.job_bump ..).trans (reissue_job hj r), rfl, rfl⟩,
      (congrArg Core.tracer (State.core_bump ..)).trans (reissue_core ..), reissue_ihx ..,
      Frame.comp State.bump_frame (by decide) (State.reissue_frame.mono (by decide))⟩
  · rw [execFillReadTimeout_next hj hr, if_neg (by simp [hb]; omega), if_pos hage]
  · rw [execFillReadTimeout_next hj hr, if_pos hwait]
  · have ⟨⟨n', l, hn, hl, hport⟩, _⟩ :=
      serveReads_answers p ((s.ihxPort p).reads.length + 1) (s.queued p (s.dated job tag age off n))
    rw [queued_ihxPort] at hn hl hport
    refine ⟨_, execRemoteReadRequest_next htrained hsecured hwiring job tag age off n, ?_, ?_, fun j hreads hj hless => ?_,
      fun hreads hj => ?_, fun j hreads hj hcredit => ?_⟩
    · rw [hport]
      exact fun q hq => hl hq
    · rw [hport]
      exact hn
    · rw [serveReads_waits (r := s.dated job tag age off n) hreads hj hless]
      exact ⟨queued_reads hreads, rfl, State.queued_frame⟩
    · rw [serveReads_ended (r := s.dated job tag age off n) hreads hj]
      exact ended_leaves htrained hreads
    · rw [serveReads_answered (r := s.dated job tag age off n) hreads hj hcredit]
      exact answered_leaves htrained hreads j
  · obtain ⟨n, l, hn, hl, hport, hother⟩ := credited_leaves s p vc fill
    refine ⟨_, execCreditReturn_next htrained hwiring vc fill, ?_, ?_, ?_, ?_, ?_, fun hreads => ?_, hother⟩
    · rw [hport, credited_eq]
    · rw [hport, credited_eq]
    · rw [hport, credited_eq]
    · rw [credited_eq] at hn
      rw [hport]
      exact hn
    · rw [hport]
      exact fun q hq => hl hq
    · rw [hreads]
      exact ⟨by rw [List.length_nil, serveReads, State.ihxPort_setIhxPort, credited_eq], State.setIhxPort_frame⟩
  · exact congrArg Host.Outcome.next (if_pos (by simp [hwiring]))
  · exact congrArg Host.Outcome.next (if_pos (by simp [hwiring]))

end Sys2Proof.Machine
end

section
/-! ### The rows of a job that faults (01 R36, R38; 02 R67; 11 R357) -/

namespace Sys2Proof.Machine

open Sys2Proof

/-- A fold reaches `B` where one of its elements brings `B` about from what holds all along, and no other one undoes it. -/
theorem foldl_reaches {σ α : Type} {f : σ → α → σ} {A B : σ → Prop} {x : α} {l : List α} (hmem : x ∈ l) (hBA : ∀ s, B s → A s)
    (hown : ∀ s, A s → B (f s x)) (hA : ∀ a ∈ l, a ≠ x → ∀ s, A s → A (f s a))
    (hB : ∀ a ∈ l, a ≠ x → ∀ s, B s → B (f s a)) {s : σ} (hs : A s) : B (l.foldl f s) := by
  obtain ⟨as, bs, rfl⟩ := List.append_of_mem hmem
  rw [List.foldl_append, List.foldl_cons]
  refine List.foldlRecOn (motive := B) bs f (hown _ (List.foldlRecOn (motive := A) as f hs fun s hs a ha => ?_)) fun s hs a ha => ?_
  · by_cases hax : a = x
    · exact hBA _ (hax ▸ hown s hs)
    · exact hA a (List.mem_append_left _ ha) hax s hs
  · by_cases hax : a = x
    · exact hax ▸ hown s (hBA s hs)
    · exact hB a (List.mem_append_right _ (List.mem_cons_of_mem _ ha)) hax s hs

/-! ### What the fault of a row leaves of the other rows (11 R357) -/

/-- How a stream ended or goes on, and what of its samples is still to be delivered. -/
structure Outlook where
  phase     : StreamPhase
  faulted   : Bool
  restart   : Option Nat
  staged    : List Handed
  lineBuf   : List (Nat × Word)
  outBuf    : List (Nat × Word)
  audio     : List (Nat × Word)
  delivered : Nat

/-- A stream's outlook. -/
def Stream.outlook (x : Stream) : Outlook :=
  ⟨x.phase, x.faulted, x.restart, x.staged, x.lineBuf, x.outBuf, x.audio, x.delivered⟩

/-- From `s` to `t` the streams but one keep their outlook, no Transfer appears, and every job keeps its cores. -/
structure State.Spares (id : Nat) (s t : State) : Prop where
  streams   : ∀ k, k ≠ id → (t.stream k).map Stream.outlook = (s.stream k).map Stream.outlook
  transfers : t.ihx.transfers ⊆ s.ihx.transfers
  held      : ∀ i, (t.job i).map Job.held = (s.job i).map Job.held

theorem State.Spares.refl (id : Nat) (s : State) : s.Spares id s := ⟨fun _ _ => rfl, List.Subset.refl _, fun _ => rfl⟩

theorem State.Spares.trans {id : Nat} {s t u : State} (a : State.Spares id s t) (b : State.Spares id t u) : State.Spares id s u :=
  ⟨fun k hk => (b.streams k hk).trans (a.streams k hk), List.Subset.trans b.transfers a.transfers,
    fun i => (b.held i).trans (a.held i)⟩

/-- What a frame leaves alone needs no more; the rest is given. -/
theorem State.Spares.of_frame {id : Nat} {L : List Block} {s t : State} (h : Frame L s t)
    (hstreams : .streams ∉ L ∨ ∀ k, k ≠ id → (t.stream k).map Stream.outlook = (s.stream k).map Stream.outlook)
    (hihx : .ihx ∉ L ∨ t.ihx.transfers ⊆ s.ihx.transfers)
    (hjobs : .jobs ∉ L ∨ ∀ i, (t.job i).map Job.held = (s.job i).map Job.held) : s.Spares id t where
  streams := hstreams.elim (fun hn k _ => by rw [h.stream hn]) fun h => h
  transfers := hihx.elim (fun hn => by rw [show t.ihx = s.ihx from h .ihx hn]; exact List.Subset.refl _) fun h => h
  held := hjobs.elim (fun hn i => by rw [State.job_congr (h .jobs hn)]) fun h => h

/-- A frame without streams, Folio and jobs. -/
theorem Frame.spares {L : List Block} {s t : State} (id : Nat) (h : Frame L s t)
    (hL : decide (.streams ∉ L ∧ .ihx ∉ L ∧ .jobs ∉ L) = true) : s.Spares id t :=
  have ⟨hstreams, hihx, hjobs⟩ := of_decide_eq_true hL
  .of_frame h (.inl hstreams) (.inl hihx) (.inl hjobs)

theorem State.Spares.foldl {α : Type} {id : Nat} {f : State → α → State} (hf : ∀ (s : State) (a : α), s.Spares id (f s a)) (l : List α)
    (s : State) : s.Spares id (l.foldl f s) :=
  List.foldlRecOn (motive := s.Spares id) l f (.refl id s) fun _ hb a _ => hb.trans (hf _ a)

theorem State.Spares.ite {id : Nat} {s a b : State} {p : Prop} [Decidable p] (ha : s.Spares id a) (hb : s.Spares id b) :
    s.Spares id (if p then a else b) := by
  split
  · exact ha
  · exact hb

/-- A stream's record is as it was where its outlook is. -/
theorem setStream_spares {s : State} {k : Nat} {x y : Stream} (id : Nat) (hx : s.stream k = some x) (hy : y.id = x.id)
    (hout : y.outlook = x.outlook) : s.Spares id (s.setStream y) := by
  refine .of_frame State.setStream_frame (.inr fun i _ => ?_) (.inl (by decide)) (.inl (by decide))
  by_cases hi : i = k
  · rw [hi, State.stream_setStream_again s hx hy, hx, Option.map_some, Option.map_some, hout]
  · rw [State.stream_setStream_other s y (hy.trans (s.stream_id hx) ▸ hi)]

theorem setStream_spares_others (s : State) (y : Stream) : s.Spares y.id (s.setStream y) :=
  .of_frame State.setStream_frame (.inr fun _ hk => by rw [State.stream_setStream_other s y hk]) (.inl (by decide)) (.inl (by decide))

theorem eraseStream_spares (id : Nat) (s : State) : s.Spares id (s.eraseStream id) :=
  .of_frame State.eraseStream_frame
    (.inr fun _ hk => by rw [State.eraseStream, State.stream, tabGet_tabErase_other _ hk]; rfl) (.inl (by decide)) (.inl (by decide))

theorem setJob_spares {s : State} {k : Nat} {x j : Job} (id : Nat) (hj : s.job k = some j) (hid : x.id = j.id) (hheld : x.held = j.held) :
    s.Spares id (s.setJob x) := by
  refine .of_frame State.setJob_frame (.inl (by decide)) (.inl (by decide)) (.inr fun i => ?_)
  have hk : x.id = k := hid.trans (s.job_id hj)
  by_cases hi : i = k
  · rw [hi, State.job_setJob_of_id s hk, hj, Option.map_some, Option.map_some, hheld]
  · rw [State.job_setJob_other s x (hk ▸ hi)]

theorem charge_spares (id : Nat) (s : State) (sess : Nat) (job : Option Nat) (d : Account) : s.Spares id (s.charge sess job d) := by
  unfold State.charge
  extract_lets s1
  have h1 : s.Spares id s1 := by
    unfold s1
    split
    · next j hj =>
      obtain ⟨k, -, hk⟩ := Option.bind_eq_some_iff.mp hj
      exact setJob_spares id hk rfl rfl
    · exact .refl id s
  split
  · exact h1.trans ((Frame.comp (L := [.sessions, .tallies]) State.tally_frame (by decide)
      (State.setSession_frame.mono (by decide))).spares id rfl)
  · exact h1

theorem finishPull_spares (id ring : Nat) (d : Desc) (x : Stream) (status aflags : Nat) (s : State) :
    s.Spares id (finishPull ring d x status aflags s) := by
  unfold finishPull
  extract_lets first samples marked aad sealed port s1 a s2 s3
  have h2 : s.Spares id s2 := (State.ringWrite_frame.spares id rfl).trans (charge_spares ..)
  have h3 : s2.Spares id s3 := by
    unfold s3
    split
    · next y hy => exact setStream_spares id hy rfl rfl
    · exact .refl id s2
  exact (h2.trans h3).trans (State.complete_frame.spares id rfl)

theorem send_spares (id : Nat) (s : State) (port kind : Nat) (body : List Nat) (bytes : List Byte) :
    s.Spares id (s.send port kind body bytes) := by
  obtain ⟨sent, wire, frames, h⟩ := send_ihx s port kind body bytes
  exact .of_frame State.send_frame (.inl (by decide)) (.inr (by rw [h]; exact List.Subset.refl _)) (.inl (by decide))

theorem dropTransfer_spares (id : Nat) (s : State) (t : DWord) : s.Spares id (s.dropTransfer t) := by
  refine .of_frame State.dropTransfer_frame (.inl (by decide)) (.inr ?_) (.inl (by decide))
  unfold State.dropTransfer
  split
  · exact List.Subset.refl _
  · next x _ =>
    have hfree : (s.freeCredits x).ihx.transfers = s.ihx.transfers := by
      unfold State.freeCredits
      split
      · extract_lets p y
        split <;> rfl
      · rfl
    rw [← hfree]
    exact List.filter_subset_self _

theorem stays_outlook (x : Stream) (ord : Nat) (t : Transfer) : (x.stays ord t).outlook = x.outlook := rfl

theorem failTransfer_spares (id : Nat) (t : Transfer) (detail : Nat) (s : State) : s.Spares id (failTransfer t detail s) := by
  unfold failTransfer
  extract_lets s1 s2
  have h1 : s.Spares id s1 := by
    unfold s1
    split
    · exact State.complete_frame.spares id rfl
    · exact .refl id s
  have h2 : s1.Spares id s2 := by
    unfold s2
    split
    · next x hx => exact .ite (setStream_spares id hx rfl (stays_outlook ..)) (.refl id s1)
    · exact .refl id s1
  exact (((h1.trans h2).trans (dropTransfer_spares ..)).trans (send_spares ..)).trans (State.bump_frame.spares id rfl)

theorem faultDesc_spares (id : Nat) (x : Stream) (s : State) (d : Desc) : s.Spares id (faultDesc x s d) := by
  unfold faultDesc
  split
  · exact finishPull_spares ..
  · exact State.complete_frame.spares id rfl
  · exact State.complete_frame.spares id rfl
  · split
    · exact failTransfer_spares ..
    · exact State.complete_frame.spares id rfl
  · exact State.complete_frame.spares id rfl

theorem endFaulted_spares (s : State) (id : Nat) : s.Spares id (s.endFaulted id) := by
  unfold State.endFaulted
  split
  · refine .ite ?_ (.refl id s)
    exact ((State.Spares.foldl (faultDesc_spares id _) _ s).trans (State.freeSlot_frame.spares id rfl)).trans (eraseStream_spares ..)
  · exact .refl id s

/-! ### A row that faults -/

/-- A state in which a stream's outstanding descriptors, but its pulls, have completed, and its context is free. -/
def State.faulting (s : State) (x : Stream) : State :=
  let u := match s.arrivalOf x with
    | some t => failTransfer t 8 s
    | none => s
  ((((u.ring x.session).accepted.filter (actsOn x)).filter (·.opcode != 8)).foldl (faultDesc x) u).freeUnit x

/-- A stream that its fault has closed. -/
def Stream.closeFaulted (x : Stream) : Stream :=
  { x with
    phase := .closed, faulted := true, left := true, job := noJob, current := none, closedChunk := none, hatchChunk := none
    burinChunks := (x.burinChunks.filter (·.first < x.handed)).map fun c => { c with count := min c.count (x.handed - c.first) }
    records := [], controls := [], second := none, secondCores := [], restart := none, budget := none }

theorem closeFaulted_id (x : Stream) : x.closeFaulted.id = x.id := rfl

theorem faulting_spares (id : Nat) (s : State) (x : Stream) : s.Spares id (s.faulting x) := by
  unfold State.faulting
  extract_lets u
  have hu : s.Spares id u := by
    unfold u
    split
    · exact failTransfer_spares ..
    · exact .refl id s
  exact (hu.trans (.foldl (faultDesc_spares id x) _ u)).trans (State.freeUnit_frame.spares id rfl)

theorem stream_getD_id (s : State) (x : Stream) : ((s.stream x.id).getD x).id = x.id := by
  cases h : s.stream x.id with
  | none => rfl
  | some y => exact s.stream_id h

/-- A fault closes the stream as its completions leave it; then it goes, as soon as nothing of it is to be delivered. -/
theorem faultStream_closes (s : State) (x : Stream) : ∃ y, ((s.faulting x).stream x.id).getD x = y ∧ y.closeFaulted.id = x.id ∧
    s.faultStream x = ((s.faulting x).setStream y.closeFaulted).endFaulted x.id := by
  have hid := stream_getD_id (s.faulting x) x
  exact ⟨_, rfl, (closeFaulted_id _).trans hid, congrArg (State.endFaulted _) hid⟩

theorem faultStream_spares (s : State) (x : Stream) : s.Spares x.id (s.faultStream x) := by
  obtain ⟨y, -, hid, hclose⟩ := faultStream_closes s x
  have hset := setStream_spares_others (s.faulting x) y.closeFaulted
  rw [hid] at hset
  rw [hclose]
  exact ((faulting_spares _ s x).trans hset).trans (endFaulted_spares ..)

theorem eraseStream_gone (s : State) (id : Nat) : (s.eraseStream id).stream id = none := by
  rw [State.eraseStream, State.stream, tabGet_tabErase_same]
  rfl

theorem endFaulted_stream (s : State) (id : Nat) : (s.endFaulted id).stream id = none ∨ s.endFaulted id = s := by
  unfold State.endFaulted
  split
  · split
    · exact .inl (eraseStream_gone ..)
    · exact .inr rfl
  · exact .inr rfl

/-- A faulted stream of which nothing is still to be delivered is gone. -/
theorem endFaulted_gone {s : State} {id : Nat} {x : Stream} (hx : s.stream id = some x) (hfaulted : x.faulted = true)
    (hflight : s.inFlight x = false) : (s.endFaulted id).stream id = none := by
  rw [State.endFaulted]
  simp only [hx, hfaulted, hflight, Bool.not_false, Bool.and_self, if_true]
  exact eraseStream_gone ..

/-- A stream ended by a fault. -/
def Stream.Faulted (x : Stream) : Prop := x.phase = .closed ∧ x.faulted = true

/-- Nothing of a stream is still to be delivered. -/
def Stream.Delivered (x : Stream) : Prop :=
  x.staged = [] ∧ x.lineBuf = [] ∧ x.outBuf = [] ∧ ∀ a ∈ x.audio, a.1 < x.delivered

theorem Stream.Delivered.inFlight {x : Stream} (h : x.Delivered) (s : State) : s.inFlight x = false := by
  obtain ⟨hstaged, hline, hout, haudio⟩ := h
  simpa [State.inFlight, hstaged, hline, hout] using fun _ a b hab => haudio (a, b) hab

/-- Every record of a stream meets `p`. -/
def State.Each (s : State) (id : Nat) (p : Stream → Prop) : Prop := ∀ y, s.stream id = some y → p y

/-- What a stream's outlook tells stays so with it. -/
theorem each_of_outlook {k : Nat} {s t : State} (h : (t.stream k).map Stream.outlook = (s.stream k).map Stream.outlook)
    {p : Stream → Prop} (hp : ∀ x y : Stream, y.outlook = x.outlook → p x → p y) (hs : s.Each k p) : t.Each k p := by
  intro y hy
  rw [hy, Option.map_some, eq_comm, Option.map_eq_some_iff] at h
  obtain ⟨x, hx, hxy⟩ := h
  exact hp x y hxy.symm (hs x hx)

theorem none_of_outlook {k : Nat} {s t : State} (h : (t.stream k).map Stream.outlook = (s.stream k).map Stream.outlook)
    (hs : s.stream k = none) : t.stream k = none := by
  rwa [hs, Option.map_none, Option.map_eq_none_iff] at h

/-- A stream waits for its restart up to a plan close. -/
def State.WaitsUntil (s : State) (id last : Nat) : Prop := ∃ y, s.stream id = some y ∧ y.restart = some last

theorem waits_of_outlook {k last : Nat} {s t : State} (h : (t.stream k).map Stream.outlook = (s.stream k).map Stream.outlook)
    (hs : s.WaitsUntil k last) : t.WaitsUntil k last := by
  obtain ⟨x, hx, hrestart⟩ := hs
  rw [hx, Option.map_some, Option.map_eq_some_iff] at h
  obtain ⟨y, hy, hout⟩ := h
  exact ⟨y, hy, (congrArg Outlook.restart hout).trans hrestart⟩

theorem faulted_of_outlook {x y : Stream} (h : y.outlook = x.outlook) (hx : x.Faulted) : y.Faulted :=
  ⟨(congrArg Outlook.phase h).trans hx.1, (congrArg Outlook.faulted h).trans hx.2⟩

theorem delivered_of_outlook {x y : Stream} (h : y.outlook = x.outlook) (hx : x.Delivered) : y.Delivered := by
  obtain ⟨hstaged, hline, hout, haudio⟩ := hx
  refine ⟨(congrArg Outlook.staged h).trans hstaged, (congrArg Outlook.lineBuf h).trans hline, (congrArg Outlook.outBuf h).trans hout,
    fun a ha => ?_⟩
  rw [show y.delivered = x.delivered from congrArg Outlook.delivered h]
  exact haudio a ((show y.audio = x.audio from congrArg Outlook.audio h) ▸ ha)

theorem closeFaulted_delivered {x : Stream} (h : x.Delivered) : x.closeFaulted.Delivered := h

theorem faultStream_faults (s : State) (x : Stream) : (s.faultStream x).Each x.id Stream.Faulted := by
  obtain ⟨y, -, hid, hclose⟩ := faultStream_closes s x
  intro z hz
  obtain hnone | hsame := endFaulted_stream ((s.faulting x).setStream y.closeFaulted) x.id
  · rw [hclose, hnone] at hz
    cases hz
  · rw [hclose, hsame, ← hid, State.stream_setStream] at hz
    obtain rfl := Option.some.inj hz
    exact ⟨rfl, rfl⟩

theorem faultStream_gone {s : State} {x : Stream} (hx : x.Delivered) (hs : s.Each x.id Stream.Delivered) :
    (s.faultStream x).stream x.id = none := by
  obtain ⟨y, hy, hid, hclose⟩ := faultStream_closes s x
  have hdelivered : y.Delivered := by
    rw [← hy]
    cases h : (s.faulting x).stream x.id with
    | none => exact hx
    | some z => exact each_of_outlook ((faulting_spares (x.id + 1) s x).streams _ (by omega)) (fun _ _ => delivered_of_outlook) hs z h
  rw [hclose]
  refine endFaulted_gone (x := y.closeFaulted) ?_ rfl ((closeFaulted_delivered hdelivered).inFlight _)
  rw [← hid, State.stream_setStream]

/-! ### A Keep stream that waits for its restart (02 R67) -/

theorem awaitRestart_spares (s : State) (x : Stream) : s.Spares x.id (s.awaitRestart x) := by
  unfold State.awaitRestart
  extract_lets s1 cores z y
  exact ((State.haltUnit_frame.spares _ rfl).trans (setStream_spares_others s1 y)).trans (State.markRestart_frame.spares _ rfl)

theorem awaitRestart_waits (s : State) (x : Stream) :
    (s.awaitRestart x).WaitsUntil x.id (s.tb.frameOrd + 2) := by
  unfold State.awaitRestart
  extract_lets s1 cores z y
  have htb : s1.tb = s.tb := State.haltUnit_frame .tb (by decide)
  refine ⟨y, ?_, congrArg (fun t : Timebase => some (t.frameOrd + 2)) htb⟩
  rw [State.markRestart_frame.stream (by decide)]
  exact State.stream_setStream s1 y

theorem faultRow_spares (s : State) (x : Stream) : s.Spares x.id (faultRow s x) := by
  unfold faultRow
  refine .ite ?_ (faultStream_spares s x)
  split
  · next t _ =>
    have h := awaitRestart_spares (failTransfer t 11 s) (((failTransfer t 11 s).stream x.id).getD x)
    rw [stream_getD_id] at h
    exact (failTransfer_spares ..).trans h
  · exact awaitRestart_spares s x

theorem faultRow_of_not_keep {x : Stream} (h : x.keep = false) (s : State) : faultRow s x = s.faultStream x :=
  if_neg (by simp [h])

/-- A Keep stream with both its shadows, neither on its way in nor on a damaged model, waits for its restart. -/
structure State.MayRestart (s : State) (x : Stream) : Prop where
  keep    : x.keep = true
  second  : x.second.isSome = true
  shadow  : x.shadow.isSome = true
  settled : s.arrivalOf x = none
  whole   : ∀ h m, h = x.handle ∨ h = x.voice → s.model h = some m → m.damaged = false

theorem faultRow_waits {s : State} {x : Stream} (h : s.MayRestart x) :
    (faultRow s x).WaitsUntil x.id (s.tb.frameOrd + 2) := by
  have hwhole : ([x.handle, x.voice].any fun h => (s.model h).any (·.damaged)) = false := by
    simp only [List.any_eq_false, List.mem_cons, List.not_mem_nil, or_false]
    intro k hk
    cases hm : s.model k with
    | none => simp
    | some m => simp [h.whole k m hk hm]
  unfold faultRow
  rw [if_pos (by simp only [h.keep, h.second, h.shadow, h.settled, hwhole, Option.isNone_none, Bool.not_false, Bool.and_self])]
  split
  · next t _ =>
    have hw := awaitRestart_waits (failTransfer t 11 s) (((failTransfer t 11 s).stream x.id).getD x)
    rw [stream_getD_id, show (failTransfer t 11 s).tb = s.tb from failTransfer_frame .tb (by decide)] at hw
    exact hw
  · exact awaitRestart_waits s x

/-- What a row's fault leaves alone of what a restart rests on. -/
theorem faultRow_mayRestart {s : State} {x : Stream} (z : Stream) (h : s.MayRestart x) : (faultRow s z).MayRestart x where
  keep := h.keep
  second := h.second
  shadow := h.shadow
  settled := List.find?_eq_none.mpr fun t ht => List.find?_eq_none.mp h.settled t ((faultRow_spares s z).transfers ht)
  whole := by
    rw [State.model_congr (faultRow_frame .models (by decide))]
    exact h.whole

/-! ### All rows of a job -/

theorem faultRows_frame (l : List Stream) (s : State) :
    Frame [.rmk, .sessions, .streams, .jobs, .burin, .lines, .ihx, .cnt, .tallies, .host] s (l.foldl faultRow s) :=
  .foldl .refl fun _ _ h => Frame.comp faultRow_frame (List.Subset.refl _) h

theorem faultRows_held (l : List Stream) (s : State) (i : Nat) : ((l.foldl faultRow s).job i).map Job.held = (s.job i).map Job.held :=
  List.foldlRecOn (motive := fun t : State => (t.job i).map Job.held = (s.job i).map Job.held) l faultRow rfl
    fun t h x _ => ((faultRow_spares t x).held i).trans h

section

variable {l : List Stream} {x : Stream} (hx : x ∈ l) (hown : ∀ z ∈ l, z ≠ x → x.id ≠ z.id)
include hx hown

theorem faultRows_fault (hkeep : x.keep = false) (s : State) : (l.foldl faultRow s).Each x.id Stream.Faulted :=
  foldl_reaches (A := fun _ => True) (B := fun t => t.Each x.id Stream.Faulted) hx (fun _ _ => trivial)
    (fun t _ => faultRow_of_not_keep hkeep t ▸ faultStream_faults t x) (fun _ _ _ _ _ => trivial)
    (fun z hz hne t ht => each_of_outlook ((faultRow_spares t z).streams _ (hown z hz hne)) (fun _ _ => faulted_of_outlook) ht) trivial

theorem faultRows_gone (hkeep : x.keep = false) (hdelivered : x.Delivered) {s : State} (hs : s.Each x.id Stream.Delivered) :
    (l.foldl faultRow s).stream x.id = none := by
  refine foldl_reaches (A := fun t => t.Each x.id Stream.Delivered) (B := fun t => t.stream x.id = none) hx
    (fun t ht y hy => by rw [ht] at hy; cases hy) (fun t ht => faultRow_of_not_keep hkeep t ▸ faultStream_gone hdelivered ht)
    (fun z hz hne t ht => each_of_outlook ((faultRow_spares t z).streams _ (hown z hz hne)) (fun _ _ => delivered_of_outlook) ht)
    (fun z hz hne t ht => none_of_outlook ((faultRow_spares t z).streams _ (hown z hz hne)) ht) hs

theorem faultRows_wait {s : State} (h : s.MayRestart x) : (l.foldl faultRow s).WaitsUntil x.id (s.tb.frameOrd + 2) := by
  have htb {t u : State} (z : Stream) (ht : u.tb = t.tb) : (faultRow u z).tb = t.tb := (faultRow_frame .tb (by decide)).trans ht
  exact (foldl_reaches (A := fun t : State => t.MayRestart x ∧ t.tb = s.tb)
    (B := fun t : State => (t.MayRestart x ∧ t.tb = s.tb) ∧ t.WaitsUntil x.id (s.tb.frameOrd + 2)) hx (fun _ ht => ht.1)
    (fun t ⟨hmay, ht⟩ => ⟨⟨faultRow_mayRestart x hmay, htb x ht⟩, ht ▸ faultRow_waits hmay⟩)
    (fun z _ _ t ⟨hmay, ht⟩ => ⟨faultRow_mayRestart z hmay, htb z ht⟩)
    (fun z hz hne t ⟨⟨hmay, ht⟩, hwaits⟩ => ⟨⟨faultRow_mayRestart z hmay, htb z ht⟩,
      waits_of_outlook ((faultRow_spares t z).streams _ (hown z hz hne)) hwaits⟩) ⟨h, rfl⟩).2

end

end Sys2Proof.Machine
end

section
/-! ### Tear-down of a job context (10 R306; 11 R357) -/

namespace Sys2Proof.Machine

open Sys2Proof

/-! ### What the release of a core zeroes (10 R306) -/

/-- A byte that reads zero does so behind a run of zeroes, wherever that lies. -/
theorem memRead_memZero_of_zero {m : List Host.Cell} {c : Nat} (h : memRead m c = 0) (a n : Nat) : memRead (memZero m a n) c = 0 := by
  by_cases hin : a ≤ c ∧ c < a + n
  · exact memRead_memZero_in m hin
  · rw [memRead_memZero_out m (by omega), h]

theorem memRead_memZeros_of_zero {m : List Host.Cell} {c : Nat} (h : memRead m c = 0) (at_ : Nat → Nat) (n : Nat) (l : List Nat) :
    memRead (l.foldl (fun m k => memZero m (at_ k) n) m) c = 0 :=
  List.foldlRecOn (motive := fun m => memRead m c = 0) l _ h fun _ hm _ _ => memRead_memZero_of_zero hm ..

theorem memRead_memZeros_in (m : List Host.Cell) {c k : Nat} {at_ : Nat → Nat} {n : Nat} {l : List Nat} (hk : k ∈ l)
    (h : at_ k ≤ c ∧ c < at_ k + n) : memRead (l.foldl (fun m k => memZero m (at_ k) n) m) c = 0 :=
  foldl_reaches (f := fun m k => memZero m (at_ k) n) (A := fun _ => True) (B := fun m => memRead m c = 0) hk (fun _ _ => trivial)
    (fun m _ => memRead_memZero_in m h) (fun _ _ _ _ _ => trivial) (fun _ _ _ _ hm => memRead_memZero_of_zero hm ..) trivial

/-- A core that leaves a job. -/
def releaseCore (j : Job) (s : State) (c : Nat) : State :=
  let x := s.core c
  let s := s.setCore c (leaveCore j c x)
  { s with hatch := { s.hatch with
    signals := s.hatch.signals.filter fun g => !(g.target == c && (j.pairsOn c).contains g.pair)
    plate := memZero s.hatch.plate (plateAt c j.id 0 0) (8 * 2 ^ 19)
    acc := (x.slotsOf j.id).foldl (fun m k => memZero m (accAt c (256 * k)) 1024) s.hatch.acc } }

theorem releaseCores_eq (s : State) (j : Job) (cores : List Nat) : s.releaseCores j cores = cores.foldl (releaseCore j) s := rfl

theorem releaseCore_core (j : Job) (s : State) (c : Nat) : (releaseCore j s c).core c = leaveCore j c (s.core c) := State.core_setCore ..

theorem releaseCore_core_other (j : Job) (s : State) {c d : Nat} (h : d ≠ c) : (releaseCore j s c).core d = s.core d :=
  State.core_setCore_other _ _ h

theorem releaseCores_core_other (s : State) (j : Job) {cores : List Nat} {c : Nat} (h : c ∉ cores) :
    (s.releaseCores j cores).core c = s.core c := by
  rw [releaseCores_eq]
  exact List.foldlRecOn (motive := fun t : State => t.core c = s.core c) cores (releaseCore j) rfl fun t ht _ hd =>
    (releaseCore_core_other j t (ne_of_mem_of_not_mem hd h).symm).trans ht

theorem plateAt_window {c id k off : Nat} (hk : k < 8) (hoff : off < 2 ^ 19) :
    plateAt c id 0 0 ≤ plateAt c id k off ∧ plateAt c id k off < plateAt c id 0 0 + 8 * 2 ^ 19 := by
  unfold plateAt
  omega

/-- A core without a job: the job's windows there hold zeros, and so do the slots it had. -/
structure Hatch.Cleared (h : Hatch) (slots : Tab (Nat × Nat)) (id c : Nat) : Prop where
  plate : ∀ k off, k < 8 → off < 2 ^ 19 → memRead h.plate (plateAt c id k off) = 0
  acc   : ∀ p k i, (p, id, k) ∈ slots → i < 1024 → memRead h.acc (accAt c (256 * p) + i) = 0
  jobs  : id ∉ (h.core c).jobs

section

variable (s : State) (j : Job) {cores : List Nat} {c : Nat} (hc : c ∈ cores)
include hc

theorem releaseCores_plate {k off : Nat} (hk : k < 8) (hoff : off < 2 ^ 19) :
    memRead (s.releaseCores j cores).hatch.plate (plateAt c j.id k off) = 0 := by
  rw [releaseCores_eq]
  exact foldl_reaches (A := fun _ => True) (B := fun t : State => memRead t.hatch.plate (plateAt c j.id k off) = 0) hc
    (fun _ _ => trivial) (fun _ _ => memRead_memZero_in _ (plateAt_window hk hoff)) (fun _ _ _ _ _ => trivial)
    (fun _ _ _ _ ht => memRead_memZero_of_zero ht ..) trivial

theorem releaseCores_acc {p k i : Nat} (hp : (p, j.id, k) ∈ (s.core c).slots) (hi : i < 1024) :
    memRead (s.releaseCores j cores).hatch.acc (accAt c (256 * p) + i) = 0 := by
  have hslot {t : State} (ht : (p, j.id, k) ∈ (t.core c).slots) : p ∈ (t.core c).slotsOf j.id :=
    List.mem_map.mpr ⟨_, List.mem_filter.mpr ⟨ht, beq_self_eq_true _⟩, rfl⟩
  rw [releaseCores_eq]
  refine foldl_reaches
    (A := fun t : State => memRead t.hatch.acc (accAt c (256 * p) + i) = 0 ∨ (p, j.id, k) ∈ (t.core c).slots)
    (B := fun t : State => memRead t.hatch.acc (accAt c (256 * p) + i) = 0) hc (fun _ ht => .inl ht) (fun t ht => ?_)
    (fun d _ hd t ht => ?_) (fun _ _ _ _ ht => memRead_memZeros_of_zero ht (fun k => accAt _ (256 * k)) 1024 _) (.inr hp)
  · obtain hzero | hin := ht
    · exact memRead_memZeros_of_zero hzero (fun k => accAt c (256 * k)) 1024 _
    · exact memRead_memZeros_in _ (at_ := fun k => accAt c (256 * k)) (hslot hin) ⟨Nat.le_add_right .., Nat.add_lt_add_left hi _⟩
  · exact ht.imp (fun hzero => memRead_memZeros_of_zero hzero (fun k => accAt d (256 * k)) 1024 _)
      fun hin => releaseCore_core_other j t (Ne.symm hd) ▸ hin

theorem releaseCores_jobs : j.id ∉ ((s.releaseCores j cores).core c).jobs := by
  rw [releaseCores_eq]
  exact foldl_reaches (A := fun _ => True) (B := fun t : State => j.id ∉ (t.core c).jobs) hc (fun _ _ => trivial)
    (fun t _ => by simp [releaseCore_core, leaveCore]) (fun _ _ _ _ _ => trivial)
    (fun d _ hd t ht => by rwa [releaseCore_core_other j t (Ne.symm hd)]) trivial

theorem releaseCores_cleared : (s.releaseCores j cores).hatch.Cleared (s.core c).slots j.id c :=
  ⟨fun _ _ hk hoff => releaseCores_plate s j hc hk hoff, fun _ _ _ hp hi => releaseCores_acc s j hc hp hi, releaseCores_jobs s j hc⟩

end

theorem zeroSet_cleared {s : State} {slots : Tab (Nat × Nat)} {id c : Nat} (h : s.hatch.Cleared slots id c) (m : Model) :
    (s.zeroSet m).hatch.Cleared slots id c where
  plate k off hk hoff := memRead_memZeros_of_zero (h.plate k off hk hoff) (fun c => residentAt c m.handle 0) _ _
  acc := h.acc
  jobs := h.jobs

/-! ### The end of a job -/

/-- Cores that were held for a job's new place go, and not its own (11 R333). -/
theorem dropPlace_core {s : State} {id c : Nat} {j : Job} (hj : s.job id = some j) (hc : c ∈ j.held) :
    (s.dropPlace id).core c = s.core c := by
  unfold State.dropPlace
  rw [hj]
  split
  · next k cores j' _ hj' =>
    obtain rfl := Option.some.inj hj'
    split
    · rfl
    · extract_lets other s1 s2
      have h1 : s1.core = s.core :=
        State.core_congr (Frame.foldl (L := [.burin]) .refl (fun _ _ h => Frame.comp State.dropCtx_frame (by decide) h) .hatch (by decide))
      exact (releaseCores_core_other s1 _ (by simp [hc])).trans (congrFun h1 c)
  · rfl

/-- A job's cores, regions and a copy's cores as its end leaves them. -/
def State.jobReleased (s : State) (j : Job) : State :=
  let s := (((s.dropTransfers j.id).dropPlace j.id).releaseCores j j.held).freeExtents (jobOwner j.id)
  ((s.models.map (·.2)).filter (·.res.promotedBy j.id)).foldl State.zeroSet s

theorem State.jobReleased_frame {s : State} {j : Job} : Frame [.mem, .dram, .hatch, .burin, .rebind] s (s.jobReleased j) := by
  unfold State.jobReleased
  extract_lets s1
  refine Frame.foldl ?_ fun t m h => Frame.comp State.zeroSet_frame (by decide) h
  refine Frame.comp State.freeExtents_frame (by decide) (Frame.comp State.releaseCores_frame (by decide) ?_)
  exact Frame.comp State.dropPlace_frame (by decide) (State.dropTransfers_frame.mono (by decide))

theorem jobReleased_cleared {s : State} {c : Nat} {j : Job} (hj : s.job j.id = some j) (hc : c ∈ j.held) :
    (s.jobReleased j).hatch.Cleared (s.core c).slots j.id c := by
  have hcore : ((s.dropTransfers j.id).dropPlace j.id).core c = s.core c := dropPlace_core (s := s.dropTransfers j.id) hj hc
  unfold State.jobReleased
  extract_lets s1
  have h1 : s1.hatch.Cleared (s.core c).slots j.id c := by
    rw [show s1.hatch = _ from State.freeExtents_frame .hatch (by decide), ← hcore]
    exact releaseCores_cleared _ j hc
  exact List.foldlRecOn (motive := fun t : State => t.hatch.Cleared (s.core c).slots j.id c) _ State.zeroSet h1
    fun _ ht m _ => zeroSet_cleared ht m

/-- Of Hatch, the end of a job leaves what the release leaves; of the streams, all but what their budgets say of the job. -/
theorem endJob_leaves {s : State} {id : Nat} {j : Job} (hj : s.job id = some j) (faulted : Bool) :
    (s.endJob id faulted).hatch = (s.jobReleased j).hatch ∧
      ∃ g : Stream → Stream, (∀ x, (g x).id = x.id ∧ (g x).outlook = x.outlook) ∧
        (s.endJob id faulted).streams = tabMap s.streams fun _ => g := by
  obtain rfl := s.job_id hj
  unfold State.endJob
  split
  · next hnone =>
    rw [hj] at hnone
    cases hnone
  · next k hk =>
    obtain rfl : j = k := Option.some.inj (hj.symm.trans hk)
    extract_lets s1 s2 alone streams models s3 s4
    have herase : Frame [.jobs] s4 { s4 with jobs := tabErase s4.jobs j.id } := fun b hb => by
      cases b with
      | jobs => exact absurd (by decide) hb
      | _ => rfl
    have hframe : Frame [.sessions, .jobs, .cnt, .host] s3 ({ s4 with jobs := tabErase s4.jobs j.id } : State).nextFrost :=
      Frame.comp State.nextFrost_frame (by decide) (Frame.comp herase (by decide) writeJobRecord_frame)
    have hstreams : s2.streams = s.streams := State.jobReleased_frame (j := j) .streams (by decide)
    refine ⟨hframe .hatch (by decide), fun x => { x with budget := x.budget.map alone }, fun _ => ⟨rfl, rfl⟩, ?_⟩
    rw [show (State.nextFrost _).streams = s3.streams from hframe .streams (by decide), ← hstreams]

theorem endJob_cleared {s : State} {id c : Nat} {j : Job} (hj : s.job id = some j) (hc : c ∈ j.held) (faulted : Bool) :
    (s.endJob id faulted).hatch.Cleared (s.core c).slots id c := by
  obtain rfl := s.job_id hj
  rw [(endJob_leaves hj faulted).1]
  exact jobReleased_cleared hj hc

/-- A job's end spares every stream. -/
theorem endJob_stream {s : State} {id : Nat} {j : Job} (hj : s.job id = some j) (faulted : Bool) (k : Nat) :
    ((s.endJob id faulted).stream k).map Stream.outlook = (s.stream k).map Stream.outlook := by
  obtain ⟨-, g, hg, hstreams⟩ := endJob_leaves hj faulted
  rw [State.stream, hstreams, tabGet_tabMap_filter (f := fun _ => g) _ fun x => by rw [(hg x).1], Option.map_map]
  exact congrArg (fun f => Option.map f _) (funext fun x => (hg x).2)

/-! ### JOB_TEAR_DOWN (11 R357) -/

/-- A job's stroke on a core stops. -/
def stopStroke (id : Nat) (s : State) (c : Nat) : State :=
  let x := s.core c
  if x.running.any (·.job == id) then s.setCore c { x with running := none, waiting := none, since := none } else s

/-- A job whose transfers and strokes have stopped (11 R357 step 1). -/
def State.jobHalted (s : State) (j : Job) : State := j.held.foldl (stopStroke j.id) (s.dropTransfers j.id)

/-- A job whose rows have ended or wait, and whose descriptor has completed (11 R357 steps 2 and 3). -/
def State.rowsEnded (s : State) (j : Job) : State := ((s.rowStreams j).foldl faultRow (s.jobHalted j)).completeAdapt j stJobFault 0

theorem State.jobHalted_frame {s : State} {j : Job} : Frame [.mem, .hatch] s (s.jobHalted j) := by
  refine Frame.foldl (State.dropTransfers_frame.mono (by decide)) fun t c h => ?_
  unfold stopStroke
  extract_lets x
  exact .ite (fun _ => Frame.comp State.setCore_frame (by decide) h) fun _ => h

theorem stopStroke_slots (id : Nat) (s : State) (c d : Nat) : ((stopStroke id s c).core d).slots = (s.core d).slots := by
  unfold stopStroke
  extract_lets x
  split
  · by_cases hd : d = c
    · rw [hd, State.core_setCore]
    · rw [State.core_setCore_other _ _ hd]
  · rfl

theorem jobHalted_slots (s : State) (j : Job) (c : Nat) : ((s.jobHalted j).core c).slots = (s.core c).slots :=
  List.foldlRecOn (motive := fun t : State => (t.core c).slots = (s.core c).slots) j.held (stopStroke j.id) rfl
    fun t ht d _ => (stopStroke_slots j.id t d c).trans ht

theorem tearDown_eq {s : State} {id : Nat} {j : Job} (hj : s.job id = some j) (rule : Nat) :
    s.tearDown id rule = (((s.rowsEnded j).endJob id true).bump 0x206 1).writeLog 0x44 (srcOf 9 id) rule := by
  obtain rfl := s.job_id hj
  have hrows : (s.jobHalted j).rowStreams j = s.rowStreams j := by
    rw [State.rowStreams, State.jobHalted_frame.stream (by decide)]
    rfl
  unfold State.tearDown State.tearDownWith State.rowsEnded
  rw [← hrows]
  simp only [hj]
  rfl

theorem rowsEnded_stream (s : State) (j : Job) : (s.rowsEnded j).stream = ((s.rowStreams j).foldl faultRow (s.jobHalted j)).stream :=
  State.completeAdapt_frame.stream (by decide)

theorem rowsEnded_slots (s : State) (j : Job) (c : Nat) : ((s.rowsEnded j).core c).slots = (s.core c).slots := by
  have hhatch : (s.rowsEnded j).hatch = (s.jobHalted j).hatch :=
    (State.completeAdapt_frame .hatch (by decide)).trans (faultRows_frame _ _ .hatch (by decide))
  rw [State.core_congr hhatch, jobHalted_slots]

theorem rowsEnded_job {s : State} {id : Nat} {j : Job} (hj : s.job id = some j) :
    ∃ k, (s.rowsEnded j).job id = some k ∧ k.held = j.held := by
  have hheld : ((s.rowsEnded j).job id).map Job.held = (s.job id).map Job.held := by
    rw [State.rowsEnded, State.job_congr (State.completeAdapt_frame .jobs (by decide)), faultRows_held,
      State.job_congr (State.jobHalted_frame .jobs (by decide))]
  rwa [hj, Option.map_some, Option.map_eq_some_iff] at hheld

section

variable {s : State} {id : Nat} {j : Job} (hj : s.job id = some j) (rule : Nat)
include hj

/-- What a row's fault leaves of a stream stays until the tear-down is over. -/
theorem tearDown_stream (k : Nat) : ((s.tearDown id rule).stream k).map Stream.outlook =
    (((s.rowStreams j).foldl faultRow (s.jobHalted j)).stream k).map Stream.outlook := by
  obtain ⟨_, hend, -⟩ := rowsEnded_job hj
  rw [tearDown_eq hj, State.stream_writeLog, State.stream_bump, endJob_stream hend, rowsEnded_stream]

theorem tearDown_cleared {c : Nat} (hc : c ∈ j.held) : (s.tearDown id rule).hatch.Cleared (s.core c).slots id c := by
  obtain ⟨k, hend, hheld⟩ := rowsEnded_job hj
  rw [tearDown_eq hj, State.writeLog_hatch, State.bump_hatch, ← rowsEnded_slots s j c]
  exact endJob_cleared hend (hheld ▸ hc) true

/-- An adaptation job's descriptor completes with the steps done (11 R357, 13 R426). -/
theorem tearDown_retired {ring seq : Nat} {d : Desc} (hkind : j.kind = .adapt ring seq) (hrows : j.rows = [])
    (hd : s.desc ring seq = some d) : Retired (s.tearDown id rule) ring d { status := stJobFault, count := j.optStep } := by
  have hhalt : (s.jobHalted j).desc ring seq = some d := by
    rw [← hd, State.desc, State.ring, show (s.jobHalted j).rmk = s.rmk from State.jobHalted_frame .rmk (by decide)]
    rfl
  have hended : s.rowsEnded j = (s.jobHalted j).complete ring d { status := stJobFault, count := j.optStep } := by
    rw [State.rowsEnded, State.rowStreams, hrows, List.filterMap_nil, List.foldl_nil, State.completeAdapt]
    simp only [hkind, hhalt]
  have hring : (s.tearDown id rule).ring = (s.rowsEnded j).ring := by
    rw [tearDown_eq hj]
    funext n
    rw [State.ring, State.writeLog_rmk, State.bump_rmk,
      show ((s.rowsEnded j).endJob id true).rmk = (s.rowsEnded j).rmk from State.endJob_frame .rmk (by decide)]
    rfl
  have h := State.complete_retired (s.jobHalted j) ring d { status := stJobFault, count := j.optStep }
  rw [← hended] at h
  unfold Retired at h ⊢
  rwa [hring]

end

section

variable {s : State} {id sid : Nat} {j : Job} {x : Stream} (hj : s.job id = some j) (rule : Nat) (hsid : sid ∈ j.rows)
  (hx : s.stream sid = some x)
include hsid hx

theorem mem_rowStreams : x ∈ s.rowStreams j := List.mem_filterMap.mpr ⟨sid, hsid, hx⟩

omit hsid in
/-- A row of a job is the only one that holds its stream. -/
theorem rowStreams_own : ∀ z ∈ s.rowStreams j, z ≠ x → x.id ≠ z.id := by
  intro z hz hne heq
  obtain ⟨k, -, hk⟩ := List.mem_filterMap.mp hz
  refine hne (Option.some.inj (hk.symm.trans ?_))
  rw [← s.stream_id hk, ← heq, s.stream_id hx, hx]

include hj

theorem tearDown_faults (hkeep : x.keep = false) : (s.tearDown id rule).Each sid Stream.Faulted := by
  obtain rfl := s.stream_id hx
  exact each_of_outlook (tearDown_stream hj rule _) (fun _ _ => faulted_of_outlook)
    (faultRows_fault (mem_rowStreams hsid hx) (rowStreams_own hx) hkeep _)

theorem tearDown_stream_gone (hkeep : x.keep = false) (hdelivered : x.Delivered) : (s.tearDown id rule).stream sid = none := by
  obtain rfl := s.stream_id hx
  refine none_of_outlook (tearDown_stream hj rule _)
    (faultRows_gone (mem_rowStreams hsid hx) (rowStreams_own hx) hkeep hdelivered fun y hy => ?_)
  rw [State.jobHalted_frame.stream (by decide), hx] at hy
  exact Option.some.inj hy ▸ hdelivered

theorem tearDown_waits (h : s.MayRestart x) : (s.tearDown id rule).WaitsUntil sid (s.tb.frameOrd + 2) := by
  obtain rfl := s.stream_id hx
  have hframe := State.jobHalted_frame (s := s) (j := j)
  have hmay : (s.jobHalted j).MayRestart x := by
    refine ⟨h.keep, h.second, h.shadow, ?_, ?_⟩
    · rw [State.arrivalOf, show (s.jobHalted j).ihx = s.ihx from hframe .ihx (by decide)]
      exact h.settled
    · rw [State.model_congr (hframe .models (by decide))]
      exact h.whole
  have hwaits := faultRows_wait (mem_rowStreams hsid hx) (rowStreams_own hx) hmay
  rw [show (s.jobHalted j).tb = s.tb from hframe .tb (by decide)] at hwaits
  exact waits_of_outlook (tearDown_stream hj rule _) hwaits

end

end Sys2Proof.Machine
end

section
/-! ### Keep restarts behind a tear-down (02 R67) -/

namespace Sys2Proof.Machine

open Sys2Proof

/-! ### A stream on its record (02 R67, 06 R201, R209) -/

/-- What of a stream its restart sets and keeps. -/
structure RecordPart where
  id      : Nat
  restart : Option Nat
  budget  : Option Budget
  keep    : Bool
  layers  : List (Nat × List Byte)
  head    : Head
  headAt  : Nat

/-- What of a stream its restart sets and keeps. -/
def Stream.recordPart (x : Stream) : RecordPart := ⟨x.id, x.restart, x.budget, x.keep, x.layers, x.head, x.headAt⟩

/-- `y` is the stream `x`, restarted from a record. -/
def Stream.OnRecord (r : ExportRec) (x y : Stream) : Prop := y.recordPart = ⟨x.id, none, none, x.keep, r.layers, r.head, r.headNext⟩

theorem restarted_onRecord (r : ExportRec) (x : Stream) : x.OnRecord r (restarted r x) := by
  unfold restarted Stream.withCarried
  extract_lets keep
  split
  · split
    · rfl
    · rfl
  · rfl

theorem reportSlip_recordPart (x : Stream) (n : Nat) : (x.reportSlip n).recordPart = x.recordPart := by
  unfold Stream.reportSlip
  split
  · rfl
  · split
    · rfl
    · rfl

theorem resumeLate_recordPart (x : Stream) : x.resumeLate.recordPart = x.recordPart := by
  unfold Stream.resumeLate
  extract_lets y
  split
  · exact reportSlip_recordPart (y.shift 1) (x.lost + 1)
  · rfl

theorem dropBudget_onRecord {r : ExportRec} {x y : Stream} (h : x.OnRecord r y) : x.OnRecord r { y with budget := none } := by
  have hpart := congrArg (fun q : RecordPart => { q with budget := none }) h
  exact hpart

/-- A restarted stream is there, on its record. -/
def State.Restarted (s : State) (r : ExportRec) (x : Stream) : Prop := ∃ y, s.stream x.id = some y ∧ x.OnRecord r y

theorem setStream_restarted {r : ExportRec} {x y : Stream} (h : x.OnRecord r y) (s : State) : (s.setStream y).Restarted r x :=
  have hid : y.id = x.id := congrArg RecordPart.id h
  ⟨y, hid ▸ s.stream_setStream y, h⟩

theorem bindUnit_restarted {s : State} {r : ExportRec} {x y : Stream} (hs : s.Restarted r x) (h : x.OnRecord r y) (u : Nat) :
    (s.bindUnit y u).Restarted r x := by
  unfold State.bindUnit
  extract_lets b weights key
  split
  · exact hs
  · next k _ =>
    exact setStream_restarted (y := { y with unit := u, ctx := k, left := false }) h _

theorem State.Restarted.congr {s t : State} {r : ExportRec} {x : Stream} (h : t.stream = s.stream) (hs : s.Restarted r x) :
    t.Restarted r x := by
  unfold State.Restarted
  rwa [h]

theorem commitPlace_restarted {s : State} {a : Ask} {m : Model} {r : ExportRec} {x y : Stream} (hm : s.model a.handle = some m)
    (hfill : a.fill = false) (h : x.OnRecord r y) (p : Place) : (s.commitPlace a p y).Restarted r x := by
  unfold State.commitPlace
  simp only [hm, hfill, Bool.false_eq_true, if_false]
  unfold State.commitLive
  extract_lets w u shadow z
  have hz : x.OnRecord r z := h
  exact (bindUnit_restarted (setStream_restarted hz u) hz p.unit).congr (State.joinRow_frame.stream (by decide))

theorem restartAt_restarted {s : State} {a : Ask} {x : Stream} {m : Model} (hm : s.model a.handle = some m) (hfill : a.fill = false)
    (p : Place) (lost : Nat × Nat) (r : ExportRec) : (s.restartAt a p lost r x).Restarted r x := by
  have hrec : x.OnRecord r (restarted r { x with second := none, secondCores := [] }) := restarted_onRecord ..
  obtain ⟨y, hy, hrec⟩ := (commitPlace_restarted hm hfill hrec p).congr (State.clearPlace_frame (p := p).stream (by decide))
  unfold State.restartAt
  extract_lets s1
  split
  · next hnone =>
    rw [show s1.stream x.id = some y from hy] at hnone
    cases hnone
  · next z hz =>
    obtain rfl : y = z := Option.some.inj (hy.symm.trans hz)
    extract_lets s2 s3 src t
    split
    · have hlate : x.OnRecord r y.resumeLate := (resumeLate_recordPart y).trans hrec
      have ht : t.Restarted r x := setStream_restarted (dropBudget_onRecord hlate) s3
      split
      · exact ht.congr (State.noteSlip_frame.stream (by decide))
      · exact ht
    · exact setStream_restarted (y := { y with left := true }) hrec s3

/-! ### KEEP_RESTART (02 R67) -/

/-- What a stream that waits for its restart asks for (02 R67). -/
def State.restartAsk (s : State) (x : Stream) (b : Budget) : Ask :=
  ⟨x.session, x.handle, s.tb.season, x.rate, true, false, some b.lost, x.voices⟩

/-- A place for a restart: with its old context gone it fits there, and a new job has its reserve. -/
def State.FitsRestart (s : State) (x : Stream) (b : Budget) (m : Model) (c : Cost) (p : Place) : Prop :=
  (s.vacated x).fit (s.restartAsk x b) m.image c = .ok p ∧
    (p.job.isSome = true ∨ s.reserveOk m.image (s.streamMaxCores m.image c) 80 = true)

section

variable {s : State} {sid last : Nat} {x : Stream} {m : Model} {q : Nat × ExportRec} {b : Budget} {c : Cost}
  (hready : s.boot.phase = .ready) (hticks : s.tb.ticks = 0) (hx : s.stream sid = some x) (hrestart : x.restart = some last)
  (hsecond : x.second = some q) (hbudget : x.budget = some b) (hm : s.model x.handle = some m)
  (hcost : costOf m.image s.tb.season x.rate = some c) (hfrom : s.tb.frameOrd ≤ last) (hto : last < s.tb.frameOrd + 2)
include hready hticks hx hrestart hsecond hbudget hm hcost hfrom hto

theorem execKeepRestart_places {p : Place} (hp : s.FitsRestart x b m c p) :
    exec (.keepRestart sid) s = .next ((s.vacated x).restartAt (s.restartAsk x b) p b.lost q.2 x) := by
  show execKeepRestart sid s = _
  obtain ⟨n, r⟩ := q
  obtain ⟨hfit, hroom⟩ := hp
  unfold execKeepRestart
  simp only [hx, hrestart, hsecond, hbudget, hm, hcost]
  rw [if_neg (by simp [hready, hticks]; omega)]
  rw [State.restartAsk] at hfit
  simp only [hfit]
  rw [if_neg (by simpa [← Option.isSome_iff_ne_none, or_iff_not_imp_left] using hroom)]
  rfl

theorem execKeepRestart_noPlace (hnone : ∀ p, ¬s.FitsRestart x b m c p) : exec (.keepRestart sid) s = .next (s.noPlace x last) := by
  show execKeepRestart sid s = _
  obtain ⟨n, r⟩ := q
  unfold execKeepRestart
  simp only [hx, hrestart, hsecond, hbudget, hm, hcost]
  rw [if_neg (by simp [hready, hticks]; omega)]
  split
  · rfl
  · next p hfit =>
    refine congrArg Host.Outcome.next (if_pos ?_)
    have hroom := fun h => hnone p ⟨hfit, h⟩
    simpa [Option.isSome_iff_ne_none] using hroom

end

theorem execKeepRestart_between {s : State} (h : s.tb.ticks ≠ 0) (sid : Nat) : exec (.keepRestart sid) s = .next s := by
  show execKeepRestart sid s = _
  refine congrArg Host.Outcome.next ?_
  split
  · rfl
  · split
    · exact if_pos (by simp [h])
    · rfl

/-- Settles O38: what each row's fault leaves of its stream, which no other row's undoes; the job's cores as they are released; a restart by
the place it finds. -/
theorem jobTearDown : Obligations.JobTearDown := by
  unfold Obligations.JobTearDown
  refine ⟨fun id rule j s hj => ?_, fun sid last x m q b c s hready hticks hx hrestart hsecond hbudget hm hcost hfrom hto => ?_,
    fun sid s hticks => execKeepRestart_between hticks sid⟩
  · refine ⟨_, rfl, State.tearDown_gone .., fun ring seq d hkind hrows hd => tearDown_retired hj rule hkind hrows hd,
      fun sid hsid x hx hkeep => ⟨tearDown_faults hj rule hsid hx hkeep, fun hstaged hline hout haudio =>
        tearDown_stream_gone hj rule hsid hx hkeep ⟨hstaged, hline, hout, haudio⟩⟩,
      fun sid hsid x hx hkeep hsecond hshadow hsettled hwhole =>
        tearDown_waits hj rule hsid hx ⟨hkeep, hsecond, hshadow, hsettled, hwhole⟩,
      fun c hc => (tearDown_cleared hj rule hc).plate, fun c hc => (tearDown_cleared hj rule hc).acc,
      fun c hc => (tearDown_cleared hj rule hc).jobs, State.tearDown_frame⟩
  · refine ⟨fun hnone hlast => ?_, fun hnone hlast => ?_, fun p hp => ?_⟩
    · rw [execKeepRestart_noPlace hready hticks hx hrestart hsecond hbudget hm hcost hfrom hto hnone, State.noPlace, if_pos hlast]
    · rw [execKeepRestart_noPlace hready hticks hx hrestart hsecond hbudget hm hcost hfrom hto hnone, State.noPlace,
        if_neg (Nat.ne_of_lt hlast)]
    · have hmodel : (s.vacated x).model x.handle = some m := by
        rw [State.model_congr (State.vacated_frame .models (by decide)), hm]
      obtain ⟨y, hy, hrec⟩ := restartAt_restarted (a := s.restartAsk x b) (x := x) hmodel rfl p b.lost q.2
      exact ⟨_, execKeepRestart_places hready hticks hx hrestart hsecond hbudget hm hcost hfrom hto hp, y, s.stream_id hx ▸ hy,
        congrArg RecordPart.restart hrec, congrArg RecordPart.budget hrec, congrArg RecordPart.keep hrec, congrArg RecordPart.layers hrec,
        congrArg RecordPart.head hrec, congrArg RecordPart.headAt hrec⟩

end Sys2Proof.Machine
end

section
/-! ### One ring behind another, and its doorbell (12 R371 to R382, R391) -/

namespace Sys2Proof.Machine

open Sys2Proof

/-! ### A change of one ring -/

/-- Between two states ring `n` came to be `r`, and no other ring changed. -/
structure State.SetsRing (s : State) (n : Nat) (r : Ring) (t : State) : Prop where
  ring   : t.ring n = r
  others : ∀ m, m ≠ n → t.ring m = s.ring m

theorem State.ring_congr {s t : State} (h : t.rmk = s.rmk) : t.ring = s.ring := by
  funext n
  simp only [State.ring, h]

theorem State.setRing_sets (s : State) (n : Nat) (r : Ring) : s.SetsRing n r (s.setRing n r) :=
  ⟨s.ring_setRing n r, fun _ hm => s.ring_setRing_other r hm⟩

theorem State.SetsRing.refl (s : State) (n : Nat) : s.SetsRing n (s.ring n) s := ⟨rfl, fun _ _ => rfl⟩

theorem State.SetsRing.trans {s t u : State} {n : Nat} {r q : Ring} (h : s.SetsRing n r t) (k : t.SetsRing n q u) : s.SetsRing n q u :=
  ⟨k.ring, fun m hm => (k.others m hm).trans (h.others m hm)⟩

/-- A change that leaves the block of the rings leaves what was set. -/
theorem State.SetsRing.frame {L : List Block} {s t u : State} {n : Nat} {r : Ring} (h : s.SetsRing n r t) (k : Frame L t u)
    (hrmk : decide (.rmk ∈ L) = false) : s.SetsRing n r u := by
  have hring := State.ring_congr (k .rmk (of_decide_eq_false hrmk))
  exact ⟨hring ▸ h.ring, hring ▸ h.others⟩

theorem Frame.setsRing {L : List Block} {s t : State} (h : Frame L s t) (hrmk : decide (.rmk ∈ L) = false) (n : Nat) :
    s.SetsRing n (s.ring n) t :=
  (State.SetsRing.refl s n).frame h hrmk

/-- A ring that holds one more record, handed over now (12 R377). -/
def Ring.holding (now : Nat) (rc : CqRecord) (r : Ring) : Ring :=
  { r with held := r.held ++ [{ rc with at_ := now }], heldSince := some (r.heldSince.getD now) }

theorem State.hold_sets (s : State) (n : Nat) (rc : CqRecord) : s.SetsRing n ((s.ring n).holding s.tb.sub rc) (s.hold n rc) :=
  s.setRing_sets n _

/-! ### Interrupts (12 R382) -/

/-- Whether an interrupt of a ring is sent when it may be: ARM is set and records wait that none has covered (12 R382). -/
def Ring.notifies (r : Ring) : Bool := r.arm && 0 < r.uncovered && !r.linkLost

theorem Ring.notifies_iff (r : Ring) : r.notifies = true ↔ r.arm = true ∧ 0 < r.uncovered ∧ r.linkLost = false := by
  simp [Ring.notifies, and_assoc]

/-- A ring behind its interrupt, where one is sent: disarmed, with every record covered. -/
def Ring.notified (r : Ring) : Ring :=
  { r with arm := r.arm && !r.notifies, uncovered := if r.notifies then 0 else r.uncovered }

theorem Ring.notified_of_notifies {r : Ring} (h : r.notifies = true) : r.notified = { r with arm := false, uncovered := 0 } := by
  simp [Ring.notified, h]

theorem Ring.notified_of_not {r : Ring} (h : ¬r.notifies = true) : r.notified = r := by
  simp [Ring.notified, h]

theorem notify_of_notifies {s : State} {n : Nat} (h : (s.ring n).notifies = true) :
    s.notify n = ((s.setRing n { s.ring n with arm := false, uncovered := 0 }).sendMsix (s.ring n).vector).bump 0x107 1 := if_pos h

theorem notify_of_not {s : State} {n : Nat} (h : ¬(s.ring n).notifies = true) : s.notify n = s := if_neg h

theorem notify_sets (s : State) (n : Nat) : s.SetsRing n (s.ring n).notified (s.notify n) := by
  by_cases h : (s.ring n).notifies = true
  · rw [notify_of_notifies h, Ring.notified_of_notifies h]
    exact (s.setRing_sets n _).frame (L := [.cnt, .host])
      (State.bump_frame.comp (by decide) (State.sendMsix_frame.mono (by decide))) rfl
  · rw [notify_of_not h, Ring.notified_of_not h]
    exact State.SetsRing.refl s n

theorem notify_msix (s : State) (n : Nat) :
    (s.notify n).host.msix = if (s.ring n).notifies then s.host.msix ++ [(s.ring n).vector] else s.host.msix := by
  by_cases h : (s.ring n).notifies = true
  · rw [notify_of_notifies h, if_pos h]
    rfl
  · rw [notify_of_not h, if_neg h]

theorem notify_writes (s : State) (n : Nat) : (s.notify n).host.writes = s.host.writes := by
  by_cases h : (s.ring n).notifies = true
  · rw [notify_of_notifies h]
    rfl
  · rw [notify_of_not h]

/-! ### What a doorbell entry brings (12 R371, R391) -/

/-- A ring with SQ_PI, CQ_CI and ARM of its doorbell entry, without the records that the host has consumed (12 R371). -/
def Ring.atDoorbell (pi ci : Half) (flags : Word) (r : Ring) : Ring :=
  { r with
    sqPi := pi
    cqCi := ci
    arm := bitOf flags 0
    unread := r.unread.drop (r.unread.length - (r.cqPi - ci).toNat) }

theorem takeDoorbell_sets (n : Nat) (pi ci : Half) (flags : Word) (s : State) :
    s.SetsRing n ((s.ring n).atDoorbell pi ci flags) (takeDoorbell n pi ci flags s) :=
  (s.setRing_sets n _).frame (L := [.streams])
    (Frame.foldl Frame.refl fun _ _ h => freePcm_frame.comp (List.Subset.refl _) h) rfl

/-- Whether SQ_PI lies beyond the slots of a ring that has not stopped for it (12 R391). -/
def Ring.overruns (r : Ring) : Bool := r.sqSize < (r.sqPi - r.sqCi).toNat && !r.overrun

/-- A ring behind the check of its SQ_PI: an overrun stops it, with its ring-event record (12 R391). -/
def Ring.checked (now : Nat) (r : Ring) : Ring :=
  { r with
    overrun := r.overrun || r.overruns
    stopped := r.stopped || r.overruns
    held := if r.overruns then (r.holding now (overrunRecord r)).held else r.held
    heldSince := if r.overruns then (r.holding now (overrunRecord r)).heldSince else r.heldSince }

theorem Ring.checked_of_not {r : Ring} (h : r.overruns = false) (now : Nat) : r.checked now = r := by
  simp [Ring.checked, h]

theorem Ring.checked_of_overruns {r : Ring} (h : r.overruns = true) (now : Nat) :
    r.checked now = { r.holding now (overrunRecord r) with overrun := true, stopped := true } := by
  simp [Ring.checked, Ring.holding, h]

theorem Ring.checked_of_fits {r : Ring} (h : (r.sqPi - r.sqCi).toNat ≤ r.sqSize) (now : Nat) : r.checked now = r :=
  Ring.checked_of_not (by rw [Ring.overruns, decide_eq_false (Nat.not_lt.mpr h), Bool.false_and]) now

theorem Ring.checked_of_overrun {r : Ring} (h : r.overrun = true) (now : Nat) : r.checked now = r :=
  Ring.checked_of_not (by rw [Ring.overruns, h, Bool.not_true, Bool.and_false]) now

theorem Ring.checked_of_beyond {r : Ring} (h : r.sqSize < (r.sqPi - r.sqCi).toNat) (hfresh : r.overrun = false) (now : Nat) :
    r.checked now = { r.holding now (overrunRecord r) with overrun := true, stopped := true } :=
  Ring.checked_of_overruns (by rw [Ring.overruns, decide_eq_true h, hfresh, Bool.not_false, Bool.and_true]) now

/-- SQ_PI beyond the slots leaves OVERRUN set, whether it was before or not. -/
theorem Ring.checked_overrun {r : Ring} (h : r.sqSize < (r.sqPi - r.sqCi).toNat) (now : Nat) : (r.checked now).overrun = true := by
  cases hover : r.overrun with
  | true => rw [Ring.checked_of_overrun hover, hover]
  | false => rw [Ring.checked_of_beyond h hover]

theorem Ring.checked_stopped {r : Ring} (h : r.stopped = true) (now : Nat) : (r.checked now).stopped = true := by
  rw [Ring.checked, h, Bool.true_or]

theorem overrunCheck_of_overruns {n : Nat} {s : State} (h : (s.ring n).overruns = true) :
    overrunCheck n s = (s.setRing n { s.ring n with overrun := true, stopped := true }).hold n (overrunRecord (s.ring n)) := if_pos h

theorem overrunCheck_of_not {n : Nat} {s : State} (h : ¬(s.ring n).overruns = true) : overrunCheck n s = s := if_neg h

theorem overrunCheck_sets (n : Nat) (s : State) : s.SetsRing n ((s.ring n).checked s.tb.sub) (overrunCheck n s) := by
  by_cases h : (s.ring n).overruns = true
  · have hheld := State.hold_sets (s.setRing n { s.ring n with overrun := true, stopped := true }) n (overrunRecord (s.ring n))
    rw [State.ring_setRing] at hheld
    rw [overrunCheck_of_overruns h, Ring.checked_of_overruns h]
    exact (s.setRing_sets n _).trans hheld
  · rw [overrunCheck_of_not h, Ring.checked_of_not (Bool.eq_false_iff.mpr h)]
    exact State.SetsRing.refl s n

/-- What a doorbell entry makes of a ring: it is taken, SQ_PI checked, and an interrupt that waits sent if ARM is set (12 R371, R382,
R391). -/
theorem doorbell_sets (n : Nat) (pi ci : Half) (flags : Word) (s : State) :
    s.SetsRing n (((s.ring n).atDoorbell pi ci flags).checked s.tb.sub).notified
      ((overrunCheck n (takeDoorbell n pi ci flags s)).notify n) := by
  have htake := takeDoorbell_sets n pi ci flags s
  have hcheck := overrunCheck_sets n (takeDoorbell n pi ci flags s)
  rw [htake.ring, takeDoorbell_frame .tb (by decide)] at hcheck
  have hnotify := notify_sets (overrunCheck n (takeDoorbell n pi ci flags s)) n
  rw [hcheck.ring] at hnotify
  exact (htake.trans hcheck).trans hnotify

theorem doorbell_msix (n : Nat) (pi ci : Half) (flags : Word) (s : State) :
    ((overrunCheck n (takeDoorbell n pi ci flags s)).notify n).host.msix =
      if ((s.ring n).atDoorbell pi ci flags).notifies then s.host.msix ++ [(s.ring n).vector] else s.host.msix := by
  have htake := takeDoorbell_sets n pi ci flags s
  have hcheck := overrunCheck_sets n (takeDoorbell n pi ci flags s)
  rw [notify_msix, hcheck.ring, htake.ring, overrunCheck_frame .host (by decide), takeDoorbell_frame .host (by decide)]
  rfl

end Sys2Proof.Machine
end

section
/-! ### Kicks and doorbell reads (12 R371 to R374, R382, R391) -/

namespace Sys2Proof.Machine

open Sys2Proof

theorem execKick_writable {p : Nat} {v : Word} {s : State} (hw : s.writable p .faultedToo = true) :
    exec (.kick p v) s = .next (kickRing (fld v 11 0) s) := congrArg Host.Outcome.next (if_pos hw)

theorem kickRing_disabled {n : Nat} {s : State} (h : (s.ring n).enabled = false) :
    kickRing n s = { s with rmk := { s.rmk with kickIgnored := min (s.rmk.kickIgnored + 1) 0xFFFF } } :=
  if_pos (by simp [h])

theorem kickRing_reading {n : Nat} {s : State} (h : (s.ring n).enabled = true) (hr : (s.ring n).reading = true) :
    kickRing n s = s.setRing n { s.ring n with kicked := true } :=
  (if_neg (by simp [h])).trans (if_pos hr)

theorem kickRing_starts {n : Nat} {s : State} (h : (s.ring n).enabled = true) (hr : (s.ring n).reading = false) :
    kickRing n s = s.setRing n { s.ring n with reading := true, readAt := s.tb.sub } :=
  (if_neg (by simp [h])).trans (if_neg (by simp [hr]))

/-- A ring whose doorbell read completes with an entry: a kick since then has the next read issued (12 R373). -/
def Ring.entryRead (now : Nat) (pi ci : Half) (flags : Word) (r : Ring) : Ring :=
  Ring.atDoorbell pi ci flags { r with reading := r.kicked, kicked := false, readAt := now, fetchAt := now }

theorem execDoorbellRead_served {n : Nat} {pi ci : Half} {flags : Word} {s : State} (hreading : (s.ring n).reading = true)
    (htrained : (s.port (s.ring n).port).trained = true) (hserves : s.tracerServes (s.ring n).port (s.readXfer n) = true) :
    Completes (.doorbellRead n pi ci flags) s fun t =>
      s.SetsRing n (((s.ring n).entryRead s.tb.sub pi ci flags).checked s.tb.sub).notified t ∧
      t.host.msix =
        if ((s.ring n).entryRead s.tb.sub pi ci flags).notifies then s.host.msix ++ [(s.ring n).vector] else s.host.msix := by
  refine ⟨_, congrArg Host.Outcome.next (if_pos (by simp [hreading, htrained, hserves])), ?_⟩
  extract_lets s1
  have hdone := (s.setRing_sets n _ : s.SetsRing n _ _).frame (u := s1) readEntry_frame rfl
  have hbell := doorbell_sets n pi ci flags s1
  have hmsix := doorbell_msix n pi ci flags s1
  rw [hdone.ring] at hbell hmsix
  exact ⟨hdone.trans hbell, hmsix⟩

/-- Settles O15: a kick by the state of its ring and of its read; a served read by what the entry makes of the ring. -/
theorem kicksAndDoorbellReads : Obligations.KicksAndDoorbellReads := by
  unfold Obligations.KicksAndDoorbellReads
  refine ⟨fun p v s hw => ⟨fun hon hr => ?_, fun hon hr => ?_, fun hoff => ?_⟩, ?_⟩
  · rw [execKick_writable hw, kickRing_starts hon hr]
  · rw [execKick_writable hw, kickRing_reading hon hr]
  · rw [execKick_writable hw, kickRing_disabled hoff]
  · intro n pi ci flags s r hreading htrained hserves
    obtain ⟨t, ht, ⟨hring, hothers⟩, hmsix⟩ :=
      execDoorbellRead_served (pi := pi) (ci := ci) (flags := flags) hreading htrained hserves
    refine ⟨t, ht, ?_⟩
    have hnotifies := Ring.notifies_iff (((s.ring n).entryRead s.tb.sub pi ci flags).checked s.tb.sub)
    simp only [hring, hmsix]
    refine ⟨rfl, rfl, rfl, rfl, fun harm hwait hlink => ?_, fun hnot => ?_, fun hfits => ?_, fun hbeyond hfresh => ?_, hothers,
      execDoorbellRead_frame ht⟩
    · have h := hnotifies.mpr ⟨harm, hwait, hlink⟩
      exact ⟨if_pos h, by rw [Ring.notified_of_notifies h], by rw [Ring.notified_of_notifies h]⟩
    · have h := mt hnotifies.mp hnot
      exact ⟨if_neg h, by rw [Ring.notified_of_not h]; rfl, by rw [Ring.notified_of_not h]; rfl⟩
    · rw [Ring.checked_of_fits (r := (s.ring n).entryRead s.tb.sub pi ci flags) hfits]
      exact ⟨rfl, rfl⟩
    · rw [Ring.checked_of_beyond (r := (s.ring n).entryRead s.tb.sub pi ci flags) hbeyond hfresh]
      exact ⟨rfl, rfl, _, rfl, rfl, rfl⟩

end Sys2Proof.Machine
end

section
/-! ### What a ring admits of what it has fetched (12 R374, R377, R383) -/

namespace Sys2Proof.Machine

open Sys2Proof

/-- Between two states ring `n` at most accepts or rejects what it has fetched: its indices stay, each descriptor it fetched is still
waiting, accepted, or completed by a record, records only join those held, and no other ring changes. -/
structure State.Admits (n : Nat) (s t : State) : Prop where
  sqCi   : (t.ring n).sqCi = (s.ring n).sqCi
  sqPi   : (t.ring n).sqPi = (s.ring n).sqPi
  cqPi   : (t.ring n).cqPi = (s.ring n).cqPi
  total  : (t.ring n).outstanding + (t.ring n).held.length = (s.ring n).outstanding + (s.ring n).held.length
  held   : (s.ring n).held <+: (t.ring n).held
  others : ∀ m, m ≠ n → t.ring m = s.ring m

theorem State.Admits.refl (n : Nat) (s : State) : State.Admits n s s := ⟨rfl, rfl, rfl, rfl, List.prefix_rfl, fun _ _ => rfl⟩

theorem State.Admits.trans {n : Nat} {s t u : State} (h : State.Admits n s t) (k : State.Admits n t u) : State.Admits n s u :=
  ⟨k.sqCi.trans h.sqCi, k.sqPi.trans h.sqPi, k.cqPi.trans h.cqPi, k.total.trans h.total, h.held.trans k.held,
    fun m hm => (k.others m hm).trans (h.others m hm)⟩

section
variable {n : Nat} {s t : State} {d : Desc} {rest : List Desc} (hf : (s.ring n).fetched = d :: rest)
include hf

/-- A rejected descriptor leaves with its one record. -/
theorem admits_of_rejected {now : Nat} {rc : CqRecord} (h : s.SetsRing n (Ring.holding now rc { s.ring n with fetched := rest }) t) :
    State.Admits n s t := by
  refine ⟨by rw [h.ring]; rfl, by rw [h.ring]; rfl, by rw [h.ring]; rfl, ?_, ?_, h.others⟩
  · rw [h.ring]
    simp only [Ring.outstanding, Ring.holding, hf, List.length_append, List.length_cons, List.length_nil]
    omega
  · rw [h.ring]
    exact List.prefix_append ..

/-- An accepted descriptor waits no longer. -/
theorem admits_of_accepted {seq : Nat} {slots : Tab (Byte × Nat × Nat)} {e : Desc}
    (h : s.SetsRing n { s.ring n with fetched := rest, nextSeq := seq, slots := slots, accepted := (s.ring n).accepted ++ [e] } t) :
    State.Admits n s t := by
  refine ⟨by rw [h.ring], by rw [h.ring], by rw [h.ring], ?_, ?_, h.others⟩
  · rw [h.ring]
    simp only [Ring.outstanding, hf, List.length_append, List.length_cons, List.length_nil]
    omega
  · rw [h.ring]

end

theorem acceptOne_admits (n : Nat) (s : State) : State.Admits n s (acceptOne n s) := by
  unfold acceptOne
  extract_lets r
  split
  · exact State.Admits.refl n s
  · next d rest hf =>
    split
    · exact State.Admits.refl n s
    · extract_lets s1
      have h1 : s.SetsRing n { s.ring n with fetched := rest } s1 := s.setRing_sets n _
      split
      · next s2 status detail hv =>
        have h2 := h1.frame (Frame.of_fst hv (validate_frame rfl)) rfl
        have h3 := State.hold_sets s2 n (recordOf d { status := status, detail := detail })
        rw [h2.ring] at h3
        exact admits_of_rejected hf (h2.trans h3)
      · next s2 hv =>
        split
        next s3 e ha =>
        have h2 := h1.frame (Frame.of_fst hv (validate_frame rfl)) rfl
        have h3 := h2.frame (Frame.of_fst ha (onAccept_frame rfl)) rfl
        rw [h3.ring]
        exact admits_of_accepted hf (h3.trans (State.setRing_sets s3 n _))

theorem pump_admits (n fuel : Nat) (s : State) : State.Admits n s (pump n fuel s) := by
  induction fuel generalizing s with
  | zero => exact State.Admits.refl n s
  | succ fuel ih => exact (acceptOne_admits n s).trans (ih _)

theorem State.pump_admits (n : Nat) (s : State) : State.Admits n s (s.pump n) := Machine.pump_admits n _ s

/-- A change that leaves the block of the rings admits nothing. -/
theorem Frame.admits {L : List Block} {s t : State} (h : Frame L s t) (hrmk : decide (.rmk ∈ L) = false) (n : Nat) :
    State.Admits n s t := by
  have hring := State.ring_congr (h .rmk (of_decide_eq_false hrmk))
  exact ⟨by rw [hring], by rw [hring], by rw [hring], by rw [hring], by rw [hring], fun _ _ => by rw [hring]⟩

/-! ### Fetches (12 R374 to R377) -/

/-- A ring that has fetched descriptors from its next slots (12 R374). -/
def Ring.fetching (now : Nat) (ds : List Desc) (r : Ring) : Ring :=
  { r with sqCi := r.sqCi + BitVec.ofNat 16 ds.length, fetched := r.fetched ++ ds, fetchAt := now }

theorem Ring.fetching_outstanding (now : Nat) (ds : List Desc) (r : Ring) :
    (r.fetching now ds).outstanding = r.outstanding + ds.length := by
  simp only [Ring.outstanding, Ring.fetching, List.length_append]
  omega

/-- The turn that a ring takes at its port is no part of any ring. -/
theorem State.SetsRing.turn {s t : State} {n : Nat} {r : Ring} (h : s.SetsRing n r t) (p : Nat) :
    s.SetsRing n r { t with rmk := if p = 0 then { t.rmk with turn0 := n } else { t.rmk with turn1 := n } } := by
  split <;> exact ⟨h.ring, h.others⟩

/-- Whether `len` slots of a ring may be fetched now, as far as the ring asks for them: they are waiting, within the ring's end and the
1,024 descriptors outstanding, and it is the ring's turn (12 R374, R375). -/
structure State.MayFetch (s : State) (n len : Nat) : Prop where
  ready   : s.boot.phase = .ready
  wants   : (s.ring n).wantsFetch = true
  trained : (s.port (s.ring n).port).trained = true
  least   : 1 ≤ len
  most    : len ≤ 16
  waiting : len ≤ ((s.ring n).sqPi - (s.ring n).sqCi).toNat
  inRing  : (s.ring n).sqCi.toNat % (s.ring n).sqSize + len ≤ (s.ring n).sqSize
  room    : (s.ring n).outstanding + len ≤ 1024
  turn    : s.myTurn n = true

theorem execDescriptorFetch_served {n : Nat} {slots : List (List Byte)} {s : State} (h : s.MayFetch n slots.length)
    (hserves : s.tracerServes (s.ring n).port (s.fetchXfer n) = true) :
    Completes (.descriptorFetch n slots) s fun t =>
      ∃ ds u, ds.length = slots.length ∧ s.SetsRing n ((s.ring n).fetching s.tb.sub ds) u ∧ State.Admits n u t := by
  refine ⟨_, congrArg Host.Outcome.next (if_pos ?_), ?_⟩
  · simp only [h.ready, h.wants, h.trained, h.least, h.most, h.waiting, h.inRing, h.room, h.turn, hserves, decide_true, Bool.and_self,
      beq_self_eq_true]
  · extract_lets ds s1 _ s2 s3
    have hds : ds.length = slots.length := by simp [ds]
    have h1 : s.SetsRing n ((s.ring n).fetching s.tb.sub ds) s1 := by
      rw [Ring.fetching, hds]
      exact s.setRing_sets n _
    have h3 : Frame [.sessions, .jobs, .tallies, .cnt] s2 s3 :=
      Frame.foldl (State.bump_frame.comp (by decide) (State.bump_frame.mono (by decide)))
        fun _ _ h => State.chargeDesc_frame.comp (by decide) h
    exact ⟨ds, s3, hds, (h1.turn _).frame h3 rfl, (State.pump_admits n s3).trans (State.mirror_frame.admits rfl n)⟩

/-- Settles O16: SQ_CI counts the slots fetched, and what is fetched stays waiting, is accepted, or is rejected with its record. -/
theorem descriptorFetches : Obligations.DescriptorFetches := by
  unfold Obligations.DescriptorFetches
  intro n slots s r hready hwants htrained hsome hmost hwaiting hin hroom hturn hserves
  obtain ⟨t, ht, ds, u, hds, hu, hadmits⟩ :=
    execDescriptorFetch_served ⟨hready, hwants, htrained, hsome, hmost, hwaiting, hin, hroom, hturn⟩ hserves
  refine ⟨t, ht, ?_, ?_, ?_, fun m hm => (hadmits.others m hm).trans (hu.others m hm), exec_frame ht⟩
  · rw [hadmits.sqCi, hu.ring, ← hds]
    rfl
  · rw [hadmits.sqPi, hu.ring]
    rfl
  · rw [hadmits.total, hu.ring, Ring.fetching_outstanding, hds]
    exact Nat.add_right_comm ..

end Sys2Proof.Machine
end

section
/-! ### Completion records, CQ_STALL and MSI-X (12 R376 to R382) -/

namespace Sys2Proof.Machine

open Sys2Proof

theorem hostWrite_writes (s : State) (p a : Nat) (b : List Byte) :
    (s.hostWrite p a b).host.writes = s.host.writes ++ [⟨p, a, b⟩] := rfl

/-! ### COMPLETION_WRITE (12 R376 to R380) -/

/-- Bytes 8 to 15 of a ring's doorbell entry (12 R371). -/
def Ring.mirrorBytes (r : Ring) : List Byte := leBytes 2 r.sqCi.toNat ++ leBytes 2 r.cqPi.toNat ++ leBytes 2 r.status ++ zeros 2

theorem leBytes_length (n x : Nat) : (leBytes n x).length = n := by
  induction n generalizing x with
  | zero => rfl
  | succ n ih => exact congrArg Nat.succ (ih _)

theorem Ring.mirrorBytes_length (r : Ring) : r.mirrorBytes.length = 8 := by
  simp [Ring.mirrorBytes, leBytes_length, zeros]

theorem mirror_of_linked {s : State} {n : Nat} (h : (s.ring n).linkLost = false) :
    s.mirror n = s.hostWrite (s.ring n).port (s.doorbell n + 8) (s.ring n).mirrorBytes :=
  if_neg (by simp [h])

/-- The record that goes into the slot of CQ_PI, with the PHASE of this pass (12 R379). -/
def Ring.phased (r : Ring) (rc : CqRecord) : CqRecord := { rc with phase := r.cqPi.toNat / r.cqSize % 2 == 0 }

/-- A ring whose oldest held record has been written into its slot. -/
def Ring.wrote (now : Nat) (rc : CqRecord) (rest : List CqRecord) (r : Ring) : Ring :=
  { r with
    held := rest
    heldSince := if rest.isEmpty then none else r.heldSince
    cqStall := r.cqStall && !rest.isEmpty
    cqPi := r.cqPi + 1
    unread := r.unread ++ [r.phased rc]
    uncovered := r.uncovered + 1
    firstAt := if r.uncovered = 0 then now else r.firstAt }

/-- The oldest record of a ring has gone into its slot, and the mirror behind it. -/
def State.recordWritten (s : State) (n : Nat) (rc : CqRecord) (rest : List CqRecord) : State :=
  ((((s.hostWrite (s.ring n).port ((s.ring n).cqSlot (s.ring n).cqPi) (recordBytes ((s.ring n).phased rc))).setRing n
    ((s.ring n).wrote s.tb.sub rc rest)).mirror n).bump 0x106 1)

theorem recordWritten_sets (s : State) (n : Nat) (rc : CqRecord) (rest : List CqRecord) :
    s.SetsRing n ((s.ring n).wrote s.tb.sub rc rest) (s.recordWritten n rc rest) :=
  ((State.hostWrite_frame.setsRing rfl n).trans (State.setRing_sets _ n _)).frame (L := [.cnt, .host])
    (State.bump_frame.comp (by decide) State.mirror_frame) rfl

/-- The mirror of a ring that has written a record. -/
def State.mirrorBehind (s : State) (n : Nat) (rc : CqRecord) (rest : List CqRecord) : HostWrite :=
  ⟨(s.ring n).port, s.doorbell n + 8, ((s.ring n).wrote s.tb.sub rc rest).mirrorBytes⟩

theorem recordWritten_writes {s : State} {n : Nat} (hlink : (s.ring n).linkLost = false) (rc : CqRecord) (rest : List CqRecord) :
    (s.recordWritten n rc rest).host.writes = s.host.writes ++
      [⟨(s.ring n).port, (s.ring n).cqSlot (s.ring n).cqPi, recordBytes ((s.ring n).phased rc)⟩, s.mirrorBehind n rc rest] := by
  rw [State.recordWritten, mirror_of_linked (by rw [State.ring_setRing]; exact hlink), State.ring_setRing, State.bump_host,
    hostWrite_writes, State.setRing_host, hostWrite_writes, List.append_assoc]
  rfl

theorem Ring.canWrite_of_room {r : Ring} {rc : CqRecord} {rest : List CqRecord} (hheld : r.held = rc :: rest)
    (hroom : (r.cqPi - r.cqCi).toNat < r.cqSize) : r.canWrite = true := by
  rw [Ring.canWrite, hheld, decide_eq_true hroom]
  rfl

theorem Ring.canWrite_of_full {r : Ring} (hfull : r.cqSize ≤ (r.cqPi - r.cqCi).toNat) : r.canWrite = false := by
  rw [Ring.canWrite, decide_eq_false (Nat.not_lt.mpr hfull), Bool.and_false]

section
variable {n : Nat} {rc : CqRecord} {rest : List CqRecord} {s : State} (hheld : (s.ring n).held = rc :: rest)
include hheld

theorem execCompletionWrite_full (hfull : (s.ring n).cqSize ≤ ((s.ring n).cqPi - (s.ring n).cqCi).toNat) :
    exec (.completionWrite n) s = .next s := by
  show execCompletionWrite n s = _
  unfold execCompletionWrite
  simp only [hheld]
  rw [if_pos (by simp [Ring.canWrite_of_full hfull])]

/-- A served record is written; the interrupt of a ring event goes out at once, and the ring admits what waited for the record. -/
theorem execCompletionWrite_served (hlink : (s.ring n).linkLost = false) (htrained : (s.port (s.ring n).port).trained = true)
    (hroom : ((s.ring n).cqPi - (s.ring n).cqCi).toNat < (s.ring n).cqSize)
    (hserves : s.scriberServes (s.ring n).port (s.recordXfer n) = true) :
    exec (.completionWrite n) s = .next
      ((if rc.event then (s.recordWritten n rc rest).notify n else s.recordWritten n rc rest).pump n) := by
  show execCompletionWrite n s = _
  unfold execCompletionWrite
  simp only [hheld]
  rw [if_neg (by simp [Ring.canWrite_of_room hheld hroom, hlink, htrained, hserves])]
  rfl

/-- What a served record leaves of its ring and in host memory. -/
theorem execCompletionWrite_leaves (hlink : (s.ring n).linkLost = false) (htrained : (s.port (s.ring n).port).trained = true)
    (hroom : ((s.ring n).cqPi - (s.ring n).cqCi).toNat < (s.ring n).cqSize)
    (hserves : s.scriberServes (s.ring n).port (s.recordXfer n) = true) :
    Completes (.completionWrite n) s fun t =>
      (t.ring n).cqPi = (s.ring n).cqPi + 1 ∧ rest <+: (t.ring n).held ∧ t.host.writes = s.host.writes ++
        [⟨(s.ring n).port, (s.ring n).cqSlot (s.ring n).cqPi, recordBytes ((s.ring n).phased rc)⟩, s.mirrorBehind n rc rest] := by
  refine ⟨_, execCompletionWrite_served hheld hlink htrained hroom hserves, ?_⟩
  have hset := recordWritten_sets s n rc rest
  have hwrites := recordWritten_writes hlink rc rest
  generalize s.recordWritten n rc rest = u at hset hwrites
  have hnotify := hset.trans (hset.ring ▸ notify_sets u n)
  split
  · have hadmits := State.pump_admits n (u.notify n)
    have hheld : ((u.notify n).ring n).held = rest := congrArg Ring.held hnotify.ring
    exact ⟨by rw [hadmits.cqPi, hnotify.ring]; rfl, hheld ▸ hadmits.held,
      by rw [State.pump_frame .host (by decide), notify_writes, hwrites]⟩
  · have hadmits := State.pump_admits n u
    have hheld : (u.ring n).held = rest := congrArg Ring.held hset.ring
    exact ⟨by rw [hadmits.cqPi, hset.ring]; rfl, hheld ▸ hadmits.held,
      by rw [State.pump_frame .host (by decide), hwrites]⟩

end

/-! ### CQ_STALL (12 R378) -/

/-- An alarm in the table has its code. -/
theorem Evt.listed.code {e : Evt} {code source : Nat} (h : e.listed code source) : ∃ k ∈ e.table, k.code = code := by
  obtain ⟨k, hk, heq⟩ := List.any_eq_true.mp h
  exact ⟨k, hk, beq_iff_eq.mp (Bool.and_eq_true_iff.mp heq).1⟩

theorem execCqStall_stalls {n at_ : Nat} {s : State} (hsince : (s.ring n).heldSince = some at_) (hnot : (s.ring n).cqStall = false)
    (hlong : at_ + 4 * s.frameSubs < s.tb.sub) :
    Completes (.cqStall n) s fun t =>
      s.SetsRing n { s.ring n with cqStall := true } t ∧ ∃ k ∈ t.evt.table, k.code = 0x0E := by
  have hexec : exec (.cqStall n) s =
      .next ((s.setRing n { s.ring n with cqStall := true }).raiseAlarm 0x0E (srcOf 8 n) (s.ring n).held.length) := by
    show execCqStall n s = _
    unfold execCqStall
    simp only [hsince]
    rw [if_pos (by simp [hnot, hlong])]
  exact ⟨_, hexec, (s.setRing_sets n _).frame State.raiseAlarm_frame rfl, (raiseAlarm_listed ..).code⟩

/-! ### MSIX_NOTIFY (12 R382) -/

/-- Whether records that wait call for an interrupt: HOLD_US has passed since the first of them, or COUNT of them wait (12 R382). -/
def State.NotifyDue (s : State) (n : Nat) (elapsed : Bool) : Prop :=
  (elapsed = true ∧ (s.ring n).firstAt + usToSubs (s.ring n).holdUs ≤ s.tb.sub) ∨
    (elapsed = false ∧ max (s.ring n).count 1 ≤ (s.ring n).uncovered)

section
variable {n : Nat} {elapsed : Bool} {s : State}

theorem execMsixNotify_sends (h : (s.ring n).notifies = true) (hdue : s.NotifyDue n elapsed) :
    exec (.msixNotify n elapsed) s = .next (s.notify n) := by
  obtain ⟨-, hwait, -⟩ := (Ring.notifies_iff _).mp h
  refine congrArg Host.Outcome.next (if_pos ?_)
  obtain ⟨rfl, hheld⟩ | ⟨rfl, hcount⟩ := hdue
  · simpa [State.holdPassed, hheld] using hwait
  · simpa using hcount

theorem execMsixNotify_idles (h : ¬((s.ring n).notifies = true ∧ s.NotifyDue n elapsed)) :
    exec (.msixNotify n elapsed) s = .next s := by
  refine congrArg Host.Outcome.next ?_
  have hidle (hdue : s.NotifyDue n elapsed) : s.notify n = s := notify_of_not fun hn => h ⟨hn, hdue⟩
  cases elapsed with
  | false => exact ite_eq_right_iff.mpr fun hcount => hidle (.inr ⟨rfl, of_decide_eq_true hcount⟩)
  | true =>
    refine ite_eq_right_iff.mpr fun hpassed => hidle (.inl ⟨rfl, ?_⟩)
    simp only [if_true, State.holdPassed, Bool.and_eq_true, decide_eq_true_eq] at hpassed
    exact hpassed.2

end

/-- Settles O18: a served record by what its write leaves, a full ring by its slots, a long hold by its alarm, an interrupt by what
calls for it. -/
theorem completionsAndInterrupts : Obligations.CompletionsAndInterrupts := by
  unfold Obligations.CompletionsAndInterrupts
  refine ⟨?_, fun n rc rest s => execCompletionWrite_full, fun n at_ s hsince hnot hlong => ?_, fun n elapsed s => ⟨?_, ?_⟩⟩
  · intro n rc rest s r hheld hlink htrained hroom hserves
    obtain ⟨t, ht, hpi, hrest, hwrites⟩ := execCompletionWrite_leaves hheld hlink htrained hroom hserves
    refine ⟨t, ht, hpi, hrest, s.mirrorBehind n rc rest, rfl, rfl, Ring.mirrorBytes_length _, ?_, hwrites⟩
    simp only [State.mirrorBehind, Ring.mirrorBytes, List.append_assoc]
    exact ⟨_, by rw [List.append_assoc]; rfl⟩
  · obtain ⟨t, ht, hset, halarm⟩ := execCqStall_stalls hsince hnot hlong
    exact ⟨t, ht, hset.ring, halarm, hset.others, execCqStall_frame ht⟩
  · intro harm hlink hwait hdue
    have hn := (Ring.notifies_iff _).mpr ⟨harm, hwait, hlink⟩
    have ht := execMsixNotify_sends hn hdue
    have hset := notify_sets s n
    refine ⟨_, ht, by rw [hset.ring, Ring.notified_of_notifies hn], by rw [notify_of_notifies hn]; rfl, hset.others,
      execMsixNotify_frame ht⟩
  · intro h
    refine execMsixNotify_idles fun ⟨hn, hdue⟩ => ?_
    obtain ⟨harm, hwait, hlink⟩ := (Ring.notifies_iff _).mp hn
    obtain h | h | h | h := h
    · simp [harm] at h
    · simp [hlink] at h
    · exact absurd h (Nat.ne_of_gt hwait)
    · exact h hdue

end Sys2Proof.Machine
end

section
/-! ### ENABLE and RESUME of a ring, and the Ramok links (12 R359 to R369, R391 to R393) -/

namespace Sys2Proof.Machine

open Sys2Proof

/-! ### RING_ENABLE (12 R369) -/

/-- Whether a write of RMK_RING_CFG may enable a ring (12 R369). -/
def State.MayEnable (s : State) (v : Word) : Prop :=
  s.rmk.dbValid = true ∧ fld v 3 0 ≤ fld v 7 4 ∧ fld v 3 0 ≤ 8 ∧ fld v 7 4 ≤ 8 ∧ (s.port (fld v 8 8)).trained = true

/-- A ring as ENABLE begins it: unbound, all four indices 0, disarmed, with no record unread (12 R369). -/
def Ring.begun (r : Ring) : Ring :=
  { r with
    state := .unbound
    cfgErr := false
    sqPi := 0
    sqCi := 0
    cqPi := 0
    cqCi := 0
    arm := false
    unread := []
    uncovered := 0 }

theorem mayEnable_iff (s : State) (v : Word) (r : Ring) :
    (!s.rmk.dbValid || (ringCfg v r).cqOrder < (ringCfg v r).sqOrder || 8 < (ringCfg v r).sqOrder || 8 < (ringCfg v r).cqOrder ||
      !(s.port (ringCfg v r).port).trained) = false ↔ s.MayEnable v := by
  simp only [Bool.or_eq_false_iff, Bool.not_eq_false', decide_eq_false_iff_not, Nat.not_lt, and_assoc]
  rfl

section
variable {p n : Nat} {v : Word} {s : State} (hw : s.writable p .ready = true) (hoff : (s.ring n).enabled = false)
  (hen : bitOf v 10 = true)
include hw hoff hen

theorem execRingEnable_begins (h : s.MayEnable v) :
    exec (.ringEnable p n v) s = .next (s.setRing n (ringCfg v (s.ring n)).begun) := by
  refine congrArg Host.Outcome.next ((if_pos hw).trans ?_)
  unfold ringCfgWrite
  simp only [hoff, hen, (mayEnable_iff ..).mpr h, Bool.false_eq_true, Bool.not_true, if_false]
  rfl

theorem execRingEnable_refuses (h : ¬s.MayEnable v) :
    exec (.ringEnable p n v) s = .next (s.setRing n { s.ring n with cfgErr := true }) := by
  have hbad := Bool.of_not_eq_false (mt (mayEnable_iff s v (s.ring n)).mp h)
  refine congrArg Host.Outcome.next ((if_pos hw).trans ?_)
  unfold ringCfgWrite
  simp only [hoff, hen, hbad, Bool.false_eq_true, Bool.not_true, if_false, if_true]

end

/-! ### RING_RESUME (12 R391 to R393) -/

/-- Host writes only join those made. -/
theorem hostWrite_extends (s : State) (p a : Nat) (b : List Byte) : s.host.writes <+: (s.hostWrite p a b).host.writes :=
  List.prefix_append ..

theorem hostWrites_extend {α : Type} (f : α → HostWrite) (l : List α) (s : State) :
    s.host.writes <+: (l.foldl (fun s a => s.hostWrite (f a).port (f a).addr (f a).bytes) s).host.writes := by
  induction l generalizing s with
  | nil => exact List.prefix_rfl
  | cons a l ih => exact (hostWrite_extends s _ _ _).trans (ih _)

theorem rewrite_extends (r : Ring) (l : List CqRecord) (i : Half) (s : State) : s.host.writes <+: (rewrite r l i s).host.writes := by
  induction l generalizing i s with
  | nil => exact List.prefix_rfl
  | cons rc rest ih => exact ((hostWrites_extend id rc.data s).trans (hostWrite_extends _ _ _ _)).trans (ih _ _)

theorem flushHeld_extends (n : Nat) (s : State) : s.host.writes <+: (flushHeld n s).host.writes := by
  unfold flushHeld
  extract_lets mine _ s1
  exact hostWrites_extend Prod.snd mine s1

theorem mirror_extends (n : Nat) (s : State) : s.host.writes <+: (s.mirror n).host.writes := by
  unfold State.mirror
  extract_lets r
  split
  · exact List.prefix_rfl
  · exact hostWrite_extends s _ _ _

/-- The doorbell entry of a ring has been read and taken. -/
def State.entryTaken (s : State) (n : Nat) (pi ci : Half) (flags : Word) : State :=
  takeDoorbell n pi ci flags (readEntry (s.ring n).port s)

theorem entryTaken_sets (s : State) (n : Nat) (pi ci : Half) (flags : Word) :
    s.SetsRing n ((s.ring n).atDoorbell pi ci flags) (s.entryTaken n pi ci flags) :=
  (readEntry_frame.setsRing rfl n).trans (takeDoorbell_sets n pi ci flags (readEntry (s.ring n).port s))

theorem entryTaken_host (s : State) (n : Nat) (pi ci : Half) (flags : Word) : (s.entryTaken n pi ci flags).host = s.host :=
  takeDoorbell_frame .host (by decide)

/-- A ring that RESUME has set going again (12 R393). -/
def Ring.resumed (r : Ring) : Ring := { r with stopped := false, overrun := false, linkLost := false }

/-- The host has what a ring that goes again owes it: the unread records once more, what the ring held, and the mirror (12 R392, R393). -/
def State.caughtUp (s : State) (n : Nat) : State :=
  let r := s.ring n
  (flushHeld n (rewrite r r.unread (r.cqPi - BitVec.ofNat 16 r.unread.length) s)).mirror n

theorem State.caughtUp_frame {s : State} {n : Nat} : Frame [.cnt, .host] s (s.caughtUp n) :=
  State.mirror_frame.comp (List.Subset.refl _) (flushHeld_frame.comp (List.Subset.refl _) rewrite_frame)

theorem caughtUp_extends (s : State) (n : Nat) : s.host.writes <+: (s.caughtUp n).host.writes :=
  ((rewrite_extends ..).trans (flushHeld_extends ..)).trans (mirror_extends ..)

/-- A ring goes again: behind what the host is owed its feature data is fetched anew, and an interrupt that waits is sent (12 R393). -/
def State.goesAgain (s : State) (n : Nat) : State := ((s.caughtUp n).refetch n).notify n

theorem refetch_sets (s : State) (n : Nat) :
    ∃ ds, s.SetsRing n { s.ring n with accepted := ds, fetchAt := s.tb.sub } (s.refetch n) := ⟨_, s.setRing_sets n _⟩

theorem goesAgain_sets (s : State) (n : Nat) :
    ∃ ds now, s.SetsRing n (Ring.notified { s.ring n with accepted := ds, fetchAt := now }) (s.goesAgain n) := by
  have hup : s.SetsRing n (s.ring n) (s.caughtUp n) := State.caughtUp_frame.setsRing rfl n
  obtain ⟨ds, hv⟩ := refetch_sets (s.caughtUp n) n
  rw [hup.ring] at hv
  exact ⟨ds, (s.caughtUp n).tb.sub, (hup.trans hv).trans (hv.ring ▸ notify_sets ((s.caughtUp n).refetch n) n)⟩

theorem goesAgain_extends (s : State) (n : Nat) : s.host.writes <+: (s.goesAgain n).host.writes := by
  rw [State.goesAgain, notify_writes, State.refetch_frame .host (by decide)]
  exact caughtUp_extends s n

section
variable {p n : Nat} {v : Word} {pi ci : Half} {flags : Word} {s : State}

theorem execRingResume_running (h : (s.ring n).stopped = false) : exec (.ringResume p n v pi ci flags) s = .next s := by
  refine congrArg Host.Outcome.next ?_
  split
  · exact if_pos (by simp [h])
  · rfl

variable (hw : s.writable p .ready = true) (hv : bitOf v 0 = true) (hstopped : (s.ring n).stopped = true)
  (htrained : (s.port (s.ring n).port).trained = true)
include hw hv hstopped htrained

/-- A RESUME whose read finds SQ_PI beyond the slots is an ordinary read of the doorbell entry (12 R391, R393). -/
theorem execRingResume_beyond (hbeyond : (s.ring n).sqSize < (pi - (s.ring n).sqCi).toNat) :
    Completes (.ringResume p n v pi ci flags) s
      (s.SetsRing n (((s.ring n).atDoorbell pi ci flags).checked s.tb.sub).notified) := by
  have hresume : resumeRing n pi ci flags s = (overrunCheck n (s.entryTaken n pi ci flags)).notify n := by
    unfold resumeRing
    extract_lets r s1
    rw [if_neg (by simp [r, hstopped, htrained]), if_pos hbeyond]
    rfl
  refine ⟨_, congrArg Host.Outcome.next ((if_pos (by simp [hw, hv])).trans hresume), ?_⟩
  exact State.SetsRing.trans (readEntry_frame.setsRing rfl n) (doorbell_sets n pi ci flags (readEntry (s.ring n).port s))

theorem execRingResume_resumes (hfits : (pi - (s.ring n).sqCi).toNat ≤ (s.ring n).sqSize) :
    Completes (.ringResume p n v pi ci flags) s fun t =>
      (∃ ds now, s.SetsRing n
        (Ring.notified { ((s.ring n).atDoorbell pi ci flags).resumed with accepted := ds, fetchAt := now }) t) ∧
      s.host.writes <+: t.host.writes := by
  have htake := entryTaken_sets s n pi ci flags
  have hresume : resumeRing n pi ci flags s =
      ((s.entryTaken n pi ci flags).setRing n ((s.ring n).atDoorbell pi ci flags).resumed).goesAgain n := by
    rw [← htake.ring]
    unfold resumeRing
    extract_lets r s1 r1 s2 r2
    rw [if_neg (by simp [r, hstopped, htrained]), if_neg (Nat.not_lt.mpr hfits)]
    rfl
  have hgo := htake.trans (State.setRing_sets _ n ((s.ring n).atDoorbell pi ci flags).resumed)
  refine ⟨_, congrArg Host.Outcome.next ((if_pos (by simp [hw, hv])).trans hresume), ?_, ?_⟩
  · obtain ⟨ds, now, hset⟩ := goesAgain_sets ((s.entryTaken n pi ci flags).setRing n _) n
    rw [hgo.ring] at hset
    exact ⟨ds, now, hgo.trans hset⟩
  · rw [← entryTaken_host s n pi ci flags]
    exact goesAgain_extends ((s.entryTaken n pi ci flags).setRing n _) n

end

/-! ### Ramok links (12 R359, R368, R392) -/

/-- A ring that the loss of a port's link stops (12 R392). -/
def Ring.cutAt (p : Nat) (r : Ring) : Ring := if r.enabled && r.port == p then { r with stopped := true, linkLost := true } else r

theorem stopRings_ring (p : Nat) (s : State) (n : Nat) : (stopRings p s).ring n = (s.ring n).cutAt p := by
  unfold stopRings
  extract_lets stop
  rw [State.ring_raiseAlarm]
  simp only [State.ring, tabGet_tabMap]
  cases tabGet s.rmk.rings n <;> rfl

theorem stopRings_port (p : Nat) (s : State) (k : Nat) : (stopRings p s).port k = s.port k := State.port_raiseAlarm ..

theorem updateHostPath_rmk (p : Nat) (s : State) : (updateHostPath p s).rmk = s.rmk := updateHostPath_frame .rmk (by decide)

theorem updateHostPath_ring (p : Nat) (s : State) (n : Nat) : (updateHostPath p s).ring n = s.ring n :=
  congrFun (State.ring_congr (updateHostPath_rmk p s)) n

theorem updateHostPath_port (p : Nat) (s : State) (k : Nat) : (updateHostPath p s).port k = s.port k := by
  simp only [State.port, updateHostPath_rmk]

theorem port_setPort {p : Nat} (hp : p < 2) (s : State) (x : Port) :
    (s.setPort p x).port p = x ∧ (s.setPort p x).port (1 - p) = s.port (1 - p) := by
  obtain rfl | rfl : p = 0 ∨ p = 1 := by omega
  · exact ⟨rfl, rfl⟩
  · exact ⟨rfl, rfl⟩

/-- A port comes to be `x`, its rings are stopped where `cut` says so, and the host path follows. -/
def State.linkSet (s : State) (p : Nat) (x : Port) (cut : Bool) : State :=
  updateHostPath p (if cut then stopRings p (s.setPort p x) else s.setPort p x)

theorem linkSet_port {p : Nat} (hp : p < 2) (s : State) (x : Port) (cut : Bool) :
    (s.linkSet p x cut).port p = x ∧ (s.linkSet p x cut).port (1 - p) = s.port (1 - p) := by
  obtain ⟨hsame, hother⟩ := port_setPort hp s x
  cases cut with
  | false => exact ⟨(updateHostPath_port ..).trans hsame, (updateHostPath_port ..).trans hother⟩
  | true =>
    exact ⟨((updateHostPath_port ..).trans (stopRings_port ..)).trans hsame,
      ((updateHostPath_port ..).trans (stopRings_port ..)).trans hother⟩

theorem linkSet_ring_kept (s : State) (p : Nat) (x : Port) (n : Nat) : (s.linkSet p x false).ring n = s.ring n :=
  (updateHostPath_ring ..).trans (s.ring_setPort p x n)

theorem linkSet_ring_cut (s : State) (p : Nat) (x : Port) (n : Nat) : (s.linkSet p x true).ring n = (s.ring n).cutAt p := by
  rw [← s.ring_setPort p x n]
  exact (updateHostPath_ring ..).trans (stopRings_ring ..)

/-- A port with its link down. -/
def Port.down (x : Port) : Port := { x with trained := false, lanes := 0, gen := 0 }

/-- A port whose link has trained; a link that was up before counts a retraining (12 R361). -/
def Port.up (lanes gen : Nat) (x : Port) : Port :=
  { x with
    trained := true
    lanes := lanes
    gen := gen
    retrains := if x.everUp then satAdd x.retrains 1 255 else x.retrains
    everUp := true }

section
variable {p : Nat} {s : State} (hup : s.boot.phase ≠ .reset)
include hup

theorem execRamokLinkTrain_trains {lanes gen : Nat} (reset : Bool) (hp : p < 2) (hlanes : lanes = 8 ∨ lanes = 4) (hgen : 1 ≤ gen)
    (hgen3 : gen ≤ 3) :
    exec (.ramokLinkTrain p lanes gen reset) s = .next (s.linkSet p ((s.port p).up lanes gen) reset) := by
  have hin : ¬(s.boot.phase == .reset || 2 ≤ p) = true := by simp [hup]; omega
  have hsome : lanes ≠ 0 := by omega
  have hok : ¬((lanes != 8 && lanes != 4) || gen = 0 || 3 < gen) = true := by simp; omega
  exact congrArg Host.Outcome.next ((if_neg hin).trans ((if_neg hsome).trans (if_neg hok)))

theorem execRamokLinkTrain_down (hp : p < 2) (gen : Nat) (reset : Bool) :
    exec (.ramokLinkTrain p 0 gen reset) s = .next (s.linkSet p (s.port p).down false) :=
  congrArg Host.Outcome.next ((if_neg (by simp [hup]; omega)).trans (if_pos rfl))

theorem execRamokLinkLost_down (hever : (s.port p).everUp = true) :
    exec (.ramokLinkLost p) s = .next (s.linkSet p (s.port p).down true) :=
  congrArg Host.Outcome.next (if_pos (by simp [hup, hever]))

end

/-- Settles O19: ENABLE by what it may begin, RESUME by where SQ_PI lies, a link by its lanes. -/
theorem ringEnableResumeAndLinks : Obligations.RingEnableResumeAndLinks := by
  unfold Obligations.RingEnableResumeAndLinks
  refine ⟨⟨?_, ?_, ?_, ?_⟩, ?_, ?_, ?_⟩
  · intro p n v s hw hoff hen hvalid hle hsq hcq htrained
    have ht := execRingEnable_begins hw hoff hen ⟨hvalid, hle, hsq, hcq, htrained⟩
    have hset := s.setRing_sets n (ringCfg v (s.ring n)).begun
    refine ⟨_, ht, ?_⟩
    simp only [hset.ring]
    exact ⟨rfl, rfl, rfl, rfl, rfl, rfl, rfl, rfl, rfl, rfl, hset.others, execRingEnable_frame ht⟩
  · intro p n v s hw hoff hen hbad
    have ht := execRingEnable_refuses hw hoff hen fun ⟨hvalid, hle, hsq, hcq, htrained⟩ => by
      rw [hvalid, htrained] at hbad
      simp only [Bool.true_eq_false, false_or, or_false] at hbad
      omega
    have hset := s.setRing_sets n { s.ring n with cfgErr := true }
    refine ⟨_, ht, ?_⟩
    simp only [hset.ring]
    exact ⟨trivial, hoff, hset.others, execRingEnable_frame ht⟩
  · intro p n v pi ci flags s r hw hv hstopped htrained hfits
    obtain ⟨t, ht, ⟨ds, now, hset⟩, hwrites⟩ := execRingResume_resumes (flags := flags) hw hv hstopped htrained hfits
    refine ⟨t, ht, ?_⟩
    simp only [hset.ring]
    exact ⟨rfl, rfl, rfl, rfl, rfl, hwrites, hset.others, execRingResume_frame ht⟩
  · intro p n v pi ci flags s r
    refine ⟨execRingResume_running, fun hw hv hstopped htrained hbeyond => ?_⟩
    obtain ⟨t, ht, hset⟩ := execRingResume_beyond (ci := ci) (flags := flags) hw hv hstopped htrained hbeyond
    refine ⟨t, ht, ?_⟩
    simp only [hset.ring]
    refine ⟨?_, ?_, rfl, rfl, fun hover => ?_, fun hfresh => ?_, hset.others, execRingResume_frame ht⟩
    · exact Ring.checked_stopped (r := (s.ring n).atDoorbell pi ci flags) hstopped s.tb.sub
    · exact Ring.checked_overrun (r := (s.ring n).atDoorbell pi ci flags) hbeyond s.tb.sub
    · rw [Ring.checked_of_overrun (r := (s.ring n).atDoorbell pi ci flags) hover]
      rfl
    · rw [Ring.checked_of_beyond (r := (s.ring n).atDoorbell pi ci flags) hbeyond hfresh]
      exact ⟨_, rfl, rfl, rfl⟩
  · intro p lanes gen reset s hup hp hlanes hgen hgen3
    have ht := execRamokLinkTrain_trains hup reset hp hlanes hgen hgen3
    obtain ⟨hport, hother⟩ := linkSet_port hp s ((s.port p).up lanes gen) reset
    refine ⟨_, ht, by rw [hport]; rfl, by rw [hport]; rfl, by rw [hport]; rfl, hother, ?_, ?_, execRamokLinkTrain_frame ht⟩
    · rintro rfl
      exact linkSet_ring_kept s p _
    · rintro rfl
      exact linkSet_ring_cut s p _
  · intro p gen reset s hup hp
    have ht := execRamokLinkTrain_down hup hp gen reset
    obtain ⟨hport, hother⟩ := linkSet_port hp s (s.port p).down false
    exact ⟨_, ht, by rw [hport]; rfl, hother, linkSet_ring_kept s p _, execRamokLinkTrain_frame ht⟩
  · intro p s hp hup hever
    have ht := execRamokLinkLost_down hup hever
    obtain ⟨hport, hother⟩ := linkSet_port hp s (s.port p).down true
    exact ⟨_, ht, by rw [hport]; rfl, hother, linkSet_ring_cut s p _, execRamokLinkLost_frame ht⟩

end Sys2Proof.Machine
end

section
/-! ### Maintenance writes (12 R363 to R368; 16 R497; 19 R583) -/

namespace Sys2Proof.Machine

open Sys2Proof

theorem port_trained (s : State) (p : Nat) : (if p = 0 then s.rmk.port0.trained else s.rmk.port1.trained) = (s.port p).trained :=
  (apply_ite Port.trained ..).symm

/-- At a port that is not trained no access comes in (12 R365). -/
theorem not_writable_of_untrained {s : State} {p : Nat} (h : (s.port p).trained = false) (a : Access) : s.writable p a = false := by
  rw [State.writable, port_trained, h, Bool.false_and]

theorem not_readable_of_untrained {s : State} {p : Nat} (h : (s.port p).trained = false) (a : Access) : s.readable p a = false := by
  rw [State.readable, port_trained, h, Bool.false_and]

theorem wordWrite_of_not {s : State} {p a : Nat} (h : s.writable p (s.accessOf a) = false) (v : Word) : wordWrite p a v s = s :=
  if_neg (by simp [h])

theorem wordWrite_of_writable {s : State} {p a : Nat} (h : s.writable p (s.accessOf a) = true) (v : Word) :
    wordWrite p a v s = regWrite a v s := if_pos h

section
variable (p a : Nat) (v : DWord) (s : State)

theorem execMaintenanceWrite_word (ha : a % 4 = 0) :
    exec (.maintenanceWrite p a 32 v) s = .next (wordWrite p a (v.setWidth 32) s) :=
  congrArg Host.Outcome.next (if_pos (by simp [ha]))

theorem execMaintenanceWrite_pair (ha : a % 8 = 0) :
    exec (.maintenanceWrite p a 64 v) s = .next (wordWrite p (a + 4) ((v >>> 32).setWidth 32) (wordWrite p a (v.setWidth 32) s)) :=
  congrArg Host.Outcome.next ((if_neg (by simp)).trans (if_pos (by simp [ha])))

theorem execMaintenanceWrite_other {w : Nat} (hword : ¬(w = 32 ∧ a % 4 = 0)) (hpair : ¬(w = 64 ∧ a % 8 = 0)) :
    exec (.maintenanceWrite p a w v) s = .next (dropWrite p a s) :=
  congrArg Host.Outcome.next ((if_neg (by simpa using hword)).trans (if_neg (by simpa using hpair)))

end

theorem dropWrite_of_readable {s : State} {p a : Nat} (h : s.readable p (s.accessOf (a / 4 * 4)) = true) :
    dropWrite p a s = { s with rmk := { s.rmk with dropped := min (s.rmk.dropped + 1) 0xFFFF } } := if_pos h

theorem dropWrite_of_not {s : State} {p a : Nat} (h : s.readable p (s.accessOf (a / 4 * 4)) = false) : dropWrite p a s = s :=
  if_neg (by simp [h])

/-- Nothing comes of a write at an untrained port, whatever its width and address (12 R365). -/
theorem execMaintenanceWrite_untrained {s : State} {p : Nat} (h : (s.port p).trained = false) (a w : Nat) (v : DWord) :
    exec (.maintenanceWrite p a w v) s = .next s := by
  have hword (b : Nat) (x : Word) : wordWrite p b x s = s := wordWrite_of_not (not_writable_of_untrained h _) x
  by_cases h32 : w = 32 ∧ a % 4 = 0
  · obtain ⟨rfl, ha⟩ := h32
    rw [execMaintenanceWrite_word p a v s ha, hword]
  · by_cases h64 : w = 64 ∧ a % 8 = 0
    · obtain ⟨rfl, ha⟩ := h64
      rw [execMaintenanceWrite_pair p a v s ha, hword, hword]
    · rw [execMaintenanceWrite_other p a v s h32 h64, dropWrite_of_not (not_readable_of_untrained h _)]

/-! ### PRF_POLICY_0 and RMK_DB_BASE_LO (12 R368, 16 R497) -/

theorem accessOf_policy (s : State) : s.accessOf 0x6100 = .ready := rfl

theorem accessOf_dbBase (s : State) : s.accessOf 0x80008 = .ready := rfl

theorem regWrite_policy (v : Word) (s : State) : regWrite 0x6100 v s =
    if s.proof.locked then s else { s with proof := { s.proof with policy := s.proof.policy.set 0 (v &&& 0x1FF) } } := rfl

theorem regWrite_dbBase (v : Word) (s : State) : regWrite 0x80008 v s =
    if s.anyRingOn then s else { s with rmk := { s.rmk with dbLo := v &&& 0xFFFF0000 } } := rfl

/-- A register that ignores writes ignores them whether its boot state answers or not. -/
theorem execMaintenanceWrite_ignored {p a : Nat} {v : DWord} {s : State} (ha : a % 4 = 0) (h : regWrite a (v.setWidth 32) s = s) :
    exec (.maintenanceWrite p a 32 v) s = .next s := by
  rw [execMaintenanceWrite_word p a v s ha, wordWrite, h, ite_self]

/-- Settles O29: a write by its width and alignment; the two registers by what their writes do. -/
theorem maintenanceWrites : Obligations.MaintenanceWrites := by
  unfold Obligations.MaintenanceWrites
  refine ⟨fun p a w v s hword hpair hread => ?_, fun p a w v s _ h => execMaintenanceWrite_untrained h a w v,
    fun p a v s t ha ht => ?_, fun p v s hw hopen => ?_, fun p v s hlocked => ?_, fun p v s hw hoff => ?_, fun p v s hon => ?_⟩
  · rw [execMaintenanceWrite_other p a v s hword hpair, dropWrite_of_readable hread]
  · rw [execMaintenanceWrite_word p a v s (by omega)] at ht
    rw [execMaintenanceWrite_pair p a v s ha, Host.Outcome.next.inj ht, execMaintenanceWrite_word p (a + 4) _ t (by omega)]
  · rw [execMaintenanceWrite_word p _ v s rfl, wordWrite_of_writable (by rw [accessOf_policy]; exact hw), regWrite_policy,
      if_neg (by simp [hopen])]
  · exact execMaintenanceWrite_ignored rfl ((regWrite_policy ..).trans (if_pos hlocked))
  · rw [execMaintenanceWrite_word p _ v s rfl, wordWrite_of_writable (by rw [accessOf_dbBase]; exact hw), regWrite_dbBase,
      if_neg (by simp [hoff])]
  · exact execMaintenanceWrite_ignored rfl ((regWrite_dbBase ..).trans (if_pos hon))

end Sys2Proof.Machine
end

section
/-! ### Accepted descriptors, their changes and their completion (12 R377, R386, R394; 13 R424) -/

namespace Sys2Proof.Machine

open Sys2Proof

/-! ### An accepted descriptor -/

/-- A descriptor read by its acceptance number carries that number. -/
theorem State.desc_seq {s : State} {n k : Nat} {d : Desc} (h : s.desc n k = some d) : d.seq = k :=
  beq_iff_eq.mp (List.find?_some (p := fun e : Desc => e.seq == k) h)

theorem State.desc_congr {s t : State} (h : t.rmk = s.rmk) (n : Nat) : t.desc n = s.desc n := by
  funext k
  simp only [State.desc, State.ring_congr h]

/-- A change of an accepted descriptor that leaves its number is what is read behind it. -/
theorem State.desc_modDesc {s : State} {n k : Nat} {d : Desc} {f : Desc → Desc} (h : s.desc n k = some d)
    (hf : ∀ e, e.seq = k → (f e).seq = k) : (s.modDesc n k f).desc n k = some (f d) := by
  have hpred : ((fun e : Desc => e.seq == k) ∘ fun e => if e.seq == k then f e else e) = fun e => e.seq == k := by
    funext e
    by_cases he : e.seq = k
    · simp [he, hf e he]
    · simp [he]
  have hfind : (s.ring n).accepted.find? (fun e => e.seq == k) = some d := h
  simp only [State.desc, State.modDesc, State.ring_setRing, List.find?_map, hpred, hfind, Option.map_some, State.desc_seq h,
    beq_self_eq_true, if_true]

theorem State.modDesc_ring_other {n m : Nat} (s : State) (k : Nat) (f : Desc → Desc) (h : m ≠ n) : (s.modDesc n k f).ring m = s.ring m :=
  State.ring_setRing_other _ _ h

/-! ### A descriptor that leaves with its record (12 R377) -/

theorem State.complete_held (s : State) (n : Nat) (d : Desc) (x : Done) :
    ((s.complete n d x).ring n).held = (s.ring n).held ++ [{ recordOf d x with at_ := s.tb.sub }] := by
  simp [State.complete, State.hold]

theorem State.complete_accepted (s : State) (n : Nat) (d : Desc) (x : Done) :
    ((s.complete n d x).ring n).accepted = (s.ring n).accepted.filter fun e => e.seq != d.seq := by
  simp [State.complete, State.hold]

theorem State.complete_desc (s : State) (n : Nat) (d : Desc) (x : Done) : (s.complete n d x).desc n d.seq = none := by
  simp [State.desc, State.complete_accepted]

/-- A command whose whole effect is the record of a descriptor. -/
theorem completes_of_complete {c : Instr} {s : State} {n : Nat} {d : Desc} {x : Done} (h : exec c s = .next (s.complete n d x)) :
    Completes c s fun t => Retired t n d x ∧ (∀ m, m ≠ n → t.ring m = s.ring m) ∧ Frame [.rmk] s t :=
  ⟨_, h, State.complete_retired s n d x, fun _ hm => State.complete_ring_other s d x hm, State.complete_frame⟩

theorem Completes.imp {c : Instr} {s : State} {P Q : State → Prop} (h : Completes c s P) (hPQ : ∀ t, exec c s = .next t → P t → Q t) :
    Completes c s Q := by
  obtain ⟨t, ht, hP⟩ := h
  exact ⟨t, ht, hPQ t ht hP⟩

/-- A command whose whole effect is the record of a descriptor, as far as the statements ask where no other ring is in question. -/
theorem retires_of_complete {c : Instr} {s : State} {n : Nat} {d : Desc} {x : Done} (h : exec c s = .next (s.complete n d x)) :
    Completes c s fun t => Retired t n d x ∧ Frame [.rmk] s t :=
  (completes_of_complete h).imp fun _ _ ⟨hretired, _, hframe⟩ => ⟨hretired, hframe⟩

/-! ### NOP and FENCE (12 R386, 13 R424) -/

section
variable {n k : Nat} {d : Desc} {s : State} (hd : s.desc n k = some d)
include hd

theorem execNop_completes (hop : d.opcode = 0x0F) : exec (.nop n k) s = .next (s.complete n d { status := stSuccess }) := by
  show execNop n k s = _
  simp [execNop, hd, hop]

theorem execFence_completes (hop : d.opcode = 0x0E) (hheld : (s.ring n).held = []) (hfirst : ∀ e ∈ (s.ring n).accepted, d.seq ≤ e.seq) :
    exec (.fence n k) s = .next (s.complete n d { status := stSuccess }) := by
  show execFence n k s = _
  simpa [execFence, hd, hop, hheld] using fun e he hlt => absurd (hfirst e he) (Nat.not_le.mpr hlt)

/-- A FENCE waits behind every descriptor accepted before it. -/
theorem execFence_waits {e : Desc} (he : e ∈ (s.ring n).accepted) (hlt : e.seq < d.seq) : exec (.fence n k) s = .next s := by
  have hall : ((s.ring n).accepted.all fun e => d.seq ≤ e.seq) = false :=
    List.all_eq_false.mpr ⟨e, he, by simpa using hlt⟩
  show execFence n k s = _
  simp [execFence, hd, hall]

end

/-! ### ABORT (12 R394) -/

section
variable {n k : Nat} {d : Desc} {s : State}

theorem execAbort_observes (hd : s.desc n k = some d) (hop : d.opcode = 0x0D) (hfresh : d.started = false) :
    exec (.abort n k) s = .next (observeAbort n d s) := by
  show execAbort n k s = _
  simp [execAbort, hd, hop, hfresh]

theorem observeAbort_unused (hslot : tabGet (s.ring n).slots d.targetSlot = none) :
    observeAbort n d s = finishAbort n d stNotFound s := by
  simp [observeAbort, hslot]

theorem observeAbort_otherGen {g : Byte} {op q : Nat} (hslot : tabGet (s.ring n).slots d.targetSlot = some (g, op, q))
    (hgen : g ≠ d.targetGen) : observeAbort n d s = finishAbort n d stNotFound s := by
  simp [observeAbort, hslot, hgen]

variable {op q : Nat} (hslot : tabGet (s.ring n).slots d.targetSlot = some (d.targetGen, op, q))
include hslot

theorem observeAbort_notAbortable (hop : notAbortable op = true) : observeAbort n d s = finishAbort n d stNotAbortable s := by
  simp [observeAbort, hslot, hop]

theorem observeAbort_completed (hop : notAbortable op = false) (hgone : s.desc n q = none) :
    observeAbort n d s = finishAbort n d stAlreadyDone s := by
  simp [observeAbort, hslot, hop, hgone]

/-- A STREAM_CTRL that no plan close has taken stops at once, and the ABORT's record follows its record. -/
theorem observeAbort_streamCtrl {e : Desc} (hop : notAbortable op = false) (he : s.desc n q = some e) (heop : e.opcode = 6)
    (haborted : e.aborted = false) (hcommitted : e.committed = false) :
    observeAbort n d s = finishAbort n d stSuccess (s.complete n e { status := stAborted }) := by
  have hnow : s.committedNow n e = false := by simp [State.committedNow, heop, hcommitted]
  have hstop : stopTarget n e s = s.complete n e { status := stAborted } := by simp [stopTarget, heop]
  have hgone : (s.complete n e { status := stAborted }).desc n q = none := State.desc_seq he ▸ State.complete_desc ..
  simp [observeAbort, hslot, hop, he, haborted, hnow, hstop, hgone]

end

/-- Settles O17: a NOP and a FENCE by their one record; an ABORT by the first row of R394 that its target meets. -/
theorem nopFenceAndAbort : Obligations.NopFenceAndAbort := by
  unfold Obligations.NopFenceAndAbort
  refine ⟨⟨fun n k d s hd hop => ?_, fun n k d s hd hop hheld hfirst => ?_, fun n k d e s hd he hlt => execFence_waits hd he hlt⟩,
    fun n k d s hd hop hfresh => ?_⟩
  · exact completes_of_complete (execNop_completes hd hop)
  · exact completes_of_complete (execFence_completes hd hop hheld hfirst)
  have habort := execAbort_observes hd hop hfresh
  refine ⟨fun hslot => ?_, fun g op q hslot hgen => ?_, fun op q hslot hnot => ?_, fun op q hslot hmay hgone => ?_,
    fun e hslot he heop haborted hcommitted => ?_⟩
  · exact retires_of_complete (habort.trans (by rw [observeAbort_unused hslot]; rfl))
  · exact retires_of_complete (habort.trans (by rw [observeAbort_otherGen hslot hgen]; rfl))
  · exact retires_of_complete (habort.trans (by rw [observeAbort_notAbortable hslot hnot]; rfl))
  · exact retires_of_complete (habort.trans (by rw [observeAbort_completed hslot hmay hgone]; rfl))
  · refine ⟨_, habort, ?_⟩
    rw [observeAbort_streamCtrl hslot rfl he heop haborted hcommitted, finishAbort]
    refine ⟨?_, fun m hm => ?_, State.complete_frame.comp (List.Subset.refl _) State.complete_frame⟩
    · rw [State.complete_held, State.complete_held, State.complete_tb, List.append_assoc]
      rfl
    · rw [State.complete_ring_other _ _ _ hm, State.complete_ring_other _ _ _ hm]

end Sys2Proof.Machine
end

section
/-! ### Rings that a descriptor leaves alone, and what charges leave of the state (11 R352, 12 R377) -/

namespace Sys2Proof.Machine

open Sys2Proof

/-! ### Changes within one ring -/

/-- Between two states at most ring `n` changes among the rings. -/
def State.OtherRings (n : Nat) (s t : State) : Prop := ∀ m, m ≠ n → t.ring m = s.ring m

theorem State.OtherRings.refl (n : Nat) (s : State) : State.OtherRings n s s := fun _ _ => rfl

theorem State.OtherRings.trans {n : Nat} {s t u : State} (k : State.OtherRings n t u) (h : State.OtherRings n s t) :
    State.OtherRings n s u :=
  fun m hm => (k m hm).trans (h m hm)

theorem Frame.otherRings {L : List Block} {s t : State} (h : Frame L s t) (hrmk : decide (.rmk ∈ L) = false) (n : Nat) :
    State.OtherRings n s t :=
  (h.setsRing hrmk n).others

theorem State.OtherRings.ite {n : Nat} {s a b : State} {p : Prop} [Decidable p] (ha : State.OtherRings n s a)
    (hb : State.OtherRings n s b) : State.OtherRings n s (if p then a else b) := by
  split
  · exact ha
  · exact hb

theorem State.complete_otherRings {s : State} {n : Nat} {d : Desc} {x : Done} : State.OtherRings n s (s.complete n d x) :=
  fun _ hm => State.complete_ring_other s d x hm

theorem State.modDesc_otherRings {s : State} {n k : Nat} {f : Desc → Desc} : State.OtherRings n s (s.modDesc n k f) :=
  fun _ hm => State.modDesc_ring_other s k f hm

/-! ### Charges and counts -/

/-- What counting and charging a descriptor's traffic may change (11 R352, 18 R573). -/
def chargeBlocks : List Block := [.sessions, .jobs, .cnt, .tallies]

theorem State.bump_charged {s u : State} {code n : Nat} (h : Frame chargeBlocks s u) : Frame chargeBlocks s (u.bump code n) :=
  State.bump_frame.comp (by decide) h

theorem State.charge_charged {s u : State} {sess : Nat} {job : Option Nat} {a : Account} (h : Frame chargeBlocks s u) :
    Frame chargeBlocks s (u.charge sess job a) :=
  State.charge_frame.comp (by decide) h

/-- A charge to no job leaves the job contexts. -/
theorem State.charge_none_jobs (s : State) (sess : Nat) (a : Account) : (s.charge sess none a).jobs = s.jobs := by
  unfold State.charge
  simp only [Option.bind_none]
  split
  · rfl
  · rfl

section
variable {s u : State} (h : Frame chargeBlocks s u)
include h

theorem Frame.charged_mem : u.mem = s.mem := h .mem (by decide)
theorem Frame.charged_models : u.models = s.models := h .models (by decide)
theorem Frame.charged_model : u.model = s.model := State.model_congr h.charged_models
theorem Frame.charged_tb : u.tb = s.tb := h .tb (by decide)
theorem Frame.charged_rmk : u.rmk = s.rmk := h .rmk (by decide)
theorem Frame.charged_desc (n : Nat) : u.desc n = s.desc n := State.desc_congr h.charged_rmk n

theorem Frame.charged_frameSubs : u.frameSubs = s.frameSubs := by
  simp only [State.frameSubs, State.frameTicks, h.charged_tb]

theorem Frame.charged_newHandle : u.newHandle = s.newHandle := by
  have hnext : u.nextHandle = s.nextHandle := h .nextHandle (by decide)
  simp only [State.newHandle, h.charged_model, h.charged_models, hnext]

theorem Frame.charged_poolTake (n : Nat) : u.poolTake n = s.poolTake n := by
  rw [State.poolTake, State.poolExtents, State.channels, h.charged_mem]
  rfl

theorem Frame.charged_pinRoom (image : List Byte) : u.pinRoom image = s.pinRoom image := by
  simp only [State.pinRoom, h.charged_mem, h.charged_models]

theorem Frame.charged_wrapKey (w : List Byte) : wrapKey u w = wrapKey s w := by
  have hpart : u.part = s.part := h .part (by decide)
  have hihx : u.ihx = s.ihx := h .ihx (by decide)
  have hproof : u.proof = s.proof := h .proof (by decide)
  rw [wrapKey, State.groupEpoch, State.kak, hpart, hihx, hproof]
  rfl

theorem Frame.charged_imageReason (m : List Byte) : imageReason u m = imageReason s m := by
  have hcap : u.cap = s.cap := h .cap (by decide)
  have hhatch : u.hatch = s.hatch := h .hatch (by decide)
  have hceiling : u.liveCeiling = s.liveCeiling := by
    funext f
    simp only [State.liveCeiling, State.field, hcap, hhatch]
  simp only [imageReason, check9, State.fitsFields, hceiling]

/-- A descriptor that leaves behind its charges leaves the voice library as it was. -/
theorem Frame.charged_refuses (n : Nat) (d : Desc) (x : Done) :
    Retired (u.complete n d x) n d x ∧ (u.complete n d x).models = s.models :=
  ⟨State.complete_retired u n d x, (State.complete_models ..).trans h.charged_models⟩

end

/-- Two outcomes of one command are one state. -/
theorem exec_unique {c : Instr} {s t u : State} (ht : exec c s = .next t) (hu : exec c s = .next u) : t = u :=
  Host.Outcome.next.inj (ht.symm.trans hu)

end Sys2Proof.Machine
end

section
/-! ### MODEL_LOAD and MODEL_EVICT (01 R27; 10 R315, R316; 13 R404 to R406; 16 R507, R508) -/

namespace Sys2Proof.Machine

open Sys2Proof

/-! ### A voice enters the library (13 R406) -/

/-- The voice model that an image becomes under a handle, cold and used now (10 R318, 13 R406). -/
def State.newVoice (s : State) (h sess : Nat) (image : List Byte) (cls : Nat) : Model :=
  ⟨h, sess, image, weightDigest image, cls, none, false, .cold, 0, s.tb.frameOrd⟩

section
variable {s : State} {image : List Byte}

theorem addModel_full (h : s.newHandle = none ∨ s.poolTake (ceilDiv image.length 2097152) = none) (sess cls : Nat) :
    s.addModel sess image cls = none := by
  unfold State.addModel
  split
  · next hh hes => simp [hh, hes] at h
  · rfl

theorem addModel_stores {h : Nat} {es : List Nat} (hh : s.newHandle = some h) (hes : s.poolTake (ceilDiv image.length 2097152) = some es)
    (sess cls : Nat) :
    ∃ u, s.addModel sess image cls = some (u, s.newVoice h sess image cls) ∧ u.model h = some (s.newVoice h sess image cls) := by
  unfold State.addModel
  simp only [hh, hes]
  exact ⟨_, rfl, State.model_setModel _ (s.newVoice h sess image cls)⟩

end

/-- A promotion that starts is one that the model's record shows: it copies for the new job, from now for a Frame (10 R315, R317). -/
theorem startPromotion_some {s t : State} {m : Model} (h : s.startPromotion m = some t) :
    ∃ set n v, v = { m with res := .copying set n 0 (s.tb.sub, s.tb.sub + s.frameSubs), share := s.mem.policy.share } ∧
      t.model m.handle = some v := by
  cases hset : s.findSet m with
  | none => rw [startPromotion_none hset] at h; cases h
  | some set =>
    cases hn : freeKey s.jobs 1024 0 with
    | none => simp [State.startPromotion, hset, hn] at h
    | some n =>
      cases hres : s.reserveOk m.image set.length 0 with
      | false => simp [State.startPromotion, hset, hn, hres] at h
      | true =>
        rw [startPromotion_opens hn hset hres] at h
        obtain rfl := Option.some.inj h
        exact ⟨set, n, _, rfl, State.model_setModel (s.openCopy m set) { m with
          res := .copying set n 0 (s.tb.sub, s.tb.sub + s.frameSubs), share := s.mem.policy.share }⟩

/-! ### A loaded image (10 R315, 13 R406) -/

/-- A MODEL_LOAD that has completed: the image is the session's voice under its handle, cold, and its record has its handle and class. -/
def State.LoadedAs (t : State) (n : Nat) (d : Desc) (h : Nat) (image : List Byte) (cls : Nat) : Prop :=
  ∃ v, t.model h = some v ∧ v.session = n ∧ v.image = image ∧ v.cls = cls ∧ v.res = .cold ∧
    Retired t n d { status := stSuccess, detail := cls, result := h, count := d.wrappedBytes }

/-- A MODEL_LOAD that waits for the promotion of its voice, which copies from `s` on. -/
def State.LoadPromotes (s t : State) (n k : Nat) (d : Desc) (h : Nat) (image : List Byte) : Prop :=
  ∃ v, t.model h = some v ∧ v.session = n ∧ v.image = image ∧ v.cls = 2 ∧
    (∃ set job, v.res = .copying set job 0 (s.tb.sub, s.tb.sub + s.frameSubs)) ∧
    t.desc n k = some { d with started := true, link := h + 1 }

theorem finishLoad_loads {u : State} {v : Model} (hv : u.model v.handle = some v) (hcold : v.res = .cold) (n : Nat) (d : Desc)
    (hsess : v.session = n) : (finishLoad n d v u).LoadedAs n d v.handle v.image v.cls :=
  ⟨v, (congrFun (State.model_congr (finishLoad_frame .models (by decide))) _).trans hv, hsess, rfl, rfl, hcold, State.complete_retired ..⟩

section
variable {s : State} {n k : Nat} {d : Desc} {image : List Byte}

theorem loadClassed_full (h : s.newHandle = none ∨ s.poolTake (ceilDiv image.length 2097152) = none) (cls : Nat) :
    s.loadClassed n d image cls = s.complete n d { status := stExhausted, count := d.wrappedBytes } := by
  simp only [State.loadClassed, addModel_full h]

variable {h : Nat} {es : List Nat} (hh : s.newHandle = some h) (hes : s.poolTake (ceilDiv image.length 2097152) = some es)
include hh hes

/-- A class other than Pinned is granted. -/
theorem loadClassed_asked {cls : Nat} (hcls : cls ≠ 2) : (s.loadClassed n d image cls).LoadedAs n d h image cls := by
  obtain ⟨u, hadd, hu⟩ := addModel_stores hh hes n cls
  simp only [State.loadClassed, hcls, decide_false, Bool.false_and, Bool.not_false, Bool.and_true, Bool.false_eq_true, if_false, hadd]
  exact finishLoad_loads hu rfl n d rfl

/-- Where pinning is not granted a Pinned load is granted as Auto. -/
theorem loadClassed_unpinned (hpin : (s.mem.policy.allowPin && s.pinRoom image) = false) :
    (s.loadClassed n d image 2).LoadedAs n d h image 1 := by
  obtain ⟨u, hadd, hu⟩ := addModel_stores hh hes n 1
  simp only [State.loadClassed, decide_true, Bool.true_and, hpin, Bool.not_false, Bool.and_true, if_true, hadd, OfNat.one_ne_ofNat, if_false]
  exact finishLoad_loads hu rfl n d rfl

/-- A voice that is to be pinned starts its promotion, or is granted as Auto where none may start. -/
theorem loadClassed_pinned (hd : s.desc n k = some d) (hpin : (s.mem.policy.allowPin && s.pinRoom image) = true) :
    (s.loadClassed n d image 2).LoadedAs n d h image 1 ∨ s.LoadPromotes (s.loadClassed n d image 2) n k d h image := by
  obtain rfl := State.desc_seq hd
  obtain ⟨u, hadd, hu⟩ := addModel_stores hh hes n 2
  have hframe := State.addModel_frame hadd
  simp only [State.loadClassed, decide_true, Bool.true_and, hpin, Bool.not_true, Bool.and_false, Bool.false_eq_true, if_false, hadd, if_true]
  split
  · next t ht =>
    obtain ⟨set, job, v, rfl, hmodel⟩ := startPromotion_some ht
    have hsubs : u.frameSubs = s.frameSubs := by
      rw [State.frameSubs, State.frameTicks, hframe .tb (by decide)]
      rfl
    have hdesc : t.desc n d.seq = some d := by
      rw [State.desc_congr (State.startPromotion_frame ht .rmk (by decide)), State.desc_congr (hframe .rmk (by decide)), hd]
    refine .inr ⟨_, (State.model_modDesc ..).trans hmodel, rfl, rfl, rfl, ⟨set, job, ?_⟩, ?_⟩
    · rw [hframe .tb (by decide), hsubs]
    · exact State.desc_modDesc hdesc fun _ he => he
  · refine .inl (finishLoad_loads (v := { s.newVoice h n image 2 with cls := 1 }) ?_ rfl n d rfl)
    exact State.model_setModel u { s.newVoice h n image 2 with cls := 1 }

/-- The voice that a load leaves in the library, as its class is granted. -/
theorem loadClassed_voice (hd : s.desc n k = some d) {s₀ : State} (hframe : Frame chargeBlocks s₀ s) {cls : Nat} {pin : Bool}
    (hpin : (s.mem.policy.allowPin && s.pinRoom image) = pin) :
    ∃ v, (s.loadClassed n d image cls).model h = some v ∧ v.session = n ∧ v.image = image ∧
      (cls ≠ 2 → v.cls = cls ∧ v.res = .cold ∧
        Retired (s.loadClassed n d image cls) n d { status := stSuccess, detail := cls, result := h, count := d.wrappedBytes }) ∧
      (cls = 2 → pin = false → v.cls = 1 ∧ v.res = .cold ∧
        Retired (s.loadClassed n d image cls) n d { status := stSuccess, detail := 1, result := h, count := d.wrappedBytes }) ∧
      (cls = 2 → pin = true →
        (v.cls = 1 ∧ v.res = .cold ∧
          Retired (s.loadClassed n d image cls) n d { status := stSuccess, detail := 1, result := h, count := d.wrappedBytes }) ∨
        (v.cls = 2 ∧ (∃ set job, v.res = .copying set job 0 (s₀.tb.sub, s₀.tb.sub + s₀.frameSubs)) ∧
          (s.loadClassed n d image cls).desc n k = some { d with started := true, link := h + 1 })) := by
  by_cases hcls : cls = 2
  · subst hcls
    cases pin with
    | false =>
      obtain ⟨v, hv, hsess, himage, hloaded⟩ := loadClassed_unpinned (n := n) (d := d) hh hes hpin
      exact ⟨v, hv, hsess, himage, fun hne => absurd rfl hne, fun _ _ => hloaded, nofun⟩
    | true =>
      obtain ⟨v, hv, hsess, himage, hloaded⟩ | ⟨v, hv, hsess, himage, hwaits⟩ := loadClassed_pinned hh hes hd hpin
      · exact ⟨v, hv, hsess, himage, fun hne => absurd rfl hne, nofun, fun _ _ => .inl hloaded⟩
      · rw [hframe.charged_tb, hframe.charged_frameSubs] at hwaits
        exact ⟨v, hv, hsess, himage, fun hne => absurd rfl hne, nofun, fun _ _ => .inr hwaits⟩
  · obtain ⟨v, hv, hsess, himage, hloaded⟩ := loadClassed_asked (n := n) (d := d) hh hes hcls
    exact ⟨v, hv, hsess, himage, fun _ => hloaded, fun h2 => absurd h2 hcls, fun h2 => absurd h2 hcls⟩

end

theorem loadClassed_otherRings {s : State} {n : Nat} {d : Desc} {image : List Byte} {cls : Nat} :
    State.OtherRings n s (s.loadClassed n d image cls) := by
  have hfinish (u : State) (m : Model) : State.OtherRings n u (finishLoad n d m u) :=
    State.complete_otherRings.trans (writeReceipt_frame.otherRings rfl n)
  unfold State.loadClassed
  extract_lets pin granted
  split
  · exact State.complete_otherRings
  · next u m hadd =>
    have hadded := (State.addModel_frame hadd).otherRings rfl n
    split
    · split
      · next t ht => exact (State.modDesc_otherRings.trans ((State.startPromotion_frame ht).otherRings rfl n)).trans hadded
      · exact ((hfinish _ _).trans (State.setModel_frame.otherRings rfl n)).trans hadded
    · exact (hfinish _ _).trans hadded

/-! ### MODEL_LOAD (13 R404, R405; 16 R507, R508) -/

/-- The state behind the fetch of a buffer list (13 R405). -/
def State.listTaken (s : State) (n : Nat) (d : Desc) : State :=
  (s.bump (0x100 + (s.ring n).port) (16 * d.listCount)).charge n none { Account.zero with ramokIn := 16 * d.listCount }

/-- The state behind the fetch of an image. -/
def State.imageTaken (s : State) (n : Nat) (d : Desc) : State :=
  (((s.listTaken n d).bump (0x100 + (s.ring n).port) d.wrappedBytes).bump 0x240 d.wrappedBytes).charge n none
    { Account.zero with ramokIn := d.wrappedBytes }

theorem listTaken_charged (s : State) (n : Nat) (d : Desc) : Frame chargeBlocks s (s.listTaken n d) :=
  State.charge_charged (State.bump_charged .refl)

theorem imageTaken_charged (s : State) (n : Nat) (d : Desc) : Frame chargeBlocks s (s.imageTaken n d) :=
  State.charge_charged (State.bump_charged (State.bump_charged (listTaken_charged s n d)))

section
variable {n k : Nat} {d : Desc} {s : State} (hd : s.desc n k = some d) (hop : d.opcode = 0x03) (hstart : s.mayStart n d = true)
  (hlink : (s.ring n).linkLost = false) (hserves : s.tracerServes (s.ring n).port (s.imageXfer n d) = true)
include hd hop hstart hlink hserves

/-- A load that is served: its list is checked, then the image's header, its tag, and its graph. -/
theorem execModelLoad_served (list image : List Byte) : exec (.modelLoad n k list image) s = .next
    (match listReason d.listCount d.wrappedBytes (bytesAt list 0 (16 * d.listCount)) with
    | some off => (s.listTaken n d).complete n d { status := stBadBuffer, detail := off }
    | none =>
      match wrapKey (s.imageTaken n d) (bytesAt image 0 d.wrappedBytes) with
      | none => (s.imageTaken n d).complete n d { status := stAuthFailed, count := d.wrappedBytes }
      | some key =>
        match unwrap (bytesAt image 0 d.wrappedBytes) key with
        | none => ((s.imageTaken n d).bump 0x241 1).complete n d { status := stAuthFailed, count := d.wrappedBytes }
        | some m =>
          match imageReason (s.imageTaken n d) m with
          | some reason => (s.imageTaken n d).complete n d { status := stGraphRejected, detail := reason, count := d.wrappedBytes }
          | none =>
            (s.imageTaken n d).loadClassed n d m (if d.cls = 3 then (s.imageTaken n d).mem.policy.defaultClass else d.cls)) := by
  show execModelLoad n k list image s = _
  unfold execModelLoad
  simp only [hd]
  rw [if_neg (by simp [hop, hstart, hlink, hserves])]
  rfl

theorem execModelLoad_otherRings {list image : List Byte} {t : State} (ht : exec (.modelLoad n k list image) s = .next t) :
    State.OtherRings n s t := by
  have hcomplete {u : State} (x : Done) (hu : Frame chargeBlocks s u) : State.OtherRings n s (u.complete n d x) :=
    State.complete_otherRings.trans (hu.otherRings rfl n)
  have hlist := listTaken_charged s n d
  have himage := imageTaken_charged s n d
  rw [exec_unique ht (execModelLoad_served hd hop hstart hlink hserves list image)]
  split
  · exact hcomplete _ hlist
  · split
    · exact hcomplete _ himage
    · split
      · exact hcomplete _ (State.bump_charged himage)
      · split
        · exact hcomplete _ himage
        · exact loadClassed_otherRings.trans (himage.otherRings rfl n)

end

/-! ### MODEL_EVICT (01 R27, 13 R406) -/

theorem evict_model (s : State) (m : Model) : (s.evict m).model m.handle = none := by
  simp [State.model, State.evict, tabGet_tabErase_same]

section
variable {n k : Nat} {d : Desc} {s : State} (hd : s.desc n k = some d) (hop : d.opcode = 0x04) (hstart : s.mayStart n d = true)
include hd hop hstart

theorem execModelEvict_gone (hm : s.model d.handle = none) :
    exec (.modelEvict n k) s = .next (s.complete n d { status := stSuccess }) := by
  show execModelEvict n k s = _
  simp [execModelEvict, hd, hop, hstart, hm]

variable {m : Model} (hm : s.model d.handle = some m)
include hm

/-- A voice in use stays; one that is not leaves. -/
theorem execModelEvict_loaded : exec (.modelEvict n k) s = .next
    (if s.streamList.any (·.usesVoice m.handle) || s.adaptUses n m.handle || s.openUses n m.handle then
      s.complete n d { status := stModelInUse }
    else (s.evict m).complete n d { status := stSuccess }) := by
  show execModelEvict n k s = _
  simp [execModelEvict, hd, hop, hstart, hm]

end

/-- Settles O21: a load by the first check that its list or its image fails, else by the class that it is granted; an eviction by whether
the voice is in use. -/
theorem voiceModels : Obligations.VoiceModels := by
  unfold Obligations.VoiceModels
  refine ⟨fun n k list image d s hd hop hstart hlink hserves => ?_, fun n k d m s hd hop hstart hm hhandle => ⟨?_, fun huse => ?_⟩,
    fun n k d s hd hop hstart hm => retires_of_complete (execModelEvict_gone hd hop hstart hm)⟩
  · have hframe := imageTaken_charged s n d
    obtain ⟨t, ht⟩ : ∃ t, exec (.modelLoad n k list image) s = .next t := ⟨_, rfl⟩
    have hserved := exec_unique ht (execModelLoad_served hd hop hstart hlink hserves list image)
    refine ⟨t, ht, execModelLoad_otherRings hd hop hstart hlink hserves ht, exec_frame ht, fun off hbad => ?_, fun hgood => ?_⟩
    · simp only [hbad] at hserved
      exact hserved ▸ (listTaken_charged s n d).charged_refuses ..
    simp only [hgood, hframe.charged_wrapKey] at hserved
    refine ⟨fun hkey => ?_, fun key hkey htag => ?_, fun key m reason hkey htag hreason => ?_, fun key m hkey htag hok hfull => ?_,
      fun key m h es hkey htag hok hh hes => ?_⟩
    · simp only [hkey] at hserved
      exact hserved ▸ hframe.charged_refuses ..
    · simp only [hkey, htag] at hserved
      exact hserved ▸ (State.bump_charged hframe).charged_refuses ..
    · simp only [hkey, htag, hframe.charged_imageReason, hreason] at hserved
      exact hserved ▸ hframe.charged_refuses ..
    · rw [← hframe.charged_newHandle, ← hframe.charged_poolTake] at hfull
      simp only [hkey, htag, hframe.charged_imageReason, hok, loadClassed_full hfull] at hserved
      exact hserved ▸ hframe.charged_refuses ..
    · rw [← hframe.charged_newHandle] at hh
      rw [← hframe.charged_poolTake] at hes
      intro cls pin
      have hpin : ((s.imageTaken n d).mem.policy.allowPin && (s.imageTaken n d).pinRoom m) = pin := by
        rw [hframe.charged_mem, hframe.charged_pinRoom]
      have hd' : (s.imageTaken n d).desc n k = some d := hframe.charged_desc n ▸ hd
      simp only [hkey, htag, hframe.charged_imageReason, hok, hframe.charged_mem] at hserved
      exact hserved ▸ loadClassed_voice hh hes hd' hframe hpin
  · intro hstreams hadapt hopen
    have hexec := execModelEvict_loaded hd hop hstart hm
    rw [if_neg (by simp [hstreams, hadapt, hopen])] at hexec
    exact ⟨_, hexec, State.complete_retired .., (State.model_complete ..).trans (hhandle ▸ evict_model s m), exec_frame hexec⟩
  · have hexec := execModelEvict_loaded hd hop hstart hm
    rw [if_pos (by simpa [or_assoc] using huse)] at hexec
    exact retires_of_complete hexec

end Sys2Proof.Machine
end

section
/-! ### STREAM_OPEN, STREAM_CTRL and STREAM_CLOSE (01 R36; 02 R44; 10 R310; 12 R387; 13 R407, R426; 17 R549) -/

namespace Sys2Proof.Machine

open Sys2Proof

/-! ### A stream at its place (02 R62, 14 R441) -/

/-- What of a stream its place does not give: all but its row, its context and its shadows. -/
def Stream.unplaced (x : Stream) : Stream :=
  { x with job := noJob, unit := 0, ctx := 0, left := false, shadow := none, second := none, secondCores := [] }

/-- A stream is there under its ID, at some place. -/
def State.Places (t : State) (x : Stream) : Prop := ∃ y, t.stream x.id = some y ∧ y.unplaced = x.unplaced

theorem State.Places.congr {s t : State} {x : Stream} (hs : s.Places x) (h : t.stream = s.stream) : t.Places x := by
  unfold State.Places
  rwa [h]

theorem setStream_places {x y : Stream} (h : y.unplaced = x.unplaced) (s : State) : (s.setStream y).Places x :=
  have hid : y.id = x.id := show y.unplaced.id = x.unplaced.id by rw [h]
  ⟨y, hid ▸ s.stream_setStream y, h⟩

theorem bindUnit_places {s : State} {x y : Stream} (hs : s.Places x) (h : y.unplaced = x.unplaced) (u : Nat) :
    (s.bindUnit y u).Places x := by
  unfold State.bindUnit
  extract_lets b weights key
  split
  · exact hs
  · next k _ => exact setStream_places (y := { y with unit := u, ctx := k, left := false }) h _

theorem commitFill_places (s : State) (a : Ask) (m : List Byte) (maxCores : Nat) (p : Place) (x : Stream) :
    (s.commitFill a m maxCores p x).Places x := by
  unfold State.commitFill
  extract_lets r y
  exact (setStream_places (y := y) rfl _).congr (State.joinRow_frame.stream (by decide))

theorem commitLive_places (s : State) (a : Ask) (m : List Byte) (maxCores : Nat) (p : Place) (x : Stream) :
    (s.commitLive a m maxCores p x).Places x := by
  unfold State.commitLive
  extract_lets r u shadow y
  exact (bindUnit_places (setStream_places (y := y) rfl u) rfl p.unit).congr (State.joinRow_frame.stream (by decide))

theorem commitPlace_places {s : State} {a : Ask} {m : Model} (hm : s.model a.handle = some m) (p : Place) (x : Stream) :
    (s.commitPlace a p x).Places x := by
  unfold State.commitPlace
  simp only [hm]
  split
  · exact commitFill_places ..
  · exact commitLive_places ..

theorem openAt_places {s : State} {a : Ask} {m : Model} (hm : s.model a.handle = some m) (n : Nat) (p : Place) (x : Stream) :
    (s.openAt n a p x).Places x := by
  unfold State.openAt
  extract_lets s1 s2 s3
  have hs1 : s1.model a.handle = some m := by
    unfold s1
    split
    · exact hm
    · exact hm
  have hs2 : s2.Places x := (commitPlace_places hs1 p x).congr (State.bump_frame.stream (by decide))
  have hs3 : s3.Places x := by
    unfold s3
    split
    · exact hs2.congr (State.setModel_frame.stream (by decide))
    · exact hs2
  split
  · exact hs3.congr (State.setDir_frame.stream (by decide))
  · exact hs3

/-- A stream for a line holds its slot (14 R441). -/
theorem openAt_holds {x : Stream} (hline : x.toLine = true) (s : State) (n : Nat) (a : Ask) (p : Place) :
    tabGet ((s.openAt n a p x).dir x.line 0).holders x.slot = some x.id := by
  simp only [State.openAt, hline, if_true, State.dir_setDir, tabGet_tabSet_same]

/-! ### STREAM_OPEN (13 R407, 17 R549, 10 R310) -/

/-- What a STREAM_OPEN asks of admission (02 R62). -/
def Desc.ask (d : Desc) (n : Nat) : Ask := ⟨n, d.handle, d.season, d.rate, d.sflag 2, d.sflag 3, none, [d.handle]⟩

/-- The stream that a STREAM_OPEN opens for a voice under an ID (13 R407). -/
def State.streamFor (s : State) (n : Nat) (d : Desc) (m : Model) (id : Nat) : Stream :=
  openedStream s id n m d (((s.session n).map (·.ordinal)).getD 0)

theorem model_not_damaged {s : State} {h : Nat} (hwhole : ∀ m, s.model h = some m → m.damaged = false) :
    (s.model h).any (·.damaged) = false := by
  cases hm : s.model h with
  | none => rfl
  | some m => exact hwhole m hm

section
variable {n k : Nat} {d : Desc} {s : State} (hd : s.desc n k = some d) (hop : d.opcode = 0x05)
  (hstart : (d.started || s.mayStart n d) = true)
include hd hop hstart

theorem execStreamOpen_waits (hp : s.tb.pendingCfg.isSome = true) :
    exec (.streamOpen n k) s = .next (s.modDesc n k fun d => { d with started := true }) := by
  show execStreamOpen n k s = _
  simp [execStreamOpen, hd, hop, hstart, hp]

section
variable (hp : s.tb.pendingCfg = none)
include hp

theorem execStreamOpen_damaged {m : Model} (hm : s.model d.handle = some m) (hdamaged : m.damaged = true) :
    exec (.streamOpen n k) s = .next ((s.dropSlot d).complete n d { status := stModelDamaged }) := by
  show execStreamOpen n k s = _
  simp [execStreamOpen, hd, hop, hstart, hp, hm, hdamaged]

variable (hwhole : ∀ m, s.model d.handle = some m → m.damaged = false)
include hwhole

theorem execStreamOpen_metered (hstop : s.alm.meteredStop = true) :
    exec (.streamOpen n k) s = .next ((s.dropSlot d).complete n d { status := stMeteredStop }) := by
  show execStreamOpen n k s = _
  simp [execStreamOpen, hd, hop, hstart, hp, model_not_damaged hwhole, hstop]

variable (hgo : s.alm.meteredStop = false)
include hgo

theorem execStreamOpen_refused {e : Nat} (he : s.admitAsk (d.ask n) = .error e) : exec (.streamOpen n k) s = .next
    ((((s.dropSlot d).bump 0x201 1).writeTrace 0x82 (srcOf 8 n) e).complete n d { status := stAdmissionRefused, detail := e }) := by
  show execStreamOpen n k s = _
  rw [Desc.ask] at he
  simp [execStreamOpen, hd, hop, hstart, hp, model_not_damaged hwhole, hgo, he]

theorem execStreamOpen_admitted {p : Place} {m : Model} {id : Nat} (hask : s.admitAsk (d.ask n) = .ok p) (hm : s.model d.handle = some m)
    (hid : freeKey s.streams 16384 0 = some id) : exec (.streamOpen n k) s = .next
    ((s.openAt n (d.ask n) p (s.streamFor n d m id)).complete n d { status := stSuccess, result := id }) := by
  have hdamaged := hwhole m hm
  show execStreamOpen n k s = _
  rw [Desc.ask] at hask
  simp [execStreamOpen, hd, hop, hstart, hp, hdamaged, hgo, hask, hm, hid]
  rfl

end

end

theorem execStreamOpen_otherRings {n k : Nat} {s t : State} (h : execStreamOpen n k s = .next t) : State.OtherRings n s t := by
  have hdrop (d : Desc) : State.OtherRings n s (s.dropSlot d) := State.dropSlot_frame.otherRings rfl n
  unfold execStreamOpen at h
  have h := Host.Outcome.next.inj h
  subst h
  split
  · exact .refl n s
  · next d _ =>
    refine .ite (.refl n s) (.ite State.modDesc_otherRings (.ite ?_ (.ite ?_ ?_)))
    · exact State.complete_otherRings.trans (hdrop d)
    · exact State.complete_otherRings.trans (hdrop d)
    · extract_lets a
      split
      · exact State.complete_otherRings.trans (State.openAt_frame.otherRings rfl n)
      · exact ((State.complete_otherRings.trans (State.writeTrace_frame.otherRings rfl n)).trans (State.bump_frame.otherRings rfl n)).trans
          (hdrop d)
      · exact State.complete_otherRings.trans (hdrop d)

/-! ### STREAM_CTRL (12 R387) -/

section
variable {n k : Nat} {d : Desc} {s : State} (hd : s.desc n k = some d)
include hd

theorem execStreamCtrl_committed (hop : d.opcode = 0x06) (hdone : d.committed = true) :
    exec (.streamCtrl n k) s = .next (s.complete n d { status := stSuccess }) := by
  show execStreamCtrl n k s = _
  simp [execStreamCtrl, hd, hop, hdone]

theorem execStreamCtrl_waits (hwait : d.committed = false) : exec (.streamCtrl n k) s = .next s := by
  show execStreamCtrl n k s = _
  simp [execStreamCtrl, hd, hwait]

/-! ### STREAM_CLOSE (13 R426, 01 R36) -/

variable {x : Stream} (hx : s.stream d.stream = some x)
include hx

/-- A stream that is Closed, with its pulls completed and its line's last chunk played, leaves. -/
theorem execStreamClose_closes (hop : d.opcode = 0x09) (hsess : x.session = n) (hphase : x.phase = .closed) (hpulls : s.pulls x = [])
    (hline : x.toLine = false ∨ (x.playing = none ∧ x.played = none)) :
    ∃ u : State, exec (.streamClose n k) s = .next ((u.eraseStream x.id).complete n d { status := stSuccess, count := x.handed }) := by
  have hline : (!x.toLine || (x.playing.isNone && x.played.isNone)) = true := by
    rcases hline with h | ⟨h, h'⟩
    · simp [h]
    · simp [h, h']
  have hexec := show exec (.streamClose n k) s = execStreamClose n k s from rfl
  unfold execStreamClose at hexec
  simp only [hd, hx, hop, hsess, hphase, hpulls, hline, decide_true, List.isEmpty_nil, Bool.and_self, beq_self_eq_true, if_true] at hexec
  exact ⟨_, hexec⟩

theorem execStreamClose_waits (hwait : x.phase ≠ .closed ∨ s.pulls x ≠ [] ∨ (x.toLine = true ∧ (x.playing ≠ none ∨ x.played ≠ none))) :
    exec (.streamClose n k) s = .next s := by
  show execStreamClose n k s = _
  unfold execStreamClose
  simp only [hd, hx]
  rw [if_neg]
  intro h
  simp only [Bool.and_eq_true, Bool.or_eq_true, Bool.not_eq_true', beq_iff_eq, List.isEmpty_iff, Option.isNone_iff_eq_none] at h
  obtain ⟨⟨⟨_, hphase⟩, hpulls⟩, hline⟩ := h
  rcases hwait with h | h | ⟨hto, hplay⟩
  · exact h hphase
  · exact h hpulls
  · rcases hline with h | ⟨h, h'⟩
    · simp [hto] at h
    · simp [h, h'] at hplay

end

theorem eraseStream_stream (s : State) (id : Nat) : (s.eraseStream id).stream id = none := by
  simp [State.stream, State.eraseStream, tabGet_tabErase_same]

/-- A STREAM_OPEN that is refused gives back its slot. -/
theorem retires_of_dropSlot {c : Instr} {s : State} {n : Nat} {d : Desc} {x : Done} (h : exec c s = .next ((s.dropSlot d).complete n d x)) :
    Completes c s fun t => Retired t n d x ∧ Frame [.rmk, .lines] s t :=
  ⟨_, h, State.complete_retired .., State.complete_frame.comp (by decide) (State.dropSlot_frame.mono (by decide))⟩

/-- Settles O22: an opening by what refuses it or the place that admission gives; a control by its plan close; a close by what its stream
still has to deliver. -/
theorem streams : Obligations.Streams := by
  unfold Obligations.Streams
  refine ⟨fun n k d s hd hop hstart hp hwhole hgo => ?_, fun n k d s hd hop hstart => ⟨fun hp hm => ?_, fun hp hwhole hstop => ?_, fun hp => ?_⟩,
    fun n k d s hd hop => ⟨fun hdone => ?_, execStreamCtrl_waits hd⟩, fun n k d x s hd hop hx hid hsess => ⟨fun hphase hpulls hline => ?_,
      execStreamClose_waits hd hx⟩⟩
  · intro a
    obtain ⟨t, ht⟩ : ∃ t, exec (.streamOpen n k) s = .next t := ⟨_, rfl⟩
    refine ⟨t, ht, execStreamOpen_otherRings ht, exec_frame ht, fun e he => ?_, fun p m id hask hm hid => ?_⟩
    · obtain rfl := exec_unique ht (execStreamOpen_refused hd hop (by simpa using hstart) hp hwhole hgo he)
      refine ⟨State.complete_retired .., ?_⟩
      rw [State.complete_streams, State.writeTrace_streams, State.bump_streams]
      exact State.dropSlot_frame .streams (by decide)
    · obtain rfl := exec_unique ht (execStreamOpen_admitted hd hop (by simpa using hstart) hp hwhole hgo hask hm hid)
      have hplaces := openAt_places (a := d.ask n) hm n p (s.streamFor n d m id)
      obtain ⟨y, hy, hpart⟩ := hplaces.congr (State.complete_frame.stream (by decide))
      have hall {α : Type} (f : Stream → α) : f y.unplaced = f (s.streamFor n d m id).unplaced := congrArg f hpart
      refine ⟨State.complete_retired .., fun hto => ?_, y, hy, hall Stream.id, hall Stream.session, hall Stream.handle, hall Stream.phase,
        hall Stream.rate, hall Stream.keep, hall Stream.fill, hall Stream.dither, hall Stream.lineFill, ?_, ?_, hall Stream.line,
        hall Stream.slot, hall Stream.seed, hall Stream.key, hall Stream.layers, hall Stream.head, hall Stream.handed, hall Stream.covered⟩
      · simp only [State.dir, State.complete_lines]
        exact openAt_holds (x := s.streamFor n d m id) (decide_eq_true hto) s n (d.ask n) p
      · exact (Bool.eq_iff_iff.mp (hall Stream.toHost)).trans decide_eq_true_iff
      · exact (Bool.eq_iff_iff.mp (hall Stream.toLine)).trans decide_eq_true_iff
  · obtain ⟨m, hm, hdamaged⟩ := hm
    exact retires_of_dropSlot (execStreamOpen_damaged hd hop (by simpa using hstart) hp hm hdamaged)
  · exact retires_of_dropSlot (execStreamOpen_metered hd hop (by simpa using hstart) hp hwhole hstop)
  · exact ⟨_, execStreamOpen_waits hd hop (by simpa using hstart) hp, ⟨_, State.desc_modDesc hd fun _ he => he, rfl⟩, modDesc_held s n k _,
      State.modDesc_frame⟩
  · exact retires_of_complete (execStreamCtrl_committed hd hop hdone)
  · obtain ⟨u, hu⟩ := execStreamClose_closes hd hx hop hsess hphase hpulls hline
    exact ⟨_, hu, State.complete_retired .., (State.stream_complete ..).trans (hid ▸ eraseStream_stream u x.id), exec_frame hu⟩

end Sys2Proof.Machine
end

section
/-! ### FEATURE_PUSH, its packets and its completion, and hand-off reports (12 R384, R387, R395; 13 R411 to R417; 15 R490) -/

namespace Sys2Proof.Machine

open Sys2Proof

/-! ### What is issued at a host engine (09 R282) -/

theorem State.desc_issueHost {s : State} {n k : Nat} {d : Desc} (h : s.desc n k = some d) (due : Int) :
    (s.issueHost n k due).desc n k = some { d with fetchAt := s.tb.sub, due := due } :=
  State.desc_modDesc h fun _ he => he

/-- The deadline of feature data depends on the voices and the timebase alone. -/
theorem featureDue_congr {s t : State} (hmodels : t.models = s.models) (htb : t.tb = s.tb) (x : Stream) :
    t.featureDue x = s.featureDue x := by
  simp only [State.featureDue, State.lacksAt, State.tickAt, State.frameSubs, State.frameTicks, State.frameSamples,
    State.model_congr hmodels, htb]
  rfl

section
variable {n k : Nat} {d : Desc} {x : Stream} {s : State} (hd : s.desc n k = some d) (hop : d.opcode = 0x07)
  (hx : s.stream d.stream = some x) (hacts : actsOn x d = true) (hsess : x.session = n)
include hd hop hx hacts hsess

/-! ### FEATURE_PUSH (12 R384) -/

theorem execFeaturePush_starts (hfresh : d.started = false) (hgo : d.aborted = false) (hlink : (s.ring n).linkLost = false)
    (hfirst : ∀ e ∈ s.pushes x, d.seq ≤ e.seq ∨ e.closed = true) (hroom : 128 * x.records.length + d.bufBytes ≤ 262144) :
    exec (.featurePush n k) s = .next
      ((((s.modDesc n k fun d => { d with started := true }).issueHost n k (s.featureDue x)).bump (0x100 + (s.ring n).port) d.bufBytes).charge
        n (some x.job) { Account.zero with ramokIn := d.bufBytes }) := by
  have hall : ((s.pushes x).all fun e => d.seq ≤ e.seq || e.closed) = true :=
    List.all_eq_true.mpr fun e he => by simpa using hfirst e he
  show execFeaturePush n k s = _
  simp [execFeaturePush, hd, hx, hop, hacts, hsess, hfresh, hgo, hlink, hall, hroom]

/-! ### FEATURE_PACKET (13 R412 to R417) -/

/-- What a packet that passes every check makes of its push (13 R412 to R415). -/
def Desc.packetTaken (g : Tag) (rs : List FeatRec) (cs : List Control) (d : Desc) : Desc :=
  { d with
    packets := d.packets + 1
    offset := d.offset + g.length
    total := d.total + (rs.map (·.span)).sum
    ctrls := d.ctrls + cs.length
    closed := d.offset + g.length = d.bufBytes }

/-- The state behind a packet that passes every check. -/
def State.packetTaken (s : State) (n k : Nat) (x : Stream) (g : Tag) (cs : List Control) (rs : List FeatRec) : State :=
  ((s.setStream (x.take g cs rs)).issueHost n k ((s.setStream (x.take g cs rs)).featureDue (x.take g cs rs))).modDesc n k
    (Desc.packetTaken g rs cs)

/-- A packet that is served: its length is checked, then its tag, then its fields (13 R416). -/
theorem execFeaturePacket_served (hstarted : d.started = true) (hopen : d.closed = false) (hgo : d.aborted = false)
    (hhere : x.transferring = false ∨ x.left = false) (hserves : s.tracerServes (s.ring n).port (s.featureXfer x d) = true)
    {bytes b : List Byte} {g : Tag} (hg : tagOf (bytesAt bytes 0 16) = g) (hb : bytesAt bytes 0 g.length = b) :
    exec (.featurePacket n k bytes) s = .next
      (if d.bufBytes < d.offset + g.length then failPush n d stTagInvalid 1 s else
        match gcmOpen (s.keyS n) (nonceOf 1 x.ordinal (g.seq + 4294967296 * x.seqWrap)) (bytesAt b 0 16)
            (bytesAt b 16 (g.length - 32)) (bytesAt b (g.length - 16) 16) with
        | none => failPush n d stAuthFailed 0 ((s.bump 0x240 g.length).bump 0x241 1)
        | some p =>
          match packetReason s x g (bytesAt p 0 32) (controlsOf g (bytesAt p 0 32) k) with
          | some r => failPush n d r.1 r.2 (s.bump 0x240 g.length)
          | none => (s.bump 0x240 g.length).packetTaken n k x g (controlsOf g (bytesAt p 0 32) k)
              (recordsOf k g.records x.covered (p.drop (if g.hasControl then 32 else 0)))) := by
  have hhere : (x.transferring && x.left) = false := by
    rcases hhere with h | h
    · simp [h]
    · simp [h]
  subst hb hg
  show execFeaturePacket n k bytes s = _
  unfold execFeaturePacket
  simp only [hd, hx]
  rw [if_neg (by simp [hop, hacts, hsess, hstarted, hopen, hgo, hhere, hserves])]
  rfl

/-! ### FEATURE_PUSH_COMMIT (12 R387, R395; 13 R426) -/

theorem execFeaturePushCommit_ends (hhead : (s.pushes x).head? = some d) (hend : (pushCommitted x d || pushStopped x d) = true) :
    exec (.featurePushCommit n k) s = .next (s.complete n d
      { status := if d.aborted then stAborted else stSuccess, result := d.packets, count := d.done, win := d.win }) := by
  have hseq := State.desc_seq hd
  show execFeaturePushCommit n k s = _
  unfold execFeaturePushCommit
  simp only [hd, hx]
  rw [if_pos (by simp [hop, hacts, hsess, hhead, hseq, hend])]

end

/-- What a packet that passes every check leaves of its push. -/
theorem packetTaken_desc {s : State} {n k : Nat} {d : Desc} (hd : s.desc n k = some d) (x : Stream) (g : Tag) (cs : List Control)
    (rs : List FeatRec) :
    (s.packetTaken n k x g cs rs).desc n k =
      some { d.packetTaken g rs cs with fetchAt := s.tb.sub, due := s.featureDue (x.take g cs rs) } := by
  have hset : (s.setStream (x.take g cs rs)).desc n k = some d := hd
  have hdue : (s.setStream (x.take g cs rs)).featureDue (x.take g cs rs) = s.featureDue (x.take g cs rs) := featureDue_congr rfl rfl _
  rw [State.packetTaken, hdue]
  exact State.desc_modDesc (State.desc_issueHost hset _) fun _ he => he

theorem packetTaken_stream (s : State) (n k : Nat) (x : Stream) (g : Tag) (cs : List Control) (rs : List FeatRec) :
    (s.packetTaken n k x g cs rs).stream x.id = some (x.take g cs rs) :=
  (congrFun (State.modDesc_frame.stream (by decide)) _).trans
    ((congrFun (State.issueHost_frame.stream (by decide)) _).trans (State.stream_setStream s (x.take g cs rs)))

theorem packetTaken_otherRings {s : State} {n k : Nat} {x : Stream} {g : Tag} {cs : List Control} {rs : List FeatRec} :
    State.OtherRings n s (s.packetTaken n k x g cs rs) :=
  (State.modDesc_otherRings.trans State.modDesc_otherRings).trans (State.setStream_frame.otherRings rfl n)

theorem failPush_otherRings {s : State} {n : Nat} {d : Desc} {status detail : Nat} :
    State.OtherRings n s (failPush n d status detail s) :=
  State.complete_otherRings

/-- A packet that fails ends its push, and leaves the streams as they were. -/
theorem failPush_ends {s u : State} (h : Frame [.cnt] s u) (n : Nat) (d : Desc) (status detail : Nat) :
    Retired (failPush n d status detail u) n d { status := status, detail := detail, result := d.packets } ∧
      (failPush n d status detail u).streams = s.streams :=
  ⟨State.complete_retired .., (State.complete_streams ..).trans (h .streams (by decide))⟩

/-! ### HAND_OFF_REPORT (15 R490) -/

section
variable {n k m : Nat} {d : Desc} {s : State} (hd : s.desc n k = some d) (hop : d.opcode = 0x07) (hlink : 65536 ≤ d.link)
include hd hop hlink

theorem execHandOffReport_counts (hmore : d.done + m < d.total) :
    exec (.handOffReport n k m) s = .next (s.modDesc n k fun _ => { d with done := d.done + m }) := by
  have hmin : min d.total (d.done + m) = d.done + m := Nat.min_eq_right hmore.le
  show execHandOffReport n k m s = _
  simp [execHandOffReport, hd, hop, Nat.not_lt.mpr hlink, hmin, hmore]

theorem execHandOffReport_ends (hall : d.total ≤ d.done + m) (hgo : d.aborted = false) :
    exec (.handOffReport n k m) s = .next
      ((s.modDesc n k fun _ => { d with done := d.total }).complete n { d with done := d.total }
        { status := stSuccess, result := d.packets, count := d.total, win := d.win }) := by
  show execHandOffReport n k m s = _
  simp [execHandOffReport, hd, hop, Nat.not_lt.mpr hlink, Nat.min_eq_left hall, hgo]

end

/-- Settles O23: a push by its start; a packet by the first check that it fails, or what it adds to its stream; an end by whether the push
was aborted; a report by whether samples are left. -/
theorem featureData : Obligations.FeatureData := by
  unfold Obligations.FeatureData
  refine ⟨fun n k d x s hd hop hx hacts hsess hfresh hgo hlink hfirst hroom => ?_,
    fun n k bytes d x s hd hop hx hacts hsess hstarted hopen hgo hhere hserves => ?_,
    fun n k d x s hd hop hx hacts hsess hhead hgo hend => ?_, fun n k d x s hd hop hx hacts hsess hhead hstop => ?_,
    fun n k m d s hd hop hlink hgo => ⟨fun hall => ?_, fun hmore => ?_⟩⟩
  · have hexec := execFeaturePush_starts hd hop hx hacts hsess hfresh hgo hlink hfirst hroom
    refine ⟨_, hexec, ?_, ?_, exec_frame hexec⟩
    · have hstarts := State.desc_modDesc (f := fun d => { d with started := true }) hd fun _ he => he
      rw [(State.charge_charged (State.bump_charged .refl)).charged_desc]
      exact State.desc_issueHost hstarts _
    · exact ((State.charge_charged (State.bump_charged .refl)).otherRings rfl n).trans
        (State.modDesc_otherRings.trans State.modDesc_otherRings)
  · have hid := State.stream_id s hx
    intro g b
    obtain ⟨t, ht⟩ : ∃ t, exec (.featurePacket n k bytes) s = .next t := ⟨_, rfl⟩
    have hserved := exec_unique ht
      (execFeaturePacket_served hd hop hx hacts hsess hstarted hopen hgo hhere hserves (g := g) (b := b) rfl rfl)
    clear_value g b
    have hcount : Frame [.cnt] s (s.bump 0x240 g.length) := State.bump_frame
    have hothers : State.OtherRings n s t := by
      rw [hserved]
      refine .ite failPush_otherRings ?_
      split
      · exact failPush_otherRings.trans ((State.bump_frame.comp (List.Subset.refl _) hcount).otherRings rfl n)
      · split
        · exact failPush_otherRings.trans (hcount.otherRings rfl n)
        · exact packetTaken_otherRings.trans (hcount.otherRings rfl n)
    refine ⟨t, ht, hothers, exec_frame ht, ?_⟩
    by_cases hlong : d.bufBytes < d.offset + g.length
    · rw [if_pos hlong] at hserved ⊢
      exact hserved ▸ failPush_ends .refl n d stTagInvalid 1
    rw [if_neg hlong] at hserved ⊢
    generalize gcmOpen _ _ _ _ _ = opened at hserved ⊢
    cases opened with
    | none => exact hserved ▸ failPush_ends (State.bump_frame.comp (List.Subset.refl _) hcount) n d stAuthFailed 0
    | some p =>
      simp only at hserved ⊢
      generalize packetReason _ _ _ _ _ = reason at hserved ⊢
      cases reason with
      | some r => exact hserved ▸ failPush_ends hcount n d r.1 r.2
      | none =>
        have hdesc := packetTaken_desc (s := s.bump 0x240 g.length) hd x g (controlsOf g (bytesAt p 0 32) k)
          (recordsOf k g.records x.covered (p.drop (if g.hasControl then 32 else 0)))
        have hstream := packetTaken_stream (s.bump 0x240 g.length) n k x g (controlsOf g (bytesAt p 0 32) k)
          (recordsOf k g.records x.covered (p.drop (if g.hasControl then 32 else 0)))
        rw [hid] at hstream
        simp only at hserved
        subst hserved
        exact ⟨_, hstream, rfl, rfl, rfl, rfl, rfl, _, hdesc, rfl, rfl, rfl, featureDue_congr rfl rfl _⟩
  · have hexec := execFeaturePushCommit_ends hd hop hx hacts hsess hhead (by simp [hend])
    simp only [hgo, Bool.false_eq_true, if_false] at hexec
    exact retires_of_complete hexec
  · have haborted : d.aborted = true := by
      simp only [pushStopped, Bool.and_eq_true] at hstop
      exact hstop.1.1
    have hexec := execFeaturePushCommit_ends hd hop hx hacts hsess hhead (by simp [hstop])
    simp only [haborted, if_true] at hexec
    exact retires_of_complete hexec
  · have hexec := execHandOffReport_ends hd hop hlink hall hgo
    exact ⟨_, hexec, State.complete_retired .., exec_frame hexec⟩
  · have hexec := execHandOffReport_counts hd hop hlink hmore
    exact ⟨_, hexec, State.desc_modDesc hd fun _ _ => (State.desc_seq hd :), exec_frame hexec⟩

end Sys2Proof.Machine
end

section
/-! ### AUDIO_PULL and the delivery of audio to the host (09 R284, R289, R290; 12 R384, R387, R395; 13 R418, R419; 16 R505) -/

namespace Sys2Proof.Machine

open Sys2Proof

/-! ### AUDIO_PULL (12 R384, 13 R418) -/

theorem execAudioPull_starts {n k : Nat} {d : Desc} {x : Stream} {s : State} (hd : s.desc n k = some d) (hop : d.opcode = 0x08)
    (hx : s.stream d.link = some x) (hsess : x.session = n) (hfresh : d.started = false) (hhead : (s.pulls x).head? = some d) :
    exec (.audioPull n k) s = .next
      (s.modDesc n k fun d => { d with started := true, first := x.delivered, fetchAt := s.tb.sub }) := by
  have hseq := State.desc_seq hd
  show execAudioPull n k s = _
  simp [execAudioPull, hd, hx, hop, hsess, hfresh, hhead, hseq]

/-! ### Writes of a ring (12 R380, R392) -/

theorem ringWrite_linked {s : State} {n : Nat} (h : (s.ring n).linkLost = false) (addr : Nat) (bytes : List Byte) :
    (s.ringWrite n addr bytes).host.writes = s.host.writes ++ [⟨(s.ring n).port, addr, bytes⟩] := by
  simp only [State.ringWrite, h, Bool.false_eq_true, if_false, hostWrite_writes]

/-- A ring that has lost its link holds its writes; no write is taken back. -/
theorem ringWrite_prefix (s : State) (n addr : Nat) (bytes : List Byte) :
    s.host.writes <+: (s.ringWrite n addr bytes).host.writes := by
  cases h : (s.ring n).linkLost with
  | true => simp [State.ringWrite, h]
  | false =>
    rw [ringWrite_linked h]
    exact List.prefix_append ..

/-! ### What moves and ends of pulls leave -/

/-- Between two states stream `id`, which is of session `n`, is delivered on by at most `most` samples, in order, with its audio as it was; the pulls of
the session at most leave with their records, and writes only join those made (09 R290). -/
structure State.Delivers (id n most : Nat) (s t : State) : Prop where
  stream   : ∀ x, s.stream id = some x → ∃ y, t.stream id = some y ∧ y.session = x.session ∧ x.delivered ≤ y.delivered ∧
    y.delivered ≤ x.delivered + most ∧ y.audio = x.audio
  writes   : s.host.writes <+: t.host.writes
  others   : State.OtherRings n s t
  held     : (s.ring n).held <+: (t.ring n).held
  accepted : ∀ e ∈ (t.ring n).accepted, ∃ f ∈ (s.ring n).accepted, f.seq = e.seq

theorem State.Delivers.refl (id n most : Nat) (s : State) : State.Delivers id n most s s where
  stream x hx := ⟨x, hx, rfl, le_rfl, Nat.le_add_right .., rfl⟩
  writes := List.prefix_rfl
  others := .refl n s
  held := List.prefix_rfl
  accepted e he := ⟨e, he, rfl⟩

theorem State.Delivers.trans {id n a b : Nat} {s t u : State} (k : State.Delivers id n b t u) (h : State.Delivers id n a s t) :
    State.Delivers id n (a + b) s u where
  stream x hx := by
    obtain ⟨y, hy, hsess, hmin, hmax, haudio⟩ := h.stream x hx
    obtain ⟨z, hz, hsess', hmin', hmax', haudio'⟩ := k.stream y hy
    exact ⟨z, hz, hsess'.trans hsess, hmin.trans hmin', by omega, haudio'.trans haudio⟩
  writes := h.writes.trans k.writes
  others := k.others.trans h.others
  held := h.held.trans k.held
  accepted e he := by
    obtain ⟨f, hf, hseq⟩ := k.accepted e he
    obtain ⟨g, hg, hseq'⟩ := h.accepted f hf
    exact ⟨g, hg, hseq'.trans hseq⟩

/-- A change of one ring that keeps its records and its descriptors' numbers, behind one that leaves the rings. -/
theorem State.Delivers.of_sets {L : List Block} {id n most : Nat} {s u t : State} {r : Ring} (hu : Frame L s u)
    (hrmk : decide (.rmk ∈ L) = false) (ht : u.SetsRing n r t)
    (hheld : (s.ring n).held <+: r.held) (hacc : ∀ e ∈ r.accepted, ∃ f ∈ (s.ring n).accepted, f.seq = e.seq)
    (hwrites : s.host.writes <+: t.host.writes)
    (hstream : ∀ x, s.stream id = some x → ∃ y, t.stream id = some y ∧ y.session = x.session ∧ x.delivered ≤ y.delivered ∧
      y.delivered ≤ x.delivered + most ∧ y.audio = x.audio) : State.Delivers id n most s t where
  stream := hstream
  writes := hwrites
  others := State.OtherRings.trans ht.others (hu.otherRings hrmk n)
  held := ht.ring ▸ hheld
  accepted := ht.ring ▸ hacc

/-! ### A piece (09 R290, 13 R419) -/

/-- The bytes of the next `n` samples of a stream's audio. -/
def Stream.pcm (x : Stream) (n : Nat) : List Byte :=
  (((x.audio.filter fun a => x.delivered ≤ a.1).take n).map fun a => leBytes 3 a.2.toNat).flatten

/-- A stream whose next `n` samples have been delivered. -/
def Stream.moved (x : Stream) (n : Nat) : Stream :=
  { x with delivered := x.delivered + n, pieces := x.pieces.filter fun p => x.delivered + n < p.first + p.count }

/-- A pull that has taken the next `n` samples of its stream, of which `plain` is all that it has taken. -/
def Desc.took (x : Stream) (n : Nat) (plain : List Byte) (due : Int) (d : Desc) : Desc :=
  { d with done := d.done + 3 * n, plain := plain, due := (x.nextPiece.map (·.due)).getD due }

/-- The ciphertext of a pull's next `n` samples, behind what it has taken (13 R419, 16 R505). -/
def State.pieceCipher (s : State) (x : Stream) (d : Desc) (n : Nat) : List Byte :=
  (gcmCrypt (s.keyS x.session) (nonceOf 2 x.ordinal d.ordinal) (d.plain ++ x.pcm n)).drop d.done

/-- The state in which a piece is written, and charged, and its stream is delivered on; its pull has still to count it. -/
def State.pieceWritten (s : State) (x : Stream) (d : Desc) (n : Nat) : State :=
  (((s.ringWrite x.session (d.addr + d.done) (s.pieceCipher x d n)).charge x.session (some x.job)
    { Account.zero with ramokOut := 3 * n }).bump 0x240 (3 * n)).setStream (x.moved n)

theorem movePiece_eq (s : State) (x : Stream) (d : Desc) (n : Nat) :
    s.movePiece x d n = (s.pieceWritten x d n).modDesc x.session d.seq (Desc.took x n (d.plain ++ x.pcm n) d.due) := rfl

/-- What the moves and ends of pulls may change beside the rings. -/
def deliveryBlocks : List Block := [.sessions, .streams, .jobs, .cnt, .tallies, .host]

theorem pieceWritten_frame (s : State) (x : Stream) (d : Desc) (n : Nat) : Frame deliveryBlocks s (s.pieceWritten x d n) :=
  State.setStream_frame.comp (by decide) (State.bump_frame.comp (by decide) (State.charge_frame.comp (by decide)
    (State.ringWrite_frame.mono (by decide))))

theorem pieceWritten_writes (s : State) (x : Stream) (d : Desc) (n : Nat) :
    (s.pieceWritten x d n).host.writes = (s.ringWrite x.session (d.addr + d.done) (s.pieceCipher x d n)).host.writes := by
  simp only [State.pieceWritten, State.setStream_host, State.bump_host, State.charge_host]

theorem pieceWritten_stream (s : State) (x : Stream) (d : Desc) (n : Nat) : (s.pieceWritten x d n).stream x.id = some (x.moved n) :=
  State.stream_setStream _ (x.moved n)

/-- What a change of a descriptor makes of its ring. -/
theorem State.modDesc_sets (s : State) (n k : Nat) (f : Desc → Desc) :
    s.SetsRing n { s.ring n with accepted := (s.ring n).accepted.map fun d => if d.seq == k then f d else d } (s.modDesc n k f) :=
  State.setRing_sets ..

theorem seq_of_mem_changed {k : Nat} {f : Desc → Desc} (hf : ∀ e, (f e).seq = e.seq) {l : List Desc} {e : Desc}
    (he : e ∈ l.map fun d => if d.seq == k then f d else d) : ∃ g ∈ l, g.seq = e.seq := by
  obtain ⟨g, hg, rfl⟩ := List.mem_map.mp he
  refine ⟨g, hg, ?_⟩
  split
  · exact (hf g).symm
  · rfl

section
variable {s : State} {id : Nat} {x : Stream} (hx : s.stream id = some x)
include hx

theorem movePiece_stream (d : Desc) (n : Nat) : (s.movePiece x d n).stream id = some (x.moved n) := by
  rw [movePiece_eq, ← s.stream_id hx]
  exact (congrFun (State.modDesc_frame.stream (by decide)) _).trans (pieceWritten_stream s x d n)

theorem movePiece_delivers (d : Desc) (n : Nat) : State.Delivers id x.session n s (s.movePiece x d n) := by
  have hframe := pieceWritten_frame s x d n
  have hring : (s.pieceWritten x d n).ring = s.ring := State.ring_congr (hframe .rmk (by decide))
  have hstream := movePiece_stream hx d n
  rw [movePiece_eq] at hstream ⊢
  refine .of_sets hframe rfl (State.modDesc_sets ..) ?_ ?_ ?_ fun y hy => ?_
  · rw [hring]
  · rw [hring]
    exact fun e he => seq_of_mem_changed (f := Desc.took x n (d.plain ++ x.pcm n) d.due) (fun _ => rfl) he
  · rw [State.modDesc_host, pieceWritten_writes]
    exact ringWrite_prefix ..
  · obtain rfl := Option.some.inj (hx.symm.trans hy)
    exact ⟨_, hstream, rfl, Nat.le_add_right .., le_rfl, rfl⟩

end

/-- Pieces move in stream order, and at most so many samples as there may. -/
theorem deliverPieces_delivers {id n : Nat} (fuel left : Nat) {s : State} {x : Stream} (hx : s.stream id = some x) (hsess : x.session = n) :
    State.Delivers id n left s (deliverPieces id fuel left s) := by
  induction fuel generalizing left s x with
  | zero => exact .refl ..
  | succ fuel ih =>
    unfold deliverPieces
    simp only [hx]
    split
    · exact .refl ..
    · next d _ =>
      split
      · exact .refl ..
      · next hgo =>
        have hfits : pieceRoom x d ≤ left := by
          simp only [Bool.or_eq_true, decide_eq_true_eq, not_or] at hgo
          omega
        have hmove : State.Delivers id n (pieceRoom x d) s (s.movePiece x d (pieceRoom x d)) := hsess ▸ movePiece_delivers hx d _
        have hrest := ih (left - pieceRoom x d) (movePiece_stream hx d (pieceRoom x d)) hsess
        rw [← Nat.add_sub_cancel' hfits]
        simpa using hrest.trans hmove

/-- Without samples left nothing moves. -/
theorem deliverPieces_zero (id fuel : Nat) (s : State) : deliverPieces id fuel 0 s = s := by
  cases fuel with
  | zero => rfl
  | succ fuel =>
    unfold deliverPieces
    split
    · rfl
    · split
      · rfl
      · extract_lets n
        refine if_pos ?_
        rcases Nat.eq_zero_or_pos n with h | h
        · simp [h]
        · simp [h]

/-! ### The end of a pull (13 R419, R426; 12 R387, R395) -/

/-- A pull ends with its trailer written and its record held; of its stream only end marks and windows that it has passed leave. -/
theorem finishPull_eq (n : Nat) (d : Desc) (x : Stream) (status aflags : Nat) (s : State) :
    ∃ u done trailer, finishPull n d x status aflags s = u.complete n d done ∧ Frame deliveryBlocks s u ∧ done.status = status ∧
      done.count = d.done ∧ u.host = (s.ringWrite n d.trailerAddr trailer).host ∧
      ∀ y, s.stream x.id = some y → ∃ z, u.stream x.id = some z ∧ z.session = y.session ∧ z.delivered = y.delivered ∧ z.audio = y.audio := by
  unfold finishPull
  extract_lets -merge first samples marked aad sealed port s1 a s2 s3
  have hs2 : s2.stream = s.stream :=
    (State.charge_frame.stream (by decide)).trans (State.ringWrite_frame.stream (by decide))
  have hframe : Frame deliveryBlocks s s2 := State.charge_frame.comp (by decide) (State.ringWrite_frame.mono (by decide))
  have hhost : s2.host = s1.host := State.charge_host ..
  refine ⟨s3, _, aad ++ sealed.2, rfl, ?_, rfl, rfl, ?_, fun y hy => ?_⟩
  · unfold s3
    split
    · exact State.setStream_frame.comp (by decide) hframe
    · exact hframe
  · unfold s3
    split
    · exact hhost
    · exact hhost
  · have hy2 : s2.stream x.id = some y := hs2 ▸ hy
    have hid := s2.stream_id hy2
    unfold s3
    simp only [hy2]
    rw [← hid]
    exact ⟨_, State.stream_setStream s2 { y with
      ends := y.ends.filter fun e => y.delivered < e
      hist := y.hist.filter fun h => y.delivered < h.2.2.1 }, rfl, rfl, rfl⟩

theorem finishPull_delivers (n : Nat) (d : Desc) (x : Stream) (status aflags : Nat) (s : State) :
    State.Delivers x.id n 0 s (finishPull n d x status aflags s) := by
  obtain ⟨u, done, trailer, heq, hframe, -, -, hhost, hstream⟩ := finishPull_eq n d x status aflags s
  have hring : u.ring = s.ring := State.ring_congr (hframe .rmk (by decide))
  rw [heq]
  refine .of_sets hframe rfl ⟨rfl, fun _ hm => State.complete_ring_other u d done hm⟩ ?_ ?_ ?_ fun y hy => ?_
  · rw [State.complete_held, hring]
    exact List.prefix_append ..
  · rw [State.complete_accepted, hring]
    exact fun e he => ⟨e, (List.mem_filter.mp he).1, rfl⟩
  · rw [State.complete_host, hhost]
    exact ringWrite_prefix ..
  · obtain ⟨z, hz, hsess, hdel, haudio⟩ := hstream y hy
    exact ⟨z, (State.stream_complete ..).trans hz, hsess, hdel.ge, hdel.le, haudio⟩

theorem endAborted_delivers {id n : Nat} (fuel : Nat) {s : State} {x : Stream} (hx : s.stream id = some x) (hsess : x.session = n) :
    State.Delivers id n 0 s (endAborted id fuel s) := by
  induction fuel generalizing s x with
  | zero => exact .refl ..
  | succ fuel ih =>
    unfold endAborted
    simp only [hx]
    split
    · exact .refl ..
    · next d _ =>
      split
      · have hend := finishPull_delivers x.session d x stAborted 4 s
        rw [s.stream_id hx, hsess] at hend
        obtain ⟨y, hy, hsess', -⟩ := hend.stream x hx
        rw [hsess]
        exact (ih hy (hsess'.trans hsess)).trans hend
      · exact .refl ..

theorem endPull_delivers {id n : Nat} {s : State} {x : Stream} (hx : s.stream id = some x) (hsess : x.session = n) :
    State.Delivers id n 0 s (endPull id s) := by
  subst hsess
  have hend (d : Desc) (status aflags : Nat) : State.Delivers id x.session 0 s (finishPull x.session d x status aflags s) := by
    have h := finishPull_delivers x.session d x status aflags s
    rwa [s.stream_id hx] at h
  unfold endPull
  simp only [hx]
  split
  · exact .refl ..
  · next d _ =>
    split
    · exact .refl ..
    · split
      · exact hend ..
      · obtain ⟨y, hy, hsess', -⟩ := (hend d stSuccess 0).stream x hx
        exact (endAborted_delivers _ hy hsess').trans (hend ..)

/-! ### The pull that a piece goes to (12 R387) -/

/-- A changed pull stays where it stood among the pulls of its stream. -/
theorem pulls_modDesc (s : State) (x : Stream) (k : Nat) {f : Desc → Desc} (hop : ∀ e, (f e).opcode = e.opcode) (hlink : ∀ e, (f e).link = e.link) :
    (s.modDesc x.session k f).pulls x = (s.pulls x).map fun e => if e.seq == k then f e else e := by
  have hpred : ((fun e : Desc => decide (e.opcode = 8) && decide (e.link = x.id)) ∘ fun e => if e.seq == k then f e else e) =
      fun e => decide (e.opcode = 8) && decide (e.link = x.id) := by
    funext e
    simp only [Function.comp_apply]
    split
    · rw [hop, hlink]
    · rfl
  rw [State.pulls, (State.modDesc_sets ..).ring, List.filter_map, hpred]
  rfl

/-- The head of a stream's pulls behind a piece is the pull that took it. -/
theorem movePiece_head {s : State} {x : Stream} {d : Desc} (hhead : (s.pulls x).head? = some d) (n : Nat) :
    ((s.movePiece x d n).pulls (x.moved n)).head? = some (d.took x n (d.plain ++ x.pcm n) d.due) := by
  have hring : (s.pieceWritten x d n).ring = s.ring := State.ring_congr (pieceWritten_frame s x d n .rmk (by decide))
  have hpulls : (s.pieceWritten x d n).pulls (x.moved n) = s.pulls x := by
    rw [State.pulls, hring]
    rfl
  have hmod := pulls_modDesc (s.pieceWritten x d n) (x.moved n) d.seq (f := Desc.took x n (d.plain ++ x.pcm n) d.due)
    (fun _ => rfl) fun _ => rfl
  rw [movePiece_eq]
  refine (congrArg List.head? hmod).trans ?_
  rw [hpulls, List.head?_map, hhead, Option.map_some, beq_self_eq_true, if_pos rfl]

theorem movePiece_desc {s : State} {x : Stream} {d : Desc} (hd : s.desc x.session d.seq = some d) (n : Nat) :
    (s.movePiece x d n).desc x.session d.seq = some (d.took x n (d.plain ++ x.pcm n) d.due) := by
  rw [movePiece_eq]
  refine State.desc_modDesc ?_ fun _ he => he
  rw [State.desc_congr (pieceWritten_frame s x d n .rmk (by decide)), hd]

theorem movePiece_ring (s : State) (x : Stream) (d : Desc) (n : Nat) :
    ∃ l, (s.movePiece x d n).ring x.session = { s.ring x.session with accepted := l } := by
  have hring : (s.pieceWritten x d n).ring = s.ring := State.ring_congr (pieceWritten_frame s x d n .rmk (by decide))
  rw [movePiece_eq, (State.modDesc_sets ..).ring, hring]
  exact ⟨_, rfl⟩

theorem movePiece_writes {s : State} {x : Stream} (hlink : (s.ring x.session).linkLost = false) (d : Desc) (n : Nat) :
    (s.movePiece x d n).host.writes =
      s.host.writes ++ [⟨(s.ring x.session).port, d.addr + d.done, s.pieceCipher x d n⟩] := by
  rw [movePiece_eq, State.modDesc_host, pieceWritten_writes, ringWrite_linked hlink]

/-- A piece that is served moves whole, and no other behind it. -/
theorem deliverPieces_piece {s : State} {id : Nat} {x : Stream} {d : Desc} (hx : s.stream id = some x) (hhead : (s.pulls x).head? = some d)
    (hroom : 0 < pieceRoom x d) (hopen : pullDone x d = false)
    (hserves : s.scriberServes (s.ring x.session).port (s.audioXfer x d) = true) :
    deliverPieces id x.pieces.length (pieceRoom x d) s = s.movePiece x d (pieceRoom x d) := by
  cases hlen : x.pieces.length with
  | zero => simp [pieceRoom, Stream.nextPiece, List.length_eq_zero_iff.mp hlen] at hroom
  | succ fuel =>
    unfold deliverPieces
    simp only [hx, hhead]
    rw [if_neg (by simp [hopen, hserves, hroom.ne']), Nat.sub_self]
    exact deliverPieces_zero ..

section
variable {s : State} {id : Nat} {x : Stream} {d : Desc} (hx : s.stream id = some x) (hhead : (s.pulls x).head? = some d)
include hx hhead

theorem endPull_waits (h : pullDone x d = false) : endPull id s = s := by
  unfold endPull
  simp only [hx, hhead]
  exact if_pos (by simp [h])

/-- A pull that is done ends with its record and its trailer, ahead of the aborted pulls behind it. -/
theorem endPull_ends (hstarted : d.started = true) (hlink : (s.ring x.session).linkLost = false) (h : pullDone x d = true) :
    (∀ e ∈ ((endPull id s).ring x.session).accepted, e.seq ≠ d.seq) ∧
      ∃ c rest, ((endPull id s).ring x.session).held = (s.ring x.session).held ++ c :: rest ∧ c.slot = d.slot ∧
        c.status = (if x.faulted = true then stStreamFault else stSuccess) ∧ c.count = d.done ∧
        ∃ w ∈ (endPull id s).host.writes, w.port = (s.ring x.session).port ∧ w.addr = d.trailerAddr := by
  have hend : ∃ aflags, State.Delivers id x.session 0
      (finishPull x.session d x (if x.faulted = true then stStreamFault else stSuccess) aflags s) (endPull id s) := by
    unfold endPull
    simp only [hx, hhead, hstarted, h, Bool.and_self, Bool.not_true, Bool.false_eq_true, if_false]
    split
    · exact ⟨4, .refl ..⟩
    · have hfinish := finishPull_delivers x.session d x stSuccess 0 s
      rw [s.stream_id hx] at hfinish
      obtain ⟨y, hy, hsess, -⟩ := hfinish.stream x hx
      exact ⟨0, endAborted_delivers _ hy hsess⟩
  obtain ⟨aflags, hend⟩ := hend
  obtain ⟨u, done, trailer, heq, hframe, hstatus, hcount, hhost, -⟩ :=
    finishPull_eq x.session d x (if x.faulted = true then stStreamFault else stSuccess) aflags s
  have hring : u.ring = s.ring := State.ring_congr (hframe .rmk (by decide))
  rw [heq] at hend
  refine ⟨fun e he => ?_, ?_⟩
  · obtain ⟨f, hf, hseq⟩ := hend.accepted e he
    rw [State.complete_accepted] at hf
    simpa [hseq] using (List.mem_filter.mp hf).2
  · obtain ⟨rest, hrest⟩ := hend.held
    rw [State.complete_held, hring, List.append_assoc] at hrest
    refine ⟨_, rest, hrest.symm, rfl, hstatus, hcount, ⟨(s.ring x.session).port, d.trailerAddr, trailer⟩, hend.writes.subset ?_, rfl, rfl⟩
    rw [State.complete_host, hhost, ringWrite_linked hlink]
    exact List.mem_append_right _ List.mem_cons_self

end

/-! ### AUDIO_DELIVERY -/

theorem execAudioDelivery_moves {id : Nat} {d : Desc} {x : Stream} {s : State} (hx : s.stream id = some x)
    (hhead : (s.pulls x).head? = some d) (hstarted : d.started = true) (hlink : (s.ring x.session).linkLost = false)
    (htrained : (s.port (s.ring x.session).port).trained = true) (samples : Nat) :
    exec (.audioDelivery id samples) s = .next (endPull id (deliverPieces id x.pieces.length samples s)) := by
  show execAudioDelivery id samples s = _
  simp [execAudioDelivery, hx, hhead, hstarted, hlink, htrained]

/-- Settles O24: a pull by its start; a delivery by what its pieces and the end of its pull leave; a piece that is served by whether its pull is
done behind it. -/
theorem audioToTheHost : Obligations.AudioToTheHost := by
  unfold Obligations.AudioToTheHost
  refine ⟨fun n k d x s hd hop hx hsess hfresh hhead => ?_,
    fun id samples d x s hx hhead hd hstarted hlink htrained => ⟨?_, fun hroom hsamples hopen hserves => ?_⟩⟩
  · exact ⟨_, execAudioPull_starts hd hop hx hsess hfresh hhead, State.desc_modDesc hd fun _ he => he, State.modDesc_otherRings,
      State.modDesc_frame⟩
  · have hexec := execAudioDelivery_moves hx hhead hstarted hlink htrained samples
    have hmoves := deliverPieces_delivers x.pieces.length samples hx rfl
    obtain ⟨y, hy, hsess, -⟩ := hmoves.stream x hx
    have hall := (endPull_delivers hy hsess).trans hmoves
    obtain ⟨z, hz, -, hmin, hmax, haudio⟩ := hall.stream x hx
    exact ⟨_, hexec, ⟨z, hz, hmin, hmax, haudio⟩, hall.writes, hall.others, exec_frame hexec⟩
  · intro pcm cipher x' d'
    have hexec := execAudioDelivery_moves hx hhead hstarted hlink htrained samples
    have hpiece : deliverPieces id x.pieces.length samples s = s.movePiece x d (pieceRoom x d) :=
      hsamples ▸ deliverPieces_piece hx hhead hroom hopen hserves
    rw [hpiece] at hexec
    have hx' : (s.movePiece x d (pieceRoom x d)).stream id = some x' := movePiece_stream hx d _
    have hhead' : ((s.movePiece x d (pieceRoom x d)).pulls x').head? = some d' := movePiece_head hhead _
    have hdesc : (s.movePiece x d (pieceRoom x d)).desc x.session d.seq = some d' := movePiece_desc hd _
    obtain ⟨l, hring⟩ := movePiece_ring s x d (pieceRoom x d)
    have hwrites := movePiece_writes hlink d (pieceRoom x d)
    generalize s.movePiece x d (pieceRoom x d) = u at hexec hx' hhead' hdesc hring hwrites
    have hend : State.Delivers id x.session 0 u (endPull id u) := endPull_delivers hx' rfl
    refine ⟨_, hexec, ?_, hend.writes.subset ?_, fun hwait => ?_, fun hdone => ?_⟩
    · obtain ⟨y, hy, -, hmin, hmax, -⟩ := hend.stream x' hx'
      exact ⟨y, hy, le_antisymm hmax hmin⟩
    · rw [hwrites]
      exact List.mem_append_right _ List.mem_cons_self
    · rw [endPull_waits hx' hhead' hwait]
      exact hdesc
    · have hends := endPull_ends hx' hhead' hstarted (congrArg Ring.linkLost hring |>.trans hlink) hdone
      rw [show u.ring x'.session = _ from hring] at hends
      exact hends

end Sys2Proof.Machine
end

section
/-! ### ADAPT_JOB (08 R243; 11 R323; 13 R400, R420, R421) -/

namespace Sys2Proof.Machine

open Sys2Proof

/-! ### A job that an ADAPT_JOB begins (11 R323, 13 R421) -/

/-- A job as an ADAPT_JOB begins it: Frosted Fill work of its session's adaptation graph, with its input, seed and key. -/
def Job.BegunFor (n k : Nat) (d : Desc) (m : Model) (input : List Byte) (j : Job) : Prop :=
  j.kind = .adapt n k ∧ j.fill = true ∧ j.state = .frosted ∧ j.session = n ∧ j.handle = m.handle ∧ j.optStep = 0 ∧ j.steps = d.steps ∧
    j.input = input ∧ j.seed = BitVec.ofNat 64 d.adSeed ∧ j.key = BitVec.ofNat 32 d.jobKey

/-- An ADAPT_JOB that has begun its job. -/
def State.BegunAdapt (t : State) (n k : Nat) (d : Desc) (m : Model) (id : Nat) (input : List Byte) : Prop :=
  (∃ j, t.job id = some j ∧ j.BegunFor n k d m input) ∧ t.desc n k = some { d with started := true, link := id }

/-- A change of blocks other than the jobs and the rings leaves a begun job begun. -/
theorem State.BegunAdapt.frame {L : List Block} {s t : State} {n k id : Nat} {d : Desc} {m : Model} {input : List Byte}
    (h : s.BegunAdapt n k d m id input) (k' : Frame L s t) (hjobs : decide (.jobs ∈ L) = false) (hrmk : decide (.rmk ∈ L) = false) :
    t.BegunAdapt n k d m id input := by
  rw [State.BegunAdapt, State.job_congr (k' .jobs (of_decide_eq_false hjobs)), State.desc_congr (k' .rmk (of_decide_eq_false hrmk))]
  exact h

/-- What the asks give of a new job context beside its storage (11 R323). -/
theorem newJob_asked {s : State} {id : Nat} (hn : freeKey s.jobs 1024 0 = some id) (kind : JobKind) (a : Ask) (m : List Byte)
    (maxCores extents : Nat) (seed : DWord) (key : Word) (cores : List Nat) :
    ∃ (u : State) (j : Job), s.newJob kind a m maxCores seed key cores extents = (u.setJob j, id) ∧ Frame [.mem, .hatch] s u ∧
      j.id = id ∧ j.kind = kind ∧ j.fill = a.fill ∧ j.session = a.session ∧ j.handle = a.handle ∧ j.optStep = 0 ∧ j.seed = seed ∧ j.key = key := by
  have hid : (freeKey s.jobs 1024 0).getD 0 = id := by rw [hn, Option.getD_some]
  refine ⟨_, _, Prod.ext rfl hid, Frame.comp State.bindCores_frame (by decide) fun b hb => ?_, hid, rfl, rfl, rfl, rfl, rfl, rfl, rfl⟩
  cases b with | mem => exact absurd (by decide) hb | _ => rfl

/-- The capture that an adaptation job with INPUT 1 begins (14 R460). -/
def State.withCapture (s : State) (c : Capture) : State := { s with lines := { s.lines with captures := s.lines.captures ++ [c] } }

theorem withCapture_frame (s : State) (c : Capture) : Frame [.lines] s (s.withCapture c) := by
  intro b hb
  cases b with | lines => exact absurd (by decide) hb | _ => rfl

section
variable {s : State} {n k id : Nat} {d : Desc} (hd : s.desc n k = some d) (hn : freeKey s.jobs 1024 0 = some id)
include hd hn

/-- A job begins with its descriptor; then its capture begins, or its input is charged (13 R420, 14 R460). -/
theorem beginAdapt_eq (m : Model) (input : List Byte) :
    ∃ u : State, u.BegunAdapt n k d m id input ∧ s.beginAdapt n d m input =
      if d.input = 1 then u.withCapture ⟨id, d.adLine, d.adSlot, u.tb.frameOrd, 0, d.inputLen⟩
      else u.charge n (some id) { Account.zero with ramokIn := d.inputLen } := by
  obtain rfl := State.desc_seq hd
  obtain ⟨u, j, hnew, hframe, hid, hkind, hfill, hsess, hhandle, hopt, hseed, hkey⟩ := newJob_asked hn (.adapt n d.seq)
    ⟨n, m.handle, s.tb.season, 0, false, true, none, []⟩ m.image (s.adaptCores m.image) (adaptExtents d) (BitVec.ofNat 64 d.adSeed)
    (BitVec.ofNat 32 d.jobKey) []
  have hdesc : (u.setJob j).desc n d.seq = some d := by
    rw [State.desc_congr (State.setJob_frame .rmk (by decide)), State.desc_congr (hframe .rmk (by decide)), hd]
  unfold State.beginAdapt
  simp only [hnew, State.job_setJob_of_id u hid]
  refine ⟨_, ⟨⟨_, (State.job_modDesc ..).trans (State.job_setJob_of_id _ ?_), ?_⟩, ?_⟩, rfl⟩
  · exact hid
  · exact ⟨hkind, hfill, rfl, hsess, hhandle, hopt, rfl, rfl, hseed, hkey⟩
  · exact State.desc_modDesc hdesc fun _ he => he

theorem beginAdapt_begins (m : Model) (input : List Byte) : (s.beginAdapt n d m input).BegunAdapt n k d m id input := by
  obtain ⟨u, hu, heq⟩ := beginAdapt_eq hd hn m input
  rw [heq]
  split
  · exact hu.frame (withCapture_frame u _) rfl rfl
  · obtain ⟨⟨j, hj, hbegun⟩, hdesc⟩ := hu
    exact ⟨⟨_, State.charge_job hj n _, hbegun⟩, (congrFun (State.desc_congr (State.charge_rmk ..) n) k).trans hdesc⟩

/-- Captured input has its capture (14 R460). -/
theorem beginAdapt_captures (hin : d.input = 1) (m : Model) (input : List Byte) :
    ∃ c ∈ (s.beginAdapt n d m input).lines.captures, c.job = id ∧ c.left = d.inputLen := by
  obtain ⟨u, -, heq⟩ := beginAdapt_eq hd hn m input
  rw [heq, if_pos hin]
  exact ⟨_, List.mem_append_right _ List.mem_cons_self, rfl, rfl⟩

end

theorem beginAdapt_otherRings {s : State} {n : Nat} {d : Desc} {m : Model} {input : List Byte} :
    State.OtherRings n s (s.beginAdapt n d m input) := by
  unfold State.beginAdapt
  extract_lets a r u
  have hu : State.OtherRings n s u := (State.newJob_frame rfl).otherRings rfl n
  split
  · exact hu
  · extract_lets j v
    have hv : State.OtherRings n s v := (State.modDesc_otherRings.trans (State.setJob_frame.otherRings rfl n)).trans hu
    split
    · exact ((withCapture_frame v _).otherRings rfl n).trans hv
    · exact (State.charge_frame.otherRings rfl n).trans hv

/-! ### The start of an ADAPT_JOB (13 R400, R420, R421) -/

/-- The state behind the fetch of an ADAPT_JOB's host buffer (13 R420). -/
def State.inputTaken (s : State) (n : Nat) (d : Desc) : State := (s.bump (0x100 + (s.ring n).port) d.inputLen).bump 0x240 d.inputLen

theorem inputTaken_frame (s : State) (n : Nat) (d : Desc) : Frame [.cnt] s (s.inputTaken n d) :=
  State.bump_frame.comp (List.Subset.refl _) State.bump_frame

section
variable {s : State} {n k : Nat} {d : Desc} {m v : Model} {bytes : List Byte}

theorem execAdaptJob_start (hd : s.desc n k = some d) (hop : d.opcode = 0x0A) (hstart : s.mayStart n d = true)
    (hlink : (s.ring n).linkLost = false) : exec (.adaptJob n k (.start bytes)) s = .next (s.adaptStart n d bytes) := by
  show execAdaptJob n k (.start bytes) s = _
  simp [execAdaptJob, hd, hop, hstart, hlink]

theorem adaptStart_otherRings : State.OtherRings n s (s.adaptStart n d bytes) := by
  unfold State.adaptStart
  split
  · next m v _ _ =>
    refine .ite State.complete_otherRings (.ite State.complete_otherRings (.ite State.complete_otherRings (.ite beginAdapt_otherRings ?_)))
    have hu := (inputTaken_frame s n d).otherRings rfl n
    extract_lets port u
    split
    · exact ((State.complete_otherRings.trans (State.charge_frame.otherRings rfl n)).trans (State.bump_frame.otherRings rfl n)).trans hu
    · exact beginAdapt_otherRings.trans hu
  · exact State.complete_otherRings

variable (hm : s.model d.handle = some m) (hv : s.model d.targetHandle = some v)
include hm hv

theorem adaptStart_rejected (h13 : check13 m.image v.image d.outputBytes d.input = false) :
    s.adaptStart n d bytes = s.complete n d { status := stGraphRejected, detail := 13 } := by
  simp [State.adaptStart, hm, hv, h13]

variable (h13 : check13 m.image v.image d.outputBytes d.input = true)
include h13

theorem adaptStart_noContext (hn : freeKey s.jobs 1024 0 = none) :
    s.adaptStart n d bytes = s.complete n d { status := stAdmissionRefused, detail := 9 } := by
  simp [State.adaptStart, hm, hv, h13, hn]

variable {id : Nat} (hn : freeKey s.jobs 1024 0 = some id)
include hn

theorem adaptStart_noRoom (hfits : s.reserveOk m.image (s.adaptCores m.image) (adaptExtents d) = false) :
    s.adaptStart n d bytes = s.complete n d { status := stAdmissionRefused, detail := 10 } := by
  simp [State.adaptStart, hm, hv, h13, hn, hfits]

variable (hfits : s.reserveOk m.image (s.adaptCores m.image) (adaptExtents d) = true)
include hfits

theorem adaptStart_captured (hin : d.input = 1) : s.adaptStart n d bytes = s.beginAdapt n d m (zeros (4 * d.inputLen)) := by
  rw [hin] at h13
  simp [State.adaptStart, hm, hv, h13, hn, hfits, hin]

theorem adaptStart_fetched (hin : d.input ≠ 1) : s.adaptStart n d bytes =
    match s.adaptInput n d bytes with
    | none => (((s.inputTaken n d).bump 0x241 1).charge n none { Account.zero with ramokIn := d.inputLen }).complete n d
        { status := stAuthFailed }
    | some p => (s.inputTaken n d).beginAdapt n d m p := by
  simp only [State.adaptStart, hm, hv, h13, hn, hfits, hin, Bool.not_true, Option.isNone_some, Bool.false_eq_true, if_false]
  rfl

end

/-! ### Optimiser steps and the commit (08 R243, 13 R421) -/

section
variable {s : State} {n k : Nat} {d : Desc} {j : Job} (hd : s.desc n k = some d) (hop : d.opcode = 0x0A) (hstarted : d.started = true)
  (hj : s.job d.link = some j) (hkind : j.kind = .adapt n k)
include hd hop hstarted hj hkind

theorem execAdaptJob_optStep (hends : s.stepEnds j = true) : exec (.adaptJob n k .optStep) s = .next (s.optStep j) := by
  show execAdaptJob n k .optStep s = _
  simp [execAdaptJob, hd, hop, hstarted, hj, hkind, hends]

theorem execAdaptJob_commit {m v : Model} (haway : j.away = none) (hlast : d.steps ≤ j.optStep) (hm : s.model d.handle = some m)
    (hv : s.model d.targetHandle = some v) : exec (.adaptJob n k .commit) s = .next (s.adaptCommit n d j m v) := by
  show execAdaptJob n k .commit s = _
  simp [execAdaptJob, hd, hop, hstarted, hj, hkind, haway, hlast, hm, hv]

end

/-- The state and voice of a commit once its class is settled: one that is to be pinned starts its promotion, or is Auto where none may
start (10 R315). -/
def State.promoteOrAuto (s : State) (m : Model) : State × Model :=
  if m.cls = 2 then
    match s.startPromotion m with
    | some t => (t, m)
    | none => (s.setModel { m with cls := 1 }, { m with cls := 1 })
  else (s, m)

theorem promoteOrAuto_stores {s : State} {m : Model} (hm : s.model m.handle = some m) :
    (s.promoteOrAuto m).2.handle = m.handle ∧ ∃ w : Model, (s.promoteOrAuto m).1.model m.handle = some w ∧ w.session = m.session ∧
      w.image = m.image ∧ w.cls = (s.promoteOrAuto m).2.cls := by
  unfold State.promoteOrAuto
  split
  · split
    · next t ht =>
      obtain ⟨set, k, v, rfl, hmodel⟩ := startPromotion_some ht
      exact ⟨rfl, _, hmodel, rfl, rfl, rfl⟩
    · exact ⟨rfl, _, State.model_setModel s { m with cls := 1 }, rfl, rfl, rfl⟩
  · exact ⟨rfl, m, hm, rfl, rfl, rfl⟩

/-- What an adaptation job's commit reports: that the library has no room, or the handle and class of its new voice (13 R421, R426). -/
theorem adaptCommit_eq (s : State) (n : Nat) (d : Desc) (j : Job) (m v : Model) :
    ∃ (u : State) (done : Done), s.adaptCommit n d j m v = u.complete n d done ∧ done.count = j.optStep ∧
      ((s.endJob j.id false).newHandle = none ∨
        (s.endJob j.id false).poolTake (ceilDiv (adaptedImage m.image v.image j.output).length 2097152) = none → done.status = stExhausted) ∧
      ∀ h es, (s.endJob j.id false).newHandle = some h →
        (s.endJob j.id false).poolTake (ceilDiv (adaptedImage m.image v.image j.output).length 2097152) = some es →
        done.status = stSuccess ∧ done.result = h ∧
          ∃ w : Model, u.model h = some w ∧ w.session = n ∧ w.image = adaptedImage m.image v.image j.output ∧ done.detail = w.cls := by
  unfold State.adaptCommit
  extract_lets image s' cls pin
  cases hh : s'.newHandle with
  | none =>
    rw [addModel_full (.inl hh)]
    exact ⟨_, _, rfl, rfl, fun _ => rfl, nofun⟩
  | some h =>
    cases hes : s'.poolTake (ceilDiv image.length 2097152) with
    | none =>
      rw [addModel_full (.inr hes)]
      exact ⟨_, _, rfl, rfl, fun _ => rfl, fun _ _ _ => nofun⟩
    | some es =>
      obtain ⟨u, hadd, hu⟩ := addModel_stores hh hes n (if cls = 2 && !pin then 1 else cls)
      rw [hadd]
      dsimp only
      generalize hr : (if (s'.newVoice h n image _).cls = 2 then _ else _ : State × Model) = r
      obtain rfl : u.promoteOrAuto (s'.newVoice h n image _) = r := hr
      obtain ⟨hhandle, w, hw, hsess, himage, hcls⟩ := promoteOrAuto_stores (m := s'.newVoice h n image _) hu
      refine ⟨_, _, rfl, rfl, nofun, fun _ _ hh' _ => ?_⟩
      cases hh'
      refine ⟨rfl, hhandle, w, ?_, hsess, himage, hcls.symm⟩
      exact (congrFun (State.model_congr (writeReceipt_frame .models (by decide))) h).trans hw

/-- Settles O25: a start by the first check that it fails, or by where its input comes from; a step by its count; a commit by whether the
library has room. -/
theorem adaptationJobs : Obligations.AdaptationJobs := by
  unfold Obligations.AdaptationJobs
  refine ⟨fun n k bytes d m v s hd hop hstart hlink hm hv => ?_, fun n k d j s hd hop hstarted hj _ hkind hends => ?_,
    fun n k d j m v s hd hop hstarted hj _ hkind haway hlast hm hv => ?_⟩
  · obtain ⟨t, ht, rfl⟩ : ∃ t, exec (.adaptJob n k (.start bytes)) s = .next t ∧ t = s.adaptStart n d bytes :=
      ⟨_, execAdaptJob_start hd hop hstart hlink, rfl⟩
    refine ⟨_, ht, ?_, ?_, adaptStart_otherRings, exec_frame ht⟩
    · intro h13
      rw [adaptStart_rejected hm hv h13]
      exact ⟨State.complete_retired .., State.complete_jobs ..⟩
    · refine fun h13 => ⟨fun hn => ?_, fun id hn => ⟨fun hfits => ?_, fun hfits hin => ?_, fun hfits hin hp => ?_,
        fun p hfits hin hp => ?_⟩⟩
      · rw [adaptStart_noContext hm hv h13 hn]
        exact ⟨State.complete_retired .., State.complete_jobs ..⟩
      · rw [adaptStart_noRoom hm hv h13 hn hfits]
        exact ⟨State.complete_retired .., State.complete_jobs ..⟩
      · rw [adaptStart_captured hm hv h13 hn hfits hin]
        exact ⟨beginAdapt_begins hd hn m _, beginAdapt_captures hd hn hin m _⟩
      · rw [adaptStart_fetched hm hv h13 hn hfits hin, hp]
        exact ⟨State.complete_retired .., (State.complete_jobs ..).trans (State.charge_none_jobs ..)⟩
      · rw [adaptStart_fetched hm hv h13 hn hfits hin, hp]
        exact beginAdapt_begins (s := s.inputTaken n d) hd hn m p
  · exact execAdaptJob_optStep hd hop hstarted hj hkind hends
  · intro image s'
    obtain ⟨u, done, heq, hcount, hfull, hstores⟩ := adaptCommit_eq s n d j m v
    have hexec := execAdaptJob_commit hd hop hstarted hj hkind haway hlast hm hv
    rw [heq] at hexec
    obtain ⟨⟨now, hrecord⟩, hgone⟩ := State.complete_retired u n d done
    rw [State.desc_seq hd] at hgone
    refine ⟨_, hexec, hgone, _, hrecord, rfl, hcount, hfull, fun h es hh hes => ?_⟩
    obtain ⟨hstatus, hresult, w, hw, hsess, himage, hcls⟩ := hstores h es hh hes
    exact ⟨hstatus, congrArg (BitVec.ofNat 32) hresult, w, (State.model_complete ..).trans hw, hsess, himage, hcls⟩

end Sys2Proof.Machine
end

section
/-! ### Changes of line directions, of their groups and of the oscillators (14 R438, R445, R451, R452) -/

namespace Sys2Proof.Machine

open Sys2Proof

/-! ### Lists of directions -/

theorem nodup_eraseDups {α : Type} [BEq α] [LawfulBEq α] (l : List α) : l.eraseDups.Nodup := by
  induction hn : l.length using Nat.strongRecOn generalizing l with
  | ind n ih =>
    cases l with
    | nil => simp
    | cons a l =>
      subst hn
      rw [List.eraseDups_cons, List.nodup_cons]
      exact ⟨by simp [List.mem_eraseDups], ih _ (Nat.lt_succ_of_le (List.length_filter_le ..)) _ rfl⟩

theorem members_nodup (s : State) (g : Nat) : (s.members g).Nodup := by
  unfold State.members
  split
  · exact List.nodup_nil
  · exact List.nodup_range.filter _

theorem group_of_mem_members {s : State} {g k : Nat} (h : k ∈ s.members g) : (s.dirAt k).group = g := by
  unfold State.members at h
  split at h
  · cases h
  · simpa using (List.mem_filter.mp h).2

theorem slipSet_nodup (s : State) (k : Nat) : (s.slipSet k).Nodup := by
  unfold State.slipSet
  split
  · exact List.nodup_singleton k
  · exact members_nodup s _

theorem together_nodup (s : State) (k : Nat) : (s.together k).Nodup := nodup_eraseDups _

theorem mem_together_self (s : State) (k : Nat) : k ∈ s.together k := by
  simp [State.together, List.mem_eraseDups]

/-- Groups have the members that they had, as long as no direction's group changes. -/
theorem members_congr {s t : State} (h : ∀ i, (t.dirAt i).group = (s.dirAt i).group) (g : Nat) : t.members g = s.members g := by
  simp only [State.members, h]

theorem lineSource_congr {s t : State} {k : Nat} (h : (t.dirAt k).group = (s.dirAt k).group) : t.lineSource k = s.lineSource k := by
  simp only [State.lineSource, h]

theorem State.dirAt_congr {s t : State} (h : t.lines = s.lines) : t.dirAt = s.dirAt := by
  funext k
  simp only [State.dirAt, State.dir, h]

/-! ### What changes listed directions, and no others -/

/-- Each listed direction is as `R` says of what it was, and every other is as it was. -/
structure DirsChange (R : Nat → Direction → Direction → Prop) (ks : List Nat) (s t : State) : Prop where
  listed : ∀ i ∈ ks, R i (s.dirAt i) (t.dirAt i)
  others : ∀ i, i ∉ ks → t.dirAt i = s.dirAt i

theorem DirsChange.congr {R : Nat → Direction → Direction → Prop} {ks : List Nat} {s t u : State} (h : DirsChange R ks s t)
    (hu : u.dirAt = t.dirAt) : DirsChange R ks s u :=
  ⟨fun i hi => hu ▸ h.listed i hi, fun i hi => hu ▸ h.others i hi⟩

theorem DirsChange.behind {R : Nat → Direction → Direction → Prop} {ks : List Nat} {s t u : State} (h : DirsChange R ks u t)
    (hu : u.dirAt = s.dirAt) : DirsChange R ks s t :=
  ⟨fun i hi => hu ▸ h.listed i hi, fun i hi => hu ▸ h.others i hi⟩

/-- Setting one direction, behind what leaves all of them. -/
theorem setDirAt_change {R : Nat → Direction → Direction → Prop} {s u : State} {k : Nat} {x : Direction} (hu : u.dirAt = s.dirAt)
    (h : R k (s.dirAt k) x) : DirsChange R [k] s (u.setDirAt k x) where
  listed i hi := by
    obtain rfl := List.mem_singleton.mp hi
    rwa [State.dirAt_setDirAt]
  others i hi := (State.dirAt_setDirAt_other _ x (List.ne_of_not_mem_cons hi)).trans (congrFun hu i)

/-- Steps that change one direction each, over distinct directions: what one step says of its direction, the run says of all. -/
theorem DirsChange.foldl {R : Nat → Direction → Direction → Prop} {step : State → Nat → State}
    (hstep : ∀ s k, DirsChange R [k] s (step s k)) {ks : List Nat} (hks : ks.Nodup) (s : State) :
    DirsChange R ks s (ks.foldl step s) := by
  induction ks generalizing s with
  | nil => exact ⟨nofun, fun _ _ => rfl⟩
  | cons k ks ih =>
    obtain ⟨hk, hks⟩ := List.nodup_cons.mp hks
    have hrun := ih hks (step s k)
    have hone := hstep s k
    refine ⟨fun i hi => ?_, fun i hi => ?_⟩
    · by_cases hik : i = k
      · subst hik
        rw [List.foldl_cons, hrun.others i hk]
        exact hone.listed i (List.mem_singleton_self i)
      · rw [← hone.others i (by simpa using hik)]
        exact hrun.listed i ((List.mem_cons.mp hi).resolve_left hik)
    · obtain ⟨hik, hi⟩ := not_or.mp (List.mem_cons.not.mp hi)
      rw [List.foldl_cons, hrun.others i hi, hone.others i (by simpa using hik)]

/-- What every step leaves, the run leaves. -/
theorem foldl_keeps {α β : Type} {f : State → β} {step : State → α → State} (h : ∀ s a, f (step s a) = f s) (l : List α) (s : State) :
    f (l.foldl step s) = f s := by
  induction l generalizing s with
  | nil => rfl
  | cons a l ih => exact (ih _).trans (h s a)

/-! ### What oscillators hold (14 R445) -/

/-- Whether an oscillator holds, and the loop's lock with it, are all that may differ. -/
def Osc.SameBut (o q : Osc) : Prop := ∃ h l ms, q = { o with hold := h, locked := l, lockMs := ms }

theorem Osc.SameBut.refl (o : Osc) : o.SameBut o := ⟨o.hold, o.locked, o.lockMs, rfl⟩

theorem Osc.SameBut.trans {o p q : Osc} (h : o.SameBut p) (k : p.SameBut q) : o.SameBut q := by
  obtain ⟨_, _, _, rfl⟩ := h
  obtain ⟨a, b, c, rfl⟩ := k
  exact ⟨a, b, c, rfl⟩

theorem State.syncOscs_dirAt (s : State) : s.syncOscs.dirAt = s.dirAt := by
  refine foldl_keeps (f := State.dirAt) (fun s n => ?_) _ s
  dsimp only
  split
  · rfl
  · rfl

theorem State.syncOscs_groupAt (s : State) : s.syncOscs.groupAt = s.groupAt := by
  refine foldl_keeps (f := State.groupAt) (fun s n => ?_) _ s
  dsimp only
  split
  · rfl
  · rfl

theorem setOsc_sameBut {s : State} {n : Nat} {o : Osc} (h : (s.oscAt n).SameBut o) (m : Nat) :
    (s.oscAt m).SameBut ((s.setOsc n o).oscAt m) := by
  by_cases hm : m = n
  · subst hm
    rwa [State.oscAt_setOsc]
  · rw [State.oscAt_setOsc_other _ o hm]
    exact .refl _

theorem State.syncOscs_oscAt (s : State) (m : Nat) : (s.oscAt m).SameBut (s.syncOscs.oscAt m) := by
  unfold State.syncOscs
  generalize List.range 4 = l
  induction l generalizing s with
  | nil => exact .refl _
  | cons n l ih =>
    refine .trans ?_ (ih _)
    dsimp only
    split
    · exact .refl _
    · exact setOsc_sameBut ⟨_, _, _, rfl⟩ m

/-! ### Moves of directions, and the state of their groups (14 R451, R463) -/

/-- The state of a group: the latest of its members' (14 R463). -/
def State.groupState (s : State) (g : Nat) : Nat := ((s.members g).map fun k => (s.dirAt k).state).foldl max 0

/-- A group takes the state of its members. -/
def State.restateGroup (s : State) (g : Nat) : State := s.setGroup g { s.groupAt g with state := s.groupState g }

/-- The groups of some directions. -/
def State.groupsOf (s : State) (ks : List Nat) : List Nat := (ks.map fun k => (s.dirAt k).group).eraseDups.filter (0 < ·)

/-- Some directions changed, one after the other. -/
def State.mapDirs (s : State) (ks : List Nat) (f : Direction → Direction) : State := ks.foldl (fun s k => s.setDirAt k (f (s.dirAt k))) s

theorem moveDirs_eq (s : State) (ks : List Nat) (f : Direction → Direction) :
    s.moveDirs ks f = (((s.mapDirs ks f).groupsOf ks).foldl State.restateGroup (s.mapDirs ks f)).syncOscs := rfl

theorem restateGroups_dirAt (gs : List Nat) (s : State) : (gs.foldl State.restateGroup s).dirAt = s.dirAt :=
  foldl_keeps (f := State.dirAt) (step := State.restateGroup) (fun _ _ => rfl) gs s

theorem moveDirs_dirAt (s : State) (ks : List Nat) (f : Direction → Direction) : (s.moveDirs ks f).dirAt = (s.mapDirs ks f).dirAt := by
  rw [moveDirs_eq, State.syncOscs_dirAt, restateGroups_dirAt]

theorem mapDirs_groupAt (s : State) (ks : List Nat) (f : Direction → Direction) : (s.mapDirs ks f).groupAt = s.groupAt :=
  foldl_keeps (f := State.groupAt) (step := fun s k => s.setDirAt k (f (s.dirAt k))) (fun _ _ => rfl) ks s

theorem mapDirs_change (s : State) {ks : List Nat} (hks : ks.Nodup) (f : Direction → Direction) :
    DirsChange (fun _ x y => y = f x) ks s (s.mapDirs ks f) :=
  DirsChange.foldl (step := fun s k => s.setDirAt k (f (s.dirAt k))) (fun _ _ => setDirAt_change rfl rfl) hks s

/-- A move changes the listed directions, and no others. -/
theorem moveDirs_change (s : State) {ks : List Nat} (hks : ks.Nodup) (f : Direction → Direction) :
    DirsChange (fun _ x y => y = f x) ks s (s.moveDirs ks f) :=
  (mapDirs_change s hks f).congr (moveDirs_dirAt s ks f)

theorem restateGroups_groupAt (gs : List Nat) (s : State) (g : Nat) :
    (gs.foldl State.restateGroup s).groupAt g = if g ∈ gs then { s.groupAt g with state := s.groupState g } else s.groupAt g := by
  induction gs generalizing s with
  | nil => rfl
  | cons a gs ih =>
    have hstate : (s.restateGroup a).groupState g = s.groupState g := rfl
    rw [List.foldl_cons, ih, hstate]
    by_cases ha : g = a
    · subst ha
      have hown : (s.restateGroup g).groupAt g = { s.groupAt g with state := s.groupState g } := by
        simp [State.restateGroup]
      simp [hown]
    · have hother : (s.restateGroup a).groupAt g = s.groupAt g := State.groupAt_setGroup_other _ _ ha
      simp [hother, ha]

/-- A move leaves of a group all but its state, which is its members' where one of them has moved. -/
theorem moveDirs_groupAt (s : State) (ks : List Nat) (f : Direction → Direction) (g : Nat) :
    (s.moveDirs ks f).groupAt g =
      if g ∈ (s.mapDirs ks f).groupsOf ks then { s.groupAt g with state := (s.mapDirs ks f).groupState g } else s.groupAt g := by
  rw [moveDirs_eq, State.syncOscs_groupAt, restateGroups_groupAt, mapDirs_groupAt]

theorem moveDirs_keepsGroup (s : State) (ks : List Nat) (f : Direction → Direction) (g : Nat) :
    ∃ st, (s.moveDirs ks f).groupAt g = { s.groupAt g with state := st } := by
  rw [moveDirs_groupAt]
  split
  · exact ⟨_, rfl⟩
  · exact ⟨_, rfl⟩

theorem foldl_max_of_all {l : List Nat} {n : Nat} (hne : l ≠ []) (h : ∀ a ∈ l, a = n) : l.foldl max 0 = n := by
  have hmax : ∀ m, (List.replicate m n).foldl max n = n := fun m => by
    induction m with
    | zero => rfl
    | succ m ih => rwa [List.replicate_succ, List.foldl_cons, Nat.max_self]
  obtain ⟨a, l, rfl⟩ := List.exists_cons_of_ne_nil hne
  rw [List.eq_replicate_of_mem h, List.length_cons, List.replicate_succ, List.foldl_cons, Nat.zero_max]
  exact hmax _

/-- A group whose members all move to one state is in that state. -/
theorem moveDirs_groupState {s : State} {g n : Nat} {f : Direction → Direction} (hg : 1 ≤ g) (hne : s.members g ≠ [])
    (hcfg : ∀ x, (f x).group = x.group) (hstate : ∀ k ∈ s.members g, (f (s.dirAt k)).state = n) :
    ((s.moveDirs (s.members g) f).groupAt g).state = n := by
  have hchange := mapDirs_change s (members_nodup s g) f
  have hgroup (i : Nat) : ((s.mapDirs (s.members g) f).dirAt i).group = (s.dirAt i).group := by
    by_cases hi : i ∈ s.members g
    · rw [hchange.listed i hi, hcfg]
    · rw [hchange.others i hi]
  have hmem : g ∈ (s.mapDirs (s.members g) f).groupsOf (s.members g) := by
    obtain ⟨k, hk⟩ := List.exists_mem_of_ne_nil _ hne
    simp only [State.groupsOf, List.mem_filter, List.mem_eraseDups, List.mem_map]
    exact ⟨⟨k, hk, (hgroup k).trans (group_of_mem_members hk)⟩, decide_eq_true hg⟩
  rw [moveDirs_groupAt, if_pos hmem]
  refine foldl_max_of_all ?_ ?_
  · simpa [members_congr hgroup] using hne
  · rw [members_congr hgroup]
    intro a ha
    obtain ⟨k, hk, rfl⟩ := List.mem_map.mp ha
    rw [hchange.listed k hk]
    exact hstate k hk

end Sys2Proof.Machine
end

section
/-! ### START and STOP of line directions and of groups (14 R448 to R451, R463) -/

namespace Sys2Proof.Machine

open Sys2Proof

/-! ### Writes of CTL (14 R463) -/

section
variable {p n d g : Nat} {v : Word} {s : State}

theorem execLineStart_start (hw : s.writable p .ready = true) (hn : n < 64) (hd : d < 2) (h0 : bitOf v 0 = true)
    (h1 : bitOf v 1 = false) : exec (.lineStart p n d v) s = .next (s.startLine (2 * n + d)) := by
  show execLineStart p n d v s = _
  simp [execLineStart, dirCtlWrite, hw, hn, hd, h0, h1]

theorem execLineStop_stop (hw : s.writable p .ready = true) (hn : n < 64) (hd : d < 2) (h1 : bitOf v 1 = true)
    (h0 : bitOf v 0 = false) : exec (.lineStop p n d v) s = .next (s.stopLine (2 * n + d)) := by
  show execLineStop p n d v s = _
  simp [execLineStop, dirCtlWrite, hw, hn, hd, h0, h1]

theorem execGroupStart_start (hw : s.writable p .ready = true) (hlow : 1 ≤ g) (hhigh : g ≤ 15) (h0 : bitOf v 0 = true)
    (h1 : bitOf v 1 = false) : exec (.groupStart p g v) s = .next (s.startGroup g) := by
  show execGroupStart p g v s = _
  simp [execGroupStart, groupCtlWrite, hw, hlow, hhigh, h0, h1]

theorem execGroupStop_stop (hw : s.writable p .ready = true) (hlow : 1 ≤ g) (hhigh : g ≤ 15) (h1 : bitOf v 1 = true)
    (h0 : bitOf v 0 = false) : exec (.groupStop p g v) s = .next (s.stopGroup g) := by
  show execGroupStop p g v s = _
  simp [execGroupStop, groupCtlWrite, hw, hlow, hhigh, h0, h1]

end

/-! ### A direction (14 R448, R450) -/

theorem startLine_starts {s : State} {k : Nat} (hgroup : (s.dirAt k).group = 0) (hstate : (s.dirAt k).state = 0)
    (hok : s.dirOk (s.dirAt k) false = true) :
    s.startLine k = s.moveDirs [k] (startDir (if (s.dirAt k).role = 2 ∧
      ((s.dirAt (s.dirAt k).leader).state = 3 ∨ (s.dirAt (s.dirAt k).leader).state = 4)
      then (s.dirAt (s.dirAt k).leader).state else 1)) := by
  simp [State.startLine, hgroup, hstate, hok]

theorem startLine_refused {s : State} {k : Nat}
    (h : (s.dirAt k).group ≠ 0 ∨ ((s.dirAt k).state = 0 ∧ s.dirOk (s.dirAt k) false = false)) :
    s.startLine k = s.setDirAt k { s.dirAt k with cfgErr := true } := by
  by_cases hgroup : (s.dirAt k).group = 0
  · obtain ⟨hstate, hok⟩ := h.resolve_left (not_not.mpr hgroup)
    simp [State.startLine, hgroup, hstate, hok]
  · simp [State.startLine, hgroup]

theorem stopLine_stops {s : State} {k : Nat} (hgroup : (s.dirAt k).group = 0) (hmay : s.stopRefused k = false) :
    s.stopLine k = s.moveDirs [k] stopDir := by
  simp [State.stopLine, hgroup, hmay]

theorem stopLine_refused {s : State} {k : Nat} (h : (s.dirAt k).group ≠ 0 ∨ s.stopRefused k = true) :
    s.stopLine k = s.setDirAt k { s.dirAt k with busy := true } := by
  rw [State.stopLine, if_pos (by simpa using h)]

/-- A command whose whole effect is the move of one direction. -/
theorem completes_of_moveDir {c : Instr} {s : State} {k : Nat} {f : Direction → Direction} (h : exec c s = .next (s.moveDirs [k] f)) :
    Completes c s fun t => t.dirAt k = f (s.dirAt k) ∧ (∀ i, i ≠ k → t.dirAt i = s.dirAt i) ∧ Frame [.lines] s t := by
  have hchange := moveDirs_change s (List.nodup_singleton k) f
  exact ⟨_, h, hchange.listed k (List.mem_singleton_self k), fun i hi => hchange.others i (by simpa using hi), State.moveDirs_frame⟩

/-! ### The end of a run-in and of a run-out (14 R448 to R450) -/

/-- A direction whose count of good frames is complete: it has a rate, and waits for the Frame tick. -/
def countedDir (rate : Half) (st : Nat → Bool) (x : Direction) : Direction :=
  if st x.state then { x with ready := true, rate := if x.role = 1 then rate else 0 } else x

theorem counted_eq (s : State) (ks : List Nat) (st : Nat → Bool) :
    s.counted ks st = { s.moveDirs ks (countedDir s.measuredRate st) with free := s.free + 1 } := rfl

theorem counted_change (s : State) {ks : List Nat} (hks : ks.Nodup) (st : Nat → Bool) :
    DirsChange (fun _ x y => y = countedDir s.measuredRate st x) ks s (s.counted ks st) := by
  rw [counted_eq]
  exact (moveDirs_change s hks _).congr (State.dirAt_congr rfl)

theorem execRunInComplete_counts {n d : Nat} {s : State} (h : (s.dir n d).state = 1) :
    exec (.runInComplete n d) s = .next (s.counted [2 * n + d] (· = 1)) := by
  show execRunInComplete n d s = _
  rw [execRunInComplete, if_pos h]

theorem execRunOutComplete_stops {n d : Nat} {s : State} (h : (s.dir n d).state = 5) :
    exec (.runOutComplete n d) s = .next (s.moveDirs [2 * n + d] fun x => { x with state := 0, buf := [] }) := by
  show execRunOutComplete n d s = _
  rw [execRunOutComplete, if_pos h]

/-! ### A group (14 R450, R451) -/

/-- Starts and stops leave CFG, and with it the groups, as they were. -/
theorem startDir_group (st : Nat) (x : Direction) : (startDir st x).group = x.group := rfl

theorem members_ne_nil {s : State} {g : Nat} (h : s.groupOk g = true) : s.members g ≠ [] := by
  intro hnil
  simp [State.groupOk, hnil] at h

/-- A group's START moves its members, and theirs is the group's state. -/
theorem startGroup_starts {s : State} {g : Nat} (hg : 1 ≤ g) (hok : s.groupOk g = true) :
    DirsChange (fun _ x y => y = startDir 1 x) (s.members g) s (s.startGroup g) ∧
      ((s.startGroup g).groupAt g).state = 1 ∧ ((s.startGroup g).groupAt g).cfgErr = false := by
  rw [State.startGroup, if_pos hok]
  refine ⟨(moveDirs_change (s.setGroup g _) (members_nodup s g) (startDir 1)).behind rfl, ?_, ?_⟩
  · exact moveDirs_groupState (s := s.setGroup g _) hg (members_ne_nil hok) (startDir_group 1) fun _ _ => rfl
  · obtain ⟨st, h⟩ := moveDirs_keepsGroup (s.setGroup g { s.groupAt g with cfgErr := false }) (s.members g) (startDir 1) g
    rw [h, State.groupAt_setGroup]

theorem startGroup_refused {s : State} {g : Nat} (h : s.groupOk g = false) :
    s.startGroup g = s.setGroup g { s.groupAt g with cfgErr := true } := by
  rw [State.startGroup, if_neg (by simp [h])]

/-- A group's STOP stops every member, where none refuses it. -/
theorem stopGroup_stops {s : State} {g : Nat} (h : ∀ k ∈ s.members g, s.stopRefused k = false) :
    DirsChange (fun _ x y => y = stopDir x) (s.members g) s (s.stopGroup g) ∧ ((s.stopGroup g).groupAt g).busy = false := by
  rw [State.stopGroup, if_neg (by simpa using h)]
  refine ⟨(moveDirs_change (s.setGroup g _) (members_nodup s g) stopDir).behind rfl, ?_⟩
  obtain ⟨st, hgroup⟩ := moveDirs_keepsGroup (s.setGroup g { s.groupAt g with busy := false }) (s.members g) stopDir g
  rw [hgroup, State.groupAt_setGroup]

theorem stopGroup_refused {s : State} {g : Nat} (h : ∃ k ∈ s.members g, s.stopRefused k = true) :
    s.stopGroup g = s.setGroup g { s.groupAt g with busy := true } := by
  rw [State.stopGroup, if_pos (by simpa using h)]

/-- Settles O48: a direction by the move that its START, its STOP or the end of its count makes of it alone, a group by the move of its
members; a write that is refused by the flag it sets. -/
theorem lineStartAndStop : Obligations.LineStartAndStop := by
  unfold Obligations.LineStartAndStop
  refine ⟨fun p n d v s hw hn hd => ⟨fun h0 h1 hgroup hstate hok => ?_, fun h0 h1 h => ?_, fun h1 h0 hgroup hmay => ?_,
    fun h1 h0 h => ?_⟩, fun n d s hd => ⟨fun hstate => ?_, fun hstate => ?_⟩, fun p g v s hw hlow hhigh => ⟨fun h0 h1 hok => ?_,
    fun h0 h1 hbad => ?_, fun h1 h0 hmay => ?_, fun h1 h0 h => ?_⟩⟩
  · exact completes_of_moveDir ((execLineStart_start hw hn hd h0 h1).trans (congrArg _ (startLine_starts hgroup hstate hok)))
  · exact (execLineStart_start hw hn hd h0 h1).trans (congrArg _ (startLine_refused h))
  · exact completes_of_moveDir ((execLineStop_stop hw hn hd h1 h0).trans (congrArg _ (stopLine_stops hgroup hmay)))
  · exact (execLineStop_stop hw hn hd h1 h0).trans (congrArg _ (stopLine_refused h))
  · have hchange := counted_change s (List.nodup_singleton (2 * n + d)) (· = 1)
    refine ⟨_, execRunInComplete_counts hstate, ?_, exec_frame (execRunInComplete_counts hstate)⟩
    rw [← State.dirAt_of_dir, hchange.listed _ (List.mem_singleton_self _), State.dirAt_of_dir]
    exact if_pos (decide_eq_true hstate)
  · obtain ⟨t, ht, hdir, -, hframe⟩ := completes_of_moveDir (execRunOutComplete_stops hstate)
    exact ⟨t, ht, by simpa only [State.dirAt_of_dir] using hdir, hframe⟩
  · have hexec := execGroupStart_start hw hlow hhigh h0 h1
    obtain ⟨hchange, hstate, herr⟩ := startGroup_starts hlow hok
    exact ⟨_, hexec, hchange.listed, hchange.others, hstate, herr, exec_frame hexec⟩
  · exact (execGroupStart_start hw hlow hhigh h0 h1).trans (congrArg _ (startGroup_refused hbad))
  · have hexec := execGroupStop_stop hw hlow hhigh h1 h0
    obtain ⟨hchange, hbusy⟩ := stopGroup_stops hmay
    exact ⟨_, hexec, hchange.listed, hchange.others, hbusy, exec_frame hexec⟩
  · exact (execGroupStop_stop hw hlow hhigh h1 h0).trans (congrArg _ (stopGroup_refused h))

end Sys2Proof.Machine
end

section
/-! ### Slips and clock events (14 R434, R442, R452, R454 to R460) -/

namespace Sys2Proof.Machine

open Sys2Proof

/-! ### Drift slips (14 R442, R452) -/

theorem State.loseFrames_dirAt (l : List (List LineSlot)) (s : State) : (l.foldl State.loseFrame s).dirAt = s.dirAt :=
  foldl_keeps (f := State.dirAt) (fun _ _ => State.dirAt_congr (State.loseFrame_frame .lines (by decide))) l s

theorem State.traced_dirAt (s : State) (code k n detail : Nat) :
    (((s.bump code 1).bump (0x1C0 + k / 2) 1).writeTrace 0x85 n detail).dirAt = s.dirAt := by
  funext i
  simp

/-- What a drift slip makes of a direction: it counts, and a receive buffer gains or loses half its depth. -/
def DriftSlipped (low : Nat → Bool) (i : Nat) (x y : Direction) : Prop :=
  y.drift = min (x.drift + 1) 0xFFFF ∧
    (i % 2 = 1 → y.buf = if low i then List.replicate (x.depth / 2) (x.blank 4) ++ x.buf else x.buf.drop (x.depth / 2))

theorem slipDir_change (low : Nat → Bool) (s : State) (k : Nat) : DirsChange (DriftSlipped low) [k] s (s.slipDir k (low k)) := by
  unfold State.slipDir
  extract_lets x half u y held f b lost
  have hu : u.dirAt = s.dirAt := State.traced_dirAt ..
  by_cases htx : k % 2 = 0
  · have hrx : ¬k % 2 = 1 := by omega
    rw [if_pos htx]
    split
    · exact (setDirAt_change hu ⟨rfl, fun h => absurd h hrx⟩).congr (State.dirAt_congr rfl)
    · exact setDirAt_change ((State.loseFrames_dirAt _ u).trans hu) ⟨rfl, fun h => absurd h hrx⟩
  · rw [if_neg htx]
    split
    · next hlow => exact setDirAt_change hu ⟨rfl, fun _ => (if_pos hlow).symm⟩
    · next hlow => exact setDirAt_change hu ⟨rfl, fun _ => (if_neg hlow).symm⟩

theorem execDriftSlip_slips {n d : Nat} {low : Bool} {s : State} (hn : n < 64) (hd : d < 2) (hfrom : 2 ≤ (s.dir n d).state)
    (hto : (s.dir n d).state ≤ 4) (hno : ∀ i ∈ s.slipSet (2 * n + d), (s.dirAt i).glitched = false) :
    exec (.driftSlip n d low) s =
      .next ((s.slipSet (2 * n + d)).foldl (fun s k => s.slipDir k (low == (k % 2 == d))) s) := by
  have hany : ((s.slipSet (2 * n + d)).any fun k => (s.dirAt k).glitched) = false := by simpa using hno
  show execDriftSlip n d low s = _
  simp [execDriftSlip, hfrom, hto, Nat.not_le.mpr hn, Nat.not_le.mpr hd, hany]

/-- The frame of a glitch slip is not tested (14 R455). -/
theorem execDriftSlip_untested {n d i : Nat} {s : State} (low : Bool) (hi : i ∈ s.slipSet (2 * n + d)) (h : (s.dirAt i).glitched = true) :
    exec (.driftSlip n d low) s = .next s := by
  have hany : ((s.slipSet (2 * n + d)).any fun k => (s.dirAt k).glitched) = true := List.any_eq_true.mpr ⟨i, hi, h⟩
  show execDriftSlip n d low s = _
  simp [execDriftSlip, hany]

/-! ### Holdover and re-lock (14 R457 to R459) -/

theorem holdDir_group (st : Nat) (x : Direction) : (holdDir st x).group = x.group := by
  unfold holdDir
  split
  · rfl
  · split
    · rfl
    · rfl

theorem Direction.active_iff (x : Direction) : x.active = true ↔ 1 ≤ x.state ∧ x.state ≤ 4 := by
  simp [Direction.active]

/-- The directions of a clock event leave running, and its alarm has the source it had. -/
theorem held_lineSource (s : State) (k st : Nat) : (s.moveDirs (s.together k) (holdDir st)).lineSource k = s.lineSource k := by
  refine lineSource_congr ?_
  rw [(moveDirs_change s (together_nodup s k) (holdDir st)).listed k (mem_together_self s k), holdDir_group]

theorem execHoldoverReturn_counts {n d : Nat} {s : State} (hrole : (s.dirAt (2 * n + d)).role = 1)
    (hstate : (s.dirAt (2 * n + d)).state = 3 ∨ (s.dirAt (2 * n + d)).state = 4) :
    exec (.holdoverReturn n d) s = .next (s.counted (s.together (2 * n + d)) fun st => st = 3 || st = 4) := by
  show execHoldoverReturn n d s = _
  simp [execHoldoverReturn, hrole, hstate]

/-- What is not absorbed (14 R454). -/
theorem not_absorbed {b : Nat} {w : Bool} (hbad : 2 ≤ b ∨ w = true) : ¬(b ≤ 1 ∧ w = false) :=
  fun ⟨hb, hw⟩ => hbad.elim (by omega) (by simp [hw])

theorem State.setDirAt_evt (s : State) (k : Nat) (x : Direction) : (s.setDirAt k x).evt = s.evt := rfl

section
variable {n d : Nat} {s : State} (hn : n < 64) (hd : d < 2) (hrole : (s.dirAt (2 * n + d)).role = 1)
include hn hd hrole

theorem execClockStop_holds (h0 : (s.dirAt (2 * n + d)).state ≠ 0) (h3 : (s.dirAt (2 * n + d)).state ≠ 3) :
    exec (.clockStop n d) s = .next
      (if (s.dirAt (2 * n + d)).state = 5 then s.moveDirs (s.together (2 * n + d)) (holdDir 3)
        else (s.moveDirs (s.together (2 * n + d)) (holdDir 3)).raiseAlarm 0x0F (s.lineSource (2 * n + d)) 0) := by
  show execClockStop n d s = _
  simp [execClockStop, Nat.not_le.mpr hn, Nat.not_le.mpr hd, hrole, h0, h3, held_lineSource]

section
variable {r : Half} (hr : r.toInt < -32000 ∨ 32000 < r.toInt)
include hr

theorem execRateOutOfRange_relocks (h2 : (s.dirAt (2 * n + d)).state = 2) :
    let t := (s.moveDirs (s.together (2 * n + d)) (holdDir 4)).raiseAlarm 0x10 (s.lineSource (2 * n + d)) r.toNat
    exec (.rateOutOfRange n d r) s = .next (t.setDirAt (2 * n + d) { t.dirAt (2 * n + d) with rate := rateField r.toInt }) := by
  have hout : ¬(-32000 ≤ r.toInt ∧ r.toInt ≤ 32000) := by omega
  show execRateOutOfRange n d r s = _
  simp [execRateOutOfRange, Nat.not_le.mpr hn, Nat.not_le.mpr hd, hrole, h2, hout]

theorem execRateOutOfRange_recounts (h2 : (s.dirAt (2 * n + d)).state ≠ 2) (hactive : (s.dirAt (2 * n + d)).active = true) :
    exec (.rateOutOfRange n d r) s = .next (s.moveDirs (s.together (2 * n + d)) fun x => { x with ready := false }) := by
  have hout : ¬(-32000 ≤ r.toInt ∧ r.toInt ≤ 32000) := by omega
  show execRateOutOfRange n d r s = _
  simp [execRateOutOfRange, Nat.not_le.mpr hn, Nat.not_le.mpr hd, hrole, h2, hout, hactive]

end

/-! ### Glitches (14 R454, R455, R460) -/

theorem execFsGlitch_absorbed {b : Nat} (hactive : (s.dirAt (2 * n + d)).active = true) (hb : b ≤ 1) :
    exec (.fsGlitch n d b false) s = .next ((s.together (2 * n + d)).foldl (fun s i =>
      if i % 2 = 1 && (s.dirAt i).state = 2 then s.setDirAt i { s.dirAt i with glitchNext := true } else s) s) := by
  show execFsGlitch n d b false s = _
  simp [execFsGlitch, Nat.not_le.mpr hn, Nat.not_le.mpr hd, hrole, hactive, hb]

section
variable {b : Nat} {w : Bool} (hbad : 2 ≤ b ∨ w = true)
include hbad

theorem execFsGlitch_slips (h2 : (s.dirAt (2 * n + d)).state = 2) :
    exec (.fsGlitch n d b w) s = .next ((s.together (2 * n + d)).foldl State.glitchDir s) := by
  have hactive : (s.dirAt (2 * n + d)).active = true := (Direction.active_iff _).mpr (by omega)
  show execFsGlitch n d b w s = _
  simp [execFsGlitch, Nat.not_le.mpr hn, Nat.not_le.mpr hd, hrole, h2, hactive, not_absorbed hbad]

theorem execFsGlitch_recounts (h2 : (s.dirAt (2 * n + d)).state ≠ 2) (hactive : (s.dirAt (2 * n + d)).active = true) :
    exec (.fsGlitch n d b w) s = .next
      (s.moveDirs (s.together (2 * n + d)) fun y => if y.state = 2 then y else { y with ready := false }) := by
  show execFsGlitch n d b w s = _
  simp [execFsGlitch, Nat.not_le.mpr hn, Nat.not_le.mpr hd, hrole, h2, hactive, not_absorbed hbad]

end

end

/-- The frames of a receive buffer without one that is cut short (14 R454). -/
def Direction.wholeFrames (x : Direction) : List (List LineSlot) :=
  if x.buf.getLast?.any (·.length < x.slotsOn.length) then x.buf.dropLast else x.buf

theorem wholeFrames_of_whole {x : Direction} (h : ∀ f, x.buf.getLast? = some f → x.slotsOn.length ≤ f.length) : x.wholeFrames = x.buf :=
  if_neg (by simpa [Option.any_eq_true] using h)

theorem wholeFrames_of_short {x : Direction} {f : List LineSlot} (hlast : x.buf.getLast? = some f) (h : f.length < x.slotsOn.length) :
    x.wholeFrames = x.buf.dropLast :=
  if_pos (by simpa [hlast] using h)

/-- A direction behind a glitch slip: it counts, and a receive direction loses the frame that was cut short for a blank one. -/
def Direction.glitchSlip (i : Nat) (x : Direction) : Direction :=
  { x with
    glitch := min (x.glitch + 1) 0xFFFF
    glitchNext := i % 2 = 1
    glitched := true
    buf := if i % 2 = 1 then x.wholeFrames ++ [x.blank 4] else x.buf }

theorem glitchSlip_buf_transmit {i : Nat} {x : Direction} (h : i % 2 = 0) : (x.glitchSlip i).buf = x.buf := if_neg (by omega)

theorem glitchSlip_buf_receive {i : Nat} {x : Direction} (h : i % 2 = 1) : (x.glitchSlip i).buf = x.wholeFrames ++ [x.blank 4] :=
  if_pos h

theorem glitchDir_change (s : State) (k : Nat) :
    DirsChange (fun i x y => y = if x.state = 2 then x.glitchSlip i else x) [k] s (s.glitchDir k) := by
  unfold State.glitchDir
  extract_lets x u y whole
  by_cases h2 : (s.dirAt k).state = 2
  · have hslots : y.slotsOn = (s.dirAt k).slotsOn := rfl
    have hbuf : y.buf = (s.dirAt k).buf := rfl
    have hwhole : whole = (s.dirAt k).wholeFrames := by
      simp only [whole, hslots, hbuf, Direction.wholeFrames]
      cases (s.dirAt k).buf.getLast? with
      | none => rfl
      | some f => simp
    rw [if_neg (by simpa [x] using h2)]
    refine setDirAt_change (State.traced_dirAt ..) ?_
    rw [if_pos h2, hwhole, Direction.glitchSlip]
    by_cases hrx : k % 2 = 1
    · rw [if_pos hrx, if_pos hrx]
      rfl
    · rw [if_neg hrx, if_neg hrx]
      rfl
  · rw [if_pos (by simpa [x] using h2)]
    refine ⟨fun i hi => ?_, fun _ _ => rfl⟩
    rw [List.mem_singleton.mp hi, if_neg h2]

/-- A frame that arrives at a glitch is marked on receive (14 R460). -/
theorem marked_change (s : State) (k : Nat) :
    DirsChange (fun i x y => y = if i % 2 = 1 && x.state = 2 then { x with glitchNext := true } else x) [k] s
      (if k % 2 = 1 && (s.dirAt k).state = 2 then s.setDirAt k { s.dirAt k with glitchNext := true } else s) := by
  split
  · next h => exact setDirAt_change rfl (if_pos h).symm
  · next h =>
    refine ⟨fun i hi => ?_, fun _ _ => rfl⟩
    rw [List.mem_singleton.mp hi, if_neg h]

/-! ### Captured words (14 R434, R460) -/

/-- A captured word: left-justified, with its flag. -/
def Direction.captured (x : Direction) (slot : Nat) (w : Word) : LineSlot :=
  ⟨slot, none, (w >>> (32 - x.width)) <<< (32 - x.width) ||| (if x.glitchNext then 8 else 0)⟩

theorem execCaptureWord_takes {n slot : Nat} {w : Word} {s : State} (h2 : (s.dir n 1).state = 2) (hslot : (s.dir n 1).enabled slot = true) :
    ∃ q : Direction, exec (.captureWord n 1 slot w) s = .next (s.setDir n 1 q) ∧
      ((s.dir n 1).buf = [] → q.buf = [[(s.dir n 1).captured slot w]]) ∧
      (∀ f b, (s.dir n 1).buf = b ++ [f] → f ≠ [] → (∀ u ∈ f, u.slot < slot) → q.buf = b ++ [f ++ [(s.dir n 1).captured slot w]]) ∧
      (∀ f b, (s.dir n 1).buf = b ++ [f] → (∃ u ∈ f, slot ≤ u.slot) → q.buf = (s.dir n 1).buf ++ [[(s.dir n 1).captured slot w]]) := by
  show ∃ q : Direction, execCaptureWord n 1 slot w s = .next (s.setDir n 1 q) ∧ _
  unfold execCaptureWord
  extract_lets x w' fresh flag v last y
  rw [if_neg (by simp [x, h2, hslot])]
  refine ⟨_, rfl, fun hbuf => ?_, fun f b hbuf hne hlow => ?_, fun f b hbuf hhigh => ?_⟩
  · have hfresh : fresh = true := by simp [fresh, x, hbuf]
    show (if fresh = true then (s.dir n 1).buf ++ [[v]] else _) = _
    rw [if_pos hfresh, hbuf]
    rfl
  · have hfresh : ¬fresh = true := by simpa [fresh, x, hbuf, hne] using hlow
    show (if fresh = true then _ else (s.dir n 1).buf.dropLast ++ [((s.dir n 1).buf.getLast?).getD [] ++ [v]]) = _
    rw [if_neg hfresh, hbuf, List.dropLast_concat, List.getLast?_concat]
    rfl
  · have hfresh : fresh = true := by simp [fresh, x, hbuf, hhigh]
    exact if_pos hfresh

/-- Words captured by one direction leave the others. -/
theorem dir_setDir_other {n i j : Nat} (s : State) (x : Direction) (h : (i, j) ≠ (n, 1)) (hj : j < 2) :
    (s.setDir n 1 x).dir i j = s.dir i j := by
  have hkey : 2 * i + j ≠ 2 * n + 1 := fun he => h (Prod.ext (by simp; omega) (by simp; omega))
  simp only [State.dir, State.setDir, tabGet_tabSet_other _ _ hkey]

/-- Settles O49: each clock event by what it makes of the directions that share it, its own among them, and by the alarm it raises; a captured
word by the frame it begins or joins. -/
theorem lineClockEvents : Obligations.LineClockEvents := by
  unfold Obligations.LineClockEvents
  refine ⟨fun n d low s hn hd hfrom hto => ⟨fun hno => ?_, fun i hi hglitched => execDriftSlip_untested low hi hglitched⟩,
    fun n d s hn hd hrole => ⟨fun h0 h3 => ?_, fun r hr => ⟨fun h2 => ?_, fun hstate => ?_⟩, fun hstate => ?_, fun b w h2 hbad => ?_,
      fun b w hstate hbad => ?_, fun b h2 hb => ?_⟩,
    fun n slot w s h2 hslot => ?_⟩
  · have hexec := execDriftSlip_slips (low := low) hn hd hfrom hto hno
    have hchange := DirsChange.foldl (slipDir_change fun i => low == (i % 2 == d)) (slipSet_nodup s (2 * n + d)) s
    refine ⟨_, hexec, fun i hi => (hchange.listed i hi).1, hchange.others, fun hrx hgroup => ?_, exec_frame hexec⟩
    subst hrx
    have hodd : (2 * n + 1) % 2 = 1 := by omega
    have hself : 2 * n + 1 ∈ s.slipSet (2 * n + 1) := by simp [State.slipSet, hgroup]
    simpa [hodd] using (hchange.listed _ hself).2 hodd
  · have hexec := execClockStop_holds hn hd hrole h0 h3
    have hchange := moveDirs_change s (together_nodup s (2 * n + d)) (holdDir 3)
    by_cases h5 : (s.dirAt (2 * n + d)).state = 5
    · rw [if_pos h5] at hexec
      exact ⟨_, hexec, hchange.listed, hchange.others, fun h => absurd h5 h, exec_frame hexec⟩
    · rw [if_neg h5] at hexec
      have hchange := hchange.congr (funext (State.dirAt_raiseAlarm _ 0x0F (s.lineSource (2 * n + d)) 0))
      exact ⟨_, hexec, hchange.listed, hchange.others, fun _ => raiseAlarm_listed .., exec_frame hexec⟩
  · have hexec := execRateOutOfRange_relocks hn hd hrole hr h2
    have hchange := (moveDirs_change s (together_nodup s (2 * n + d)) (holdDir 4)).congr
      (funext (State.dirAt_raiseAlarm _ 0x10 (s.lineSource (2 * n + d)) r.toNat))
    have hlisted := raiseAlarm_listed (s.moveDirs (s.together (2 * n + d)) (holdDir 4)) 0x10 (s.lineSource (2 * n + d)) r.toNat
    refine ⟨_, hexec, ?_, fun i hi hik => ?_, ?_, exec_frame hexec⟩
    · rw [State.dirAt_setDirAt, hchange.listed _ (mem_together_self s _)]
    · rw [State.dirAt_setDirAt_other _ _ hik, hchange.listed i hi]
    · show Evt.listed _ _ _
      rwa [State.setDirAt_evt]
  · have hactive := (Direction.active_iff (s.dirAt (2 * n + d))).mpr (by omega)
    have hchange := moveDirs_change s (together_nodup s (2 * n + d)) fun x => { x with ready := false }
    exact ⟨_, execRateOutOfRange_recounts hn hd hrole hr (by omega) hactive, hchange.listed, State.moveDirs_frame⟩
  · have hexec := execHoldoverReturn_counts hrole hstate
    refine ⟨_, hexec, ?_, exec_frame hexec⟩
    rw [(counted_change s (together_nodup s (2 * n + d)) _).listed _ (mem_together_self s _), countedDir,
      if_pos (by simpa using hstate), if_pos hrole]
  · have hexec := execFsGlitch_slips hn hd hrole hbad h2
    have hslip := (DirsChange.foldl glitchDir_change (together_nodup s (2 * n + d)) s).listed _ (mem_together_self s _)
    rw [if_pos h2] at hslip
    have hbuf := congrArg Direction.buf hslip
    refine ⟨_, hexec, congrArg Direction.glitch hslip, (congrArg Direction.state hslip).trans h2, congrArg Direction.glitched hslip,
      fun htx => hbuf.trans (glitchSlip_buf_transmit (by omega)), fun hrx hwhole => ?_, fun hrx f hlast hshort => ?_, exec_frame hexec⟩
    · rw [hbuf, glitchSlip_buf_receive (by omega), wholeFrames_of_whole hwhole]
    · rw [hbuf, glitchSlip_buf_receive (by omega), wholeFrames_of_short hlast hshort]
  · have hactive := (Direction.active_iff (s.dirAt (2 * n + d))).mpr (by omega)
    have hchange := moveDirs_change s (together_nodup s (2 * n + d)) fun y => if y.state = 2 then y else { y with ready := false }
    exact ⟨_, execFsGlitch_recounts hn hd hrole hbad (by omega) hactive,
      (hchange.listed _ (mem_together_self s _)).trans (if_neg (by omega)), State.moveDirs_frame⟩
  · have hactive := (Direction.active_iff (s.dirAt (2 * n + d))).mpr (by omega)
    have hmarked := (DirsChange.foldl marked_change (together_nodup s (2 * n + d)) s).listed _ (mem_together_self s _)
    refine ⟨_, execFsGlitch_absorbed hn hd hrole hactive hb, hmarked.trans ?_, ?_⟩
    · have hrx : ((2 * n + d) % 2 = 1 && (s.dirAt (2 * n + d)).state = 2) = true ↔ d = 1 := by
        simp only [h2, decide_true, Bool.and_true, decide_eq_true_eq]
        omega
      exact if_congr hrx rfl rfl
    · exact Frame.foldl .refl fun u i hu => Frame.ite (fun _ => State.setDirAt_frame.comp (List.Subset.refl _) hu) fun _ => hu
  · obtain ⟨q, hexec, hnone, hjoin, hnext⟩ := execCaptureWord_takes (w := w) h2 hslot
    have hset : ((s.setDir n 1 q).dir n 1).buf = q.buf := congrArg Direction.buf (State.dir_setDir ..)
    exact ⟨_, hexec, fun hbuf => hset.trans (hnone hbuf), fun f b hbuf hne hlow => hset.trans (hjoin f b hbuf hne hlow),
      fun f b hbuf hhigh => hset.trans (hnext f b hbuf hhigh), fun i j hij _ hj => dir_setDir_other s q hij hj, exec_frame hexec⟩

end Sys2Proof.Machine
end

section
/-! ### Oscillator settings, steering, and the flags of slots (14 R443 to R445, R462, R463) -/

namespace Sys2Proof.Machine

open Sys2Proof

/-! ### CLK_OSC_n_CFG (14 R443, R444) -/

/-- Another oscillator follows the line direction that a written CFG names. -/
def State.refTaken (s : State) (n : Nat) (v : Word) : Prop :=
  ∃ m, m < 4 ∧ m ≠ n ∧ (s.oscAt m).mode = 1 ∧ (s.oscAt m).refLine = fld v 7 2 ∧ (s.oscAt m).refDir = fld v 8 8

/-- The reference of a written CFG: a slave line that no other oscillator follows. -/
def State.refGood (s : State) (n : Nat) (v : Word) : Prop := (s.dir (fld v 7 2) (fld v 8 8)).role = 1 ∧ ¬s.refTaken n v

/-- The state behind a written CFG that is taken: its reference and SLEW, and its mode unless that is reserved or the oscillator is in Folio
mode; of the other oscillators only whether they hold, and the lock with it. -/
structure OscCfgTaken (n : Nat) (v : Word) (s t : State) : Prop where
  mode : (t.oscAt n).mode = if 2 ≤ fld v 1 0 ∨ (s.oscAt n).mode = 2 then (s.oscAt n).mode else fld v 1 0
  refLine : (t.oscAt n).refLine = fld v 7 2
  refDir : (t.oscAt n).refDir = fld v 8 8
  slew : (t.oscAt n).slew = max 1 (fld v 23 16)
  cfgErr : (t.oscAt n).cfgErr = false
  steer : (t.oscAt n).steer = (s.oscAt n).steer
  others : ∀ m, m ≠ n → (s.oscAt m).SameBut (t.oscAt m)

theorem refTaken_iff (s : State) (n : Nat) (v : Word) :
    ((List.range 4).any fun m => m != n && (s.oscAt m).mode = 1 && (s.oscAt m).refLine = fld v 7 2 && (s.oscAt m).refDir = fld v 8 8) = true
      ↔ s.refTaken n v := by
  simp [State.refTaken, and_assoc]

/-- Whether a written CFG is refused. -/
theorem cfgRefused_iff (s : State) (n : Nat) (v : Word) :
    (fld v 1 0 = 1 && (s.oscAt n).mode != 2 && ((s.dir (fld v 7 2) (fld v 8 8)).role != 1 ||
      (List.range 4).any fun m => m != n && (s.oscAt m).mode = 1 && (s.oscAt m).refLine = fld v 7 2 && (s.oscAt m).refDir = fld v 8 8)) = true
      ↔ fld v 1 0 = 1 ∧ (s.oscAt n).mode ≠ 2 ∧ ¬s.refGood n v := by
  rw [Bool.and_eq_true, Bool.and_eq_true, Bool.or_eq_true, refTaken_iff]
  simp [State.refGood, and_assoc, imp_iff_not_or]

theorem oscCfgWrite_refused {n : Nat} {v : Word} {s : State} (h1 : fld v 1 0 = 1) (hmode : (s.oscAt n).mode ≠ 2) (hbad : ¬s.refGood n v) :
    oscCfgWrite n v s = s.setOsc n { s.oscAt n with cfgErr := true } :=
  if_pos ((cfgRefused_iff s n v).mpr ⟨h1, hmode, hbad⟩)

/-- Setting an oscillator, and then what all of them hold. -/
theorem OscCfgTaken.of_setOsc {n : Nat} {v : Word} {s : State} {o : Osc}
    (hmode : o.mode = if 2 ≤ fld v 1 0 ∨ (s.oscAt n).mode = 2 then (s.oscAt n).mode else fld v 1 0) (hline : o.refLine = fld v 7 2)
    (hdir : o.refDir = fld v 8 8) (hslew : o.slew = max 1 (fld v 23 16)) (herr : o.cfgErr = false) (hsteer : o.steer = (s.oscAt n).steer) :
    OscCfgTaken n v s (s.setOsc n o).syncOscs := by
  obtain ⟨h, l, ms, hown⟩ := (s.setOsc n o).syncOscs_oscAt n
  rw [State.oscAt_setOsc] at hown
  refine ⟨(congrArg Osc.mode hown).trans hmode, (congrArg Osc.refLine hown).trans hline, (congrArg Osc.refDir hown).trans hdir,
    (congrArg Osc.slew hown).trans hslew, (congrArg Osc.cfgErr hown).trans herr, (congrArg Osc.steer hown).trans hsteer, fun m hm => ?_⟩
  simpa only [State.oscAt_setOsc_other _ o hm] using (s.setOsc n o).syncOscs_oscAt m

theorem oscCfgWrite_taken {n : Nat} {v : Word} {s : State} (h : ¬(fld v 1 0 = 1 ∧ (s.oscAt n).mode ≠ 2 ∧ ¬s.refGood n v)) :
    OscCfgTaken n v s (oscCfgWrite n v s) := by
  rw [oscCfgWrite, if_neg ((cfgRefused_iff s n v).not.mpr h)]
  exact .of_setOsc (if_congr (by simp) rfl rfl) rfl rfl rfl rfl rfl

theorem execClkOscCfgWrite_writes {p n : Nat} {v : Word} {s : State} (hw : s.writable p .ready = true) (hn : n < 4) :
    exec (.clkOscCfgWrite p n v) s = .next (oscCfgWrite n v s) := by
  show execClkOscCfgWrite p n v s = _
  simp [execClkOscCfgWrite, hw, hn]

/-! ### Steering (14 R443, R445) -/

section
variable {n ms : Nat} {s : State} (hphase : s.boot.phase = .ready) (hn : n < 4)
include hphase hn

/-- An oscillator that is in Line mode and runs takes a step of at most SLEW per second, and its loop counts how long the fill has stayed near. -/
theorem execSteeringUpdate_steers (hmode : (s.oscAt n).mode = 1) (hrun : (s.oscAt n).hold = false) :
    ∃ (step : Int) (lock : Nat), step.natAbs ≤ (s.oscAt n).slew * 1024 * ms / 1000 ∧ (lock = 0 ∨ lock = min 1000 ((s.oscAt n).lockMs + ms)) ∧
      exec (.steeringUpdate n ms) s = .next (({ s with free := s.free + 2 } : State).setOsc n
        { s.oscAt n with steer := steerSat ((s.oscAt n).steer + step), lockMs := lock, locked := 1000 ≤ lock }) := by
  show ∃ (step : Int) (lock : Nat), _ ∧ _ ∧ execSteeringUpdate n ms s = _
  unfold execSteeringUpdate
  extract_lets o a near u span step lock
  rw [if_neg (by simp [hphase, hn]), if_pos (by simp [o, hmode, hrun])]
  refine ⟨step, lock, ?_, ?_, rfl⟩
  · have hlt : a % (2 * span + 1) < 2 * span + 1 := Nat.mod_lt _ (Nat.succ_pos _)
    show step.natAbs ≤ span
    omega
  · simp only [lock]
    split
    · exact .inr rfl
    · exact .inl rfl

theorem execSteeringUpdate_leaves (h : (s.oscAt n).mode ≠ 1 ∨ (s.oscAt n).hold = true) :
    exec (.steeringUpdate n ms) s = .next { s with free := s.free + 2 } := by
  have hnot : ¬((s.oscAt n).mode = 1 ∧ (s.oscAt n).hold = false) := fun ⟨hmode, hrun⟩ => h.elim (· hmode) (by simp [hrun])
  show execSteeringUpdate n ms s = _
  simp [execSteeringUpdate, hphase, hn, hnot]

end

theorem drawn_frame (s : State) (k : Nat) : Frame [.free] s { s with free := s.free + k } := by
  intro b hb
  cases b with
  | free => exact absurd (List.mem_singleton_self _) hb
  | _ => rfl

/-- A step of at most `span` either way, within ±1,000 ppm. -/
theorem steerSat_within {x step : Int} {span : Nat} (h : step.natAbs ≤ span) :
    let now := max (-1024000) (min 1024000 x)
    now - span ≤ steerSat (x + step) ∧ steerSat (x + step) ≤ now + span ∧ -1024000 ≤ steerSat (x + step) ∧
      steerSat (x + step) ≤ 1024000 := by
  unfold steerSat
  omega

/-! ### SLOT_FILL and SLOT_HOLD (14 R463) -/

theorem execSlotFlagClear_clears {p n d : Nat} {hold : Bool} {v : Word} {s : State} (hw : s.writable p .ready = true) (hn : n < 64)
    (hd : d < 2) : exec (.slotFlagClear p n d hold v) s = .next (slotFlagClear (2 * n + d) hold v s) := by
  show execSlotFlagClear p n d hold v s = _
  simp [execSlotFlagClear, hw, hn, hd]

/-- A command whose whole effect is one direction's. -/
theorem completes_of_setDirAt {c : Instr} {s : State} {k : Nat} {x : Direction} (h : exec c s = .next (s.setDirAt k x)) :
    Completes c s fun t => t.dirAt k = x ∧ (∀ i, i ≠ k → t.dirAt i = s.dirAt i) ∧ Frame [.lines] s t :=
  ⟨_, h, State.dirAt_setDirAt .., fun _ hi => State.dirAt_setDirAt_other _ _ hi, State.setDirAt_frame⟩

/-- Settles O50: a written CFG by whether its reference may be taken; a steering update by the step it takes, within its bounds; ones written to a
flag register by the one direction they change. -/
theorem oscillatorsAndSlotFlags : Obligations.OscillatorsAndSlotFlags := by
  unfold Obligations.OscillatorsAndSlotFlags
  refine ⟨fun p n v s hw hn => ?_, fun n ms s hphase hn => ⟨fun hmode hrun => ?_, fun h => ?_⟩,
    fun p n d v s hw hn hd => ⟨completes_of_setDirAt (execSlotFlagClear_clears hw hn hd),
      completes_of_setDirAt (execSlotFlagClear_clears hw hn hd)⟩⟩
  · intro o line dir slew taken good others
    have hexec := execClkOscCfgWrite_writes (v := v) hw hn
    refine ⟨fun hmode hgood => ?_, fun hmode hreserved => ?_, fun hmode h1 hbad => ?_, fun hmode => ?_⟩
    · have hle : fld v 1 0 ≤ 1 := hgood.elim (by omega) fun h => h.1.le
      have htaken := oscCfgWrite_taken (s := s) (n := n) (v := v) fun ⟨h1, _, hbad⟩ => hgood.elim (by omega) fun h => hbad h.2
      exact ⟨_, hexec, htaken.mode.trans (if_neg (not_or.mpr ⟨Nat.not_le.mpr (Nat.lt_succ_of_le hle), hmode⟩)), htaken.refLine, htaken.refDir,
        htaken.slew, htaken.cfgErr, htaken.steer, htaken.others, oscCfgWrite_frame⟩
    · have htaken := oscCfgWrite_taken (s := s) (n := n) (v := v) (by omega)
      exact ⟨_, hexec, htaken.mode.trans (if_pos (.inl hreserved)), htaken.cfgErr, htaken.others, oscCfgWrite_frame⟩
    · exact hexec.trans (congrArg _ (oscCfgWrite_refused h1 hmode hbad))
    · have htaken := oscCfgWrite_taken (s := s) (n := n) (v := v) fun h => h.2.1 hmode
      exact ⟨_, hexec, htaken.mode.trans ((if_pos (.inr hmode)).trans hmode), htaken.slew, htaken.others, oscCfgWrite_frame⟩
  · obtain ⟨step, lock, hstep, hlock, hexec⟩ := execSteeringUpdate_steers (ms := ms) hphase hn hmode hrun
    obtain ⟨hlow, hhigh, hmin, hmax⟩ := steerSat_within (x := (s.oscAt n).steer) hstep
    have hlocked : decide (1000 ≤ lock) = true ↔ lock = 1000 := decide_eq_true_iff.trans (by omega)
    refine ⟨_, hexec, ?_⟩
    simp only [State.oscAt_setOsc]
    exact ⟨hlow, hhigh, hmin, hmax, hlocked, hlock, trivial, fun m hm => State.oscAt_setOsc_other _ _ hm, exec_frame hexec⟩
  · exact ⟨_, execSteeringUpdate_leaves hphase hn h, fun _ => rfl, drawn_frame s 2⟩

end Sys2Proof.Machine
end

section
/-! ### The manager's directory and its placement answers (15 R470, R471, R483, R484, R492) -/

namespace Sys2Proof.Machine

open Sys2Proof

/-! ### Directory entries and members (15 R483) -/

theorem folioNumber_member {st : Nat} (m : Nat) (h : st < 16384) : folioNumber m st / 16384 = m := by
  unfold folioNumber
  omega

theorem testBit_setMember (members m : Nat) (on : Bool) : (setMember members m on).testBit m = on := by
  unfold setMember
  cases h : members.testBit m <;> cases on
  · exact h
  · simp [Nat.add_comm members, Nat.testBit_two_pow_add_eq, h]
  · have hsplit : 2 ^ m + (members - 2 ^ m) = members := Nat.add_sub_cancel' (Nat.ge_two_pow_of_testBit h)
    rw [← hsplit, Nat.testBit_two_pow_add_eq, Bool.not_eq_true'] at h
    exact h
  · exact h

theorem tabGet_tabMod_same {α : Type} {t : Tab α} {k : Nat} {v : α} (f : α → α) (h : tabGet t k = some v) :
    tabGet (tabMod t k f) k = some (f v) := by
  induction t with
  | nil => cases h
  | cons p t ih =>
    by_cases hk : k = p.1
    · subst hk
      simp only [tabGet, if_true, Option.some.injEq] at h
      simp [tabMod, tabGet, h]
    · have ih' : tabGet (t.map fun p => if p.1 = k then (p.1, f p.2) else p) k = some (f v) :=
        ih (by simpa [tabGet, hk] using h)
      simp [tabMod, tabGet, hk, Ne.symm hk, ih']

/-- The directory without a member's entries. -/
theorem tabGet_left {α : Type} (t : Tab α) {m st : Nat} (h : st < 16384) :
    tabGet (t.filter fun e => e.1 / 16384 != m) (folioNumber m st) = none :=
  tabGet_filter_out t fun v => by simp [folioNumber_member m h]

/-! ### DIRECTORY_REPORT (15 R470, R471, R483) -/

/-- The manager's Folio state behind a member's report. -/
def Ihx.reported (x : Ihx) (m : Nat) : DirReport → Ihx
  | .opened st sess rate keep fill => { x with directory := tabSet x.directory (folioNumber m st) ⟨sess, rate, keep, fill, false⟩ }
  | .closed st => { x with directory := tabErase x.directory (folioNumber m st) }
  | .moving st on => { x with directory := tabMod x.directory (folioNumber m st) fun e => { e with moving := on } }
  | .capacity free cores voices =>
    { x with capacity := tabSet x.capacity m ⟨free, cores, voices⟩, members := setMember x.members m true }
  | .left_ =>
    { x with
      capacity := tabErase x.capacity m
      directory := x.directory.filter fun e => e.1 / 16384 != m
      members := setMember x.members m false }

theorem execDirectoryReport_reports {m : Nat} {s : State} (hrole : s.ihx.role = 1) (hstate : s.ihx.state = 2) (hlow : 1 ≤ m) (hhigh : m ≤ 16)
    (r : DirReport) : exec (.directoryReport m r) s = .next { s with ihx := s.ihx.reported m r } := by
  show execDirectoryReport m r s = _
  have hm : ¬17 ≤ m ∧ m ≠ 0 := by omega
  unfold execDirectoryReport
  rw [if_neg (by simp [hrole, hstate, hm])]
  cases r <;> rfl

/-! ### PLACEMENT (15 R484, R492) -/

theorem ranksBefore_total (a b : Nat × Nat × Bool × Nat) : (ranksBefore a b || ranksBefore b a) = true := by
  simp only [ranksBefore, Bool.or_eq_true, Bool.and_eq_true, decide_eq_true_eq]
  omega

theorem ranksBefore_trans (a b c : Nat × Nat × Bool × Nat) (hab : ranksBefore a b = true) (hbc : ranksBefore b c = true) :
    ranksBefore a c = true := by
  simp only [ranksBefore, Bool.or_eq_true, Bool.and_eq_true, decide_eq_true_eq] at hab hbc ⊢
  omega

/-- The first of the ranked candidates is one of them, and ranks before each. -/
theorem head_ranked {cs : List (Nat × Nat × Bool × Nat)} (h : cs ≠ []) :
    ∃ c ∈ cs, (cs.mergeSort ranksBefore).head? = some c ∧ ∀ d ∈ cs, ranksBefore c d = true := by
  have hperm := List.mergeSort_perm cs ranksBefore
  have hsorted := List.pairwise_mergeSort ranksBefore_trans ranksBefore_total cs
  cases hl : cs.mergeSort ranksBefore with
  | nil => exact absurd (hl ▸ hperm).nil_eq.symm h
  | cons c l =>
    rw [hl] at hperm hsorted
    refine ⟨c, hperm.mem_iff.mp List.mem_cons_self, rfl, fun d hd => ?_⟩
    obtain rfl | hd := List.mem_cons.mp (hperm.mem_iff.mpr hd)
    · simpa using ranksBefore_total d d
    · exact List.rel_of_pairwise_cons hsorted hd

theorem candidate_member {s : State} {m : Nat} {c : Capacity} {r : Nat × Nat × Bool × Nat} (h : s.candidate m c = some r) :
    r.2.2.2 = m := by
  unfold State.candidate at h
  extract_lets at h
  split at h
  · cases h
  · exact (Option.some.inj h) ▸ rfl

/-- The field FIRST of the answer: the member of the first candidate, or 0x1F (15 R492). -/
theorem placeResult_first (cs : List (Nat × Nat × Bool × Nat)) (h : ∀ c, cs.head? = some c → c.2.2.2 ≤ 16) :
    fld (placeResult cs) 4 0 = ((cs.head?).map fun c => c.2.2.2).getD 0x1F := by
  have hlt : ((cs.head?).map fun c => c.2.2.2).getD 0x1F < 32 := by
    cases hc : cs.head? with
    | none => decide
    | some c => exact Nat.lt_of_le_of_lt (h c hc) (by decide)
  have hzero : cs[0]? = cs.head? := List.head?_eq_getElem?.symm
  have hbit : ∀ b, bit b 15 = 0 ∨ bit b 15 = 32768 := by decide
  simp only [fld, placeResult, hzero, BitVec.toNat_ofNat]
  specialize hbit (cs.head?.any fun c => c.2.2.1)
  omega

theorem execPlacement_ranks {p : Nat} {v : Word} {s : State} (hw : s.writable p .ready = true) (hgo : bitOf v 0 = true)
    (hrole : s.ihx.role = 1) (hstate : s.ihx.state = 2) :
    exec (.placement p v) s = .next { s with ihx := { s.ihx with
      placeDone := true
      placeResult := placeResult (((s.ihx.capacity.filter fun c => s.ihx.members.testBit c.1).filterMap fun c =>
        s.candidate c.1 c.2).mergeSort ranksBefore) } } := by
  show execPlacement p v s = _
  simp [execPlacement, placeCtlWrite, hw, hgo, hrole, hstate]

/-- A change of the Folio's state alone. -/
theorem setIhx_frame (s : State) (x : Ihx) : Frame [.ihx] s { s with ihx := x } := by
  intro b hb
  cases b with | ihx => exact absurd (List.mem_singleton_self _) hb | _ => rfl

/-- Settles O53: a report by the entry, the capacity or the member that it changes; a placement by the first of its ranked candidates. -/
theorem directoryAndPlacement : Obligations.DirectoryAndPlacement := by
  unfold Obligations.DirectoryAndPlacement
  refine ⟨fun m s hrole hstate hlow hhigh => ?_, fun p v s hw hgo hrole hstate hsmall => ?_⟩
  · have hexec := execDirectoryReport_reports hrole hstate hlow hhigh
    refine ⟨fun st sess rate keep fill => ⟨_, hexec _, ?_, fun k hk => ?_, setIhx_frame s _⟩, fun st => ⟨_, hexec _, ?_, fun k hk => ?_⟩,
      fun st on e he => ⟨_, hexec _, ?_⟩, fun free cores voices => ⟨_, hexec _, ?_, ?_, rfl⟩, ⟨_, hexec _, ?_, ?_, fun st hst => ?_⟩⟩
    · exact tabGet_tabSet_same ..
    · exact tabGet_tabSet_other _ _ hk
    · exact tabGet_tabErase_same ..
    · exact tabGet_tabErase_other _ hk
    · exact tabGet_tabMod_same (fun e => { e with moving := on }) he
    · exact tabGet_tabSet_same ..
    · exact testBit_setMember ..
    · exact tabGet_tabErase_same ..
    · exact testBit_setMember ..
    · exact tabGet_left _ hst
  · intro cs
    have hmembers : ∀ c ∈ cs, c.2.2.2 ≤ 16 := fun c hc => by
      obtain ⟨q, hq, hcand⟩ := List.mem_filterMap.mp hc
      exact candidate_member hcand ▸ hsmall q (List.mem_filter.mp hq).1
    have hfirst := placeResult_first (cs.mergeSort ranksBefore) fun c hc =>
      hmembers c ((List.mergeSort_perm cs ranksBefore).mem_iff.mp (List.mem_of_head? hc))
    refine ⟨_, execPlacement_ranks hw hgo hrole hstate, rfl, fun hnone => ?_, fun hsome => ?_, setIhx_frame s _⟩
    · exact hfirst.trans (by rw [hnone, List.mergeSort_nil]; rfl)
    · obtain ⟨c, hc, hhead, hbefore⟩ := head_ranked hsome
      exact ⟨c, hc, hfirst.trans (by rw [hhead]; rfl), hbefore⟩

end Sys2Proof.Machine
end

section
/-! ### Transfers, what members say of them, and how they end early (15 R468, R479, R486 to R491) -/

namespace Sys2Proof.Machine

open Sys2Proof

/-! ### Ports and messages (15 R466, R468) -/

theorem State.portTo_congr {s t : State} (h : t.ihx = s.ihx) : t.portTo = s.portTo := by
  funext peer
  simp only [State.portTo, h]

theorem State.ihxPort_congr {s t : State} (h : t.ihx = s.ihx) : t.ihxPort = s.ihxPort := by
  funext p
  simp only [State.ihxPort, h]

theorem State.reaches_trained {s : State} {member : Nat} (h : s.reaches member = true) :
    (s.ihxPort (s.portTo member)).trained = true := by
  simp only [State.reaches, Bool.and_eq_true] at h
  obtain ⟨⟨-, htrained⟩, -⟩ := h
  exact htrained

/-- A message goes out on a trained port, and on no other. -/
theorem send_says (s : State) (port kind : Nat) (body : List Nat) (bytes : List Byte) :
    (s.send port kind body bytes).ihx.sent =
      s.ihx.sent ++ if (s.ihxPort port).trained = true then [⟨port, kind, body, bytes⟩] else [] := by
  split
  · next h => exact send_sent h ..
  · next h => simp [State.send, h]

@[simp] theorem State.portTo_send (s : State) (port kind : Nat) (body : List Nat) (bytes : List Byte) (peer : Nat) :
    (s.send port kind body bytes).portTo peer = s.portTo peer := by
  obtain ⟨sent, wire, frames, h⟩ := send_ihx s port kind body bytes
  simp only [State.portTo, h]

/-! ### A Transfer by its ID (15 R486) -/

theorem State.transfer_congr {s t : State} (h : t.ihx.transfers = s.ihx.transfers) : t.transfer = s.transfer := by
  funext id
  simp only [State.transfer, h]

theorem State.transfer_id {s : State} {id : DWord} {u : Transfer} (h : s.transfer id = some u) : u.id = id :=
  beq_iff_eq.mp (List.find?_some (p := fun t : Transfer => t.id == id) h)

@[simp] theorem State.transfer_send (s : State) (port kind : Nat) (body : List Nat) (bytes : List Byte) :
    (s.send port kind body bytes).transfer = s.transfer := by
  obtain ⟨sent, wire, frames, h⟩ := send_ihx s port kind body bytes
  exact State.transfer_congr (by rw [h])

@[simp] theorem State.transfer_bump (s : State) (code n : Nat) (sc : EvScope) : (s.bump code n sc).transfer = s.transfer := rfl

@[simp] theorem State.transfer_complete (s : State) (n : Nat) (d : Desc) (x : Done) : (s.complete n d x).transfer = s.transfer :=
  State.transfer_congr (by rw [State.complete_ihx])

@[simp] theorem State.transfer_modDesc (s : State) (n k : Nat) (f : Desc → Desc) : (s.modDesc n k f).transfer = s.transfer :=
  State.transfer_congr (by rw [State.modDesc_ihx])

@[simp] theorem State.transfer_setIhxPort (s : State) (p : Nat) (x : IhxPort) : (s.setIhxPort p x).transfer = s.transfer := rfl

theorem State.transfer_modTransfer {s : State} {id : DWord} {u : Transfer} {f : Transfer → Transfer} (h : s.transfer id = some u)
    (hf : (f u).id = id) : (s.modTransfer id f).transfer id = some (f u) := by
  have hfind : ∀ l : List Transfer, l.find? (·.id == id) = some u →
      (l.map fun t => if t.id == id then f t else t).find? (·.id == id) = some (f u) := by
    intro l hl
    induction l with
    | nil => cases hl
    | cons v l ih =>
      by_cases hv : v.id = id
      · simp only [List.find?_cons, hv, beq_self_eq_true, Option.some.injEq] at hl
        subst hl
        simp [hv, hf]
      · simp only [List.find?_cons, beq_eq_false_iff_ne.mpr hv] at hl
        simpa [List.find?_cons, hv] using ih hl
  exact hfind _ h

/-! ### A Transfer begins to wait (15 R486) -/

/-- The Transfer of a descriptor that begins to wait for its partner. -/
def Desc.waiting (d : Desc) (outgoing : Bool) (n peer stream : Nat) : Transfer :=
  ⟨d.transferId, outgoing, n, d.seq, peer, stream, .waiting, 0, d.acceptedAt, none, false⟩

section
variable {s : State} {d : Desc} (hfree : s.transfer d.transferId = none) (outgoing : Bool) (n peer stream : Nat)
include hfree

theorem addTransfer_transfers :
    (s.addTransfer outgoing n d peer stream).ihx.transfers = s.ihx.transfers ++ [d.waiting outgoing n peer stream] := by
  simp [State.addTransfer, hfree, Desc.waiting]

theorem addTransfer_transfer :
    (s.addTransfer outgoing n d peer stream).transfer d.transferId = some (d.waiting outgoing n peer stream) := by
  have hnone : s.ihx.transfers.find? (·.id == d.transferId) = none := hfree
  simp [State.transfer, addTransfer_transfers hfree, List.find?_append, hnone, Desc.waiting]

theorem addTransfer_transferOf (hof : s.transferOf n d.seq = none) :
    (s.addTransfer outgoing n d peer stream).transferOf n d.seq = some (d.waiting outgoing n peer stream) := by
  have hnone : s.ihx.transfers.find? (fun t => t.ring == n && t.seq == d.seq) = none := hof
  simp only [State.transferOf, addTransfer_transfers hfree, List.find?_append, hnone]
  simp [Desc.waiting]

end

theorem addTransfer_sent (s : State) (outgoing : Bool) (n : Nat) (d : Desc) (peer stream : Nat) :
    (s.addTransfer outgoing n d peer stream).ihx.sent = s.ihx.sent := by
  unfold State.addTransfer
  split <;> rfl

theorem addTransfer_mayOffer (s : State) (outgoing : Bool) (n : Nat) (d : Desc) (peer stream : Nat) (u : Transfer) (x : Stream) :
    (s.addTransfer outgoing n d peer stream).mayOffer u x = s.mayOffer u x := by
  unfold State.addTransfer
  split <;> rfl

theorem addTransfer_portTo (s : State) (outgoing : Bool) (n : Nat) (d : Desc) (peer stream k : Nat) :
    (s.addTransfer outgoing n d peer stream).portTo k = s.portTo k := by
  unfold State.addTransfer
  split <;> rfl

theorem addTransfer_offerOf (s : State) (outgoing : Bool) (n : Nat) (d : Desc) (peer stream : Nat) (u : Transfer) (x : Stream) (m : Model)
    (e : Session) : (s.addTransfer outgoing n d peer stream).offerOf u x m e = s.offerOf u x m e := by
  unfold State.addTransfer
  split <;> rfl

/-! ### The end of a Transfer (15 R487, R490) -/

/-- What a completion leaves of a descriptor stands behind every change of other blocks. -/
theorem Retired.frame {L : List Block} {s t : State} {n : Nat} {d : Desc} {x : Done} (h : Retired s n d x) (k : Frame L s t)
    (hrmk : decide (.rmk ∈ L) = false) : Retired t n d x := by
  rw [Retired, State.ring_congr (k .rmk (of_decide_eq_false hrmk))]
  exact h

@[simp] theorem dropTransfer_gone (s : State) (id : DWord) : (s.dropTransfer id).transfer id = none := by
  unfold State.dropTransfer
  split
  · next h => exact h
  · simp [State.transfer]

/-- A Transfer that comes in takes no credits of this member with it. -/
theorem dropTransfer_incoming {s : State} {id : DWord} {u : Transfer} (hu : s.transfer id = some u) (hin : u.outgoing = false) :
    s.dropTransfer id = { s with ihx := { s.ihx with
      transfers := s.ihx.transfers.filter (·.id != id), xferActive := s.ihx.xferActive - 1 } } := by
  have hfind : s.ihx.transfers.find? (·.id == id) = some u := hu
  simp [State.dropTransfer, hfind, State.freeCredits, hin]

/-- A Transfer that fails ends its descriptor with its DETAIL. -/
theorem failTransfer_ends {s : State} {u : Transfer} {d : Desc} (hd : s.desc u.ring u.seq = some d) (detail : Nat) :
    Retired (failTransfer u detail s) u.ring d { status := stTransferFailed, detail := detail } ∧
      (failTransfer u detail s).transfer u.id = none := by
  simp only [failTransfer, hd]
  constructor
  · refine (State.complete_retired s u.ring d _).frame (L := [.streams, .ihx, .cnt]) ?_ rfl
    refine State.bump_frame.comp (by decide) (State.send_frame.comp (by decide) (State.dropTransfer_frame.comp (by decide) ?_))
    split
    · exact .ite (fun _ => State.setStream_frame.mono (by decide)) fun _ => .refl
    · exact .refl
  · simp

section
variable {s : State} {u : Transfer} (status detail told : Nat)

/-- A Transfer that ends at its destination before commit ends its descriptor there. -/
theorem endArrival_ends {d : Desc} (hd : s.desc u.ring u.seq = some d) :
    Retired (s.endArrival u status detail told) u.ring d { status := status, detail := detail } ∧
      (s.endArrival u status detail told).transfer u.id = none := by
  have hdesc : ((s.dropArrival u).dropTransfer u.id).desc u.ring u.seq = some d := by
    rw [State.desc_congr (State.dropTransfer_frame .rmk (by decide)), State.desc_congr (State.dropArrival_frame .rmk (by decide)), hd]
  simp only [State.endArrival, hdesc]
  constructor
  · exact (State.complete_retired ..).frame (L := [.ihx, .cnt])
      (State.bump_frame.comp (by decide) (State.send_frame.mono (by decide))) rfl
  · simp

/-- The source is told why (15 R487). -/
theorem endArrival_tells (hu : s.transfer u.id = some u) (hin : u.outgoing = false)
    (htrained : (s.ihxPort (s.portTo u.peer)).trained = true) :
    (s.endArrival u status detail told).ihx.sent = s.ihx.sent ++ [⟨s.portTo u.peer, 3, [u.id.toNat, told], []⟩] := by
  have harrival : (s.dropArrival u).ihx = s.ihx := State.dropArrival_frame .ihx (by decide)
  have hdrop := dropTransfer_incoming ((congrFun (State.transfer_congr (congrArg _ harrival)) _).trans hu) hin
  unfold State.endArrival
  extract_lets s1 s2
  have hs1 : s1.ihx = { s.ihx with transfers := s.ihx.transfers.filter (·.id != u.id), xferActive := s.ihx.xferActive - 1 } := by
    show ((s.dropArrival u).dropTransfer u.id).ihx = _
    rw [hdrop, harrival]
  have hs2 : s2.ihx = s1.ihx := by
    unfold s2
    split
    · exact State.complete_ihx ..
    · rfl
  rw [hs1] at hs2
  clear_value s1 s2
  have hport : s2.portTo u.peer = s.portTo u.peer := by simp only [State.portTo, hs2]
  have hup : (s2.ihxPort (s2.portTo u.peer)).trained = true := by
    rw [hport, ← htrained]
    simp only [State.ihxPort, hs2]
  show (s2.send (s2.portTo u.peer) 3 [u.id.toNat, told] []).ihx.sent = _
  rw [send_sent hup, hport, hs2]

end

end Sys2Proof.Machine
end

section
/-! ### A Transfer up to its handover (15 R486, R487; 16 R522) -/

namespace Sys2Proof.Machine

open Sys2Proof

/-! ### TRANSFER_OUT (15 R485, R486 step 1) -/

theorem State.mayOffer_reaches {s : State} {u : Transfer} {x : Stream} (h : s.mayOffer u x = true) : s.reaches u.peer = true := by
  simp only [State.mayOffer, Bool.and_eq_true] at h
  obtain ⟨⟨⟨hreach, -⟩, -⟩, -⟩ := h
  exact hreach

/-- The OFFER of a Transfer goes out. -/
def State.sendOffer (s : State) (u : Transfer) (x : Stream) (m : Model) (e : Session) : State :=
  (s.modTransfer u.id fun t => { t with stage := .offered }).send (s.portTo u.peer) 1 [] (offerBytes (s.offerOf u x m e))

theorem sendOffer_offers {s : State} {u : Transfer} {x : Stream} (hu : s.transfer u.id = some u) (hmay : s.mayOffer u x = true) (m : Model)
    (e : Session) : (s.sendOffer u x m e).transfer u.id = some { u with stage := .offered } ∧
      (s.sendOffer u x m e).ihx.sent = s.ihx.sent ++ [⟨s.portTo u.peer, 1, [], offerBytes (s.offerOf u x m e)⟩] := by
  refine ⟨?_, send_sent ?_ ..⟩
  · rw [State.sendOffer, State.transfer_send]
    exact State.transfer_modTransfer hu rfl
  · exact State.reaches_trained (State.mayOffer_reaches hmay)

section
variable {n k : Nat} {d : Desc} {x : Stream} {m : Model} {e : Session} {s : State} (hd : s.desc n k = some d) (hop : d.opcode = 0x0B)
  (hx : s.stream d.stream = some x) (hsess : x.session = n) (hm : s.model x.handle = some m) (he : s.session n = some e)
include hd hop hx hsess hm he

theorem execTransferOut_again {u : Transfer} (hu : s.transferOf n k = some u) (hwait : u.stage = .waiting) :
    exec (.transferOut n k) s = .next (if s.mayOffer u x = true then s.sendOffer u x m e else s) := by
  show execTransferOut n k s = _
  simp [execTransferOut, hd, hop, hx, hsess, hm, he, hu, hwait]
  rfl

/-- A TRANSFER_OUT that begins has its Transfer wait first. -/
theorem execTransferOut_begins (hof : s.transferOf n k = none) (hfree : s.transfer d.transferId = none) :
    exec (.transferOut n k) s = .next
      (if s.mayOffer (d.waiting true n d.target d.stream) x = true then
        (s.addTransfer true n d d.target d.stream).sendOffer (d.waiting true n d.target d.stream) x m e
      else s.addTransfer true n d d.target d.stream) := by
  obtain rfl := State.desc_seq hd
  have hframe : Frame [.ihx] s (s.addTransfer true n d d.target d.stream) := State.addTransfer_frame
  have hm1 := (congrFun (State.model_congr (hframe .models (by decide))) _).trans hm
  have he1 := (congrFun (State.session_congr (hframe .sessions (by decide))) _).trans he
  have hu := addTransfer_transferOf hfree true n d.target d.stream hof
  have hwait : (d.waiting true n d.target d.stream).stage = .waiting := rfl
  have hmay := addTransfer_mayOffer s true n d d.target d.stream (d.waiting true n d.target d.stream) x
  show execTransferOut n d.seq s = _
  simp [execTransferOut, hd, hop, hx, hsess, hof, hu, hm1, he1, hwait, hmay]
  rfl

end

/-! ### TRANSFER_IN and the OFFER (15 R486 step 2, R487) -/

theorem execTransferIn_waits {n k : Nat} {d : Desc} {s : State} (hd : s.desc n k = some d) (hop : d.opcode = 0x0C)
    (hstart : s.mayStart n d = true) (hnone : ∀ q ∈ s.ihx.offers, q.transferId ≠ d.transferId) :
    exec (.transferIn n k) s = .next
      ((s.modDesc n k fun d => { d with started := true }).addTransfer false n d d.source 16384) := by
  have hfind : ((s.modDesc n k fun d => { d with started := true }).addTransfer false n d d.source 16384).ihx.offers.find?
      (fun q => q.transferId == d.transferId) = none := by
    rw [addTransfer_offers, State.modDesc_ihx]
    exact List.find?_eq_none.mpr fun q hq => by simpa using hnone q hq
  show execTransferIn n k s = _
  simp [execTransferIn, hd, hop, hstart, hfind]

/-- The state without the OFFERs kept for a Transfer. -/
def State.withoutOffer (s : State) (id : DWord) : State :=
  { s with ihx := { s.ihx with offers := s.ihx.offers.filter fun q => q.transferId != id } }

section
variable {o : OfferMsg} {s : State} (hstate : s.ihx.state ≠ 0) (htrained : (s.ihxPort (s.portTo o.source)).trained = true)
  (hwired : (s.ihxPort (s.portTo o.source)).wiringErr = false) (hmember : o.source < 17) (hother : o.source ≠ s.ihx.member)
include hstate htrained hwired hmember hother

theorem execOffer_kept (hnone : s.transfer o.transferId = none) :
    exec (.offer o) s = .next { s with ihx := { s.ihx with
      offers := s.ihx.offers.filter (fun q => q.transferId != o.transferId) ++ [o] } } := by
  have hnone' : ∀ offers, State.transfer { s with ihx := { s.ihx with offers := offers } } o.transferId = none := fun _ => hnone
  show execOffer o s = _
  simp [execOffer, hstate, htrained, hwired, Nat.not_le.mpr hmember, hother, hnone']

variable {u : Transfer} (hu : s.transfer o.transferId = some u) (hin : u.outgoing = false) (hwait : u.stage = .waiting)
  (hpeer : u.peer = o.source) (hp : s.tb.pendingCfg = none)
include hu hin hwait hpeer hp

theorem execOffer_meets : ∃ v : State, exec (.offer o) s = .next (v.meetOffer u o) ∧ v.withoutOffer u.id = s.withoutOffer o.transferId := by
  have hid := State.transfer_id hu
  have hu' : ∀ offers, State.transfer { s with ihx := { s.ihx with offers := offers } } o.transferId = some u := fun _ => hu
  refine ⟨{ s with ihx := { s.ihx with offers := s.ihx.offers.filter (fun q => q.transferId != o.transferId) ++ [o] } }, ?_, ?_⟩
  · show execOffer o s = _
    simp [execOffer, hstate, htrained, hwired, Nat.not_le.mpr hmember, hother, hu', hin, hwait, hpeer, hp]
  · simp [State.withoutOffer, hid]

end

/-- The stream that an OFFER brings in, under an ID. -/
def State.arrivingStream (s : State) (u : Transfer) (o : OfferMsg) (m : Model) (id : Nat) : Stream :=
  { freshStream s id u.ring m o.rate 0 0 0 with keep := o.keep, fill := o.fill, transferring := true }

/-- The stream of an OFFER takes its place, and stays out of plans (15 R486 step 2). -/
def State.placeArrival (s : State) (u : Transfer) (o : OfferMsg) (a : Ask) (p : Place) (m : Model) : State :=
  let id := (freeKey s.streams 16384 0).getD 0
  (((s.commitPlace a p (s.arrivingStream u o m id)).clearPlace p).leaveOut id).bump 0x200 1

/-- A Transfer whose OFFER was admitted, for the stream of an ID, and its ACCEPT (15 R486 step 2). -/
def State.acceptOffer (s : State) (u : Transfer) (o : OfferMsg) (id : Nat) : State :=
  ((s.modTransfer u.id fun t => { t with stage := .accepted, stream := id, offer := some o, credits := !o.fill }).modDesc u.ring u.seq
    fun d => { d with link := id }).send (s.portTo u.peer) 2 [u.id.toNat] []

theorem acceptOffer_accepts {s : State} {u : Transfer} (hu : s.transfer u.id = some u) (o : OfferMsg) (id : Nat)
    (htrained : (s.ihxPort (s.portTo u.peer)).trained = true) :
    (s.acceptOffer u o id).transfer u.id = some { u with stage := .accepted, stream := id, offer := some o, credits := !o.fill } ∧
      (s.acceptOffer u o id).ihx.sent = s.ihx.sent ++ [⟨s.portTo u.peer, 2, [u.id.toNat], []⟩] := by
  constructor
  · rw [State.acceptOffer, State.transfer_send, State.transfer_modDesc]
    exact State.transfer_modTransfer hu rfl
  · exact send_sent (s := (s.modTransfer u.id _).modDesc u.ring u.seq _) htrained ..

theorem acceptOffer_frame {s : State} {u : Transfer} {o : OfferMsg} {id : Nat} : Frame [.rmk, .ihx] s (s.acceptOffer u o id) :=
  State.send_frame.comp (by decide) (State.modDesc_frame.comp (by decide) (State.modTransfer_frame.mono (by decide)))

/-- A stream that is left out of plans is there as it was. -/
theorem leaveOut_stream {s : State} {id : Nat} {y : Stream} (h : s.stream id = some y) :
    (s.leaveOut id).stream id = some { y with left := true } := by
  simp only [State.leaveOut, h]
  exact State.stream_setStream_again s h rfl

section
variable {s : State} {u : Transfer} {o : OfferMsg} {a : Ask} {p : Place} {m : Model}

theorem placeArrival_frame : Frame [.mem, .streams, .jobs, .hatch, .burin, .cnt] s (s.placeArrival u o a p m) :=
  State.bump_frame.comp (by decide) (State.leaveOut_frame.comp (by decide) (State.clearPlace_frame.comp (by decide)
    (State.commitPlace_frame.mono (by decide))))

theorem placeArrival_stream (hm : s.model a.handle = some m) :
    ∃ y, (s.placeArrival u o a p m).stream ((freeKey s.streams 16384 0).getD 0) = some y ∧ y.session = u.ring ∧ y.transferring = true := by
  unfold State.placeArrival
  extract_lets id
  obtain ⟨y, hy, hplaced⟩ := (commitPlace_places hm p (s.arrivingStream u o m id)).congr
    ((State.clearPlace_frame (p := p)).stream (by decide))
  refine ⟨{ y with left := true }, leaveOut_stream hy, ?_, ?_⟩
  · exact (congrArg Stream.session hplaced :)
  · exact (congrArg Stream.transferring hplaced :)

end

section
variable {v w : State} {u : Transfer} {o : OfferMsg} {d : Desc} (hw : v.withoutOffer u.id = w) (hd : w.desc u.ring u.seq = some d)
include hw hd

theorem meetOffer_fails {r : Nat} (hr : w.offerReason u.ring d o = some r) : v.meetOffer u o = w.endArrival u stTransferFailed r r := by
  unfold State.meetOffer
  extract_lets _ s1
  obtain rfl : s1 = w := hw
  simp only [hd, hr]

variable (hr : w.offerReason u.ring d o = none)
include hr

theorem meetOffer_refuses {e : Nat}
    (ha : w.admitArrival ⟨u.ring, d.handle, w.tb.season, o.rate, o.keep, o.fill, none, [d.handle]⟩ u.peer = .error e) :
    v.meetOffer u o = ((w.bump 0x201 1).writeTrace 0x82 (srcOf 8 u.ring) e).endArrival u stAdmissionRefused e 4 := by
  unfold State.meetOffer
  extract_lets _ s1
  obtain rfl : s1 = w := hw
  simp only [hd, hr, ha]

/-- An OFFER that is admitted has a stream at its place, and ACCEPT answers. -/
theorem meetOffer_admits {p : Place} {m : Model} {a : Ask}
    (hask : a = ⟨u.ring, d.handle, w.tb.season, o.rate, o.keep, o.fill, none, [d.handle]⟩)
    (ha : w.admitArrival a u.peer = .ok p) (hm : w.model d.handle = some m) :
    v.meetOffer u o = (w.placeArrival u o a p m).acceptOffer u o ((freeKey w.streams 16384 0).getD 0) := by
  unfold State.meetOffer
  extract_lets _ s1
  obtain rfl : s1 = w := hw
  subst hask
  simp only [hd, hr, ha, hm]
  rfl

end

/-! ### What an OFFER that meets its TRANSFER_IN leaves (15 R486 step 2, R487) -/

section
variable {w : State} {u : Transfer} (hu : w.transfer u.id = some u) (htrained : (w.ihxPort (w.portTo u.peer)).trained = true)
include hu htrained

/-- A check that fails ends the Transfer, and the source is told its DETAIL. -/
theorem failedArrival_ends {d : Desc} (hd : w.desc u.ring u.seq = some d) (hin : u.outgoing = false) (r : Nat) :
    let t := w.endArrival u stTransferFailed r r
    Retired t u.ring d { status := stTransferFailed, detail := r } ∧ t.transfer u.id = none ∧
      t.ihx.sent = w.ihx.sent ++ [⟨w.portTo u.peer, 3, [u.id.toNat, r], []⟩] := by
  intro t
  obtain ⟨hretired, hgone⟩ := endArrival_ends stTransferFailed r r hd
  exact ⟨hretired, hgone, endArrival_tells stTransferFailed r r hu hin htrained⟩

/-- A refusal by admission ends the Transfer, and the source is told DETAIL 4. -/
theorem refusedArrival_ends {d : Desc} (hd : w.desc u.ring u.seq = some d) (hin : u.outgoing = false) (r : Nat) :
    let t := ((w.bump 0x201 1).writeTrace 0x82 (srcOf 8 u.ring) r).endArrival u stAdmissionRefused r 4
    Retired t u.ring d { status := stAdmissionRefused, detail := r } ∧ t.transfer u.id = none ∧
      t.ihx.sent = w.ihx.sent ++ [⟨w.portTo u.peer, 3, [u.id.toNat, 4], []⟩] := by
  have hframe : Frame [.evt, .cnt, .host] w ((w.bump 0x201 1).writeTrace 0x82 (srcOf 8 u.ring) r) :=
    State.writeTrace_frame.comp (by decide) (State.bump_frame.mono (by decide))
  have hihx := hframe .ihx (by decide)
  intro t
  obtain ⟨hretired, hgone⟩ := endArrival_ends stAdmissionRefused r 4
    ((congrFun (State.desc_congr (hframe .rmk (by decide)) _) _).trans hd)
  have htold := endArrival_tells stAdmissionRefused r 4 ((congrFun (State.transfer_congr (congrArg _ hihx)) _).trans hu) hin
    (by rw [State.ihxPort_congr hihx, State.portTo_congr hihx, htrained])
  rw [State.portTo_congr hihx, hihx] at htold
  exact ⟨hretired, hgone, htold⟩

/-- An admission has its stream, which the Transfer brings in, and ACCEPT answers. -/
theorem placedArrival_accepts {o : OfferMsg} {a : Ask} {p : Place} {m : Model} (hm : w.model a.handle = some m) :
    let t := (w.placeArrival u o a p m).acceptOffer u o ((freeKey w.streams 16384 0).getD 0)
    (∃ u', t.transfer u.id = some u' ∧ u'.stage = .accepted ∧ u'.offer = some o ∧
      ∃ y, t.stream u'.stream = some y ∧ y.session = u.ring ∧ y.transferring = true) ∧
    t.ihx.sent = w.ihx.sent ++ [⟨w.portTo u.peer, 2, [u.id.toNat], []⟩] := by
  have hihx := placeArrival_frame (s := w) (u := u) (o := o) (a := a) (p := p) (m := m) .ihx (by decide)
  obtain ⟨y, hy, hsess, harriving⟩ := placeArrival_stream (u := u) (o := o) (p := p) hm
  intro t
  obtain ⟨haccepted, hsent⟩ := acceptOffer_accepts ((congrFun (State.transfer_congr (congrArg _ hihx)) _).trans hu) o
    ((freeKey w.streams 16384 0).getD 0) (by rw [State.ihxPort_congr hihx, State.portTo_congr hihx, htrained])
  rw [State.portTo_congr hihx, hihx] at hsent
  exact ⟨⟨_, haccepted, rfl, rfl, y, (congrFun (acceptOffer_frame.stream (by decide)) _).trans hy, hsess, harriving⟩, hsent⟩

end

/-! ### ACCEPT and CONFIRM (15 R479, R486 step 3) -/

/-- The request credits that a Transfer takes of the port to its peer (15 R479). -/
def State.takeCredits (s : State) (u : Transfer) (x : Stream) : State :=
  if x.fill then s
  else s.setIhxPort (s.portTo u.peer) { s.ihxPort (s.portTo u.peer) with vc1Live := (s.ihxPort (s.portTo u.peer)).vc1Live - 256 }

section
variable (s : State) (u : Transfer) (x : Stream)

theorem takeCredits_transfer : (s.takeCredits u x).transfer = s.transfer := by
  unfold State.takeCredits
  split <;> rfl

theorem takeCredits_sent : (s.takeCredits u x).ihx.sent = s.ihx.sent := by
  unfold State.takeCredits
  split <;> rfl

theorem takeCredits_port : (s.takeCredits u x).ihxPort (s.portTo u.peer) = { s.ihxPort (s.portTo u.peer) with
    vc1Live := (s.ihxPort (s.portTo u.peer)).vc1Live - if x.fill then 0 else 256 } := by
  unfold State.takeCredits
  split
  · rfl
  · exact State.ihxPort_setIhxPort ..

end

section
variable {id : DWord} {u : Transfer} {s : State} (hu : s.transfer id = some u)
include hu

theorem execAccept_takes {x : Stream} (hx : s.stream u.stream = some x) (hout : u.outgoing = true) (hoffered : u.stage = .offered) :
    exec (.accept id) s = .next (((s.takeCredits u x).modTransfer id fun t =>
      { t with stage := .confirmed, handover := s.tb.frameOrd + 2, credits := !x.fill }).send (s.portTo u.peer) 4
        [id.toNat, s.tb.frame.toNat + 2] []) := by
  obtain rfl := State.transfer_id hu
  show execAccept u.id s = _
  simp only [execAccept, hu, hx, hout, hoffered, State.takeCredits]
  cases x.fill <;> rfl

theorem execConfirm_learns (hin : u.outgoing = false) (haccepted : u.stage = .accepted) (frame : BitVec 48) :
    exec (.confirm id frame) s = .next (s.modTransfer id fun t =>
      { t with stage := .confirmed, handover := s.tb.frameOrd + (frame - s.tb.frame).toNat }) := by
  obtain rfl := State.transfer_id hu
  show execConfirm u.id frame s = _
  simp [execConfirm, hu, hin, haccepted]

end

/-- Settles O27: TRANSFER_OUT by whether the source may offer; TRANSFER_IN with no OFFER; an OFFER by whether a TRANSFER_IN waits, then by the
checks and admission; ACCEPT and CONFIRM by the Transfer that they change. -/
theorem transferToHandover : Obligations.TransferToHandover := by
  unfold Obligations.TransferToHandover
  refine ⟨fun n k d x m e s hd hop hseq hx hsess hm he hof hfree => ?_, fun n k d x m e u s hd hop hx hsess hm he hof hu hwait hmay => ?_,
    fun n k d s hd hop hseq hstart hof hfree hnone => ?_, fun o s hstate htrained hwired hmember hother hfree => ?_,
    fun o u d s hstate htrained hwired hmember hother hu hin hwait hpeer hp hd hstream => ?_,
    fun id u x s hu hx hout hoffered => ?_, fun id frame u s hu hin haccepted => ?_⟩
  · have hexec := execTransferOut_begins hd hop hx hsess hm he hof hfree
    have hu := addTransfer_transfer hfree true n d.target d.stream
    refine ⟨_, hexec, exec_frame hexec, ?_⟩
    by_cases hmay : s.mayOffer (d.waiting true n d.target d.stream) x = true
    · obtain ⟨hoffered, hsent⟩ := sendOffer_offers hu ((addTransfer_mayOffer ..).trans hmay) m e
      rw [if_pos hmay]
      refine ⟨_, hoffered, rfl, rfl, hseq, rfl, rfl, fun _ => ⟨rfl, ?_⟩, fun hnot => absurd hmay (Bool.eq_false_iff.mp hnot)⟩
      rw [hsent, addTransfer_sent, addTransfer_portTo, addTransfer_offerOf]
      rfl
    · rw [if_neg hmay]
      exact ⟨_, hu, rfl, rfl, hseq, rfl, rfl, fun h => absurd h hmay, fun _ => ⟨rfl, addTransfer_sent ..⟩⟩
  · have hexec := execTransferOut_again hd hop hx hsess hm he hof hwait
    rw [if_pos hmay] at hexec
    obtain ⟨hoffered, hsent⟩ := sendOffer_offers hu hmay m e
    exact ⟨_, hexec, hoffered, hsent, exec_frame hexec⟩
  · have hframe : Frame [.rmk] s (s.modDesc n k fun d => { d with started := true }) := State.modDesc_frame
    refine ⟨_, execTransferIn_waits hd hop hstart hnone, ?_, State.addTransfer_frame.comp (by decide) (hframe.mono (by decide)), _,
      addTransfer_transfer ?_ .., rfl, rfl, rfl, rfl, hseq⟩
    · rw [State.desc_congr (State.addTransfer_frame .rmk (by decide))]
      exact State.desc_modDesc hd fun _ he => he
    · rwa [State.transfer_modDesc]
  · exact execOffer_kept hstate htrained hwired hmember hother hfree
  · intro s' a
    obtain ⟨v, hexec, hw⟩ := execOffer_meets hstate htrained hwired hmember hother hu hin hwait hpeer hp
    have hid := State.transfer_id hu
    have hu' : (s.withoutOffer o.transferId).transfer u.id = some u := hid.symm ▸ hu
    have hup : ((s.withoutOffer o.transferId).ihxPort ((s.withoutOffer o.transferId).portTo u.peer)).trained = true := hpeer ▸ htrained
    refine ⟨_, hexec, fun r hr => ?_, fun r hr ha => ?_, fun p m hr ha hm => ?_⟩
    · have hends := failedArrival_ends hu' hup hd hin r
      rw [hid] at hends
      exact meetOffer_fails hw hd hr ▸ hends
    · have hends := refusedArrival_ends hu' hup hd hin r
      rw [hid] at hends
      exact meetOffer_refuses hw hd hr ha ▸ hends
    · have haccepts := placedArrival_accepts hu' hup (o := o) (a := a) (p := p) hm
      rw [hid] at haccepts
      exact meetOffer_admits hw hd hr rfl ha hm ▸ haccepts
  · have hexec := execAccept_takes hu hx hout hoffered
    refine ⟨_, hexec, ?_, ?_, ?_, exec_frame hexec⟩
    · rw [State.transfer_send]
      exact State.transfer_modTransfer ((congrFun (takeCredits_transfer s u x) _).trans hu) (State.transfer_id hu :)
    · rw [send_says]
      show (s.takeCredits u x).ihx.sent ++ (if ((s.takeCredits u x).ihxPort (s.portTo u.peer)).trained = true then _ else _) = _
      rw [takeCredits_sent, takeCredits_port]
    · rw [State.ihxPort_send]
      exact congrArg IhxPort.vc1Live (takeCredits_port s u x)
  · have hexec := execConfirm_learns hu hin haccepted frame
    exact ⟨_, hexec, State.transfer_modTransfer hu (State.transfer_id hu :), exec_frame hexec⟩

end Sys2Proof.Machine
end

section
/-! ### How a Transfer ends (15 R483, R486 to R491) -/

namespace Sys2Proof.Machine

open Sys2Proof

/-! ### The envelope (15 R486 step 7, R489) -/

/-- The state behind the arrival of an envelope of `n` bytes: charged to the stream's job and counted at its port. -/
def State.envelopeTaken (s : State) (u : Transfer) (x : Stream) (n : Nat) : State :=
  (s.charge x.session (some x.job) { Account.zero with ihlauxIn := n }).bump (0x150 + s.portTo u.peer) n

theorem envelopeTaken_charged (s : State) (u : Transfer) (x : Stream) (n : Nat) : Frame chargeBlocks s (s.envelopeTaken u x n) :=
  State.bump_charged (State.charge_charged .refl)

/-- The Transfer of an arrived stream is imported, and IMPORTED goes to the manager. -/
def State.sendImported (s : State) (u : Transfer) (x : Stream) : State :=
  (s.modTransfer u.id fun t => { t with stage := .imported }).send (s.portTo 0) 6 [u.id.toNat, x.id, x.session] []

theorem sendImported_imports {s : State} {u : Transfer} (hu : s.transfer u.id = some u) (x : Stream) :
    (s.sendImported u x).transfer u.id = some { u with stage := .imported } ∧ (s.sendImported u x).ihx.sent =
      s.ihx.sent ++ if (s.ihxPort (s.portTo 0)).trained = true then [⟨s.portTo 0, 6, [u.id.toNat, x.id, x.session], []⟩] else [] := by
  refine ⟨?_, send_says ..⟩
  rw [State.sendImported, State.transfer_send]
  exact State.transfer_modTransfer hu rfl

theorem sendImported_frame {s : State} {u : Transfer} {x : Stream} : Frame [.ihx] s (s.sendImported u x) :=
  State.send_frame.comp (List.Subset.refl _) State.modTransfer_frame

theorem importStream_stream (s : State) (image : List Byte) (y : Stream) : (s.importStream image y).stream y.id = some y := by
  unfold State.importStream
  extract_lets s1
  have hs1 : s1.stream y.id = some y := State.stream_setStream s y
  split
  · exact hs1
  · exact hs1

/-- What an import leaves of the Transfer, of the messages and of the stream (15 R486 step 7). -/
theorem importArrival_imports {s : State} {u : Transfer} (hu : s.transfer u.id = some u) (image : List Byte) (x y : Stream) :
    let t := (s.importStream image y).sendImported u x
    t.transfer u.id = some { u with stage := .imported } ∧ t.ihx.sent =
      s.ihx.sent ++ (if (s.ihxPort (s.portTo 0)).trained = true then [⟨s.portTo 0, 6, [u.id.toNat, x.id, x.session], []⟩] else []) ∧
    t.stream y.id = some y := by
  have hihx : (s.importStream image y).ihx = s.ihx := State.importStream_frame .ihx (by decide)
  obtain ⟨himported, hsent⟩ := sendImported_imports ((congrFun (State.transfer_congr (congrArg _ hihx)) _).trans hu) x
  rw [State.ihxPort_congr hihx, State.portTo_congr hihx, hihx] at hsent
  exact ⟨himported, hsent, (congrFun (sendImported_frame.stream (by decide)) _).trans (importStream_stream s image y)⟩

section
variable {b : List Byte} {rendering : Bool} {u : Transfer} {x : Stream} {m : Model} {s : State}
  (hu : s.transfer (BitVec.ofNat 64 (num b 8 8)) = some u) (hx : s.stream u.stream = some x) (hm : s.model x.handle = some m)
  (hin : u.outgoing = false) (hconfirmed : u.stage = .confirmed)
include hu hx hm hin hconfirmed

/-- An envelope is rejected by the first check that it fails, or imports. -/
theorem execEnvelope_checked : exec (.envelope ⟨b, rendering⟩) s = .next
    (match if envelopeOk b then recordReason m.image (envelopeExport b) x.rate s.tb.season else some 1 with
    | some k => (s.envelopeTaken u x b.length).endArrival u stStateRejected k 7
    | none => ((s.envelopeTaken u x b.length).importStream m.image
        (importedStream (s.envelopeTaken u x b.length) u b rendering x)).sendImported u x) := by
  show execEnvelope ⟨b, rendering⟩ s = _
  have htb := (envelopeTaken_charged s u x b.length).charged_tb
  simp only [execEnvelope, hu, hx, hm, hin, hconfirmed, ← htb]
  rw [if_neg (by decide)]
  rfl

end

/-! ### IMPORTED on the manager (15 R483, R486 step 8) -/

theorem State.directory_send (s : State) (port kind : Nat) (body : List Nat) (bytes : List Byte) :
    (s.send port kind body bytes).ihx.directory = s.ihx.directory := by
  obtain ⟨sent, wire, frames, h⟩ := send_ihx s port kind body bytes
  rw [h]

theorem tellOwner_sends {s : State} {member : Nat} (h : member ≠ s.ihx.member) (id : DWord) (destination : Bool) :
    s.tellOwner member id destination = s.send (s.portTo member) 7 [id.toNat, bit destination 0] [] := by
  simp [State.tellOwner, h]

/-- The manager tells two other members who owns the stream of a Transfer. -/
def State.tellOwners (s : State) (a b : Nat) (id : DWord) (destination : Bool) : State :=
  (s.tellOwner a id destination).tellOwner b id destination

section
variable {s : State} {a b : Nat} (ha : a ≠ s.ihx.member) (hb : b ≠ s.ihx.member) (id : DWord) (destination : Bool)
include ha hb

theorem tellOwners_sends : s.tellOwners a b id destination =
    (s.send (s.portTo a) 7 [id.toNat, bit destination 0] []).send (s.portTo b) 7 [id.toNat, bit destination 0] [] := by
  obtain ⟨sent, wire, frames, h⟩ := send_ihx s (s.portTo a) 7 [id.toNat, bit destination 0] []
  rw [State.tellOwners, tellOwner_sends ha, tellOwner_sends (by rw [h]; exact hb), State.portTo_send]

theorem tellOwners_says : (s.tellOwners a b id destination).ihx.sent = s.ihx.sent ++
    (([s.portTo a, s.portTo b]).filter fun p => (s.ihxPort p).trained).map fun p => ⟨p, 7, [id.toNat, bit destination 0], []⟩ := by
  rw [tellOwners_sends ha hb, send_says, send_says, State.ihxPort_send, List.append_assoc]
  cases hta : (s.ihxPort (s.portTo a)).trained <;> cases htb : (s.ihxPort (s.portTo b)).trained <;> simp [hta, htb]

theorem tellOwners_directory : (s.tellOwners a b id destination).ihx.directory = s.ihx.directory := by
  rw [tellOwners_sends ha hb, State.directory_send, State.directory_send]

theorem tellOwners_frame : Frame [.ihx] s (s.tellOwners a b id destination) := by
  rw [tellOwners_sends ha hb]
  exact State.send_frame.comp (List.Subset.refl _) State.send_frame

end

/-- The manager with another directory. -/
def State.withDirectory (s : State) (l : Tab DirEntry) : State := { s with ihx := { s.ihx with directory := l } }

section
variable {id : DWord} {src dst sess : Nat} {s : State} (hrole : s.ihx.role = 1) (hstate : s.ihx.state = 2)
include hrole hstate

/-- IMPORTED commits the Transfer of a stream that the directory lists. -/
theorem execImported_commits {e : DirEntry} (he : tabGet s.ihx.directory src = some e) :
    exec (.imported id src dst sess) s = .next
      ((s.withDirectory (tabSet (tabErase s.ihx.directory src) dst { e with session := sess, moving := false })).tellOwners
        (src / 16384) (dst / 16384) id true) := by
  show execImported id src dst sess s = _
  unfold execImported
  rw [if_neg (by simp [hrole, hstate]), he]
  rfl

/-- A source whose stream the directory does not list keeps it. -/
theorem execImported_unlisted (he : tabGet s.ihx.directory src = none) :
    exec (.imported id src dst sess) s = .next (s.tellOwners (src / 16384) (dst / 16384) id false) := by
  show execImported id src dst sess s = _
  unfold execImported
  rw [if_neg (by simp [hrole, hstate]), he]
  rfl

end

/-! ### OWNER (15 R486 step 8, R490, R491) -/

/-- The source's stream leaves, and its descriptor completes. -/
theorem depart_ends (s : State) (u : Transfer) (d : Desc) (x : Stream) :
    Retired (s.depart u d x) u.ring d { status := stSuccess } ∧ (s.depart u d x).transfer u.id = none ∧
      ∃ y, (s.depart u d x).stream x.id = some y ∧ y.phase = .closed ∧ y.left = true := by
  unfold State.depart
  extract_lets s1 s2 s3
  refine ⟨State.complete_retired .., ?_,
    { x with phase := .closed, left := true, records := [], controls := [], burinChunks := [], current := none }, ?_, rfl, rfl⟩
  · rw [State.transfer_complete, State.transfer_bump, dropTransfer_gone]
  · have hframe : Frame [.rmk, .ihx, .cnt] s3 (((s3.dropTransfer u.id).bump 0x162 1).complete u.ring d { status := stSuccess }) :=
      State.complete_frame.comp (by decide) (State.bump_frame.comp (by decide) (State.dropTransfer_frame.mono (by decide)))
    exact (congrFun (hframe.stream (by decide)) _).trans (State.stream_setStream s2 _)

/-- The destination's stream has its place in the session, and its descriptor completes. -/
theorem arrive_ends {s : State} {u : Transfer} (hlate : s.tb.frameOrd ≠ u.handover) (d : Desc) (x : Stream) :
    Retired (s.arrive u d x) u.ring d { status := stSuccess, result := x.id, count := x.headAt } ∧
      (s.arrive u d x).transfer u.id = none ∧ ∃ y, (s.arrive u d x).stream x.id = some y ∧ y.transferring = false := by
  unfold State.arrive
  extract_lets ord s1 y s2 s3
  have hframe : Frame [.rmk, .ihx, .cnt] (s1.setStream y) s3 :=
    State.complete_frame.comp (by decide) (State.bump_frame.comp (by decide) (State.dropTransfer_frame.mono (by decide)))
  have hs1 : s1.tb = s.tb := by
    unfold s1
    split <;> rfl
  have htb : s3.tb = s.tb := (hframe .tb (by decide)).trans hs1
  rw [if_neg (by simp [htb, hlate])]
  refine ⟨State.complete_retired .., ?_, y, ?_, rfl⟩
  · unfold s3 s2
    rw [State.transfer_complete, State.transfer_bump, dropTransfer_gone]
  · exact (congrFun (hframe.stream (by decide)) _).trans (State.stream_setStream s1 y)

section
variable {id : DWord} {u : Transfer} {d : Desc} {x : Stream} {s : State} (hu : s.transfer id = some u) (hd : s.desc u.ring u.seq = some d)
  (hx : s.stream u.stream = some x)
include hu hd hx

theorem execOwner_departs (hout : u.outgoing = true) (hsent : u.stage = .sent) : exec (.owner id true) s = .next (s.depart u d x) := by
  show execOwner id true s = _
  simp [execOwner, State.owner, hu, hd, hx, hout, hsent]

theorem execOwner_arrives (hin : u.outgoing = false) (himported : u.stage = .imported) :
    exec (.owner id true) s = .next (s.arrive u d x) := by
  show execOwner id true s = _
  simp [execOwner, State.owner, hu, hd, hx, hin, himported]

theorem execOwner_stays : exec (.owner id false) s = .next
    (if u.outgoing = true then failTransfer u 8 s else s.endArrival u stTransferFailed 8 8) := by
  show execOwner id false s = _
  simp [execOwner, State.owner, hu, hd, hx]

end

/-! ### REFUSE and TRANSFER_PARTNER_TIMEOUT (15 R486, R487, R490) -/

/-- The source keeps the stream of a Transfer that ends before commit (15 R490). -/
def State.keepSource (s : State) (u : Transfer) : State :=
  match s.stream u.stream with
  | some x => if u.outgoing then s.setStream (x.stays s.tb.frameOrd u) else s
  | none => s

theorem keepSource_frame {s : State} {u : Transfer} : Frame [.streams] s (s.keepSource u) := by
  unfold State.keepSource
  split
  · exact .ite (fun _ => State.setStream_frame) fun _ => .refl
  · exact .refl

section
variable {id : DWord} {u : Transfer} {d : Desc} {s : State} (hu : s.transfer id = some u) (hd : s.desc u.ring u.seq = some d)
include hu hd

/-- A Transfer that its partner refuses ends, and its descriptor completes with the partner's DETAIL. -/
theorem execRefuse_ends (detail : Nat) : exec (.refuse id detail) s = .next
    ((((((s.withoutOffer id).dropArrival u).keepSource u).complete u.ring d { status := stTransferFailed, detail := detail }).dropTransfer
      id).bump 0x163 1) := by
  obtain rfl := State.transfer_id hu
  have hu' : (s.withoutOffer u.id).transfer u.id = some u := hu
  have hdesc : (((s.withoutOffer u.id).dropArrival u).keepSource u).desc u.ring u.seq = some d := by
    rw [State.desc_congr (keepSource_frame .rmk (by decide)), State.desc_congr (State.dropArrival_frame .rmk (by decide))]
    exact hd
  show execRefuse u.id detail s = _
  unfold execRefuse
  extract_lets _ s0
  have hs0 : s0 = s.withoutOffer u.id := rfl
  clear_value s0
  simp -zeta only [hs0, hu']
  extract_lets s1 s2 s3
  have hs2 : s2 = ((s.withoutOffer u.id).dropArrival u).keepSource u := rfl
  have hs3 : s3 = s2.complete u.ring d { status := stTransferFailed, detail := detail } := by
    unfold s3
    rw [hs2, hdesc]
  rw [hs3, hs2]

end

section
variable {n k : Nat} {d : Desc} {s : State} (hd : s.desc n k = some d)
include hd

theorem execTransferPartnerTimeout_fails {u : Transfer} (hop : d.opcode = 0x0B ∨ d.opcode = 0x0C)
    (hlate : d.acceptedAt + 24576000 ≤ s.tb.sub) (hu : s.transferOf n k = some u) (hstage : u.stage = .waiting ∨ u.stage = .offered) :
    exec (.transferPartnerTimeout n k) s = .next (failTransfer u 1 s) := by
  show execTransferPartnerTimeout n k s = _
  unfold execTransferPartnerTimeout
  simp only [hd, hu]
  rw [if_neg (by simp; omega), if_pos (by simpa using hstage)]

end

/-- A Transfer read by its descriptor is that descriptor's. -/
theorem State.transferOf_desc {s : State} {n k : Nat} {u : Transfer} (h : s.transferOf n k = some u) : u.ring = n ∧ u.seq = k := by
  simpa using List.find?_some (p := fun t : Transfer => t.ring == n && t.seq == k) h

/-- Settles O28: an envelope by the first check that it fails; IMPORTED by whether the directory lists the stream; OWNER, REFUSE and the
timeout by the end that the Transfer takes on this member. -/
theorem transferEnds : Obligations.TransferEnds := by
  unfold Obligations.TransferEnds
  refine ⟨fun b rendering u x m d s hu hx hid hm hin hconfirmed hd => ?_, fun id src dst sess s hrole hstate hsrc hdst => ?_,
    fun id u d x s hu hd hx hid => ⟨fun hout hsent => ?_, fun hin himported hlate => ?_, ?_⟩,
    fun id detail u d s hu hd => ⟨_, execRefuse_ends hu hd detail, ?_, ?_⟩,
    fun n k u d s hd hop hlate hu hstage => ?_⟩
  · have hexec := execEnvelope_checked (rendering := rendering) hu hx hm hin hconfirmed
    have hnum : u.id = BitVec.ofNat 64 (num b 8 8) := State.transfer_id hu
    have hbody : u.id.toNat = num b 8 8 % 2 ^ 64 := by rw [hnum, BitVec.toNat_ofNat]
    have hframe := envelopeTaken_charged s u x b.length
    have hihx : (s.envelopeTaken u x b.length).ihx = s.ihx := hframe .ihx (by decide)
    have hu' := (congrFun (State.transfer_congr (congrArg _ hihx)) u.id).trans (hnum ▸ hu)
    have hd' := (congrFun (hframe.charged_desc _) _).trans hd
    refine ⟨_, hexec, fun hok hr => ?_, fun k hok hr => ?_, fun hok => ?_⟩
    · obtain ⟨himported, hsent, hstream⟩ := importArrival_imports hu' m.image x
        (importedStream (s.envelopeTaken u x b.length) u b rendering x)
      rw [State.ihxPort_congr hihx, State.portTo_congr hihx, hihx, hbody] at hsent
      rw [hok, if_pos rfl, hr, ← hnum]
      refine ⟨himported, hsent, _, hid ▸ hstream, rfl, rfl, rfl, ?_⟩
      cases rendering
      · exact ⟨nofun, nofun⟩
      · exact ⟨fun _ => rfl, fun _ => rfl⟩
    · rw [hok, if_pos rfl, hr, ← hnum]
      exact endArrival_ends stStateRejected k 7 hd'
    · rw [hok, if_neg Bool.false_ne_true, ← hnum]
      exact endArrival_ends stStateRejected 1 7 hd'
  · intro told
    cases he : tabGet s.ihx.directory src with
    | some e =>
      have hexec := execImported_commits (id := id) (dst := dst) (sess := sess) hrole hstate he
      have hsrc' {l} : src / 16384 ≠ (s.withDirectory l).ihx.member := hsrc
      have hdst' {l} : dst / 16384 ≠ (s.withDirectory l).ihx.member := hdst
      refine ⟨_, hexec, fun _ he' => Option.some.inj he' ▸ ⟨?_, ?_⟩, nofun, ?_⟩
      · exact tellOwners_directory hsrc' hdst' ..
      · exact tellOwners_says hsrc' hdst' ..
      · exact (tellOwners_frame hsrc' hdst' id true).comp (List.Subset.refl _) (setIhx_frame s _)
    | none =>
      have hexec := execImported_unlisted (id := id) (dst := dst) (sess := sess) hrole hstate he
      exact ⟨_, hexec, nofun, fun _ => ⟨tellOwners_directory hsrc hdst .., tellOwners_says hsrc hdst ..⟩,
        tellOwners_frame hsrc hdst id false⟩
  · obtain rfl := State.transfer_id hu
    exact ⟨_, execOwner_departs hu hd hx hout hsent, hid ▸ depart_ends s u d x⟩
  · obtain rfl := State.transfer_id hu
    exact ⟨_, execOwner_arrives hu hd hx hin himported, hid ▸ arrive_ends hlate d x⟩
  · obtain rfl := State.transfer_id hu
    refine ⟨_, execOwner_stays hu hd hx, ?_⟩
    split
    · exact failTransfer_ends hd 8
    · exact endArrival_ends stTransferFailed 8 8 hd
  · exact (State.complete_retired ..).frame (L := [.ihx, .cnt])
      (State.bump_frame.comp (by decide) (State.dropTransfer_frame.mono (by decide))) rfl
  · rw [State.transfer_bump, dropTransfer_gone]
  · have hexec := execTransferPartnerTimeout_fails hd hop hlate hu hstage
    obtain ⟨rfl, rfl⟩ := State.transferOf_desc hu
    obtain ⟨hretired, hgone⟩ := failTransfer_ends hd 1
    exact ⟨_, hexec, hretired, hgone, exec_frame hexec⟩

end Sys2Proof.Machine
end

section
/-! ### Fill jobs moved to another member and back (15 R481, R482) -/

namespace Sys2Proof.Machine

open Sys2Proof

/-! ### A job that is moved, and its output that comes back (15 R482) -/

/-- What a moved job takes with it: its save area, the two images, and what its output and scratch regions hold (15 R482). -/
def State.offloadBytes (s : State) (j : Job) (a : SaveArea) (m v : Model) : List Byte :=
  saveBytes m.image a j.id ++ m.image ++ v.image ++ memBytes j.output 0 (((j.output.getLast?).map fun c => c.1 + 1).getD 0) ++
    s.scratchBytes j

/-- A job that goes to a member with so many bytes (15 R482). -/
def State.sendAway (s : State) (j : Job) (member : Nat) (b : List Byte) : State :=
  ((((s.setJob { j with away := some member, waits := 0 }).send (s.portTo member) 17 [j.id] b).charge j.session (some j.id)
    { Account.zero with ihlauxOut := b.length })).bump (0x140 + s.portTo member) b.length

theorem sendAway_moves {s : State} (j : Job) {member : Nat} (htrained : (s.ihxPort (s.portTo member)).trained = true) (b : List Byte) :
    (∃ k, (s.sendAway j member b).job j.id = some k ∧ k.away = some member ∧ k.state = j.state) ∧
      (s.sendAway j member b).ihx.sent = s.ihx.sent ++ [⟨s.portTo member, 17, [j.id], b⟩] := by
  have hjob : ((s.setJob { j with away := some member, waits := 0 }).send (s.portTo member) 17 [j.id] b).job j.id =
      some { j with away := some member, waits := 0 } :=
    (congrFun (State.job_congr (State.send_jobs ..)) _).trans (State.job_setJob s { j with away := some member, waits := 0 })
  refine ⟨⟨_, State.charge_job hjob _ _, rfl, rfl⟩, ?_⟩
  refine (congrArg Ihx.sent (State.charge_ihx ..)).trans ?_
  exact send_sent (s := s.setJob _) htrained ..

theorem sendAway_frame {s : State} {j : Job} {member : Nat} {b : List Byte} :
    Frame [.sessions, .jobs, .ihx, .cnt, .tallies] s (s.sendAway j member b) :=
  State.bump_frame.comp (by decide) (State.charge_frame.comp (by decide) (State.send_frame.comp (by decide)
    (State.setJob_frame.mono (by decide))))

/-- A job whose output region has come back from the member that had it (15 R482). -/
def State.takeBack (s : State) (j : Job) (member n : Nat) (b : List Byte) : State :=
  ((s.setJob { j with away := none, optStep := n, output := memStore [] 0 b }).charge j.session (some j.id)
    { Account.zero with ihlauxIn := b.length }).bump (0x150 + s.portTo member) b.length

theorem memRead_memStore_getD (b : List Byte) {i : Nat} (h : i < b.length) : memRead (memStore [] 0 b) i = b.getD i 0 := by
  have hin := memRead_memStore_in [] 0 b h
  rw [Nat.zero_add] at hin
  rw [hin, List.getD_eq_getElem _ _ h]

theorem takeBack_returns (s : State) (j : Job) (member n : Nat) (b : List Byte) :
    ∃ k, (s.takeBack j member n b).job j.id = some k ∧ k.away = none ∧ k.optStep = n ∧ ∀ i, i < b.length → memRead k.output i = b.getD i 0 :=
  ⟨_, State.charge_job (State.job_setJob s { j with away := none, optStep := n, output := memStore [] 0 b }) _ _, rfl, rfl,
    fun _ => memRead_memStore_getD b⟩

theorem takeBack_frame {s : State} {j : Job} {member n : Nat} {b : List Byte} :
    Frame [.sessions, .jobs, .cnt, .tallies] s (s.takeBack j member n b) :=
  State.bump_frame.comp (by decide) (State.charge_frame.comp (by decide) (State.setJob_frame.mono (by decide)))

section
variable {id : Nat} {j : Job} {s : State} (hj : s.job id = some j)
include hj

theorem execFillOffload_moves {member n k : Nat} {a : SaveArea} {d : Desc} {m v : Model} (hkind : j.kind = .adapt n k)
    (hd : s.desc n k = some d) (hsave : j.save = some a) (hm : s.model d.handle = some m) (hv : s.model d.targetHandle = some v)
    (hinput : d.input = 0) (hfrosted : j.state = .frosted) (hhome : j.away = none) (hon : 0 < s.ihx.offloadFrames)
    (hlong : s.ihx.offloadFrames < j.waits) (hreach : s.reaches member = true) :
    exec (.fillOffload id (.move member)) s = .next (s.sendAway j member (s.offloadBytes j a m v)) := by
  show execFillOffload id (.move member) s = _
  simp only [execFillOffload, hj, State.offload, hkind, hd, hsave, hm, hv]
  rw [if_neg (by simp [hinput, hfrosted, hhome, hreach, hon.ne', Nat.not_le.mpr hlong])]
  simp only [State.sendAway, State.offloadBytes, hkind, hsave]

theorem execFillOffload_steps {k n : Nat} (hkind : j.kind = .guest k n) (hends : s.stepEnds j = true) :
    exec (.fillOffload id .step) s = .next (s.optStep j) := by
  show execFillOffload id .step s = _
  simp [execFillOffload, hj, hkind, hends]

theorem execFillOffload_finishes {k n : Nat} (hkind : j.kind = .guest k n) (hbound : j.state = .bound) (hlast : j.steps ≤ j.optStep) :
    exec (.fillOffload id .finish) s = .next (s.returnOffload j k n) := by
  show execFillOffload id .finish s = _
  simp [execFillOffload, hj, hkind, hbound, hlast]

theorem execFillOffload_returns {member : Nat} (haway : j.away = some member) (n : Nat) (b : List Byte) :
    exec (.fillOffload id (.returned n b)) s = .next (s.takeBack j member n b) := by
  show execFillOffload id (.returned n b) s = _
  simp [execFillOffload, hj, haway, State.takeBack]

end

/-! ### What has been sent stays sent through a tear-down (11 R357) -/

/-- From `s` to `t` no message that has been sent is lost. -/
def State.KeepsSent (s t : State) : Prop := s.ihx.sent ⊆ t.ihx.sent

theorem State.KeepsSent.refl (s : State) : s.KeepsSent s := List.Subset.refl _

theorem State.KeepsSent.trans {s t u : State} (h : s.KeepsSent t) (k : t.KeepsSent u) : s.KeepsSent u := List.Subset.trans h k

theorem Frame.keepsSent {L : List Block} {s t : State} (h : Frame L s t) (hL : decide (.ihx ∈ L) = false) : s.KeepsSent t := by
  rw [State.KeepsSent, h .ihx (of_decide_eq_false hL)]
  exact List.Subset.refl _

theorem State.KeepsSent.foldl {α : Type} {f : State → α → State} (hf : ∀ (s : State) (a : α), s.KeepsSent (f s a)) (l : List α)
    (s : State) : s.KeepsSent (l.foldl f s) :=
  List.foldlRecOn (motive := s.KeepsSent) l f (.refl s) fun _ hb a _ => hb.trans (hf _ a)

theorem State.KeepsSent.ite {s a b : State} {p : Prop} [Decidable p] (ha : s.KeepsSent a) (hb : s.KeepsSent b) :
    s.KeepsSent (if p then a else b) := by
  split
  · exact ha
  · exact hb

theorem send_keepsSent (s : State) (port kind : Nat) (body : List Nat) (bytes : List Byte) : s.KeepsSent (s.send port kind body bytes) :=
  fun _ h => mem_sent_send h port kind body bytes

theorem dropTransfer_keepsSent (s : State) (id : DWord) : s.KeepsSent (s.dropTransfer id) := by
  unfold State.dropTransfer
  split
  · exact .refl s
  · next u _ =>
    have hfree : (s.freeCredits u).ihx.sent = s.ihx.sent := by
      unfold State.freeCredits
      split
      · extract_lets p x
        split <;> rfl
      · rfl
    rw [State.KeepsSent, ← hfree]
    exact List.Subset.refl _

theorem failTransfer_keepsSent (u : Transfer) (detail : Nat) (s : State) : s.KeepsSent (failTransfer u detail s) := by
  unfold failTransfer
  extract_lets s1 s2
  have h1 : s.KeepsSent s1 := by
    unfold s1
    split
    · exact State.complete_frame.keepsSent rfl
    · exact .refl s
  have h2 : s1.KeepsSent s2 := by
    unfold s2
    split
    · exact .ite (State.setStream_frame.keepsSent rfl) (.refl s1)
    · exact .refl s1
  exact (((h1.trans h2).trans (dropTransfer_keepsSent ..)).trans (send_keepsSent ..)).trans (State.bump_frame.keepsSent rfl)

theorem faultDesc_keepsSent (x : Stream) (s : State) (d : Desc) : s.KeepsSent (faultDesc x s d) := by
  unfold faultDesc
  split
  · exact finishPull_frame.keepsSent rfl
  · exact State.complete_frame.keepsSent rfl
  · exact State.complete_frame.keepsSent rfl
  · split
    · exact failTransfer_keepsSent ..
    · exact State.complete_frame.keepsSent rfl
  · exact State.complete_frame.keepsSent rfl

theorem endFaulted_keepsSent (s : State) (id : Nat) : s.KeepsSent (s.endFaulted id) := by
  unfold State.endFaulted
  split
  · next x _ =>
    refine .ite ?_ (.refl s)
    exact ((State.KeepsSent.foldl (faultDesc_keepsSent x) _ s).trans (State.freeSlot_frame.keepsSent rfl)).trans
      (State.eraseStream_frame.keepsSent rfl)
  · exact .refl s

theorem faultStream_keepsSent (s : State) (x : Stream) : s.KeepsSent (s.faultStream x) := by
  unfold State.faultStream
  extract_lets s1 ds s2 y
  have h1 : s.KeepsSent s1 := by
    unfold s1
    split
    · exact failTransfer_keepsSent ..
    · exact .refl s
  have h2 : s1.KeepsSent s2 := (State.KeepsSent.foldl (faultDesc_keepsSent x) ds s1).trans (State.freeUnit_frame.keepsSent rfl)
  exact ((h1.trans h2).trans (State.setStream_frame.keepsSent rfl)).trans (endFaulted_keepsSent ..)

theorem faultRow_keepsSent (s : State) (x : Stream) : s.KeepsSent (faultRow s x) := by
  unfold faultRow
  refine .ite ?_ (faultStream_keepsSent s x)
  split
  · exact (failTransfer_keepsSent ..).trans (State.awaitRestart_frame.keepsSent rfl)
  · exact State.awaitRestart_frame.keepsSent rfl

theorem completeAdapt_keepsSent (s : State) (j : Job) (status detail : Nat) : s.KeepsSent (s.completeAdapt j status detail) := by
  unfold State.completeAdapt
  split
  · split
    · exact State.complete_frame.keepsSent rfl
    · exact .refl s
  · exact send_keepsSent ..
  · exact .refl s

theorem tearDown_keepsSent (s : State) (id rule : Nat) : s.KeepsSent (s.tearDown id rule) := by
  unfold State.tearDown State.tearDownWith
  split
  · exact .refl s
  · next j _ =>
    extract_lets s1 s2 s3 s4
    have h1 : s.KeepsSent s1 := State.dropTransfers_frame.keepsSent rfl
    have h2 : s1.KeepsSent s2 := by
      refine .foldl (fun s c => ?_) _ s1
      extract_lets x
      exact .ite (State.setCore_frame.keepsSent rfl) (.refl s)
    have h3 : s2.KeepsSent s3 := .foldl faultRow_keepsSent _ s2
    have h4 : s3.KeepsSent s4 := (completeAdapt_keepsSent ..).trans (State.endJob_frame.keepsSent rfl)
    exact (((h1.trans h2).trans h3).trans h4).trans ((State.bump_frame.keepsSent rfl).trans (State.writeLog_frame.keepsSent rfl))

/-! ### The end of a guest (15 R482) -/

/-- The end of a promotion takes no message back and begins no job. -/
theorem stopPromotion_sheds (s : State) (m : Model) : s.KeepsSent (s.stopPromotion m) ∧ s.NoNewJob (s.stopPromotion m) := by
  unfold State.stopPromotion
  split
  · exact ⟨tearDown_keepsSent .., (State.tearDown_sheds ..).job⟩
  · exact ⟨tearDown_keepsSent .., (State.tearDown_sheds ..).job⟩
  · exact ⟨.refl s, fun _ h => h⟩

/-- A voice that leaves the library takes no message back and begins no job. -/
theorem evict_sheds (s : State) (m : Model) : s.KeepsSent (s.evict m) ∧ s.NoNewJob (s.evict m) := by
  obtain ⟨hsent, hjob⟩ := stopPromotion_sheds s m
  have hframe : Frame [.hatch, .mem, .dram] (s.stopPromotion m) (((s.stopPromotion m).zeroSet m).freeExtents m.handle) :=
    State.freeExtents_frame.comp (by decide) (State.zeroSet_frame.mono (by decide))
  refine ⟨hsent.trans (hframe.keepsSent rfl), fun id h => ?_⟩
  exact (congrFun (State.job_congr (hframe .jobs (by decide))) id).trans (hjob id h)

/-- A guest that ends is gone, and its home is sent its output region. -/
theorem returnOffload_ends (s : State) {j : Job} {home : Nat} (hhome : j.home = some home) (k n : Nat) :
    (s.returnOffload j k n).job j.id = none ∧ ((s.ihxPort (s.portTo home)).trained = true →
      (⟨s.portTo home, 18, [k, j.optStep], memBytes j.output 0 n⟩ : IhxMsg) ∈ (s.returnOffload j k n).ihx.sent) := by
  unfold State.returnOffload
  extract_lets port s1 s2
  have hgone : s2.job j.id = none := (State.endJob_sheds_gone s1 j.id false).2
  have hport : port = s.portTo home := by
    unfold port
    rw [hhome, Option.getD_some]
  have hsent (htrained : (s.ihxPort (s.portTo home)).trained = true) :
      (⟨s.portTo home, 18, [k, j.optStep], memBytes j.output 0 n⟩ : IhxMsg) ∈ s2.ihx.sent := by
    rw [← hport] at htrained ⊢
    exact (State.endJob_frame.keepsSent rfl : s1.KeepsSent s2) (send_mem_sent htrained ..)
  clear_value s2
  split
  · next m _ =>
    obtain ⟨hkept, hjob⟩ := evict_sheds s2 m
    exact ⟨hjob _ hgone, fun htrained => hkept (hsent htrained)⟩
  · exact ⟨hgone, hsent⟩

end Sys2Proof.Machine
end

section
/-! ### A moved Fill job arrives at the member that has the room (11 R335, R338; 15 R482) -/

namespace Sys2Proof.Machine

open Sys2Proof

theorem freeKey_lt {α : Type} {t : Tab α} {fuel start k : Nat} (h : freeKey t fuel start = some k) : k < start + fuel := by
  induction fuel generalizing start with
  | zero => cases h
  | succ fuel ih =>
    unfold freeKey at h
    split at h
    · cases h
      omega
    · have := ih h
      omega

/-- A guest as a message brings it, Frosted, with a voice handle of the member's own. -/
def Job.BroughtBy (o : OffloadMsg) (h : Nat) (j : Job) : Prop :=
  j.kind = .guest o.homeJob o.outBytes ∧ j.state = .frosted ∧ j.home = some o.home ∧ j.handle = h ∧ j.optStep = o.optStep ∧
    j.steps = o.steps ∧ j.workFrame = o.workFrame ∧ j.seed = o.seed ∧ j.key = o.key ∧
    (∀ i, i < o.outBytes → memRead j.output i = o.output.getD i 0) ∧ ∃ a, j.save = some a ∧ a.extents = o.extents

/-- What a message's output reads in the output region of a guest. -/
theorem memRead_taken (b : List Byte) {n i : Nat} (h : i < n) : memRead (memStore [] 0 (b.take n)) i = b.getD i 0 := by
  by_cases hi : i < b.length
  · rw [memRead_memStore_getD _ (by rw [List.length_take]; omega), List.getD_eq_getElem _ _ (by rw [List.length_take]; omega),
      List.getElem_take, List.getD_eq_getElem _ _ hi]
  · rw [memRead_memStore_out _ _ (.inr (by rw [List.length_take]; omega)), List.getD_eq_default _ _ (Nat.not_lt.mp hi)]
    rfl

section
variable {s : State} {id : Nat} {o : OffloadMsg}

/-- The member takes no job whose graph it refuses, or for which it has no room. -/
theorem takeOffload_refuses (h : (imageReason s o.adapt).isSome = true ∨
    s.reserveOk o.adapt o.cores (scratchExtents + ceilDiv o.outBytes 2097152) = false ∨ s.addModel noSession o.adapt 0 = none) :
    s.takeOffload id o = s := by
  unfold State.takeOffload
  extract_lets extents
  split
  · rfl
  · next hgo =>
    obtain h | h | h := h
    · simp [h] at hgo
    · simp [extents, h] at hgo
    · simp only [h]

variable (hreach : s.reaches o.home = true) (hnone : s.job id = none) (hid : freeKey s.jobs 1024 0 = some id)
  (hgraph : imageReason s o.adapt = none) (hroom : s.reserveOk o.adapt o.cores (scratchExtents + ceilDiv o.outBytes 2097152) = true)
  {u : State} {m : Model} (hadd : s.addModel noSession o.adapt 0 = some (u, m))
include hreach hnone hid hgraph hroom hadd

/-- A member with the room holds the guest, beside its graph in the library. -/
theorem takeOffload_takes : ∃ (v : State) (j : Job), Frame [.mem, .hatch] u v ∧ j.id = id ∧ j.BroughtBy o m.handle ∧
    Frame [.dram] (v.setJob j) (s.takeOffload id o) := by
  have hlt := freeKey_lt hid
  have hid' : freeKey u.jobs 1024 0 = some id := (State.addModel_frame hadd .jobs (by decide) : u.jobs = s.jobs) ▸ hid
  obtain ⟨v, j, hnew, hframe, hjid, hkind, -, -, hhandle, -, hseed, hkey⟩ := newJob_asked hid' (.guest o.homeJob o.outBytes)
    ⟨noSession, m.handle, u.tb.season, 0, false, true, none, []⟩ o.adapt o.cores (scratchExtents + ceilDiv o.outBytes 2097152)
    o.seed o.key []
  unfold State.takeOffload
  extract_lets extents
  rw [if_neg (by simp [extents, hreach, hnone, hid, hgraph, hroom]; omega)]
  simp only [hadd, extents, hnew, State.job_setJob_of_id v hjid]
  rw [State.setJob_setJob v (by rfl)]
  refine ⟨v, _, hframe, ?_, ?_, State.scratchStore_frame⟩
  · exact hjid
  · refine ⟨hkind, rfl, rfl, hhandle, rfl, rfl, rfl, hseed, hkey, fun i hi => memRead_taken o.output hi, _, rfl, ?_⟩
    split <;> rfl

end

section
variable {s : State} {id : Nat} {o : OffloadMsg} (hreach : s.reaches o.home = true) (hnone : s.job id = none)
  (hid : freeKey s.jobs 1024 0 = some id)
include hreach hnone hid

/-- A job that arrives leaves every other job context as it was. -/
theorem takeOffload_others {i : Nat} (hi : i ≠ id) : (s.takeOffload id o).job i = s.job i := by
  cases hgraph : imageReason s o.adapt with
  | some r => rw [takeOffload_refuses (.inl (by rw [hgraph]; rfl))]
  | none =>
    cases hroom : s.reserveOk o.adapt o.cores (scratchExtents + ceilDiv o.outBytes 2097152) with
    | false => rw [takeOffload_refuses (.inr (.inl hroom))]
    | true =>
      cases hadd : s.addModel noSession o.adapt 0 with
      | none => rw [takeOffload_refuses (.inr (.inr hadd))]
      | some r =>
        obtain ⟨v, j, hframe, hjid, -, hstored⟩ := takeOffload_takes hreach hnone hid hgraph hroom hadd
        have hv : v.job = s.job := State.job_congr ((hframe .jobs (by decide)).trans (State.addModel_frame hadd .jobs (by decide)))
        rw [State.job_congr (hstored .jobs (by decide)), State.job_setJob_other v j (hjid ▸ hi), hv]

/-- With the room, the guest is there under the member's number, and its graph in the library. -/
theorem takeOffload_holds {h : Nat} {es : List Nat} (hgraph : imageReason s o.adapt = none)
    (hroom : s.reserveOk o.adapt o.cores (scratchExtents + ceilDiv o.outBytes 2097152) = true) (hh : s.newHandle = some h)
    (hes : s.poolTake (ceilDiv o.adapt.length 2097152) = some es) :
    (∃ j, (s.takeOffload id o).job id = some j ∧ j.BroughtBy o h) ∧ ∃ m, (s.takeOffload id o).model h = some m ∧ m.image = o.adapt := by
  obtain ⟨u, hadd, hu⟩ := addModel_stores hh hes noSession 0
  obtain ⟨v, j, hframe, hjid, hbrought, hstored⟩ := takeOffload_takes hreach hnone hid hgraph hroom hadd
  refine ⟨⟨j, ?_, hbrought⟩, s.newVoice h noSession o.adapt 0, ?_, rfl⟩
  · rw [State.job_congr (hstored .jobs (by decide)), State.job_setJob_of_id v hjid]
  · rw [State.model_congr (hstored .models (by decide))]
    exact (congrFun (State.model_congr (hframe .models (by decide))) h).trans hu

end

/-- Settles O26: a move by what is sent away; an arrival by whether the member has the room; a step by its count; an end by what goes back to the
home, and there by what comes back. -/
theorem fillOffloads : Obligations.FillOffloads := by
  unfold Obligations.FillOffloads
  refine ⟨fun id member n k j a d m v s hj hid hkind hd hsave hm hv hinput hfrosted haway hon hlong hreach => ?_,
    fun id o s hreach hnone hid => ?_, fun id k n j s hj _ hkind hends => execFillOffload_steps hj hkind hends,
    fun id k n home j s hj hid hkind hbound hlast hhome => ?_, fun id n member b j s hj hid haway => ?_⟩
  · subst hid
    obtain ⟨⟨t, ht, htaway, htstate⟩, hsent⟩ := sendAway_moves j (State.reaches_trained hreach) (s.offloadBytes j a m v)
    exact ⟨_, execFillOffload_moves hj hkind hd hsave hm hv hinput hfrosted haway hon hlong hreach,
      ⟨t, ht, htaway, htstate.trans hfrosted⟩, hsent, sendAway_frame⟩
  · exact ⟨_, rfl, fun i hi => takeOffload_others hreach hnone hid hi, fun h es hgraph hroom hh hes =>
      takeOffload_holds hreach hnone hid hgraph hroom hh hes⟩
  · subst hid
    exact ⟨_, execFillOffload_finishes hj hkind hbound hlast, returnOffload_ends s hhome k n⟩
  · subst hid
    exact ⟨_, execFillOffload_returns hj haway n b, takeBack_returns s j member n b, takeBack_frame⟩

end Sys2Proof.Machine
end

section
/-! ### The fuses and the locked policy (16 R494, R497, R513; 19 R578) -/

namespace Sys2Proof.Machine

open Sys2Proof

/-! ### What is kept -/

/-- Between two states the part is the one it was, but for the running image and the rollback count (19 R578). -/
def FusesKept (s t : State) : Prop := ∃ image count, t.part = { s.part with fwImage := image, rollback := count }

/-- The rollback count is blown up to the running firmware's number (16 R513). -/
def RollbackBlown (s t : State) : Prop :=
  s.part.rollback < t.part.rollback ∧ t.part.rollback = s.proof.svn ∧ t.part.rollback ≤ 63

/-- A lock stays, and with it the policy and its measurement (16 R497). -/
def LockKept (s t : State) : Prop :=
  s.proof.locked = true → t.proof.locked = true ∧ t.proof.policy = s.proof.policy ∧ t.proof.mPol = s.proof.mPol

/-- A power-on reset has made Proof's registers the reset ones (19 R578). -/
def Renewed (t : State) : Prop := t.boot.phase = .reset ∧ t.proof = State.reset.proof

theorem FusesKept.of_part {s t : State} (h : t.part = s.part) : FusesKept s t := ⟨_, _, h⟩

theorem FusesKept.trans {s t u : State} (h : FusesKept s t) (k : FusesKept t u) : FusesKept s u := by
  obtain ⟨_, _, h⟩ := h
  obtain ⟨image, count, k⟩ := k
  exact ⟨image, count, by rw [k, h]⟩

theorem LockKept.of_proof {s t : State} (h : t.proof = s.proof) : LockKept s t := fun hl => by rw [h]; exact ⟨hl, rfl, rfl⟩

theorem LockKept.trans {s t u : State} (h : LockKept s t) (k : LockKept t u) : LockKept s u := fun hl => by
  obtain ⟨hlt, hpolicy, hmeasure⟩ := h hl
  obtain ⟨hlu, kpolicy, kmeasure⟩ := k hlt
  exact ⟨hlu, kpolicy.trans hpolicy, kmeasure.trans hmeasure⟩

/-! ### Changes under Proof's seal: fuses only blown, a locked policy untouched, no reset -/

/-- From `s` to `t` the fuses are kept, the rollback count stays or is blown to the running firmware's number, which stays, and a lock
stays. -/
structure Sealed (s t : State) : Prop where
  fuses    : FusesKept s t
  rollback : t.part.rollback = s.part.rollback ∨ RollbackBlown s t
  svn      : t.proof.svn = s.proof.svn
  lock     : LockKept s t

theorem Sealed.of_part {s t : State} (hpart : t.part = s.part) (hsvn : t.proof.svn = s.proof.svn) (hlock : LockKept s t) :
    Sealed s t :=
  ⟨.of_part hpart, .inl (congrArg Part.rollback hpart), hsvn, hlock⟩

theorem Sealed.of_same {s t : State} (hpart : t.part = s.part) (hproof : t.proof = s.proof) : Sealed s t :=
  .of_part hpart (congrArg Proof.svn hproof) (.of_proof hproof)

theorem Sealed.refl (s : State) : Sealed s s := .of_same rfl rfl

theorem Sealed.of_frame {L : List Block} {s t : State} (h : Frame L s t) (hpart : decide (.part ∈ L) = false)
    (hproof : decide (.proof ∈ L) = false) : Sealed s t :=
  .of_same (h .part (of_decide_eq_false hpart)) (h .proof (of_decide_eq_false hproof))

/-- A count that is blown stands at the firmware's number, above which no later write blows it. -/
theorem Sealed.trans {s t u : State} (h : Sealed s t) (k : Sealed t u) : Sealed s u := by
  refine ⟨h.fuses.trans k.fuses, ?_, k.svn.trans h.svn, h.lock.trans k.lock⟩
  have hr := h.rollback
  have kr := k.rollback
  simp only [RollbackBlown, h.svn] at hr kr ⊢
  omega

theorem Sealed.ite {s a b : State} {c : Prop} [Decidable c] (ha : Sealed s a) (hb : Sealed s b) : Sealed s (if c then a else b) := by
  split
  · exact ha
  · exact hb

theorem Sealed.of_fst {s t : State} {α : Type} {p : State × α} {a : α} (h : p = (t, a)) (k : Sealed s p.1) : Sealed s t := by
  subst h
  exact k

/-! ### Power-on resets -/

/-- From `s` to `t` the part and Proof stay, or a power-on reset comes between, which keeps the part but for its running image. -/
def KeptOrRenewed (s t : State) : Prop :=
  (t.part = s.part ∧ t.proof = s.proof) ∨ ((∃ image, t.part = { s.part with fwImage := image }) ∧ Renewed t)

theorem KeptOrRenewed.refl (s : State) : KeptOrRenewed s s := .inl ⟨rfl, rfl⟩

theorem KeptOrRenewed.ite {s a b : State} {c : Prop} [Decidable c] (ha : KeptOrRenewed s a) (hb : KeptOrRenewed s b) :
    KeptOrRenewed s (if c then a else b) := by
  split
  · exact ha
  · exact hb

theorem KeptOrRenewed.part {s t : State} (h : KeptOrRenewed s t) : ∃ image, t.part = { s.part with fwImage := image } :=
  h.elim (fun ⟨hpart, _⟩ => ⟨_, hpart⟩) And.left

theorem KeptOrRenewed.fuses {s t : State} (h : KeptOrRenewed s t) : FusesKept s t :=
  h.part.imp fun _ hpart => ⟨_, hpart⟩

theorem KeptOrRenewed.rollback {s t : State} (h : KeptOrRenewed s t) : t.part.rollback = s.part.rollback := by
  obtain ⟨image, hpart⟩ := h.part
  rw [hpart]

theorem KeptOrRenewed.lock {s t : State} (h : KeptOrRenewed s t) : LockKept s t ∨ Renewed t :=
  h.imp (fun ⟨_, hproof⟩ => .of_proof hproof) And.right

theorem powerOnReset_renews (cause volts : Nat) (s : State) : KeptOrRenewed s (powerOnReset cause volts s) :=
  .inr ⟨⟨_, rfl⟩, rfl, rfl⟩

theorem powerOff_part (volts : Nat) (s : State) : ∃ image, (powerOff volts s).part = { s.part with fwImage := image } := ⟨_, rfl⟩

/-- A module that goes off is renewed, whatever has come before. -/
theorem powerOff_renews {s t : State} (h : KeptOrRenewed s t) (volts : Nat) : KeptOrRenewed s (powerOff volts t) := by
  obtain ⟨_, hpart⟩ := h.part
  obtain ⟨image, hoff⟩ := powerOff_part volts t
  exact .inr ⟨⟨image, by rw [hoff, hpart]⟩, rfl, rfl⟩

theorem resetCtlWrite_renews (v : Word) (s : State) : KeptOrRenewed s (resetCtlWrite v s) :=
  .ite (powerOnReset_renews ..) (.refl s)

theorem execColdStart_renews {v : Nat} {s t : State} (h : execColdStart v s = .next t) : KeptOrRenewed s t := by
  rw [← atBusbar_next h]
  exact .ite (powerOnReset_renews ..) (.refl s)

theorem execHostReset_renews {port : Nat} {value : Word} {s t : State} (h : execHostReset port value s = .next t) : KeptOrRenewed s t := by
  rw [← Host.Outcome.next.inj h]
  exact .ite (resetCtlWrite_renews ..) (.refl s)

theorem execThermalTrip_renews {s t : State} (h : execThermalTrip s = .next t) : KeptOrRenewed s t := by
  rw [← Host.Outcome.next.inj h]
  exact .ite (powerOnReset_renews 0 s.boot.busbar s) (.refl s)

theorem execSupplyReset_renews {v : Nat} {s t : State} (h : execSupplyReset v s = .next t) : KeptOrRenewed s t := by
  rw [← atBusbar_next h]
  refine .ite (.refl s) ?_
  extract_lets crossing at_ s1 _ _ s2
  have halarm : KeptOrRenewed s (State.raiseAlarm { s1 with nv := { s1.nv with supplyResetAt := at_ } } 0x02 0 at_) := by
    rw [KeptOrRenewed, Renewed, State.raiseAlarm_part, State.raiseAlarm_proof, State.raiseAlarm_boot]
    exact powerOnReset_renews 1 v s
  have h2 : KeptOrRenewed s s2 := .ite halarm (.inl ⟨rfl, rfl⟩)
  exact .ite (powerOff_renews h2 v) h2

theorem execAlmanacInputLoss_renews {s t : State} (h : execAlmanacInputLoss s = .next t) : KeptOrRenewed s t := by
  rw [← Host.Outcome.next.inj h]
  have hloss : KeptOrRenewed s (almanacLoss s) := .inl ⟨almanacLoss_frame .part (by decide), almanacLoss_frame .proof (by decide)⟩
  exact .ite (.ite (powerOff_renews hloss 0) hloss) (.refl s)

/-! ### Proof's commands (16 R497, R510 to R513, R524) -/

/-- A locked policy is not locked again. -/
theorem lockPolicy_of_locked {s : State} (h : s.proof.locked = true) : lockPolicy s = s := if_pos h

theorem lockPolicy_sealed (s : State) : Sealed s (lockPolicy s) := by
  cases hl : s.proof.locked with
  | true =>
    rw [lockPolicy_of_locked hl]
    exact .refl s
  | false =>
    refine .of_part (lockPolicy_frame .part (by decide)) ?_ fun h => absurd (hl.symm.trans h) (by decide)
    rw [lockPolicy, if_neg (by simp [hl])]

theorem commitSvn_blows {v : Word} {s : State} (hsvn : fld v 5 0 = s.proof.svn) (habove : s.part.rollback < fld v 5 0) :
    commitSvn v s = { s with part := { s.part with rollback := fld v 5 0 } } :=
  if_pos (by simp [hsvn, hsvn ▸ habove])

theorem commitSvn_leaves {v : Word} {s : State} (h : fld v 5 0 ≠ s.proof.svn ∨ fld v 5 0 ≤ s.part.rollback) : commitSvn v s = s :=
  if_neg (by simpa [imp_iff_not_or] using h)

theorem commitSvn_sealed (v : Word) (s : State) : Sealed s (commitSvn v s) := by
  by_cases h : fld v 5 0 = s.proof.svn ∧ s.part.rollback < fld v 5 0
  · obtain ⟨hsvn, habove⟩ := h
    rw [commitSvn_blows hsvn habove]
    exact ⟨⟨_, _, rfl⟩, .inr ⟨habove, hsvn, Nat.le_of_lt_succ (Nat.mod_lt _ (by decide))⟩, rfl, .of_proof rfl⟩
  · rw [commitSvn_leaves (by omega)]
    exact .refl s

/-- A write to a locked policy register changes nothing. -/
theorem prfWrite_sealed (o : Nat) (v : Word) (s : State) : Sealed s (prfWrite o v s) := by
  have policy (i : Nat) (w : Word) :
      Sealed s (if s.proof.locked then s else { s with proof := { s.proof with policy := s.proof.policy.set i w } }) := by
    cases hl : s.proof.locked with
    | true => exact .refl s
    | false => exact .of_part rfl rfl fun h => absurd (hl.symm.trans h) (by decide)
  unfold prfWrite
  extract_lets setPolicy
  split
  · exact .ite (lockPolicy_sealed s) (.refl s)
  · exact commitSvn_sealed v s
  · exact .of_part rfl rfl fun hl => ⟨hl, rfl, rfl⟩
  · exact policy 0 _
  · exact policy 1 _
  · exact .refl s

theorem execPolicyLock_sealed {port : Nat} {value : Word} {s t : State} (h : execPolicyLock port value s = .next t) : Sealed s t := by
  rw [← Host.Outcome.next.inj h]
  exact .ite (lockPolicy_sealed s) (.refl s)

theorem execCommitSvn_sealed {port : Nat} {value : Word} {s t : State} (h : execCommitSvn port value s = .next t) : Sealed s t := by
  rw [← Host.Outcome.next.inj h]
  exact .ite (commitSvn_sealed value s) (.refl s)

theorem execPrfFwDigestSelWrite_sealed {port : Nat} {value : Word} {s t : State} (h : execPrfFwDigestSelWrite port value s = .next t) :
    Sealed s t := by
  rw [← Host.Outcome.next.inj h]
  exact .ite (.of_part rfl rfl fun hl => ⟨hl, rfl, rfl⟩) (.refl s)

theorem execGroupKeyDelivery_sealed {gk statement : List Byte} {s t : State} (h : execGroupKeyDelivery gk statement s = .next t) :
    Sealed s t := by
  rw [← Host.Outcome.next.inj h]
  exact .ite (.of_part rfl rfl fun hl => ⟨hl, rfl, rfl⟩) (.refl s)

/-! ### Bring-up (16 R499, R512) -/

/-- VERIFY takes the firmware's number, and leaves the policy. -/
theorem execVerify_lockKept {ms : Nat} {s t : State} (h : execVerify ms s = .next t) : LockKept s t := by
  rw [← Host.Outcome.next.inj h]
  split
  · extract_lets step
    split <;> exact fun hl => ⟨hl, rfl, rfl⟩
  · exact .of_proof rfl

theorem execMeasure_lockKept {ms : Nat} {s t : State} (h : execMeasure ms s = .next t) : LockKept s t := by
  rw [← Host.Outcome.next.inj h]
  split
  · extract_lets cap _ s1 s2
    have h1 : LockKept s s1 := fun hl => ⟨hl, rfl, rfl⟩
    have h2 : s2.proof = s1.proof := by
      unfold s2
      split
      · exact State.raiseAlarm_proof ..
      · rfl
    clear_value s2
    exact (h1.trans (.of_proof h2)).trans (.of_proof rfl)
  · exact .of_proof rfl

/-! ### The Folio's group key (15 R470, R471; 16 R510) -/

theorem State.join_sealed (s : State) (season : Nat) (counter : BitVec 48) : Sealed s (s.join season counter) := by
  have hello (u : State) : Sealed u u.sendHello := .of_frame State.sendHello_frame rfl rfl
  have hmanager : Sealed s (s.joinManager counter) := .of_part rfl rfl fun hl => ⟨hl, rfl, rfl⟩
  have hworker : Sealed s (s.joinWorker season counter) := .of_frame State.joinWorker_frame rfl rfl
  exact .ite (.of_same rfl rfl) (.ite (hmanager.trans (hello _)) (hworker.trans (hello _)))

theorem State.leave_sealed (s : State) : Sealed s s.leave := by
  unfold State.leave
  extract_lets x s1 unsecure _ _ s2
  have h1 : Sealed s s1 := .of_frame State.send_frame rfl rfl
  have h2 : Sealed s1 s2 := .of_part rfl rfl fun hl => ⟨hl, rfl, rfl⟩
  exact .ite (.of_same rfl rfl) (.ite ((h1.trans h2).trans (.of_frame State.timebaseMode_frame rfl rfl)) (h1.trans h2))

theorem folioCtlWrite_sealed (v : Word) (season : Nat) (counter : BitVec 48) (s : State) : Sealed s (folioCtlWrite v season counter s) :=
  have hjoin : Sealed s (if bitOf v 0 then s.join season counter else s) := .ite (State.join_sealed ..) (.refl s)
  .ite (hjoin.trans (State.leave_sealed _)) hjoin

theorem execJoin_sealed {port season : Nat} {value : Word} {counter : BitVec 48} {s t : State}
    (h : execJoin port value season counter s = .next t) : Sealed s t := by
  rw [← Host.Outcome.next.inj h]
  exact .ite (folioCtlWrite_sealed ..) (.refl s)

theorem execLeave_sealed {port : Nat} {value : Word} {s t : State} (h : execLeave port value s = .next t) : Sealed s t := by
  rw [← Host.Outcome.next.inj h]
  exact .ite (folioCtlWrite_sealed ..) (.refl s)

/-! ### The acceptance of descriptors, of which a SESSION_OPEN locks the policy (13 R397, 16 R497) -/

theorem validate_sealed (s : State) (n : Nat) (d : Desc) : Sealed s (validate s n d).1 := by
  unfold validate
  split
  · exact .refl s
  · exact .ite (lockPolicy_sealed s) (.refl s)

theorem acceptOne_sealed (n : Nat) (s : State) : Sealed s (acceptOne n s) := by
  unfold acceptOne
  extract_lets r
  split
  · exact .refl s
  · next d rest hf =>
    refine .ite (.refl s) ?_
    extract_lets s1
    have h1 : Sealed s s1 := .of_frame State.setRing_frame rfl rfl
    split
    · next s2 status detail hv =>
      have h2 : Sealed s1 s2 := Sealed.of_fst hv (validate_sealed s1 n d)
      exact (h1.trans h2).trans (.of_frame State.hold_frame rfl rfl)
    · next s2 hv =>
      split
      next s3 e ha =>
      have h2 : Sealed s1 s2 := Sealed.of_fst hv (validate_sealed s1 n d)
      have h3 : Sealed s2 s3 := .of_frame (Frame.of_fst ha (onAccept_frame rfl)) rfl rfl
      exact ((h1.trans h2).trans h3).trans (.of_frame State.setRing_frame rfl rfl)

theorem pump_sealed (n fuel : Nat) (s : State) : Sealed s (pump n fuel s) := by
  induction fuel generalizing s with
  | zero => exact .refl s
  | succ fuel ih => exact (acceptOne_sealed n s).trans (ih _)

theorem State.pump_sealed (n : Nat) (s : State) : Sealed s (s.pump n) := Machine.pump_sealed n _ s

theorem execDescriptorFetch_sealed {n : Nat} {slots : List (List Byte)} {s t : State} (h : execDescriptorFetch n slots s = .next t) :
    Sealed s t := by
  rw [← Host.Outcome.next.inj h]
  refine .ite ?_ (.refl s)
  extract_lets ds s1 _ s2 s3
  have h1 : Sealed s s2 := .of_same rfl rfl
  have h3 : Frame [.sessions, .jobs, .tallies, .cnt] s2 s3 :=
    Frame.foldl (State.bump_frame.comp (by decide) (State.bump_frame.mono (by decide)))
      fun _ _ hu => State.chargeDesc_frame.comp (by decide) hu
  exact ((h1.trans (.of_frame h3 rfl rfl)).trans (State.pump_sealed n s3)).trans (.of_frame State.mirror_frame rfl rfl)

theorem execCompletionWrite_sealed {n : Nat} {s t : State} (h : execCompletionWrite n s = .next t) : Sealed s t := by
  rw [← Host.Outcome.next.inj h]
  extract_lets r
  split
  · exact .refl s
  · refine .ite (.refl s) ?_
    extract_lets rc s1 s2 s3
    have h2 : Sealed s s2 := .of_same rfl rfl
    have h3 : Sealed s2 s3 :=
      (Sealed.of_frame (State.mirror_frame (n := n)) rfl rfl).trans (.of_frame State.bump_frame rfl rfl)
    have h4 : Sealed s3 (if rc.event then s3.notify n else s3) := .ite (.of_frame State.notify_frame rfl rfl) (.refl s3)
    exact ((h2.trans h3).trans h4).trans (State.pump_sealed n _)

/-! ### Register writes of the setup space (12 R363) -/

theorem eslWrite_sealed {o : Nat} (ho : o ≠ 0x014) (v : Word) (s : State) : Sealed s (eslWrite o v s) := by
  unfold eslWrite
  split
  · exact .of_frame timebaseCfgWrite_frame rfl rfl
  · exact absurd rfl ho
  · exact .of_same rfl rfl
  · have hclear : Sealed s (if bitOf v 0 then stageClear s else s) := .ite (.of_frame stageClear_frame rfl rfl) (.refl s)
    exact .ite (hclear.trans (.of_frame stageCommit_frame rfl rfl)) hclear
  · exact .of_frame acctCfgWrite_frame rfl rfl
  · exact .of_frame rebindWrite_frame rfl rfl
  · exact .ite (.refl s) (.of_same rfl rfl)
  · exact .ite (.refl s) (.of_same rfl rfl)
  · exact .of_frame evtCfgWrite_frame rfl rfl
  · exact .ite (.refl s) (.of_same rfl rfl)
  · exact .of_frame evtCiWrite_frame rfl rfl
  · exact .of_same rfl rfl
  · exact .refl s

theorem ihxWrite_sealed (o : Nat) (v : Word) (s : State) : Sealed s (ihxWrite o v s) :=
  .ite (.of_frame folioCfgWrite_frame rfl rfl)
    (.ite (.ite s.leave_sealed (.refl s))
      (.ite (.of_same rfl rfl)
        (.ite (.refl s) (.ite (.of_same rfl rfl) (.ite (.of_frame placeCtlWrite_frame rfl rfl) (.ite (.of_same rfl rfl) (.refl s)))))))

/-- Every register but ESL_RESET_CTL is written under Proof's seal. -/
theorem regWrite_sealed {a : Nat} (ha : a ≠ 0x1014) (v : Word) (s : State) : Sealed s (regWrite a v s) := by
  unfold regWrite
  repeat' with_reducible refine Sealed.ite ?_ ?_
  exacts [.refl s, eslWrite_sealed (by omega) v s, .of_frame pwrCapWrite_frame rfl rfl, .refl s, .of_frame memRegWrite_frame rfl rfl,
    .of_frame clkWrite_frame rfl rfl, ihxWrite_sealed .., prfWrite_sealed .., .of_frame almWrite_frame rfl rfl, .refl s,
    .of_frame audWrite_frame rfl rfl, .of_frame mbxWrite_frame rfl rfl, .of_frame cntWrite_frame rfl rfl, .refl s,
    .of_frame rmkWrite_frame rfl rfl, .refl s, .of_frame stageWrite_frame rfl rfl, .refl s]

theorem wordWrite_sealed (port : Nat) {a : Nat} (ha : a ≠ 0x1014) (v : Word) (s : State) : Sealed s (wordWrite port a v s) :=
  .ite (regWrite_sealed ha v s) (.refl s)

theorem regWrite_reset (v : Word) (s : State) : regWrite 0x1014 v s = resetCtlWrite v s := rfl

/-- A word is written under Proof's seal, or the write is the one that may reset the module. -/
theorem wordWrite_seals (port a : Nat) (v : Word) (s : State) : Sealed s (wordWrite port a v s) ∨ KeptOrRenewed s (wordWrite port a v s) := by
  by_cases ha : a = 0x1014
  · subst ha
    exact .inr (.ite (regWrite_reset v s ▸ resetCtlWrite_renews v s) (.refl s))
  · exact .inl (wordWrite_sealed port ha v s)

/-- What every command keeps: the fuses, the rollback count but where it is blown, and a lock but at a power-on reset. -/
structure SealsKept (s t : State) : Prop where
  fuses    : FusesKept s t
  rollback : t.part.rollback = s.part.rollback ∨ RollbackBlown s t
  lock     : LockKept s t ∨ Renewed t

theorem Sealed.kept {s t : State} (h : Sealed s t) : SealsKept s t := ⟨h.fuses, h.rollback, .inl h.lock⟩

/-- What is renewed behind a change under Proof's seal keeps what the two keep. -/
theorem Sealed.renewed {s t u : State} (h : Sealed s t) (k : KeptOrRenewed t u) : SealsKept s u where
  fuses := h.fuses.trans k.fuses
  rollback := by simpa only [RollbackBlown, k.rollback] using h.rollback
  lock := k.lock.imp_left h.lock.trans

theorem KeptOrRenewed.kept {s t : State} (h : KeptOrRenewed s t) : SealsKept s t := (Sealed.refl s).renewed h

/-- Of the two words of a 64-bit write the lower address is a multiple of 8, and ESL_RESET_CTL is not. -/
theorem execMaintenanceWrite_kept {port addr width : Nat} {value : DWord} {s t : State}
    (h : execMaintenanceWrite port addr width value s = .next t) : SealsKept s t := by
  rw [← Host.Outcome.next.inj h]
  split
  · exact (wordWrite_seals ..).elim Sealed.kept KeptOrRenewed.kept
  · split
    · next hpair =>
      have h8 : addr % 8 = 0 := of_decide_eq_true (Bool.and_eq_true_iff.mp hpair).2
      have h1 : Sealed s (wordWrite port addr (value.setWidth 32) s) := wordWrite_sealed port (by omega) _ s
      exact (wordWrite_seals ..).elim (fun h2 => (h1.trans h2).kept) h1.renewed
    · exact (Sealed.of_frame dropWrite_frame rfl rfl).kept

/-! ### Every command -/

theorem exec_sealsKept {c : Instr} {s t : State} (h : exec c s = .next t) : SealsKept s t := by
  cases c with
  | coldStart => exact (execColdStart_renews h).kept
  | hostReset => exact (execHostReset_renews h).kept
  | supplyReset => exact (execSupplyReset_renews h).kept
  | thermalTrip => exact (execThermalTrip_renews h).kept
  | almanacInputLoss => exact (execAlmanacInputLoss_renews h).kept
  | maintenanceWrite => exact execMaintenanceWrite_kept h
  | verify =>
    have hpart : t.part = s.part := execVerify_frame h .part (by decide)
    exact ⟨.of_part hpart, .inl (by rw [hpart]), .inl (execVerify_lockKept h)⟩
  | measure =>
    have hpart : t.part = s.part := execMeasure_frame h .part (by decide)
    exact ⟨.of_part hpart, .inl (by rw [hpart]), .inl (execMeasure_lockKept h)⟩
  | join => exact (execJoin_sealed h).kept
  | leave => exact (execLeave_sealed h).kept
  | groupKeyDelivery => exact (execGroupKeyDelivery_sealed h).kept
  | prfFwDigestSelWrite => exact (execPrfFwDigestSelWrite_sealed h).kept
  | policyLock => exact (execPolicyLock_sealed h).kept
  | commitSvn => exact (execCommitSvn_sealed h).kept
  | descriptorFetch => exact (execDescriptorFetch_sealed h).kept
  | completionWrite => exact (execCompletionWrite_sealed h).kept
  | _ => exact (Sealed.of_frame (exec_frame h) rfl rfl).kept

/-- No command but the two that write PRF_ROLLBACK_CTL moves the rollback count. -/
theorem exec_rollback {c : Instr} {s t : State} (h : exec c s = .next t) (hcommit : ∀ p v, c ≠ .commitSvn p v)
    (hwrite : ∀ p a w v, c ≠ .maintenanceWrite p a w v) : t.part.rollback = s.part.rollback := by
  cases c with
  | coldStart => exact (execColdStart_renews h).rollback
  | hostReset => exact (execHostReset_renews h).rollback
  | supplyReset => exact (execSupplyReset_renews h).rollback
  | thermalTrip => exact (execThermalTrip_renews h).rollback
  | almanacInputLoss => exact (execAlmanacInputLoss_renews h).rollback
  | maintenanceWrite p a w v => exact absurd rfl (hwrite p a w v)
  | commitSvn p v => exact absurd rfl (hcommit p v)
  | _ => exact congrArg Part.rollback (exec_same (b := .part) h rfl)

theorem execCommitSvn_of_writable {p : Nat} {v : Word} {s : State} (h : s.writable p .ready = true) :
    exec (.commitSvn p v) s = .next (commitSvn v s) :=
  congrArg Host.Outcome.next (if_pos h)

/-- A count that COMMIT_SVN moves is the one that was written. -/
theorem execCommitSvn_written {p : Nat} {v : Word} {s t : State} (h : exec (.commitSvn p v) s = .next t)
    (hmoves : t.part.rollback ≠ s.part.rollback) : fld v 5 0 = s.proof.svn := by
  by_contra hsvn
  refine hmoves ?_
  rw [← Host.Outcome.next.inj h, commitSvn_leaves (.inl hsvn), ite_self]

/-- Settles O6: each command by the part and the lock that it keeps, of which resets and register writes say more than their frames. -/
theorem fusesAndLockedPolicyAreKept : Obligations.FusesAndLockedPolicyAreKept := by
  unfold Obligations.FusesAndLockedPolicyAreKept
  refine ⟨fun c s t h => ?_, fun c s t h => ?_, fun p v s hw => ?_, fun c s t h hl => ?_⟩
  · obtain ⟨image, count, hpart⟩ := (exec_sealsKept h).fuses
    simp only [hpart, and_self]
  · refine (exec_sealsKept h).rollback.imp_right fun hblown => ?_
    obtain ⟨habove, hsvn, hmost⟩ := hblown
    refine ⟨habove, hsvn, hmost, ?_⟩
    by_contra hother
    obtain ⟨hcommit, hwrite⟩ := not_or.mp hother
    refine habove.ne' (exec_rollback h (fun p v hc => hcommit ⟨p, v, hc, ?_⟩) fun p a w v hc => hwrite ⟨p, a, w, v, hc⟩)
    subst hc
    exact execCommitSvn_written h habove.ne'
  · rw [execCommitSvn_of_writable hw]
    split
    · next hgo => rw [commitSvn_blows hgo.1 hgo.2]
    · next hno => rw [commitSvn_leaves (by omega)]
  · exact (exec_sealsKept h).lock.imp_left (· hl)

end Sys2Proof.Machine
end

section
/-! ### Proof's policy, the mailboxes and the staging store (16 R497, R499, R513, R516, R524; 19 R588, R589) -/

namespace Sys2Proof.Machine

open Sys2Proof

/-! ### POLICY_LOCK (16 R497, R499) -/

/-- A three-bit field at bit 3 that is above the one at bit 6 is lowered to it, and the bits from 6 on stay. -/
theorem lowered_field {n m : Nat} (h : n / 64 % 8 < n / 8 % 8) (hm : m = n - n / 8 % 8 * 8 + n / 64 % 8 * 8) :
    m ≤ n ∧ m / 64 = n / 64 ∧ m / 8 % 8 = n / 64 % 8 := by
  have hparts : n = 64 * (n / 64) + 8 * (n / 8 % 8) + n % 8 := by omega
  omega

/-- The lock leaves MARK_MAX, and MARK_MIN not above it. -/
theorem lockedPolicy0_marks (w : Word) :
    fld (lockedPolicy0 w) 8 6 = fld w 8 6 ∧ fld (lockedPolicy0 w) 5 3 ≤ fld w 8 6 := by
  unfold lockedPolicy0
  split
  · next hlt =>
    simp only [fld, BitVec.toNat_ofNat, Nat.reducePow, Nat.reduceSub, Nat.reduceAdd] at hlt ⊢
    obtain ⟨hle, hmax, hmin⟩ := lowered_field hlt rfl
    rw [Nat.mod_eq_of_lt (a := _ + _) (hle.trans_lt w.isLt), hmax, hmin]
    exact ⟨rfl, le_rfl⟩
  · next hle => exact ⟨rfl, Nat.not_lt.mp hle⟩

/-- What the first lock makes of Proof's registers. -/
theorem lockPolicy_locks {s : State} (h : s.proof.locked = false) :
    (lockPolicy s).proof.locked = true ∧ (lockPolicy s).mbx.locked = true ∧
    (lockPolicy s).proof.policy = lockedPolicy0 s.policy0 :: s.proof.policy.drop 1 ∧
    (lockPolicy s).proof.mPol = Config.shake256 (((lockPolicy s).proof.policy.map fun w => leBytes 4 w.toNat).flatten) 64 := by
  rw [lockPolicy, if_neg (by simp [h])]
  exact ⟨rfl, rfl, rfl, rfl⟩

theorem lockPolicy_policy0 {s : State} (h : s.proof.locked = false) : (lockPolicy s).policy0 = lockedPolicy0 s.policy0 := by
  rw [State.policy0, (lockPolicy_locks h).2.2.1]
  rfl

section
variable {p : Nat} {v : Word} {s : State} (hw : s.writable p .ready = true)
include hw

theorem execPolicyLock_locks (hlock : bitOf v 0 = true) : exec (.policyLock p v) s = .next (lockPolicy s) :=
  congrArg Host.Outcome.next (if_pos (by simp [hw, hlock]))

theorem execPrfFwDigestSelWrite_selects :
    exec (.prfFwDigestSelWrite p v) s = .next { s with proof := { s.proof with digestSel := fld v 3 0 } } :=
  congrArg Host.Outcome.next (if_pos hw)

end

/-- A second lock changes nothing, whatever is written. -/
theorem execPolicyLock_again {p : Nat} {v : Word} {s : State} (h : s.proof.locked = true) : exec (.policyLock p v) s = .next s :=
  congrArg Host.Outcome.next (by rw [lockPolicy_of_locked h, ite_self])

/-! ### Mailboxes (16 R516) -/

/-- A violation is counted, and its alarm is in the table; every channel stays. -/
theorem mailboxViolation_reports (m ch : Nat) (s : State) :
    (mailboxViolation m ch s).mbx = { s.mbx with violations := min (s.mbx.violations + 1) 0xFFFF } ∧
    (mailboxViolation m ch s).evt.listed 0x15 0 :=
  ⟨State.raiseAlarm_mbx .., raiseAlarm_listed ..⟩

section
variable {m ch : Nat} {s : State} (hup : s.mailboxesUp = true)
include hup

theorem execMailboxSend_up (ws : List Word) : exec (.mailboxSend m ch ws) s = .next (mailboxSend m ch ws s) :=
  congrArg Host.Outcome.next (if_pos hup)

theorem execMailboxSend_violates (hsender : (s.mailbox ch).sender ≠ m) (ws : List Word) :
    exec (.mailboxSend m ch ws) s = .next (mailboxViolation m ch s) := by
  rw [execMailboxSend_up hup, mailboxSend, if_pos (by simp [hsender])]

section
variable (hsender : (s.mailbox ch).sender = m) (hbound : m ≠ 15)
include hsender hbound

/-- The bound sender of an empty channel fills it. -/
theorem execMailboxSend_fills (hempty : (s.mailbox ch).full = false) (ws : List Word) :
    exec (.mailboxSend m ch ws) s = .next (s.setMailbox ch { s.mailbox ch with
      full := true
      words := (List.range 16).map fun i => ws.getD i 0
      refused := (s.mailbox ch).refused && m != 0 }) := by
  rw [execMailboxSend_up hup, mailboxSend, if_neg (by simp [hsender, hbound]), if_neg (by simp [hempty])]

/-- A full channel keeps its message; the host is told. -/
theorem execMailboxSend_refuses (hfull : (s.mailbox ch).full = true) (ws : List Word) :
    exec (.mailboxSend m ch ws) s = .next (s.setMailbox ch { s.mailbox ch with refused := (s.mailbox ch).refused || m == 0 }) := by
  rw [execMailboxSend_up hup, mailboxSend, if_neg (by simp [hsender, hbound]), if_pos hfull]

end

/-- The bound receiver's read of a word empties the channel at the last word alone. -/
theorem execMailboxLastWordRead_receives (hreceiver : (s.mailbox ch).receiver = m) (hbound : m ≠ 15) (w : Nat) :
    exec (.mailboxLastWordRead m ch w) s = .next (if w = 15 then s.setMailbox ch { s.mailbox ch with full := false } else s) :=
  congrArg Host.Outcome.next ((if_neg (by simp [hup])).trans (if_pos (by simp [hreceiver, hbound])))

end

/-- A channel that is set is as it was set, and every other channel as it was. -/
theorem setMailbox_sets (s : State) (ch : Nat) (x : Mailbox) :
    (s.setMailbox ch x).mailbox ch = x ∧ ∀ k, k ≠ ch → (s.setMailbox ch x).mailbox k = s.mailbox k :=
  ⟨State.mailbox_setMailbox .., fun _ hk => State.mailbox_setMailbox_other s x hk⟩

/-! ### The staging store (19 R588, R589) -/

/-- A run of writes reads back whole. -/
theorem memBytes_memStore (m : List Host.Cell) (a : Nat) (l : List Byte) : memBytes (memStore m a l) a l.length = l := by
  refine List.ext_getElem (by simp [memBytes]) fun i hi hl => ?_
  simp [memBytes, memRead_memStore_in m a l hl]

section
variable {p : Nat} {v : Word} {s : State} (hw : s.writable p .staging = true)
include hw

theorem execFwStageWrite_stores {off : Nat} (hstate : s.stage.state ≤ 1) (hoff : off < 8388608) (halign : off % 4 = 0) :
    exec (.fwStageWrite p off v) s = .next
      { s with stage := { s.stage with mem := memStore s.stage.mem off (leBytes 4 v.toNat), state := 1 } } :=
  congrArg Host.Outcome.next (if_pos (by simp [hw, hstate, maxImage, hoff, halign]))

theorem execFwStageCommit_commits (hcommit : bitOf v 1 = true) (hclear : bitOf v 0 = false) :
    exec (.fwStageCommit p v) s = .next (stageCommit s) :=
  congrArg Host.Outcome.next ((if_pos (by simp [hw, hcommit])).trans (by simp [hclear]))

theorem execFwStageClear_clears (hclear : bitOf v 0 = true) (hcommit : bitOf v 1 = false) :
    exec (.fwStageClear p v) s = .next (stageClear s) :=
  congrArg Host.Outcome.next ((if_pos (by simp [hw, hclear])).trans (if_neg (by simp [hcommit])))

end

/-- A store that has a verdict takes no word. -/
theorem execFwStageWrite_ignored {p off : Nat} {v : Word} {s : State} (h : 2 ≤ s.stage.state) :
    exec (.fwStageWrite p off v) s = .next s :=
  congrArg Host.Outcome.next (if_neg (by simp; omega))

theorem badLength_iff (n : Nat) : (n = 0 || maxImage < n) = true ↔ n = 0 ∨ 8388608 < n := by
  rw [Bool.or_eq_true, decide_eq_true_eq, decide_eq_true_eq]
  rfl

theorem stageCommit_badLength {s : State} (h : s.stage.len = 0 ∨ 8388608 < s.stage.len) :
    stageCommit s = { s with stage := { s.stage with state := 4, refuse := 5 } } :=
  if_pos ((badLength_iff _).mpr h)

section
variable {s : State} (hsome : 0 < s.stage.len) (hmost : s.stage.len ≤ 8388608)
include hsome hmost

theorem stageCommit_takes (hstep : firmwareStep s.part (memBytes s.stage.mem 0 s.stage.len) = 0) :
    stageCommit s = { s with stage := { s.stage with
      state := 3, refuse := 0, svn := Config.fwSvn (memBytes s.stage.mem 0 s.stage.len), image := memBytes s.stage.mem 0 s.stage.len } } :=
  (if_neg (by rw [badLength_iff]; omega)).trans (if_neg (by simp [hstep]))

theorem stageCommit_refuses (hstep : firmwareStep s.part (memBytes s.stage.mem 0 s.stage.len) ≠ 0) :
    stageCommit s = { s with stage := { s.stage with
      state := 4, refuse := firmwareStep s.part (memBytes s.stage.mem 0 s.stage.len) } } :=
  (if_neg (by rw [badLength_iff]; omega)).trans (if_pos (by simp [hstep]))

end

/-- A COMMIT leaves the bytes of the store. -/
theorem stageCommit_mem (s : State) : (stageCommit s).stage.mem = s.stage.mem := by
  unfold stageCommit
  extract_lets len image step
  split
  · rfl
  · split <;> rfl

/-- Settles O54: each register write by the case it meets; a message by its sender, its receiver and FULL; a COMMIT by the length of the
image and its first failed check. -/
theorem proofMailboxesAndStaging : Obligations.ProofMailboxesAndStaging := by
  unfold Obligations.ProofMailboxesAndStaging
  refine ⟨fun p v s hw => ⟨fun hlock hopen => ?_, execPolicyLock_again, fun hsvn habove => ?_, fun hno => ?_,
      execPrfFwDigestSelWrite_selects hw⟩,
    fun m ch ws s hup => ⟨fun hsender hbound hempty => ?_, fun hsender hbound hfull => ?_, fun hsender => ?_,
      fun hreceiver hbound => ?_, fun w hreceiver hbound hlast => ?_⟩,
    fun p v s hw => ⟨fun off hstate hoff halign => ?_, fun off => execFwStageWrite_ignored, fun hcommit hclear => ?_,
      execFwStageClear_clears hw⟩⟩
  · obtain ⟨hlocked, hmbx, hpolicy, hmeasure⟩ := lockPolicy_locks hopen
    obtain ⟨hmax, hmin⟩ := lockedPolicy0_marks s.policy0
    rw [← lockPolicy_policy0 hopen] at hmax hmin
    exact ⟨_, execPolicyLock_locks hw hlock, hlocked, hmbx, hmin.trans hmax.ge, hmax, by rw [hpolicy]; rfl, hmeasure, lockPolicy_frame⟩
  · rw [execCommitSvn_of_writable hw, commitSvn_blows hsvn habove]
  · rw [execCommitSvn_of_writable hw, commitSvn_leaves hno]
  · obtain ⟨hset, hothers⟩ := setMailbox_sets s ch
      ⟨(s.mailbox ch).sender, (s.mailbox ch).receiver, true, (s.mailbox ch).refused && m != 0, (List.range 16).map fun i => ws.getD i 0⟩
    exact ⟨_, execMailboxSend_fills hup hsender hbound hempty ws, by rw [hset], by rw [hset], hothers, State.setMailbox_frame⟩
  · refine ⟨_, execMailboxSend_refuses hup hsender hbound hfull ws, ?_⟩
    simp
  · obtain ⟨hmbx, halarm⟩ := mailboxViolation_reports m ch s
    exact ⟨_, execMailboxSend_violates hup hsender ws, by rw [hmbx], by rw [hmbx], halarm⟩
  · obtain ⟨hset, hothers⟩ := setMailbox_sets s ch { s.mailbox ch with full := false }
    exact ⟨_, execMailboxLastWordRead_receives hup hreceiver hbound 15, hset, hothers, State.setMailbox_frame⟩
  · rw [execMailboxLastWordRead_receives hup hreceiver hbound w, if_neg hlast]
  · have hlen := leBytes_length 4 v.toNat
    have hread := memBytes_memStore s.stage.mem off (leBytes 4 v.toNat)
    rw [hlen] at hread
    exact ⟨_, execFwStageWrite_stores hw hstate hoff halign, hread, rfl,
      fun a ha => memRead_memStore_out _ _ (by rw [hlen]; exact ha), execFwStageWrite_frame (execFwStageWrite_stores hw hstate hoff halign)⟩
  · refine ⟨_, execFwStageCommit_commits hw hcommit hclear, fun hlen => ?_, fun hsome hmost hstep => ?_, fun hsome hmost hstep => ?_,
      stageCommit_mem s, stageCommit_frame⟩
    · rw [stageCommit_badLength hlen]
      exact ⟨rfl, rfl⟩
    · rw [stageCommit_takes hsome hmost hstep]
      exact ⟨rfl, rfl, rfl⟩
    · rw [stageCommit_refuses hsome hmost hstep]
      exact ⟨rfl, rfl⟩

end Sys2Proof.Machine
end

section
/-! ### SESSION_OPEN and SESSION_CLOSE (01 R25; 12 R366; 13 R403; 16 R501 to R503) -/

namespace Sys2Proof.Machine

open Sys2Proof

/-! ### The voice library where voices leave (13 R403) -/

/-- The session in whose library a handle stands. -/
def State.voiceOf (s : State) (h : Nat) : Option Nat := (s.model h).map Model.session

/-- From `s` to `t` no voice enters the library or changes its session. -/
def State.NoNewVoice (s t : State) : Prop := ∀ h, t.voiceOf h = none ∨ t.voiceOf h = s.voiceOf h

theorem State.NoNewVoice.refl (s : State) : s.NoNewVoice s := fun _ => .inr rfl

theorem State.NoNewVoice.trans {s t u : State} (a : s.NoNewVoice t) (b : t.NoNewVoice u) : s.NoNewVoice u := fun h =>
  (b h).elim .inl fun hb => (a h).imp hb.trans hb.trans

theorem Frame.noNewVoice {L : List Block} {s t : State} (h : Frame L s t) (hmodels : decide (.models ∈ L) = false) : s.NoNewVoice t :=
  fun k => .inr (by rw [State.voiceOf, State.voiceOf, State.model_congr (h .models (of_decide_eq_false hmodels))])

theorem coldModel_session (job : Nat) (m : Model) : (coldModel job m).session = m.session := by
  unfold coldModel
  split <;> rfl

/-- The end of a job leaves every voice in its session: of its own promotion it makes a cold one. -/
theorem State.endJob_noNewVoice (s : State) (id : Nat) (faulted : Bool) : s.NoNewVoice (s.endJob id faulted) := by
  unfold State.endJob
  split
  · exact .refl s
  · next j hj =>
    extract_lets s1 s2 _ _ _ s3 s4
    have h1 : Frame [.mem, .dram, .hatch, .burin, .rebind] s s1 :=
      Frame.comp State.freeExtents_frame (by decide) (Frame.comp State.releaseCores_frame (by decide)
        (Frame.comp State.dropPlace_frame (by decide) (State.dropTransfers_frame.mono (by decide))))
    have h2 : Frame [.mem, .dram, .hatch, .burin, .rebind] s s2 := Frame.foldl h1 fun _ _ h => State.zeroSet_frame.comp (by decide) h
    have h3 : s2.NoNewVoice s3 := fun h => .inr <| by
      have hmodel : s3.model h = (s2.model h).map (coldModel id) :=
        tabGet_tabMap_filter (f := fun _ m => coldModel id m) s2.models fun m => by rw [coldModel_handle]
      rw [State.voiceOf, State.voiceOf, hmodel, Option.map_map]
      exact congrArg (fun f => Option.map f _) (funext (coldModel_session id))
    have h4 : s3.NoNewVoice s4 := writeJobRecord_frame.noNewVoice rfl
    have h5 : s4.NoNewVoice { s4 with jobs := tabErase s4.jobs id } := .refl _
    exact ((((h2.noNewVoice rfl).trans h3).trans h4).trans h5).trans (State.nextFrost_frame.noNewVoice rfl)

theorem State.tearDown_noNewVoice (s : State) (id rule : Nat) : s.NoNewVoice (s.tearDown id rule) := by
  cases hj : s.job id with
  | none =>
    rw [State.tearDown, State.tearDownWith, hj]
    exact .refl s
  | some j =>
    rw [tearDown_eq hj]
    have hrows : s.NoNewVoice (s.rowsEnded j) :=
      ((State.jobHalted_frame.noNewVoice rfl).trans ((faultRows_frame _ _).noNewVoice rfl)).trans (State.completeAdapt_frame.noNewVoice rfl)
    exact ((hrows.trans (State.endJob_noNewVoice _ _ _)).trans (State.bump_frame.noNewVoice rfl)).trans (State.writeLog_frame.noNewVoice rfl)

theorem State.stopPromotion_noNewVoice (s : State) (m : Model) : s.NoNewVoice (s.stopPromotion m) := by
  unfold State.stopPromotion
  split
  · exact s.tearDown_noNewVoice _ _
  · exact s.tearDown_noNewVoice _ _
  · exact .refl s

theorem State.evict_noNewVoice (s : State) (m : Model) : s.NoNewVoice (s.evict m) := by
  unfold State.evict
  extract_lets u
  have hu : s.NoNewVoice u :=
    (State.stopPromotion_noNewVoice s m).trans ((State.zeroSet_frame.noNewVoice rfl).trans (State.freeExtents_frame.noNewVoice rfl))
  refine hu.trans fun h => ?_
  by_cases hh : h = m.handle
  · left
    simp [State.voiceOf, State.model, hh, tabGet_tabErase_same]
  · right
    simp [State.voiceOf, State.model, tabGet_tabErase_other _ hh]

/-- What is evicted is gone, whatever is evicted behind it. -/
theorem evictions_gone {l : List Model} {m : Model} (hm : m ∈ l) (s : State) : (l.foldl State.evict s).voiceOf m.handle = none := by
  induction l generalizing s with
  | nil => cases hm
  | cons a l ih =>
    obtain rfl | hl := List.mem_cons.mp hm
    · have hgone : (s.evict m).voiceOf m.handle = none := by rw [State.voiceOf, evict_model, Option.map_none]
      have hrest : (s.evict m).NoNewVoice (l.foldl State.evict (s.evict m)) :=
        List.foldlRecOn (motive := fun t => (s.evict m).NoNewVoice t) l State.evict (.refl _)
          fun t ht a _ => ht.trans (t.evict_noNewVoice a)
      exact (hrest m.handle).elim id fun h => h.trans hgone
    · exact ih hl _

/-- The voices of a session (13 R403). -/
def State.sessionVoices (s : State) (n : Nat) : List Model := (s.models.map (·.2)).filter (·.session == n)

/-- Behind the evictions of a session's voices none of them is in the library. -/
theorem sessionVoices_gone (s : State) (n : Nat) {h : Nat} {m : Model}
    (hm : ((s.sessionVoices n).foldl State.evict s).model h = some m) : m.session ≠ n := by
  rintro rfl
  generalize ht : (s.sessionVoices m.session).foldl State.evict s = t at hm
  have hvoice : t.voiceOf h = some m.session := by rw [State.voiceOf, hm, Option.map_some]
  have hall : s.NoNewVoice t := ht ▸
    List.foldlRecOn (motive := fun t => s.NoNewVoice t) _ State.evict (.refl s) fun t h a _ => h.trans (t.evict_noNewVoice a)
  have hbefore : s.voiceOf h = some m.session := by
    obtain hnone | hsame := hall h
    · rw [hvoice] at hnone
      cases hnone
    · rw [← hsame, hvoice]
  obtain ⟨v, hv, hsession⟩ := Option.map_eq_some_iff.mp hbefore
  obtain ⟨hget, hhandle⟩ := Option.filter_eq_some_iff.mp hv
  have hmem : v ∈ s.sessionVoices m.session :=
    List.mem_filter.mpr ⟨List.mem_map.mpr ⟨_, mem_of_tabGet hget, rfl⟩, beq_iff_eq.mpr hsession⟩
  have hgone := evictions_gone hmem s
  rw [ht, beq_iff_eq.mp hhandle, hvoice] at hgone
  cases hgone

/-! ### What an opening leaves (01 R25; 16 R502, R503) -/

theorem bytesAt_length (b : List Byte) (off n : Nat) : (bytesAt b off n).length = n := by
  rw [bytesAt, List.length_map, List.length_range]

/-- Proof's reply with its signature and its padding. -/
def replyBytes (s : State) (n : Nat) (d : Desc) (q : List Byte) : List Byte :=
  (openSession n d q s).2 ++ s.sign (openSession n d q s).2 ++ zeros 462

theorem replyBytes_length (s : State) (n : Nat) (d : Desc) (q : List Byte) : (replyBytes s n d q).length = 1024 := by
  simp only [replyBytes, openSession, replyBody, State.sign, zeros, List.length_append, bytesAt_length, leBytes_length,
    List.length_replicate]

/-- The session that a request opens, its tenant the digest of the request's key. -/
theorem openSession_opens (s : State) (n : Nat) (d : Desc) (q : List Byte) :
    ∃ x, (openSession n d q s).1.session n = some x ∧ x.tid = bytesAt (digest32 (bytesAt q 0xA0 57)) 0 16 :=
  ⟨_, State.session_setSession .., rfl⟩

theorem openSession_session_other (s : State) (n : Nat) (d : Desc) (q : List Byte) {m : Nat} (hm : m ≠ n) :
    (openSession n d q s).1.session m = s.session m :=
  State.session_setSession_other { s with free := s.free + 1 } _ hm

/-- Proof reads neither the tally windows nor the counters. -/
theorem openSession_setApart (s : State) (n : Nat) (d : Desc) (q : List Byte) :
    (openSession n d q (s.setApart n)).1.session n = (openSession n d q s).1.session n ∧
    replyBytes (s.setApart n) n d q = replyBytes s n d q := by
  unfold State.setApart
  split
  · split
    · simp only [openSession, State.session_setSession]
      exact ⟨rfl, rfl⟩
    · exact ⟨rfl, rfl⟩
  · exact ⟨rfl, rfl⟩

/-- Counts of a session that closed in the same tally window stay apart. -/
theorem setApart_closed {s : State} {n : Nat} {y : Tally} (hy : tabGet s.tallies n = some y) (hclosed : y.closed.isSome = true) :
    (n, y) ∈ (s.setApart n).acct.closed := by
  simp [State.setApart, hy, hclosed]

theorem State.charge_session_other (s : State) {sess m : Nat} (hm : m ≠ sess) (d : Account) :
    (s.charge sess none d).session m = s.session m := by
  unfold State.charge
  simp only [Option.bind_none]
  split
  · exact State.session_setSession_other s _ hm
  · rfl

theorem State.complete_state (s : State) (n : Nat) (d : Desc) (x : Done) : ((s.complete n d x).ring n).state = (s.ring n).state := by
  simp [State.complete, State.hold]

/-- The state in which Proof has opened a request's session, counts of an earlier one set apart. -/
def State.sessionOpened (s : State) (n : Nat) (d : Desc) (q : List Byte) : State :=
  (openSession n d q ((s.bump (0x100 + (s.ring n).port) d.reqBytes).setApart n)).1

/-- The reply goes out and the ring is bound (16 R503, 12 R366). -/
def State.ringBound (s : State) (n : Nat) (d : Desc) (reply : List Byte) : State :=
  let s := s.ringWrite n d.respAddr reply
  s.setRing n { s.ring n with state := .bound }

/-- BIND goes to Almanac, and the session is counted and charged for its request and its reply (17 R535, 11 R352). -/
def State.sessionBound (s : State) (n : Nat) (d : Desc) : State :=
  ((sendAlm 1 n (((s.session n).map (·.tid)).getD [] ++ leBytes 6 s.tb.frame.toNat) s).bump 0x242 1).charge n none
    { Account.zero with ramokIn := d.reqBytes, ramokOut := 1024 }

theorem sessionOpened_frame (s : State) (n : Nat) (d : Desc) (q : List Byte) :
    Frame [.sessions, .cnt, .acct, .tallies, .free] s (s.sessionOpened n d q) :=
  Frame.comp (openSession_frame rfl) (by decide) (Frame.comp State.setApart_frame (by decide) (State.bump_frame.mono (by decide)))

theorem sessionOpened_session (s : State) (n : Nat) (d : Desc) (q : List Byte) :
    (s.sessionOpened n d q).session n = (openSession n d q s).1.session n :=
  (openSession_setApart (s.bump (0x100 + (s.ring n).port) d.reqBytes) n d q).1

theorem sessionOpened_session_other (s : State) (n : Nat) (d : Desc) (q : List Byte) {m : Nat} (hm : m ≠ n) :
    (s.sessionOpened n d q).session m = s.session m := by
  have hapart : Frame [.cnt, .acct, .tallies] s ((s.bump (0x100 + (s.ring n).port) d.reqBytes).setApart n) :=
    Frame.comp State.setApart_frame (by decide) (State.bump_frame.mono (by decide))
  exact (openSession_session_other _ n d q hm).trans (congrFun (State.session_congr (hapart .sessions (by decide))) m)

theorem sessionOpened_closed {s : State} {n : Nat} {y : Tally} (hy : tabGet s.tallies n = some y) (hclosed : y.closed.isSome = true)
    (d : Desc) (q : List Byte) : (n, y) ∈ (s.sessionOpened n d q).acct.closed :=
  setApart_closed (s := s.bump (0x100 + (s.ring n).port) d.reqBytes) hy hclosed

theorem ringBound_frame (s : State) (n : Nat) (d : Desc) (reply : List Byte) : Frame [.rmk, .cnt, .host] s (s.ringBound n d reply) :=
  Frame.comp State.setRing_frame (by decide) (State.ringWrite_frame.mono (by decide))

theorem ringBound_sets (s : State) (n : Nat) (d : Desc) (reply : List Byte) :
    s.SetsRing n { s.ring n with state := .bound } (s.ringBound n d reply) := by
  have hring : (s.ringWrite n d.respAddr reply).ring = s.ring := State.ring_congr (State.ringWrite_frame .rmk (by decide))
  have hset := (s.ringWrite n d.respAddr reply).setRing_sets n { (s.ringWrite n d.respAddr reply).ring n with state := .bound }
  rw [hring] at hset
  exact ⟨by rw [State.ringBound, hring]; exact hset.ring, fun m hm => by
    rw [State.ringBound, hring]; exact (hset.others m hm).trans (congrFun hring m)⟩

theorem sessionBound_frame (s : State) (n : Nat) (d : Desc) :
    Frame [.sessions, .jobs, .cnt, .tallies, .mseqOut, .almSent] s (s.sessionBound n d) :=
  Frame.comp State.charge_frame (by decide) (Frame.comp State.bump_frame (by decide) (sendAlm_frame.mono (by decide)))

theorem sessionBound_session {s : State} {n : Nat} {x : Session} (h : s.session n = some x) (d : Desc) :
    (s.sessionBound n d).session n =
      some { x with account := x.account.charge { Account.zero with ramokIn := d.reqBytes, ramokOut := 1024 } } :=
  State.charge_session (s := (sendAlm 1 n _ s).bump 0x242 1) h none _

theorem sessionBound_session_other (s : State) (n : Nat) (d : Desc) {m : Nat} (hm : m ≠ n) :
    (s.sessionBound n d).session m = s.session m :=
  State.charge_session_other ((sendAlm 1 n _ s).bump 0x242 1) hm _

theorem sessionBound_almSent {s : State} {n : Nat} {x : Session} (h : s.session n = some x) (d : Desc) :
    (s.sessionBound n d).almSent = s.almSent ++
      [leBytes 1 1 ++ zeros 1 ++ leBytes 2 n ++ leBytes 4 s.mseqOut ++ bytesAt (x.tid ++ leBytes 6 s.tb.frame.toNat) 0 56] := by
  rw [State.sessionBound, State.charge_almSent, h]
  rfl

/-- The state behind a request that every check lets through: the session is opened, bound and charged. -/
def State.sessionStarted (s : State) (n : Nat) (d : Desc) (q : List Byte) : State :=
  ((s.sessionOpened n d q).ringBound n d (replyBytes s n d q)).sessionBound n d

section
variable (s : State) (n : Nat) (d : Desc) (q : List Byte)

theorem sessionOpened_ring : (s.sessionOpened n d q).ring = s.ring :=
  State.ring_congr (sessionOpened_frame s n d q .rmk (by decide))

theorem ringBound_session : ((s.sessionOpened n d q).ringBound n d (replyBytes s n d q)).session = (s.sessionOpened n d q).session :=
  State.session_congr (ringBound_frame _ n d _ .sessions (by decide))

theorem sessionStarted_sets : s.SetsRing n { s.ring n with state := .bound } (s.sessionStarted n d q) := by
  have hsets := (ringBound_sets (s.sessionOpened n d q) n d (replyBytes s n d q)).frame (sessionBound_frame _ n d) rfl
  rw [sessionOpened_ring] at hsets
  exact ⟨hsets.ring, fun m hm => (hsets.others m hm).trans (congrFun (sessionOpened_ring s n d q) m)⟩

theorem sessionStarted_session_other {m : Nat} (hm : m ≠ n) : (s.sessionStarted n d q).session m = s.session m := by
  rw [State.sessionStarted, sessionBound_session_other _ n d hm, ringBound_session, sessionOpened_session_other s n d q hm]

theorem sessionStarted_closed {y : Tally} (hy : tabGet s.tallies n = some y) (hclosed : y.closed.isSome = true) :
    (n, y) ∈ (s.sessionStarted n d q).acct.closed := by
  have hbound : (s.sessionStarted n d q).acct = _ := sessionBound_frame _ n d .acct (by decide)
  have hring : ((s.sessionOpened n d q).ringBound n d (replyBytes s n d q)).acct = _ := ringBound_frame _ n d _ .acct (by decide)
  rw [hbound, hring]
  exact sessionOpened_closed hy hclosed d q

/-- The reply is the one thing that goes to the host. -/
theorem sessionStarted_writes (hlink : (s.ring n).linkLost = false) :
    (s.sessionStarted n d q).host.writes = s.host.writes ++ [⟨(s.ring n).port, d.respAddr, replyBytes s n d q⟩] := by
  have hring := sessionOpened_ring s n d q
  have hopened : (s.sessionOpened n d q).host = s.host := sessionOpened_frame s n d q .host (by decide)
  have hbound : (s.sessionStarted n d q).host = _ := sessionBound_frame _ n d .host (by decide)
  rw [hbound, State.ringBound, State.setRing_host, ringWrite_linked (by rw [hring]; exact hlink), hring, hopened]

/-- The session that is opened is charged for its request and its reply, and Almanac has its BIND. -/
theorem sessionStarted_opens : ∃ x, (openSession n d q s).1.session n = some x ∧ x.tid = bytesAt (digest32 (bytesAt q 0xA0 57)) 0 16 ∧
    (s.sessionStarted n d q).session n =
      some { x with account := x.account.charge { Account.zero with ramokIn := d.reqBytes, ramokOut := 1024 } } ∧
    (s.sessionStarted n d q).almSent = s.almSent ++
      [leBytes 1 1 ++ zeros 1 ++ leBytes 2 n ++ leBytes 4 s.mseqOut ++ bytesAt (x.tid ++ leBytes 6 s.tb.frame.toNat) 0 56] := by
  obtain ⟨x, hx, htid⟩ := openSession_opens s n d q
  have hbound : ((s.sessionOpened n d q).ringBound n d (replyBytes s n d q)).session n = some x := by
    rw [ringBound_session, sessionOpened_session, hx]
  have hkept : Frame [.rmk, .sessions, .cnt, .acct, .tallies, .free, .host] s
      ((s.sessionOpened n d q).ringBound n d (replyBytes s n d q)) :=
    (ringBound_frame _ n d _).comp (by decide) ((sessionOpened_frame s n d q).mono (by decide))
  have halm : ((s.sessionOpened n d q).ringBound n d (replyBytes s n d q)).almSent = s.almSent := hkept .almSent (by decide)
  have hseq : ((s.sessionOpened n d q).ringBound n d (replyBytes s n d q)).mseqOut = s.mseqOut := hkept .mseqOut (by decide)
  have htb : ((s.sessionOpened n d q).ringBound n d (replyBytes s n d q)).tb = s.tb := hkept .tb (by decide)
  refine ⟨x, hx, htid, sessionBound_session hbound d, ?_⟩
  rw [State.sessionStarted, sessionBound_almSent hbound, halm, hseq, htb]

end

section
variable {n k : Nat} {request : List Byte} {d : Desc} {s : State} (hd : s.desc n k = some d) (hop : d.opcode = 0x01)
  (hlink : (s.ring n).linkLost = false)
include hd hop hlink

theorem execSessionOpen_refuses {reason : Nat} (hreason : requestReason s d.reqBytes (bytesAt request 0 386) = some reason) :
    exec (.sessionOpen n k request) s = .next
      ((s.bump (0x100 + (s.ring n).port) d.reqBytes).complete n d { status := stSessionRefused, detail := reason }) := by
  have hbump : requestReason (s.bump (0x100 + (s.ring n).port) d.reqBytes) d.reqBytes (bytesAt request 0 386) = some reason := hreason
  show execSessionOpen n k request s = _
  unfold execSessionOpen
  simp only [hd]
  rw [if_neg (by simp [hop, hlink])]
  simp only [hbump]

theorem execSessionOpen_opens (hgood : requestReason s d.reqBytes (bytesAt request 0 386) = none) :
    exec (.sessionOpen n k request) s = .next
      ((s.sessionStarted n d (bytesAt request 0 386)).complete n d { status := stSuccess, result := n }) := by
  have hbump : requestReason (s.bump (0x100 + (s.ring n).port) d.reqBytes) d.reqBytes (bytesAt request 0 386) = none := hgood
  have hreply := (openSession_setApart (s.bump (0x100 + (s.ring n).port) d.reqBytes) n d (bytesAt request 0 386)).2
  show execSessionOpen n k request s = _
  unfold execSessionOpen
  simp only [hd]
  rw [if_neg (by simp [hop, hlink])]
  simp only [hbump]
  rw [State.sessionStarted, show replyBytes s n d (bytesAt request 0 386) = _ from hreply.symm]
  rfl

end

/-! ### SESSION_CLOSE (13 R403) -/

/-- The state behind a session: its voices have left, its final record and receipt are written, it is gone with its keys, and its tallies
close with the Frame. -/
def State.sessionClosed (s : State) (n : Nat) : State :=
  let s := writeReceipt n 2 0 [] [] (writeSessionRecord 3 n ((s.sessionVoices n).foldl State.evict s))
  { s with
    sessions := tabErase s.sessions n
    tallies := tabSet s.tallies n { (tabGet s.tallies n).getD ⟨[], [], none⟩ with closed := some s.tb.frame } }

section
variable (s : State) (n : Nat)

theorem sessionClosed_session : (s.sessionClosed n).session n = none := tabGet_tabErase_same ..

theorem sessionClosed_models : (s.sessionClosed n).models = ((s.sessionVoices n).foldl State.evict s).models :=
  (writeReceipt_frame .models (by decide)).trans (writeSessionRecord_frame .models (by decide))

theorem sessionClosed_tally :
    ∃ y, tabGet (s.sessionClosed n).tallies n = some y ∧ y.closed = some s.tb.frame := by
  have hevict : Frame tearDownBlocks s ((s.sessionVoices n).foldl State.evict s) :=
    Frame.foldl .refl fun _ _ h => State.evict_frame.comp (by decide) h
  have htb : (writeReceipt n 2 0 [] [] (writeSessionRecord 3 n ((s.sessionVoices n).foldl State.evict s))).tb = s.tb :=
    ((writeReceipt_frame .tb (by decide)).trans (writeSessionRecord_frame .tb (by decide))).trans (hevict .tb (by decide))
  exact ⟨_, tabGet_tabSet_same .., by rw [htb]⟩

end

section
variable {n k : Nat} {d : Desc} {s : State} (hd : s.desc n k = some d) (hop : d.opcode = 0x02) (hstart : s.mayStart n d = true)
  (hlink : (s.ring n).linkLost = false)
include hd hop hstart hlink

theorem execSessionClose_notEmpty
    (hmore : (∃ x ∈ s.streamList, x.session = n ∧ x.phase ≠ .closed) ∨ ∃ e ∈ (s.ring n).accepted, e.seq ≠ k) :
    exec (.sessionClose n k) s = .next (s.complete n d { status := stSessionNotEmpty }) := by
  show execSessionClose n k s = _
  unfold execSessionClose
  simp only [hd]
  rw [if_neg (by simp [hop, hstart, hlink]), if_pos (by simpa using hmore)]

theorem execSessionClose_closes (hstreams : ∀ x ∈ s.streamList, x.session = n → x.phase = .closed)
    (halone : ∀ e ∈ (s.ring n).accepted, e.seq = k) :
    exec (.sessionClose n k) s = .next
      (((s.sessionClosed n).setRing n { (s.sessionClosed n).ring n with state := .unbound }).complete n d { status := stSuccess }) := by
  have hnone : ¬(s.streamList.any (fun x => x.session == n && x.phase != .closed) || (s.ring n).accepted.any fun e => e.seq != k) := by
    simpa using ⟨hstreams, halone⟩
  show execSessionClose n k s = _
  unfold execSessionClose
  simp only [hd]
  rw [if_neg (by simp [hop, hstart, hlink]), if_neg hnone]
  rfl

end

/-- Settles O20: an opening by the first check that its request fails, or by what is left of the session, the reply and BIND; a close by
whether the session is empty. -/
theorem sessions : Obligations.Sessions := by
  unfold Obligations.Sessions
  refine ⟨fun n k request d s hd hop hlink => ?_, fun n k d s hd hop hstart hlink hstreams halone => ?_,
    fun n k d s hd hop hstart hlink hmore => retires_of_complete (execSessionClose_notEmpty hd hop hstart hlink hmore)⟩
  · intro q o
    cases hreason : requestReason s d.reqBytes q with
    | some reason =>
      have hexec := execSessionOpen_refuses hd hop hlink hreason
      refine ⟨_, hexec, fun m hm => ?_, exec_frame hexec, fun r hr => ?_, fun hnone => by cases hnone⟩
      · exact State.complete_ring_other _ d _ hm
      · obtain rfl := Option.some.inj hr
        exact ⟨State.complete_retired .., State.complete_frame.comp (by decide) (State.bump_frame.mono (by decide)),
          State.complete_state ..⟩
    | none =>
      have hexec := execSessionOpen_opens hd hop hlink hreason
      obtain ⟨x, hx, htid, hsession, halm⟩ := sessionStarted_opens s n d q
      have hsets := sessionStarted_sets s n d q
      refine ⟨_, hexec, fun m hm => ?_, exec_frame hexec, fun _ hsome => by simp at hsome, fun _ => ⟨State.complete_retired .., ?_,
        ⟨x, hx, htid, ?_, ?_⟩, replyBytes_length s n d q, ?_, fun y hy hclosed => ?_, fun m hm => ?_⟩⟩
      · rw [State.complete_ring_other _ d _ hm, hsets.others m hm]
      · rw [State.complete_state, hsets.ring]
      · rw [State.session_complete, hsession]
      · rw [State.complete_almSent, halm]
      · rw [State.complete_host, sessionStarted_writes s n d q hlink]
        rfl
      · rw [State.complete_acct]
        exact sessionStarted_closed s n d q hy hclosed
      · rw [State.session_complete, sessionStarted_session_other s n d q hm]
  · have hexec := execSessionClose_closes hd hop hstart hlink hstreams halone
    refine ⟨_, hexec, State.complete_retired .., ?_, ?_, fun _ h m hm => ?_, ?_, exec_frame hexec⟩
    · rw [State.complete_state, State.ring_setRing]
    · rw [State.session_complete, State.session_setRing, sessionClosed_session]
    · rw [State.model_complete, State.model_setRing, State.model_congr (sessionClosed_models s n)] at hm
      exact sessionVoices_gone s n hm
    · rw [State.complete_tallies, State.setRing_tallies]
      exact sessionClosed_tally s n

end Sys2Proof.Machine
end

section
/-! ### The queue, what every command completes with, and the edges of ESL_BOOT_STATE.STATE (20 R596; 19 R578, R581, R584) -/

namespace Sys2Proof.Machine

open Sys2Proof

/-! ### A step (log entry 9) -/

theorem step_of_pending_nil {s : State} (h : s.pending = []) : step s = .next s := by
  unfold step
  rw [h]

theorem step_cons (c : Instr) (rest : List Instr) (s : State) :
    step { s with pending := c :: rest } = exec c { s with pending := rest } := rfl

/-- Settles O1: both arms of `step`. -/
theorem stepRunsTheFrontCommand : Obligations.StepRunsTheFrontCommand :=
  ⟨step_cons, fun _ => step_of_pending_nil⟩

/-! ### The invariant after reset (19 R578) -/

/-- A locked policy register file is no part of the reset state. -/
theorem reset_unlocked : State.reset.proof.locked = false := rfl

/-- Settles O3: each clause is a value of `State.reset`; the policy is not locked, and nothing is pending. -/
theorem resetMeetsTheInvariant : Obligations.ResetMeetsTheInvariant where
  dram := rfl
  plate := rfl
  acc := rfl
  stage := rfl
  season := by decide
  osc := by decide
  pendingCfg := fun _ h => nomatch h
  ticks := Nat.zero_le _
  capSteps := by decide
  capNow := by decide
  scrub := by decide
  rollback := by decide
  policyRegs := rfl
  policy := fun h => by simp [reset_unlocked] at h
  order := by decide
  logRate := by decide
  interval := ⟨by decide, fun _ h => nomatch h⟩
  queue := fun _ h => nomatch h

/-! ### The frame of every command -/

/-- Settles O5: by the frame of each command's meaning. -/
theorem commandsTouchOnlyTheirBlocks : Obligations.CommandsTouchOnlyTheirBlocks :=
  fun _ _ _ h => exec_frame h

/-! ### The one stop (20 R596) -/

theorem atBusbar_above {v : Nat} (s : State) (h : 6000 < v) : atBusbar v s = .fault .overvoltage := if_pos h

theorem atBusbar_within {v : Nat} (s : State) (h : v ≤ 6000) : atBusbar v s = .next s := if_neg (Nat.not_lt.mpr h)

/-- What a report of the busbar answers, on both sides of 60.0 V. -/
theorem atBusbar_answers (v : Nat) (s : State) :
    (6000 < v → atBusbar v s = .fault .overvoltage) ∧ (v ≤ 6000 → ∃ t, atBusbar v s = .next t) :=
  ⟨atBusbar_above s, fun h => ⟨s, atBusbar_within s h⟩⟩

/-- Settles O2: a command that reports a voltage answers through `atBusbar`; every other one answers a next state whatever it meets. -/
theorem onlyOvervoltageStops : Obligations.OnlyOvervoltageStops := by
  intro c s
  cases c with
  | coldStart v => exact atBusbar_answers v _
  | resetHoldEnd v => exact atBusbar_answers v _
  | supplyReset v => exact atBusbar_answers v _
  | supplyWarning v => exact atBusbar_answers v _
  | supplyWarningEnd v => exact atBusbar_answers v _
  | _ => exact ⟨fun h => absurd h (by simp [supplyVolts]), fun _ => ⟨_, rfl⟩⟩

/-! ### The edges of ESL_BOOT_STATE.STATE (19 R581, R584; 18 R563) -/

/-- From `s` to `t` the boot state is kept, or moves from `p` to `q`. -/
def PhaseKeptOr (p q : Phase) (s t : State) : Prop :=
  t.boot.phase = s.boot.phase ∨ (s.boot.phase = p ∧ t.boot.phase = q)

theorem CounterKept.phase {s t : State} (h : CounterKept s t) : t.boot.phase = s.boot.phase ∨ t.boot.phase = .reset :=
  h.imp And.left And.left

theorem execResetHoldEnd_phase {v : Nat} {s t : State} (h : execResetHoldEnd v s = .next t) : PhaseKeptOr .reset .wake s t := by
  rw [← atBusbar_next h]
  split
  · next hgo => exact .inr ⟨by simp at hgo; exact hgo.1.1.1, rfl⟩
  · exact .inl rfl

theorem execWake_phase {ms : Nat} {s t : State} (h : execWake ms s = .next t) : PhaseKeptOr .wake .verify s t := by
  rw [← Host.Outcome.next.inj h]
  split
  · next hwake => exact .inr ⟨hwake, rfl⟩
  · exact .inl rfl

theorem execVerify_phase {ms : Nat} {s t : State} (h : execVerify ms s = .next t) :
    PhaseKeptOr .verify .cores s t ∨ PhaseKeptOr .verify .fwRefused s t := by
  rw [← Host.Outcome.next.inj h]
  split
  · next hverify =>
    extract_lets step
    split
    · exact .inl (.inr ⟨hverify, rfl⟩)
    · exact .inr (.inr ⟨hverify, rfl⟩)
  · exact .inl (.inl rfl)

theorem enter_phase (s : State) (p : Phase) (ms : Nat) : (s.enter p ms).boot.phase = p := rfl

theorem enterFaulted_phase (s : State) (cause : Nat) : (s.enterFaulted cause).boot.phase = .faulted :=
  (enterFaulted_faults s cause).1

theorem moduleFault_phase (s : State) (cause : Nat) : (s.moduleFault cause).boot.phase = .faulted :=
  (moduleFault_faults s cause).1

theorem execCores_phase {ms : Nat} {r : CoresReport} {s t : State} (h : execCores ms r s = .next t) :
    PhaseKeptOr .cores .memory s t ∨ PhaseKeptOr .cores .faulted s t := by
  rw [← Host.Outcome.next.inj h]
  split
  · next hcores =>
    extract_lets s1 s2 s3 s4
    have hfaulted (u : State) (cause : Nat) : PhaseKeptOr .cores .faulted s (u.enterFaulted cause) :=
      .inr ⟨hcores, enterFaulted_phase u cause⟩
    split
    · exact .inr (hfaulted ..)
    split
    · exact .inr (hfaulted ..)
    split
    · exact .inr (hfaulted ..)
    split
    · exact .inr (hfaulted ..)
    · exact .inl (.inr ⟨hcores, rfl⟩)
  · exact .inl (.inl rfl)

theorem execMemory_phase {ms : Nat} {l : List ChannelTrain} {s t : State} (h : execMemory ms l s = .next t) :
    PhaseKeptOr .memory .measure s t ∨ PhaseKeptOr .memory .faulted s t := by
  rw [← Host.Outcome.next.inj h]
  split
  · next hmemory =>
    extract_lets slowRun table s1 n s2
    split
    · exact .inr (.inr ⟨hmemory, enterFaulted_phase ..⟩)
    · exact .inl (.inr ⟨hmemory, rfl⟩)
  · exact .inl (.inl rfl)

theorem execMeasure_phase {ms : Nat} {s t : State} (h : execMeasure ms s = .next t) : PhaseKeptOr .measure .ready s t := by
  rw [← Host.Outcome.next.inj h]
  split
  · next hmeasure => exact .inr ⟨hmeasure, rfl⟩
  · exact .inl rfl

theorem execSupplyWarningEnd_phase {v : Nat} {s t : State} (h : execSupplyWarningEnd v s = .next t) : t.boot.phase = s.boot.phase := by
  rw [← atBusbar_next h]
  split <;> rfl

/-- What a supply warning asks of the Fill jobs and raises leaves the boot state's record (18 R565). -/
theorem frostFills_boot (l : List Job) (s : State) (low : Nat) :
    ((l.foldl (fun s j => s.requestFrost j.id) (s.bump 0x280 1)).raiseAlarm 0x01 0 low).boot = s.boot := by
  rw [State.raiseAlarm_boot]
  exact Frame.foldl (L := [.jobs, .cnt]) (State.bump_frame.widen rfl)
    (fun _ _ h => Frame.comp State.requestFrost_frame (by decide) h) .boot (by decide)

theorem execSupplyWarning_phase {v : Nat} {s t : State} (h : execSupplyWarning v s = .next t) : t.boot.phase = s.boot.phase := by
  rw [← atBusbar_next h]
  split
  · rfl
  split
  · rfl
  extract_lets new low s1 s2 fills
  split
  · rw [frostFills_boot]
  · rfl

theorem Boot.tick_phase (b : Boot) : b.tick.phase = b.phase := by
  unfold Boot.tick
  split <;> rfl

theorem execSampleTick_phase {s t : State} (h : execSampleTick s = .next t) : t.boot.phase = s.boot.phase := by
  rw [← Host.Outcome.next.inj h]
  split
  · rfl
  extract_lets _ s1 s2 s3 s4
  have h3 : s3.boot = s.boot.tick := by
    unfold s3
    split
    · rw [State.bump_boot, State.bump_boot]
    · rw [State.bump_boot]
  have h4 : s4.boot = s3.boot :=
    Frame.ite (L := [.streams, .cnt]) (fun _ => Frame.foldl .refl fun _ _ ht => Frame.comp slipStream_frame (by decide) ht)
      (fun _ => .refl) .boot (by decide)
  have hlines : s4.lineTick.groupTick.boot = s4.boot :=
    Frame.comp (L := [.streams, .jobs, .lines, .cnt, .tallies]) State.groupTick_frame (by decide) State.lineTick_frame .boot (by decide)
  split
  · rw [h3, Boot.tick_phase]
  · rw [hlines, h4, h3, Boot.tick_phase]

theorem execModuleFault_phase {cause : Nat} {s t : State} (h : execModuleFault cause s = .next t) :
    PhaseKeptOr .ready .faulted s t := by
  rw [← Host.Outcome.next.inj h]
  split
  · next hgo => exact .inr ⟨by simp at hgo; exact hgo.1.1, moduleFault_phase ..⟩
  · exact .inl rfl

theorem execEaselFailover_phase {e : Nat} {s t : State} (h : execEaselFailover e s = .next t) : PhaseKeptOr .ready .faulted s t := by
  rw [← Host.Outcome.next.inj h]
  split
  · exact .inl rfl
  next hgo =>
  have hready : s.boot.phase = .ready := by simp at hgo; exact hgo.1.1
  extract_lets first s1 left
  split
  · exact .inr ⟨hready, moduleFault_phase ..⟩
  split
  · exact .inr ⟨hready, moduleFault_phase ..⟩
  · exact .inl (by rw [State.raiseAlarm_boot])

/-- A line outside the system area costs a stream, a job or a model, never the module (10 R309). -/
theorem loseLine_boot {s : State} {a : Nat} (ha : ¬a < 0x800000000) : (s.loseLine a).boot = s.boot := by
  have htear (id rule : Nat) : (s.tearDown id rule).boot = s.boot := State.tearDown_frame .boot (by decide)
  unfold State.loseLine
  rw [if_neg ha]
  split
  · split
    · exact State.faultRowOf_frame .boot (by decide)
    · rfl
  split
  · split
    · split
      · exact htear ..
      · rfl
    · rfl
  split
  · split
    · exact htear ..
    split
    · split
      · rfl
      · exact State.damage_frame .boot (by decide)
    · rfl
  · rfl

theorem execDramUncorrectableRead_phase {a : Nat} {s t : State} (h : execDramUncorrectableRead a s = .next t) :
    PhaseKeptOr .ready .faulted s t := by
  by_cases hready : s.boot.phase = .ready
  · have ht : s.countUe.loseLine a = t :=
      Host.Outcome.next.inj ((execDramUncorrectableRead_loses hready rfl).symm.trans h)
    rw [← ht]
    by_cases ha : a < 0x800000000
    · exact .inr ⟨hready, by rw [loseLine_system ha]; exact moduleFault_phase ..⟩
    · exact .inl (congrArg Boot.phase ((loseLine_boot ha).trans (countUe_frame s .boot (by decide))))
  · rw [← Host.Outcome.next.inj h, if_pos (by simpa using hready)]
    exact .inl rfl

/-- Settles O7: bring-up and faults by the edge of their own, resets and register writes by `CounterKept`, and every command that
leaves the boot state's record by its frame. -/
theorem bootStateEdges : Obligations.BootStateEdges := by
  intro c s t h
  have kept (hk : CounterKept s t) {P : Prop} : t.boot.phase = s.boot.phase ∨ t.boot.phase = .reset ∨ P := hk.phase.imp_right .inl
  have edge {p q : Phase} {P : Prop} (he : PhaseKeptOr p q s t) (hP : s.boot.phase = p → t.boot.phase = q → P) :
      t.boot.phase = s.boot.phase ∨ t.boot.phase = .reset ∨ P := he.imp_right fun ⟨hs, ht⟩ => .inr (hP hs ht)
  cases c with
  | coldStart => exact kept (execColdStart_counterKept h)
  | hostReset => exact kept (execHostReset_counterKept h)
  | supplyReset => exact kept (execSupplyReset_counterKept h)
  | thermalTrip => exact kept (execThermalTrip_counterKept h)
  | almanacInputLoss => exact kept (execAlmanacInputLoss_counterKept h)
  | maintenanceWrite => exact kept (execMaintenanceWrite_counterKept h)
  | resetHoldEnd v => exact edge (execResetHoldEnd_phase h) fun hs ht => by rw [hs, ht]; exact ⟨v, rfl⟩
  | wake ms => exact edge (execWake_phase h) fun hs ht => by rw [hs, ht]; exact ⟨ms, rfl⟩
  | verify ms =>
    obtain hcores | hrefused := execVerify_phase h
    · exact edge hcores fun hs ht => by rw [hs, ht]; exact ⟨ms, rfl⟩
    · exact edge hrefused fun hs ht => by rw [hs, ht]; exact ⟨ms, rfl⟩
  | cores ms r =>
    obtain hmemory | hfaulted := execCores_phase h
    · exact edge hmemory fun hs ht => by rw [hs, ht]; exact ⟨ms, r, rfl⟩
    · exact edge hfaulted fun hs ht => by rw [hs, ht]; exact ⟨ms, r, rfl⟩
  | memory ms l =>
    obtain hmeasure | hfaulted := execMemory_phase h
    · exact edge hmeasure fun hs ht => by rw [hs, ht]; exact ⟨ms, l, rfl⟩
    · exact edge hfaulted fun hs ht => by rw [hs, ht]; exact ⟨ms, l, rfl⟩
  | measure ms => exact edge (execMeasure_phase h) fun hs ht => by rw [hs, ht]; exact ⟨ms, rfl⟩
  | moduleFault k => exact edge (execModuleFault_phase h) fun hs ht => by rw [hs, ht]; exact .inl ⟨k, rfl⟩
  | easelFailover e => exact edge (execEaselFailover_phase h) fun hs ht => by rw [hs, ht]; exact .inr (.inl ⟨e, rfl⟩)
  | dramUncorrectableRead a =>
    exact edge (execDramUncorrectableRead_phase h) fun hs ht => by rw [hs, ht]; exact .inr (.inr ⟨a, rfl⟩)
  | supplyWarningEnd => exact .inl (execSupplyWarningEnd_phase h)
  | supplyWarning => exact .inl (execSupplyWarning_phase h)
  | sampleTick => exact .inl (execSampleTick_phase h)
  | _ => exact .inl (congrArg Boot.phase (exec_same (b := .boot) h rfl))

end Sys2Proof.Machine
end

section
/-! ### Metering: samples, warning spans, intervals, sessions and tallies (17 R529 to R535, R539, R540) -/

namespace Sys2Proof.Machine

open Sys2Proof

/-! ### Records of Almanac's store (17 R543, R546, R547) -/

/-- Starting the sending changes what is being sent alone. -/
theorem restartSending_eq (a : Alm) : ∃ x, a.restartSending = { a with sending := x } := by
  unfold Alm.restartSending
  split
  · exact ⟨_, rfl⟩
  split
  · exact ⟨_, rfl⟩
  · exact ⟨_, rfl⟩

/-- Storing a record changes the records and what is being sent alone. -/
theorem store_eq (a : Alm) (r : MeterRecord) : ∃ rs x, a.store r = { a with records := rs, sending := x } := by
  unfold Alm.store
  extract_lets tooMany rs
  obtain ⟨x, hx⟩ := restartSending_eq { a with records := rs }
  exact ⟨rs, x, hx⟩

/-- An audited event raises the audit count, and changes the records and what is being sent besides. -/
theorem writeAudit_alm (akind source : Nat) (old new : List Byte) (s : State) :
    ∃ rs x, (writeAudit akind source old new s).alm = { s.alm with audit := s.alm.audit + 1, records := rs, sending := x } := by
  unfold writeAudit
  extract_lets r _ a
  obtain ⟨rs, x, hstore⟩ := store_eq a r
  dsimp only
  split
  · exact ⟨_, _, rfl⟩
  · exact ⟨rs, x, hstore⟩

/-- The line of a session still bound, as the next interval opens it. -/
def MeterLine.reopened (l : MeterLine) : MeterLine := { l with bound := true, unbound := false, a := [], b := [] }

/-- Closing an interval stores its record and opens the next at Almanac's time, with the lines of the sessions still bound. -/
theorem closeInterval_alm (flags carry : Nat) (s : State) : ∃ rs x, (closeInterval flags carry s).alm = { s.alm with
    records := rs, sending := x, seq := s.alm.seq + 1, startS := s.alm.time, chanEnergy := [],
    lines := (s.alm.lines.filter fun l => l.2.live).map fun l => (l.1, l.2.reopened),
    firstFrame := 0, lastFrame := 0, windows := 0, warnCount := 0, warnTotal := 0, flags := carry } := by
  unfold closeInterval
  extract_lets a r stored r' a' keep
  obtain ⟨rs, x, hstore⟩ := store_eq a r'
  refine ⟨rs, x, ?_⟩
  simp only [a', keep, hstore]
  rfl

/-! ### Shunt samples (17 R529, R530) -/

/-- What Almanac does while it runs. -/
theorem exec_of_running {c : Instr} {s t : State} (hrun : s.alm.running = true)
    (h : exec c s = .next (if (!s.alm.running) = true then s else t)) : exec c s = .next t := by
  rwa [if_neg (by simp [hrun])] at h

/-- A sample adds its powers, and the 8,000th of a second ends it. -/
theorem execShuntSample_adds {v : Nat} {mw : List Nat} {s : State} (hrun : s.alm.running = true) :
    ∃ t, exec (.shuntSample v mw) s = .next t ∧
      (∀ c, c < 16 → t.alm.chanEnergy.getD c 0 = s.alm.chanEnergy.getD c 0 + mw.getD c 0) ∧
      (s.alm.frac + 1 < 8000 → t.alm.frac = s.alm.frac + 1 ∧ t.alm.time = s.alm.time) ∧
      (8000 ≤ s.alm.frac + 1 → t.alm.frac = 0 ∧ t.alm.time = s.alm.time + 1) := by
  refine ⟨_, exec_of_running hrun rfl, fun c hc => ?_, fun hin => ?_, fun hend => ?_⟩
  · dsimp only
    split <;> simp [List.getD_eq_getElem?_getD, hc]
  · dsimp only
    rw [if_pos hin]
    exact ⟨rfl, rfl⟩
  · dsimp only
    rw [if_neg (Nat.not_lt.mpr hend)]
    exact ⟨rfl, rfl⟩

/-! ### Warning spans (17 R532) -/

section

variable {v us : Nat} {s : State}

theorem execWarningSpan_begins (hrun : s.alm.running = true) (hv : v < 4800) (hopen : s.alm.warnOpen = false) :
    exec (.warningSpan v us) s = .next { s with alm := { s.alm with warnOpen := true, warnLen := 0, warnHold := 0 } } := by
  rw [exec_of_running hrun rfl]
  dsimp only
  rw [if_pos hv, if_neg (by simp [hopen])]

theorem execWarningSpan_goes_on (hrun : s.alm.running = true) (hv : v < 4800) (hopen : s.alm.warnOpen = true) :
    exec (.warningSpan v us) s = .next { s with alm := { s.alm with warnLen := s.alm.warnLen + us, warnHold := 0 } } := by
  rw [exec_of_running hrun rfl]
  dsimp only
  rw [if_pos hv, if_pos hopen]

theorem execWarningSpan_ends (hrun : s.alm.running = true) (hv : 4800 ≤ v) (hopen : s.alm.warnOpen = true)
    (hheld : 1 ≤ s.alm.warnHold) (hlong : 1000 < s.alm.warnHold + us) :
    exec (.warningSpan v us) s = .next { s with alm := { s.alm with
      warnOpen := false, warnLen := 0, warnHold := 0, warnCount := s.alm.warnCount + 1,
      warnTotal := s.alm.warnTotal + (s.alm.warnLen + us), flags := s.alm.flags ||| 1 } } := by
  rw [exec_of_running hrun rfl]
  dsimp only
  rw [if_neg (Nat.not_lt.mpr hv), if_neg (by simp [hopen]), if_neg (c := s.alm.warnHold = 0) (by omega),
    if_neg (Nat.not_le.mpr hlong)]

end

/-! ### Messages of channel 0 (17 R533) -/

theorem noteMseq_mseq (a : Alm) (m : Nat) : (a.noteMseq m).mseq = some m := by
  unfold Alm.noteMseq
  dsimp only
  split <;> rfl

/-- Noting a message number changes the flags, the number, and which sessions are still bound. -/
theorem noteMseq_eq (a : Alm) (m : Nat) : ∃ fl ls, a.noteMseq m = { a with mseq := some m, flags := fl, lines := ls } ∧
    ls.map (fun l => (l.1, l.2.key)) = a.lines.map (fun l => (l.1, l.2.key)) := by
  unfold Alm.noteMseq
  extract_lets gap a1
  split
  · exact ⟨_, _, rfl, by simp [a1, Function.comp_def]⟩
  · exact ⟨_, a.lines, rfl, rfl⟩

theorem noteMseq_lines {a : Alm} {m : Nat} (hm : m ≠ 0) : (a.noteMseq m).lines = a.lines := by
  unfold Alm.noteMseq
  dsimp only
  rw [if_neg hm]

/-- A number that is not the next one, nor the first after a reset, sets FLAGS[3]. -/
theorem noteMseq_gap {a : Alm} {m last : Nat} (hlast : a.mseq = some last) (hgap : m ≠ last + 1) (hm : m ≠ 0) :
    (a.noteMseq m).flags = a.flags ||| 8 := by
  unfold Alm.noteMseq
  simp [hlast, hgap, hm]

/-! ### BIND and UNBIND (17 R534) -/

theorem insertLine_perm (id : Nat) (l : MeterLine) (ls : List (Nat × MeterLine)) : (insertLine id l ls).Perm ((id, l) :: ls) := by
  induction ls with
  | nil => exact .refl _
  | cons p ls ih =>
    unfold insertLine
    split
    · exact .refl _
    · exact (ih.cons p).trans (.swap ..)

theorem foldl_max_le {l : List Nat} {n k : Nat} (h : k ≤ n ∨ k ∈ l) : k ≤ l.foldl max n := by
  induction l generalizing n with
  | nil => simpa using h
  | cons a l ih =>
    refine ih ?_
    obtain h | h := h
    · exact .inl (le_max_of_le_left h)
    obtain rfl | h := List.mem_cons.mp h
    · exact .inl (le_max_right ..)
    · exact .inr h

/-- The number of a new line is above that of every line and of every tally. -/
theorem key_lt_nextKey {a : Alm} {l : Nat × MeterLine} (h : l ∈ a.lines ++ a.windowTallies) : l.2.key < a.nextKey :=
  Nat.lt_of_succ_le (foldl_max_le (.inr (List.mem_map_of_mem (f := fun l => l.2.key + 1) h)))

/-- The number that the next line takes reads the numbers given alone. -/
theorem nextKey_noteMseq (a : Alm) (m : Nat) : (a.noteMseq m).nextKey = a.nextKey := by
  obtain ⟨fl, ls, heq, hkeys⟩ := noteMseq_eq a m
  have hk : ls.map (fun l => l.2.key + 1) = a.lines.map (fun l => l.2.key + 1) := by
    simpa [Function.comp_def] using congrArg (List.map fun p => p.2 + 1) hkeys
  rw [heq]
  simp only [Alm.nextKey, List.map_append, hk]

theorem execBind_binds {id m : Nat} {tid : List Byte} {f : BitVec 48} {s : State} (hrun : s.alm.running = true) :
    ∃ t, exec (.bind id m tid f) s = .next t ∧
      (∃ k, (id, (⟨tid, true, false, true, [], [], k⟩ : MeterLine)) ∈ t.alm.lines ∧
        ∀ l ∈ s.alm.lines ++ s.alm.windowTallies, l.2.key < k) ∧
      t.alm.mseq = some m ∧ t.alm.lines.length = s.alm.lines.length + 1 := by
  have hperm := insertLine_perm id ⟨tid, true, false, true, [], [], (s.alm.noteMseq m).nextKey⟩ (s.alm.noteMseq m).lines
  obtain ⟨fl, ls, heq, hkeys⟩ := noteMseq_eq s.alm m
  have hlen : (s.alm.noteMseq m).lines.length = s.alm.lines.length := by
    rw [heq]
    simpa using congrArg List.length hkeys
  refine ⟨_, exec_of_running hrun rfl, ⟨_, hperm.mem_iff.mpr List.mem_cons_self, fun l hl => ?_⟩, noteMseq_mseq .., ?_⟩
  · rw [nextKey_noteMseq]
    exact key_lt_nextKey hl
  · rw [hperm.length_eq, List.length_cons, hlen]

theorem execUnbind_unbinds {id m : Nat} {f : BitVec 48} {l : MeterLine} {s : State} (hrun : s.alm.running = true)
    (hl : s.alm.lines = [(id, l)]) (hlive : l.live = true) (hm : m ≠ 0) :
    ∃ t, exec (.unbind id m f) s = .next t ∧ t.alm.lines = [(id, { l with unbound := true, live := false })] ∧
      t.alm.mseq = some m := by
  refine ⟨_, exec_of_running hrun rfl, ?_, noteMseq_mseq ..⟩
  dsimp only
  rw [noteMseq_lines hm, hl]
  simp [unbindFirst, hlive]

/-! ### Tallies of the running window (17 R534, R535) -/

/-- The key under which a session's tallies of the running window are kept. -/
def Alm.tallyKey (a : Alm) (id : Nat) : Nat := ((a.lineOf id).map (·.key)).getD 0

/-- Whether an entry is the one of a session's tallies. -/
def Alm.tallyOf (a : Alm) (id : Nat) (t : Nat × MeterLine) : Bool := t.1 = id && t.2.key = a.tallyKey id

theorem windowTally_eq (a : Alm) (id : Nat) : a.windowTally id = ((a.windowTallies.find? (a.tallyOf id)).map (·.2)).getD
    ⟨((a.lineOf id).map (·.tid)).getD (zeros 16), false, false, false, [], [], a.tallyKey id⟩ := rfl

theorem windowTally_key (a : Alm) (id : Nat) : (a.windowTally id).key = a.tallyKey id := by
  rw [windowTally_eq]
  cases hfind : a.windowTallies.find? (a.tallyOf id) with
  | none => rfl
  | some t => exact (by simpa [Alm.tallyOf] using List.find?_some hfind : t.1 = id ∧ t.2.key = a.tallyKey id).2

/-- Tallies set under a session's key are what the session reads. -/
theorem windowTally_setTally_same {a : Alm} {id : Nat} {w : MeterLine} (hw : w.key = a.tallyKey id) :
    (a.setTally id w).windowTally id = w := by
  have hnone : (a.windowTallies.filter fun x => !(x.1 = id && x.2.key = w.key)).find? (a.tallyOf id) = none := by
    rw [List.find?_filter, List.find?_eq_none]
    intro t _
    simp [Alm.tallyOf, hw]
    tauto
  have hfind : (a.setTally id w).windowTallies.find? ((a.setTally id w).tallyOf id) = some (id, w) := by
    show List.find? (a.tallyOf id) (_ ++ [(id, w)]) = some (id, w)
    rw [List.find?_append, hnone]
    simp [Alm.tallyOf, hw]
  rw [windowTally_eq, hfind]
  rfl

/-- They are no other session's. -/
theorem windowTally_setTally_other {a : Alm} {id k : Nat} (w : MeterLine) (hk : k ≠ id) :
    (a.setTally id w).windowTally k = a.windowTally k := by
  have hfind : (a.setTally id w).windowTallies.find? ((a.setTally id w).tallyOf k) = a.windowTallies.find? (a.tallyOf k) := by
    show List.find? (a.tallyOf k) (_ ++ [(id, w)]) = _
    rw [List.find?_append, List.find?_filter]
    have hnew : [(id, w)].find? (a.tallyOf k) = none := by simp [Alm.tallyOf, Ne.symm hk]
    rw [hnew, Option.or_none]
    refine congrArg (List.find? · a.windowTallies) (funext fun t => ?_)
    by_cases ht : t.1 = k
    · simp [ht, hk]
    · simp [Alm.tallyOf, ht]
  rw [windowTally_eq, hfind]
  rfl

/-- What a tally message makes of the session's tallies: they are changed to ones of the same key, and no other session's are. -/
theorem setTally_tallies {a : Alm} {id : Nat} {w : MeterLine} (hw : w.key = (a.windowTally id).key) :
    (a.setTally id w).windowTally id = w ∧ (∀ k, k ≠ id → (a.setTally id w).windowTally k = a.windowTally k) ∧
      (a.setTally id w).mseq = a.mseq ∧ (a.setTally id w).lines = a.lines :=
  ⟨windowTally_setTally_same (hw.trans (windowTally_key a id)), fun _ hk => windowTally_setTally_other w hk, rfl, rfl⟩

theorem execTallyA_adds {id m : Nat} {counts : List Nat} {s : State} (hrun : s.alm.running = true) :
    let w := (s.alm.noteMseq m).windowTally id
    exec (.tallyA id m counts) s = .next { s with alm := (s.alm.noteMseq m).setTally id { w with a := addCounts 7 w.a counts } } :=
  exec_of_running hrun rfl

theorem execTallyB_adds {id m : Nat} {counts : List Nat} {s : State} (hrun : s.alm.running = true) :
    let w := (s.alm.noteMseq m).windowTally id
    exec (.tallyB id m counts) s = .next { s with alm := (s.alm.noteMseq m).setTally id { w with b := addCounts 7 w.b counts } } :=
  exec_of_running hrun rfl

/-- A window's tallies go to the one line of their BIND (17 R535). -/
theorem assignTally_single {id : Nat} {l w : MeterLine} (hkey : w.key = l.key) :
    assignTally id w [(id, l)] = [(id, { l with a := addCounts 7 l.a w.a, b := addCounts 7 l.b w.b })] := by
  simp [assignTally, assignTally.go, hkey]

/-- The end of a window, whatever its messages held (17 R535). -/
theorem execWindowEnd_ends {m n : Nat} {f : BitVec 48} {s : State} (hrun : s.alm.running = true) :
    exec (.windowEnd m f n) s = .next { s with alm := { s.alm.noteMseq m with
      lines := (s.alm.noteMseq m).windowTallies.foldl (fun ls t => assignTally t.1 t.2 ls) (s.alm.noteMseq m).lines
      windowTallies := []
      firstFrame := if (s.alm.noteMseq m).windows = 0 then f else (s.alm.noteMseq m).firstFrame
      lastFrame := f
      windows := (s.alm.noteMseq m).windows + 1 } } :=
  exec_of_running hrun rfl

/-! ### Boundaries (17 R539, R540) -/

theorem execIntervalBoundary_closes {s : State} (hrun : s.alm.running = true) (hfrac : s.alm.frac = 0)
    (hmod : s.alm.time.toNat % (60 * s.alm.minutes) = 0) (hlater : s.alm.startS.toNat < s.alm.time.toNat)
    (hclose : s.alm.canClose = true) :
    exec .intervalBoundary s = .next { s with alm := { (closeInterval 0 0 s).alm with
      minutes := s.alm.minutesNext.getD s.alm.minutes, minutesNext := none } } := by
  show Host.Outcome.next (if _ then _ else _) = _
  rw [if_pos (by simp [hrun, hfrac, hmod, hlater, hclose])]
  rfl

/-- Settles O55: each message by what noting its number leaves of the lines, and by what its session's line or tallies become. -/
theorem metering : Obligations.Metering := by
  refine ⟨fun v mw s hrun => ?_, fun v us s hrun => ⟨execWarningSpan_begins hrun, execWarningSpan_goes_on hrun, ?_⟩,
    fun s hrun hfrac hmod hlater hclose => ?_, fun id m s hrun => ⟨fun tid f => ?_, fun f l hl hlive hm => ?_, fun counts => ?_,
    fun counts => ?_, fun l w f n hl hw hkey hm => ?_, fun f n => ?_⟩, fun m last s hrun hlast hgap hm f n => ?_⟩
  · obtain ⟨t, hexec, hadd, hin, hend⟩ := execShuntSample_adds (v := v) (mw := mw) hrun
    exact ⟨t, hexec, hadd, hin, hend, exec_frame hexec⟩
  · intro hv hopen hheld hlong
    exact ⟨_, execWarningSpan_ends hrun hv hopen hheld hlong, rfl, rfl, (Nat.add_assoc ..).symm, by simp⟩
  · have hexec := execIntervalBoundary_closes hrun hfrac hmod hlater hclose
    obtain ⟨rs, x, halm⟩ := closeInterval_alm 0 0 s
    refine ⟨_, hexec, ?_, ?_, ?_, ?_, rfl, rfl, ?_, exec_frame hexec⟩
    all_goals simp only [halm]
    intro l hl
    obtain ⟨p, hp, rfl⟩ := List.mem_map.mp hl
    exact ⟨(List.mem_filter.mp hp).2, rfl, rfl⟩
  · obtain ⟨t, hexec, hline, hmseq, hlen⟩ := execBind_binds (id := id) (m := m) (tid := tid) (f := f) hrun
    exact ⟨t, hexec, hline, hmseq, hlen, exec_frame hexec⟩
  · obtain ⟨t, hexec, hline, hmseq⟩ := execUnbind_unbinds (f := f) hrun hl hlive hm
    exact ⟨t, hexec, hline, hmseq, exec_frame hexec⟩
  · have hexec := execTallyA_adds (id := id) (m := m) (counts := counts) hrun
    obtain ⟨hsame, hother, hmseq, hlines⟩ := setTally_tallies (a := s.alm.noteMseq m) (id := id)
      (w := { (s.alm.noteMseq m).windowTally id with a := addCounts 7 ((s.alm.noteMseq m).windowTally id).a counts }) rfl
    exact ⟨_, hexec, hsame, hmseq.trans (noteMseq_mseq ..), hother, hlines, exec_frame hexec⟩
  · have hexec := execTallyB_adds (id := id) (m := m) (counts := counts) hrun
    obtain ⟨hsame, hother, hmseq, hlines⟩ := setTally_tallies (a := s.alm.noteMseq m) (id := id)
      (w := { (s.alm.noteMseq m).windowTally id with b := addCounts 7 ((s.alm.noteMseq m).windowTally id).b counts }) rfl
    exact ⟨_, hexec, hsame, hmseq.trans (noteMseq_mseq ..), hother, hlines, exec_frame hexec⟩
  · obtain ⟨fl, ls, heq, -⟩ := noteMseq_eq s.alm m
    refine ⟨_, execWindowEnd_ends hrun, ?_⟩
    dsimp only
    rw [noteMseq_lines hm, hl, heq]
    simp only [hw, List.foldl_cons, List.foldl_nil]
    exact assignTally_single hkey
  · have hexec := execWindowEnd_ends (m := m) (n := n) (f := f) hrun
    obtain ⟨fl, ls, heq, -⟩ := noteMseq_eq s.alm m
    refine ⟨_, hexec, rfl, rfl, ?_, ?_, noteMseq_mseq .., exec_frame hexec⟩ <;> simp only [heq]
  · exact ⟨_, execWindowEnd_ends hrun, noteMseq_gap hlast hgap hm⟩

end Sys2Proof.Machine
end

section
/-! ### How Almanac's records are acknowledged and sent (17 R547, R548, R551) -/

namespace Sys2Proof.Machine

open Sys2Proof

/-! ### ACK (17 R548) -/

/-- The oldest unacknowledged record of a kind. -/
def Alm.oldest (a : Alm) (kind : Nat) : Option MeterRecord := a.records.find? fun r => r.kind == kind && !r.acked

/-- An acknowledgement that names the oldest record of its kind with its signature bytes frees it. -/
theorem ack_frees {a : Alm} {kind : Nat} {sig : List Byte} {r : MeterRecord} (hr : a.oldest kind = some r) (hsig : recordSig r = sig) :
    ∃ x n, a.ack kind r.seq sig = { a with
      records := a.records.map fun x => if x = r then { x with acked := true } else x, sending := x, rewindNext := n } := by
  unfold Alm.oldest at hr
  unfold Alm.ack
  simp only [hr, hsig, decide_true, Bool.and_self, if_true]
  split
  · obtain ⟨x, hx⟩ := restartSending_eq
      { a with records := a.records.map fun x => if x = r then { x with acked := true } else x }
    exact ⟨x, _, hx⟩
  split
  · exact ⟨_, _, rfl⟩
  · exact ⟨_, _, rfl⟩

/-- Any other acknowledgement is counted as refused. -/
theorem ack_refuses {a : Alm} {kind q : Nat} {sig : List Byte}
    (hr : ∀ r, a.oldest kind = some r → r.seq ≠ q ∨ recordSig r ≠ sig) :
    a.ack kind q sig = { a with refused := min (a.refused + 1) 0xFFFF } := by
  unfold Alm.oldest at hr
  unfold Alm.ack
  split
  · rfl
  · next r hfind =>
    rw [if_neg (by simpa [imp_iff_not_or] using hr r hfind)]
    rfl

/-- What an acknowledgement leaves of the message number. -/
theorem ack_mseq (a : Alm) (kind q : Nat) (sig : List Byte) : (a.ack kind q sig).mseq = a.mseq := by
  by_cases h : ∃ r, a.oldest kind = some r ∧ r.seq = q ∧ recordSig r = sig
  · obtain ⟨r, hr, rfl, hsig⟩ := h
    obtain ⟨x, n, heq⟩ := ack_frees hr hsig
    rw [heq]
  · rw [ack_refuses fun r hr => by by_contra hno; exact h ⟨r, hr, by tauto⟩]

/-- What the acknowledgement rule says of Almanac before and after an acknowledgement. -/
def AckRule (kind q : Nat) (sig : List Byte) (a b : Alm) : Prop :=
  (∀ r, a.oldest kind = some r →
    (r.seq = q → recordSig r = sig →
      b.records = (a.records.map fun x => if x = r then { x with acked := true } else x) ∧ b.refused = a.refused) ∧
    (r.seq ≠ q ∨ recordSig r ≠ sig → b.records = a.records ∧ b.refused = min (a.refused + 1) 0xFFFF)) ∧
  (a.oldest kind = none → b.records = a.records ∧ b.refused = min (a.refused + 1) 0xFFFF)

theorem ack_rule (a : Alm) (kind q : Nat) (sig : List Byte) : AckRule kind q sig a (a.ack kind q sig) := by
  refine ⟨fun r hr => ⟨?_, fun hno => ?_⟩, fun hnone => ?_⟩
  · rintro rfl hsig
    obtain ⟨x, n, heq⟩ := ack_frees hr hsig
    rw [heq]
    exact ⟨rfl, rfl⟩
  · rw [ack_refuses fun r' hr' => Option.some.inj (hr.symm.trans hr') ▸ hno]
    exact ⟨rfl, rfl⟩
  · rw [ack_refuses fun r' hr' => by simp [hnone] at hr']
    exact ⟨rfl, rfl⟩

/-- The acknowledgement rule reads the records and the refused count alone, which noting a message number leaves. -/
theorem ackRule_noteMseq {kind q m : Nat} {sig : List Byte} {a b : Alm} (h : AckRule kind q sig (a.noteMseq m) b) :
    AckRule kind q sig a b := by
  obtain ⟨fl, ls, heq, -⟩ := noteMseq_eq a m
  rw [heq] at h
  exact h

theorem execAck_acks (path : AckPath) {kind : Nat} {q : DWord} {sig : List Byte} {s : State} (hrun : s.alm.running = true) :
    ∃ t, exec (.ack path kind q sig) s = .next t ∧ AckRule kind q.toNat sig s.alm t.alm ∧
      ∀ m, path = .mailbox m → t.alm.ackBusy = false ∧ t.alm.mseq = some m := by
  refine ⟨_, exec_of_running hrun rfl, ?_⟩
  cases path with
  | mailbox m =>
    refine ⟨ackRule_noteMseq (m := m) (ack_rule ..), ?_⟩
    rintro _ ⟨⟩
    exact ⟨rfl, (ack_mseq ..).trans (noteMseq_mseq ..)⟩
  | service => exact ⟨ack_rule .., fun m h => nomatch h⟩

/-! ### REWIND and EXPORT_PART (17 R547) -/

theorem restartSending_of_sending {a : Alm} (h : a.sending.isSome = true) : a.restartSending = a := by
  unfold Alm.restartSending
  split
  · rfl
  · next hnone => simp [hnone] at h

theorem restartSending_oldest {a : Alm} {r : MeterRecord} (h : a.sending = none) (hr : a.records.find? (fun r => !r.acked) = some r) :
    a.restartSending.sending = some (r.kind, r.seq, 0) := by
  unfold Alm.restartSending
  simp only [h, hr]

theorem execRewind_rewinds {m : Nat} {s : State} (hrun : s.alm.running = true) :
    ∃ t, exec (.rewind m) s = .next t ∧ t.alm.ackBusy = false ∧
      (s.alm.sending.isSome = true → t.alm.rewindNext = true ∧ t.alm.sending = s.alm.sending) ∧
      (∀ r, s.alm.sending = none → s.alm.records.find? (fun r => !r.acked) = some r → t.alm.sending = some (r.kind, r.seq, 0)) ∧
      t.alm.mseq = some m ∧ t.alm.records = s.alm.records := by
  obtain ⟨fl, ls, heq, -⟩ := noteMseq_eq s.alm m
  refine ⟨_, exec_of_running hrun rfl, ?_⟩
  simp only [heq]
  obtain ⟨x, hx⟩ := restartSending_eq
    { s.alm with mseq := some m, flags := fl, lines := ls, ackBusy := false, rewindNext := s.alm.sending.isSome }
  refine ⟨by rw [hx], fun hsome => ?_, fun r hnone hr => ?_, by rw [hx], by rw [hx]⟩
  · rw [restartSending_of_sending (by exact hsome)]
    exact ⟨hsome, rfl⟩
  · exact restartSending_oldest (by exact hnone) (by exact hr)

theorem mailbox_setMailbox (s : State) (n : Nat) (m : Mailbox) : (s.setMailbox n m).mailbox n = m := by
  simp [State.mailbox, State.setMailbox, tabGet_tabSet_same]

theorem execExportPart_sends {kind q part : Nat} {r : MeterRecord} {s : State} (hrun : s.alm.running = true)
    (hsend : s.alm.sending = some (kind, q, part)) (hr : s.alm.records.find? (fun r => r.kind == kind && r.seq == q) = some r)
    (hfree : (s.mailbox 1).full = false) (hfrom : (s.mailbox 1).sender = 6) (hto : (s.mailbox 1).receiver = 0) :
    ∃ n, exec .exportPart s = .next
      { s.setMailbox 1 { s.mailbox 1 with full := true, words := wordsOf (partMessage r part) } with
        alm := { s.alm with
          sending := if part + 1 < ceilDiv r.bytes.length 48 then some (kind, q, part + 1) else s.alm.nextRecord kind q
          rewindNext := n } } := by
  refine ⟨s.alm.rewindNext && !!decide (part + 1 < ceilDiv r.bytes.length 48), congrArg Host.Outcome.next ?_⟩
  simp only [hsend]
  rw [if_neg (by simp [hrun, hfree, hfrom, hto])]
  simp only [hr]

/-! ### The host's register commands (17 R548, R551) -/

theorem le_leBytes (n x : Nat) : le (leBytes n x) = x % 256 ^ n := by
  induction n generalizing x with
  | zero => simp [leBytes, le, Nat.mod_one]
  | succ n ih =>
    rw [leBytes, le, ih, pow_succ', Nat.mod_mul]
    rfl

section

variable {b x y z : List Byte} {off n : Nat}

/-- The number that a field of a message holds. -/
theorem num_field (hb : b = x ++ (y ++ z)) (hx : x.length = off) (hy : y.length = n) : num b off n = le y := by
  subst hb hx hy
  simp [num]

/-- The bytes that a field of a message holds. -/
theorem bytesAt_field (hb : b = x ++ (y ++ z)) (hx : x.length = off) (hy : y.length = n) : bytesAt b off n = y := by
  subst hb hx hy
  refine List.ext_getElem (bytesAt_length ..) fun i hi hi' => ?_
  simp [bytesAt, List.getElem?_append_right, List.getElem?_append_left hi', hi']

end

/-- Bytes from the start, with zeros past the end. -/
theorem bytesAt_zero_of_le {b : List Byte} {n : Nat} (h : b.length ≤ n) : bytesAt b 0 n = b ++ zeros (n - b.length) := by
  refine List.ext_getElem (by simp [bytesAt_length, zeros]; omega) fun i hi hi' => ?_
  by_cases hb : i < b.length
  · simp [bytesAt, hb]
  · simp [bytesAt, zeros, hb, List.getElem_append_right (Nat.not_lt.mp hb)]

/-- The head of the message that forwards an acknowledgement (17 R533). -/
def ackHead (s : State) : List Byte := leBytes 1 5 ++ zeros 1 ++ leBytes 2 0 ++ leBytes 4 s.mseqOut

/-- The signature bytes that the host has written. -/
def Alm.ackSigBytes (a : Alm) : List Byte := bytesAt ((a.ackSig.map fun w => leBytes 4 w.toNat).flatten) 0 16

/-- The message that forwards an acknowledgement (17 R533, R548). -/
def ackMessage (s : State) : List Byte :=
  ackHead s ++ ((leBytes 1 s.alm.ackKind ++ zeros 7 ++ leBytes 4 s.alm.ackSeqLo.toNat ++ leBytes 4 s.alm.ackSeqHi.toNat ++
    s.alm.ackSigBytes) ++ zeros 24)

theorem almAckWrite_eq (s : State) :
    almAckWrite s = { s with
      alm := { s.alm with ackBusy := true }, almSent := s.almSent ++ [ackMessage s], mseqOut := s.mseqOut + 1 } := by
  have hpad := bytesAt_zero_of_le (n := 56) (b := leBytes 1 s.alm.ackKind ++ zeros 7 ++ leBytes 4 s.alm.ackSeqLo.toNat ++
    leBytes 4 s.alm.ackSeqHi.toNat ++ s.alm.ackSigBytes)
    (by simp [Alm.ackSigBytes, leBytes_length, bytesAt_length, zeros])
  unfold Alm.ackSigBytes at hpad
  unfold almAckWrite sendAlm ackMessage ackHead Alm.ackSigBytes
  simp only [hpad]
  simp [leBytes_length, bytesAt_length, zeros]

/-- The fields of the message that forwards an acknowledgement. -/
theorem ackMessage_fields (s : State) : (ackMessage s).length = 64 ∧ (ackMessage s).take 8 = [5, 0, 0, 0] ++ leBytes 4 s.mseqOut ∧
    num (ackMessage s) 8 1 = s.alm.ackKind % 256 ∧ num (ackMessage s) 16 4 = s.alm.ackSeqLo.toNat ∧
    num (ackMessage s) 20 4 = s.alm.ackSeqHi.toNat ∧ bytesAt (ackMessage s) 24 16 = s.alm.ackSigBytes := by
  have hhead : (ackHead s).length = 8 := by simp [ackHead, leBytes_length, zeros]
  have hsig : s.alm.ackSigBytes.length = 16 := bytesAt_length ..
  have hword (w : Word) : le (leBytes 4 w.toNat) = w.toNat := by
    rw [le_leBytes]
    exact Nat.mod_eq_of_lt w.isLt
  have hparts : ackMessage s = (ackHead s ++ leBytes 1 s.alm.ackKind ++ zeros 7) ++ (leBytes 4 s.alm.ackSeqLo.toNat ++
      (leBytes 4 s.alm.ackSeqHi.toNat ++ (s.alm.ackSigBytes ++ zeros 24))) := by simp [ackMessage]
  have hpre : (ackHead s ++ leBytes 1 s.alm.ackKind ++ zeros 7).length = 16 := by simp [hhead, leBytes_length, zeros]
  refine ⟨by simp [ackMessage, hhead, hsig, leBytes_length, zeros], ?_, ?_, ?_, ?_, ?_⟩
  · rw [ackMessage, List.take_append_of_le_length hhead.ge, List.take_of_length_le hhead.le]
    rfl
  · rw [num_field (x := ackHead s) (y := leBytes 1 s.alm.ackKind) (by simp [ackMessage]; rfl) hhead (leBytes_length ..), le_leBytes,
      pow_one]
  · rw [num_field hparts hpre (leBytes_length ..), hword]
  · rw [num_field (hparts.trans (List.append_assoc ..).symm) (by simp [hhead, leBytes_length, zeros]) (leBytes_length ..), hword]
  · refine bytesAt_field ((hparts.trans (List.append_assoc ..).symm).trans (List.append_assoc ..).symm) ?_ hsig
    simp [hhead, leBytes_length, zeros]

theorem execAlmAckCtlAck_sends {p : Nat} {v : Word} {s : State} (hw : s.writable p .ready = true) (hv : bitOf v 0 = true) :
    exec (.almAckCtlAck p v) s = .next { s with
      alm := { s.alm with ackBusy := true }, almSent := s.almSent ++ [ackMessage s], mseqOut := s.mseqOut + 1 } := by
  rw [← almAckWrite_eq]
  exact congrArg Host.Outcome.next (if_pos (by simp [hw, hv]))

theorem execAlmAckCtlRewind_sends {p : Nat} {v : Word} {s : State} (hw : s.writable p .ready = true) (hv : bitOf v 1 = true) :
    exec (.almAckCtlRewind p v) s = .next (almRewindWrite s) :=
  congrArg Host.Outcome.next (if_pos (by simp [hw, hv]))

/-- Settles O56: an acknowledgement by whether it names the oldest record of its kind; the host's two commands by the message that
each sends. -/
theorem acknowledgementAndExport : Obligations.AcknowledgementAndExport := by
  refine ⟨fun path kind q sig s hrun => ?_, fun m s hrun => ?_, fun kind q part r s hrun hsend hr hfree hfrom hto => ?_,
    fun p v s hw => ⟨fun hv => ?_, fun hv => ?_⟩⟩
  · obtain ⟨t, hexec, ⟨hsome, hnone⟩, hmailbox⟩ := execAck_acks path (kind := kind) (q := q) (sig := sig) hrun
    exact ⟨t, hexec, hsome, hnone, hmailbox, exec_frame hexec⟩
  · obtain ⟨t, hexec, hbusy, hsome, hnone, hmseq, hrecords⟩ := execRewind_rewinds (m := m) hrun
    exact ⟨t, hexec, hbusy, hsome, hnone, hmseq, hrecords, exec_frame hexec⟩
  · obtain ⟨n, hexec⟩ := execExportPart_sends hrun hsend hr hfree hfrom hto
    exact ⟨_, hexec, mailbox_setMailbox s 1 _, fun hmore => if_pos hmore, fun hlast => if_neg (Nat.not_lt.mpr hlast), rfl,
      exec_frame hexec⟩
  · have hexec := execAlmAckCtlAck_sends hw hv
    obtain ⟨hlen, htake, hkind, hlo, hhi, hsig⟩ := ackMessage_fields s
    exact ⟨_, hexec, rfl, rfl, ⟨_, rfl, hlen, htake, hkind, hlo, hhi, hsig⟩, exec_frame hexec⟩
  · have hexec := execAlmAckCtlRewind_sends hw hv
    refine ⟨_, hexec, rfl, rfl, ⟨_, rfl, ?_⟩, exec_frame hexec⟩
    rw [List.take_append_of_le_length (by simp [leBytes_length, zeros]), List.take_of_length_le (by simp [leBytes_length, zeros])]
    rfl

end Sys2Proof.Machine
end

section
/-! ### Almanac's service connector, its lid and its power (17 R528, R539, R543 to R545, R549) -/

namespace Sys2Proof.Machine

open Sys2Proof

/-- A command whose effect is audited raises the audit count, and changes the records and what is being sent besides. -/
theorem exec_audited {c : Instr} {s u : State} {akind source : Nat} {old new : List Byte}
    (h : exec c s = .next (writeAudit akind source old new u)) :
    ∃ t rs x, exec c s = .next t ∧ t.alm = { u.alm with audit := u.alm.audit + 1, records := rs, sending := x } := by
  obtain ⟨rs, x, halm⟩ := writeAudit_alm akind source old new u
  exact ⟨_, rs, x, h, halm⟩

/-! ### SET operations and STAGE_FW (17 R539, R543 to R545) -/

section

variable {s : State}

theorem execSetTime_sets {x : DWord} (hset : s.alm.canSet = true) (hclose : s.alm.canClose = true) :
    ∃ t, exec (.setTime x) s = .next t ∧
      t.alm.time = x ∧ t.alm.startS = x ∧ t.alm.seq = s.alm.seq + 1 ∧ t.alm.audit = s.alm.audit + 1 := by
  obtain ⟨t, rs, y, hexec, halm⟩ := exec_audited (c := .setTime x) (s := s) (congrArg Host.Outcome.next (if_pos (by simp [hset, hclose])))
  obtain ⟨rs', y', hclosed⟩ := closeInterval_alm 0x10 0x10 s
  refine ⟨t, hexec, ?_⟩
  rw [halm]
  simp only [hclosed, true_and]

theorem execSetInterval_sets {m : Nat} (hset : s.alm.canSet = true) (hm : m ∈ [1, 5, 15, 30, 60]) :
    ∃ t, exec (.setInterval m) s = .next t ∧
      t.alm.minutesNext = some m ∧ t.alm.minutes = s.alm.minutes ∧ t.alm.audit = s.alm.audit + 1 := by
  obtain ⟨t, rs, y, hexec, halm⟩ := exec_audited (c := .setInterval m) (s := s)
    (congrArg Host.Outcome.next (if_pos (by simpa [hset] using hm)))
  refine ⟨t, hexec, ?_⟩
  rw [halm]
  exact ⟨rfl, rfl, rfl⟩

theorem execSetCoeff_sets {l : List Nat} (hset : s.alm.canSet = true) :
    ∃ t, exec (.setCoeff l) s = .next t ∧
      (∀ i, i < 7 → t.alm.coeff.getD i 0 = l.getD i 0 % 65536) ∧ t.alm.audit = s.alm.audit + 1 := by
  obtain ⟨t, rs, y, hexec, halm⟩ := exec_audited (c := .setCoeff l) (s := s) (congrArg Host.Outcome.next (if_pos hset))
  refine ⟨t, hexec, ?_⟩
  rw [halm]
  exact ⟨fun i hi => by simp [List.getD_eq_getElem?_getD, hi], rfl⟩

/-- With the lid closed, or too few audit slots, no SET operation is taken. -/
theorem exec_set_refused (hset : s.alm.canSet = false) :
    (∀ x, exec (.setTime x) s = .next s) ∧ (∀ m, exec (.setInterval m) s = .next s) ∧ (∀ l, exec (.setCoeff l) s = .next s) :=
  ⟨fun _ => congrArg Host.Outcome.next (if_neg (by simp [hset])), fun _ => congrArg Host.Outcome.next (if_neg (by simp [hset])),
    fun _ => congrArg Host.Outcome.next (if_neg (by simp [hset]))⟩

theorem execStageFw_stages {b : List Byte} (hrun : s.alm.running = true) (hlid : s.alm.lidOpen = true) :
    ∃ t, exec (.stageFw b) s = .next t ∧
      (Config.meterFwSigned b = true → t.alm.staged = some b ∧ t.alm.audit = s.alm.audit + 1) ∧
      (Config.meterFwSigned b = false → t = s) ∧ t.alm.fwImage = s.alm.fwImage := by
  by_cases hsigned : Config.meterFwSigned b = true
  · obtain ⟨t, rs, y, hexec, halm⟩ := exec_audited (c := .stageFw b) (s := s)
      (congrArg Host.Outcome.next (if_pos (by simp [hrun, hlid, hsigned])))
    refine ⟨t, hexec, ?_⟩
    rw [halm]
    exact ⟨fun _ => ⟨rfl, rfl⟩, fun h => absurd hsigned (by simp [h]), rfl⟩
  · exact ⟨s, congrArg Host.Outcome.next (if_neg (by simp [hsigned])), fun h => absurd h hsigned, fun _ => rfl, rfl⟩

/-! ### The lid (17 R543, R544) -/

theorem execLidOpen_opens (hlid : s.alm.lidOpen = false) :
    ∃ t, exec .lidOpen s = .next t ∧ t.alm.lidOpen = true ∧ t.alm.tamper = min (s.alm.tamper + 1) 0xFFFFFFFF ∧
      (s.alm.running = true → t.alm.audit = s.alm.audit + 1 ∧ t.alm.flags.testBit 1 = true) ∧
      (s.alm.running = false → t.alm.latched = s.alm.latched ++ [6] ∧ t.alm.audit = s.alm.audit) := by
  by_cases hrun : s.alm.running = true
  · obtain ⟨t, rs, y, hexec, halm⟩ := exec_audited (c := .lidOpen) (s := s)
      (congrArg Host.Outcome.next ((if_neg (by simp [hlid])).trans (if_pos hrun)))
    refine ⟨t, hexec, ?_⟩
    rw [halm]
    have hflag : (s.alm.flags ||| 2).testBit 1 = true := by
      rw [Nat.testBit_or, show Nat.testBit 2 1 = true from rfl, Bool.or_true]
    exact ⟨rfl, rfl, fun _ => ⟨rfl, hflag⟩, fun h => absurd hrun (by simp [h])⟩
  · exact ⟨_, congrArg Host.Outcome.next ((if_neg (by simp [hlid])).trans (if_neg hrun)), rfl, rfl, fun h => absurd h hrun,
      fun _ => ⟨rfl, rfl⟩⟩

theorem execLidClose_closes (hlid : s.alm.lidOpen = true) :
    ∃ t, exec .lidClose s = .next t ∧
      t.alm.lidOpen = false ∧ t.alm.tamper = s.alm.tamper ∧ (s.alm.running = true → t.alm.audit = s.alm.audit + 1) := by
  by_cases hrun : s.alm.running = true
  · obtain ⟨t, rs, y, hexec, halm⟩ := exec_audited (c := .lidClose) (s := s)
      (congrArg Host.Outcome.next ((if_neg (by simp [hlid])).trans (if_pos hrun)))
    refine ⟨t, hexec, ?_⟩
    rw [halm]
    exact ⟨rfl, rfl, fun _ => rfl⟩
  · exact ⟨_, congrArg Host.Outcome.next ((if_neg (by simp [hlid])).trans (if_neg hrun)), rfl, rfl, fun h => absurd h hrun⟩

/-! ### Loss and return of the input (17 R528, R529, R543) -/

theorem almanacLoss_alm (hrun : s.alm.running = true) :
    (almanacLoss s).alm.running = false ∧ (almanacLoss s).alm.lossAt = s.alm.time := by
  unfold almanacLoss
  rw [if_neg (by simp [hrun])]
  refine ⟨rfl, ?_⟩
  obtain ⟨rs, x, hclosed⟩ := closeInterval_alm 0x20 0 s
  dsimp only
  split
  · rw [hclosed]
  · rfl

/-- A reset leaves an Almanac that has stopped, a staged image or none. -/
theorem almanacReset_stopped (hrun : s.alm.running = false) : almanacReset s = s := by
  unfold almanacReset
  split
  · rfl
  · exact if_neg (by simp [hrun])

theorem execAlmanacInputLoss_stops (hrun : s.alm.running = true) (hpow : s.boot.powered = true) :
    exec .almanacInputLoss s = .next (powerOff 0 (almanacLoss s)) := by
  have hboot : (almanacLoss s).boot = s.boot := almanacLoss_frame .boot (by decide)
  exact congrArg Host.Outcome.next ((if_pos hrun).trans (if_pos (by rw [hboot, hpow])))

/-- Each lid event that was latched raises the audit count by one. -/
theorem lidAudits_alm (l : List Nat) (s : State) :
    ∃ rs x, (l.foldl (fun s k => lidAudit k s.alm.tamper s) s).alm =
      { s.alm with audit := s.alm.audit + BitVec.ofNat 64 l.length, records := rs, sending := x } := by
  induction l generalizing s with
  | nil => exact ⟨s.alm.records, s.alm.sending, by simp⟩
  | cons k l ih =>
    obtain ⟨rs, x, htail⟩ := ih (lidAudit k s.alm.tamper s)
    obtain ⟨_, _, hhead⟩ := writeAudit_alm k 1 (leBytes 4 s.alm.tamper) (leBytes 4 s.alm.tamper) s
    have hcount : s.alm.audit + 1 + BitVec.ofNat 64 l.length = s.alm.audit + BitVec.ofNat 64 (l.length + 1) := by
      rw [BitVec.add_assoc, BitVec.add_comm 1, BitVec.ofNat_add]
      rfl
    refine ⟨rs, x, ?_⟩
    rw [List.foldl_cons, htail, lidAudit, hhead, List.length_cons, ← hcount]

theorem execPowerGap_returns {x : DWord} (hrun : s.alm.running = false) :
    ∃ t, exec (.powerGap x) s = .next t ∧
      t.alm.running = true ∧ t.alm.time = s.alm.time + x ∧ t.alm.startS = s.alm.time + x ∧ t.alm.latched = [] ∧
      t.alm.audit = s.alm.audit + 1 + BitVec.ofNat 64 s.alm.latched.length := by
  refine ⟨_, congrArg Host.Outcome.next (if_neg (by simp [hrun])), ?_⟩
  extract_lets loss time latched flags _ s1 s2
  obtain ⟨rs1, x1, h1⟩ : ∃ rs x, s1.alm = _ := writeAudit_alm ..
  obtain ⟨rs2, x2, h2⟩ : ∃ rs x, s2.alm = _ := lidAudits_alm latched s1
  obtain ⟨x3, h3⟩ := restartSending_eq s2.alm
  simp only [h3]
  rw [h2, h1]
  exact ⟨rfl, rfl, rfl, rfl, rfl⟩

end

/-- Settles O57: an audited operation by what its audit leaves; a loss by the reset of a stopped Almanac; a return by the audits of the
events that were latched. -/
theorem meterService : Obligations.MeterService := by
  refine ⟨fun s hrun => congrArg Host.Outcome.next (if_pos hrun), fun s hset => ⟨fun x hclose => ?_, fun m hm => ?_, fun l => ?_⟩,
    fun s => exec_set_refused, fun b s hrun hlid => ?_, fun s hlid => ?_, fun s hlid => ?_, fun s hrun hpow => ?_, fun x s hrun => ?_⟩
  · obtain ⟨t, hexec, htime, hstart, hseq, haudit⟩ := execSetTime_sets (x := x) hset hclose
    exact ⟨t, hexec, htime, hstart, hseq, haudit, exec_frame hexec⟩
  · obtain ⟨t, hexec, hnext, hminutes, haudit⟩ := execSetInterval_sets hset hm
    exact ⟨t, hexec, hnext, hminutes, haudit, exec_frame hexec⟩
  · obtain ⟨t, hexec, hcoeff, haudit⟩ := execSetCoeff_sets (l := l) hset
    exact ⟨t, hexec, hcoeff, haudit, exec_frame hexec⟩
  · obtain ⟨t, hexec, hsigned, hunsigned, himage⟩ := execStageFw_stages (b := b) hrun hlid
    exact ⟨t, hexec, hsigned, hunsigned, himage, exec_frame hexec⟩
  · obtain ⟨t, hexec, hopen, htamper, hon, hoff⟩ := execLidOpen_opens hlid
    exact ⟨t, hexec, hopen, htamper, hon, hoff, exec_frame hexec⟩
  · obtain ⟨t, hexec, hclosed, htamper, hon⟩ := execLidClose_closes hlid
    exact ⟨t, hexec, hclosed, htamper, hon, exec_frame hexec⟩
  · obtain ⟨hstopped, hloss⟩ := almanacLoss_alm hrun
    refine ⟨_, execAlmanacInputLoss_stops hrun hpow, ?_, ?_, rfl, rfl⟩
    · show (almanacReset (almanacLoss s)).alm.running = false
      rw [almanacReset_stopped hstopped, hstopped]
    · show (almanacReset (almanacLoss s)).alm.lossAt = s.alm.time
      rw [almanacReset_stopped hstopped, hloss]
  · obtain ⟨t, hexec, hon, htime, hstart, hlatched, haudit⟩ := execPowerGap_returns (x := x) hrun
    exact ⟨t, hexec, hon, htime, hstart, hlatched, haudit, exec_frame hexec⟩

end Sys2Proof.Machine
end

section
/-! ### Tally windows and accounting intervals (11 R354, R355; 17 R533, R535) -/

namespace Sys2Proof.Machine

open Sys2Proof

/-! ### The messages of a window (17 R533, R535) -/

/-- From `s` to `t` Easel 3 has sent some messages to Almanac, each of which took a number. -/
def State.SentAlm (s t : State) : Prop := ∃ l, t.almSent = s.almSent ++ l ∧ t.mseqOut = s.mseqOut + l.length

theorem State.SentAlm.refl (s : State) : s.SentAlm s := ⟨[], by simp⟩

theorem State.SentAlm.trans {s t u : State} (h : s.SentAlm t) (k : t.SentAlm u) : s.SentAlm u := by
  obtain ⟨l, hl, hn⟩ := h
  obtain ⟨l', hl', hn'⟩ := k
  exact ⟨l ++ l', by rw [hl', hl, List.append_assoc], by rw [hn', hn, List.length_append, Nat.add_assoc]⟩

theorem sendAlm_sentAlm (ekind session : Nat) (payload : List Byte) (s : State) : s.SentAlm (sendAlm ekind session payload s) :=
  ⟨[_], rfl, rfl⟩

theorem sendTally_sentAlm (s : State) (e : Nat × Tally) : s.SentAlm (sendTally s e) := by
  unfold sendTally
  extract_lets t s1
  have h1 : s.SentAlm s1 := by
    unfold s1
    split
    · exact .refl s
    · exact (sendAlm_sentAlm ..).trans (sendAlm_sentAlm ..)
  split
  · exact h1.trans (sendAlm_sentAlm ..)
  · exact h1

theorem sendTallies_sentAlm (l : List (Nat × Tally)) (s : State) : s.SentAlm (l.foldl sendTally s) := by
  induction l generalizing s with
  | nil => exact .refl s
  | cons e l ih => exact (sendTally_sentAlm s e).trans (ih _)

/-- A window ends with the messages of its tallies and WINDOW_END behind them. -/
theorem execTallyWindowEnd_ends {s : State} (hready : s.boot.phase = .ready) (hend : s.windowEnds = true)
    (hnew : s.acct.windowEnd ≠ some s.tb.frameOrd) :
    let n := ((s.acct.closed ++ s.tallies).filter fun e => !(e.2.a.all (· == 0) && e.2.b.all (· == 0))).length
    ∃ u, exec .tallyWindowEnd s = .next { sendAlm 7 0 (leBytes 6 s.tb.frame.toNat ++ zeros 2 ++ leBytes 2 n) u with
        tallies := [], acct := { s.acct with closed := [], windowEnd := some s.tb.frameOrd } } ∧ s.SentAlm u := by
  intro n
  have hframe : Frame [.mseqOut, .almSent] s ((s.acct.closed ++ s.tallies).foldl sendTally s) :=
    Frame.foldl .refl fun _ _ h => Frame.comp sendTally_frame (by decide) h
  refine ⟨(s.acct.closed ++ s.tallies).foldl sendTally s, congrArg Host.Outcome.next ?_, sendTallies_sentAlm _ s⟩
  rw [if_neg (by simp [hready, hend, hnew])]
  have hacct : ((s.acct.closed ++ s.tallies).foldl sendTally s).acct = s.acct := hframe .acct (by decide)
  have htb : ((s.acct.closed ++ s.tallies).foldl sendTally s).tb = s.tb := hframe .tb (by decide)
  simp only [sendAlm, hacct, htb, n]

/-! ### Accounting records (11 R354) -/

/-- A record written into a session's buffer leaves the accounts of every session. -/
theorem writeAcct_account {n k : Nat} {rc : List Byte} {x : Session} {s : State} (hx : s.session n = some x) :
    ∃ y, (writeAcct k rc s).session n = some y ∧ y.account = x.account := by
  unfold writeAcct
  split
  · exact ⟨x, hx, rfl⟩
  next z hz =>
  extract_lets slot s1 s2
  have hsame : s2.session = s.session :=
    State.session_congr (Frame.comp (L := [.cnt, .host]) State.ringWrite_frame (by decide) State.ringWrite_frame .sessions (by decide))
  by_cases hn : n = k
  · subst hn
    obtain rfl : x = z := Option.some.inj (hx.symm.trans hz)
    exact ⟨_, State.session_setSession .., rfl⟩
  · exact ⟨x, by rw [State.session_setSession_other _ _ hn, hsame, hx], rfl⟩

/-- So does a job's record. -/
theorem writeJobRecord_account {n kind : Nat} {faulted : Bool} {j : Job} {x : Session} {s : State} (hx : s.session n = some x) :
    ∃ y, (writeJobRecord kind faulted j s).session n = some y ∧ y.account = x.account := by
  unfold writeJobRecord
  extract_lets rc s1
  have hacct := writeAcct_account (k := j.session) (rc := rc) hx
  split
  · exact hacct
  · exact hacct

/-- A session whose account begins with a Frame, and holds nothing yet. -/
def State.AccountBegins (s : State) (n first : Nat) : Prop :=
  ∃ x, s.session n = some x ∧ x.account.first = first ∧ x.account.burin = 0

/-- A session's record begins the session's next account. -/
theorem writeSessionRecord_begins {kind n : Nat} {x : Session} {s : State} (hx : s.session n = some x) :
    (writeSessionRecord kind n s).AccountBegins n (s.tb.frame.toNat + 1) := by
  unfold writeSessionRecord
  split
  · next hnone => simp [hx] at hnone
  extract_lets s1
  have htb : s1.tb = s.tb := writeAcct_frame .tb (by decide)
  obtain ⟨y, hy, -⟩ : ∃ y, s1.session n = some y ∧ y.account = x.account := writeAcct_account hx
  rw [hy]
  exact ⟨_, State.session_setSession .., by rw [htb]; rfl, rfl⟩

/-- It leaves the account of another session. -/
theorem writeSessionRecord_other {kind n k : Nat} {x : Session} {s : State} (hn : n ≠ k) (hx : s.session n = some x) :
    ∃ y, (writeSessionRecord kind k s).session n = some y ∧ y.account = x.account := by
  unfold writeSessionRecord
  split
  · exact ⟨x, hx, rfl⟩
  extract_lets s1
  have hacct : ∃ y, s1.session n = some y ∧ y.account = x.account := writeAcct_account hx
  split
  · rwa [State.session_setSession_other _ _ hn]
  · exact hacct

/-- With the records of some sessions written, the account of each of them begins anew. -/
theorem writeSessionRecords_begins {kind n : Nat} {l : List Nat} {s : State} {x : Session} (hx : s.session n = some x)
    (hn : n ∈ l ∨ s.AccountBegins n (s.tb.frame.toNat + 1)) :
    (l.foldl (fun s n => writeSessionRecord kind n s) s).AccountBegins n (s.tb.frame.toNat + 1) := by
  induction l generalizing s x with
  | nil => exact hn.resolve_left (by simp)
  | cons k l ih =>
    have htb : (writeSessionRecord kind k s).tb = s.tb := writeSessionRecord_frame .tb (by decide)
    by_cases hk : n = k
    · subst hk
      have hbegins := writeSessionRecord_begins (kind := kind) hx
      rw [← htb] at hbegins ⊢
      exact ih hbegins.choose_spec.1 (.inr hbegins)
    · obtain ⟨y, hy, hyx⟩ := writeSessionRecord_other (kind := kind) hk hx
      rw [← htb]
      refine ih hy (hn.imp (fun h => (List.mem_cons.mp h).resolve_left hk) ?_)
      rintro ⟨z, hz, hfirst, hburin⟩
      obtain rfl : x = z := Option.some.inj (hx.symm.trans hz)
      exact ⟨y, hy, by rw [hyx, htb, hfirst], by rw [hyx, hburin]⟩

/-- What the end of an accounting interval writes (11 R354). -/
def State.intervalRecords (s : State) : State :=
  (s.sessions.map (·.1)).foldl (fun s n => writeSessionRecord 1 n s) s

/-- The records of all jobs, if they are asked for. -/
def State.jobRecords (s : State) : State :=
  if s.acct.jobRecords then (s.jobs.map (·.2)).foldl (fun s j => writeJobRecord 0 false j s) s else s

theorem jobRecords_frame (s : State) : Frame [.sessions, .jobs, .cnt, .host] s s.jobRecords :=
  .ite (fun _ => .foldl .refl fun _ _ h => Frame.comp writeJobRecord_frame (by decide) h) fun _ => .refl

theorem intervalRecords_frame (s : State) : Frame [.sessions, .cnt, .host] s s.intervalRecords :=
  .foldl .refl fun _ _ h => Frame.comp writeSessionRecord_frame (by decide) h

theorem jobRecords_session {n : Nat} {x : Session} {s : State} (hx : s.session n = some x) :
    ∃ y, s.jobRecords.session n = some y := by
  have hfold (l : List Job) (u : State) (hu : ∃ y, u.session n = some y) :
      ∃ y, (l.foldl (fun s j => writeJobRecord 0 false j s) u).session n = some y := by
    induction l generalizing u with
    | nil => exact hu
    | cons j l ih =>
      obtain ⟨y, hy⟩ := hu
      obtain ⟨z, hz, -⟩ := writeJobRecord_account (kind := 0) (faulted := false) (j := j) hy
      exact ih _ ⟨z, hz⟩
  unfold State.jobRecords
  split
  · exact hfold _ s ⟨x, hx⟩
  · exact ⟨x, hx⟩

theorem execAccountingIntervalEnd_ends {s : State} (hready : s.boot.phase = .ready) (hticks : s.tb.ticks = s.frameTicks)
    (hdue : s.acct.first + s.acct.interval ≤ s.tb.frameOrd + 1) :
    exec .accountingIntervalEnd s = .next { s.jobRecords.intervalRecords with acct := { s.acct with
      interval := (s.acct.next.map (·.1)).getD s.acct.interval
      jobRecords := (s.acct.next.map (·.2)).getD s.acct.jobRecords
      next := none
      first := s.tb.frameOrd + 1 } } := by
  have hframe := Frame.comp (L := [.sessions, .jobs, .cnt, .host]) (intervalRecords_frame s.jobRecords) (by decide) (jobRecords_frame s)
  refine congrArg Host.Outcome.next ?_
  rw [if_neg (by simp [hready, hticks]; omega)]
  extract_lets s1 s2 next acct
  have hacct : s2.acct = s.acct := hframe .acct (by decide)
  have hsrc : acct = s.acct := hacct
  have hord : s2.tb.frameOrd = s.tb.frameOrd := congrArg Timebase.frameOrd (hframe .tb (by decide))
  simp only [next, hsrc, hacct, hord]
  cases s.acct.next <;> rfl

/-- Settles O14: a window's end by what Easel 3 sends for it, an interval's end by the records that it writes. -/
theorem tallyWindowsAndAccounting : Obligations.TallyWindowsAndAccounting := by
  refine ⟨fun s hready hend hnew => ?_, fun s hready hticks hdue => ?_, fun p v s hw => congrArg Host.Outcome.next (if_pos hw)⟩
  · obtain ⟨u, hexec, l, hsent, hcount⟩ := execTallyWindowEnd_ends hready hend hnew
    refine ⟨_, hexec, rfl, rfl, List.IsPrefix.trans ⟨l, hsent.symm⟩ (List.prefix_append ..), ?_, List.getLast?_concat,
      (exec_frame hexec).widen rfl⟩
    show (u.almSent ++ [_]).length + s.mseqOut = s.almSent.length + (u.mseqOut + 1)
    rw [hsent, hcount]
    simp only [List.length_append, List.length_singleton]
    omega
  · have hexec := execAccountingIntervalEnd_ends hready hticks hdue
    refine ⟨_, hexec, rfl, fun n x hx => ?_, (exec_frame hexec).widen rfl⟩
    obtain ⟨y, hy⟩ := jobRecords_session hx
    have htb : s.jobRecords.tb = s.tb := jobRecords_frame s .tb (by decide)
    have hmem : n ∈ s.jobRecords.sessions.map (·.1) := List.mem_map_of_mem (f := (·.1)) (mem_of_tabGet hy)
    have hbegins := writeSessionRecords_begins (kind := 1) hy (.inl hmem)
    rwa [htb] at hbegins

end Sys2Proof.Machine
end

section
/-! ### Bring-up and supply warnings (18 R565, R566; 19 R581, R584, R585; 10 R296) -/

namespace Sys2Proof.Machine

open Sys2Proof

/-! ### Folds that bring something about -/

section

variable {σ α : Type} {g : σ → α → σ} {P I : σ → Prop} {l : List α} {a : α}

/-- What one step of a fold brings about, and every step keeps, holds behind the fold. -/
theorem foldl_brings (ha : a ∈ l) (hI : ∀ u b, I u → I (g u b)) (hset : ∀ u, I u → P (g u a)) (hkeep : ∀ u b, P u → P (g u b))
    {s : σ} (hs : I s) : P (l.foldl g s) := by
  have hkept (l : List α) (u : σ) (hu : P u) : P (l.foldl g u) := by
    induction l generalizing u with
    | nil => exact hu
    | cons b l ih => exact ih _ (hkeep u b hu)
  induction l generalizing s with
  | nil => cases ha
  | cons b l ih =>
    obtain rfl | ha := List.mem_cons.mp ha
    · exact hkept l _ (hset s hs)
    · exact ih ha (hI s b hs)

end

/-! ### Self tests that fail (19 R584) -/

/-- A Hatch core that the map does not disable is retired when it fails, at once or at an earlier bring-up. -/
theorem coreFailed_retired {s : State} {x : Site} (hmap : x ∉ s.part.disabledCores) (hrouter : x ∉ s.part.bypassed) :
    x ∈ (coreFailed s x).nv.retiredCores := by
  unfold coreFailed
  split
  · simp
  · next hoff =>
    have hboot : x ∈ s.bootRetired := by
      by_contra hnot
      exact hoff (by simp [State.coreEnabled, hmap, hrouter, hnot])
    exact List.mem_of_mem_take hboot

theorem coreFailed_retiredCores {s : State} {x y : Site} (h : x ∈ s.nv.retiredCores) : x ∈ (coreFailed s y).nv.retiredCores := by
  unfold coreFailed
  split
  · simp [h]
  · exact h

theorem burinFailed_retiredCores (s : State) (b : Nat × Nat) : (burinFailed s b).nv.retiredCores = s.nv.retiredCores := by
  unfold burinFailed
  split
  · simp
  · rfl

theorem controllerFailed_out (s : State) (f : Nat) : ((controllerFailed s f).field f).out = true := by simp [controllerFailed]

theorem controllerFailed_kept {s : State} {f k : Nat} (h : (s.field f).out = true) : ((controllerFailed s k).field f).out = true := by
  by_cases hk : f = k
  · rw [hk]
    exact controllerFailed_out s k
  · rw [controllerFailed, State.field_raiseAlarm, State.field_setField_other _ _ hk, h]

theorem easelFailed_easelOut (s : State) (e : Nat) : (easelFailed s e).fault.easelOut = s.fault.easelOut ++ [e] := by
  simp [easelFailed]

/-- The state behind the self tests of Hatch cores, Burin units, field controllers and Easel processors 0 to 2. -/
def State.selfTested (s : State) (r : CoresReport) : State :=
  (r.easels.filter fun e => e != 3).foldl easelFailed
    (r.controllers.foldl controllerFailed (r.burins.foldl burinFailed (r.cores.foldl coreFailed s)))

section

variable {s : State} {r : CoresReport}

theorem selfTested_core {x : Site} (hx : x ∈ r.cores) (hon : s.coreEnabled x = true) : x ∈ (s.selfTested r).nv.retiredCores := by
  obtain ⟨⟨hmap, hrouter⟩, -⟩ : (x ∉ s.part.disabledCores ∧ x ∉ s.part.bypassed) ∧ x ∉ s.bootRetired := by
    simpa [State.coreEnabled] using hon
  have hcores : x ∈ (r.cores.foldl coreFailed s).nv.retiredCores :=
    foldl_brings (g := coreFailed) (P := fun u => x ∈ u.nv.retiredCores) (I := fun u => u.part = s.part) hx (fun u _ hu => (coreFailed_frame (s := u) .part (by decide)).trans hu)
      (fun u hu => coreFailed_retired (hu ▸ hmap) (hu ▸ hrouter)) (fun _ _ => coreFailed_retiredCores) rfl
  have hburins (l : List (Nat × Nat)) (u : State) : (l.foldl burinFailed u).nv.retiredCores = u.nv.retiredCores := by
    induction l generalizing u with
    | nil => rfl
    | cons b l ih => exact (ih _).trans (burinFailed_retiredCores u b)
  have hnv (u : State) : ((r.easels.filter fun e => e != 3).foldl easelFailed (r.controllers.foldl controllerFailed u)).nv = u.nv :=
    Frame.foldl (L := [.hatch, .fault, .evt, .cnt, .host])
      (.foldl .refl fun _ _ h => Frame.comp controllerFailed_frame (by decide) h)
      (fun _ _ h => Frame.comp easelFailed_frame (by decide) h) .nv (by decide)
  rw [State.selfTested, hnv, hburins]
  exact hcores

theorem selfTested_controller {f : Nat} (hf : f ∈ r.controllers) : ((s.selfTested r).field f).out = true := by
  have hhatch (u : State) : ((r.easels.filter fun e => e != 3).foldl easelFailed u).hatch = u.hatch :=
    Frame.foldl (L := [.evt, .fault, .cnt, .host]) .refl (fun _ _ h => Frame.comp easelFailed_frame (by decide) h) .hatch (by decide)
  have hout (u : State) : ((r.controllers.foldl controllerFailed u).field f).out = true :=
    foldl_brings (g := controllerFailed) (I := fun _ => True) (P := fun u => (u.field f).out = true) hf (fun _ _ => id) (fun u _ => controllerFailed_out u f)
      (fun _ _ => controllerFailed_kept) trivial
  rw [State.selfTested, State.field, hhatch]
  exact hout _

theorem selfTested_easel {e : Nat} (he : e ∈ r.easels) (h3 : e ≠ 3) : e ∈ (s.selfTested r).fault.easelOut :=
  foldl_brings (g := easelFailed) (I := fun _ => True) (P := fun u => e ∈ u.fault.easelOut)
    (l := r.easels.filter fun e => e != 3) (List.mem_filter.mpr ⟨he, by simpa using h3⟩) (fun _ _ => id)
    (fun u _ => by simp [easelFailed_easelOut]) (fun u b hu => by simp [easelFailed_easelOut, hu]) trivial

/-- CORES goes on to MEMORY when nothing stops it (19 R584). -/
theorem execCores_goes_on {ms : Nat} (hcores : s.boot.phase = .cores) (hproof : r.proofFailed = false) (hosc : r.oscFailed = false)
    (h3 : 3 ∉ r.easels) (h1 : r.easels.length ≤ 1) :
    exec (.cores ms r) s = .next ((s.selfTested r).enter .memory ms) := by
  refine congrArg Host.Outcome.next ((if_pos hcores).trans ?_)
  rw [if_neg (by simp [hproof]), if_neg (by simp [hosc]), if_neg (by simpa using h3), if_neg (Nat.not_lt.mpr h1)]
  rfl

/-- CORES ends in FAULTED with the cause of the first failure that stops it (19 R584). -/
theorem execCores_faults {ms : Nat} (hcores : s.boot.phase = .cores) : ∃ t, exec (.cores ms r) s = .next t ∧
    (r.proofFailed = true → t.boot.phase = .faulted ∧ t.fault.cause = 2) ∧
    (r.proofFailed = false → r.oscFailed = true → t.boot.phase = .faulted ∧ t.fault.cause = 3) ∧
    (r.proofFailed = false → r.oscFailed = false → 3 ∈ r.easels → t.boot.phase = .faulted ∧ t.fault.cause = 4) ∧
    (r.proofFailed = false → r.oscFailed = false → 3 ∉ r.easels → 1 < r.easels.length →
      t.boot.phase = .faulted ∧ t.fault.cause = 5) := by
  have hfaults (u : State) (cause : Nat) :
      (u.enterFaulted cause).boot.phase = .faulted ∧ (u.enterFaulted cause).fault.cause = cause :=
    ⟨(enterFaulted_faults u cause).1, (enterFaulted_faults u cause).2.1⟩
  refine ⟨_, congrArg Host.Outcome.next (if_pos hcores), fun hproof => ?_, fun hproof hosc => ?_, fun hproof hosc h3 => ?_,
    fun hproof hosc h3 h1 => ?_⟩
  · dsimp only
    rw [if_pos hproof]
    exact hfaults ..
  · dsimp only
    rw [if_neg (by simp [hproof]), if_pos hosc]
    exact hfaults ..
  · dsimp only
    rw [if_neg (by simp [hproof]), if_neg (by simp [hosc]), if_pos (by simpa using h3)]
    exact hfaults ..
  · dsimp only
    rw [if_neg (by simp [hproof]), if_neg (by simp [hosc]), if_neg (by simpa using h3), if_pos h1]
    exact hfaults ..

end

/-! ### VERIFY, MEMORY and MEASURE (16 R512; 10 R296; 03 R77) -/

theorem execVerify_verifies {ms : Nat} {s : State} (hverify : s.boot.phase = .verify) : ∃ t, exec (.verify ms) s = .next t ∧
    t.proof.svn = Config.fwSvn s.part.fwImage % 64 ∧ t.proof.fwRefuse = firmwareStep s.part s.part.fwImage ∧
    (t.boot.phase = .cores ↔ firmwareStep s.part s.part.fwImage = 0) ∧
    (t.boot.phase = .fwRefused ↔ firmwareStep s.part s.part.fwImage ≠ 0) ∧ (t.proof.fwOk = true ↔ t.boot.phase = .cores) := by
  by_cases hstep : firmwareStep s.part s.part.fwImage = 0
  · refine ⟨_, congrArg Host.Outcome.next ((if_pos hverify).trans (if_pos hstep)), rfl, hstep.symm, ?_⟩
    simp [State.enter, hstep]
  · refine ⟨_, congrArg Host.Outcome.next ((if_pos hverify).trans (if_neg hstep)), rfl, rfl, ?_⟩
    simp [State.enter, hstep]

theorem execMemory_trains {ms : Nat} {l : List ChannelTrain} {s : State} (hmemory : s.boot.phase = .memory) :
    ∃ t, exec (.memory ms l) s = .next t ∧ t.mem.trainDone = true ∧ t.dram = [] ∧
      (∃ slowRun, t.mem.chans = (List.range 32).map fun n =>
        (n, trainChannel slowRun s.nv.slowPolicy (l.getD n ⟨false, false, false, false, 0, 0, 0, 0⟩))) ∧
      (t.boot.phase = .measure ↔ 3 ≤ t.channels.length) ∧ (t.channels.length < 3 → t.boot.phase = .faulted ∧ t.fault.cause = 1) := by
  refine ⟨_, congrArg Host.Outcome.next (if_pos hmemory), ?_⟩
  extract_lets slowRun table mem u n v
  have hv : Frame [.evt, .cnt, .host] u v := .ite (fun _ => State.raiseAlarm_frame) fun _ => .refl
  have hmem : v.mem = u.mem := hv .mem (by decide)
  have hdram : v.dram = u.dram := hv .dram (by decide)
  by_cases hn : n < 3
  · rw [if_pos hn]
    obtain ⟨hphase, hcause, hkept⟩ := enterFaulted_faults (v.enter .measure ms) 1
    have hmem' : ((v.enter .measure ms).enterFaulted 1).mem = u.mem := hkept.trans hmem
    have hlen : ((v.enter .measure ms).enterFaulted 1).channels.length = n := by
      simp only [State.channels, hmem', n]
    rw [hlen, hmem', hphase]
    refine ⟨rfl, (State.enterFaulted_frame .dram (by decide)).trans hdram, ⟨slowRun, rfl⟩, ?_, fun _ => ⟨rfl, hcause⟩⟩
    simpa using hn
  · rw [if_neg hn]
    have hlen : (v.enter .measure ms).channels.length = n := by
      simp only [State.channels, State.enter, hmem, n]
    rw [hlen]
    exact ⟨congrArg Mem.trainDone hmem, hdram, ⟨slowRun, congrArg Mem.chans hmem⟩, by simpa [State.enter] using hn,
      fun h => absurd h hn⟩

theorem execMeasure_measures {ms : Nat} {s : State} (hmeasure : s.boot.phase = .measure) : ∃ t, exec (.measure ms) s = .next t ∧
    t.boot.phase = .ready ∧ t.cap = s.measureCap ∧ t.proof.mFw = Config.shake256 s.part.fwImage 64 ∧
    t.proof.mAlm = Config.shake256 s.alm.fwImage 64 ∧ t.proof.mWaf = Config.shake256 s.wafBytes 64 ∧ t.tb.running = true ∧
    t.tb.osc = 0 ∧ t.tb.season = 1 ∧ t.tb.frame = 0 ∧ t.tb.ticks = 0 := by
  refine ⟨_, congrArg Host.Outcome.next (if_pos hmeasure), ?_⟩
  extract_lets cap proof u v
  have hv : Frame [.evt, .cnt, .host] u v := .ite (fun _ => State.raiseAlarm_frame) fun _ => .refl
  clear_value v
  have hproof : v.proof = u.proof := hv .proof (by decide)
  exact ⟨rfl, hv .cap (by decide), congrArg Proof.mFw hproof, congrArg Proof.mAlm hproof, congrArg Proof.mWaf hproof,
    rfl, rfl, rfl, rfl, rfl⟩

/-- Settles O10: each state of bring-up by what its command does; CORES by the first failure that stops it, MEMORY by how many channels
are in service. -/
theorem bringUp : Obligations.BringUp := by
  refine ⟨⟨fun v s hreset hpow htrip hlo hhi => ?_, fun ms s hwake => ?_, fun ms s hverify => ?_,
    fun ms r s hcores hproof hosc h3 h1 => ?_, fun ms r s hcores => execCores_faults hcores⟩, fun ms l s hmemory => ?_,
    fun ms s hmeasure => ?_⟩
  · refine (atBusbar_within _ hhi).trans (congrArg Host.Outcome.next (if_pos ?_))
    simp [hreset, hpow, htrip, show vWarning ≤ v from hlo]
  · have hexec : exec (.wake ms) s = _ := congrArg Host.Outcome.next (if_pos hwake)
    exact ⟨_, hexec, rfl, rfl, exec_frame hexec⟩
  · obtain ⟨t, hexec, hsvn, hrefuse, hcores, hrefused, hok⟩ := execVerify_verifies (ms := ms) hverify
    exact ⟨t, hexec, hsvn, hrefuse, hcores, hrefused, hok, exec_frame hexec⟩
  · have hexec := execCores_goes_on (ms := ms) hcores hproof hosc h3 h1
    exact ⟨_, hexec, rfl, fun f hf => selfTested_controller hf, fun e he => selfTested_easel he fun h => h3 (h ▸ he),
      fun x hx hon => selfTested_core hx hon, exec_frame hexec⟩
  · obtain ⟨t, hexec, hdone, hdram, hchans, hphase, hfew⟩ := execMemory_trains (ms := ms) (l := l) hmemory
    exact ⟨t, hexec, hdone, hdram, hchans, hphase, hfew, exec_frame hexec⟩
  · obtain ⟨t, hexec, hready, hcap, hfw, halm, hwaf, hrun, hosc, hseason, hframe, hticks⟩ := execMeasure_measures (ms := ms) hmeasure
    exact ⟨t, hexec, hready, hcap, hfw, halm, hwaf, hrun, hosc, hseason, hframe, hticks, exec_frame hexec⟩

/-! ### Supply warnings (18 R565, R566) -/

theorem listed_code {e : Evt} {code source : Nat} (h : e.listed code source) : ∃ k ∈ e.table, k.code = code := by
  obtain ⟨k, hk, hkey⟩ := List.any_eq_true.mp h
  exact ⟨k, hk, beq_iff_eq.mp (Bool.and_eq_true_iff.mp hkey).1⟩

theorem execSupplyWarning_warns {v : Nat} {s : State} (hpow : s.boot.powered = true) (hreset : s.boot.phase ≠ .reset)
    (hnew : s.boot.warning = false) (hlo : 4200 ≤ v) (hhi : v < 4800) : ∃ t, exec (.supplyWarning v) s = .next t ∧
      t.boot = { s.boot with warning := true, stretched := true, busbar := v } ∧ t.pwr.lowest = v ∧
      t.pwr.warnCount = min (s.pwr.warnCount + 1) 0xFFFF ∧ t.pwr.stretchedFrame = true ∧ ∃ k ∈ t.evt.table, k.code = 0x01 := by
  refine ⟨_, atBusbar_within _ (by omega), ?_⟩
  rw [if_neg (by simp [hpow, hreset, show vReset ≤ v from hlo]), if_neg (c := vWarning ≤ v) (Nat.not_le.mpr hhi)]
  extract_lets new low boot pwr s1 pwr' s2 fills
  rw [if_pos (by simp [new, hnew])]
  have hpwr : ((fills.foldl (fun s j => s.requestFrost j.id) (s2.bump 0x280 1)).raiseAlarm 0x01 0 (10 * low)).pwr = s2.pwr := by
    rw [State.raiseAlarm_pwr]
    exact Frame.foldl (L := [.jobs, .cnt]) (State.bump_frame.widen rfl)
      (fun _ _ h => Frame.comp State.requestFrost_frame (by decide) h) .pwr (by decide)
  rw [frostFills_boot, hpwr]
  exact ⟨rfl, if_pos (by simp [new, hnew]), rfl, rfl, listed_code (raiseAlarm_listed ..)⟩

/-- Settles O11: a first comparison below 48.0 V by what it sets and raises, the end of the hold by what it clears. -/
theorem supplyWarnings : Obligations.SupplyWarnings := by
  refine ⟨fun v s hpow hreset hnew hlo hhi => ?_, fun v s hwarn hlo hhi => ?_⟩
  · obtain ⟨t, hexec, hboot, hlow, hcount, hstretch, halarm⟩ := execSupplyWarning_warns hpow hreset hnew hlo hhi
    exact ⟨t, hexec, hboot, hlow, hcount, hstretch, halarm, exec_frame hexec⟩
  · exact (atBusbar_within _ hhi).trans (congrArg Host.Outcome.next (if_pos (by simp [hwarn, show vWarning ≤ v from hlo])))

end Sys2Proof.Machine
end

section
/-! ### Power-on resets: their causes, and what they keep (18 R567; 19 R577 to R579; 20 R602) -/

namespace Sys2Proof.Machine

open Sys2Proof

/-! ### Almanac over a reset (17 R528, R545) -/

/-- Almanac's clock, its power and its tamper counter go on over a reset of the module. -/
theorem almanacReset_goes_on (s : State) : (almanacReset s).alm.time = s.alm.time ∧ (almanacReset s).alm.running = s.alm.running ∧
    (almanacReset s).alm.tamper = s.alm.tamper := by
  unfold almanacReset
  split
  · exact ⟨rfl, rfl, rfl⟩
  split
  · extract_lets s1 old version alm
    obtain ⟨rs, x, hclosed⟩ : ∃ rs x, s1.alm = _ := closeInterval_alm 0 0 s
    obtain ⟨rs', x', haudit⟩ := writeAudit_alm 5 2 old (fwIdent version _)
      { s1 with alm := { alm with fwImage := _, fwVersion := version, staged := none } }
    rw [haudit]
    simp only [alm, hclosed, and_self]
  · exact ⟨rfl, rfl, rfl⟩

theorem almanacReset_unstaged {s : State} (h : s.alm.staged = none) : almanacReset s = s := by
  unfold almanacReset
  rw [h]

/-! ### What a reset keeps (19 R578, R590) -/

/-- What a power-on reset of `s` that ends in `t` keeps: the fuses with a committed image as the running one, the staging store, Almanac,
and what is no part of the module. -/
def KeptOverReset (s t : State) : Prop :=
  t.part = { s.part with fwImage := if s.stage.image = [] then s.part.fwImage else s.stage.image } ∧
  t.stage = (if s.stage.state = 3
    then { s.stage with mem := [], state := 0, refuse := 0, svn := 0, len := 0, image := [] }
    else { s.stage with len := 0, image := [] }) ∧
  t.alm.time = s.alm.time ∧ t.alm.running = s.alm.running ∧ t.alm.tamper = s.alm.tamper ∧
  (s.alm.staged = none →
    t.alm = { s.alm with ackSig := [0, 0, 0, 0], ackSeqLo := 0, ackSeqHi := 0, ackKind := 0, ackBusy := false }) ∧
  t.host = s.host ∧ t.free = s.free ∧ t.pending = s.pending

/-- The blocks that a power-on reset gives values of their own. -/
def ownOverReset : List Block := [.boot, .nv, .part, .stage, .alm, .host, .free, .pending]

section

variable (cause volts : Nat) (s : State)

theorem powerOnReset_part : (powerOnReset cause volts s).part =
    { s.part with fwImage := if s.stage.image = [] then s.part.fwImage else s.stage.image } := by
  simp only [← List.isEmpty_iff]
  rfl

theorem powerOnReset_stage : (powerOnReset cause volts s).stage = (if s.stage.state = 3
    then { s.stage with mem := [], state := 0, refuse := 0, svn := 0, len := 0, image := [] }
    else { s.stage with len := 0, image := [] }) := by
  by_cases h : s.stage.state = 3 <;> simp [powerOnReset, h]

theorem powerOnReset_keeps : KeptOverReset s (powerOnReset cause volts s) := by
  obtain ⟨htime, hrun, htamper⟩ := almanacReset_goes_on s
  refine ⟨powerOnReset_part .., powerOnReset_stage .., htime, hrun, htamper, fun hstaged => ?_, rfl, rfl, rfl⟩
  rw [powerOnReset, almanacReset_unstaged hstaged]

theorem powerOnReset_renewed : Frame ownOverReset State.reset (powerOnReset cause volts s) := by
  intro b hb
  cases b
  case boot | nv | part | stage | alm | host | free | pending => exact absurd (by decide) hb
  all_goals rfl

theorem powerOff_renewed : Frame ownOverReset State.reset (powerOff volts s) := by
  intro b hb
  cases b
  case boot | nv | part | stage | alm | host | free | pending => exact absurd (by decide) hb
  all_goals rfl

/-- A latched trip is the boot state's own. -/
theorem thermalTrip_renewed : Frame ownOverReset State.reset
    { powerOnReset 0 s.boot.busbar s with boot := { (powerOnReset 0 s.boot.busbar s).boot with tripped := true } } := by
  intro b hb
  cases b
  case boot | nv | part | stage | alm | host | free | pending => exact absurd (by decide) hb
  all_goals rfl

end

/-! ### SUPPLY_RESET (18 R567) -/

/-- With the ring off and no alarm in the table, an alarm waits. -/
theorem raiseAlarm_waits {s : State} (htable : s.evt.table = []) (hoff : s.evt.enable = false) (code source detail : Nat) :
    s.raiseAlarm code source detail = { s with evt := { s.evt with
      table := [⟨code, source, 0, s.tb.frame, s.tb.frame, 0, s.tb.frameOrd + s.evt.coalesce⟩]
      waiting := s.evt.waiting ++ [⟨0, code, source, s.tb.frame, s.tb.frame, 1, BitVec.ofNat 64 detail⟩] } } := by
  simp [State.raiseAlarm, State.alarmRecord, Evt.keySource, Evt.room, htable, hoff]

/-- The state right behind the reset that a supply crossing makes. -/
def State.supplyCrossed (s : State) (v : Nat) : State :=
  State.raiseAlarm { powerOnReset 1 v s with nv := { s.nv with supplyResetAt := s.alm.time.toNat } } 0x02 0 s.alm.time.toNat

theorem supplyCrossed_eq (s : State) (v : Nat) : s.supplyCrossed v =
    { powerOnReset 1 v s with
      nv := { s.nv with supplyResetAt := s.alm.time.toNat }
      evt := { State.reset.evt with
        table := [⟨0x02, 0, 0, 0, 0, 0, State.reset.evt.coalesce⟩]
        waiting := [⟨0, 0x02, 0, 0, 0, 1, s.alm.time⟩] } } := by
  rw [State.supplyCrossed, raiseAlarm_waits rfl rfl, BitVec.ofNat_toNat, BitVec.setWidth_eq]
  rfl

theorem execSupplyReset_crosses {v : Nat} {s : State} (hpow : s.boot.powered = true) (hreset : s.boot.phase ≠ .reset)
    (htrip : s.boot.tripped = false) (hv : v < 4200) :
    exec (.supplyReset v) s = .next (if v < 3000 then powerOff v (s.supplyCrossed v) else s.supplyCrossed v) := by
  refine (atBusbar_within _ (by omega)).trans (congrArg Host.Outcome.next ?_)
  rw [if_neg (by simp [hpow, show ¬vReset ≤ v from Nat.not_le.mpr hv])]
  extract_lets crossing at_ s1 nv busbar s2
  have hs2 : s2 = s.supplyCrossed v := if_pos (by simp [crossing, hreset, htrip])
  rw [hs2, vOff]

theorem supplyCrossed_renewed (s : State) (v : Nat) : Frame (ownOverReset ++ [.evt, .cnt]) State.reset (s.supplyCrossed v) := by
  rw [supplyCrossed_eq]
  intro b hb
  cases b
  case boot | nv | part | stage | alm | host | free | pending | evt | cnt => exact absurd (by decide) hb
  all_goals rfl

/-- Settles O9: each cause by the reset it makes; SUPPLY_RESET by the alarm that waits behind its reset, and below 30 V by the module
that goes off. -/
theorem powerOnResets : Obligations.PowerOnResets := by
  refine ⟨fun v s hoff hlo hhi => ?_, fun p v s hw hkey hgo => ?_, fun v s hpow hreset htrip => ⟨fun hlo hhi => ?_, fun hv => ?_⟩,
    fun s hpow htrip => ?_⟩
  · refine ⟨_, (atBusbar_within _ hhi).trans (congrArg Host.Outcome.next (if_pos ?_)), rfl, rfl, powerOnReset_keeps ..,
      powerOnReset_renewed 0 v s⟩
    simp [hoff, show vOff ≤ v from hlo]
  · exact ⟨_, congrArg Host.Outcome.next ((if_pos hw).trans (if_pos (by simp [hkey, hgo]))), rfl, rfl, powerOnReset_keeps ..,
      powerOnReset_renewed 2 s.boot.busbar s⟩
  · have hexec := execSupplyReset_crosses hpow hreset htrip hhi
    rw [if_neg (Nat.not_lt.mpr hlo)] at hexec
    rw [supplyCrossed_eq] at hexec
    exact ⟨_, hexec, rfl, rfl, powerOnReset_keeps 1 v s, rfl, supplyCrossed_eq s v ▸ supplyCrossed_renewed s v⟩
  · have hexec := execSupplyReset_crosses (v := v) hpow hreset htrip (by omega)
    rw [if_pos hv, supplyCrossed_eq] at hexec
    refine ⟨_, hexec, rfl, rfl, ?_, powerOff_renewed v _⟩
    exact (almanacReset_goes_on _).1.trans (almanacReset_goes_on s).1
  · exact ⟨_, congrArg Host.Outcome.next (if_pos (by simp [hpow, htrip])), rfl, rfl, powerOnReset_keeps 0 s.boot.busbar s,
      thermalTrip_renewed s⟩

end Sys2Proof.Machine
end

section
/-! ### Alarms, logs, traces and the event ring (18 R568 to R572) -/

namespace Sys2Proof.Machine

open Sys2Proof

/-! ### Records of the event ring (18 R568, R571) -/

/-- Where the next event record goes. -/
def State.evtAt (s : State) : Nat := s.evt.base + 32 * (s.evt.pi.toNat % s.evt.slots)

/-- A written record moves PI on by one. -/
theorem evtWrite_evt (s : State) (r : EvtRecord) : (s.evtWrite r).evt = { s.evt with pi := s.evt.pi + 1 } := by
  unfold State.evtWrite
  exact (apply_ite State.evt _ _ _).trans (ite_self _)

/-- It is written at PI. -/
theorem evtWrite_writes (s : State) (r : EvtRecord) :
    (s.evtWrite r).host.writes = s.host.writes ++ [⟨s.evtPort, s.evtAt, evtBytes r⟩] := by
  unfold State.evtWrite
  exact (apply_ite (fun u : State => u.host.writes) _ _ _).trans (ite_self _)

/-- An alarm's record sends VECTOR. -/
theorem evtWrite_msix (s : State) {r : EvtRecord} (h : r.cls = 0) : (s.evtWrite r).host.msix = s.host.msix ++ [s.evt.vector] := by
  unfold State.evtWrite
  rw [if_pos (by simp [h])]
  rfl

section

variable {s : State}

theorem alarmRecord_writes (hroom : s.evt.room = true) (hwait : s.evt.waiting = []) (r : EvtRecord) :
    s.alarmRecord r = (s.evtWrite r).bump 0x208 1 := if_pos (by simp [hroom, hwait])

theorem alarmRecord_waits (hroom : s.evt.room = false) (r : EvtRecord) :
    s.alarmRecord r = { s with evt := { s.evt with waiting := s.evt.waiting ++ [r] } } := if_neg (by simp [hroom])

/-- A change of the event block is no other block's. -/
theorem frame_evt (s : State) (e : Evt) : Frame [.evt] s { s with evt := e } := by
  intro b hb
  cases b
  case evt => exact absurd (by decide) hb
  all_goals rfl

/-! ### Alarms (18 R570) -/

variable {code source : Nat}

theorem keySource_quiet (hquiet : s.evt.table.any (fun k => k.code == code && k.source == source) = false)
    (hkeys : (s.evt.table.filter (fun k => k.source != 0xFFFF)).length < 2048) : s.evt.keySource code source = source := by
  rw [Evt.keySource, if_neg (by simp [hquiet]), if_pos hkeys]

/-- The state with a key opened for a first occurrence. -/
def State.openKey (s : State) (code source : Nat) : State :=
  { s with evt := { s.evt with
    table := s.evt.table ++ [⟨code, source, 0, s.tb.frame, s.tb.frame, 0, s.tb.frameOrd + s.evt.coalesce⟩] } }

/-- A first occurrence opens its key, and is recorded. -/
theorem raiseAlarm_first (hquiet : s.evt.table.any (fun k => k.code == code && k.source == source) = false)
    (hkeys : (s.evt.table.filter (fun k => k.source != 0xFFFF)).length < 2048) (x : DWord) :
    s.raiseAlarm code source x.toNat =
      (s.openKey code source).alarmRecord ⟨0, code, source, s.tb.frame, s.tb.frame, 1, x⟩ := by
  rw [State.raiseAlarm, keySource_quiet hquiet hkeys]
  dsimp only
  rw [if_neg (by simp [hquiet]), BitVec.ofNat_toNat, BitVec.setWidth_eq]
  rfl

/-- A later occurrence counts in its key. -/
theorem raiseAlarm_again (hkey : s.evt.table.any (fun k => k.code == code && k.source == source) = true) (x : DWord) :
    s.raiseAlarm code source x.toNat =
      { s with evt := { s.evt with table := s.evt.table.map (alarmAgain code source s.tb.frame x) } } := by
  have hsrc : s.evt.keySource code source = source := if_pos hkey
  rw [State.raiseAlarm, hsrc]
  dsimp only
  rw [if_pos hkey, BitVec.ofNat_toNat, BitVec.setWidth_eq]

theorem alarmAgain_counts {k : AlarmKey} (hc : k.code = code) (hs : k.source = source) (now : BitVec 48) (x : DWord) :
    (alarmAgain code source now x k).code = code ∧ (alarmAgain code source now x k).source = source ∧
      (alarmAgain code source now x k).count = k.count + 1 ∧ (alarmAgain code source now x k).detail = x ∧
      (alarmAgain code source now x k).ends = k.ends := by
  rw [alarmAgain, if_pos (by simp [hc, hs])]
  exact ⟨hc, hs, rfl, rfl, rfl⟩

theorem execAlarm_raises (hlo : 1 ≤ code) (hhi : code ≤ 0x16) (x : DWord) :
    exec (.alarm code source x) s = .next (s.raiseAlarm code source x.toNat) :=
  congrArg Host.Outcome.next (if_pos (by simp [hlo, hhi]))

/-! ### The end of a window (18 R570) -/

variable {k : AlarmKey}

theorem endAlarmWindow_running (hk : s.evt.table.find? (fun k => k.code == code && k.source == source) = some k)
    (hends : s.tb.frameOrd < k.ends) : endAlarmWindow code source s = s := by
  unfold endAlarmWindow
  rw [hk]
  exact if_pos hends

theorem endAlarmWindow_quiet (hk : s.evt.table.find? (fun k => k.code == code && k.source == source) = some k)
    (hends : k.ends ≤ s.tb.frameOrd) (hcount : k.count = 0) : endAlarmWindow code source s =
      { s with evt := { s.evt with table := s.evt.table.filter fun x => !(x.code == code && x.source == source) } } := by
  unfold endAlarmWindow
  rw [hk]
  exact (if_neg (Nat.not_lt.mpr hends)).trans (if_pos hcount)

/-- A key whose window begins anew. -/
def AlarmKey.again (code source ends : Nat) (x : AlarmKey) : AlarmKey :=
  if x.code == code && x.source == source then { x with count := 0, ends := ends } else x

theorem endAlarmWindow_records (hk : s.evt.table.find? (fun k => k.code == code && k.source == source) = some k)
    (hends : k.ends ≤ s.tb.frameOrd) (hcount : k.count ≠ 0) : endAlarmWindow code source s =
      State.alarmRecord { s with evt := { s.evt with
        table := s.evt.table.map (AlarmKey.again code source (s.tb.frameOrd + s.evt.coalesce)) } }
        ⟨0, code, source, k.first, k.last, k.count, k.detail⟩ := by
  unfold endAlarmWindow
  rw [hk]
  exact (if_neg (Nat.not_lt.mpr hends)).trans (if_neg hcount)

end

/-! ### The limit of a source (18 R571) -/

section

variable (s : State) (source : Nat)

theorem logSource_source : (s.logSource source).source = source := by
  unfold State.logSource
  extract_lets cap
  split
  · next l hl => exact beq_iff_eq.mp (List.find?_some hl :)
  · rfl

theorem logSource_at : (s.logSource source).at_ = s.tb.sub := by
  unfold State.logSource
  extract_lets cap
  split <;> rfl

theorem logSource_level : (s.logSource source).level ≤ 4 * s.evt.logRate * logUnit := by
  unfold State.logSource
  extract_lets cap
  split
  · exact Nat.min_le_left ..
  · exact Nat.le_refl _

end

/-- A source's limit reads as it was kept in the same sub-tick, whatever else the event block holds by then. -/
theorem logSource_kept {s t : State} {l : LogSource} (hlogs : t.evt.logs = (s.setLog l).evt.logs) (hrate : t.evt.logRate = s.evt.logRate)
    (hsub : t.tb.sub = s.tb.sub) (hat : l.at_ = s.tb.sub) (hlevel : l.level ≤ 4 * s.evt.logRate * logUnit) :
    t.logSource l.source = l := by
  have hfind : t.evt.logs.find? (fun x => x.source == l.source) = some l := by
    rw [hlogs]
    show List.find? _ (s.evt.logs.filter (fun x => x.source != l.source) ++ [l]) = some l
    have hnone : (s.evt.logs.filter (fun x => x.source != l.source)).find? (fun x => x.source == l.source) = none := by
      simp [List.find?_eq_none]
    rw [List.find?_append, hnone]
    simp
  unfold State.logSource
  rw [hfind, hrate, hsub, ← hat]
  simp [Nat.min_eq_right hlevel]

section

variable {s : State} {code source : Nat}

theorem writeLog_writes (hen : s.evt.logEn = true) (hroom : s.evt.logRoom = true) (hlevel : logUnit ≤ (s.logSource source).level)
    (x : DWord) : s.writeLog code source x.toNat =
      (s.setLog { s.logSource source with level := (s.logSource source).level - logUnit }).evtWrite
        ⟨1, code, source, s.tb.frame, s.tb.frame, 1, x⟩ := by
  rw [State.writeLog]
  dsimp only
  rw [if_neg (by simp [hen]), if_pos (by simp [hroom, hlevel]), BitVec.ofNat_toNat, BitVec.setWidth_eq]

theorem writeLog_suppresses (hen : s.evt.logEn = true) (hno : s.evt.logRoom = false ∨ (s.logSource source).level < logUnit) (x : DWord) :
    ∃ f, s.writeLog code source x.toNat = (s.setLog { s.logSource source with
      suppressed := (s.logSource source).suppressed + 1, code := code, first := f, last := s.tb.frame }).bump 0x209 1 := by
  rw [State.writeLog]
  dsimp only
  rw [if_neg (by simp [hen]), if_neg (by simpa [imp_iff_not_or] using hno)]
  exact ⟨_, rfl⟩

theorem writeLogSummary_writes (hen : s.evt.logEn = true) (hroom : s.evt.logRoom = true)
    (hlevel : logUnit ≤ (s.logSource source).level) (hsome : 0 < (s.logSource source).suppressed) : s.writeLogSummary source =
      (s.setLog { s.logSource source with level := (s.logSource source).level - logUnit, suppressed := 0 }).evtWrite
        ⟨1, 0xFE, source, (s.logSource source).first, (s.logSource source).last, (s.logSource source).suppressed,
          BitVec.ofNat 64 (s.logSource source).code⟩ :=
  if_pos (by simp [hen, hroom, hlevel, hsome])

theorem writeTrace_writes (hen : s.evt.traceEn = true) (hroom : s.evt.logRoom = true)
    (hfill : 100 * s.evt.fill ≤ s.evt.tracePct * s.evt.slots) (detail : Nat) :
    ∃ r, s.writeTrace code source detail = (s.setLog { s.logSource source with drops := 0 }).evtWrite r :=
  ⟨_, if_pos (by simp [hen, hroom, hfill])⟩

theorem writeTrace_drops (hno : s.evt.traceEn = false ∨ s.evt.tracePct * s.evt.slots < 100 * s.evt.fill) (detail : Nat) :
    s.writeTrace code source detail =
      (s.setLog { s.logSource source with drops := (s.logSource source).drops + 1 }).bump 0x20A 1 := by
  refine if_neg fun h => ?_
  obtain ⟨⟨hen, -⟩, hfill⟩ : (s.evt.traceEn = true ∧ s.evt.logRoom = true) ∧ 100 * s.evt.fill ≤ s.evt.tracePct * s.evt.slots := by
    simpa using h
  obtain hno | hno := hno
  · simp [hno] at hen
  · omega

/-- What a record written for a source leaves: PI one on, the record at PI, and the source's limit as kept. -/
theorem setLog_evtWrite {l : LogSource} (hsource : l.source = source) (hat : l.at_ = s.tb.sub)
    (hlevel : l.level ≤ 4 * s.evt.logRate * logUnit) (r : EvtRecord) :
    ((s.setLog l).evtWrite r).evt.pi = s.evt.pi + 1 ∧ ((s.setLog l).evtWrite r).logSource source = l ∧
      ((s.setLog l).evtWrite r).host.writes = s.host.writes ++ [⟨s.evtPort, s.evtAt, evtBytes r⟩] := by
  have hevt := evtWrite_evt (s.setLog l) r
  refine ⟨by rw [hevt]; rfl, ?_, evtWrite_writes (s.setLog l) r⟩
  subst hsource
  exact logSource_kept (s := s) (by rw [hevt]) (by rw [hevt]; rfl) (by rw [State.evtWrite_tb]; rfl) hat hlevel

/-- What a suppressed log or a dropped trace leaves: the source's limit as kept, and no host write. -/
theorem setLog_bump {l : LogSource} (hsource : l.source = source) (hat : l.at_ = s.tb.sub)
    (hlevel : l.level ≤ 4 * s.evt.logRate * logUnit) (c : Nat) :
    ((s.setLog l).bump c 1).logSource source = l ∧ ((s.setLog l).bump c 1).host = s.host ∧ Frame [.evt, .cnt] s ((s.setLog l).bump c 1) := by
  refine ⟨?_, rfl, Frame.comp State.bump_frame (by decide) (State.setLog_frame.widen rfl)⟩
  subst hsource
  exact logSource_kept (s := s) rfl rfl rfl hat hlevel

end

/-! ### ESL_EVT_CFG (18 R568) -/

/-- The event block as a write of ESL_EVT_CFG with ENABLE leaves it. -/
def Evt.enabled (e : Evt) (v : Word) : Evt :=
  { e with
    order := min (fld v 3 0) 9
    vector := fld v 15 5
    logRate := max (fld v 23 16) 1
    tracePct := min (fld v 31 24) 100
    enable := true
    pi := 0
    ci := 0 }

section

variable {p : Nat} {v : Word} {s : State}

theorem execEventRingEnable_enables (hw : s.writable p .faultedToo = true) (hoff : s.evt.enable = false) (hv : bitOf v 4 = true) :
    exec (.eventRingEnable p v) s = .next (State.evtDrain { s with evt := s.evt.enabled v }) := by
  refine congrArg Host.Outcome.next ((if_pos hw).trans ?_)
  rw [evtCfgWrite]
  dsimp only
  rw [if_neg (by simp [hoff]), if_pos hv]
  rfl

theorem execEventRingEnable_disables (hw : s.writable p .faultedToo = true) (hon : s.evt.enable = true) (hv : bitOf v 4 = false) :
    exec (.eventRingEnable p v) s = .next { s with evt := { s.evt with enable := false } } :=
  congrArg Host.Outcome.next ((if_pos hw).trans ((if_pos hon).trans (if_neg (by simp [hv]))))

theorem execEventRingEnable_again (hw : s.writable p .faultedToo = true) (hon : s.evt.enable = true) (hv : bitOf v 4 = true) :
    exec (.eventRingEnable p v) s = .next s :=
  congrArg Host.Outcome.next ((if_pos hw).trans ((if_pos hon).trans (if_pos hv)))

end

/-- An enabled ring that holds nothing has room. -/
theorem enabled_room (e : Evt) (v : Word) : (e.enabled v).room = true := by
  simp [Evt.room, Evt.enabled, Evt.fill, Evt.slots]

/-- Its first record goes to its base. -/
theorem evtAt_enabled (s : State) (v : Word) (w : List EvtRecord) :
    State.evtAt { s with evt := { s.evt.enabled v with waiting := w } } = s.evt.base := by
  simp [State.evtAt, Evt.enabled, Evt.base]

/-- Settles O58: an alarm by whether its key is quiet and the ring has room; a window's end by its count; a log, a summary and a trace by
what its source's limit and the fill permit. -/
theorem events : Obligations.Events := by
  unfold Obligations.Events
  intro quiet
  refine ⟨fun p v s hw => ⟨fun hoff hv hwait => ?_, fun r hoff hv hwait => ?_, fun hon hv => execEventRingEnable_disables hw hon hv,
      fun hon hv => execEventRingEnable_again hw hon hv⟩,
    fun code source x s hlo hhi => ⟨fun hquiet hkeys hroom hwait => ?_, fun hquiet hkeys hroom => ?_, fun hkey => ?_⟩,
    fun code source k s hk => ⟨fun hends hcount => ?_, fun hends hcount hroom hwait => ?_,
      fun hends => congrArg Host.Outcome.next (endAlarmWindow_running hk hends)⟩,
    fun source s hen => ⟨fun code x hlo hhi => ⟨fun hroom hlevel => ?_, fun hno => ?_⟩, fun hroom hlevel hsome => ?_⟩,
    fun code source x s hlo hhi => ⟨fun hen hroom hfill => ?_, fun hno => ?_⟩⟩
  · rw [execEventRingEnable_enables hw hoff hv, State.evtDrain]
    have hnone : (s.evt.enabled v).waiting = [] := hwait
    rw [hnone]
    rfl
  · refine ⟨_, execEventRingEnable_enables hw hoff hv, ?_⟩
    have hone : (s.evt.enabled v).waiting = [r] := hwait
    rw [State.evtDrain, hone, List.foldl_cons, List.foldl_nil, if_pos (enabled_room s.evt v)]
    refine ⟨?_, ?_, (evtWrite_writes _ r).trans ?_⟩
    · rw [State.bump_evt, evtWrite_evt]
      exact congrArg List.tail hone
    · rw [State.bump_evt, evtWrite_evt]
      rfl
    · exact congrArg (fun a => s.host.writes ++ [⟨s.evtPort, a, evtBytes r⟩]) (evtAt_enabled s v _)
  · have hexec := (execAlarm_raises hlo hhi x).trans (congrArg Host.Outcome.next (raiseAlarm_first hquiet hkeys x))
    rw [alarmRecord_writes (by exact hroom) (by exact hwait)] at hexec
    refine ⟨_, hexec, ?_, ?_, evtWrite_writes .., evtWrite_msix _ rfl, exec_frame hexec⟩
    · rw [State.bump_evt, evtWrite_evt]
      rfl
    · rw [State.bump_evt, evtWrite_evt]
      rfl
  · have hexec := (execAlarm_raises hlo hhi x).trans (congrArg Host.Outcome.next (raiseAlarm_first hquiet hkeys x))
    rw [alarmRecord_waits (by exact hroom)] at hexec
    exact ⟨_, hexec, rfl, rfl⟩
  · have hany := Bool.not_eq_false _ ▸ hkey
    have hexec := (execAlarm_raises hlo hhi x).trans (congrArg Host.Outcome.next (raiseAlarm_again hany x))
    exact ⟨_, hexec, fun k hk hc hs => ⟨_, List.mem_map_of_mem hk, alarmAgain_counts hc hs _ x⟩, rfl, frame_evt s _⟩
  · refine ⟨_, congrArg Host.Outcome.next (endAlarmWindow_quiet hk hends hcount), ?_, frame_evt s _⟩
    show (s.evt.table.filter _).any _ = false
    rw [List.any_filter]
    simp [← imp_iff_not_or]
  · have hexec : exec (.coalesceWindowEnd code source) s = _ := congrArg Host.Outcome.next (endAlarmWindow_records hk hends hcount)
    rw [alarmRecord_writes (by exact hroom) (by exact hwait)] at hexec
    refine ⟨_, hexec, evtWrite_writes .., AlarmKey.again code source (s.tb.frameOrd + s.evt.coalesce) k, ?_, ?_⟩
    · rw [State.bump_evt, evtWrite_evt]
      exact List.mem_map_of_mem (List.mem_of_find?_eq_some hk)
    · obtain ⟨hc, hs⟩ : k.code = code ∧ k.source = source := by simpa using List.find?_some hk
      rw [AlarmKey.again, if_pos (by simp [hc, hs])]
      exact ⟨hc, hs, rfl, rfl⟩
  · have hexec : exec (.log code source x) s = _ := (congrArg Host.Outcome.next (if_pos (by simp [hlo, hhi]))).trans
      (congrArg Host.Outcome.next (writeLog_writes hen hroom hlevel x))
    obtain ⟨hpi, hlog, hwrites⟩ := setLog_evtWrite (s := s) (l := { s.logSource source with level := (s.logSource source).level - logUnit })
      (logSource_source s source) (logSource_at s source) ((Nat.sub_le ..).trans (logSource_level s source))
      ⟨1, code, source, s.tb.frame, s.tb.frame, 1, x⟩
    exact ⟨_, hexec, hpi, by rw [hlog], hwrites, exec_frame hexec⟩
  · obtain ⟨f, heq⟩ := writeLog_suppresses (code := code) hen hno x
    have hexec : exec (.log code source x) s = _ := (congrArg Host.Outcome.next (if_pos (by simp [hlo, hhi]))).trans
      (congrArg Host.Outcome.next heq)
    obtain ⟨hlog, hhost, hframe⟩ := setLog_bump (s := s) (l := { s.logSource source with
      suppressed := (s.logSource source).suppressed + 1, code := code, first := f, last := s.tb.frame })
      (logSource_source s source) (logSource_at s source) (logSource_level s source) 0x209
    exact ⟨_, hexec, congrArg LogSource.suppressed hlog, hhost, hframe⟩
  · have hexec : exec (.logSummary source) s = _ := congrArg Host.Outcome.next (writeLogSummary_writes hen hroom hlevel hsome)
    obtain ⟨-, hlog, hwrites⟩ := setLog_evtWrite (s := s)
      (l := { s.logSource source with level := (s.logSource source).level - logUnit, suppressed := 0 })
      (logSource_source s source) (logSource_at s source) ((Nat.sub_le ..).trans (logSource_level s source))
      ⟨1, 0xFE, source, (s.logSource source).first, (s.logSource source).last, (s.logSource source).suppressed,
        BitVec.ofNat 64 (s.logSource source).code⟩
    exact ⟨_, hexec, by rw [hlog], by rw [hlog], hwrites, exec_frame hexec⟩
  · obtain ⟨r, heq⟩ := writeTrace_writes (code := code) (source := source) hen hroom hfill x.toNat
    have hexec : exec (.trace code source x) s = _ := (congrArg Host.Outcome.next (if_pos (by simp [hlo, hhi]))).trans
      (congrArg Host.Outcome.next heq)
    obtain ⟨hpi, hlog, -⟩ := setLog_evtWrite (s := s) (l := { s.logSource source with drops := 0 })
      (logSource_source s source) (logSource_at s source) (logSource_level s source) r
    exact ⟨_, hexec, hpi, congrArg LogSource.drops hlog, exec_frame hexec⟩
  · have hexec : exec (.trace code source x) s = _ := (congrArg Host.Outcome.next (if_pos (by simp [hlo, hhi]))).trans
      (congrArg Host.Outcome.next (writeTrace_drops hno x.toNat))
    obtain ⟨hlog, hhost, hframe⟩ := setLog_bump (s := s)
      (l := { s.logSource source with drops := (s.logSource source).drops + 1 })
      (logSource_source s source) (logSource_at s source) (logSource_level s source) 0x20A
    exact ⟨_, hexec, congrArg LogSource.drops hlog, hhost, hframe⟩

end Sys2Proof.Machine
end

section
/-! ### Event counters, and reads that latch a high half (02 R50; 14 R463; 17 R551; 18 R573, R574) -/

namespace Sys2Proof.Machine

open Sys2Proof

/-- The state with one event counter set. -/
def State.setCounter (s : State) (n : Nat) (x : EvCounter) : State := { s with cnt := { s.cnt with ctrs := tabSet s.cnt.ctrs n x } }

section

variable (s : State) (x : EvCounter)

theorem counter_setCounter (n : Nat) : (s.setCounter n x).counter n = x := by
  simp [State.counter, State.setCounter, tabGet_tabSet_same]

theorem counter_setCounter_other {n k : Nat} (h : k ≠ n) : (s.setCounter n x).counter k = s.counter k := by
  simp [State.counter, State.setCounter, tabGet_tabSet_other _ _ h]

end

section

variable {p : Nat} {v : Word} {s : State}

theorem execArmSnap_arms (hw : s.writable p .ready = true) (harm : bitOf v 0 = true) (hclear : bitOf v 2 = false) :
    exec (.armSnap p v) s = .next { s with cnt := { s.cnt with armed := true, snapDone := false } } := by
  refine congrArg Host.Outcome.next ((if_pos (by simp [hw, harm])).trans ?_)
  rw [cntCtlWrite, if_pos harm, if_neg (by simp [hclear])]

theorem execClearAll_clears (hw : s.writable p .ready = true) (hclear : bitOf v 2 = true) (harm : bitOf v 0 = false) :
    exec (.clearAll p v) s = .next { s with cnt := { s.cnt with clearing := true } } := by
  refine congrArg Host.Outcome.next ((if_pos (by simp [hw, hclear])).trans ?_)
  rw [cntCtlWrite, if_neg (c := bitOf v 0 = true) (by simp [harm]), if_pos hclear]

theorem execCounterSourceWrite_sets (hw : s.writable p .ready = true) (n : Nat) : exec (.counterSourceWrite p n v) s =
    .next (s.setCounter n { s.counter n with source := fld v 9 0, enable := bitOf v 10, count := 0 }) :=
  congrArg Host.Outcome.next (if_pos hw)

theorem execCounterLoRead_latches (hr : s.readable p .ready = true) (c : Nat) : exec (.counterLoRead p c) s =
    .next (s.setCounter c { s.counter c with hi := BitVec.ofNat 16 ((s.counter c).count.toNat / 2 ^ 32) }) :=
  congrArg Host.Outcome.next (if_pos hr)

end

/-- Settles O59: CNT_CTL by the bit that is written; a counter's SEL and LO by the one counter that they change; the other reads by the
half that they latch. -/
theorem countersAndLatchingReads : Obligations.CountersAndLatchingReads := by
  refine ⟨fun p v s hw => ⟨execArmSnap_arms hw, execClearAll_clears hw, fun n => ?_⟩,
    fun p s => ⟨fun hr => ⟨congrArg Host.Outcome.next (if_pos hr), fun g hlo hhi => ?_, fun c => ?_⟩,
      fun hr => ⟨congrArg Host.Outcome.next (if_pos hr), congrArg Host.Outcome.next (if_pos hr)⟩⟩⟩
  · have hexec := execCounterSourceWrite_sets (v := v) hw n
    refine ⟨_, hexec, ?_, ?_, ?_, ?_, fun k hk => counter_setCounter_other s _ hk, exec_frame hexec⟩
    all_goals rw [counter_setCounter]
  · exact congrArg Host.Outcome.next (if_pos (by simp [hr, hlo, hhi]))
  · have hexec := execCounterLoRead_latches hr c
    exact ⟨_, hexec, counter_setCounter s _ c, fun k hk => counter_setCounter_other s _ hk, exec_frame hexec⟩

end Sys2Proof.Machine
end

section
/-! ### Faults of fields, of Easel processors and of the module (18 R561 to R563) -/

namespace Sys2Proof.Machine

open Sys2Proof

/-! ### What a tear-down leaves of the fields -/

/-- From `s` to `t` no field goes out or comes back. -/
def State.KeepsFields (s t : State) : Prop := t.hatch.fields = s.hatch.fields

theorem State.KeepsFields.field {s t : State} (h : s.KeepsFields t) (f : Nat) : t.field f = s.field f := by
  simp only [State.field, show t.hatch.fields = s.hatch.fields from h]

theorem Frame.keepsFields {L : List Block} {s t : State} (h : Frame L s t) (hL : decide (.hatch ∈ L) = false) : s.KeepsFields t :=
  congrArg Hatch.fields (h .hatch (of_decide_eq_false hL))

theorem State.KeepsFields.foldl {α : Type} {g : State → α → State} (hg : ∀ (s : State) (a : α), s.KeepsFields (g s a)) (l : List α) (s : State) :
    s.KeepsFields (l.foldl g s) :=
  List.foldlRecOn (motive := s.KeepsFields) l g rfl fun t ht a _ => (hg t a).trans ht

theorem releaseCores_keepsFields (s : State) (j : Job) (cores : List Nat) : s.KeepsFields (s.releaseCores j cores) := by
  refine State.KeepsFields.foldl (fun u c => ?_) cores s
  exact Eq.refl u.hatch.fields

theorem dropPlace_keepsFields (s : State) (id : Nat) : s.KeepsFields (s.dropPlace id) := by
  unfold State.dropPlace
  split
  · split
    · exact Eq.refl s.hatch.fields
    · extract_lets other s1 s2
      have h1 : s.KeepsFields s1 := .foldl (fun _ _ => State.dropCtx_frame.keepsFields rfl) _ s
      exact (releaseCores_keepsFields s1 _ _).trans h1
  · exact Eq.refl s.hatch.fields

theorem endJob_keepsFields (s : State) (id : Nat) (faulted : Bool) : s.KeepsFields (s.endJob id faulted) := by
  unfold State.endJob
  split
  · exact Eq.refl s.hatch.fields
  · extract_lets s1 s2 alone streams models s3 s4
    have h1 : s.KeepsFields s1 := by
      have hdrop : s.KeepsFields (s.dropTransfers id) := State.dropTransfers_frame.keepsFields rfl
      have hplace := (dropPlace_keepsFields (s.dropTransfers id) id).trans hdrop
      have hfree (u : State) (n : Nat) : u.KeepsFields (u.freeExtents n) := State.freeExtents_frame.keepsFields rfl
      exact (hfree ..).trans ((releaseCores_keepsFields ..).trans hplace)
    have h2 : s1.KeepsFields s2 := by
      refine State.KeepsFields.foldl (fun u m => ?_) _ s1
      exact Eq.refl u.hatch.fields
    have h4 : s3.KeepsFields s4 := writeJobRecord_frame.keepsFields rfl
    have h6 : State.KeepsFields { s4 with jobs := tabErase s4.jobs id } (State.nextFrost { s4 with jobs := tabErase s4.jobs id }) :=
      State.nextFrost_frame.keepsFields rfl
    exact h6.trans (h4.trans (h2.trans h1))

theorem tearDown_keepsFields (s : State) (id rule : Nat) : s.KeepsFields (s.tearDown id rule) := by
  unfold State.tearDown State.tearDownWith
  split
  · exact Eq.refl s.hatch.fields
  next j _ =>
    extract_lets s1 s2 s3 s4
    have h1 : s.KeepsFields s1 := State.dropTransfers_frame.keepsFields rfl
    have h2 : s1.KeepsFields s2 := .foldl (fun u c => by
      dsimp only
      split <;> rfl) _ s1
    have h3 : s2.KeepsFields s3 := .foldl (fun _ _ => faultRow_frame.keepsFields rfl) _ s2
    have hadapt : s3.KeepsFields (s3.completeAdapt j stJobFault 0) := State.completeAdapt_frame.keepsFields rfl
    have h4 : s3.KeepsFields s4 := (endJob_keepsFields _ id true).trans hadapt
    have h5 : s4.KeepsFields ((s4.bump 0x206 1).writeLog 0x44 (srcOf 9 id) rule) :=
      (Frame.comp (L := [.evt, .cnt, .host]) State.writeLog_frame (by decide) (State.bump_frame.widen rfl)).keepsFields rfl
    exact h5.trans (h4.trans (h3.trans (h2.trans h1)))

theorem dropSet_keepsFields (cores : List Nat) (rule : Nat) (s : State) (m : Model) : s.KeepsFields (dropSet cores rule s m) := by
  unfold dropSet
  split
  · exact Eq.refl s.hatch.fields
  split
  · exact tearDown_keepsFields ..
  · exact tearDown_keepsFields ..
  · exact Eq.refl s.hatch.fields

theorem loseCores_keepsFields (s : State) (cores : List Nat) (rule : Nat) : s.KeepsFields (s.loseCores cores rule) := by
  unfold State.loseCores
  extract_lets s1
  exact State.KeepsFields.foldl (dropSet_keepsFields cores rule) _ s1

/-! ### FIELD_OUT (18 R561) -/

/-- The state with a field marked out, its cores lost and its jobs torn down. -/
def State.fieldLost (s : State) (f : Nat) : State :=
  let u := s.setField f { s.field f with out := true }
  ((s.jobs.map (·.2)).filter (u.inField f)).foldl (fun s j => s.tearDown j.id 561) (u.loseCores (u.fieldCoreList f) 561)

theorem execFieldOut_loses {f : Nat} {s : State} (hready : s.boot.phase = .ready) (hf : f < 84) (hin : (s.field f).out = false) :
    exec (.fieldOut f) s = .next ((s.fieldLost f).raiseAlarm 0x0B (srcOf 1 f) 0) :=
  congrArg Host.Outcome.next (if_neg (by simp [hready, hf, hin]))

theorem fieldLost_out (s : State) (f : Nat) : ((s.fieldLost f).field f).out = true := by
  have hkeep : (s.setField f { s.field f with out := true }).KeepsFields (s.fieldLost f) :=
    (State.KeepsFields.foldl (fun u (j : Job) => tearDown_keepsFields u j.id 561) _ _).trans (loseCores_keepsFields ..)
  rw [hkeep.field, State.field_setField]

theorem fieldLost_jobs {s : State} {f id : Nat} {j : Job} (hj : s.job id = some j) (hin : s.inField f j = true) :
    (s.fieldLost f).job id = none := by
  have hmem : (id, j) ∈ s.jobs := mem_of_tabGet (Option.filter_eq_some_iff.mp hj).1
  have hid : j.id = id := s.job_id hj
  rw [← hid]
  exact State.tearDowns_gone 561 (List.mem_filter.mpr ⟨List.mem_map_of_mem (f := (·.2)) hmem, hin⟩) _

/-! ### Module faults (18 R563) -/

/-- What a module fault with a cause leaves: nothing runs, restarts or transfers, and what is no part of the fault is as it was. -/
def DeadModule (s t : State) (cause : Nat) : Prop :=
  t.boot.phase = .faulted ∧ t.fault.faulted = true ∧ t.fault.cause = cause ∧ t.evt.listed 0x0D 0 ∧
  (∀ c, (t.core c).running = none) ∧ (∀ u, (t.unit u).busy = none) ∧ (∀ id x, t.stream id = some x → x.restart = none) ∧
  t.ihx.transfers = [] ∧ t.mem.queue = [] ∧ t.nv = s.nv ∧ t.part = s.part ∧ t.tb = s.tb ∧ t.proof = s.proof ∧ t.alm = s.alm

/-- The blocks of a halted module, before its fault is entered: cores, units, streams, channels and the Folio have stopped. -/
structure State.Halted (s : State) : Prop where
  cores : ∀ c, (s.core c).running = none
  units : ∀ u, (s.unit u).busy = none
  restarts : ∀ id x, s.stream id = some x → x.restart = none
  transfers : s.ihx.transfers = []
  queue : s.mem.queue = []

/-- What a change gives every entry of a table, and the default has, every key reads. -/
theorem tabMap_getD {α β : Type} (t : Tab α) {f : Nat → α → α} {d : α} {p : α → β} {b : β} (hf : ∀ k x, p (f k x) = b) (hd : p d = b)
    (k : Nat) : p ((tabGet (tabMap t f) k).getD d) = b := by
  rw [tabGet_tabMap]
  cases tabGet t k with
  | none => exact hd
  | some x => exact hf k x

theorem enterFaulted_listed (s : State) (cause : Nat) : (s.enterFaulted cause).evt.listed 0x0D 0 := raiseAlarm_listed ..

/-- A module that has halted, and enters its fault, is dead. -/
theorem State.Halted.enterFaulted {s u : State} {L : List Block} (hu : u.Halted) (hframe : Frame L s u)
    (hL : ([.nv, .part, .tb, .proof, .alm].all fun b => decide (b ∉ L)) = true) (cause : Nat) : DeadModule s (u.enterFaulted cause) cause := by
  have hkept (b : Block) (hb : b ∈ [.nv, .part, .tb, .proof, .alm]) : s.same u b :=
    hframe b (of_decide_eq_true (List.all_eq_true.mp hL b hb))
  obtain ⟨hphase, hcause, hmem⟩ := enterFaulted_faults u cause
  have hf : Frame [.boot, .evt, .fault, .cnt, .host] u (u.enterFaulted cause) := State.enterFaulted_frame
  have hhatch : (u.enterFaulted cause).hatch = u.hatch := hf .hatch (by decide)
  have hburin : (u.enterFaulted cause).burin = u.burin := hf .burin (by decide)
  have hstreams : (u.enterFaulted cause).streams = u.streams := hf .streams (by decide)
  have hihx : (u.enterFaulted cause).ihx = u.ihx := hf .ihx (by decide)
  refine ⟨hphase, ?_, hcause, enterFaulted_listed u cause, fun c => ?_, fun n => ?_, fun id x hx => ?_, ?_, ?_,
    (hf .nv (by decide)).trans (hkept .nv (by decide)), (hf .part (by decide)).trans (hkept .part (by decide)),
    (hf .tb (by decide)).trans (hkept .tb (by decide)), (hf .proof (by decide)).trans (hkept .proof (by decide)),
    (hf .alm (by decide)).trans (hkept .alm (by decide))⟩
  · rw [State.enterFaulted, State.raiseAlarm_fault]
  · rw [State.core, hhatch]
    exact hu.cores c
  · rw [State.unit, hburin]
    exact hu.units n
  · rw [State.stream, hstreams] at hx
    exact hu.restarts id x hx
  · rw [hihx, hu.transfers]
  · rw [hmem, hu.queue]

theorem moduleFault_dead (s : State) (cause : Nat) : DeadModule s (s.moduleFault cause) cause := by
  unfold State.moduleFault
  extract_lets u _ _ _ v
  have hu : Frame [.rmk, .sessions, .streams, .jobs, .ihx, .cnt, .tallies, .host] s u :=
    Frame.foldl .refl fun _ _ h => Frame.comp deadRing_frame (by decide) h
  have hv : Frame [.mem, .rmk, .sessions, .streams, .jobs, .hatch, .burin, .ihx, .cnt, .tallies, .host] u v := by
    intro b hb
    cases b
    case mem | rmk | sessions | streams | jobs | hatch | burin | ihx | cnt | tallies | host => exact absurd (by decide) hb
    all_goals rfl
  have hhalted : v.Halted := {
    cores := tabMap_getD u.hatch.cores (f := fun _ x => { x with running := none, waiting := none, since := none }) (d := Core.init)
      (p := Core.running) (fun _ _ => rfl) rfl
    units := tabMap_getD u.burin (f := fun _ b => { b with busy := none }) (d := ⟨[], [], none, false, false, false, [], []⟩)
      (p := BurinUnit.busy) (fun _ _ => rfl) rfl
    restarts := fun id x hx => by
      have hmap := tabGet_tabMap_filter u.streams (f := fun _ x => { x with restart := none, current := none }) (k := id)
        (p := fun x => x.id == id) fun _ => rfl
      obtain ⟨y, -, rfl⟩ := Option.map_eq_some_iff.mp (hmap.symm.trans hx)
      rfl
    transfers := rfl
    queue := rfl }
  exact hhalted.enterFaulted (hv.comp (fun _ h => h) (hu.widen rfl)) rfl cause

/-! ### EASEL_FAILOVER and MODULE_FAULT (18 R562, R563) -/

/-- The state with an Easel processor marked out. -/
def State.easelLost (s : State) (e : Nat) : State := { s with fault := { s.fault with easelOut := s.fault.easelOut ++ [e] } }

section

variable {s : State} {e : Nat}

/-- The first failed processor but Easel 3 gives its work to its partner. -/
theorem execEaselFailover_hands_over (hready : s.boot.phase = .ready) (he : e < 4) (h3 : e ≠ 3) (hfirst : s.fault.easelOut = []) :
    exec (.easelFailover e) s = .next (State.raiseAlarm { s with fault := { s.fault with
      easelOut := [e]
      repeatPlan := s.fault.repeatPlan || s.tb.frameAt + s.frameSubs - s.tb.sub < usToSubs 200 } }
      0x0C (srcOf 10 e) (easelPartner e)) := by
  refine congrArg Host.Outcome.next ((if_neg (by simp [hready, he, hfirst])).trans ?_)
  dsimp only
  rw [if_neg h3, if_neg (by simp [hfirst]), hfirst]
  rfl

/-- Easel 3 takes the module with it. -/
theorem execEaselFailover_third (hready : s.boot.phase = .ready) (hout : 3 ∉ s.fault.easelOut) :
    exec (.easelFailover 3) s = .next ((s.easelLost 3).moduleFault 4) :=
  congrArg Host.Outcome.next (if_neg (by simp [hready, hout]))

/-- So does a second processor. -/
theorem execEaselFailover_second (hready : s.boot.phase = .ready) (he : e < 4) (hout : e ∉ s.fault.easelOut) (h3 : e ≠ 3)
    (hsecond : s.fault.easelOut ≠ []) : exec (.easelFailover e) s = .next ((s.easelLost e).moduleFault 5) :=
  congrArg Host.Outcome.next ((if_neg (by simp [hready, he, hout])).trans ((if_neg h3).trans (if_pos (by simp [hsecond]))))

theorem execModuleFault_faults {c : Nat} (hready : s.boot.phase = .ready) (hlo : 1 ≤ c) (hhi : c ≤ 5) :
    exec (.moduleFault c) s = .next (s.moduleFault c) := congrArg Host.Outcome.next (if_pos (by simp [hready, hlo, hhi]))

end

/-- Settles O37: a field by what its tear-downs leave of it; an Easel processor by whether its partner may take over; a module fault by
the halt before it. -/
theorem moduleFaults : Obligations.ModuleFaults := by
  refine ⟨fun f s hready hf hin => ?_, fun e s hready he hout => ?_, fun c s hready hlo hhi =>
    ⟨_, execModuleFault_faults hready hlo hhi, moduleFault_dead s c⟩⟩
  · have hexec := execFieldOut_loses hready hf hin
    refine ⟨_, hexec, ?_, raiseAlarm_listed .., fun id j hj hjf => ?_, exec_frame hexec⟩
    · rw [State.field_raiseAlarm, fieldLost_out]
    · rw [State.job_raiseAlarm, fieldLost_jobs hj hjf]
  · by_cases h3 : e = 3
    · subst h3
      exact ⟨_, execEaselFailover_third hready hout, fun h => absurd rfl h, fun _ => moduleFault_dead (s.easelLost 3) 4,
        fun h => absurd rfl h⟩
    by_cases hfirst : s.fault.easelOut = []
    · refine ⟨_, execEaselFailover_hands_over hready he h3 hfirst, fun _ _ => ⟨?_, raiseAlarm_listed .., ?_, ?_⟩,
        fun h => absurd h h3, fun _ h => absurd hfirst h⟩
      · rw [State.raiseAlarm_fault]
      · rw [State.raiseAlarm_boot]
      · rw [State.raiseAlarm_fault]
        simp
    · exact ⟨_, execEaselFailover_second hready he hout h3 hfirst, fun _ h => absurd h hfirst, fun h => absurd h h3,
        fun _ _ => moduleFault_dead (s.easelLost e) 5⟩

end Sys2Proof.Machine
end

section
/-! ### A Thaw from a save area with empty tables (11 R334 to R338, R346) -/

namespace Sys2Proof.Machine

open Sys2Proof

/-! ### What a reader finds in a header with zeros behind it -/

section

variable {h t : List Byte} {off n : Nat}

theorem num_append_of_le (hle : off + n ≤ h.length) : num (h ++ t) off n = num h off n := by
  rw [num, num, List.drop_append_of_le_length (by omega), List.take_append_of_le_length (by rw [List.length_drop]; omega)]

theorem zeroAt_append_of_le (hle : off + n ≤ h.length) : zeroAt (h ++ t) off n = zeroAt h off n := by
  rw [zeroAt, zeroAt, List.drop_append_of_le_length (by omega), List.take_append_of_le_length (by rw [List.length_drop]; omega)]

theorem zeroAt_append_zeros (k : Nat) (hle : h.length ≤ off) : zeroAt (h ++ zeros k) off n = true := by
  rw [zeroAt, List.drop_append, List.drop_of_length_le hle, List.nil_append, zeros, List.drop_replicate, List.take_replicate]
  exact List.all_eq_true.mpr fun x hx => beq_iff_eq.mpr (List.eq_of_mem_replicate hx)

end

theorem tableBytes_nil (size : Nat) : tableBytes size [] = zeros size := by
  simp [tableBytes, bytesAt, zeros, List.map_const']

/-- The digest of a sealed save area is that of its own bytes. -/
theorem sealed_digest (m : List Byte) (a : SaveArea) (id : Nat) :
    (SaveArea.sealed m a id).digest = Config.shake256 (saveBody m (SaveArea.sealed m a id) id) 64 := rfl

/-! ### The save area -/

/-- An image that declares Summer, and no more. -/
def summerImage : List Byte := zeros 0x49 ++ [2]

/-- A save area of job 5 under `summerImage`, not sealed yet: no rows, no extents, nothing parked. -/
def unsealedSave : SaveArea where
  svflags := 0
  graphHash := imgHash summerImage
  seed := 0
  key := 0
  session := 0
  handle := 7
  season := 1
  frame := 0
  optStep := 0
  workFrame := 0
  cores := 0
  rows := []
  extents := []
  issued := []
  walks := []
  again := []
  parking := []
  digest := []

/-- The same with its digest. -/
def emptySave : SaveArea := SaveArea.sealed summerImage unsealedSave 5

theorem emptySave_digest : emptySave.digest = Config.shake256 (saveBody summerImage emptySave 5) 64 := by
  unfold emptySave
  rw [← sealed_digest]

/-- Its header. -/
def emptyHeader : List Byte := saveHeader emptySave 5 0 0

theorem emptyHeader_length : emptyHeader.length = 0x100 := by decide +kernel

theorem saveBody_emptySave : saveBody summerImage emptySave 5 = emptyHeader ++ zeros 0x1FF00 := by
  have hbody : saveBody summerImage emptySave 5 =
      emptyHeader ++ tableBytes 16384 [] ++ tableBytes 65536 [] ++ tableBytes 32768 [] ++ zeros 16128 ++ [] := rfl
  have hsum : 16384 + 65536 + 32768 + 16128 = 0x1FF00 := by decide
  rw [hbody, ← hsum]
  simp only [tableBytes_nil, zeros, List.append_nil, List.append_assoc, List.replicate_add]

/-- What a header with empty tables, and the zeros behind it, say of a save area (11 R335). -/
structure EmptyHeader (h : List Byte) : Prop where
  length  : h.length = 0x100
  magic   : num h 0 4 = 0x4B465A53
  version : num h 5 1 = 1 ∧ num h 4 1 = 0
  counts  : num h 0x5C 2 = 0 ∧ num h 0x5E 2 = 0 ∧ num h 0x76 2 = 0 ∧ num h 0x78 4 = 0
  fields  : num h 6 2 < 8 ∧ num h 0x54 2 < 4096 ∧ num h 0x56 2 < 1024 ∧ num h 0x58 4 < 1048576
  unused  : zeroAt h 0x67 1 = true ∧ zeroAt h 0x7C 68 = true

section

variable {h : List Byte} (hh : EmptyHeader h)
include hh

theorem EmptyHeader.passes_saveCheck1 : saveCheck1 (h ++ zeros 0x1FF00) = true := by
  obtain ⟨hlength, hmagic, -, ⟨hrows, hextents, hparked, hdata⟩, -, -⟩ := hh
  have hzeros (k : Nat) : (zeros k).length = k := List.length_replicate
  simp [saveCheck1, num_append_of_le, hlength, hmagic, hrows, hextents, hparked, hdata, hzeros]

theorem EmptyHeader.passes_saveCheck2 (k : Nat) : saveCheck2 (h ++ zeros k) = true := by
  obtain ⟨hlength, -, -, ⟨hrows, hextents, hparked, -⟩, hfields, hreserved⟩ := hh
  simp [saveCheck2, num_append_of_le, zeroAt_append_of_le, zeroAt_append_zeros, hlength, hfields, hreserved, hrows, hextents,
    hparked]

end

theorem emptyHeader_empty : EmptyHeader emptyHeader where
  length := emptyHeader_length
  magic := by decide +kernel
  version := by decide +kernel
  counts := by decide +kernel
  fields := by decide +kernel
  unused := by decide +kernel

/-- Of checks that all hold none fails. -/
theorem firstFailed_eq_none {l : List (Unit → Bool)} (h : ∀ c ∈ l, c () = true) (n : Nat) : firstFailed n l = none := by
  induction l generalizing n with
  | nil => rfl
  | cons c l ih =>
    obtain ⟨hc, hl⟩ := List.forall_mem_cons.mp h
    rw [firstFailed, if_pos hc, ih hl]

/-- A save area whose bytes are such a header and zeros passes a Thaw's checks if its seal, its graph, its owner and the Season do
(11 R338). -/
theorem saveReason_of_empty {m : List Byte} {a : SaveArea} {j : Job} {season : Nat} {h : List Byte} (hh : EmptyHeader h)
    (hbody : saveBody m a j.id = h ++ zeros 0x1FF00)
    (hempty : a.rows = [] ∧ a.extents = [] ∧ a.issued = [] ∧ a.parking = [])
    (hdigest : a.digest = Config.shake256 (saveBody m a j.id) 64) (hgraph : a.graphHash = imgHash m)
    (howner : a.session = j.session ∧ a.handle = j.handle) (hseason : (imgSeasons m).testBit season = true) :
    saveReason m a j season = none := by
  obtain ⟨hrows, hextents, hissued, hparking⟩ := hempty
  have hversion : num (h ++ zeros 0x1FF00) 5 1 = 1 ∧ num (h ++ zeros 0x1FF00) 4 1 = 0 := by
    simp [num_append_of_le, hh.length, hh.version]
  -- The definition is opened by itself, not applied: applied, the kernel would first compute its checks.
  suffices hall : ∀ check, check = saveReason → check m a j season = none from hall _ rfl
  intro check hcheck
  delta saveReason at hcheck
  subst hcheck
  beta_reduce
  rw [hbody] at hdigest ⊢
  extract_lets b
  rw [firstFailed_eq_none, hrows]
  · rfl
  · simp only [List.forall_mem_cons]
    refine ⟨hh.passes_saveCheck1, hh.passes_saveCheck2 _, beq_iff_eq.mpr hdigest, by simp [b, hversion], beq_iff_eq.mpr hgraph,
      by simp [howner], ?_, ?_, ?_, by simp⟩
    · simp [doneKeys, hissued, hrows, hextents, hparking]
    · simp [hparking]
    · simp [hrows, hseason]

/-- The save area passes every check of a Thaw in Summer. -/
theorem saveReason_emptySave {j : Job} (hid : j.id = 5) (hsession : j.session = 0) (hhandle : j.handle = 7) :
    saveReason summerImage emptySave j 1 = none :=
  saveReason_of_empty emptyHeader_empty (hid ▸ saveBody_emptySave) ⟨rfl, rfl, rfl, rfl⟩ (hid ▸ emptySave_digest) rfl
    ⟨hsession.symm, hhandle.symm⟩ (by decide +kernel)

/-! ### The Thaw -/

/-- A Thaw whose save area passes: the job is restored, its switch charged, and the requests to Frost that wait are taken. -/
def State.thawed (s : State) (job : Nat) (m : List Byte) (j : Job) (a : SaveArea) : State :=
  let u := (s.restoreSave m j { a with parking := a.parking.map Park.atThaw }).charge j.session (some job)
    { Account.zero with saveKeep := 131072 + a.dataBytes m, thaws := 1 }
  (if j.frostNext then u.requestFrost job else u).nextFrost.bump 0x203 1

section

variable {s : State} {job : Nat} {j : Job} {m : Model} {a : SaveArea} (hj : s.job job = some j) (hm : s.model j.handle = some m)
  (hsave : j.save = some a) (hstate : j.state = .thawing) (hcores : ∀ c ∈ j.cores, (s.core c).faulted = false)
  (hserved : s.switchServed j = true) (hcredits : s.hasCredits j (a.parking.filter (·.pstate = 0)).length = true)
  (hpass : saveReason m.image a j s.tb.season = none)
include hj hm hsave hstate hcores hserved hcredits hpass

theorem execThaw_passes : ∃ ns, exec (.thaw job) s = .next ((s.thawed job m.image j a).writeTrace 0x81 (srcOf 9 job) ns) := by
  have hrefused : (j.state != .thawing || j.cores.any (fun c => (s.core c).faulted) || !s.switchServed j
      || !s.hasCredits j (a.parking.filter (·.pstate = 0)).length) = false := by
    have hsound : j.cores.any (fun c => (s.core c).faulted) = false := by simpa using hcores
    simp [hstate, hsound, hserved, hcredits]
  let fields := fieldBytes m.image j.cores a.extents
  have hexec : exec (.thaw job) s = execThaw job s := rfl
  refine ⟨s.saveNs fields (fields.sum + 131072 + 128 * a.rows.length) j.switch.2.1 + 5000, hexec.trans ?_⟩
  delta execThaw
  rw [hj]
  dsimp -zeta only
  rw [hm, hsave]
  dsimp -zeta only
  rw [hrefused, if_neg Bool.false_ne_true, hpass]
  rfl

/-- What the statement says of a job that no Frost is asked of. -/
theorem thawed_bound (h : Obligations.FrostAndThaw) (hnext : j.frostNext = false) :
    ∃ k, (s.thawed job m.image j a).job job = some k ∧ k.state = .bound := by
  obtain ⟨ns, hthawed⟩ := execThaw_passes hj hm hsave hstate hcores hserved hcredits hpass
  obtain ⟨-, -, hthaw⟩ := h
  -- What the checks are does not matter here, and no elaborator is to compute them.
  generalize saveReason = check at hthaw hpass
  have hbound := hthaw job j m a s hj hm hsave hstate hcores hserved hcredits
  rw [hpass] at hbound
  obtain ⟨t, hexec, ⟨k, hk, -, -, -, -, hstate, -⟩, -⟩ := hbound
  obtain rfl := Host.Outcome.next.inj (hthawed.symm.trans hexec)
  exact ⟨k, State.job_congr (State.writeTrace_jobs ..) ▸ hk, hstate hnext⟩

end

/-! ### A job table with a stray entry -/

/-- Fill job 5, which Thaws from `emptySave` and has no Frost asked of it. -/
def thawing5 : Job where
  id := 5
  fill := true
  kind := .streams
  state := .thawing
  session := 0
  handle := 7
  rate := 1
  cores := []
  more := []
  maxCores := 1
  rows := []
  windows := []
  shared := []
  pairs := []
  seed := 0
  key := 0
  optStep := 0
  steps := 0
  workFrame := 0
  output := []
  input := []
  save := some emptySave
  remotes := []
  credits := 0
  nextTag := 0
  home := none
  away := none
  account := Account.zero
  issued := []
  plans := []
  work := []
  walks := []
  again := []
  condDone := false
  lastRan := 0
  waits := 0
  switch := (0, 0, 0)
  frostNext := false
  ik := (0, 0, 0)

/-- A record of job 5 that stands under number 7, is bound and is asked to Frost. -/
def stray5 : Job := { thawing5 with state := .bound, save := none, frostNext := true }

/-- Job 5 Thaws, and the table holds the stray record beside it. -/
def strayTable : State :=
  { State.reset with
    models := [(7, ⟨7, 0, summerImage, [], 1, none, false, .cold, 13, 0⟩)]
    jobs := [(5, thawing5), (7, stray5)] }

/-- The stray record's request is taken of the job that has just Thawed. -/
theorem thawed_strayTable : (((strayTable.thawed 5 summerImage thawing5 emptySave).job 5).map (·.state)) = some .frosting := by
  decide +kernel

/-- Refutes O44: its third part says of every state that a job which no Frost is asked of is bound behind its Thaw. The Thaw's end takes
the request that waits next (11 R346): it looks through the records of the job table, and takes the one it finds by the ID in it. In
`strayTable` a record under number 7 carries ID 5, is bound and is asked to Frost: job 5 Thaws and, at once, is to Frost again. The
statement does not ask for a table in which every record stands under its own ID. -/
theorem not_frostAndThaw : ¬ Obligations.FrostAndThaw := by
  intro h
  have hpass : saveReason summerImage emptySave thawing5 strayTable.tb.season = none := saveReason_emptySave rfl rfl rfl
  obtain ⟨k, hk, hbound⟩ :=
    thawed_bound (s := strayTable) (job := 5) (j := thawing5) rfl rfl rfl rfl (fun _ hc => nomatch hc) rfl rfl hpass h rfl
  have hfrosting := thawed_strayTable
  rw [hk, Option.map_some, hbound] at hfrosting
  cases hfrosting

end Sys2Proof.Machine

end
